-- ==== Sys2Proof/Word.lean ====
section
/-! DEFINITION. The word types and the two plain containers: a table keyed by numbers (absent keys read as a
default the reader names) and byte memory in one canonical form. -/

namespace Sys2Proof

abbrev Byte := BitVec 8
abbrev W32 := BitVec 32
abbrev W64 := BitVec 64

/-- A table by number: what the spec indexes by core, engine, channel, object, ... A key that is not listed stands
for the default its reader names. -/
abbrev Tab (α : Type) := List (Nat × α)

/-- Byte memory: addresses strictly rising, no entry equal to what an unlisted address reads as. -/
abbrev Mem := List Host.Cell

end Sys2Proof
end

