-- ==== Sys2Proof/Syntax.lean ====
section
/-! DEFINITION. The commands of the block: one constructor per row of spec/opcode_table.json. -/

namespace Sys2Proof

/-- A session of R270: 0 the PCIe host, 1 the EtherCAT mailbox, 2 + n the UDP session n (n = 0-7). -/
abbrev Ses := Nat

/-- The crossings of R303 that a reset closes. -/
inductive Crossing where
  /-- between a router (or the hub interconnect) and its core -/
  | core (c : Nat)
  /-- the two ends of die d's hub bridge -/
  | die (d : Nat)
  /-- hub fabric and management controller -/
  | mgmt
  deriving DecidableEq, Repr

/-- The header fields of a received Flue frame (Table 6.7) and whether its CRC holds. -/
structure FlueHdr where
  crcOk : Bool
  first : Bool
  last : Bool
  lines : Nat
  nak : Bool
  role : Nat
  seq : Nat
  ack : Nat
  creditRet : Nat
  aux : Nat
  deriving DecidableEq, Repr

/-- The message header of Table 6.8 (MTYPE 0 data, 1 credit, 2 delivery result). -/
structure FlueMsg where
  destCtx : Nat
  destLcore : Nat
  destEpoch : Nat
  srcCtx : Nat
  srcLcore : Nat
  srcEpoch : Nat
  channel : Nat
  len : Nat
  mtype : Nat
  mseq : Nat
  aux : Nat
  deriving DecidableEq, Repr

/-- One entry of an EPOCH frame (R178). -/
structure EpochEntry where
  ctx : Nat
  lcore : Nat
  epoch : Nat
  deriving DecidableEq, Repr

/-- The input events of Table 8.2. -/
inductive TrkInput where
  /-- a decimated sample of a measurement channel, or a conversion of an auxiliary input (sources 1, 2) -/
  | sample
  /-- the phase-0 edge of CSYNC, SYNC0 or SYNC1 (sources 3 to 5) -/
  | edge
  /-- one A/B edge of an encoder, forward or reverse (source 6) -/
  | count (forward : Bool)
  /-- an encoder Z edge: phase 0 (source 6) -/
  | index
  /-- A and B changed in one sample (an input fault of source 6) -/
  | skip
  /-- no edge or event within 2 / F_MIN (an input fault of sources 3 to 5) -/
  | missing
  deriving DecidableEq, Repr

/-- A CoE mailbox request (R258, Table 10.2). -/
inductive MailReq where
  | upload (idx sub : Nat)
  | download (idx sub : Nat) (data : List Byte)
  | completeUpload (idx sub : Nat)
  | completeDownload (idx sub : Nat) (values : List (List Byte))
  | odList
  | objectDescription (idx : Nat)
  | entryDescription (idx sub : Nat)
  /-- SDO block transfer, EoE, FoE, SoE, AoE, VoE: not supported -/
  | unsupported
  deriving DecidableEq, Repr

/-- Where a die sensor's reading has come to (R347): at least 5 K below the grade's maximum, less than 5 K below it, above it. -/
inductive Heat where
  | cool
  | near
  | hot
  deriving DecidableEq, Repr

/-- What the scrubber finds in a codeword (R311, R314). -/
inductive EccFinding where
  | clean
  | correctable
  | uncorrectable
  deriving DecidableEq, Repr

/-- What a UDP request carries beside its session and operands (Table 10.10, R269): the port it came in at, sequence number, tag. -/
structure UdpHdr where
  port : Nat
  seq : Nat
  tag : List Byte
  deriving DecidableEq, Repr

/-- An OPEN message: the port it came in at and its SEQ. -/
structure UdpOpening where
  port : Nat
  seq : Nat
  deriving DecidableEq, Repr

/-- A completion of the NVMe target (Table 7.4): its queue, the command's identifier, the status and the result value. -/
structure NvmeResp where
  queue : Nat
  cid : Nat
  status : Nat
  value : Nat
  deriving DecidableEq, Repr

/-- A C2HData PDU: the queue and the command its bytes belong to. -/
structure NvmeData where
  queue : Nat
  cid : Nat
  bytes : List Byte
  deriving DecidableEq, Repr

/-- The commands. The instruction a plan operation issues is the word its core's sequencer fetches (R135); its
command names the core. -/
inductive Instr where
  -- plan instruction set (05)
  | nop (c : Nat)
  | halt (c : Nat)
  | jmp (c : Nat)
  | br (c : Nat)
  | loop (c : Nat)
  | setk (c : Nat)
  | ldk (c : Nat)
  | batch (c : Nat)
  | endb (c : Nat)
  | fence (c : Nat)
  | mvm (c : Nat)
  | drain (c : Nat)
  | dmm (c : Nat)
  | vop (c : Nat)
  | load (c : Nat)
  | store (c : Nat)
  | send (c : Nat)
  | recv (c : Nat)
  | sig (c : Nat)
  | wait (c : Nat)
  | waitt (c : Nat)
  | waitph (c : Nat)
  | emit (c : Nat)
  | log (c : Nat)
  | faultPath (c : Nat)
  -- engine, tiles, DOU, mesh, sync (02, 04)
  | readSlot (c e : Nat)
  | tileWriteCommit (c op : Nat)
  | drainStart (c op : Nat)
  | drainComplete (c op : Nat)
  | douOpStart (c : Nat)
  | douOpComplete (c : Nat)
  | moveComplete (c op : Nat)
  | frameWindowWrite (c w : Nat)
  | dataMessage (src dst : Nat)
  | credit (src dst : Nat)
  | deliveryResult (c op : Nat)
  | syncUpdate (obj : Nat)
  | syncResponse (c : Nat)
  | crossingReopen (x : Crossing)
  | hostLocalWrite (c off : Nat) (data : List Byte)
  | corrCommit (c e : Nat)
  | corrCommitEffect (c e : Nat)
  | anaCommit (c : Nat)
  | anaCommitEffect (c : Nat)
  | repairMapWrite (c e v : Nat)
  -- engine fidelity (03)
  | trackUpdate (c e : Nat)
  | tePersist
  | testRead (c e : Nat)
  | testRoundComplete (c e : Nat)
  | healthScore (c e : Nat)
  | surveySlice (c e b : Nat)
  | repairSlice (c e b : Nat)
  | columnRepair (c e col : Nat)
  | engineExchange (c e : Nat)
  | retireEngine (ses : Ses) (c e : Nat)
  | retireColumn (ses : Ses) (c e col : Nat)
  | surveyNow (ses : Ses) (c e : Nat)
  | defEntry (ses : Ses)
  -- contexts and weight images (06, 07)
  | ctxLoadEvaluation
  | loadCmd (ses : Ses) (ctx src : Nat)
  | install (ses : Ses) (ctx src : Nat) (auto : Bool)
  | eclose (ses : Ses) (ctx when_ : Nat)
  | abort (ses : Ses) (ctx : Nat)
  | start (ses : Ses) (ctx : Nat)
  | stop (ses : Ses) (ctx : Nat)
  | unload (ses : Ses) (ctx : Nat)
  | forceStart (ses : Ses) (ctx : Nat)
  | staged
  | planSectionEnd
  | pushTail (v : Nat)
  | capsuleResp (resp : NvmeResp)
  | c2hData (data : NvmeData) (digestOk : Bool)
  | icResp
  | c2hTermReq
  | fetchTimeout
  | fetchReconnect
  | keepAlive
  | blockReady (ses : Ses) (idx : Nat)
  | pulseGroup (c e : Nat)
  | damperGrant (c e : Nat)
  | engineProgrammed (c e : Nat)
  | bankVerified (ctx : Nat)
  | eclosionBegin (ctx : Nat)
  | arm (ctx c : Nat)
  | disarm (ctx : Nat)
  | commit (ctx : Nat)
  | bankRetire (ctx : Nat)
  | engineVerify (c e : Nat)
  | contextAutostart (ctx : Nat)
  | coreReplace (ses : Ses) (c : Nat)
  | coreReplaceStart (die : Nat)
  | coreReplaceSwitch (die : Nat)
  -- Flue links and mirroring (06)
  | hello (p : Nat) (h : FlueHdr) (moduleId remotePort mirrorRole : Nat)
  | idle (p : Nat) (h : FlueHdr)
  | message (p : Nat) (h : FlueHdr) (m : FlueMsg) (payload : List Byte)
  | epoch (p : Nat) (h : FlueHdr) (entries : List EpochEntry)
  | mirrorFrame (p : Nat) (h : FlueHdr) (group stamp seq : Nat) (frame : List Byte)
  | takeover (p : Nat) (h : FlueHdr)
  | flueRetrain (p : Nat)
  | flueDown (p : Nat)
  | mirrorKeepalive
  | mirrorTimeout
  | mirrorCmdHandover (ses : Ses)
  | mirrorCmdTakeover (ses : Ses)
  | mirrorRelease
  -- time and phase (08)
  | referenceEvent (refTime : Nat)
  | sourceLost
  | stepReq (ses : Ses) (v : Int)
  | latch (n : Nat) (dcTime : Nat)
  | trackerUpdate (t : Nat)
  | trackerInputEvent (t : Nat) (ev : TrkInput)
  | sentWdExpiry (c : Nat)
  -- measurement and outputs (09)
  | mclkWindow (pin edges : Nat)
  | channelFault (ch cause : Nat)
  | channelFaultExit (ch : Nat)
  | decimatedResult (ch : Nat) (bits : List Bool)
  | comparator (ch : Nat) (bits : List Bool)
  | auxConversion (a code : Nat)
  | pfail
  | frameForm (g : Nat)
  | ringFreeze (r : Nat)
  | ringCtrl (ses : Ses) (r v : Nat)
  | sampleInstant (ch : Nat)
  | dacWrite (ses : Ses) (ch code : Nat)
  | fastUpdate (ch : Nat)
  | dacClrNLow
  | dacClrNHigh
  | short (ch : Nat)
  | dacRelease (ses : Ses) (ch : Nat)
  | dacEnterFault (ses : Ses) (ch : Nat)
  | rangeClampEnd (ch : Nat)
  | handoverClampEnd (ch : Nat)
  | railFault
  | tripTick
  | tripCmd (ses : Ses) (n : Nat)
  | tripMinOnExpiry (n : Nat)
  | faultCauseWrite (ses : Ses) (v : Nat)
  -- object dictionary, host interfaces (10)
  | mailboxRequest (r : MailReq)
  | alStateRequest (target : Nat)
  | pdoSnapshot
  | rxpdoApply (values : List Nat)
  | bar0Access (write : Bool) (off width value : Nat)
  | bar2Access (write : Bool) (addr len : Nat) (data : List Byte)
  | odAbort
  /-- LONG_CTRL [0] written, with LONG_SEL as the host has set it -/
  | longRead (idx sub : Nat)
  /-- LONG_CTRL [1] written, with LONG_SEL and LONG_DATA as the host has set them -/
  | longWrite (idx sub : Nat) (data : List Byte)
  /-- DMA_TAIL written, with DMA_BASE and DMA_SIZE as the host has set them -/
  | dmaTail (k base size v : Nat)
  /-- the descriptor at DMA_HEAD, the bytes at its host address where it moves them to the device, a host bus error -/
  | dmaDescriptor (k : Nat) (desc host : List Byte) (busError : Bool)
  | udpOpen (o : UdpOpening)
  | udpClose (n : Nat) (h : UdpHdr)
  | udpRead (n : Nat) (h : UdpHdr) (idx sub count : Nat)
  | udpWrite (n : Nat) (h : UdpHdr) (idx sub : Nat) (values : List (List Byte))
  | authBegin (n : Nat) (h : UdpHdr) (slot : Nat)
  | authProve (n : Nat) (h : UdpHdr) (proof : List Byte)
  | memRead (n : Nat) (h : UdpHdr) (addr len : Nat)
  | memWrite (n : Nat) (h : UdpHdr) (addr : Nat) (data : List Byte)
  | udpKeepalive (n : Nat) (h : UdpHdr)
  | sessionTimeout (n : Nat)
  | authSlot (ses : Ses) (slot : Nat)
  | authResponse (ses : Ses) (proof : List Byte)
  | nonceLapse (ses : Ses)
  | authLockoutEnd (master : Nat)
  | authDrop (ses : Ses) (level : Nat)
  | keyWrite (ses : Ses) (data : List Byte)
  | setCommit (ses : Ses) (when_ mark ctx : Nat)
  | setCommitEffect
  | discard (ses : Ses)
  | claim (ses : Ses)
  | yieldClaim (ses : Ses)
  | shadowReloadDone
  | objectWrite (ses : Ses) (idx sub : Nat) (data : List Byte)
  | masterResume (ses : Ses) (m : Nat)
  | masterDrop (ses : Ses) (m : Nat)
  | calWrite (ses : Ses) (addr : Nat) (data : List Byte)
  | calRestore (ses : Ses) (v : Nat)
  | counterPersist
  | fwLoad (ses : Ses)
  | fwSwitch (ses : Ses)
  | restoreDefaults (ses : Ses)
  | fwSwitchAbandon
  | telemetryDatagram
  -- clocks, power, reset (11, 13)
  | referenceLost
  | referencePresent
  | lockLoss (g : Nat)
  | dividerStep (dom : Nat)
  | pllReturn (g : Nat)
  | watch (ses : Ses)
  | diesDown (ses : Ses)
  | diesUp (ses : Ses)
  | watchWake
  | coreTurnOn (c : Nat)
  | diePowerOn (d : Nat)
  | powerGood
  | powerGoodLoss
  | resetN
  | resetCmdModule (ses : Ses)
  | resetCmdDie (ses : Ses) (d : Nat)
  | resetCmdCore (ses : Ses) (c : Nat)
  | managementWatchdog
  | pcieReset
  | vddCoreLoss (d : Nat)
  | vddCoreReturn (d : Nat)
  | vddProgLoss
  | vddProgReturn
  | vddOptValid
  -- service life (12)
  | scrubAccess (addr : Nat) (found : EccFinding)
  | scrubPass (late : Bool)
  | bridgeReplay (b : Nat)
  | bridgeRetrain (b : Nat)
  | record
  | sortRelease
  | tokenRefill (bucket : Nat)
  | ashFreeze (ses : Ses)
  | ashUnfreeze (ses : Ses)
  | freezeMaxExpiry
  | checkpointComplete
  | clearChal (ses : Ses)
  | ashClear (ses : Ses) (slot : Nat) (proof : List Byte)
  -- the table's later rows
  | gtcReachesTarget (c : Nat)
  | trackerForcedCommit (c e : Nat)
  | surveyOverdue (c e b : Nat)
  | flueLanesTrained (p : Nat)
  | bridgeRetrained (b : Nat)
  | pllRelock (g : Nat)
  | pfailDeassert
  | thermN (sensor : Nat) (heat : Heat)
  | analogueRailReturn
  | vddOptLoss
  | fwImageWritten
  | fwBankServing
  | ashClearComplete
  | lostConnection
  | ethLinkState (p : Nat) (up : Bool)
  | malformedMessage (p : Nat)
  | outOfSubsetPdu
  deriving DecidableEq, Repr

end Sys2Proof
end

