-- ==== Sys2Proof/Decode.lean ====
section
/-! DEFINITION. The decoder. The table gives no row bits: the module's commands are writes, messages and events, and
the words a plan holds are read by its core's sequencer (Machine/Plan.lean). -/

namespace Sys2Proof

/-- The command a word spells: no row of the table has bits, so no word spells one. -/
def decodeTableWord (_nbits _w : Nat) : Option Instr := none

end Sys2Proof
end

