-- ==== Sys2Proof/Config.lean ====
section
/-! DEFINITION. What the spec leaves open, as constants with no body: the free values. Nothing in Lean can
evaluate one, so a statement about a free value holds whatever it is. -/

namespace Sys2Proof.Config

/-- The error of one converter code, in codes, beside the code its column's charge gives (Table 3.1: read noise and converter
noise, which have no bound). Drawn anew at each conversion. -/
opaque codeError : Nat → Int

/-- Programming error of a device, in 10^-6 level before its cut at 6 % of Gmax; its drift exponent, in 10^-6 before its cut to
0-0.080; its conductance at level 0, in 10^-6 level before its cut to 0.02 uS (Table 3.1). By engine, programming and device. -/
opaque progError : Nat → Nat → Nat → Int
opaque driftExponent : Nat → Nat → Nat → Int
opaque zeroLevel : Nat → Nat → Nat → Int

/-- Gain residual of a column in 10^-6 and its offset residual in 10^-3 LSB (Table 3.1). By engine and column. -/
opaque columnGain : Nat → Nat → Int
opaque columnOffset : Nat → Nat → Int

/-- Temperature residual of an engine in 10^-6, before its cut at 0.2 % (Table 3.1). By engine and read. -/
opaque temperature : Nat → Nat → Int

/-- Whether a device sticks at a programming: 0 it does not, 1 at level 0, more at one of the levels 12 to 15 (Table 3.1). By engine,
programming and device. -/
opaque sticks : Nat → Nat → Nat → Nat

/-- The error of a device-mode code beside the code the device's conductance gives (R85: read and converter noise). -/
opaque levelError : Nat → Int

/-- Where a pulse takes a device that does not stick: the code it reads at the verify read that follows (R204). -/
opaque pulsedCode : Nat → Int

/-- Sigmoid, tanh, GELU and SiLU of Table 4.3 (codes 4 to 7), given only to a maximum error. -/
opaque activation : Nat → W32 → W32

/-- exp of Table 4.5 below its overflow point, given to 2 ulp. -/
opaque vexp : W32 → W32

/-- The reciprocal square root of a positive number of Table 4.5, given to 2 ulp. -/
opaque vrsqrt : W32 → W32

/-- A fresh nonce byte (R271, R329): the n-th byte the device draws. -/
opaque nonceByte : Nat → Byte

/-- Ovdun's Vendor key (slot 0, R272), whose bytes the spec does not give. -/
opaque vendorKeyByte : Nat → Byte

/-- Whether a firmware image carries a valid Ovdun ECDSA P-384 signature (R282): the key is not in the spec. -/
opaque firmwareSigned : List Byte → Bool

/-- The version word a firmware image carries (FW_VERSION, Table 10.13): its place in the image is not in the spec. -/
opaque firmwareVersion : List Byte → Nat

/-- Whether a firmware bank passes its self-check at a switch (R282). -/
opaque firmwareSelfCheck : Nat → Bool

/-- Whether a core passes its power-on self-test (R319): the n-th test. -/
opaque coreSelfTest : Nat → Bool

/-- What a counter of the dictionary reads after it passes the largest number of its type, where the spec does not
say that it stops there: counter key, number of events past the maximum. -/
opaque counterOverflow : Nat → Nat → Nat

/-- The pilot's learned rate error in ppb, as the GTC uses it in PILOT (R213, Table 8.3). -/
opaque pilotRate : Nat → Int

/-- The measured pilot error PILOT_PPM of generator g (Table 11.8). -/
opaque pilotPpm : Nat → Int

/-- What a read returns from a place the spec lists as readable but gives no value: serial number, MAC addresses,
revisions (Tables 10.3 and 10.13), by dictionary key. -/
opaque identity : Nat → Nat

/-- Bytes of the strings the spec names but does not give (hardware and software version, host NQN), by key. -/
opaque identityString : Nat → List Byte

/-- The frequency, in mHz, and phase error a mains tracker's loop finds at an input event (R220 gives no loop law). -/
opaque mainsFreq : Nat → Int
opaque mainsError : Nat → Int

/-- A converter trim word of an engine (Table 10.12): it has no nominal value (R304). -/
opaque converterTrim : Nat → Nat

/-- What becomes of data that crosses a RATIO boundary whose ratio is not met (R290): lost, repeated or passed. -/
opaque ratioFate : Nat → Nat

/-- Word 0 of the record of an error in a flit, which has no system address (R312, Table 12.4). -/
opaque flitWord : Nat → Nat

/-- Whether a decision whose flit came poisoned is a trip (R312, Table 12.2): the spec gives its bits no value. -/
opaque poisonedDecision : Nat → Bool

/-- What a host reads of a byte of a core across a RATIO boundary whose ratio is not met (R290): by draw, address and the byte itself. -/
opaque unmetByte : Nat → Nat → Byte → Byte

/-- Which persisted object an address of the hub keep belongs to: the spec gives the hub keep no layout (R281, Table 12.2). -/
opaque keepKey : Nat → Nat

/-- Frame credits a port grants the other side when its lanes are trained (R177 gives no number). -/
opaque frameCredits : Nat

/-- The destination line a remote peer's credit stands for: Table 6.8 has no field for it. -/
opaque creditLine : Nat → Nat

/-- The code an auxiliary converter gives for a DAC output's level, in 2.5 V / 65,536 (R245). -/
opaque injected : Int → Nat

/-- An output that has been in current limit is still so when the host releases the channel (R248). -/
opaque currentLimit : Nat → Bool

/-- Distributed clocks are inactive in the EtherCAT slave controller, whose DC registers the spec does not give (R216). -/
opaque dcInactive : Nat → Bool

end Sys2Proof.Config
end

