-- ==== Sys2Proof/Machine/State.lean ====
section
/-! DEFINITION. The state of the module: every piece of state the spec gives it, as plain data, and the state right
after a module reset. INVENTORY.md lists each piece with the rule that names it. -/

namespace Sys2Proof.Machine

/-! ## The part -/

/-- What the ordering code, the straps and the fuses fix (R1-R4, R305). -/
structure Part where
  /-- compute dies fitted: 1, 2 or 4 (R1, R2) -/
  dies : Nat
  /-- the -E grade (R3) -/
  extended : Bool
  /-- the CLRSEL1-0 straps as sampled at the last module reset release (R305) -/
  clrsel : Nat
  /-- the mesh positions y * 12 + x that hold each die's 8 spare cores after manufacture (R317) -/
  spares : List Nat
  deriving DecidableEq, Repr

/-! ## Records of the Ashpit -/

/-- An Ashpit record (Table 12.3) with its payload words. -/
structure Rec where
  gtc : Nat
  src : Nat
  code : Nat
  payload : List Nat
  supp : Bool
  trunc : Bool
  held : Bool
  late : Bool
  seq : Nat
  /-- the suppressed count the record carries (for the GAP record of R326) -/
  suppCount : Nat
  deriving DecidableEq, Repr

/-- A record on its way to the recorder, with the LOG op it completes when the hub accepts it (R156). -/
structure RecMsg where
  record : Rec
  logOp : Option (Nat × Nat)
  deriving DecidableEq, Repr

/-! ## Operations in flight on a core -/

/-- Why an instruction's op is bound to a tile row: one row write on its way (R54, R101, R102). `lanes` is how many
lanes an add-mode write touches; the values of an overwrite fill all 128. -/
structure RowWrite where
  tile : Nat
  row : Nat
  acc : Bool
  fp : Bool
  lanes : Nat
  vals : List W32
  deriving DecidableEq, Repr

/-- One read of an MVM: its slice and the quarters it drives (R44). `opens` marks the first read of its slice. -/
structure ReadGroup where
  slice : Nat
  quarters : List Nat
  opens : Bool
  deriving DecidableEq, Repr

/-- An MVM in flight (R142): where it runs and how far its reads have come. -/
structure MvmOp where
  leng : Nat
  eng : Nat
  tile : Nat
  row : Nat
  acc : Bool
  ifmt : Nat
  bound : Nat
  line : Nat
  /-- the saturated elements, once fetched (R37) -/
  inputs : Option (List Int)
  /-- reads still to make -/
  todo : List ReadGroup
  /-- Y_s of every array column, one list per slice (R52) -/
  sums : List (List Int)
  /-- physical array columns clipped so far (R56) -/
  clipped : List Bool
  refSat : List Bool
  adcClip : Bool
  corrClip : Bool
  combClip : Bool
  reads : Nat
  lowconf : Bool
  /-- cause of the LOWCONF mark, as the LOWCONF record's word 0 codes it (Table 12.4) -/
  lcCause : Nat
  /-- the engine's read settings, as they stood at issue (R61, R96): row budget, threshold, repeat -/
  budget : Nat
  thresh : Nat
  repeats : Nat
  scale : Nat
  deriving DecidableEq, Repr

/-- A DRAIN in flight (R143), with the descriptor as read at issue. -/
structure DrainOp where
  tile : Nat
  row0 : Nat
  n : Nat
  act : Nat
  fuse : Nat
  clear : Bool
  pool : Nat
  ofmt : Nat
  dest : Nat
  param : Nat
  fusel : Nat
  leak : Nat
  mean : Bool
  scale : Bool
  bias : Bool
  started : Bool
  deriving DecidableEq, Repr

/-- A DMM in flight (R144). -/
structure DmmOp where
  m : Nat
  n : Nat
  k : Nat
  aLine : Nat
  bLine : Nat
  tile : Nat
  afmt : Nat
  bfmt : Nat
  acc : Bool
  started : Bool
  finished : Bool
  deriving DecidableEq, Repr

/-- A VOP in flight (R145). -/
structure VopOp where
  func : Nat
  n : Nat
  aLine : Nat
  bLine : Nat
  dLine : Nat
  afmt : Nat
  bfmt : Nat
  dfmt : Nat
  started : Bool
  deriving DecidableEq, Repr

/-- What an op in flight does. -/
inductive OpBody where
  | mvm (m : MvmOp)
  | drain (d : DrainOp)
  | dmm (d : DmmOp)
  | vop (v : VopOp)
  /-- LOAD: n lines from hub SRAM line `hub` to activation-buffer line `line` (R146) -/
  | load (n hub line : Nat)
  /-- STORE SRC 0 -/
  | store (n hub line : Nat)
  /-- STORE SRC 1: n rows from `row` of `tile` to `line` -/
  | storeRows (n tile row line : Nat)
  /-- SEND: n lines from `line` to a peer slot; `sent` once transmitted; `overs` when longer than its credit -/
  | send (peer chan n line : Nat) (sent overs : Bool)
  /-- RECV DST 0 (R147): `posted` once its credit is out; `got` the payload once it has arrived -/
  | recv (peer chan n line : Nat) (posted got : Bool)
  /-- RECV DST 1 -/
  | recvRows (peer chan n tile row : Nat) (acc fp posted got : Bool)
  /-- SIG: target object (store-wide number), add or set, value; `sent` once its update is on its way (R121, R148) -/
  | sig (obj : Nat) (set : Bool) (value : Nat) (sent : Bool)
  /-- WAIT on an object: target, STAMP's frame window, the word that satisfied it (R122, R148) -/
  | wait (obj target : Nat) (window : Option Nat) (hit : Option Nat)
  | waitt (target : Nat)
  /-- WAITPH: tracker, advance still needed when it reached it, advance accumulated since (R149) -/
  | waitph (trk need : Nat) (done : Int)
  /-- LDK of an activation-buffer word -/
  | ldkBuf (scalar : Bool) (dst line word : Nat)
  /-- LDK of a sync object -/
  | ldkSync (scalar : Bool) (dst obj : Nat)
  | endb
  /-- FENCE (R150) -/
  | fence
  /-- HALT (R150) -/
  | halt
  /-- EMIT to a DAC: codes still to be queued start at half-word `hw` of `line` (R154) -/
  | emitDac (ch n line hw : Nat)
  /-- EMIT to a trip output: the decision is on its way to the trip logic -/
  | emitTrip (trip : Nat)
  /-- LOG: `sent` once its record is on its way (R156) -/
  | log (code n line : Nat) (sent : Bool)
  deriving DecidableEq, Repr

/-- An op in flight: issue number, instruction index and bank, engine map, completion object (17-bit handle),
batch it belongs to, and what it has gathered. -/
structure Op where
  seq : Nat
  index : Nat
  bank : Nat
  map : Nat
  sync : Nat
  batch : Option Nat
  satRep : Bool
  lcRep : Bool
  sat : Bool
  lowconf : Bool
  status : Nat
  body : OpBody
  /-- bytes the op has read (inputs of SEND, LOG, EMIT; payload of RECV) -/
  data : Option (List Byte)
  /-- tile rows the op still has to commit -/
  rows : List RowWrite
  /-- tiles whose pending count the op still holds up (R103) -/
  pend : List Nat
  /-- activation-buffer writes the op makes when it completes: line-buffer byte offset and bytes -/
  out : List (Nat × List Byte)
  /-- its flits on a mesh link or bus that came poisoned: 0 the header, i + 1 the i-th line (R312) -/
  hurt : List Nat
  deriving DecidableEq, Repr

/-! ## Cores -/

/-- CORE_STATE (Table 4.10). -/
inductive CoreState where
  | off | idle | running | halted | frozen | spare | dead
  deriving DecidableEq, Repr

/-- The plan header fields the loader keeps (Table 5.1). -/
structure PlanHeader where
  flags : Nat
  length : Nat
  entry : Nat
  batchEntry : Nat
  faultEntry : Nat
  tileDemand : Nat
  engineDemand : Nat
  peerCount : Nat
  sentDeadline : Nat
  douSpill : Nat
  boundMax : List Nat
  frameWin : List Nat
  kInit : List Nat
  sInit : List Nat
  deriving DecidableEq, Repr

/-- One frame window (R108): FRAME_WIN word, next frame number, stamp of the last frame written. -/
structure FrameWin where
  word : Nat
  next : Nat
  stamp : Nat
  deriving DecidableEq, Repr

/-- A peer-table slot (R147, R178). -/
structure Peer where
  core : Nat
  epoch : Nat
  binding : Option Nat
  deriving DecidableEq, Repr

/-- A credit held for SENDs (R124): from whom (a core, or 0x10000 + Flue binding), channel, length, destination line. -/
structure Credit where
  peer : Nat
  chan : Nat
  len : Nat
  line : Nat
  /-- the Flue port it came over -/
  port : Option Nat
  /-- it came poisoned -/
  hurt : Bool
  deriving DecidableEq, Repr

/-- A RECV post outstanding at the receiver (R124). -/
structure Post where
  peer : Nat
  chan : Nat
  len : Nat
  op : Nat
  deriving DecidableEq, Repr

/-- An error held in the unobserved-error latch (R159), or the fault a fault path is taken with (R158). -/
structure FaultInfo where
  status : Nat
  index : Nat
  bank : Nat
  deriving DecidableEq, Repr

/-- Why issue is to stop for good: a STOP, a MASTER_DROP or the end of plan memory (R197, R279, R131). -/
inductive StopCause where
  | stop | pastEnd | planMemory
  deriving DecidableEq, Repr

/-- The sequencer of a core (R110, R131-R159). -/
structure Seq where
  pc : Nat
  bank : Nat
  k : Vector W32 16
  s : Vector W32 32
  ops : List Op
  nextSeq : Nat
  lastFault : Nat
  /-- the fault path to be taken once the ops in flight have completed (R158) -/
  faultPend : Option FaultInfo
  inHandler : Bool
  latch : Option FaultInfo
  stopReq : Option StopCause
  stamp : Nat
  /-- the batch open at issue, by its number -/
  openBatch : Option Nat
  /-- number of the next BATCH (R200) -/
  batchNo : Nat
  /-- bank last sampled: the engine map of ops outside a batch (R151) -/
  mapBank : Nat
  /-- batches a BATCH closed (R151) -/
  closings : Nat
  /-- ARM: new bank and E (R200) -/
  armed : Option (Nat × Nat)
  /-- the last eclosion committed on this core: bank and E -/
  committed : Option (Nat × Nat)
  deriving DecidableEq, Repr

/-- Staged and committed core analogue settings (R61, R96). -/
structure Ana where
  scaleStaged : Nat
  scale : Nat
  budgetStaged : Tab Nat
  budget : Tab Nat
  pending : Bool
  thresh : Nat
  repeats : Nat
  /-- the bank of an image whose row budgets are to go into effect with it on this core (R62) -/
  bankDue : Option Nat
  deriving DecidableEq, Repr

/-- Tags of an accumulator row (R100): format, ACC_SAT, lane sticky bits. -/
structure RowTag where
  fp : Bool
  accSat : Bool
  sticky : List Nat
  deriving DecidableEq, Repr

/-- A mesh message (Table 4.8): data (0), credit (1), delivery result (2); `len` is its payload flits. -/
structure Msg where
  kind : Nat
  src : Nat
  dst : Nat
  chan : Nat
  destEpoch : Nat
  srcEpoch : Nat
  len : Nat
  seq : Nat
  /-- op at the sender (data, result) or posting op (credit) -/
  op : Nat
  /-- AUX: data: destination line; credit: length; delivery result: code -/
  aux : Nat
  /-- delivery result: TYPE, LEN and AUX of the message it answers (R126) -/
  orig : Nat × Nat × Nat
  /-- credit: the destination line of the RECV that posted it (the MODEL's own: log 106) -/
  line : Nat
  payload : List Byte
  /-- sent over this Flue port: the remote peer is not a core of this module -/
  port : Option Nat
  /-- flits delivered poisoned: 0 the header, then the payload's (Table 12.2) -/
  hurt : List Nat
  deriving DecidableEq, Repr

/-- A core's messages (R124-R127): peer table, credits, posts, return queue, epochs. -/
structure Comm where
  epoch : Nat
  peers : Tab Peer
  credits : List Credit
  posts : List Post
  /-- the original headers of messages refused, at most 16 -/
  returns : List Msg
  /-- SEQ per destination and channel (destination * 32 + channel) -/
  seqs : Tab Nat
  /-- the crossing to the router is open (R127) -/
  crossing : Bool
  deriving DecidableEq, Repr

/-- A core (04_core). -/
structure Core where
  state : CoreState
  ctx : Option Nat
  lcore : Nat
  seq : Seq
  ana : Ana
  tags : Tab RowTag
  map0 : Tab Nat
  map1 : Tab Nat
  head0 : Option PlanHeader
  head1 : Option PlanHeader
  wins : List FrameWin
  comm : Comm
  /-- decision watchdog (R226): time it began and SENT_WD of the interval -/
  watchdog : Option (Nat × Nat)
  /-- pending count per tile (R103) -/
  pending : Tab Nat
  deriving DecidableEq, Repr

/-! ## Engines -/

/-- A correction entry (R59). -/
structure Corr where
  gain : Nat
  offset : Int
  deriving DecidableEq, Repr

/-- ENG_STATE (0x2820:04). -/
inductive EngState where
  | inService | retireSched | renewSched | spare | dead | belowNow
  deriving DecidableEq, Repr

/-- What an engine is programmed for. -/
inductive JobUse where
  /-- block `idx` of a bank under construction, or again after a failed verification (R198, R209) -/
  | block (ctx bank idx : Nat)
  /-- the spare of an exchange: context, logical engine, old engine, renewal or retirement (R93, R94) -/
  | exchange (ctx leng old : Nat) (renewal : Bool)
  /-- an engine that left service, to see whether it becomes a spare (R93) -/
  | requalify
  /-- an engine of the core that replaces another on this die: the old core's engine (R319) -/
  | core (die old : Nat)
  /-- repair column `k` of an engine in service takes over array column `col` (R92) -/
  | column (k col : Nat)
  deriving DecidableEq, Repr

/-- The programming of a whole engine, of a repair column, or of the flagged devices of a repair slice (R204, R92, R86). A device is
row * 272 + polarity * 136 + column. -/
structure ProgJob where
  /-- the number of this programming, by which the free values of its devices are drawn (R66) -/
  key : Nat
  /-- 1 reset, 2 set, 3 anneal, 4 close -/
  step : Nat
  wfmt : Nat
  /-- the pairs to be reached, and the stuck devices known before with the residuals they will then have -/
  goal : Mem
  goalStuck : Tab (Nat × Int)
  /-- devices the present step has still to do, in line order -/
  pending : List Nat
  /-- devices for the next step -/
  later : List Nat
  /-- devices that overshot and get a RESET next -/
  overs : List Nat
  /-- pulses each device has taken -/
  pulses : Tab Nat
  /-- devices found stuck and not yet compensated: measured level -/
  stuck : Tab Nat
  /-- devices whose last verify read, rounded, is another level than their target (R204) -/
  got : Tab Nat
  /-- a pulse group has been granted -/
  granted : Bool
  use : JobUse
  deriving DecidableEq, Repr

/-- Test rounds and their results (R79-R83, R91). -/
structure TestState where
  /-- corrected values of the test reads made in this round, by pattern -/
  reads : List (List Int)
  /-- estimates since the last tracker update, Q1.15 -/
  estimates : List Nat
  /-- RMS residuals of the last 16 rounds, in 1/256 LSB -/
  rms : List Nat
  /-- rounds in a row in which a column exceeded TEST_COL_LIM, by column -/
  colFails : Tab Nat
  refFails : Tab Nat
  /-- a test read in progress: time it began and the corrected values it will give (R82) -/
  running : Option (Nat × List Int)
  /-- when the last round began (R82) -/
  began : Option Nat
  deriving DecidableEq, Repr

/-- Health figures (R91, Table 3.6): the score, what happened when (time, LOWCONF MVMs, failed reads, reads), and the
four penalties. -/
structure Health where
  score : Nat
  log : List (Nat × Nat × Nat × Nat)
  penalties : Nat
  /-- when the score was last formed (R91) -/
  scored : Option Nat
  deriving DecidableEq, Repr

/-- Stoking of an engine (R84-R88). -/
structure Stoke where
  /-- flagged devices: row * 272 + polarity * 136 + column -/
  flagged : List Nat
  /-- pulses flagged devices have taken -/
  pulses : Tab Nat
  /-- blocks of 32 rows moved to the front of the survey queue -/
  urgent : List Nat
  /-- blocks surveyed since the last full survey -/
  surveyed : List Nat
  lastSurvey : Nat
  /-- blocks overdue (R88) -/
  overdue : List Nat
  /-- blocks of 64 rows with a repair slice completed since the columns last all passed their test (R92) -/
  repaired : List Nat
  /-- when each block of 32 rows was last surveyed, and the block whose turn is next (R88) -/
  lastAt : Tab Nat
  next : Nat
  deriving DecidableEq, Repr

/-- The control window's registers (Table 2.6). -/
structure EngRegs where
  splitEn : Bool
  skipZero : Bool
  corrCommit : Bool
  readsLast : Nat
  satCol : BitVec 128
  satAux : BitVec 32
  splitCnt : Nat
  clipCnt : Nat
  readCnt : Nat
  repairStaged : List Nat
  repair : List Nat
  staged : List Corr
  active : List Corr
  deriving DecidableEq, Repr

/-- A physical engine (02, 03). The pairs hold G+ in the high nibble and G- in the low one, by row * 136 + column
(0-127 array, 128-131 reference, 132-135 repair). -/
structure Engine where
  wfmt : Nat
  pairs : Mem
  /-- the sum store S_q,c by 128 q + c (R80) -/
  sums : Tab Int
  /-- columns an entry of whose sum store has an uncorrectable error (Table 12.2) -/
  sumsBad : List Nat
  regs : EngRegs
  base : List Corr
  te : Nat
  state : EngState
  refMask : List Bool
  /-- unverified, run under FORCE_START (R209) -/
  unverified : Bool
  digest : Nat
  /-- the engine and bank it serves: context, bank, logical engine; chrysalis while it is built -/
  owner : Option (Nat × Nat × Nat)
  chrysalis : Bool
  job : Option ProgJob
  /-- number and end of the last programming of the whole engine, and those of devices programmed on their own since (R66) -/
  prog : Nat × Nat
  progs : Tab (Nat × Nat)
  /-- devices that stand at another level than their target: the level (R204) -/
  misses : Tab Nat
  test : TestState
  health : Health
  stoke : Stoke
  /-- stuck devices (R89) by row * 272 + polarity * 136 + column: level, residual -/
  stuck : Tab (Nat × Int)
  /-- stuck devices the full defect list has counted in OVERFLOW (R90) -/
  uncounted : List Nat
  /-- the tracker's commit waits for an instant at which the engine is not BUSY (R71) -/
  trackWait : Bool
  /-- when the tracker last came to the engine (R70, R71) -/
  trackAt : Option Nat
  /-- columns scheduled for repair, and columns no repair column was free for (R92) -/
  repairSched : List Nat
  noRepair : List Nat
  /-- the previous generations of ENG_STATE and REF_MASK, and which of the two (4, 6) power-up takes from there (R281) -/
  prevState : EngState
  prevMask : List Bool
  fallen : List Nat
  deriving DecidableEq, Repr

/-! ## Messages on the way -/

/-- A sync update on its way to its store (R120): object, whether it sets the word, value added or set, error status,
saturation and LOWCONF reports. -/
structure SyncUpd where
  obj : Nat
  set : Bool
  value : Nat
  status : Nat
  sat : Bool
  lowconf : Bool
  src : Nat
  /-- the SIG that leaves flight when its target is updated: core and issue number -/
  sig : Option (Nat × Nat)
  /-- its flit is poisoned -/
  hurt : Bool
  deriving DecidableEq, Repr

/-- A frame on its way to a core's window (R240). -/
structure FrameMsg where
  core : Nat
  window : Nat
  /-- the source number of its measurement channel (R20) -/
  src : Nat
  group : Nat
  stamp : Nat
  /-- the role epoch of the core it was sent to (R126) -/
  epoch : Nat
  bytes : List Byte
  /-- member channels, for SLOT_OVERRUN -/
  members : List Nat
  /-- flits delivered poisoned: 0 the header, then its lines -/
  hurt : List Nat
  deriving DecidableEq, Repr

/-- A decision on its way to the trip logic (R154, R155, R250). -/
structure Decision where
  core : Nat
  op : Nat
  trip : Nat
  value : Bool
  /-- DL: latch + SENT_DEADLINE, where the plan has a deadline -/
  deadline : Option Nat
  /-- DL: the decision arms the watchdog (R226) -/
  arms : Bool
  deriving DecidableEq, Repr

structure Net where
  msgs : List Msg
  syncs : List SyncUpd
  frames : List FrameMsg
  decisions : List Decision
  deriving DecidableEq, Repr

/-! ## Contexts, images, fetch, damper -/

/-- Bank states (Table 7.6). -/
inductive BankState where
  | empty | chrysalis | ready | imago | draining
  deriving DecidableEq, Repr

/-- A directory entry of a bank (Table 7.3) with the engine it is bound to and its digest. -/
structure Block where
  lcore : Nat
  leng : Nat
  wfmt : Nat
  keep : Bool
  n : Nat
  crc : Nat
  payload : Nat
  core : Nat
  eng : Nat
  /-- its programming has begun -/
  started : Bool
  verified : Bool
  /-- it is to be programmed once more from a payload that has left the ring (R199) -/
  again : Bool
  deriving DecidableEq, Repr

/-- A logical-core record (Table 7.2) with its peer list. -/
structure Lcore where
  group : Nat
  prefX : Nat
  prefY : Nat
  firstBlock : Nat
  engines : Nat
  peers : Nat
  dieSync : Nat
  hubSync : Nat
  preloadLine : Nat
  planRel : Nat
  planLen : Nat
  peerRel : Nat
  preloadRel : Nat
  preloadLen : Nat
  deriving DecidableEq, Repr

/-- The fetch objects as they stood when a fetch or an installation began (R194, Table 7.9). -/
structure FetchSet where
  addr : Nat
  port : Nat
  subNqn : List Byte
  nsid : Nat
  startLba : Nat
  queues : Nat
  depth : Nat
  digests : Nat
  eth : Nat
  timeout : Nat
  retries : Nat
  kato : Nat
  deriving DecidableEq, Repr

/-- A weight bank (R195): its image's directory and records (R194), the offset of its payloads, and its source: 0 NVMe with the
fetch objects, 1 PCIe. -/
structure Bank where
  state : BankState
  image : Nat
  blocks : List Block
  lcores : List Lcore
  source : Nat
  payloadOff : Nat
  link : FetchSet
  deriving DecidableEq, Repr

/-- An eclosion in progress (R200-R202): new bank, E, disarmed attempts, cores that have answered ARM. -/
structure Eclosion where
  bank : Nat
  e : Nat
  attempts : Nat
  /-- 0 now, 1 at ECLOSE_TIME, 2 at ECLOSE_MARK -/
  when_ : Nat
  time : Nat
  mark : Nat
  /-- the mark has occurred since the command (WHEN 2) -/
  due : Bool
  begun : Bool
  answered : List Nat
  refused : Bool
  /-- one engine exchanged: core, logical engine, new engine (R93); none for an image -/
  exchange : Option (Nat × Nat × Nat)
  deriving DecidableEq, Repr

/-- CTX_STATE (Table 7.9). -/
inductive CtxState where
  | none | loading | verifying | stopped | running | verifyHold
  deriving DecidableEq, Repr

/-- The persisted objects of a context beside CTX_STATE (Table 7.9): POINTER, SWITCH_AT, BANKn_STATE, BANKn_IMAGE, LAST_ECLOSION,
SOURCE of each bank. -/
structure CtxKept where
  pointer : Nat
  switchAt : Nat
  state0 : BankState
  state1 : BankState
  image0 : Nat
  image1 : Nat
  lastEclosion : Nat
  source0 : Nat
  source1 : Nat
  deriving DecidableEq, Repr

/-- A context (R172, R195, Table 7.9). -/
structure Ctx where
  state : CtxState
  pointer : Nat
  switchAt : Nat
  bank0 : Bank
  bank1 : Bank
  progress : Nat
  lastEclosion : Nat
  loadStatus : Nat
  sentinel : Bool
  /-- physical core of each logical core -/
  cores : List Nat
  peerLists : List (List Nat)
  groups : Nat
  dieBase : Nat
  dieLen : Nat
  hubBase : Nat
  hubLen : Nat
  /-- command in progress (CTX_CMD code), 0 none (R196) -/
  cmd : Nat
  auto : Bool
  eclosion : Option Eclosion
  /-- the previous generation of the persisted CTX_STATE, and whether an uncorrectable error has made power-up take it (R281) -/
  before : CtxState
  fellBack : Bool
  /-- the previous generations of its other persisted objects, and the subindices whose object power-up takes from there (R281) -/
  prev : CtxKept
  fallen : List Nat
  /-- the persisted CTX_STATE was running (R307) -/
  restart : Bool
  /-- plan or preload missing at step 8 (R306) -/
  planMissing : Bool
  deriving DecidableEq, Repr

/-- A command of the NVMe/TCP host (Table 7.4). -/
inductive NvmeCmd where
  | connect (queue : Nat)
  | propertyGet (offset : Nat)
  /-- CC.EN set -/
  | propertySet
  | identify (cns : Nat)
  | keepAlive
  /-- an image byte offset, the LBA it lies at and the bytes wanted from there -/
  | read (at_ lba len : Nat)
  deriving DecidableEq, Repr

/-- A PDU the host sends (Table 7.4). -/
inductive NvmePdu where
  /-- PFV 0, HPDA 0, MAXR2T 0: the queue and the digests asked for -/
  | icReq (queue digests : Nat)
  | capsule (queue cid nsid : Nat) (cmd : NvmeCmd)
  | termReq
  deriving DecidableEq, Repr

/-- A command outstanding: its queue and identifier, when it went out, how often it has been reissued, the data it has had, and
whether it has completed. -/
structure NvmeOut where
  queue : Nat
  cid : Nat
  cmd : NvmeCmd
  since : Nat
  tries : Nat
  got : List Byte
  done : Bool
  deriving DecidableEq, Repr

/-- NVMe association (R191, R192): 0 idle, 1 connecting, 2 reading, 3 waiting to reconnect, 4 failed. -/
structure Fetch where
  state : Nat
  attempts : Nat
  backoff : Nat
  /-- time the connection of a queue or the wait began -/
  since : Nat
  lastKeep : Nat
  lastStatus : Nat
  set : FetchSet
  /-- queues connected, the queue whose ICResp is awaited -/
  ready : Nat
  opening : Option Nat
  /-- commands outstanding, oldest first -/
  out : List NvmeOut
  nextCid : Nat
  /-- LBA size, and bytes one Read may ask for, as Identify gives them; 0 not yet known -/
  lbaSize : Nat
  maxRead : Nat
  /-- PDUs sent, oldest first -/
  sent : List NvmePdu
  deriving DecidableEq, Repr

/-- A single-block transfer (R194): which block, bytes in staging slot 0 so far, whether it is there and checked, and the engine
that is being programmed from it (R190). -/
structure BlockReq where
  ctx : Nat
  bank : Nat
  idx : Nat
  bytes : Nat
  ready : Bool
  user : Option Nat
  deriving DecidableEq, Repr

/-- The image stage (R189, R190): the installation that holds it and how far it has come. -/
structure Stage where
  /-- context of the installation in staging -/
  install : Option Nat
  bank : Nat
  source : Nat
  isInstall : Bool
  /-- firmware load in progress -/
  firmware : Bool
  /-- single-block transfer (R194) -/
  block : Option BlockReq
  /-- LOADs and INSTALLs waiting for a transfer to end or for evaluation, oldest first -/
  waiting : List Nat
  /-- loads to be evaluated, oldest first (R172) -/
  evaluate : List Nat
  bytes : Nat
  tail : Nat
  head : Nat
  /-- only the plan section is read again (R306) -/
  replan : Bool
  /-- header and directory have been checked; load placed; plan section done -/
  staged : Bool
  evaluated : Bool
  plansDone : Bool
  planOff : Nat
  coreOff : Nat
  dirOff : Nat
  payloadOff : Nat
  totalLen : Nat
  metaCrc : Nat
  /-- running CRC32C register from CORE_OFF, and the image byte it has reached -/
  crc : Nat
  crcAt : Nat
  /-- logical cores whose plan, peer list and preload have gone to their core -/
  plansIn : List Nat
  slots : Nat
  want : Nat
  deriving DecidableEq, Repr

/-- A plan kept in the plan store of the hub keep (R306). -/
structure StoredPlan where
  ctx : Nat
  bank : Nat
  lcore : Nat
  header : PlanHeader
  words : List Nat
  preloadLine : Nat
  preload : List Byte
  /-- the store could not hold it: it comes again from its image source -/
  marked : Bool
  deriving DecidableEq, Repr

/-- The damper (R205): groups waiting, pulses in progress and their currents in microamperes. -/
structure Damper where
  waiting : List (Nat × Nat)
  granted : List (Nat × Nat)
  /-- engines whose stoke repair slice waits for pulses -/
  stokes : List Nat
  now : Nat
  railOk : Bool
  railSince : Nat
  /-- arbitrations in a row each waiting engine has lost (R128, R205) -/
  losses : Tab Nat
  /-- ns during which a request waited for budget, and since when one does (AT_BUDGET) -/
  atBudget : Nat
  blockedSince : Option Nat
  deriving DecidableEq, Repr

/-! ## Time and phase -/

/-- GTC states (Table 8.1). -/
inductive GtcState where
  | free | acquire | locked | holdover | coarse | pilot
  deriving DecidableEq, Repr

structure TimeBase where
  gtc : Nat
  /-- the 32-bit fraction below the nanosecond (R211) -/
  frac : Nat
  /-- the MODEL's own elapsed time in ns, which no step of the GTC moves: durations are taken from it -/
  up : Nat
  mode : GtcState
  prev : GtcState
  offset : Int
  rate : Int
  integral : Int
  outliers : Nat
  good : Nat
  rates : List Int
  holdoverSince : Nat
  latch0 : Nat
  latch1 : Nat
  dcLatch0 : Nat
  dcLatch1 : Nat
  /-- own time of the last comparison; 0 before the first -/
  lastRef : Nat
  /-- own time of the last reference event, or of the source's selection (R216) -/
  lastSeen : Nat
  /-- DC time of the last SYNC0 event and of the last one compared, and the SYNC0 cycle; 0 before the first (R215, R216) -/
  lastDc : Nat
  cmpDc : Nat
  cycle : Nat
  deriving DecidableEq, Repr

inductive TrkState where
  | off | acquiring | locked | holdover
  deriving DecidableEq, Repr

/-- A phase tracker (R219, R220). -/
structure Tracker where
  state : TrkState
  /-- phase before PHASE_OFFSET, and the remainder of its advance in 1/10^12 -/
  phase : Nat
  rem : Int
  freq : Int
  /-- last in-range frequency -/
  holdFreq : Int
  good : Nat
  /-- time of the last input event; 0 before the first -/
  lastEvent : Nat
  counts : Int
  /-- a Z edge has set phase 0 since the tracker was started -/
  indexed : Bool
  /-- what an input event moves the phase by at the next update -/
  shift : Int
  /-- the frequency left the range below F_MIN (R219) -/
  below : Bool
  /-- when the tracker was started, and its last update (R219) -/
  started : Nat
  lastUpdate : Nat
  deriving DecidableEq, Repr

/-! ## Measurement -/

/-- A decimated result waiting for its frame (R238): value, stamp, substituted. -/
structure Sample where
  value : Int
  stamp : Nat
  faulted : Bool
  deriving DecidableEq, Repr

/-- A sigma-delta channel (R231-R236). -/
structure Channel where
  clk : Bool
  stuck : Bool
  manch : Bool
  evHi : Bool
  evLo : Bool
  last : Int
  /-- whole valid windows since the fault's cause ended -/
  validWindows : Nat
  fresh : List Sample
  /-- results to discard after a mark restart (R239) -/
  skip : Nat
  /-- own time at which the present decimation window began, and windows since the last restart (R235) -/
  winAt : Nat
  windows : Nat
  /-- bits of the present window, and of the comparator's history, that the pin's clock gave before its last change of rate -/
  winBits : Nat
  cmpBits : Nat
  /-- a fault's cause has been present in this window (R233) -/
  spoiled : Bool
  /-- the last bit, and how many bits have been like it up to the end of the last window (R233) -/
  lastBit : Bool
  run : Nat
  /-- own time at which the comparator filter last started (R236) -/
  cmpStart : Nat
  deriving DecidableEq, Repr

structure Aux where
  last : Nat
  fresh : List Sample
  /-- conversions left in the present mark cycle (R237) -/
  cycles : Nat
  deriving DecidableEq, Repr

/-- An auxiliary converter's place in its sequence (R237): the input it converted last since its cycles began, and the own time at
which that conversion ended or the cycles began. -/
structure Conv where
  last : Option Nat
  since : Option Nat
  deriving DecidableEq, Repr

/-- A frame group (R238-R241). -/
structure Group where
  /-- 0 idle, 1 forming, 2 INVALID -/
  state : Nat
  causes : Nat
  frames : Nat
  /-- in mark mode: an occurrence has opened a frame -/
  opened : Bool
  deriving DecidableEq, Repr

/-- A capture ring (R242). -/
structure Ring where
  wptr : Nat
  frozen : Bool
  armed : Bool
  /-- entries left before an armed trip freezes it -/
  post : Option Nat
  deriving DecidableEq, Repr

/-- An MCLK pin's clock monitor (R232). -/
structure Mclk where
  fault : Bool
  deriving DecidableEq, Repr

/-- A bridge's frame meter (R241): bytes of allowance and the time they were counted. -/
structure Meter where
  level : Nat
  at_ : Nat
  deriving DecidableEq, Repr

structure Meas where
  chans : Tab Channel
  auxs : Tab Aux
  convs : Tab Conv
  groups : Tab Group
  rings : Tab Ring
  mclks : Tab Mclk
  meters : Tab Meter
  pfail : Bool
  deriving DecidableEq, Repr

/-! ## Outputs -/

/-- What a DAC output shows (Table 9.1). -/
inductive DacOut where
  /-- the 0-V clamp -/
  | zero
  /-- a code on the ladder or the current-steering path -/
  | code (v : Nat)
  deriving DecidableEq, Repr

/-- A DAC channel (R243-R248). -/
structure Dac where
  queue : List Nat
  ladder : Nat
  fast : Nat
  fastPos : Nat
  fastRun : Bool
  /-- own time of the path's last update (R245) -/
  fastAt : Nat
  /-- a ramp has handed over to the ladder (RAMP_RETURN, R245) -/
  returned : Bool
  fault : Bool
  shortLatched : Bool
  /-- causes present now: [0] SHORT, [1] rail, [3] PFAIL_N -/
  causes : Nat
  /-- no first code yet after the range took effect (row 2) -/
  powerClamp : Bool
  rangeClamp : Bool
  handover : Bool
  /-- underruns are not counted until the first code (R244, R248) -/
  awaitFirst : Bool
  /-- the output keeps its fault level or CLEAR_CODE until the next sample instant (R247, R248) -/
  holdLevel : Option DacOut
  underrunRun : Nat
  /-- the level when the channel was last held in standby (R182) -/
  standby : Option DacOut
  /-- released from mirror standby: an empty queue at the next instant gives CLEAR_CODE (R183) -/
  releaseClear : Bool
  /-- the trim words in force on the ladder and on the current-steering path, as of their last sample (R243, R280) -/
  ladderTrim : Nat
  fastTrim : Nat
  /-- GTC of the last sample instant, and of the commit from which the present grid counts (R244) -/
  lastInstant : Nat
  gridFrom : Nat
  /-- own time of the last sample instant (R244) -/
  lastAt : Option Nat
  /-- a mark occurrence has made a sample instant due -/
  due : Bool
  ignored : Nat
  deriving DecidableEq, Repr

/-- A trip output (R249-R251). -/
structure Trip where
  asserted : Bool
  emit : Bool
  /-- source of the EMIT decision that stands -/
  emitSrc : Nat
  backstop : Bool
  /-- time of the last assertion -/
  since : Nat
  lastCause : Nat
  /-- held in mirror standby (R182) -/
  held : Bool
  deriving DecidableEq, Repr

structure Outputs where
  dacs : Tab Dac
  trips : Tab Trip
  dacClrLow : Bool
  railLow : Bool
  /-- bits [5:1] latch; bit 0 start-up (R252) -/
  faultCause : Nat
  /-- causes present now, which set their bit again when it is cleared -/
  causeNow : Nat
  /-- the sensors' last readings told -/
  heat : Tab Heat
  therm : Bool
  /-- trip outputs are driven (R249, R306) -/
  driven : Bool
  deriving DecidableEq, Repr

/-! ## Object dictionary, sessions, masters -/

/-- The answer to a dictionary request: abort code (0 accepted) and value. -/
structure Reply where
  abort : Nat
  value : List Byte
  deriving DecidableEq, Repr

/-- A session (R270, R271). -/
structure Session where
  open_ : Bool
  level : Nat
  nonce : Option (List Byte)
  slot : Nat
  nonceAt : Nat
  clearNonce : Option (List Byte)
  clearAt : Nat
  key : List Byte
  lastRequest : Nat
  maxSeq : Option Nat
  /-- the last 16 responses: SEQ and datagram (R269) -/
  kept : List (Nat × List Byte)
  setView : Nat
  engSel : Nat
  cursor : Nat
  bucketSel : Nat
  reply : Reply
  deriving DecidableEq, Repr

/-- A pending COMMIT (R274). -/
structure PendCommit where
  src : Nat
  when_ : Nat
  mark : Nat
  ctx : Nat
  due : Bool
  deriving DecidableEq, Repr

/-- The configuration sets (R273, R274): settings that differ from their defaults, by dictionary key. -/
structure Sets where
  active : Tab Nat
  shadow : Tab Nat
  nqn : List Byte
  nqnShadow : List Byte
  /-- 0 editable, 1 commit pending, 2 reloading shadow -/
  state : Nat
  result : Nat
  owner : Option Ses
  commitReq : Option PendCommit
  lastCommit : Nat
  deriving DecidableEq, Repr

/-- A UDP request but for its session and SEQ (Table 10.10): opcode, object, subindices, payload. -/
structure UdpReq where
  op : Nat
  idx : Nat
  sub : Nat
  count : Nat
  payload : List Byte
  deriving DecidableEq, Repr

/-- An access held for a frozen master (R278). -/
structure HeldReq where
  addr : Nat
  write : Bool
  len : Nat
  data : List Byte
  ses : Ses
  /-- a Flue message held under link credit -/
  msg : Option (Msg × FlueMsg)
  /-- a UDP memory request, answered when it has been made: port, SEQ, request -/
  ans : Option (Nat × Nat × UdpReq)
  /-- a DMA descriptor not yet written back: channel, interrupt, host bus error (R267) -/
  dma : Option (Nat × Bool × Bool)
  deriving DecidableEq, Repr

/-- A hub master (Table 10.11). -/
structure Master where
  frozen : Bool
  violation : Nat
  violationGtc : Nat
  held : List HeldReq
  /-- consecutive failed responses and the time a lockout began (R271) -/
  fails : Nat
  lockout : Option Nat
  deriving DecidableEq, Repr

/-- A key slot (R272). -/
structure KeySlot where
  level : Nat
  key : List Byte
  deriving DecidableEq, Repr

structure DmaChan where
  base : Nat
  size : Nat
  tail : Nat
  head : Nat
  status : Nat
  /-- arbitrations lost in a row (R128, R267) -/
  losses : Nat
  deriving DecidableEq, Repr

/-- The PCIe endpoint's BAR4 registers (Table 10.8) and what its last read returned. -/
structure Pcie where
  odAbort : Nat
  badAccess : Nat
  longSel : Nat
  longLen : Nat
  longData : List Byte
  dma : Tab DmaChan
  msix : Nat
  /-- data the last BAR access or DMA to the host returned; none for Completer Abort -/
  readData : Option (List Byte)
  /-- the MSI-X table's 128 bytes, zero past the list; no command of the table writes it (log 90) -/
  msixTable : List Byte
  deriving DecidableEq, Repr

/-- The EtherCAT slave (R258-R263). -/
structure Ecat where
  /-- 1 INIT, 2 PREOP, 4 SAFEOP, 8 OP -/
  al : Nat
  alStatus : Nat
  /-- PDO mapping, assignment and synchronisation objects written, by dictionary key -/
  pdo : Tab Nat
  gtcSnap : Nat
  snapshot : List Nat
  mailError : Nat
  deriving DecidableEq, Repr

/-- Datagrams the Ethernet ports send. Telemetry (R283): time of the last datagram, its values and records, and the records
written since; then the last response each port has sent (R268). -/
structure Telem where
  lastAt : Nat
  values : List (List Byte)
  records : List Rec
  unsent : List Rec
  answers : Tab (List Byte)
  deriving DecidableEq, Repr

structure Firmware where
  active : Nat
  versions : List Nat
  images : Tab (List Byte)
  len : Nat
  status : Nat
  serving : Bool
  /-- a switch in progress: bank to run, time it began, watchdog restart -/
  switching : Option (Nat × Nat × Bool)
  deriving DecidableEq, Repr

/-! ## Clocks, power, service, Flue, recorder, hub keep -/

/-- A clock generator (R286, R294, R296): 0 locked, 1 ramping, 2 on pilot, 3 relocked. -/
structure Gen where
  state : Nat
  since : Nat
  pilotPpm : Int
  deriving DecidableEq, Repr

/-- A divider (R287, R292): where it stands and where its ramp goes. Domains: 0 HUB, 1 MGMT, 2 TIME, 3 MEAS, 4 SENT,
10 + d CORE_d, 20 + d MESH_d, 30 + d BRIDGE_d, 40 + d ATB_d. -/
structure Divider where
  now : Nat
  target : Nat
  /-- the source the domain still runs on while it ramps to where it may switch (R293) -/
  hold : Option Nat
  deriving DecidableEq, Repr

structure Clocks where
  refLost : Bool
  gens : Tab Gen
  divs : Tab Divider
  deriving DecidableEq, Repr

structure Power where
  /-- 0 full, 1 dies down, 2 dies changing -/
  state : Nat
  watch : Bool
  watchWake : Nat
  ready : Nat
  tSent : Nat
  tCompute : Nat
  resetCause : Nat
  /-- time the sequence of Table 11.7 began -/
  since : Nat
  powerGood : Bool
  /-- per die: 0 off, 1 on, 2 changing; rail valid -/
  dies : Tab Nat
  /-- when the last die of start-up was powered (R306) -/
  dieAt : Option Nat
  /-- engines, by key, that have been verified since power-up or since their die's rail came back, whatever the outcome -/
  tried : List Nat
  coreRails : Tab Bool
  optOk : Bool
  crossings : Tab Bool
  mgmtCrossing : Bool
  deriving DecidableEq, Repr

/-- A core replacement in progress on a die (R319). -/
structure Replace where
  /-- 0 idle, 1 programming, 2 switching, 3 no spare, 4 waiting for weights -/
  state : Nat
  old : Nat
  new : Nat
  cause : Nat
  e : Nat
  /-- replacements scheduled: core and cause, in ascending core index (R318) -/
  queue : List (Nat × Nat)
  /-- old engine to new engine -/
  map : Tab Nat
  deriving DecidableEq, Repr

structure Bridge where
  /-- flits replayed since the last that arrived well -/
  replays : Nat
  training : Bool
  /-- flits in the replay buffers of its ends, of the last 64 (R313) -/
  kept : Nat
  deriving DecidableEq, Repr

structure Service where
  poison : List Nat
  /-- words found with a correctable error at the present and at the last pass (R316) -/
  ceNow : List Nat
  ceLast : List Nat
  ceWords : Tab Nat
  /-- sentinel cores whose persistent words have reached CE_LIMIT: their trigger is given (R316, R317) -/
  worn : List Nat
  /-- when the present pass over SRAM and the present pass over the hub keep began (R314) -/
  scrubAt : Nat
  keepAt : Nat
  ueTimes : Tab (List Nat)
  lastUe : Nat
  bridges : Tab Bridge
  replace : Tab Replace
  /-- actions that wait (R95, R320): core, engine, 0 column repair (with 4 times the column) 1 retirement 2 renewal 3 core replacement -/
  retireWait : List (Nat × Nat × Nat)
  /-- plan sections to be read again when staging is free for them: context and bank (R306, Table 12.2) -/
  rereads : List (Nat × Nat)
  /-- compute cores that are spares now (R317) -/
  spareCores : List Nat
  deriving DecidableEq, Repr

/-- A defect-list entry (Table 3.5). -/
structure Defect where
  core : Nat
  eng : Nat
  row : Nat
  col : Nat
  minus : Bool
  level : Nat
  residual : Int
  repaired : Bool
  sentinel : Bool
  deriving DecidableEq, Repr

/-- A Flue frame but for what the line adds to its header (Table 6.7): TYPE, FIRST, LAST, LINES, AUX and the payload lines present. -/
structure FlueFrame where
  type : Nat
  first : Bool
  last : Bool
  lines : Nat
  aux : Nat
  payload : List Byte
  deriving DecidableEq, Repr

/-- A frame as it goes over the line: with its SEQ, and ACK, NAK, CREDIT_RET and ROLE as they stood (Table 6.7). -/
structure LineFrame where
  frame : FlueFrame
  seq : Nat
  ack : Nat
  nak : Bool
  creditRet : Nat
  role : Nat
  deriving DecidableEq, Repr

/-- What a Flue port has to send beside IDLE frames (R177): frames left, the message they carry, and the cause with which
the module enters standby once a TAKEOVER has gone out (R183). -/
structure OutItem where
  frames : List FlueFrame
  msg : Option Msg
  handover : Option Nat
  deriving DecidableEq, Repr

/-- A Flue port (R177-R180). -/
structure Port where
  /-- 0 down, 1 training, 2 up -/
  state : Nat
  /-- the lanes are trained -/
  trained : Bool
  /-- in a retrain of a link that was UP -/
  retraining : Bool
  /-- a conflict of MODULE_IDs has been recorded in this training -/
  conflict : Bool
  /-- a frame other than HELLO has come since the link came UP -/
  heard : Bool
  /-- a retrain is over, and the first valid frame since is still to show the remote's mirror state (R183) -/
  rejoin : Bool
  remoteId : Nat
  remoteSerial : Nat
  remotePort : Nat
  remoteRole : Nat
  txSeq : Nat
  rxSeq : Nat
  acked : Nat
  /-- frames sent and not yet acknowledged, at most 128 -/
  replay : List LineFrame
  /-- the frame that went over the line last -/
  onLine : Option LineFrame
  credits : Nat
  /-- frame credits to be returned to the other side -/
  owed : Nat
  nakDue : Bool
  replayRun : Nat
  /-- when the last valid frame came -/
  lastFrame : Nat
  /-- when the lanes were trained -/
  trainedAt : Nat
  /-- when a frame was last sent -/
  lastSent : Nat
  epochs : List EpochEntry
  /-- what is to be sent, oldest first, and the messages sent and not yet answered -/
  out : List OutItem
  flight : List Msg
  /-- messages received that the hub bridge of their core stalls (R313) -/
  stalled : List (Msg × FlueMsg)
  deriving DecidableEq, Repr

structure Mirror where
  /-- 0 none, 1 active, 2 standby, 3 active without partner, 4 role conflict -/
  state : Nat
  /-- outputs held (R182) -/
  holding : Bool
  /-- waiting for MIRROR_MARK after a takeover -/
  awaitMark : Bool
  markSeen : Bool
  deriving DecidableEq, Repr

/-- A freeze of the recorder (R326). -/
structure Freeze where
  since : Nat
  max : Nat
  deriving DecidableEq, Repr

/-- The recorder (R322-R329). -/
structure Ashpit where
  inbox : List RecMsg
  sort : List Rec
  hold : List Rec
  foundFill : Nat
  rollHead : Nat
  rollOldest : Nat
  rollUsed : Nat
  freeze : Option Freeze
  checkpoint : Bool
  clearing : Bool
  pfailWaits : Bool
  seqs : Tab Nat
  tokens : Tab Nat
  /-- when each bucket last gained a token (R325) -/
  refilled : Tab Nat
  supp : Tab Nat
  /-- records dropped in this freeze: stamp of the first, count, suppressed counts they carried -/
  gap : Option (Nat × Nat × Nat)
  retention : List Rec
  retDropped : Option (Nat × Nat × Nat)
  firstGtc : Nat
  lastGtc : Nat
  lastClear : Nat
  /-- the last power-down was checkpointed (R327) -/
  checkpointed : Bool
  deriving DecidableEq, Repr

/-- The hub keep (Table 12.7): what no reset and no power loss takes. -/
structure HubKeep where
  sets : Tab Nat
  nqn : List Byte
  pdo : Tab Nat
  counters : Tab Nat
  /-- when the counters were last persisted in the course of a minute (R281) -/
  countersAt : Nat
  te : Tab Nat
  /-- when T_e was last persisted (R73) -/
  teAt : Nat
  repair : Tab (List Nat)
  /-- the previous generations (R281) -/
  prevSets : Tab Nat
  prevNqn : List Byte
  prevPdo : Tab Nat
  prevCounters : Tab Nat
  prevTe : Tab Nat
  prevRepair : Tab (List Nat)
  prevKeys : Tab KeySlot
  /-- the previous generations of LAST_COMMIT, RESET_CAUSE, FW_ACTIVE, FW_VERSION_0 and 1, LAST_UE and LAST_CLEAR, by dictionary key,
  and those that power-up takes from there -/
  prevLast : Tab Nat
  fallen : List Nat
  /-- the previous generations of FOUND_FILL, ROLL_HEAD and ROLL_OLDEST -/
  prevFill : Nat
  prevHead : Nat
  prevOldest : Nat
  /-- objects whose word has an uncorrectable error that no access has met yet (R260, Table 12.2), by dictionary key -/
  bad : List Nat
  /-- the sentinel target store: packed 5-bit codes by engine (R206) -/
  targets : Tab (List Byte)
  plans : List StoredPlan
  ash : Mem
  ashFill : Nat
  ashHead : Nat
  ashOldest : Nat
  ashUsed : Nat
  restoreDefaults : Bool
  deriving DecidableEq, Repr

/-! ## The state -/

structure State where
  /-- commands waiting, first in first out -/
  pending : List Instr
  part : Part
  /-- system memory by system address (Table 10.7): hub SRAM, capture rings, Ashpit, DAC patterns, sync stores, and
  every core's activation buffer, accumulator and plan banks -/
  mem : Mem
  cores : Tab Core
  engines : Tab Engine
  net : Net
  ctxs : Tab Ctx
  /-- CMD_STATUS, ECLOSE_TIME, ECLOSE_MARK (Table 7.9) -/
  cmdStatus : Nat
  ecloseTime : Nat
  ecloseMark : Nat
  fetch : Fetch
  stage : Stage
  damper : Damper
  time : TimeBase
  trackers : Tab Tracker
  meas : Meas
  outs : Outputs
  sets : Sets
  sessions : Tab Session
  masters : Tab Master
  keys : Tab KeySlot
  pcie : Pcie
  ecat : Ecat
  links : Tab Bool
  telem : Telem
  fw : Firmware
  clk : Clocks
  pwr : Power
  svc : Service
  defects : List Defect
  ports : Tab Port
  mirror : Mirror
  ash : Ashpit
  keep : HubKeep
  /-- volatile calibration of the hub (Table 10.12): word by system address -/
  trims : Tab Nat
  /-- the read-only counters of the dictionary, by key (index * 256 + subindex) -/
  counters : Tab Nat
  /-- the MODEL's own counter: how many free values have been drawn -/
  draws : Nat
  deriving DecidableEq, Repr

/-! ## Reset -/

/-- Gain 1.0 and offset 0: the correction entry of an ideal part (R304). -/
def Corr.ideal : Corr := ⟨0x4000, 0⟩

def EngRegs.reset (sentinel : Bool) : EngRegs :=
  { splitEn := !sentinel, skipZero := true, corrCommit := false, readsLast := 0, satCol := 0, satAux := 0, splitCnt := 0,
    clipCnt := 0, readCnt := 0, repairStaged := [0xFF, 0xFF, 0xFF, 0xFF], repair := [0xFF, 0xFF, 0xFF, 0xFF],
    staged := List.replicate 136 Corr.ideal, active := List.replicate 136 Corr.ideal }

def TestState.reset : TestState := ⟨[], [], [], [], [], none, none⟩
def Health.reset : Health := ⟨255, [], 0, none⟩
def Stoke.reset : Stoke := ⟨[], [], [], [], 0, [], [], [], 0⟩

/-- An engine as it leaves the factory (R33), at reset (Tables 2.7 to 2.10). -/
def Engine.reset (sentinel : Bool) : Engine :=
  { wfmt := 0, pairs := [], sums := [], sumsBad := [], regs := EngRegs.reset sentinel, base := List.replicate 136 Corr.ideal, te := 0x8000,
    state := .inService, refMask := [false, false, false, false], unverified := false, digest := 0, owner := none,
    chrysalis := false, job := none, prog := (0, 0), progs := [], misses := [], test := TestState.reset, health := Health.reset,
    stoke := Stoke.reset, stuck := [], uncounted := [], trackWait := false, trackAt := none, repairSched := [], noRepair := [],
    prevState := .inService, prevMask := [false, false, false, false], fallen := [] }

def Seq.reset : Seq :=
  { pc := 0, bank := 0, k := Vector.replicate 16 0, s := Vector.replicate 32 0, ops := [], nextSeq := 0, lastFault := 0,
    faultPend := none, inHandler := false, latch := none, stopReq := none, stamp := 0, openBatch := none, batchNo := 0,
    mapBank := 0, closings := 0, armed := none, committed := none }

/-- READ_SCALE of an ideal part (R304), ROW_BUDGET 16 (Table 2.11), CONF_THRESH 6 and CONF_REPEAT 3 (Table 3.6). -/
def Ana.reset : Ana :=
  { scaleStaged := 0x4000, scale := 0x4000, budgetStaged := [], budget := [], pending := false, thresh := 6, repeats := 3, bankDue := none }

def RowTag.reset : RowTag := ⟨false, false, []⟩

def Comm.reset : Comm :=
  { epoch := 0, peers := [], credits := [], posts := [], returns := [], seqs := [], crossing := false }

/-- A core whose power domain is off (R298). -/
def Core.reset : Core :=
  { state := .off, ctx := none, lcore := 0, seq := Seq.reset, ana := Ana.reset, tags := [], map0 := [], map1 := [],
    head0 := none, head1 := none, wins := [], comm := Comm.reset, watchdog := none, pending := [] }

def FetchSet.reset : FetchSet := ⟨0, 4420, [], 1, 0, 2, 16, 3, 0, 2000, 5, 10⟩
def Bank.reset : Bank := ⟨.empty, 0, [], [], 0, 0, FetchSet.reset⟩

def Ctx.reset : Ctx :=
  { state := .none, pointer := 0, switchAt := 0, bank0 := Bank.reset, bank1 := Bank.reset, progress := 0, lastEclosion := 0,
    loadStatus := 0, sentinel := false, cores := [], peerLists := [], groups := 0, dieBase := 0,
    dieLen := 0, hubBase := 0, hubLen := 0, cmd := 0, auto := false, eclosion := none, before := .none, fellBack := false,
    prev := ⟨0, 0, .empty, .empty, 0, 0, 0, 0, 0⟩, fallen := [], restart := false, planMissing := false }

def Fetch.reset : Fetch := ⟨0, 0, 0, 0, 0, 0, FetchSet.reset, 0, none, [], 0, 0, 0, []⟩

def Stage.reset : Stage :=
  { install := none, bank := 0, source := 0, isInstall := false, firmware := false, block := none, waiting := [], evaluate := [],
    bytes := 0, tail := 0, head := 0, replan := false, staged := false, evaluated := false, plansDone := false, planOff := 0, coreOff := 0,
    dirOff := 0, payloadOff := 0, totalLen := 0, metaCrc := 0, crc := 0xFFFFFFFF, crcAt := 0, plansIn := [], slots := 1024, want := 0 }

def Damper.reset : Damper := ⟨[], [], [], 0, true, 0, [], 0, none⟩

def TimeBase.reset : TimeBase :=
  { gtc := 0, frac := 0, up := 0, mode := .free, prev := .free, offset := 0, rate := 0, integral := 0,
    outliers := 0, good := 0, rates := [], holdoverSince := 0, latch0 := 0, latch1 := 0, dcLatch0 := 0, dcLatch1 := 0,
    lastRef := 0, lastSeen := 0, lastDc := 0, cmpDc := 0, cycle := 0 }

def Tracker.reset : Tracker := ⟨.off, 0, 0, 0, 0, 0, 0, 0, false, 0, false, 0, 0⟩
def Channel.reset : Channel :=
  { clk := false, stuck := false, manch := false, evHi := false, evLo := false, last := 0, validWindows := 0, fresh := [], skip := 0, winAt := 0,
    windows := 0, winBits := 0, cmpBits := 0, spoiled := false, lastBit := false, run := 0, cmpStart := 0 }
/-- A channel that starts at a given own time. -/
def Channel.startAt (up : Nat) : Channel := { Channel.reset with winAt := up, cmpStart := up }
def Aux.reset : Aux := ⟨0, [], 0⟩
def Group.reset : Group := ⟨0, 0, 0, false⟩
def Ring.reset : Ring := ⟨0, false, false, none⟩
def Mclk.reset : Mclk := ⟨false⟩
def Meter.reset : Meter := ⟨65536, 0⟩
def Meas.reset : Meas := ⟨[], [], [], [], [], [], [], false⟩

def Dac.reset : Dac :=
  { queue := [], ladder := 0, fast := 0, fastPos := 0, fastRun := false, fastAt := 0, returned := false, fault := false, shortLatched := false, causes := 0,
    powerClamp := true, rangeClamp := false, handover := false, awaitFirst := false, holdLevel := none, standby := none, releaseClear := false, underrunRun := 0,
    ladderTrim := 0x40000000, fastTrim := 0x40000000, lastInstant := 0, gridFrom := 0, lastAt := none, due := false, ignored := 0 }

def Trip.reset : Trip := ⟨false, false, 0, false, 0, 0, false⟩

/-- FAULT_CAUSE 0x0001 (Table 9.4); trip outputs high-impedance (R306 step 1). -/
def Outputs.reset : Outputs :=
  { dacs := [], trips := [], dacClrLow := false, railLow := false, faultCause := 1, causeNow := 1, heat := [], therm := false,
    driven := false }

def Reply.reset : Reply := ⟨0, []⟩

def Session.reset : Session :=
  { open_ := false, level := 0, nonce := none, slot := 0, nonceAt := 0, clearNonce := none, clearAt := 0, key := [],
    lastRequest := 0, maxSeq := none, kept := [], setView := 0, engSel := 0, cursor := 0, bucketSel := 0, reply := Reply.reset }

def Sets.reset : Sets :=
  { active := [], shadow := [], nqn := [], nqnShadow := [], state := 0, result := 0, owner := none, commitReq := none,
    lastCommit := 0 }

def Master.reset : Master := ⟨false, 0, 0, [], 0, none⟩
def KeySlot.reset : KeySlot := ⟨0, []⟩
def DmaChan.reset : DmaChan := ⟨0, 16, 0, 0, 0, 0⟩
def Pcie.reset : Pcie := ⟨0, 0, 0, 0, [], [], 0, none, []⟩
def Ecat.reset : Ecat := ⟨1, 0, [], 0, [], 0⟩
def Telem.reset : Telem := ⟨0, [], [], [], []⟩
def Firmware.reset : Firmware := ⟨0, [0, 0], [], 0, 0, false, none⟩
def Gen.reset : Gen := ⟨0, 0, 0⟩
def Clocks.reset : Clocks := ⟨false, [], []⟩

def Power.reset : Power :=
  { state := 0, watch := false, watchWake := 0, ready := 0, tSent := 0, tCompute := 0, resetCause := 0, since := 0,
    powerGood := false, dies := [], dieAt := none, tried := [], coreRails := [], optOk := false, crossings := [], mgmtCrossing := true }

def Replace.reset : Replace := ⟨0, 0xFFFF, 0xFFFF, 0, 0, [], []⟩
def Bridge.reset : Bridge := ⟨0, false, 0⟩
def Service.reset : Service := ⟨[], [], [], [], [], 0, 0, [], 0, [], [], [], [], []⟩

def Port.reset : Port :=
  { state := 0, trained := false, retraining := false, remoteId := 0, remoteSerial := 0, remotePort := 0, remoteRole := 0, txSeq := 0, rxSeq := 0,
    acked := 0, replay := [], onLine := none, credits := 0, owed := 0, nakDue := false, replayRun := 0, lastFrame := 0, trainedAt := 0,
    lastSent := 0, conflict := false, heard := false, rejoin := false, epochs := [], out := [], flight := [], stalled := [] }

def Mirror.reset : Mirror := ⟨0, false, false, false⟩

def Ashpit.reset : Ashpit :=
  { inbox := [], sort := [], hold := [], foundFill := 0, rollHead := 0, rollOldest := 0, rollUsed := 0, freeze := none,
    checkpoint := false, clearing := false, pfailWaits := false, seqs := [], tokens := [], refilled := [], supp := [], gap := none, retention := [],
    retDropped := none, firstGtc := 0, lastGtc := 0, lastClear := 0, checkpointed := false }

def HubKeep.reset : HubKeep :=
  { sets := [], nqn := [], pdo := [], counters := [], countersAt := 0, te := [], teAt := 0, repair := [], prevSets := [], prevNqn := [], prevPdo := [], prevCounters := [],
    prevTe := [], prevRepair := [], prevKeys := [], prevLast := [], fallen := [], prevFill := 0, prevHead := 0, prevOldest := 0, bad := [], targets := [], plans := [], ash := [], ashFill := 0,
    ashHead := 0, ashOldest := 0, ashUsed := 0, restoreDefaults := false }

/-- An SDA-4 of the standard grade with open CLRSEL straps and its spares at y = 11, x = 4-11 (DESIGN CHOICE: log 2). -/
def Part.reset : Part := ⟨4, false, 0, [136, 137, 138, 139, 140, 141, 142, 143]⟩

/-- The core indices of a part's spares, on every die fitted. -/
def Part.spareList (p : Part) : List Nat := (List.range p.dies).flatMap (fun d => p.spares.map (· + 144 * d))

/-- The module right after reset, before the power-up sequence of Table 11.7 runs: FAULT_N low (cause [0]), trip
outputs high-impedance, DAC outputs clamped, GTC 0 in FREE, memory with nothing listed. -/
def State.reset : State :=
  { pending := [], part := Part.reset, mem := [], cores := [], engines := [], net := ⟨[], [], [], []⟩, ctxs := [], cmdStatus := 0,
    ecloseTime := 0, ecloseMark := 0, fetch := Fetch.reset, stage := Stage.reset, damper := Damper.reset, time := TimeBase.reset,
    trackers := [], meas := Meas.reset, outs := Outputs.reset, sets := Sets.reset, sessions := [], masters := [],
    keys := [(0, ⟨3, []⟩)], pcie := Pcie.reset, ecat := Ecat.reset, links := [], telem := Telem.reset, fw := Firmware.reset, clk := Clocks.reset,
    pwr := Power.reset, svc := { Service.reset with spareCores := Part.reset.spareList }, defects := [], ports := [], mirror := Mirror.reset, ash := Ashpit.reset,
    keep := HubKeep.reset, trims := [], counters := [], draws := 0 }

/-! ## Why a step can stop -/

/-- Faults. The spec gives every command of the block an effect, so no meaning raises one: the type is kept for the
host's interface. -/
inductive Fault where
  /-- Raised by no command (safe: the model never stops where the spec goes on). -/
  | none
  deriving DecidableEq, Repr

/-- Refusals. -/
inductive Refusal where
  /-- Raised by an arm of exec whose command has no meaning yet (safe). -/
  | notModelled (mnemonic : String)
  deriving DecidableEq, Repr

/-- The outcome of a command. -/
abbrev Out := Host.Outcome State Fault Refusal

end Sys2Proof.Machine
end

