-- ==== Sys2Proof/Machine/Bits.lean ====
section
/-! DEFINITION. Bit fields, byte order, tables, byte memory, CRC32C and HMAC-SHA-256. -/

namespace Sys2Proof.Machine

/-! ## Bit fields and byte order -/

/-- Bits [lo + width - 1 : lo] of a number. -/
def field (v lo width : Nat) : Nat := (v / 2 ^ lo) % 2 ^ width

/-- Bit i of a number. -/
def bit (v i : Nat) : Bool := v.testBit i

/-- The two's-complement value of the low `width` bits. -/
def toSigned (width v : Nat) : Int :=
  let u := v % 2 ^ width
  if u < 2 ^ (width - 1) then (u : Int) else (u : Int) - (2 ^ width : Nat)

/-- The low `width` bits of an integer, as an unsigned number. -/
def ofSigned (width : Nat) (v : Int) : Nat := (v % ((2 ^ width : Nat) : Int)).toNat

def boolNat (b : Bool) : Nat := if b then 1 else 0

/-- A number with bit i set or cleared. -/
def setBit (v i : Nat) (b : Bool) : Nat :=
  if v.testBit i = b then v else if b then v + 2 ^ i else v - 2 ^ i

/-- The number whose bit i is the i-th entry. -/
def packBits : List Bool → Nat
  | [] => 0
  | b :: t => boolNat b + 2 * packBits t

/-- Multi-byte values are little-endian (R8). -/
def fromLE : List Byte → Nat
  | [] => 0
  | b :: t => b.toNat + 256 * fromLE t

def toLE : Nat → Nat → List Byte
  | 0, _ => []
  | n + 1, v => BitVec.ofNat 8 v :: toLE n (v / 256)

/-- The `i`-th chunk of `n` bytes. -/
def chunk (bs : List Byte) (i n : Nat) : List Byte := (bs.drop (i * n)).take n

/-- A list of exactly `n` entries: cut, or filled with `d`. -/
def fit {α : Type} (n : Nat) (d : α) (l : List α) : List α := (l ++ List.replicate (n - l.length) d).take n

/-- Round a quotient to nearest, ties away from zero (R42, R51, R234). -/
def roundAway (num : Int) (den : Nat) : Int :=
  let q := (2 * num.natAbs + den) / (2 * den)
  if num < 0 then -(q : Int) else (q : Int)

def clampInt (lo hi v : Int) : Int := if v < lo then lo else if hi < v then hi else v

def ceilDiv (a b : Nat) : Nat := (a + b - 1) / b

def sumInt (l : List Int) : Int := l.foldl (· + ·) 0
def sumNat (l : List Nat) : Nat := l.foldl (· + ·) 0

/-- The integer square root, rounded down, by bits from 2^k down. -/
def isqrtAux : Nat → Nat → Nat → Nat
  | 0, _, r => r
  | k + 1, v, r => let c := r + 2 ^ k; isqrtAux k v (if c * c ≤ v then c else r)

def isqrt (v : Nat) : Nat := isqrtAux 40 v 0

/-! ## Tables -/

namespace Tab

/-- What a table holds at k, or the default. -/
def get {α : Type} (d : α) : Tab α → Nat → α
  | [], _ => d
  | (k', v) :: t, k => if k' = k then v else get d t k

def find {α : Type} : Tab α → Nat → Option α
  | [], _ => none
  | (k', v) :: t, k => if k' = k then some v else find t k

/-- A table with k set to v; keys stay in rising order. -/
def set {α : Type} : Tab α → Nat → α → Tab α
  | [], k, v => [(k, v)]
  | (k', v') :: t, k, v =>
    if k < k' then (k, v) :: (k', v') :: t else if k' = k then (k, v) :: t else (k', v') :: set t k v

def erase {α : Type} (t : Tab α) (k : Nat) : Tab α := t.filter (fun e => e.1 != k)

def modify {α : Type} (d : α) (t : Tab α) (k : Nat) (f : α → α) : Tab α := set t k (f (get d t k))

/-- The entries' values changed by key. -/
def map {α : Type} (t : Tab α) (f : Nat → α → α) : Tab α := List.map (fun e => (e.1, f e.1 e.2)) t

end Tab

/-! ## Byte memory -/

namespace Mem

/-- A byte of memory: nothing listed reads 0 (DESIGN CHOICE: log 3). -/
def read : Mem → Nat → Byte
  | [], _ => 0
  | (k, v) :: t, a => if k = a then v else read t a

/-- Writing 0, which an unlisted address reads as, removes the entry. -/
def write : Mem → Nat → Byte → Mem
  | [], a, b => if b = 0 then [] else [(a, b)]
  | (k, v) :: t, a, b =>
    if a < k then (if b = 0 then (k, v) :: t else (a, b) :: (k, v) :: t)
    else if a = k then (if b = 0 then t else (a, b) :: t)
    else (k, v) :: write t a b

def readBytes (m : Mem) (a : Nat) : Nat → List Byte
  | 0 => []
  | n + 1 => read m a :: readBytes m (a + 1) n

def writeBytes (m : Mem) (a : Nat) : List Byte → Mem
  | [] => m
  | b :: bs => writeBytes (write m a b) (a + 1) bs

/-- Memory with everything in [lo, hi) back to what an unlisted address reads as. -/
def clear (m : Mem) (lo hi : Nat) : Mem := m.filter (fun c => c.1 < lo || hi ≤ c.1)

/-- The part of memory in [lo, hi). -/
def keepRange (m : Mem) (lo hi : Nat) : Mem := m.filter (fun c => lo ≤ c.1 && c.1 < hi)

/-- Little-endian number of n bytes (R8). -/
def num (m : Mem) (a n : Nat) : Nat := fromLE (readBytes m a n)

def sorted : Mem → Bool
  | [] => true
  | [_] => true
  | a :: b :: t => decide (a.1 < b.1) && sorted (b :: t)

/-- The canonical form: addresses strictly rising, no entry that reads as an unlisted address does. -/
def wf (m : Mem) : Bool := sorted m && m.all (fun c => c.2 != 0)

end Mem

/-! ## CRC32C (the published Castagnoli code, reflected: PRESUMED, log 4) -/

def crcBits : Nat → BitVec 32 → BitVec 32
  | 0, c => c
  | n + 1, c => crcBits n (if c.getLsbD 0 then (c >>> 1) ^^^ 0x82F63B78#32 else c >>> 1)

def crcByte (c : BitVec 32) (b : Byte) : BitVec 32 := crcBits 8 (c ^^^ b.setWidth 32)

/-- CRC32C over a list of bytes. -/
def crc32c (bs : List Byte) : Nat := (bs.foldl crcByte 0xFFFFFFFF#32 ^^^ 0xFFFFFFFF#32).toNat

/-! ## SHA-256 and HMAC (FIPS 180-4 and RFC 2104: PRESUMED, log 4) -/

namespace Sha

/-- The e-th root of v, rounded down, from its n lowest bits. -/
def root (e v : Nat) : Nat → Nat → Nat
  | 0, r => r
  | n + 1, r => root e v n (if (r + 2 ^ n) ^ e ≤ v then r + 2 ^ n else r)

/-- The primes below 312: the first 64. -/
def primes : List Nat := (List.range 312).filter (fun n => decide (2 ≤ n) && (List.range n).all (fun d => decide (d < 2) || n % d != 0))

/-- The first 32 bits of the fraction of the e-th root of a prime: the standard's constants are made of them. -/
def rootBits (e p : Nat) : W32 := BitVec.ofNat 32 (root e (p * 2 ^ (32 * e)) 37 0)

/-- One constant per round: from the cube roots. -/
def roundKeys : List W32 := primes.map (rootBits 3)

/-- The chaining value at the start: from the square roots. -/
def start : List W32 := (primes.take 8).map (rootBits 2)

/-- The exclusive or of a word's right rotations. -/
def spin (x : W32) (ns : List Nat) : W32 := ns.foldl (fun a n => a ^^^ x.rotateRight n) 0

def fromBE (bs : List Byte) : W32 := BitVec.ofNat 32 (fromLE bs.reverse)

def toBE (w : W32) : List Byte := (toLE 4 w.toNat).reverse

/-- The words of a block's schedule, newest first: `n` more. -/
def extend : Nat → List W32 → List W32
  | 0, ws => ws
  | n + 1, ws =>
    let old := fun i => ws.getD (i - 1) 0
    extend n ((old 16 + old 7 + (spin (old 15) [7, 18] ^^^ old 15 >>> 3) + (spin (old 2) [17, 19] ^^^ old 2 >>> 10)) :: ws)

/-- One round on the eight chaining words: two sums enter at the first and at the fifth place, the others move down. -/
def turn (v : List W32) (key word : W32) : List W32 :=
  let x := fun i => v.getD i 0
  let pick := (x 4 &&& x 5) ||| (~~~x 4 &&& x 6)
  let most := (x 0 &&& (x 1 ||| x 2)) ||| (x 1 &&& x 2)
  let low := x 7 + spin (x 4) [6, 11, 25] + pick + key + word
  (low + spin (x 0) [2, 13, 22] + most) :: v.take 3 ++ (x 3 + low) :: (v.drop 4).take 3

def block (v : List W32) (bs : List Byte) : List W32 :=
  let words := (extend 48 ((List.range 16).map (fun i => fromBE (chunk bs i 4))).reverse).reverse
  List.zipWith (· + ·) v ((List.zip roundKeys words).foldl (fun a kw => turn a kw.1 kw.2) v)

def pad (bs : List Byte) : List Byte :=
  let z := (119 - bs.length % 64) % 64
  bs ++ (0x80 : Byte) :: List.replicate z 0 ++ (toLE 8 (8 * bs.length)).reverse

def hash (bs : List Byte) : List Byte :=
  let p := pad bs
  (((List.range (p.length / 64)).foldl (fun v i => block v (chunk p i 64)) start).map toBE).flatten

end Sha

/-- HMAC-SHA-256(key, message) for keys of at most 64 bytes (R271 keys are 32). -/
def hmac (key msg : List Byte) : List Byte :=
  let k := fit 64 0 key
  Sha.hash (k.map (· ^^^ 0x5c) ++ Sha.hash (k.map (· ^^^ 0x36) ++ msg))

end Sys2Proof.Machine
end

