-- ==== Sys2Proof/Machine/Float.lean ====
section
/-! DEFINITION. Element formats (Table 5.4), their exact values, and fp32 arithmetic with one rounding to nearest, ties
to even (R101, R104, R106, R114, R115, R117, R349). -/

namespace Sys2Proof.Machine

/-- The value of a float: a NaN, an infinity, or sign, magnitude m * 2^e. -/
inductive FVal where
  | nan
  | inf (neg : Bool)
  | fin (neg : Bool) (m : Nat) (e : Int)
  deriving DecidableEq, Repr

/-- A binary format: precision with the hidden bit, exponent bits, whether its all-ones exponent is special. -/
structure FFmt where
  man : Nat
  exp : Nat
  ieee : Bool
  deriving DecidableEq, Repr

def fmt32 : FFmt := ⟨23, 8, true⟩
def fmtBf16 : FFmt := ⟨7, 8, true⟩
def fmtE5m2 : FFmt := ⟨2, 5, true⟩
def fmtE4m3 : FFmt := ⟨3, 4, false⟩

def FFmt.bias (f : FFmt) : Int := (2 ^ (f.exp - 1) : Nat) - 1

/-- The value of a code. E4M3 has no infinity; its code 0x7F and its negative are NaN (R115). -/
def FFmt.decode (f : FFmt) (code : Nat) : FVal :=
  let neg := bit code (f.man + f.exp)
  let ex := field code f.man f.exp
  let m := field code 0 f.man
  if f.ieee && ex == 2 ^ f.exp - 1 then (if m == 0 then .inf neg else .nan)
  else if !f.ieee && ex == 2 ^ f.exp - 1 && m == 2 ^ f.man - 1 then .nan
  else if ex == 0 then .fin neg m (1 - f.bias - f.man)
  else .fin neg (m + 2 ^ f.man) ((ex : Int) - f.bias - f.man)

/-- num / den * 2^e as m * 2^q with m of at most p bits and q at least qmin, rounded to nearest even. -/
def roundBin (p : Nat) (qmin : Int) (num den : Nat) (e : Int) : Nat × Int :=
  if num = 0 then (0, qmin) else
  let l : Int := (num.log2 : Int) - den.log2 + e
  -- V >= 2^l ?
  let ge := if 0 ≤ e - l then den ≤ num * 2 ^ (e - l).toNat else den * 2 ^ (l - e).toNat ≤ num
  let q0 : Int := if ge then l - p + 1 else l - p
  let q := if q0 < qmin then qmin else q0
  let n' := if q ≤ e then num * 2 ^ (e - q).toNat else num
  let d' := if q ≤ e then den else den * 2 ^ (q - e).toNat
  let m := n' / d'
  let r := n' % d'
  let m := if d' < 2 * r || (d' = 2 * r && m % 2 = 1) then m + 1 else m
  if m = 2 ^ p then (2 ^ (p - 1), q + 1) else (m, q)

/-- The code of +-num/den * 2^e in a format with infinities: overflow gives infinity. -/
def FFmt.encode (f : FFmt) (neg : Bool) (num den : Nat) (e : Int) : Nat × Bool :=
  let qmin : Int := 1 - f.bias - f.man
  let (m, q) := roundBin (f.man + 1) qmin num den e
  let sg := boolNat neg * 2 ^ (f.man + f.exp)
  if m < 2 ^ f.man then (sg + m, false)
  else
    let ex := q + f.man + f.bias
    if ex ≥ (2 ^ f.exp - 1 : Nat) then (sg + (2 ^ f.exp - 1) * 2 ^ f.man, true)
    else (sg + ex.toNat * 2 ^ f.man + (m - 2 ^ f.man), false)

/-- The canonical NaN (R115). -/
def nan32 : W32 := 0x7FC00000#32

def val32 (x : W32) : FVal := fmt32.decode x.toNat

/-- A value rounded once to fp32. -/
def to32 : FVal → W32
  | .nan => nan32
  | .inf neg => if neg then 0xFF800000#32 else 0x7F800000#32
  | .fin neg m e => BitVec.ofNat 32 (fmt32.encode neg m 1 e).1

def FVal.isInf : FVal → Bool
  | .inf _ => true
  | _ => false

def FVal.isNan : FVal → Bool
  | .nan => true
  | _ => false

def FVal.neg : FVal → Bool
  | .nan => false
  | .inf n => n
  | .fin n _ _ => n

/-- Exact sum of two finite values; a zero sum is +0 unless both are -0. -/
def addExact (n1 : Bool) (m1 : Nat) (e1 : Int) (n2 : Bool) (m2 : Nat) (e2 : Int) : FVal :=
  let e := min e1 e2
  let a : Int := (m1 * 2 ^ (e1 - e).toNat : Nat)
  let b : Int := (m2 * 2 ^ (e2 - e).toNat : Nat)
  let s := (if n1 then -a else a) + (if n2 then -b else b)
  if s = 0 then .fin (n1 && n2) 0 e else .fin (s < 0) s.natAbs e

def addVal : FVal → FVal → FVal
  | .nan, _ => .nan
  | _, .nan => .nan
  | .inf a, .inf b => if a = b then .inf a else .nan
  | .inf a, _ => .inf a
  | _, .inf b => .inf b
  | .fin n1 m1 e1, .fin n2 m2 e2 => addExact n1 m1 e1 n2 m2 e2

def mulVal : FVal → FVal → FVal
  | .nan, _ => .nan
  | _, .nan => .nan
  | .inf a, .inf b => .inf (a != b)
  | .inf a, .fin n m _ => if m = 0 then .nan else .inf (a != n)
  | .fin n m _, .inf b => if m = 0 then .nan else .inf (n != b)
  | .fin n1 m1 e1, .fin n2 m2 e2 => .fin (n1 != n2) (m1 * m2) (e1 + e2)

/-- a < b for values that are not NaN; the zeros are equal. -/
def ltVal : FVal → FVal → Bool
  | .nan, _ => false
  | _, .nan => false
  | .inf a, .inf b => a && !b
  | .inf a, .fin _ _ _ => a
  | .fin _ _ _, .inf b => !b
  | .fin n1 m1 e1, .fin n2 m2 e2 =>
    match addExact n1 m1 e1 (!n2) m2 e2 with
    | .fin n m _ => n && m != 0
    | _ => false

/-- The sum of two fp32 values, rounded once. A NaN result is the canonical one, whatever the payloads (DESIGN CHOICE: log 134). -/
def add32 (a b : W32) : W32 := to32 (addVal (val32 a) (val32 b))
def mul32 (a b : W32) : W32 := to32 (mulVal (val32 a) (val32 b))

/-- Division of a value by a whole number, rounded once to fp32 (R349). -/
def div32 (a : W32) (d : Nat) : W32 :=
  match val32 a with
  | .fin neg m e => BitVec.ofNat 32 (fmt32.encode neg m d e).1
  | v => to32 v

/-- The larger value; a NaN gives the canonical NaN; equal zeros keep the first (R349 says so of pooling; for VOP a DESIGN CHOICE: log 135). -/
def max32 (a b : W32) : W32 :=
  if (val32 a).isNan || (val32 b).isNan then nan32 else if ltVal (val32 a) (val32 b) then b else a

/-- The smaller value, by the same rules (log 135). -/
def min32 (a b : W32) : W32 :=
  if (val32 a).isNan || (val32 b).isNan then nan32 else if ltVal (val32 b) (val32 a) then b else a

/-- An integer as fp32, to nearest even (R101, Table 4.2 stage 1). -/
def int32ToF (v : Int) : W32 := to32 (.fin (v < 0) v.natAbs 0)

/-- Rounds a float to an integer, ties to even, saturating to [lo, hi]; a NaN gives 0. The flag says it saturated or was
a NaN (R101, R106). -/
def floatToInt (lo hi : Int) (x : W32) : Int × Bool :=
  match val32 x with
  | .nan => (0, true)
  | .inf neg => (if neg then lo else hi, true)
  | .fin neg m e =>
    let v : Nat :=
      if 0 ≤ e then m * 2 ^ e.toNat
      else
        let d := 2 ^ (-e).toNat
        let q := m / d
        let r := m % d
        if d < 2 * r || (d = 2 * r && q % 2 = 1) then q + 1 else q
    let s : Int := if neg then -(v : Int) else v
    if s < lo then (lo, true) else if hi < s then (hi, true) else (s, false)

/-- Bytes of an element of format f (Table 5.4). -/
def fmtBytes (f : Nat) : Nat :=
  match f with
  | 0 => 1
  | 1 => 2
  | 2 => 4
  | 3 => 1
  | 4 => 1
  | 5 => 2
  | _ => 4

/-- Lines per 128-lane row (Table 5.4). -/
def fmtLines (f : Nat) : Nat := 2 * fmtBytes f

/-- An element's code as fp32, exactly for every format but int32, which rounds to nearest even (R104, R117). -/
def elemToF (f code : Nat) : W32 :=
  match f with
  | 0 => int32ToF (toSigned 8 code)
  | 1 => int32ToF (toSigned 16 code)
  | 2 => int32ToF (toSigned 32 code)
  | 3 => to32 (fmtE4m3.decode code)
  | 4 => to32 (fmtE5m2.decode code)
  | 5 => to32 (fmtBf16.decode code)
  | _ => if (val32 (BitVec.ofNat 32 code)).isNan then nan32 else BitVec.ofNat 32 code

/-- The exact value of an element of a floating format (R115). -/
def elemVal (f code : Nat) : FVal :=
  match f with
  | 3 => fmtE4m3.decode code
  | 4 => fmtE5m2.decode code
  | 5 => fmtBf16.decode code
  | _ => val32 (BitVec.ofNat 32 code)

/-- Conversion to E4M3: saturates to +-448; a NaN gives 0x7F (R106). -/
def toE4m3 (x : W32) : Nat × Bool :=
  match val32 x with
  | .nan => (0x7F, false)
  | .inf neg => (boolNat neg * 0x80 + 0x7E, true)
  | .fin neg m e =>
    let (r, q) := roundBin 4 (-9) m 1 e
    let sg := boolNat neg * 0x80
    if r < 8 then (sg + r, false)
    else
      let ex := q + 3 + 7
      if ex > 15 || (ex = 15 && r = 15) then (sg + 0x7E, true) else (sg + ex.toNat * 8 + (r - 8), false)

/-- Conversion to E5M2: saturates to +-57,344, never an infinity; a NaN gives 0x7E (R106). -/
def toE5m2 (x : W32) : Nat × Bool :=
  match val32 x with
  | .nan => (0x7E, false)
  | .inf neg => (boolNat neg * 0x80 + 0x7B, true)
  | .fin neg m e =>
    let (c, overs) := fmtE5m2.encode neg m 1 e
    if overs then (boolNat neg * 0x80 + 0x7B, true) else (c, false)

/-- Conversion of an fp32 value to format f, with the saturation report of R106. A finite value that rounds beyond the largest bf16 becomes
infinity, without a saturation report (DESIGN CHOICE: log 132). -/
def convert (f : Nat) (x : W32) : Nat × Bool :=
  match f with
  | 0 => let (v, s) := floatToInt (-128) 127 x; (ofSigned 8 v, s)
  | 1 => let (v, s) := floatToInt (-32768) 32767 x; (ofSigned 16 v, s)
  | 2 => let (v, s) := floatToInt (-2147483648) 2147483647 x; (ofSigned 32 v, s)
  | 3 => toE4m3 x
  | 4 => toE5m2 x
  | 5 =>
    match val32 x with
    | .nan => (0x7FC0, false)
    | .inf neg => (if neg then 0xFF80 else 0x7F80, false)
    | .fin neg m e => ((fmtBf16.encode neg m 1 e).1, false)
  | _ => (if (val32 x).isNan then 0x7FC00000 else x.toNat, false)

/-! ## Bounds of the functions that the spec gives to a maximum error (Tables 4.3 and 4.5)

Numbers between two whole multiples of 2^-96: the value of the function lies between lo and hi, so what lies within the
spec's error of it is never left out. -/

structure Encl where
  lo : Int
  hi : Int
  deriving DecidableEq, Repr

def one96 : Nat := 2 ^ 96

/-- Sums of the even and of the odd terms of exp's series at u / 2^96, the first n terms: each from below and from above. -/
def expSums (u n : Nat) : (Nat × Nat) × (Nat × Nat) :=
  let r := (List.range n).foldl (fun (a : (Nat × Nat) × ((Nat × Nat) × (Nat × Nat))) k =>
    let t := a.1
    let s := if k % 2 = 0 then ((a.2.1.1 + t.1, a.2.1.2 + t.2), a.2.2) else (a.2.1, (a.2.2.1 + t.1, a.2.2.2 + t.2))
    ((t.1 * u / one96 / (k + 1), (t.2 * u / one96 + 1) / (k + 1) + 1), s)) ((one96, one96), ((0, 0), (0, 0)))
  r.2

/-- e^-t for t between lo / 2^96 and hi / 2^96, both below 32: the series at a 64th of t (its terms alternate and fall), then six squarings. -/
def expEncl (lo hi : Nat) : Encl :=
  let a := expSums (hi / 64 + 1) 26
  let b := expSums (lo / 64) 25
  let l := a.1.1 - a.2.2
  let h := b.1.2 - b.2.1
  let sq := fun (x : Nat × Nat) (_ : Nat) => (x.1 * x.1 / one96, x.2 * x.2 / one96 + 1)
  let r := (List.range 6).foldl sq (l, h)
  ⟨r.1, r.2⟩

/-- e^-t for any t that is not negative; from 32 on, between 0 and 2^-46. -/
def expNeg (lo hi : Nat) : Encl := if 32 * one96 ≤ lo then ⟨0, 2 ^ 50⟩ else expEncl lo (min hi (32 * one96))

/-- A magnitude m * 2^e in multiples of 2^-96, from below and from above. -/
def scaled (m : Nat) (e : Int) : Nat × Nat :=
  if 0 ≤ e + 96 then (m * 2 ^ (e + 96).toNat, m * 2 ^ (e + 96).toNat)
  else (m / 2 ^ (-(e + 96)).toNat, m / 2 ^ (-(e + 96)).toNat + 1)

/-- sigmoid(t), or sigmoid(-t) where neg, for t between lo and hi. -/
def sigmoidEncl (neg : Bool) (t : Nat × Nat) : Encl :=
  let e := expNeg t.1 t.2
  let el := e.lo.toNat
  let eh := e.hi.toNat
  if neg then ⟨(el * one96 / (one96 + el) : Nat), (eh * one96 / (one96 + eh) + 1 : Nat)⟩
  else ⟨(one96 * one96 / (one96 + eh) : Nat), (one96 * one96 / (one96 + el) + 1 : Nat)⟩

def Encl.flip (e : Encl) (neg : Bool) : Encl := if neg then ⟨-e.hi, -e.lo⟩ else e

/-- tanh of a number of magnitude t: (1 - e^-2t) / (1 + e^-2t), with its sign. -/
def tanhEncl (neg : Bool) (t : Nat × Nat) : Encl :=
  let e := expNeg (2 * t.1) (2 * t.2)
  let el := min e.lo.toNat one96
  let eh := min e.hi.toNat one96
  Encl.flip ⟨((one96 - eh) * one96 / (one96 + eh) : Nat), ((one96 - el) * one96 / (one96 + el) + 1 : Nat)⟩ neg

/-- t * sigmoid(s), or -t * sigmoid(-s) where neg; for s from 32 on the latter is within 2^-40 of 0. -/
def gatedEncl (neg : Bool) (t s : Nat × Nat) : Encl :=
  if neg ∧ 32 * one96 ≤ s.1 then ⟨-(2 ^ 56), 0⟩
  else
    let g := sigmoidEncl neg s
    Encl.flip ⟨(t.1 * g.lo.toNat / one96 : Nat), (t.2 * g.hi.toNat / one96 + 1 : Nat)⟩ neg

/-- 2 sqrt(2/pi) (t + 0.044715 t^3): GELU's tanh form is x * sigmoid of it (PRESUMED: log 13). -/
def geluArg (t : Nat × Nat) : Nat × Nat :=
  let poly := fun (x : Nat) => (x + 44715 * (x * x * x / (one96 * one96)) / 1000000, x + 44715 * (x * x * x / (one96 * one96) + 1) / 1000000 + 1)
  ((poly t.1).1 * 159576912160573071175 / 100000000000000000000, (poly t.2).2 * 159576912160573071176 / 100000000000000000000 + 1)

/-- Whether a finite number lies within err of a value between e.lo and e.hi. -/
def within (y : FVal) (e : Encl) (err : Int) : Bool :=
  match y with
  | .fin neg m x =>
    let s := scaled m x
    let l : Int := if neg then -(s.2 : Int) else s.1
    let h : Int := if neg then -(s.1 : Int) else s.2
    decide (e.lo - err ≤ h) && decide (l ≤ e.hi + err)
  | _ => false

/-- The free number where it keeps the bound; else the value itself, rounded. -/
def bounded (free : W32) (e : Encl) (err : Int) : W32 :=
  if within (val32 free) e err then free else to32 (.fin (e.lo < 0) e.lo.natAbs (-96))

/-- 2^-12 of the value, or 2^-20, whichever is larger. -/
def relErr (e : Encl) : Int := max (((max e.lo.natAbs e.hi.natAbs) / 4096 + 1 : Nat) : Int) (2 ^ 76)

/-- Codes 4 to 7 of Table 4.3 on a finite number: a free number within the table's maximum error. -/
def smooth (act : Nat) (neg : Bool) (m : Nat) (x : Int) (free : W32) : W32 :=
  let t := scaled m x
  match act with
  | 4 => bounded free (sigmoidEncl neg t) (2 ^ 82)
  | 5 => bounded free (tanhEncl neg t) (2 ^ 83)
  | 6 => let e := gatedEncl neg t (geluArg t); bounded free e (relErr e)
  | _ => let e := gatedEncl neg t t; bounded free e (relErr e)

/-- Whether m * 2^e is at most n * 2^f. -/
def leBin (m : Int) (e : Int) (n : Int) (f : Int) : Bool :=
  let g := min e f
  decide (m * 2 ^ (e - g).toNat ≤ n * 2 ^ (f - g).toNat)

/-- The place of the last bit of an fp32 number whose leading bit is at j. -/
def ulpAt (j : Int) : Int := max j (-126) - 23

/-- The finite number y lies within 2 ulp of a value between lo and hi, both times 2^e; the ulp is that of hi. -/
def within2 (y : FVal) (lo hi : Nat) (e : Int) : Bool :=
  match y with
  | .fin neg m x =>
    let q := ulpAt (hi.log2 + e)
    let g := min (min x q) e
    let yy : Int := (if neg then -1 else 1) * (m * 2 ^ (x - g).toNat : Nat)
    let u : Int := (2 * 2 ^ (q - g).toNat : Nat)
    leBin ((lo * 2 ^ (e - g).toNat : Nat) - u) g yy g && leBin yy g ((hi * 2 ^ (e - g).toNat : Nat) + u) g
  | _ => false

def bounded2 (free : W32) (lo hi : Nat) (e : Int) : W32 := if within2 (val32 free) lo hi e then free else to32 (.fin false lo e)

/-- ln 2 in multiples of 2^-96: between this and one more. -/
def ln2lo : Nat := 54916777467707473351141471128

/-- e^x of a finite x: 2^n * e^-u with u = n ln 2 - x between 0 and ln 2. Below -128 it is between 0 and 2^-184. -/
def expBound (neg : Bool) (m : Nat) (x : Int) (free : W32) : W32 :=
  let t := scaled m x
  if neg ∧ 128 * one96 ≤ t.1 then bounded2 free 0 1 (-184)
  else
    let n : Int := if neg then -((t.1 / (ln2lo + 1) : Nat) : Int) else (t.2 / ln2lo + 1 : Nat)
    let p := fun (c : Nat) => n * (c : Int)
    let lo : Int := if neg then (t.1 : Int) + p (ln2lo + 1) else p ln2lo - t.2
    let hi : Int := if neg then (t.2 : Int) + p ln2lo else p (ln2lo + 1) - t.1
    let e := expEncl lo.toNat hi.toNat
    bounded2 free e.lo.toNat e.hi.toNat (n - 96)

/-- The whole square root, bit by bit from the 64th. -/
def sqrtNat (n : Nat) : Nat := (List.range 64).foldl (fun r i => if (r + 2 ^ (63 - i)) * (r + 2 ^ (63 - i)) ≤ n then r + 2 ^ (63 - i) else r) 0

/-- 1 / sqrt(m * 2^x) of a positive number. -/
def rsqrtBound (m : Nat) (x : Int) (free : W32) : W32 :=
  let m' := if x % 2 = 0 then m else 2 * m
  let h := x / 2
  let s := sqrtNat (2 ^ 126 / m')
  bounded2 free s (s + 1) (-63 - h)

/-- The drain's activation functions (Table 4.3): code, Leaky ReLU exponent, clamp constant. Codes 4 to 7 are free
values within the maximum error the spec gives them. ReLU and clamp of a NaN give the canonical NaN, ReLU of -0 gives +0 (DESIGN CHOICE:
log 145). -/
def activate (act leak : Nat) (c x : W32) : W32 :=
  match act with
  | 0 => x
  | 1 => if (val32 x).isNan then nan32 else if (val32 x).neg then 0 else x
  | 2 =>
    match val32 x with
    | .fin true m e => to32 (.fin true m (e - leak))
    | _ => x
  | 3 =>
    let a := c &&& 0x7FFFFFFF#32
    let n := a ||| 0x80000000#32
    if (val32 x).isNan then nan32
    else if ltVal (val32 a) (val32 x) then a else if ltVal (val32 x) (val32 n) then n else x
  | k =>
    match val32 x with
    | .fin neg m e => smooth k neg m e (Config.activation k x)
    | .inf neg => if k = 4 ∨ k = 5 then smooth k neg 1 1000 (Config.activation k x) else Config.activation k x
    | .nan => Config.activation k x

/-- exp of Table 4.5: above 88.7, +infinity; exp(-infinity) and NaN as binary32 has them; otherwise a free value within
the 2 ulp the spec states. -/
def exp32 (x : W32) : W32 :=
  match val32 x with
  | .nan => nan32
  | .inf neg => if neg then 0 else 0x7F800000#32
  | .fin neg m e => if ltVal (.fin false 887 0) (mulVal (.fin neg m e) (.fin false 10 0)) then 0x7F800000#32 else expBound neg m e (Config.vexp x)

/-- Reciprocal square root of Table 4.5: 0 gives +infinity, a negative number NaN, else a free value within 2 ulp. -/
def rsqrt32 (x : W32) : W32 :=
  match val32 x with
  | .nan => nan32
  | .inf neg => if neg then nan32 else 0
  | .fin neg m e => if m = 0 then 0x7F800000#32 else if neg then nan32 else rsqrtBound m e (Config.vrsqrt x)

/-- One level of the pairwise tree. -/
def pairUp (f : W32 → W32 → W32) : List W32 → List W32
  | a :: b :: t => f a b :: pairUp f t
  | l => l

/-- The pairwise tree in fixed element order (Table 4.5): neighbours are paired, and an odd last element goes up unchanged (DESIGN CHOICE:
log 133). The fuel is the number of levels. -/
def tree (f : W32 → W32 → W32) : Nat → List W32 → List W32
  | 0, l => l
  | n + 1, l => tree f n (pairUp f l)

/-- Pooling of one lane over the rows of a group (R349). -/
def pool (mean : Bool) (vals : List W32) : W32 :=
  match vals with
  | [] => 0
  | v :: t => if mean then div32 (t.foldl add32 v) vals.length else (t.foldl max32 (if (val32 v).isNan then nan32 else v))

end Sys2Proof.Machine
end

