-- ==== Sys2Proof/Machine/Objects.lean ====
section
/-! DEFINITION. The object dictionary: which objects exist, their size, access, privilege, attributes, range and default
(R255, R275; Tables 3.6, 4.10, 6.3, 6.9, 7.9, 8.5, 9.3, 9.4, 10.3, 10.5, 10.13, 11.8, 12.5). -/

namespace Sys2Proof.Machine

/-- Access of an object (R11). -/
inductive Access where
  | ro | rw | wo
  deriving DecidableEq, Repr

/-- One object of the dictionary: bytes (0: a string of its own length), access, privilege a write needs, SET and
PERSIST, the bits that are not reserved, range, default. -/
structure OdRow where
  size : Nat
  acc : Access
  priv : Nat
  set : Bool
  persist : Bool
  signed : Bool
  mask : Nat
  lo : Int
  hi : Int
  dflt : Nat
  deriving DecidableEq, Repr

/-- A read-only object. -/
def roObj (size dflt : Nat) : OdRow := ⟨size, .ro, 2, false, false, false, 2 ^ (8 * size) - 1, 0, 2 ^ (8 * size), dflt⟩

/-- A read-only object that is kept in the hub keep. -/
def roKeep (size dflt : Nat) : OdRow := { roObj size dflt with persist := true }

/-- A write-only object with the privilege its write needs. -/
def woObj (size priv : Nat) : OdRow := { roObj size 0 with acc := .wo, priv := priv }

/-- A setting: SET and PERSIST, a number in a range, Engineer privilege. -/
def numObj (size : Nat) (lo hi : Int) (dflt : Nat) : OdRow :=
  ⟨size, .rw, 2, true, true, false, 2 ^ (8 * size) - 1, lo, hi, dflt⟩

/-- A setting of the full range of its type. -/
def anyObj (size dflt : Nat) : OdRow := numObj size 0 (2 ^ (8 * size)) dflt

/-- A setting with reserved bits, which are ignored and read zero (R10). -/
def bitObj (size mask dflt : Nat) : OdRow := { anyObj size dflt with mask := mask }

/-- A signed setting. -/
def intObj (size dflt : Nat) : OdRow := { anyObj size dflt with signed := true, lo := -(2 ^ (8 * size - 1)), hi := 2 ^ (8 * size - 1) - 1 }

def boolObj (dflt : Bool) : OdRow := numObj 1 0 1 (boolNat dflt)

/-- A setting that is not kept through a power loss. -/
def OdRow.volatile (r : OdRow) : OdRow := { r with persist := false }

/-- An object that is written at once, not through the shadow, and is not kept. -/
def OdRow.direct (r : OdRow) : OdRow := { r with set := false, persist := false }

/-- The same object with another write privilege. -/
def OdRow.level (r : OdRow) (p : Nat) : OdRow := { r with priv := p }

/-- Table 10.3. -/
def od1000 (part : Part) (idx : Nat) : List OdRow :=
  if idx = 0x1018 then [roObj 4 0x0B7D, roObj 4 (0x53444100 + part.dies), roObj 4 0, roObj 4 0]
  else if (0x1600 ≤ idx ∧ idx ≤ 0x1603) ∨ (0x1A00 ≤ idx ∧ idx ≤ 0x1A03) then
    List.replicate 0x40 { (anyObj 4 0).direct with persist := true }
  else if idx = 0x1C00 then [roObj 1 1, roObj 1 2, roObj 1 3, roObj 1 4]
  else if idx = 0x1C12 ∨ idx = 0x1C13 then List.replicate 4 { (anyObj 2 0).direct with persist := true }
  else if idx = 0x1C32 ∨ idx = 0x1C33 then [(numObj 2 0 3 0).direct, (anyObj 4 0).direct]
  else []

/-- Tables 6.3, 10.13 (0x2100) and 11.8. -/
def od2000 (part : Part) (idx : Nat) : List OdRow :=
  if idx = 0x2000 then [roObj 1 part.dies, roObj 1 (boolNat part.extended), roObj 1 (2 ^ part.dies - 1), roObj 2 1, roObj 2 1]
  else if idx = 0x2001 then
    [roObj 2 512, roObj 2 128, roObj 2 128, roObj 2 64, roObj 1 16, roObj 1 4, roObj 1 4, roObj 1 48, roObj 1 50, roObj 2 100,
     roObj 2 240, roObj 1 64, roObj 1 8, roObj 2 128, roObj 4 524288, roObj 2 4096, roObj 1 64, roObj 1 64, roObj 2 256,
     roObj 2 144, roObj 2 136, roObj 4 65536, roObj 4 16384, roObj 1 64, roObj 4 100663296]
  else if idx = 0x2002 then roObj 2 0 :: (List.replicate 19 (roObj 4 0) ++ [roObj 2 0])
  else if idx = 0x2100 then
    [woObj 4 0, roObj 1 0, roObj 1 0, roObj 2 0xFFFF, roObj 4 0, roKeep 8 0, roKeep 4 0, (numObj 1 0 1 0).direct.level 0]
  else if idx = 0x2200 then
    [roObj 1 0, bitObj 2 0x1FFF 0x1FFF, bitObj 1 1 1, woObj 1 2, roObj 1 0, (anyObj 8 0).direct, roObj 1 0, roObj 4 0, roObj 4 0,
     roKeep 1 0, woObj 4 2, roKeep 4 0, roObj 4 0]
  else if 0x2210 ≤ idx ∧ idx < 0x2210 + part.dies then
    [numObj 1 10 30 12, numObj 1 12 30 12, bitObj 1 3 0, roObj 1 0, roObj 1 0, roObj 4 0]
  else if 0x2220 ≤ idx ∧ idx ≤ 0x222A then [roObj 1 0, roKeep 4 0, roObj 4 0]
  else []

/-- Table 8.5. -/
def od2300 (idx : Nat) : List OdRow :=
  if idx = 0x2300 then
    [roObj 8 0, numObj 1 0 2 0, roObj 1 0, roObj 4 0, roObj 4 0, numObj 4 20 100000 100, roObj 8 0, roKeep 4 0,
     { woObj 8 2 with signed := true, lo := -(2 ^ 63), hi := 2 ^ 63 - 1 }, intObj 8 0, numObj 1 0 1 0, roObj 8 0, roObj 8 0]
  else if 0x2310 ≤ idx ∧ idx ≤ 0x2317 then
    [numObj 1 0 6 0, anyObj 1 0, numObj 4 100 100000000 40000, numObj 4 0 100000000 70000, anyObj 4 0, numObj 4 1 1048576 1024,
     boolObj false, numObj 2 10 1000 200, roObj 1 0, roObj 4 0, roObj 4 0, roKeep 4 0]
  else if idx = 0x2320 then List.replicate 0x40 (bitObj 8 0x1F7FFFFFFFF 0)
  else if idx = 0x2330 then [roKeep 4 0, numObj 4 0 100000000 0, boolObj true]
  else []

/-- Table 9.3. -/
def od2400 (idx : Nat) : List OdRow :=
  if 0x2400 ≤ idx ∧ idx ≤ 0x245F then
    [numObj 1 0 2 0, numObj 1 0 7 0, bitObj 1 0x1F 0, numObj 2 8 256 64, numObj 1 0 7 0, boolObj false, numObj 1 8 32 16,
     intObj 2 0x7FFF, intObj 2 0x8000, numObj 2 0 32767 256, numObj 1 0 2 1, intObj 2 0, roObj 1 0, roObj 4 0, roObj 4 0,
     roObj 2 0, roObj 4 0]
  else if 0x2460 ≤ idx ∧ idx ≤ 0x246F then [boolObj false, roObj 2 0]
  else if idx = 0x2470 then
    List.replicate 8 (bitObj 2 0xFF 0x33) ++
      [roObj 1 0, bitObj 1 0x7F 0, bitObj 1 0xF 0, roKeep 4 0, roObj 1 0]
  else if 0x2480 ≤ idx ∧ idx ≤ 0x248F then
    [anyObj 4 0, anyObj 4 0, anyObj 4 0, anyObj 2 0, numObj 1 1 16 1, bitObj 1 3 0, bitObj 1 0x7F 0, bitObj 2 0x1FF 0, bitObj 2 0x1FF 0,
     bitObj 2 0x1FF 0, bitObj 2 0x1FF 0, anyObj 1 0xFF, roObj 1 0, roObj 8 0, roObj 4 0, roObj 4 0, roObj 4 0]
  else if 0x2490 ≤ idx ∧ idx ≤ 0x249F then
    [roObj 8 0, (bitObj 1 3 0).direct.level 1, anyObj 4 0, anyObj 4 0, roObj 4 0]
  else []

/-- The default of CLEAR_CODE by the straps and the range (R243). -/
def clearDefault (part : Part) (range : Nat) : Nat := if part.clrsel = 1 then (if range < 2 then 0x8000 else 0) else 0

/-- Table 9.4 and the backstop masks. -/
def od2500 (part : Part) (range : Nat) (idx : Nat) : List OdRow :=
  if 0x2500 ≤ idx ∧ idx ≤ 0x250F then
    [numObj 1 0 3 0, anyObj 1 0xFF, bitObj 1 0x7F 0, numObj 4 2000 1000000 10000, (anyObj 8 0).volatile, anyObj 2 (clearDefault part range),
     numObj 1 0 2 1, anyObj 2 0, (numObj 1 0 1 0).volatile, (bitObj 1 3 0).volatile, (numObj 2 1 65535 1).volatile,
     (bitObj 8 0xFFFFFFFFFFFF 0).volatile, (numObj 2 1 4096 1).volatile, (anyObj 1 0xFF).volatile, boolObj false, woObj 2 1,
     roObj 4 4, { woObj 1 1 with lo := 1, hi := 2 }, roObj 4 0, roObj 4 0, roObj 2 0]
  else if 0x2520 ≤ idx ∧ idx ≤ 0x253F then
    [boolObj true, numObj 1 0 1 0, numObj 1 0 1 0, numObj 2 1 10000 10, anyObj 1 0xFF, roObj 1 0,
     { woObj 1 1 with lo := 1, hi := 1 }, roKeep 4 0, roObj 4 0, roObj 4 0]
  else if 0x2540 ≤ idx ∧ idx ≤ 0x255F then List.replicate 6 (anyObj 4 0)
  else if idx = 0x2560 then [(bitObj 2 0x3F 1).direct.level 1, bitObj 2 0x3F 0x3F, roObj 1 1, anyObj 2 0]
  else []

/-- Table 7.9. -/
def od2600 (idx : Nat) : List OdRow :=
  if idx = 0x2600 then [woObj 8 1, roObj 4 0, numObj 1 1 64 4, (anyObj 8 0).direct.level 1, (numObj 1 0 63 0).direct.level 1, roObj 1 0]
  else if 0x2610 ≤ idx ∧ idx ≤ 0x264F then
    [roKeep 1 0, roKeep 1 0, roKeep 4 0, roKeep 1 0, roKeep 1 0, roKeep 8 0, roKeep 8 0, roObj 4 0, roKeep 4 0, roKeep 8 0, roObj 1 0,
     roKeep 1 0]
  else if idx = 0x2700 then
    [anyObj 4 0, anyObj 2 4420, { anyObj 0 0 with mask := 0 }, roObj 0 0, anyObj 4 1, anyObj 8 0, numObj 1 1 4 2, numObj 1 2 32 16,
     bitObj 1 3 3, numObj 1 0 1 0, numObj 2 100 30000 2000, numObj 1 1 20 5, numObj 2 2 300 10, numObj 2 256 1024 1024]
  else if idx = 0x2701 then [roObj 1 0, roObj 8 0, roObj 2 0, roObj 4 0, roObj 4 0]
  else if idx = 0x2710 then [numObj 2 16 480 96, anyObj 1 32, numObj 2 50 400 150, roObj 2 0, roKeep 8 0, roObj 8 0]
  else if idx = 0x2720 then [roObj 8 0, woObj 4 2]
  else []

/-- Tables 3.6, 10.13 and 12.5. -/
def od2800 (idx : Nat) : List OdRow :=
  if idx = 0x2800 then
    [boolObj true, numObj 2 100 1000 300, numObj 4 600 604800 3600, numObj 2 1 3600 10, numObj 2 10 3600 60, numObj 1 1 32 6, numObj 1 1 4 3,
     numObj 2 0x4000 0x7C00 0x6CCD, anyObj 1 128, anyObj 1 64, anyObj 2 30, anyObj 1 8, boolObj true]
  else if idx = 0x2801 then
    [roObj 4 0, roObj 4 0, roObj 4 0, roObj 4 0, roObj 8 0, roObj 8 0, roObj 8 0, roObj 4 0, roObj 4 0]
  else if idx = 0x2802 then [woObj 4 2, woObj 4 2, woObj 4 2]
  else if idx = 0x2810 then [roKeep 4 0, roKeep 4 0, (anyObj 4 0).direct, roObj 8 0, roKeep 4 0]
  else if idx = 0x2820 then
    [(anyObj 4 0).direct, roObj 1 255, roKeep 2 0x8000, roKeep 1 0, roKeep 2 0, roKeep 1 0, roObj 4 0, roObj 2 0, roObj 2 0, roObj 8 0,
     roObj 2 0, roObj 4 0]
  else if idx = 0x2900 then [roObj 4 0, woObj 4 2]
  else if idx = 0x2A00 then
    [(boolObj false).direct.level 1, numObj 2 1 60 5, roObj 1 0, roKeep 4 0, roKeep 4 0, roKeep 4 0, roKeep 8 0, roKeep 4 0, roKeep 8 0,
     roKeep 4 0, roObj 32 0, woObj 33 2, roKeep 8 0]
  else if idx = 0x2A10 then [(numObj 2 0 1023 0).direct, numObj 2 1 10000 100, numObj 2 1 4096 64, roObj 4 0]
  else []

/-- Table 10.13 (0x2B00 on), 12.5 and 6.9. -/
def od2B00 (idx : Nat) : List OdRow :=
  if idx = 0x2B00 then
    [roObj 1 0, { woObj 1 0 with lo := 0, hi := 7 }, roObj 32 0, woObj 32 0, woObj 1 0, roKeep 4 0, woObj 4 2]
  else if idx = 0x2B01 then List.replicate 8 (roKeep 1 0)
  else if idx = 0x2B02 then [{ woObj 34 2 with persist := true }]
  else if 0x2B10 ≤ idx ∧ idx ≤ 0x2B17 then
    (if idx = 0x2B13 then List.replicate 16 (roObj 8 0) else List.replicate 16 (bitObj 8 0x3FFFFFFFFFFFFF 0)) ++
      [roObj 1 0, roObj 8 0, roObj 8 0, roObj 2 0, roObj 4 0]
  else if idx = 0x2B20 ∨ idx = 0x2B21 then [anyObj 4 0, anyObj 4 0, anyObj 4 0, anyObj 2 50420, roObj 8 0, roObj 1 0, roObj 4 0]
  else if idx = 0x2B30 then [anyObj 1 0, anyObj 4 0, anyObj 2 50421, numObj 2 1 600 10]
  else if idx = 0x2B31 then List.replicate 0x20 (bitObj 4 0xFFFFFF 0)
  else if 0x2B40 ≤ idx ∧ idx ≤ 0x2B7F then List.replicate 14 (bitObj 8 0x3FFFFFFFFFFFFF 0) ++ [roObj 8 0, roObj 8 0]
  else if idx = 0x2B80 then [roKeep 1 0, roKeep 4 0, roKeep 4 0, (numObj 4 1 2097152 0).direct, { woObj 1 2 with lo := 1, hi := 3 }, roObj 1 0]
  else if idx = 0x2C00 then
    [numObj 2 1 3600 10, numObj 4 3600 2592000 86400, roKeep 8 0, roKeep 8 0, roObj 8 0, roObj 4 0, roKeep 4 0, roKeep 8 0, roObj 8 0,
     numObj 2 1 1024 16]
  else if idx = 0x2C10 then
    woObj 2 2 :: (List.replicate 4 (roObj 1 8) ++ [roKeep 4 0] ++ List.replicate 5 (roObj 1 0) ++ List.replicate 5 (roObj 2 0xFFFF) ++
      List.replicate 5 (roObj 1 0))
  else if idx = 0x2D00 then
    [numObj 2 1 65535 1, numObj 1 0 2 0, numObj 1 0 3 0, anyObj 2 0, anyObj 4 0, anyObj 2 0, numObj 2 20 10000 100, bitObj 1 0x7F 0,
     anyObj 1 0xFF, boolObj false, { woObj 1 1 with lo := 1, hi := 2 }, roObj 1 0, roKeep 4 0]
  else if 0x2D08 ≤ idx ∧ idx ≤ 0x2D0B then
    [roObj 1 0, roObj 2 0, roObj 4 0, roObj 1 0, roObj 8 0, roObj 8 0, roObj 4 0, roKeep 4 0, roObj 4 0]
  else if 0x2D20 ≤ idx ∧ idx ≤ 0x2D5F then List.replicate 0x40 (bitObj 8 0xFFFFFFFF0007 0)
  else []

/-- Table 4.10, for the cores physically present (R5). -/
def od3000 (part : Part) (idx : Nat) : List OdRow :=
  let c := idx - 0x3000
  if c < 144 * part.dies ∨ (576 ≤ c ∧ c < 584) then
    [roObj 1 0, roObj 1 0xFF, roObj 2 0, roObj 1 0, roObj 2 0, roObj 4 0, roObj 1 0, roObj 8 0, roObj 4 0, roObj 4 0, roObj 4 0, roObj 4 0,
     roObj 4 0, roObj 4 0, roObj 4 0, roObj 8 0, roObj 8 0, roObj 8 0, roObj 8 0]
  else []

/-- Table 10.5. -/
def od6000 (idx : Nat) : List OdRow :=
  if idx = 0x6000 then List.replicate 0x60 (roObj 2 0)
  else if idx = 0x6001 then List.replicate 0x10 (roObj 2 0)
  else if idx = 0x6010 then [roObj 4 0, roObj 2 1, roObj 8 0]
  else if idx = 0x6020 then List.replicate 8 (roObj 4 0)
  else if idx = 0x6800 then List.replicate 0x40 (roObj 4 0)
  else if idx = 0x6801 ∨ idx = 0x7801 then List.replicate 0x40 ((anyObj 4 0xFFFFFFFF).level 1)
  else if idx = 0x7000 then List.replicate 0x10 (woObj 2 1)
  else if idx = 0x7800 then List.replicate 0x40 (woObj 4 1)
  else []

/-- The objects of an index: subindices 1, 2, ... -/
def odRows (part : Part) (range idx : Nat) : List OdRow :=
  if idx < 0x2000 then od1000 part idx
  else if idx < 0x2300 then od2000 part idx
  else if idx < 0x2400 then od2300 idx
  else if idx < 0x2500 then od2400 idx
  else if idx < 0x2600 then od2500 part range idx
  else if idx < 0x2800 then od2600 idx
  else if idx < 0x2B00 then od2800 idx
  else if idx < 0x3000 then od2B00 idx
  else if idx < 0x6000 then od3000 part idx
  else od6000 idx

/-- The single-entry strings and numbers of Table 10.3, which stand at subindex 0. -/
def odZero (idx : Nat) : Option OdRow :=
  if idx = 0x1000 then some (roObj 4 0)
  else if idx = 0x1008 ∨ idx = 0x1009 ∨ idx = 0x100A then some (roObj 0 0)
  else none

/-- Whether an index exists at all. -/
def odExists (part : Part) (idx : Nat) : Bool := (odZero idx).isSome || !(odRows part 0 idx).isEmpty

/-- The row of an object; subindex 0 of a record or array gives its highest subindex (R255). -/
def odRow (part : Part) (range idx sub : Nat) : Option OdRow :=
  match odZero idx with
  | some r => if sub = 0 then some r else none
  | none =>
    let rows := odRows part range idx
    if rows.isEmpty then none
    else if sub = 0 then some (roObj 1 rows.length)
    else rows[sub - 1]?

/-- The key of an object. -/
def odKey (idx sub : Nat) : Nat := idx * 256 + sub

end Sys2Proof.Machine
end

