-- ==== Sys2Proof/Machine/Ops.lean ====
section
/-! DEFINITION. The named operations over the state: units, settings, counters, records, byte memory with poison, sync
objects, cores and engines, role epochs. -/

namespace Sys2Proof.Machine

/-! ## Units (R2, R13) -/

/-- Sentinel cores are 576 to 583. -/
def isSentinel (c : Nat) : Bool := decide (576 ≤ c) && decide (c < 584)

/-- The die of a core; the sentinel cores sit on the hub, die 4. -/
def dieOf (c : Nat) : Nat := c / 144

/-- Whether a core is physically present (R5). -/
def State.present (s : State) (c : Nat) : Bool := isSentinel c || (decide (c < 576) && decide (dieOf c < s.part.dies))

/-- The cores physically present. -/
def State.coreList (s : State) : List Nat := List.range (144 * s.part.dies) ++ (List.range 8).map (· + 576)

/-- The source number of a core (Table 0.4). -/
def coreSource (c : Nat) : Nat := 0x1000 + c

def State.core (s : State) (c : Nat) : Core := Tab.get Core.reset s.cores c
def State.setCore (s : State) (c : Nat) (k : Core) : State := { s with cores := Tab.set s.cores c k }
def State.modCore (s : State) (c : Nat) (f : Core → Core) : State := s.setCore c (f (s.core c))
def State.modSeq (s : State) (c : Nat) (f : Seq → Seq) : State := s.modCore c (fun k => { k with seq := f k.seq })
def State.modComm (s : State) (c : Nat) (f : Comm → Comm) : State := s.modCore c (fun k => { k with comm := f k.comm })

/-- Table key of a physical engine. -/
def engKey (c e : Nat) : Nat := c * 50 + e

def State.eng (s : State) (c e : Nat) : Engine := Tab.get (Engine.reset (isSentinel c)) s.engines (engKey c e)
/-- An engine after g: ENG_STATE and REF_MASK as they were are the previous generation of those that change (R281). -/
def Engine.since (h g : Engine) : Engine :=
  if h.state = g.state ∧ h.refMask = g.refMask then h
  else { h with prevState := if h.state = g.state then h.prevState else g.state, prevMask := if h.refMask = g.refMask then h.prevMask else g.refMask,
                fallen := h.fallen.filter (fun n => if n = 4 then h.state == g.state else h.refMask == g.refMask) }

def State.setEng (s : State) (c e : Nat) (g : Engine) : State := { s with engines := Tab.set s.engines (engKey c e) (g.since (s.eng c e)) }
def State.modEng (s : State) (c e : Nat) (f : Engine → Engine) : State := s.setEng c e (f (s.eng c e))

def State.ctx (s : State) (x : Nat) : Ctx := Tab.get Ctx.reset s.ctxs x

def Ctx.kept (k : Ctx) : CtxKept :=
  ⟨k.pointer, k.switchAt, k.bank0.state, k.bank1.state, k.bank0.image, k.bank1.image, k.lastEclosion, k.bank0.source, k.bank1.source⟩

/-- Each object that changes from one to the other leaves its value as its previous generation (R281). -/
def CtxKept.behind (p old now : CtxKept) : CtxKept :=
  { pointer := if now.pointer = old.pointer then p.pointer else old.pointer
    switchAt := if now.switchAt = old.switchAt then p.switchAt else old.switchAt
    state0 := if now.state0 = old.state0 then p.state0 else old.state0
    state1 := if now.state1 = old.state1 then p.state1 else old.state1
    image0 := if now.image0 = old.image0 then p.image0 else old.image0
    image1 := if now.image1 = old.image1 then p.image1 else old.image1
    lastEclosion := if now.lastEclosion = old.lastEclosion then p.lastEclosion else old.lastEclosion
    source0 := if now.source0 = old.source0 then p.source0 else old.source0
    source1 := if now.source1 = old.source1 then p.source1 else old.source1 }

/-- The object of a subindex of Table 7.9 is the same in both. -/
def CtxKept.same (a b : CtxKept) (sub : Nat) : Bool :=
  match sub with
  | 2 => a.pointer == b.pointer
  | 3 => a.switchAt == b.switchAt
  | 4 => a.state0 == b.state0
  | 5 => a.state1 == b.state1
  | 6 => a.image0 == b.image0
  | 7 => a.image1 == b.image1
  | 10 => a.lastEclosion == b.lastEclosion
  | _ => a.source0 == b.source0 && a.source1 == b.source1

/-- A context after k. One that is unloaded leaves nothing. -/
def Ctx.since (h k : Ctx) : Ctx :=
  if h.kept = k.kept ∨ h.state = .none then h
  else { h with prev := h.prev.behind k.kept h.kept, fallen := h.fallen.filter (h.kept.same k.kept) }

def State.setCtx (s : State) (x : Nat) (k : Ctx) : State := { s with ctxs := Tab.set s.ctxs x (k.since (s.ctx x)) }
def State.modCtx (s : State) (x : Nat) (f : Ctx → Ctx) : State := s.setCtx x (f (s.ctx x))

def Ctx.bank (k : Ctx) (i : Nat) : Bank := if i = 0 then k.bank0 else k.bank1
def Ctx.setBank (k : Ctx) (i : Nat) (b : Bank) : Ctx := if i = 0 then { k with bank0 := b } else { k with bank1 := b }
def Ctx.modBank (k : Ctx) (i : Nat) (f : Bank → Bank) : Ctx := k.setBank i (f (k.bank i))

/-- A change of CTX_STATE, whose previous value the hub keep holds as its previous generation (R281). -/
def Ctx.enter (k : Ctx) (st : CtxState) : Ctx := if k.state = st then k else { k with state := st, before := k.state, fellBack := false }

/-- The imago bank: bit 0 of POINTER (Table 7.9). -/
def Ctx.imago (k : Ctx) : Nat := field k.pointer 0 1

/-- An object of the hub keep is about to change from v: v is its previous generation (R281). -/
def State.keepLast (s : State) (key v : Nat) : State :=
  { s with keep := { s.keep with prevLast := Tab.set s.keep.prevLast key v, fallen := s.keep.fallen.erase key } }

def State.chan (s : State) (c : Nat) : Channel := Tab.get Channel.reset s.meas.chans c
def State.modChan (s : State) (c : Nat) (f : Channel → Channel) : State :=
  { s with meas := { s.meas with chans := Tab.set s.meas.chans c (f (s.chan c)) } }

def State.dac (s : State) (ch : Nat) : Dac := Tab.get Dac.reset s.outs.dacs ch
def State.modDac (s : State) (ch : Nat) (f : Dac → Dac) : State :=
  { s with outs := { s.outs with dacs := Tab.set s.outs.dacs ch (f (s.dac ch)) } }

def State.trip (s : State) (n : Nat) : Trip := Tab.get Trip.reset s.outs.trips n
def State.modTrip (s : State) (n : Nat) (f : Trip → Trip) : State :=
  { s with outs := { s.outs with trips := Tab.set s.outs.trips n (f (s.trip n)) } }

def State.trk (s : State) (t : Nat) : Tracker := Tab.get Tracker.reset s.trackers t
def State.modTrk (s : State) (t : Nat) (f : Tracker → Tracker) : State :=
  { s with trackers := Tab.set s.trackers t (f (s.trk t)) }

def State.session (s : State) (n : Nat) : Session := Tab.get Session.reset s.sessions n
def State.modSession (s : State) (n : Nat) (f : Session → Session) : State :=
  { s with sessions := Tab.set s.sessions n (f (s.session n)) }

def State.master (s : State) (m : Nat) : Master := Tab.get Master.reset s.masters m
def State.modMaster (s : State) (m : Nat) (f : Master → Master) : State :=
  { s with masters := Tab.set s.masters m (f (s.master m)) }

def State.port (s : State) (p : Nat) : Port := Tab.get Port.reset s.ports p
def State.modPort (s : State) (p : Nat) (f : Port → Port) : State := { s with ports := Tab.set s.ports p (f (s.port p)) }

def State.gen (s : State) (g : Nat) : Gen := Tab.get Gen.reset s.clk.gens g
def State.setGen (s : State) (g : Nat) (v : Gen) : State := { s with clk := { s.clk with gens := Tab.set s.clk.gens g v } }

def State.replace (s : State) (d : Nat) : Replace := Tab.get Replace.reset s.svc.replace d
def State.modReplace (s : State) (d : Nat) (f : Replace → Replace) : State :=
  { s with svc := { s.svc with replace := Tab.set s.svc.replace d (f (s.replace d)) } }

/-- The master a session belongs to (R270). -/
def sesMaster (ses : Ses) : Nat := if ses = 0 then 0 else if ses = 1 then 1 else 2

/-- The source number of a hub master (Table 10.11). -/
def masterSource (m : Nat) : Nat := 0x20 + m

/-! ## Free values -/

/-- One fresh index for a free value. -/
def State.draw (s : State) : State := { s with draws := s.draws + 1 }

def State.drawN (s : State) (n : Nat) : State := { s with draws := s.draws + n }

/-! ## Settings and counters -/

/-- The row of an object on this part. CLEAR_CODE's default depends on the range (R243). -/
def State.row (s : State) (idx sub : Nat) : Option OdRow :=
  odRow s.part (Tab.get 0 s.sets.active (odKey idx 1)) idx sub

def State.dflt (s : State) (idx sub : Nat) : Nat := match s.row idx sub with | some r => r.dflt | none => 0

/-- The active value of a set-bound object, which is the one the module acts on (R273). -/
def State.cfg (s : State) (idx sub : Nat) : Nat := Tab.get (s.dflt idx sub) s.sets.active (odKey idx sub)

def State.cfgShadow (s : State) (idx sub : Nat) : Nat := Tab.get (s.dflt idx sub) s.sets.shadow (odKey idx sub)

/-- The key of RATE and BURST of a bucket (R325). -/
def bucketKey (b sub : Nat) : Nat := b * 2 ^ 24 + odKey 0x2A10 sub

def State.bucketCfg (s : State) (b sub : Nat) : Nat := Tab.get (s.dflt 0x2A10 sub) s.sets.active (bucketKey b sub)

def State.count (s : State) (idx sub : Nat) : Nat := Tab.get (s.dflt idx sub) s.counters (odKey idx sub)

def State.setCount (s : State) (idx sub v : Nat) : State := { s with counters := Tab.set s.counters (odKey idx sub) v }

/-- Counters of Table 4.10 stop at their maximum (R130); past the maximum of another counter the spec is silent. -/
def State.bumpBy (s : State) (idx sub n : Nat) : State :=
  let size := match s.row idx sub with | some r => r.size | none => 8
  let v := s.count idx sub + n
  let top := 2 ^ (8 * size)
  s.setCount idx sub (if v < top then v else if 0x3000 ≤ idx then top - 1 else Config.counterOverflow (odKey idx sub) v % top)

def State.bump (s : State) (idx sub : Nat) : State := s.bumpBy idx sub 1

/-- The peripheral of CLK_EN bit i has its clock: enabled, and not in the watch state (R288, R301). -/
def State.clocked (s : State) (i : Nat) : Bool := bit (s.cfg 0x2200 2) i && !s.pwr.watch

/-- The die whose closed crossing an access through the system address map meets (R303). -/
def State.shutDie (s : State) (a : Nat) : Option Nat :=
  let d := if 0x40000000 ≤ a then (a - 0x40000000) / 0x200000 / 144 else if 0x06200000 ≤ a ∧ a < 0x06300000 then (a - 0x06200000) / 0x40000 else 4
  if d < 4 ∧ !Tab.get false s.pwr.crossings d then some d else none

/-- The generator of a core's read slots: UPLL of its die, or SPLL (R286). -/
def timebaseGen (c : Nat) : Nat := if isSentinel c then 2 else 7 + dieOf c

/-- ATB_d of a compute core's die still ramps: no read slot starts there (R294). -/
def State.atbRamps (s : State) (c : Nat) : Bool :=
  !isSentinel c && (match Tab.find s.clk.divs (40 + dieOf c) with | some v => v.now != v.target | none => false)

/-- A generator's frequency error in ppm: none while it is locked, else its pilot's. -/
def State.genPpm (s : State) (g : Nat) : Int := if (s.gen g).state = 0 then 0 else (s.gen g).pilotPpm

/-- A core's read slots run on its pilot (R295). -/
def State.onPilot (s : State) (c : Nat) : Bool := (s.gen (timebaseGen c)).state != 0

/-- The management controller restarts: drift tracking, stoke scheduling and programming pause (R282, R302). -/
def State.paused (s : State) : Bool := s.fw.switching.isSome

/-! ## Records (R218, R322) -/

/-- A record on its way to the recorder, stamped with the given GTC. -/
def State.recordAt (s : State) (gtc src code : Nat) (payload : List Nat) : State :=
  { s with ash := { s.ash with inbox := s.ash.inbox ++ [⟨⟨gtc, src, code, payload, false, false, false, false, 0, 0⟩, none⟩] } }

def State.record (s : State) (src code : Nat) (payload : List Nat) : State := s.recordAt s.time.gtc src code payload

/-- MSI-X vector v (Table 10.8). -/
def State.msix (s : State) (v : Nat) : State := { s with pcie := { s.pcie with msix := setBit s.pcie.msix v true } }

/-! ## System addresses (Table 10.7) -/

def coreBase (c : Nat) : Nat := 0x40000000 + c * 0x200000
def abAddr (c line : Nat) : Nat := coreBase c + line % 8192 * 64
/-- A lane of a tile row (R99). Rows past a tile's end, which only a host-written word can name, are those of the next tile. -/
def accAddr (c tile row lane : Nat) : Nat := coreBase c + 0x80000 + (tile * 4096 + row * 512 + lane * 4) % 0x40000
def planAddr (c bank i : Nat) : Nat := coreBase c + 0xC0000 + bank * 0x8000 + i * 8
def ringAddr (r off : Nat) : Nat := 0x04000000 + r * 0x100000 + off
def patAddr (ch i : Nat) : Nat := 0x06100000 + ch * 0x2000 + i * 2

/-- The word of a sync object: objects of die d are 65,536 d + index, those of the hub 262,144 + index. -/
def syncAddr (obj : Nat) : Nat := 0x06200000 + 4 * obj

/-- The object a handle names on a core (R119). -/
def handleObj (c handle : Nat) : Nat :=
  if handle.testBit 16 || isSentinel c then 262144 + handle % 16384 else dieOf c * 65536 + handle % 65536

/-- Whether every byte of a range is a listed address of Table 10.7 outside management SRAM. -/
def mappedRange (a n : Nat) : Bool :=
  [(0, 0x05800000), (0x06000000, 0x06120000), (0x06200000, 0x06310000), (0x08000000, 0x09C84000), (0x0A000000, 0x0A001000),
   (0x0A010000, 0x0A010920), (0x40000000, 0x89000000)].any (fun r => decide (r.1 ≤ a) && decide (a + n ≤ r.2))

/-! ## Byte memory with poison (R311, R312) -/

/-- Whether any 64-bit word that the range touches is poisoned. -/
def State.poisoned (s : State) (a n : Nat) : Bool := s.svc.poison.any (fun w => decide (w < a + n) && decide (a < w + 8))

/-- The 64-bit word at w is poisoned (R311). -/
def State.poisonWord (s : State) (w : Nat) : State :=
  { s with svc := { s.svc with poison := if s.svc.poison.contains w then s.svc.poison else s.svc.poison ++ [w] } }

/-- A line of 64 bytes from a that came poisoned. -/
def State.poisonAt (s : State) (a : Nat) : State := (List.range 8).foldl (fun s i => s.poisonWord (a + 8 * i)) s

/-- A line of an activation buffer that came poisoned. -/
def State.poisonLine (s : State) (c line : Nat) : State := s.poisonAt (abAddr c line)

/-- A number joins a list that holds each once. -/
def insertNew (l : List Nat) (n : Nat) : List Nat := if l.contains n then l else l ++ [n]

/-- A byte as a reader gets it: a poisoned word reads 0xDEAD_DEAD_DEAD_DEAD. -/
def State.byte (s : State) (a : Nat) : Byte :=
  if s.poisoned a 1 then (if a % 2 = 0 then 0xAD else 0xDE) else Mem.read s.mem a

def State.bytes (s : State) (a : Nat) : Nat → List Byte
  | 0 => []
  | n + 1 => s.byte a :: s.bytes (a + 1) n

def State.num (s : State) (a n : Nat) : Nat := fromLE (s.bytes a n)

/-- A write of plain memory. A full 64-bit write gives a poisoned word fresh check bits. -/
def State.poke (s : State) (a : Nat) (bs : List Byte) : State :=
  { s with mem := Mem.writeBytes s.mem a bs,
           svc := { s.svc with poison := s.svc.poison.filter (fun w => !(decide (a ≤ w) && decide (w + 8 ≤ a + bs.length))) } }

/-- Memory and poison of a range back to what nothing written reads as. -/
def State.wipe (s : State) (lo hi : Nat) : State :=
  { s with mem := Mem.clear s.mem lo hi, svc := { s.svc with poison := s.svc.poison.filter (fun w => decide (w < lo) || decide (hi ≤ w)) } }

/-! ## Sync objects -/

def State.sync (s : State) (obj : Nat) : Nat := s.num (syncAddr obj) 4
def State.setSync (s : State) (obj v : Nat) : State := s.poke (syncAddr obj) (toLE 4 v)

/-- (COUNT - target) mod 2^24 < 2^23 (R122). -/
def reached (count target : Nat) : Bool := decide ((count % 2 ^ 24 + 2 ^ 24 - target % 2 ^ 24) % 2 ^ 24 < 2 ^ 23)

/-- A sync update goes on its way to its store. -/
def State.sendSync (s : State) (u : SyncUpd) : State := { s with net := { s.net with syncs := s.net.syncs ++ [u] } }

/-! ## Core memory -/

/-- A lane of a tile row. -/
def State.lane (s : State) (c tile row l : Nat) : W32 := BitVec.ofNat 32 (s.num (accAddr c tile row l) 4)

/-- The lanes of a tile row. -/
def State.lanes (s : State) (c tile row : Nat) : List W32 := (List.range 128).map (s.lane c tile row)

def State.setLanes (s : State) (c tile row : Nat) (vs : List W32) : State :=
  s.poke (accAddr c tile row 0) ((vs.map (fun v => toLE 4 v.toNat)).flatten)

def tagKey (tile row : Nat) : Nat := tile * 8 + row
def Core.tag (k : Core) (tile row : Nat) : RowTag := Tab.get RowTag.reset k.tags (tagKey tile row)
def State.setTag (s : State) (c tile row : Nat) (t : RowTag) : State :=
  s.modCore c (fun k => { k with tags := Tab.set k.tags (tagKey tile row) t })

/-- n bytes of the activation buffer from a byte offset; addresses wrap at line 8,192 (R136). -/
def State.abBytes (s : State) (c line off n : Nat) : List Byte :=
  (List.range n).map (fun i => s.byte (coreBase c + (line * 64 + off + i) % 0x80000))

def State.abPoisoned (s : State) (c line off n : Nat) : Bool :=
  let a := (line * 64 + off) % 0x80000
  s.poisoned (coreBase c + a) (min n (0x80000 - a)) || (decide (0x80000 - a < n) && s.poisoned (coreBase c) (n - (0x80000 - a)))

/-- Writes bytes of the activation buffer from a line, wrapping at line 8,192. -/
def State.abWrite (s : State) (c line : Nat) (bs : List Byte) : State :=
  let a := (line * 64) % 0x80000
  let s := s.poke (coreBase c + a) (bs.take (0x80000 - a))
  if 0x80000 - a < bs.length then s.poke (coreBase c) (bs.drop (0x80000 - a)) else s

/-! ## Role epochs (R126) -/

/-- The epoch after a role change: it never returns to 0. -/
def nextEpoch (e : Nat) : Nat := if e = 0xFFFF then 1 else e + 1

/-- A peer slot that names local core c, with the core's epoch. -/
def Peer.refill (p : Peer) (c ep : Nat) : Peer := if p.core = c ∧ p.binding = none then { p with epoch := ep } else p

/-- Every peer slot that names core c refilled with its epoch (R147). -/
def State.refillPeers (s : State) (c : Nat) : State :=
  let ep := (s.core c).comm.epoch
  let fill := fun (k : Core) => { k with comm := { k.comm with peers := k.comm.peers.map (fun p => (p.1, p.2.refill c ep)) } }
  { s with cores := s.cores.map (fun e => (e.1, fill e.2)) }

/-- A role change of core c: its epoch rises and the loader refills the slots that name it. -/
def State.raiseEpoch (s : State) (c : Nat) : State :=
  (s.modComm c (fun m => { m with epoch := nextEpoch m.epoch })).refillPeers c

/-! ## Maps -/

/-- The engine map of a bank. -/
def Core.map (k : Core) (bank : Nat) : Tab Nat := if bank = 0 then k.map0 else k.map1
def Core.setMap (k : Core) (bank : Nat) (m : Tab Nat) : Core := if bank = 0 then { k with map0 := m } else { k with map1 := m }

/-- The plan header kept for a bank. -/
def Core.head (k : Core) (bank : Nat) : Option PlanHeader := if bank = 0 then k.head0 else k.head1
def Core.setHead (k : Core) (bank : Nat) (h : Option PlanHeader) : Core := if bank = 0 then { k with head0 := h } else { k with head1 := h }

/-- Physical engines either map of a core names. -/
def Core.mapped (k : Core) : List Nat := ((k.map0.map (·.2)) ++ (k.map1.map (·.2))).eraseDups

/-- The engine is in the engine map that is running (R98). -/
def Core.runsOn (k : Core) (e : Nat) : Bool := (k.map k.seq.bank).any (fun m => m.2 == e)

/-- BOUND_MAX of k register r under the running plan's header. -/
def Core.boundMax (k : Core) (r : Nat) : Nat :=
  match k.head k.seq.bank with
  | some h => h.boundMax.getD r 0
  | none => 0

/-! ## Registers -/

/-- k0 to k15. -/
def Core.kreg (k : Core) (r : Nat) : Nat := if h : r < 16 then (k.seq.k[r]).toNat else 0
/-- The bound half of a k register (R137). -/
def Core.bound (k : Core) (r : Nat) : Nat := k.kreg r % 65536
/-- The offset half of a k register (R137). -/
def Core.offset (k : Core) (r : Nat) : Nat := k.kreg r / 65536
def Core.sreg (k : Core) (r : Nat) : Nat := if h : r < 32 then (k.seq.s[r]).toNat else 0

def Seq.setK (q : Seq) (r v : Nat) : Seq := { q with k := q.k.setIfInBounds r (BitVec.ofNat 32 v) }
def Seq.setS (q : Seq) (r v : Nat) : Seq := { q with s := q.s.setIfInBounds r (BitVec.ofNat 32 v) }

/-- A register of file SEL. -/
def Core.reg (k : Core) (sel : Bool) (r : Nat) : Nat := if sel then k.sreg r else k.kreg r
def Seq.setReg (q : Seq) (sel : Bool) (r v : Nat) : Seq := if sel then q.setS r v else q.setK r v

end Sys2Proof.Machine
end

