-- ==== Sys2Proof/Machine/Operands.lean ====
section
/-! DEFINITION. The plan instruction word: its fields (Tables 5.3, 5.6, 5.7, 5.8), which registers an op reads or writes, and
the four checks of R157 at issue. -/

namespace Sys2Proof.Machine

/-! ## Fields -/

def opcodeOf (w : Nat) : Nat := field w 56 8
/-- SYNC, and HANDLE of SIG and WAIT: [16:0]. -/
def syncOf (w : Nat) : Nat := field w 0 17
/-- KB of every op but MVM: [20:17]. -/
def kbOf (w : Nat) : Nat := field w 17 4
/-- LINE of every op but LDK: [33:21]. -/
def lineOf (w : Nat) : Nat := field w 21 13
def imm24Of (w : Nat) : Nat := field w 17 24

def mvmEng (w : Nat) : Nat := field w 42 6
def mvmTile (w : Nat) : Nat := field w 36 6
def mvmKb (w : Nat) : Nat := field w 17 3
def drainTile (w : Nat) : Nat := field w 37 6
def drainRow0 (w : Nat) : Nat := field w 34 3
def dmmTile (w : Nat) : Nat := field w 21 6
def storeTile (w : Nat) : Nat := field w 34 6
def storeRow (w : Nat) : Nat := field w 40 3
def recvTile (w : Nat) : Nat := field w 21 6
def recvRow (w : Nat) : Nat := field w 27 3
def chanOf (w : Nat) : Nat := field w 34 5
def peerOf (w : Nat) : Nat := field w 39 6

/-- The opcodes of Table 5.3. -/
def opcodes : List Nat :=
  [0, 1, 2, 3, 4, 5, 6, 8, 9, 0xA, 0x10, 0x11, 0x12, 0x13, 0x18, 0x19, 0x1A, 0x1B, 0x20, 0x21, 0x22, 0x23, 0x28, 0x29]

/-- A VOP that reads a second operand: add, multiply, max, min. -/
def vopBinary (w : Nat) : Bool := decide (field w 48 3 < 4)

/-- The formats a VOP reads (R117): all but int32 and the reserved code. -/
def vopInput (f : Nat) : Bool := f != 2 && f != 7

/-- A pair of DMM formats of Table 4.4. -/
def dmmPair (a b : Nat) : Bool := (a == 0 && b == 0) || (a == 5 && b == 5) || ((a == 3 || a == 4) && (b == 3 || b == 4))

/-! ## Registers an op reads or writes at issue -/

/-- (file, register): file TRUE is s. -/
def regsOf (w : Nat) : List (Bool × Nat) :=
  let kb := kbOf w
  match opcodeOf w with
  | 0x03 => [(bit w 48, field w 12 5)]
  | 0x04 => (true, field w 12 5) :: (if bit w 48 then [(false, field w 17 4)] else [])
  | 0x05 => (bit w 48, field w 0 5) :: (if field w 49 3 = 5 then [(bit w 52, field w 37 5)] else [])
  | 0x06 => [(bit w 48, field w 0 5)]
  | 0x10 => [(false, mvmKb w)]
  | 0x11 => [(false, kb)]
  | 0x12 => [(false, kb), (false, kb + 1), (false, kb + 2)]
  | 0x13 => (false, kb) :: (false, kb + 2) :: (if vopBinary w then [(false, kb + 1)] else [])
  | 0x18 => [(false, kb), (false, kb + 1)]
  | 0x19 => (false, kb) :: (if bit w 48 then [] else [(false, kb + 1)])
  | 0x1A => [(false, kb)]
  | 0x1B => [(false, kb)]
  | 0x20 => if bit w 48 then [(true, field w 33 5)] else []
  | 0x21 => if bit w 48 then [(true, field w 41 5)] else []
  | 0x22 => if bit w 48 then [] else [(true, field w 0 5), (true, field w 0 5 + 1)]
  | 0x23 => if bit w 48 then [] else [(true, field w 3 5)]
  | 0x28 => if bit w 48 then (if bit w 50 then [(true, field w 23 5)] else []) else [(false, kb)]
  | 0x29 => [(false, kb)]
  | _ => []

/-- A k register number names k0 to k15; an s register number s0 to s31. -/
def regOk (r : Bool × Nat) : Bool := if r.1 then decide (r.2 < 32) else decide (r.2 < 16)

/-! ## R157 step 1 -/

/-- Reserved opcode, or a reserved value or a value outside the op's range in a field it reads (R141, R157). -/
def illegalWord (c : Nat) (h : Option PlanHeader) (w : Nat) : Bool :=
  let op := opcodeOf w
  let engines := match h with | some h => h.engineDemand | none => 48
  let peers := match h with | some h => h.peerCount | none => 64
  !opcodes.contains op || !(regsOf w).all regOk ||
  match op with
  | 0x05 => decide (5 < field w 49 3)
  | 0x10 => field w 49 2 == 3 || decide (engines ≤ mvmEng w)
  | 0x11 => field w 50 2 == 3 || field w 43 3 == 7
  | 0x12 => !dmmPair (field w 50 3) (field w 53 3)
  | 0x13 => !vopInput (field w 21 3) || (vopBinary w && !vopInput (field w 24 3)) || field w 27 3 == 7
  | 0x1A => decide (peers ≤ peerOf w)
  | 0x1B => decide (peers ≤ peerOf w)
  | 0x22 => !bit w 48 && field w 0 5 % 2 == 1
  | 0x28 => bit w 49 && bit w 48 && !isSentinel c
  | _ => false

/-! ## R157 step 2: protection windows (R276, R277) -/

/-- A window of Table 10.11's layout covers [a, a + n) with the right needed. -/
def windowCovers (win a n : Nat) (write : Bool) : Bool :=
  let base := 64 * field win 0 26
  let len := 64 * field win 26 26
  decide (0 < len) && decide (base ≤ a) && decide (a + n ≤ base + len) && bit win (if write then 53 else 52)

/-- The context's range of sync objects in a store, as a window (R277). -/
def syncRange (store base len a n : Nat) : Bool :=
  decide (0 < len) && decide (syncAddr (store + base) ≤ a) && decide (a + n ≤ syncAddr (store + base + len))

/-- Whether core c may make an access: its 14 context windows and its two loader windows. -/
def State.coreMay (s : State) (c a n : Nat) (write : Bool) : Bool :=
  match (s.core c).ctx with
  | none => false
  | some x =>
    let k := s.ctx x
    mappedRange a n &&
      ((List.range 14).any (fun i => windowCovers (s.cfg (0x2B40 + x) (i + 1)) a n write) ||
        (!isSentinel c && syncRange (dieOf c * 65536) k.dieBase k.dieLen a n) || syncRange 262144 k.hubBase k.hubLen a n)

/-- A hub SRAM range named by LOAD or STORE. -/
def State.hubMay (s : State) (c line n : Nat) (write : Bool) : Bool :=
  n == 0 || (decide (line * 64 + n * 64 ≤ 0x06000000) && s.coreMay c (line * 64) (n * 64) write)

/-- The first access of the op that lies outside the core's windows: address or number, and 0 read, 1 write, 2 DAC channel,
3 trip output (Table 12.4). -/
def State.windowFault (s : State) (c w : Nat) : Option (Nat × Nat) :=
  let k := s.core c
  let obj := fun (h wr : Nat) =>
    if s.coreMay c (syncAddr (handleObj c h)) 4 (wr == 1) then none else some (syncAddr (handleObj c h), wr)
  let sy := if syncOf w = 0 then none else obj (syncOf w) 1
  let own := k.ctx
  match opcodeOf w with
  | 0x06 => if bit w 49 then obj (field w 5 17) 0 else none
  | 0x20 => obj (syncOf w) 1
  | 0x21 => obj (syncOf w) 0
  | 0x18 =>
    sy.or (if s.hubMay c (k.kreg (kbOf w + 1)) (k.bound (kbOf w)) false then none else some (k.kreg (kbOf w + 1) * 64, 0))
  | 0x19 =>
    sy.or (if bit w 48 || s.hubMay c (k.kreg (kbOf w + 1)) (k.bound (kbOf w)) true then none
           else some (k.kreg (kbOf w + 1) * 64, 1))
  | 0x28 =>
    sy.or (if bit w 48 then (if own = some (s.cfg (0x2520 + field w 17 5) 5) then none else some (field w 17 5, 3))
           else (if own = some (s.cfg (0x2500 + field w 39 4) 2) then none else some (field w 39 4, 2)))
  | 0x01 => sy
  | 0x09 => sy
  | 0x10 => sy
  | 0x11 => sy
  | 0x12 => sy
  | 0x13 => sy
  | 0x1A => sy
  | 0x1B => sy
  | 0x29 => sy
  | _ => none

/-! ## R157 step 3: tile range (R99) -/

/-- The tiles an op touches, from the first. -/
def tileSpan (k : Core) (w : Nat) : Option (Nat × Nat) :=
  match opcodeOf w with
  | 0x10 => some (mvmTile w + (if bit w 53 then k.offset (mvmKb w) else 0), 1)
  | 0x11 => some (drainTile w + (if bit w 55 then k.offset (kbOf w) else 0), 1)
  | 0x12 => some (dmmTile w + (if bit w 27 then k.offset (kbOf w + 2) else 0), max (ceilDiv (k.bound (kbOf w)) 8) 1)
  | 0x19 => if bit w 48 then some (storeTile w + (if bit w 49 then k.offset (kbOf w) else 0), 1) else none
  | 0x1B => if bit w 48 then some (recvTile w + (if bit w 51 then k.offset (kbOf w) else 0), 1) else none
  | _ => none

def tileFault (k : Core) (w : Nat) : Bool :=
  match tileSpan k w with
  | some (t, n) => decide (64 < t + n)
  | none => false

/-! ## R157 step 4: bounds (R138, Table 5.5) -/

/-- The k registers an op reads as bounds, each with its hardware maximum. -/
def boundsOf (w : Nat) : List (Nat × Nat) :=
  let kb := kbOf w
  match opcodeOf w with
  | 0x10 => [(mvmKb w, 512)]
  | 0x11 => [(kb, 8 - drainRow0 w)]
  | 0x12 => [(kb, 64), (kb + 1, 128), (kb + 2, 4096)]
  | 0x13 => [(kb, 8192)]
  | 0x18 => [(kb, 8192)]
  | 0x19 => [(kb, if bit w 48 then 8 - storeRow w else 8192)]
  | 0x1A => [(kb, 64)]
  | 0x1B => [(kb, if bit w 48 then 8 - recvRow w else 64)]
  | 0x28 => if bit w 48 then [] else [(kb, 256)]
  | 0x29 => [(kb, 32)]
  | _ => []

/-- A bound above BOUND_MAX: the check at issue compares with nothing else (R138). -/
def boundFault (k : Core) (w : Nat) : Bool := (boundsOf w).any (fun b => decide (k.boundMax b.1 < k.bound b.1))

end Sys2Proof.Machine
end

