-- ==== Sys2Proof/Machine/Mvm.lean ====
section
/-! DEFINITION. The crossbar engine as a function: input slices, drive loads and row groups, one read, correction,
combination (R31-R57, R74-R78). -/

namespace Sys2Proof.Machine

/-! ## Weights (R31-R34) -/

/-- One advance of the reference patterns' LFSR (R74). -/
def lfsrNext (s : Nat) : Nat :=
  s / 2 + (boolNat (xor (xor (s.testBit 0) (s.testBit 2)) (xor (s.testBit 3) (s.testBit 5)))) * 32768

/-- The states after 1, 2, ... advances. -/
def lfsrSeq : Nat → Nat → List Nat
  | 0, _ => []
  | n + 1, s => lfsrNext s :: lfsrSeq n (lfsrNext s)

/-- The weights of a reference column, by row (Table 3.3). -/
def refPattern (k : Nat) : List Int :=
  match k with
  | 0 => List.replicate 512 7
  | 1 => List.replicate 512 (-7)
  | 2 => (lfsrSeq 512 0xACE1).map (fun s => ((s % 15 : Nat) : Int) - 7)
  | _ => (lfsrSeq 512 0x5A3C).map (fun s => ((s % 15 : Nat) : Int) - 7)

/-- A weight code as its canonical pair: G+ in the high nibble, G- in the low one (R32). -/
def pairOf (w : Int) : Nat := if 0 ≤ w then w.toNat % 16 * 16 else w.natAbs % 16

/-- The weight code a pair stands for. -/
def pairValue (b : Nat) : Int := ((b / 16 % 16 : Nat) : Int) - ((b % 16 : Nat) : Int)

/-- The byte of a pair: what is stored for a reference column is its difference from the pattern, so that an engine with
nothing stored is as it leaves the factory (R33). -/
def Engine.pair (g : Engine) (row col : Nat) : Nat :=
  let b := (Mem.read g.pairs (row * 136 + col)).toNat
  if 128 ≤ col ∧ col < 132 then b ^^^ pairOf ((refPattern (col - 128)).getD row 0) else b

def Engine.setPair (g : Engine) (row col b : Nat) : Engine :=
  let v := if 128 ≤ col ∧ col < 132 then b ^^^ pairOf ((refPattern (col - 128)).getD row 0) else b
  { g with pairs := Mem.write g.pairs (row * 136 + col) (BitVec.ofNat 8 v) }

def Engine.weight (g : Engine) (row col : Nat) : Int := pairValue (g.pair row col)

/-! ## Devices (R31, R50, R66, R68) -/

def devKey (row pol col : Nat) : Nat := row * 272 + pol * 136 + col
def devRow (k : Nat) : Nat := k / 272
def devPol (k : Nat) : Nat := k / 136 % 2
def devCol (k : Nat) : Nat := k % 136

/-- The repair column that replaces a physical column: the lowest that names it (R50). -/
def repairOf (map : List Nat) (col : Nat) : Option Nat := (List.range 4).find? (fun k => map.getD k 0xFF == col)

/-- A field of REPAIR_MAP that names a column: a reserved value stands for 0xFF (R50). -/
def repairUsed (map : List Nat) (k : Nat) : Bool := decide (map.getD k 0xFF < 128)

/-- The target level of a device. -/
def Engine.level (g : Engine) (k : Nat) : Nat :=
  let b := g.pair (devRow k) (devCol k)
  if devPol k = 0 then b / 16 % 16 else b % 16

/-- The level a device stands at. -/
def Engine.stands (g : Engine) (k : Nat) : Nat :=
  match Tab.find g.misses k with
  | some l => l
  | none => g.level k

/-- The code a pair stands at. -/
def Engine.standing (g : Engine) (row col : Nat) : Int := (g.stands (devKey row 0 col) : Int) - g.stands (devKey row 1 col)

/-- The number and the end of a device's last programming. -/
def Engine.progOf (g : Engine) (k : Nat) : Nat × Nat :=
  match Tab.find g.progs k with
  | some p => p
  | none => g.prog

/-- ln 2 and ln (num / den) in 2^-32, for num at least den: halvings, then the series of atanh (DESIGN CHOICE: log 125). -/
def ln2 : Nat := 2977044472

def halvings : Nat → Nat → Nat × Nat
  | 0, m => (0, m)
  | f + 1, m => if m < 2 ^ 33 then (0, m) else let r := halvings f (m / 2); (r.1 + 1, r.2)

def lnFix (num den : Nat) : Nat :=
  let r := halvings 60 (num * 2 ^ 32 / den)
  let z := (r.2 - 2 ^ 32) * 2 ^ 32 / (r.2 + 2 ^ 32)
  let z2 := z * z / 2 ^ 32
  r.1 * ln2 + 2 * ((List.range 16).foldl (fun a i => (a.1 + a.2 / (2 * i + 1), a.2 * z2 / 2 ^ 32)) (0, z)).1

/-- exp (-y) in 2^-32, for y in 2^-32 below 1. -/
def expDown (y : Nat) : Nat :=
  let r := (List.range 16).foldl (fun a i =>
    let t := a.2.2 * y / 2 ^ 32 / (i + 1)
    (a.2.1, a.1 + t, t)) (0, 2 ^ 32, 2 ^ 32)
  r.2.1 - r.1

/-- The drift law (1 + a / 86,400 s)^(-nu), nu in 10^-6 and a in ns, in 2^-32 (Table 3.1). -/
def drift (nu a : Nat) : Nat := expDown (nu * lnFix (86400000000000 + a) 86400000000000 / 1000000)

/-- What a read depends on beside the engine's own state: which engine it is, the time, the bound stoking holds the static error
of its devices to, in 10^-6 level (R68), and the frequency error of the analogue timebase in ppm: 0 while it is locked (R295). -/
structure Cond where
  eng : Nat
  now : Nat
  bound : Option Nat
  pilot : Int
  deriving DecidableEq, Repr

/-- STOKE_TOL plus the drift over one SURVEY_PERIOD, in 10^-6 level (R68): the drift is that of the largest exponent, and the sum is rounded
up to 0.1 % of Gmax, which gives the rule's 3.4 % at the defaults (DEDUCED: log 139). -/
def stokeBound (tol period : Nat) : Nat :=
  15000 * ceilDiv (1500 * tol + 15000000 * (2 ^ 32 - drift 80000 (1000000000 * period)) / 2 ^ 32) 15000

/-- The bound of R68 holds for a device: its block has been surveyed, is not overdue, and the device is neither flagged nor stuck. -/
def Engine.held (g : Engine) (k : Nat) : Bool :=
  (Tab.find g.stoke.lastAt (devRow k / 32)).isSome && !g.stoke.overdue.contains (devRow k / 32) && !g.stoke.flagged.contains k &&
    !(Tab.find g.stuck k).isSome

/-- The conductance of a device in 10^-6 level (Table 3.1): a level-0 device lies within 0 to 0.02 uS; any other has its programming error,
cut at 6 % of Gmax, and drifts with its own exponent. -/
def Engine.conductance (g : Engine) (x : Cond) (k : Nat) : Int :=
  let p := g.progOf k
  let l := g.stands k
  if l = 0 then clampInt 0 100000 (Config.zeroLevel x.eng p.1 k)
  else
    let e := clampInt (-900000) 900000 (Config.progError x.eng p.1 k)
    let nu := (clampInt 0 80000 (Config.driftExponent x.eng p.1 k)).toNat
    let v := (1000000 * (l : Int) + e) * drift nu (x.now - p.2) / 2 ^ 32
    match x.bound with
    | some b =>
      let t : Int := 1000000 * g.te * g.level k / 32768
      if g.held k then clampInt (t - b) (t + b) v else v
    | none => v

/-! ## Slices, loads, groups (R36-R47) -/

def sliceCount (ifmt : Nat) : Nat := ifmt + 1

/-- Saturation of an input element to its format (R37). -/
def satInput (ifmt : Nat) (v : Int) : Int :=
  match ifmt with
  | 0 => clampInt (-15) 15 v
  | 1 => clampInt (-127) 127 v
  | _ => clampInt (-2047) 2047 v

/-- The magnitude of a slice, most significant slice first (Table 2.2). -/
def sliceMag (ifmt slice : Nat) (v : Int) : Nat :=
  let low := 4 * (sliceCount ifmt - 1 - slice)
  v.natAbs / 2 ^ low % 16

/-- Quarters an MVM of bound K drives (R39). -/
def quartersOf (bound : Nat) : Nat := ceilDiv bound 128

/-- L(s, q) (R43). -/
def quarterLoad (ifmt : Nat) (inputs : List Int) (slice q : Nat) : Nat :=
  sumNat (((inputs.drop (128 * q)).take 128).map (sliceMag ifmt slice))

def sliceLoad (ifmt : Nat) (inputs : List Int) (slice quarters : Nat) : Nat :=
  sumNat ((List.range quarters).map (quarterLoad ifmt inputs slice))

/-- The grouping of R44: quarters in ascending order, a new group where the load would pass the limit. -/
def groupQuarters (load : Nat → Nat) (lim : Nat) : List Nat → List Nat → Nat → List (List Nat)
  | [], cur, _ => [cur]
  | q :: t, cur, l =>
    if !cur.isEmpty && decide (lim < l + load q) then cur :: groupQuarters load lim t [q] (load q)
    else groupQuarters load lim t (cur ++ [q]) (l + load q)

/-- The reads of one slice. -/
def sliceReads (ifmt : Nat) (inputs : List Int) (quarters lim : Nat) (split skip : Bool) (slice : Nat) : List ReadGroup :=
  let load := sliceLoad ifmt inputs slice quarters
  let all := List.range quarters
  let groups :=
    if load = 0 then (if skip then [] else [all])
    else if split then groupQuarters (quarterLoad ifmt inputs slice) lim all [] 0
    else [all]
  groups.zipIdx.map (fun g => ⟨slice, g.1, g.2 == 0⟩)

/-- All reads of an MVM (R43-R47); a bound of 0 makes none. -/
def mvmReads (ifmt : Nat) (inputs : List Int) (bound lim : Nat) (split skip : Bool) : List ReadGroup :=
  if bound = 0 then []
  else (List.range (sliceCount ifmt)).flatMap (sliceReads ifmt inputs (quartersOf bound) lim split skip)

/-- The elements of an input vector from its bytes (R36, R37). -/
def inputElems (ifmt n : Nat) (bs : List Byte) : List Int :=
  if ifmt = 2 then (List.range n).map (fun i => satInput 2 (toSigned 16 (fromLE (chunk bs i 2))))
  else (List.range n).map (fun i => satInput ifmt (toSigned 8 (fromLE (chunk bs i 1))))

/-! ## One read (R41, R42, R51) -/

/-- What one column gives in a read: corrected value, converter end code, correction clip. -/
structure ColRead where
  r : Int
  adc : Bool
  corr : Bool
  deriving DecidableEq, Repr

/-- The rows a read drives: row and signed magnitude. -/
def driveOf (ifmt : Nat) (inputs : List Int) (g : ReadGroup) : List (Nat × Int) :=
  (g.quarters.flatMap (fun q => (List.range 128).map (· + 128 * q))).map (fun i =>
    let x := inputs.getD i 0
    let m : Int := sliceMag ifmt g.slice x
    (i, if x < 0 then -m else m))

/-- P_read of a column whose weight by row is w. -/
def columnSum (w : Nat → Int) (drive : List (Nat × Int)) : Int := sumInt (drive.map (fun d => if d.2 = 0 then 0 else d.2 * w d.1))

/-- What a column integrates, in 10^-6 level: every pair's difference of conductances by the row's drive (R41, R69). -/
def columnCharge (g : Engine) (x : Cond) (drive : List (Nat × Int)) (col : Nat) : Int :=
  sumInt (drive.map (fun d =>
    if d.2 = 0 then 0 else d.2 * (g.conductance x (devKey d.1 0 col) - g.conductance x (devKey d.1 1 col))))

/-- L_g of the group read. -/
def driveLoad (drive : List (Nat × Int)) : Nat := sumNat (drive.map (fun d => d.2.natAbs))

/-- The systematic residuals of a column's read (Table 3.1): the IR drop of the group's load, the column's gain and offset, the
temperature (at most 0.2 %), and the timebase's frequency error (R295). Gains in 10^-6, the offset in 10^-3 LSB. -/
structure Residual where
  load : Nat
  gain : Int
  offset : Int
  temp : Int
  pilot : Int
  deriving DecidableEq, Repr

/-- What a timebase in error does to a read: a slot of 100 cycles integrates for 10^6 / (10^6 + ppm) of its nominal length (R295). -/
def slotScale (ppm : Int) : Nat := max 1 (1000000 + ppm).toNat

/-- The converter code of R42 with the read scale of R40: p in 10^-6 level, the residuals of Table 3.1, and the error of this conversion. -/
def converterCode (p : Int) (scale budget : Nat) (x : Residual) (err : Int) : Int :=
  let lim : Nat := 60000 * budget
  let num := p * scale * 512 * ((lim : Int) - x.load) * (1000000 + x.gain) * (1000000 + x.temp) * 1000000
  let den : Nat := 3600 * budget * 16384 * lim * 10 ^ 18 * slotScale x.pilot
  clampInt (-512) 511 (roundAway (num * 1000 + x.offset * den) (den * 1000) + err)

/-- The corrected value of R51 and its clips. -/
def correct (code : Int) (e : Corr) : ColRead :=
  let v := roundAway (code * e.gain) 4096 + e.offset
  ⟨clampInt (-4096) 4095 v, code == -512 || code == 511, decide (v < -4096) || decide (4095 < v)⟩

/-- One read of all 136 physical columns. Each conversion draws the error of its own read and converter noise. -/
def readColumns (g : Engine) (x : Cond) (scale budget : Nat) (drive : List (Nat × Int)) (draw : Nat) : List ColRead :=
  (List.range 136).map (fun col =>
    let z : Residual := ⟨driveLoad drive, Config.columnGain x.eng col, Config.columnOffset x.eng col,
      clampInt (-2000) 2000 (Config.temperature x.eng draw), x.pilot⟩
    correct (converterCode (columnCharge g x drive col) scale budget z (Config.codeError (draw + col)))
      (g.regs.active.getD col Corr.ideal))

/-- The 128 array columns with their repair columns in place, then the four reference columns. -/
def effective (g : Engine) (cols : List ColRead) : List ColRead :=
  (List.range 132).map (fun c =>
    match (if c < 128 then repairOf g.regs.repair c else none) with
    | some k => cols.getD (132 + k) ⟨0, false, false⟩
    | none => cols.getD c ⟨0, false, false⟩)

/-- The exact expected value of a reference column (R75). -/
def refExpected (k budget : Nat) (drive : List (Nat × Int)) : Int :=
  let pat := refPattern k
  roundAway (2048 * columnSum (fun r => pat.getD r 0) drive) (3600 * budget)

/-- The confidence check of R75 on the four reference values. -/
def refPass (mask : List Bool) (thresh budget : Nat) (drive : List (Nat × Int)) (refs : List ColRead) : Bool :=
  (List.range 4).all (fun k =>
    mask.getD k false ||
      (let x := refs.getD k ⟨0, false, false⟩
       !x.adc && !x.corr && decide ((x.r - refExpected k budget drive).natAbs ≤ 4 * thresh)))

/-- The average over several reads, clips joined (R76). -/
def average (reads : List (List ColRead)) : List ColRead :=
  (List.range 132).map (fun c =>
    let xs := reads.map (fun r => r.getD c ⟨0, false, false⟩)
    ⟨roundAway (sumInt (xs.map (·.r))) (max xs.length 1), xs.any (·.adc), xs.any (·.corr)⟩)

/-- The reads a failed check adds, each with its own analogue errors. -/
def rereads (g : Engine) (x : Cond) (scale budget : Nat) (drive : List (Nat × Int)) : Nat → Nat → List (List ColRead)
  | 0, _ => []
  | n + 1, draw => effective g (readColumns g x scale budget drive draw) :: rereads g x scale budget drive n (draw + 136)

/-! ## Combination (R52-R54) -/

/-- The slice combination with 24-bit saturation and its clip. -/
def combine (ys : List Int) : Int × Bool :=
  let v := ys.foldl (fun a y => 16 * a + y) 0
  (clampInt (-8388608) 8388607 v, decide (v < -8388608) || decide (8388607 < v))

/-- The combined value of every array column. -/
def combineAll (sums : List (List Int)) : List (Int × Bool) :=
  (List.range 128).map (fun c => combine (sums.map (fun s => s.getD c 0)))

/-- The lanes an engine delivers: 128 of W5, or 64 merged of W9 (R53). -/
def lanesOf (wfmt : Nat) (ys : List Int) : List W32 :=
  if wfmt = 0 then ys.map (fun y => BitVec.ofInt 32 y)
  else (List.range 64).map (fun j => BitVec.ofInt 32 (16 * ys.getD (2 * j) 0 + ys.getD (2 * j + 1) 0))

/-- The clipped lanes: for W9 a clip of either physical column sets bit j (R56). -/
def clippedLanes (wfmt : Nat) (cl : List Bool) : List Bool :=
  if wfmt = 0 then cl else (List.range 64).map (fun j => cl.getD (2 * j) false || cl.getD (2 * j + 1) false)

end Sys2Proof.Machine
end

