-- ==== Sys2Proof/Machine/Flags.lean ====
section
/-! DEFINITION. Status and saturation: what an update does to a sync object's word (R120), and what a row write does to a
tile row with its tag, ACC_SAT and lane sticky bits (R100, R101). -/

namespace Sys2Proof.Machine

/-! ## Sync objects (Table 4.6) -/

def syncCount (w : Nat) : Nat := field w 0 24
def syncErr (w : Nat) : Bool := bit w 24
def syncFault (w : Nat) : Nat := field w 28 4

/-- A word written into a sync object: reserved bit [27] stays 0, and a reserved FAULT code leaves the field as it was (R10, Tables 4.6
and 4.7). -/
def syncWritten (w v : Nat) : Nat :=
  let v := setBit (v % 2 ^ 32) 27 false
  if 7 ≤ syncFault v then v % 2 ^ 28 + syncFault w * 2 ^ 28 else v

/-- The word of a sync object after an update. A set writes the whole word; an add raises COUNT and joins the reports. -/
def syncAfter (w : Nat) (u : SyncUpd) : Nat :=
  if u.set then syncWritten w u.value
  else
    let err := syncErr w || u.status != 0
    let fault := if u.status ≠ 0 ∧ !syncErr w then u.status else syncFault w
    (syncCount w + u.value) % 2 ^ 24 + boolNat err * 2 ^ 24 + boolNat (bit w 25 || u.sat) * 2 ^ 25 +
      boolNat (bit w 26 || u.lowconf) * 2 ^ 26 + fault % 16 * 2 ^ 28

/-! ## Tile rows -/

/-- One lane in add mode: value, sticky bit, whether ACC_SAT is set. -/
structure LaneSum where
  v : W32
  sticky : Bool
  sat : Bool
  deriving DecidableEq, Repr

/-- An integer added to an INT32 lane with saturation; a sticky lane ignores it. `pre` says that the incoming value's own
conversion saturated. -/
def addIntLane (old : W32) (sticky : Bool) (inc : Int) (pre : Bool) : LaneSum :=
  if sticky then ⟨old, true, false⟩
  else
    let v := old.toInt + inc
    let c := clampInt (-2147483648) 2147483647 v
    let sat := pre || c != v
    ⟨BitVec.ofInt 32 c, sat, sat⟩

/-- A float added to an FP32 lane; an overflow to infinity is a saturation. -/
def addFpLane (old : W32) (sticky : Bool) (inc : W32) : LaneSum :=
  let v := add32 old inc
  ⟨v, sticky, (val32 v).isInf && !(val32 old).isInf && !(val32 inc).isInf⟩

/-- One lane of an add-mode write, in the row's format (R101). -/
def addLane (rowFp srcFp : Bool) (old : W32) (sticky : Bool) (inc : W32) : LaneSum :=
  if rowFp then addFpLane old sticky (if srcFp then inc else int32ToF inc.toInt)
  else if srcFp then
    let (v, sat) := floatToInt (-2147483648) 2147483647 inc
    addIntLane old sticky v sat
  else addIntLane old sticky inc.toInt false

/-- The lanes of an add-mode write. -/
def State.addSums (s : State) (c : Nat) (w : RowWrite) : List LaneSum :=
  let t := (s.core c).tag w.tile w.row
  (List.range (min 128 (min w.lanes w.vals.length))).map (fun l =>
    addLane t.fp w.fp (s.lane c w.tile w.row l) (t.sticky.contains l) (w.vals.getD l 0))

/-- The write saturates a lane of its row. -/
def State.rowSaturates (s : State) (c : Nat) (w : RowWrite) : Bool := w.acc && (s.addSums c w).any (·.sat)

/-- A row write commits. An overwrite takes the writer's format and clears the flags; lanes not given are zero. An add
touches the lanes the writer has. -/
def State.commitRow (s : State) (c : Nat) (w : RowWrite) : State :=
  if w.acc then
    let t := (s.core c).tag w.tile w.row
    let sums := s.addSums c w
    let news := (List.range sums.length).filter (fun l => (sums.getD l ⟨0, false, false⟩).sticky && !t.sticky.contains l)
    (s.setLanes c w.tile w.row (sums.map (·.v))).setTag c w.tile w.row
      ⟨t.fp, t.accSat || sums.any (·.sat), t.sticky ++ news⟩
  else
    (s.setLanes c w.tile w.row (fit 128 0 w.vals)).setTag c w.tile w.row ⟨w.fp, false, []⟩

/-- A row back to INT32 zero with its flags clear (Table 4.2 stage 8). -/
def State.clearRow (s : State) (c tile row : Nat) : State :=
  (s.setLanes c tile row (List.replicate 128 0)).setTag c tile row RowTag.reset

/-! ## Engine flags (R56, Table 2.9) -/

/-- SAT_COL and SAT_AUX after an MVM that clipped. -/
def EngRegs.setSat (r : EngRegs) (lanes : List Bool) (refs : List Bool) (adc corr comb : Bool) : EngRegs :=
  { r with satCol := r.satCol ||| BitVec.ofNat 128 (packBits lanes),
           satAux := r.satAux ||| BitVec.ofNat 32 (packBits (refs.take 4) + boolNat adc * 256 + boolNat corr * 512 + boolNat comb * 1024) }

end Sys2Proof.Machine
end

