-- ==== Sys2Proof/Machine/Nvme.lean ====
section
/-! DEFINITION. What the NVMe/TCP host sends: the fetch objects it goes by, its connections and commands (R191, Table 7.4). -/

namespace Sys2Proof.Machine

/-- The fetch objects as they stand (Table 7.9). -/
def State.fetchSet (s : State) : FetchSet :=
  { addr := s.cfg 0x2700 1, port := s.cfg 0x2700 2, subNqn := s.sets.nqn, nsid := s.cfg 0x2700 5, startLba := s.cfg 0x2700 6,
    queues := s.cfg 0x2700 7, depth := s.cfg 0x2700 8, digests := s.cfg 0x2700 9, eth := s.cfg 0x2700 0x0A,
    timeout := s.cfg 0x2700 0x0B, retries := s.cfg 0x2700 0x0C, kato := s.cfg 0x2700 0x0D }

/-- A queue's connection begins: its ICReq goes out (queue 0 is the admin queue). -/
def Fetch.dial (f : Fetch) (now q : Nat) : Fetch :=
  { f with opening := some q, since := now, sent := f.sent ++ [.icReq q f.set.digests] }

/-- The namespace a command names. -/
def Fetch.nsOf (f : Fetch) (cmd : NvmeCmd) : Nat :=
  match cmd with
  | .read _ _ _ => f.set.nsid
  | .identify 0 => f.set.nsid
  | _ => 0

/-- A command goes out on a queue. -/
def Fetch.send (f : Fetch) (now q tries : Nat) (cmd : NvmeCmd) : Fetch :=
  { f with
    out := f.out ++ [⟨q, f.nextCid, cmd, now, tries, [], false⟩]
    nextCid := (f.nextCid + 1) % 65536
    sent := f.sent ++ [.capsule q f.nextCid (f.nsOf cmd) cmd] }

/-- The association is set up from its first queue on. -/
def Fetch.start (f : Fetch) (now : Nat) : Fetch :=
  let f := { f with state := 1, ready := 0, out := [], lbaSize := 0, maxRead := 0 }
  f.dial now 0

/-- An association for an installation or a single block begins. -/
def State.startFetch (s : State) (set : FetchSet) : State :=
  let f := { Fetch.reset with attempts := 1, set := set, lastStatus := s.fetch.lastStatus, sent := s.fetch.sent }
  { s with fetch := f.start s.time.up }

end Sys2Proof.Machine
end

