-- ==== Sys2Proof/Machine/Routes.lean ====
section
/-! DEFINITION. The way between dies: routes over the bridges, closed ends, RATIO crossings (R16, R17, R290, R303, R313). -/

namespace Sys2Proof.Machine

def State.divNow (s : State) (dom set : Nat) : Nat := match Tab.find s.clk.divs dom with | some v => v.now | none => set
def State.coreDivNow (s : State) (d : Nat) : Nat := s.divNow (10 + d) (s.cfg (0x2210 + d) 1)
def State.meshDivNow (s : State) (d : Nat) : Nat := s.divNow (20 + d) (s.cfg (0x2210 + d) 2)
def State.bridgeDivNow (s : State) (d : Nat) : Nat := s.divNow (30 + d) 12

/-- The mesh divider meets the core divider 1:1 or 2:1. -/
def ratioMet (core mesh : Nat) : Bool := mesh == core || mesh == 2 * core

/-- CORE_d:MESH_d is RATIO and its ratio is not met, as set or as the dividers stand. -/
def State.coreUnmet (s : State) (d : Nat) : Bool :=
  decide (d < s.part.dies) && bit (s.cfg (0x2210 + d) 3) 0 &&
    (!ratioMet (s.coreDivNow d) (s.meshDivNow d) || !ratioMet (s.cfg (0x2210 + d) 1) (s.cfg (0x2210 + d) 2))

/-- MESH_d:BRIDGE_d is RATIO, and MESH_DIV is not 12 or the pair does not stand at 1:1. A pair that ramps together stays at 1:1. -/
def State.bridgeUnmet (s : State) (d : Nat) : Bool :=
  decide (d < s.part.dies) && bit (s.cfg (0x2210 + d) 3) 1 && (s.cfg (0x2210 + d) 2 != 12 || s.meshDivNow d != s.bridgeDivNow d)

/-- The dies a message from die a to die b passes, ends included (4: the hub). Opposite dies of the ring are joined through the
next die in ascending order. -/
def route (a b : Nat) : List Nat :=
  if a = b then [a] else if a < 4 ∧ b < 4 ∧ (a + 2) % 4 = b then [a, (a + 1) % 4, b] else [a, b]

/-- The bridge between two neighbours: 0 to 3 to the hub, 4 + d from die d to the next. -/
def bridgeOf (a b : Nat) : Nat := if b = 4 then a else if a = 4 then b else if (a + 1) % 4 = b then 4 + a else 4 + b

def bridgesOf : List Nat → List Nat
  | a :: b :: t => bridgeOf a b :: bridgesOf (b :: t)
  | _ => []

/-- The part has the bridge (Table 1.2). -/
def State.hasBridge (s : State) (b : Nat) : Bool :=
  decide (b < s.part.dies) || (b == 4 && decide (2 ≤ s.part.dies)) || (decide (5 ≤ b) && decide (b < 8) && s.part.dies == 4)

/-- A bridge on the way is in its retrain: the sender stalls (R313). -/
def State.pathStalls (s : State) (a b : Nat) : Bool := (bridgesOf (route a b)).any (fun x => (Tab.get Bridge.reset s.svc.bridges x).training)

/-- The first die on the way whose bridge ends are closed by its reset or have no power (R303). -/
def State.pathShut (s : State) (a b : Nat) : Option Nat :=
  if a = b then none else (route a b).find? (fun d => decide (d < 4) && !Tab.get false s.pwr.crossings d)

/-- Data between a core of die a and the uncore of die b passes a RATIO crossing whose ratio is not met: at the core or at a bridge on the way. -/
def State.storeUnmet (s : State) (a b : Nat) : Bool := s.coreUnmet a || (a != b && (route a b).any s.bridgeUnmet)

/-- The same between cores of die a and die b. -/
def State.pathUnmet (s : State) (a b : Nat) : Bool := s.storeUnmet a b || s.coreUnmet b

/-- What becomes of one item there: 0 passed, 1 lost, 2 repeated. -/
def State.fate (s : State) (unmet : Bool) : Nat × State := if unmet then (Config.ratioFate s.draws % 3, s.draw) else (0, s)

/-- A write dropped at a die's closed bridge end. -/
def State.dieDrop (s : State) (d : Nat) : State := s.bump (0x2210 + d) 6

/-- Flits that arrived well: a run of replays ends, and the replay buffer of the sender's end holds its last 64 (R313; DESIGN CHOICE: log 160). -/
def Bridge.good (b : Bridge) (n : Nat) : Bridge := { b with replays := 0, kept := min 64 (b.kept + n) }

/-- An item of n flits has passed from die a to die b. -/
def State.crossed (s : State) (a b n : Nat) : State :=
  { s with svc := { s.svc with bridges := (bridgesOf (route a b)).foldl (fun t x => Tab.set t x ((Tab.get Bridge.reset t x).good n)) s.svc.bridges } }

/-- What the way from die a to die b does to an item. -/
inductive Way
  /-- a bridge retrains: the sender stalls -/
  | stalls
  /-- an end of die d is closed -/
  | shut (d : Nat)
  /-- lost without notice at a RATIO crossing whose ratio is not met -/
  | lost
  | passed
  /-- repeated there -/
  | twice
  deriving DecidableEq, Repr

/-- The way of one item of n flits from die a to die b (R290, R303, R313), and the state it leaves. -/
def State.way (s : State) (a b n : Nat) (unmet : Bool) : Way × State :=
  if s.pathStalls a b then (.stalls, s)
  else
    match s.pathShut a b with
    | some d => (.shut d, s)
    | none =>
      match s.fate unmet with
      | (0, s) => (.passed, s.crossed a b n)
      | (1, s) => (.lost, s.crossed a b n)
      | (_, s) => (.twice, s.crossed a b n)

/-- A read across a closed crossing returns poison (R303). -/
def poisonByte (a : Nat) : Byte := if a % 2 = 0 then 0xAD else 0xDE

/-- One item over the boundary: made, lost without notice or made twice (R290). -/
def State.overBridge (s : State) (unmet : Bool) (act : State → State) : State :=
  match s.fate unmet with
  | (0, s) => act s
  | (1, s) => s
  | (_, s) => act (act s)

/-- Lines of data over the boundary: where the ratio is not met each is lost, and leaves what stood at its place, or arrives (R290;
DESIGN CHOICE: log 159). -/
def State.linesOver (s : State) (unmet : Bool) (n : Nat) (data old : List Byte) : List Byte × State :=
  if unmet then
    ((List.range n).flatMap (fun i => if Config.ratioFate (s.draws + i) % 3 = 1 then chunk old i 64 else chunk data i 64), s.drawN n)
  else (data, s)

/-- A write dropped at the closed crossing of a router and its core: CROSS_DROPPED of the core, and XING_DROPPED of the die or,
on a sentinel core, of the hub (R127, R303). -/
def State.crossDrop (s : State) (c : Nat) : State :=
  let s := s.bump (0x3000 + c) 0x0C
  if isSentinel c then s.bump 0x2200 0x0D else s.bump (0x2210 + dieOf c) 6

/-- What the hub writes to the memory of core c crosses the bridge and the core's crossing: `put` of what arrives, over what stood there;
dropped and counted at a closed one (R127, R290, R303). -/
def State.hubWrite (s : State) (c : Nat) (data old : List Byte) (put : List Byte → State → State) : State :=
  let n := ceilDiv data.length 64
  match s.pathShut 4 (dieOf c) with
  | some d => s.dieDrop d
  | none =>
    if !(s.core c).comm.crossing then s.crossDrop c
    else
      let r := (s.crossed 4 (dieOf c) (1 + n)).linesOver (s.pathUnmet 4 (dieOf c)) n data old
      put r.1 r.2

end Sys2Proof.Machine
end

