-- ==== Sys2Proof/Machine/Outputs.lean ====
section
/-! DEFINITION. The output side of the hub: FAULT_N and its causes, the mirror state, the trip logic, the DAC channels
(R181-R183, R227, R243-R252). -/

namespace Sys2Proof.Machine

def dacIdx (ch : Nat) : Nat := 0x2500 + ch
def dacSource (ch : Nat) : Nat := 0x0200 + ch
def tripIdx (n : Nat) : Nat := 0x2520 + n

/-! ## Trip logic (R227, R249-R251) -/

/-- The lowest active comparator event in output n's backstop mask. -/
def State.backstopEvent (s : State) (n : Nat) : Option Nat :=
  (List.range 192).find? (fun e =>
    bit (s.cfg (0x2540 + n) (e / 32 + 1)) (e % 32) && (if e % 2 = 0 then (s.chan (e / 2)).evHi else (s.chan (e / 2)).evLo))

/-- Armed rings whose RING_TRIPMASK names output n start counting their last entries (R242). -/
def State.ringTrigger (s : State) (n : Nat) : State :=
  (List.range 16).foldl (fun s r =>
    let g := Tab.get Ring.reset s.meas.rings r
    if g.armed && !g.frozen && g.post.isNone && bit (s.cfg (0x2490 + r) 3) n then
      { s with meas := { s.meas with rings := Tab.set s.meas.rings r { g with post := some (s.cfg (0x2490 + r) 4) } } }
    else s) s

/-- An assertion: stamped, counted, recorded with its cause, and seen by the rings. -/
def State.assertTrip (s : State) (n cause : Nat) : State :=
  let s := s.modTrip n (fun t => { t with asserted := true, since := s.time.up, lastCause := cause })
  let t := s.trip n
  ((s.bump (tripIdx n) 8).record (0x0220 + n) 0x002A [cause, boolNat t.backstop + 2 * boolNat t.emit]).ringTrigger n

def mirrorPort (s : State) : Nat := s.cfg 0x2D00 3 % 4

/-- A trip that a channel's comparator caused (Table 9.4). -/
def backstopCause (cause : Nat) : Bool := decide (0x0100 ≤ cause % 65536) && decide (cause % 65536 < 0x0200)

/-- LAST_CAUSE of a backstop trip: the channel, and the comparator event (Table 9.4). -/
def eventCause (e : Nat) : Nat := 0x0100 + e / 2 + e % 256 * 65536

/-- TRIP_MODE FOLLOW, and TRIP_MIN_ON has passed since output n was asserted (R251). -/
def State.minOnPast (s : State) (n : Nat) : Bool :=
  s.cfg (tripIdx n) 3 == 1 && decide (1000 * s.cfg (tripIdx n) 4 ≤ s.time.up - (s.trip n).since)

/-- The output that MIRROR_IND names is driven by the mirror state in place of decisions; a backstop trip asserts and latches it as
it does every output (R182, R227, R251). Its assertion by the mirror state is one as any other, with the source number of the state's own
records as its cause (DESIGN CHOICE: log 165). -/
def State.mirrorTrip (s : State) (n : Nat) (ev : Option Nat) : State :=
  let t := s.trip n
  let active := s.mirror.state == 1 || s.mirror.state == 3
  match ev with
  | some e => if t.asserted && backstopCause t.lastCause then s else s.assertTrip n (eventCause e)
  | none =>
    if active && !t.asserted then s.assertTrip n (0x24 + mirrorPort s)
    else if !active && t.asserted && (!backstopCause t.lastCause || s.minOnPast n) then s.modTrip n (fun t => { t with asserted := false })
    else s

/-- Output n after its sources have changed. -/
def State.updateTrip (s : State) (n : Nat) : State :=
  let ev := s.backstopEvent n
  let s := s.modTrip n (fun t => { t with backstop := ev.isSome })
  let t := s.trip n
  if s.cfg (tripIdx n) 1 = 0 ∨ !s.outs.driven then s.modTrip n (fun t => { t with asserted := false })
  else if s.cfg 0x2D00 9 = n then s.mirrorTrip n ev
  else
    let src := t.backstop || (t.emit && !t.held)
    if src && !t.asserted then
      s.assertTrip n (match ev with | some e => eventCause e | none => t.emitSrc)
    else if !src && t.asserted && s.minOnPast n then
      s.modTrip n (fun t => { t with asserted := false })
    else s

/-- The level on land TRIP_n: TRIP_POL 1 active high, 0 active low; none while the outputs are high-impedance (R249). -/
def State.tripLand (s : State) (n : Nat) : Option Bool :=
  if s.outs.driven then some ((s.trip n).asserted == (s.cfg (tripIdx n) 2 == 1)) else none

/-- All outputs. -/
def State.updateTrips (s : State) : State := (List.range 32).foldl (fun s n => s.updateTrip n) s

/-! ## Mirror state (R181-R183) -/

/-- The output MIRROR_IND names follows the mirror state (R182). -/
def State.showMirror (s : State) : State :=
  let n := s.cfg 0x2D00 9
  if n < 32 then s.updateTrip n else s

/-- A change of MIRROR_STATE, recorded with its cause (Table 12.4). -/
def State.setMirror (s : State) (st cause : Nat) : State :=
  if s.mirror.state = st then s
  else (({ s with mirror := { s.mirror with state := st } }).record (0x24 + mirrorPort s) 0x0031 [st, cause]).showMirror

/-- The trip output is held in standby (R182). -/
def State.tripHeld (s : State) (n : Nat) : Bool := s.mirror.holding && bit (s.cfg 0x2D00 5) n

/-- The DAC channel is held in standby (R182). -/
def State.dacHeld (s : State) (ch : Nat) : Bool := s.mirror.holding && bit (s.cfg 0x2D00 6) ch

/-- The level FAULT_ACT selects (Table 9.1 row 5); `last` is the level at the entry. -/
def State.faultLevel (s : State) (ch : Nat) (last : DacOut) : DacOut :=
  match s.cfg (dacIdx ch) 7 with
  | 0 => last
  | 1 => .code (s.cfg (dacIdx ch) 6)
  | _ => .zero

/-- The current-steering path is selected: DAC_PATH, until a ramp has returned. -/
def State.onFast (s : State) (ch : Nat) : Bool := s.cfg (dacIdx ch) 9 == 1 && !(s.dac ch).returned

/-- What the selected path shows. -/
def State.pathLevel (s : State) (ch : Nat) : DacOut :=
  let d := s.dac ch
  if s.onFast ch then .code (d.fast / 16 * 16) else .code d.ladder

/-- The output of a channel: the first row of Table 9.1 that applies. -/
def State.dacOut (s : State) (ch : Nat) : DacOut :=
  let d := s.dac ch
  if s.outs.railLow || !s.clocked 12 then .zero
  else if d.powerClamp then .zero
  else if d.rangeClamp then .zero
  else if s.outs.dacClrLow then .code (s.cfg (dacIdx ch) 6)
  else if d.fault then s.faultLevel ch (d.holdLevel.getD .zero)
  else if s.dacHeld ch || d.releaseClear then s.faultLevel ch (d.standby.getD (s.pathLevel ch))
  else if d.handover then .zero
  else
    match d.holdLevel with
    | some l => l
    | none => s.pathLevel ch

/-- A channel is held in standby from now on, with the level it has (R182). -/
def State.holdDac (s : State) (ch : Nat) (l : DacOut) : State := s.modDac ch (fun d => { d with standby := some l, releaseClear := false })

/-- A held channel is released (R183). -/
def State.releaseDac (s : State) (ch : Nat) : State := s.modDac ch (fun d => { d with releaseClear := !s.onFast ch })

/-- Standby: its outputs are held. An output that only an EMIT decision asserts goes to its inactive level. -/
def State.holdOutputs (s : State) : State :=
  let s := (List.range 16).foldl (fun s ch =>
    if bit (s.cfg 0x2D00 6) ch && !s.mirror.holding then s.holdDac ch (s.dacOut ch) else s) s
  let s := { s with mirror := { s.mirror with holding := true, awaitMark := false } }
  (List.range 32).foldl (fun s n =>
    if bit (s.cfg 0x2D00 5) n then
      s.modTrip n (fun t => { t with held := true, asserted := t.asserted && (t.backstop || backstopCause t.lastCause) })
    else s) s

/-- The module enters standby state (R183). -/
def State.toStandby (s : State) (cause : Nat) : State := (s.setMirror 2 cause).holdOutputs

/-! ## Flue frames out (R177-R179) -/

/-- ROLE of Table 6.7: 0 none, 1 active, 2 standby. -/
def mirrorRole (st : Nat) : Nat := if st = 1 ∨ st = 3 then 1 else if st = 2 then 2 else 0

/-- The 16 B header of a frame on the line with its CRC field at a given value. -/
def LineFrame.header (x : LineFrame) (crc : Nat) : List Byte :=
  toLE 16 (x.frame.type + boolNat x.frame.first * 2 ^ 8 + boolNat x.frame.last * 2 ^ 9 + x.frame.lines * 2 ^ 10 + boolNat x.nak * 2 ^ 13 +
    x.role * 2 ^ 14 + x.seq * 2 ^ 16 + x.ack * 2 ^ 32 + x.creditRet * 2 ^ 48 + x.frame.aux * 2 ^ 64 + crc * 2 ^ 96)

/-- The 272 B that go over the line: the CRC covers the header, its own field zero, and the lines present; the others are zero. -/
def LineFrame.bytes (x : LineFrame) : List Byte :=
  let body := fit (64 * x.frame.lines) 0 x.frame.payload
  fit 272 0 (x.header (crc32c (x.header 0 ++ body)) ++ body)

/-- Frames carrying whole lines, four to a frame; the first and the last are marked (R179). -/
def cutFrames (type aux : Nat) (bs : List Byte) : List FlueFrame :=
  let n := ceilDiv bs.length 256
  (List.range n).map (fun i =>
    let part := chunk bs i 256
    ⟨type, i == 0, i + 1 == n, part.length / 64, aux, part⟩)

/-- Line 0 of a message's FIRST frame (Table 6.8), and its payload lines. -/
def messageBytes (m : FlueMsg) (payload : List Byte) : List Byte :=
  fit 64 0 (toLE 16 (m.destCtx + m.destLcore * 2 ^ 6 + m.destEpoch * 2 ^ 16 + m.srcCtx * 2 ^ 32 + m.srcLcore * 2 ^ 38 + m.srcEpoch * 2 ^ 48 +
    m.channel * 2 ^ 64 + m.len * 2 ^ 69 + m.mtype * 2 ^ 76 + m.mseq * 2 ^ 80 + m.aux * 2 ^ 96)) ++ fit (64 * m.len) 0 payload

def messageOut (m : FlueMsg) (payload : List Byte) : List FlueFrame := cutFrames 2 0 (messageBytes m payload)

/-- EPOCH frames, up to 32 entries each (R178). Zeros fill the last line; the entries of a frame received come without them (DESIGN
CHOICE: log 173). -/
def epochFrames (es : List EpochEntry) : List FlueFrame :=
  let bytes := es.flatMap (fun e => toLE 8 (e.ctx + e.lcore * 2 ^ 6 + e.epoch * 2 ^ 16))
  (cutFrames 3 0 (fit (ceilDiv bytes.length 64 * 64) 0 bytes)).map (fun f => { f with first := false, last := false })

/-- A mirrored frame: line 0 with stamp and sequence number, then its lines (R181). -/
def mirrorFrames (g stamp seq : Nat) (bytes : List Byte) : List FlueFrame :=
  cutFrames 4 g (fit 64 0 (toLE 8 stamp ++ toLE 4 seq) ++ bytes)

/-- A frame goes over the line of port p: it carries ACK, the NAK that is due and the credits owed (DESIGN CHOICE: log 114). -/
def State.onLine (s : State) (p seq : Nat) (f : FlueFrame) : State :=
  let now := s.time.up
  let role := mirrorRole s.mirror.state
  s.modPort p (fun q =>
    let ret := min 255 q.owed
    { q with onLine := some ⟨f, seq, q.rxSeq, q.nakDue, ret, role⟩, owed := q.owed - ret, nakDue := false, lastSent := now })

/-- An IDLE frame. -/
def State.sendIdle (s : State) (p : Nat) : State := s.onLine p 0 ⟨0, false, false, 0, 0, []⟩

/-- A HELLO: MODULE_ID, port number and MIRROR_ROLE in line 0, the serial number in AUX. -/
def State.sendHello (s : State) (p : Nat) : State :=
  (s.onLine p 0 ⟨1, false, false, 1, Config.identity 0x101804 % 2 ^ 32, fit 64 0 (toLE 2 (s.cfg 0x2D00 1) ++ toLE 1 p ++ toLE 1 (s.cfg 0x2D00 2))⟩).bump
    (0x2D08 + p) 5

/-- A frame other than IDLE or HELLO leaves port p: it takes the next SEQ, a credit and a place in the replay buffer (R177). -/
def State.sendFrame (s : State) (p : Nat) (f : FlueFrame) : State :=
  let n := ((s.port p).txSeq + 1) % 65536
  let s := s.onLine p n f
  let buf := (s.port p).replay ++ (s.port p).onLine.toList
  (s.modPort p (fun q => { q with txSeq := n, replay := buf.drop (buf.length - 128), credits := q.credits - 1 })).bump (0x2D08 + p) 5

/-- A message not begun that the hub bridge of its core stalls (R313). -/
def State.itemStalls (s : State) (it : OutItem) : Bool :=
  match it.msg with
  | some m => (match it.frames with | f :: _ => f.first | [] => false) && s.pathStalls (dieOf m.src) 4
  | none => false

/-- The first item that may go, and the others. -/
def State.takeItem (s : State) : List OutItem → Option (OutItem × List OutItem)
  | [] => none
  | it :: t => if s.itemStalls it then (s.takeItem t).map (fun r => (r.1, it :: r.2)) else some (it, t)

/-- The port sends what waits while it is UP and holds a credit, at most `n` frames. A TAKEOVER that has gone out puts the
module into standby. -/
def State.portFlow (s : State) (p : Nat) : Nat → State
  | 0 => s
  | n + 1 =>
    let q := s.port p
    match s.takeItem q.out with
    | none => s
    | some (it, t) =>
      if q.state ≠ 2 ∨ q.credits = 0 then s
      else
        match it.frames with
        | f :: g :: r => ((s.sendFrame p f).modPort p (fun q => { q with out := { it with frames := g :: r } :: t })).portFlow p n
        | fs =>
          let s := (fs.foldl (fun s f => s.sendFrame p f) s).modPort p (fun q => { q with out := t, flight := q.flight ++ it.msg.toList })
          (match it.handover with | some cause => s.toStandby cause | none => s).portFlow p n

/-- A port's turn: it sends what waits, and an IDLE frame if it sent nothing. In training it sends HELLO frames. -/
def State.portTurn (s : State) (p : Nat) : State :=
  let t := s.portFlow p (s.port p).credits
  if (t.port p).state = 1 then t.sendHello p
  else if (t.port p).state = 2 ∧ (t.port p).txSeq = (s.port p).txSeq then t.sendIdle p else t

/-- Every frame not yet acknowledged goes over the line again, in order, with the port's present acknowledgement (R177). -/
def State.resend (s : State) (p : Nat) : State :=
  (s.port p).replay.foldl (fun s f => (s.onLine p f.seq f.frame).bump (0x2D08 + p) 5) s

/-- Frames of an item go out in their turn. -/
def State.sendItem (s : State) (p : Nat) (it : OutItem) : State :=
  (s.modPort p (fun q => { q with out := q.out ++ [it] })).portFlow p (s.port p).credits

/-- Frames a message of n payload lines takes: 3 lines in the first, 4 in each later one (R179). -/
def messageFrames (n : Nat) : Nat := 1 + ceilDiv (n - 3) 4

/-- Frames a message comes in; only a data message has payload. -/
def flueFrames (m : FlueMsg) : Nat := messageFrames (if m.mtype = 0 then m.len else 0)

/-- The link is UP, or in a retrain of a link that was: what is to be sent waits. -/
def Port.linked (q : Port) : Bool := q.state == 2 || q.retraining

/-- The active sends TAKEOVER; once it has gone out the module enters standby. -/
def State.sendTakeover (s : State) (cause : Nat) : State :=
  if (s.port (mirrorPort s)).linked then s.sendItem (mirrorPort s) ⟨[⟨5, false, false, 0, 0, []⟩], none, some cause⟩ else s

/-- FLUE_BIND_b of context x. Remote peers are open to compute contexts only (R167, R178). -/
def State.binding (s : State) (x b : Nat) : Nat := if (s.ctx x).sentinel then 0 else s.cfg (0x2D20 + x) (b + 1)

/-- Context x has a binding that names the module at the other end of port p. -/
def State.namesRemote (s : State) (x p : Nat) : Bool :=
  (List.range 64).any (fun b =>
    let v := s.binding x b
    bit v 2 && field v 0 2 == p && field v 16 16 == (s.port p).remoteId)

/-- A core's epoch has changed: one EPOCH entry goes out on every link that a binding of its context names (R178). -/
def State.announceEpoch (s : State) (c : Nat) : State :=
  match (s.core c).ctx with
  | none => s
  | some x =>
    (List.range 4).foldl (fun s p =>
      if (s.port p).linked ∧ s.namesRemote x p then s.sendItem p ⟨epochFrames [⟨x, (s.core c).lcore, (s.core c).comm.epoch⟩], none, none⟩
      else s) s

/-! ## FAULT_N (R252) -/

/-- FAULT_N is low: the land is high-impedance until power-good (R343). -/
def State.faultN (s : State) : Bool := s.pwr.powerGood && Nat.land s.outs.faultCause (s.cfg 0x2560 2) != 0

/-- Causes that stand now, beyond the latched bits: the management fault in `causeNow`, a faulted channel named in
DAC_FAULTN, a poisoned word of hub SRAM. -/
def State.presentCauses (s : State) : Nat :=
  let dac := (List.range 16).any (fun ch => (s.dac ch).fault && bit (s.cfg 0x2560 4) ch)
  let ecc := s.svc.poison.any (fun a => decide (a < 0x06000000))
  packBits [bit s.outs.causeNow 0, false, bit s.outs.causeNow 2, dac, false, ecc]

/-- What follows when FAULT_N goes low: MSI-X vector 1 and, where MIRROR_ON_FAULT asks for it, a TAKEOVER. -/
def State.faultEdge (s : State) (before : Bool) : State :=
  if s.faultN && !before then
    let s := s.msix 1
    if s.cfg 0x2D00 10 = 1 ∧ s.mirror.state = 1 then s.sendTakeover 4 else s
  else s

def State.setCause (s : State) (i : Nat) : State :=
  ({ s with outs := { s.outs with faultCause := setBit s.outs.faultCause i true } }).faultEdge s.faultN

def State.clearCauses (s : State) (v : Nat) : State :=
  let left := (List.range 6).map (fun i => bit s.outs.faultCause i && !(bit v i))
  ({ s with outs := { s.outs with faultCause := Nat.lor (packBits left) s.presentCauses } }).faultEdge s.faultN

/-- Held outputs are released (R183): each trip takes its present decision, each DAC channel its queue at its
next instant; one on the current-steering path, which takes no codes (R245), shows its path (DESIGN CHOICE: log 153). -/
def State.releaseOutputs (s : State) : State :=
  let held := (List.range 16).filter (fun ch => s.dacHeld ch)
  let s := { s with mirror := { s.mirror with holding := false, awaitMark := false } }
  let s := (List.range 32).foldl (fun s n => s.modTrip n (fun t => { t with held := false })) s
  let s := held.foldl State.releaseDac s
  s.updateTrips

/-- The standby takes over (R183). -/
def State.takeover (s : State) (cause : Nat) : State :=
  let up := (s.port (mirrorPort s)).state = 2
  let s := (s.setMirror (if up then 1 else 3) cause).bump 0x2D00 0x0D
  let mark := s.cfg 0x2D00 8
  if bit mark 0 && bit (s.cfg 0x2320 (field mark 1 6 + 1)) 40 then { s with mirror := { s.mirror with awaitMark := true } }
  else s.releaseOutputs

/-! ## DAC channels (R243-R248) -/

/-- Codes enter the queue of a channel; in the fault state they are discarded and counted. -/
def State.dacQueue (s : State) (ch : Nat) (codes : List Nat) : State :=
  if (s.dac ch).fault then s.bumpBy (dacIdx ch) 0x14 codes.length
  else if codes.isEmpty || !s.pwr.powerGood then s
  else s.modDac ch (fun d => { d with queue := d.queue ++ codes, powerClamp := d.powerClamp && d.rangeClamp, awaitFirst := false })

/-- Free entries of a channel's queue of 256. -/
def Dac.room (d : Dac) : Nat := 256 - d.queue.length

/-- The queue is flushed; its codes are counted. -/
def State.dacFlush (s : State) (ch : Nat) : State :=
  (s.bumpBy (dacIdx ch) 0x14 (s.dac ch).queue.length).modDac ch (fun d => { d with queue := [] })

/-- Codes are two's complement in the bipolar ranges (R243). -/
def State.codeValue (s : State) (ch code : Nat) : Int := if s.cfg (dacIdx ch) 1 < 2 then (code : Int) else toSigned 16 code

/-- The hub trim of a channel's path in its range (Table 12 of the calibration layout, R280): gain Q2.14 and offset in codes. -/
def State.dacTrim (s : State) (ch path : Nat) : Nat := Tab.get 0x40000000 s.trims (0x0A000200 + 4 * (8 * ch + 2 * s.cfg (dacIdx ch) 1 + path))

/-- A code under a trim: the gain, then the offset (DESIGN CHOICE: log 119). -/
def trimmed (trim : Nat) (v : Int) : Int := roundAway (v * field trim 16 16) (2 ^ 14) + toSigned 16 trim

/-- The ladder takes a code, under the trim that stands now. -/
def State.setLadder (s : State) (ch code : Nat) : State :=
  let t := s.dacTrim ch 0
  s.modDac ch (fun d => { d with ladder := code, ladderTrim := t })

/-- The level at land DAC_OUTch, in 2.5 V / 65,536: the span's steps (R243) under the trim of the path; CLEAR_CODE of row 4 is on the ladder. -/
def State.dacLevel (s : State) (ch : Nat) : Int :=
  let d := s.dac ch
  match s.dacOut ch with
  | .zero => 0
  | .code v => trimmed (if s.onFast ch && !s.outs.dacClrLow then d.fastTrim else d.ladderTrim) (s.codeValue ch v) *
      (match s.cfg (dacIdx ch) 1 with | 0 => 1 | 3 => 4 | _ => 2)

/-- A channel enters its fault state: queue flushed, source stopped, onset recorded; FAULT_N where DAC_FAULTN names it. -/
def State.dacFault (s : State) (ch cause : Nat) : State :=
  if (s.dac ch).fault then s
  else
    let last := s.dacOut ch
    let s := s.dacFlush ch
    let s := s.modDac ch (fun d => { d with fault := true, fastRun := false, underrunRun := 0, holdLevel := some last })
    let s := s.record (dacSource ch) 0x0026 [Nat.lor (2 ^ cause) (s.dac ch).causes]
    if bit (s.cfg 0x2560 4) ch then s.setCause 3 else s

end Sys2Proof.Machine
end

