-- ==== Sys2Proof/Machine/Flight.lean ====
section
/-! DEFINITION. Ops in flight: what each still has to read and write (R111), how it completes (R113, R120, R159), what the
core does as soon as that becomes possible, and issue itself (R110, R135, R157, R158). -/

namespace Sys2Proof.Machine

/-! ## Scoreboard (R102, R103, R111) -/

/-- Two line ranges meet, modulo 8,192. -/
def linesMeet (x y : Nat × Nat) : Bool :=
  decide (0 < x.2) && decide (0 < y.2) &&
    (decide ((y.1 % 8192 + 8192 - x.1 % 8192) % 8192 < x.2) || decide ((x.1 % 8192 + 8192 - y.1 % 8192) % 8192 < y.2))

def meetAny (xs ys : List (Nat × Nat)) : Bool := xs.any (fun x => ys.any (linesMeet x))

/-- Lines of n elements of a format. -/
def elemLines (fmt n : Nat) : Nat := ceilDiv (n * fmtBytes fmt) 64

/-- Output rows of a DRAIN (R143). -/
def DrainOp.group (d : DrainOp) : Nat := 2 ^ d.pool
def DrainOp.outRows (d : DrainOp) : Nat := ceilDiv d.n d.group

/-- Activation-buffer lines an op has still to read: first line and count. -/
def Op.reads (o : Op) : List (Nat × Nat) :=
  match o.body with
  | .mvm m => if m.inputs.isNone then [(m.line, quartersOf m.bound * (if m.ifmt = 2 then 4 else 2))] else []
  | .drain d =>
    if d.started then [] else
    (if d.scale then [(d.param, 8)] else []) ++ (if d.bias then [(d.param + 8, 8)] else []) ++
      (if d.act = 3 then [(d.param + 16, 1)] else []) ++ (if d.fuse = 0 then [] else [(d.fusel, d.outRows * fmtLines d.ofmt)])
  | .dmm d => if d.started || d.m == 0 || d.n == 0 || d.k == 0 then [] else [(d.aLine, d.m * elemLines d.afmt d.k), (d.bLine, d.n * elemLines d.bfmt d.k)]
  | .vop v =>
    if v.started then [] else
    (v.aLine, elemLines v.afmt v.n) :: (if v.func < 4 then [(v.bLine, elemLines v.bfmt v.n)] else [])
  | .store n _ line => [(line, n)]
  | .send _ _ n line sent _ => if sent then [] else [(line, n)]
  | .ldkBuf _ _ line _ => [(line, 1)]
  | .emitDac _ n line hw => if o.data.isSome then [] else [(line, ceilDiv (2 * hw + 2 * n) 64)]
  | .log _ n line sent => if sent then [] else [(line, ceilDiv (4 * n) 64)]
  | _ => []

/-- The bytes an op reads of those lines: first line and number of bytes. Padding to the end of a line is not read (R140). -/
def Op.readBytes (o : Op) : List (Nat × Nat) :=
  match o.body with
  | .dmm d =>
    if d.started || d.m == 0 || d.n == 0 || d.k == 0 then []
    else
      (List.range d.m).map (fun i => (d.aLine + i * elemLines d.afmt d.k, d.k * fmtBytes d.afmt)) ++
        (List.range d.n).map (fun i => (d.bLine + i * elemLines d.bfmt d.k, d.k * fmtBytes d.bfmt))
  | .vop v =>
    if v.started then [] else
    (v.aLine, v.n * fmtBytes v.afmt) :: (if v.func < 4 then [(v.bLine, v.n * fmtBytes v.bfmt)] else [])
  | .drain d =>
    if d.started then [] else
    (if d.scale then [(d.param, 512)] else []) ++ (if d.bias then [(d.param + 8, 512)] else []) ++
      (if d.act = 3 then [(d.param + 16, 4)] else []) ++ (if d.fuse = 0 then [] else [(d.fusel, d.outRows * fmtLines d.ofmt * 64)])
  | _ => []

/-- Lines a VOP writes: a reduction writes one element. -/
def VopOp.outLines (v : VopOp) : Nat := if v.n = 0 then 0 else elemLines v.dfmt (if v.func < 6 then v.n else 1)

/-- Activation-buffer lines an op has still to write. -/
def Op.writes (o : Op) : List (Nat × Nat) :=
  match o.body with
  | .drain d => [(d.dest, d.outRows * fmtLines d.ofmt)]
  | .vop v => [(v.dLine, v.outLines)]
  | .load n _ line => [(line, n)]
  | .storeRows n _ _ line => [(line, 8 * n)]
  | .recv _ _ n line _ _ => [(line, n)]
  | _ => []

/-- Tile rows an op has still to read: tile, first row, count. -/
def Op.rowReads (o : Op) : Option (Nat × Nat × Nat) :=
  match o.body with
  | .drain d => if d.started then none else some (d.tile, d.row0, d.n)
  | .storeRows n tile row _ => some (tile, row, n)
  | _ => none

/-- The op still reads (or, a DRAIN with CLEAR, clears) this row. -/
def Op.readsRow (o : Op) (tile row : Nat) : Bool :=
  match o.rowReads with
  | some (t, r, n) => t == tile && decide (r ≤ row) && decide (row < r + n)
  | none => false

/-- The op still clears this row. -/
def Op.clearsRow (o : Op) (tile row : Nat) : Bool :=
  (match o.body with | .drain d => d.clear | _ => false) && o.readsRow tile row

/-- Ops that issued before op q and are still in flight. -/
def Core.before (k : Core) (q : Nat) : List Op := k.seq.ops.filter (fun o => decide (o.seq < q))

/-- Every earlier write to the lines is done. -/
def Core.mayRead (k : Core) (q : Nat) (ls : List (Nat × Nat)) : Bool := !(k.before q).any (fun o => meetAny o.writes ls)

/-- Every earlier read and write of the lines is done. -/
def Core.mayWrite (k : Core) (q : Nat) (ls : List (Nat × Nat)) : Bool :=
  !(k.before q).any (fun o => meetAny o.writes ls || meetAny o.reads ls)

/-- Every write to the tile issued earlier has committed. -/
def Core.tileFree (k : Core) (q tile : Nat) : Bool := !(k.before q).any (fun o => o.pend.contains tile)

/-- A row write may commit: earlier writes to the tile have, and earlier readers of the row have read it. -/
def Core.mayCommit (k : Core) (q tile row : Nat) : Bool :=
  k.tileFree q tile && !(k.before q).any (fun o => o.readsRow tile row)

/-- The op still writes this row. -/
def Op.writesRow (o : Op) (tile row : Nat) : Bool :=
  o.pend.contains tile &&
  if !o.rows.isEmpty then o.rows.any (fun w => w.tile == tile && w.row == row)
  else match o.body with
  | .mvm m => m.row == row
  | .dmm d => decide (d.tile ≤ tile) && decide (8 * (tile - d.tile) + row < d.m)
  | .recvRows _ _ n t r _ _ _ _ => t == tile && decide (r ≤ row) && decide (row < r + n)
  | _ => false

/-- Every earlier write to n rows is done. -/
def Core.rowsWritten (k : Core) (q tile row n : Nat) : Bool :=
  (List.range n).all (fun i => !(k.before q).any (fun o => o.writesRow tile (row + i)))

/-- n rows may be read: no earlier op still clears one. With `clear`, no earlier op still reads one either. -/
def Core.rowsOpen (k : Core) (q tile row n : Nat) (clear : Bool) : Bool :=
  (List.range n).all (fun i =>
    !(k.before q).any (fun o => o.clearsRow tile (row + i) || (clear && o.readsRow tile (row + i))))

/-! ## Ops -/

def State.op (s : State) (c q : Nat) : Option Op := (s.core c).seq.ops.find? (fun o => o.seq == q)

def State.modOp (s : State) (c q : Nat) (f : Op → Op) : State :=
  s.modSeq c (fun x => { x with ops := x.ops.map (fun o => if o.seq = q then f o else o) })

/-- Pending counts fall for tiles the op no longer writes (R103). -/
def Core.dropPend (k : Core) (tiles : List Nat) : Core :=
  { k with pending := tiles.foldl (fun p t => Tab.set p t (Tab.get 0 p t - 1)) k.pending }

/-- LAST_FAULT and the fault word (R158): status, index, bank. -/
def FaultInfo.word (f : FaultInfo) : Nat := f.status % 16 + f.index % 4096 * 16 + f.bank % 2 * 65536

def State.setFault (s : State) (c : Nat) (f : FaultInfo) : State := s.modSeq c (fun q => { q with lastFault := f.word })

/-- An op leaves flight: its object is updated (R120), or, with none, an error goes to the latch (R159). -/
def State.finishOp (s : State) (c : Nat) (o : Op) (status : Nat) : State :=
  let st := if status = 0 then o.status else status
  let s := s.modCore c (fun k =>
    ({ k with seq := { k.seq with ops := k.seq.ops.filter (fun x => x.seq != o.seq) } }).dropPend o.pend)
  if o.sync ≠ 0 then
    s.sendSync ⟨handleObj c o.sync, false, 1, st, o.satRep && o.sat, o.lcRep && o.lowconf, coreSource c, none, false⟩
  else if st ≠ 0 then
    let f : FaultInfo := ⟨st, o.index, o.bank⟩
    (s.setFault c f).modSeq c (fun q => { q with latch := q.latch.or (some f) })
  else s

/-- Status 4 of an op that read poisoned data. -/
def poisonStatus (p : Bool) : Nat := if p then 4 else 0

/-! ## Halts (R131, R150, R158) -/

/-- The core halts: CORE_STATE 3 and a HALT record. `how` is bits [13] and [14] of word 1. -/
def State.halt (s : State) (c index bank how : Nat) : State :=
  let s := s.modCore c (fun k =>
    { k with state := .halted, seq := { k.seq with stopReq := none, faultPend := none, openBatch := none } })
  s.record (coreSource c) 0x0007 [(s.core c).seq.lastFault, index % 4096 + bank % 2 * 4096 + how]

/-! ## Plan memory (R131, R306, R312) -/

/-- HALT with SYNC 0, which fills a bank beyond LENGTH (R131). -/
def haltWord : Nat := 0x0100000000000000

/-- The instructions of a plan into a plan bank. -/
def State.layPlan (s : State) (c bank : Nat) (ws : List Nat) : State :=
  let all := ws ++ List.replicate (4096 - ws.length) haltWord
  s.hubWrite c ((all.map (toLE 8)).flatten) (s.bytes (planAddr c bank 0) 0x8000) (fun bs s => s.poke (planAddr c bank 0) bs)

/-- The plan section of a bank is read again from its image source (R306); where staging is not free for it, once it is. -/
def State.readPlans (s : State) (x bank : Nat) : State :=
  let t := s.stage
  if t.install.isSome || t.firmware || t.block.isSome || !t.waiting.isEmpty then
    { s with svc := { s.svc with rereads := if s.svc.rereads.contains (x, bank) then s.svc.rereads else s.svc.rereads ++ [(x, bank)] } }
  else
    let s := { s with svc := { s.svc with rereads := s.svc.rereads.erase (x, bank) } }
    let src := ((s.ctx x).bank bank).source
    let s := { s with stage := { Stage.reset with install := some x, bank := bank, source := src, replan := true, slots := s.cfg 0x2700 0x0E,
                                                  want := if src = 1 then 0xFFFFFFFF + x * 2 ^ 32 + bank * 2 ^ 38 + 2 ^ 63 else 0 } }
    if src = 0 then s.startFetch ((s.ctx x).bank bank).link else s

/-- A plan bank with an uncorrectable error is rewritten from the plan store, or from the image source. -/
def State.rewriteBank (s : State) (c bank : Nat) : State :=
  match (s.core c).ctx with
  | none => s
  | some x =>
    match s.keep.plans.find? (fun p => p.ctx == x && p.bank == bank && p.lcore == (s.core c).lcore && !p.marked) with
    | some p => s.layPlan c bank p.words
    | none => s.readPlans x bank

/-- A pending stop takes effect once no op is in flight. A WAIT, FENCE or ENDB at index 4,095 that is to take the fault path
runs past the end as well: the halt comes, and the fault path with it (DESIGN CHOICE: log 107). -/
def State.settleStop (s : State) (c : Nat) : State :=
  let q := (s.core c).seq
  match q.stopReq with
  | none => s
  | some why =>
    if q.ops.isEmpty then
      match why with
      | .pastEnd => s.halt c 4095 q.bank 0x4000
      | .stop => s.halt c q.pc q.bank 0
      | .planMemory => (s.halt c q.pc q.bank 0).rewriteBank c q.bank
    else s

/-! ## Messages (R124, R147, R178) -/

/-- What a peer slot is known by to credits and posts: the core, or 0x10000 + its Flue binding. -/
def Peer.key (p : Peer) : Nat := match p.binding with | none => p.core | some b => 0x10000 + b

def Core.peer (k : Core) (slot : Nat) : Peer := Tab.get ⟨0xFFFF, 0, none⟩ k.comm.peers slot

/-- The port a Flue binding of a context names, while the binding is enabled. -/
def State.bindPort (s : State) (x b : Nat) : Option Nat :=
  let v := s.binding x b
  if bit v 2 then some (field v 0 2) else none

/-- A message with no one to take it is refused before it leaves: counted, recorded, answered NACK_EPOCH (R126, R178). -/
def State.nackLocal (s : State) (c : Nat) (m : Msg) : State :=
  let s := (s.bump (0x3000 + c) 0x09).record (coreSource c) 0x0022 [m.dst % 65536 + m.destEpoch * 65536, m.chan * 65536]
  { s with net := { s.net with msgs := s.net.msgs ++
      [{ m with kind := 2, src := m.dst, dst := c, aux := 3, orig := (m.kind, m.len, m.aux), len := 0, payload := [], hurt := [] }] } }

/-- The header of a message of core c to the remote core its binding b names (Table 6.8). -/
def State.remoteHeader (s : State) (c b : Nat) (m : Msg) : FlueMsg :=
  let x := (s.core c).ctx.getD 0
  let v := s.binding x b
  { destCtx := field v 32 6, destLcore := field v 38 10, destEpoch := m.destEpoch, srcCtx := x, srcLcore := (s.core c).lcore,
    srcEpoch := m.srcEpoch, channel := m.chan, len := m.len, mtype := m.kind, mseq := m.seq, aux := m.aux }

/-- What the hub bridge of core c does to a message for port pt: passed, lost, repeated, or dropped at a closed end and answered
with status 4, as between cores (R290, R303). One that a retrain stalls waits in its port's queue. -/
def State.toPort (s : State) (c pt : Nat) (m : Msg) (it : OutItem) : State :=
  match s.way (dieOf c) 4 it.frames.length (s.pathUnmet (dieOf c) 4) with
  | (.shut d, s) =>
    let s := s.dieDrop d
    { s with net := { s.net with msgs := s.net.msgs ++
      [{ m with kind := 2, src := m.dst, dst := c, aux := 4, orig := (m.kind, m.len, m.aux), len := 0, payload := [], hurt := [] }] } }
  | (.lost, s) => s
  | (.twice, s) => (s.sendItem pt it).sendItem pt it
  | (_, s) => s.sendItem pt it

/-- A message leaves core c for a peer slot: over the mesh, or to the hub and its Flue port. A slot whose epoch is 0 has no
one to take it there, and is answered NACK_EPOCH (R178). -/
def State.sendMsg (s : State) (c : Nat) (p : Peer) (m : Msg) : State :=
  match p.binding with
  | none => { s with net := { s.net with msgs := s.net.msgs ++ [m] } }
  | some b =>
    match (s.core c).ctx.bind (fun x => s.bindPort x b) with
    | some pt =>
      if p.epoch = 0 then s.nackLocal c m
      else s.toPort c pt m ⟨messageOut (s.remoteHeader c b m) m.payload, some { m with port := some pt }, none⟩
    | none => s.nackLocal c m

/-- The next SEQ of core c towards a destination and channel. -/
def State.takeSeq (s : State) (c key chan : Nat) : Nat × State :=
  let i := key * 32 + chan
  let v := Tab.get 0 (s.core c).comm.seqs i
  (v, s.modComm c (fun m => { m with seqs := Tab.set m.seqs i ((v + 1) % 65536) }))

/-- A SEND transmits: it takes the oldest credit of the peer and channel (R124). -/
def State.transmit (s : State) (c : Nat) (o : Op) (slot chan n line : Nat) : State :=
  let k := s.core c
  let p := k.peer slot
  match k.comm.credits.find? (fun x => x.peer == p.key && x.chan == chan) with
  | none => s
  | some cr =>
    let m := min n cr.len
    let bad := s.abPoisoned c line 0 (64 * m) || cr.hurt
    let payload := s.abBytes c line 0 (64 * m)
    let (sq, s) := s.takeSeq c p.key chan
    let s := s.modComm c (fun x => { x with credits := x.credits.erase cr })
    let s := s.modOp c o.seq (fun o => { o with status := if bad then 4 else o.status, body := .send slot chan n line true (cr.len < n) })
    s.sendMsg c p ⟨0, c, p.key, chan, p.epoch, k.comm.epoch, m, sq, o.seq, cr.line, (0, 0, 0), 0, payload, none, []⟩

/-- The line of a core's local space that a tile row begins at (Table 4.1). -/
def rowLine (tile row : Nat) : Nat := 8192 + tile * 64 + row * 8

/-- Op o holds one of the 8 places of the channel: its payload has come, and it has still to write it (DEDUCED: log 110). -/
def Op.holdsPost (o : Op) (chan : Nat) : Bool :=
  match o.body with
  | .recv _ ch _ _ _ got => ch == chan && got
  | .recvRows _ ch _ _ _ _ _ _ got => ch == chan && got
  | _ => false

/-- Posts of a channel that are outstanding: their RECVs have not completed (R147). -/
def Core.outstanding (k : Core) (chan : Nat) : Nat :=
  (k.comm.posts.filter (fun p => p.chan == chan)).length + (k.seq.ops.filter (fun o => o.holdsPost chan)).length

/-- A RECV posts its credit when fewer than 8 posts of the channel are outstanding (R124, R147). -/
def State.postCredit (s : State) (c : Nat) (o : Op) (slot chan len line : Nat) (body : OpBody) : State :=
  let k := s.core c
  if k.outstanding chan < 8 then
    let p := k.peer slot
    let (sq, s) := s.takeSeq c p.key chan
    let s := s.modComm c (fun x => { x with posts := x.posts ++ [⟨p.key, chan, len, o.seq⟩] })
    let s := s.modOp c o.seq (fun o => { o with body := body })
    s.sendMsg c p ⟨1, c, p.key, chan, p.epoch, k.comm.epoch, 0, sq, o.seq, len, (0, 0, 0), line, [], none, []⟩
  else s

/-- The rows a RECV into the accumulator commits: 8 payload lines each (R147). Lines left over form no row and are dropped (DESIGN CHOICE:
log 148). -/
def recvRowWrites (tile row : Nat) (acc fp : Bool) (bs : List Byte) : List RowWrite :=
  (List.range (bs.length / 512)).map (fun i =>
    ⟨tile, row + i, acc, fp, 128, (List.range 128).map (fun l => BitVec.ofNat 32 (fromLE (chunk (chunk bs i 512) l 4)))⟩)

/-! ## The end of an MVM's reads (R54, R60, R79) -/

/-- Masked reference columns, two or more (R79). -/
def Engine.twoMasked (g : Engine) : Bool := decide (2 ≤ (g.refMask.filter (· == true)).length)

/-- Whether and why the engine marks every MVM LOWCONF (R79, R91, R209), coded as Table 12.4 codes it. A score below
RETIRE_NOW does so on compute engines only. -/
def Engine.lowconfCause (g : Engine) (sentinel : Bool) : Option Nat :=
  if g.twoMasked then some 1 else if g.state == .belowNow && !sentinel then some 2 else if g.unverified then some 3 else none

/-- An engine that serves a context. -/
def Engine.serving (g : Engine) : Bool := g.owner.isSome && !g.chrysalis && g.state != .spare && g.state != .dead

/-- Stoking holds the engine's devices to their bound (R68, R84). -/
def State.stoked (s : State) (c e : Nat) : Bool := !isSentinel c && s.cfg 0x2800 1 == 1 && (s.eng c e).serving

/-- What a read of an engine depends on now. -/
def State.cond (s : State) (c e : Nat) : Cond :=
  ⟨engKey c e, s.time.up, if s.stoked c e then some (stokeBound (s.cfg 0x2800 2) (s.cfg 0x2800 3)) else none, s.genPpm (timebaseGen c)⟩

/-- The row an MVM delivers; none for an MVM of zero reads in add mode (R35, R54). -/
def mvmRows (m : MvmOp) (wfmt : Nat) : List RowWrite :=
  if m.reads = 0 then (if m.acc then [] else [⟨m.tile, m.row, false, false, 128, []⟩])
  else
    let vals := lanesOf wfmt ((combineAll m.sums).map (·.1))
    [⟨m.tile, m.row, m.acc, false, vals.length, vals⟩]

/-- An MVM after its last read: its clips and its LOWCONF mark. -/
def MvmOp.finish (m : MvmOp) (g : Engine) (sentinel : Bool) : MvmOp :=
  let comb := (combineAll m.sums).map (·.2)
  { m with clipped := (List.range 128).map (fun i => m.clipped.getD i false || comb.getD i false),
           combClip := comb.any id, lowconf := m.lowconf || (g.lowconfCause sentinel).isSome,
           lcCause := if m.lowconf then m.lcCause else (g.lowconfCause sentinel).getD 0 }

/-- After its last read the MVM has its row. -/
def State.mvmFinish (s : State) (c q : Nat) : State :=
  match s.op c q with
  | some o =>
    match o.body with
    | .mvm m =>
      let g := s.eng c m.eng
      let m := m.finish g (isSentinel c)
      s.modOp c q (fun o => { o with body := .mvm m, rows := mvmRows m g.wfmt })
    | _ => s
  | none => s

/-- CORR_STAGED and REPAIR_MAP become the committed state, as one change (R60). -/
def EngRegs.commit (r : EngRegs) : EngRegs := { r with active := r.staged, repair := r.repairStaged, corrCommit := false }

/-- An MVM read is in progress or queued (Table 2.8). -/
def Op.busyOn (o : Op) (e : Nat) : Bool :=
  match o.body with
  | .mvm m => m.eng == e && (m.inputs.isNone || !m.todo.isEmpty)
  | _ => false

def State.engBusy (s : State) (c e : Nat) : Bool := (s.core c).seq.ops.any (fun o => o.busyOn e)

def Engine.commit (g : Engine) : Engine := { g with regs := g.regs.commit, trackWait := false }

/-- A commit takes effect; a new REPAIR_MAP is also kept in the hub keep. -/
def State.commitEng (s : State) (c e : Nat) : State :=
  let g := (s.eng c e).commit
  let s := if (s.eng c e).regs.repair = g.regs.repair then s
    else { s with keep := { s.keep with repair := Tab.set s.keep.repair (engKey c e) g.regs.repair, prevRepair := s.keep.repair } }
  s.setEng c e g

/-- A pending commit takes effect once the engine is not BUSY. -/
def State.commitIdle (s : State) (c e : Nat) : State :=
  let g := s.eng c e
  if (g.regs.corrCommit || g.trackWait) && !s.engBusy c e then s.commitEng c e else s

/-! ## Settling -/

/-- The MVM fetches its inputs and forms its loads and groups (R43). One that makes no read has its row at once, and the engine
may cease to be BUSY with it. -/
def State.mvmFetch (s : State) (c : Nat) (o : Op) (m : MvmOp) : State :=
  let n := 128 * quartersOf m.bound
  let bytes := if m.ifmt = 2 then 2 * n else n
  let bad := s.abPoisoned c m.line 0 bytes
  let ins := inputElems m.ifmt n (s.abBytes c m.line 0 bytes)
  let g := s.eng c m.eng
  let todo := mvmReads m.ifmt ins m.bound (240 * m.budget) (g.regs.splitEn && !isSentinel c) g.regs.skipZero
  let s := s.modOp c o.seq (fun o => { o with status := if bad then 4 else o.status, body := .mvm { m with inputs := some ins, todo := todo } })
  if todo.isEmpty then (s.mvmFinish c o.seq).commitIdle c m.eng else s

/-- A FENCE or ENDB finds the unobserved-error latch (R159). -/
def State.checkLatch (s : State) (c : Nat) : State :=
  s.modSeq c (fun q =>
    match q.latch with
    | some f => { q with latch := none, faultPend := some f }
    | none => q)

/-- Codes of an EMIT enter the channel's queue as far as it has room; the op waits with the rest (R154). -/
def State.giveCodes (s : State) (c : Nat) (o : Op) (ch : Nat) (bs : List Byte) : State :=
  let m := min (s.dac ch).room (bs.length / 2)
  let s := s.dacQueue ch ((List.range m).map (fun i => fromLE (chunk bs i 2)))
  let o := { o with data := some (bs.drop (2 * m)) }
  if bs.length ≤ 2 * m then s.finishOp c o 0 else s.modOp c o.seq (fun _ => o)

/-- Records reach the recorder's inbox. -/
def State.toInbox (s : State) (l : List RecMsg) : State := { s with ash := { s.ash with inbox := s.ash.inbox ++ l } }

/-- What an op in flight does as soon as nothing holds it: the moves that have no command of their own. -/
def State.settleOp (s : State) (c q : Nat) : State :=
  match s.op c q with
  | none => s
  | some o =>
    let k := s.core c
    match o.body with
    | .mvm m => if m.inputs.isNone && k.mayRead q o.reads then s.mvmFetch c o m else s
    | .sig obj set v sent =>
      if !sent && (k.before q).isEmpty then
        (s.sendSync ⟨obj, set, v, 0, false, false, coreSource c, some (c, q), false⟩).modOp c q (fun o => { o with body := .sig obj set v true })
      else s
    | .fence => if (k.before q).isEmpty then (s.checkLatch c).finishOp c o 0 else s
    | .halt => if (k.before q).isEmpty then (s.finishOp c o 0).halt c o.index o.bank 0 else s
    | .endb => if (k.before q).any (fun x => x.batch.isSome) then s else s.finishOp c o 0
    | .ldkBuf scalar dst line word =>
      if k.mayRead q o.reads then
        let v := fromLE (s.abBytes c line (4 * word) 4)
        let bad := s.abPoisoned c line (4 * word) 4
        (s.modSeq c (fun x => x.setReg scalar dst v)).finishOp c o (poisonStatus bad)
      else s
    | .send slot chan n line sent _ => if !sent && k.mayRead q o.reads then s.transmit c o slot chan n line else s
    | .recv slot chan n line posted got =>
      if !posted then s.postCredit c o slot chan n line (.recv slot chan n line true got)
      else if got && k.mayWrite q [(line, n)] then (s.abWrite c line (o.data.getD [])).finishOp c o 0
      else s
    | .recvRows slot chan n tile row acc fp posted got =>
      if !posted then s.postCredit c o slot chan (8 * n) (rowLine tile row) (.recvRows slot chan n tile row acc fp true got) else s
    | .emitDac ch n line hw =>
      let granted := k.ctx = some (s.cfg (dacIdx ch) 2)
      if (s.dac ch).fault || !granted then
        let left := match o.data with | some bs => bs.length / 2 | none => n
        (s.bumpBy (dacIdx ch) 0x14 left).finishOp c o 0
      else
        match o.data with
        | some bs => s.giveCodes c o ch bs
        | none =>
          if !k.mayRead q o.reads then s
          else
            let bs := s.abBytes c line (2 * hw) (2 * n)
            let o := { o with status := if s.abPoisoned c line (2 * hw) (2 * n) then 4 else o.status }
            match s.way (dieOf c) 4 (1 + ceilDiv (2 * n) 64) (s.pathUnmet (dieOf c) 4) with
            | (.stalls, s) => s
            | (.shut d, s) => (s.dieDrop d).finishOp c o 4
            | (.lost, s) => s.finishOp c o 0
            | (.passed, s) => s.giveCodes c o ch bs
            | (.twice, s) => s.giveCodes c o ch (bs ++ bs)
    | .log code n line sent =>
      if !sent && k.mayRead q o.reads then
        let bs := s.abBytes c line 0 (4 * n)
        let o := { o with status := if s.abPoisoned c line 0 (4 * n) then 4 else o.status, body := .log code n line true }
        let r : Rec := ⟨s.time.gtc, coreSource c, 0x8000 + code, (List.range n).map (fun i => fromLE (chunk bs i 4)), false, false, false, false, 0, 0⟩
        match s.way (dieOf c) 4 (1 + ceilDiv (4 * n) 64) (s.pathUnmet (dieOf c) 4) with
        | (.stalls, s) => s
        | (.shut d, s) => (s.dieDrop d).finishOp c o 4
        | (.lost, s) => s.modOp c q (fun _ => o)
        | (.passed, s) => (s.modOp c q (fun _ => o)).toInbox [⟨r, some (c, q)⟩]
        | (.twice, s) => (s.modOp c q (fun _ => o)).toInbox [⟨r, some (c, q)⟩, ⟨r, none⟩]
      else s
    | _ => s

/-- All ops of a core in issue order, then a pending stop. -/
def State.settle (s : State) (c : Nat) : State :=
  (((s.core c).seq.ops.map (·.seq)).foldl (fun s q => s.settleOp c q) s).settleStop c

/-- An op completes with a status, and the core goes on. -/
def State.completeOp (s : State) (c : Nat) (o : Op) (status : Nat) : State := (s.finishOp c o status).settle c

/-! ## Issue (R110, R135, R157) -/

/-- Registers an LDK in flight has still to write. -/
def Core.busyRegs (k : Core) : List (Bool × Nat) :=
  k.seq.ops.filterMap (fun o =>
    match o.body with
    | .ldkBuf f d _ _ => some (f, d)
    | .ldkSync f d _ => some (f, d)
    | _ => none)

/-- A WAIT, WAITT, WAITPH or FENCE is in flight; a HALT stops issue (R110, R150). -/
def Op.holdsIssue (o : Op) : Bool :=
  match o.body with
  | .wait _ _ _ _ => true
  | .waitt _ => true
  | .waitph _ _ _ => true
  | .fence => true
  | .halt => true
  | _ => false

/-- An op holds its entry of the DOU queue until it leaves flight: the one that runs and a DMM whose rows wait to commit are
counted (DESIGN CHOICE: log 108). -/
def Op.inDou (o : Op) : Bool :=
  match o.body with
  | .dmm _ => true
  | .vop _ => true
  | _ => false

/-- b is numbered E or higher (R200). -/
def batchAtLeast (b e : Nat) : Bool := decide ((b + 2 ^ 32 - e) % 2 ^ 32 < 2 ^ 31)

/-- The bank a BATCH samples (R109, R200). -/
def State.sampledBank (s : State) (c : Nat) : Nat :=
  let k := s.core c
  let imago := match k.ctx with | some x => (s.ctx x).imago | none => k.seq.bank
  match k.seq.committed with
  | some (b, e) => if batchAtLeast k.seq.batchNo e then b else 1 - b
  | none => imago

/-- Issue stalls (R110); a held BATCH waits for COMMIT or DISARM. -/
def State.stalled (s : State) (c w : Nat) : Bool :=
  let k := s.core c
  let q := k.seq
  let op := opcodeOf w
  decide (64 ≤ q.ops.length) || q.ops.any Op.holdsIssue || (regsOf w).any (fun r => k.busyRegs.contains r) ||
    ((op == 0x12 || op == 0x13) && decide (16 ≤ (q.ops.filter Op.inDou).length)) ||
    (op == 0x11 && q.ops.any (fun o => meetAny o.writes [(lineOf w, 1)])) ||
    (op == 0x08 && ((match q.armed with | some (_, e) => batchAtLeast q.batchNo e | none => false) ||
      (s.sampledBank c != q.bank && (match k.head (s.sampledBank c) with | some h => bit h.flags 3 | none => false) && !k.busyRegs.isEmpty)))

/-- A frozen master (R278): its state, its record and MSI-X vector 2. -/
def State.freezeCore (s : State) (c addr kind : Nat) : State :=
  let q := (s.core c).seq
  ((s.modCore c (fun k => { k with state := .frozen })).record (coreSource c) 0x0023
    [addr, kind + q.pc * 4 + q.bank * 16384]).msix 2

/-- An op discarded at issue: LAST_FAULT, its object unless the word itself cannot be trusted, and the fault path. -/
def State.discard (s : State) (c w status : Nat) : State :=
  let q := (s.core c).seq
  let f : FaultInfo := ⟨status, q.pc, q.bank⟩
  let s := (s.setFault c f).modSeq c (fun q => { q with faultPend := some f })
  if status = 6 ∨ syncOf w = 0 then s
  else s.sendSync ⟨handleObj c (syncOf w), false, 1, status, false, false, coreSource c, none, false⟩

/-- The index moves on; past 4,095 the core is to halt (R131). -/
def State.advance (s : State) (c : Nat) : State :=
  s.modSeq c (fun q => if q.pc = 4095 then { q with stopReq := some .pastEnd } else { q with pc := q.pc + 1 })

/-- A branch taken: the index is TARGET and nothing ran past the end. -/
def State.jump (s : State) (c target : Nat) : State := s.modSeq c (fun q => { q with pc := target, stopReq := none })

/-- Core c may issue: it runs, and no fault path or stop is pending. -/
def Core.issuing (k : Core) : Bool := k.state == .running && k.seq.faultPend.isNone && k.seq.stopReq.isNone

/-- The word at the core's index. -/
def State.planWord (s : State) (c : Nat) : Nat := s.num (planAddr c (s.core c).seq.bank (s.core c).seq.pc) 8

/-- Uncorrectable error in plan memory at fetch: issue stops and the core halts with status 4 (Table 12.2). -/
def State.planFault (s : State) (c : Nat) : State :=
  let q := (s.core c).seq
  ((s.setFault c ⟨4, q.pc, q.bank⟩).modSeq c (fun q => { q with stopReq := some .planMemory })).settle c

/-- The command of opcode `opc` on core c: if the core's next word is that op, it issues under R157, and `act` is what the
op then does. NOP's command also covers the reserved opcodes, which have none of their own. -/
def State.issue (s : State) (c opc : Nat) (act : Nat → State → State) : State :=
  let k := s.core c
  let w := s.planWord c
  if !k.issuing then s
  else if s.poisoned (planAddr c k.seq.bank k.seq.pc) 8 then s.planFault c
  else if !(opcodeOf w == opc || (opc == 0 && !opcodes.contains (opcodeOf w))) then s
  else if s.stalled c w then s.bump (0x3000 + c) 0x08
  else if illegalWord c (k.head k.seq.bank) w then s.discard c w 6
  else
    match s.windowFault c w with
    | some (a, kind) => s.freezeCore c a kind
    | none =>
      if tileFault k w then s.discard c w 1
      else if boundFault k w then s.discard c w 2
      else (act w (s.advance c)).settle c

/-- The index of the op that last issued. -/
def Seq.issued (q : Seq) : Nat := if q.stopReq = some .pastEnd then 4095 else q.pc - 1

/-- The map an op runs on (R151): that of the bank last sampled. Where that bank has retired and may be under construction again, so that no
op may name its engines (R26), it is the pointer's (DESIGN CHOICE: log 140). -/
def State.opMap (s : State) (c : Nat) : Nat :=
  let b := (s.core c).seq.mapBank
  match (s.core c).ctx with
  | some x =>
    let k := s.ctx x
    if (k.bank k.imago).state == .imago && b != k.imago && (k.bank b).state != .draining then k.imago else b
  | none => b

/-- A new op enters flight at the core's last issued index. -/
def State.enter (s : State) (c : Nat) (sync : Nat) (satRep lcRep : Bool) (pend : List Nat) (body : OpBody) : State :=
  let m := s.opMap c
  s.modCore c (fun k =>
    let q := k.seq
    let o : Op := ⟨q.nextSeq, q.issued, q.bank, m, sync, q.openBatch, satRep, lcRep, false, false, 0, body, none, [], pend, [], []⟩
    { k with seq := { q with ops := q.ops ++ [o], nextSeq := q.nextSeq + 1 },
             pending := pend.foldl (fun p t => Tab.set p t (Tab.get 0 p t + 1)) k.pending })

/-- An op that completes at issue with nothing done, as a normal completion (R139). -/
def State.enterDone (s : State) (c sync : Nat) : State :=
  let s := s.enter c sync false false [] .endb
  match s.op c ((s.core c).seq.nextSeq - 1) with
  | some o => s.finishOp c o 0
  | none => s

end Sys2Proof.Machine
end

