-- ==== Sys2Proof/Machine/Plan.lean ====
section
/-! DEFINITION. Plan ops of the control, register, batch, ordering, sync, time and output classes (R148-R156), and the
fault path (R158). -/

namespace Sys2Proof.Machine

/-! ## Control and registers (R153) -/

def execNop (c : Nat) (s : State) : Out := .next (s.issue c 0x00 (fun _ s => s))

/-- HALT enters flight and acts once every earlier op has completed (R150). -/
def haltOp (c w : Nat) (s : State) : State := s.enter c (syncOf w) false false [] .halt

def execHalt (c : Nat) (s : State) : Out := .next (s.issue c 0x01 (haltOp c))

def execJmp (c : Nat) (s : State) : Out := .next (s.issue c 0x02 (fun w s => s.jump c (field w 0 12)))

/-- COND of BR on a register and a sign-extended immediate. -/
def branchCond (cond r imm : Nat) : Bool :=
  match cond with
  | 0 => r == imm
  | 1 => r != imm
  | 2 => decide (toSigned 32 r < toSigned 32 imm)
  | 3 => decide (toSigned 32 imm ≤ toSigned 32 r)
  | 4 => decide (r < imm)
  | 5 => decide (imm ≤ r)
  | 6 => Nat.land r imm != 0
  | _ => Nat.land r imm == 0

def brOp (c w : Nat) (s : State) : State :=
  let r := (s.core c).reg (bit w 48) (field w 12 5)
  if branchCond (field w 49 3) r (ofSigned 32 (toSigned 24 (imm24Of w))) then s.jump c (field w 0 12) else s

def execBr (c : Nat) (s : State) : Out := .next (s.issue c 0x03 (brOp c))

/-- A new offset half, the bound half kept. -/
def withOffset (r off : Nat) : Nat := r % 65536 + off % 65536 * 65536

def loopOp (c w : Nat) (s : State) : State :=
  let k := s.core c
  let cnt := field w 12 5
  let v := k.sreg cnt
  if v = 0 then s
  else
    let kr := field w 17 4
    let s := s.modSeq c (fun q => q.setS cnt (v - 1))
    let s := if bit w 48 then
        s.modSeq c (fun q => q.setK kr (withOffset (k.kreg kr) (k.offset kr + field w 21 16)))
      else s
    if v - 1 = 0 then s else s.jump c (field w 0 12)

def execLoop (c : Nat) (s : State) : Out := .next (s.issue c 0x04 (loopOp c))

/-- The new value of SETK's register. -/
def setkValue (mode r imm v : Nat) : Nat :=
  match mode with
  | 0 => imm
  | 1 => (r + imm) % 2 ^ 32
  | 2 => r / 65536 * 65536 + imm % 65536
  | 3 => withOffset r imm
  | 4 => withOffset r (r / 65536 + imm % 65536)
  | _ => v

def setkOp (c w : Nat) (s : State) : State :=
  let k := s.core c
  let sel := bit w 48
  let dst := field w 0 5
  s.modSeq c (fun q =>
    q.setReg sel dst (setkValue (field w 49 3) (k.reg sel dst) (field w 5 32) (k.reg (bit w 52) (field w 37 5))))

def execSetk (c : Nat) (s : State) : Out := .next (s.issue c 0x05 (setkOp c))

def ldkOp (c w : Nat) (s : State) : State :=
  let sel := bit w 48
  let dst := field w 0 5
  s.enter c 0 false false []
    (if bit w 49 then .ldkSync sel dst (handleObj c (field w 5 17)) else .ldkBuf sel dst (field w 5 13) (field w 18 4))

def execLdk (c : Nat) (s : State) : Out := .next (s.issue c 0x06 (ldkOp c))

/-! ## Batches (R151, R152) -/

/-- Row budgets that wait for a bank to go into effect on a core do so with it, as its blocks give them (R62). -/
def State.bankBudgets (s : State) (c bank : Nat) : State :=
  if (s.core c).ana.bankDue ≠ some bank then s
  else
    let s := match (s.core c).ctx with
      | none => s
      | some x => (((s.ctx x).bank bank).blocks.filter (fun (n : Block) => n.core == c)).foldl (fun s (n : Block) => s.modCore c (fun k => { k with ana := { k.ana with
          budget := Tab.set k.ana.budget n.eng n.n
          budgetStaged := Tab.set k.ana.budgetStaged n.eng n.n } })) s
    s.modCore c (fun k => { k with ana := { k.ana with bankDue := none } })

/-- The staged analogue settings and the check settings take effect (R61, R96). -/
def State.anaEffect (s : State) (c : Nat) : State :=
  let thresh := s.cfg 0x2800 6
  let rep := s.cfg 0x2800 7
  s.modCore c (fun k =>
    let a := k.ana
    let a := if a.pending then { a with scale := a.scaleStaged, budget := a.budgetStaged, pending := false } else a
    { k with ana := { a with thresh := thresh, repeats := rep } })

/-- Registers from K_INIT and S_INIT (R134). -/
def Seq.init (q : Seq) (h : PlanHeader) : Seq :=
  { q with k := Vector.ofFn (fun (i : Fin 16) => BitVec.ofNat 32 (h.kInit.getD i.val 0)),
           s := Vector.ofFn (fun (i : Fin 32) => BitVec.ofNat 32 (h.sInit.getD i.val 0)) }

/-- Issue enters the other bank's plan just after its BATCH. -/
def Seq.switchBank (q : Seq) (bank : Nat) (h : Option PlanHeader) : Seq :=
  let entry := match h with | some h => h.batchEntry | none => 0
  let q := match h with | some h => (if bit h.flags 3 then q.init h else q) | none => q
  if entry = 4095 then { q with bank := bank, pc := 4095, stopReq := some .pastEnd }
  else { q with bank := bank, pc := entry + 1, stopReq := none }

/-- A configuration-set commit waiting for this context's BATCH falls due when logical core 0 issues it (R274). -/
def State.batchCommitDue (s : State) (c : Nat) : State :=
  let k := s.core c
  { s with sets := { s.sets with commitReq := s.sets.commitReq.map (fun p =>
      if p.when_ = 2 ∧ k.ctx = some p.ctx ∧ k.lcore = 0 then { p with due := true } else p) } }

/-- BATCH (R151, R152). One that closes an open batch looks at no unobserved-error latch (DESIGN CHOICE: log 149). -/
def batchOp (c : Nat) (s : State) : State :=
  let b := s.sampledBank c
  let s := s.anaEffect c
  let s := s.bankBudgets c b
  let h := (s.core c).head b
  let s := s.modSeq c (fun q =>
    let q := { q with closings := if q.openBatch.isSome then q.closings + 1 else q.closings, openBatch := some q.batchNo,
                      batchNo := (q.batchNo + 1) % 2 ^ 32, mapBank := b, inHandler := false }
    if b = q.bank then q else q.switchBank b h)
  s.batchCommitDue c

def execBatch (c : Nat) (s : State) : Out := .next (s.issue c 0x08 (fun _ s => batchOp c s))

def endbOp (c w : Nat) (s : State) : State :=
  if (s.core c).seq.openBatch.isNone then s
  else
    let s := s.enter c (syncOf w) false false [] .endb
    (s.modSeq c (fun q => { q with openBatch := none })).checkLatch c

def execEndb (c : Nat) (s : State) : Out := .next (s.issue c 0x09 (endbOp c))

def execFence (c : Nat) (s : State) : Out := .next (s.issue c 0x0A (fun _ s => s.enter c 0 false false [] .fence))

/-! ## Sync and time (R148, R149) -/

def sigOp (c w : Nat) (s : State) : State :=
  let k := s.core c
  s.enter c 0 false false []
    (.sig (handleObj c (syncOf w)) (bit w 48) (if bit w 48 then k.sreg (field w 33 5) else field w 17 16) false)

def execSig (c : Nat) (s : State) : Out := .next (s.issue c 0x20 (sigOp c))

/-- The sync objects of a frame window (Table 4.10). -/
def winArrived (c : Nat) (f : FrameWin) : Nat := handleObj c (field f.word 32 16)
def winConsumed (c : Nat) (f : FrameWin) : Nat := handleObj c (field f.word 48 16)

/-- The frame window whose ARRIVED object this is: the lowest, where two name it (DESIGN CHOICE: log 171). -/
def Core.windowOf (k : Core) (c obj : Nat) : Option Nat :=
  (List.range k.wins.length).find? (fun i => let f := k.wins.getD i ⟨0, 0, 0⟩; f.word != 0 && winArrived c f == obj)

def waitTarget (k : Core) (w : Nat) : Nat :=
  if bit w 48 then (k.sreg (field w 41 5) % 2 ^ 24 + imm24Of w) % 2 ^ 24 else imm24Of w

def waitOp (c w : Nat) (s : State) : State :=
  let k := s.core c
  let obj := handleObj c (syncOf w)
  s.enter c 0 false false [] (.wait obj (waitTarget k w) (if bit w 49 then k.windowOf c obj else none) none)

def execWait (c : Nat) (s : State) : Out := .next (s.issue c 0x21 (waitOp c))

/-- T of a WAITT. -/
def waittTarget (k : Core) (w : Nat) : Nat :=
  if bit w 48 then ((k.seq.stamp : Int) + toSigned 32 (field w 5 32)).toNat
  else k.sreg (field w 0 5) + 2 ^ 32 * k.sreg (field w 0 5 + 1)

/-- A target already passed completes at once. -/
def waittOp (c w : Nat) (s : State) : State :=
  let t := waittTarget (s.core c) w
  if t ≤ s.time.gtc then s else s.enter c 0 false false [] (.waitt t)

def execWaitt (c : Nat) (s : State) : Out := .next (s.issue c 0x22 (waittOp c))

/-- PHASE of tracker t: its phase with PHASE_OFFSET added (R219). -/
def State.phaseOf (s : State) (t : Nat) : Nat := ((s.trk t).phase + s.cfg (0x2310 + t) 5) % 2 ^ 32

def waitphOp (c w : Nat) (s : State) : State :=
  let t := field w 0 3
  let mark := s.cfg 0x2320 (field w 8 6 + 1)
  let d :=
    if bit w 48 then (field mark 0 32 + 2 ^ 32 - s.phaseOf t) % 2 ^ (32 - field mark 36 4)
    else ((s.core c).sreg (field w 3 5) + 2 ^ 32 - s.phaseOf t) % 2 ^ 32
  if d = 0 then s else s.enter c 0 false false [] (.waitph t d 0)

def execWaitph (c : Nat) (s : State) : Out := .next (s.issue c 0x23 (waitphOp c))

/-! ## Outputs (R154-R156) -/

/-- EMIT. A SENT_DEADLINE of 0 means none (Table 5.1): no decision is late against it. The stamp latch and the deadline are those at
issue, whatever a later WAIT or BATCH brings before the decision arrives (DESIGN CHOICE: log 152). -/
def emitOp (c w : Nat) (s : State) : State :=
  let k := s.core c
  if bit w 48 then
    let q := k.seq.nextSeq
    let v := if bit w 50 then k.sreg (field w 23 5) != 0 else bit w 22
    let dl := match k.head k.seq.bank with | some h => h.sentDeadline | none => 0
    let s := s.enter c (syncOf w) false false [] (.emitTrip (field w 17 5))
    { s with net := { s.net with decisions := s.net.decisions ++
        [⟨c, q, field w 17 5, v, if bit w 49 && dl != 0 then some (k.seq.stamp + dl) else none, bit w 49⟩] } }
  else
    let kb := kbOf w
    if k.bound kb = 0 then s.enterDone c (syncOf w)
    else s.enter c (syncOf w) false false [] (.emitDac (field w 39 4) (k.bound kb) ((lineOf w + k.offset kb) % 8192) (field w 34 5))

def execEmit (c : Nat) (s : State) : Out := .next (s.issue c 0x28 (emitOp c))

def logOp (c w : Nat) (s : State) : State :=
  let k := s.core c
  let kb := kbOf w
  s.enter c (syncOf w) false false [] (.log (field w 34 10) (k.bound kb) ((lineOf w + k.offset kb) % 8192) false)

def execLog (c : Nat) (s : State) : Out := .next (s.issue c 0x29 (logOp c))

/-! ## The fault path (R158) -/

/-- With no op in flight the core enters its handler, or halts when it has none or is in it already. -/
def faultPath (c : Nat) (s : State) : State :=
  let k := s.core c
  match k.seq.faultPend with
  | none => s
  | some f =>
    if k.state != .running || !k.seq.ops.isEmpty then s
    else
      match k.head k.seq.bank with
      | some h =>
        if bit h.flags 1 && !k.seq.inHandler then
          s.modSeq c (fun q => { (q.setS 31 f.word) with pc := h.faultEntry, faultPend := none, inHandler := true, stopReq := none })
        else s.halt c f.index f.bank 0x2000
      | none => s.halt c f.index f.bank 0x2000

def execFaultPath (c : Nat) (s : State) : Out := .next (faultPath c s)

end Sys2Proof.Machine
end

