-- ==== Sys2Proof/Machine/Tiles.lean ====
section
/-! DEFINITION. MVM, DRAIN, DMM, VOP, LOAD and STORE: their issue, their reads and conversions, their commits and
completions (R54, R63, R101-R106, R114-R117, R142-R146). -/

namespace Sys2Proof.Machine

/-! ## MVM (R142) -/

/-- An MVM arrives: a test read whose hold transfer, 40 ns after it began, is still to come is abandoned (R82). -/
def State.stopTestRead (s : State) (c e : Nat) : State :=
  match (s.eng c e).test.running with
  | some (t, _) => if s.time.up - t < 40 then s.modEng c e (fun g => { g with test := { g.test with running := none } }) else s
  | none => s

def mvmOp (c w : Nat) (s : State) : State :=
  let k := s.core c
  let kb := mvmKb w
  let bound := k.bound kb
  let off := k.offset kb
  let tile := mvmTile w + (if bit w 53 then off else 0)
  let line := (field w 20 13 + (if bit w 54 then off else 0)) % 8192
  let e := Tab.get (mvmEng w) (k.map (s.opMap c)) (mvmEng w)
  let m : MvmOp :=
    { leng := mvmEng w, eng := e, tile := tile, row := field w 33 3, acc := bit w 48, ifmt := field w 49 2, bound := bound, line := line,
      inputs := if bound = 0 then some [] else none, todo := [], sums := List.replicate (sliceCount (field w 49 2)) (List.replicate 128 0),
      clipped := [], refSat := [false, false, false, false], adcClip := false, corrClip := false, combClip := false, reads := 0,
      lowconf := false, lcCause := 0, budget := Tab.get 16 k.ana.budget e, thresh := k.ana.thresh, repeats := k.ana.repeats,
      scale := k.ana.scale }
  let q := k.seq.nextSeq
  let s := s.enter c (syncOf w) (bit w 51) (bit w 52) [tile] (.mvm m)
  let s := s.stopTestRead c e
  if bound = 0 then s.mvmFinish c q else s

def execMvm (c : Nat) (s : State) : Out := .next (s.issue c 0x10 (mvmOp c))

/-! ## Reads (R44-R51, R60, R74-R78) -/

/-- What one read slot and its re-reads come to: the 132 corrected values, how many reads were made and how many failed
their check, and whether the averaged read failed. -/
structure ReadResult where
  cols : List ColRead
  made : Nat
  failed : Nat
  low : Bool
  deriving DecidableEq, Repr

/-- A read with its confidence check and, on a failure, its re-reads (R75, R76). -/
def readWithCheck (g : Engine) (y : Cond) (m : MvmOp) (rg : ReadGroup) (draw : Nat) : ReadResult :=
  let drive := driveOf m.ifmt (m.inputs.getD []) rg
  let ok := fun (cols : List ColRead) => refPass g.refMask m.thresh m.budget drive (cols.drop 128)
  let r0 := effective g (readColumns g y m.scale m.budget drive draw)
  if ok r0 then ⟨r0, 1, 0, false⟩
  else if g.twoMasked then ⟨r0, 1, 1, false⟩
  else
    let more := rereads g y m.scale m.budget drive m.repeats (draw + 136)
    let avg := average (r0 :: more)
    ⟨avg, 1 + more.length, 1 + (more.filter (fun r => !ok r)).length, !ok avg⟩

/-- The MVM after a read. -/
def MvmOp.afterRead (m : MvmOp) (rg : ReadGroup) (rest : List ReadGroup) (x : ReadResult) : MvmOp :=
  let cols := x.cols.take 128
  let refs := x.cols.drop 128
  { m with
    todo := rest
    sums := m.sums.zipIdx.map (fun y => if y.2 = rg.slice then List.zipWith (· + ·) y.1 (cols.map (·.r)) else y.1)
    clipped := (List.range 128).map (fun i => m.clipped.getD i false || (cols.getD i ⟨0, false, false⟩).adc || (cols.getD i ⟨0, false, false⟩).corr)
    refSat := (List.range 4).map (fun i => m.refSat.getD i false || (refs.getD i ⟨0, false, false⟩).adc || (refs.getD i ⟨0, false, false⟩).corr)
    adcClip := m.adcClip || cols.any (·.adc)
    corrClip := m.corrClip || cols.any (·.corr)
    reads := m.reads + 1
    lowconf := m.lowconf || x.low }

/-- What the last 24 h of an engine's health record gain (R77, R91). -/
def Engine.note (g : Engine) (now low fails reads : Nat) : Engine :=
  { g with health := { g.health with log := g.health.log ++ [(now, low, fails, reads)] } }

/-- One read slot of an MVM on engine e of core c. READ_CNT goes on modulo 2^64 (DESIGN CHOICE: log 109). None starts while the die's analogue timebase ramps. -/
def State.readSlot (s : State) (c e : Nat) : State :=
  match (s.core c).seq.ops.find? (fun o => o.busyOn e) with
  | none => s
  | some o =>
    if s.atbRamps c then s else
    match o.body with
    | .mvm m =>
      match m.todo with
      | [] => s
      | rg :: rest =>
        let s := if rg.opens && (s.eng c e).regs.corrCommit then s.commitEng c e else s
        let g := s.eng c e
        let x := readWithCheck g (s.cond c e) m rg s.draws
        let split := rg.opens && rest.any (fun r => r.slice == rg.slice)
        let g := { g with regs := { g.regs with readCnt := (g.regs.readCnt + x.made) % 2 ^ 64,
                                                 splitCnt := min 0xFFFFFFFF (g.regs.splitCnt + boolNat split) } }
        let s := (s.setEng c e (g.note s.time.up 0 x.failed x.made)).drawN (136 * x.made)
        let s := if x.failed = 0 then s else s.bumpBy 0x2801 5 x.failed
        let s := s.modOp c o.seq (fun o => { o with body := .mvm (m.afterRead rg rest x) })
        if rest.isEmpty then (s.mvmFinish c o.seq).commitIdle c e else s
    | _ => s

def execReadSlot (c e : Nat) (s : State) : Out := .next (s.readSlot c e)

/-! ## Commits (R54, R56, R101-R103) -/

/-- All of an op's products are formed. -/
def Op.formed (o : Op) : Bool :=
  match o.body with
  | .mvm m => m.inputs.isSome && m.todo.isEmpty
  | .dmm d => d.finished
  | .recvRows _ _ _ _ _ _ _ _ got => got
  | _ => false

/-- What a completed MVM leaves on its engine: saturation flags, counts, the LOWCONF count and record (R56, R77). -/
def State.mvmAccount (s : State) (c : Nat) (o : Op) (m : MvmOp) : State :=
  let g := s.eng c m.eng
  let cl := clippedLanes g.wfmt m.clipped
  let hit := cl.any id
  let s := s.setEng c m.eng
    { g with regs := { (g.regs.setSat cl m.refSat m.adcClip m.corrClip m.combClip) with
                        readsLast := m.reads, clipCnt := min 0xFFFFFFFF (g.regs.clipCnt + boolNat hit) } }
  let s := s.modOp c o.seq (fun o => { o with sat := hit, lowconf := m.lowconf })
  if m.lowconf then
    ((s.modEng c m.eng (fun g => g.note s.time.up 1 0 0)).bump 0x2801 6).record (coreSource c) 0x0020
      [m.eng + m.leng * 64 + m.lcCause * 4096, o.index + o.bank * 4096]
  else s

/-- The op has committed its last row, and completes. -/
def State.rowsDone (s : State) (c q : Nat) : State :=
  match s.op c q with
  | none => s
  | some o =>
    let s := match o.body with | .mvm m => s.mvmAccount c o m | _ => s
    match s.op c q with
    | some o => s.completeOp c o 0
    | none => s

/-- The first row of an op that nothing holds commits: writes of one tile in issue order, rows of other tiles and rows that no earlier op reads
not waiting for the others (R102, R103). The last one completes the op. -/
def State.tileCommit (s : State) (c q : Nat) : State :=
  match s.op c q with
  | none => s
  | some o =>
    if !o.formed then s
    else
      if o.rows.isEmpty then s.rowsDone c q
      else
        match o.rows.find? (fun w => (s.core c).mayCommit q w.tile w.row) with
        | none => s
        | some w =>
          let rest := o.rows.erase w
          let satDmm := match o.body with | .dmm _ => s.rowSaturates c w | _ => false
          let bad := w.acc && s.poisoned (accAddr c w.tile w.row 0) 512
          let s := s.commitRow c w
          let last := !rest.any (fun r => r.tile == w.tile)
          let s := s.modOp c q (fun o => { o with rows := rest, sat := o.sat || satDmm, status := if bad then 4 else o.status,
                                                  pend := if last then o.pend.erase w.tile else o.pend })
          let s := if last then s.modCore c (fun k => k.dropPend [w.tile]) else s
          if rest.isEmpty then s.rowsDone c q else s.settle c

def execTileWriteCommit (c op : Nat) (s : State) : Out := .next (s.tileCommit c op)

/-! ## DRAIN (R104, R106, R143, R349) -/

def drainOp (c w : Nat) (s : State) : State :=
  let k := s.core c
  let kb := kbOf w
  let n := k.bound kb
  if n = 0 then s.enterDone c (syncOf w)
  else
    let off := if bit w 55 then k.offset kb else 0
    let tile := drainTile w + off
    let desc := s.abBytes c (lineOf w) 0 64
    let bad := s.abPoisoned c (lineOf w) 0 64
    let f := fun i n => fromLE ((desc.drop i).take n)
    let leak := f 0x0A 1
    let d : DrainOp :=
      { tile := tile, row0 := drainRow0 w, n := n, act := field w 52 3, fuse := field w 50 2, clear := bit w 48, pool := field w 46 2,
        ofmt := field w 43 3, dest := (f 0 2 % 8192 + off * f 2 2) % 8192, param := f 4 2 % 8192,
        fusel := (f 6 2 % 8192 + off * f 8 2) % 8192, leak := if leak = 0 ∨ 8 < leak then 1 else leak, mean := bit (f 0x0B 1) 0,
        scale := bit (f 0x0C 1) 0, bias := bit (f 0x0D 1) 0, started := false }
    let q := k.seq.nextSeq
    let s := s.enter c (syncOf w) (bit w 49) false [] (.drain d)
    if bad then s.modOp c q (fun o => { o with status := 4 }) else s

def execDrain (c : Nat) (s : State) : Out := .next (s.issue c 0x11 (drainOp c))

/-- The fp32 word at lane l of a block of lines. -/
def State.paramWord (s : State) (c line l : Nat) : W32 := BitVec.ofNat 32 (fromLE (s.abBytes c line (4 * l) 4))

/-- Stages 1 to 4 of one lane (Table 4.2). -/
def State.drainLane (s : State) (c : Nat) (d : DrainOp) (row l : Nat) : W32 :=
  let raw := s.lane c d.tile row l
  let x := if ((s.core c).tag d.tile row).fp then to32 (val32 raw) else int32ToF raw.toInt
  let x := if d.scale then mul32 x (s.paramWord c d.param l) else x
  let x := if d.bias then add32 x (s.paramWord c (d.param + 8) l) else x
  activate d.act d.leak (s.paramWord c (d.param + 16) 0) x

/-- Stages 5 to 7 of lane l of output row j: the code and its saturation report. -/
def State.drainOut (s : State) (c : Nat) (d : DrainOp) (j l : Nat) : Nat × Bool :=
  let rows := (List.range d.group).map (fun i => j * d.group + i) |>.filter (fun i => decide (i < d.n))
  let xs := rows.map (fun i => s.drainLane c d (d.row0 + i) l)
  let x := if d.pool = 0 then xs.getD 0 0 else pool d.mean xs
  let b := fmtBytes d.ofmt
  let y := elemToF d.ofmt (fromLE (s.abBytes c (d.fusel + j * fmtLines d.ofmt) (l * b) b))
  let x := if d.fuse = 1 then add32 x y else if d.fuse = 2 then mul32 x y else x
  convert d.ofmt x

/-- A DRAIN reads its rows and forms its output once nothing holds it (R103, R111). -/
def State.drainStart (s : State) (c q : Nat) : State :=
  match s.op c q with
  | none => s
  | some o =>
    match o.body with
    | .drain d =>
      let k := s.core c
      if d.started || !k.tileFree q d.tile || !k.rowsOpen q d.tile d.row0 d.n d.clear || !k.mayRead q o.reads then s
      else
        let outs := (List.range d.outRows).flatMap (fun j => (List.range 128).map (fun l => s.drainOut c d j l))
        let bytes := (outs.map (fun x => toLE (fmtBytes d.ofmt) x.1)).flatten
        let accSat := (List.range d.n).any (fun i => (k.tag d.tile (d.row0 + i)).accSat)
        let bad := s.poisoned (accAddr c d.tile d.row0 0) (512 * d.n) || o.readBytes.any (fun r => s.abPoisoned c r.1 0 r.2)
        let s := s.modOp c q (fun o => { o with body := .drain { d with started := true }, out := [(d.dest, bytes)],
                                                sat := accSat || outs.any (·.2), status := if bad then 4 else o.status })
        let s := if d.clear then (List.range d.n).foldl (fun s i => s.clearRow c d.tile (d.row0 + i)) s else s
        s.settle c
    | _ => s

def execDrainStart (c op : Nat) (s : State) : Out := .next (s.drainStart c op)

/-- The op's results go to the activation buffer and it completes. -/
def State.writeOut (s : State) (c q : Nat) : State :=
  match s.op c q with
  | none => s
  | some o =>
    if (s.core c).mayWrite q o.writes then (o.out.foldl (fun s x => s.abWrite c x.1 x.2) s).completeOp c o 0 else s

def State.drainComplete (s : State) (c q : Nat) : State :=
  match s.op c q with
  | some o => (match o.body with | .drain d => if d.started then s.writeOut c q else s | _ => s)
  | none => s

def execDrainComplete (c op : Nat) (s : State) : Out := .next (s.drainComplete c op)

/-! ## DOU (R114-R117, R144, R145) -/

def dmmOp (c w : Nat) (s : State) : State :=
  let k := s.core c
  let kb := kbOf w
  let t := dmmTile w + (if bit w 27 then k.offset (kb + 2) else 0)
  let d : DmmOp :=
    { m := k.bound kb, n := k.bound (kb + 1), k := k.bound (kb + 2), aLine := k.offset kb % 8192, bLine := k.offset (kb + 1) % 8192, tile := t,
      afmt := field w 50 3, bfmt := field w 53 3, acc := bit w 48, started := false, finished := false }
  s.enter c (syncOf w) (bit w 49) false ((List.range (max (ceilDiv d.m 8) 1)).map (· + t)) (.dmm d)

def execDmm (c : Nat) (s : State) : Out := .next (s.issue c 0x12 (dmmOp c))

def vopOp (c w : Nat) (s : State) : State :=
  let k := s.core c
  let kb := kbOf w
  let v : VopOp :=
    { func := field w 48 3, n := k.bound kb, aLine := k.offset kb % 8192, bLine := k.offset (kb + 1) % 8192, dLine := k.offset (kb + 2) % 8192,
      afmt := field w 21 3, bfmt := field w 24 3, dfmt := field w 27 3, started := false }
  s.enter c (syncOf w) (bit w 51) false [] (.vop v)

def execVop (c : Nat) (s : State) : Out := .next (s.issue c 0x13 (vopOp c))

/-- The code of element i of a vector that starts at a line. -/
def State.elem (s : State) (c line fmt i : Nat) : Nat := fromLE (s.abBytes c line (i * fmtBytes fmt) (fmtBytes fmt))

/-- One element of C: integer sums exact, float sums in ascending k with one rounding per addition (R115). -/
def State.dmmElem (s : State) (c : Nat) (d : DmmOp) (i j : Nat) : W32 :=
  let a := fun x => s.elem c (d.aLine + i * elemLines d.afmt d.k) d.afmt x
  let b := fun x => s.elem c (d.bLine + j * elemLines d.bfmt d.k) d.bfmt x
  if d.afmt = 0 then
    BitVec.ofInt 32 (clampInt (-2147483648) 2147483647
      (sumInt ((List.range d.k).map (fun x => toSigned 8 (a x) * toSigned 8 (b x)))))
  else
    (List.range d.k).foldl (fun acc x => to32 (addVal (val32 acc) (mulVal (elemVal d.afmt (a x)) (elemVal d.bfmt (b x))))) 0

/-- The rows a DMM commits; with a zero bound, zeros in overwrite mode and nothing in add mode (Table 5.5). -/
def State.dmmRows (s : State) (c : Nat) (d : DmmOp) : List RowWrite :=
  let fp := d.afmt != 0
  if d.m = 0 ∨ d.n = 0 ∨ d.k = 0 then
    (if d.acc then [] else (List.range d.m).map (fun i => ⟨d.tile + i / 8, i % 8, false, fp, 128, []⟩))
  else
    (List.range d.m).map (fun i => ⟨d.tile + i / 8, i % 8, d.acc, fp, d.n, (List.range d.n).map (s.dmmElem c d i)⟩)

/-- A VOP's results: codes and saturation reports (R117, Table 4.5). -/
def State.vopResult (s : State) (c : Nat) (v : VopOp) : List (Nat × Bool) :=
  let a := (List.range v.n).map (fun i => elemToF v.afmt (s.elem c v.aLine v.afmt i))
  let b := fun (_ : Unit) => (List.range v.n).map (fun i => elemToF v.bfmt (s.elem c v.bLine v.bfmt i))
  let out : List W32 :=
    match v.func with
    | 0 => List.zipWith add32 a (b ())
    | 1 => List.zipWith mul32 a (b ())
    | 2 => List.zipWith max32 a (b ())
    | 3 => List.zipWith min32 a (b ())
    | 4 => a.map exp32
    | 5 => a.map rsqrt32
    | 6 => (tree add32 13 a).take 1
    | _ => (tree max32 13 a).take 1
  if v.n = 0 then [] else out.map (convert v.dfmt)

/-- The DMM or VOP at the head of the DOU: the oldest not yet done there. -/
def Core.douHead (k : Core) : Option Op :=
  k.seq.ops.find? (fun o =>
    match o.body with
    | .dmm d => !d.finished
    | .vop _ => true
    | _ => false)

def State.douStart (s : State) (c : Nat) : State :=
  let k := s.core c
  match k.douHead with
  | none => s
  | some o =>
    if !k.mayRead o.seq o.reads then s
    else
      let bad := o.readBytes.any (fun r => s.abPoisoned c r.1 0 r.2)
      let st := if bad then 4 else o.status
      match o.body with
      | .dmm d =>
        if d.started then s
        else
          let rows := s.dmmRows c d
          (s.modOp c o.seq (fun o => { o with body := .dmm { d with started := true }, rows := rows, status := st })).settle c
      | .vop v =>
        if v.started then s
        else
          let r := s.vopResult c v
          let bytes := (r.map (fun x => toLE (fmtBytes v.dfmt) x.1)).flatten
          (s.modOp c o.seq (fun o => { o with body := .vop { v with started := true }, out := [(v.dLine, bytes)], sat := r.any (·.2),
                                              status := st })).settle c
      | _ => s

def execDouOpStart (c : Nat) (s : State) : Out := .next (s.douStart c)

/-- A DMM's rows go to the write-back queue; a VOP writes its results and completes. -/
def State.douComplete (s : State) (c : Nat) : State :=
  match (s.core c).douHead with
  | none => s
  | some o =>
    match o.body with
    | .dmm d =>
      if !d.started then s
      else
        let s := s.modOp c o.seq (fun o => { o with body := .dmm { d with finished := true } })
        if o.rows.isEmpty then s.rowsDone c o.seq else s
    | .vop v => if v.started then s.writeOut c o.seq else s
    | _ => s

def execDouOpComplete (c : Nat) (s : State) : Out := .next (s.douComplete c)

/-! ## LOAD and STORE (R105, R146) -/

def loadOp (c w : Nat) (s : State) : State :=
  let k := s.core c
  let kb := kbOf w
  if k.bound kb = 0 then s.enterDone c (syncOf w)
  else s.enter c (syncOf w) false false [] (.load (k.bound kb) (k.kreg (kb + 1)) ((lineOf w + k.offset kb) % 8192))

def execLoad (c : Nat) (s : State) : Out := .next (s.issue c 0x18 (loadOp c))

def storeOp (c w : Nat) (s : State) : State :=
  let k := s.core c
  let kb := kbOf w
  let n := k.bound kb
  if n = 0 then s.enterDone c (syncOf w)
  else if bit w 48 then
    s.enter c (syncOf w) false false []
      (.storeRows n (storeTile w + (if bit w 49 then k.offset kb else 0)) (storeRow w) (lineOf w))
  else s.enter c (syncOf w) false false [] (.store n (k.kreg (kb + 1)) ((lineOf w + k.offset kb) % 8192))

def execStore (c : Nat) (s : State) : Out := .next (s.issue c 0x19 (storeOp c))

/-- The lines that came in poisoned flits are poisoned where they go (Table 12.2). -/
def State.poisonLines (s : State) (hurt : List Nat) (act : State → Nat → State) : State :=
  hurt.foldl (fun s h => if h = 0 then s else act s (h - 1)) s

/-- A LOAD or STORE moves its lines and completes; it waits for a retrain of the hub bridge (R313). Across a closed bridge end a LOAD reads poison
and a STORE is dropped, each with status 4 (R303). -/
def State.moveComplete (s : State) (c q : Nat) : State :=
  match s.op c q with
  | none => s
  | some o =>
    let k := s.core c
    match o.body with
    | .load n hub line =>
      if !k.mayWrite q [(line, n)] || s.pathStalls 4 (dieOf c) then s
      else if (s.pathShut 4 (dieOf c)).isSome then
        (s.abWrite c line ((List.range (64 * n)).map poisonByte)).completeOp c o 4
      else
        let bad := s.poisoned (hub * 64) (n * 64)
        let (bs, s) := (s.crossed 4 (dieOf c) (1 + n)).linesOver (s.pathUnmet 4 (dieOf c)) n (s.bytes (hub * 64) (n * 64)) (s.abBytes c line 0 (n * 64))
        let s := (s.abWrite c line bs).poisonLines o.hurt (fun s i => s.poisonLine c (line + i))
        (if bad then s.setCause 5 else s).completeOp c o (poisonStatus bad)
    | .store n hub line =>
      if !k.mayRead q o.reads || s.pathStalls (dieOf c) 4 then s
      else
        match s.pathShut (dieOf c) 4 with
        | some d => (s.dieDrop d).completeOp c o 4
        | none =>
          let bad := s.abPoisoned c line 0 (n * 64)
          let (bs, s) := (s.crossed (dieOf c) 4 (1 + n)).linesOver (s.pathUnmet (dieOf c) 4) n (s.abBytes c line 0 (n * 64)) (s.bytes (hub * 64) (n * 64))
          ((s.poke (hub * 64) bs).poisonLines o.hurt (fun s i => s.poisonAt ((hub + i) * 64))).completeOp c o (poisonStatus bad)
    | .storeRows n tile row line =>
      if !k.rowsWritten q tile row n || !k.rowsOpen q tile row n false || !k.mayWrite q o.writes then s
      else
        let bad := s.poisoned (accAddr c tile row 0) (512 * n)
        (s.abWrite c line (s.bytes (accAddr c tile row 0) (512 * n))).completeOp c o (poisonStatus bad)
    | _ => s

def execMoveComplete (c op : Nat) (s : State) : Out := .next (s.moveComplete c op)

end Sys2Proof.Machine
end

