-- ==== Sys2Proof/Machine/Mesh.lean ====
section
/-! DEFINITION. Messages, credits, delivery results, sync updates and frame windows (R108, R118-R127, R147, R240). -/

namespace Sys2Proof.Machine

/-! ## SEND and RECV (R147) -/

def sendOp (c w : Nat) (s : State) : State :=
  let k := s.core c
  let kb := kbOf w
  s.enter c (syncOf w) false false []
    (.send (peerOf w) (chanOf w) (k.bound kb) ((lineOf w + k.offset kb) % 8192) false false)

def execSend (c : Nat) (s : State) : Out := .next (s.issue c 0x1A (sendOp c))

def recvOp (c w : Nat) (s : State) : State :=
  let k := s.core c
  let kb := kbOf w
  let n := k.bound kb
  if bit w 48 then
    let t := recvTile w + (if bit w 51 then k.offset kb else 0)
    s.enter c (syncOf w) false false [t] (.recvRows (peerOf w) (chanOf w) n t (recvRow w) (bit w 49) (bit w 50) false false)
  else s.enter c (syncOf w) false false [] (.recv (peerOf w) (chanOf w) n ((lineOf w + k.offset kb) % 8192) false false)

def execRecv (c : Nat) (s : State) : Out := .next (s.issue c 0x1B (recvOp c))

/-! ## Arrival (R124, R126, R127) -/

/-- The first message of a list that p holds of, and the others. -/
def takeMsg (p : Msg → Bool) : List Msg → Option (Msg × List Msg)
  | [] => none
  | m :: t => if p m then some (m, t) else (takeMsg p t).map (fun r => (r.1, m :: r.2))

/-- The next message from src to dst: messages of one pair arrive in the order sent, whatever their kind (R125). -/
def nextMsg (src dst : Nat) : List Msg → Option (Msg × List Msg) := takeMsg (fun m => m.src == src && m.dst == dst)

def State.setMsgs (s : State) (l : List Msg) : State := { s with net := { s.net with msgs := l } }

/-- A delivery result goes back to the message's sender. -/
def State.answer (s : State) (m : Msg) (status : Nat) : State :=
  s.setMsgs (s.net.msgs ++ [{ m with kind := 2, src := m.dst, dst := m.src, aux := status, orig := (m.kind, m.len, m.aux), payload := [], hurt := [] }])

/-- Why the destination router does not execute a message: 3 for a core without a role, 4 for a crossing that a reset has
closed, 3 for an epoch that does not match (R126, R127); 0 accepted. -/
def State.routerStatus (s : State) (m : Msg) : Nat :=
  let k := s.core m.dst
  if k.ctx.isNone then 3
  else if !k.comm.crossing then 4
  else if m.destEpoch == 0 || m.destEpoch != k.comm.epoch then 3
  else 0

/-- What a refusal is counted and recorded as (R126). -/
def State.countRefusal (s : State) (m : Msg) (status : Nat) : State :=
  if status = 4 then s.crossDrop m.dst
  else
    ((s.bump (0x3000 + m.src) 0x09).bump (0x3000 + m.dst) 0x0A).record (coreSource m.src) 0x0022
      [m.dst + m.destEpoch * 65536, (s.core m.dst).comm.epoch + m.chan * 65536]

/-- The credit that op n posted over a Flue port has been used: no result will answer it. -/
def State.creditUsed (s : State) (m : Msg) (n : Nat) : State :=
  match m.port with
  | some p => s.modPort p (fun q => { q with flight := q.flight.filter (fun x => !(x.kind == 1 && x.src == m.dst && x.op == n)) })
  | none => s

/-- A payload as its receiver gets it: each poisoned flit reads 0xDEAD_DEAD_DEAD_DEAD (Table 12.2). -/
def Msg.delivered (m : Msg) : List Byte := m.payload.zipIdx.map (fun b => if m.hurt.contains (b.2 / 64 + 1) then poisonByte b.2 else b.1)

/-- The payload of a data message reaches the RECV whose post it matches: the oldest of that sender and channel. The RECV
keeps its place among the channel's 8 until it completes (DEDUCED: log 110). A RECV of a poisoned flit completes with status 4. A message that
finds no post is accepted all the same, and its payload dropped (DESIGN CHOICE: log 147). -/
def State.deliverData (s : State) (m : Msg) : State :=
  let k := s.core m.dst
  match k.comm.posts.find? (fun p => p.peer == m.src && p.chan == m.chan) with
  | none => s
  | some p =>
    let s := (s.modComm m.dst (fun x => { x with posts := x.posts.erase p })).creditUsed m p.op
    let st := fun (o : Op) => if m.hurt.isEmpty then o.status else 4
    let s := s.modOp m.dst p.op (fun o =>
      match o.body with
      | .recv a b n l x _ => { o with body := .recv a b n l x true, data := some m.delivered, status := st o }
      | .recvRows a b n t r ac fp x _ =>
        { o with body := .recvRows a b n t r ac fp x true, rows := recvRowWrites t r ac fp m.delivered, status := st o }
      | _ => o)
    s.settle m.dst

/-- A credit reaches the core it is for. -/
def State.deliverCredit (s : State) (m : Msg) : State :=
  (s.modComm m.dst (fun x => { x with credits := x.credits ++ [⟨m.src, m.chan, m.aux, m.line, m.port, !m.hurt.isEmpty⟩] })).settle m.dst

/-- A data message or a credit at its destination router. -/
def State.arrive (s : State) (m : Msg) : State :=
  match s.routerStatus m with
  | 0 => if m.kind = 1 then s.deliverCredit m else (s.deliverData m).answer m 0
  | st => (s.countRefusal m st).answer m st

/-! ## Over the bridges (R303) -/

/-- Flits of a message: its header and its payload (R124). -/
def Msg.flits (m : Msg) : Nat := if m.kind = 0 then 1 + m.len else 1

/-- The next message from src reaches dst if it is of this kind. One dropped at a closed bridge end is answered with status 4, as
at a closed router crossing (DEDUCED: log 111). -/
def State.arriveFirst (s : State) (kind src dst : Nat) : State :=
  match nextMsg src dst s.net.msgs with
  | none => s
  | some (m, rest) =>
    if m.kind ≠ kind then s
    else
      match s.way (dieOf src) (dieOf dst) m.flits (s.pathUnmet (dieOf src) (dieOf dst)) with
      | (.stalls, s) => s
      | (.shut d, s) => ((s.setMsgs rest).dieDrop d).answer m 4
      | (.passed, s) => (s.setMsgs rest).arrive m
      | (.lost, s) => s.setMsgs rest
      | (.twice, s) => s.arrive m

def execDataMessage (src dst : Nat) (s : State) : Out := .next (s.arriveFirst 0 src dst)

def execCredit (src dst : Nat) (s : State) : Out := .next (s.arriveFirst 1 src dst)

/-- The header of the message a delivery result answers. -/
def Msg.original (m : Msg) : Msg := { m with kind := m.orig.1, src := m.dst, dst := m.src, len := m.orig.2.1, aux := m.orig.2.2, orig := (0, 0, 0) }

/-- A refused message's original header enters the 16-entry return queue, or is dropped and counted (R126). The spec names no way
in which an entry leaves; here a core's reset empties the queue and nothing else does (DESIGN CHOICE: log 112). -/
def State.returnHeader (s : State) (c : Nat) (m : Msg) : State :=
  if (s.core c).comm.returns.length < 16 then
    s.modComm c (fun x => { x with returns := x.returns ++ [m.original] })
  else s.bump (0x3000 + c) 0x0B

/-- A delivery result completes its SEND; a refused credit completes the RECV that posted it. A result for a role the core no
longer has is refused, counted and recorded as every message is (R126). -/
def State.deliverResult (s : State) (c q : Nat) (m : Msg) : State :=
  if m.srcEpoch ≠ (s.core c).comm.epoch then s.countRefusal { m with destEpoch := m.srcEpoch } 3
  else
  let s := if m.aux = 3 then s.returnHeader c m else s
  match s.op c q with
  | none => s
  | some o =>
    match o.body with
    | .send _ _ _ _ _ overs => s.completeOp c o (if !m.hurt.isEmpty then 4 else if overs then 2 else m.aux)
    | .recv _ _ _ _ _ _ => if m.aux = 0 then s else
        (s.modComm c (fun x => { x with posts := x.posts.filter (fun p => p.op != q) })).completeOp c o m.aux
    | .recvRows _ _ _ _ _ _ _ _ _ => if m.aux = 0 then s else
        (s.modComm c (fun x => { x with posts := x.posts.filter (fun p => p.op != q) })).completeOp c o m.aux
    | _ => s

/-- The delivery result for op q reaches core c when no earlier message of its sender to c is still on the way. -/
def State.resultArrives (s : State) (c q : Nat) : State :=
  match takeMsg (fun m => m.kind == 2 && m.dst == c && m.op == q) s.net.msgs with
  | none => s
  | some (m, _) =>
    match nextMsg m.src c s.net.msgs with
    | none => s
    | some (x, rest) =>
      if x ≠ m then s
      else
        match s.way (dieOf m.src) (dieOf c) 1 (s.pathUnmet (dieOf m.src) (dieOf c)) with
        | (.stalls, s) => s
        | (.shut d, s) => (s.setMsgs rest).dieDrop d
        | (.passed, s) => (s.setMsgs rest).deliverResult c q m
        | (.lost, s) => s.setMsgs rest
        | (.twice, s) => s.deliverResult c q m

def execDeliveryResult (c op : Nat) (s : State) : Out := .next (s.resultArrives c op)

/-! ## Sync objects (R119-R122) -/

/-- WAITs on an object see every later update of it. -/
def Core.seeSync (k : Core) (obj w : Nat) : Core :=
  { k with seq := { k.seq with ops := k.seq.ops.map (fun o =>
      match o.body with
      | .wait ob t win none => if ob = obj ∧ reached w t then { o with body := .wait ob t win (some w) } else o
      | _ => o) } }

/-- An update is applied at the store, atomically. -/
def State.putSync (s : State) (u : SyncUpd) : State :=
  let w := syncAfter (s.sync u.obj) u
  let s := s.setSync u.obj w
  { s with cores := s.cores.map (fun e => (e.1, e.2.seeSync u.obj w)) }

/-- An update reaches the store; a SIG then leaves flight. A poisoned update poisons the word it was for, and its SIG has status 4 (Table 12.2;
DESIGN CHOICE: log 162). -/
def State.applySync (s : State) (u : SyncUpd) : State :=
  let s := if u.hurt then s.poisonWord (syncAddr u.obj / 8 * 8) else s.putSync u
  match u.sig with
  | some (c, q) => (match s.op c q with | some o => s.completeOp c o (poisonStatus u.hurt) | none => s)
  | none => s

/-- The first update on its way to an object, and the others. -/
def takeSync (obj : Nat) : List SyncUpd → Option (SyncUpd × List SyncUpd)
  | [] => none
  | u :: t => if u.obj = obj then some (u, t) else (takeSync obj t).map (fun r => (r.1, u :: r.2))

/-- The die an update comes from and the die of its store; the hub's own updates start at the hub. -/
def SyncUpd.ends (u : SyncUpd) : Nat × Nat := (if 0x1000 ≤ u.src then dieOf (u.src - 0x1000) else 4, u.obj / 65536)

def State.syncUpdate (s : State) (obj : Nat) : State :=
  match takeSync obj s.net.syncs with
  | none => s
  | some (u, rest) =>
    let gone : State → State := fun s => { s with net := { s.net with syncs := rest } }
    match s.way u.ends.1 u.ends.2 1 (s.storeUnmet u.ends.1 u.ends.2) with
    | (.stalls, s) => s
    | (.shut d, s) => (gone s).dieDrop d
    | (.passed, s) => (gone s).applySync u
    | (.lost, s) => gone s
    | (.twice, s) => s.applySync u

def execSyncUpdate (obj : Nat) (s : State) : Out := .next (s.syncUpdate obj)

/-- A WAIT completes with the word that satisfied it: the stamp latch, then ERR and the fault path (R122, R148). -/
def State.waitDone (s : State) (c : Nat) (o : Op) (obj w : Nat) (win : Option Nat) : State :=
  let k := s.core c
  let s := match win with
    | some i => s.modSeq c (fun q => { q with stamp := (k.wins.getD i ⟨0, 0, 0⟩).stamp })
    | none => s
  let bad := s.poisoned (syncAddr obj) 4 || !o.hurt.isEmpty
  let s := s.finishOp c o (poisonStatus bad)
  let s :=
    if syncErr w && !bad then
      let f : FaultInfo := ⟨syncFault w, o.index, o.bank⟩
      (s.setFault c f).modSeq c (fun q => { q with faultPend := some f })
    else s
  s.settle c

/-- The object of a WAIT check or an LDK read. -/
def Op.asks (o : Op) : Option Nat :=
  match o.body with
  | .wait obj _ _ _ => some obj
  | .ldkSync _ _ obj => some obj
  | _ => none

/-- The store has an answer: to a WAIT once its target has been reached, or where the object is poisoned (Table 12.2); to an LDK at once. -/
def State.hasAnswer (s : State) (o : Op) : Bool :=
  match o.body with
  | .wait obj t _ none => s.poisoned (syncAddr obj) 4 || reached (s.sync obj) t
  | _ => true

/-- The store answers a WAIT check or an LDK read. -/
def State.syncAnswer (s : State) (c : Nat) (o : Op) : State :=
  match o.body with
  | .wait obj _ win hit => s.waitDone c o obj (hit.getD (s.sync obj)) win
  | .ldkSync f d obj =>
    let bad := s.poisoned (syncAddr obj) 4
    let v := if o.hurt.isEmpty then s.sync obj else 0xDEADDEAD
    (s.modSeq c (fun q => q.setReg f d v)).completeOp c o (poisonStatus bad)
  | _ => s

/-- A read across a closed crossing (R303): poison, and status 4. -/
def State.syncShut (s : State) (c : Nat) (o : Op) : State :=
  match o.body with
  | .ldkSync f d _ => (s.modSeq c (fun q => q.setReg f d 0xDEADDEAD)).completeOp c o 4
  | _ => s.completeOp c o 4

/-- The answer to the core's oldest WAIT check or LDK read comes back. One lost at an unmet RATIO crossing leaves the op waiting for the store's
next (DESIGN CHOICE: log 159). -/
def State.syncResponse (s : State) (c : Nat) : State :=
  match (s.core c).seq.ops.find? (fun o => o.asks.isSome) with
  | none => s
  | some o =>
    if !s.hasAnswer o && (s.pathShut (o.asks.getD 0 / 65536) (dieOf c)).isNone then s
    else
    match s.way (o.asks.getD 0 / 65536) (dieOf c) 1 (s.storeUnmet (dieOf c) (o.asks.getD 0 / 65536)) with
    | (.stalls, s) => s
    | (.shut _, s) => s.syncShut c o
    | (.lost, s) => s
    | (_, s) => s.syncAnswer c o

def execSyncResponse (c : Nat) (s : State) : Out := .next (s.syncResponse c)

/-! ## Frame windows (R108, R240) -/

/-- An unconsumed frame is about to be overwritten: counted, recorded, and on a sentinel core counted per channel. -/
def State.frameOverwrite (s : State) (c w a cons : Nat) (members : List Nat) : State :=
  let s := (s.bump (0x3000 + c) 0x0D).record (coreSource c) 0x0027 [w, (a + 1) % 2 ^ 24, cons]
  if isSentinel c then members.foldl (fun s ch => s.bump (0x2400 + ch) 0x11) s else s

/-- A frame is refused for its role or its epoch: counted at the core, and recorded with its channel's source number (R126). -/
def State.refuseFrame (s : State) (c : Nat) (m : FrameMsg) : State :=
  (s.bump (0x3000 + c) 0x0A).record m.src 0x0022 [c + m.epoch * 65536, (s.core c).comm.epoch]

/-- A frame goes into slot n mod slots of its window, and ARRIVED rises. n counts the frames written since plan start (DESIGN CHOICE: log 146). -/
def State.writeFrame (s : State) (c w : Nat) (m : FrameMsg) : State :=
  let k := s.core c
  let f := k.wins.getD w ⟨0, 0, 0⟩
  let slots := field f.word 13 13
  let len := field f.word 26 6
  if k.ctx.isNone then s.refuseFrame c m
  else if !k.comm.crossing then s.crossDrop c
  else if m.epoch = 0 ∨ m.epoch ≠ k.comm.epoch then s.refuseFrame c m
  else if slots = 0 then s
  else
    let a := syncCount (s.sync (winArrived c f))
    let cons := syncCount (s.sync (winConsumed c f))
    let s := if decide (slots ≤ (a + 2 ^ 24 - cons) % 2 ^ 24) then s.frameOverwrite c w a cons m.members else s
    let s := s.abWrite c (field f.word 0 13 + f.next % slots * len) (m.bytes.take (64 * len))
    let s := m.hurt.foldl (fun s h => if h - 1 < len then s.poisonLine c (field f.word 0 13 + f.next % slots * len + (h - 1)) else s) s
    let s := if 64 * len < m.bytes.length then s.bump (0x2480 + m.group) 0x0F else s
    let s := s.modCore c (fun k => { k with wins := k.wins.set w { f with next := f.next + 1, stamp := m.stamp } })
    s.applySync ⟨winArrived c f, false, 1, 0, false, false, 0, none, false⟩

/-- The first frame on its way to a window, and the others. -/
def takeFrame (c w : Nat) : List FrameMsg → Option (FrameMsg × List FrameMsg)
  | [] => none
  | m :: t => if m.core = c ∧ m.window = w then some (m, t) else (takeFrame c w t).map (fun r => (r.1, m :: r.2))

/-- Flits of a frame: a header and its lines. -/
def FrameMsg.flits (m : FrameMsg) : Nat := 1 + ceilDiv m.bytes.length 64

def State.frameArrives (s : State) (c w : Nat) : State :=
  match takeFrame c w s.net.frames with
  | none => s
  | some (m, rest) =>
    let gone : State → State := fun s => { s with net := { s.net with frames := rest } }
    match s.way 4 (dieOf c) m.flits (s.pathUnmet 4 (dieOf c)) with
    | (.stalls, s) => s
    | (.shut d, s) => (gone s).dieDrop d
    | (.passed, s) => (gone s).writeFrame c w m
    | (.lost, s) => gone s
    | (.twice, s) => s.writeFrame c w m

def execFrameWindowWrite (c w : Nat) (s : State) : Out := .next (s.frameArrives c w)

/-! ## Time (R149) -/

/-- The core's WAITT completes at the first tick at which the GTC has reached its target. -/
def State.waittDone (s : State) (c : Nat) : State :=
  match (s.core c).seq.ops.find? (fun o => match o.body with | .waitt t => decide (t ≤ s.time.gtc) | _ => false) with
  | none => s
  | some o => s.completeOp c o 0

def execGtcReachesTarget (c : Nat) (s : State) : Out := .next (s.waittDone c)

end Sys2Proof.Machine
end

