-- ==== Sys2Proof/Machine/Engines.lean ====
section
/-! DEFINITION. The engine control windows and analogue settings as the host reaches them, known-sum tests, drift tracking,
health, stoking, stuck devices and the defect list (R58-R61, R70-R73, R79-R92, R97, R98). -/

namespace Sys2Proof.Machine

/-! ## The core's local space (Table 4.1, R98) -/

/-- The word at `a` after bytes are written from `off`. -/
def mergeWord (old a off : Nat) (data : List Byte) : Nat :=
  fromLE ((List.range 4).map (fun i =>
    if off ≤ a + i ∧ a + i < off + data.length then data.getD (a + i - off) 0 else BitVec.ofNat 8 (old / 256 ^ i)))

/-- The aligned words that n bytes from `off` touch. -/
def touchedWords (off n : Nat) : List Nat :=
  if n = 0 then [] else (List.range ((off + n + 3) / 4 - off / 4)).map (fun i => 4 * (off / 4 + i))

/-- ENG_CTRL (Table 2.7). -/
def Engine.ctrl (g : Engine) : Nat :=
  g.wfmt % 2 + 2 * boolNat g.regs.splitEn + 4 * boolNat g.regs.skipZero + 8 * boolNat g.regs.corrCommit

/-- ENG_STATUS (Table 2.8). A stoke slice is one step, so STOKE reads 0 between steps. OWNED is set for every owner outside a bank under
construction, whether its context runs or not (DESIGN CHOICE: log 142). -/
def State.engStatus (s : State) (c e : Nat) : Nat :=
  let g := s.eng c e
  boolNat (s.engBusy c e) + 4 * boolNat (g.owner.isSome && !g.chrysalis) + 8 * boolNat g.chrysalis + g.regs.readsLast % 16 * 256 +
    Tab.get 16 (s.core c).ana.budget e % 32 * 65536

/-- A correction entry's word (R59). -/
def Corr.word (k : Corr) : Nat := ofSigned 16 k.offset + k.gain % 65536 * 65536
def corrOf (w : Nat) : Corr := ⟨field w 16 16, toSigned 16 w⟩

/-- REPAIR_MAP's word (Table 2.10). -/
def repairWord (m : List Nat) : Nat := fromLE ((List.range 4).map (fun i => BitVec.ofNat 8 (m.getD i 0xFF)))

/-- The fields of REPAIR_MAP after a write: a reserved value leaves its field. -/
def repairFields (old : List Nat) (v : Nat) : List Nat :=
  (List.range 4).map (fun i => let f := field v (8 * i) 8; if 0x80 ≤ f ∧ f ≠ 0xFF then old.getD i 0xFF else f)

/-- A register of an engine's window (Table 2.6). -/
def State.engReg (s : State) (c e o : Nat) : Nat :=
  let g := s.eng c e
  if o = 0x000 then g.ctrl
  else if o = 0x004 then s.engStatus c e
  else if 0x010 ≤ o ∧ o ≤ 0x01C then g.regs.satCol.toNat / 2 ^ (8 * (o - 0x010)) % 2 ^ 32
  else if o = 0x020 then g.regs.satAux.toNat
  else if o = 0x030 then g.regs.splitCnt
  else if o = 0x034 then g.regs.clipCnt
  else if o = 0x040 then g.regs.readCnt % 2 ^ 32
  else if o = 0x044 then g.regs.readCnt / 2 ^ 32 % 2 ^ 32
  else if o = 0x050 then repairWord g.regs.repair
  else if 0x100 ≤ o ∧ o < 0x320 then (g.regs.staged.getD ((o - 0x100) / 4) Corr.ideal).word
  else if 0x400 ≤ o ∧ o < 0x620 then (g.regs.active.getD ((o - 0x400) / 4) Corr.ideal).word
  else 0

/-- A register word of a core's local space. READ_SCALE and the row budgets read as committed (R98). -/
def State.coreReg (s : State) (c off : Nat) : Nat :=
  let a := (s.core c).ana
  if 0xD0000 ≤ off ∧ off < 0x102000 then s.engReg c ((off - 0xD0000) / 0x1000) (off % 0x1000)
  else if off = 0x110000 then a.scale % 65536
  else if 0x110004 ≤ off ∧ off < 0x110038 then
    fromLE ((List.range 4).map (fun i =>
      let e := off - 0x110004 + i
      BitVec.ofNat 8 (if e < 50 then Tab.get 16 a.budget e else 0)))
  else if off = 0x110038 then boolNat a.pending
  else 0

/-- A byte of a core's local space as the host reads it. -/
def State.coreByte (s : State) (c off : Nat) : Byte :=
  if !(s.core c).comm.crossing || (s.pathShut 4 (dieOf c)).isSome then poisonByte off
  else
    let b := if off < 0xD0000 then s.byte (coreBase c + off) else BitVec.ofNat 8 (s.coreReg c (off / 4 * 4) / 256 ^ (off % 4))
    if s.pathUnmet 4 (dieOf c) then Config.unmetByte s.draws (coreBase c + off) b else b

/-- An access of a host reaches a core over its bridge, or is dropped, lost or repeated on the way (R127, R290, R303). A command is an access
that has left the senders a retrain stalls (DESIGN CHOICE: log 160). -/
def State.hostCore (s : State) (c n : Nat) (act : State → State) : State :=
  match s.pathShut 4 (dieOf c) with
  | some d => s.dieDrop d
  | none =>
    if !(s.core c).comm.crossing then s.crossDrop c
    else
      (s.crossed 4 (dieOf c) n).overBridge (s.pathUnmet 4 (dieOf c)) act

/-- CORR_COMMIT is 1 (R60): at once when the engine is not BUSY. -/
def State.setCorrCommit (s : State) (c e : Nat) : State :=
  (s.modEng c e (fun g => { g with regs := { g.regs with corrCommit := true } })).commitIdle c e

/-- CORR_COMMIT written 1. -/
def State.corrCommit (s : State) (c e : Nat) : State := s.hostCore c 2 (fun s => s.setCorrCommit c e)

/-- ANA_COMMIT written 1 (R61). -/
def State.anaCommit (s : State) (c : Nat) : State :=
  s.hostCore c 2 (fun s => s.modCore c (fun k => { k with ana := { k.ana with pending := true } }))

/-- A value for REPAIR_MAP is staged (Table 2.10). -/
def State.stageRepair (s : State) (c e v : Nat) : State :=
  s.modEng c e (fun g => { g with regs := { g.regs with repairStaged := repairFields g.regs.repairStaged v } })

/-- REPAIR_MAP written. -/
def State.repairMapWrite (s : State) (c e v : Nat) : State := s.hostCore c 2 (fun s => s.stageRepair c e v)

/-- The other fields of ENG_CTRL are not writable while the core runs the engine (R98). -/
def State.ctrlLocked (s : State) (c e : Nat) : Bool := (s.core c).state == .running && (s.core c).runsOn e

/-- ENG_CTRL written. SPLIT_EN is read-only on a sentinel engine (R47). -/
def State.ctrlWrite (s : State) (c e v : Nat) : State :=
  let s := if s.ctrlLocked c e then s
    else s.modEng c e (fun g => { g with regs := { g.regs with
      splitEn := if isSentinel c then g.regs.splitEn else bit v 1, skipZero := bit v 2 } })
  if bit v 3 then s.setCorrCommit c e else s

/-- One word of an engine's window after part of it is written; `put` merges into what the register holds. -/
def State.engWrite (s : State) (c e o : Nat) (put : Nat → Nat) : State :=
  if o = 0x000 then s.ctrlWrite c e (put (s.eng c e).ctrl)
  else if 0x010 ≤ o ∧ o ≤ 0x01C then
    let m := BitVec.ofNat 128 (put 0 % 2 ^ 32 * 2 ^ (8 * (o - 0x010)))
    s.modEng c e (fun g => { g with regs := { g.regs with satCol := g.regs.satCol &&& ~~~m } })
  else if o = 0x020 then
    s.modEng c e (fun g => { g with regs := { g.regs with satAux := g.regs.satAux &&& ~~~(BitVec.ofNat 32 (put 0)) } })
  else if o = 0x050 then s.stageRepair c e (put (repairWord (s.eng c e).regs.repairStaged))
  else if 0x100 ≤ o ∧ o < 0x320 then
    let i := (o - 0x100) / 4
    s.modEng c e (fun g => { g with regs := { g.regs with
      staged := g.regs.staged.set i (corrOf (put (g.regs.staged.getD i Corr.ideal).word)) } })
  else s

/-- The analogue settings after bytes are written (Table 2.11): reserved budget values leave their entry. -/
def Ana.write (a : Ana) (off : Nat) (data : List Byte) : Ana :=
  let w := mergeWord a.scaleStaged 0x110000 off data % 65536
  let budgets := (List.range 50).foldl (fun t e =>
    if off ≤ 0x110004 + e ∧ 0x110004 + e < off + data.length then
      let n := (data.getD (0x110004 + e - off) 0).toNat % 32
      if 2 ≤ n ∧ n ≤ 16 then Tab.set t e n else t
    else t) a.budgetStaged
  { a with scaleStaged := w, budgetStaged := budgets, pending := a.pending || bit (mergeWord 0 0x110038 off data) 0 }

/-- The part of a write from `off` that falls in [lo, hi): its offset and bytes. -/
def writePart (off : Nat) (data : List Byte) (lo hi : Nat) : Nat × List Byte :=
  let a := max off lo
  (a, (data.drop (a - off)).take (hi - a))

/-- The memory of a core's local space the host may not write now: the accumulator and the running plan bank (R98). -/
def State.lockedParts (s : State) (c : Nat) : List (Nat × Nat) :=
  let k := s.core c
  if k.state == .running then [(0x80000, 0xC0000), (0xC0000 + 0x8000 * k.seq.bank, 0xC8000 + 0x8000 * k.seq.bank)] else []

/-- A write meets a range. -/
def meetsRange (off n : Nat) (r : Nat × Nat) : Bool := decide (0 < n) && decide (off < r.2) && decide (r.1 < off + n)

/-- A write of a running engine's ENG_CTRL among these bytes. -/
def State.hitsLockedCtrl (s : State) (c off n : Nat) : Bool :=
  (touchedWords off n).any (fun a =>
    decide (0xD0000 ≤ a) && decide (a < 0x102000) && a % 0x1000 == 0 && s.ctrlLocked c ((a - 0xD0000) / 0x1000))

/-- A host write in a core's local space (R98): what the running core locks is discarded, and the write counted in HOST_DISCARD. -/
def State.localWrite (s : State) (c off : Nat) (data : List Byte) : State :=
  let n := data.length
  let locked := s.lockedParts c
  let lost := locked.any (meetsRange off n) || s.hitsLockedCtrl c off n
  let s := [(0, 0x80000), (0x80000, 0xC0000), (0xC0000, 0xC8000), (0xC8000, 0xD0000)].foldl (fun s r =>
    if meetsRange off n r && !locked.contains r then
      let p := writePart off data r.1 r.2
      s.poke (coreBase c + p.1) p.2
    else s) s
  let s := ((touchedWords off n).filter (fun a => decide (0xD0000 ≤ a) && decide (a < 0x102000))).foldl (fun s a =>
    s.engWrite c ((a - 0xD0000) / 0x1000) (a % 0x1000) (fun old => mergeWord old a off data)) s
  let s := if meetsRange off n (0x110000, 0x11003C) then s.modCore c (fun k => { k with ana := k.ana.write off data }) else s
  if lost then s.bump (0x3000 + c) 0x0F else s

/-- A host write to a core's local space: dropped and counted at a closed crossing. -/
def State.coreWrite (s : State) (c off : Nat) (data : List Byte) : State :=
  s.hostCore c (1 + ceilDiv data.length 64) (fun s => s.localWrite c off data)

def execHostLocalWrite (c off : Nat) (data : List Byte) (s : State) : Out := .next (s.coreWrite c off data)
def execCorrCommit (c e : Nat) (s : State) : Out := .next (s.corrCommit c e)
def execCorrCommitEffect (c e : Nat) (s : State) : Out := .next (s.commitIdle c e)
def execAnaCommit (c : Nat) (s : State) : Out := .next (s.anaCommit c)

/-- The core's idle point: no op in flight. -/
def State.anaIdle (s : State) (c : Nat) : State := if (s.core c).seq.ops.isEmpty then s.anaEffect c else s

def execAnaCommitEffect (c : Nat) (s : State) : Out := .next (s.anaIdle c)
def execRepairMapWrite (c e v : Nat) (s : State) : Out := .next (s.repairMapWrite c e v)

/-! ## Devices and columns (R31-R34, R50, R89) -/

/-- The physical column that stands for an array column (R50). -/
def Engine.phys (g : Engine) (col : Nat) : Nat :=
  match (if col < 128 then repairOf g.regs.repair col else none) with
  | some k => 132 + k
  | none => col

/-- The array or reference column a physical column stands for; none for a replaced or unused column. -/
def Engine.standsFor (g : Engine) (col : Nat) : Option Nat := (List.range 132).find? (fun c => g.phys c == col)

def Engine.stuckAt (g : Engine) (row pol col : Nat) : Option Nat := (Tab.find g.stuck (devKey row pol col)).map (·.1)

/-- The pair written for a code, round the stuck devices (R89). -/
def achieve (up down : Option Nat) (w : Int) : Nat :=
  match up, down with
  | none, none => pairOf w
  | some a, none => a % 16 * 16 + (clampInt 0 15 ((a : Int) - w)).toNat
  | none, some a => (clampInt 0 15 (w + (a : Int))).toNat * 16 + a % 16
  | some a, some b => a % 16 * 16 + b % 16

/-- The physical columns that hold the weight an array column belongs to: high then low for W9. -/
def Engine.weightCols (g : Engine) (c : Nat) : List Nat :=
  if g.wfmt = 1 ∧ c < 128 then [g.phys (c / 2 * 2), g.phys (c / 2 * 2 + 1)] else [g.phys c]

/-- The logical code the targets of a row come to, stuck devices at their levels. -/
def Engine.achieved (g : Engine) (row c : Nat) : Int := (g.weightCols c).foldl (fun a p => 16 * a + g.weight row p) 0

/-- The stuck devices of a weight. -/
def Engine.weightStuck (g : Engine) (row c : Nat) : List (Nat × Nat × Int) :=
  g.stuck.filter (fun d => devRow d.1 == row && (g.weightCols c).contains (devCol d.1))

/-- What the weight's code falls short by. -/
def Engine.residual (g : Engine) (row c : Nat) : Int := match g.weightStuck row c with | d :: _ => d.2.2 | [] => 0

/-- The code the image gave. -/
def Engine.code (g : Engine) (row c : Nat) : Int := g.achieved row c + g.residual row c

/-- A pair programmed to a code on a physical column. -/
def Engine.putPair (g : Engine) (row p : Nat) (w : Int) : Engine :=
  g.setPair row p (achieve (g.stuckAt row 0 p) (g.stuckAt row 1 p) w)

/-- A logical code programmed at a row, stuck devices compensated and their residuals set. -/
def Engine.place (g : Engine) (row c : Nat) (w : Int) : Engine :=
  let g := match g.weightCols c with
    | [h, l] =>
      let g := g.putPair row h (w.tdiv 16)
      g.putPair row l (clampInt (-15) 15 (w - 16 * g.weight row h))
    | [p] => g.putPair row p w
    | _ => g
  let cols := g.weightCols c
  let r := w - g.achieved row c
  { g with stuck := g.stuck.map (fun d => if devRow d.1 = row ∧ cols.contains (devCol d.1) then (d.1, d.2.1, r) else d) }

/-- The sum store from the achieved codes (R80). -/
def Engine.sumStore (g : Engine) : Tab Int :=
  (List.range 512).map (fun i =>
    (i, sumInt ((List.range 128).map (fun r => g.standing (i / 128 * 128 + r) (g.phys (i % 128))))))

/-- The achieved digest (R204): pair codes of array and reference columns as their last verify read gave them, row by row. -/
def Engine.achievedDigest (g : Engine) : Nat :=
  crc32c ((List.range 512).flatMap (fun r => (List.range 132).map (fun c => BitVec.ofInt 8 (g.standing r (g.phys c)))))

def Engine.resum (g : Engine) : Engine := { g with sums := g.sumStore, digest := g.achievedDigest }

/-! ## The defect list (R90) -/

/-- An entry as Table 3.5 lays it out. -/
def Defect.word (d : Defect) : Nat :=
  d.core % 65536 + d.eng % 64 * 2 ^ 16 + d.row % 512 * 2 ^ 22 + d.col % 256 * 2 ^ 31 + boolNat d.minus * 2 ^ 39 + d.level % 16 * 2 ^ 40 +
    ofSigned 10 d.residual * 2 ^ 44 + boolNat d.repaired * 2 ^ 54 + boolNat d.sentinel * 2 ^ 55

def Defect.same (d e : Defect) : Bool := d.core == e.core && d.eng == e.eng && d.row == e.row && d.col == e.col && d.minus == e.minus

/-- The device of an entry. -/
def Defect.dev (d : Defect) : Nat := devKey d.row (boolNat d.minus) d.col

/-- An entry added or changed. A defect the full list cannot hold is counted in OVERFLOW once. -/
def State.noteDefect (s : State) (d : Defect) : State :=
  if s.defects.any (d.same ·) then
    if s.defects.contains d then s
    else ({ s with defects := s.defects.map (fun x => if d.same x then d else x) }).bump 0x2810 2
  else if s.defects.length < 131072 then ({ s with defects := s.defects ++ [d] }).bump 0x2810 2
  else if (s.eng d.core d.eng).uncounted.contains d.dev then s
  else (s.modEng d.core d.eng (fun g => { g with uncounted := g.uncounted ++ [d.dev] })).bump 0x2810 5

/-- A physical column that a repair column has replaced. -/
def Engine.replaced (g : Engine) (col : Nat) : Bool := decide (col < 128) && g.phys col != col

/-- Entries for some stuck devices of an engine in service. -/
def State.noteDevices (s : State) (c e : Nat) (ds : List (Nat × Nat × Int)) : State :=
  ds.foldl (fun s d => s.noteDefect ⟨c, e, devRow d.1, devCol d.1, devPol d.1 == 1, d.2.1, d.2.2, (s.eng c e).replaced (devCol d.1), isSentinel c⟩) s

/-- Entries for the stuck devices of an engine that has been programmed as a whole: REPAIRED is cleared (R90). -/
def State.noteProgrammed (s : State) (c e : Nat) (ds : List (Nat × Nat × Int)) : State :=
  ds.foldl (fun s d => s.noteDefect ⟨c, e, devRow d.1, devCol d.1, devPol d.1 == 1, d.2.1, d.2.2, false, isSentinel c⟩) s

/-- The devices of some columns of a row. -/
def devicesOf (row : Nat) (cols : List Nat) : List Nat := cols.flatMap (fun p => [devKey row 0 p, devKey row 1 p])

/-- Stuck devices entered in an engine, their weights placed round them. -/
def Engine.stick (g : Engine) (key level : Nat) : Engine :=
  let row := devRow key
  match g.standsFor (devCol key) with
  | none => { g with stuck := Tab.set g.stuck key (level, 0), misses := Tab.erase g.misses key }
  | some col =>
    let w := g.code row col
    let h := ({ g with stuck := Tab.set g.stuck key (level, 0), misses := Tab.erase g.misses key }).place row col w
    if 128 ≤ col then { h with refMask := h.refMask.set (col - 128) true } else h

/-- Devices of the weight a device belongs to whose target another engine state changes. -/
def Engine.changed (g h : Engine) (key : Nat) : List Nat :=
  match g.standsFor (devCol key) with
  | none => []
  | some col => (devicesOf (devRow key) (g.weightCols col)).filter (fun k => k != key && g.level k != h.level k)


/-! ## Known-sum tests (R80-R83) -/

/-- The sign of quarter q in Walsh pattern v (R81). -/
def walsh (v q : Nat) : Int :=
  match v with
  | 0 => 1
  | 1 => if q % 2 = 0 then 1 else -1
  | 2 => if q < 2 then 1 else -1
  | _ => if q = 0 ∨ q = 3 then 1 else -1

/-- The corrected values of a test read: n = 16, base gains. -/
def testValues (g : Engine) (x : Cond) (scale v draw : Nat) : List Int :=
  let h := { g with regs := { g.regs with active := g.base } }
  (effective h (readColumns h x scale 16 ((List.range 512).map (fun r => (r, 7 * walsh v (r / 128)))) draw)).map (·.r)

/-- A test read that has run to its end joins its round. -/
def TestState.finish (t : TestState) : TestState :=
  match t.running with
  | some (_, ys) => { t with reads := t.reads ++ [ys], running := none }
  | none => t

/-- `period` seconds have passed since a time, or there was none yet. -/
def State.periodOver (s : State) (since : Option Nat) (period : Nat) : Bool :=
  match since with
  | some t => decide (1000000000 * period ≤ s.time.up - t)
  | none => true

/-- A test read begins on an engine with no MVM queued, not in pilot operation (R295); the first of a round once TEST_PERIOD has passed
since the last round began (DESIGN CHOICE: log 126). -/
def State.testRead (s : State) (c e : Nat) : State :=
  let g := s.eng c e
  let t := g.test.finish
  let first := t.reads.isEmpty
  if !g.serving || s.engBusy c e || (s.core c).state == .off || s.onPilot c || 4 ≤ t.reads.length ||
      (first && !s.periodOver t.began (s.cfg 0x2800 4)) then s.setEng c e { g with test := t }
  else
    let ys := testValues g (s.cond c e) (s.core c).ana.scale t.reads.length s.draws
    let t := { t with running := some (s.time.up, ys), began := if first then some s.time.up else t.began }
    (s.setEng c e { g with test := t }).drawN 136

def execTestRead (c e : Nat) (s : State) : Out := .next (s.testRead c e)

/-- S_q,c of a column: the sum store's, or a reference pattern's. -/
def Engine.quarterSum (g : Engine) (q c : Nat) : Int :=
  if c < 128 then Tab.get 0 g.sums (128 * q + c)
  else sumInt (((refPattern (c - 128)).drop (128 * q)).take 128)

/-- e_q,c of a round in 1/921,600 LSB: (Σ σ Y − 28 · S · 2,048 / 57,600) / 16. -/
def roundResidual (g : Engine) (reads : List (List Int)) (q c : Nat) : Int :=
  57600 * sumInt ((List.range 4).map (fun v => walsh v q * (reads.getD v []).getD c 0)) - 28 * 2048 * g.quarterSum q c

/-- Columns whose test rounds count: the round of a column with an uncorrectable error in its sum store is discarded (Table 12.2). -/
def Engine.testCols (g : Engine) : List Nat := (List.range 132).filter (fun c => !g.sumsBad.contains c)

/-- The estimate of a round in Q1.15: Σ Y E / Σ E² with E = 7 · 2,048 · T / 57,600. -/
def roundEstimate (g : Engine) (reads : List (List Int)) : Nat :=
  let ts := (List.range 4).flatMap (fun v => g.testCols.map (fun c =>
    (sumInt ((List.range 4).map (fun q => walsh v q * g.quarterSum q c)), (reads.getD v []).getD c 0)))
  let den := sumInt (ts.map (fun t => t.1 * t.1))
  (clampInt 0 0xFFFF (roundAway (sumInt (ts.map (fun t => t.2 * t.1)) * 57600 * 32768) (14336 * den.toNat))).toNat

/-- RMS residual of a round in 1/256 LSB. -/
def roundRms (rs : List Int) : Nat := isqrt (65536 * (sumInt (rs.map (fun r => r * r))).toNat / (rs.length * 921600 * 921600))

/-- Rounds in a row in which a column failed. -/
def failsAfter (fails : Tab Nat) (cols : List Nat) (bad : Nat → Bool) : Tab Nat :=
  cols.foldl (fun t c => if bad c then Tab.set t c (Tab.get 0 t c + 1) else Tab.erase t c) fails

/-- The results of a round of four reads (R79, R81, R83). A column's round counts towards its repair where a repair slice of the rows
of the quarter that failed has been completed (R92). -/
def Engine.judge (g : Engine) (reads : List (List Int)) (lim : Nat) : Engine :=
  let rs := (List.range 132).map (fun c => (List.range 4).map (fun q => roundResidual g reads q c))
  let badAt := fun c q => decide (921600 * lim < ((rs.getD c []).getD q 0).natAbs)
  let cols := g.testCols
  let bad := fun c => (List.range 4).any (badAt c)
  let fixed := fun q => g.stoke.repaired.any (fun b => b / 2 == q)
  let any := cols.any bad
  let refs := failsAfter g.test.refFails ((List.range 4).map (· + 128)) bad
  { g with
    test := { g.test with
      reads := []
      estimates := g.test.estimates ++ [roundEstimate g reads]
      rms := let l := g.test.rms ++ [roundRms (cols.flatMap (fun c => rs.getD c []))]; l.drop (l.length - 16)
      colFails := failsAfter g.test.colFails (cols.filter (fun c => decide (c < 128))) (fun c => (List.range 4).any (fun q => badAt c q && fixed q))
      refFails := refs }
    refMask := (List.range 4).map (fun k => g.refMask.getD k false || decide (3 ≤ Tab.get 0 refs (128 + k)))
    stoke := { g.stoke with urgent := if any then List.range 16 else g.stoke.urgent, repaired := if any then g.stoke.repaired else [] } }

/-- ENG_STATE as 0x2820:04 codes it. An engine in no map is a spare. -/
def Engine.stateCode (g : Engine) : Nat :=
  match g.state with
  | .inService => if g.owner.isNone && !g.chrysalis then 3 else 0
  | .retireSched => 1
  | .renewSched => 2
  | .spare => 3
  | .dead => 4
  | .belowNow => 5

/-- A new ENG_STATE, recorded (R91). -/
def State.engState (s : State) (c e : Nat) (st : EngState) : State :=
  let g := s.eng c e
  if g.state = st then s
  else
    let g := { g with state := st }
    (s.setEng c e g).record (coreSource c) 0x001C [c + e * 65536 + g.health.score * 2 ^ 22, g.stateCode]

/-- An engine with two masked reference columns is scheduled for retirement (R79). -/
def State.maskRetire (s : State) (c e : Nat) : State :=
  let g := s.eng c e
  if g.twoMasked && (g.state == .inService || g.state == .renewSched) then s.engState c e .retireSched else s

/-- A device of an engine in service declared stuck at a level (R89): its weight is placed round it, and the partner and, for W9, the low
pair are flagged for the pulses that take them there; until then they stand where they stood. The device is entered in the list, and a
reference column of its is masked (R79). -/
def State.stuckDevice (s : State) (c e key level : Nat) : State :=
  let g := s.eng c e
  let h := g.stick key level
  let moved := g.changed h key
  let h := { h with
    misses := moved.foldl (fun t k => Tab.set t k (g.stands k)) h.misses
    stoke := { h.stoke with flagged := h.stoke.flagged.filter (fun k => k != key && !moved.contains k) ++ moved } }
  let listed := match h.standsFor (devCol key) with
    | some col => h.weightStuck (devRow key) col
    | none => [(key, level, 0)]
  ((s.setEng c e h.resum).noteDevices c e listed).maskRetire c e

/-- The round's fourth read completes it. -/
def State.testRound (s : State) (c e : Nat) : State :=
  let g := s.eng c e
  let g := { g with test := g.test.finish }
  if g.test.reads.length < 4 then s.setEng c e g
  else (s.setEng c e (g.judge g.test.reads (s.cfg 0x2800 0x0C))).maskRetire c e

def execTestRoundComplete (c e : Nat) (s : State) : Out := .next (s.testRound c e)

/-- A whole round at once, as programming and verification make one (R204, R208). -/
def State.testNow (s : State) (c e : Nat) : State :=
  let g := s.eng c e
  let scale := (s.core c).ana.scale
  let x := s.cond c e
  let reads := (List.range 4).map (fun v => testValues g x scale v (s.draws + 136 * v))
  let h := g.judge reads (s.cfg 0x2800 0x0C)
  ((s.setEng c e { h with test := { h.test with began := some s.time.up } }).drawN 544).maskRetire c e

/-! ## Drift tracking (R70-R73, R94) -/

/-- The gains the tracker stages. -/
def trackedGains (base : List Corr) (te : Nat) : List Corr :=
  base.map (fun b => { b with gain := if te = 0 then 0xFFFF else min 0xFFFF (roundAway ((b.gain : Int) * 0x8000) te).toNat })

/-- T_e towards the mean of the estimates, by at most 1/512. -/
def trackedTe (te : Nat) (estimates : List Nat) : Nat :=
  let mean := roundAway ((sumNat estimates : Nat) : Int) estimates.length
  (clampInt 0 0xFFFF ((te : Int) + clampInt (-64) 64 (mean - te))).toNat

/-- A compute engine whose T_e is below RENEW_FLOOR is scheduled for renewal (R94). -/
def State.renewCheck (s : State) (c e : Nat) : State :=
  let g := s.eng c e
  if !isSentinel c && g.state == .inService && g.owner.isSome && decide (g.te < s.cfg 0x2800 8) then s.engState c e .renewSched else s

/-- The tracker comes to an engine once TRACK_PERIOD has passed since it last did (DESIGN CHOICE for the first time: log 126). An update
that a sentinel engine's next one finds without its commit is counted as skipped; T_e keeps the value it moved to (DESIGN CHOICE: log 127). -/
def State.trackUpdate (s : State) (c e : Nat) : State :=
  if s.cfg 0x2800 0x0D = 0 ∨ s.paused ∨ !s.periodOver (s.eng c e).trackAt (s.cfg 0x2800 5) then s
  else
    let s := s.modEng c e (fun g => { g with trackAt := some s.time.up })
    let g := s.eng c e
    let s := if g.trackWait then s.bump 0x2801 9 else s
    if g.test.estimates.isEmpty then s.bump 0x2801 9
    else
      let te := trackedTe g.te g.test.estimates
      let g := { g with te := te, test := { g.test with estimates := [] }, regs := { g.regs with staged := trackedGains g.base te }, trackWait := true }
      ((s.setEng c e g).commitIdle c e).renewCheck c e

def execTrackUpdate (c e : Nat) (s : State) : Out := .next (s.trackUpdate c e)

/-- 1 ms has passed without an idle instant: a compute engine commits anyway (R71). -/
def State.trackForced (s : State) (c e : Nat) : State :=
  let g := s.eng c e
  if isSentinel c || !g.trackWait || s.time.up < g.trackAt.getD 0 + 1000000 then s
  else (s.setEng c e { g with trackWait := false, regs := { g.regs with corrCommit := true } }).commitIdle c e

def execTrackerForcedCommit (c e : Nat) (s : State) : Out := .next (s.trackForced c e)

/-- T_e of every engine goes to the hub keep (R73). -/
def State.persistTe (s : State) : State :=
  { s with keep := { s.keep with
    te := s.engines.foldl (fun t e => Tab.set t e.1 e.2.te) s.keep.te
    prevTe := s.keep.te
    teAt := s.time.up } }

/-- An hour has passed since T_e was last persisted. -/
def State.teHour (s : State) : State := if s.time.up < s.keep.teAt + 3600000000000 then s else s.persistTe

def execTePersist (s : State) : Out := .next s.teHour

/-! ## Health (R91) -/

/-- 24 h in ns. -/
def day : Nat := 86400000000000

/-- LOWCONF MVMs, failed reads and reads of the last 24 h. -/
def Health.last (h : Health) (now : Nat) : Nat × Nat × Nat :=
  (h.log.filter (fun x => decide (now - x.1 ≤ day))).foldl (fun a x => (a.1 + x.2.1, a.2.1 + x.2.2.1, a.2.2 + x.2.2.2)) (0, 0, 0)

/-- Failed reads per 10^6 reads. -/
def ppm (fails reads : Nat) : Nat := if reads = 0 then 0 else fails * 1000000 / reads

/-- P_lc, P_cf, P_ts, P_df. -/
def Engine.penalties (g : Engine) (now : Nat) : List Nat :=
  let (low, fails, reads) := g.health.last now
  let rms := g.test.rms
  [min 64 (8 * low),
   min 48 (if reads = 0 then 0 else fails * 1000000 / (16 * reads)),
   min 64 (if rms.isEmpty then 0 else 8 * sumNat rms / (256 * rms.length)),
   min 64 (2 * (g.stuck.filter (fun d => d.2.2 != 0)).length + 16 * ((List.range 4).filter (repairUsed g.regs.repair)).length +
     32 * (g.refMask.filter (· == true)).length + 32 * g.noRepair.length)]

/-- The state a score leads to: it only ever gets worse. -/
def scoreState (st : EngState) (h sched now : Nat) : EngState :=
  match st with
  | .inService => if h < now then .belowNow else if h < sched then .retireSched else .inService
  | .renewSched => if h < now then .belowNow else if h < sched then .retireSched else .renewSched
  | .retireSched => if h < now then .belowNow else .retireSched
  | o => o

def State.healthScore (s : State) (c e : Nat) : State :=
  let g := s.eng c e
  let ps := g.penalties s.time.up
  let h := 255 - sumNat ps
  let st := if g.serving then scoreState g.state h (s.cfg 0x2800 9) (s.cfg 0x2800 0x0A) else g.state
  let log := g.health.log.filter (fun x => decide (s.time.up - x.1 ≤ day))
  (s.setEng c e { g with health := ⟨h, log, fromLE (ps.map (BitVec.ofNat 8)), some s.time.up⟩ }).engState c e st

/-- The score is formed once every TEST_PERIOD. -/
def State.healthDue (s : State) (c e : Nat) : State :=
  if s.periodOver (s.eng c e).health.scored (s.cfg 0x2800 4) then s.healthScore c e else s

def execHealthScore (c e : Nat) (s : State) : Out := .next (s.healthDue c e)

/-! ## Program-and-verify (R85, R86, R89, R204) -/

/-- The code of a device in device mode (R85): 32 codes per level, 480 at level 15, within the converter's range. -/
def deviceCode (g : Engine) (x : Cond) (k draw : Nat) : Int :=
  clampInt (-512) 511 (roundAway (32 * g.conductance x k * 1000000) (1000000 * slotScale x.pilot) + Config.levelError draw)

/-- The level a device sticks at in a programming, if it does: 0, or one of 12 to 15 (Table 3.1). -/
def stickLevel (eng key k : Nat) : Option Nat :=
  match Config.sticks eng key k with
  | 0 => none
  | 1 => some 0
  | n + 2 => some (12 + n % 4)

/-- The code of a device at the verify read after a pulse. -/
def verifyCode (eng key k draw : Nat) : Int :=
  clampInt (-512) 511 (match stickLevel eng key k with
    | some l => 32 * l + Config.levelError draw
    | none => Config.pulsedCode draw)

/-- A code lies within `tol`, in 0.01 % of Gmax, of T_e times a level. -/
def withinTol (te level : Nat) (code : Int) (tol : Nat) : Bool :=
  decide (10000 * (32768 * code - 32 * (te : Int) * level).natAbs ≤ 480 * tol * 32768)

/-- A device reads out of tolerance; at level 0, only above it (R86). -/
def outOfTol (te level : Nat) (code : Int) (tol : Nat) : Bool :=
  if level = 0 then decide ((480 * tol : Int) < 10000 * code) else !withinTol te level code tol

/-- The level a code stands for over T_e. -/
def readLevel (te : Nat) (code : Int) : Nat := (clampInt 0 15 (roundAway (32768 * code) (32 * te))).toNat

/-- A measured level, rounded and clamped (R89). -/
def stuckLevel (code : Int) : Nat := (clampInt 0 15 (roundAway code 32)).toNat

/-- The columns programming and stoking cover: array, reference, repair columns in use (R85, R204). -/
def Engine.stokedCols (g : Engine) : List Nat := List.range 132 ++ ((List.range 4).filter (repairUsed g.regs.repair)).map (· + 132)

/-- All devices of an engine, line by line. -/
def allDevices : List Nat := List.range (512 * 272)

/-- The target level of a device. -/
def ProgJob.level (j : ProgJob) (g : Engine) (k : Nat) : Nat := { g with pairs := j.goal, wfmt := j.wfmt }.level k

/-- Devices of some columns that take part in setting: level above 0, not stuck. -/
def ProgJob.toSet (j : ProgJob) (g : Engine) (devs : List Nat) : List Nat :=
  devs.filter (fun k => decide (0 < j.level g k) && !(Tab.find j.goalStuck k).isSome && !(Tab.find j.stuck k).isSome)

/-- The devices a job programs. -/
def ProgJob.devices (j : ProgJob) (g : Engine) : List Nat :=
  match j.use with
  | .column k _ => allDevices.filter (fun d => devCol d == 132 + k)
  | _ => allDevices.filter (fun d => g.stokedCols.contains (devCol d))

/-- A step with nothing left to do hands over to the next. -/
def ProgJob.nextStep (j : ProgJob) (g : Engine) : ProgJob :=
  if !j.pending.isEmpty then j
  else
    match j.step with
    | 1 => let p := j.toSet g (j.devices g); { j with step := if p.isEmpty then 4 else 2, pending := p }
    | 2 => if j.later.isEmpty then { j with step := 4 } else { j with step := 3, pending := j.later, later := [] }
    | 3 => if j.later.isEmpty then { j with step := 4 } else { j with step := 2, pending := j.later, later := [] }
    | _ => j

/-- The pulse kind a device takes next: 0 RESET, 1 partial SET, 2 anneal. -/
def ProgJob.kind (j : ProgJob) (g : Engine) (k : Nat) : Nat :=
  match j.step with
  | 1 => 0
  | 2 => if j.overs.contains k || j.level g k == 0 then 0 else 1
  | _ => 2

/-- The next pulse group: up to 32 devices of one line that take the same pulse. -/
def ProgJob.group (j : ProgJob) (g : Engine) : List Nat :=
  match j.pending with
  | [] => []
  | k :: _ => (j.pending.filter (fun x => x / 136 == k / 136 && j.kind g x == j.kind g k)).take 32

/-- Current in microamperes and length in ns of a pulse of a kind (Table 7.8). -/
def pulseCurrent (kind : Nat) : Nat := match kind with | 0 => 400 | 1 => 120 | _ => 40
def pulseTime (kind : Nat) : Nat := match kind with | 0 => 60 | 1 => 1000 | _ => 2000

def ProgJob.current (j : ProgJob) (g : Engine) : Nat :=
  match j.group g with
  | [] => 0
  | k :: t => (t.length + 1) * pulseCurrent (j.kind g k)

/-- One device after its pulse and the verify read that follows it. A device of target level 0 that four RESET pulses do not bring to level 0
leaves the job at the level it reads (DESIGN CHOICE: log 144). -/
def ProgJob.afterPulse (j : ProgJob) (g : Engine) (te tol k : Nat) (code : Int) : ProgJob :=
  let n := Tab.get 0 j.pulses k + 1
  let kind := j.kind g k
  let t := j.level g k
  let l := readLevel te code
  let j := { j with pulses := Tab.set j.pulses k n, got := if l = t then Tab.erase j.got k else Tab.set j.got k l }
  let gone := { j with pending := j.pending.erase k, overs := j.overs.erase k }
  let fails := { gone with stuck := Tab.set j.stuck k (stuckLevel code) }
  let ok := withinTol te t code tol
  match j.step with
  | 1 => if withinTol te 0 code tol || decide (4 ≤ n) then gone else j
  | 2 =>
    if kind = 1 && ok then { gone with later := j.later ++ [k] }
    else if t = 0 && ok then gone
    else if 24 ≤ n then fails
    else if kind = 0 then { j with overs := j.overs.erase k }
    else if 32 * (te : Int) * t < 32768 * code then { j with overs := j.overs ++ [k] }
    else j
  | _ => if ok then gone else if 24 ≤ n then fails else { gone with later := j.later ++ [k] }

/-- A pulse group runs, and its verify read follows. -/
def ProgJob.pulse (j : ProgJob) (g : Engine) (eng te tol draw : Nat) (ks : List Nat) : ProgJob :=
  (ks.zipIdx.foldl (fun j k => j.afterPulse g te tol k.1 (verifyCode eng j.key k.1 (draw + k.2))) j).nextStep g

/-- An engine's devices after pulses that ended now: which programming each is of, and the level it stands at. -/
def Engine.pulsed (g : Engine) (key now : Nat) (got : Tab Nat) (ks : List Nat) : Engine :=
  ks.foldl (fun g k => { g with
    progs := Tab.set g.progs k (key, now)
    misses := match Tab.find got k with
      | some l => Tab.set g.misses k l
      | none => Tab.erase g.misses k }) g

/-! ## Stoking (R84-R88) -/

/-- Stoking may run on the engine now. -/
def State.stokable (s : State) (c e : Nat) : Bool :=
  !s.paused && s.stoked c e && !s.engBusy c e && (s.core c).state != .off &&
    (match (s.eng c e).owner with | some (x, b, _) => ((s.ctx x).bank b).state != .draining | none => false)

def Engine.rowDevices (g : Engine) (row : Nat) : List Nat :=
  (List.range 2).flatMap (fun pol => g.stokedCols.map (devKey row pol))

/-- How a block of 32 rows ranks in the survey queue (R88): 1 named by a test flag or asked for by the host, 2 of an engine with a
confidence failure in the last hour, 3 with flags a repair slice has carried over, 4 in its turn. -/
def Engine.blockClass (g : Engine) (now b : Nat) : Nat :=
  if g.stoke.urgent.contains b then 1
  else if g.health.log.any (fun x => decide (0 < x.2.2.1) && decide (now - x.1 ≤ 3600000000000)) then 2
  else if g.stoke.flagged.any (fun k => devRow k / 32 == b && (Tab.find g.stoke.pulses k).isSome) then 3
  else 4

/-- A block may be surveyed now: no block that may be surveyed on its core ranks before it, and in classes 2 and 4 it is its engine's next
block (DESIGN CHOICE: log 128). -/
def State.surveyTurn (s : State) (c e b : Nat) : Bool :=
  let now := s.time.up
  let mine := (s.eng c e).blockClass now b
  (mine == 1 || mine == 3 || b == (s.eng c e).stoke.next) &&
    (List.range 50).all (fun f => !s.stokable c f || (List.range 16).all (fun d => decide (mine ≤ (s.eng c f).blockClass now d)))

/-- The stoking record after a survey of a block that found these devices out of tolerance. -/
def Stoke.after (t : Stoke) (b up gtc : Nat) (found : List Nat) : Stoke :=
  let done := if t.surveyed.contains b then t.surveyed else t.surveyed ++ [b]
  let full := decide (16 ≤ done.length)
  { t with
    flagged := t.flagged ++ found
    urgent := t.urgent.erase b
    overdue := t.overdue.erase b
    surveyed := if full then [] else done
    lastSurvey := if full then gtc else t.lastSurvey
    lastAt := Tab.set t.lastAt b up
    next := if b = t.next then (b + 1) % 16 else t.next }

/-- Devices of a block that a survey flags: those that read out of tolerance, but for the stuck ones and those flagged already. -/
def State.surveyFinds (s : State) (c e b : Nat) : List Nat :=
  let g := s.eng c e
  let x := s.cond c e
  let devs := (List.range 32).flatMap (fun i => g.rowDevices (32 * b + i))
  let out := devs.zipIdx.filter (fun d => outOfTol g.te (g.level d.1) (deviceCode g x d.1 (s.draws + d.2)) (s.cfg 0x2800 2))
  (out.map (·.1)).filter (fun k => !g.stoke.flagged.contains k && !(Tab.find g.stuck k).isSome)

def State.surveySlice (s : State) (c e b : Nat) : State :=
  if !s.stokable c e || 16 ≤ b || !s.surveyTurn c e b then s
  else
    let found := s.surveyFinds c e b
    let n := 64 * (s.eng c e).stokedCols.length
    (s.modEng c e (fun g => { g with stoke := g.stoke.after b s.time.up s.time.gtc found })).drawN n

def execSurveySlice (c e b : Nat) (s : State) : Out := .next (s.surveySlice c e b)

/-- A repair slice so far: time used in ns, draws used, pulses given, devices still flagged, and the job that programs the line in hand. -/
structure Slice where
  time : Nat
  draws : Nat
  given : Nat
  left : List Nat
  job : ProgJob
  deriving DecidableEq, Repr

/-- Pulse groups on the line in hand, each granted as far as `room` allows, while the slice's 12 us last (R86, R87); how many rounds they hold
follows from the times of R204 (DEDUCED: log 136). -/
def Slice.run (g : Engine) (eng tol room : Nat) : Nat → Slice → Slice
  | 0, z => z
  | f + 1, z =>
    match z.job.group g with
    | [] => z
    | k :: t =>
      let kind := z.job.kind g k
      let n := min (t.length + 1) (room / pulseCurrent kind)
      let time := z.time + pulseTime kind + 100
      if n = 0 ∨ 12000 < time then z
      else
        Slice.run g eng tol room f { z with
          time := time, draws := z.draws + n, given := z.given + n, job := z.job.pulse g eng g.te tol z.draws ((k :: t).take n) }

/-- One line of a repair slice: set, then annealed (R204); what does not come to its end stays flagged. -/
def Slice.line (g : Engine) (eng tol room : Nat) (z : Slice) (ks : List Nat) : Slice :=
  let r := Slice.run g eng tol room 76 { z with job := { z.job with step := 2, pending := ks, later := [], overs := [] } }
  { r with left := z.left ++ r.job.pending ++ r.job.later }

/-- A block that was not surveyed within SURVEY_PERIOD of its last survey, or of its engine's programming (R88). -/
def State.surveyOverdue (s : State) (c e b : Nat) : State :=
  let g := s.eng c e
  let last := match Tab.find g.stoke.lastAt b with | some t => t | none => g.prog.2
  if !s.stoked c e || 16 ≤ b || !s.periodOver (some last) (s.cfg 0x2800 3) then s
  else s.modEng c e (fun g => { g with stoke := { g.stoke with
    overdue := if g.stoke.overdue.contains b then g.stoke.overdue else g.stoke.overdue ++ [b] } })

def execSurveyOverdue (c e b : Nat) (s : State) : Out := .next (s.surveyOverdue c e b)

/-! ## What the host schedules (R96) -/

/-- A word that names an engine: core and physical engine present. -/
def State.namesEngine (s : State) (v : Nat) : Bool := s.present (field v 0 16) && decide (field v 16 8 < 50)

def State.retireEngine (s : State) (v : Nat) : State :=
  let c := field v 0 16
  let e := field v 16 8
  if s.namesEngine v && ((s.eng c e).state == .inService || (s.eng c e).state == .renewSched) then s.engState c e .retireSched else s

def State.retireColumn (s : State) (v : Nat) : State :=
  let c := field v 0 16
  let col := field v 24 8
  if s.namesEngine v && !isSentinel c && decide (col < 128) then
    s.modEng c (field v 16 8) (fun g => { g with repairSched := if g.repairSched.contains col then g.repairSched else g.repairSched ++ [col] })
  else s

def State.surveyNow (s : State) (v : Nat) : State :=
  let c := field v 0 16
  if s.namesEngine v && !isSentinel c then
    s.modEng c (field v 16 8) (fun g => { g with stoke := { g.stoke with urgent := List.range 16 } })
  else s

/-! ## Calibration (R280, Table 10.12) -/

/-- The word of a calibration location, by system address: engine base entries, converter trims, hub trims, READ_SCALE
bases. -/
def State.calWord (s : State) (a : Nat) : Nat :=
  if 0x08000000 ≤ a ∧ a < 0x09C84000 then
    let k := (a - 0x08000000) / 0x400
    let o := a % 0x400
    if o < 0x220 then ((s.eng (k / 50) (k % 50)).base.getD (o / 4) Corr.ideal).word
    else if o < 0x264 then Tab.get (Config.converterTrim a % 2 ^ 32) s.trims a
    else 0
  else if 0x0A000000 ≤ a ∧ a < 0x0A010000 then
    (if a < 0x0A0001C0 ∨ (0x0A000200 ≤ a ∧ a < 0x0A000400) then Tab.get 0x40000000 s.trims a else 0)
  else if 0x0A010000 ≤ a ∧ a < 0x0A010920 then Tab.get 0x4000 s.trims a
  else 0

/-- A base entry written takes effect at the engine's next tracker update, or at once when tracking is off. -/
def State.baseWrite (s : State) (c e i v : Nat) : State :=
  let s := s.modEng c e (fun g => { g with base := g.base.set i (corrOf v) })
  if s.cfg 0x2800 0x0D = 0 then
    (s.modEng c e (fun g => { g with regs := { g.regs with staged := trackedGains g.base g.te, corrCommit := true } })).commitIdle c e
  else s

/-- One word of the volatile tables written. -/
def State.calPut (s : State) (a v : Nat) : State :=
  if 0x08000000 ≤ a ∧ a < 0x09C84000 then
    let k := (a - 0x08000000) / 0x400
    let o := a % 0x400
    if o < 0x220 then s.baseWrite (k / 50) (k % 50) (o / 4) v
    else if o < 0x264 then { s with trims := Tab.set s.trims a v }
    else s
  else if a < 0x0A010000 then (if a < 0x0A0001C0 ∨ (0x0A000200 ≤ a ∧ a < 0x0A000400) then { s with trims := Tab.set s.trims a v } else s)
  else
    let s := { s with trims := Tab.set s.trims a (v % 65536) }
    s.modCore ((a - 0x0A010000) / 4) (fun k => { k with ana := { k.ana with scaleStaged := v % 65536, pending := true } })

/-- A calibration range is addressed. -/
def calRange (a : Nat) : Bool := decide (0x08000000 ≤ a) && decide (a < 0x0A010920)

/-- A write to the calibration tables: every word it touches, and one more generation. -/
def State.calBytes (s : State) (a : Nat) (data : List Byte) : State :=
  if data.isEmpty then s
  else
    let s := (touchedWords a data.length).foldl (fun s w => s.calPut w (mergeWord (s.calWord w) w a data)) s
    s.bump 0x2900 1

/-- Cores whose tables a CAL_RESTORE brings back: all, or one. -/
def State.restoreEngines (s : State) (mine : Nat → Bool) : State :=
  let keys := (s.engines.map (·.1)).filter (fun k => mine (k / 50))
  let s := keys.foldl (fun s k => (List.range 136).foldl (fun s i => s.baseWrite (k / 50) (k % 50) i 0x40000000) s) s
  let gone := fun (a : Nat) => decide (0x08000000 ≤ a) && decide (a < 0x09C84000) && mine ((a - 0x08000000) / 0x400 / 50)
  let scaled := (s.cores.map (·.1)).filter mine
  let s := scaled.foldl (fun s c => s.calPut (0x0A010000 + 4 * c) 0x4000) s
  { s with trims := s.trims.filter (fun t => !gone t.1) }

end Sys2Proof.Machine
end

