-- ==== Sys2Proof/Machine/Program.lean ====
section
/-! DEFINITION. Program-and-verify and the damper (R204, R205), whole-engine programming, the weights of single blocks
(R187, R194), column repair (R92). -/

namespace Sys2Proof.Machine

/-! ## Payloads (R187) -/

/-- Bytes of a payload. -/
def payloadLen : Nat := 65536

/-- The code of row r, logical column c in a payload at address a. -/
def State.payloadCode (s : State) (a wfmt r c : Nat) : Int :=
  if wfmt = 0 then toSigned 8 (Mem.num s.mem (a + r * 128 + c) 1) else toSigned 16 (Mem.num s.mem (a + (r * 64 + c) * 2) 2)

/-- Logical columns of a format. -/
def logicalCols (wfmt : Nat) : Nat := if wfmt = 0 then 128 else 64

/-- Every code of a payload is in its format's range. -/
def State.payloadOk (s : State) (a wfmt : Nat) : Bool :=
  let lim := if wfmt = 0 then 15 else 255
  (List.range 512).all (fun r => (List.range (logicalCols wfmt)).all (fun c => decide ((s.payloadCode a wfmt r c).natAbs ≤ lim)))

/-- The payload's CRC32C. -/
def State.payloadCrc (s : State) (a : Nat) : Nat := crc32c (Mem.readBytes s.mem a payloadLen)

/-! ## Jobs (R204) -/

/-- The code a physical column of the image holds at a row: high or low half of a W9 code (R34). -/
def halfCode (wfmt c : Nat) (w : Int) : Int := if wfmt = 0 then w else if c % 2 = 0 then w.tdiv 16 else w.tmod 16

/-- The physical columns of a logical column. -/
def physicalCols (wfmt c : Nat) : List Nat := if wfmt = 0 then [c] else [2 * c, 2 * c + 1]

/-- A code of a row placed in the columns that stand for its logical column, and in the array columns that repair columns stand for. -/
def Engine.target (g : Engine) (row c : Nat) (w : Int) : Engine :=
  let g := g.place row (if g.wfmt = 0 then c else 2 * c) w
  ((physicalCols g.wfmt c).filter g.replaced).foldl (fun g p => g.putPair row p (halfCode g.wfmt p w)) g

/-- The targets of an engine that is programmed with these codes, its known stuck devices with the residuals they then have (R90). -/
def Engine.goalOf (g : Engine) (wfmt : Nat) (code : Nat → Nat → Int) : Engine :=
  let g := { g with wfmt := wfmt, pairs := [], misses := [], stuck := g.stuck.map (fun d => (d.1, d.2.1, 0)) }
  (List.range 512).foldl (fun g r =>
    let g := (List.range (logicalCols wfmt)).foldl (fun g c => g.target r c (code r c)) g
    (List.range 4).foldl (fun g k => g.place r (128 + k) ((refPattern k).getD r 0)) g) g

/-- Whole-engine programming begins: every device is to be reset. -/
def State.startJob (s : State) (c e wfmt : Nat) (code : Nat → Nat → Int) (use : JobUse) : State :=
  let g := s.eng c e
  let t := g.goalOf wfmt code
  let j : ProgJob :=
    { key := s.draws, step := 1, wfmt := wfmt, goal := t.pairs, goalStuck := t.stuck, pending := allDevices, later := [], overs := [],
      pulses := [], stuck := [], got := [], granted := false, use := use }
  (s.setEng c e { g with job := some j }).draw

/-- T_e that a job's targets are scaled by: 1.0 for a whole engine, the engine's own for a repair column (DESIGN CHOICE: log 129). -/
def ProgJob.te (j : ProgJob) (g : Engine) : Nat :=
  match j.use with
  | .column _ _ => g.te
  | _ => 0x8000

/-- The engine as a job will leave it: its targets and, for a repair column, the map that names it. -/
def ProgJob.view (j : ProgJob) (g : Engine) : Engine :=
  let h := { g with pairs := j.goal, wfmt := j.wfmt, stuck := j.goalStuck, misses := [] }
  match j.use with
  | .column k col => { h with regs := { h.regs with repair := h.regs.repair.set k col } }
  | _ => h

/-- The stuck devices of a job are compensated (R89): their weights are placed round them, and the devices this moves are to be
programmed once more, from a RESET on. -/
def ProgJob.compensate (j : ProgJob) (g : Engine) : ProgJob × List Bool :=
  let h := j.stuck.foldl (fun h d => h.stick d.1 d.2) (j.view g)
  let moved := (j.stuck.flatMap (fun d => (j.view g).changed h d.1)).filter (fun k => !(Tab.find h.stuck k).isSome)
  let p := moved.eraseDups
  ({ j with
    step := if p.isEmpty then 4 else 2, goal := h.pairs, goalStuck := h.stuck, pending := p, later := [], overs := p,
    pulses := p.foldl Tab.erase j.pulses, stuck := [] }, h.refMask)

/-! ## The damper (R205) -/

/-- A stoke repair slice waits: it was given no pulse, and its engine still has flagged devices. -/
def State.stokeWaits (s : State) : Bool :=
  s.damper.stokes.any (fun key => s.stoked (key / 50) (key % 50) && !(s.eng (key / 50) (key % 50)).stoke.flagged.isEmpty)

/-- Current all other requesters may together draw while a stoke repair waits, in microamperes. -/
def State.damperLimit (s : State) : Nat :=
  let budget := 1000 * s.cfg 0x2710 1
  if s.stokeWaits then budget - budget * s.cfg 0x2710 2 / 256 else budget

/-- The pulse group an engine asks the damper for, by its current; none where it asks for none. -/
def State.asks (s : State) (key : Nat) : Option Nat :=
  let g := s.eng (key / 50) (key % 50)
  match g.job with
  | some j => if j.granted || (j.group g).isEmpty then none else some (j.current g)
  | none => none

/-- An engine's request could be granted now. -/
def State.fits (s : State) (key : Nat) : Bool :=
  match s.asks key with
  | some i => s.damper.railOk && decide (s.damper.now + i ≤ s.damperLimit)
  | none => false

/-- The lower of a number and another, where there is one. -/
def lowest : List Nat → Option Nat
  | [] => none
  | k :: t => match lowest t with | some l => some (min k l) | none => some k

/-- The request whose turn it is among some: the highest-ranked that has lost 16 arbitrations in a row, or the highest-ranked; cores rank by
source number, engines of a core by number (R128). -/
def turnAmong (losses : Tab Nat) (ready : List Nat) : Option Nat :=
  match lowest (ready.filter (fun k => decide (16 ≤ Tab.get 0 losses k))) with
  | some k => some k
  | none => lowest ready


/-- Current the damper may still grant to stoking, in microamperes. -/
def State.stokeRoom (s : State) : Nat := if s.damper.railOk then 1000 * s.cfg 0x2710 1 - s.damper.now else 0

/-- A repair slice that waits could have a pulse now: its engine may be stoked and a pulse has room. -/
def State.sliceFits (s : State) (key : Nat) : Bool :=
  (s.asks key).isNone && s.stokable (key / 50) (key % 50) && !(s.eng (key / 50) (key % 50)).stoke.flagged.isEmpty &&
    decide (pulseCurrent 1 ≤ s.stokeRoom)

/-- The waiting requests that could be granted now: groups, and repair slices. -/
def State.ready (s : State) : List Nat := (s.damper.waiting.map (·.1)).filter s.fits ++ s.damper.stokes.filter s.sliceFits

/-- The request whose turn it is. -/
def State.damperTurn (s : State) : Option Nat := turnAmong s.damper.losses s.ready

/-- A request waits for budget: a group that would pass the limit, or a repair slice that has no room for one pulse. -/
def State.blocked (s : State) : Bool :=
  (s.stokeWaits && decide (1000 * s.cfg 0x2710 1 < s.damper.now + pulseCurrent 1)) ||
    s.damper.waiting.any (fun w => match s.asks w.1 with | some i => decide (s.damperLimit < s.damper.now + i) | none => false)

/-- AT_BUDGET's time runs while some request waits for budget (Table 7.9). -/
def State.markBudget (s : State) : State :=
  match s.damper.blockedSince with
  | none => if s.blocked then { s with damper := { s.damper with blockedSince := some s.time.up } } else s
  | some t =>
    if s.blocked then s
    else { s with damper := { s.damper with blockedSince := none, atBudget := s.damper.atBudget + (s.time.up - t) } }

/-- AT_BUDGET in us; past its maximum the spec is silent. -/
def State.atBudgetNow (s : State) : Nat :=
  let v := (s.damper.atBudget + (match s.damper.blockedSince with | some t => s.time.up - t | none => 0)) / 1000
  if v < 2 ^ 64 then v else Config.counterOverflow (odKey 0x2710 6) v % 2 ^ 64

/-- A request has won against some others: those have lost one more. An age-override win is counted. -/
def State.damperWon (s : State) (key : Nat) (ready : List Nat) : State :=
  let s := if lowest ready = some key then s else s.bump (0x3000 + key / 50) 0x0E
  let losses := ready.foldl (fun t k => if k = key then Tab.erase t k else Tab.set t k (Tab.get 0 t k + 1)) s.damper.losses
  { s with damper := { s.damper with losses := losses } }

/-- An engine's next pulse group is asked of the damper, and granted when it is its turn; else it waits. -/
def State.damperGrant (s : State) (c e : Nat) : State :=
  let g := s.eng c e
  let key := engKey c e
  match g.job, s.asks key with
  | some j, some i =>
    if s.paused then s
    else
      let s := if (Tab.find s.damper.waiting key).isSome then s
        else { s with damper := { s.damper with waiting := Tab.set s.damper.waiting key s.time.up } }
      if s.damperTurn ≠ some key then s.markBudget
      else
        let s := (s.damperWon key s.ready).bumpBy 0x2710 5 (j.group g).length
        let s := s.setEng c e { g with job := some { j with granted := true } }
        ({ s with damper := { s.damper with now := s.damper.now + i, granted := Tab.set s.damper.granted key i,
                                            waiting := Tab.erase s.damper.waiting key } }).markBudget
  | _, _ => s

def execDamperGrant (c e : Nat) (s : State) : Out := .next (s.damperGrant c e)

/-- A pulse group has ended: its current is free again. -/
def State.damperFree (s : State) (key : Nat) : State :=
  ({ s with damper := { s.damper with now := s.damper.now - Tab.get 0 s.damper.granted key, granted := Tab.erase s.damper.granted key } }).markBudget

/-- A granted pulse group runs, and its verify read follows; on an engine that serves, once no MVM holds it (R24). -/
def State.pulseGroup (s : State) (c e : Nat) : State :=
  let g := s.eng c e
  match g.job with
  | none => s
  | some j =>
    if !j.granted || s.engBusy c e then s
    else
      let ks := j.group g
      let j' := j.pulse g (engKey c e) (j.te g) (s.cfg 0x2710 3) s.draws ks
      let s := s.setEng c e { g with job := some { j' with granted := false } }
      (s.drawN ks.length).damperFree (engKey c e)

def execPulseGroup (c e : Nat) (s : State) : Out := .next (s.pulseGroup c e)

/-! ## Repair slices (R25, R86, R87) -/

/-- The slice over the flagged devices of a block: a verify read of each line unflags what is within STOKE_TOL, then line by line. Lines whose
verify read would not end within the slice's 12 us keep their flags (R25). -/
def State.sliceOf (s : State) (c e room : Nat) (flagged : List Nat) : Slice :=
  let g := s.eng c e
  let x := s.cond c e
  let seen := (flagged.map (· / 136)).eraseDups.take 120
  let out := (flagged.zipIdx.filter (fun d => seen.contains (d.1 / 136) &&
    outOfTol g.te (g.level d.1) (deviceCode g x d.1 (s.draws + 1 + d.2)) (s.cfg 0x2800 2))).map (·.1)
  let lines := (out.map (· / 136)).eraseDups
  let j : ProgJob :=
    { key := s.draws, step := 2, wfmt := g.wfmt, goal := g.pairs, goalStuck := g.stuck, pending := [], later := [], overs := [],
      pulses := g.stoke.pulses, stuck := [], got := [], granted := false, use := .requalify }
  let z : Slice := ⟨100 * seen.length, s.draws + 1 + flagged.length, 0, flagged.filter (fun k => !seen.contains (k / 136)), j⟩
  lines.foldl (fun z l => z.line g (engKey c e) (s.cfg 0x2710 3) room (out.filter (fun k => k / 136 == l))) z

/-- What a repair slice may draw: what the damper has free, where it is its turn among the requests that could be granted; else nothing. -/
def State.sliceRoom (s : State) (c e : Nat) : Nat :=
  let key := engKey c e
  if turnAmong s.damper.losses (key :: s.ready.filter (· != key)) = some key then s.stokeRoom else 0

/-- The damper after a repair slice that was given some pulses, or none and has devices left: it has won or lost an arbitration, and it waits
where it was given none. -/
def State.sliceAsked (s : State) (c e given : Nat) (done : Bool) : State :=
  let key := engKey c e
  let rest := s.damper.stokes.filter (· != key)
  let s := if given = 0 then s else s.damperWon key (key :: s.ready.filter (· != key))
  let lost := given == 0 && !done
  ({ s with damper := { s.damper with
      stokes := if lost then rest ++ [key] else rest
      losses := if lost then Tab.set s.damper.losses key (Tab.get 0 s.damper.losses key + 1) else s.damper.losses } }).markBudget

/-- A repair slice (R86, R87): its pulses are granted from what the damper has free in its turn, and it may end having programmed none. -/
def State.repairSlice (s : State) (c e b : Nat) : State :=
  if !s.stokable c e || 8 ≤ b then s
  else
    let g := s.eng c e
    let mine := fun (k : Nat) => devRow k / 64 == b
    let flagged := g.stoke.flagged.filter mine
    let z := s.sliceOf c e (s.sliceRoom c e) flagged
    let hit := flagged.filter (fun k => Tab.get 0 z.job.pulses k != Tab.get 0 g.stoke.pulses k)
    let fixed := hit.filter (fun k => !z.left.contains k && !(Tab.find z.job.stuck k).isSome)
    let pulses := flagged.foldl (fun t k => if z.left.contains k then Tab.set t k (Tab.get 0 z.job.pulses k) else Tab.erase t k) g.stoke.pulses
    let done := z.left.isEmpty
    let st := { g.stoke with
      flagged := g.stoke.flagged.filter (fun k => !mine k) ++ z.left
      pulses := pulses
      repaired := if done && !g.stoke.repaired.contains b then g.stoke.repaired ++ [b] else g.stoke.repaired }
    let h := { (g.pulsed z.job.key s.time.up z.job.got hit) with stoke := st }
    let s := (s.setEng c e (if hit.isEmpty then h else h.resum)).drawN (z.draws - s.draws)
    let s := s.sliceAsked c e z.given done
    let s := (s.bumpBy 0x2710 5 z.given).bumpBy 0x2801 7 fixed.length
    z.job.stuck.foldl (fun s d => s.stuckDevice c e d.1 d.2) s

def execRepairSlice (c e b : Nat) (s : State) : Out := .next (s.repairSlice c e b)

/-! ## Closing (R204 step 4) -/

/-- The correction tables follow a T_e that programming or verification has set. -/
def Engine.retrack (g : Engine) : Engine :=
  let t := trackedGains g.base g.te
  { g with regs := { g.regs with staged := t, active := t } }

/-- The levels read back that differ from their targets, but for stuck devices. -/
def ProgJob.missed (j : ProgJob) : Tab Nat := j.got.filter (fun d => !(Tab.find j.goalStuck d.1).isSome)

/-- No column of an engine waits for repair any more (R95). -/
def State.endRepairs (s : State) (c e : Nat) : State :=
  { s with svc := { s.svc with retireWait := s.svc.retireWait.filter (fun w => w.1 != c || w.2.1 != e || w.2.2 % 4 != 0) } }

/-- The engine holds what its job programmed: sum store and digest written from the codes read back, T_e 1.0, one test round made. -/
def State.closeJob (s : State) (c e : Nat) (j : ProgJob) : State :=
  let g := s.eng c e
  let g := { g with
    wfmt := j.wfmt, pairs := j.goal, stuck := j.goalStuck, misses := j.missed, prog := (j.key, s.time.up), progs := [], te := 0x8000,
    sumsBad := [], unverified := false, job := none, test := TestState.reset, stoke := Stoke.reset, repairSched := [], noRepair := [] }
  (((s.setEng c e g.retrack.resum).endRepairs c e).noteProgrammed c e j.goalStuck).testNow c e

/-! ## The staging slots (R190) -/

/-- The staging slots pass to an installation. -/
def State.beginStage (s : State) (x : Nat) : State :=
  let k := s.ctx x
  let b := if k.cmd = 2 then 1 - k.imago else 0
  let src := (k.bank b).source
  let s := { s with stage := { Stage.reset with install := some x, bank := b, source := src, isInstall := k.cmd == 2,
                                                waiting := s.stage.waiting.erase x, slots := s.cfg 0x2700 0x0E } }
  if src = 0 then s.startFetch (k.bank b).link else s

/-- The slots are free: the next waiting installation takes them. -/
def State.freeStage (s : State) : State :=
  let s := { s with stage := { Stage.reset with waiting := s.stage.waiting, slots := s.cfg 0x2700 0x0E, tail := s.stage.tail, head := s.stage.head },
                    fetch := { s.fetch with state := if s.fetch.state = 4 then 4 else 0, out := [], opening := none } }
  match s.stage.waiting with
  | x :: _ => s.beginStage x
  | [] =>
    match s.svc.rereads.find? (fun r => let k := (s.ctx r.1).bank r.2; k.state == .imago || k.state == .ready) with
    | some (x, b) => s.readPlans x b
    | none => s

/-- Staging is free for a single block. -/
def State.stageFree (s : State) : Bool := s.stage.install.isNone && !s.stage.firmware && s.stage.block.isNone

/-! ## The weights of one block (R194) -/

/-- The directory index of the block that an engine holds in a bank. -/
def Bank.indexOf (b : Bank) (c e : Nat) : Option Nat := (List.range b.blocks.length).find? (fun i =>
  match b.blocks[i]? with
  | some k => k.core == c && k.eng == e
  | none => false)

/-- A block is asked of its source: an NVMe read over a new association, by the fetch objects of its installation, or BLOCK_WANT. -/
def State.wantBlock (s : State) (x bank idx : Nat) : State :=
  if !s.stageFree then s
  else
    let s := { s with stage := { s.stage with block := some ⟨x, bank, idx, 0, false, none⟩ } }
    if ((s.ctx x).bank bank).source = 1 then
      { s with stage := { s.stage with want := idx % 2 ^ 32 + x * 2 ^ 32 + bank * 2 ^ 38 + 2 ^ 63 } }
    else s.startFetch ((s.ctx x).bank bank).link

/-- The block is in staging slot 0 and checked, and no engine is being programmed from it. -/
def State.blockHere (s : State) (x bank idx : Nat) : Bool :=
  match s.stage.block with
  | some b => b.ctx == x && b.bank == bank && b.idx == idx && b.ready && b.user.isNone
  | none => false

/-- The single-block transfer ends, and what waited for the slots goes on. -/
def State.dropBlock (s : State) : State :=
  if s.stage.block.isSome then ({ s with stage := { s.stage with block := none, want := 0 } }).freeStage else s

/-- The action that a block was asked for goes on without it: a transfer that no engine uses ends. -/
def State.endRequest (s : State) (x bank idx : Nat) : State :=
  match s.stage.block with
  | some b => if b.ctx = x ∧ b.bank = bank ∧ b.idx = idx ∧ b.user.isNone then s.dropBlock else s
  | none => s

/-- An engine is programmed from the block in slot 0: the slot is held until it is verified. -/
def State.useBlock (s : State) (c e : Nat) : State :=
  { s with stage := { s.stage with block := s.stage.block.map (fun b => { b with user := some (engKey c e) }) } }

/-- The engine's programming from slot 0 has ended. -/
def State.doneBlock (s : State) (c e : Nat) : State :=
  match s.stage.block with
  | some b => if b.user = some (engKey c e) then s.dropBlock else s
  | none => s

/-- The block in slot 0 is complete: it is checked against the directory. -/
def State.checkBlock (s : State) : State :=
  match s.stage.block with
  | none => s
  | some b =>
    match ((s.ctx b.ctx).bank b.bank).blocks[b.idx]? with
    | none => s.dropBlock
    | some k =>
      if s.payloadCrc 0 = k.crc && s.payloadOk 0 k.wfmt then { s with stage := { s.stage with block := some { b with ready := true }, want := 0 } }
      else s.dropBlock

/-- An action waits (R95, R320): counted and recorded once. Column repairs of an engine are told apart by their column. `why` is 0 weights not reachable, 1 no spare. -/
def State.waitAction (s : State) (c e kind why : Nat) : State :=
  if s.svc.retireWait.contains (c, e, kind) then s
  else ({ s with svc := { s.svc with retireWait := s.svc.retireWait ++ [(c, e, kind)] } }).record (coreSource c) 0x001B
    [c + e * 65536 + kind % 4 * 2 ^ 22 + why * 2 ^ 24]

def State.endWait (s : State) (c e kind : Nat) : State :=
  { s with svc := { s.svc with retireWait := s.svc.retireWait.erase (c, e, kind) } }

/-- A retirement (1) or renewal (2) waits, in place of the other where the engine's state has changed (R95). -/
def State.waitExchange (s : State) (c e kind why : Nat) : State := (s.endWait c e (3 - kind)).waitAction c e kind why

/-- Neither retirement nor renewal of an engine waits. -/
def State.endExchange (s : State) (c e : Nat) : State := (s.endWait c e 1).endWait c e 2

/-- Nothing waits for an engine that leaves its bank (R95). -/
def State.endWaits (s : State) (c e : Nat) : State :=
  { s with svc := { s.svc with retireWait := s.svc.retireWait.filter (fun w => w.1 != c || w.2.1 != e || w.2.2 == 3) } }

/-! ## Column repair (R92) -/

/-- A column is due for repair. -/
def State.columnDue (s : State) (g : Engine) (col : Nat) : Bool :=
  let sum := sumNat ((g.stuck.filter (fun d => devCol d.1 == col)).map (fun d => d.2.2.natAbs))
  let lim := s.cfg 0x2800 0x0B * (if g.wfmt = 1 then 16 else 1)
  decide (lim < sum) || decide (3 ≤ Tab.get 0 g.test.colFails col) || g.repairSched.contains col

/-- The programming of a repair column begins: its devices are to be reset and then set to the column's codes, pulse group by pulse
group as the damper grants them. -/
def State.startColumn (s : State) (c e k col : Nat) (code : Nat → Int) : State :=
  let g := s.eng c e
  let put := (List.range 512).foldl (fun h r => h.putPair r (132 + k) (halfCode g.wfmt col (code r))) g
  let j : ProgJob :=
    { key := s.draws, step := 1, wfmt := g.wfmt, goal := put.pairs, goalStuck := put.stuck,
      pending := allDevices.filter (fun d => devCol d == 132 + k && !(Tab.find g.stuck d).isSome), later := [], overs := [], pulses := [],
      stuck := [], got := [], granted := false, use := .column k col }
  (s.setEng c e { g with job := some j }).draw

/-- An engine takes over the pairs of the devices that a job has programmed. -/
def Engine.takePairs (g : Engine) (j : ProgJob) : Engine :=
  let h := { g with pairs := j.goal }
  (j.pulses.map (fun d => (devRow d.1, devCol d.1))).eraseDups.foldl (fun g p => g.setPair p.1 p.2 (h.pair p.1 p.2)) g

/-- The repair takes the column over (R92): map written and committed, entries marked, sums and digest recomputed with it. -/
def State.closeColumn (s : State) (c e k col : Nat) (j : ProgJob) : State :=
  let g := s.eng c e
  let g := (g.takePairs j).pulsed j.key s.time.up j.missed (j.pulses.map (·.1))
  let g := { g with
    job := none
    stuck := j.goalStuck.foldl (fun t d => Tab.set t d.1 d.2) g.stuck
    regs := { g.regs with repairStaged := g.regs.repairStaged.set k col, corrCommit := true }
    repairSched := g.repairSched.erase col
    noRepair := g.noRepair.erase col
    test := { g.test with colFails := Tab.erase g.test.colFails col } }
  let s := (s.setEng c e g).commitIdle c e
  let s := (s.defects.filter (fun d => d.core == c && d.eng == e && d.col == col)).foldl (fun s d => s.noteDefect { d with repaired := true }) s
  let h := { (s.eng c e) with regs := { (s.eng c e).regs with repair := (s.eng c e).regs.repairStaged } }
  let s := s.modEng c e (fun g => { g with sums := h.sumStore, sumsBad := g.sumsBad.erase col, digest := h.achievedDigest })
  let s := s.noteDevices c e (h.stuck.filter (fun d => devCol d.1 == 132 + k))
  s.record (coreSource c) 0x0018 [c + e * 65536 + col * 2 ^ 22 + k * 2 ^ 29]

/-- The lowest free repair column: one whose fields name no column (R50). -/
def EngRegs.freeRepair (r : EngRegs) : Option Nat :=
  (List.range 4).find? (fun k => !repairUsed r.repair k && !repairUsed r.repairStaged k)

/-- A column that is due, or that waits for its weights since it was due, is repaired (R92, R95). -/
def State.columnRepair (s : State) (c e col : Nat) : State :=
  let g := s.eng c e
  if s.paused || isSentinel c || !g.serving || g.job.isSome || 128 ≤ col || g.phys col != col || !(s.columnDue g col || s.svc.retireWait.contains (c, e, 4 * col)) then s
  else
    match g.regs.freeRepair, g.owner with
    | none, _ => (s.setEng c e { g with noRepair := if g.noRepair.contains col then g.noRepair else g.noRepair ++ [col],
                                        repairSched := g.repairSched.erase col }).endWait c e (4 * col)
    | _, none => s
    | some k, some (x, bank, _) =>
      match ((s.ctx x).bank bank).indexOf c e with
      | none => s
      | some idx =>
        if s.blockHere x bank idx then
          let w := g.wfmt
          let code := fun r => s.payloadCode 0 w r (if w = 0 then col else col / 2)
          ((s.startColumn c e k col code).useBlock c e).endWait c e (4 * col)
        else (s.wantBlock x bank idx).waitAction c e (4 * col) 0

def execColumnRepair (c e col : Nat) (s : State) : Out := .next (s.columnRepair c e col)

end Sys2Proof.Machine
end

