-- ==== Sys2Proof/Machine/Images.lean ====
section
/-! DEFINITION. The SDWI image in the staging ring: its header, records, directory, plans (R131-R134, R185-R189, R194), and
the placement of a load (R168-R173, R277). -/

namespace Sys2Proof.Machine

/-! ## The ring (R189, R193) -/

/-- The staging address of image byte b. -/
def Stage.addr (t : Stage) (b : Nat) : Nat := b % (t.slots * 65536)

def State.imgBytes (s : State) (off n : Nat) : List Byte := (List.range n).map (fun i => Mem.read s.mem (s.stage.addr (off + i)))
def State.imgNum (s : State) (off n : Nat) : Nat := fromLE (s.imgBytes off n)

/-! ## Results (Table 7.7) -/

def resDone : Nat := 0
def resChecksum : Nat := 1
def resVersion : Nat := 2
def resFormat : Nat := 3
def resCapacity : Nat := 5
def resGeometry : Nat := 6
def resPlacement : Nat := 7
def resFetch : Nat := 8
def resAborted : Nat := 9
def resBusy : Nat := 10
def resState : Nat := 11
def resInterrupted : Nat := 12
def resLate : Nat := 13
def resProgress : Nat := 14

/-- CMD_STATUS (Table 7.9). -/
def State.setStatus (s : State) (res x cmd : Nat) : State :=
  let s := { s with cmdStatus := res + x * 256 + cmd * 65536 }
  if res = resProgress then s else s.msix 0

/-! ## Header, records, directory (Tables 7.1 to 7.3) -/

/-- The fields of the header the installation goes on with. -/
structure ImgHeader where
  sentinel : Bool
  id : Nat
  groups : Nat
  lcores : Nat
  blocks : Nat
  coreOff : Nat
  dirOff : Nat
  planOff : Nat
  payloadOff : Nat
  totalLen : Nat
  metaCrc : Nat
  deriving DecidableEq, Repr

def State.imgHeader (s : State) : ImgHeader :=
  { sentinel := bit (s.imgNum 0x006 2) 0, id := s.imgNum 0x008 8, groups := s.imgNum 0x01B 1, lcores := s.imgNum 0x020 2,
    blocks := s.imgNum 0x024 4, coreOff := s.imgNum 0x028 8, dirOff := s.imgNum 0x030 8, planOff := s.imgNum 0x038 8,
    payloadOff := s.imgNum 0x040 8, totalLen := s.imgNum 0x048 8, metaCrc := s.imgNum 0x078 4 }

/-- The end of the three sections that must be staged first. -/
def ImgHeader.metaEnd (h : ImgHeader) : Nat := max 128 (max (h.coreOff + 64 * h.lcores) (h.dirOff + 16 * h.blocks))

/-! ## The Reads of an association (R191, R192) -/

def NvmeOut.isRead (o : NvmeOut) : Bool := match o.cmd with | .read _ _ _ => true | _ => false

/-- Bytes the fetch wants: the header, then the sections that must be staged first, then the image to its end or, when only the plan
section is read, to its end; or one payload. -/
def State.fetchWanted (s : State) : Nat :=
  let t := s.stage
  if t.block.isSome then payloadLen
  else if t.staged then (if t.replan then t.payloadOff else t.totalLen)
  else if t.bytes < 128 then 128
  else min s.imgHeader.metaEnd 0x200000

/-- The first byte no Read outstanding asks for. -/
def State.fetchAt (s : State) : Nat :=
  s.fetch.out.foldl (fun a o => match o.cmd with | .read p _ n => max a (p + n) | _ => a)
    (match s.stage.block with | some b => b.bytes | none => s.stage.bytes)

/-- The LBA of a byte: of the image, from FETCH_START_LBA on, or of the wanted payload. -/
def State.fetchLba (s : State) (p : Nat) : Nat :=
  let base := match s.stage.block with
    | some b =>
      let k := (s.ctx b.ctx).bank b.bank
      k.payloadOff + (match k.blocks[b.idx]? with | some n => n.payload | none => 0) * payloadLen
    | none => 0
  s.fetch.set.startLba + (base + p) / s.fetch.lbaSize

/-- Bytes the next Read asks for: at most 128 KiB and what MDTS allows, whole LBAs, within the released slots. -/
def State.fetchLen (s : State) (p : Nat) : Nat :=
  let lba := s.fetch.lbaSize
  let room := if s.stage.block.isSome then payloadLen - p else s.stage.head + s.stage.slots * 65536 - p
  min s.fetch.maxRead (min (ceilDiv (s.fetchWanted - p) lba * lba) (room / lba * lba))

/-- Reads outstanding on an I/O queue. -/
def Fetch.onQueue (f : Fetch) (q : Nat) : Nat := (f.out.filter (fun o => o.isRead && !o.done && o.queue == q)).length

/-- The I/O queue the next Read goes to: the queues in turn, those whose entries are taken left out. -/
def Fetch.freeQueue (f : Fetch) : Option Nat :=
  ((List.range f.set.queues).map (fun i => 1 + (f.nextCid + i) % f.set.queues)).find? (fun q => decide (f.onQueue q < f.set.depth - 1))

/-- Reads go out while bytes are wanted, slots are free and the I/O queues have entries, one queue after the other. -/
def State.fetchFill : Nat → State → State
  | 0, s => s
  | n + 1, s =>
    let f := s.fetch
    let p := s.fetchAt
    let len := s.fetchLen p
    if f.state ≠ 2 ∨ s.fetchWanted ≤ p ∨ len = 0 then s
    else
      match f.freeQueue with
      | none => s
      | some q => State.fetchFill n { s with fetch := f.send s.time.up q 0 (.read p (s.fetchLba p) len) }

/-- Every Read that may go out now. -/
def State.fetchMore (s : State) : State := s.fetchFill 124

/-! ## Checks (Tables 7.1 to 7.3) -/

/-- Checks of the header: version, checksum, geometry, format (R185, R188, R189). -/
def State.headerCheck (s : State) : Nat :=
  let h := s.imgHeader
  if s.imgNum 0 4 ≠ 0x49574453 ∨ s.imgNum 4 2 ≠ 1 ∨ s.imgNum 0x010 2 ≠ 1 then resVersion
  else if crc32c (s.imgBytes 0 0x07C) ≠ s.imgNum 0x07C 4 then resChecksum
  else if s.imgNum 0x012 2 ≠ 512 ∨ s.imgNum 0x014 2 ≠ 128 ∨ s.imgNum 0x016 2 ≠ 128 ∨ s.imgNum 0x018 2 ≠ 64 ∨ s.imgNum 0x01A 1 ≠ 16 ∨
      s.imgNum 0x01C 2 ≠ 100 ∨ s.imgNum 0x01E 2 ≠ 240 then resGeometry
  else if h.id = 0 ∨ h.lcores = 0 ∨ (if h.sentinel then 8 else 544) < h.lcores ∨ h.groups = 0 ∨ (if h.sentinel then 1 else 4) < h.groups ∨
      h.coreOff < 128 ∨ h.dirOff < h.coreOff + 64 * h.lcores ∨ h.planOff < h.dirOff + 16 * h.blocks ∨ h.payloadOff < h.planOff ∨
      h.payloadOff % 65536 ≠ 0 ∨ h.totalLen < h.payloadOff ∨ 0x200000 < h.metaEnd then resFormat
  else 0

/-- Logical-core record i. -/
def State.imgLcore (s : State) (h : ImgHeader) (i : Nat) : Lcore :=
  let n := fun o k => s.imgNum (h.coreOff + 64 * i + o) k
  { group := n 0 1, prefX := n 1 1, prefY := n 2 1, firstBlock := n 4 4, engines := n 8 1, peers := n 9 1, dieSync := n 0x0A 2, hubSync := n 0x0C 2,
    preloadLine := n 0x0E 2 % 8192, planRel := n 0x10 4, planLen := n 0x14 4, peerRel := n 0x18 4, preloadRel := n 0x1C 4, preloadLen := n 0x20 4 }

/-- Directory entry i, not yet bound. -/
def State.imgBlock (s : State) (h : ImgHeader) (i : Nat) : Block :=
  let a := s.imgNum (h.dirOff + 16 * i) 4
  let crc := s.imgNum (h.dirOff + 16 * i + 4) 4
  let pay := s.imgNum (h.dirOff + 16 * i + 8) 4
  { lcore := field a 0 16, leng := field a 16 6, wfmt := field a 22 1, keep := bit a 23, n := field a 24 5, crc := crc, payload := pay,
    core := 0xFFFF, eng := 0, started := false, verified := false, again := false }

/-- One record agrees with its part of the directory and stays in range. -/
def lcoreOk (h : ImgHeader) (blocks : List Block) (k : Lcore) (i first : Nat) : Bool :=
  decide (k.group < h.groups) && decide (k.prefX < (if h.sentinel then 8 else 12)) && (h.sentinel || decide (k.prefY < 12)) &&
    decide (k.engines ≤ 48) && decide (k.peers ≤ 64) && k.firstBlock == first && k.preloadLen % 64 == 0 &&
    decide (k.preloadLine * 64 + k.preloadLen ≤ 0x80000) &&
    (List.range k.engines).all (fun j =>
      match blocks[first + j]? with
      | some b => b.lcore == i && b.leng == j && decide (2 ≤ b.n) && decide (b.n ≤ 16) &&
          (b.keep || decide (h.payloadOff + (b.payload + 1) * 65536 ≤ h.totalLen))
      | none => false)

/-- All records and all entries, in ascending order (R186). -/
def recordsOk (h : ImgHeader) (blocks : List Block) : List Lcore → Nat → Nat → Bool
  | [], _, first => first == blocks.length
  | k :: t, i, first => lcoreOk h blocks k i first && recordsOk h blocks t (i + 1) (first + k.engines)

/-! ## Plans (Tables 5.1, 5.2) -/

def planNum (bs : List Byte) (o n : Nat) : Nat := fromLE ((bs.drop o).take n)

def planHeader (bs : List Byte) : PlanHeader :=
  let n := planNum bs
  { flags := n 0x006 2, length := n 0x008 2, entry := n 0x00A 2 % 4096, batchEntry := n 0x00C 2 % 4096, faultEntry := n 0x00E 2 % 4096,
    tileDemand := n 0x010 1, engineDemand := n 0x011 1, peerCount := n 0x012 1, sentDeadline := n 0x014 2, douSpill := n 0x016 2,
    boundMax := (List.range 16).map (fun i => n (0x018 + 2 * i) 2), frameWin := (List.range 4).map (fun i => n (0x038 + 8 * i) 8),
    kInit := (List.range 16).map (fun i => n (0x058 + 4 * i) 4), sInit := (List.range 32).map (fun i => n (0x098 + 4 * i) 4) }

/-- The instruction words of a plan. -/
def planWords (bs : List Byte) (len : Nat) : List Nat := (List.range len).map (fun i => planNum bs (288 + 8 * i) 8)

/-- A branch target of a word is below LENGTH. -/
def targetOk (w len : Nat) : Bool :=
  match opcodeOf w with
  | 0x02 => decide (field w 0 12 < len)
  | 0x03 => decide (field w 0 12 < len)
  | 0x04 => decide (field w 0 12 < len)
  | _ => true

/-- The FORMAT checks of Table 5.2 beyond the plan's size. -/
def planFormatOk (c : Nat) (h : PlanHeader) (ws : List Nat) (other : Option PlanHeader) : Bool :=
  decide (h.entry < h.length) && decide (h.batchEntry < h.length) && (!bit h.flags 1 || decide (h.faultEntry < h.length)) &&
    opcodeOf (ws.getD h.batchEntry 0) == 0x08 && decide (h.engineDemand ≤ 48) && decide (h.peerCount ≤ 64) &&
    bit h.flags 0 == isSentinel c && (isSentinel c || h.sentDeadline == 0) && (h.douSpill == 0 || bit h.flags 2) &&
    ws.all (fun w => !illegalWord c (some h) w && targetOk w h.length &&
      (boundsOf w).all (fun b => decide (h.boundMax.getD b.1 0 ≤ b.2))) &&
    (match other with | some o => o.frameWin == h.frameWin | none => true)

/-- The load result of a plan for core c (R133, Table 5.2). `free` engines of the core can be named. An ENGINE_DEMAND or PEER_COUNT that differs
from the record's ENGINES or PEERS (Table 7.2) is a FORMAT failure (DESIGN CHOICE: log 150). -/
def planCheck (c : Nat) (bs : List Byte) (other : Option PlanHeader) (engines peers free : Nat) : Nat :=
  let h := planHeader bs
  let ws := planWords bs h.length
  if bs.length < 296 ∨ bs.length % 8 ≠ 0 ∨ h.length = 0 ∨ 4096 < h.length ∨ bs.length ≠ 288 + 8 * h.length then resFormat
  else if crc32c (bs.take 0x11C ++ List.replicate 4 0 ++ bs.drop 0x120) ≠ planNum bs 0x11C 4 then resChecksum
  else if planNum bs 0 4 ≠ 0x4C504453 ∨ planNum bs 4 2 ≠ 1 then resVersion
  else if !planFormatOk c h ws other || h.engineDemand != engines || h.peerCount != peers then resFormat
  else if 64 < h.tileDemand then 4
  else if free < h.engineDemand ∨ 64 < h.douSpill then resCapacity
  else 0

/-- A plan goes into a plan bank and its header into the core's plan state (R131). -/
def State.putPlan (s : State) (c bank : Nat) (h : PlanHeader) (ws : List Nat) : State :=
  (s.layPlan c bank ws).hostCore c (1 + ceilDiv 288 64) (fun s => s.modCore c (fun k => k.setHead bank (some h)))

/-- A preload goes into the activation buffer (R131). -/
def State.putPreload (s : State) (c line : Nat) (bs : List Byte) : State :=
  s.hubWrite c bs (s.abBytes c line 0 bs.length) (fun bs s => s.abWrite c line bs)

/-! ## Free cores and engines (R169, R172, R317) -/

/-- A core in service: present, no spare, not dead; a compute core's die is powered. -/
def State.inService (s : State) (c : Nat) : Bool :=
  s.present c && (s.core c).state != .dead && !s.svc.spareCores.contains c && (isSentinel c || Tab.get 0 s.pwr.dies (dieOf c) == 1)

/-- A core scheduled for replacement or being replaced. -/
def State.replacing (s : State) (c : Nat) : Bool :=
  let r := s.replace (dieOf c)
  decide (c < 576) && (r.queue.any (fun q => q.1 == c) || (r.state != 0 && (r.old == c || r.new == c)))

/-- A core a load may take. -/
def State.coreFree (s : State) (c : Nat) : Bool := s.inService c && (s.core c).ctx.isNone && !s.replacing c

/-- An engine that belongs to no bank and is in service. -/
def Engine.free (g : Engine) : Bool :=
  g.owner.isNone && !g.chrysalis && g.job.isNone && (g.state == .inService || g.state == .spare)

/-- Free engines of a core outside both its maps, lowest first. -/
def State.freeEngines (s : State) (c : Nat) : List Nat :=
  (List.range 50).filter (fun e => (s.eng c e).free && !(s.core c).mapped.contains e)

/-- In-service engines of a core. -/
def State.serviceEngines (s : State) (c : Nat) : Nat :=
  ((List.range 50).filter (fun e => (s.eng c e).state == .inService || (s.eng c e).state == .spare)).length

/-! ## Placement (R173) -/

/-- Distance between a preferred position and a core. -/
def coreDistance (sentinel : Bool) (x y c : Nat) : Nat :=
  if sentinel then (x : Int) - (c - 576 : Nat) |>.natAbs
  else ((x : Int) - (c % 144 % 12 : Nat)).natAbs + ((y : Int) - (c % 144 / 12 : Nat)).natAbs

/-- The nearest of some cores, the lowest index on a tie. -/
def nearest (dist : Nat → Nat) : List Nat → Option Nat
  | [] => none
  | c :: t => match nearest dist t with
    | none => some c
    | some d => if dist d < dist c ∨ (dist d = dist c ∧ d < c) then some d else some c

/-- Logical cores bound one after another, each to the nearest free core of its die. -/
def bindCores (s : State) (sentinel : Bool) (dieFor : Nat → Nat) : List Lcore → List Nat → Option (List Nat)
  | [], done => some done
  | k :: t, done =>
    let all := if sentinel then (List.range 8).map (· + 576) else (List.range 144).map (· + 144 * dieFor k.group)
    let free := all.filter (fun c => s.coreFree c && !done.contains c)
    match nearest (coreDistance sentinel k.prefX k.prefY) free with
    | none => none
    | some c => bindCores s sentinel dieFor t (done ++ [c])

/-- Die groups to dies: each group the lowest die with enough free cores that no earlier group took. -/
def groupDies (s : State) (need : Nat → Nat) : List Nat → List Nat → Option (List Nat)
  | [], done => some done
  | g :: t, done =>
    let ok := fun d => !done.contains d && decide (need g ≤ ((List.range 144).filter (fun i => s.coreFree (144 * d + i))).length)
    match (List.range s.part.dies).find? ok with
    | none => none
    | some d => groupDies s need t (done ++ [d])

/-- Every chosen core has the engines its record asks for, 2 held free (R169, R171). -/
def State.enginesFit (s : State) (ks : List Lcore) (cs : List Nat) : Bool :=
  (List.range ks.length).all (fun i =>
    match ks[i]? with
    | some k => decide (k.engines + 2 ≤ s.serviceEngines (cs.getD i 0))
    | none => true)

/-- The cores of a placement, in logical order. -/
def State.place (s : State) (sentinel : Bool) (groups : Nat) (ks : List Lcore) : Option (List Nat) :=
  if sentinel then bindCores s true (fun _ => 0) ks []
  else
    match groupDies s (fun g => (ks.filter (fun k => k.group == g)).length) (List.range groups) [] with
    | none => none
    | some ds => bindCores s false (fun g => ds.getD g 0) ks []

/-- Sync ranges other contexts hold in one of some dies' stores (or the hub store). -/
def State.takenSync (s : State) (hub : Bool) (dies : List Nat) : List (Nat × Nat) :=
  s.ctxs.filterMap (fun e =>
    let k := e.2
    if hub then (if k.hubLen = 0 then none else some (k.hubBase, k.hubLen))
    else if k.dieLen ≠ 0 ∧ k.cores.any (fun c => dies.contains (dieOf c)) then some (k.dieBase, k.dieLen) else none)

/-- The lowest free range of n objects from 16 up, in steps of 16 (R136, R277). -/
def fitRange (taken : List (Nat × Nat)) (size n : Nat) : Option Nat :=
  (((List.range (size / 16)).map (· * 16)).drop 1).find? (fun b =>
    decide (b + n ≤ size) && taken.all (fun r => decide (b + n ≤ r.1) || decide (r.1 + r.2 ≤ b)))

/-- n rounded up to a multiple of 16 objects, one window line. -/
def syncRound (n : Nat) : Nat := ceilDiv n 16 * 16

/-- The die-store and hub-store ranges of a context: base and length. -/
def State.allocSync (s : State) (sentinel : Bool) (cores : List Nat) (ks : List Lcore) : Option ((Nat × Nat) × (Nat × Nat)) :=
  let ds := sumNat (ks.map (·.dieSync))
  let hs := sumNat (ks.map (·.hubSync))
  let dn := if sentinel then 0 else syncRound ds
  let hn := syncRound (if sentinel then ds + hs else hs)
  let dies := (cores.map dieOf).eraseDups
  match (if dn = 0 then some 0 else fitRange (s.takenSync false dies) 65536 dn), (if hn = 0 then some 0 else fitRange (s.takenSync true []) 16384 hn) with
  | some d, some h => some ((d, dn), (h, hn))
  | _, _ => none

/-! ## Peers (R147, R178) -/

/-- The epoch a port's remote module last reported for a binding of context x, while that slot is usable. -/
def State.boundEpoch (s : State) (x b : Nat) : Nat :=
  let v := s.binding x b
  let p := s.port (field v 0 2)
  if bit v 2 && p.state == 2 && p.remoteId == field v 16 16 then
    match p.epochs.find? (fun e => e.ctx == field v 32 6 && e.lcore == field v 38 10) with
    | some e => e.epoch
    | none => 0
  else 0

/-- The peer slots of a core from its peer list. -/
def State.peerTable (s : State) (x : Nat) (list : List Nat) : Tab Peer :=
  (List.range list.length).map (fun i =>
    let v := list.getD i 0
    if v < 0x8000 then
      let c := (s.ctx x).cores.getD v 0xFFFF
      (i, ⟨c, if c = 0xFFFF then 0 else (s.core c).comm.epoch, none⟩)
    else (i, ⟨0xFFFF, s.boundEpoch x (v - 0x8000), some (v - 0x8000)⟩))

/-- Every slot bound over Flue refilled (R178): after a report, a link change or a change of a binding. -/
def State.refillBound (s : State) : State :=
  let fill := fun (k : Core) =>
    match k.ctx with
    | none => k
    | some x => { k with comm := { k.comm with peers := k.comm.peers.map (fun p =>
        match p.2.binding with
        | some b => (p.1, { p.2 with epoch := s.boundEpoch x b })
        | none => p) } }
  { s with cores := s.cores.map (fun e => (e.1, fill e.2)) }

/-- Every peer table of a context filled from its placement. -/
def State.fillPeers (s : State) (x : Nat) : State :=
  let k := s.ctx x
  (List.range k.cores.length).foldl (fun s i =>
    s.modComm (k.cores.getD i 0) (fun m => { m with peers := s.peerTable x (k.peerLists.getD i []) })) s

end Sys2Proof.Machine
end

