-- ==== Sys2Proof/Machine/Contexts.lean ====
section
/-! DEFINITION. Contexts and banks: what the loader and the installer do, the context commands, the plan store
(R134, R172, R189, R195-R203, R206, R299, R306). -/

namespace Sys2Proof.Machine

/-! ## Core domains (R298, R299) -/

/-- A core's role changes: its epoch rises, local slots are refilled, and remote modules hear of it (R126, R178). -/
def State.roleChange (s : State) (c : Nat) : State := (s.raiseEpoch c).announceEpoch c

/-- A core's domain turns off: SRAM, registers and tiles are lost. The role epoch stays in the router. -/
def State.coreOff (s : State) (c : Nat) : State :=
  let ep := (s.core c).comm.epoch
  (s.wipe (coreBase c) (coreBase c + 0x100000)).setCore c { Core.reset with comm := { Comm.reset with epoch := ep } }

/-- An engine's registers as a reset leaves them (Tables 2.7 to 2.10, R304). -/
def Engine.registersReset (g : Engine) (sentinel : Bool) (repair : List Nat) : Engine :=
  { g with regs := { EngRegs.reset sentinel with repairStaged := repair, repair := repair, staged := g.base, active := g.base },
           trackWait := false, test := { g.test with running := none } }

/-- The registers and tables of every engine of a core as its reset leaves them: both copies hold the factory calibration (R59, R304). -/
def State.resetEngines (s : State) (c : Nat) : State :=
  { s with engines := s.engines.map (fun x =>
      if x.1 / 50 = c then
        (x.1, x.2.registersReset (isSentinel c) (Tab.get [0xFF, 0xFF, 0xFF, 0xFF] s.keep.repair x.1))
      else x) }

/-- A core's domain turns on: in reset, its calibration copied from the hub keep (R299, R304). -/
def State.coreStart (s : State) (c : Nat) : State :=
  ((s.restoreEngines (fun i => i == c)).resetEngines c).modCore c (fun k =>
    { k with state := .idle, ana := { Ana.reset with thresh := s.cfg 0x2800 6, repeats := s.cfg 0x2800 7 } })

/-! ## Trip decisions of a context that goes (R249) -/

def State.forgetDecisions (s : State) (x : Nat) : State :=
  (List.range 32).foldl (fun s n =>
    if s.cfg (tripIdx n) 5 = x then (s.modTrip n (fun t => { t with emit := false })).updateTrip n else s) s

/-! ## The plan store (R306) -/

def StoredPlan.size (p : StoredPlan) : Nat := 288 + 8 * p.words.length + p.preload.length

/-- 12 MiB, filled in the order of installation; what does not fit is marked. -/
def fitPlans : List StoredPlan → Nat → List StoredPlan
  | [], _ => []
  | p :: t, used =>
    if used + p.size ≤ 0xC00000 then { p with marked := false } :: fitPlans t (used + p.size) else { p with marked := true } :: fitPlans t used

def State.storePlan (s : State) (p : StoredPlan) : State := { s with keep := { s.keep with plans := fitPlans (s.keep.plans ++ [p]) 0 } }

def State.dropPlans (s : State) (x bank : Nat) : State :=
  { s with keep := { s.keep with plans := s.keep.plans.filter (fun p => !(p.ctx == x && p.bank == bank)) } }

/-! ## Engines of banks -/

/-- Some block of a bank that is not EMPTY is on this engine. -/
def Bank.names (b : Bank) (c e : Nat) : Bool := b.state != .empty && b.blocks.any (fun k => k.core == c && k.eng == e)

/-- An engine leaves its bank. -/
def Engine.freed (g : Engine) : Engine := { g with owner := none, chrysalis := false, job := none }

/-- An engine's granted pulses end. -/
def State.endPulses (s : State) (c e : Nat) : State :=
  match (s.eng c e).job with
  | some j => if j.granted then s.damperFree (engKey c e) else s
  | none => s

/-- A single-block transfer that no engine uses yet ends with the bank it was asked for. -/
def State.dropRequest (s : State) (x b : Nat) : State :=
  match s.stage.block with
  | some q => if q.ctx = x ∧ q.bank = b ∧ q.user.isNone then s.dropBlock else s
  | none => s

/-- A bank becomes EMPTY; its engines that the other bank does not name are free (R203). -/
def State.freeBank (s : State) (x b : Nat) : State :=
  let s := s.dropRequest x b
  let k := s.ctx x
  let other := k.bank (1 - b)
  let s := (k.bank b).blocks.foldl (fun s n =>
    if n.core = 0xFFFF ∨ other.names n.core n.eng then s
    else ((((s.endPulses n.core n.eng).doneBlock n.core n.eng).endWaits n.core n.eng).modEng n.core n.eng Engine.freed).markBudget) s
  let s := k.cores.foldl (fun s c => s.modCore c (fun q => (q.setMap b []).setHead b none)) s
  (s.dropPlans x b).modCtx x (fun k => k.setBank b Bank.reset)

/-- The replacement in progress on a die ends without its switch: the core being built up is a spare again (R319). DESIGN CHOICE: log 138. -/
def State.dropReplace (s : State) (d : Nat) : State :=
  let r := s.replace d
  let s := r.map.foldl (fun s m => (((s.endPulses r.new m.2).doneBlock r.new m.2).modEng r.new m.2 Engine.freed).markBudget) s
  let s := if r.new = 0xFFFF then s
    else { (s.coreOff r.new) with svc := { s.svc with spareCores := s.svc.spareCores ++ [r.new] } }
  (s.modReplace d (fun q => { Replace.reset with queue := q.queue })).endWait r.old 0 3

/-- Cores that leave their context are replaced no more, on each of the compute dies. -/
def State.dropReplaces (s : State) (cs : List Nat) : State :=
  (List.range 4).foldl (fun s d =>
    let r := s.replace d
    let s := if r.state ≠ 0 ∧ r.old ∈ cs then s.dropReplace d else s
    s.modReplace d (fun q => { q with queue := q.queue.filter (fun e => !cs.contains e.1) })) s

/-- The context gives back cores, engines, sync objects and its number. -/
def State.releaseCtx (s : State) (x : Nat) : State :=
  let cs := (s.ctx x).cores
  let s := ((s.freeBank x 0).freeBank x 1).dropReplaces cs
  let s := cs.foldl (fun s c => (s.coreOff c).raiseEpoch c) s
  ((s.setCtx x Ctx.reset).setCount (0x2610 + x) 9 0).forgetDecisions x

/-! ## The staging slots (R190) -/

/-- A LOAD or INSTALL takes the staging slots, or waits for them. -/
def State.askStage (s : State) (x : Nat) : State :=
  if s.stageFree && s.stage.waiting.isEmpty then s.beginStage x
  else { s with stage := { s.stage with waiting := s.stage.waiting ++ [x] } }

/-- The installation in staging or in programming ends without its bank (R189, R196). -/
def State.failInstall (s : State) (x res : Nat) : State :=
  let k := s.ctx x
  let cmd := k.cmd
  let held := s.stage.install = some x
  if held && s.stage.replan then s.freeStage else
  let s := { s with stage := { s.stage with waiting := s.stage.waiting.erase x } }
  let s := if cmd = 1 then s.releaseCtx x
    else (s.freeBank x (1 - k.imago)).modCtx x (fun k => { k with cmd := 0, auto := false, progress := 0 })
  let s := s.setStatus res x cmd
  if held then s.freeStage else s

/-- An installation fails a plan load check: LOAD_STATUS shows it while the context is in use (R133, R210). -/
def State.failPlan (s : State) (x code : Nat) : State :=
  let s := s.failInstall x code
  if (s.ctx x).state = .none then s else s.modCtx x (fun k => { k with loadStatus := code })

/-! ## Evaluation and binding (R171-R173, R197, R198) -/

/-- A spare that is taken into use is in service again. -/
def State.takeUp (s : State) (c e : Nat) : State := if (s.eng c e).state == .spare then s.engState c e .inService else s

/-- A block bound to an engine. -/
def State.bindBlock (s : State) (x bank : Nat) (n : Block) : State :=
  ((s.takeUp n.core n.eng).modEng n.core n.eng (fun g => { g with owner := some (x, bank, n.leng), chrysalis := true })).modCore n.core (fun k =>
    k.setMap bank (Tab.set (k.map bank) n.leng n.eng))

/-- The blocks of one core given its free engines, lowest first; a KEEP block takes the engine and the payload of the
imago's block. -/
def assignBlocks (c : Nat) (imago : List Block) : List Block → List Nat → List Block
  | [], _ => []
  | n :: t, free =>
    if n.keep then
      match imago.find? (fun m => m.core == c && m.leng == n.leng) with
      | some m => { n with core := c, eng := m.eng, started := true, verified := true, crc := m.crc, payload := m.payload } ::
          assignBlocks c imago t free
      | none => { n with core := c } :: assignBlocks c imago t free
    else { n with core := c, eng := free.headD 0 } :: assignBlocks c imago t free.tail

/-- All blocks of a bank given engines on the cores of their logical cores. -/
def State.assign (s : State) (cores : List Nat) (imago blocks : List Block) : List Block :=
  (List.range cores.length).flatMap (fun i =>
    let c := cores.getD i 0
    assignBlocks c imago (blocks.filter (fun n => n.lcore == i)) (s.freeEngines c))

/-- Core c has engines for n new blocks beside the 2 held; one with none to take lacks none (R198). -/
def State.hasRoom (s : State) (c n : Nat) : Bool := n == 0 || decide (n + 2 ≤ (s.freeEngines c).length)

/-- Every core has engines for its new blocks. -/
def State.installFits (s : State) (cores : List Nat) (blocks : List Block) : Bool :=
  (List.range cores.length).all (fun i => s.hasRoom (cores.getD i 0) (blocks.filter (fun n => n.lcore == i && !n.keep)).length)

/-- A load is placed, or fails with CTX_CAPACITY. -/
def State.evaluate (s : State) (x : Nat) : State :=
  let k := s.ctx x
  let b := k.bank 0
  match s.place k.sentinel k.groups b.lcores with
  | none => s.failPlan x resCapacity
  | some cs =>
    match s.allocSync k.sentinel cs b.lcores with
    | none => s.failPlan x resCapacity
    | some (d, h) =>
      if !s.enginesFit b.lcores cs then s.failPlan x resCapacity
      else
        let blocks := s.assign cs [] b.blocks
        let s := s.modCtx x (fun k => { (k.setBank 0 { b with blocks := blocks }) with
          cores := cs, peerLists := List.replicate cs.length [], dieBase := d.1, dieLen := d.2, hubBase := h.1, hubLen := h.2 })
        let s := (List.range cs.length).foldl (fun s i =>
          let c := cs.getD i 0
          (s.modCore c (fun q => { q with ctx := some x, lcore := i })).roleChange c) s
        let s := blocks.foldl (fun s n => s.bindBlock x 0 n) s
        { s with stage := { s.stage with evaluated := true } }

/-! ## Plans, payloads (R189) -/

/-- The running CRC of the image takes in what has been staged. -/
def State.stageCrc (s : State) : State :=
  let t := s.stage
  let upTo := min t.bytes t.payloadOff
  if !t.staged || upTo ≤ t.crcAt then s
  else
    let r := (s.imgBytes t.crcAt (upTo - t.crcAt)).foldl crcByte (BitVec.ofNat 32 t.crc)
    { s with stage := { t with crc := r.toNat, crcAt := upTo } }

/-- The image bytes a logical core's part of the plan section ends at. -/
def Lcore.planEnd (k : Lcore) (planOff : Nat) : Nat :=
  planOff + max (k.planRel + k.planLen) (max (k.peerRel + 2 * k.peers) (k.preloadRel + k.preloadLen))

/-- Core c can be reached from the hub: it is on, and its crossing and its bridge ends are open. The loader waits for that (DESIGN CHOICE:
log 167). -/
def State.coreReady (s : State) (c : Nat) : Bool := (s.core c).state != .off && (s.core c).comm.crossing && (s.pathShut 4 (dieOf c)).isNone

/-- Engines of a core that a plan of a bank could name: those of its blocks there, and the free ones. -/
def State.enginesOf (s : State) (b : Bank) (c : Nat) : Nat := (b.blocks.filter (fun n => n.core == c)).length + (s.freeEngines c).length

/-- The plan, peer list and preload of logical core i go to its core. A plan that fails shows in LOAD_STATUS. -/
def State.takePlan (s : State) (x i : Nat) : State :=
  let t := s.stage
  let k := s.ctx x
  let b := k.bank t.bank
  match b.lcores[i]?, k.cores[i]? with
  | some r, some c =>
    let bs := s.imgBytes (t.planOff + r.planRel) (min r.planLen 33064)
    let other := if t.isInstall && !t.replan then (s.core c).head (1 - t.bank) else none
    let code := planCheck c bs other r.engines r.peers (s.enginesOf b c)
    let runs := t.replan && (s.core c).state == .running
    let peers := (List.range r.peers).map (fun j => s.imgNum (t.planOff + r.peerRel + 2 * j) 2)
    if runs then { s with stage := { s.stage with plansIn := s.stage.plansIn ++ [i] } }
    else if code ≠ 0 then s.failPlan x code
    else if t.isInstall && !t.replan && peers != k.peerLists.getD i [] then s.failInstall x resPlacement
    else
      let h := planHeader bs
      let ws := planWords bs h.length
      let pre := s.imgBytes (t.planOff + r.preloadRel) r.preloadLen
      let s := (s.putPlan c t.bank h ws).putPreload c r.preloadLine pre
      let s := s.modCtx x (fun k => { k with peerLists := k.peerLists.set i peers })
      let s := if t.replan then s else s.storePlan ⟨x, t.bank, i, h, ws, r.preloadLine, pre, false⟩
      { s with stage := { s.stage with plansIn := s.stage.plansIn ++ [i] } }
  | _, _ => s

/-- The next plan, in order, once it is complete and its core can take it. -/
def State.takePlans (s : State) (x : Nat) : Nat → State
  | 0 => s
  | n + 1 =>
    let t := s.stage
    let i := t.plansIn.length
    let k := s.ctx x
    if t.install ≠ some x then s
    else
      match (k.bank t.bank).lcores[i]?, k.cores[i]? with
      | some r, some c =>
        if r.planEnd t.planOff ≤ t.bytes ∧ s.coreReady c then (s.takePlan x i).takePlans x n else s
      | _, _ => s

/-- A payload in staging is checked and its engine's programming begins. -/
def State.takePayload (s : State) (x i : Nat) (n : Block) : State :=
  let t := s.stage
  let a := t.addr (t.payloadOff + n.payload * payloadLen)
  if t.install ≠ some x || n.started || n.again || t.bytes < t.payloadOff + (n.payload + 1) * payloadLen || !s.coreReady n.core then s
  else if s.payloadCrc a ≠ n.crc then s.failInstall x resChecksum
  else if !s.payloadOk a n.wfmt then s.failInstall x resFormat
  else
    let s := s.startJob n.core n.eng n.wfmt (fun r c => s.payloadCode a n.wfmt r c) (.block x t.bank i)
    s.modCtx x (fun k => k.modBank t.bank (fun b => { b with blocks := b.blocks.set i { n with started := true } }))

def State.takePayloads (s : State) (x : Nat) : State :=
  let b := (s.ctx x).bank s.stage.bank
  b.blocks.zipIdx.foldl (fun s n => s.takePayload x n.2 n.1) s

/-- The image byte a logical core's part of the plan section begins at. -/
def Lcore.planStart (k : Lcore) (planOff : Nat) : Nat :=
  planOff + min k.planRel (min (if k.peers = 0 then k.planRel else k.peerRel) (if k.preloadLen = 0 then k.planRel else k.preloadRel))

/-- The first image byte still needed: of a plan not yet taken or not yet under META_CRC, or of a payload whose engine is not yet
verified. -/
def State.stageNeeds (s : State) (x : Nat) : Nat :=
  let t := s.stage
  let b := (s.ctx x).bank t.bank
  if t.plansDone then
    (b.blocks.filter (fun n => !n.verified && !n.again)).foldl (fun a n => min a (t.payloadOff + n.payload * payloadLen)) t.totalLen
  else (b.lcores.drop t.plansIn.length).foldl (fun a k => min a (k.planStart t.planOff)) (min t.payloadOff t.crcAt)

/-- PUSH_HEAD (Table 7.5): the bytes below the oldest slot not released; the whole image once nothing of it is needed. -/
def State.stageHead (s : State) (x : Nat) : State :=
  let t := s.stage
  if !t.staged then s
  else
    let low := s.stageNeeds x
    { s with stage := { t with head := max t.head (if low = t.totalLen then low else low / 65536 * 65536) } }

/-- Everything the installation in staging can do now. -/
def State.stageFlow (s : State) : State :=
  match s.stage.install with
  | none => s
  | some x =>
    if !s.stage.staged || !s.stage.evaluated then s
    else
      let s := s.stageCrc.takePlans x 544
      if s.stage.install ≠ some x then s
      else ((if s.stage.plansDone && !s.stage.replan then s.takePayloads x else s).stageHead x).fetchMore

/-- Every block of the bank in staging has its weights, or is to have them from its source once more: the slots are released. -/
def State.finishStage (s : State) : State :=
  match s.stage.install with
  | none => s
  | some x =>
    if s.stage.plansDone && (((s.ctx x).bank s.stage.bank).blocks.all (fun n => n.verified || n.again)) then s.freeStage else s

/-! ## STAGED, evaluation, end of the plan section -/

/-- What a replacement must have in common with the context (Table 7.7 code 7). -/
def samePlacement (groups : Nat) (h : ImgHeader) (old new : List Lcore) : Bool :=
  groups == h.groups && old.length == new.length &&
    (List.zipWith (fun (a b : Lcore) => a.group == b.group && a.peers == b.peers && a.dieSync == b.dieSync && a.hubSync == b.hubSync) old new).all id

/-- Header, records and directory have passed: the installation is STAGED. -/
def State.stagedWith (s : State) (x : Nat) (h : ImgHeader) (ks : List Lcore) (blocks : List Block) : State :=
  let t := s.stage
  let k := s.ctx x
  let s := { s with stage := { t with staged := true, planOff := h.planOff, coreOff := h.coreOff, dirOff := h.dirOff,
                                      payloadOff := h.payloadOff, totalLen := h.totalLen, metaCrc := h.metaCrc, crcAt := h.coreOff } }
  if t.replan then
    if h.id = (k.bank t.bank).image then ({ s with stage := { s.stage with evaluated := true } }).stageFlow else s.freeStage
  else if t.isInstall then
    let imago := k.bank k.imago
    if h.sentinel then s.failInstall x resFormat
    else if !samePlacement k.groups h imago.lcores ks then s.failInstall x resPlacement
    else if blocks.any (fun n => n.keep && !imago.blocks.any (fun m => m.lcore == n.lcore && m.leng == n.leng)) then s.failInstall x resFormat
    else if !s.installFits k.cores blocks then s.failPlan x resCapacity
    else
      let bound := s.assign k.cores imago.blocks blocks
      let s := s.modCtx x (fun k => k.modBank t.bank (fun b => { b with image := h.id, blocks := bound, lcores := ks, payloadOff := h.payloadOff }))
      let s := bound.foldl (fun s n =>
        if n.keep then s.modCore n.core (fun q => q.setMap t.bank (Tab.set (q.map t.bank) n.leng n.eng)) else s.bindBlock x t.bank n) s
      ({ s with stage := { s.stage with evaluated := true } }).stageFlow
  else if blocks.any (·.keep) then s.failInstall x resFormat
  else
    let s := s.modCtx x (fun k => { (k.modBank 0 (fun b => { b with image := h.id, blocks := blocks, lcores := ks, payloadOff := h.payloadOff })) with
      sentinel := h.sentinel, groups := h.groups })
    { s with stage := { s.stage with evaluate := s.stage.evaluate ++ [x] } }

def State.staged (s : State) : State :=
  match s.stage.install with
  | none => s
  | some x =>
    if s.stage.staged || s.stage.bytes < 128 then s
    else
      let code := s.headerCheck
      if code ≠ 0 then s.failInstall x code
      else
        let h := s.imgHeader
        if s.stage.bytes < h.metaEnd then s.fetchMore
        else
          let ks := (List.range h.lcores).map (s.imgLcore h)
          let blocks := (List.range h.blocks).map (s.imgBlock h)
          if recordsOk h blocks ks 0 0 then s.stagedWith x h ks blocks else s.failInstall x resFormat

def execStaged (s : State) : Out := .next s.staged

def execCtxLoadEvaluation (s : State) : Out := .next
  (match s.stage.evaluate with
   | [] => s
   | x :: t => ({ s with stage := { s.stage with evaluate := t } }).evaluate x)

/-- The plan section is complete: META_CRC is checked, and the payloads follow. -/
def State.planEnd (s : State) : State :=
  match s.stage.install with
  | none => s
  | some x =>
    let s := s.stageFlow
    let t := s.stage
    if t.install ≠ some x || t.plansDone || !t.evaluated || t.crcAt < t.payloadOff then s
    else if t.plansIn.length < (s.ctx x).cores.length then s
    else if (BitVec.ofNat 32 t.crc ^^^ 0xFFFFFFFF#32).toNat ≠ t.metaCrc then s.failInstall x resChecksum
    else
      let s := { s with stage := { t with plansDone := true } }
      if t.replan then (s.modCtx x (fun k => { k with planMissing := false })).freeStage else
      let s := if t.isInstall then s else s.fillPeers x
      s.stageFlow.finishStage

def execPlanSectionEnd (s : State) : Out := .next s.planEnd

/-! ## Banks verified (R195, R197) -/

/-- Row budgets of a bank's engines commit with it (R62). -/
def State.commitBudgets (s : State) (b : Bank) : State :=
  b.blocks.foldl (fun s n => s.modCore n.core (fun k => { k with ana := { k.ana with
    budget := Tab.set k.ana.budget n.eng n.n, budgetStaged := Tab.set k.ana.budgetStaged n.eng n.n } })) s

/-- The blocks of a bank belong to it, out of construction. -/
def State.settleOwners (s : State) (x bank : Nat) : State :=
  ((s.ctx x).bank bank).blocks.foldl (fun s n =>
    s.modEng n.core n.eng (fun g => { g with owner := some (x, bank, n.leng), chrysalis := false })) s

/-- The codes of an engine's array columns as its image gave them. -/
def Engine.imageCode (g : Engine) (row p : Nat) : Int :=
  halfCode g.wfmt p (g.code row (if g.wfmt = 0 then p else p / 2 * 2))

/-- 5-bit codes packed densely, lowest bits first, row by row: eight codes to five bytes (R206; the order is a DESIGN CHOICE: log 52). -/
def packCodes (code : Nat → Int) (n : Nat) : List Byte :=
  (List.range (n / 8)).flatMap (fun i =>
    toLE 5 (sumNat ((List.range 8).map (fun j => ofSigned 5 (code (8 * i + j)) * 2 ^ (5 * j)))))

/-- Code i of a packed store. -/
def packedCode (bs : List Byte) (i : Nat) : Int := toSigned 5 (fromLE (chunk bs (i / 8) 5) / 2 ^ (5 * (i % 8)))

/-- The target store takes the codes of a sentinel image (R206): 40,960 bytes of each engine. -/
def State.storeTargets (s : State) (x : Nat) : State :=
  ((s.ctx x).bank 0).blocks.foldl (fun s n =>
    let g := s.eng n.core n.eng
    let bs := packCodes (fun i => g.imageCode (i / 128) (i % 128)) 65536
    { s with keep := { s.keep with targets := Tab.set s.keep.targets (engKey n.core n.eng) bs } }) s

/-- An eclosion is asked for (R202). -/
def State.askEclosion (s : State) (x bank when_ : Nat) (ex : Option (Nat × Nat × Nat)) : State :=
  let t := s.ecloseTime
  let m := s.ecloseMark
  let q : Eclosion :=
    { bank := bank, e := 0, attempts := 0, when_ := when_, time := t, mark := m, due := when_ == 0, begun := false, answered := [],
      refused := false, exchange := ex }
  s.modCtx x (fun k => { k with eclosion := some q })

/-- Owners of a READY bank's new engines; its KEEP engines stay the imago's. -/
def State.readyOwners (s : State) (x bank : Nat) : State :=
  (((s.ctx x).bank bank).blocks.filter (fun n => !n.keep)).foldl (fun s n => s.modEng n.core n.eng (fun g => { g with chrysalis := false })) s

/-- A block whose payload has left the ring is programmed once more from its source (R199). -/
def State.programAgain (s : State) (x bank i : Nat) (n : Block) : State :=
  if s.blockHere x bank i then
    let s := (s.startJob n.core n.eng n.wfmt (fun r c => s.payloadCode 0 n.wfmt r c) (.block x bank i)).useBlock n.core n.eng
    s.modCtx x (fun k => k.modBank bank (fun b => { b with blocks := b.blocks.set i { n with started := true, again := false } }))
  else s.wantBlock x bank i

/-- The first block that is to be programmed once more. -/
def Bank.firstAgain (b : Bank) : Option (Block × Nat) := b.blocks.zipIdx.find? (fun n => n.1.again && !n.1.started)

def State.bankVerified (s : State) (x : Nat) : State :=
  let k := s.ctx x
  let i := if k.cmd = 1 then 0 else 1 - k.imago
  let b := k.bank i
  match (if b.state == .chrysalis && s.stage.install.isNone then b.firstAgain else none) with
  | some n => s.programAgain x i n.2 n.1
  | none =>
  if !(k.cmd == 1 || k.cmd == 2) || b.state != .chrysalis || s.stage.install == some x || s.stage.waiting.contains x ||
      !b.blocks.all (·.verified) then s
  else if k.cmd = 1 then
    let s := (s.settleOwners x 0).commitBudgets b
    let s := if k.sentinel then s.storeTargets x else s
    (s.modCtx x (fun k => { (k.setBank 0 { b with state := .imago }).enter .stopped with pointer := 0, cmd := 0 })).setStatus resDone x 1
  else
    let s := (s.readyOwners x i).modCtx x (fun k => { (k.setBank i { b with state := .ready }) with cmd := 0, auto := false })
    let s := s.setStatus resDone x 2
    if k.auto then ((s.askEclosion x i 0 none).modCtx x (fun k => { k with cmd := 3 })).setStatus resProgress x 3 else s

def execBankVerified (ctx : Nat) (s : State) : Out := .next (s.bankVerified ctx)

/-! ## The context commands (R196-R198, R202, R203, R209) -/

def State.cmdLoad (s : State) (x src : Nat) : State :=
  if (s.ctx x).state != .none then s.setStatus resState x 1
  else
    let s := s.setCtx x { Ctx.reset with state := .loading, cmd := 1, bank0 := { Bank.reset with state := .chrysalis, source := src, link := s.fetchSet } }
    (s.setStatus resProgress x 1).askStage x

def State.cmdInstall (s : State) (x src : Nat) (auto : Bool) : State :=
  let k := s.ctx x
  let i := 1 - k.imago
  if k.sentinel || !(k.state == .stopped || k.state == .running) || (k.bank k.imago).state != .imago || (k.bank i).state != .empty then
    s.setStatus resState x 2
  else
    let b := { Bank.reset with state := .chrysalis, source := src, link := s.fetchSet }
    let s := s.modCtx x (fun k => { (k.setBank i b) with cmd := 2, auto := auto, progress := 0, loadStatus := 0 })
    (s.setStatus resProgress x 2).askStage x

def State.cmdEclose (s : State) (x when_ : Nat) : State :=
  let k := s.ctx x
  if (k.bank k.imago).state != .imago || (k.bank (1 - k.imago)).state != .ready || k.eclosion.isSome then s.setStatus resState x 3
  else ((s.askEclosion x (1 - k.imago) when_ none).modCtx x (fun k => { k with cmd := 3 })).setStatus resProgress x 3

/-- Cores of a context no longer hold an ARM. -/
def State.disarmAll (s : State) (x : Nat) : State := (s.ctx x).cores.foldl (fun s c => s.modSeq c (fun q => { q with armed := none })) s

def State.cmdAbort (s : State) (x : Nat) : State :=
  let k := s.ctx x
  let i := if (k.bank 0).state == .chrysalis || (k.bank 0).state == .ready then 0 else 1
  if !((k.bank i).state == .chrysalis || (k.bank i).state == .ready) then s.setStatus resState x 4
  else if k.cmd = 1 ∨ k.cmd = 2 then s.failInstall x resAborted
  else
    let s := (s.disarmAll x).modCtx x (fun k => { k with eclosion := none, cmd := 0, pointer := k.imago })
    let s := s.freeBank x i
    if k.cmd = 0 then s.setStatus resDone x 4 else s.setStatus resAborted x k.cmd

/-- A core's plan begins on the pointer's bank (R134). No frame has come to its windows, whose stamp reads 0 until one does (DESIGN CHOICE:
log 171). -/
def State.startCore (s : State) (x c : Nat) : State :=
  let b := (s.ctx x).imago
  match (s.core c).head b with
  | none => s
  | some h =>
    (s.bankBudgets c b).modCore c (fun k =>
      { k with state := .running, wins := h.frameWin.map (fun w => ⟨w, 0, 0⟩), watchdog := none,
               seq := { (Seq.reset.init h) with bank := b, mapBank := b, pc := h.entry, lastFault := k.seq.lastFault, nextSeq := k.seq.nextSeq } })

def Core.atRest (k : Core) : Bool := k.state == .idle || k.state == .halted

def State.coresAtRest (s : State) (x : Nat) : Bool := (s.ctx x).cores.all (fun c => (s.core c).atRest)

def State.startCtx (s : State) (x : Nat) : State :=
  (s.ctx x).cores.foldl (fun s c => s.startCore x c) (s.modCtx x (fun k => k.enter .running))

def State.cmdStart (s : State) (x : Nat) : State :=
  let k := s.ctx x
  if k.state != .stopped || (k.bank k.imago).state != .imago || !s.coresAtRest x then s.setStatus resState x 5
  else (s.startCtx x).setStatus resDone x 5

/-- Issue on a core is to stop as HALT would stop it (R197, R279). -/
def State.stopCore (s : State) (c : Nat) : State :=
  let k := s.core c
  if k.state == .running || k.state == .frozen then (s.modSeq c (fun q => { q with stopReq := some .stop })).settle c else s

def State.cmdStop (s : State) (x : Nat) : State :=
  if (s.ctx x).state != .running then s.setStatus resState x 6
  else ((s.ctx x).cores.foldl State.stopCore (s.modCtx x (fun k => k.enter .stopped))).setStatus resDone x 6

/-- UNLOAD requires every core to be stopped, whatever else the context's state is. -/
def State.cmdUnload (s : State) (x : Nat) : State :=
  if (s.ctx x).state == .none || !s.coresAtRest x then s.setStatus resState x 7 else (s.releaseCtx x).setStatus resDone x 7

/-! ## Plans and maps restored (R306 step 8, R307, R209) -/

/-- A kept plan and preload go to their core. -/
def State.restorePlan (s : State) (p : StoredPlan) : State :=
  match (s.ctx p.ctx).cores[p.lcore]? with
  | some c => if p.marked then s else (s.putPlan c p.bank p.header p.words).putPreload c p.preloadLine p.preload
  | none => s

/-- A plan of a context that the store could not hold and that has not been read again. -/
def State.missingPlan (s : State) (x : Nat) : Option StoredPlan :=
  s.keep.plans.find? (fun p => p.ctx == x && p.marked &&
    (match (s.ctx x).cores[p.lcore]? with | some c => ((s.core c).head p.bank).isNone | none => false))

/-- The plan section of a bank is read again from its source. -/
def State.askReplan (s : State) (x bank : Nat) : State :=
  (s.modCtx x (fun k => { k.enter .verifyHold with planMissing := true })).readPlans x bank

/-- The engine maps of a bank, from its directory. -/
def State.restoreMaps (s : State) (x bank : Nat) : State :=
  let b := (s.ctx x).bank bank
  b.blocks.foldl (fun s n => s.modCore n.core (fun k => k.setMap bank (Tab.set (k.map bank) n.leng n.eng))) s

/-- The imago's blocks on those of some cores whose committed row budgets are as a reset leaves them. -/
def State.unbudgeted (s : State) (b : Bank) (rest : List Nat) : Bank :=
  { b with blocks := b.blocks.filter (fun n => rest.contains n.core && (s.core n.core).ana.budget.isEmpty) }

/-- Maps, plans and preloads of the cores of a context that are at rest, as the hub keep holds them. Row budgets that a reset has taken are
those of the directory again (DESIGN CHOICE: log 164). -/
def State.restoreCtx (s : State) (x : Nat) (rest : List Nat) : State :=
  let k := s.ctx x
  let mine := fun (p : StoredPlan) => p.ctx == x && (match k.cores[p.lcore]? with | some c => rest.contains c | none => false)
  let s := ((s.restoreMaps x 0).restoreMaps x 1).commitBudgets (s.unbudgeted (k.bank k.imago) rest)
  (s.keep.plans.filter mine).foldl State.restorePlan s

/-- FORCE_START runs the engines that failed verification with every MVM marked LOWCONF; not while a plan is missing or a core is off, which
changes nothing. The cores get their maps, budgets and plans as an automatic start gives them. -/
def State.cmdForce (s : State) (x : Nat) : State :=
  let k := s.ctx x
  if k.state != .verifyHold || k.planMissing || k.sentinel || !k.cores.all s.coreReady || (s.missingPlan x).isSome then s.setStatus resState x 8
  else
    (((s.restoreCtx x (k.cores.filter (fun c => (s.core c).atRest))).fillPeers x).startCtx x).setStatus resDone x 8

/-- CTX_CMD (Table 7.9). -/
def State.ctxCommand (s : State) (v : Nat) : State :=
  let cmd := field v 0 8
  let x := field v 8 6
  if (s.ctx x).cmd ≠ 0 ∧ cmd ≠ 4 then s.setStatus resBusy x cmd
  else
    match cmd with
    | 1 => s.cmdLoad x (field v 14 1)
    | 2 => s.cmdInstall x (field v 14 1) (bit v 17)
    | 3 => s.cmdEclose x (field v 15 2)
    | 4 => s.cmdAbort x
    | 5 => s.cmdStart x
    | 6 => s.cmdStop x
    | 7 => s.cmdUnload x
    | 8 => s.cmdForce x
    | _ => s

/-! ## Eclosion (R200-R202) -/

/-- b lies after a in the order of batch numbers. -/
def laterBatch (a b : Nat) : Nat := if batchAtLeast b a then b else a

/-- E: the highest next batch number of the context's cores plus ECLOSE_MARGIN. -/
def State.eclosionE (s : State) (x : Nat) : Nat :=
  match (s.ctx x).cores.map (fun c => (s.core c).seq.batchNo) with
  | [] => s.cfg 0x2600 3
  | b :: t => (t.foldl laterBatch b + s.cfg 0x2600 3) % 2 ^ 32

def State.modEclosion (s : State) (x : Nat) (f : Eclosion → Eclosion) : State := s.modCtx x (fun k => { k with eclosion := k.eclosion.map f })

/-- ARM goes out with a fresh E. -/
def State.sendArm (s : State) (x : Nat) : State :=
  let e := s.eclosionE x
  (s.modEclosion x (fun q => { q with e := e, begun := true, answered := [], refused := false })).modCtx x (fun k =>
    { k with pointer := k.imago + 2 })

/-- The eclosion's moment has come. -/
def State.eclosionDue (s : State) (q : Eclosion) : Bool := if q.when_ = 1 then decide (q.time ≤ s.time.gtc) else q.due

def State.eclosionBegin (s : State) (x : Nat) : State :=
  match (s.ctx x).eclosion with
  | none => s
  | some q => if q.begun || !s.eclosionDue q then s else s.sendArm x

def execEclosionBegin (ctx : Nat) (s : State) : Out := .next (s.eclosionBegin ctx)

/-- A core receives ARM: it holds BATCHes from E on, or answers that it had already issued batch E. -/
def State.armCore (s : State) (x c : Nat) : State :=
  match (s.ctx x).eclosion with
  | none => s
  | some q =>
    if !q.begun || q.answered.contains c || !(s.ctx x).cores.contains c then s
    else
      let late := batchAtLeast ((s.core c).seq.batchNo + 2 ^ 32 - 1) q.e
      let s := s.modEclosion x (fun q => { q with answered := q.answered ++ [c], refused := q.refused || late })
      if late then s else s.modSeq c (fun r => { r with armed := some (q.bank, q.e) })

def execArm (ctx c : Nat) (s : State) : Out := .next (s.armCore ctx c)

/-- DISARM goes to every core; a fresh attempt, or ECLOSE_LATE after the fourth. -/
def State.disarm (s : State) (x : Nat) : State :=
  match (s.ctx x).eclosion with
  | none => s
  | some q =>
    if !q.refused then s
    else
      let s := s.disarmAll x
      if 4 ≤ q.attempts + 1 then
        let cmd := (s.ctx x).cmd
        let s := s.modCtx x (fun k => { k with eclosion := none, cmd := 0, pointer := k.imago })
        if cmd = 3 then s.setStatus resLate x 3 else s
      else (s.modEclosion x (fun q => { q with attempts := q.attempts + 1 })).sendArm x

def execDisarm (ctx : Nat) (s : State) : Out := .next (s.disarm ctx)

/-- Pointer and E persisted, COMMIT to every core, the old bank DRAINING. The row budgets of an installed bank come into effect with it, on a core
that has not yet taken them also through an exchange's copy of it (R62). -/
def State.commitEclosion (s : State) (x : Nat) : State :=
  let k := s.ctx x
  match k.eclosion with
  | none => s
  | some q =>
    if !q.begun || q.refused || !k.cores.all (q.answered.contains ·) then s
    else
      let old := k.imago
      let gtc := s.time.gtc
      let s := s.modCtx x (fun k => { ((k.modBank q.bank (fun b => { b with state := .imago })).modBank old (fun b => { b with state := .draining })) with
        pointer := q.bank, switchAt := q.e, lastEclosion := gtc, eclosion := none, cmd := 0 })
      let s := s.settleOwners x q.bank
      let s := k.cores.foldl (fun s c => s.modSeq c (fun r => { r with armed := none, committed := some (q.bank, q.e) })) s
      let due := fun (b : Option Nat) => if q.exchange.isSome ∧ b ≠ some old then b else some q.bank
      let s := k.cores.foldl (fun s c => s.modCore c (fun r => { r with ana := { r.ana with bankDue := due r.ana.bankDue } })) s
      let s := s.bump (0x2610 + x) 9
      if k.cmd = 3 then s.setStatus resDone x 3 else s

def execCommit (ctx : Nat) (s : State) : Out := .next (s.commitEclosion ctx)

/-- Batch E − 1 and what went before it have retired on a core, and no op outside a batch runs on the bank's map. A core that
does not run, or whose plan has begun anew since the eclosion, is on the pointer's bank (R134, R201). -/
def State.coreDrained (s : State) (c bank e : Nat) : Bool :=
  let q := (s.core c).seq
  let since := ((s.core c).state == .running || (s.core c).state == .frozen) && q.committed.isSome
  (!since || batchAtLeast q.batchNo e) &&
    !(match q.openBatch with | some b => since && !batchAtLeast b e | none => false) &&
    !q.ops.any (fun o => match o.batch with | some b => if q.committed.isSome then !batchAtLeast b e else o.map == bank | none => o.map == bank)

/-- An engine that an exchange took out of service is reprogrammed, to see what becomes of it (R93). -/
def State.requalify (s : State) (c e : Nat) (renewal : Bool) : State :=
  let g := s.eng c e
  let w := g.wfmt
  let s := s.setEng c e { g with owner := none }
  if renewal then s.engState c e .spare else s.startJob c e w (fun r col => g.code r (if w = 0 then col else 2 * col)) .requalify

/-- Engines of the draining bank that the new one does not name, with what they were due for. -/
def State.retiring (s : State) (x old : Nat) : List (Nat × Nat × EngState) :=
  let k := s.ctx x
  (((k.bank old).blocks.filter (fun n => !(k.bank (1 - old)).names n.core n.eng)).map (fun n => (n.core, n.eng, (s.eng n.core n.eng).state)))

def State.bankRetire (s : State) (x : Nat) : State :=
  let k := s.ctx x
  let old := 1 - k.imago
  if (k.bank old).state != .draining || !k.cores.all (fun c => s.coreDrained c old k.switchAt) then s
  else
    let out := s.retiring x old
    let s := s.freeBank x old
    let s := k.cores.foldl (fun s c => s.modSeq c (fun q => { q with committed := none })) s
    out.foldl (fun s n =>
      match n.2.2 with
      | .retireSched => (s.requalify n.1 n.2.1 false).endWait n.1 n.2.1 1
      | .belowNow => (s.requalify n.1 n.2.1 false).endWait n.1 n.2.1 1
      | .renewSched => (s.requalify n.1 n.2.1 true).endWait n.1 n.2.1 2
      | _ => s) s

def execBankRetire (ctx : Nat) (s : State) : Out := .next (s.bankRetire ctx)

end Sys2Proof.Machine
end

