-- ==== Sys2Proof/Machine/Fetch.lean ====
section
/-! DEFINITION. The image sources: the NVMe/TCP fetch (R191, R192), the PCIe push (R193) and single blocks (R194). -/

namespace Sys2Proof.Machine

/-! ## Bytes into staging -/

/-- Bytes the ring can still take. -/
def Stage.room (t : Stage) : Nat := t.head + t.slots * 65536 - t.bytes

/-- Image bytes at the stream's end of the ring. -/
def State.stageBytes (s : State) (bs : List Byte) : State :=
  let t := s.stage
  let put := bs.zipIdx.foldl (fun m b => Mem.write m (t.addr (t.bytes + b.2)) b.1) s.mem
  { s with mem := put, stage := { t with bytes := t.bytes + bs.length } }

/-- Bytes of a single block in staging slot 0. -/
def State.blockBytes (s : State) (b : BlockReq) (bs : List Byte) : State :=
  let bs := bs.take (payloadLen - b.bytes)
  let n := b.bytes + bs.length
  let s := { (s.poke b.bytes bs) with stage := { s.stage with block := some { b with bytes := n } } }
  if n = payloadLen then ({ s with fetch := { s.fetch with state := 0, out := [], opening := none } }).checkBlock else s

/-- Bytes of a Read go on in staging: of a single block, or of the image, which ends where its length says. -/
def State.landBytes (s : State) (bs : List Byte) : State :=
  match s.stage.block with
  | some b => if b.ready then s else s.blockBytes b bs
  | none =>
    if s.stage.install.isNone then s
    else s.stageBytes (bs.take (min s.stage.room (if s.stage.staged then s.stage.totalLen - s.stage.bytes else bs.length)))

/-- Reads that have completed go into staging in the order they were asked for. -/
def State.landReads : Nat → State → State
  | 0, s => s
  | n + 1, s =>
    match s.fetch.out.find? NvmeOut.isRead with
    | some o =>
      if o.done then State.landReads n (({ s with fetch := { s.fetch with out := s.fetch.out.erase o } }).landBytes o.got) else s
    | none => s

/-! ## The association (R192) -/

/-- The association is up or being set up. -/
def Fetch.live (f : Fetch) : Bool := f.state == 1 || f.state == 2

/-- The fetch has failed for good: the installation ends with FETCH; a single block's action goes on waiting. -/
def State.fetchFailed (s : State) : State :=
  let s := { s with fetch := { s.fetch with state := 4, out := [], opening := none } }
  match s.stage.install with
  | some x => s.failInstall x resFetch
  | none => s.dropBlock

/-- The association is torn down: set up again after the wait, or given up after FETCH_RETRIES attempts. -/
def State.fetchDown (s : State) : State :=
  if !s.fetch.live then s
  else if s.fetch.set.retries ≤ s.fetch.attempts then s.fetchFailed
  else
    let wait := if s.fetch.backoff = 0 then 1 else min 32 (2 * s.fetch.backoff)
    { s with fetch := { s.fetch with state := 3, backoff := wait, since := s.time.up, out := [], opening := none } }

/-- Behaviour of the target outside the subset: a termination PDU goes out and the association ends (R191). -/
def State.outOfSubset (s : State) : State :=
  if !s.fetch.live then s else ({ s with fetch := { s.fetch with sent := s.fetch.sent ++ [NvmePdu.termReq] } }).fetchDown

/-- A command has failed: it goes out again under a new identifier, up to 3 times (R192). -/
def State.fetchRetry (s : State) (o : NvmeOut) : State :=
  if 3 ≤ o.tries then s.fetchDown
  else
    let f := s.fetch
    let again : NvmeOut := ⟨o.queue, f.nextCid, o.cmd, s.time.up, o.tries + 1, [], false⟩
    { s with fetch := { f with
      out := f.out.map (fun x => if x = o then again else x)
      nextCid := (f.nextCid + 1) % 65536
      sent := f.sent ++ [NvmePdu.capsule o.queue f.nextCid (f.nsOf o.cmd) o.cmd] } }

/-- A command goes out. -/
def State.fetchSend (s : State) (q : Nat) (cmd : NvmeCmd) : State := { s with fetch := s.fetch.send s.time.up q 0 cmd }

/-- The ICResp of the queue being connected: its Fabrics Connect goes out. Any other ICResp is none the host asked for. -/
def State.icResp (s : State) : State :=
  match s.fetch.opening with
  | some q => ({ s with fetch := { s.fetch with opening := none } }).fetchSend q (.connect q)
  | none => s.outOfSubset

def execIcResp (s : State) : Out := .next s.icResp

/-- The data of an Identify command as NVMe lays it out (PRESUMED: log 131): MDTS of the controller; the LBA format in use of a namespace. -/
def mdts (bs : List Byte) : Nat := (bs.getD 77 0).toNat
def lbaFormat (bs : List Byte) : Nat := fromLE ((bs.drop (128 + 4 * ((bs.getD 26 0).toNat % 16))).take 4)

/-- The size of an LBA of 512 or 4,096 B without metadata; none for other formats. -/
def lbaBytes (bs : List Byte) : Option Nat :=
  let w := lbaFormat bs
  if field w 0 16 ≠ 0 then none
  else if field w 16 8 = 9 then some 512
  else if field w 16 8 = 12 then some 4096
  else none

/-- What a command of the set-up leads to (DESIGN CHOICE, the order: log 131): admin queue, controller enabled and ready, the two Identify
commands, then the I/O queues one by one, after which the Reads go out. -/
def State.fetchNext (s : State) (o : NvmeOut) (value : Nat) : State :=
  let f := s.fetch
  match o.cmd with
  | .connect q =>
    let s := { s with fetch := { f with ready := q + 1, lastKeep := if q = 0 then s.time.up else f.lastKeep } }
    if q = 0 then s.fetchSend 0 (.propertyGet 0)
    else if q < f.set.queues then { s with fetch := s.fetch.dial s.time.up (q + 1) }
    else ({ s with fetch := { s.fetch with state := 2 } }).fetchMore
  | .propertyGet 0 => ({ s with fetch := { f with maxRead := 4096 * 2 ^ field value 48 4 } }).fetchSend 0 .propertySet
  | .propertySet => s.fetchSend 0 (.propertyGet 0x1C)
  | .propertyGet _ => if bit value 0 then s.fetchSend 0 (.identify 1) else s.fetchSend 0 (.propertyGet 0x1C)
  | .identify 1 =>
    let m := mdts o.got
    ({ s with fetch := { f with maxRead := if m = 0 then 131072 else min 131072 (f.maxRead * 2 ^ m) } }).fetchSend 0 (.identify 0)
  | .identify _ =>
    match lbaBytes o.got with
    | some n => { s with fetch := ({ f with lbaSize := n } : Fetch).dial s.time.up 1 }
    | none => s.fetchFailed
  | .keepAlive => s
  | .read _ _ _ => s

/-- The bytes a command brings. -/
def NvmeCmd.dataLen (k : NvmeCmd) : Nat :=
  match k with
  | .read _ _ n => n
  | .identify _ => 4096
  | _ => 0

/-- The command outstanding under an identifier. -/
def Fetch.command (f : Fetch) (q cid : Nat) : Option NvmeOut := f.out.find? (fun o => o.queue == q && o.cid == cid && !o.done)

/-- A completion: a non-zero status is kept and the command goes out again, as does one that has not had all its data. -/
def State.capsuleResp (s : State) (r : NvmeResp) : State :=
  match s.fetch.command r.queue r.cid with
  | none => s.outOfSubset
  | some o =>
    if r.status ≠ 0 then ({ s with fetch := { s.fetch with lastStatus := r.status % 65536 } }).fetchRetry o
    else if o.got.length ≠ o.cmd.dataLen then s.fetchRetry o
    else if o.isRead then
      let s := { s with fetch := { s.fetch with out := s.fetch.out.map (fun x => if x = o then { x with done := true } else x) } }
      ((s.landReads 124).stageFlow.finishStage).fetchMore
    else ({ s with fetch := { s.fetch with out := s.fetch.out.erase o } }).fetchNext o r.value

def execCapsuleResp (resp : NvmeResp) (s : State) : Out := .next (s.capsuleResp resp)

/-- A C2HData PDU adds to the data of its command; a digest error ends the association. -/
def State.c2hData (s : State) (d : NvmeData) (ok : Bool) : State :=
  if !s.fetch.live then s
  else if !ok then (s.bump 0x2701 5).fetchDown
  else
    match s.fetch.command d.queue d.cid with
    | none => s.outOfSubset
    | some o =>
      if o.cmd.dataLen < o.got.length + d.bytes.length then s.outOfSubset
      else { s with fetch := { s.fetch with out := s.fetch.out.map (fun x => if x = o then { x with got := x.got ++ d.bytes } else x) } }

def execC2hData (data : NvmeData) (digestOk : Bool) (s : State) : Out := .next (s.c2hData data digestOk)

def execC2hTermReq (s : State) : Out := .next s.fetchDown
def execOutOfSubsetPdu (s : State) : Out := .next s.outOfSubset
def execLostConnection (s : State) : Out := .next s.fetchDown

/-- FETCH_TIMEOUT has passed since a time. -/
def State.fetchLate (s : State) (since : Nat) : Bool := decide (1000000 * s.fetch.set.timeout ≤ s.time.up - since)

/-- A command not completed within FETCH_TIMEOUT goes out again; a connection not made ends the association. -/
def State.fetchTimeout (s : State) : State :=
  if !s.fetch.live then s
  else if s.fetch.opening.isSome && s.fetchLate s.fetch.since then s.fetchDown
  else
    match s.fetch.out.find? (fun o => !o.done && s.fetchLate o.since) with
    | some o => s.fetchRetry o
    | none => s

def execFetchTimeout (s : State) : Out := .next s.fetchTimeout

/-- The wait is over: a new attempt, resuming at the first byte not yet staged. -/
def State.fetchReconnect (s : State) : State :=
  if s.fetch.state = 3 ∧ 1000000000 * s.fetch.backoff ≤ s.time.up - s.fetch.since then
    let f := { s.fetch with attempts := s.fetch.attempts + 1 }
    ({ s with fetch := f.start s.time.up }).bump 0x2701 4
  else s

def execFetchReconnect (s : State) : Out := .next s.fetchReconnect

/-- A Keep Alive goes out on the admin queue every KATO / 2. -/
def State.keepAlive (s : State) : State :=
  if s.fetch.live && decide (0 < s.fetch.ready) && decide (500000000 * s.fetch.set.kato ≤ s.time.up - s.fetch.lastKeep) then
    ({ s with fetch := { s.fetch with lastKeep := s.time.up } }).fetchSend 0 .keepAlive
  else s

def execKeepAlive (s : State) : Out := .next s.keepAlive

/-! ## The PCIe push (R193, Table 7.5) -/

/-- A tail lies past the image's end, once its header is known. -/
def State.pastImage (s : State) (v : Nat) : Bool :=
  let t := s.stage
  if t.staged then decide (t.totalLen < v)
  else decide (128 ≤ t.bytes) && s.headerCheck == 0 && decide (s.imgHeader.totalLen < v)

/-- PUSH_TAIL written: backwards, or past TOTAL_LEN once the header is known, fails the installation. -/
def State.pushTail (s : State) (v : Nat) : State :=
  match s.stage.install with
  | none => { s with stage := { s.stage with tail := v } }
  | some x =>
    if s.stage.source ≠ 1 then { s with stage := { s.stage with tail := v } }
    else if v < s.stage.tail then s.failInstall x resFormat
    else
      let s := { s with stage := { s.stage with tail := v, bytes := v } }
      if s.pastImage v then s.failInstall x resFormat else s.stageFlow.finishStage

def execPushTail (v : Nat) (s : State) : Out := .next (s.pushTail v)

/-- BLOCK_READY: the host has placed the payload of the wanted block in staging slot 0. -/
def State.blockReady (s : State) (idx : Nat) : State :=
  match s.stage.block with
  | none => s
  | some b =>
    if b.ready || b.idx != idx || ((s.ctx b.ctx).bank b.bank).source != 1 then s
    else ({ s with stage := { s.stage with block := some { b with bytes := payloadLen } } }).checkBlock

end Sys2Proof.Machine
end

