-- ==== Sys2Proof/Machine/Exchange.lean ====
section
/-! DEFINITION. Exchange of engines (R93-R95, R199), the end of whole-engine programming (R204), power-up verification
(R207-R209, R306-R308) and replacement of cores (R174, R317-R320). -/

namespace Sys2Proof.Machine

/-! ## Replacements scheduled (R317, R318) -/

/-- A core put in a queue by ascending index. -/
def queueCore (c cause : Nat) : List (Nat × Nat) → List (Nat × Nat)
  | [] => [(c, cause)]
  | q :: t => if c < q.1 then (c, cause) :: q :: t else q :: queueCore c cause t

/-- A replacement trigger. A sentinel core is never replaced: only recorded. -/
def State.scheduleReplace (s : State) (c cause : Nat) : State :=
  if isSentinel c then
    (s.modReplace 4 (fun r => { r with state := 3, old := c })).record (coreSource c) 0x001A [c + 0xFFFF * 65536, 4]
  else if (s.core c).ctx.isSome && s.present c && !s.replacing c then
    s.modReplace (dieOf c) (fun r => { r with queue := queueCore c cause r.queue })
  else s

/-! ## Exchange of an engine (R93-R95, R199) -/

/-- The engine is due to leave its logical engine. -/
def EngState.due (st : EngState) : Bool := st == .retireSched || st == .belowNow || st == .renewSched

/-- Some engine of a context is being programmed for an exchange. -/
def State.exchanging (s : State) (x : Nat) : Bool := s.engines.any (fun e =>
  match e.2.job with
  | some j => (match j.use with | .exchange y _ _ _ => y == x | _ => false)
  | none => false)

/-- A spare is being programmed to take the place of a logical engine of a context. -/
def State.exchangingOf (s : State) (x leng : Nat) : Bool := s.engines.any (fun e =>
  match e.2.job with
  | some j => (match j.use with | .exchange y l _ _ => y == x && l == leng | _ => false)
  | none => false)

/-- The spare takes the weights in slot 0, for a use; the slot is held until it is verified (R190). -/
def State.programSpare (s : State) (c sp w x bank leng : Nat) (use : JobUse) : State :=
  let s := (s.takeUp c sp).startJob c sp w (fun r col => s.payloadCode 0 w r col) use
  (s.modEng c sp (fun g => { g with owner := some (x, bank, leng), chrysalis := true })).useBlock c sp

/-- The block of a logical engine in a bank. -/
def Bank.blockOf (b : Bank) (c leng : Nat) : Option Nat := (List.range b.blocks.length).find? (fun i =>
  match b.blocks[i]? with
  | some k => k.core == c && k.leng == leng
  | none => false)

/-- A KEEP block of the standby bank treated as if it carried the payload: it goes to the spare. -/
def State.keepExchange (s : State) (x bank c leng sp : Nat) (done : Bool) : State :=
  match ((s.ctx x).bank bank).blockOf c leng with
  | none => s
  | some i =>
    let put := fun (n : Block) => { n with keep := false, eng := sp, started := true, verified := done }
    let s := s.modCtx x (fun k => k.modBank bank (fun b => { b with blocks := b.blocks.modify i put }))
    s.modCore c (fun k => k.setMap bank (Tab.set (k.map bank) leng sp))

/-- The retirement or renewal of an engine is dropped, since eclosion replaces the engine (R199). Below RETIRE_NOW it keeps its state and
with it the LOWCONF mark, until it is replaced (R91). -/
def State.dropDue (s : State) (c e : Nat) : State := if (s.eng c e).state == .belowNow then s else s.engState c e .inService

/-- What an engine that is due does while its context has a bank in construction or READY (R199). Where it does not take its weights now, a
transfer asked for them gives the staging slots back (R190). -/
def State.exchangeStandby (s : State) (x c e leng idx : Nat) (kind : Nat) : State :=
  let k := s.ctx x
  let bank := 1 - k.imago
  let b := k.bank bank
  match (b.blockOf c leng).bind (fun i => b.blocks[i]?.map (fun n => (i, n))) with
  | none => s.endRequest x k.imago idx
  | some (i, n) =>
      if !n.keep then ((s.endRequest x k.imago idx).dropDue c e).endExchange c e
      else if k.eclosion.isSome then s.endRequest x k.imago idx
      else
        match s.freeEngines c with
        | [] => ((s.endRequest x k.imago idx).waitExchange c e kind 1).scheduleReplace c 2
        | sp :: _ =>
          if s.blockHere x k.imago idx then
            let w := (s.eng c e).wfmt
            let s := s.programSpare c sp w x bank leng (.block x bank i)
            let s := s.keepExchange x bank c leng sp false
            let s := s.modCtx x (fun k => { (k.modBank bank (fun b => { b with state := .chrysalis })) with cmd := 2 })
            s.endExchange c e
          else (s.wantBlock x k.imago idx).waitExchange c e kind 0

/-- The bank under construction or READY replaces a logical engine's array. -/
def Ctx.replaces (k : Ctx) (c leng : Nat) : Bool :=
  let b := k.bank (1 - k.imago)
  (b.state == .chrysalis || b.state == .ready) && b.blocks.any (fun n => n.core == c && n.leng == leng && !n.keep)

/-- An engine below RETIRE_NOW that is to be exchanged and whose exchange has not begun. -/
def State.urgentDue (s : State) (c e : Nat) : Bool :=
  let g := s.eng c e
  g.state == .belowNow && !isSentinel c && !g.chrysalis &&
    (match g.owner with
     | some (x, bank, leng) => bank == (s.ctx x).imago && ((s.ctx x).bank bank).state == .imago && !s.exchangingOf x leng && !(s.ctx x).replaces c leng
     | none => false)

/-- The retirement of an engine below RETIRE_NOW goes ahead of every other retirement and renewal on its die (R91); one whose core has no
spare holds back those of its own core only (DESIGN CHOICE: log 163). -/
def State.urgentFirst (s : State) (c e : Nat) : Bool :=
  (s.eng c e).state != .belowNow && s.engines.any (fun g =>
    let o := g.1 / 50
    dieOf o == dieOf c && s.urgentDue o (g.1 % 50) && (o == c || !(s.freeEngines o).isEmpty))

/-- An engine that is due leaves its logical engine; a transfer asked for its weights ends where others go first (R91, R190). -/
def State.engineExchange (s : State) (c e : Nat) : State :=
  let g := s.eng c e
  match g.owner with
  | none => s
  | some (x, bank, leng) =>
    let k := s.ctx x
    let kind := if g.state = .renewSched then 2 else 1
    match (k.bank k.imago).indexOf c e with
    | none => s
    | some idx =>
      if isSentinel c || g.chrysalis || !g.state.due || bank != k.imago || (k.bank bank).state != .imago then s
      else if s.urgentFirst c e then s.endRequest x bank idx
      else
        match (k.bank (1 - bank)).state with
        | .empty =>
          if s.exchanging x then s.endRequest x bank idx
          else
            match s.freeEngines c with
            | [] => ((s.endRequest x bank idx).waitExchange c e kind 1).scheduleReplace c 2
            | sp :: _ =>
              if s.blockHere x bank idx then
                (s.programSpare c sp g.wfmt x (1 - bank) leng (.exchange x leng e (kind == 2))).endExchange c e
              else (s.wantBlock x bank idx).waitExchange c e kind 0
        | .draining => s.endRequest x bank idx
        | _ => s.exchangeStandby x c e leng idx kind

def execEngineExchange (c e : Nat) (s : State) : Out := .next (s.engineExchange c e)

/-- The standby bank becomes the imago's copy with one engine changed, and eclosion follows (R199): its other blocks keep their engines. The new
engine takes the row budget of the one it replaces, or that of the block where the core is still to take the imago's (R62). -/
def State.standbyCopy (s : State) (x c leng e : Nat) : State :=
  let k := s.ctx x
  let i := k.imago
  let b := k.bank i
  let due := (s.core c).ana.bankDue == some i
  let now := Tab.get 16 (s.core c).ana.budget (Tab.get 50 ((s.core c).map i) leng)
  let budget := match (b.blockOf c leng).bind (fun j => b.blocks[j]?) with
    | some n => if due then n.n else now
    | none => now
  let put := fun (n : Block) =>
    if n.core = c ∧ n.leng = leng then { n with eng := e, keep := false, verified := true, n := budget } else { n with keep := true }
  let s := s.modCore c (fun q => { q with ana := { q.ana with
    budget := Tab.set q.ana.budget e budget, budgetStaged := Tab.set q.ana.budgetStaged e budget } })
  let s := s.modCtx x (fun k => k.setBank (1 - i) { b with state := .ready, blocks := b.blocks.map put })
  let s := k.cores.foldl (fun s o =>
    let code := Mem.readBytes s.mem (planAddr o i 0) 0x8000
    (s.poke (planAddr o (1 - i) 0) code).modCore o (fun q =>
      (q.setMap (1 - i) (if o = c then Tab.set (q.map i) leng e else q.map i)).setHead (1 - i) (q.head i))) s
  (s.keep.plans.filter (fun p => p.ctx == x && p.bank == i)).foldl (fun s p => s.storePlan { p with bank := 1 - i }) s

/-- The spare of an exchange is ready. -/
def State.exchangeDone (s : State) (c e x leng old : Nat) (renewal : Bool) : State :=
  let k := s.ctx x
  let bank := 1 - k.imago
  let s := (s.modEng c e (fun g => { g with owner := some (x, bank, leng), chrysalis := false })).record (coreSource c) 0x0019
    [c + old * 65536 + e * 2 ^ 22 + boolNat renewal * 2 ^ 28, x + leng * 2 ^ 6]
  if (k.bank bank).state = .empty then (s.standbyCopy x c leng e).askEclosion x bank 0 (some (c, leng, e))
  else
    match ((k.bank bank).blockOf c leng).bind (fun i => (k.bank bank).blocks[i]?) with
    | some n =>
      if n.keep then s.keepExchange x bank c leng e true
      else (s.modEng c e Engine.freed).dropDue c old
    | none => s.modEng c e Engine.freed

/-! ## Readiness (R306-R308) -/

/-- Every block of a bank that is IMAGO or READY has been verified. -/
def Bank.checked (b : Bank) : Bool := !(b.state == .imago || b.state == .ready) || b.blocks.all (·.verified)

/-- The contexts of the sentinel cores (or of the compute dies) have every engine verified. -/
def State.allChecked (s : State) (sentinel : Bool) : Bool :=
  s.ctxs.all (fun x => x.2.sentinel != sentinel || (x.2.bank0.checked && x.2.bank1.checked))

/-- No context there still waits to be restored (R306 steps 6 and 8). -/
def State.allRestored (s : State) (sentinel : Bool) : Bool :=
  s.ctxs.all (fun x => x.2.sentinel != sentinel || (x.2.state != .verifying && x.2.state != .verifyHold))

/-- The two readiness points, once their conditions hold: every engine verified and every context restored. -/
def State.readiness (s : State) : State :=
  if !s.pwr.powerGood || !s.outs.driven then s
  else
    let us := (s.time.up - s.pwr.since) / 1000
    let s := if bit s.pwr.ready 1 || !s.allChecked true || !s.allRestored true then s
      else
        let s := { s with pwr := { s.pwr with ready := setBit s.pwr.ready 1 true, tSent := us },
                          outs := { s.outs with causeNow := setBit s.outs.causeNow 0 false } }
        s.clearCauses 1
    let dies := (List.range s.part.dies).all (fun d => Tab.get 0 s.pwr.dies d == 1)
    if bit s.pwr.ready 2 || !dies || !s.allChecked false || !s.allRestored false then s
    else { s with pwr := { s.pwr with ready := setBit s.pwr.ready 2 true, tCompute := us / 1000 } }

/-! ## The end of programming (R204, R93, R198, R209) -/

/-- A block has its weights. -/
def State.blockProgrammed (s : State) (x bank idx : Nat) : State :=
  let s := s.modCtx x (fun k => { (k.modBank bank (fun b => { b with blocks := b.blocks.modify idx (fun n => { n with verified := true }) })) with
    progress := k.progress + (if (k.bank bank).state = .chrysalis then 1 else 0) })
  if s.stage.install = some x ∧ s.stage.bank = bank then s.stageFlow.finishStage else s.readiness

/-- What a reprogrammed engine that left service becomes. -/
def State.requalified (s : State) (c e : Nat) : State :=
  let s := s.healthScore c e
  s.engState c e (if (s.eng c e).health.score < s.cfg 0x2800 9 then .dead else .spare)

/-- What a whole engine's programming was for. -/
def State.jobUsed (s : State) (c e : Nat) (use : JobUse) : State :=
  match use with
  | .block x bank idx => s.blockProgrammed x bank idx
  | .exchange x leng old renewal => s.exchangeDone c e x leng old renewal
  | .requalify => s.requalified c e
  | .core _ _ => s
  | .column _ _ => s

/-- Programming closes (R204 step 4): devices found stuck are compensated first, which may take more pulses; the test round waits while
the analogue timebase is on its pilot (R295), and nothing changes on an engine that an MVM holds (R24). -/
def State.engineProgrammed (s : State) (c e : Nat) : State :=
  let g := s.eng c e
  match g.job with
  | none => s
  | some j =>
    if j.step ≠ 4 ∨ j.granted ∨ s.engBusy c e then s
    else if !j.stuck.isEmpty then
      let r := j.compensate g
      s.setEng c e { g with job := some r.1, refMask := r.2 }
    else
      match j.use with
      | .column k col => (s.closeColumn c e k col j).doneBlock c e
      | use => if s.onPilot c then s else ((s.closeJob c e j).doneBlock c e).jobUsed c e use

def execEngineProgrammed (c e : Nat) (s : State) : Out := .next (s.engineProgrammed c e)

/-! ## Verification at power-up (R208, R209) -/

/-- A device's code over T_e, to a whole level. -/
def inferredLevel (te : Nat) (code : Int) : Int := roundAway (32768 * code) (32 * te)

/-- The codes of every device of an engine in a full survey, as a function of the device. -/
def Engine.survey (g : Engine) (x : Cond) (draw k : Nat) : Int := deviceCode g x k (draw + k)

/-- The inferred code of a physical pair. -/
def Engine.inferred (g : Engine) (x : Cond) (draw row p : Nat) : Int :=
  inferredLevel g.te (g.survey x draw (devKey row 0 p)) - inferredLevel g.te (g.survey x draw (devKey row 1 p))

/-- Every column quarter sums to its entry in the sum store. -/
def Engine.sumsAgree (g : Engine) (x : Cond) (draw : Nat) : Bool :=
  (List.range 512).all (fun i =>
    sumInt ((List.range 128).map (fun r => g.inferred x draw (i / 128 * 128 + r) (g.phys (i % 128)))) == Tab.get 0 g.sums i)

/-- CRC32C over the inferred codes of array and reference columns. -/
def Engine.inferredDigest (g : Engine) (x : Cond) (draw : Nat) : Nat :=
  crc32c ((List.range 512).flatMap (fun r => (List.range 132).map (fun c => BitVec.ofInt 8 (g.inferred x draw r (g.phys c)))))

/-- The code of row r, logical column c in the sentinel target store. -/
def State.storedCode (s : State) (c e wfmt r col : Nat) : Int :=
  let bs := Tab.get [] s.keep.targets (engKey c e)
  if wfmt = 0 then packedCode bs (r * 128 + col) else 16 * packedCode bs (r * 128 + 2 * col) + packedCode bs (r * 128 + 2 * col + 1)

/-- Every device lies within 25 % of Gmax of T_e times its target; stuck devices match the defect list. -/
def State.sentinelPass (s : State) (c e : Nat) (draw : Nat) : Bool :=
  let g := s.eng c e
  let x := s.cond c e
  let h := g.goalOf g.wfmt (s.storedCode c e g.wfmt)
  let listed := s.defects.filter (fun d => d.core == c && d.eng == e)
  let inList := fun (k l : Nat) => listed.any (fun d => d.dev == k && d.level == l)
  allDevices.all (fun k =>
    let m := g.survey x draw k
    match Tab.find g.stuck k with
    | some _ => inList k (stuckLevel m)
    | none => !(g.stokedCols.contains (devCol k)) || decide (100 * (32768 * m - 32 * (g.te : Int) * h.level k).natAbs ≤ 25 * 480 * 32768)) &&
    listed.all (fun d => (Tab.find g.stuck d.dev).isSome)

/-- An engine passes its verification; a sum that cannot be read agrees with none. -/
def State.verifyPass (s : State) (c e draw : Nat) : Bool :=
  let g := s.eng c e
  let x := s.cond c e
  if isSentinel c then s.sentinelPass c e draw else g.sumsBad.isEmpty && g.sumsAgree x draw && g.inferredDigest x draw == g.digest

/-- The test round sets T_e, and the correction tables follow it. -/
def State.verifyTe (s : State) (c e : Nat) : State :=
  (s.testNow c e).modEng c e (fun g => { ({ g with te := g.test.estimates.getLastD g.te }).retrack with test := { g.test with estimates := [] } })

/-- Devices outside STOKE_TOL flagged for stoking. -/
def State.flagDevices (s : State) (c e draw : Nat) : State :=
  let g := s.eng c e
  let x := s.cond c e
  let tol := s.cfg 0x2800 2
  let out := allDevices.filter (fun k =>
    g.stokedCols.contains (devCol k) && outOfTol g.te (g.level k) (g.survey x draw k) tol && !(Tab.find g.stuck k).isSome)
  s.setEng c e { g with stoke := { g.stoke with flagged := out } }

/-- An engine that fails is programmed again: from the image source, or from the sentinel target store. A context that FORCE_START starts
runs with every MVM of the engine marked LOWCONF, until it is reprogrammed. -/
def State.verifyFail (s : State) (c e x bank idx : Nat) : State :=
  let g := { s.eng c e with unverified := true }
  let s := s.setEng c e g
  let s := if (s.ctx x).state = .verifying then s.modCtx x (fun k => k.enter .verifyHold) else s
  if isSentinel c then s.startJob c e g.wfmt (s.storedCode c e g.wfmt) (.block x bank idx)
  else if s.blockHere x bank idx then
    (s.startJob c e g.wfmt (fun r col => s.payloadCode 0 g.wfmt r col) (.block x bank idx)).useBlock c e
  else s.wantBlock x bank idx

/-- The first bank of a context, IMAGO or READY, with a block on this engine that is not verified. -/
def State.unverifiedBlock (s : State) (c e : Nat) : Option (Nat × Nat × Nat) :=
  s.ctxs.findSome? (fun x => [0, 1].findSome? (fun b =>
    let k := x.2.bank b
    if k.state == .imago || k.state == .ready then
      ((List.range k.blocks.length).find? (fun i =>
        match k.blocks[i]? with
        | some n => n.core == c && n.eng == e && !n.verified
        | none => false)).map (fun i => (x.1, b, i))
    else none))

/-- Every block of a context on this engine is verified. -/
def Ctx.verified (k : Ctx) (c e : Nat) : Ctx :=
  let mark := fun (b : Bank) =>
    if b.state == .imago || b.state == .ready then
      { b with blocks := b.blocks.map (fun n => if n.core = c ∧ n.eng = e then { n with verified := true } else n) }
    else b
  { k with bank0 := mark k.bank0, bank1 := mark k.bank1 }

/-- A lower die with power still has an engine to be verified: compute engines are verified die by die, in ascending order (R306 step 8). -/
def State.lowerDieWaits (s : State) (c : Nat) : Bool :=
  !isSentinel c && s.ctxs.any (fun x => [x.2.bank0, x.2.bank1].any (fun b =>
    (b.state == .imago || b.state == .ready) && b.blocks.any (fun n =>
      !n.verified && decide (dieOf n.core < dieOf c) && Tab.get true s.pwr.coreRails (dieOf n.core) && !s.pwr.tried.contains (engKey n.core n.eng))))

/-- The power-up verification of an engine that no MVM holds (R24, R208): one that passes is out of suspicion, and a transfer asked for its
weights ends. -/
def State.engineVerify (s : State) (c e : Nat) : State :=
  match s.unverifiedBlock c e with
  | none => s
  | some (x, bank, idx) =>
    if s.lowerDieWaits c || (s.eng c e).job.isSome || s.engBusy c e || !s.pwr.powerGood || s.onPilot c || (!isSentinel c && Tab.get 0 s.pwr.dies (dieOf c) != 1) then s
    else
      let s := { s with pwr := { s.pwr with tried := insertNew s.pwr.tried (engKey c e) } }
      let s := s.verifyTe c e
      let draw := s.draws
      let ok := s.verifyPass c e draw
      let s := s.drawN (512 * 272)
      if ok then
        ((((s.modEng c e (fun g => { g with unverified := false })).flagDevices c e draw).endRequest x bank idx).modCtx x (fun k => k.verified c e)).readiness
      else s.verifyFail c e x bank idx

def execEngineVerify (c e : Nat) (s : State) : Out := .next (s.engineVerify c e)

/-! ## Contexts restored (R306 step 8, R307) -/

/-- Verified, the context is as it was: cores at rest get their plans and, where it ran, start. Cores of other dies that ran
on through the loss of one die's rail are left alone. Plans that the store could not hold are read again also while an engine that failed holds
the context (R306, R209). -/
def State.contextAutostart (s : State) (x : Nat) : State :=
  let k := s.ctx x
  let waits := k.state == .verifying || k.state == .verifyHold
  if !waits || !k.cores.all s.coreReady then s
  else if !(k.bank0.checked && k.bank1.checked) then
    match s.missingPlan x with
    | some p => if k.state == .verifyHold && !k.planMissing then s.askReplan x p.bank else s
    | none => s
  else
    let rest := k.cores.filter (fun c => (s.core c).atRest)
    let s := s.restoreCtx x rest
    match s.missingPlan x with
    | some p => s.askReplan x p.bank
    | none =>
      let s := (s.modCtx x (fun k => { k.enter .stopped with planMissing := false, restart := false })).fillPeers x
      let s := if k.restart then rest.foldl (fun s c => s.startCore x c) (s.modCtx x (fun k => k.enter .running)) else s
      s.readiness

def execContextAutostart (ctx : Nat) (s : State) : Out := .next (s.contextAutostart ctx)

/-! ## Replacement of a core (R174, R318-R320) -/

/-- CORE_REPLACE written. -/
def State.hostReplace (s : State) (v : Nat) : State := s.scheduleReplace (field v 0 16) 3

/-- A spare that fails its self-test. -/
def State.spareFails (s : State) (n cause : Nat) : State :=
  ({ (s.modCore n (fun k => { k with state := .dead })) with svc := { s.svc with spareCores := s.svc.spareCores.erase n } }).record
    (coreSource n) 0x001A [n + 0xFFFF * 65536, cause]

/-- The spare nearest to core o is powered on and tested, again while one fails. -/
def State.chooseSpare (s : State) (d o cause : Nat) : Nat → State
  | 0 => s
  | f + 1 =>
    let free := s.svc.spareCores.filter (fun c => dieOf c == d && (s.core c).state != .dead)
    match nearest (coreDistance false (o % 144 % 12) (o % 144 / 12)) free with
    | none => (s.modReplace d (fun r => { r with state := 3, old := o, cause := cause })).waitAction o 0 3 1
    | some n =>
      let ok := Config.coreSelfTest s.draws
      let s := s.draw
      if !ok then (s.spareFails n cause).chooseSpare d o cause f
      else
        let s := s.coreStart n
        let s := { s with svc := { s.svc with spareCores := s.svc.spareCores.erase n } }
        (s.modReplace d (fun r => { r with state := 1, old := o, new := n, cause := cause, map := [] })).endWait o 0 3

/-- The block of a physical engine: context, bank and directory index. -/
def State.blockAt (s : State) (x c e : Nat) : Option (Nat × Nat) :=
  [0, 1].findSome? (fun b => (((s.ctx x).bank b).indexOf c e).map (fun i => (b, i)))

/-- The block of a physical engine is one a bank under construction is to have programmed: the new core programs it anew (R199). -/
def State.inChrysalis (s : State) (x c e : Nat) : Bool :=
  [0, 1].any (fun b =>
    let k := (s.ctx x).bank b
    k.state == .chrysalis && k.blocks.any (fun n => n.core == c && n.eng == e && !n.keep))

/-- One more engine of the old core is programmed on the new one. -/
def State.replaceEngine (s : State) (d x e : Nat) : State :=
  let r := s.replace d
  match s.blockAt x r.old e, (s.freeEngines r.new).filter (fun n => !(r.map.any (fun m => m.2 == n))) with
  | some (bank, idx), n :: _ =>
    if s.blockHere x bank idx then
      let w := (s.eng r.old e).wfmt
      let s := (s.takeUp r.new n).startJob r.new n w (fun row col => s.payloadCode 0 w row col) (.core d e)
      (((s.modEng r.new n (fun g => { g with chrysalis := true })).useBlock r.new n).modReplace d (fun r =>
        { r with state := 1, map := Tab.set r.map e n })).endWait r.old 0 3
    else ((s.wantBlock x bank idx).modReplace d (fun r => { r with state := 4 })).waitAction r.old 0 3 0
  | _, _ => (s.modReplace d (fun r => { r with state := 3 })).waitAction r.old 0 3 1

/-- Memory as it stood in `old` copied from a to b; a poisoned word stays poisoned where it goes (R312). -/
def State.copyBytes (s old : State) (a b n : Nat) : State :=
  let hurt := old.svc.poison.filter (fun w => decide (a ≤ w) && decide (w < a + n))
  hurt.foldl (fun s w => s.poisonWord (w - a + b)) (s.poke b (Mem.readBytes old.mem a n))

/-- One plan bank and its preload go to the new core: from the plan store, or, where it does not hold them, from the old core's own plan bank
and activation buffer. -/
def State.copyBank (s : State) (o n bank : Nat) : State :=
  let k := s.core o
  match s.keep.plans.find? (fun p => k.ctx == some p.ctx && p.bank == bank && p.lcore == k.lcore) with
  | some p =>
    if p.marked then
      ((s.copyBytes s (planAddr o bank 0) (planAddr n bank 0) 0x8000).copyBytes s (abAddr o p.preloadLine) (abAddr n p.preloadLine) p.preload.length).modCore n
        (fun m => m.setHead bank (k.head bank))
    else (s.putPlan n bank p.header p.words).putPreload n p.preloadLine p.preload
  | none => (s.copyBytes s (planAddr o bank 0) (planAddr n bank 0) 0x8000).modCore n (fun m => m.setHead bank (k.head bank))

/-- An engine map of the old core under the engines of the new one. -/
def movedMap (map m : Tab Nat) : Tab Nat := m.map (fun e => (e.1, Tab.get e.2 map e.2))

/-- Plans, maps, headers and preloads of the old core go to the new one. -/
def State.copyPlans (s : State) (o n : Nat) (map : Tab Nat) : State :=
  let old := s.core o
  ((s.copyBank o n 0).copyBank o n 1).modCore n (fun k => { k with map0 := movedMap map old.map0, map1 := movedMap map old.map1 })

/-- Engines the old core's maps name that have no counterpart on the new core yet; those of a bank under construction are programmed anew. -/
def State.unmoved (s : State) (x : Nat) (r : Replace) : List Nat :=
  (s.core r.old).mapped.filter (fun e => (Tab.find r.map e).isNone && !s.inChrysalis x r.old e)

/-- The replacement in progress on a die goes on, or the next one begins. -/
def State.replaceStart (s : State) (d : Nat) : State :=
  let r := s.replace d
  if d = 4 then s
  else
    match r.state, r.queue with
    | 0, (o, cause) :: t => (s.modReplace d (fun r => { r with queue := t })).chooseSpare d o cause 9
    | 0, [] => s
    | 2, _ => s
    | _, _ =>
      if r.new = 0xFFFF then s.chooseSpare d r.old r.cause 9
      else
        match (s.core r.old).ctx with
        | none => s
        | some x =>
          match s.unmoved x r with
          | e :: _ => s.replaceEngine d x e
          | [] =>
            let k := s.ctx x
            if r.map.any (fun m => (s.eng r.new m.2).job.isSome) || k.bank0.state == .draining || k.bank1.state == .draining ||
                k.eclosion.isSome || !s.coreReady r.new then s
            else
              let e := s.eclosionE x
              let s := (s.copyPlans r.old r.new r.map).modSeq r.old (fun q => { q with armed := some (k.imago, e) })
              s.modReplace d (fun r => { r with state := 2, e := e })

def execCoreReplaceStart (die : Nat) (s : State) : Out := .next (s.replaceStart die)

/-- The old core holds BATCH E, or is at rest, with no op in flight. -/
def State.heldAt (s : State) (o e : Nat) : Bool :=
  let k := s.core o
  k.seq.ops.isEmpty && (k.atRest || (k.state == .running && k.seq.batchNo == e && opcodeOf (s.planWord o) == 0x08))

/-- Frames on their way to the old core go to the new one, whose role epoch is e. -/
def FrameMsg.moved (f : FrameMsg) (o n e : Nat) : FrameMsg := if f.core = o then { f with core := n, epoch := e } else f

/-- Peer slots that name the old core name the new one, with the epochs as they stand; posts to it and credits from it are the new core's
then, which has its ops (R147, R319). -/
def State.movePeers (s : State) (o n : Nat) : State :=
  let ep := (s.core n).comm.epoch
  let one := fun (p : Peer) => if p.core = o ∧ p.binding = none then { p with core := n, epoch := ep } else p
  { s with cores := s.cores.map (fun e => (e.1, { e.2 with comm := { e.2.comm with
    peers := e.2.comm.peers.map (fun p => (p.1, one p.2)),
    posts := e.2.comm.posts.map (fun p => if p.peer = o then { p with peer := n } else p),
    credits := e.2.comm.credits.map (fun x => if x.peer = o then { x with peer := n } else x) } })) }

/-- The blocks of a bank on the old core are on the new one, but for those it programs anew. -/
def Bank.moved (b : Bank) (o n : Nat) (map : Tab Nat) : Bank :=
  let anew := fun (k : Block) => b.state == .chrysalis && !k.keep
  { b with blocks := b.blocks.map (fun k =>
      if k.core = o ∧ !anew k then { k with core := n, eng := Tab.get k.eng map k.eng, started := true, verified := true } else k) }

/-- Blocks of the old core given engines of the new one, lowest first, to be programmed from their payloads in the ring or, where a
payload has left it, from their source (R198, R199). -/
def rebind (o n : Nat) (left : Block → Bool) : List Block → List Nat → List Block
  | [], _ => []
  | k :: t, free =>
    if k.core = o ∧ !k.keep then
      { k with core := n, eng := free.headD 0, started := false, verified := false, again := left k } :: rebind o n left t free.tail
    else k :: rebind o n left t free

/-- The bank under construction moves its blocks from the old core: their engines there are free, and those here are being built. With too few
free engines here the installation fails (R198). -/
def State.rebuild (s : State) (x o n : Nat) : State :=
  let k := s.ctx x
  let i := if k.bank0.state == .chrysalis then 0 else 1
  let b := k.bank i
  if b.state != .chrysalis then s
  else
    let mine := b.blocks.filter (fun m => m.core == o && !m.keep)
    let s := mine.foldl (fun s m => ((((s.endPulses o m.eng).doneBlock o m.eng).endWaits o m.eng).modEng o m.eng Engine.freed).markBudget) s
    let t := s.stage
    let left := fun (m : Block) => t.install != some x || decide (t.payloadOff + m.payload * payloadLen < t.head)
    if !s.hasRoom n mine.length then s.failPlan x resCapacity
    else
    let blocks := rebind o n left b.blocks (s.freeEngines n)
    let lost := (mine.filter (·.verified)).length
    let s := s.modCtx x (fun k => { (k.modBank i (fun b => { b with blocks := blocks })) with progress := k.progress - lost })
    ((blocks.filter (fun m => m.core == n && !m.started && !m.keep)).foldl (fun s m => s.bindBlock x i m) s).stageFlow

/-- Registers, tags, maps and memory of the old core go to the new one, as they stand now; the new core keeps its epoch and its converters'
READ_SCALE. -/
def State.copyCore (s : State) (o n : Nat) (map : Tab Nat) : State :=
  let old := s
  let s := s.copyPlans o n map
  let a := s.core o
  let b := s.core n
  let budget := fun (t : Tab Nat) => t.map (fun e => (Tab.get e.1 map e.1, e.2))
  let ana := { b.ana with budget := budget a.ana.budget, budgetStaged := budget a.ana.budgetStaged, bankDue := a.ana.bankDue,
                          pending := a.ana.pending || b.ana.pending, thresh := a.ana.thresh, repeats := a.ana.repeats }
  let comm := { a.comm with epoch := b.comm.epoch, crossing := b.comm.crossing }
  let k := { a with comm := comm, ana := ana, map0 := b.map0, map1 := b.map1, head0 := b.head0, head1 := b.head1, seq := { a.seq with armed := none } }
  (s.copyBytes old (coreBase o) (coreBase n) 0xC0000).setCore n k

/-- The engines of the old core are free; those of the new one belong to the context. -/
def State.moveOwners (s : State) (o n : Nat) (map : Tab Nat) : State :=
  map.foldl (fun s m =>
    let old := s.eng o m.1
    let s := s.modEng n m.2 (fun g => { g with owner := old.owner, chrysalis := old.chrysalis })
    ((s.endWaits o m.1).modEng o m.1 Engine.freed).markBudget) s

/-- The old core is reset, which raises its epoch once more (R126), and tested: a spare, or dead. -/
def State.retireCore (s : State) (o : Nat) : State :=
  let ok := Config.coreSelfTest s.draws
  let s := (s.draw.coreOff o).raiseEpoch o
  if ok then { s with svc := { s.svc with spareCores := s.svc.spareCores ++ [o] } } else s.modCore o (fun k => { k with state := .dead })

/-- The switch, once the old core is held at BATCH E. Where its maps have come to name an engine that the new core does not hold yet, the old
core goes on and the switch waits for that engine. -/
def State.replaceSwitch (s : State) (d : Nat) : State :=
  let r := s.replace d
  match (s.core r.old).ctx with
  | none => s
  | some x =>
    if r.state ≠ 2 ∨ !s.heldAt r.old r.e then s
    else if !(s.unmoved x r).isEmpty then
      (s.modSeq r.old (fun q => { q with armed := none })).modReplace d (fun r => { r with state := 1 })
    else
      let o := r.old
      let n := r.new
      let s := s.copyCore o n r.map
      let s := s.modCtx x (fun k => { k with cores := k.cores.map (fun c => if c = o then n else c), bank0 := k.bank0.moved o n r.map, bank1 := k.bank1.moved o n r.map })
      let s := ((s.moveOwners o n r.map).rebuild x o n).modComm n (fun m => { m with epoch := nextEpoch m.epoch })
      let s := ((s.modComm o (fun m => { m with epoch := nextEpoch m.epoch })).movePeers o n).announceEpoch n
      let e := (s.core n).comm.epoch
      let s := { s with net := { s.net with frames := s.net.frames.map (fun (f : FrameMsg) => f.moved o n e) } }
      let s := ((s.retireCore o).record (coreSource o) 0x001A [o + n * 65536, r.cause]).bump 0x2C10 6
      (s.modReplace d (fun q => { Replace.reset with queue := q.queue })).endWait o 0 3

def execCoreReplaceSwitch (die : Nat) (s : State) : Out := .next (s.replaceSwitch die)

end Sys2Proof.Machine
end

