-- ==== Sys2Proof/Machine/Access.lean ====
section
/-! DEFINITION. Accesses of the hub masters to the system address map (R266, R276, R278), calibration tables (R280). -/

namespace Sys2Proof.Machine

/-! ## Calibration brought back (R280) -/

/-- CAL_RESTORE (Table 10.13): factory values, those of an ideal part, come back. -/
def State.calRestore (s : State) (v : Nat) : State :=
  let trims := fun (s : State) => { s with trims := s.trims.filter (fun t => !(decide (0x0A000000 ≤ t.1) && decide (t.1 < 0x0A010000))) }
  match field v 0 2 with
  | 0 => trims (s.restoreEngines (fun _ => true))
  | 1 => s.restoreEngines (fun c => c == field v 2 16)
  | _ => trims s

/-! ## The system address map (Table 10.7) -/

/-- The location belongs to a die that is not fitted. -/
def State.absentAddr (s : State) (a : Nat) : Bool :=
  if 0x40000000 ≤ a then !s.present ((a - 0x40000000) / 0x200000)
  else if 0x06200000 ≤ a ∧ a < 0x06300000 then decide (s.part.dies ≤ (a - 0x06200000) / 0x40000)
  else if 0x08000000 ≤ a ∧ a < 0x09C84000 then !s.present ((a - 0x08000000) / 0x400 / 50)
  else if 0x0A010000 ≤ a ∧ a < 0x0A010920 then !s.present ((a - 0x0A010000) / 4)
  else false

/-- Where the locations of dies that are not fitted lie on the map: from, and up to. -/
def State.absentRanges (s : State) : List (Nat × Nat) :=
  let n := s.part.dies
  [(coreBase (144 * n), coreBase 576), (0x06200000 + n * 0x40000, 0x06300000), (0x08000000 + 144 * n * 0xC800, 0x08000000 + 576 * 0xC800),
   (0x0A010000 + 4 * 144 * n, 0x0A010000 + 4 * 576)]

/-- A range without what of it lies between lo and hi. -/
def cutOut (lo hi : Nat) (p : Nat × Nat) : List (Nat × Nat) :=
  if p.1 + p.2 ≤ lo ∨ hi ≤ p.1 then [p]
  else (if p.1 < lo then [(p.1, lo - p.1)] else []) ++ (if hi < p.1 + p.2 then [(hi, p.1 + p.2 - hi)] else [])

/-- The parts of a range whose locations are there: each an address and a length. -/
def State.presentParts (s : State) (a n : Nat) : List (Nat × Nat) :=
  s.absentRanges.foldl (fun l r => l.flatMap (cutOut r.1 r.2)) [(a, n)]

/-- The die whose sync store holds a location. -/
def storeDie (a : Nat) : Option Nat := if 0x06200000 ≤ a ∧ a < 0x06300000 then some ((a - 0x06200000) / 0x40000) else none

/-- What passes between the hub and a location of a die's sync store meets an unmet ratio at the die's bridge (R290). -/
def State.storeAcross (s : State) (a : Nat) : Bool := match storeDie a with | some d => s.storeUnmet 4 d | none => false

/-- A byte of the map as a host reads it; one that crosses a boundary whose ratio is not met is free (R290; DESIGN CHOICE: log 159). -/
def State.sysByte (s : State) (a : Nat) : Byte :=
  if s.absentAddr a then 0
  else if (s.shutDie a).isSome then poisonByte a
  else if s.storeAcross a then Config.unmetByte s.draws a (s.byte a)
  else if 0x40000000 ≤ a then s.coreByte ((a - 0x40000000) / 0x200000) (a % 0x200000)
  else if 0x06100000 ≤ a ∧ a < 0x06120000 ∧ !s.clocked 12 then 0
  else if calRange a then BitVec.ofNat 8 (s.calWord (a / 4 * 4) / 256 ^ (a % 4))
  else if 0x06000000 ≤ a ∧ a < 0x06100000 then
    (match s.defects[(a - 0x06000000) / 8]? with
     | some d => BitVec.ofNat 8 (d.word / 256 ^ (a % 8))
     | none => 0)
  else s.byte a

def State.sysBytes (s : State) (a n : Nat) : List Byte := (List.range n).map (fun i => s.sysByte (a + i))

/-- Sync objects that a write touches keep to the fields of Table 4.6, over what they held before it. -/
def State.keepSyncFields (s old : State) (a n : Nat) : State :=
  if 0x06200000 ≤ a ∧ a < 0x06310000 then
    (touchedWords a n).foldl (fun s w =>
      let o := (w - 0x06200000) / 4
      s.setSync o (syncWritten (old.sync o) (s.sync o))) s
  else s

/-- Sync objects whose word a write touches: WAITs see the new word. -/
def State.seeWords (s : State) (a n : Nat) : State :=
  if 0x06200000 ≤ a ∧ a < 0x06310000 then
    (touchedWords a n).foldl (fun s w =>
      let o := (w - 0x06200000) / 4
      { s with cores := s.cores.map (fun e => (e.1, e.2.seeSync o (s.sync o))) }) s
  else s

/-- A write that reaches memory or a sync store. -/
def State.placeWrite (s : State) (a : Nat) (data : List Byte) : State := ((s.poke a data).keepSyncFields s a data.length).seeWords a data.length

/-- A write of hub memory, or over its die's bridge of a die sync store. -/
def State.storeWrite (s : State) (a : Nat) (data : List Byte) : State :=
  match storeDie a with
  | some d => (s.crossed 4 d (1 + ceilDiv data.length 64)).overBridge (s.storeUnmet 4 d) (fun s => s.placeWrite a data)
  | none => s.placeWrite a data

/-- A write of a range that is inside one area of the map: dropped and counted at a die's closed crossing; rings, Ashpit and defect list are read-only. -/
def State.sysWrite (s : State) (engineer : Bool) (a : Nat) (data : List Byte) : State :=
  if s.absentAddr a then s
  else if 0x06100000 ≤ a ∧ a < 0x06120000 ∧ !s.clocked 12 then s
  else match s.shutDie a with
  | some d => s.bump (0x2210 + d) 6
  | none =>
  if calRange a then (if engineer then s.calBytes a data else s)
  else if 0x40000000 ≤ a then s.coreWrite ((a - 0x40000000) / 0x200000) (a % 0x200000) data
  else if (0x04000000 ≤ a ∧ a < 0x06100000) then s
  else s.storeWrite a data

/-- A write that may run over several cores' spaces or other areas goes in pieces of 4 KiB. Each is a write of its own, and HOST_DISCARD
counts each that meets what is locked (DESIGN CHOICE: log 37). -/
def State.sysPieces (s : State) (engineer : Bool) (a : Nat) (data : List Byte) : Nat → State
  | 0 => s
  | f + 1 =>
    let n := 0x1000 - a % 0x1000
    if data.length ≤ n then s.sysWrite engineer a data
    else (s.sysWrite engineer a (data.take n)).sysPieces engineer (a + n) (data.drop n) f

/-- A write of any range: what lies at an absent die is discarded, and the rest written (Table 10.7). -/
def State.sysWriteAll (s : State) (engineer : Bool) (a : Nat) (data : List Byte) : State :=
  (s.presentParts a data.length).foldl (fun s p => s.sysPieces engineer p.1 ((data.drop (p.1 - a)).take p.2) (p.2 / 0x1000 + 2)) s

/-! ## Masters (R276, R278) -/

/-- Whether a hub master may make an access: one window covers all of it that is there. Locations of absent dies are no violation
(Table 10.7). -/
def State.masterMay (s : State) (m a n : Nat) (write : Bool) : Bool :=
  if m = 3 then decide (a + n ≤ s.cfg 0x2700 0x0E * 65536)
  else mappedRange a n && 
    (List.range 16).any (fun i => (s.presentParts a n).all (fun p => windowCovers (s.cfg (0x2B10 + m) (i + 1)) p.1 p.2 write))

/-- A hub master is frozen by an access outside its windows. -/
def State.freezeMaster (s : State) (m a : Nat) (write : Bool) : State :=
  let gtc := s.time.gtc
  ((s.modMaster m (fun k => { k with frozen := true, violation := a % 2 ^ 32 + boolNat write * 2 ^ 32, violationGtc := gtc })).record
    (masterSource m) 0x0023 [a % 2 ^ 32, boolNat write]).msix 2

/-- A request of a frozen master is held, at most 64; further ones are dropped and counted. -/
def State.hold (s : State) (m : Nat) (r : HeldReq) : State :=
  if (s.master m).held.length < 64 then s.modMaster m (fun k => { k with held := k.held ++ [r] }) else s.bump (0x2B10 + m) 0x15

/-- The session is at Engineer or above. -/
def State.isEngineer (s : State) (ses : Ses) : Bool := decide (2 ≤ (s.session ses).level)

/-- A write of a hub master: made, or the master freezes and the write is held. -/
def State.masterWrite (s : State) (m : Nat) (ses : Ses) (a : Nat) (data : List Byte) : State :=
  let held : HeldReq := ⟨a, true, data.length, data, ses, none, none, none⟩
  if (s.master m).frozen then s.hold m held
  else if s.masterMay m a data.length true then s.sysWriteAll (s.isEngineer ses) a data
  else (s.freezeMaster m a true).hold m held

end Sys2Proof.Machine
end

