-- ==== Sys2Proof/Machine/Time.lean ====
section
/-! DEFINITION. Time and phase: discipline of the GTC, latches, trackers, phase marks, the decision watchdog (R211-R226). -/

namespace Sys2Proof.Machine

/-! ## The GTC (R213-R217) -/

def GtcState.code (m : GtcState) : Nat :=
  match m with
  | .free => 0
  | .acquire => 1
  | .locked => 2
  | .holdover => 3
  | .coarse => 4
  | .pilot => 5

/-- A change of state, recorded with source 0x0001. -/
def State.setGtcMode (s : State) (m : GtcState) : State :=
  if s.time.mode = m then s
  else
    let old := s.time.mode.code
    ({ s with time := { s.time with mode := m, good := 0, outliers := 0 } }).record 1 0x0006 [m.code, old]

/-- TIME_SOURCE has taken a new value at a commit. COARSE and PILOT go on; the new state follows them. -/
def State.timeSourceSet (s : State) : State :=
  let m : GtcState := if s.cfg 0x2300 2 = 0 then .free else .acquire
  let s := { s with time := { s.time with lastRef := 0, integral := 0, lastSeen := s.time.up, lastDc := 0, cmpDc := 0, cycle := 0 } }
  if s.time.mode = .coarse ∨ s.time.mode = .pilot then { s with time := { s.time with prev := m } } else s.setGtcMode m

/-- The reference time of an event: DC system time plus DC_OFFSET, or the whole second nearest the latched GTC. -/
def State.refTime (s : State) (dc : Nat) : Int :=
  if s.cfg 0x2300 2 = 1 then (dc : Int) + toSigned 64 (s.cfg 0x2300 0x0A) else roundAway s.time.gtc 1000000000 * 1000000000

/-- The correction of R215 for an offset, an integral and a comparison interval. -/
def rateOf (offset integral : Int) (tcmp : Nat) : Int :=
  clampInt (-100000) 100000 (roundAway (offset * 16000 + integral * 1000) (16 * tcmp))

/-- One comparison in ACQUIRE or LOCKED. -/
def State.compareRef (s : State) (offset : Int) (tcmp : Nat) : State :=
  let t := s.time
  let win := s.cfg 0x2300 6
  if t.mode = .locked ∧ 10 * win < offset.natAbs then
    let s := { s with time := { t with offset := offset, outliers := t.outliers + 1 } }
    if 3 ≤ t.outliers + 1 then s.setGtcMode .acquire else s
  else
    let integral := t.integral + offset
    let rate := rateOf offset integral tcmp
    let good := if offset.natAbs ≤ win then t.good + 1 else 0
    let rates := t.rates ++ [rate]
    let s := { s with time := { t with offset := offset, outliers := 0, integral := integral, rate := rate, good := good,
                                       rates := rates.drop (rates.length - 64) } }
    if t.mode = .acquire ∧ 16 ≤ good then s.setGtcMode .locked else s

/-- The SYNC0 cycle after a gap between two events: the gap, or the part of it that one cycle takes where events are missing in
between (DESIGN CHOICE: log 117). -/
def nextCycle (cycle gap : Nat) : Nat := if cycle = 0 then gap else gap / max 1 ((2 * gap + cycle) / (2 * cycle))

/-- A reference event as it is seen: when it came, and for a SYNC0 event its DC time and the cycle since the one before. -/
def State.seeRef (s : State) (dc : Nat) : State :=
  let t := s.time
  if s.cfg 0x2300 2 = 1 then
    { s with time := { t with lastSeen := t.up, lastDc := dc, cycle := if t.lastDc = 0 then t.cycle else nextCycle t.cycle (dc - t.lastDc) } }
  else { s with time := { t with lastSeen := t.up } }

/-- The event is compared: SYNC0 cycles of 31.25 µs to 100 ms are accepted, and with cycles shorter than 1 ms only one event
per millisecond is compared. -/
def State.refAccepted (s : State) (dc : Nat) : Bool :=
  let t := s.time
  if s.cfg 0x2300 2 = 1 then
    decide (31250 ≤ t.cycle) && decide (t.cycle ≤ 100000000) && (decide (1000000 ≤ t.cycle) || decide (1000000 ≤ dc - t.cmpDc))
  else true

/-- An event in ACQUIRE or LOCKED: the first one starts the interval of the next comparison. -/
def State.disciplineBy (s : State) (dc : Nat) : State :=
  let now := s.time.up
  let last := s.time.lastRef
  let at_ : State := { s with time := { s.time with lastRef := now, cmpDc := dc } }
  if last = 0 then at_
  else if now - last = 0 ∨ !s.refAccepted dc then s
  else at_.compareRef (s.refTime dc - s.time.gtc) (now - last)

/-- A reference event (R215). In HOLDOVER the source has returned, and the cycle is found anew. -/
def State.referenceEvent (s : State) (dc : Nat) : State :=
  if s.cfg 0x2300 2 = 0 then s
  else
    let s := s.seeRef dc
    match s.time.mode with
    | .holdover => ({ s with time := { s.time with lastRef := s.time.up, cmpDc := dc, cycle := 0 } }).setGtcMode .acquire
    | .acquire => s.disciplineBy dc
    | .locked => s.disciplineBy dc
    | _ => s

def execReferenceEvent (refTime : Nat) (s : State) : Out := .next (s.referenceEvent refTime)

/-- The mean correction over the last 64 comparisons. -/
def TimeBase.meanRate (t : TimeBase) : Int := if t.rates.isEmpty then 0 else roundAway (sumInt t.rates) t.rates.length

/-- DC is inactive in the slave controller: without its clock, or as the EtherCAT master has set the controller, which the spec
does not give (free value, log 117). -/
def State.dcInactive (s : State) : Bool := s.cfg 0x2300 2 == 1 && (!s.clocked 0 || Config.dcInactive s.draws)

/-- No reference event for four SYNC0 cycles, or for 1.5 s. Before two SYNC0 events have given the cycle, the longest accepted
cycle stands for it (log 117). -/
def State.sourceMissing (s : State) : Bool :=
  let t := s.time
  let limit := if s.cfg 0x2300 2 = 1 then 4 * (if t.cycle = 0 then 100000000 else t.cycle) else 1500000000
  s.cfg 0x2300 2 != 0 && decide (limit ≤ t.up - t.lastSeen)

/-- The source is lost: HOLDOVER with the mean correction held. -/
def State.sourceLost (s : State) : State :=
  if (s.sourceMissing ∨ s.dcInactive) ∧ (s.time.mode = .acquire ∨ s.time.mode = .locked) then
    let gtc := s.time.gtc
    let s : State := { s with time := { s.time with rate := s.time.meanRate, holdoverSince := gtc } }
    (s.bump 0x2300 8).setGtcMode .holdover
  else s

def execSourceLost (s : State) : Out := .next s.sourceLost.draw

/-- A LATCH0 or LATCH1 edge, stamped in DC time and in GTC. -/
def State.latchEdge (s : State) (n dc : Nat) : State :=
  if n = 0 then { s with time := { s.time with latch0 := s.time.gtc, dcLatch0 := dc } }
  else { s with time := { s.time with latch1 := s.time.gtc, dcLatch1 := dc } }

def execLatch (n dcTime : Nat) (s : State) : Out := .next (s.latchEdge n dcTime)

/-- Some context is running. -/
def State.anyRunning (s : State) : Bool := s.ctxs.any (fun x => x.2.state == .running)

/-- A sample grid after the GTC was set: grid instants that lie ahead again are taken again (R214, R244). -/
def Dac.regrid (d : Dac) (now : Nat) : Dac := { d with lastInstant := min d.lastInstant now, gridFrom := min d.gridFrom now }

/-- STEP_REQ written (R214). -/
def State.stepGtc (s : State) (v : Int) : State :=
  let s := { s with time := { s.time with gtc := ((s.time.gtc : Int) + v).toNat } }
  let now := s.time.gtc
  (List.range 16).foldl (fun s ch => s.modDac ch (fun d => d.regrid now)) s

/-! ## Phase marks (R221) -/

def trkIdx (t : Nat) : Nat := 0x2310 + t

/-- The members of a frame group: channels, and auxiliary inputs. -/
def State.fgChans (s : State) (g : Nat) : List Nat := (List.range 96).filter (fun c => bit (s.cfg (0x2480 + g) (c / 32 + 1)) (c % 32))
def State.fgAux (s : State) (g : Nat) : List Nat := (List.range 16).filter (fun a => bit (s.cfg (0x2480 + g) 4) a)

def State.fg (s : State) (g : Nat) : Group := Tab.get Group.reset s.meas.groups g
def State.modFg (s : State) (g : Nat) (f : Group → Group) : State :=
  { s with meas := { s.meas with groups := Tab.set s.meas.groups g (f (s.fg g)) } }
def State.aux (s : State) (a : Nat) : Aux := Tab.get Aux.reset s.meas.auxs a
def State.modAux (s : State) (a : Nat) (f : Aux → Aux) : State :=
  { s with meas := { s.meas with auxs := Tab.set s.meas.auxs a (f (s.aux a)) } }

/-- MCLK pin and R of a channel. -/
def State.chWindow (s : State) (c : Nat) : Nat × Nat := (s.cfg (0x2400 + c) 2, s.cfg (0x2400 + c) 4)

/-- A decimation window of the channel begins at a restart: no bit of it has come, and nothing of the abandoned one is left. -/
def Channel.restart (k : Channel) (now : Nat) : Channel := { k with winAt := now, windows := 0, winBits := 0, spoiled := false, run := 0 }

/-- The decimation windows of the enabled channels on some pins and R restart (R235). A cause that still stands spoils the new window
as it spoils every other (R233). -/
def State.restartWindows (s : State) (on : Nat × Nat → Bool) : State :=
  let now := s.time.up
  (List.range 96).foldl (fun s c =>
    if s.cfg (0x2400 + c) 1 ≠ 0 ∧ on (s.chWindow c) then s.modChan c (fun k => k.restart now) else s) s

/-- A mark occurrence starts a frame of a group in mark mode; one still open is abandoned (R239). Every channel that decimates in
the windows of its members restarts with them; the members' first two results are discarded. -/
def State.restartGroup (s : State) (g : Nat) : State :=
  let s := if (s.fg g).opened then s.bump (0x2480 + g) 0x10 else s
  let ws := (s.fgChans g).map s.chWindow
  let s := s.restartWindows (fun w => ws.contains w)
  let s := (s.fgChans g).foldl (fun s c => s.modChan c (fun k => { k with skip := 2, fresh := [] })) s
  let s := (s.fgAux g).foldl (fun s a => s.modAux a (fun k => { k with fresh := [] })) s
  s.modFg g (fun k => { k with opened := true })

/-- D of the group an auxiliary input belongs to. -/
def State.auxDepth (s : State) (a : Nat) : Nat :=
  match (List.range 16).find? (fun g => (s.fgAux g).contains a) with
  | some g => s.cfg (0x2480 + g) 5
  | none => 1

/-- A sample instant of a channel clocked by a mark: one less than 2 µs after the last is ignored and counted (R244). -/
def State.markInstant (s : State) (ch : Nat) : State :=
  let now := s.time.gtc
  let up := s.time.up
  s.modDac ch (fun d =>
    if (match d.lastAt with | some t => decide (up < t + 2000) | none => false) then { d with ignored := d.ignored + 1 }
    else { d with due := true, lastInstant := now, lastAt := some up })

/-- The four converters begin their cycles over the enabled inputs at a mark (R237). -/
def State.startConvs (s : State) : State :=
  { s with meas := { s.meas with convs := (List.range 4).map (fun k => (k, ⟨none, some s.time.up⟩)) } }

/-- What waits for an occurrence of mark i. -/
def State.markFires (s : State) (i : Nat) : State :=
  let s := (List.range 16).foldl (fun s ch =>
    let v := s.cfg (dacIdx ch) 3
    if bit v 0 && field v 1 6 == i then s.markInstant ch else s) s
  let s := (List.range 16).foldl (fun s g =>
    let v := s.cfg (0x2480 + g) 7
    if bit v 0 && field v 1 6 == i && (s.fg g).state == 1 then s.restartGroup g else s) s
  let v := s.cfg 0x2470 0x0A
  let s := if bit v 0 && field v 1 6 == i then
      (List.range 16).foldl (fun s a => if s.cfg (0x2460 + a) 1 = 1 then s.modAux a (fun k => { k with cycles := s.auxDepth a }) else s) s.startConvs
    else s
  let req := s.sets.commitReq.map (fun r => if r.when_ = 1 ∧ r.mark = i then { r with due := true } else r)
  let ecl := fun (k : Ctx) => { k with eclosion := k.eclosion.map (fun q => if q.when_ = 2 ∧ q.mark = i then { q with due := true } else q) }
  let mk := s.cfg 0x2D00 8
  let seen := s.mirror.markSeen || (s.mirror.awaitMark && field mk 1 6 == i)
  { s with sets := { s.sets with commitReq := req }, ctxs := s.ctxs.map (fun x => (x.1, ecl x.2)), mirror := { s.mirror with markSeen := seen } }

/-- Occurrences of a mark that a phase crosses going forward from p by adv: those in (p, p + adv]. -/
def crossings (mark p adv : Nat) : Nat :=
  let m := 2 ^ (32 - field mark 36 4)
  let d := (p + 2 ^ 32 - field mark 0 32) % m
  (d + adv) / m

/-- The marks of tracker t that fire when its phase moves. -/
def State.fireMarks (s : State) (t p adv : Nat) : State :=
  (List.range 64).foldl (fun s i =>
    let mark := s.cfg 0x2320 (i + 1)
    if bit mark 40 && field mark 32 3 == t then (List.range (crossings mark p adv)).foldl (fun s _ => s.markFires i) s else s) s

/-! ## Trackers (R219, R220) -/

def TrkState.code (m : TrkState) : Nat :=
  match m with
  | .off => 0
  | .acquiring => 1
  | .locked => 2
  | .holdover => 3

/-- A change of state, recorded; entries to HOLDOVER are counted. -/
def State.setTrk (s : State) (t : Nat) (m : TrkState) : State :=
  let old := (s.trk t).state
  if old = m then s
  else
    let s := s.modTrk t (fun k => { k with state := m, good := 0 })
    let s := if m = .holdover then s.bump (trkIdx t) 0x0C else s
    s.record (2 + t) 0x0006 [m.code, old.code]

/-- The frequency a tracker advances at, in mHz. -/
def State.trkSpeed (s : State) (t : Nat) : Int :=
  let k := s.trk t
  match k.state with
  | .off => 0
  | .holdover => if k.below then s.cfg (trkIdx t) 3 else clampInt (s.cfg (trkIdx t) 3) (s.cfg (trkIdx t) 4) k.holdFreq.natAbs
  | _ => k.freq

/-- WAITPHs on a tracker take in its advance; those that have reached their target complete (R149). -/
def State.waitphAdvance (s : State) (t : Nat) (adv : Int) : State :=
  let move : Op → Op := fun o => match o.body with
    | .waitph k need done => if k = t then { o with body := .waitph k need (done + adv) } else o
    | _ => o
  let put : Core → Core := fun k => { k with seq := { k.seq with ops := k.seq.ops.map move } }
  let s : State := { s with cores := s.cores.map (fun e => (e.1, put e.2)) }
  let met : Op → Bool := fun o => match o.body with
    | .waitph k need d => k == t && decide ((need : Int) ≤ d)
    | _ => false
  let done := s.cores.filterMap (fun (e : Nat × Core) => (e.2.seq.ops.find? met).map (fun o => (e.1, o)))
  done.foldl (fun s c => s.completeOp c.1 c.2 0) s

/-- The phase moves: marks crossed forward fire, WAITPHs follow. -/
def State.movePhase (s : State) (t : Nat) (adv : Int) : State :=
  let p := s.phaseOf t
  let s := s.modTrk t (fun k => { k with phase := ofSigned 32 ((k.phase : Int) + adv) })
  let s := if 0 < adv then s.fireMarks t p adv.toNat else s
  s.waitphAdvance t adv

/-- The input is there at all: an enabled channel or auxiliary input whose domain's clock runs, the encoder and carrier inputs'
clock (R288); in the watch state every input is off (R301). -/
def State.trkInputOk (s : State) (t : Nat) : Bool :=
  let i := s.cfg (trkIdx t) 2
  !s.pwr.watch && match s.cfg (trkIdx t) 1 with
  | 1 => decide (i < 96) && s.cfg (0x2400 + i) 1 != 0 && s.clocked (if i < 48 then 8 else 9)
  | 2 => decide (i < 16) && s.cfg (0x2460 + i) 1 == 1 && s.clocked 10
  | 3 => decide (i < 4) && s.clocked 11
  | 6 => decide (i < 2) && s.clocked 11
  | _ => s.clocked 11

/-- One update, 32 ns after the one before. In HOLDOVER no input event moves the phase. -/
def State.trackerUpdate (s : State) (t : Nat) : State :=
  let k := s.trk t
  if k.state = .off ∨ s.time.up < k.lastUpdate + 32 then s
  else
    let s := if k.state != .holdover && !s.trkInputOk t then s.setTrk t .holdover else s
    let n := k.rem + s.trkSpeed t * 32 * 2 ^ 32
    let adv := n / 1000000000000
    let shift := if (s.trk t).state = .holdover then 0 else k.shift
    (s.modTrk t (fun k => { k with rem := (n % 1000000000000).toNat, shift := 0, lastUpdate := k.lastUpdate + 32 })).movePhase t (adv + shift)

def execTrackerUpdate (t : Nat) (s : State) : Out := .next (s.trackerUpdate t)

/-- A frequency is in range, and its direction allowed. -/
def State.freqOk (s : State) (t : Nat) (f : Int) : Bool :=
  decide (s.cfg (trkIdx t) 3 ≤ f.natAbs) && decide (f.natAbs ≤ s.cfg (trkIdx t) 4) && (decide (0 ≤ f) || s.cfg (trkIdx t) 7 == 1)

/-- A frequency below F_MIN; reverse motion that is not allowed counts as one. -/
def State.freqLow (s : State) (t : Nat) (f : Int) : Bool := decide (f.natAbs < s.cfg (trkIdx t) 3) || (decide (f < 0) && s.cfg (trkIdx t) 7 == 0)

/-- What an input event with a measured frequency and phase error does to the state. -/
def State.trkLock (s : State) (t : Nat) (f err : Int) : State :=
  let ok := s.freqOk t f
  let low := s.freqLow t f
  let s := s.modTrk t (fun k => { k with freq := f, below := low, holdFreq := if ok then f else k.holdFreq })
  match (s.trk t).state with
  | .off => s
  | .holdover => if ok && s.trkInputOk t then s.setTrk t .acquiring else s
  | .acquiring =>
    if !ok || decide (2 ^ 28 < err.natAbs) then s.setTrk t .holdover
    else if err.natAbs ≤ 2 ^ 24 then
      let n := (s.trk t).good + 1
      if 16 ≤ n then s.setTrk t .locked else s.modTrk t (fun k => { k with good := n })
    else s.modTrk t (fun k => { k with good := 0 })
  | .locked => if !ok || decide (2 ^ 28 < err.natAbs) then s.setTrk t .holdover else s

/-- The frequency that one event every `dt` ns gives, `per` events a turn, in mHz. -/
def eventFreq (per dt : Nat) : Int := roundAway 1000000000000 (per * dt)

/-- The phase that tracker t has come to since its last update, at the rate it goes on at. -/
def State.phaseNow (s : State) (t : Nat) : Nat :=
  let k := s.trk t
  let adv := (k.rem + s.trkSpeed t * (s.time.up - k.lastUpdate : Nat) * 2 ^ 32) / 1000000000000
  ((k.phase + adv) % 2 ^ 32).toNat

/-- An edge that stands for phase 0. The shift is the error at the edge, so that the next update is right for its own instant (R222). -/
def State.phaseZero (s : State) (t : Nat) : State :=
  let k := s.trk t
  let now := s.time.up
  let err := toSigned 32 (2 ^ 32 - s.phaseNow t)
  let s := s.modTrk t (fun k => { k with lastEvent := now, shift := err, rem := 0 })
  if k.lastEvent = 0 ∨ now ≤ k.lastEvent then s else s.trkLock t (eventFreq 1 (now - k.lastEvent)) err

/-- One A/B edge of an encoder. -/
def State.encoderCount (s : State) (t : Nat) (fwd : Bool) : State :=
  let k := s.trk t
  let per := 4 * s.cfg (trkIdx t) 6
  let n := (k.counts + if fwd then 1 else -1) % (per : Int)
  let now := s.time.up
  let err := toSigned 32 (ofSigned 32 (roundAway (n * 2 ^ 32) per - s.phaseNow t))
  let s := s.modTrk t (fun k => { k with counts := n, lastEvent := now, shift := err })
  if k.lastEvent = 0 ∨ now ≤ k.lastEvent then s
  else s.trkLock t (if fwd then eventFreq per (now - k.lastEvent) else -(eventFreq per (now - k.lastEvent))) err

/-- An input fault. A tracker already in HOLDOVER advances as before. -/
def State.trkFault (s : State) (t : Nat) : State :=
  match (s.trk t).state with
  | .off => s
  | .holdover => s
  | _ => (s.modTrk t (fun k => { k with below := false })).setTrk t .holdover

/-- An encoder Z edge: phase 0. One more than 4 counts from where the last one lets it be expected is a fault. -/
def State.encoderIndex (s : State) (t : Nat) : State :=
  let k := s.trk t
  let per := 4 * s.cfg (trkIdx t) 6
  let off := min (k.counts % per).natAbs ((per : Int) - k.counts % per).natAbs
  let s := if k.indexed && decide (4 < off) then s.trkFault t else s
  s.modTrk t (fun k => { k with counts := 0, indexed := true, shift := toSigned 32 (2 ^ 32 - s.phaseNow t), rem := 0 })

/-- Table 8.3: the most a LOCKED mains tracker's phase is off, 0.002 of a turn. -/
def mainsBound : Int := 8589934

/-- A sample for a mains tracker: its loop finds a frequency and an error that the spec does not fix, and moves the phase; in LOCKED
it is moved by no more than it may be off. -/
def State.mainsSample (s : State) (t : Nat) : State :=
  let f := Config.mainsFreq s.draws
  let err := toSigned 32 (ofSigned 32 (Config.mainsError s.draws))
  let free := toSigned 32 (ofSigned 32 (Config.mainsError (s.draws + 1)))
  let move := if (s.trk t).state = .locked then clampInt (-mainsBound) mainsBound free else free
  let now := s.time.up
  let s := (s.drawN 2).modTrk t (fun k => { k with lastEvent := now, shift := move })
  s.trkLock t f err

/-- No edge or event within 2 / F_MIN. -/
def State.edgeMissing (s : State) (t : Nat) : Bool :=
  let k := s.trk t
  decide (2000000000000 ≤ s.cfg (trkIdx t) 3 * (s.time.up - (if k.lastEvent = 0 then k.started else k.lastEvent)))

/-- An event of Table 8.2 that the tracker's source takes, while its input is there. -/
def State.trackerEvent (s : State) (t : Nat) (ev : TrkInput) : State :=
  let src := s.cfg (trkIdx t) 1
  if (s.trk t).state = .off ∨ (ev ≠ .missing ∧ !s.trkInputOk t) then s
  else
    match ev with
    | .sample => if src = 1 ∨ src = 2 then s.mainsSample t else s
    | .edge => if 3 ≤ src ∧ src ≤ 5 then s.phaseZero t else s
    | .count fwd => if src = 6 then s.encoderCount t fwd else s
    | .index => if src = 6 then s.encoderIndex t else s
    | .skip => if src = 6 then s.trkFault t else s
    | .missing => if 3 ≤ src ∧ src ≤ 5 ∧ s.edgeMissing t then s.trkFault t else s

def execTrackerInputEvent (t : Nat) (ev : TrkInput) (s : State) : Out := .next (s.trackerEvent t ev)

/-- TRK_SOURCE has been set: OFF, or ACQUIRING anew. -/
def State.startTracker (s : State) (t : Nat) : State :=
  if s.cfg (trkIdx t) 1 = 0 then s.setTrk t .off
  else
    let now := s.time.up
    (s.modTrk t (fun k => { Tracker.reset with state := k.state, phase := k.phase, started := now, lastUpdate := now })).setTrk t .acquiring

/-! ## The decision watchdog (R226) -/

/-- The watchdog's interval has run out: SENT_LATE recorded and counted, FAULT_N where WD_FAULT asks for it. -/
def State.watchdogExpiry (s : State) (c : Nat) : State :=
  match (s.core c).watchdog with
  | none => s
  | some (since, wd) =>
    if s.time.up - since < wd then s
    else
      let s := s.modCore c (fun k => { k with watchdog := none })
      let s := (s.record (coreSource c) 0x0021 [1, wd]).bump 0x2330 1
      if s.cfg 0x2330 3 = 1 then s.setCause 1 else s

def execSentWdExpiry (c : Nat) (s : State) : Out := .next (s.watchdogExpiry c)

end Sys2Proof.Machine
end

