-- ==== Sys2Proof/Machine/Measure.lean ====
section
/-! DEFINITION. The measurement front end: clock monitors, channel faults, decimation, comparators, auxiliary conversions,
frame groups and their frames, capture rings (R231-R242). -/

namespace Sys2Proof.Machine

def chIdx (c : Nat) : Nat := 0x2400 + c
def chSource (c : Nat) : Nat := 0x0100 + c
def fgIdx (g : Nat) : Nat := 0x2480 + g
def ringIdx (r : Nat) : Nat := 0x2490 + r

/-- The domain of a channel is clocked. -/
def State.chClocked (s : State) (c : Nat) : Bool := s.clocked (if c < 48 then 8 else 9)

/-- The channel runs: not off, its domain not gated. -/
def State.chEnabled (s : State) (c : Nat) : Bool := s.cfg (chIdx c) 1 != 0 && s.chClocked c

def Channel.faulted (k : Channel) : Bool := k.clk || k.stuck || k.manch

/-- [0] CLK, [1] STUCK, [2] MANCH. -/
def Channel.causes (k : Channel) : Nat := packBits [k.clk, k.stuck, k.manch]

/-! ## Faults (R232, R233) -/

/-- A channel's fault: counted and recorded at its onset; its events follow FAULT_EVT while the comparator is enabled. -/
def State.chFault (s : State) (c cause : Nat) : State :=
  if !s.chEnabled c then s
  else
    let before := (s.chan c).faulted
    let s := s.modChan c (fun k =>
      { k with clk := k.clk || cause == 0, stuck := k.stuck || cause == 1, manch := k.manch || cause == 2, validWindows := 0, spoiled := true })
    if before then s
    else
      let s := (s.bump (chIdx c) 0x0E).record (chSource c) 0x0028 [(s.chan c).causes]
      let s := if s.cfg (chIdx c) 6 = 0 then s
        else match s.cfg (chIdx c) 0x0B with
          | 1 => s.modChan c (fun k => { k with evHi := true, evLo := true })
          | 2 => s.modChan c (fun k => { k with evHi := false, evLo := false })
          | _ => s
      s.updateTrips

def State.mclk (s : State) (p : Nat) : Mclk := Tab.get Mclk.reset s.meas.mclks p

/-- CLK needs a clock fault of the channel's pin, MANCH a channel in mode 2. -/
def State.channelFault (s : State) (c cause : Nat) : State :=
  if cause = 0 then (if (s.mclk (s.cfg (chIdx c) 2)).fault then s.chFault c 0 else s)
  else if cause = 1 then s.chFault c 1
  else if cause = 2 ∧ s.cfg (chIdx c) 1 = 2 then s.chFault c 2
  else s

def execChannelFault (ch cause : Nat) (s : State) : Out := .next (s.channelFault ch cause)

/-- The end of a 1 µs window of an input pin: 4 to 26 edges clear its fault, others set it for every channel that names it. The
decimation windows in which the fault stood are not valid. -/
def State.mclkWindow (s : State) (p edges : Nat) : State :=
  if 8 ≤ p ∨ bit (s.cfg 0x2470 (p + 1)) 0 then s
  else
    let bad := decide (edges < 4) || decide (26 < edges)
    let was := (s.mclk p).fault
    let s := { s with meas := { s.meas with mclks := Tab.set s.meas.mclks p ⟨bad⟩ } }
    let s := if was then (List.range 96).foldl (fun s c => if s.cfg (chIdx c) 2 = p then s.modChan c (fun k => { k with spoiled := true }) else s) s else s
    if bad then (List.range 96).foldl (fun s c => if s.cfg (chIdx c) 2 = p then s.chFault c 0 else s) s else s

def execMclkWindow (pin edges : Nat) (s : State) : Out := .next (s.mclkWindow pin edges)

/-- The channel leaves its fault at the end of its third valid window; the comparator filter starts anew. -/
def State.channelFaultExit (s : State) (c : Nat) : State :=
  let k := s.chan c
  let now := s.time.up
  if k.faulted && decide (3 ≤ k.validWindows) then
    s.modChan c (fun k => { k with clk := false, stuck := false, manch := false, validWindows := 0, cmpStart := now, cmpBits := 0 })
  else s

def execChannelFaultExit (ch : Nat) (s : State) : Out := .next (s.channelFaultExit ch)

/-! ## Decimation (R234, R235) -/

/-- Triangular numbers, the number of pairs with a sum up to i. -/
def tri (i : Nat) : Int := (i * (i + 1) / 2 : Nat)

/-- The weight of the i-th bit of a sinc3 window of 3 R - 2 bits. -/
def sinc3 (r i : Nat) : Int := tri (i + 1) - 3 * tri (i + 1 - r) + 3 * tri (i + 1 - 2 * r)

/-- The weight of the i-th bit of a sinc2 window of 2 M - 1 bits. -/
def sinc2 (m i : Nat) : Int := if i < m then (i + 1 : Nat) else (2 * m - 1 - i : Nat)

/-- The weighted sum of the last `n` bits, bit 1 as +1 and bit 0 as -1; older ones are not there. -/
def bitSum (w : Nat → Int) (n : Nat) (bits : List Bool) : Int :=
  let b := bits.drop (bits.length - n)
  let gap := n - b.length
  sumInt (b.zipIdx.map (fun x => if x.1 then w (gap + x.2) else -(w (gap + x.2))))

def sat16 (v : Int) : Int := clampInt (-32768) 32767 v

/-- GAIN_TRIM and OFFSET_TRIM of a trim word. -/
def gainTrim (w : Nat) : Int := (field w 16 16 : Nat)
def offsetTrim (w : Nat) : Int := toSigned 16 w

/-- q of a window. -/
def decimate (r shift trim : Nat) (bits : List Bool) : Int :=
  sat16 (roundAway (32768 * bitSum (sinc3 r) (3 * r - 2) bits * gainTrim trim * 2 ^ shift) (r ^ 3 * 2 ^ 14) - offsetTrim trim)

def State.chTrim (s : State) (c : Nat) : Nat := Tab.get 0x40000000 s.trims (0x0A000000 + 4 * c)

/-- Bits a channel can have sampled from one own time to another: at the rate of an output pin, or at most 26 MHz of an input; a recovered
Manchester rate lies at most 5 % above it (R231). -/
def State.bitsDone (s : State) (c t0 t1 : Nat) : Nat :=
  let v := s.cfg 0x2470 (s.cfg (chIdx c) 2 + 1)
  let fast := if s.cfg (chIdx c) 1 = 2 then 105 else 100
  if bit v 0 then (t1 - t0) * fast / (200 * field v 1 7) else (t1 - t0) * 26 * fast / 100000

/-- Bits of the present window that have come, 20 ns after the last (R234). -/
def State.windowDone (s : State) (c : Nat) : Nat := (s.chan c).winBits + s.bitsDone c (s.chan c).winAt (s.time.up - 20)

/-- Bits of the comparator's history. -/
def State.historyDone (s : State) (c : Nat) : Nat := (s.chan c).cmpBits + s.bitsDone c (s.chan c).cmpStart s.time.up

/-- The pin's clock changes its rate in a commit, and the channel's windows go on (R235): what has come stays counted, the bit under way with it. -/
def State.rebase (s old : State) (c : Nat) : State :=
  let now := s.time.up
  let n := (old.chan c).winBits + old.bitsDone c (old.chan c).winAt now + 1
  let m := (old.chan c).cmpBits + old.bitsDone c (old.chan c).cmpStart now + 1
  s.modChan c (fun k => { k with winBits := min n (old.cfg (chIdx c) 4), winAt := now, cmpBits := m, cmpStart := now })

/-- Where the window after this one begins: windows of an output pin follow one another exactly, but for a Manchester channel,
whose bit clock is its own. -/
def State.nextWindow (s : State) (c : Nat) : Nat :=
  let v := s.cfg 0x2470 (s.cfg (chIdx c) 2 + 1)
  if bit v 0 && s.cfg (chIdx c) 1 != 2 then (s.chan c).winAt + 2 * field v 1 7 * (s.cfg (chIdx c) 4 - (s.chan c).winBits) else s.time.up - 20

/-- The run of like bits after one more bit, and whether 4 R of them have been reached. -/
def runStep (limit : Nat) (x : Bool × Nat × Bool) (b : Bool) : Bool × Nat × Bool :=
  let n := if b == x.1 then x.2.1 + 1 else 1
  (b, n, x.2.2 || decide (limit ≤ n))

/-- The bits of the window that ends, of those that came last. -/
def windowBits (r : Nat) (bits : List Bool) : List Bool := bits.drop (bits.length - r)

/-- The run of like bits over a window, and whether the channel is stuck somewhere in it. -/
def Channel.runOver (k : Channel) (r : Nat) (bits : List Bool) : Bool × Nat × Bool :=
  (windowBits r bits).foldl (runStep (4 * r)) (k.lastBit, k.run, false)

/-- A window is valid if no fault's cause has been present in it. -/
def State.windowValid (s : State) (c : Nat) (bits : List Bool) : Bool :=
  let k := s.chan c
  !(s.mclk (s.cfg (chIdx c) 2)).fault && !k.spoiled && !(k.runOver (s.cfg (chIdx c) 4) bits).2.2

/-- A window ends, 20 ns after its last bit: its result is valid now, substituted in frames while the channel is faulted. The
filter holds the bits since the last restart (DEDUCED: log 118). A third valid window's result is no longer substituted. -/
def State.decimated (s : State) (c : Nat) (bits : List Bool) : State :=
  let k := s.chan c
  let r := s.cfg (chIdx c) 4
  if !s.chEnabled c || decide (s.windowDone c < r) then s
  else
    let q := decimate r (s.cfg (chIdx c) 5) (s.chTrim c) (windowBits ((k.windows + 1) * r) bits)
    let valid := if k.faulted && s.windowValid c bits then k.validWindows + 1 else 0
    let subst := k.faulted && decide (valid < 3)
    let v := if subst then toSigned 16 (s.cfg (chIdx c) 0x0C) else q
    let stamp := s.time.gtc
    let next := s.nextWindow c
    let ran := k.runOver r bits
    let used := (List.range 16).any (fun g => (s.fgChans g).contains c)
    s.modChan c (fun k =>
      { k with last := q, validWindows := valid, skip := k.skip - 1, winAt := next, windows := k.windows + 1, winBits := 0, spoiled := false,
               lastBit := ran.1, run := ran.2.1,
               fresh := if k.skip = 0 ∧ used then k.fresh ++ [⟨v, stamp, subst⟩] else k.fresh })

def execDecimatedResult (ch : Nat) (bits : List Bool) (s : State) : Out := .next (s.decimated ch bits)

/-! ## The comparator (R236) -/

def comparatorValue (m trim : Nat) (bits : List Bool) : Int :=
  roundAway (32768 * bitSum (sinc2 m) (2 * m - 1) bits * gainTrim trim) (m ^ 2 * 2 ^ 14) - offsetTrim trim

/-- The events after a decision: active, cleared past the hysteresis, or kept. -/
def eventsAfter (k : Channel) (cmp hi lo hyst : Int) : Bool × Bool :=
  (if hi < cmp then true else if cmp ≤ hi - hyst then false else k.evHi,
   if cmp < lo then true else if lo + hyst ≤ cmp then false else k.evLo)

/-- An onset: counted and recorded. -/
def State.eventOnset (s : State) (c e : Nat) (cmp : Int) : State :=
  (s.bump (chIdx c) 0x0F).record (chSource c) 0x0029 [e, ofSigned 32 cmp]

/-- A decision over the last 2 M - 1 bits. Until as many have been sampled since its start the filter has no full history. -/
def State.comparator (s : State) (c : Nat) (bits : List Bool) : State :=
  let k := s.chan c
  let m := s.cfg (chIdx c) 7
  if s.cfg (chIdx c) 6 = 0 then (s.modChan c (fun k => { k with evHi := false, evLo := false })).updateTrips
  else if !s.chEnabled c || k.faulted || decide (bits.length < 2 * m - 1) || decide (s.historyDone c < 2 * m - 1) then s
  else
    let cmp := comparatorValue m (s.chTrim c) bits
    let (hi, lo) := eventsAfter k cmp (toSigned 16 (s.cfg (chIdx c) 8)) (toSigned 16 (s.cfg (chIdx c) 9)) (s.cfg (chIdx c) 0x0A)
    let s := s.modChan c (fun k => { k with evHi := hi, evLo := lo })
    let s := if hi && !k.evHi then s.eventOnset c (2 * c) cmp else s
    let s := if lo && !k.evLo then s.eventOnset c (2 * c + 1) cmp else s
    s.updateTrips

def execComparator (ch : Nat) (bits : List Bool) (s : State) : Out := .next (s.comparator ch bits)

/-! ## Auxiliary inputs (R237) -/

def State.auxTrim (s : State) (a : Nat) : Nat := Tab.get 0x40000000 s.trims (0x0A000180 + 4 * a)

/-- The int16 form of a code in frames. -/
def auxValue (trim code : Nat) : Int := sat16 (roundAway (((code : Int) - 32768) * gainTrim trim) (2 ^ 14) - offsetTrim trim)

/-- The DAC channel whose INJECT connects its output to input a: the lowest, where several name it (DESIGN CHOICE: log 120). -/
def State.injector (s : State) (a : Nat) : Option Nat := (List.range 16).find? (fun ch => s.clocked 12 && s.cfg (dacIdx ch) 0x0E == a)

/-- The code of input a: of the voltage at its land, or of the DAC output that INJECT connects in its place (R245). -/
def State.auxInput (s : State) (a code : Nat) : Nat :=
  match s.injector a with
  | some ch => Config.injected (s.dacLevel ch) % 65536
  | none => code % 65536

def State.conv (s : State) (k : Nat) : Conv := Tab.get ⟨none, none⟩ s.meas.convs k

/-- The input converter k converts next: its enabled inputs in ascending order, over and over, or in mark mode while they have
cycles left. -/
def State.convNext (s : State) (k : Nat) : Option Nat :=
  let mark := bit (s.cfg 0x2470 0x0A) 0
  let on := ((List.range 4).map (· + 4 * k)).filter (fun a => s.cfg (0x2460 + a) 1 == 1 && (!mark || (s.aux a).cycles != 0))
  match (s.conv k).last with
  | some b => (on.find? (fun a => decide (b < a))).or on.head?
  | none => on.head?

/-- Converter k has had the 500 ns of a conversion. -/
def State.convReady (s : State) (k : Nat) : Bool := match (s.conv k).since with | some t => decide (t + 500 ≤ s.time.up) | none => true

/-- A conversion of an enabled input ends, in its turn on its converter; in mark mode while its converter's cycles last. -/
def State.auxConversion (s : State) (a code : Nat) : State :=
  if s.convNext (a / 4) ≠ some a ∨ !s.convReady (a / 4) ∨ !s.clocked 10 then s
  else
    let code := s.auxInput a code
    let v := auxValue (s.auxTrim a) code
    let stamp := s.time.gtc
    let used := (List.range 16).any (fun g => (s.fgAux g).contains a)
    let s := { s with meas := { s.meas with convs := Tab.set s.meas.convs (a / 4) ⟨some a, some s.time.up⟩ } }
    s.modAux a (fun k => { k with last := code, cycles := k.cycles - 1, fresh := if used then k.fresh ++ [⟨v, stamp, false⟩] else k.fresh })

def execAuxConversion (a code : Nat) (s : State) : Out := .next (s.auxConversion a code)

/-! ## Frame groups (R238) -/

/-- Elements, lines, of a group's frame. -/
def State.fgBytes (s : State) (g : Nat) : Nat :=
  ((s.fgChans g).length + (s.fgAux g).length) * s.cfg (fgIdx g) 5 * (if bit (s.cfg (fgIdx g) 6) 0 then 2 else 1)
def State.fgLines (s : State) (g : Nat) : Nat := ceilDiv (s.fgBytes g) 64
def State.fgStatus (s : State) (g : Nat) : Bool := bit (s.cfg (fgIdx g) 6) 1

/-- Causes of INVALID: mixed members, shared member, MCLK pin or R differs, more than 32 lines. -/
def State.fgCauses (s : State) (g : Nat) : Nat :=
  let cs := s.fgChans g
  let as := s.fgAux g
  let shared := (List.range g).any (fun h => cs.any (fun c => (s.fgChans h).contains c) || as.any (fun a => (s.fgAux h).contains a))
  let differs := match cs with
    | c :: t => t.any (fun d => s.cfg (chIdx d) 2 != s.cfg (chIdx c) 2 || s.cfg (chIdx d) 4 != s.cfg (chIdx c) 4)
    | [] => false
  packBits [!cs.isEmpty && !as.isEmpty, shared, differs, decide (32 < s.fgLines g + boolNat (s.fgStatus g))]

/-- The source number of a group's frames. -/
def State.fgSource (s : State) (g : Nat) : Nat :=
  match s.fgChans g with
  | c :: _ => 0x0100 + c
  | [] => match s.fgAux g with | a :: _ => 0x0160 + a | [] => 0x0160

/-- A group's state after the settings have changed; entries to INVALID and returns from it are recorded. -/
def State.regroup (s : State) (g : Nat) : State :=
  let causes := s.fgCauses g
  let empty := (s.fgChans g).isEmpty && (s.fgAux g).isEmpty
  let old := (s.fg g).state
  let st := if empty then 0 else if causes ≠ 0 then 2 else 1
  let s := s.modFg g (fun k => { k with state := st, causes := causes, opened := k.opened && st == 1 })
  if (old = 2) ≠ (st = 2) then s.record (s.fgSource g) 0x0006 [st, old, g, causes] else s

/-! ## Frames (R239-R242) -/

/-- One element. -/
def frameElem (int16 : Bool) (v : Int) : List Byte :=
  if int16 then toLE 2 (ofSigned 16 v) else toLE 1 (ofSigned 8 (clampInt (-128) 127 (roundAway v 256)))

/-- Bytes filled up to whole lines. -/
def padLines (bs : List Byte) : List Byte := fit (ceilDiv bs.length 64 * 64) 0 bs

/-- The status line: stamp, sequence number, fault mask. -/
def statusLine (stamp seq mask : Nat) : List Byte := fit 64 0 (toLE 8 stamp ++ toLE 4 seq ++ toLE 14 mask)

/-- An entry of a capture ring: written while it is not frozen, and counted down after a trip. -/
def State.ringWrite (s : State) (r : Nat) (entry : List Byte) : State :=
  let g := Tab.get Ring.reset s.meas.rings r
  let put := fun (s : State) (g : Ring) => { s with meas := { s.meas with rings := Tab.set s.meas.rings r g } }
  if g.frozen then s.bump (ringIdx r) 5
  else if g.post = some 0 then (put s { g with frozen := true, post := none }).bump (ringIdx r) 5
  else
    let a := g.wptr % 0x100000
    let n := 0x100000 - a
    let s := (s.poke (ringAddr r a) (entry.take n)).poke (ringAddr r 0) (entry.drop n)
    let g := { g with wptr := g.wptr + entry.length }
    put s (match g.post with
      | some k => if k ≤ 1 then { g with frozen := true, post := none } else { g with post := some (k - 1) }
      | none => g)

/-- Cores of a context whose plan declares a frame window. -/
def State.windowCores (s : State) (x w : Nat) : List Nat :=
  (s.ctx x).cores.filter (fun c => ((s.core c).wins.getD w ⟨0, 0, 0⟩).word != 0)

/-- A frame goes on its way to some cores' windows. -/
def State.frameTo (s : State) (cs : List Nat) (g w stamp : Nat) (bytes : List Byte) : State :=
  let ms := s.fgChans g
  { s with net := { s.net with frames := s.net.frames ++ cs.map (fun c => ⟨c, w, s.fgSource g, g, stamp, (s.core c).comm.epoch, bytes, ms, []⟩) } }

/-- A bridge's allowance now: 16 GB/s, at most 64 KiB. -/
def Meter.now (m : Meter) (up : Nat) : Nat := min 65536 (m.level + 16 * (up - m.at_))

/-- A frame crosses the bridge of a die if the meter has room for all its lines; at a closed crossing it is dropped (R303). -/
def State.frameDie (s : State) (d : Nat) (cs : List Nat) (g w stamp seq : Nat) (bytes : List Byte) : State :=
  let room := (Tab.get Meter.reset s.meas.meters d).now s.time.up
  let put := fun (s : State) (n : Nat) => { s with meas := { s.meas with meters := Tab.set s.meas.meters d ⟨n, s.time.up⟩ } }
  if !Tab.get false s.pwr.crossings d then s.bump (0x2210 + d) 6
  else if bytes.length ≤ room then (put s (room - bytes.length)).frameTo cs g w stamp bytes
  else ((put s room).bump (fgIdx g) 0x11).record (s.fgSource g) 0x002F [g + d * 16, seq]

/-- A frame goes to one destination: over the direct path, or over each die's bridge. -/
def State.frameDest (s : State) (dest g stamp seq : Nat) (bytes : List Byte) : State :=
  let x := field dest 0 6
  let w := field dest 6 2
  let cs := s.windowCores x w
  if !bit dest 8 || cs.isEmpty then s
  else if (s.ctx x).sentinel then s.frameTo cs g w stamp bytes
  else
    let dies := ((s.ctx x).cores.map dieOf).eraseDups
    dies.foldl (fun s d => s.frameDie d (cs.filter (fun c => dieOf c == d)) g w stamp seq bytes) s

/-- A frame's four destinations, sentinel contexts, compute contexts or both. -/
def State.frameOut (s : State) (g stamp seq : Nat) (bytes : List Byte) (sentinel compute : Bool) : State :=
  (List.range 4).foldl (fun s i =>
    let dest := s.cfg (fgIdx g) (8 + i)
    if (if (s.ctx (field dest 0 6)).sentinel then sentinel else compute) then s.frameDest dest g stamp seq bytes else s) s

/-- Group g is mirrored (R181). -/
def State.mirrored (s : State) (g : Nat) : Bool := bit (s.cfg 0x2D00 4) g

/-- The samples of a group's next frame, member by member. -/
def State.fgSamples (s : State) (g : Nat) : List (Nat × List Sample) :=
  let d := s.cfg (fgIdx g) 5
  (s.fgChans g).map (fun c => (c, (s.chan c).fresh.take d)) ++ (s.fgAux g).map (fun a => (96 + a, (s.aux a).fresh.take d))

/-- Group g forms a frame: every member has D new results, and in mark mode an occurrence has opened it. -/
def State.frameForm (s : State) (g : Nat) : State :=
  let k := s.fg g
  let d := s.cfg (fgIdx g) 5
  let ms := s.fgSamples g
  let mark := bit (s.cfg (fgIdx g) 7) 0
  if k.state ≠ 1 ∨ ms.any (fun m => decide (m.2.length < d)) ∨ (mark ∧ !k.opened) then s
  else
    let int16 := bit (s.cfg (fgIdx g) 6) 0
    let elems := (List.range d).flatMap (fun j => ms.flatMap (fun m => frameElem int16 ((m.2.getD j ⟨0, 0, false⟩).value)))
    let stamp := ms.foldl (fun a m => max a ((m.2.getD (d - 1) ⟨0, 0, false⟩).stamp)) 0
    let seq := k.frames % 2 ^ 32
    let mask := ms.foldl (fun a m => setBit a m.1 (m.2.any (·.faulted))) 0
    let lines := padLines elems
    let bytes := if s.fgStatus g then lines ++ statusLine stamp seq mask else lines
    let s := (s.fgChans g).foldl (fun s c => s.modChan c (fun k => { k with fresh := k.fresh.drop d })) s
    let s := (s.fgAux g).foldl (fun s a => s.modAux a (fun k => { k with fresh := k.fresh.drop d })) s
    let s := s.modFg g (fun k => { k with frames := (k.frames + 1) % 2 ^ 64, opened := false })
    let ring := s.cfg (fgIdx g) 0x0C
    let s := if ring < 16 then s.ringWrite ring (toLE 8 stamp ++ toLE 4 seq ++ toLE 1 g ++ toLE 1 (lines.length / 64) ++ toLE 2 0 ++ lines) else s
    let s := if s.mirror.state = 1 ∧ s.mirrored g then s.sendItem (mirrorPort s) ⟨mirrorFrames g stamp seq bytes, none, none⟩ else s
    s.frameOut g stamp seq bytes true (!(s.mirror.state == 2 && s.mirrored g))

def execFrameForm (g : Nat) (s : State) : Out := .next (s.frameForm g)

/-- An armed ring whose entries after the trip are all written freezes. -/
def State.ringFreeze (s : State) (r : Nat) : State :=
  let g := Tab.get Ring.reset s.meas.rings r
  if g.armed && g.post == some 0 && !g.frozen then
    { s with meas := { s.meas with rings := Tab.set s.meas.rings r { g with frozen := true, post := none } } }
  else s

def execRingFreeze (r : Nat) (s : State) : Out := .next (s.ringFreeze r)

/-- RING_CTRL written: [0] frozen, [1] armed. -/
def State.ringCtrl (s : State) (r v : Nat) : State :=
  let g := Tab.get Ring.reset s.meas.rings r
  let g := { g with frozen := bit v 0, armed := bit v 1, post := if bit v 1 && !bit v 0 then g.post else none }
  { s with meas := { s.meas with rings := Tab.set s.meas.rings r g } }

end Sys2Proof.Machine
end

