-- ==== Sys2Proof/Machine/Converters.lean ====
section
/-! DEFINITION. The DAC channels, the trip outputs and FAULT_N as events and the host act on them (R154, R155, R244-R252). -/

namespace Sys2Proof.Machine

/-! ## Sample instants (R244, R247, R248) -/

/-- EMITs in flight to a channel place codes as room appears (R154). -/
def State.settleEmits (s : State) (ch : Nat) : State :=
  let waits : Op → Bool := fun o => match o.body with
    | .emitDac k _ _ _ => k == ch
    | _ => false
  let cs := (s.cores.filter (fun e => e.2.seq.ops.any waits)).map (·.1)
  cs.foldl (fun s c => s.settle c) s

/-- A fault of a channel; EMITs that wait for room on it complete with their codes discarded (R248). -/
def State.faultDac (s : State) (ch cause : Nat) : State := (s.dacFault ch cause).settleEmits ch

/-- An empty queue at an instant: counted, recorded, and at UNDERRUN_LIM in a row a fault. -/
def State.underrun (s : State) (ch : Nat) : State :=
  if (s.dac ch).awaitFirst then s
  else
    let s := s.bump (dacIdx ch) 0x13
    let s := s.record (dacSource ch) 0x0024 [s.count (dacIdx ch) 0x13]
    let s := s.modDac ch (fun d => { d with underrunRun := d.underrunRun + 1 })
    let lim := s.cfg (dacIdx ch) 8
    if lim ≠ 0 ∧ lim ≤ (s.dac ch).underrunRun then s.faultDac ch 2 else s

/-- The head of the queue is taken: to the ladder, or discarded while DAC_CLR_N is low or the channel is held. -/
def State.takeHead (s : State) (ch : Nat) : State :=
  let d := s.dac ch
  match d.queue with
  | [] =>
    if d.releaseClear then
      (s.setLadder ch (s.cfg (dacIdx ch) 6)).modDac ch (fun d => { d with releaseClear := false, holdLevel := none })
    else
      let s := if d.awaitFirst then s else s.modDac ch (fun d => { d with holdLevel := none })
      s.underrun ch
  | code :: t =>
    let keep := s.outs.dacClrLow || s.dacHeld ch
    let s := if keep then s else s.setLadder ch code
    s.modDac ch (fun d => { d with queue := t, underrunRun := 0, releaseClear := if keep then d.releaseClear else false,
                                   holdLevel := if keep then d.holdLevel else none })

/-- The channel's clock runs and its instants act: not in the fault state, not on the current-steering path. -/
def State.instantActs (s : State) (ch : Nat) : Bool := s.clocked 12 && !(s.dac ch).fault && !s.onFast ch

/-- The latest instant of the GTC grid that has come. -/
def State.gridInstant (s : State) (ch : Nat) : Nat :=
  let period := s.cfg (dacIdx ch) 4
  let anchor := s.cfg (dacIdx ch) 5
  anchor + (s.time.gtc - anchor) / period * period

/-- A sample instant is due: on the GTC grid, or by a mark occurrence. -/
def State.instantDue (s : State) (ch : Nat) : Bool :=
  if bit (s.cfg (dacIdx ch) 3) 0 then (s.dac ch).due
  else decide (s.cfg (dacIdx ch) 5 ≤ s.time.gtc) && decide (max (s.dac ch).lastInstant (s.dac ch).gridFrom < s.gridInstant ch)

def State.sampleInstant (s : State) (ch : Nat) : State :=
  if !s.instantDue ch then s
  else
    let at_ := if bit (s.cfg (dacIdx ch) 3) 0 then (s.dac ch).lastInstant else s.gridInstant ch
    let up := if bit (s.cfg (dacIdx ch) 3) 0 then (s.dac ch).lastAt else some s.time.up
    let s := s.modDac ch (fun d => { d with due := false, lastInstant := at_, lastAt := up })
    if s.instantActs ch then (s.takeHead ch).settleEmits ch else s

def execSampleInstant (ch : Nat) (s : State) : Out := .next (s.sampleInstant ch)

/-- DAC_WRITE of an ungranted channel. -/
def State.dacWrite (s : State) (ch code : Nat) : State :=
  if (s.dac ch).room = 0 then s.bump (dacIdx ch) 0x14 else s.dacQueue ch [code % 65536]

/-! ## The current-steering path (R245) -/

/-- The path's source starts: the ramp at its start, the pattern at its first code. -/
def State.startFast (s : State) (ch : Nat) : State :=
  let first := if bit (s.cfg (dacIdx ch) 0x0A) 0 then s.num (patAddr ch 0) 2 else field (s.cfg (dacIdx ch) 0x0C) 0 16
  let trim := s.dacTrim ch 1
  let now := s.time.up
  s.modDac ch (fun d => { d with fast := first, fastPos := 0, fastRun := true, fastAt := now, fastTrim := trim })

/-- One step of a ramp. -/
def rampStep (cur target : Int) (step : Nat) : Int :=
  if (target - cur).natAbs ≤ step then target else if cur < target then cur + step else cur - step

/-- The path updates at 100 MHz / FAST_DIV (R245). -/
def State.fastUpdate (s : State) (ch : Nat) : State :=
  let d := s.dac ch
  let at_ := d.fastAt + 10 * s.cfg (dacIdx ch) 0x0B
  if !s.onFast ch || !d.fastRun || d.fault || d.handover || !s.clocked 12 || decide (s.time.up < at_) then s
  else
    let src := s.cfg (dacIdx ch) 0x0A
    let trim := s.dacTrim ch 1
    if bit src 0 then
      let n := (d.fastPos + 1) % s.cfg (dacIdx ch) 0x0D
      let code := s.num (patAddr ch n) 2
      s.modDac ch (fun d => { d with fastPos := n, fast := code, fastAt := at_, fastTrim := trim })
    else
      let ramp := s.cfg (dacIdx ch) 0x0C
      let target := s.codeValue ch (field ramp 16 16)
      let v := rampStep (s.codeValue ch d.fast) target (field ramp 32 16)
      let back := bit src 1 && v == target
      s.modDac ch (fun d => { d with fast := ofSigned 16 v, fastAt := at_, fastTrim := trim, fastRun := !back, returned := d.returned || back, handover := d.handover || back })

def execFastUpdate (ch : Nat) (s : State) : Out := .next (s.fastUpdate ch)

/-- A clamp of row 3 or row 6 ends: the ladder takes the queue head, or CLEAR_CODE; with DAC_CLR_N low it keeps CLEAR_CODE. -/
def State.ladderTakes (s : State) (ch : Nat) : State :=
  if s.outs.dacClrLow then s.setLadder ch (s.cfg (dacIdx ch) 6)
  else
    let s := s.setLadder ch ((s.dac ch).queue.headD (s.cfg (dacIdx ch) 6))
    (s.modDac ch (fun d => { d with queue := d.queue.tail, holdLevel := none, releaseClear := false })).settleEmits ch

def State.rangeClampEnd (s : State) (ch : Nat) : State :=
  if (s.dac ch).rangeClamp then
    let s := s.modDac ch (fun d => { d with rangeClamp := false })
    if (s.dac ch).fault then s else s.ladderTakes ch
  else s

def execRangeClampEnd (ch : Nat) (s : State) : Out := .next (s.rangeClampEnd ch)

def State.handoverClampEnd (s : State) (ch : Nat) : State :=
  if (s.dac ch).handover then
    let s := s.modDac ch (fun d => { d with handover := false })
    if (s.dac ch).fault then s
    else if s.onFast ch then (s.startFast ch).modDac ch (fun d => { d with holdLevel := none, releaseClear := false })
    else s.ladderTakes ch
  else s

def execHandoverClampEnd (ch : Nat) (s : State) : Out := .next (s.handoverClampEnd ch)

/-! ## DAC_CLR_N, faults, rails (R247, R248, R343) -/

/-- CLEAR_CODE goes on every ladder (Table 9.1 row 4). -/
def State.clearLadders (s : State) : State := (List.range 16).foldl (fun s ch => s.setLadder ch (s.cfg (dacIdx ch) 6)) s

def execDacClrNLow (s : State) : Out := .next { s.clearLadders with outs := { s.clearLadders.outs with dacClrLow := true } }

/-- The pin goes high: ladder channels keep CLEAR_CODE until their next instant, current-steering ones restart by a handover. -/
def State.clrHigh (s : State) : State :=
  if !s.outs.dacClrLow then s
  else
    let s := s.clearLadders
    let s := { s with outs := { s.outs with dacClrLow := false } }
    (List.range 16).foldl (fun s ch =>
      if (s.dac ch).fault then s
      else if s.onFast ch then s.modDac ch (fun d => { d with handover := true, fastRun := false })
      else s.modDac ch (fun d => { d with holdLevel := some (.code (s.cfg (dacIdx ch) 6)) })) s

def execDacClrNHigh (s : State) : Out := .next s.clrHigh

/-- Current limit for 10 µs. -/
def State.shorted (s : State) (ch : Nat) : State :=
  ((s.modDac ch (fun d => { d with shortLatched := true })).record (dacSource ch) 0x0025 []).faultDac ch 0

def execShort (ch : Nat) (s : State) : Out := .next (s.shorted ch)

/-- The output of a channel that went into SHORT is still in current limit: the land's load decides (free value, log 58). -/
def State.stillLimited (s : State) (ch : Nat) : Bool := (s.dac ch).shortLatched && Config.currentLimit s.draws

/-- A cause of the fault state is still present. -/
def State.dacCause (s : State) (ch : Nat) : Bool := s.outs.railLow || (s.meas.pfail && s.cfg (dacIdx ch) 0x0F == 1) || s.stillLimited ch

/-- A cause that stands, a rail or PFAIL_N, puts a channel in its fault state (R248). -/
def State.standingFault (s : State) (ch : Nat) : State :=
  if s.outs.railLow then s.faultDac ch 1
  else if s.meas.pfail && s.cfg (dacIdx ch) 0x0F == 1 then (s.modDac ch (fun d => { d with causes := setBit d.causes 3 true })).faultDac ch 3
  else s

/-- DAC_CMD = 1: the fault state is released when no cause remains; the fault level stays until the first code's instant. -/
def State.dacRelease (s : State) (ch : Nat) : State :=
  if !(s.dac ch).fault then s
  else
    let level := s.faultLevel ch ((s.dac ch).holdLevel.getD .zero)
    let cause := s.dacCause ch
    let s := if (s.dac ch).shortLatched then s.draw else s
    if cause then s
    else s.modDac ch (fun d => { d with fault := false, shortLatched := false, awaitFirst := true, underrunRun := 0, holdLevel := some level })

/-- AVPOS or AVNEG below its minimum: every channel's fault (row 1). -/
def State.railFault (s : State) : State :=
  let s := (List.range 16).foldl (fun s ch => (s.modDac ch (fun d => { d with causes := setBit d.causes 1 true })).faultDac ch 1) s
  { s with outs := { s.outs with railLow := true } }

def execRailFault (s : State) : Out := .next s.railFault

def State.railReturn (s : State) : State :=
  let s := (List.range 16).foldl (fun s ch => s.modDac ch (fun d => { d with causes := setBit d.causes 1 false })) s
  { s with outs := { s.outs with railLow := false } }

def execAnalogueRailReturn (s : State) : Out := .next s.railReturn

/-! ## Trip outputs (R155, R226, R249-R251) -/

/-- A decision that reaches the trip logic completes its EMIT: late ones with SENT_LATE, counted and recorded; the core's
watchdog starts its next interval. -/
def State.decisionEmit (s : State) (d : Decision) : State :=
  let late := match d.deadline with | some t => decide (t < s.time.gtc) | none => false
  let by_ := match d.deadline with | some t => min (s.time.gtc - t) 0xFFFFFFFF | none => 0
  let s := if late then (s.record (coreSource d.core) 0x0021 [2 * d.trip, by_]).bump 0x2330 1 else s
  let wd := s.cfg 0x2330 2
  let s := if d.arms then s.modCore d.core (fun k => { k with watchdog := if wd = 0 then none else some (s.time.up, wd) }) else s
  match s.op d.core d.op with
  | some o => s.completeOp d.core o (if late then 5 else 0)
  | none => s

/-- The presenting core's context holds the output's grant. -/
def State.granted (s : State) (d : Decision) : Bool := (s.core d.core).ctx == some (s.cfg (tripIdx d.trip) 5)

/-- The decision applied among those of one tick: the lowest source, its last in issue order. -/
def applied : List Decision → Option Decision
  | [] => none
  | d :: t =>
    match applied t with
    | none => some d
    | some e => if e.core < d.core ∨ (e.core = d.core ∧ d.op < e.op) then some e else some d

/-- What output n does with the decisions of a tick. -/
def State.settleTrip (s : State) (ds : List Decision) (n : Nat) : State :=
  let mine := ds.filter (fun d => d.trip == n && s.granted d)
  match applied mine with
  | none => s.updateTrip n
  | some d =>
    let s := (s.modTrip n (fun t => { t with emit := d.value, emitSrc := coreSource d.core })).bumpBy (tripIdx n) 9 (mine.length - 1)
    s.updateTrip n

/-- A decision that is not presented: its op completes. -/
def State.decisionGone (s : State) (d : Decision) (status : Nat) : State :=
  match s.op d.core d.op with
  | some o => s.completeOp d.core o status
  | none => s

/-- One decision on its way to the trip logic: those before it that arrived, and the state. Those of sentinel cores pass no bridge (R22). -/
def decisionWay (r : List Decision × State) (d : Decision) : List Decision × State :=
  match r.2.way (dieOf d.core) 4 1 (r.2.pathUnmet (dieOf d.core) 4) with
  | (.stalls, s) => (r.1, { s with net := { s.net with decisions := s.net.decisions ++ [d] } })
  | (.shut x, s) => (r.1, (s.dieDrop x).decisionGone d 4)
  | (.lost, s) => (r.1, s.decisionGone d 0)
  | (.passed, s) => (r.1 ++ [d], s)
  | (.twice, s) => (r.1 ++ [d, d], s)

/-- The decisions that reach the trip logic in a tick; those a retrain stalls stay on their way. -/
def State.decisionsIn (s : State) : List Decision × State :=
  s.net.decisions.foldl decisionWay ([], { s with net := { s.net with decisions := [] } })

/-- The end of a 4 ns tick. -/
def State.tripTick (s : State) : State :=
  let (ds, s) := s.decisionsIn
  let s := (List.range 32).foldl (fun s n => s.settleTrip ds n) s
  ds.foldl (fun s d => s.decisionEmit d) s

def execTripTick (s : State) : Out := .next s.tripTick

/-- A source still trips output n. -/
def State.tripSource (s : State) (n : Nat) : Bool := let t := s.trip n; t.backstop || (t.emit && !t.held)

/-- TRIP_CMD = 1: a latched output is released, and one that MIRROR_IND names then shows the mirror state; in FOLLOW mode nothing happens. -/
def State.tripRelease (s : State) (n : Nat) : State :=
  if s.cfg (tripIdx n) 3 = 0 ∧ !s.tripSource n then (s.modTrip n (fun t => { t with asserted := false })).showMirror else s

def execTripMinOnExpiry (n : Nat) (s : State) : Out := .next (s.updateTrip n)

end Sys2Proof.Machine
end

