-- ==== Sys2Proof/Machine/Flue.lean ====
section
/-! DEFINITION. The Flue links and mirroring (R177-R184, R336). -/

namespace Sys2Proof.Machine

def flueIdx (p : Nat) : Nat := 0x2D08 + p
def flueSource (p : Nat) : Nat := 0x0024 + p

/-- A FLUE record: event, failed step, REMOTE_ID (Table 12.4). -/
def State.flueRecord (s : State) (p event step : Nat) : State := s.record (flueSource p) 0x0030 [event, step, (s.port p).remoteId]

/-- Port p's clock is enabled, with the reference there (R297), its lands are driven (R343), and VDD_OPT is valid. -/
def State.portPowered (s : State) (p : Nat) : Bool := s.pwr.powerGood && s.pwr.optOk && !s.clk.refLost && s.clocked (4 + p)

/-! ## Frames in (R177) -/

/-- SEQ n is acknowledged by ACK a. -/
def ackedBy (n a : Nat) : Bool := decide ((a + 65536 - n) % 65536 < 32768)

/-- What the header of a valid frame does: acknowledgements, credits, a replay from ACK + 1 that NAK asks for. A frame without NAK ends a
run of replays (DESIGN CHOICE: log 172). -/
def State.frameHeader (s : State) (p : Nat) (h : FlueHdr) : State :=
  let now := s.time.up
  let s := s.modPort p (fun q =>
    { q with acked := h.ack, replay := q.replay.filter (fun f => !ackedBy f.seq h.ack), credits := q.credits + h.creditRet, lastFrame := now })
  if h.nak then
    if (s.port p).replay.isEmpty then s
    else ((s.resend p).bump (flueIdx p) 7).modPort p (fun q => { q with replayRun := q.replayRun + 1 })
  else s.modPort p (fun q => { q with replayRun := 0 })

/-- What port p sends after a valid frame: an IDLE frame where it has nothing else, a replay among that. -/
def State.portAnswer (s : State) (p : Nat) (h : FlueHdr) : State :=
  if h.nak && !(s.port p).replay.isEmpty then s.portFlow p (s.port p).credits else s.portTurn p

/-- The mirror pair forms, conflicts, or settles which module stays active, when its link comes UP. `role` is the remote's
configured role, `act` whether it reports itself active. -/
def State.pairMirror (s : State) (p role : Nat) (act : Bool) : State :=
  let own := s.cfg 0x2D00 2
  if mirrorPort s ≠ p ∨ own = 0 ∨ role = 0 then s
  else if own = role then
    let held := s.mirror.holding
    let s := s.setMirror 4 6
    if held then s.releaseOutputs else s
  else
    let active := s.mirror.state == 1 || s.mirror.state == 3
    if active && act then
      (if s.cfg 0x2D00 1 < (s.port p).remoteId then s.setMirror 1 5 else s.toStandby 5)
    else if active then s.setMirror 1 0
    else if s.mirror.state = 2 then s
    else if own = 1 && !act then s.setMirror 1 0
    else s.toStandby 0

/-- The first valid frame after a retrain shows whether a mirror pair still agrees: with both active the lower MODULE_ID stays so (R183). -/
def State.rejoin (s : State) (p : Nat) (h : FlueHdr) : State :=
  let q := s.port p
  if q.rejoin && q.state == 2 then (s.modPort p (fun q => { q with rejoin := false })).pairMirror p q.remoteRole (h.role == 1) else s

/-- A frame of port p arrives: `n` numbered frames, 0 for IDLE and HELLO. A failing CRC asks for a replay. -/
def State.flueReceive (s : State) (p : Nat) (h : FlueHdr) (n : Nat) (act : State → State) : State :=
  let q := s.port p
  if !q.trained then s
  else if !h.crcOk then
    let s := s.modPort p (fun q => { q with nakDue := true })
    if q.state = 1 then s.sendHello p else s
  else
    let s := (s.frameHeader p h).rejoin p h
    let s :=
      if n = 0 then act s
      else if q.state ≠ 2 then s
      else if h.seq = (q.rxSeq + n) % 65536 then
        act ((s.modPort p (fun q => { q with rxSeq := h.seq, nakDue := false, owed := q.owed + n, heard := true })).bumpBy (flueIdx p) 6 n)
      else if ackedBy h.seq q.rxSeq then s
      else s.modPort p (fun q => { q with nakDue := true })
    s.portAnswer p h

/-- An IDLE frame: the other side has had this side's HELLO. -/
def State.idle (s : State) (p : Nat) (h : FlueHdr) : State := s.flueReceive p h 0 (fun s => s.modPort p (fun q => { q with heard := true }))

def execIdle (p : Nat) (h : FlueHdr) (s : State) : Out := .next (s.idle p h)

/-! ## Link up and down (R177, R178, R180, R181, R183) -/

/-- What this module reports over port p: every logical core of the contexts with a binding that names the port's remote module. -/
def State.report (s : State) (p : Nat) : List EpochEntry :=
  s.ctxs.flatMap (fun x =>
    if s.namesRemote x.1 p then (List.range x.2.cores.length).map (fun i => ⟨x.1, i, (s.core (x.2.cores.getD i 0)).comm.epoch⟩) else [])

/-- The link is UP: recorded, epochs reported in full, peer slots refilled. -/
def State.linkUp (s : State) (p role : Nat) (act : Bool) : State :=
  let s := (s.modPort p (fun q => { q with state := 2 })).flueRecord p 1 0
  let es := s.report p
  let s := if es.isEmpty then s else s.sendItem p ⟨epochFrames es, none, none⟩
  (s.refillBound).pairMirror p role act

/-- A HELLO: the link comes UP when the MODULE_IDs differ; equal ones hold it in training. It is answered with a HELLO while the
other side may not have had one (DESIGN CHOICE: log 154). -/
def State.hello (s : State) (p : Nat) (h : FlueHdr) (moduleId remotePort role : Nat) : State :=
  s.flueReceive p h 0 (fun s =>
    let q := s.port p
    let s := (s.bump (flueIdx p) 6).modPort p (fun q =>
      { q with remoteId := moduleId, remoteSerial := h.aux, remotePort := remotePort, remoteRole := role })
    if moduleId = s.cfg 0x2D00 1 then (if q.conflict then s else (s.flueRecord p 3 0).modPort p (fun q => { q with conflict := true }))
    else if q.state = 1 then (s.sendHello p).linkUp p role (h.role == 1)
    else if q.heard then s
    else s.sendHello p)

def execHello (p : Nat) (h : FlueHdr) (moduleId remotePort mirrorRole : Nat) (s : State) : Out :=
  .next (s.hello p h moduleId remotePort mirrorRole)

/-- A peer key of core c is bound over port p. -/
def State.keyOn (s : State) (c p key : Nat) : Bool :=
  decide (0x10000 ≤ key) && (match (s.core c).ctx with | some x => s.bindPort x (key - 0x10000) == some p | none => false)

/-- Port p has a message of op n of core c, to be sent or not yet answered. -/
def Port.carries (q : Port) (c n : Nat) : Bool := (q.flight ++ q.out.filterMap (·.msg)).any (fun m => m.src == c && m.op == n)

/-- One op of core c that depends on port p completes with status 4: a message or a credit of it went over the port, which stood
at q, or it waits for a credit from a peer bound to it. -/
def State.failOp (s : State) (q : Port) (p c : Nat) (o : Op) : State :=
  let k := s.core c
  match s.op c o.seq with
  | none => s
  | some o =>
    let gone := fun (s : State) => s.modComm c (fun m => { m with posts := m.posts.filter (fun x => x.op != o.seq) })
    match o.body with
    | .send slot _ _ _ sent _ => if (if sent then q.carries c o.seq else s.keyOn c p (k.peer slot).key) then s.completeOp c o 4 else s
    | .recv _ _ _ _ true false => if q.carries c o.seq then (gone s).completeOp c o 4 else s
    | .recvRows _ _ _ _ _ _ _ true false => if q.carries c o.seq then (gone s).completeOp c o 4 else s
    | _ => s

/-- What a core has across a link that is lost. -/
def State.failCore (s : State) (q : Port) (p c : Nat) : State :=
  let s := s.modComm c (fun m => { m with credits := m.credits.filter (fun x => x.port != some p) })
  (s.core c).seq.ops.foldl (fun s o => s.failOp q p c o) s

/-- The link is lost (R180): recorded, slots at epoch 0, everything across it ends with status 4; an active module stays
active without its partner. FLUE_STATE reads 0 until the lanes are trained anew, which RETRAINS does not count (DESIGN CHOICE: log 172). -/
def State.linkLost (s : State) (p : Nat) : State :=
  let q := s.port p
  let s := s.modPort p (fun q =>
    { q with state := 0, trained := false, retraining := false, txSeq := 0, rxSeq := 0, acked := 0, replay := [], onLine := none, credits := 0, owed := 0, nakDue := false, replayRun := 0, epochs := [], out := [], flight := [], conflict := false, heard := false, rejoin := false })
  if q.state = 0 ∨ (q.state = 1 ∧ !q.retraining) then s
  else
    let s := (s.flueRecord p 0 0).refillBound
    let s := (s.cores.map (·.1)).foldl (fun s c => s.failCore q p c) s
    if p = mirrorPort s ∧ s.mirror.state = 1 then s.setMirror 3 1 else s

/-- No valid frame for 100 µs, nor since the lanes were first trained. -/
def State.flueDown (s : State) (p : Nat) : State :=
  let q := s.port p
  if q.state = 0 ∨ s.time.up - max q.lastFrame q.trainedAt < 100000 then s else s.linkLost p

def execFlueDown (p : Nat) (s : State) : Out := .next (s.flueDown p)

/-- 16 replays in a row retrain the link; the slots bound to it stand at epoch 0 until it is UP again (R178). -/
def State.flueRetrain (s : State) (p : Nat) : State :=
  let q := s.port p
  if q.state ≠ 2 ∨ q.replayRun < 16 then s
  else (((s.modPort p (fun q => { q with state := 1, trained := false, retraining := true, replayRun := 0 })).bump (flueIdx p) 8).flueRecord p 4 0).refillBound

def execFlueRetrain (p : Nat) (s : State) : Out := .next (s.flueRetrain p)

/-- Frame credits that messages waiting behind port p still take up. -/
def State.withheld (s : State) (p : Nat) : Nat :=
  (((s.master (4 + p)).held.filterMap (·.msg)).map (fun x => flueFrames x.2)).sum + ((s.port p).stalled.map (fun x => flueFrames x.2)).sum

/-- The lanes are trained: HELLOs go out; after a retrain the link goes on, with no HELLO and no report (DESIGN CHOICE: log 172). -/
def State.lanesTrained (s : State) (p : Nat) : State :=
  let now := s.time.up
  let q := s.port p
  if !s.portPowered p || q.trained then s
  else if q.retraining then
    ((s.modPort p (fun q => { q with state := 2, trained := true, retraining := false, rejoin := true })).refillBound).portTurn p
  else (s.modPort p (fun q => { q with state := 1, trained := true, trainedAt := now, owed := Config.frameCredits - s.withheld p, conflict := false, heard := false })).sendHello p

def execFlueLanesTrained (p : Nat) (s : State) : Out := .next (s.lanesTrained p)

/-- VDD_OPT below its minimum: all four ports are down. -/
def State.optLoss (s : State) : State :=
  let s := { s with pwr := { s.pwr with optOk := false } }
  (List.range 4).foldl (fun s p => s.linkLost p) s

def execVddOptLoss (s : State) : Out := .next s.optLoss

/-- VDD_OPT valid for 2 ms: the ports may come up. -/
def execVddOptValid (s : State) : Out := .next { s with pwr := { s.pwr with optOk := true } }

/-! ## Epochs and messages (R178, R179) -/

/-- An EPOCH frame's entries replace what the remote module last reported for those logical cores. -/
def State.epochReport (s : State) (p : Nat) (es : List EpochEntry) : State :=
  (s.modPort p (fun q =>
    { q with epochs := q.epochs.filter (fun e => !es.any (fun n => n.ctx == e.ctx && n.lcore == e.lcore)) ++ es })).refillBound

def execEpoch (p : Nat) (h : FlueHdr) (entries : List EpochEntry) (s : State) : Out :=
  .next (s.flueReceive p h 1 (fun s => s.epochReport p entries))

/-- The binding of a local context that names a sender on port p. -/
def State.senderBinding (s : State) (p : Nat) (m : FlueMsg) : Option Nat :=
  (List.range 64).find? (fun b =>
    let v := s.binding m.destCtx b
    bit v 2 && field v 0 2 == p && field v 16 16 == (s.port p).remoteId && field v 32 6 == m.srcCtx && field v 38 10 == m.srcLcore)

/-- A delivery result goes back over the link to the sender of message m, with the role epoch of the core it was for. -/
def State.flueAnswer (s : State) (p : Nat) (m : FlueMsg) (status epoch : Nat) : State :=
  let r : FlueMsg := ⟨m.srcCtx, m.srcLcore, m.srcEpoch, m.destCtx, m.destLcore, epoch, m.channel, 0, 2, m.mseq, status⟩
  s.sendItem p ⟨messageOut r [], none, none⟩

/-- A message refused at a step of R179: counted, recorded, and answered NACK_EPOCH unless it is itself a delivery result
(DESIGN CHOICE: log 115). -/
def State.flueRefuse (s : State) (p step : Nat) (m : FlueMsg) (epoch : Nat) : State :=
  let s := (s.bump (flueIdx p) 9).flueRecord p 2 step
  if m.mtype = 2 then s else s.flueAnswer p m 3 epoch

/-- A delivery result from the remote module completes the message it answers. -/
def State.flueResult (s : State) (p c key : Nat) (m : FlueMsg) : State :=
  match (s.port p).flight.find? (fun x => x.src == c && x.dst == key && x.chan == m.channel && x.seq == m.mseq && x.srcEpoch == m.destEpoch) with
  | none => s
  | some x =>
    let s := s.modPort p (fun q => { q with flight := q.flight.erase x })
    let s := if m.aux = 3 then (s.bump (0x3000 + c) 9).record (coreSource c) 0x0022 [key % 65536 + x.destEpoch * 65536, m.srcEpoch + m.channel * 65536] else s
    s.deliverResult c x.op { x with kind := 2, dst := c, src := key, aux := m.aux % 16, orig := (x.kind, x.len, x.aux), payload := [], hurt := [] }

/-- A message at the router of core c. A credit is answered only if it is refused. -/
def State.flueDeliver (s : State) (p : Nat) (m : FlueMsg) (x : Msg) : State :=
  let e := (s.core x.dst).comm.epoch
  if !(s.core x.dst).comm.crossing then (s.crossDrop x.dst).flueAnswer p m 4 e
  else if x.kind = 1 then s.deliverCredit x
  else (s.deliverData x).flueAnswer p m 0 e

/-- The frame credits of a message that waits on this side are withheld from the other (R179, R278). -/
def State.keepCredits (s : State) (p : Nat) (m : FlueMsg) : State :=
  s.modPort p (fun q => { q with owed := q.owed - flueFrames m })

/-- The frame credits of a message that waits no longer go back to the other side. -/
def State.giveCredits (s : State) (p : Nat) (m : FlueMsg) : State :=
  s.modPort p (fun q => { q with owed := q.owed + flueFrames m })

/-- Where the destination lines of a data message lie: in the receiving core's local space, of 2 MiB (R179 step 4, Table 10.7). -/
def flueDest (m : FlueMsg) (c : Nat) : Nat := coreBase c + 64 * m.aux

/-- Step 4 of R179: the lines of a message lie in core c and within the windows of the port's Flue remote master. -/
def State.flueMay (s : State) (p c a n : Nat) : Bool := decide (a + n ≤ coreBase (c + 1)) && s.masterMay (4 + p) a n true

/-- A message that may enter core c crosses the hub bridge as a local one crosses its bridges (R290, R303, R313). -/
def State.flueEnter (s : State) (p : Nat) (m : FlueMsg) (x : Msg) : State :=
  let d := dieOf x.dst
  match s.way 4 d x.flits (s.pathUnmet 4 d) with
  | (.stalls, s) => (s.keepCredits p m).modPort p (fun q => { q with stalled := q.stalled ++ [(x, m)] })
  | (.shut d, s) => (s.dieDrop d).flueAnswer p m 4 (s.core x.dst).comm.epoch
  | (.passed, s) => s.flueDeliver p m x
  | (.lost, s) => s
  | (.twice, s) => (s.flueDeliver p m x).flueDeliver p m x

/-- A bridge is back: what it stalled at port p goes on, both ways. -/
def State.portResume (s : State) (p : Nat) : State :=
  let l := (s.port p).stalled
  let s := l.foldl (fun s x => (s.giveCredits p x.2).flueEnter p x.2 x.1) (s.modPort p (fun q => { q with stalled := [] }))
  s.portFlow p (s.port p).credits

/-- A message received whole, checked in the order of R179. A credit's header has no destination line: its line is free (log 106). One of the reserved MTYPE 3
has no effect (DESIGN CHOICE: log 174). -/
def State.flueMessage (s : State) (p : Nat) (m : FlueMsg) (payload : List Byte) : State :=
  let k := s.ctx m.destCtx
  match (if k.state = .none then none else k.cores[m.destLcore]?) with
  | none => s.flueRefuse p 1 m 0
  | some c =>
    let e := (s.core c).comm.epoch
    if m.destEpoch = 0 ∨ m.destEpoch ≠ e then s.flueRefuse p 2 m e
    else
      match s.senderBinding p m with
      | none => s.flueRefuse p 3 m e
      | some b =>
        let key := 0x10000 + b
        if m.mtype = 2 then s.flueResult p c key m
        else if m.mtype = 1 then
          s.draw.flueEnter p m ⟨1, key, c, m.channel, m.destEpoch, m.srcEpoch, 0, m.mseq, m.mseq, m.aux, (0, 0, 0), Config.creditLine s.draws % 32768, [], some p, []⟩
        else if 2 < m.mtype then s
        else
          let x : Msg := ⟨0, key, c, m.channel, m.destEpoch, m.srcEpoch, m.len, m.mseq, m.mseq, m.aux, (0, 0, 0), 0, payload, some p, []⟩
          let a := flueDest m c
          let held : HeldReq := ⟨a, true, 64 * m.len, payload, 0, some (x, m), none, none⟩
          if (s.master (4 + p)).frozen then (s.keepCredits p m).modMaster (4 + p) (fun k => { k with held := k.held ++ [held] })
          else if s.flueMay p c a (64 * m.len) then s.flueEnter p m x
          else ((s.freezeMaster (4 + p) a true).keepCredits p m).modMaster (4 + p) (fun k => { k with held := k.held ++ [held] })

def execMessage (p : Nat) (h : FlueHdr) (m : FlueMsg) (payload : List Byte) (s : State) : Out :=
  .next (s.flueReceive p h (flueFrames m) (fun s => s.flueMessage p m payload))

/-! ## Mirroring (R181-R183) -/

/-- A mirrored frame takes the place of the standby's own for compute contexts. -/
def State.mirrorFrame (s : State) (p g stamp seq : Nat) (frame : List Byte) : State :=
  if p = mirrorPort s ∧ s.mirror.state = 2 ∧ s.mirrored g then s.frameOut g stamp seq frame false true else s

def execMirrorFrame (p : Nat) (h : FlueHdr) (group stamp seq : Nat) (frame : List Byte) (s : State) : Out :=
  .next (s.flueReceive p h (messageFrames (ceilDiv frame.length 64)) (fun s => s.mirrorFrame p group stamp seq frame))

def execTakeover (p : Nat) (h : FlueHdr) (s : State) : Out :=
  .next (s.flueReceive p h 1 (fun s => if p = mirrorPort s ∧ s.mirror.state = 2 then s.takeover 2 else s))

/-- The active has sent nothing for 10 µs: an IDLE frame serves. -/
def State.mirrorKeepalive (s : State) : State :=
  let p := mirrorPort s
  let now := s.time.up
  if s.mirror.state = 1 ∧ (s.port p).state = 2 ∧ 10000 ≤ now - (s.port p).lastSent then s.sendIdle p else s

def execMirrorKeepalive (s : State) : Out := .next s.mirrorKeepalive

/-- No valid frame from the active for MIRROR_TIMEOUT. -/
def State.mirrorTimeout (s : State) : State :=
  if s.mirror.state = 2 ∧ 1000 * s.cfg 0x2D00 7 ≤ s.time.up - (s.port (mirrorPort s)).lastFrame then s.takeover 1 else s

def execMirrorTimeout (s : State) : Out := .next s.mirrorTimeout

/-- The mark has occurred since the takeover: held outputs are released. -/
def State.mirrorRelease (s : State) : State :=
  if s.mirror.awaitMark && s.mirror.markSeen then
    let s := s.releaseOutputs
    { s with mirror := { s.mirror with markSeen := false } }
  else s

def execMirrorRelease (s : State) : Out := .next s.mirrorRelease

/-- MIRROR_ROLE or MIRROR_PORT has changed at a commit: the pair forms anew with the remote on the link. MIRROR_STATE stays as it is where
the new port is not UP (DESIGN CHOICE: log 175). -/
def State.mirrorCommit (s : State) : State :=
  let own := s.cfg 0x2D00 2
  let q := s.port (mirrorPort s)
  let s := if s.mirror.state = 0 ∨ (own ≠ 0 ∧ s.mirror.state ≠ 4) then s
    else
      let held := s.mirror.holding
      let s := s.setMirror 0 0
      if held then s.releaseOutputs else s
  if q.state = 2 then s.pairMirror (mirrorPort s) q.remoteRole (q.remoteRole == 1) else s

end Sys2Proof.Machine
end

