-- ==== Sys2Proof/Machine/Recorder.lean ====
section
/-! DEFINITION. The Ashpit recorder: rate limits, sort stage, areas, segments, freezes, checkpoints (R322-R330). -/

namespace Sys2Proof.Machine

def foundBase : Nat := 0x05000000
def foundSize : Nat := 0x100000
def rollBase : Nat := 0x05100000
def rollSize : Nat := 0x700000

/-- The source number of the recorder's own records. -/
def ashSource : Nat := 0x0040

/-! ## Records in memory (R322, Table 12.3) -/

/-- Bytes a record of n payload words occupies. -/
def recSize (n : Nat) : Nat := 16 * ceilDiv (16 + 4 * n) 16

def Rec.bytes (r : Rec) : List Byte :=
  let n := r.payload.length
  fit (recSize n) 0 (toLE 8 r.gtc ++ toLE 2 r.src ++ toLE 2 r.code ++ toLE 1 n ++ toLE 1 (packBits [r.supp, r.trunc, r.held, r.late]) ++
    toLE 2 r.seq ++ r.payload.flatMap (toLE 4))

/-- The key of R218; SEQ follows the order of arrival within a source. -/
def Rec.before (a b : Rec) : Bool := decide (a.gtc < b.gtc) || (a.gtc == b.gtc && decide (a.src < b.src))

/-- A record put into a list in key order, after those of its own key. -/
def insertRec (r : Rec) : List Rec → List Rec
  | [] => [r]
  | x :: t => if r.before x then r :: x :: t else x :: insertRec r t

def sortRecs (l : List Rec) : List Rec := l.foldl (fun a r => insertRec r a) []

/-- The next SEQ of a source. -/
def State.takeRecSeq (s : State) (src : Nat) : Nat × State :=
  let n := Tab.get 0 s.ash.seqs src
  (n, { s with ash := { s.ash with seqs := Tab.set s.ash.seqs src ((n + 1) % 65536) } })

/-- A record of the recorder's own. -/
def State.ownRec (s : State) (gtc code : Nat) (payload : List Nat) : Rec × State :=
  let (n, s) := s.takeRecSeq ashSource
  (⟨gtc, ashSource, code, payload, false, false, false, false, n, 0⟩, s)

/-! ## The hub-keep copy (R324, R327) -/

/-- A range of memory taken from another. -/
def Mem.take (m src : Mem) (lo hi : Nat) : Mem := Mem.keepRange m 0 lo ++ Mem.keepRange src lo hi ++ m.filter (fun c => decide (hi ≤ c.1))

/-- A 64 KiB segment goes to the hub keep, with where the founding area and the rolling area stand. -/
def State.persistSegment (s : State) (lo fill head used : Nat) : State :=
  { s with keep := { s.keep with ash := Mem.take s.keep.ash s.mem lo (lo + 65536), ashFill := fill, ashHead := head,
                                 ashOldest := s.ash.rollOldest, ashUsed := used,
                                 prevFill := s.keep.ashFill, prevHead := s.keep.ashHead, prevOldest := s.keep.ashOldest } }

/-- The open segment, the area pointers and the recorder counters go to the hub keep. In the watch state, whose entry has persisted them,
nothing is open (R328). -/
def State.persistOpen (s : State) : State :=
  let a := s.ash
  let lo := if a.foundFill < foundSize then foundBase + a.foundFill / 65536 * 65536 else rollBase + a.rollHead / 65536 * 65536
  let s := if s.pwr.watch then s else s.persistSegment lo a.foundFill a.rollHead a.rollUsed
  let kept := [7, 8, 9, 10].foldl (fun t i => Tab.set t (odKey 0x2A00 i) (s.count 0x2A00 i)) s.keep.counters
  { s with keep := { s.keep with counters := kept, prevCounters := s.keep.counters } }

/-! ## Writing (R322, R324) -/

/-- Bytes laid down in the founding area; a segment they fill is persisted. -/
def State.foundPut (s : State) (bs : List Byte) : State :=
  let a := s.ash.foundFill
  let b := a + bs.length
  let s := s.poke (foundBase + a) bs
  let s := { s with ash := { s.ash with foundFill := b } }
  if a / 65536 = b / 65536 then s
  else s.persistSegment (foundBase + a / 65536 * 65536) (if b % 65536 = 0 then b else a) s.ash.rollHead s.ash.rollUsed

/-- Bytes laid down at the head of the rolling area; a segment the head leaves is persisted. -/
def State.rollPut (s : State) (bs : List Byte) : State :=
  let a := s.ash.rollHead
  let b := (a + bs.length) % rollSize
  let used := s.ash.rollUsed
  let s := s.poke (rollBase + a) bs
  let s := { s with ash := { s.ash with rollHead := b, rollUsed := used + bs.length } }
  if a / 65536 = b / 65536 then s
  else if b % 65536 = 0 then s.persistSegment (rollBase + a / 65536 * 65536) s.ash.foundFill b (used + bs.length)
  else s.persistSegment (rollBase + a / 65536 * 65536) s.ash.foundFill a used

/-- Whole records leave the oldest end until `size` bytes are free. -/
def State.makeRoom (s : State) (size : Nat) : Nat → State
  | 0 => s
  | f + 1 =>
    if s.ash.rollUsed + size ≤ rollSize then s
    else
      let o := s.ash.rollOldest
      let n := if Mem.num s.mem (rollBase + o + 10) 2 = 0 then rollSize - o else recSize (Mem.num s.mem (rollBase + o + 12) 1)
      ({ s with ash := { s.ash with rollOldest := (o + n) % rollSize, rollUsed := s.ash.rollUsed - n } }).makeRoom size f

/-- The rest of an area filled by a PAD record. -/
def State.padBytes (s : State) (n : Nat) : List Byte × State :=
  let (r, s) := s.ownRec s.time.gtc 0 []
  (fit n 0 r.bytes, s)

/-- Telemetry goes out over a port (R283). -/
def State.telemOn (s : State) : Bool := decide (s.cfg 0x2B30 1 < 2) && s.cfg (0x2B20 + s.cfg 0x2B30 1) 1 != 0

/-- A record written waits for the next telemetry datagram. -/
def State.toTelemetry (s : State) (r : Rec) : State :=
  if s.telemOn then { s with telem := { s.telem with unsent := s.telem.unsent ++ [r] } } else s

/-- A record into the founding area, or, once that is full, the rolling area. -/
def State.writeRecord (s : State) (r : Rec) : State :=
  let n := recSize r.payload.length
  let s := if s.ash.foundFill < foundSize ∧ foundSize < s.ash.foundFill + n then
      let (bs, s) := s.padBytes (foundSize - s.ash.foundFill)
      s.foundPut bs
    else s
  let first := s.ash.foundFill = 0
  let s := if s.ash.foundFill + n ≤ foundSize then s.foundPut r.bytes
    else
      let s := if rollSize < s.ash.rollHead + n then
          let gap := rollSize - s.ash.rollHead
          let s := s.makeRoom gap 16
          let (bs, s) := s.padBytes gap
          s.rollPut bs
        else s
      (s.makeRoom n 16).rollPut r.bytes
  let s := { s with ash := { s.ash with lastGtc := r.gtc, firstGtc := if first then r.gtc else s.ash.firstGtc } }
  (s.toTelemetry r).bump 0x2A00 7

/-! ## The hold queue (R326, R327) -/

/-- A record waits in the hold queue of 256, or is dropped and counted. -/
def State.holdRecord (s : State) (r : Rec) : State :=
  if s.ash.hold.length < 256 then { s with ash := { s.ash with hold := s.ash.hold ++ [{ r with held := true }] } }
  else
    let gap := match s.ash.gap with
      | none => (r.gtc, 1, r.suppCount)
      | some (t, n, k) => (t, n + 1, k + r.suppCount)
    ({ s with ash := { s.ash with gap := some gap } }).bump 0x2A00 8

/-- A record leaves the sort stage. -/
def State.leaveSort (s : State) (r : Rec) : State := if s.ash.freeze.isSome || s.ash.checkpoint then s.holdRecord r else s.writeRecord r

/-- In the watch state records go to a retention buffer of 64 KiB, in arrival order. -/
def State.retain (s : State) (r : Rec) : State :=
  let used := sumNat (s.ash.retention.map (fun x => recSize x.payload.length))
  if used + recSize r.payload.length ≤ 65536 then { s with ash := { s.ash with retention := s.ash.retention ++ [r] } }
  else
    let d := match s.ash.retDropped with
      | none => (r.gtc, 1, r.suppCount)
      | some (t, n, k) => (t, n + 1, k + r.suppCount)
    { s with ash := { s.ash with retDropped := some d } }

/-- A record is written: into the areas, or in the watch state, while hub SRAM is off, into the retention buffer (R328). -/
def State.putRecord (s : State) (r : Rec) : State := if s.pwr.watch then s.retain r else s.writeRecord r

/-- A GAP record for what was dropped. -/
def State.writeGap (s : State) (gap : Option (Nat × Nat × Nat)) : State :=
  match gap with
  | none => s
  | some (t, n, k) =>
    let (r, s) := s.ownRec t 4 [min n 0xFFFFFFFF, min k 0xFFFFFFFF]
    s.putRecord r

/-- The hold queue is written, in order or by key, and the GAP record after it. -/
def State.writeHeld (s : State) (byKey : Bool) : State :=
  let l := if byKey then sortRecs s.ash.hold else s.ash.hold
  let gap := s.ash.gap
  let s := { s with ash := { s.ash with hold := [], gap := none } }
  (l.foldl State.putRecord s).writeGap gap

/-- A freeze ends. During a checkpoint the queue waits for its end. -/
def State.endFreeze (s : State) : State :=
  if s.ash.freeze.isNone then s
  else
    let s := { s with ash := { s.ash with freeze := none } }
    if s.ash.checkpoint then s else s.writeHeld false

/-- ASH_FREEZE written. -/
def State.setFreeze (s : State) (v : Bool) : State :=
  if !v then s.endFreeze
  else if s.ash.freeze.isSome then s
  else { s with ash := { s.ash with freeze := some ⟨s.time.up, s.cfg 0x2A00 2⟩ } }

def State.freezeExpiry (s : State) : State :=
  match s.ash.freeze with
  | none => s
  | some f => if f.since + f.max * 1000000000 ≤ s.time.up then s.endFreeze else s

def execFreezeMaxExpiry (s : State) : Out := .next s.freezeExpiry

/-! ## Reaching the recorder (R323, R325, R328) -/

/-- The bucket of a code: device code c and LOG CODE c share one. -/
def bucketOf (code : Nat) : Nat := code % 1024

/-- Tokens of a bucket; a bucket starts full. -/
def State.tokensOf (s : State) (b : Nat) : Nat := min (s.bucketCfg b 3) (Tab.get (s.bucketCfg b 3) s.ash.tokens b)

/-- Payload word 0 taken by the suppressed count. -/
def Rec.carry (r : Rec) (n : Nat) : Rec :=
  if n = 0 then r
  else { r with payload := (min n 0xFFFFFFFF :: r.payload).take 32, supp := true, trunc := decide (32 ≤ r.payload.length), suppCount := min n 0xFFFFFFFF }

/-- The rate limit: the record as it passes, or none where it is suppressed and counted. -/
def State.limit (s : State) (r : Rec) : Option Rec × State :=
  if r.code ≤ 5 then
    let (n, s) := s.takeRecSeq r.src
    (some { r with seq := n }, s)
  else
    let b := bucketOf r.code
    let t := s.tokensOf b
    let k := Tab.get 0 s.ash.supp b
    if t = 0 then (none, ({ s with ash := { s.ash with supp := Tab.set s.ash.supp b (k + 1) } }).bump 0x2A00 9)
    else
      let s := { s with ash := { s.ash with tokens := Tab.set s.ash.tokens b (t - 1), supp := Tab.set s.ash.supp b 0 } }
      let (n, s) := s.takeRecSeq r.src
      (some { (r.carry k) with seq := n }, s)

/-- A record that passed its rate limit, marked LATE where its stamp is more than 1 ms ago: held during a checkpoint, retained in the watch
state, written at once when late, else into the sort stage. -/
def State.acceptRecord (s : State) (r : Rec) : State :=
  let r := { r with late := decide (r.gtc + 1000000 < s.time.gtc) }
  if s.ash.checkpoint then s.holdRecord r
  else if s.pwr.watch then s.retain r
  else if r.late then s.leaveSort r
  else { s with ash := { s.ash with sort := insertRec r s.ash.sort } }

/-- The oldest record on its way reaches the recorder. A LOG record takes the GTC of that instant, and its op completes. -/
def State.recordIn (s : State) : State :=
  match s.ash.inbox with
  | [] => s
  | m :: t =>
    let s := { s with ash := { s.ash with inbox := t } }
    let r := if m.logOp.isSome then { m.record with gtc := s.time.gtc } else m.record
    let (out, s) := s.limit r
    let s := match out with | some r => s.acceptRecord r | none => s
    match m.logOp with
    | some (c, q) => (match s.op c q with | some o => s.completeOp c o 0 | none => s)
    | none => s

def execRecord (s : State) : Out := .next s.recordIn

/-- The record with the lowest key leaves the sort stage once the GTC has passed its stamp by 1 ms. -/
def State.sortRelease (s : State) : State :=
  match s.ash.sort with
  | [] => s
  | r :: t => if r.gtc + 1000000 ≤ s.time.gtc then ({ s with ash := { s.ash with sort := t } }).leaveSort r else s

def execSortRelease (s : State) : Out := .next s.sortRelease

/-- A bucket gains a token, 1/RATE s after the one before. -/
def State.refill (s : State) (b : Nat) : State :=
  let due := match Tab.find s.ash.refilled b with | some t => decide (t + 1000000000 / s.bucketCfg b 2 ≤ s.time.up) | none => true
  if due then
    { s with ash := { s.ash with tokens := Tab.set s.ash.tokens b (min (s.bucketCfg b 3) (s.tokensOf b + 1))
                                 refilled := Tab.set s.ash.refilled b s.time.up } }
  else s

def execTokenRefill (bucket : Nat) (s : State) : Out := .next (s.refill (bucket % 1024))

/-! ## Checkpoints (R327, R328) -/

/-- The sort stage is released at once, in key order. -/
def State.flushSort (s : State) : State :=
  let l := s.ash.sort
  l.foldl State.leaveSort { s with ash := { s.ash with sort := [] } }

/-- Steps 1 to 3: any freeze ends, the sort stage is released, a CHECKPOINT record is written. -/
def State.checkpointRecord (s : State) (why : Nat) : State :=
  let s := (s.endFreeze.flushSort).bump 0x2A00 10
  let (r, s) := s.ownRec s.time.gtc 3 [why]
  s.putRecord r

/-- A checkpoint for PFAIL_N begins; one still running goes on to its own end. -/
def State.checkpointStart (s : State) : State :=
  if s.ash.checkpoint then s
  else
    let s := s.checkpointRecord 0
    { s with ash := { s.ash with checkpoint := true } }

/-- Steps 4 and 5; the records that waited are written by key, unless a freeze still holds them. -/
def State.checkpointEnd (s : State) : State :=
  if !s.ash.checkpoint then s
  else
    let s := s.persistOpen.msix 7
    let s := { s with ash := { s.ash with checkpoint := false, checkpointed := s.meas.pfail } }
    if s.ash.freeze.isSome then s else s.writeHeld true

def execCheckpointComplete (s : State) : Out := .next s.checkpointEnd

/-! ## PFAIL_N (R237, R248, R281) -/

/-- Whether a counter of the dictionary is kept in the hub keep, by its key. -/
def State.kept (s : State) (key : Nat) : Bool :=
  match s.row (key / 256) (key % 256) with
  | some r => r.persist
  | none => false

/-- The PERSIST counters go to the hub keep. -/
def State.persistCounters (s : State) : State :=
  { s with keep := { s.keep with counters := s.counters.filter (fun e => s.kept e.1), prevCounters := s.keep.counters, countersAt := s.time.up } }

/-- A minute has passed since the counters were last persisted (R281). -/
def State.counterMinute (s : State) : State := if s.time.up < s.keep.countersAt + 60000000000 then s else s.persistCounters

def execCounterPersist (s : State) : Out := .next s.counterMinute

/-- PFAIL_N asserted: counted, recorded, a fault cause for the DAC channels that ask for it, and the checkpoint; during an
Ashpit clear the checkpoint waits for its end. -/
def State.pfail (s : State) : State :=
  if s.meas.pfail then s
  else
    let s := { s with meas := { s.meas with pfail := true } }
    let s := (s.bump 0x2470 0x0C).record 0x0010 0x002B []
    let s := (List.range 16).foldl (fun s ch =>
      if s.cfg (dacIdx ch) 0x0F = 1 then (s.modDac ch (fun d => { d with causes := setBit d.causes 3 true })).faultDac ch 3 else s) s
    let s := s.persistCounters.persistTe
    if s.ash.clearing then { s with ash := { s.ash with pfailWaits := true } } else s.checkpointStart

def execPfail (s : State) : Out := .next s.pfail

/-- PFAIL_N high again: no longer a cause, and the rails did not fail. -/
def State.pfailEnd (s : State) : State :=
  let s := (List.range 16).foldl (fun s ch => s.modDac ch (fun d => { d with causes := setBit d.causes 3 false })) s
  { s with meas := { s.meas with pfail := false }, ash := { s.ash with checkpointed := false } }

def execPfailDeassert (s : State) : Out := .next s.pfailEnd

/-! ## Clears (R329) -/

/-- Counters a clear resets: those of 0x2801, the per-core ones, RECORDS, HOLD_OVERFLOW, SUPPRESSED_TOTAL. -/
def clearedCounter (key : Nat) : Bool :=
  let i := key / 256
  let n := key % 256
  i == 0x2801 || (decide (0x3000 ≤ i) && decide (i < 0x3248)) || (i == 0x2A00 && (n == 7 || n == 8 || n == 9))

/-- An accepted clear: sort stage and hold queue drained, both areas and their copies emptied, counters reset, and the
CLEAR record first in the new founding area. -/
def State.clearAsh (s : State) (slot : Nat) : State :=
  let s := s.flushSort.writeHeld false
  let a := s.ash
  let n := s.count 0x2A00 7
  let words := [a.firstGtc % 2 ^ 32, a.firstGtc / 2 ^ 32, n % 2 ^ 32, n / 2 ^ 32, slot, a.lastGtc % 2 ^ 32, a.lastGtc / 2 ^ 32]
  let s := (s.wipe foundBase (rollBase + rollSize)).keepLast (odKey 0x2A00 0x0D) a.lastClear
  let s := { s with
    ash := { s.ash with foundFill := 0, rollHead := 0, rollOldest := 0, rollUsed := 0, clearing := true, lastClear := s.time.gtc },
    keep := { s.keep with ash := [], ashFill := 0, ashHead := 0, ashOldest := 0, ashUsed := 0, prevFill := s.keep.ashFill, prevHead := s.keep.ashHead, prevOldest := s.keep.ashOldest },
    counters := s.counters.filter (fun e => !clearedCounter e.1) }
  let (r, s) := s.ownRec s.time.gtc 1 words
  s.writeRecord r

/-- The clear has finished; a PFAIL_N that came meanwhile is served. -/
def State.clearEnd (s : State) : State :=
  if !s.ash.clearing then s
  else
    let waits := s.ash.pfailWaits
    let s := { s with ash := { s.ash with clearing := false, pfailWaits := false } }
    if waits then s.checkpointStart else s

def execAshClearComplete (s : State) : Out := .next s.clearEnd

/-! ## Reload (R327, R328) -/

/-- Both areas and their pointers come back from the hub keep. -/
def State.ashReload (s : State) : State :=
  let k := s.keep
  { s with mem := Mem.take s.mem k.ash foundBase (rollBase + rollSize),
           ash := { s.ash with foundFill := k.ashFill, rollHead := k.ashHead, rollOldest := k.ashOldest, rollUsed := k.ashUsed } }

/-- POWER_UP: the reset cause, and whether the last power-down or watch entry was checkpointed. -/
def State.powerUpRecord (s : State) (cause : Nat) (ok : Bool) : State :=
  let (r, s) := s.ownRec s.time.gtc 2 [cause, boolNat ok]
  s.writeRecord r

end Sys2Proof.Machine
end

