-- ==== Sys2Proof/Machine/Clocks.lean ====
section
/-! DEFINITION. Reference, generators, dividers, crossings' modes (R285-R297). Domains are numbered as `Divider` says. -/

namespace Sys2Proof.Machine

/-! ## Domains (R287, R289, Table 11.2) -/

/-- The divider a domain is set to. -/
def State.divSet (s : State) (dom : Nat) : Nat :=
  match dom / 10, dom % 10 with
  | 0, 0 => 48
  | 0, 1 => 24
  | 0, 2 => 48
  | 0, 3 => 24
  | 1, d => s.cfg (0x2210 + d) 1
  | 2, d => s.cfg (0x2210 + d) 2
  | _, _ => 12

def State.divider (s : State) (dom : Nat) : Divider := Tab.get ⟨s.divSet dom, s.divSet dom, none⟩ s.clk.divs dom

def State.setDivider (s : State) (dom : Nat) (v : Divider) : State := { s with clk := { s.clk with divs := Tab.set s.clk.divs dom v } }

/-- HUB:TIME is RATIO. -/
def State.hubRatio (s : State) : Bool := s.cfg 0x2200 3 == 1
/-- CORE_d:MESH_d is RATIO. -/
def State.coreRatio (s : State) (d : Nat) : Bool := bit (s.cfg (0x2210 + d) 3) 0
/-- MESH_d:BRIDGE_d is RATIO. -/
def State.bridgeRatio (s : State) (d : Nat) : Bool := bit (s.cfg (0x2210 + d) 3) 1

/-- The generator a domain is to take its clock from (Table 11.2). -/
def State.domSet (s : State) (dom : Nat) : Nat :=
  match dom / 10, dom % 10 with
  | 0, 0 => if s.hubRatio then 1 else 0
  | 0, 1 => 0
  | 0, 2 => 1
  | 0, 3 => 1
  | 1, d => 3 + d
  | 2, d => if s.coreRatio d then 3 + d else 7 + d
  | 3, d => if s.bridgeRatio d && s.coreRatio d then 3 + d else 7 + d
  | 4, d => 7 + d
  | _, _ => 2

/-- The generator a domain takes its clock from: the old one while the domain ramps to the divider it may switch at (R293). -/
def State.domSource (s : State) (dom : Nat) : Nat := (s.divider dom).hold.getD (s.domSet dom)

/-- Two sources differ by less than one divider step at d: the step from d to d + 1 takes 1 / (d + 1) of the frequency. -/
def State.near (s : State) (g h d : Nat) : Bool := decide ((s.genPpm g - s.genPpm h).natAbs * (d + 1) < 1000000)

/-- A domain that has reached d_sw on its old source switches, and ramps back on the new one. -/
def State.switchDue (s : State) (dom : Nat) : State :=
  let v := s.divider dom
  if v.hold.isSome && v.now == v.target then s.setDivider dom ⟨v.now, s.divSet dom, none⟩ else s

/-- d_sw, the divider a domain switches at through a ramp (R293). -/
def State.divSwitch (s : State) (dom : Nat) : Nat := min 255 (4 * s.divSet dom)

/-- A running domain whose source is to change from g: a direct switch, or a ramp to d_sw on the old source first (R293). One
that stands at d_sw already switches there. -/
def State.switchFrom (s : State) (dom g : Nat) : State :=
  let v := s.divider dom
  if s.domSet dom = g ∨ s.near g (s.domSet dom) v.now then s
  else (s.setDivider dom { v with target := s.divSwitch dom, hold := some g }).switchDue dom

/-- Every domain of the part. -/
def State.domains (s : State) : List Nat :=
  [0, 1, 2, 3, 4] ++ (List.range s.part.dies).flatMap (fun d => [10 + d, 20 + d, 30 + d, 40 + d])

/-- The part has the generator. -/
def State.hasGen (s : State) (g : Nat) : Bool := decide (g < 3) || (decide (g < 11) && decide ((g - 3) % 4 < s.part.dies))

/-- Domains a generator feeds. -/
def State.fedBy (s : State) (g : Nat) : List Nat := s.domains.filter (fun dom => s.domSource dom == g)

/-- A domain still has steps to make. -/
def State.ramping (s : State) (dom : Nat) : Bool := (s.divider dom).now != (s.divider dom).target

/-! ## The analogue timebase (R65, R294, R295) -/

/-- An MVM that has not yet written its row goes back to its first read. -/
def MvmOp.reissue (m : MvmOp) (ins : List Int) (todo : List ReadGroup) : MvmOp :=
  { m with inputs := some ins, todo := todo, sums := List.replicate (sliceCount m.ifmt) (List.replicate 128 0), clipped := [],
           refSat := [false, false, false, false], adcClip := false, corrClip := false, combClip := false, reads := 0, lowconf := false,
           lcCause := 0 }

/-- An op after its read slots were invalidated. Its groups are formed anew, by SPLIT_EN and SKIP_ZERO as they stand now (DESIGN CHOICE: log 141). -/
def State.reissueOp (s : State) (c : Nat) (o : Op) : Op :=
  match o.body with
  | .mvm m =>
    match m.inputs with
    | none => o
    | some ins =>
      if m.bound = 0 then o
      else
        let g := s.eng c m.eng
        let todo := mvmReads m.ifmt ins m.bound (240 * m.budget) (g.regs.splitEn && !isSentinel c) g.regs.skipZero
        let n := m.reissue ins todo
        if todo.isEmpty then { o with body := .mvm (n.finish g (isSentinel c)), rows := mvmRows n g.wfmt }
        else { o with body := .mvm n, rows := [] }
  | _ => o

/-- Read slots in flight on a die (4: the sentinel complex) are invalidated and their MVMs re-issued (R65). A test read in flight
goes with them. READ_CNT, SPLIT_CNT and the counts of failed reads keep what the invalidated slots added (DESIGN CHOICE: log 113). -/
def State.invalidateSlots (s : State) (d : Nat) : State :=
  { s with
    engines := s.engines.map (fun e => if dieOf (e.1 / 50) = d then (e.1, { e.2 with test := { e.2.test with running := none } }) else e)
    cores := s.cores.map (fun e =>
      if dieOf e.1 = d then (e.1, { e.2 with seq := { e.2.seq with ops := e.2.seq.ops.map (s.reissueOp e.1) } }) else e) }

/-! ## Lock (R294, R296, R297, Table 11.4) -/

def genIdx (g : Nat) : Nat := 0x2220 + g

/-- PLL_STATE changes; a loss and a return are recorded with source 0x0030 + g. -/
def State.setGenState (s : State) (g st : Nat) (note : Bool) : State :=
  let old := s.gen g
  let s := s.setGen g { old with state := st, since := s.time.up }
  if note then s.record (0x0030 + g) 0x0006 [st, old.state] else s

/-- A domain moves to its pilot at d_sw and will ramp to d_set. MEAS moves at its own d. -/
def State.toPilot (s : State) (dom : Nat) : State :=
  if dom = 3 then s else s.setDivider dom ⟨s.divSwitch dom, s.divSet dom, none⟩

/-- The GTC goes on REF_CLK, or on the pilot where the reference is lost too (Table 8.1). -/
def State.gtcCoarse (s : State) : State :=
  let m : GtcState := if s.clk.refLost then .pilot else .coarse
  let was := s.time.mode
  let s := if was = .coarse ∨ was = .pilot then s else { s with time := { s.time with prev := was } }
  s.setGtcMode m

/-- The cores whose read slots a generator's loss invalidates. -/
def genDie (g : Nat) : Option Nat := if g = 2 then some 4 else if 3 ≤ g then some ((g - 3) % 4) else none

/-- How far a generator's pilot may stand from nominal, in ppm (Table 11.1). -/
def pilotBound (g : Nat) : Int := if g = 2 then 20000 else 15000

/-- The generator that shares a pilot with another: HPLL and TPLL the hub's, CPLL_d and UPLL_d their die's (Table 11.1). -/
def pilotMate (g : Nat) : Option Nat :=
  match g with
  | 0 => some 1
  | 1 => some 0
  | 2 => none
  | g => some (if g < 7 then g + 4 else g - 4)

/-- The frequency error of the pilot a generator moves to: that of its mate already on the same pilot, else a value of its own. -/
def State.pilotOf (s : State) (g : Nat) : Int :=
  match pilotMate g with
  | some h => if (s.gen h).state = 0 then clampInt (-pilotBound g) (pilotBound g) (Config.pilotPpm s.draws) else (s.gen h).pilotPpm
  | none => clampInt (-pilotBound g) (pilotBound g) (Config.pilotPpm s.draws)

/-- A generator out of lock: its domains are on the pilot within 120 ns. One that loses lock again before its return only
goes back to waiting for it. A TPLL loss restarts the decimation windows. -/
def State.lockLoss (s : State) (g : Nat) : State :=
  if !s.hasGen g then s
  else
    match (s.gen g).state with
    | 0 =>
      let s := (s.setGenState g 1 true).bump (genIdx g) 2
      let s := s.setGen g { (s.gen g) with pilotPpm := s.pilotOf g }
      let s := (s.fedBy g).foldl State.toPilot s.draw
      let s := if g = 1 then s.gtcCoarse.restartWindows (fun _ => true) else s
      match genDie g with
      | some d => s.invalidateSlots d
      | none => s
    | 3 => (s.setGenState g 2 true).bump (genIdx g) 2
    | _ => s

def execLockLoss (g : Nat) (s : State) : Out := .next (s.lockLoss g)

/-- A generator on its pilot regains lock; its millisecond begins. -/
def State.pllRelock (s : State) (g : Nat) : State :=
  if s.hasGen g && !s.clk.refLost && ((s.gen g).state == 1 || (s.gen g).state == 2) then s.setGenState g 3 false else s

def execPllRelock (g : Nat) (s : State) : Out := .next (s.pllRelock g)

/-- After 1 ms of lock, and with no ramp still running, the domains return by a direct switch, which LOCK_LOSSES counts too; a TPLL
return ends COARSE and PILOT. -/
def State.pllReturn (s : State) (g : Nat) : State :=
  if (s.gen g).state = 3 ∧ (s.gen g).since + 1000000 ≤ s.time.up ∧ !(s.fedBy g).any s.ramping then
    let s := (s.setGenState g 0 true).bump (genIdx g) 2
    if g = 1 ∧ (s.time.mode = .coarse ∨ s.time.mode = .pilot) then s.setGtcMode s.time.prev else s
  else s

def execPllReturn (g : Nat) (s : State) : Out := .next (s.pllReturn g)

/-- A port's link goes down; the PCIe endpoint has its own reference. -/
def State.linksDown (s : State) : State :=
  let s := { s with links := [(0, false), (1, false)] }
  (List.range 4).foldl (fun s p => s.linkLost p) s

/-- The reference is lost: every generator loses lock, the GTC enters PILOT, Ethernet, Flue and EtherCAT links go down. -/
def State.referenceLost (s : State) : State :=
  if s.clk.refLost then s
  else
    let s := { s with clk := { s.clk with refLost := true } }
    let s := (List.range 11).foldl State.lockLoss s
    s.gtcCoarse.linksDown

def execReferenceLost (s : State) : Out := .next s.referenceLost

/-- The reference is there again; each generator relocks and returns in its own time. -/
def execReferencePresent (s : State) : Out := .next { s with clk := { s.clk with refLost := false } }

/-! ## Ramps (R290, R292) -/

/-- A divider one step nearer its target. -/
def stepToward (now target : Nat) : Nat := if now < target then now + 1 else now - 1

/-- The slower side of a RATIO crossing and its ratio to the faster side, where the pair meets it. -/
def State.follower (s : State) (dom : Nat) : Option (Nat × Nat) :=
  let d := dom % 10
  let n := (s.divider dom).now
  if dom = 2 ∧ s.hubRatio ∧ (s.divider 0).now = n then some (0, 1)
  else if dom / 10 = 1 ∧ s.coreRatio d then
    (if (s.divider (20 + d)).now = n then some (20 + d, 1) else if (s.divider (20 + d)).now = 2 * n then some (20 + d, 2) else none)
  else if dom / 10 = 2 ∧ s.bridgeRatio d ∧ (s.divider (30 + d)).now = n then some (30 + d, 1)
  else none

/-- The dividers that follow a domain, each with its ratio to it: the slower side of its crossing, and what follows that. -/
def State.followers (s : State) (dom : Nat) : List (Nat × Nat) :=
  match s.follower dom with
  | none => []
  | some (f, r) =>
    match s.follower f with
    | none => [(f, r)]
    | some (g, q) => [(f, r), (g, r * q)]

/-- A domain that is led through a RATIO crossing steps with its leader. -/
def State.led (s : State) (dom : Nat) : Bool :=
  [2, 10 + dom % 10, 20 + dom % 10].any (fun l => l != dom && s.ramping l && (s.followers l).any (fun f => f.1 == dom))

/-- One step of a domain's own divider, and of the dividers that follow it. -/
def State.stepDivider (s : State) (dom : Nat) : State :=
  let v := s.divider dom
  let n := stepToward v.now v.target
  (s.followers dom).foldl (fun t f => t.setDivider f.1 { (t.divider f.1) with now := f.2 * n }) (s.setDivider dom { v with now := n })

/-- Ramps that have ended leave PLL_STATE 2 behind. -/
def State.rampEnds (s : State) : State :=
  (List.range 11).foldl (fun s g => if (s.gen g).state = 1 ∧ !(s.fedBy g).any s.ramping then s.setGenState g 2 false else s) s

def State.dividerStep (s : State) (dom : Nat) : State :=
  if !s.domains.contains dom || !s.ramping dom || s.led dom then s else ((s.stepDivider dom).switchDue dom).rampEnds

def execDividerStep (dom : Nat) (s : State) : Out := .next (s.dividerStep dom)

/-- CORE_DIV or MESH_DIV committed: the domain ramps from where it stands; one on its way to a switch goes to the new d_sw first. -/
def State.divCommit (s : State) (dom old : Nat) : State :=
  let v := Tab.get ⟨old, old, none⟩ s.clk.divs dom
  (s.setDivider dom { v with target := if v.hold.isSome then s.divSwitch dom else s.divSet dom }).switchDue dom

/-! ## Bridges (R313) and the reset handshake of crossings (R303) -/

def State.bridge (s : State) (b : Nat) : Bridge := Tab.get Bridge.reset s.svc.bridges b
def State.setBridge (s : State) (b : Nat) (v : Bridge) : State := { s with svc := { s.svc with bridges := Tab.set s.svc.bridges b v } }

/-! ## Errors in words and flits (R311, R312) -/

/-- The core whose SRAM holds an address. -/
def coreAt (a : Nat) : Option Nat := if 0x40000000 ≤ a ∧ a < 0x89000000 then some ((a - 0x40000000) / 0x200000) else none

/-- The source number of an ECC record: the core, or the hub. -/
def eccSource (a : Nat) : Nat := match coreAt a with | some c => coreSource c | none => 0

/-- Addresses of a scrub access: a word of the system address map; from 2^32 a byte of the hub keep; from 2^33 an entry of a
sum store, 512 to an engine; from 2^34 a flit on its way, from 2^38 of a bridge. The words of its record: a flit has no address, and its word is free (log 162). -/
def eccWords (a : Nat) : List Nat :=
  if a < 2 ^ 32 then [a / 8 * 8]
  else if a < 2 ^ 33 then [0xFFFFFFFF, (a - 2 ^ 32) / 8 * 8]
  else if 2 ^ 34 ≤ a then [Config.flitWord a % 2 ^ 32]
  else
    let k := a - 2 ^ 33
    [0xFFFFFFFE, k / 512 / 50 % 65536 + k / 512 % 50 * 2 ^ 16 + k % 512 * 2 ^ 22]

/-- An uncorrectable error is counted, recorded and becomes LAST_UE. -/
def State.noteUe (s : State) (a : Nat) : State :=
  let s := ((s.bump 0x2C00 4).record (eccSource a) 0x0011 (eccWords a)).keepLast (odKey 0x2C00 8) s.svc.lastUe
  { s with svc := { s.svc with lastUe := (eccWords a).headD 0 + eccSource a * 2 ^ 32 } }

/-- A flit that arrives with an uncorrectable error, which is counted and recorded as every one is (R312), is replayed; the sixteenth in a row is followed by a retrain. -/
def State.bridgeReplay (s : State) (b : Nat) : State :=
  if !s.hasBridge b || (s.bridge b).training then s
  else (s.setBridge b { (s.bridge b) with replays := (s.bridge b).replays + 1 }).bump 0x2C00 9 |>.noteUe (2 ^ 38 + b)

def execBridgeReplay (b : Nat) (s : State) : Out := .next (s.bridgeReplay b)

def State.bridgeRetrain (s : State) (b : Nat) : State :=
  if 16 ≤ (s.bridge b).replays then s.setBridge b { (s.bridge b) with training := true } else s

def execBridgeRetrain (b : Nat) (s : State) : Out := .next (s.bridgeRetrain b)

/-- The retrain ends and the stalled senders go on. -/
def State.bridgeRetrained (s : State) (b : Nat) : State :=
  if (s.bridge b).training then
    let s := s.setBridge b { (s.bridge b) with replays := 0, training := false }
    s.cores.foldl (fun t e => t.settle e.1) ((List.range 4).foldl State.portResume s)
  else s

def execBridgeRetrained (b : Nat) (s : State) : Out := .next (s.bridgeRetrained b)

end Sys2Proof.Machine
end

