-- ==== Sys2Proof/Machine/Names.lean ====
section
/-! DEFINITION. The names and types of the objects, as their tables give them (Tables 3.6, 4.10, 6.3, 6.9, 7.9, 8.5, 9.3, 9.4, 10.3, 10.5,
10.13, 11.8, 12.5), and what SDO information answers (R258, Table 10.2). -/

namespace Sys2Proof.Machine

/-- Name and type of the subindices from `sub` on; a numbered name goes on with 0, 1, ... -/
structure NameRow where
  sub : Nat
  name : String
  type : Nat
  numbered : Bool
  deriving DecidableEq, Repr

/-- The data type codes of CiA 301, which the spec names and does not number (PRESUMED: log 122). -/
def tBool : Nat := 0x1
def tI16 : Nat := 0x3
def tI32 : Nat := 0x4
def tU8 : Nat := 0x5
def tU16 : Nat := 0x6
def tU32 : Nat := 0x7
def tStr : Nat := 0x9
def tOct : Nat := 0xA
def tI64 : Nat := 0x15
def tU64 : Nat := 0x1B

def commNames : List (Nat × Nat × List NameRow) :=
  [(0x1000, 0x1000, [⟨0, "Device type", tU32, false⟩]),
   (0x1008, 0x1008, [⟨0, "Device name", tStr, false⟩]),
   (0x1009, 0x1009, [⟨0, "Hardware version", tStr, false⟩]),
   (0x100A, 0x100A, [⟨0, "Software version", tStr, false⟩]),
   (0x1018, 0x1018, [⟨1, "Vendor ID", tU32, false⟩, ⟨2, "Product code", tU32, false⟩, ⟨3, "Revision", tU32, false⟩,
      ⟨4, "Serial number", tU32, false⟩]),
   (0x1600, 0x1603, [⟨1, "RxPDO mapping", tU32, false⟩]),
   (0x1A00, 0x1A03, [⟨1, "TxPDO mapping", tU32, false⟩]),
   (0x1C00, 0x1C00, [⟨1, "SM type", tU8, false⟩]),
   (0x1C12, 0x1C12, [⟨1, "RxPDO assign", tU16, false⟩]),
   (0x1C13, 0x1C13, [⟨1, "TxPDO assign", tU16, false⟩]),
   (0x1C32, 0x1C33, [⟨1, "SM synchronisation type", tU16, false⟩, ⟨2, "SM cycle time", tU32, false⟩])]

def coreNames : List (Nat × Nat × List NameRow) :=
  [(0x2000, 0x2000, [⟨1, "VARIANT", tU8, false⟩, ⟨2, "GRADE", tU8, false⟩, ⟨3, "DIES_FITTED", tU8, false⟩,
      ⟨4, "CONTRACT_MIN", tU16, false⟩, ⟨5, "CONTRACT_MAX", tU16, false⟩]),
   (0x2001, 0x2001, [⟨1, "ENG_ROWS", tU16, false⟩, ⟨2, "QUARTER_ROWS", tU16, false⟩, ⟨3, "ENG_COLS_W5", tU16, false⟩,
      ⟨4, "ENG_COLS_W9", tU16, false⟩, ⟨5, "LEVELS", tU8, false⟩, ⟨6, "REF_COLS", tU8, false⟩,
      ⟨7, "REPAIR_COLS", tU8, false⟩, ⟨8, "ENG_LOGICAL", tU8, false⟩, ⟨9, "ENG_PHYSICAL", tU8, false⟩,
      ⟨10, "READ_SLOT_NS", tU16, false⟩, ⟨11, "LLIM_UNIT", tU16, false⟩, ⟨12, "TILES", tU8, false⟩,
      ⟨13, "TILE_ROWS", tU8, false⟩, ⟨14, "TILE_LANES", tU16, false⟩, ⟨15, "AB_BYTES", tU32, false⟩,
      ⟨16, "PLAN_INSTR", tU16, false⟩, ⟨17, "OPS_IN_FLIGHT", tU8, false⟩, ⟨18, "PEER_SLOTS", tU8, false⟩,
      ⟨19, "DOU_MACS", tU16, false⟩, ⟨20, "CORES_PER_DIE", tU16, false⟩, ⟨21, "CORES_ADDR_DIE", tU16, false⟩,
      ⟨22, "DIE_SYNC", tU32, false⟩, ⟨23, "HUB_SYNC", tU32, false⟩, ⟨24, "CONTEXTS", tU8, false⟩,
      ⟨25, "HUB_SRAM", tU32, false⟩]),
   (0x2002, 0x2002, [⟨1, "CORES_IN_SERVICE", tU16, false⟩, ⟨2, "IN_SERVICE_", tU32, true⟩, ⟨21, "CORES_FREE", tU16, false⟩]),
   (0x2100, 0x2100, [⟨1, "SET_CMD", tU32, false⟩, ⟨2, "SET_STATE", tU8, false⟩, ⟨3, "SET_RESULT", tU8, false⟩,
      ⟨4, "SET_OWNER", tU16, false⟩, ⟨5, "SET_DIRTY", tU32, false⟩, ⟨6, "LAST_COMMIT", tU64, false⟩,
      ⟨7, "COMMITS", tU32, false⟩, ⟨8, "SET_VIEW", tU8, false⟩]),
   (0x2200, 0x2200, [⟨1, "REF_STATE", tU8, false⟩, ⟨2, "CLK_EN", tU16, false⟩, ⟨3, "XING_HUB", tU8, false⟩,
      ⟨4, "POWER_CMD", tU8, false⟩, ⟨5, "POWER_STATE", tU8, false⟩, ⟨6, "WATCH_WAKE", tU64, false⟩,
      ⟨7, "READY", tU8, false⟩, ⟨8, "T_SENT_READY", tU32, false⟩, ⟨9, "T_COMPUTE_READY", tU32, false⟩,
      ⟨10, "RESET_CAUSE", tU8, false⟩, ⟨11, "RESET_CMD", tU32, false⟩, ⟨12, "POWER_UPS", tU32, false⟩,
      ⟨13, "XING_DROPPED_HUB", tU32, false⟩]),
   (0x2210, 0x2213, [⟨1, "CORE_DIV", tU8, false⟩, ⟨2, "MESH_DIV", tU8, false⟩, ⟨3, "XING_DIE", tU8, false⟩,
      ⟨4, "DIE_POWER", tU8, false⟩, ⟨5, "CORES_ON", tU8, false⟩, ⟨6, "XING_DROPPED", tU32, false⟩]),
   (0x2220, 0x222A, [⟨1, "PLL_STATE", tU8, false⟩, ⟨2, "LOCK_LOSSES", tU32, false⟩, ⟨3, "PILOT_PPM", tI32, false⟩])]

def timeNames : List (Nat × Nat × List NameRow) :=
  [(0x2300, 0x2300, [⟨1, "GTC_NOW", tU64, false⟩, ⟨2, "TIME_SOURCE", tU8, false⟩, ⟨3, "TIME_STATE", tU8, false⟩,
      ⟨4, "OFFSET_NS", tI32, false⟩, ⟨5, "RATE_ADJ", tI32, false⟩, ⟨6, "LOCK_WIN", tU32, false⟩,
      ⟨7, "HOLDOVER_SINCE", tU64, false⟩, ⟨8, "HOLDOVER_COUNT", tU32, false⟩, ⟨9, "STEP_REQ", tI64, false⟩,
      ⟨10, "DC_OFFSET", tI64, false⟩, ⟨11, "PPS_EDGE", tU8, false⟩, ⟨12, "LATCH0_GTC", tU64, false⟩,
      ⟨13, "LATCH1_GTC", tU64, false⟩]),
   (0x2310, 0x2317, [⟨1, "TRK_SOURCE", tU8, false⟩, ⟨2, "TRK_INPUT", tU8, false⟩, ⟨3, "F_MIN", tU32, false⟩,
      ⟨4, "F_MAX", tU32, false⟩, ⟨5, "PHASE_OFFSET", tU32, false⟩, ⟨6, "ENC_PPR", tU32, false⟩,
      ⟨7, "REVERSE_OK", tBool, false⟩, ⟨8, "BANDWIDTH", tU16, false⟩, ⟨9, "TRK_STATE", tU8, false⟩,
      ⟨10, "PHASE", tU32, false⟩, ⟨11, "FREQ", tI32, false⟩, ⟨12, "LOCK_LOSSES", tU32, false⟩]),
   (0x2320, 0x2320, [⟨1, "MARK_", tU64, true⟩]),
   (0x2330, 0x2330, [⟨1, "SENT_LATE_COUNT", tU32, false⟩, ⟨2, "SENT_WD", tU32, false⟩, ⟨3, "WD_FAULT", tBool, false⟩])]

def measureNames : List (Nat × Nat × List NameRow) :=
  [(0x2400, 0x245F, [⟨1, "SD_MODE", tU8, false⟩, ⟨2, "SD_CLK", tU8, false⟩, ⟨3, "SD_EDGE_DLY", tU8, false⟩,
      ⟨4, "DEC_OSR", tU16, false⟩, ⟨5, "DEC_SHIFT", tU8, false⟩, ⟨6, "CMP_EN", tBool, false⟩,
      ⟨7, "CMP_OSR", tU8, false⟩, ⟨8, "CMP_HI", tI16, false⟩, ⟨9, "CMP_LO", tI16, false⟩,
      ⟨10, "CMP_HYST", tU16, false⟩, ⟨11, "FAULT_EVT", tU8, false⟩, ⟨12, "SUBST", tI16, false⟩,
      ⟨13, "CH_STATUS", tU8, false⟩, ⟨14, "FAULTS", tU32, false⟩, ⟨15, "EVENTS", tU32, false⟩,
      ⟨16, "LAST_RESULT", tI16, false⟩, ⟨17, "SLOT_OVERRUN", tU32, false⟩]),
   (0x2460, 0x246F, [⟨1, "AUX_EN", tBool, false⟩, ⟨2, "AUX_LAST", tU16, false⟩]),
   (0x2470, 0x2470, [⟨1, "MCLK_CFG", tU16, true⟩, ⟨9, "MCLK_FAULT", tU8, false⟩, ⟨10, "AUX_TRIG", tU8, false⟩,
      ⟨11, "CSYNC_EDGE", tU8, false⟩, ⟨12, "PFAIL_COUNT", tU32, false⟩, ⟨13, "PFAIL_ACTIVE", tBool, false⟩]),
   (0x2480, 0x248F, [⟨1, "FG_CH", tU32, true⟩, ⟨4, "FG_AUX", tU16, false⟩, ⟨5, "FG_DEPTH", tU8, false⟩, ⟨6, "FG_FMT", tU8, false⟩,
      ⟨7, "FG_TRIG", tU8, false⟩, ⟨8, "FG_DEST", tU16, true⟩, ⟨12, "FG_RING", tU8, false⟩,
      ⟨13, "FG_STATE", tU8, false⟩, ⟨14, "FG_FRAMES", tU64, false⟩, ⟨15, "FG_TRUNC", tU32, false⟩,
      ⟨16, "FG_ABANDON", tU32, false⟩, ⟨17, "FG_SHARE_DROP", tU32, false⟩]),
   (0x2490, 0x249F, [⟨1, "RING_WPTR", tU64, false⟩, ⟨2, "RING_CTRL", tU8, false⟩, ⟨3, "RING_TRIPMASK", tU32, false⟩,
      ⟨4, "RING_POST", tU32, false⟩, ⟨5, "RING_DISCARD", tU32, false⟩])]

def outputNames : List (Nat × Nat × List NameRow) :=
  [(0x2500, 0x250F, [⟨1, "DAC_RANGE", tU8, false⟩, ⟨2, "DAC_GRANT", tU8, false⟩, ⟨3, "SCLK_SRC", tU8, false⟩,
      ⟨4, "SCLK_PERIOD", tU32, false⟩, ⟨5, "SCLK_ANCHOR", tU64, false⟩, ⟨6, "CLEAR_CODE", tU16, false⟩,
      ⟨7, "FAULT_ACT", tU8, false⟩, ⟨8, "UNDERRUN_LIM", tU16, false⟩, ⟨9, "DAC_PATH", tU8, false⟩,
      ⟨10, "FAST_SRC", tU8, false⟩, ⟨11, "FAST_DIV", tU16, false⟩, ⟨12, "RAMP", tU64, false⟩,
      ⟨13, "PAT_LEN", tU16, false⟩, ⟨14, "INJECT", tU8, false⟩, ⟨15, "PFAIL_FAULT", tBool, false⟩,
      ⟨16, "DAC_WRITE", tU16, false⟩, ⟨17, "DAC_STATUS", tU32, false⟩, ⟨18, "DAC_CMD", tU8, false⟩,
      ⟨19, "UNDERRUNS", tU32, false⟩, ⟨20, "DISCARDED", tU32, false⟩, ⟨21, "LAST_CODE", tU16, false⟩]),
   (0x2520, 0x253F, [⟨1, "TRIP_EN", tBool, false⟩, ⟨2, "TRIP_POL", tU8, false⟩, ⟨3, "TRIP_MODE", tU8, false⟩,
      ⟨4, "TRIP_MIN_ON", tU16, false⟩, ⟨5, "TRIP_GRANT", tU8, false⟩, ⟨6, "TRIP_STATE", tU8, false⟩,
      ⟨7, "TRIP_CMD", tU8, false⟩, ⟨8, "TRIP_COUNT", tU32, false⟩, ⟨9, "SAME_TICK", tU32, false⟩,
      ⟨10, "LAST_CAUSE", tU32, false⟩]),
   (0x2540, 0x255F, [⟨1, "BSTOP_MASK", tU32, true⟩]),
   (0x2560, 0x2560, [⟨1, "FAULT_CAUSE", tU16, false⟩, ⟨2, "FAULT_MASK", tU16, false⟩, ⟨3, "FAULTN_STATE", tBool, false⟩,
      ⟨4, "DAC_FAULTN", tU16, false⟩])]

def weightNames : List (Nat × Nat × List NameRow) :=
  [(0x2600, 0x2600, [⟨1, "CTX_CMD", tU64, false⟩, ⟨2, "CMD_STATUS", tU32, false⟩, ⟨3, "ECLOSE_MARGIN", tU8, false⟩,
      ⟨4, "ECLOSE_TIME", tU64, false⟩, ⟨5, "ECLOSE_MARK", tU8, false⟩, ⟨6, "CONTEXTS_LOADED", tU8, false⟩]),
   (0x2610, 0x264F, [⟨1, "CTX_STATE", tU8, false⟩, ⟨2, "POINTER", tU8, false⟩, ⟨3, "SWITCH_AT", tU32, false⟩,
      ⟨4, "BANK0_STATE", tU8, false⟩, ⟨5, "BANK1_STATE", tU8, false⟩, ⟨6, "BANK0_IMAGE", tU64, false⟩,
      ⟨7, "BANK1_IMAGE", tU64, false⟩, ⟨8, "PROGRESS", tU32, false⟩, ⟨9, "ECLOSIONS", tU32, false⟩,
      ⟨10, "LAST_ECLOSION", tU64, false⟩, ⟨11, "LOAD_STATUS", tU8, false⟩, ⟨12, "SOURCE", tU8, false⟩]),
   (0x2700, 0x2700, [⟨1, "FETCH_ADDR", tU32, false⟩, ⟨2, "FETCH_TCP_PORT", tU16, false⟩, ⟨3, "FETCH_SUBNQN", tStr, false⟩,
      ⟨4, "FETCH_HOSTNQN", tStr, false⟩, ⟨5, "FETCH_NSID", tU32, false⟩, ⟨6, "FETCH_START_LBA", tU64, false⟩,
      ⟨7, "FETCH_QUEUES", tU8, false⟩, ⟨8, "FETCH_QDEPTH", tU8, false⟩, ⟨9, "FETCH_DIGESTS", tU8, false⟩,
      ⟨10, "FETCH_ETH", tU8, false⟩, ⟨11, "FETCH_TIMEOUT", tU16, false⟩, ⟨12, "FETCH_RETRIES", tU8, false⟩,
      ⟨13, "FETCH_KATO", tU16, false⟩, ⟨14, "STAGE_SLOTS", tU16, false⟩]),
   (0x2701, 0x2701, [⟨1, "FETCH_STATE", tU8, false⟩, ⟨2, "BYTES_STAGED", tU64, false⟩, ⟨3, "LAST_NVME_STATUS", tU16, false⟩,
      ⟨4, "RECONNECTS", tU32, false⟩, ⟨5, "DIGEST_ERRORS", tU32, false⟩]),
   (0x2710, 0x2710, [⟨1, "DAMPER_BUDGET", tU16, false⟩, ⟨2, "STOKE_SHARE", tU8, false⟩, ⟨3, "PV_TOL", tU16, false⟩,
      ⟨4, "DAMPER_NOW", tU16, false⟩, ⟨5, "PULSES_TOTAL", tU64, false⟩, ⟨6, "AT_BUDGET", tU64, false⟩]),
   (0x2720, 0x2720, [⟨1, "BLOCK_WANT", tU64, false⟩, ⟨2, "BLOCK_READY", tU32, false⟩])]

def healthNames : List (Nat × Nat × List NameRow) :=
  [(0x2800, 0x2800, [⟨1, "STOKE_EN", tBool, false⟩, ⟨2, "STOKE_TOL", tU16, false⟩, ⟨3, "SURVEY_PERIOD", tU32, false⟩,
      ⟨4, "TEST_PERIOD", tU16, false⟩, ⟨5, "TRACK_PERIOD", tU16, false⟩, ⟨6, "CONF_THRESH", tU8, false⟩,
      ⟨7, "CONF_REPEAT", tU8, false⟩, ⟨8, "RENEW_FLOOR", tU16, false⟩, ⟨9, "RETIRE_SCHED", tU8, false⟩,
      ⟨10, "RETIRE_NOW", tU8, false⟩, ⟨11, "COL_RES_LIM", tU16, false⟩, ⟨12, "TEST_COL_LIM", tU8, false⟩,
      ⟨13, "TRACK_EN", tBool, false⟩]),
   (0x2801, 0x2801, [⟨1, "ENG_IN_SERVICE", tU32, false⟩, ⟨2, "ENG_SCHED", tU32, false⟩, ⟨3, "ENG_DEAD", tU32, false⟩,
      ⟨4, "SPARES_FREE", tU32, false⟩, ⟨5, "CONF_FAIL_TOTAL", tU64, false⟩, ⟨6, "LOWCONF_TOTAL", tU64, false⟩,
      ⟨7, "STOKED_DEVICES", tU64, false⟩, ⟨8, "RETIRE_WAIT", tU32, false⟩, ⟨9, "TRACK_SKIPPED", tU32, false⟩]),
   (0x2802, 0x2802, [⟨1, "RETIRE_ENGINE", tU32, false⟩, ⟨2, "RETIRE_COLUMN", tU32, false⟩, ⟨3, "SURVEY_NOW", tU32, false⟩]),
   (0x2810, 0x2810, [⟨1, "DEF_COUNT", tU32, false⟩, ⟨2, "GENERATION", tU32, false⟩, ⟨3, "CURSOR", tU32, false⟩,
      ⟨4, "DEF_ENTRY", tU64, false⟩, ⟨5, "OVERFLOW", tU32, false⟩]),
   (0x2820, 0x2820, [⟨1, "ENG_SEL", tU32, false⟩, ⟨2, "HEALTH", tU8, false⟩, ⟨3, "T_E", tU16, false⟩, ⟨4, "ENG_STATE", tU8, false⟩,
      ⟨5, "STUCK", tU16, false⟩, ⟨6, "REF_MASK", tU8, false⟩, ⟨7, "CONF_PPM", tU32, false⟩,
      ⟨8, "LOWCONF_24H", tU16, false⟩, ⟨9, "TEST_RMS", tU16, false⟩, ⟨10, "LAST_SURVEY", tU64, false⟩,
      ⟨11, "OVERDUE", tU16, false⟩, ⟨12, "PENALTIES", tU32, false⟩]),
   (0x2900, 0x2900, [⟨1, "CAL_GENERATION", tU32, false⟩, ⟨2, "CAL_RESTORE", tU32, false⟩]),
   (0x2A00, 0x2A00, [⟨1, "ASH_FREEZE", tBool, false⟩, ⟨2, "FREEZE_MAX", tU16, false⟩, ⟨3, "ASH_STATE", tU8, false⟩,
      ⟨4, "FOUND_FILL", tU32, false⟩, ⟨5, "ROLL_HEAD", tU32, false⟩, ⟨6, "ROLL_OLDEST", tU32, false⟩,
      ⟨7, "RECORDS", tU64, false⟩, ⟨8, "HOLD_OVERFLOW", tU32, false⟩, ⟨9, "SUPPRESSED_TOTAL", tU64, false⟩,
      ⟨10, "CHECKPOINTS", tU32, false⟩, ⟨11, "CLEAR_CHAL", tOct, false⟩, ⟨12, "ASH_CLEAR", tOct, false⟩,
      ⟨13, "LAST_CLEAR", tU64, false⟩]),
   (0x2A10, 0x2A10, [⟨1, "BUCKET_SEL", tU16, false⟩, ⟨2, "RATE", tU16, false⟩, ⟨3, "BURST", tU16, false⟩,
      ⟨4, "SUPP_NOW", tU32, false⟩])]

def sessionNames : List (Nat × Nat × List NameRow) :=
  [(0x2B00, 0x2B00, [⟨1, "SESSION_LEVEL", tU8, false⟩, ⟨2, "AUTH_SLOT", tU8, false⟩, ⟨3, "AUTH_CHALLENGE", tOct, false⟩,
      ⟨4, "AUTH_RESPONSE", tOct, false⟩, ⟨5, "AUTH_DROP", tU8, false⟩, ⟨6, "AUTH_FAILS", tU32, false⟩,
      ⟨7, "MASTER_RELEASE", tU32, false⟩]),
   (0x2B01, 0x2B01, [⟨1, "KEY_SLOT_", tU8, true⟩]),
   (0x2B02, 0x2B02, [⟨1, "KEY_WRITE", tOct, false⟩]),
   (0x2B10, 0x2B17, [⟨1, "MWIN_", tU64, true⟩, ⟨17, "MASTER_STATE", tU8, false⟩, ⟨18, "VIOLATION", tU64, false⟩,
      ⟨19, "VIOLATION_GTC", tU64, false⟩, ⟨20, "HELD", tU16, false⟩, ⟨21, "DROPPED", tU32, false⟩]),
   (0x2B20, 0x2B21, [⟨1, "IP_ADDR", tU32, false⟩, ⟨2, "NETMASK", tU32, false⟩, ⟨3, "GATEWAY", tU32, false⟩,
      ⟨4, "OD_PORT", tU16, false⟩, ⟨5, "MAC_ADDR", tU64, false⟩, ⟨6, "LINK_STATE", tU8, false⟩,
      ⟨7, "UDP_DROPPED", tU32, false⟩]),
   (0x2B30, 0x2B30, [⟨1, "TELEM_ETH", tU8, false⟩, ⟨2, "TELEM_ADDR", tU32, false⟩, ⟨3, "TELEM_PORT", tU16, false⟩,
      ⟨4, "TELEM_PERIOD", tU16, false⟩]),
   (0x2B31, 0x2B31, [⟨1, "TELEM_LIST_", tU32, true⟩]),
   (0x2B40, 0x2B7F, [⟨1, "CTX_WIN_", tU64, true⟩, ⟨15, "CTX_SYNC_DIE", tU64, false⟩, ⟨16, "CTX_SYNC_HUB", tU64, false⟩]),
   (0x2B80, 0x2B80, [⟨1, "FW_ACTIVE", tU8, false⟩, ⟨2, "FW_VERSION_", tU32, true⟩, ⟨4, "FW_LEN", tU32, false⟩,
      ⟨5, "FW_CMD", tU8, false⟩, ⟨6, "FW_STATUS", tU8, false⟩]),
   (0x2C00, 0x2C00, [⟨1, "SCRUB_PERIOD", tU16, false⟩, ⟨2, "SCRUB_KEEP_PERIOD", tU32, false⟩, ⟨3, "CE_TOTAL", tU64, false⟩,
      ⟨4, "UE_TOTAL", tU64, false⟩, ⟨5, "SCRUB_PASSES", tU64, false⟩, ⟨6, "SCRUB_LATE", tU32, false⟩,
      ⟨7, "PERSIST_WORDS", tU32, false⟩, ⟨8, "LAST_UE", tU64, false⟩, ⟨9, "BRIDGE_REPLAYS", tU64, false⟩,
      ⟨10, "CE_LIMIT", tU16, false⟩]),
   (0x2C10, 0x2C10, [⟨1, "CORE_REPLACE", tU16, false⟩, ⟨2, "SPARE_CORES_", tU8, true⟩, ⟨6, "CORE_REPLACEMENTS", tU32, false⟩,
      ⟨7, "REPLACE_STATE_", tU8, true⟩, ⟨12, "REPLACE_CORE_", tU16, true⟩, ⟨17, "REPLACE_QUEUED_", tU8, true⟩]),
   (0x2D00, 0x2D00, [⟨1, "MODULE_ID", tU16, false⟩, ⟨2, "MIRROR_ROLE", tU8, false⟩, ⟨3, "MIRROR_PORT", tU8, false⟩,
      ⟨4, "MIRROR_GROUPS", tU16, false⟩, ⟨5, "MIRROR_TRIPS", tU32, false⟩, ⟨6, "MIRROR_DACS", tU16, false⟩,
      ⟨7, "MIRROR_TIMEOUT", tU16, false⟩, ⟨8, "MIRROR_MARK", tU8, false⟩, ⟨9, "MIRROR_IND", tU8, false⟩,
      ⟨10, "MIRROR_ON_FAULT", tBool, false⟩, ⟨11, "MIRROR_CMD", tU8, false⟩, ⟨12, "MIRROR_STATE", tU8, false⟩,
      ⟨13, "TAKEOVERS", tU32, false⟩]),
   (0x2D08, 0x2D0B, [⟨1, "FLUE_STATE", tU8, false⟩, ⟨2, "REMOTE_ID", tU16, false⟩, ⟨3, "REMOTE_SERIAL", tU32, false⟩,
      ⟨4, "REMOTE_PORT", tU8, false⟩, ⟨5, "FRAMES_TX", tU64, false⟩, ⟨6, "FRAMES_RX", tU64, false⟩,
      ⟨7, "REPLAYS", tU32, false⟩, ⟨8, "RETRAINS", tU32, false⟩, ⟨9, "FLUE_REFUSED", tU32, false⟩]),
   (0x2D20, 0x2D5F, [⟨1, "FLUE_BIND_", tU64, true⟩])]

def processNames : List (Nat × Nat × List NameRow) :=
  [(0x3000, 0x3247, [⟨1, "CORE_STATE", tU8, false⟩, ⟨2, "CTX", tU8, false⟩, ⟨3, "ROLE_EPOCH", tU16, false⟩,
      ⟨4, "PLAN_BANK", tU8, false⟩, ⟨5, "PC", tU16, false⟩, ⟨6, "LAST_FAULT", tU32, false⟩,
      ⟨7, "OPS_IN_FLIGHT", tU8, false⟩, ⟨8, "ISSUE_STALLS", tU64, false⟩, ⟨9, "NACK_SENT", tU32, false⟩,
      ⟨10, "NACK_REFUSED", tU32, false⟩, ⟨11, "RETQ_DROPPED", tU32, false⟩, ⟨12, "CROSS_DROPPED", tU32, false⟩,
      ⟨13, "FRAME_OVERWRITE", tU32, false⟩, ⟨14, "AGE_WINS", tU32, false⟩, ⟨15, "HOST_DISCARD", tU32, false⟩,
      ⟨16, "FRAME_WIN", tU64, true⟩]),
   (0x6000, 0x6000, [⟨1, "CH_RESULT_", tI16, true⟩]),
   (0x6001, 0x6001, [⟨1, "AUX_RESULT_", tU16, true⟩]),
   (0x6010, 0x6010, [⟨1, "TRIP_STATES", tU32, false⟩, ⟨2, "FAULT_STATE", tU16, false⟩, ⟨3, "GTC_SNAP", tU64, false⟩]),
   (0x6020, 0x6020, [⟨1, "PHASE_", tU32, true⟩]),
   (0x6800, 0x6800, [⟨1, "TX_WORD_", tU32, true⟩]),
   (0x6801, 0x6801, [⟨1, "TX_ADDR_", tU32, true⟩]),
   (0x7000, 0x7000, [⟨1, "DAC_CODE_", tU16, true⟩]),
   (0x7800, 0x7800, [⟨1, "RX_WORD_", tU32, true⟩]),
   (0x7801, 0x7801, [⟨1, "RX_ADDR_", tU32, true⟩])]

/-- The rows of an index. -/
def namesOf (idx : Nat) : List NameRow :=
  match (commNames ++ coreNames ++ timeNames ++ measureNames ++ outputNames ++ weightNames ++ healthNames ++ sessionNames ++ processNames).find? (fun a => decide (a.1 ≤ idx) && decide (idx ≤ a.2.1)) with
  | some a => a.2.2
  | none => []

/-- The row of a subindex: the last that begins at or before it. -/
def nameRow (idx sub : Nat) : Option NameRow := ((namesOf idx).filter (fun r => decide (r.sub ≤ sub))).getLast?

/-- The bytes of an ASCII text. -/
def asciiBytes (t : String) : List Byte := t.toList.map (fun c => BitVec.ofNat 8 c.toNat)

/-- The name of an entry; subindex 0 of a record or array has none in the tables. -/
def entryName (idx sub : Nat) : List Byte :=
  match nameRow idx sub with
  | some r => asciiBytes r.name ++ (if r.numbered then asciiBytes (Nat.repr (sub - r.sub)) else [])
  | none => []

/-- The data type of an entry: UNSIGNED8 for subindex 0 of a record or array (R255). -/
def entryType (idx sub : Nat) : Nat := match nameRow idx sub with | some r => r.type | none => tU8

/-- What all the entries of an object are, by its rows: an array has one kind of entry, a record several; the tables name an object
only where all its entries bear one name. Object codes of CiA 301: 7 VAR, 8 ARRAY, 9 RECORD (PRESUMED: log 122). -/
def objectCode (idx : Nat) : Nat :=
  if (odZero idx).isSome then 7 else if (namesOf idx).length = 1 then 8 else 9

def objectName (idx : Nat) : List Byte :=
  match namesOf idx with
  | [r] => asciiBytes r.name
  | _ => []

/-- Access of an entry as SDO information codes it: readable in [2:0], writable in [5:3], by the states PREOP, SAFEOP and OP, and whether it
can be mapped to an RxPDO [6] or a TxPDO [7] (PRESUMED: log 122). -/
def accessBits (idx sub : Nat) (a : Access) : Nat :=
  let map := sub != 0 && idx != 0x6801 && idx != 0x7801
  (match a with | .ro => 7 | .wo => 56 | .rw => 63) +
    (if map && decide (0x7000 ≤ idx) && decide (idx < 0x8000) then 64 else if map && decide (0x6000 ≤ idx) && decide (idx < 0x7000) then 128 else 0)

/-- An object description: index, data type, highest subindex, object code, name (PRESUMED: log 122). -/
def describeObject (idx top : Nat) : List Byte :=
  toLE 2 idx ++ toLE 2 (entryType idx (if objectCode idx = 7 then 0 else 1)) ++ toLE 1 top ++ toLE 1 (objectCode idx) ++ objectName idx

/-- An entry description: index, subindex, no further value information, data type, bits, access, name (PRESUMED: log 122). -/
def describeEntry (idx sub size : Nat) (a : Access) : List Byte :=
  toLE 2 idx ++ toLE 1 sub ++ toLE 1 0 ++ toLE 2 (entryType idx sub) ++ toLE 2 (8 * size) ++ toLE 2 (accessBits idx sub a) ++ entryName idx sub

end Sys2Proof.Machine
end

