-- ==== Sys2Proof/Machine/Power.lean ====
section
/-! DEFINITION. Power domains, resets, start-up, rails, temperature (R298-R308, R343, R347), scrubbing (R311-R316). -/

namespace Sys2Proof.Machine

/-! ## What a module reset leaves (R302, R304, R207) -/

/-- A bank as power-up finds it: CHRYSALIS and DRAINING banks are EMPTY; the others are to be verified again. -/
def Bank.settled (b : Bank) : Bank :=
  match b.state with
  | .imago => { b with blocks := b.blocks.map (fun n => { n with verified := false }) }
  | .ready => { b with blocks := b.blocks.map (fun n => { n with verified := false }) }
  | _ => Bank.reset

/-- The persisted objects of a context as the hub keep has them: those that fell back are of the previous generation (R281). -/
def Ctx.fallBack (k : Ctx) : Ctx :=
  let f := fun sub => k.fallen.contains sub
  let p := k.prev
  { k with
    pointer := if f 2 then p.pointer else k.pointer
    switchAt := if f 3 then p.switchAt else k.switchAt
    bank0 := { k.bank0 with state := if f 4 then p.state0 else k.bank0.state, image := if f 6 then p.image0 else k.bank0.image,
                            source := if f 12 then p.source0 else k.bank0.source }
    bank1 := { k.bank1 with state := if f 5 then p.state1 else k.bank1.state, image := if f 7 then p.image1 else k.bank1.image,
                            source := if f 12 then p.source1 else k.bank1.source }
    lastEclosion := if f 10 then p.lastEclosion else k.lastEclosion
    fallen := [] }

/-- A context restored from the hub keep; one without an imago bank, whose LOAD was interrupted, is gone. -/
def Ctx.settled (k : Ctx) : Ctx :=
  let k := k.fallBack
  let st := if k.fellBack then k.before else k.state
  if (k.bank k.imago).state != .imago then Ctx.reset
  else
    { k.enter .verifying with
      restart := st == .running || (k.restart && (st == .verifying || st == .verifyHold)),
      pointer := k.imago, bank0 := k.bank0.settled, bank1 := k.bank1.settled, progress := 0, cmd := 0, auto := false,
      eclosion := none, planMissing := false }

/-- An engine keeps its arrays, sum store, state, stuck devices and reference masks; T_e comes from the hub keep, and the
registers and tables are those of a reset: both copies hold the factory calibration (R59, R304). -/
def Engine.afterReset (g : Engine) (sentinel : Bool) (te : Nat) (repair : List Nat) (serves : Bool) : Engine :=
  let r := Engine.reset sentinel
  ({ r with wfmt := g.wfmt, pairs := g.pairs, sums := g.sums, sumsBad := g.sumsBad, te := te,
            state := if g.fallen.contains 4 then g.prevState else g.state, refMask := if g.fallen.contains 6 then g.prevMask else g.refMask,
            prevState := g.prevState, prevMask := g.prevMask, digest := g.digest,
            stuck := g.stuck, prog := g.prog, progs := g.progs, misses := g.misses, uncounted := g.uncounted, owner := if serves then g.owner else none,
            regs := { r.regs with repairStaged := repair, repair := repair } })

/-- A core after a module reset: dead cores stay dead; bound ones keep their role and wait for their domain. -/
def Core.afterReset (k : Core) (role : Option (Nat × Nat)) : Core :=
  match role with
  | some (x, i) => { Core.reset with ctx := some x, lcore := i, comm := { Comm.reset with epoch := 1 } }
  | none => if k.state == .dead then { Core.reset with state := .dead } else Core.reset

/-- The role of a core: context and logical core. -/
def roleOf (ctxs : Tab Ctx) (c : Nat) : Option (Nat × Nat) :=
  ctxs.findSome? (fun x => ((List.range x.2.cores.length).find? (fun i => x.2.cores.getD i 0xFFFF == c)).map (fun i => (x.1, i)))

/-- A bank names an engine for its owner. -/
def servesStill (ctxs : Tab Ctx) (c e : Nat) : Bool := ctxs.any (fun x => x.2.bank0.names c e || x.2.bank1.names c e)

/-- The configuration sets as the hub keep holds them. -/
def HubKeep.asSets (k : HubKeep) (lastCommit : Nat) : Sets :=
  { Sets.reset with active := k.sets, shadow := k.sets, nqn := k.nqn, nqnShadow := k.nqn, lastCommit := lastCommit }

/-- What the hub keep holds after RESTORE_DEFAULTS has taken effect. -/
def HubKeep.defaults (k : HubKeep) : HubKeep := if k.restoreDefaults then { k with sets := [], prevSets := k.sets, nqn := [], prevNqn := k.nqn, restoreDefaults := false } else k

/-- An object that power-up takes from the hub keep, of the previous generation where the newest was lost. -/
def HubKeep.last (k : HubKeep) (key now : Nat) : Nat := if k.fallen.contains key then Tab.get now k.prevLast key else now

/-- The state a module reset leaves: the phase-change arrays, the hub keep and the pins are as they were. A T_e that has never been persisted
keeps its last value (DESIGN CHOICE: log 143). -/
def State.afterReset (s : State) (cause : Nat) : State :=
  let keep := s.keep.defaults
  let ctxs := (s.ctxs.map (fun x => (x.1, x.2.settled))).filter (fun x => x.2.state != .none)
  let lost := s.ctxs.filter (fun x => x.2.bank0.state == .chrysalis || x.2.bank1.state == .chrysalis)
  let eng := fun (k : Nat) (g : Engine) => g.afterReset (isSentinel (k / 50)) (Tab.get g.te keep.te k)
    (Tab.get [0xFF, 0xFF, 0xFF, 0xFF] keep.repair k) (servesStill ctxs (k / 50) (k % 50))
  let kept := keep.plans.filter (fun p => ((Tab.get Ctx.reset ctxs p.ctx).bank p.bank).state != .empty)
  let cores := s.coreList.filterMap (fun c =>
    let k := (s.core c).afterReset (roleOf ctxs c)
    if k = Core.reset then none else some (c, k))
  let s' := { State.reset with
    pending := s.pending, part := s.part, keep := { keep with plans := kept, fallen := [], prevLast := Tab.set keep.prevLast (odKey 0x2200 0x0A) s.pwr.resetCause }, engines := s.engines.map (fun x => (x.1, eng x.1 x.2)),
    ctxs := ctxs, cores := cores, defects := s.defects, keys := s.keys, time := { TimeBase.reset with up := s.time.up },
    sets := keep.asSets (keep.last (odKey 0x2100 6) s.sets.lastCommit), counters := keep.counters,
    fw := { Firmware.reset with active := keep.last (odKey 0x2B80 1) s.fw.active,
                                  versions := [keep.last (odKey 0x2B80 2) (s.fw.versions.getD 0 0), keep.last (odKey 0x2B80 3) (s.fw.versions.getD 1 0)], images := s.fw.images, serving := true },
    clk := { Clocks.reset with refLost := s.clk.refLost },
    svc := { Service.reset with spareCores := s.svc.spareCores, lastUe := keep.last (odKey 0x2C00 8) s.svc.lastUe, scrubAt := s.time.up, keepAt := s.time.up },
    outs := { Outputs.reset with dacClrLow := s.outs.dacClrLow, railLow := s.outs.railLow, heat := s.outs.heat, therm := s.outs.therm },
    meas := { Meas.reset with pfail := s.meas.pfail, chans := (List.range 96).map (fun c => (c, Channel.startAt s.time.up)) }, damper := { Damper.reset with railOk := s.damper.railOk, railSince := s.damper.railSince },
    ash := { Ashpit.reset with seqs := s.ash.seqs, firstGtc := s.ash.firstGtc, lastGtc := s.ash.lastGtc, lastClear := keep.last (odKey 0x2A00 0x0D) s.ash.lastClear,
                               checkpointed := s.ash.checkpointed },
    pwr := { Power.reset with since := s.time.up, powerGood := s.pwr.powerGood, coreRails := s.pwr.coreRails, optOk := s.pwr.optOk,
                              resetCause := cause },
    ecat := { Ecat.reset with pdo := keep.pdo }, draws := s.draws }
  lost.foldl (fun s x => s.setStatus resInterrupted x.1 x.2.cmd) s'

/-! ## The power-up sequence (R306, Table 11.7) -/

/-- A generator that has had no reference yet runs on its pilot. -/
def State.onPilotAtBoot (s : State) (g : Nat) : State :=
  if !s.hasGen g || (s.gen g).state != 0 then s
  else
    let ppm := s.pilotOf g
    let s := s.setGenState g 2 false
    (s.setGen g { (s.gen g) with pilotPpm := ppm }).draw

/-- Step 2: a reference still absent leaves the hub on pilots and the GTC in PILOT; the dies' generators are no better off (R297). -/
def State.bootClocks (s : State) : State :=
  if s.clk.refLost then ((List.range 11).foldl State.onPilotAtBoot s).gtcCoarse else s

/-- Step 3: the settings restored from the hub keep act. -/
def State.bootSettings (s : State) (wake : Bool) : State :=
  let s := if wake then s
    else
      let s := if s.cfg 0x2300 2 = 0 then s else s.timeSourceSet
      (List.range 8).foldl (fun s t => if s.cfg (trkIdx t) 1 = 0 then s else s.startTracker t) s
  let s := (List.range 16).foldl State.regroup s
  let s := { s with stage := { s.stage with slots := s.cfg 0x2700 0x0E } }
  let s := s.mirrorCommit
  (List.range 16).foldl State.standingFault (if s.outs.railLow then s.railFault else s)

/-- Step 4: the backstop is armed and the trip outputs are driven (R228). -/
def State.armBackstop (s : State) : State :=
  ({ s with outs := { s.outs with driven := true }, pwr := { s.pwr with ready := setBit s.pwr.ready 0 true } }).updateTrips

/-- Steps 2 to 6. Sentinel and compute engines are verified, dies powered and contexts restored by the commands that follow;
with nothing to verify the sentinel readiness point is reached at once. -/
def State.powerUp (s : State) (cause : Nat) (wake : Bool) : State :=
  let ok := wake || s.ash.checkpointed
  let s := (s.ashReload.bump 0x2200 0x0C)
  let old := sortRecs s.ash.retention
  let gap := s.ash.retDropped
  let s := { s with ash := { s.ash with retention := [], retDropped := none, checkpointed := false } }
  let s := ((old.foldl State.writeRecord s).writeGap gap).powerUpRecord cause ok
  ((s.bootClocks.bootSettings wake).armBackstop).readiness

/-- Power-good rises. What the loss of power interrupted is still told (R207). -/
def State.powerGoodUp (s : State) : State :=
  if s.pwr.powerGood then s
  else
    let was := s.cmdStatus
    let s := s.afterReset 0
    let s := { s with pwr := { s.pwr with powerGood := true } }
    let s := if was % 256 = resInterrupted then s.setStatus resInterrupted (field was 8 6) (field was 16 8) else s
    s.powerUp 0 false

def execPowerGood (s : State) : Out := .next s.powerGoodUp

/-- Power-good falls: a module reset, and the sequence waits at step 1. -/
def State.powerGoodDown (s : State) : State :=
  let s := s.afterReset 0
  { s with pwr := { s.pwr with powerGood := false } }

def execPowerGoodLoss (s : State) : Out := .next s.powerGoodDown

/-- A module reset with the rails up. -/
def State.moduleReset (s : State) (cause : Nat) : State := if s.pwr.powerGood then (s.afterReset cause).powerUp cause false else s

/-! ## Dies and cores (R298-R300, R306) -/

/-- Rail VDD_CORE of a die is within its limits; rails are taken as good unless their loss is told. -/
def State.coreRail (s : State) (d : Nat) : Bool := Tab.get true s.pwr.coreRails d

def State.dieOn (s : State) (d : Nat) : Bool := Tab.get 0 s.pwr.dies d == 1

/-- The sync store of a die. -/
def State.wipeStore (s : State) (d : Nat) : State := s.wipe (0x06200000 + d * 0x40000) (0x06200000 + (d + 1) * 0x40000)

/-- DIE_POWER changes: the bridge closes, and a die that is not on has lost its sync store. -/
def State.setDie (s : State) (d v : Nat) : State :=
  let s := if v = 1 then s else s.wipeStore d
  { s with pwr := { s.pwr with dies := Tab.set s.pwr.dies d v, crossings := Tab.set s.pwr.crossings d false } }

/-- No die is still to be powered: POWER_STATE is 0 again. -/
def State.diesSettled (s : State) : State :=
  if s.pwr.state = 2 ∧ (List.range s.part.dies).all (fun d => Tab.get 0 s.pwr.dies d != 2) then { s with pwr := { s.pwr with state := 0 } } else s

/-- Die d of start-up, or of POWER_CMD = 3, is powered, after the lower ones whose rails are there, and 100 ms after the one before (Table
11.7 step 7; DESIGN CHOICE: log 73). -/
def State.diePowerOn (s : State) (d : Nat) : State :=
  let lower := (List.range d).all (fun i => s.dieOn i || !s.coreRail i)
  let later := match s.pwr.dieAt with | some t => decide (t + 100000000 ≤ s.time.up) | none => true
  if s.pwr.powerGood && !s.pwr.watch && s.pwr.state != 1 && decide (d < s.part.dies) && !s.dieOn d && s.coreRail d && lower && later then
    let now := s.time.up
    let s := s.setDie d 1
    ({ s with pwr := { s.pwr with dieAt := some now } }).diesSettled.readiness
  else s

def execDiePowerOn (d : Nat) (s : State) : Out := .next (s.diePowerOn d)

/-- A core that a context binds turns on, in reset; its calibration copied from the hub keep (R304); its crossing reopens
after the handshake (R303). At most 8 cores of a
die turn on at once, in ascending index: no lower one of its die may still be off. -/
def State.coreOn (s : State) (c : Nat) : State :=
  let k := s.core c
  let first := (List.range c).all (fun i => dieOf i != dieOf c || (s.core i).ctx.isNone || (s.core i).state != .off)
  if k.ctx.isSome && k.state == .off && first then
    s.coreStart c
  else s

/-- A bound core's domain turns on: it starts in reset. -/
def State.coreTurnOn (s : State) (c : Nat) : State :=
  if isSentinel c || s.dieOn (dieOf c) then s.coreOn c else s

def execCoreTurnOn (c : Nat) (s : State) : Out := .next (s.coreTurnOn c)

/-- Both sides of a crossing have completed their handshake. -/
def State.reopen (s : State) (x : Crossing) : State :=
  match x with
  | .core c =>
    let k := s.core c
    if k.state == .off || k.state == .dead || k.state == .spare then s
    else (s.modComm c (fun m => { m with crossing := true })).stageFlow
  | .die d => if s.dieOn d then ({ s with pwr := { s.pwr with crossings := Tab.set s.pwr.crossings d true } }).stageFlow else s
  | .mgmt => if s.fw.serving then { s with pwr := { s.pwr with mgmtCrossing := true } } else s

def execCrossingReopen (x : Crossing) (s : State) : Out := .next (s.reopen x)

/-- A compute context is loaded. -/
def State.computeLoaded (s : State) : Bool := s.ctxs.any (fun x => x.2.state != .none && !x.2.sentinel)

/-- POWER_CMD = 2: every compute die is off, its routers with it. -/
def State.diesDown (s : State) : State :=
  let s := (List.range s.part.dies).foldl (fun s d => s.setDie d 0) s
  let zero := fun (e : Nat × Core) => if dieOf e.1 < 4 then (e.1, { e.2 with comm := { e.2.comm with epoch := 0 } }) else e
  let s := { s with cores := s.cores.map zero }
  { s with pwr := { s.pwr with state := 1 } }

/-- POWER_CMD = 3: the dies whose rails are there are changing; each is on when DIE_POWER_ON has come to it. -/
def State.diesUp (s : State) : State :=
  let s := { s with pwr := { s.pwr with state := 2, dieAt := none } }
  ((List.range s.part.dies).foldl (fun s d => if s.coreRail d && !s.dieOn d then s.setDie d 2 else s) s).diesSettled

/-! ## Core and die resets (R302-R304) -/

/-- The reset of one core: sequencer, tiles, settings and messages as after reset, a new epoch, its crossing closed; its role
and what is in its activation buffer and plan memory stay. -/
def State.coreReset (s : State) (c : Nat) : State :=
  let k := s.core c
  let s := (s.wipe (accAddr c 0 0 0) (planAddr c 0 0)).restoreEngines (fun i => i == c)
  let s := s.resetEngines c
  let comm := { Comm.reset with epoch := k.comm.epoch, peers := k.comm.peers }
  let on_ := k.state == .running || k.state == .halted || k.state == .frozen
  let s := s.setCore c { k with state := if on_ then .idle else k.state, seq := Seq.reset, comm := comm, tags := [], wins := [], watchdog := none,
                                pending := [], ana := { Ana.reset with thresh := s.cfg 0x2800 6, repeats := s.cfg 0x2800 7 } }
  s.roleChange c

/-- Cores of a die that are on. -/
def State.coresOn (s : State) (d : Nat) : List Nat := (s.cores.filter (fun e => dieOf e.1 == d && e.2.state != .off && e.2.state != .dead)).map (·.1)

/-- A die reset: its cores, its sync store, its bridge. -/
def State.dieReset (s : State) (d : Nat) : State :=
  let s := (s.coresOn d).foldl State.coreReset s
  let s := s.wipeStore d
  { s with pwr := { s.pwr with crossings := Tab.set s.pwr.crossings d false } }

/-- A core of the die serves a running context. -/
def State.dieRuns (s : State) (d : Nat) : Bool := s.ctxs.any (fun x => x.2.state == .running && x.2.cores.any (fun c => dieOf c == d))

/-- The core serves a running context. -/
def State.coreRuns (s : State) (c : Nat) : Bool := s.ctxs.any (fun x => x.2.state == .running && x.2.cores.contains c)

/-- RESET_CMD (Table 11.8), after its checks. -/
def State.resetCommand (s : State) (v : Nat) : State :=
  let n := field v 4 16
  match field v 0 4 with
  | 1 => s.moduleReset 2
  | 2 => s.dieReset n
  | _ => if (s.core n).state == .off then s else s.coreReset n

/-! ## Rails (R343, Table 13.9) -/

/-- A core that ran halts with status 4. -/
def State.haltLost (s : State) (c : Nat) : State :=
  let q := (s.core c).seq
  if (s.core c).state == .running || (s.core c).state == .frozen then (s.setFault c ⟨4, q.pc, q.bank⟩).halt c q.pc q.bank 0 else s

/-- A core whose domain has lost its rail, after its die's reset: SRAM and registers gone, halted where it served a context; LAST_FAULT stays. -/
def State.coreLost (s : State) (c fault : Nat) : State :=
  let k := s.core c
  let s := (s.coreOff c).modCore c (fun n =>
    { n with ctx := k.ctx, lcore := k.lcore, state := if k.ctx.isSome then .halted else .off, seq := { Seq.reset with lastFault := fault } })
  s

/-- VDD_CORE of a die is lost: a die reset without the refusal; the loss is recorded with the uncore's source number, whatever state the die
was in. -/
def State.coreRailLoss (s : State) (d : Nat) : State :=
  if s.part.dies ≤ d || !s.coreRail d then s
  else
    let was := Tab.get 0 s.pwr.dies d
    let on_ := s.coresOn d
    let s := { s with pwr := { s.pwr with coreRails := Tab.set s.pwr.coreRails d false } }
    let s := if was = 1 then
        let s := on_.foldl State.haltLost s
        let last := fun c => (s.core c).seq.lastFault
        on_.foldl (fun s c => s.coreLost c (last c)) (s.dieReset d)
      else s
    let s := (s.setDie d 0).diesSettled
    if s.pwr.powerGood then s.record (0x0050 + d) 0x0006 [0, was] else s

def execVddCoreLoss (d : Nat) (s : State) : Out := .next (s.coreRailLoss d)

/-- A context with cores on a die that powers up again: its banks' blocks there are verified, then it is restored. -/
def Ctx.reverify (k : Ctx) (d : Nat) : Ctx :=
  if k.state == .none || k.state == .loading || !k.cores.any (fun c => dieOf c == d) then k
  else
    let again := fun (b : Bank) =>
      if b.state == .imago || b.state == .ready then
        { b with blocks := b.blocks.map (fun n => if dieOf n.core = d then { n with verified := false } else n) }
      else b
    { k.enter .verifying with restart := k.restart || k.state == .running, bank0 := again k.bank0, bank1 := again k.bank1 }

/-- The rail is there again: the die powers up. -/
def State.coreRailReturn (s : State) (d : Nat) : State :=
  if s.part.dies ≤ d then s
  else
    let s := { s with pwr := { s.pwr with coreRails := Tab.set s.pwr.coreRails d true } }
    if !s.pwr.powerGood || s.pwr.watch || s.pwr.state == 1 || s.dieOn d then s
    else
      let s := s.setDie d 1
      let off := fun (e : Nat × Core) => if dieOf e.1 = d ∧ e.2.state = .halted then (e.1, { e.2 with state := .off }) else e
      let s := { s with cores := s.cores.map off,
                        ctxs := s.ctxs.map (fun (x : Nat × Ctx) => (x.1, x.2.reverify d)),
                        pwr := { s.pwr with tried := s.pwr.tried.filter (fun k => dieOf (k / 50) != d) } }
      s.readiness

def execVddCoreReturn (d : Nat) (s : State) : Out := .next (s.coreRailReturn d)

/-- VDD_PROG is lost: no pulse group is granted; groups in flight end. -/
def execVddProgLoss (s : State) : Out := .next { s with damper := { s.damper with railOk := false, railSince := s.time.up } }

/-- VDD_PROG has been valid for 2 ms: granting resumes. -/
def execVddProgReturn (s : State) : Out := .next { s with damper := { s.damper with railOk := true, railSince := s.time.up } }

/-! ## Temperature (R347) -/

/-- THERM_N is low: the land is high-impedance until power-good (R343). -/
def State.thermLow (s : State) : Bool := s.pwr.powerGood && s.outs.therm

/-- THERM_N is asserted while any sensor is above the maximum, and released when every one is at least 5 K below it. -/
def State.thermal (s : State) (d : Nat) (v : Heat) : State :=
  let h := Tab.set s.outs.heat d v
  let all := (List.range 5).map (Tab.get .cool h)
  { s with outs := { s.outs with heat := h, therm := all.contains .hot || (s.outs.therm && !all.all (· == .cool)) } }

def execThermN (sensor : Nat) (heat : Heat) (s : State) : Out := .next (if sensor < 5 then s.thermal sensor heat else s)

/-! ## The watch state (R301, R328) -/

/-- POWER_CMD = 1: a checkpoint, then only the always-on, time and recorder domains run. -/
def State.enterWatch (s : State) : State :=
  let s := (s.checkpointRecord 1).persistOpen
  let s := s.persistCounters
  let s := { s with pwr := { s.pwr with watch := true, ready := 0 },
                    outs := { s.outs with driven := false, faultCause := Nat.lor s.outs.faultCause 1, causeNow := Nat.lor s.outs.causeNow 1 } }
  let s := { s with mem := [], cores := (s.cores.filter (fun e => e.2.state == .dead)), net := ⟨[], [], [], []⟩, sessions := [], links := [],
                    fetch := Fetch.reset, stage := Stage.reset, pcie := Pcie.reset,
                    svc := { s.svc with poison := [], ceNow := [], ceLast := [] } }
  let s := (List.range 4).foldl (fun s p => s.linkLost p) s
  let s := (List.range s.part.dies).foldl (fun s d => s.setDie d 0) s
  (List.range 8).foldl (fun s t => if (s.trk t).state = .off then s else s.setTrk t .holdover) s

/-- The watch state ends: power-up from step 2, with the GTC, the trackers and the retention buffer as they are. -/
def State.wake (s : State) : State :=
  if !s.pwr.watch || !s.pwr.powerGood then s
  else
    let t := s.time
    let k := s.trackers
    let c := s.clk
    let a := s.ash
    let s := s.afterReset 3
    let s := { s with time := t, trackers := k, clk := { s.clk with gens := c.gens, divs := c.divs },
                      ash := { s.ash with retention := a.retention ++ a.hold, retDropped := a.retDropped, inbox := a.inbox, tokens := a.tokens, supp := a.supp } }
    s.powerUp 3 true

/-- The GTC has reached WATCH_WAKE. -/
def execWatchWake (s : State) : Out := .next (if s.pwr.watchWake ≠ 0 ∧ s.pwr.watchWake ≤ s.time.gtc then s.wake else s)

/-- RESET_N released after 1 µs low: a module reset, or the end of the watch state. -/
def execResetN (s : State) : Out := .next (if s.pwr.watch then s.wake else s.moduleReset 1)

/-! ## ECC and scrubbing (R311-R316, Table 12.2) -/

/-- SRAM of the map: hub SRAM, sync stores, core SRAM of a core that is on. -/
def State.sramAt (s : State) (a : Nat) : Bool :=
  decide (a < 0x06000000) || (decide (0x06200000 ≤ a) && decide (a < 0x06310000)) ||
    (match coreAt a with
     | some c => decide (a % 0x200000 < 0xD0000) && (s.core c).state != .off && (s.core c).state != .dead
     | none => false)

/-- Uncorrectable errors of a core within 24 h; the second schedules its replacement (R318). -/
def State.coreUe (s : State) (c : Nat) : State :=
  let now := s.time.up
  let recent := (Tab.get [] s.svc.ueTimes c).filter (fun t => decide (now < t + day))
  let s := { s with svc := { s.svc with ueTimes := Tab.set s.svc.ueTimes c (recent ++ [now]) } }
  if recent.isEmpty then s else s.scheduleReplace c 0

/-- What follows an uncorrectable error in SRAM: FAULT_CAUSE [5] for the hub's, the core's counts for a core's. -/
def State.sramUe (s : State) (a : Nat) : State :=
  let s := s.poisonWord (a / 8 * 8)
  let s := if a < 0x06000000 then s.setCause 5 else s
  match coreAt a with
  | some c => s.coreUe c
  | none => s

/-- The test rounds of the column whose sum store has the error are discarded, until it is programmed again. -/
def State.sumUe (s : State) (a : Nat) : State :=
  let k := (a - 2 ^ 33) / 512
  let col := (a - 2 ^ 33) % 128
  s.modEng (k / 50) (k % 50) (fun g => { g with sumsBad := if g.sumsBad.contains col then g.sumsBad else g.sumsBad ++ [col] })

/-- An entry of a table goes back to its previous generation. -/
def Tab.back {α : Type} (now prev : Tab α) (key : Nat) : Tab α :=
  match Tab.find prev key with
  | some v => Tab.set now key v
  | none => Tab.erase now key

/-- What the hub keep holds of one object goes back to its previous generation, and the next access meets the error (R260, R281, Table
12.2). Keys: a dictionary key; from 2^32 the T_e of an engine; from 2^33 its repair map; from 2^34 its ENG_STATE; from 2^35 its REF_MASK. -/
def HubKeep.fallBack (k : HubKeep) (key : Nat) : HubKeep :=
  { k with sets := Tab.back k.sets k.prevSets key, nqn := if key = odKey 0x2700 3 then k.prevNqn else k.nqn, pdo := Tab.back k.pdo k.prevPdo key,
           counters := Tab.back k.counters k.prevCounters key,
           te := if 2 ^ 32 ≤ key ∧ key < 2 ^ 33 then Tab.back k.te k.prevTe (key - 2 ^ 32) else k.te,
           repair := if 2 ^ 33 ≤ key ∧ key < 2 ^ 34 then Tab.back k.repair k.prevRepair (key - 2 ^ 33) else k.repair,
           fallen := insertNew k.fallen key,
           ashFill := if key = odKey 0x2A00 4 then k.prevFill else k.ashFill, ashHead := if key = odKey 0x2A00 5 then k.prevHead else k.ashHead,
           ashOldest := if key = odKey 0x2A00 6 then k.prevOldest else k.ashOldest,
           bad := if k.bad.contains key then k.bad else k.bad ++ [key] }

/-- An uncorrectable error of the hub keep: the value it holds there falls back, and FAULT_CAUSE [5] is set. Key slots, context objects,
ENG_STATE and REF_MASK stand in State as the hub keep has them. -/
def State.keepUe (s : State) (a : Nat) : State :=
  let key := Config.keepKey (a - 2 ^ 32)
  let s := s.setCause 5
  let s := { s with keep := s.keep.fallBack key,
                    keys := if key / 256 = 0x2B01 ∧ 2 ≤ key % 256 then Tab.back s.keys s.keep.prevKeys (key % 256 - 1) else s.keys }
  if 0x2610 ≤ key / 256 ∧ key / 256 ≤ 0x264F then
    s.modCtx (key / 256 - 0x2610) (fun k => if key % 256 = 1 then { k with fellBack := true } else { k with fallen := insertNew k.fallen (key % 256) })
  else if 2 ^ 34 ≤ key then
    s.modEng (key % 2 ^ 34 / 50) (key % 2 ^ 34 % 50) (fun g => { g with fallen := insertNew g.fallen (if key < 2 ^ 35 then 4 else 6) })
  else s

/-- Flit f of a LOG's record came poisoned: its words read so. -/
def RecMsg.poisonFlit (m : RecMsg) (c q f : Nat) : RecMsg :=
  if m.logOp = some (c, q) then
    { m with record := { m.record with payload := m.record.payload.zipIdx.map (fun w => if w.2 / 16 + 1 = f then 0xDEADDEAD else w.1) } }
  else m

/-- Flit f of an op came poisoned: the op ends with status 4, and codes that an EMIT has still to place read as poison. -/
def Op.poisonFlit (o : Op) (f : Nat) : Op :=
  { o with status := 4, hurt := insertNew o.hurt f,
           data := match o.body with
             | .emitDac _ _ _ _ => o.data.map (fun bs => bs.zipIdx.map (fun b => if b.2 / 64 + 1 = f then poisonByte b.2 else b.1))
             | _ => o.data }

/-- A flit of op o between its core and the hub or a store: a decision's value is free then (DESIGN CHOICE: log 162). -/
def State.opUe (s : State) (c f : Nat) (o : Op) : State :=
  let v := Config.poisonedDecision s.draws
  let s := s.draw.modOp c o.seq (fun o => o.poisonFlit f)
  { s with net := { s.net with decisions := s.net.decisions.map (fun d => if d.core = c ∧ d.op = o.seq then { d with value := v } else d) },
           ash := { s.ash with inbox := s.ash.inbox.map (fun m => m.poisonFlit c o.seq f) } }

/-- Flits an op has on its way: lines of a LOAD or STORE, codes an EMIT has still to place, a decision, a LOG's record, the answer to a WAIT or LDK. -/
def State.opFlits (s : State) (o : Op) : Nat :=
  match o.body with
  | .load n _ _ => 1 + n
  | .store n _ _ => 1 + n
  | .emitDac _ _ _ _ => (match o.data with | some bs => 1 + ceilDiv bs.length 64 | none => 0)
  | .emitTrip _ => 1
  | .log _ n _ sent => if sent then 1 + ceilDiv (4 * n) 64 else 0
  | _ => if o.asks.isSome && s.hasAnswer o then 1 else 0

/-- The op an address of a flit from 2^37 on names: 128 flits to an op, 64 ops to a core, in issue order. -/
def State.flitOp (s : State) (a : Nat) : Option (Nat × Op) :=
  let k := (a - 2 ^ 37) / 128
  ((s.core (k / 64)).seq.ops[k % 64]?).map (fun o => (k / 64, o))

/-- A flit on a mesh link or an on-die bus is delivered poisoned (Table 12.2). From 2^34 flits of messages, from 2^35 of sync updates, from 2^36
of frames, 128 to an item, in the order they are on their way; from 2^37 those of ops. -/
def State.flitUe (s : State) (a : Nat) : State :=
  let f := a % 128
  if 2 ^ 37 ≤ a then (match s.flitOp a with | some (c, o) => s.opUe c f o | none => s)
  else
  let n := s.net
  let n : Net := if a < 2 ^ 35 then { n with msgs := n.msgs.modify ((a - 2 ^ 34) / 128) (fun m => { m with hurt := insertNew m.hurt f }) }
    else if a < 2 ^ 36 then { n with syncs := n.syncs.modify ((a - 2 ^ 35) / 128) (fun u => { u with hurt := true }) }
    else { n with frames := n.frames.modify ((a - 2 ^ 36) / 128) (fun m => { m with hurt := insertNew m.hurt f }) }
  { s with net := n }

/-- The flit is there. -/
def State.flitAt (s : State) (a : Nat) : Bool :=
  let f := a % 128
  if a < 2 ^ 35 then (match s.net.msgs[(a - 2 ^ 34) / 128]? with | some m => decide (f < m.flits) | none => false)
  else if a < 2 ^ 36 then decide ((a - 2 ^ 35) / 128 < s.net.syncs.length) && f == 0
  else if 2 ^ 37 ≤ a then (match s.flitOp a with | some (_, o) => decide (f < s.opFlits o) | none => false)
  else (match s.net.frames[(a - 2 ^ 36) / 128]? with | some m => decide (f < m.flits) | none => false)

/-- An uncorrectable error by its location (Table 12.2). -/
def State.eccUe (s : State) (a : Nat) : State :=
  let s := s.noteUe a
  if a < 2 ^ 32 then s.sramUe a else if a < 2 ^ 33 then s.keepUe a else if a < 2 ^ 34 then s.sumUe a else s.flitUe a

/-- One access that checks a word, the scrubber's or, of a flit, its receiver's (DESIGN CHOICE: log 162). A correctable error is counted, recorded and written back corrected. -/
def State.scrub (s : State) (a : Nat) (found : EccFinding) : State :=
  if (a < 2 ^ 32 ∧ !s.sramAt a) ∨ (2 ^ 34 ≤ a ∧ !s.flitAt a) then s
  else
    match found with
    | .clean => s
    | .correctable =>
      let w := if a < 2 ^ 33 then a / 8 * 8 else a
      let s := (s.bump 0x2C00 3).record (eccSource a) 0x0010 (eccWords a)
      if 2 ^ 34 ≤ a ∨ s.svc.ceNow.contains w then s else { s with svc := { s.svc with ceNow := s.svc.ceNow ++ [w] } }
    | .uncorrectable => s.eccUe a

def execScrubAccess (addr : Nat) (found : EccFinding) (s : State) : Out := .next (s.scrub addr found)

/-- A persistent word, counted and recorded once. -/
def State.persistentWord (s : State) (w : Nat) : State :=
  if (Tab.find s.svc.ceWords w).isSome then s
  else
    let s := (s.bump 0x2C00 7).record (eccSource w) 0x0012 (eccWords w)
    { s with svc := { s.svc with ceWords := Tab.set s.svc.ceWords w (eccSource w) } }

/-- The persistent words of core c have reached CE_LIMIT. -/
def State.isWorn (s : State) (c : Nat) : Bool := decide (s.cfg 0x2C00 10 ≤ (s.svc.ceWords.filter (fun e => e.2 == coreSource c)).length)

/-- A core that serves a context and is worn is scheduled for replacement; a sentinel core, which is never replaced, triggers once
(DEDUCED: log 176). -/
def State.wornCore (s : State) (c : Nat) : State :=
  if !s.isWorn c then { s with svc := { s.svc with worn := s.svc.worn.erase c } }
  else if (s.core c).ctx.isNone || s.svc.worn.contains c then s
  else
    let s := s.scheduleReplace c 1
    if isSentinel c then { s with svc := { s.svc with worn := s.svc.worn ++ [c] } } else s

/-- The cores that are worn, at the end of each pass. -/
def State.wornCores (s : State) : State := (s.cores.map (·.1)).foldl State.wornCore s

/-- Whether a word belongs to a pass that ends now: the hub keep is read once per SCRUB_KEEP_PERIOD (R314; DEDUCED: log 137). -/
def State.passEnds (s : State) (w : Nat) : Bool :=
  decide (w < 2 ^ 32) || decide (2 ^ 33 ≤ w) || decide (s.svc.keepAt + 1000000000 * s.cfg 0x2C00 2 ≤ s.time.up)

/-- A pass is late at the end of its period, of the SRAM or of the hub keep, and goes on from where it stopped. -/
def State.scrubLate (s : State) : State :=
  let late := fun (since period : Nat) => boolNat (decide (since + 1000000000 * period ≤ s.time.up))
  s.bumpBy 0x2C00 6 (late s.svc.scrubAt (s.cfg 0x2C00 1) + late s.svc.keepAt (s.cfg 0x2C00 2))

/-- A pass ends; the next begins with its period. One of the hub keep counts for itself. -/
def State.scrubEnd (s : State) : State :=
  if s.time.up < s.svc.scrubAt then s
  else
    let ends := s.passEnds
    let keep := ends (2 ^ 32)
    let s := s.bumpBy 0x2C00 5 (1 + boolNat keep)
    let now := s.svc.ceNow.filter ends
    let s := ((now.filter (fun w => s.svc.ceLast.contains w)).foldl State.persistentWord s).wornCores
    { s with svc := { s.svc with
        ceLast := now ++ s.svc.ceLast.filter (fun w => !ends w)
        ceNow := s.svc.ceNow.filter (fun w => !ends w)
        scrubAt := max s.time.up (s.svc.scrubAt + 1000000000 * s.cfg 0x2C00 1)
        keepAt := if keep then s.time.up else s.svc.keepAt } }

def State.scrubPass (s : State) (late : Bool) : State := if late then s.scrubLate else s.scrubEnd

def execScrubPass (late : Bool) (s : State) : Out := .next (s.scrubPass late)

end Sys2Proof.Machine
end

