-- ==== Sys2Proof/Machine/Sets.lean ====
section
/-! DEFINITION. The configuration sets (R273, R274, R281) and what acts at a commit. -/

namespace Sys2Proof.Machine

/-! ## What differs -/

/-- The row of a setting by its key; bucket keys carry the bucket above bit 24. -/
def State.keyRow (s : State) (key : Nat) : Option OdRow := s.row (key % 2 ^ 24 / 256) (key % 256)

/-- A setting's shadow differs from its active copy. -/
def State.differs (s : State) (key : Nat) : Bool :=
  let d := match s.keyRow key with | some r => r.dflt | none => 0
  Tab.get d s.sets.active key != Tab.get d s.sets.shadow key

/-- The keys of the subindices whose shadow differs, beside the host NQN. -/
def State.dirtyKeys (s : State) : List Nat :=
  ((s.sets.active.map (·.1) ++ s.sets.shadow.map (·.1)).eraseDups).filter s.differs

/-- SET_DIRTY. -/
def State.dirtyCount (s : State) : Nat := s.dirtyKeys.length + boolNat (s.sets.nqn != s.sets.nqnShadow)

/-- The privilege of the highest object that differs. -/
def State.dirtyPriv (s : State) : Nat :=
  (s.dirtyKeys.map (fun k => match s.keyRow k with | some r => r.priv | none => 0)).foldl max (if s.sets.nqn != s.sets.nqnShadow then 2 else 0)

/-- PERSIST settings, as a commit writes them to the hub keep. -/
def State.persistSets (s : State) : State :=
  let keepIt := fun (e : Nat × Nat) => match s.keyRow e.1 with | some r => r.persist | none => false
  { s with keep := { s.keep with sets := s.sets.active.filter keepIt, prevSets := s.keep.sets, nqn := s.sets.nqn, prevNqn := s.keep.nqn } }

/-! ## What acts at a commit -/

/-- The setting has changed between two states. -/
def State.moved (s old : State) (idx sub : Nat) : Bool := s.cfg idx sub != old.cfg idx sub

/-- A clock of CLK_EN has just been gated. -/
def State.gated (s old : State) (i : Nat) : Bool := old.clocked i && !s.clocked i

/-- The EtherCAT slave without its clock: INIT, its session Observer; the PDO objects persist. -/
def State.ecatDown (s : State) : State :=
  ({ s with ecat := { Ecat.reset with pdo := s.ecat.pdo } }).modSession 1 (fun k => { k with level := 0 })

/-- The PCIe endpoint without its clock. -/
def State.pcieDown (s : State) : State := ({ s with pcie := Pcie.reset }).modSession 0 (fun k => { k with level := 0 })

/-- Interfaces whose clock has been gated go down; their power domains turn off with them (R288). -/
def State.gateInterfaces (s old : State) : State :=
  let s := if s.gated old 0 then s.ecatDown else s
  let s := if s.gated old 1 then { s with links := Tab.set s.links 0 false } else s
  let s := if s.gated old 2 then { s with links := Tab.set s.links 1 false } else s
  let s := if s.gated old 3 then s.pcieDown else s
  (List.range 4).foldl (fun s p => if s.gated old (4 + p) then s.linkLost p else s) s

/-- Running domains whose source an XING_MODE commit changes switch, directly or through a ramp (R293); dividers that changed
ramp (R292). -/
def State.moveDividers (s old : State) : State :=
  let s := s.domains.foldl (fun s dom =>
    if (s.divider dom).hold.isNone && old.domSet dom != s.domSet dom then s.switchFrom dom (old.domSource dom) else s) s
  (List.range s.part.dies).foldl (fun s d =>
    let s := if s.moved old (0x2210 + d) 1 then s.divCommit (10 + d) (old.cfg (0x2210 + d) 1) else s
    if s.moved old (0x2210 + d) 2 then s.divCommit (20 + d) (old.cfg (0x2210 + d) 2) else s) s

/-- Time source, trackers, the decision watchdogs (R213, R219, R226). -/
def State.moveTime (s old : State) : State :=
  let s := if s.moved old 0x2300 2 then s.timeSourceSet else s
  let s := (List.range 8).foldl (fun s t => if s.moved old (trkIdx t) 1 || s.moved old (trkIdx t) 2 then s.startTracker t else s) s
  if s.moved old 0x2330 2 && s.cfg 0x2330 2 == 0 then
    { s with cores := s.cores.map (fun (e : Nat × Core) => (e.1, { e.2 with watchdog := none })) }
  else s

/-- A channel after its settings have changed (R233, R236): faults end with the channel off; the events follow CMP_EN and FAULT_EVT; the new pin's clock fault holds for it. -/
def Channel.reset' (k : Channel) (s old : State) (c : Nat) : Channel :=
  let i := chIdx c
  let off := s.cfg i 1 == 0
  let k := if off then { k with clk := false, stuck := false, manch := false, validWindows := 0 } else k
  let starts := (s.moved old i 6 && s.cfg i 6 == 1) || s.moved old i 7 || s.moved old i 2 || s.moved old i 1
  let k := if starts then { k with cmpStart := s.time.up, cmpBits := 0 } else k
  let k := if s.moved old i 6 then { k with evHi := false, evLo := false } else k
  let follows := s.cfg i 6 == 1 && k.faulted && (s.moved old i 0x0B || s.moved old i 6)
  if follows then
    match s.cfg i 0x0B with
    | 1 => { k with evHi := true, evLo := true }
    | 2 => { k with evHi := false, evLo := false }
    | _ => k
  else k

/-- The settings of a channel that matter at a commit. -/
def channelSubs : List Nat := [1, 2, 6, 7, 0x0B]

/-- Channels, clock monitors and frame groups (R232-R238); a measurement domain that is gated is off. -/
def State.moveMeasure (s old : State) : State :=
  let s := (List.range 8).foldl (fun s p =>
    if bit (s.cfg 0x2470 (p + 1)) 0 != bit (old.cfg 0x2470 (p + 1)) 0 then
      { s with meas := { s.meas with mclks := Tab.set s.meas.mclks p Mclk.reset } }
    else s) s
  let s := (List.range 96).foldl (fun s c =>
    if s.moved old 0x2470 (s.cfg (chIdx c) 2 + 1) then s.rebase old c else s) s
  let s := (List.range 96).foldl (fun s c =>
    if s.gated old (if c < 48 then 8 else 9) then s.modChan c (fun _ => Channel.reset)
    else if s.chClocked c && !old.chClocked c then
      let s := s.modChan c (fun _ => Channel.startAt s.time.up)
      if (s.mclk (s.cfg (chIdx c) 2)).fault then s.chFault c 0 else s
    else if channelSubs.any (fun n => s.moved old (chIdx c) n) then
      let t := s
      let s := s.modChan c (fun k => k.reset' t old c)
      if (s.mclk (s.cfg (chIdx c) 2)).fault then s.chFault c 0 else s
    else s) s
  let changed := (List.range 96).filter (fun c => s.moved old (chIdx c) 1 || s.moved old (chIdx c) 2 || s.moved old (chIdx c) 4 ||
    (s.chClocked c && !old.chClocked c))
  let ws := (changed.filter s.chEnabled).map s.chWindow ++ (changed.filter old.chEnabled).map old.chWindow
  let s := s.restartWindows (fun w => ws.contains w)
  let s := if s.gated old 10 then { s with meas := { s.meas with auxs := [], convs := [] } } else s
  (List.range 16).foldl State.regroup s

/-- A gated DAC block loses its queues and settings of the moment (R288); a cause that stands faults the channel anew (R248). -/
def State.moveDacGate (s old : State) (ch : Nat) : State :=
  if s.gated old 12 then ((s.dacFlush ch).modDac ch (fun d => { Dac.reset with causes := d.causes })).standingFault ch else s

/-- A new range clamps the output and flushes the queue (R247). -/
def State.moveDacRange (s old : State) (ch : Nat) : State :=
  if s.moved old (dacIdx ch) 1 then (s.dacFlush ch).modDac ch (fun d => { d with rangeClamp := true }) else s

/-- A new grant flushes the queue; underruns count from its first code (R244). -/
def State.moveDacGrant (s old : State) (ch : Nat) : State :=
  if s.moved old (dacIdx ch) 2 then (s.dacFlush ch).modDac ch (fun d => { d with awaitFirst := true, underrunRun := 0 }) else s

/-- A new sample grid starts at the commit. -/
def State.moveDacGrid (s old : State) (ch : Nat) : State :=
  let i := dacIdx ch
  if s.moved old i 3 || s.moved old i 4 || s.moved old i 5 then
    let now := s.time.gtc
    s.modDac ch (fun d => { d with gridFrom := now, due := false })
  else s

/-- A change of path clamps for the handover; a changed ramp on the fast path starts anew (R245). -/
def State.moveDacPath (s old : State) (ch : Nat) : State :=
  let i := dacIdx ch
  if s.moved old i 9 then s.modDac ch (fun d => { d with handover := true, returned := false, fastRun := false })
  else if s.onFast ch && !(s.dac ch).handover && !(s.dac ch).fault && (s.moved old i 0x0A || s.moved old i 0x0C || s.moved old i 0x0D) then s.startFast ch
  else s

/-- PFAIL_N becomes a cause of the channel's fault, or ceases to be one (R248). -/
def State.moveDacPfail (s old : State) (ch : Nat) : State :=
  if s.moved old (dacIdx ch) 0x0F && s.meas.pfail then
    if s.cfg (dacIdx ch) 0x0F = 1 then (s.modDac ch (fun d => { d with causes := setBit d.causes 3 true })).faultDac ch 3
    else s.modDac ch (fun d => { d with causes := setBit d.causes 3 false })
  else s

/-- EMITs that waited on a queue which was flushed go on. -/
def State.moveDacEmits (s old : State) (ch : Nat) : State :=
  if s.gated old 12 || s.moved old (dacIdx ch) 1 || s.moved old (dacIdx ch) 2 then s.settleEmits ch else s

/-- One DAC channel (R244-R248). -/
def State.moveDac (s old : State) (ch : Nat) : State :=
  ((((((s.moveDacGate old ch).moveDacRange old ch).moveDacGrant old ch).moveDacGrid old ch).moveDacPath old ch).moveDacPfail old ch).moveDacEmits old ch

/-- A channel that a commit in standby adds to MIRROR_DACS is held with the level it had; one that it takes out is released (R182, R183). -/
def State.moveDacHeld (s old : State) (ch : Nat) : State :=
  if s.dacHeld ch && !old.dacHeld ch then s.holdDac ch (old.dacOut ch)
  else if old.dacHeld ch && !s.dacHeld ch then s.releaseDac ch
  else s

/-- Grants, masks, FAULT_N, mirroring (R181-R183, R228, R249, R252). -/
def State.moveOutputs (s old : State) : State :=
  let s := s.faultEdge old.faultN
  let s := (List.range 16).foldl (fun s ch => (s.moveDac old ch).moveDacHeld old ch) s
  let s := (List.range 32).foldl (fun s n => if s.moved old (tripIdx n) 5 then s.modTrip n (fun t => { t with emit := false }) else s) s
  let s := if s.moved old 0x2D00 2 || s.moved old 0x2D00 3 then s.mirrorCommit else s
  let s := (List.range 32).foldl (fun s n =>
    let now := s.tripHeld n
    if now == (s.trip n).held then s
    else s.modTrip n (fun t => { t with held := now, asserted := t.asserted && (!now || t.backstop || backstopCause t.lastCause) })) s
  let low := s.faultN
  let s := { s with outs := { s.outs with faultCause := Nat.lor s.outs.faultCause s.presentCauses } }
  s.updateTrips.faultEdge low

/-- Peers, cores' read settings, staging (R61, R96, R178, R189). -/
def State.moveCores (s old : State) : State :=
  let bound := s.moved old 0x2D00 1 || s.dirtyKeys.any (fun k => decide (0x2D20 ≤ k / 256) && decide (k / 256 < 0x2D60))
  let s := if bound then s.refillBound else s
  let s := if s.moved old 0x2800 6 || s.moved old 0x2800 7 then (s.cores.map (·.1)).foldl State.anaIdle s else s
  if s.stageFree then { s with stage := { s.stage with slots := s.cfg 0x2700 0x0E } } else s

/-! ## The commit -/

/-- Every SET object's copies change places at one instant; the shadow is then reloaded. -/
def State.swapSets (s : State) : State :=
  let s := s.keepLast (odKey 0x2100 6) s.sets.lastCommit
  { s with sets := { s.sets with active := s.sets.shadow, shadow := s.sets.active, nqn := s.sets.nqnShadow, nqnShadow := s.sets.nqn,
                                 state := 2, result := 0, owner := none, commitReq := none, lastCommit := s.time.gtc } }

/-- A commit takes effect: counted, recorded, persisted, and acted on. -/
def State.commitSets (s : State) (r : PendCommit) : State :=
  let old := s
  let s := s.swapSets.bump 0x2100 7
  let words := [s.count 0x2100 7, r.src + r.when_ * 2 ^ 16 + r.mark * 2 ^ 18 + r.ctx * 2 ^ 24]
  let s := ((s.record 0 0x0005 words).persistSets).msix 0
  ((((s.gateInterfaces old).moveDividers old).moveTime old).moveMeasure old).moveOutputs old |>.moveCores old |>.markBudget

/-- A pending commit whose instant has come. -/
def State.commitEffect (s : State) : State :=
  match s.sets.commitReq with
  | none => s
  | some r => if r.when_ = 0 ∨ r.due then s.commitSets r else s

def execSetCommitEffect (s : State) : Out := .next s.commitEffect

/-- The shadow has been reloaded from the new active copy. -/
def State.shadowReload (s : State) : State :=
  if s.sets.state = 2 then
    { s with sets := { s.sets with shadow := s.sets.active, nqnShadow := s.sets.nqn, state := 0 } }
  else s

def execShadowReloadDone (s : State) : Out := .next s.shadowReload

/-! ## SET_CMD (R274, R275) -/

/-- Sessions whose claim stands against this one. -/
def State.claimedByOther (s : State) (ses : Ses) : Bool :=
  match s.sets.owner with
  | some n => n != ses
  | none => false

def State.setResult (s : State) (v : Nat) : State := { s with sets := { s.sets with result := v } }

/-- The abort of a SET_CMD value before its device-state checks: bad code or WHEN. -/
def setCmdBad (v : Nat) : Bool := !(decide (1 ≤ field v 0 4) && decide (field v 0 4 ≤ 4)) || field v 4 2 == 3

/-- A mark is enabled. -/
def State.markOn (s : State) (i : Nat) : Bool := bit (s.cfg 0x2320 (i + 1)) 40

/-- DISCARD: the active copy over the shadow, any pending commit cancelled, the claim ended. -/
def State.discardSets (s : State) : State :=
  { s with sets := { s.sets with shadow := s.sets.active, nqnShadow := s.sets.nqn, state := 0, result := 4, owner := none, commitReq := none } }

/-- COMMIT: a commit waits for its instant. -/
def State.requestCommit (s : State) (req : PendCommit) : State :=
  { s with sets := { s.sets with state := 1, result := 1, commitReq := some req } }

/-- What an accepted SET_CMD does. -/
def State.setDo (s : State) (ses : Ses) (v : Nat) : State :=
  let req : PendCommit := ⟨masterSource (sesMaster ses), field v 4 2, field v 6 6, field v 12 6, false⟩
  match field v 0 4 with
  | 1 => s.requestCommit req
  | 2 => s.discardSets
  | 3 => { s with sets := { s.sets with owner := some ses } }
  | _ => if s.sets.owner = some ses then { s with sets := { s.sets with owner := none } } else s

/-- A SET_CMD write in the order of R274: abort code and state. -/
def State.setCommand (s : State) (ses : Ses) (v : Nat) : Nat × State :=
  let code := field v 0 4
  let when_ := field v 4 2
  if setCmdBad v then (0x06090030, s)
  else if s.claimedByOther ses then (0x08000022, s.setResult 6)
  else if s.sets.state = 2 ∨ (s.sets.state = 1 ∧ code = 1) then (0x08000022, s.setResult 5)
  else if code = 1 ∧ when_ = 1 ∧ !s.markOn (field v 6 6) then (0x08000022, s.setResult 2)
  else if code = 1 ∧ when_ = 2 ∧ (s.ctx (field v 12 6)).state ≠ .running then (0x08000022, s.setResult 3)
  else (0, s.setDo ses v)

/-- The privilege a SET_CMD value needs. A code that names no command is refused later, at any level. -/
def State.setCmdPriv (s : State) (v : Nat) : Nat :=
  match field v 0 4 with
  | 1 => 1
  | 2 => s.dirtyPriv
  | 3 => 1
  | 4 => 1
  | _ => 0

/-- The end of a session ends its claim (R274). -/
def State.endClaim (s : State) (ses : Ses) : State :=
  if s.sets.owner = some ses then { s with sets := { s.sets with owner := none } } else s

end Sys2Proof.Machine
end

