-- ==== Sys2Proof/Machine/Sessions.lean ====
section
/-! DEFINITION. Sessions, privilege, keys (R269-R272), Ashpit clears (R329), management firmware (R281, R282, R302). -/

namespace Sys2Proof.Machine

/-! ## Challenges (R271) -/

/-- A nonce serves for 10 s. -/
def nonceLife : Nat := 10000000000
/-- Five failures in a row shut a master out for 60 s. -/
def lockoutTime : Nat := 60000000000

/-- 32 fresh bytes. -/
def State.freshNonce (s : State) : List Byte := (List.range 32).map (fun i => Config.nonceByte (s.draws + i))

/-- A nonce issued at `at_` is current. -/
def State.current (s : State) (at_ : Nat) : Bool := decide (s.time.up < at_ + nonceLife)

/-- A master is shut out. -/
def State.lockedOut (s : State) (m : Nat) : Bool :=
  match (s.master m).lockout with
  | some t => decide (s.time.up < t + lockoutTime)
  | none => false

/-- A challenge for a slot replaces the session's last one: abort code and state. -/
def State.beginAuth (s : State) (ses : Ses) (slot : Nat) : Nat × State :=
  if s.lockedOut (sesMaster ses) then (0x08000022, s)
  else if 8 ≤ slot then (0x06090030, s)
  else
    let n := s.freshNonce
    let now := s.time.up
    (0, (s.drawN 32).modSession ses (fun k => { k with nonce := some n, slot := slot, nonceAt := now }))

/-- AUTH_CHALLENGE of a session. -/
def Session.challenge (k : Session) : List Byte := k.nonce.getD (List.replicate 32 0)

def State.keySlot (s : State) (n : Nat) : KeySlot := Tab.get KeySlot.reset s.keys n

/-- The key of a slot; that of slot 0 is Ovdun's. -/
def State.keyOf (s : State) (n : Nat) : List Byte := if n = 0 then (List.range 32).map Config.vendorKeyByte else (s.keySlot n).key

/-- The proof a challenge asks for. -/
def State.authProof (s : State) (ses : Ses) (nonce : List Byte) (slot : Nat) : List Byte :=
  hmac (s.keyOf slot) (nonce ++ [BitVec.ofNat 8 (sesMaster ses), BitVec.ofNat 8 slot, BitVec.ofNat 8 (s.keySlot slot).level])

/-- A failed response: counted, recorded; the fifth in a row of a master shuts it out. -/
def State.authFail (s : State) (ses : Ses) (slot : Nat) : State :=
  let m := sesMaster ses
  let now := s.time.up
  let n := (s.master m).fails + 1
  let s := s.modMaster m (fun k => if 5 ≤ n then { k with fails := 0, lockout := some now } else { k with fails := n })
  (s.bump 0x2B00 6).record (masterSource m) 0x002C [slot % 256]

/-- A response: abort code and state. -/
def State.respond (s : State) (ses : Ses) (proof : List Byte) : Nat × State :=
  let k := s.session ses
  match k.nonce with
  | none => (0x08000022, s)
  | some nonce =>
    let spent := s.modSession ses (fun k => { k with nonce := none })
    if !s.current k.nonceAt then (0x08000022, spent)
    else
      let lvl := (s.keySlot k.slot).level
      if lvl ≠ 0 ∧ proof = s.authProof ses nonce k.slot then
        let key := if 2 ≤ ses then hmac (s.keyOf k.slot) (nonce ++ [0x01]) else []
        (0, (spent.modSession ses (fun k => { k with level := lvl, key := key })).modMaster (sesMaster ses) (fun k => { k with fails := 0 }))
      else (0x06010000, spent.authFail ses k.slot)

/-- A nonce lapses 10 s after its issue. -/
def State.lapse (s : State) (ses : Ses) : State :=
  if (s.session ses).nonce.isSome && !s.current (s.session ses).nonceAt then s.modSession ses (fun k => { k with nonce := none }) else s

def execNonceLapse (ses : Ses) (s : State) : Out := .next (s.lapse ses)

/-- The 60 s are over. -/
def State.lockoutEnd (s : State) (m : Nat) : State :=
  if (s.master m).lockout.isSome && !s.lockedOut m then s.modMaster m (fun k => { k with lockout := none }) else s

def execAuthLockoutEnd (master : Nat) (s : State) : Out := .next (s.lockoutEnd master)

/-- AUTH_DROP: a level up to the session's present one. -/
def State.dropLevel (s : State) (ses : Ses) (level : Nat) : Nat × State :=
  if (s.session ses).level < level then (0x06090030, s) else (0, s.modSession ses (fun k => { k with level := level }))

/-! ## Keys (R272) -/

/-- Every customer slot is empty. -/
def State.noKeys (s : State) : Bool := (List.range 7).all (fun i => (s.keySlot (i + 1)).level == 0)

/-- KEY_WRITE after steps 1 to 4 of R275: abort code and state. -/
def State.writeKey (s : State) (ses : Ses) (data : List Byte) : Nat × State :=
  let slot := (data.getD 0 0).toNat
  let level := (data.getD 1 0).toNat
  if sesMaster ses = 2 then (0x08000022, s)
  else if slot = 0 ∨ 7 < slot ∨ 2 < level then (0x06090030, s)
  else if !s.noKeys && decide ((s.session ses).level < level) then (0x06010000, s)
  else
    (0, { s with keys := Tab.set s.keys slot (if level = 0 then KeySlot.reset else ⟨level, data.drop 2⟩), keep := { s.keep with prevKeys := s.keys } })

/-! ## UDP messages and sessions (R268, R269) -/

/-- A message: the header of Table 10.10 and the payload. -/
def udpMessage (op flags number seq idx sub count : Nat) (payload : List Byte) (abort : Nat) : List Byte :=
  toLE 4 0x5055444F ++ toLE 1 1 ++ toLE 1 op ++ toLE 2 flags ++ toLE 4 number ++ toLE 4 seq ++ toLE 2 idx ++ toLE 1 sub ++ toLE 1 count ++
    toLE 2 payload.length ++ toLE 2 0 ++ toLE 4 abort ++ payload

/-- A request of session n as it came. -/
def UdpReq.bytes (q : UdpReq) (n seq : Nat) : List Byte := udpMessage q.op 0 n seq q.idx q.sub q.count q.payload 0

/-- The response to a request: FLAGS [0], and [1] with an abort code, which is then its payload (DEDUCED: log 124). -/
def UdpReq.response (q : UdpReq) (n seq : Nat) (r : Reply) : List Byte :=
  udpMessage q.op (1 + 2 * boolNat (r.abort != 0)) n seq q.idx q.sub q.count r.value r.abort

/-- The tag of a message under a session key. -/
def tagOf (key msg : List Byte) : List Byte := (hmac key msg).take 16

/-- A datagram leaves over port p. -/
def State.sendUdp (s : State) (p : Nat) (m : List Byte) : State := { s with telem := { s.telem with answers := Tab.set s.telem.answers p m } }

/-- The answer to a request of session n goes out, tagged in a session above Observer, and is kept among the session's last 16. -/
def State.udpAnswer (s : State) (p n seq : Nat) (q : UdpReq) (r : Reply) : State :=
  let k := s.session (2 + n)
  let m := q.response n seq r
  let m := if 0 < k.level then m ++ tagOf k.key m else m
  let kept := k.kept ++ [(seq, m)]
  if k.open_ then (s.modSession (2 + n) (fun k => { k with reply := r, kept := kept.drop (kept.length - 16) })).sendUdp p m else s

/-- A UDP session ends; what it still waits for has nobody to be answered to. -/
def State.closeSession (s : State) (ses : Ses) : State :=
  (({ s with sessions := Tab.erase s.sessions ses }).endClaim ses).modMaster 2 (fun k =>
    { k with held := k.held.map (fun (h : HeldReq) => if h.ses = ses then { h with ans := none } else h) })

/-- 60 s without a request. -/
def State.sessionTimeout (s : State) (n : Nat) : State :=
  let k := s.session (2 + n)
  if k.open_ && decide (k.lastRequest + 60000000000 ≤ s.time.up) then s.closeSession (2 + n) else s

def execSessionTimeout (n : Nat) (s : State) : Out := .next (s.sessionTimeout n)

/-! ## Ashpit clears (R329) -/

/-- A read of CLEAR_CHAL: a fresh nonce each time. -/
def State.clearNonce (s : State) (ses : Ses) : List Byte × State :=
  let n := s.freshNonce
  let now := s.time.up
  (n, (s.drawN 32).modSession ses (fun k => { k with clearNonce := some n, clearAt := now }))

/-- The proof of a clear. -/
def State.clearProof (s : State) (nonce : List Byte) (slot : Nat) : List Byte := hmac (s.keyOf slot) (nonce ++ [0x02, BitVec.ofNat 8 slot])

/-- ASH_CLEAR after steps 1 to 4 of R275: abort code and state. -/
def State.writeClear (s : State) (ses : Ses) (data : List Byte) : Nat × State :=
  let slot := (data.getD 0 0).toNat
  let k := s.session ses
  if s.ash.freeze.isSome || s.ash.checkpoint then (0x08000022, s)
  else
    match k.clearNonce with
    | none => (0x08000022, s)
    | some nonce =>
      let s := s.modSession ses (fun k => { k with clearNonce := none })
      if !s.current k.clearAt then (0x08000022, s)
      else if 1 ≤ slot ∧ slot ≤ 7 ∧ (s.keySlot slot).level = 2 ∧ data.drop 1 = s.clearProof nonce slot then (0, s.clearAsh slot)
      else (0x06010000, (s.bump 0x2B00 6).record (masterSource (sesMaster ses)) 0x002C [slot % 256 + 256])

/-! ## Management firmware (R281, R282) -/

/-- A FIRMWARE record: event, version in the bank concerned. -/
def State.fwRecord (s : State) (event bank : Nat) : State := s.record 0 0x002D [event, s.fw.versions.getD bank 0]

/-- FW_CMD = 1: the load takes staging. -/
def State.fwLoad (s : State) : State := { s with fw := { s.fw with status := 1 }, stage := { s.stage with firmware := true } }

/-- The load ends: an image whose signature is valid goes into the inactive bank; staging is free again. -/
def State.fwWritten (s : State) : State :=
  if s.fw.status ≠ 1 ∨ !s.stage.firmware then s
  else
    let img := s.bytes 0 s.fw.len
    let b := 1 - s.fw.active
    let s := if Config.firmwareSigned img then
        let fw := { s.fw with status := 2, images := Tab.set s.fw.images b img, versions := s.fw.versions.set b (Config.firmwareVersion img % 2 ^ 32) }
        ({ s.keepLast (odKey 0x2B80 (2 + b)) (s.fw.versions.getD b 0) with fw := fw }).fwRecord 0 b
      else ({ s with fw := { s.fw with status := 4 } }).fwRecord 3 b
    s.freeStage

def execFwImageWritten (s : State) : Out := .next s.fwWritten

/-- Every session falls to Observer. -/
def State.dropSessions (s : State) : State :=
  { s with sessions := s.sessions.map (fun (e : Nat × Session) => (e.1, { e.2 with level := 0, nonce := none, clearNonce := none })) }

/-- The management controller restarts from a bank. -/
def State.restartMgmt (s : State) (bank : Nat) (watchdog : Bool) : State :=
  ({ s with fw := { s.fw with serving := false, switching := some (bank, s.time.up, watchdog) },
            pwr := { s.pwr with mgmtCrossing := false } }).dropSessions

/-- FW_CMD = 2. -/
def State.fwSwitch (s : State) : State := s.restartMgmt (1 - s.fw.active) false

/-- The bank serves, within 2 s: tracking, stoking and programming go on. A management fault is over. -/
def State.fwServing (s : State) : State :=
  match s.fw.switching with
  | none => s
  | some (b, since, wd) =>
    if since + 2000000000 ≤ s.time.up then s
    else
      let s := s.keepLast (odKey 0x2B80 1) s.fw.active
      let s : State := { s with fw := { s.fw with serving := true, active := b, switching := none },
                                outs := { s.outs with causeNow := setBit s.outs.causeNow 2 false } }
      if wd then s else s.fwRecord 1 b

def execFwBankServing (s : State) : Out := .next s.fwServing

/-- A bank that fails its self-check or does not serve within 2 s is abandoned: the previous bank restarts. -/
def State.fwAbandon (s : State) : State :=
  match s.fw.switching with
  | none => s
  | some (b, since, _) =>
    if s.time.up < since + 2000000000 ∧ Config.firmwareSelfCheck s.draws = true then s
    else ((({ s.draw with fw := { s.fw with status := 3 } }).fwRecord 2 b).restartMgmt s.fw.active true)

def execFwSwitchAbandon (s : State) : Out := .next s.fwAbandon

/-- The management watchdog: no service for 1 s restarts the same bank; FAULT_N's cause stands until it serves. -/
def State.mgmtWatchdog (s : State) : State :=
  if s.pwr.watch || s.fw.switching.isSome then s
  else
    let s := (s.restartMgmt s.fw.active true).fwRecord 4 s.fw.active
    let s : State := { s with outs := { s.outs with causeNow := setBit s.outs.causeNow 2 true } }
    s.setCause 2

def execManagementWatchdog (s : State) : Out := .next s.mgmtWatchdog

/-- FW_CMD = 3. -/
def State.markDefaults (s : State) : State := { s with keep := { s.keep with restoreDefaults := true } }

/-! ## The PCIe endpoint's reset (R270, R302) -/

def State.pcieReset (s : State) : State := ({ s with pcie := Pcie.reset }).modSession 0 (fun k => { k with level := 0, nonce := none, clearNonce := none })

def execPcieReset (s : State) : Out := .next s.pcieReset

end Sys2Proof.Machine
end

