-- ==== Sys2Proof/Machine/Tick.lean ====
section
/-! DEFINITION. The time tick (R211, Table 8.1): 4 ns of the module's own time pass and the GTC advances. -/

namespace Sys2Proof.Machine

/-- The rate correction that stands, in parts per 10^9: R215 in ACQUIRE and LOCKED, the mean of the last 64 in HOLDOVER,
the learned rate of the pilot, at most 500 ppm, in PILOT. -/
def State.rateNow (s : State) : Int :=
  match s.time.mode with
  | .acquire => s.time.rate
  | .locked => s.time.rate
  | .holdover => s.time.rate
  | .pilot => clampInt (-500000) 500000 (Config.pilotRate s.draws)
  | _ => 0

/-- The GTC and its fraction after one tick, in 2^-32 ns. -/
def State.gtcTick (s : State) : Nat :=
  let now := s.time.gtc * 2 ^ 32 + s.time.frac
  match s.time.mode with
  | .coarse => now + (if (s.time.up + 4) % 40 = 0 then 40 * 2 ^ 32 else 0)
  | _ => now + (4 * 2 ^ 32 + roundAway (4 * 2 ^ 32 * s.rateNow) 1000000000).toNat

def State.tick (s : State) : State :=
  let n := s.gtcTick
  let s := { s with time := { s.time with up := s.time.up + 4, gtc := n / 2 ^ 32 % 2 ^ 64, frac := n % 2 ^ 32 } }
  if s.time.mode = .pilot then s.draw else s

end Sys2Proof.Machine
end

