-- ==== Sys2Proof/Machine/Dictionary.lean ====
section
/-! DEFINITION. Reads of the object dictionary (R255-R257, R260, R273, R275): what each object reads as. -/

namespace Sys2Proof.Machine

/-! ## Blocks that are off (R256) -/

/-- Objects of a core that its router holds, or the management controller: they stand while the core's own domain is off (R126; log 123). -/
def routerSubs : List Nat := [1, 2, 3, 9, 10, 11, 12, 14]

/-- A core's own power domain is off (R298). -/
def Core.isOff (k : Core) : Bool := k.state == .off || k.state == .spare || k.state == .dead

/-- The object's block has its clock gated or its power domain off: it reads zero. Generators of absent dies read zero. -/
def State.blockOff (s : State) (idx sub : Nat) : Bool :=
  if (0x1600 ≤ idx ∧ idx ≤ 0x1603) ∨ (0x1A00 ≤ idx ∧ idx ≤ 0x1A03) ∨ (0x1C00 ≤ idx ∧ idx ≤ 0x1C33) then !s.clocked 0
  else if idx = 0x2B20 then !s.clocked 1
  else if idx = 0x2B21 then !s.clocked 2
  else if 0x2D08 ≤ idx ∧ idx ≤ 0x2D0B then !s.clocked (4 + (idx - 0x2D08))
  else if 0x2400 ≤ idx ∧ idx ≤ 0x245F then !s.chClocked (idx - 0x2400)
  else if 0x2460 ≤ idx ∧ idx ≤ 0x246F then !s.clocked 10
  else if idx = 0x2470 ∧ sub = 10 then !s.clocked 10
  else if idx = 0x2470 ∧ sub = 11 then !s.clocked 11
  else if 0x2500 ≤ idx ∧ idx ≤ 0x250F then !s.clocked 12
  else if 0x2220 ≤ idx ∧ idx ≤ 0x222A then !s.hasGen (idx - 0x2220)
  else if 0x3000 ≤ idx ∧ idx < 0x3248 then
    (decide (idx < 0x3240) && !s.dieOn (dieOf (idx - 0x3000))) || ((s.core (idx - 0x3000)).isOff && !routerSubs.contains sub)
  else false

/-! ## State objects -/

def CoreState.code : CoreState → Nat
  | .off => 0
  | .idle => 1
  | .running => 2
  | .halted => 3
  | .frozen => 4
  | .spare => 5
  | .dead => 6

def CtxState.code : CtxState → Nat
  | .none => 0
  | .loading => 1
  | .verifying => 2
  | .stopped => 3
  | .running => 4
  | .verifyHold => 5

def BankState.code : BankState → Nat
  | .empty => 0
  | .chrysalis => 1
  | .ready => 2
  | .imago => 3
  | .draining => 4

/-- Cores in service that satisfy a predicate. -/
def State.countCores (s : State) (p : Nat → Bool) : Nat := (s.coreList.filter (fun c => s.inService c && p c)).length

/-- Word w of the in-service bitmap. -/
def State.serviceWord (s : State) (w : Nat) : Nat := packBits ((List.range 32).map (fun i => s.inService (32 * w + i)))

/-- Tables 6.3, 11.8 and SET_STATE to SET_VIEW. -/
def State.live2000 (s : State) (ses : Ses) (idx sub : Nat) : Option Nat :=
  if idx = 0x2002 then
    (if sub = 1 then some (s.countCores (fun _ => true))
     else if sub ≤ 0x14 then some (s.serviceWord (sub - 2))
     else some (s.countCores (fun c => !isSentinel c && (s.core c).ctx.isNone)))
  else if idx = 0x2100 then
    match sub with
    | 2 => some s.sets.state
    | 3 => some s.sets.result
    | 4 => some (match s.sets.owner with | some n => masterSource (sesMaster n) | none => 0xFFFF)
    | 5 => some s.dirtyCount
    | 6 => some s.sets.lastCommit
    | 8 => some (s.session ses).setView
    | _ => none
  else if idx = 0x2200 then
    match sub with
    | 1 => some (boolNat s.clk.refLost)
    | 5 => some s.pwr.state
    | 6 => some s.pwr.watchWake
    | 7 => some s.pwr.ready
    | 8 => some s.pwr.tSent
    | 9 => some s.pwr.tCompute
    | 10 => some s.pwr.resetCause
    | _ => none
  else if 0x2210 ≤ idx ∧ idx ≤ 0x2213 then
    match sub with
    | 4 => some (Tab.get 0 s.pwr.dies (idx - 0x2210))
    | 5 => some (if Tab.get true s.pwr.coreRails (idx - 0x2210) then (s.coresOn (idx - 0x2210)).length else 0)
    | _ => none
  else if 0x2220 ≤ idx ∧ idx ≤ 0x222A then
    match sub with
    | 1 => some (s.gen (idx - 0x2220)).state
    | 3 => some (ofSigned 32 (s.gen (idx - 0x2220)).pilotPpm)
    | _ => none
  else none

/-- OFFSET_NS of an offset beyond INTEGER32, which the spec does not give, is a free value. -/
def State.offsetNs (s : State) : Nat :=
  let v := s.time.offset
  if -(2 ^ 31) ≤ v ∧ v < 2 ^ 31 then ofSigned 32 v else Config.counterOverflow (odKey 0x2300 4) v.natAbs % 2 ^ 32

/-- Table 8.5. -/
def State.live2300 (s : State) (idx sub : Nat) : Option Nat :=
  if idx = 0x2300 then
    match sub with
    | 1 => some s.time.gtc
    | 3 => some s.time.mode.code
    | 4 => some s.offsetNs
    | 5 => some (ofSigned 32 (clampInt (-100000) 100000 s.rateNow))
    | 7 => some s.time.holdoverSince
    | 12 => some s.time.latch0
    | 13 => some s.time.latch1
    | _ => none
  else if 0x2310 ≤ idx ∧ idx ≤ 0x2317 then
    let t := idx - 0x2310
    match sub with
    | 9 => some (s.trk t).state.code
    | 10 => some (s.phaseOf t)
    | 11 => some (ofSigned 32 (s.trk t).freq)
    | _ => none
  else none

/-- CH_STATUS. -/
def Channel.status (k : Channel) : Nat := packBits [k.faulted, k.clk, k.stuck, k.manch, k.evHi, k.evLo]

/-- Table 9.3. -/
def State.live2400 (s : State) (idx sub : Nat) : Option Nat :=
  if idx ≤ 0x245F then
    match sub with
    | 13 => some (s.chan (idx - 0x2400)).status
    | 16 => some (ofSigned 16 (s.chan (idx - 0x2400)).last)
    | _ => none
  else if idx ≤ 0x246F then (if sub = 2 then some (s.aux (idx - 0x2460)).last else none)
  else if idx = 0x2470 then
    match sub with
    | 9 => some (packBits ((List.range 8).map (fun p => (s.mclk p).fault)))
    | 13 => some (boolNat s.meas.pfail)
    | _ => none
  else if idx ≤ 0x248F then
    match sub with
    | 13 => some (s.fg (idx - 0x2480)).state
    | 14 => some (s.fg (idx - 0x2480)).frames
    | _ => none
  else
    let g := Tab.get Ring.reset s.meas.rings (idx - 0x2490)
    match sub with
    | 1 => some (g.wptr % 2 ^ 64)
    | 2 => some (packBits [g.frozen, g.armed])
    | _ => none

/-- DAC_STATUS. -/
def State.dacStatus (s : State) (ch : Nat) : Nat :=
  let d := s.dac ch
  packBits [d.fault, d.shortLatched, d.powerClamp, d.rangeClamp, d.handover, s.outs.dacClrLow, s.onFast ch, s.outs.railLow] +
    d.queue.length * 2 ^ 16

/-- Table 9.4. -/
def State.live2500 (s : State) (idx sub : Nat) : Option Nat :=
  if idx ≤ 0x250F then
    match sub with
    | 17 => some (s.dacStatus (idx - 0x2500))
    | 21 => some (s.dac (idx - 0x2500)).ladder
    | _ => none
  else if 0x2520 ≤ idx ∧ idx ≤ 0x253F then
    let t := s.trip (idx - 0x2520)
    match sub with
    | 6 => some (packBits [t.asserted, t.emit, t.backstop])
    | 10 => some t.lastCause
    | _ => none
  else if idx = 0x2560 then
    match sub with
    | 1 => some s.outs.faultCause
    | 3 => some (boolNat s.faultN)
    | _ => none
  else none

/-- Table 7.9. -/
def State.live2600 (s : State) (idx sub : Nat) : Option Nat :=
  if idx = 0x2600 then
    match sub with
    | 2 => some s.cmdStatus
    | 4 => some s.ecloseTime
    | 5 => some s.ecloseMark
    | 6 => some (s.ctxs.filter (fun x => x.2.state != .none)).length
    | _ => none
  else if idx ≤ 0x264F then
    let k := s.ctx (idx - 0x2610)
    match sub with
    | 1 => some k.state.code
    | 2 => some k.pointer
    | 3 => some k.switchAt
    | 4 => some k.bank0.state.code
    | 5 => some k.bank1.state.code
    | 6 => some k.bank0.image
    | 7 => some k.bank1.image
    | 8 => some k.progress
    | 10 => some k.lastEclosion
    | 11 => some k.loadStatus
    | 12 => some (k.bank k.imago).source
    | _ => none
  else if idx = 0x2701 then
    match sub with
    | 1 => some s.fetch.state
    | 2 => some s.stage.bytes
    | 3 => some s.fetch.lastStatus
    | _ => none
  else if idx = 0x2710 then (if sub = 4 then some (s.damper.now / 1000) else if sub = 6 then some s.atBudgetNow else none)
  else if idx = 0x2720 then (if sub = 1 then some s.stage.want else none)
  else none

/-- Engines of cores in service whose ENG_STATE satisfies a predicate; an engine no table lists is a spare. -/
def State.countEngines (s : State) (p : Nat → Bool) : Nat :=
  let listed := s.engines.filter (fun e => s.inService (e.1 / 50))
  let plain := if p 3 then 50 * s.countCores (fun _ => true) - listed.length else 0
  (listed.filter (fun e => p e.2.stateCode)).length + plain

/-- Table 3.6 by the selected engine. HEALTH is that of the last TEST_PERIOD; PENALTIES are those of the moment (DESIGN CHOICE: log 169). What
does not fit its object is cut to the object's width, but for LOWCONF_24H, which stops at 0xFFFF (DESIGN CHOICE: log 170). -/
def State.liveEngine (s : State) (ses : Ses) (sub : Nat) : Option Nat :=
  let v := (s.session ses).engSel
  let g := s.eng (field v 0 16) (field v 16 8)
  let low := g.health.last s.time.up
  match sub with
  | 1 => some v
  | 2 => some g.health.score
  | 3 => some g.te
  | 4 => some g.stateCode
  | 5 => some g.stuck.length
  | 6 => some (packBits g.refMask)
  | 7 => some (ppm low.2.1 low.2.2)
  | 8 => some (min 0xFFFF low.1)
  | 9 => some (if g.test.rms.isEmpty then 0 else sumNat g.test.rms / g.test.rms.length)
  | 10 => some g.stoke.lastSurvey
  | 11 => some g.stoke.overdue.length
  | 12 => some (fromLE ((g.penalties s.time.up).map (BitVec.ofNat 8)))
  | _ => none

/-- ASH_STATE. -/
def State.ashState (s : State) : Nat := if s.ash.clearing then 3 else if s.ash.checkpoint then 2 else if s.ash.freeze.isSome then 1 else 0

/-- Tables 3.6 and 12.5. -/
def State.live2800 (s : State) (ses : Ses) (idx sub : Nat) : Option Nat :=
  if idx = 0x2801 then
    match sub with
    | 1 => some (s.countEngines (fun n => n == 0 || n == 1 || n == 2 || n == 5))
    | 2 => some (s.countEngines (fun n => n == 1 || n == 2 || n == 5))
    | 3 => some (s.countEngines (· == 4))
    | 4 => some (s.countEngines (· == 3))
    | 8 => some s.svc.retireWait.length
    | _ => none
  else if idx = 0x2810 then
    match sub with
    | 1 => some s.defects.length
    | 3 => some (s.session ses).cursor
    | 4 => some (match s.defects[(s.session ses).cursor]? with | some d => d.word | none => 0)
    | _ => none
  else if idx = 0x2820 then s.liveEngine ses sub
  else if idx = 0x2A00 then
    match sub with
    | 1 => some (boolNat s.ash.freeze.isSome)
    | 3 => some s.ashState
    | 4 => some s.ash.foundFill
    | 5 => some s.ash.rollHead
    | 6 => some s.ash.rollOldest
    | 13 => some s.ash.lastClear
    | _ => none
  else if idx = 0x2A10 then
    match sub with
    | 1 => some (s.session ses).bucketSel
    | 4 => some (min 0xFFFFFFFF (Tab.get 0 s.ash.supp (s.session ses).bucketSel))
    | _ => none
  else none

/-- A range of sync objects as a window (R277). -/
def syncWindow (store base len : Nat) : Nat :=
  if len = 0 then 0
  else
    let a := syncAddr (store + base)
    let lo := a / 64
    lo + (ceilDiv (a + 4 * len) 64 - lo) * 2 ^ 26 + 3 * 2 ^ 52

/-- The lowest die a context uses. -/
def Ctx.lowDie (k : Ctx) : Nat := (k.cores.map dieOf).foldl min 4

/-- Sessions, keys, masters, network, firmware, ECC, spares, Flue. -/
def State.live2B00 (s : State) (ses : Ses) (idx sub : Nat) : Option Nat :=
  if idx = 0x2B00 then (if sub = 1 then some (s.session ses).level else none)
  else if idx = 0x2B01 then some (s.keySlot (sub - 1)).level
  else if 0x2B10 ≤ idx ∧ idx ≤ 0x2B17 then
    let m := s.master (idx - 0x2B10)
    match sub with
    | 17 => some (boolNat m.frozen)
    | 18 => some m.violation
    | 19 => some m.violationGtc
    | 20 => some m.held.length
    | 1 => if idx = 0x2B13 then some (s.cfg 0x2700 0x0E * 1024 * 2 ^ 26 + 3 * 2 ^ 52) else none
    | _ => none
  else if idx = 0x2B20 ∨ idx = 0x2B21 then
    match sub with
    | 5 => some (Config.identity (odKey idx 5) % 2 ^ 48)
    | 6 => some (boolNat (Tab.get false s.links (idx - 0x2B20)))
    | _ => none
  else if 0x2B40 ≤ idx ∧ idx ≤ 0x2B7F then
    let k := s.ctx (idx - 0x2B40)
    match sub with
    | 15 => some (if k.lowDie < 4 then syncWindow (k.lowDie * 65536) k.dieBase k.dieLen else 0)
    | 16 => some (syncWindow 262144 k.hubBase k.hubLen)
    | _ => none
  else if idx = 0x2B80 then
    match sub with
    | 1 => some s.fw.active
    | 2 => some (s.fw.versions.getD 0 0)
    | 3 => some (s.fw.versions.getD 1 0)
    | 4 => some s.fw.len
    | 6 => some s.fw.status
    | _ => none
  else if idx = 0x2C00 then (if sub = 8 then some s.svc.lastUe else none)
  else if idx = 0x2C10 then
    (if 2 ≤ sub ∧ sub ≤ 5 then
       some (if sub - 2 < s.part.dies then (s.svc.spareCores.filter (fun c => dieOf c == sub - 2 && (s.core c).state != .dead)).length else 0)
     else if 7 ≤ sub ∧ sub ≤ 11 then some (s.replace (sub - 7)).state
     else if 12 ≤ sub ∧ sub ≤ 16 then some (s.replace (sub - 12)).old
     else if 17 ≤ sub ∧ sub ≤ 21 then some (min 255 (s.replace (sub - 17)).queue.length)
     else none)
  else if idx = 0x2D00 then (if sub = 12 then some s.mirror.state else none)
  else if 0x2D08 ≤ idx ∧ idx ≤ 0x2D0B then
    let q := s.port (idx - 0x2D08)
    match sub with
    | 1 => some q.state
    | 2 => some q.remoteId
    | 3 => some q.remoteSerial
    | 4 => some q.remotePort
    | _ => none
  else none

/-- FRAME_WIN0-3, as the plan loaded last declares them; the plans of both banks declare the same (R108, R130). -/
def Core.frameWord (k : Core) (i : Nat) : Nat :=
  match (match k.head k.seq.bank with | some h => some h | none => k.head (1 - k.seq.bank)) with
  | some h => h.frameWin.getD i 0
  | none => 0

/-- Table 4.10. -/
def State.live3000 (s : State) (c sub : Nat) : Option Nat :=
  let k := s.core c
  match sub with
  | 1 => some (if k.state != .dead && s.svc.spareCores.contains c then 5 else k.state.code)
  | 2 => some (k.ctx.getD 0xFF)
  | 3 => some k.comm.epoch
  | 4 => some k.seq.bank
  | 5 => some (k.seq.pc % 4096 + k.seq.bank * 4096)
  | 6 => some k.seq.lastFault
  | 7 => some k.seq.ops.length
  | 16 => some (k.frameWord 0)
  | 17 => some (k.frameWord 1)
  | 18 => some (k.frameWord 2)
  | 19 => some (k.frameWord 3)
  | _ => none

/-- Table 10.5, but for TX_WORD. -/
def State.live6000 (s : State) (idx sub : Nat) : Option Nat :=
  if idx = 0x6000 then some (ofSigned 16 (s.chan (sub - 1)).last)
  else if idx = 0x6001 then some (s.aux (sub - 1)).last
  else if idx = 0x6010 then
    match sub with
    | 1 => some (packBits ((List.range 32).map (fun n => (s.trip n).asserted)))
    | 2 => some s.outs.faultCause
    | _ => some s.ecat.gtcSnap
  else if idx = 0x6020 then some (s.phaseOf (sub - 1))
  else none

/-- EtherCAT's own objects: mapping, assignment and synchronisation as written; identity as the part has it. -/
def State.live1000 (s : State) (idx sub : Nat) : Option Nat :=
  if idx = 0x1018 ∧ 3 ≤ sub then some (Config.identity (odKey idx sub) % 2 ^ 32)
  else if idx < 0x1600 ∨ idx = 0x1C00 then none
  else some (Tab.get 0 s.ecat.pdo (odKey idx sub))

/-- The present value of an object that is no setting and no counter. -/
def State.live (s : State) (ses : Ses) (idx sub : Nat) : Option Nat :=
  if idx < 0x2000 then s.live1000 idx sub
  else if idx < 0x2300 then s.live2000 ses idx sub
  else if idx < 0x2400 then s.live2300 idx sub
  else if idx < 0x2500 then s.live2400 idx sub
  else if idx < 0x2600 then s.live2500 idx sub
  else if idx < 0x2800 then s.live2600 idx sub
  else if idx < 0x2B00 then s.live2800 ses idx sub
  else if idx < 0x3000 then s.live2B00 ses idx sub
  else if idx < 0x6000 then s.live3000 (idx - 0x3000) sub
  else s.live6000 idx sub

/-! ## Strings -/

/-- The objects that are strings or octet strings. -/
def State.stringValue (s : State) (ses : Ses) (idx sub : Nat) : Option (List Byte) :=
  if idx = 0x1008 then
    some (asciiBytes "Sundah Abaon SDA-" ++ asciiBytes (Nat.repr s.part.dies) ++ (if s.part.extended then asciiBytes "-E" else []))
  else if idx = 0x1009 then some (Config.identityString (odKey idx 0))
  else if idx = 0x100A then some (Config.identityString (odKey idx 0 + s.fw.active * 2 ^ 32))
  else if idx = 0x2700 ∧ sub = 3 then some (if (s.session ses).setView = 1 then s.sets.nqnShadow else s.sets.nqn)
  else if idx = 0x2700 ∧ sub = 4 then some (asciiBytes "nqn.2014-08.org.nvmexpress:uuid:" ++ Config.identityString (odKey idx sub))
  else if idx = 0x2B00 ∧ sub = 3 then some (s.session ses).challenge
  else none

/-! ## Settings -/

/-- The key under which the sets hold a setting: RATE and BURST once a bucket (R325). -/
def State.setKey (s : State) (ses : Ses) (idx sub : Nat) : Nat :=
  if idx = 0x2A10 then bucketKey (s.session ses).bucketSel sub else odKey idx sub

/-- A setting as the session reads it: the active copy, or the shadow (R273). -/
def State.setting (s : State) (ses : Ses) (idx sub : Nat) : Nat :=
  let t := if (s.session ses).setView = 1 then s.sets.shadow else s.sets.active
  Tab.get (s.dflt idx sub) t (s.setKey ses idx sub)

/-- An index of a context number that is not in use (R210). -/
def State.unusedCtx (s : State) (idx : Nat) : Bool :=
  decide (0x2610 ≤ idx) && decide (idx ≤ 0x264F) && (s.ctx (idx - 0x2610)).state == .none

/-- The value of an object in little-endian bytes. -/
def State.odValue (s : State) (ses : Ses) (idx sub : Nat) (r : OdRow) : List Byte :=
  match s.stringValue ses idx sub with
  | some bs => bs
  | none =>
    if sub = 0 then toLE r.size r.dflt
    else if s.blockOff idx sub || s.unusedCtx idx then toLE r.size 0
    else
      match s.live ses idx sub with
      | some v => toLE r.size v
      | none => toLE r.size (if r.set then s.setting ses idx sub else s.count idx sub)

/-! ## Words of process data (R262) -/

/-- A read has met a poisoned word of hub SRAM (Table 12.2). -/
def State.hubPoison (s : State) (a n : Nat) : State := if a < 0x06000000 ∧ s.poisoned a n then s.setCause 5 else s

/-- TX_WORD n: an access of the EtherCAT master. A poisoned word reads as one; the spec gives a word of process data nothing to show its status 4
in (DESIGN CHOICE: log 161). -/
def State.txWord (s : State) (n : Nat) : Nat × State :=
  let a := s.cfg 0x6801 (n + 1)
  if a = 0xFFFFFFFF ∨ (s.master 1).frozen then (0, s)
  else if s.masterMay 1 a 4 false then (fromLE (s.sysBytes a 4), s.hubPoison a 4)
  else (0, s.freezeMaster 1 a false)

/-- RX_WORD n: written to its address, or held while the EtherCAT master is frozen. -/
def State.rxWord (s : State) (n v : Nat) : State :=
  let a := s.cfg 0x7801 (n + 1)
  if a = 0xFFFFFFFF then s else s.masterWrite 1 1 a (toLE 4 v)

/-! ## Reads (R275) -/

/-- The hub-keep word of a PERSIST object has an error no access has met (Table 12.2). -/
def State.keepBad (s : State) (idx sub : Nat) (r : OdRow) : Bool := r.persist && s.keep.bad.contains (odKey idx sub)

/-- An access has met the error: the value there is that of the previous generation from now on. -/
def State.metBad (s : State) (idx sub : Nat) : State := { s with keep := { s.keep with bad := s.keep.bad.erase (odKey idx sub) } }

/-- The answer to a read: existence, write-only, value. A read of DEF_ENTRY moves CURSOR on, one of CLEAR_CHAL draws a nonce. -/
def State.odRead (s : State) (ses : Ses) (idx sub : Nat) : Reply × State :=
  match s.row idx sub with
  | none => (⟨if odExists s.part idx then 0x06090011 else 0x06020000, []⟩, s)
  | some r =>
    if r.acc = .wo then (⟨0x06010001, []⟩, s)
    else if s.keepBad idx sub r then (⟨0x06060000, []⟩, s.metBad idx sub)
    else if idx = 0x6800 ∧ sub ≠ 0 then
      let (v, s) := s.txWord (sub - 1)
      (⟨0, toLE 4 v⟩, s)
    else if idx = 0x2A00 ∧ sub = 11 then
      let (n, s) := s.clearNonce ses
      (⟨0, n⟩, s)
    else if idx = 0x2810 ∧ sub = 4 then
      (⟨0, s.odValue ses idx sub r⟩, s.modSession ses (fun k => { k with cursor := (k.cursor + 1) % 2 ^ 32 }))
    else (⟨0, s.odValue ses idx sub r⟩, s)

/-- The management controller serves and its crossing is open; nothing answers in the watch state or before power-good (R282, R301,
R303, R343). -/
def State.serves (s : State) : Bool := s.fw.serving && s.pwr.mgmtCrossing && !s.pwr.watch && s.pwr.powerGood

/-- A dictionary read as any session makes it. -/
def State.readObject (s : State) (ses : Ses) (idx sub : Nat) : Reply × State :=
  if s.serves then s.odRead ses idx sub else (⟨0x08000020, []⟩, s)

end Sys2Proof.Machine
end

