-- ==== Sys2Proof/Machine/Commands.lean ====
section
/-! DEFINITION. Writes of the object dictionary: the checks of R275 in their order, what each command object does, and the
commands that are a write of one object. -/

namespace Sys2Proof.Machine

/-! ## DMA descriptors (R267) -/

def State.dma (s : State) (k : Nat) : DmaChan := Tab.get DmaChan.reset s.pcie.dma k
def State.setDma (s : State) (k : Nat) (d : DmaChan) : State := { s with pcie := { s.pcie with dma := Tab.set s.pcie.dma k d } }

/-- A descriptor done with a status: written back, the next one is at the head, and its interrupt. -/
def State.dmaDone (s : State) (k status : Nat) (irq : Bool) : State :=
  let d := s.dma k
  let s := s.setDma k { d with status := status, head := (d.head + 1) % d.size }
  if irq then s.msix (3 + k) else s

/-- A descriptor dropped unmade: the next one is at the head; the spec names no status for it, and none is written (DESIGN CHOICE:
log 158). -/
def State.dmaSkip (s : State) (k : Nat) : State :=
  let d := s.dma k
  s.setDma k { d with head := (d.head + 1) % d.size }

/-- A descriptor from the host inside the windows: the bytes move, unless the host bus fails. -/
def State.dmaIn (s : State) (k a : Nat) (data : List Byte) (busError irq : Bool) : State :=
  if busError then s.dmaDone k 4 irq else (s.sysWriteAll (s.isEngineer 0) a data).dmaDone k 1 irq

/-! ## Releases of masters (R279) -/

/-- The master number names a master of Table 10.11 on the part. -/
def State.namesMaster (s : State) (m : Nat) : Bool := decide (m < 8) || (decide (0x1000 ≤ m) && s.present (m - 0x1000))

/-- The master is frozen. -/
def State.masterFrozen (s : State) (m : Nat) : Bool :=
  if m < 8 then (s.master m).frozen else (s.core (m - 0x1000)).state == .frozen

/-- A held request runs, or is held again. A UDP request is answered once it has been made; a descriptor is written back. -/
def State.resumeHeld (s : State) (m : Nat) (h : HeldReq) : State :=
  match h.msg with
  | some (x, f) =>
    let p := m - 4
    if (s.master m).frozen then s.modMaster m (fun k => { k with held := k.held ++ [h] })
    else if s.flueMay p x.dst h.addr h.len then (s.giveCredits p f).flueEnter p f x
    else (s.freezeMaster m h.addr true).modMaster m (fun k => { k with held := k.held ++ [h] })
  | none =>
    if (s.master m).frozen then s.hold m h
    else if s.masterMay m h.addr h.len h.write then
      match h.dma with
      | some (k, irq, bus) => s.dmaIn k h.addr h.data bus irq
      | none =>
      let v := if h.write then [] else s.sysBytes h.addr h.len
      let s := if h.write then s.sysWriteAll (s.isEngineer h.ses) h.addr h.data else s
      match h.ans with
      | some (p, seq, q) => s.udpAnswer p (h.ses - 2) seq q ⟨0, v⟩
      | none => s
    else
      match h.dma with
      | some (k, irq, _) => (s.freezeMaster m h.addr true).dmaDone k 2 irq
      | none => (s.freezeMaster m h.addr h.write).hold m h

/-- Action 1 on a hub master: its held requests are checked again, in order. -/
def State.resumeMaster (s : State) (m : Nat) : State :=
  let l := (s.master m).held
  l.foldl (fun s h => s.resumeHeld m h) (s.modMaster m (fun k => { k with frozen := false, held := [] }))

/-- Action 2 on a hub master: its held requests are dropped and counted; a Flue port gives back the credits of its messages. -/
def State.dropMaster (s : State) (m : Nat) : State :=
  let n := (s.master m).held.length
  let s := ((s.master m).held.filterMap (·.msg)).foldl (fun s x => s.giveCredits (m - 4) x.2) s
  let ks := (s.master m).held.filterMap (fun h => h.dma.map (·.1))
  ks.foldl State.dmaSkip ((s.modMaster m (fun k => { k with frozen := false, held := [] })).bumpBy (0x2B10 + m) 0x15 n)

/-- MASTER_RELEASE of a frozen master, recorded with the requests resumed or dropped. -/
def State.releaseMaster (s : State) (ses : Ses) (v : Nat) : State :=
  let m := field v 0 16
  let act := field v 16 2
  let note := fun (s : State) (n : Nat) => s.record (masterSource (sesMaster ses)) 0x002E [m + act * 2 ^ 16, n]
  if m < 8 then
    let n := (s.master m).held.length
    if act = 1 then
      let s := s.resumeMaster m
      note s (n - (s.master m).held.length)
    else note (s.dropMaster m) n
  else
    let c := m - 0x1000
    if act = 1 then note (s.modCore c (fun k => { k with state := .running })) 0 else note (s.stopCore c) 0

/-! ## Privilege (R275 step 3) -/

/-- The level a CTX_CMD value needs (R210): running a context is the Operator's, changing weights the Engineer's. -/
def ctxPriv (v : Nat) : Nat :=
  let cmd := field v 0 8
  if cmd = 1 ∨ cmd = 2 ∨ cmd = 4 ∨ cmd = 7 ∨ cmd = 8 then 2 else 1

/-- The level a write needs. -/
def State.needPriv (s : State) (idx sub v : Nat) (r : OdRow) : Nat :=
  if idx = 0x2100 ∧ sub = 1 then s.setCmdPriv v
  else if idx = 0x2600 ∧ sub = 1 then ctxPriv v
  else if idx = 0x2B02 then (if s.noKeys then 0 else 2)
  else r.priv

/-! ## Device state (R275 step 6) -/

/-- A channel of measurement domain d is selected by the backstop mask of an enabled trip output (R288). -/
def State.backstopUses (s : State) (d : Nat) : Bool :=
  (List.range 32).any (fun n => s.cfg (tripIdx n) 1 == 1 && (List.range 3).any (fun w => s.cfg (0x2540 + n) (3 * d + w + 1) != 0))

/-- The device state allows the write, as the object's own rule sets. -/
def State.stateAllows (s : State) (idx sub v : Nat) : Bool :=
  if (0x1600 ≤ idx ∧ idx ≤ 0x1603) ∨ (0x1A00 ≤ idx ∧ idx ≤ 0x1A03) ∨ idx = 0x1C12 ∨ idx = 0x1C13 then s.ecat.al == 2
  else if idx = 0x2200 then
    match sub with
    | 2 => (bit v 8 || !s.backstopUses 0) && (bit v 9 || !s.backstopUses 1)
    | 4 => if v = 1 then !s.anyRunning else if v = 2 then !s.computeLoaded else true
    | 11 => if field v 0 4 = 2 then !s.dieRuns (field v 4 16) else if field v 0 4 = 3 then !s.coreRuns (field v 4 16) else true
    | _ => true
  else if idx = 0x2300 ∧ sub = 9 then !s.anyRunning
  else if 0x2500 ≤ idx ∧ idx ≤ 0x250F ∧ sub = 16 then s.cfg idx 2 == 0xFF
  else if 0x2520 ≤ idx ∧ idx ≤ 0x253F ∧ sub = 7 then s.cfg idx 3 == 1 || !s.tripSource (idx - 0x2520)
  else if idx = 0x2B00 ∧ sub = 7 then
    !s.namesMaster (field v 0 16) || !(field v 16 2 == 1 || field v 16 2 == 2) || s.masterFrozen (field v 0 16)
  else if idx = 0x2B80 ∧ sub = 5 then
    (if v = 1 then s.stageFree else if v = 2 then s.sets.state == 0 && s.ctxs.all (fun x => x.2.cmd == 0) else true)
  else if idx = 0x2D00 ∧ sub = 11 then (if v = 1 then s.mirror.state == 1 else if v = 2 then s.mirror.state == 2 else true)
  else true

/-! ## Range (R275 step 7, R10) -/

/-- A grant: a context, or 0xFF. -/
def grantOk (v : Nat) : Bool := decide (v < 64) || v == 0xFF

/-- Inputs a tracker source of Table 8.2 has; with a source that takes none TRK_INPUT has its type's widest range, and a source
written later stands beside the input written before it (DESIGN CHOICE: log 157). -/
def trkInputs (src : Nat) : Nat :=
  match src with
  | 2 => 16
  | 3 => 4
  | 6 => 2
  | _ => 96

/-- Fields whose range the object states beside its type's. -/
def State.fieldsOk (s : State) (idx sub v : Nat) : Bool :=
  if idx = 0x1C12 then v == 0 || (decide (0x1600 ≤ v) && decide (v ≤ 0x1603))
  else if idx = 0x1C13 then v == 0 || (decide (0x1A00 ≤ v) && decide (v ≤ 0x1A03))
  else if (idx = 0x1C32 ∨ idx = 0x1C33) ∧ sub = 2 then v == 0 || decide (31250 ≤ v)
  else if idx = 0x2200 ∧ sub = 4 then decide (1 ≤ v) && decide (v ≤ 3)
  else if idx = 0x2200 ∧ sub = 11 then
    match field v 0 4 with
    | 1 => true
    | 2 => decide (field v 4 16 < s.part.dies)
    | 3 => s.present (field v 4 16)
    | _ => false
  else if 0x2310 ≤ idx ∧ idx ≤ 0x2317 ∧ sub = 3 then decide (v ≤ s.cfgShadow idx 4)
  else if 0x2310 ≤ idx ∧ idx ≤ 0x2317 ∧ sub = 2 then decide (v < trkInputs (s.cfgShadow idx 1))
  else if idx = 0x2320 then decide (field v 36 4 ≤ 12)
  else if idx = 0x2330 ∧ sub = 2 then v == 0 || decide (1000 ≤ v)
  else if idx = 0x2470 ∧ sub ≤ 8 then decide (20 ≤ field v 1 7) && decide (field v 1 7 ≤ 100)
  else if 0x2480 ≤ idx ∧ idx ≤ 0x248F ∧ sub = 12 then decide (v < 16) || v == 0xFF
  else if 0x2500 ≤ idx ∧ idx ≤ 0x250F ∧ sub = 2 then grantOk v
  else if 0x2500 ≤ idx ∧ idx ≤ 0x250F ∧ sub = 14 then decide (v < 16) || v == 0xFF
  else if 0x2520 ≤ idx ∧ idx ≤ 0x253F ∧ sub = 5 then grantOk v
  else if idx = 0x2600 ∧ sub = 1 then decide (1 ≤ field v 0 8) && decide (field v 0 8 ≤ 8) && !(field v 0 8 == 3 && field v 15 2 == 3)
  else if idx = 0x2802 then s.namesEngine v && (sub != 2 || decide (field v 24 8 < 128))
  else if idx = 0x2820 then s.namesEngine v
  else if idx = 0x2900 then field v 0 2 != 3 && (field v 0 2 != 1 || s.present (field v 2 16))
  else if idx = 0x2B00 ∧ sub = 7 then s.namesMaster (field v 0 16) && (field v 16 2 == 1 || field v 16 2 == 2)
  else if idx = 0x2B30 ∧ sub = 1 then decide (v < 2) || v == 0xFF
  else if idx = 0x2C10 then s.present v
  else if idx = 0x2D00 ∧ sub = 9 then decide (v < 32) || v == 0xFF
  else if 0x2D20 ≤ idx ∧ idx ≤ 0x2D5F then decide (field v 38 10 ≤ 543)
  else if idx = 0x6801 ∨ idx = 0x7801 then v == 0xFFFFFFFF || v % 4 == 0
  else true

/-- A number as the object's type reads it. -/
def OdRow.number (r : OdRow) (v : Nat) : Int := if r.signed then toSigned (8 * r.size) v else (v : Int)

/-- A step takes the GTC neither below 0 nor round past its end, as it never wraps (R214; the abort of the second: log 116). -/
def State.stepOk (s : State) (idx sub : Nat) (v : Int) : Bool :=
  !(idx == 0x2300 && sub == 9) || (decide (0 ≤ (s.time.gtc : Int) + v) && decide ((s.time.gtc : Int) + v < 2 ^ 64))

/-- The value lies within the stated range. Reserved bits are ignored. -/
def State.inRange (s : State) (idx sub v : Nat) (r : OdRow) : Bool :=
  let n := r.number v
  decide (r.lo ≤ n) && decide (n ≤ r.hi) && s.fieldsOk idx sub (Nat.land v r.mask) && s.stepOk idx sub n

/-! ## PDO mapping (R258, R260) -/

/-- The object a mapping entry names may be mapped in this direction, with its own length. -/
def State.mappable (s : State) (rx : Bool) (v : Nat) : Bool :=
  let idx := field v 16 16
  let sub := field v 8 8
  let lo := if rx then 0x7000 else 0x6000
  decide (lo ≤ idx) && decide (idx < lo + 0x1000) && idx != 0x6801 && idx != 0x7801 && sub != 0 &&
    (match s.row idx sub with | some r => field v 0 8 == 8 * r.size | none => false)

/-- The entries of one direction: mapping objects from 0x1600 or 0x1A00. -/
def mappingEntries (pdo : Tab Nat) (rx : Bool) : List Nat :=
  let base := if rx then 0x1600 else 0x1A00
  (List.range 4).flatMap (fun i => ((List.range 0x40).map (fun j => Tab.get 0 pdo (odKey (base + i) (j + 1)))).filter (· != 0))

/-- What a mapping write meets: an object that cannot be mapped, or too much. -/
def State.mappingAbort (s : State) (idx sub v : Nat) : Nat :=
  if 0x1600 ≤ idx ∧ idx ≤ 0x1A03 ∧ v ≠ 0 then
    let rx := decide (idx < 0x1A00)
    if !s.mappable rx v then 0x06040041
    else
      let es := mappingEntries (Tab.set s.ecat.pdo (odKey idx sub) v) rx
      if 64 < es.length ∨ 512 < sumNat (es.map (fun e => field e 0 8 / 8)) then 0x06040042 else 0
  else 0

/-! ## What an accepted write does -/

/-- A setting goes to the shadow, without its reserved bits. -/
def State.writeSetting (s : State) (ses : Ses) (idx sub v : Nat) (r : OdRow) : State :=
  { s with sets := { s.sets with shadow := Tab.set s.sets.shadow (s.setKey ses idx sub) (Nat.land v r.mask) } }

/-- MIRROR_CMD. -/
def State.mirrorCommand (s : State) (v : Nat) : State := if v = 1 then s.sendTakeover 7 else s.takeover 3

/-- POWER_CMD. -/
def State.powerCommand (s : State) (v : Nat) : State := match v with | 1 => s.enterWatch | 2 => s.diesDown | _ => s.diesUp

/-- FW_CMD. -/
def State.firmwareCommand (s : State) (v : Nat) : State := match v with | 1 => s.fwLoad | 2 => s.fwSwitch | _ => s.markDefaults

/-- DAC_CODE by process data or SDO: discarded and counted where the channel is granted (R263). -/
def State.dacCode (s : State) (ch v : Nat) : State :=
  if s.cfg (dacIdx ch) 2 = 0xFF then s.dacWrite ch v else s.bump (dacIdx ch) 0x14

/-- A write of a PDO mapping, assignment or synchronisation object; the mappings and assignments persist. -/
def State.writePdo (s : State) (idx sub v : Nat) : State :=
  let s := { s with ecat := { s.ecat with pdo := Tab.set s.ecat.pdo (odKey idx sub) v } }
  if idx < 0x1C32 then { s with keep := { s.keep with pdo := Tab.set s.keep.pdo (odKey idx sub) v, prevPdo := s.keep.pdo } } else s

/-- A write of POWER_CMD, WATCH_WAKE or RESET_CMD. -/
def State.writePower (s : State) (sub v : Nat) : State :=
  match sub with
  | 4 => s.powerCommand v
  | 6 => { s with pwr := { s.pwr with watchWake := v } }
  | _ => s.resetCommand v

/-- A write of CTX_CMD, ECLOSE_TIME or ECLOSE_MARK. -/
def State.writeCtx (s : State) (sub v : Nat) : State :=
  match sub with
  | 1 => s.ctxCommand v
  | 4 => { s with ecloseTime := v }
  | _ => { s with ecloseMark := v }

/-- A write of RETIRE_ENGINE, RETIRE_COLUMN or SURVEY_NOW. -/
def State.writeStoke (s : State) (sub v : Nat) : State :=
  match sub with
  | 1 => s.retireEngine v
  | 2 => s.retireColumn v
  | _ => s.surveyNow v

/-- A write of DAC_CODE, or of the release and fault command of a channel. -/
def State.writeDac (s : State) (ch sub v : Nat) : State :=
  if sub = 16 then s.dacWrite ch v else if v = 1 then s.dacRelease ch else s.faultDac ch 4

/-- Writes of the selectors a session holds for itself. -/
def State.writeSelector (s : State) (ses : Ses) (idx v : Nat) : State :=
  if idx = 0x2100 then s.modSession ses (fun k => { k with setView := v })
  else if idx = 0x2810 then s.modSession ses (fun k => { k with cursor := v })
  else if idx = 0x2820 then s.modSession ses (fun k => { k with engSel := v % 2 ^ 24 })
  else s.modSession ses (fun k => { k with bucketSel := v })

/-- Writes of the objects that act on the module as a whole. -/
def State.writeModule (s : State) (ses : Ses) (idx sub v : Nat) : State :=
  if idx = 0x2900 then s.calRestore v
  else if idx = 0x2A00 then s.setFreeze (v == 1)
  else if idx = 0x2B00 then s.releaseMaster ses v
  else if idx = 0x2B80 then (if sub = 4 then { s with fw := { s.fw with len := v } } else s.firmwareCommand v)
  else if idx = 0x2C10 then s.hostReplace v
  else if idx = 0x2D00 then s.mirrorCommand v
  else if idx = 0x7000 then s.dacCode (sub - 1) v
  else if idx = 0x7800 then s.rxWord (sub - 1) v
  else s

/-- The effect of an accepted write of an object that is no setting. -/
def State.writeDirect (s : State) (ses : Ses) (idx sub v : Nat) : State :=
  if idx < 0x2000 then s.writePdo idx sub v
  else if idx = 0x2100 ∨ idx = 0x2810 ∨ idx = 0x2820 ∨ idx = 0x2A10 then s.writeSelector ses idx v
  else if idx = 0x2200 then s.writePower sub v
  else if idx = 0x2300 then s.stepGtc (toSigned 64 v)
  else if 0x2490 ≤ idx ∧ idx ≤ 0x249F then s.ringCtrl (idx - 0x2490) v
  else if 0x2500 ≤ idx ∧ idx ≤ 0x250F then s.writeDac (idx - 0x2500) sub v
  else if 0x2520 ≤ idx ∧ idx ≤ 0x253F then s.tripRelease (idx - 0x2520)
  else if idx = 0x2560 then s.clearCauses v
  else if idx = 0x2600 then s.writeCtx sub v
  else if idx = 0x2720 then s.blockReady v
  else if idx = 0x2802 then s.writeStoke sub v
  else s.writeModule ses idx sub v

/-! ## The write (R275) -/

/-- The data length matches the object: its size, or up to 223 characters of FETCH_SUBNQN. -/
def OdRow.lengthOk (r : OdRow) (n : Nat) : Bool := if r.size = 0 then decide (n ≤ 223) else n == r.size

/-- Steps 5 to 7 of R275 and the effect, for an object with a value of its own. -/
def State.writeChecked (s : State) (ses : Ses) (idx sub : Nat) (data : List Byte) (r : OdRow) : Nat × State :=
  let v := fromLE data
  if r.set ∧ s.claimedByOther ses then (0x08000022, s.setResult 6)
  else if r.set ∧ s.sets.state ≠ 0 then (0x08000022, s)
  else if r.size = 0 then (0, { s with sets := { s.sets with nqnShadow := data } })
  else if !s.stateAllows idx sub v then (0x08000022, s)
  else if !s.inRange idx sub v r then (0x06090030, s)
  else if s.mappingAbort idx sub v ≠ 0 then (s.mappingAbort idx sub v, s)
  else if !r.set && s.keepBad idx sub r then (0x06060000, s.metBad idx sub)
  else if r.set then (0, s.writeSetting ses idx sub v r)
  else (0, s.writeDirect ses idx sub (Nat.land v r.mask))

/-- A KEY_WRITE that would be accepted, while the keys' place in the hub keep has an error. -/
def State.keyBad (s : State) (ses : Ses) (data : List Byte) : Bool := s.keep.bad.contains (odKey 0x2B02 1) && (s.writeKey ses data).1 == 0

/-- A write in the order of R275: abort code, 0 when accepted, and state. -/
def State.odWrite (s : State) (ses : Ses) (idx sub : Nat) (data : List Byte) : Nat × State :=
  match s.row idx sub with
  | none => (if odExists s.part idx then 0x06090011 else 0x06020000, s)
  | some r =>
    if r.acc = .ro then (0x06010002, s)
    else if (s.session ses).level < s.needPriv idx sub (fromLE data) r then (0x06010000, s)
    else if !r.lengthOk data.length then (0x06070010, s)
    else if idx = 0x2100 ∧ sub = 1 then s.setCommand ses (fromLE data)
    else if idx = 0x2B00 ∧ sub = 2 then s.beginAuth ses (fromLE data)
    else if idx = 0x2B00 ∧ sub = 4 then s.respond ses data
    else if idx = 0x2B00 ∧ sub = 5 then s.dropLevel ses (fromLE data)
    else if idx = 0x2B02 then (if s.keyBad ses data then (0x06060000, s.metBad idx sub) else s.writeKey ses data)
    else if idx = 0x2A00 ∧ sub = 12 then s.writeClear ses data
    else s.writeChecked ses idx sub data r

/-- A write as any session makes it: nothing is served while the firmware switches. -/
def State.writeObject (s : State) (ses : Ses) (idx sub : Nat) (data : List Byte) : Nat × State :=
  if s.serves then s.odWrite ses idx sub data else (0x08000020, s)

/-! ## Sessions at their interfaces -/

/-- The EtherCAT link: clocked, with the reference there (R297), its lands driven (R343). -/
def State.ecatLink (s : State) : Bool := s.pwr.powerGood && s.clocked 0 && !s.clk.refLost

/-- The session's interface is there, with power: PCIe clocked, the EtherCAT mailbox up, a UDP session open. -/
def State.reachable (s : State) (ses : Ses) : Bool :=
  !s.pwr.watch && s.pwr.powerGood && (if ses = 0 then s.clocked 3 else if ses = 1 then s.ecatLink && decide (2 ≤ s.ecat.al) else (s.session ses).open_)

/-- The answer goes to the session. -/
def State.giveReply (s : State) (ses : Ses) (r : Reply) : State := s.modSession ses (fun k => { k with reply := r })

/-- A refused BAR0 or long-object access: its abort code latched (Table 10.8). -/
def State.latchAbort (s : State) (idx sub abort : Nat) : State :=
  { s with pcie := { s.pcie with odAbort := abort + idx % 65536 * 2 ^ 32 + sub % 256 * 2 ^ 48 } }

/-- A refused BAR0 access: latched, and counted in PCIE_BAD_ACCESS (R265). -/
def State.badAccess (s : State) (idx sub abort : Nat) : State :=
  let n := s.pcie.badAccess + 1
  let s := s.latchAbort idx sub abort
  { s with pcie := { s.pcie with badAccess := if n < 2 ^ 32 then n else Config.counterOverflow (2 ^ 32) n % 2 ^ 32 } }

/-- A write at the closed crossing to the management controller is dropped and counted (R303). -/
def State.crossingDrop (s : State) : State := if s.pwr.mgmtCrossing then s else s.bump 0x2200 13

/-- Objects longer than 8 bytes, and strings, are not in BAR0. -/
def OdRow.isLong (r : OdRow) : Bool := r.size == 0 || decide (8 < r.size)

/-- The object is reached through the long-object window only. -/
def State.longObject (s : State) (idx sub : Nat) : Bool := match s.row idx sub with | some r => r.isLong | none => false

/-- A refused access of the PCIe host, in BAR0 or by the long-object window (Table 10.8). -/
def State.refusedBy (s : State) (bar0 : Bool) (idx sub abort : Nat) : State :=
  if bar0 then s.badAccess idx sub abort else s.latchAbort idx sub abort

/-- A write of a session, for the PCIe host in BAR0 or not: its answer, and for that host what a refusal leaves. -/
def State.writeBy (s : State) (bar0 : Bool) (ses : Ses) (idx sub : Nat) (data : List Byte) : State :=
  if !s.reachable ses then s
  else if ses = 0 ∧ !s.serves then s.crossingDrop
  else
    let (a, s) := s.writeObject ses idx sub data
    let s := s.giveReply ses ⟨a, []⟩
    if ses = 0 ∧ a ≠ 0 then s.refusedBy bar0 idx sub a else s

/-- A write of a session by the path the object has: BAR0 for the PCIe host, or the long-object window. -/
def State.hostWrite (s : State) (ses : Ses) (idx sub : Nat) (data : List Byte) : State := s.writeBy (!s.longObject idx sub) ses idx sub data

/-- A read of a session. -/
def State.hostRead (s : State) (ses : Ses) (idx sub : Nat) : State :=
  if !s.reachable ses then s
  else
    let (r, s) := s.readObject ses idx sub
    let s := s.giveReply ses r
    if ses = 0 ∧ r.abort ≠ 0 ∧ s.serves then s.refusedBy (!s.longObject idx sub) idx sub r.abort else s

/-! ## The commands that are one write -/

def execObjectWrite (ses : Ses) (idx sub : Nat) (data : List Byte) (s : State) : Out := .next (s.hostWrite ses idx sub data)

/-- SET_CMD (R274). -/
def execSetCommit (ses : Ses) (when_ mark ctx : Nat) (s : State) : Out :=
  .next (s.hostWrite ses 0x2100 1 (toLE 4 (1 + when_ * 2 ^ 4 + mark * 2 ^ 6 + ctx * 2 ^ 12)))
def execDiscard (ses : Ses) (s : State) : Out := .next (s.hostWrite ses 0x2100 1 (toLE 4 2))
def execClaim (ses : Ses) (s : State) : Out := .next (s.hostWrite ses 0x2100 1 (toLE 4 3))
def execYieldClaim (ses : Ses) (s : State) : Out := .next (s.hostWrite ses 0x2100 1 (toLE 4 4))

/-- Sessions and keys (R270-R272). -/
def execAuthSlot (ses : Ses) (slot : Nat) (s : State) : Out := .next (s.hostWrite ses 0x2B00 2 (toLE 1 slot))
def execAuthResponse (ses : Ses) (proof : List Byte) (s : State) : Out := .next (s.hostWrite ses 0x2B00 4 proof)
def execAuthDrop (ses : Ses) (level : Nat) (s : State) : Out := .next (s.hostWrite ses 0x2B00 5 (toLE 1 level))
def execKeyWrite (ses : Ses) (data : List Byte) (s : State) : Out := .next (s.hostWrite ses 0x2B02 1 data)

/-- MASTER_RELEASE (R279). -/
def execMasterResume (ses : Ses) (m : Nat) (s : State) : Out := .next (s.hostWrite ses 0x2B00 7 (toLE 4 (m + 2 ^ 16)))
def execMasterDrop (ses : Ses) (m : Nat) (s : State) : Out := .next (s.hostWrite ses 0x2B00 7 (toLE 4 (m + 2 * 2 ^ 16)))

/-- CTX_CMD (R196-R209). -/
def ctxWord (cmd ctx : Nat) : Nat := cmd + ctx * 2 ^ 8
def State.ctxWrite (s : State) (ses : Ses) (v : Nat) : State := s.hostWrite ses 0x2600 1 (toLE 8 v)
def execLoadCmd (ses : Ses) (ctx src : Nat) (s : State) : Out := .next (s.ctxWrite ses (ctxWord 1 ctx + src * 2 ^ 14))
def execInstall (ses : Ses) (ctx src : Nat) (auto : Bool) (s : State) : Out :=
  .next (s.ctxWrite ses (ctxWord 2 ctx + src * 2 ^ 14 + boolNat auto * 2 ^ 17))
def execEclose (ses : Ses) (ctx when_ : Nat) (s : State) : Out := .next (s.ctxWrite ses (ctxWord 3 ctx + when_ * 2 ^ 15))
def execAbort (ses : Ses) (ctx : Nat) (s : State) : Out := .next (s.ctxWrite ses (ctxWord 4 ctx))
def execStart (ses : Ses) (ctx : Nat) (s : State) : Out := .next (s.ctxWrite ses (ctxWord 5 ctx))
def execStop (ses : Ses) (ctx : Nat) (s : State) : Out := .next (s.ctxWrite ses (ctxWord 6 ctx))
def execUnload (ses : Ses) (ctx : Nat) (s : State) : Out := .next (s.ctxWrite ses (ctxWord 7 ctx))
def execForceStart (ses : Ses) (ctx : Nat) (s : State) : Out := .next (s.ctxWrite ses (ctxWord 8 ctx))
def execBlockReady (ses : Ses) (idx : Nat) (s : State) : Out := .next (s.hostWrite ses 0x2720 2 (toLE 4 idx))

/-- Engines, columns, cores (R96, R318). -/
def execRetireEngine (ses : Ses) (c e : Nat) (s : State) : Out := .next (s.hostWrite ses 0x2802 1 (toLE 4 (c + e * 2 ^ 16)))
def execRetireColumn (ses : Ses) (c e col : Nat) (s : State) : Out :=
  .next (s.hostWrite ses 0x2802 2 (toLE 4 (c + e * 2 ^ 16 + col * 2 ^ 24)))
def execSurveyNow (ses : Ses) (c e : Nat) (s : State) : Out := .next (s.hostWrite ses 0x2802 3 (toLE 4 (c + e * 2 ^ 16)))
def execDefEntry (ses : Ses) (s : State) : Out := .next (s.hostRead ses 0x2810 4)
def execCoreReplace (ses : Ses) (c : Nat) (s : State) : Out := .next (s.hostWrite ses 0x2C10 1 (toLE 2 c))

/-- Mirroring, time, rings, outputs (R183, R214, R242-R252). -/
def execMirrorCmdHandover (ses : Ses) (s : State) : Out := .next (s.hostWrite ses 0x2D00 11 (toLE 1 1))
def execMirrorCmdTakeover (ses : Ses) (s : State) : Out := .next (s.hostWrite ses 0x2D00 11 (toLE 1 2))
def execStepReq (ses : Ses) (v : Int) (s : State) : Out := .next (s.hostWrite ses 0x2300 9 (toLE 8 (ofSigned 64 v)))
def execRingCtrl (ses : Ses) (r v : Nat) (s : State) : Out := .next (s.hostWrite ses (ringIdx r) 2 (toLE 1 v))
def execDacWrite (ses : Ses) (ch code : Nat) (s : State) : Out := .next (s.hostWrite ses (dacIdx ch) 16 (toLE 2 code))
def execDacRelease (ses : Ses) (ch : Nat) (s : State) : Out := .next (s.hostWrite ses (dacIdx ch) 18 (toLE 1 1))
def execDacEnterFault (ses : Ses) (ch : Nat) (s : State) : Out := .next (s.hostWrite ses (dacIdx ch) 18 (toLE 1 2))
def execTripCmd (ses : Ses) (n : Nat) (s : State) : Out := .next (s.hostWrite ses (tripIdx n) 7 (toLE 1 1))
def execFaultCauseWrite (ses : Ses) (v : Nat) (s : State) : Out := .next (s.hostWrite ses 0x2560 1 (toLE 2 v))

/-- Calibration, firmware, power, reset (R280-R282, R300-R302). -/
def execCalRestore (ses : Ses) (v : Nat) (s : State) : Out := .next (s.hostWrite ses 0x2900 2 (toLE 4 v))
def execFwLoad (ses : Ses) (s : State) : Out := .next (s.hostWrite ses 0x2B80 5 (toLE 1 1))
def execFwSwitch (ses : Ses) (s : State) : Out := .next (s.hostWrite ses 0x2B80 5 (toLE 1 2))
def execRestoreDefaults (ses : Ses) (s : State) : Out := .next (s.hostWrite ses 0x2B80 5 (toLE 1 3))
def execWatch (ses : Ses) (s : State) : Out := .next (s.hostWrite ses 0x2200 4 (toLE 1 1))
def execDiesDown (ses : Ses) (s : State) : Out := .next (s.hostWrite ses 0x2200 4 (toLE 1 2))
def execDiesUp (ses : Ses) (s : State) : Out := .next (s.hostWrite ses 0x2200 4 (toLE 1 3))
def execResetCmdModule (ses : Ses) (s : State) : Out := .next (s.hostWrite ses 0x2200 11 (toLE 4 1))
def execResetCmdDie (ses : Ses) (d : Nat) (s : State) : Out := .next (s.hostWrite ses 0x2200 11 (toLE 4 (2 + d * 2 ^ 4)))
def execResetCmdCore (ses : Ses) (c : Nat) (s : State) : Out := .next (s.hostWrite ses 0x2200 11 (toLE 4 (3 + c * 2 ^ 4)))

/-- The recorder (R326, R329). -/
def execAshFreeze (ses : Ses) (s : State) : Out := .next (s.hostWrite ses 0x2A00 1 (toLE 1 1))
def execAshUnfreeze (ses : Ses) (s : State) : Out := .next (s.hostWrite ses 0x2A00 1 (toLE 1 0))
def execClearChal (ses : Ses) (s : State) : Out := .next (s.hostRead ses 0x2A00 11)
def execAshClear (ses : Ses) (slot : Nat) (proof : List Byte) (s : State) : Out :=
  .next (s.hostWrite ses 0x2A00 12 (BitVec.ofNat 8 slot :: proof))

end Sys2Proof.Machine
end

