-- ==== Sys2Proof/Machine/Host.lean ====
section
/-! DEFINITION. The host interfaces: PCIe BARs and DMA (R264-R267), the EtherCAT slave and process data (R258-R263), the UDP
protocol and telemetry (R268, R269, R283). -/

namespace Sys2Proof.Machine

/-! ## PCIe (R264-R267) -/

/-- What configuration space says of the endpoint (R264): vendor, device and class, largest payload and read request, MSI-X vectors. -/
structure PcieFunction where
  vendor : Nat
  device : Nat
  class_ : Nat
  maxPayload : Nat
  maxRead : Nat
  vectors : Nat
  deriving DecidableEq, Repr

def Part.pcieFunction (p : Part) : PcieFunction := ⟨0x1F6C, 0xA000 + p.dies, 0x120000, 512, 4096, 8⟩

/-- What a PCIe read returned; none for a Completer Abort. -/
def State.pcieData (s : State) (d : Option (List Byte)) : State := { s with pcie := { s.pcie with readData := d } }

/-- A BAR0 write: exactly the object's size from byte 0 of the slot. -/
def State.bar0Write (s : State) (idx sub byte width value : Nat) : State :=
  let long := s.longObject idx sub
  s.writeBy true 0 idx sub (if byte = 0 ∧ !long then toLE width value else List.replicate 256 0)

/-- What BAR0 reads while nothing answers: zero during a firmware switch (R282), poison at a closed crossing (R303). -/
def State.deadRead (s : State) (byte width : Nat) : List Byte :=
  if s.fw.switching.isSome || s.pwr.mgmtCrossing then List.replicate width 0 else (List.range width).map (fun i => poisonByte (byte + i))

/-- A BAR0 read of `width` bytes from a byte of a slot: value, then reserved bytes. A refused one returns zero; the length is checked
after existence, a WO object and privilege (R275). -/
def State.bar0Read (s : State) (idx sub byte width : Nat) : State :=
  if !s.serves then s.pcieData (some (s.deadRead byte width))
  else
    let bad := match s.row idx sub with | some r => r.acc != Access.wo && (r.isLong || byte % width != 0) | none => false
    let (r, s) : Reply × State := if bad then (⟨0x06070010, []⟩, s) else s.readObject 0 idx sub
    let s := s.giveReply 0 r
    if r.abort ≠ 0 then (s.badAccess idx sub r.abort).pcieData (some (List.replicate width 0))
    else s.pcieData (some (fit width 0 (r.value.drop byte)))

def State.bar0 (s : State) (write : Bool) (off width value : Nat) : State :=
  if !s.reachable 0 then s
  else
    let idx := off / 0x1000
    let sub := off % 0x1000 / 16
    if write then s.bar0Write idx sub (off % 16) width value else s.bar0Read idx sub (off % 16) width

def execBar0Access (write : Bool) (off width value : Nat) (s : State) : Out := .next (s.bar0 write off width value)

/-- BAR2: an access of the PCIe master. A read that may not be made freezes the master and, as every read while it is frozen,
completes with Completer Abort. -/
def State.bar2 (s : State) (write : Bool) (a len : Nat) (data : List Byte) : State :=
  if !s.reachable 0 then s
  else if write then s.masterWrite 0 0 a data
  else if (s.master 0).frozen then s.pcieData none
  else if s.masterMay 0 a len false then s.pcieData (some (s.sysBytes a len))
  else (s.freezeMaster 0 a false).pcieData none

def execBar2Access (write : Bool) (addr len : Nat) (data : List Byte) (s : State) : Out := .next (s.bar2 write addr len data)

/-- OD_ABORT is cleared by its read. -/
def State.readAbort (s : State) : State :=
  let v := s.pcie.odAbort
  if s.reachable 0 then ({ s with pcie := { s.pcie with odAbort := 0 } }).pcieData (some (toLE 8 v)) else s

def execOdAbort (s : State) : Out := .next s.readAbort

/-- LONG_SEL. -/
def State.longSelect (s : State) (idx sub : Nat) : State := { s with pcie := { s.pcie with longSel := idx % 65536 + sub % 256 * 65536 } }

/-- What LONG_DATA reads after a read that nothing has answered: poison at a closed crossing (R303; its length is left: DESIGN CHOICE:
log 168), what it held otherwise. -/
def State.longDead (s : State) : State :=
  if s.fw.switching.isSome || s.pwr.mgmtCrossing then s
  else { s with pcie := { s.pcie with longData := (List.range 256).map poisonByte } }

/-- LONG_CTRL [0]: the object into LONG_DATA. -/
def State.longReadNow (s : State) (idx sub : Nat) : State :=
  if !s.reachable 0 then s
  else
    let s := s.longSelect idx sub
    if !s.serves then s.longDead
    else
      let (r, s) := s.readObject 0 idx sub
      let s := s.giveReply 0 r
      if r.abort ≠ 0 then s.latchAbort idx sub r.abort
      else { s with pcie := { s.pcie with longData := r.value, longLen := r.value.length } }

def execLongRead (idx sub : Nat) (s : State) : Out := .next (s.longReadNow idx sub)

/-- LONG_CTRL [1]: LONG_DATA to the object. -/
def State.longWriteNow (s : State) (idx sub : Nat) (data : List Byte) : State :=
  if !s.reachable 0 then s
  else
    let s := s.longSelect idx sub
    let s := { s with pcie := { s.pcie with longData := data, longLen := data.length } }
    if !s.serves then s.crossingDrop
    else
      let (a, s) := s.writeObject 0 idx sub data
      let s := s.giveReply 0 ⟨a, []⟩
      if a ≠ 0 then s.latchAbort idx sub a else s

def execLongWrite (idx sub : Nat) (data : List Byte) (s : State) : Out := .next (s.longWriteNow idx sub data)

/-! ### DMA -/

/-- Entries of a ring: a power of two, 16 to 4,096. -/
def ringSizes : List Nat := [16, 32, 64, 128, 256, 512, 1024, 2048, 4096]

/-- DMA_BASE, DMA_SIZE and DMA_TAIL as written; a size or a tail of no such ring is discarded. -/
def State.dmaStart (s : State) (k base size v : Nat) : State :=
  if !s.reachable 0 then s
  else
    let d := s.dma k
    let n := if ringSizes.contains size then size else d.size
    s.setDma k { d with base := base / 32 * 32, size := n, tail := if v < n then v else d.tail }

def execDmaTail (k base size v : Nat) (s : State) : Out := .next (s.dmaStart k base size v)

/-- The fields of Table 10.9: system address, length, direction, interrupt. -/
def descAddr (d : List Byte) : Nat := fromLE (chunk (d.drop 8) 0 4) / 64 * 64
def descLen (d : List Byte) : Nat := fromLE (chunk (d.drop 12) 0 4) / 64 * 64
def descToHost (d : List Byte) : Bool := bit (d.getD 16 0).toNat 0
def descIrq (d : List Byte) : Bool := bit (d.getD 16 0).toNat 1

/-- A channel has a descriptor to execute. -/
def State.dmaWaits (s : State) (k : Nat) : Bool := (s.dma k).head != (s.dma k).tail

/-- The channel whose turn it is: the lowest that has lost 16 arbitrations in a row, or the lowest (R128, R267). -/
def State.dmaTurn (s : State) : Option Nat :=
  let waiting := (List.range 4).filter s.dmaWaits
  match waiting.find? (fun k => decide (16 ≤ (s.dma k).losses)) with
  | some k => some k
  | none => waiting.head?

/-- Channel k has won an arbitration: the others that wait have lost one. -/
def State.dmaWon (s : State) (k : Nat) : State :=
  (List.range 4).foldl (fun s j =>
    if j = k then s.setDma j { s.dma j with losses := 0 }
    else if s.dmaWaits j then s.setDma j { s.dma j with losses := (s.dma j).losses + 1 }
    else s) s

/-- A descriptor of channel k is held. -/
def State.dmaHeld (s : State) (k : Nat) : Bool := (s.master 0).held.any (fun h => match h.dma with | some (j, _, _) => j == k | none => false)

/-- A write to the host's order waits in the PCIe master's hold queue, and is written back when it has been made; in a full queue it
is dropped and counted (R278). -/
def State.dmaHold (s : State) (k : Nat) (h : HeldReq) : State :=
  if (s.master 0).held.length < 64 then s.hold 0 h else (s.hold 0 h).dmaSkip k

/-- A location behind a closed crossing (R303). -/
def State.closedAt (s : State) (a : Nat) : Bool :=
  !s.absentAddr a && ((s.shutDie a).isSome || (decide (0x40000000 ≤ a) && !(s.core ((a - 0x40000000) / 0x200000)).comm.crossing))

/-- Some of n bytes from a lies behind a closed crossing: no space on the map is smaller than 0x40000. -/
def State.closedPart (s : State) (a n : Nat) : Bool :=
  (List.range (n / 0x40000 + 2)).any (fun i => s.closedAt (min (a + i * 0x40000) (a + n - 1)))

/-- The next descriptor of channel k, when it is its turn. While the PCIe master is frozen a write is held and a read waits, whosever turn it
is. A read that meets poison, or the error flag of a closed crossing, ends with status 3 (DEDUCED: log 161). -/
def State.dmaRun (s : State) (k : Nat) (desc host : List Byte) (busError : Bool) : State :=
  let a := descAddr desc
  let n := descLen desc
  let irq := descIrq desc
  let out := descToHost desc
  if !s.reachable 0 || !s.dmaWaits k || s.dmaHeld k then s
  else if (s.master 0).frozen && out then s
  else if (s.master 0).frozen then s.dmaHold k ⟨a, true, n, fit n 0 host, 0, none, none, some (k, irq, busError)⟩
  else if s.dmaTurn ≠ some k then s
  else
  let s := s.dmaWon k
  if !s.masterMay 0 a n (!out) then (s.freezeMaster 0 a (!out)).dmaDone k 2 irq
  else if !out then s.dmaIn k a (fit n 0 host) busError irq
  else if busError then s.dmaDone k 4 irq
  else if s.poisoned a n || s.closedPart a n then (s.hubPoison a n).dmaDone k 3 irq
  else (s.pcieData (some (s.sysBytes a n))).dmaDone k 1 irq

def execDmaDescriptor (k : Nat) (desc host : List Byte) (busError : Bool) (s : State) : Out := .next (s.dmaRun k desc host busError)

/-! ## Memory writes of the calibration tables (R280) -/

/-- A write of a session's master into the calibration tables. -/
def State.calWrite (s : State) (ses : Ses) (a : Nat) (data : List Byte) : State :=
  if s.reachable ses && calRange a then s.masterWrite (sesMaster ses) ses a data else s

def execCalWrite (ses : Ses) (addr : Nat) (data : List Byte) (s : State) : Out := .next (s.calWrite ses addr data)

/-! ## EtherCAT (R258-R263) -/

def State.ecatAnswer (s : State) (r : Reply) : State := s.giveReply 1 r

/-- Subindices of an object from `sub` on. -/
def State.subsFrom (s : State) (idx sub : Nat) : List Nat := (List.range ((s.dflt idx 0 + 1) - sub)).map (· + sub)

/-- Several subindices read in order; the first failing one ends it with its code. -/
def State.readMany (s : State) (ses : Ses) (idx : Nat) : List Nat → Reply × State
  | [] => (⟨0, []⟩, s)
  | k :: t =>
    let (r, s) := s.readObject ses idx k
    if r.abort ≠ 0 then (⟨r.abort, []⟩, s)
    else
      let (q, s) := s.readMany ses idx t
      (⟨q.abort, r.value ++ q.value⟩, s)

/-- Several subindices written in order; the first failing one ends it with its code. -/
def State.writeMany (s : State) (ses : Ses) (idx sub : Nat) : List (List Byte) → Nat × State
  | [] => (0, s)
  | d :: t =>
    let (a, s) := s.writeObject ses idx sub d
    if a ≠ 0 then (a, s) else s.writeMany ses idx (sub + 1) t

/-- The indices of the dictionary. -/
def State.odIndices (s : State) : List Nat := (List.range 0x8000).filter (fun i => odExists s.part i)

/-- The abort of an access to an object or subindex that is not there (R5, Table 10.4). -/
def State.absentAbort (s : State) (idx : Nat) : Nat := if odExists s.part idx then 0x06090011 else 0x06020000

/-- SDO information on an object. -/
def State.objectInfo (s : State) (idx : Nat) : Reply :=
  if odExists s.part idx then ⟨0, describeObject idx (if (odZero idx).isSome then 0 else s.dflt idx 0)⟩ else ⟨0x06020000, []⟩

/-- SDO information on an entry. -/
def State.entryInfo (s : State) (idx sub : Nat) : Reply :=
  match s.row idx sub with
  | some r => ⟨0, describeEntry idx sub r.size r.acc⟩
  | none => ⟨s.absentAbort idx, []⟩

/-- Complete access is for records and arrays, from subindex 0 or 1 (Table 10.2); any other is answered as a subindex that does not
exist (DESIGN CHOICE: log 166). -/
def completeOk (idx sub : Nat) : Bool := (odZero idx).isNone && decide (sub < 2)

/-- Complete upload: the subindices from 0 or 1 on. -/
def State.readComplete (s : State) (idx sub : Nat) : Reply × State :=
  if !completeOk idx sub ∨ s.subsFrom idx sub = [] ∨ !odExists s.part idx then (⟨s.absentAbort idx, []⟩, s) else s.readMany 1 idx (s.subsFrom idx sub)

/-- Complete download. From subindex 0 the first value is the number of entries, which is read-only: it must be the one that stands
there (DESIGN CHOICE: log 121). -/
def State.writeComplete (s : State) (idx sub : Nat) (vs : List (List Byte)) : Nat × State :=
  if !odExists s.part idx ∨ !completeOk idx sub then (s.absentAbort idx, s)
  else if sub = 0 then
    match vs with
    | [] => (0x06070010, s)
    | v :: t => if v = toLE 1 (s.dflt idx 0) then s.writeMany 1 idx 1 t else (0x06010002, s)
  else s.writeMany 1 idx sub vs

/-- No mailbox request is served now. -/
def busyReply : Reply := ⟨0x08000020, []⟩

/-- A CoE request: served, or a mailbox error reply for an unsupported protocol. -/
def State.mailbox (s : State) (r : MailReq) : State :=
  if !s.reachable 1 then s
  else
    let s := { s with ecat := { s.ecat with mailError := 0 } }
    match r with
    | .unsupported => { s with ecat := { s.ecat with mailError := 2 } }
    | .upload idx sub => s.hostRead 1 idx sub
    | .download idx sub data => s.hostWrite 1 idx sub data
    | .completeUpload idx sub => if s.serves then (match s.readComplete idx sub with | (a, s) => s.ecatAnswer a) else s.ecatAnswer busyReply
    | .completeDownload idx sub vs =>
      if s.serves then (match s.writeComplete idx sub vs with | (a, s) => s.ecatAnswer ⟨a, []⟩) else s.ecatAnswer busyReply
    | .odList => s.ecatAnswer (if s.serves then ⟨0, s.odIndices.flatMap (toLE 2)⟩ else busyReply)
    | .objectDescription idx => s.ecatAnswer (if s.serves then s.objectInfo idx else busyReply)
    | .entryDescription idx sub => s.ecatAnswer (if s.serves then s.entryInfo idx sub else busyReply)

def execMailboxRequest (r : MailReq) (s : State) : Out := .next (s.mailbox r)

/-- States of the state machine in rising order. -/
def alOrder : Nat → Nat
  | 1 => 0
  | 2 => 1
  | 4 => 2
  | 8 => 3
  | _ => 9

/-- A requested state: one step up or any way down; BOOT and other steps are refused with AL status 0x0011. INIT drops the
session to Observer. -/
def State.alRequest (s : State) (target : Nat) : State :=
  if !s.ecatLink then s
  else if alOrder s.ecat.al + 1 < alOrder target then { s with ecat := { s.ecat with alStatus := 0x11 } }
  else
    let s := { s with ecat := { s.ecat with al := target, alStatus := 0 } }
    if target = 1 then s.modSession 1 (fun k => { k with level := 0 }) else s

def execAlStateRequest (target : Nat) (s : State) : Out := .next (s.alRequest target)

/-- The mapped entries of one direction, as assigned through 0x1C12 or 0x1C13: index and subindex. -/
def State.assigned (s : State) (rx : Bool) : List (Nat × Nat) :=
  (List.range 4).flatMap (fun i =>
    let map := Tab.get 0 s.ecat.pdo (odKey (if rx then 0x1C12 else 0x1C13) (i + 1))
    if map = 0 then []
    else ((List.range 0x40).map (fun j => Tab.get 0 s.ecat.pdo (odKey map (j + 1)))).filterMap (fun v =>
      if v = 0 then none else some (field v 16 16, field v 8 8)))

/-- TxPDO values captured in one snapshot. -/
def State.pdoSnapshot (s : State) : State :=
  if !s.ecatLink || s.ecat.al < 4 then s
  else
    let s := { s with ecat := { s.ecat with gtcSnap := s.time.gtc, snapshot := [] } }
    (s.assigned false).foldl (fun s e =>
      let (r, s) := s.odRead 1 e.1 e.2
      { s with ecat := { s.ecat with snapshot := s.ecat.snapshot ++ [fromLE r.value] } }) s

def execPdoSnapshot (s : State) : Out := .next s.pdoSnapshot

/-- A received value applied: a DAC code or a word. -/
def State.rxApply (s : State) (idx sub v : Nat) : State :=
  if idx = 0x7000 then s.dacCode (sub - 1) v else if idx = 0x7800 then s.rxWord (sub - 1) v else s

/-- An entry put before those of higher index or subindex. -/
def insertEntry (e : (Nat × Nat) × Nat) : List ((Nat × Nat) × Nat) → List ((Nat × Nat) × Nat)
  | [] => [e]
  | x :: t => if e.1.1 < x.1.1 ∨ (e.1.1 = x.1.1 ∧ e.1.2 < x.1.2) then e :: x :: t else x :: insertEntry e t

/-- Received RxPDO values, one for each mapped entry, applied in index order while in OP. -/
def State.rxpdoApply (s : State) (values : List Nat) : State :=
  if !s.ecatLink || s.ecat.al != 8 then s
  else (((s.assigned true).zip values).foldl (fun l e => insertEntry e l) []).foldl (fun s e => s.rxApply e.1.1 e.1.2 e.2) s

def execRxpdoApply (values : List Nat) (s : State) : Out := .next (s.rxpdoApply values)

/-! ## UDP (R268, R269) -/

/-- The Ethernet port serves the protocol: clocked, with the reference there, its lands driven (R343) and an address. -/
def State.portServes (s : State) (p : Nat) : Bool := s.pwr.powerGood && decide (p < 2) && s.clocked (1 + p) && !s.clk.refLost && s.cfg (0x2B20 + p) 1 != 0

/-- A message dropped without reply and counted. -/
def State.udpDrop (s : State) (p : Nat) : State := s.bump (0x2B20 + p % 2) 7

def execMalformedMessage (p : Nat) (s : State) : Out := .next (if s.portServes p then s.udpDrop p else s)

/-- The first session number not in use. -/
def State.freeSession (s : State) : Option Nat := (List.range 8).find? (fun n => !(s.session (2 + n)).open_)

/-- OPEN: a new session at Observer, whose number the response carries as SESSION; with 8 open there is none to give. During a firmware
switch the request is aborted (R282). -/
def State.udpOpen (s : State) (p seq : Nat) : State :=
  let q : UdpReq := ⟨1, 0, 0, 0, []⟩
  if !s.portServes p then s
  else if !s.serves then s.sendUdp p (q.response 0 seq ⟨0x08000020, []⟩)
  else
    match s.freeSession with
    | none => s
    | some n =>
      let now := s.time.up
      (s.modSession (2 + n) (fun _ => { Session.reset with open_ := true, lastRequest := now })).sendUdp p (q.response n seq ⟨0, []⟩)

def execUdpOpen (o : UdpOpening) (s : State) : Out := .next (s.udpOpen o.port o.seq)

/-- A request of session n: its size, its tag, its place in the sequence, its answer from the store or from `act`, which answers none where
the request is held. -/
def State.udpRequest (s : State) (n : Nat) (h : UdpHdr) (q : UdpReq) (act : State → Option Reply × State) : State :=
  let ses := 2 + n
  let k := s.session ses
  let now := s.time.up
  if !s.portServes h.port then s
  else if !k.open_ || decide (1024 < q.payload.length) then s.udpDrop h.port
  else if 0 < k.level ∧ h.tag ≠ tagOf k.key (q.bytes n h.seq) then s.udpDrop h.port
  else
    match k.kept.find? (fun e => e.1 == h.seq) with
    | some e => (s.modSession ses (fun k => { k with lastRequest := now })).sendUdp h.port e.2
    | none =>
      if (match k.maxSeq with | some m => decide (h.seq ≤ m) | none => false) then s
      else
        let s := s.modSession ses (fun k => { k with maxSeq := some h.seq, lastRequest := now })
        let (r, s) := if s.serves then act s else (some ⟨0x08000020, []⟩, s)
        match r with
        | some r => s.udpAnswer h.port n h.seq q r
        | none => s

/-- A request whose answer is there at once. -/
def answered (r : Reply × State) : Option Reply × State := (some r.1, r.2)

/-- CLOSE: the session ends, once it has been answered. -/
def State.udpClose (s : State) (n : Nat) (h : UdpHdr) : State :=
  let t := s.udpRequest n h ⟨2, 0, 0, 0, []⟩ (fun s => (some ⟨0, []⟩, s))
  if s.serves ∧ (t.session (2 + n)).maxSeq = some h.seq ∧ (s.session (2 + n)).maxSeq ≠ some h.seq then t.closeSession (2 + n) else t

def execUdpClose (n : Nat) (h : UdpHdr) (s : State) : Out := .next (s.udpClose n h)

/-- READ and WRITE name 1 to 64 subindices; other messages are malformed. -/
def State.udpRead (s : State) (n : Nat) (h : UdpHdr) (idx sub count : Nat) : State :=
  if count = 0 ∨ 64 < count then (if s.portServes h.port then s.udpDrop h.port else s)
  else s.udpRequest n h ⟨3, idx, sub, count, []⟩ (fun s => answered (s.readMany (2 + n) idx ((List.range count).map (· + sub))))

def execUdpRead (n : Nat) (h : UdpHdr) (idx sub count : Nat) (s : State) : Out := .next (s.udpRead n h idx sub count)

def State.udpWrite (s : State) (n : Nat) (h : UdpHdr) (idx sub : Nat) (values : List (List Byte)) : State :=
  if values.isEmpty || decide (64 < values.length) then (if s.portServes h.port then s.udpDrop h.port else s)
  else
    s.udpRequest n h ⟨4, idx, sub, values.length, values.flatten⟩ (fun s =>
      match s.writeMany (2 + n) idx sub values with | (a, s) => (some ⟨a, []⟩, s))

def execUdpWrite (n : Nat) (h : UdpHdr) (idx sub : Nat) (values : List (List Byte)) (s : State) : Out := .next (s.udpWrite n h idx sub values)

/-- AUTH_BEGIN returns the nonce. -/
def State.udpBegin (s : State) (n slot : Nat) : Reply × State :=
  let (a, s) := s.beginAuth (2 + n) slot
  (⟨a, if a = 0 then (s.session (2 + n)).challenge else []⟩, s)

def execAuthBegin (n : Nat) (h : UdpHdr) (slot : Nat) (s : State) : Out :=
  .next (s.udpRequest n h ⟨5, 0, 0, 0, toLE 1 slot⟩ (fun s => answered (s.udpBegin n slot)))

def execAuthProve (n : Nat) (h : UdpHdr) (proof : List Byte) (s : State) : Out :=
  .next (s.udpRequest n h ⟨6, 0, 0, 0, proof⟩ (fun s => match s.respond (2 + n) proof with | (a, s) => (some ⟨a, []⟩, s)))

/-- MEM_READ and MEM_WRITE: made and answered, or held, and answered when they have been made, while the UDP master is frozen (R278). -/
def State.udpMem (s : State) (n : Nat) (h : UdpHdr) (q : UdpReq) (write : Bool) (a len : Nat) (data : List Byte) : Option Reply × State :=
  let held : HeldReq := ⟨a, write, len, data, 2 + n, none, some (h.port, h.seq, q), none⟩
  if (s.master 2).frozen then (none, s.hold 2 held)
  else if !s.masterMay 2 a len write then (none, (s.freezeMaster 2 a write).hold 2 held)
  else if write then (some ⟨0, []⟩, s.sysWriteAll (s.isEngineer (2 + n)) a data)
  else (some ⟨0, s.sysBytes a len⟩, s)

/-- A memory request of up to 1,008 bytes: its payload begins with address and byte count. -/
def State.udpMemory (s : State) (n : Nat) (h : UdpHdr) (write : Bool) (a len : Nat) (data : List Byte) : State :=
  if 1008 < len then (if s.portServes h.port then s.udpDrop h.port else s)
  else
    let q : UdpReq := ⟨if write then 8 else 7, 0, 0, 0, toLE 4 a ++ toLE 4 len ++ data⟩
    s.udpRequest n h q (fun s => s.udpMem n h q write a len data)

def execMemRead (n : Nat) (h : UdpHdr) (addr len : Nat) (s : State) : Out := .next (s.udpMemory n h false addr len [])

def execMemWrite (n : Nat) (h : UdpHdr) (addr : Nat) (data : List Byte) (s : State) : Out :=
  .next (s.udpMemory n h true addr data.length data)

def execUdpKeepalive (n : Nat) (h : UdpHdr) (s : State) : Out := .next (s.udpRequest n h ⟨9, 0, 0, 0, []⟩ (fun s => (some ⟨0, []⟩, s)))

/-! ## Ethernet links and telemetry (R283, R297) -/

/-- A link goes down, or comes up on a port that is clocked, with the reference there. -/
def State.ethLink (s : State) (p : Nat) (up : Bool) : State :=
  { s with links := Tab.set s.links p (up && s.clocked (1 + p) && !s.clk.refLost) }

def execEthLinkState (p : Nat) (up : Bool) (s : State) : Out := .next (s.ethLink p up)

/-- The values of TELEM_LIST at one instant; TX_WORD is an access of the EtherCAT master (R262). -/
def State.telemValues (s : State) : List (List Byte) × State :=
  (List.range 32).foldl (fun a i =>
    let v := s.cfg 0x2B31 (i + 1)
    let idx := field v 0 16
    let sub := field v 16 8
    match (if v = 0 then none else s.row idx sub) with
    | some r =>
      if r.acc = .wo then a
      else if idx = 0x6800 ∧ sub ≠ 0 then (match a.2.txWord (sub - 1) with | (w, s) => (a.1 ++ [toLE 4 w], s))
      else (a.1 ++ [a.2.odValue 10 idx sub r], a.2)
    | none => a) ([], s)

/-- A datagram every TELEM_PERIOD: the values, and the records written since the last one in the order of R218. -/
def State.telemetry (s : State) : State :=
  if !s.telemOn || s.pwr.watch || !s.portServes (s.cfg 0x2B30 1) || decide (s.time.up < s.telem.lastAt + 1000000000 * s.cfg 0x2B30 4) then s
  else
    let (vs, s) := s.telemValues
    { s with telem := { s.telem with lastAt := s.time.up, values := vs, records := sortRecs s.telem.unsent, unsent := [] } }

def execTelemetryDatagram (s : State) : Out := .next s.telemetry

end Sys2Proof.Machine
end

