-- ==== Sys2Proof/Machine/Dispatch.lean ====
section
/-! DEFINITION. What each command does: one arm per row of the opcode table. -/

namespace Sys2Proof.Machine

def exec (i : Instr) (s : State) : Host.Outcome State Fault Refusal :=
  match i with
  | .nop c => Sys2Proof.Machine.execNop c s
  | .halt c => Sys2Proof.Machine.execHalt c s
  | .jmp c => Sys2Proof.Machine.execJmp c s
  | .br c => Sys2Proof.Machine.execBr c s
  | .loop c => Sys2Proof.Machine.execLoop c s
  | .setk c => Sys2Proof.Machine.execSetk c s
  | .ldk c => Sys2Proof.Machine.execLdk c s
  | .batch c => Sys2Proof.Machine.execBatch c s
  | .endb c => Sys2Proof.Machine.execEndb c s
  | .fence c => Sys2Proof.Machine.execFence c s
  | .mvm c => Sys2Proof.Machine.execMvm c s
  | .drain c => Sys2Proof.Machine.execDrain c s
  | .dmm c => Sys2Proof.Machine.execDmm c s
  | .vop c => Sys2Proof.Machine.execVop c s
  | .load c => Sys2Proof.Machine.execLoad c s
  | .store c => Sys2Proof.Machine.execStore c s
  | .send c => Sys2Proof.Machine.execSend c s
  | .recv c => Sys2Proof.Machine.execRecv c s
  | .sig c => Sys2Proof.Machine.execSig c s
  | .wait c => Sys2Proof.Machine.execWait c s
  | .waitt c => Sys2Proof.Machine.execWaitt c s
  | .waitph c => Sys2Proof.Machine.execWaitph c s
  | .emit c => Sys2Proof.Machine.execEmit c s
  | .log c => Sys2Proof.Machine.execLog c s
  | .faultPath c => Sys2Proof.Machine.execFaultPath c s
  | .readSlot c e => Sys2Proof.Machine.execReadSlot c e s
  | .tileWriteCommit c op => Sys2Proof.Machine.execTileWriteCommit c op s
  | .drainStart c op => Sys2Proof.Machine.execDrainStart c op s
  | .drainComplete c op => Sys2Proof.Machine.execDrainComplete c op s
  | .douOpStart c => Sys2Proof.Machine.execDouOpStart c s
  | .douOpComplete c => Sys2Proof.Machine.execDouOpComplete c s
  | .moveComplete c op => Sys2Proof.Machine.execMoveComplete c op s
  | .frameWindowWrite c w => Sys2Proof.Machine.execFrameWindowWrite c w s
  | .dataMessage src dst => Sys2Proof.Machine.execDataMessage src dst s
  | .credit src dst => Sys2Proof.Machine.execCredit src dst s
  | .deliveryResult c op => Sys2Proof.Machine.execDeliveryResult c op s
  | .syncUpdate obj => Sys2Proof.Machine.execSyncUpdate obj s
  | .syncResponse c => Sys2Proof.Machine.execSyncResponse c s
  | .crossingReopen x => Sys2Proof.Machine.execCrossingReopen x s
  | .hostLocalWrite c off data => Sys2Proof.Machine.execHostLocalWrite c off data s
  | .corrCommit c e => Sys2Proof.Machine.execCorrCommit c e s
  | .corrCommitEffect c e => Sys2Proof.Machine.execCorrCommitEffect c e s
  | .anaCommit c => Sys2Proof.Machine.execAnaCommit c s
  | .anaCommitEffect c => Sys2Proof.Machine.execAnaCommitEffect c s
  | .repairMapWrite c e v => Sys2Proof.Machine.execRepairMapWrite c e v s
  | .trackUpdate c e => Sys2Proof.Machine.execTrackUpdate c e s
  | .tePersist => Sys2Proof.Machine.execTePersist s
  | .testRead c e => Sys2Proof.Machine.execTestRead c e s
  | .testRoundComplete c e => Sys2Proof.Machine.execTestRoundComplete c e s
  | .healthScore c e => Sys2Proof.Machine.execHealthScore c e s
  | .surveySlice c e b => Sys2Proof.Machine.execSurveySlice c e b s
  | .repairSlice c e b => Sys2Proof.Machine.execRepairSlice c e b s
  | .columnRepair c e col => Sys2Proof.Machine.execColumnRepair c e col s
  | .engineExchange c e => Sys2Proof.Machine.execEngineExchange c e s
  | .retireEngine ses c e => Sys2Proof.Machine.execRetireEngine ses c e s
  | .retireColumn ses c e col => Sys2Proof.Machine.execRetireColumn ses c e col s
  | .surveyNow ses c e => Sys2Proof.Machine.execSurveyNow ses c e s
  | .defEntry ses => Sys2Proof.Machine.execDefEntry ses s
  | .ctxLoadEvaluation => Sys2Proof.Machine.execCtxLoadEvaluation s
  | .loadCmd ses ctx src => Sys2Proof.Machine.execLoadCmd ses ctx src s
  | .install ses ctx src auto => Sys2Proof.Machine.execInstall ses ctx src auto s
  | .eclose ses ctx when_ => Sys2Proof.Machine.execEclose ses ctx when_ s
  | .abort ses ctx => Sys2Proof.Machine.execAbort ses ctx s
  | .start ses ctx => Sys2Proof.Machine.execStart ses ctx s
  | .stop ses ctx => Sys2Proof.Machine.execStop ses ctx s
  | .unload ses ctx => Sys2Proof.Machine.execUnload ses ctx s
  | .forceStart ses ctx => Sys2Proof.Machine.execForceStart ses ctx s
  | .staged => Sys2Proof.Machine.execStaged s
  | .planSectionEnd => Sys2Proof.Machine.execPlanSectionEnd s
  | .pushTail v => Sys2Proof.Machine.execPushTail v s
  | .capsuleResp status => Sys2Proof.Machine.execCapsuleResp status s
  | .c2hData data digestOk => Sys2Proof.Machine.execC2hData data digestOk s
  | .icResp => Sys2Proof.Machine.execIcResp s
  | .c2hTermReq => Sys2Proof.Machine.execC2hTermReq s
  | .fetchTimeout => Sys2Proof.Machine.execFetchTimeout s
  | .fetchReconnect => Sys2Proof.Machine.execFetchReconnect s
  | .keepAlive => Sys2Proof.Machine.execKeepAlive s
  | .blockReady ses idx => Sys2Proof.Machine.execBlockReady ses idx s
  | .pulseGroup c e => Sys2Proof.Machine.execPulseGroup c e s
  | .damperGrant c e => Sys2Proof.Machine.execDamperGrant c e s
  | .engineProgrammed c e => Sys2Proof.Machine.execEngineProgrammed c e s
  | .bankVerified ctx => Sys2Proof.Machine.execBankVerified ctx s
  | .eclosionBegin ctx => Sys2Proof.Machine.execEclosionBegin ctx s
  | .arm ctx c => Sys2Proof.Machine.execArm ctx c s
  | .disarm ctx => Sys2Proof.Machine.execDisarm ctx s
  | .commit ctx => Sys2Proof.Machine.execCommit ctx s
  | .bankRetire ctx => Sys2Proof.Machine.execBankRetire ctx s
  | .engineVerify c e => Sys2Proof.Machine.execEngineVerify c e s
  | .contextAutostart ctx => Sys2Proof.Machine.execContextAutostart ctx s
  | .coreReplace ses c => Sys2Proof.Machine.execCoreReplace ses c s
  | .coreReplaceStart die => Sys2Proof.Machine.execCoreReplaceStart die s
  | .coreReplaceSwitch die => Sys2Proof.Machine.execCoreReplaceSwitch die s
  | .hello p h moduleId remotePort mirrorRole => Sys2Proof.Machine.execHello p h moduleId remotePort mirrorRole s
  | .idle p h => Sys2Proof.Machine.execIdle p h s
  | .message p h m payload => Sys2Proof.Machine.execMessage p h m payload s
  | .epoch p h entries => Sys2Proof.Machine.execEpoch p h entries s
  | .mirrorFrame p h group stamp seq frame => Sys2Proof.Machine.execMirrorFrame p h group stamp seq frame s
  | .takeover p h => Sys2Proof.Machine.execTakeover p h s
  | .flueRetrain p => Sys2Proof.Machine.execFlueRetrain p s
  | .flueDown p => Sys2Proof.Machine.execFlueDown p s
  | .mirrorKeepalive => Sys2Proof.Machine.execMirrorKeepalive s
  | .mirrorTimeout => Sys2Proof.Machine.execMirrorTimeout s
  | .mirrorCmdHandover ses => Sys2Proof.Machine.execMirrorCmdHandover ses s
  | .mirrorCmdTakeover ses => Sys2Proof.Machine.execMirrorCmdTakeover ses s
  | .mirrorRelease => Sys2Proof.Machine.execMirrorRelease s
  | .referenceEvent refTime => Sys2Proof.Machine.execReferenceEvent refTime s
  | .sourceLost => Sys2Proof.Machine.execSourceLost s
  | .stepReq ses v => Sys2Proof.Machine.execStepReq ses v s
  | .latch n dcTime => Sys2Proof.Machine.execLatch n dcTime s
  | .trackerUpdate t => Sys2Proof.Machine.execTrackerUpdate t s
  | .trackerInputEvent t ev => Sys2Proof.Machine.execTrackerInputEvent t ev s
  | .sentWdExpiry c => Sys2Proof.Machine.execSentWdExpiry c s
  | .mclkWindow pin edges => Sys2Proof.Machine.execMclkWindow pin edges s
  | .channelFault ch cause => Sys2Proof.Machine.execChannelFault ch cause s
  | .channelFaultExit ch => Sys2Proof.Machine.execChannelFaultExit ch s
  | .decimatedResult ch bits => Sys2Proof.Machine.execDecimatedResult ch bits s
  | .comparator ch bits => Sys2Proof.Machine.execComparator ch bits s
  | .auxConversion a code => Sys2Proof.Machine.execAuxConversion a code s
  | .pfail => Sys2Proof.Machine.execPfail s
  | .frameForm g => Sys2Proof.Machine.execFrameForm g s
  | .ringFreeze r => Sys2Proof.Machine.execRingFreeze r s
  | .ringCtrl ses r v => Sys2Proof.Machine.execRingCtrl ses r v s
  | .sampleInstant ch => Sys2Proof.Machine.execSampleInstant ch s
  | .dacWrite ses ch code => Sys2Proof.Machine.execDacWrite ses ch code s
  | .fastUpdate ch => Sys2Proof.Machine.execFastUpdate ch s
  | .dacClrNLow => Sys2Proof.Machine.execDacClrNLow s
  | .dacClrNHigh => Sys2Proof.Machine.execDacClrNHigh s
  | .short ch => Sys2Proof.Machine.execShort ch s
  | .dacRelease ses ch => Sys2Proof.Machine.execDacRelease ses ch s
  | .dacEnterFault ses ch => Sys2Proof.Machine.execDacEnterFault ses ch s
  | .rangeClampEnd ch => Sys2Proof.Machine.execRangeClampEnd ch s
  | .handoverClampEnd ch => Sys2Proof.Machine.execHandoverClampEnd ch s
  | .railFault => Sys2Proof.Machine.execRailFault s
  | .tripTick => Sys2Proof.Machine.execTripTick s
  | .tripCmd ses n => Sys2Proof.Machine.execTripCmd ses n s
  | .tripMinOnExpiry n => Sys2Proof.Machine.execTripMinOnExpiry n s
  | .faultCauseWrite ses v => Sys2Proof.Machine.execFaultCauseWrite ses v s
  | .mailboxRequest r => Sys2Proof.Machine.execMailboxRequest r s
  | .alStateRequest target => Sys2Proof.Machine.execAlStateRequest target s
  | .pdoSnapshot => Sys2Proof.Machine.execPdoSnapshot s
  | .rxpdoApply values => Sys2Proof.Machine.execRxpdoApply values s
  | .bar0Access write off width value => Sys2Proof.Machine.execBar0Access write off width value s
  | .bar2Access write addr len data => Sys2Proof.Machine.execBar2Access write addr len data s
  | .odAbort => Sys2Proof.Machine.execOdAbort s
  | .longRead idx sub => Sys2Proof.Machine.execLongRead idx sub s
  | .longWrite idx sub data => Sys2Proof.Machine.execLongWrite idx sub data s
  | .dmaTail k base size v => Sys2Proof.Machine.execDmaTail k base size v s
  | .dmaDescriptor k desc host busError => Sys2Proof.Machine.execDmaDescriptor k desc host busError s
  | .udpOpen o => Sys2Proof.Machine.execUdpOpen o s
  | .udpClose n h => Sys2Proof.Machine.execUdpClose n h s
  | .udpRead n h idx sub count => Sys2Proof.Machine.execUdpRead n h idx sub count s
  | .udpWrite n h idx sub values => Sys2Proof.Machine.execUdpWrite n h idx sub values s
  | .authBegin n h slot => Sys2Proof.Machine.execAuthBegin n h slot s
  | .authProve n h proof => Sys2Proof.Machine.execAuthProve n h proof s
  | .memRead n h addr len => Sys2Proof.Machine.execMemRead n h addr len s
  | .memWrite n h addr data => Sys2Proof.Machine.execMemWrite n h addr data s
  | .udpKeepalive n h => Sys2Proof.Machine.execUdpKeepalive n h s
  | .sessionTimeout n => Sys2Proof.Machine.execSessionTimeout n s
  | .authSlot ses slot => Sys2Proof.Machine.execAuthSlot ses slot s
  | .authResponse ses proof => Sys2Proof.Machine.execAuthResponse ses proof s
  | .nonceLapse ses => Sys2Proof.Machine.execNonceLapse ses s
  | .authLockoutEnd master => Sys2Proof.Machine.execAuthLockoutEnd master s
  | .authDrop ses level => Sys2Proof.Machine.execAuthDrop ses level s
  | .keyWrite ses data => Sys2Proof.Machine.execKeyWrite ses data s
  | .setCommit ses when_ mark ctx => Sys2Proof.Machine.execSetCommit ses when_ mark ctx s
  | .setCommitEffect => Sys2Proof.Machine.execSetCommitEffect s
  | .discard ses => Sys2Proof.Machine.execDiscard ses s
  | .claim ses => Sys2Proof.Machine.execClaim ses s
  | .yieldClaim ses => Sys2Proof.Machine.execYieldClaim ses s
  | .shadowReloadDone => Sys2Proof.Machine.execShadowReloadDone s
  | .objectWrite ses idx sub data => Sys2Proof.Machine.execObjectWrite ses idx sub data s
  | .masterResume ses m => Sys2Proof.Machine.execMasterResume ses m s
  | .masterDrop ses m => Sys2Proof.Machine.execMasterDrop ses m s
  | .calWrite ses addr data => Sys2Proof.Machine.execCalWrite ses addr data s
  | .calRestore ses v => Sys2Proof.Machine.execCalRestore ses v s
  | .counterPersist => Sys2Proof.Machine.execCounterPersist s
  | .fwLoad ses => Sys2Proof.Machine.execFwLoad ses s
  | .fwSwitch ses => Sys2Proof.Machine.execFwSwitch ses s
  | .restoreDefaults ses => Sys2Proof.Machine.execRestoreDefaults ses s
  | .fwSwitchAbandon => Sys2Proof.Machine.execFwSwitchAbandon s
  | .telemetryDatagram => Sys2Proof.Machine.execTelemetryDatagram s
  | .referenceLost => Sys2Proof.Machine.execReferenceLost s
  | .referencePresent => Sys2Proof.Machine.execReferencePresent s
  | .lockLoss g => Sys2Proof.Machine.execLockLoss g s
  | .dividerStep dom => Sys2Proof.Machine.execDividerStep dom s
  | .pllReturn g => Sys2Proof.Machine.execPllReturn g s
  | .watch ses => Sys2Proof.Machine.execWatch ses s
  | .diesDown ses => Sys2Proof.Machine.execDiesDown ses s
  | .diesUp ses => Sys2Proof.Machine.execDiesUp ses s
  | .watchWake => Sys2Proof.Machine.execWatchWake s
  | .coreTurnOn c => Sys2Proof.Machine.execCoreTurnOn c s
  | .diePowerOn d => Sys2Proof.Machine.execDiePowerOn d s
  | .powerGood => Sys2Proof.Machine.execPowerGood s
  | .powerGoodLoss => Sys2Proof.Machine.execPowerGoodLoss s
  | .resetN => Sys2Proof.Machine.execResetN s
  | .resetCmdModule ses => Sys2Proof.Machine.execResetCmdModule ses s
  | .resetCmdDie ses d => Sys2Proof.Machine.execResetCmdDie ses d s
  | .resetCmdCore ses c => Sys2Proof.Machine.execResetCmdCore ses c s
  | .managementWatchdog => Sys2Proof.Machine.execManagementWatchdog s
  | .pcieReset => Sys2Proof.Machine.execPcieReset s
  | .vddCoreLoss d => Sys2Proof.Machine.execVddCoreLoss d s
  | .vddCoreReturn d => Sys2Proof.Machine.execVddCoreReturn d s
  | .vddProgLoss => Sys2Proof.Machine.execVddProgLoss s
  | .vddProgReturn => Sys2Proof.Machine.execVddProgReturn s
  | .vddOptValid => Sys2Proof.Machine.execVddOptValid s
  | .scrubAccess addr found => Sys2Proof.Machine.execScrubAccess addr found s
  | .scrubPass late => Sys2Proof.Machine.execScrubPass late s
  | .bridgeReplay b => Sys2Proof.Machine.execBridgeReplay b s
  | .bridgeRetrain b => Sys2Proof.Machine.execBridgeRetrain b s
  | .record => Sys2Proof.Machine.execRecord s
  | .sortRelease => Sys2Proof.Machine.execSortRelease s
  | .tokenRefill bucket => Sys2Proof.Machine.execTokenRefill bucket s
  | .ashFreeze ses => Sys2Proof.Machine.execAshFreeze ses s
  | .ashUnfreeze ses => Sys2Proof.Machine.execAshUnfreeze ses s
  | .freezeMaxExpiry => Sys2Proof.Machine.execFreezeMaxExpiry s
  | .checkpointComplete => Sys2Proof.Machine.execCheckpointComplete s
  | .clearChal ses => Sys2Proof.Machine.execClearChal ses s
  | .ashClear ses slot proof => Sys2Proof.Machine.execAshClear ses slot proof s
  | .gtcReachesTarget c => Sys2Proof.Machine.execGtcReachesTarget c s
  | .trackerForcedCommit c e => Sys2Proof.Machine.execTrackerForcedCommit c e s
  | .surveyOverdue c e b => Sys2Proof.Machine.execSurveyOverdue c e b s
  | .flueLanesTrained p => Sys2Proof.Machine.execFlueLanesTrained p s
  | .bridgeRetrained b => Sys2Proof.Machine.execBridgeRetrained b s
  | .pllRelock g => Sys2Proof.Machine.execPllRelock g s
  | .pfailDeassert => Sys2Proof.Machine.execPfailDeassert s
  | .thermN sensor heat => Sys2Proof.Machine.execThermN sensor heat s
  | .analogueRailReturn => Sys2Proof.Machine.execAnalogueRailReturn s
  | .vddOptLoss => Sys2Proof.Machine.execVddOptLoss s
  | .fwImageWritten => Sys2Proof.Machine.execFwImageWritten s
  | .fwBankServing => Sys2Proof.Machine.execFwBankServing s
  | .ashClearComplete => Sys2Proof.Machine.execAshClearComplete s
  | .lostConnection => Sys2Proof.Machine.execLostConnection s
  | .ethLinkState p up => Sys2Proof.Machine.execEthLinkState p up s
  | .malformedMessage p => Sys2Proof.Machine.execMalformedMessage p s
  | .outOfSubsetPdu => Sys2Proof.Machine.execOutOfSubsetPdu s

end Sys2Proof.Machine
end

