-- ==== Sys2Proof/Safety.lean ====
section
/-! DEFINITION. What counts as a safe state and a safe run. -/

namespace Sys2Proof.Machine

/-- The machine's modes: EtherCAT state INIT, PREOP, SAFEOP or OP; mirror state, power state and set state in their tables. -/
def State.modesOk (s : State) : Bool :=
  [1, 2, 4, 8].contains s.ecat.al && decide (s.mirror.state ≤ 4) && decide (s.pwr.state ≤ 2) && decide (s.sets.state ≤ 2)

/-- System memory and the recorder's copy in the hub keep are in their canonical form. -/
def State.memOk (s : State) : Bool := Mem.wf s.mem && Mem.wf s.keep.ash

/-- One step goes on: no fault, no refusal. -/
def Goes (s : State) : Prop := ∃ t, step s = .next t

/-- A session's request reaches the object dictionary at a level: its interface is there, the management controller serves, and the
session holds the level. -/
def Served (s : State) (ses : Ses) (level : Nat) : Prop :=
  s.reachable ses = true ∧ s.serves = true ∧ level ≤ (s.session ses).level

/-- The objects whose write has a meaning of its own in R270 to R274 and R329. -/
def ownWrite (idx sub : Nat) : Bool :=
  (idx == 0x2100 && sub == 1) || (idx == 0x2B00 && (sub == 2 || sub == 4 || sub == 5)) || idx == 0x2B02 || (idx == 0x2A00 && sub == 12)

/-- A refused write: its abort code goes to the session, and for the PCIe host it is latched, and counted where the object is in BAR0. -/
def State.refuse (s : State) (ses : Ses) (idx sub code : Nat) : State :=
  if ses = 0 then (s.giveReply ses ⟨code, []⟩).refusedBy (!s.longObject idx sub) idx sub code else s.giveReply ses ⟨code, []⟩

/-- The command of the plan op an opcode names. -/
def planCommand (c : Nat) : Nat → Option Instr
  | 0x00 => some (.nop c)
  | 0x01 => some (.halt c)
  | 0x02 => some (.jmp c)
  | 0x03 => some (.br c)
  | 0x04 => some (.loop c)
  | 0x05 => some (.setk c)
  | 0x06 => some (.ldk c)
  | 0x08 => some (.batch c)
  | 0x09 => some (.endb c)
  | 0x0A => some (.fence c)
  | 0x10 => some (.mvm c)
  | 0x11 => some (.drain c)
  | 0x12 => some (.dmm c)
  | 0x13 => some (.vop c)
  | 0x18 => some (.load c)
  | 0x19 => some (.store c)
  | 0x1A => some (.send c)
  | 0x1B => some (.recv c)
  | 0x20 => some (.sig c)
  | 0x21 => some (.wait c)
  | 0x22 => some (.waitt c)
  | 0x23 => some (.waitph c)
  | 0x28 => some (.emit c)
  | 0x29 => some (.log c)
  | _ => none

/-- Core c runs with no fault path or stop pending, its plan word at the index is readable and is w, and issue does not stall. -/
def AtIssue (s : State) (c w : Nat) : Prop :=
  (s.core c).issuing = true ∧ s.poisoned (planAddr c (s.core c).seq.bank (s.core c).seq.pc) 8 = false ∧ s.planWord c = w ∧
  s.stalled c w = false

/-- The word passes the four checks of R157. -/
def PassesChecks (s : State) (c w : Nat) : Prop :=
  illegalWord c ((s.core c).head (s.core c).seq.bank) w = false ∧ s.windowFault c w = none ∧ tileFault (s.core c) w = false ∧
  boundFault (s.core c) w = false

/-- Core c issues the op `op` with the word w. -/
def Issues (s : State) (c op w : Nat) : Prop := AtIssue s c w ∧ PassesChecks s c w ∧ opcodeOf w = op

end Sys2Proof.Machine
end

