-- ==== Sys2Proof/WellFormed.lean ====
section
/-! DEFINITION. Operands in range: units that the numbering of Tables 0.4 to 0.6 and 10.11 gives, field widths, sessions.
A command that is not well formed has no counterpart at the module's edge; a number that a host writes into a field has the field's width, and
the command itself refuses what the field may hold and the module has not. -/

namespace Sys2Proof

/-- Compute cores 0-575, sentinel cores 576-583. -/
def okCore (c : Nat) : Bool := decide (c < 584)
/-- A core and one of its 50 engines. -/
def okEng (c e : Nat) : Bool := okCore c && decide (e < 50)
def okSes (n : Ses) : Bool := decide (n < 10)
def okCtx (x : Nat) : Bool := decide (x < 64)
def okPort (p : Nat) : Bool := decide (p < 4)
def okUdp (n : Nat) (h : UdpHdr) : Bool := decide (n < 8) && decide (h.port < 2) && decide (h.seq < 2 ^ 32) && h.tag.length ≤ 16
def okWidth (bits v : Nat) : Bool := decide (v < 2 ^ bits)
def okHdr (h : FlueHdr) : Bool := decide (h.seq < 2 ^ 16) && decide (h.ack < 2 ^ 16) && decide (h.lines ≤ 4) && decide (h.creditRet < 2 ^ 8)
def okCrossing : Crossing → Bool
  | .core c => okCore c
  | .die d => decide (d < 4)
  | .mgmt => true

/-- The operands of a command are in range. -/
def Instr.wf : Instr → Bool
  | .nop c | .halt c | .jmp c | .br c | .loop c | .setk c | .ldk c | .batch c | .endb c | .fence c | .mvm c | .drain c | .dmm c
  | .vop c | .load c | .store c | .send c | .recv c | .sig c | .wait c | .waitt c | .waitph c | .emit c | .log c | .faultPath c
  | .douOpStart c | .douOpComplete c | .syncResponse c | .anaCommit c | .anaCommitEffect c | .sentWdExpiry c | .coreTurnOn c
  | .gtcReachesTarget c => okCore c
  | .readSlot c e | .corrCommit c e | .corrCommitEffect c e | .trackUpdate c e | .testRead c e | .testRoundComplete c e
  | .healthScore c e | .engineExchange c e | .pulseGroup c e | .damperGrant c e | .engineProgrammed c e | .engineVerify c e
  | .trackerForcedCommit c e => okEng c e
  | .tileWriteCommit c _ | .drainStart c _ | .drainComplete c _ | .moveComplete c _ | .deliveryResult c _ => okCore c
  | .frameWindowWrite c w => okCore c && decide (w < 4)
  | .dataMessage a b | .credit a b => okCore a && okCore b
  | .syncUpdate o => decide (o < 278528)
  | .crossingReopen x => okCrossing x
  | .hostLocalWrite c off data => okCore c && decide (off + data.length ≤ 0x200000)
  | .repairMapWrite c e v => okEng c e && okWidth 32 v
  | .surveySlice c e b | .surveyOverdue c e b => okEng c e && decide (b < 16)
  | .repairSlice c e b => okEng c e && decide (b < 8)
  | .columnRepair c e col => okEng c e && decide (col < 128)
  | .retireEngine n c e | .surveyNow n c e => okSes n && okWidth 16 c && okWidth 8 e
  | .retireColumn n c e col => okSes n && okWidth 16 c && okWidth 8 e && okWidth 8 col
  | .loadCmd n x src => okSes n && okCtx x && decide (src < 2)
  | .install n x src _ => okSes n && okCtx x && decide (src < 2)
  | .eclose n x w => okSes n && okCtx x && decide (w < 4)
  | .abort n x | .start n x | .stop n x | .unload n x | .forceStart n x => okSes n && okCtx x
  | .bankVerified x | .eclosionBegin x | .disarm x | .commit x | .bankRetire x | .contextAutostart x => okCtx x
  | .arm x c => okCtx x && okCore c
  | .pushTail v => okWidth 64 v
  | .capsuleResp r => decide (r.queue ≤ 4) && okWidth 16 r.cid && okWidth 16 r.status && okWidth 64 r.value
  | .c2hData d _ => decide (d.queue ≤ 4) && okWidth 16 d.cid && decide (d.bytes.length ≤ 131072)
  | .blockReady n i => okSes n && okWidth 32 i
  | .coreReplace n c => okSes n && okWidth 16 c
  | .coreReplaceStart d | .coreReplaceSwitch d => decide (d < 5)
  | .hello p h id rp role => okPort p && okHdr h && okWidth 16 id && okPort rp && decide (role < 4)
  | .idle p h | .takeover p h => okPort p && okHdr h
  | .message p h m payload => okPort p && okHdr h && decide (m.mtype < 3) && decide (payload.length ≤ 4096)
  | .epoch p h es => okPort p && okHdr h && decide (es.length ≤ 512)
  | .mirrorFrame p h g stamp q f => okPort p && okHdr h && decide (g < 16) && okWidth 64 stamp && okWidth 32 q && decide (f.length ≤ 2048)
  | .flueRetrain p | .flueDown p | .flueLanesTrained p => okPort p
  | .malformedMessage p => decide (p < 2)
  | .mirrorCmdHandover n | .mirrorCmdTakeover n | .dacRelease n _ | .dacEnterFault n _ | .tripCmd n _ | .faultCauseWrite n _
  | .defEntry n | .nonceLapse n | .discard n | .claim n | .yieldClaim n | .fwLoad n | .fwSwitch n | .restoreDefaults n
  | .watch n | .diesDown n | .diesUp n | .resetCmdModule n | .ashFreeze n | .ashUnfreeze n | .clearChal n => okSes n
  | .referenceEvent v => okWidth 64 v
  | .stepReq n v => okSes n && decide (-(2 ^ 63) ≤ v) && decide (v < 2 ^ 63)
  | .latch n t => decide (n < 2) && okWidth 64 t
  | .trackerUpdate t => decide (t < 8)
  | .trackerInputEvent t _ => decide (t < 8)
  | .mclkWindow pin _ => decide (pin < 8)
  | .channelFault ch cause => decide (ch < 96) && decide (cause < 3)
  | .channelFaultExit ch => decide (ch < 96)
  | .decimatedResult ch bits | .comparator ch bits => decide (ch < 96) && decide (bits.length ≤ 768)
  | .auxConversion a code => decide (a < 16) && okWidth 16 code
  | .frameForm g => decide (g < 16)
  | .ringFreeze r => decide (r < 16)
  | .ringCtrl n r v => okSes n && decide (r < 16) && okWidth 8 v
  | .sampleInstant ch | .fastUpdate ch | .short ch | .rangeClampEnd ch | .handoverClampEnd ch => decide (ch < 16)
  | .dacWrite n ch code => okSes n && decide (ch < 16) && okWidth 16 code
  | .tripMinOnExpiry n => decide (n < 32)
  | .mailboxRequest _ => true
  | .alStateRequest t => [1, 2, 3, 4, 8].contains t
  | .rxpdoApply vs => decide (vs.length ≤ 256)
  | .bar0Access _ off w _ => okWidth 32 off && [1, 2, 4, 8].contains w
  | .bar2Access _ a len _ => okWidth 40 a && decide (len ≤ 4096)
  | .longRead i k => okWidth 16 i && okWidth 8 k
  | .longWrite i k data => okWidth 16 i && okWidth 8 k && decide (data.length ≤ 256)
  | .dmaTail k b n v => decide (k < 4) && okWidth 64 b && okWidth 32 n && okWidth 32 v
  | .dmaDescriptor k d host _ => decide (k < 4) && d.length == 32 && decide (host.length ≤ 2 ^ 24)
  | .udpOpen o => decide (o.port < 2) && okWidth 32 o.seq
  | .udpClose n h | .udpKeepalive n h => okUdp n h
  | .udpRead n h i k cnt => okUdp n h && okWidth 16 i && okWidth 8 k && okWidth 16 cnt
  | .udpWrite n h i k _ => okUdp n h && okWidth 16 i && okWidth 8 k
  | .authBegin n h slot => okUdp n h && okWidth 8 slot
  | .authProve n h p => okUdp n h && p.length == 32
  | .memRead n h a _ => okUdp n h && okWidth 32 a
  | .memWrite n h a _ => okUdp n h && okWidth 32 a
  | .sessionTimeout n => decide (n < 8)
  | .authSlot n slot => okSes n && okWidth 8 slot
  | .authResponse n p => okSes n && p.length == 32
  | .authLockoutEnd m => decide (m < 8)
  | .authDrop n l => okSes n && okWidth 8 l
  | .keyWrite n data => okSes n && data.length == 34
  | .setCommit n w m x => okSes n && decide (w < 4) && okCtx m && okCtx x
  | .objectWrite n i k _ => okSes n && okWidth 16 i && okWidth 8 k
  | .masterResume n m | .masterDrop n m => okSes n && okWidth 16 m
  | .calWrite n a _ => okSes n && okWidth 64 a
  | .calRestore n v => okSes n && okWidth 32 v
  | .lockLoss g | .pllReturn g | .pllRelock g => decide (g < 11)
  | .dividerStep d => decide (d < 44)
  | .diePowerOn d | .vddCoreLoss d | .vddCoreReturn d => decide (d < 4)
  | .resetCmdDie n d => okSes n && okWidth 16 d
  | .resetCmdCore n c => okSes n && okWidth 16 c
  | .scrubAccess a _ => okWidth 64 a
  | .scrubPass _ => true
  | .bridgeReplay b | .bridgeRetrain b | .bridgeRetrained b => decide (b < 8)
  | .tokenRefill b => decide (b < 1024)
  | .ashClear n k p => okSes n && okWidth 8 k && p.length == 32
  | .thermN k _ => decide (k < 5)
  | .ethLinkState p _ => decide (p < 2)
  | .tePersist | .ctxLoadEvaluation | .staged | .planSectionEnd | .icResp | .c2hTermReq | .fetchTimeout | .fetchReconnect
  | .keepAlive | .mirrorKeepalive | .mirrorTimeout | .mirrorRelease | .sourceLost | .pfail | .dacClrNLow | .dacClrNHigh
  | .railFault | .tripTick | .pdoSnapshot | .odAbort | .setCommitEffect | .shadowReloadDone
  | .counterPersist | .fwSwitchAbandon | .telemetryDatagram | .referenceLost | .referencePresent | .watchWake | .powerGood
  | .powerGoodLoss | .resetN | .managementWatchdog | .pcieReset | .vddProgLoss | .vddProgReturn | .vddOptValid | .record
  | .sortRelease | .freezeMaxExpiry | .checkpointComplete | .pfailDeassert | .analogueRailReturn | .vddOptLoss
  | .fwImageWritten | .fwBankServing | .ashClearComplete | .lostConnection | .outOfSubsetPdu => true

end Sys2Proof
end

