-- ==== Sys2Proof/Certificates/Slice0/Obligations.lean ====
section
/-! DEFINITION. The statements for the provers: one def Obligations.<Name> : Prop each, grouped by family of commands. -/

section

open Sys2Proof Sys2Proof.Machine

/-! ### The queue, reset -/

/-- The front command runs on the state with the queue's rest; with an empty queue a tick passes (DESIGN CHOICE, log 8). The model's own choices it
rests on: log 1, 8. -/
def Obligations.StepRunsFrontCommand : Prop :=
  (∀ (i : Instr) (l : List Instr) (s : State), step { s with pending := i :: l } = exec i { s with pending := l }) ∧
  (∀ s : State, s.pending = [] → step s = .next s.tick)

/-- No command adds to, drops from or reorders the waiting commands: after the front command has run the queue is its old rest, and a tick on an
empty queue leaves it empty. No command ends in a fault or a refusal. No step changes the Vendor key slot or the part. The model's own choices it
rests on: log 1, 2, 7, 8, 16. -/
def Obligations.CommandsGoOnInOrder : Prop :=
  ((∀ (i : Instr) (l : List Instr) (s t : State), s.pending = i :: l → step s = .next t → t.pending = l) ∧
  (∀ s t : State, s.pending = [] → step s = .next t → t.pending = [])) ∧
  (∀ (i : Instr) (s : State), ∃ t : State, exec i s = .next t) ∧
  (∀ s t : State, step s = .next t →
    Tab.get KeySlot.reset t.keys 0 = Tab.get KeySlot.reset s.keys 0 ∧ t.part = s.part)

/-- Every step keeps system memory and the recorder's copy in the hub keep in their canonical form. The model's own choices it rests on: log 3. -/
def Obligations.StepKeepsMemoryCanonical : Prop :=
  ∀ s t : State, s.memOk = true → step s = .next t → t.memOk = true

/-- Every step keeps the EtherCAT state one of INIT, PREOP, SAFEOP and OP, and the mirror, power and set states in their tables. The model's own
choices it rests on: log 88. -/
def Obligations.StepKeepsModesLegal : Prop :=
  ∀ s t : State, s.modesOk = true → step s = .next t → t.modesOk = true

/-- What reset leaves meets the invariants; its queue is empty, FAULT_CAUSE is 0x0001, the GTC is 0 in FREE and every core is off. The model's own
choices it rests on: log 2, 3, 5. -/
def Obligations.ResetMeetsInvariants : Prop :=
  State.reset.memOk = true ∧ State.reset.modesOk = true ∧ State.reset.pending = [] ∧ State.reset.outs.faultCause = 1 ∧
  State.reset.time.gtc = 0 ∧ State.reset.time.mode = .free ∧ ∀ c, (State.reset.core c).state = .off

/-! ### Plan issue -/

/-- The checks at issue, in the order of R157, and what each failure does, for every op. What makes a word illegal or faults a frame window, and
that a frozen core keeps its place, are the model's reading. A core frozen at an op keeps its place; the access is recorded and MSI-X 2 raised
(R278, R330). A discarded op: LAST_FAULT holds its status, index and bank, the fault path is pending, and its completion object is updated with the
status, save for an illegal word or SYNC 0. Nothing else changes. The model's own choices it rests on: log 25, 26, 27. -/
def Obligations.IssueChecksInOrder : Prop :=
  (∀ (c op w : Nat) (i : Instr) (s : State), planCommand c op = some i → AtIssue s c w → opcodeOf w = op →
    let bad := illegalWord c ((s.core c).head (s.core c).seq.bank) w
    (bad = true → exec i s = .next (s.discard c w 6)) ∧
    (∀ a kind, bad = false → s.windowFault c w = some (a, kind) → exec i s = .next (s.freezeCore c a kind)) ∧
    (bad = false → s.windowFault c w = none → tileFault (s.core c) w = true → exec i s = .next (s.discard c w 1)) ∧
    (bad = false → s.windowFault c w = none → tileFault (s.core c) w = false → boundFault (s.core c) w = true →
      exec i s = .next (s.discard c w 2))) ∧
  (∀ (s : State) (c w status a kind : Nat),
    let z := s.freezeCore c a kind
    z.core c = { s.core c with state := .frozen } ∧ (∀ x, x ≠ c → z.core x = s.core x) ∧ z.mem = s.mem ∧ z.engines = s.engines ∧ z.net = s.net ∧
    bit z.pcie.msix 2 = true ∧ z.ash.inbox = s.ash.inbox ++ [⟨⟨s.time.gtc, coreSource c, 0x0023,
      [a, kind + (s.core c).seq.pc * 4 + (s.core c).seq.bank * 16384], false, false, false, false, 0, 0⟩, none⟩] ∧
    let q := (s.core c).seq
    let f : FaultInfo := ⟨status, q.pc, q.bank⟩
    let t := s.discard c w status
    t.core c = { s.core c with seq := { q with lastFault := f.word, faultPend := some f } } ∧
    (∀ x, x ≠ c → t.core x = s.core x) ∧ t.mem = s.mem ∧ t.engines = s.engines ∧ t.ash = s.ash ∧ t.counters = s.counters ∧
    t.net.syncs = (if status = 6 ∨ syncOf w = 0 then s.net.syncs
      else s.net.syncs ++ [⟨handleObj c (syncOf w), false, 1, status, false, false, coreSource c, none, false⟩]))

/-- What issue needs: a core that does not issue, or whose word carries another opcode, stays as it is; a word with no opcode of the table is
discarded by NOP's command; a word that must wait is counted as a stall; an uncorrectable error in the word stops issue for good. NOP, JMP, BR, LOOP
and SETK: what each does to the core's index and registers; ops in flight then go on. BR's conditions on the register and the sign-extended
immediate, and SETK's modes. The model's own choices it rests on: log 7, 10, 27. -/
def Obligations.ControlOpsIssue : Prop :=
  (∀ (c op w : Nat) (i : Instr) (s : State), planCommand c op = some i →
    ((s.core c).issuing = false → exec i s = .next s) ∧
    (AtIssue s c w → opcodeOf w ≠ op → op ≠ 0 → exec i s = .next s) ∧
    ((s.core c).issuing = true → s.poisoned (planAddr c (s.core c).seq.bank (s.core c).seq.pc) 8 = true →
      exec i s = .next (s.planFault c)) ∧
    (AtIssue s c w → planCommand c (opcodeOf w) = none → exec (.nop c) s = .next (s.discard c w 6)) ∧
    ((s.core c).issuing = true → s.poisoned (planAddr c (s.core c).seq.bank (s.core c).seq.pc) 8 = false → s.planWord c = w → opcodeOf w = op →
      s.stalled c w = true → exec i s = .next (s.bump (0x3000 + c) 0x08))) ∧
  (∀ (s : State) (c w : Nat),
    let k := s.core c
    (Issues s c 0x00 w → exec (.nop c) s = .next ((s.advance c).settle c)) ∧
    (Issues s c 0x02 w →
      exec (.jmp c) s = .next ((s.modSeq c (fun q => { q with pc := field w 0 12, stopReq := none })).settle c)) ∧
    (Issues s c 0x03 w →
      branchCond (field w 49 3) (k.reg (bit w 48) (field w 12 5)) (ofSigned 32 (toSigned 24 (imm24Of w))) = true →
      exec (.br c) s = .next ((s.modSeq c (fun q => { q with pc := field w 0 12, stopReq := none })).settle c)) ∧
    (Issues s c 0x03 w →
      branchCond (field w 49 3) (k.reg (bit w 48) (field w 12 5)) (ofSigned 32 (toSigned 24 (imm24Of w))) = false →
      exec (.br c) s = .next ((s.advance c).settle c)) ∧
    (Issues s c 0x04 w → k.sreg (field w 12 5) = 0 → exec (.loop c) s = .next ((s.advance c).settle c)) ∧
    (Issues s c 0x04 w → k.sreg (field w 12 5) = 1 → bit w 48 = false →
      exec (.loop c) s = .next (((s.advance c).modSeq c (fun q => q.setS (field w 12 5) 0)).settle c)) ∧
    (Issues s c 0x04 w → k.sreg (field w 12 5) = 1 → bit w 48 = true →
      exec (.loop c) s = .next (((s.advance c).modSeq c (fun q => (q.setS (field w 12 5) 0).setK (field w 17 4)
        (withOffset (k.kreg (field w 17 4)) (k.offset (field w 17 4) + field w 21 16)))).settle c)) ∧
    (Issues s c 0x04 w → 1 < k.sreg (field w 12 5) → bit w 48 = false →
      exec (.loop c) s = .next ((s.modSeq c (fun q =>
        { q.setS (field w 12 5) (k.sreg (field w 12 5) - 1) with pc := field w 0 12, stopReq := none })).settle c)) ∧
    (Issues s c 0x04 w → 1 < k.sreg (field w 12 5) → bit w 48 = true →
      exec (.loop c) s = .next ((s.modSeq c (fun q =>
        { (q.setS (field w 12 5) (k.sreg (field w 12 5) - 1)).setK (field w 17 4)
            (withOffset (k.kreg (field w 17 4)) (k.offset (field w 17 4) + field w 21 16)) with
          pc := field w 0 12, stopReq := none })).settle c)) ∧
    (Issues s c 0x05 w →
      exec (.setk c) s = .next (((s.advance c).modSeq c (fun q => q.setReg (bit w 48) (field w 0 5)
        (setkValue (field w 49 3) (k.reg (bit w 48) (field w 0 5)) (field w 5 32) (k.reg (bit w 52) (field w 37 5))))).settle c))) ∧
  ((∀ r i : Nat, (branchCond 0 r i = true ↔ r = i) ∧ (branchCond 1 r i = true ↔ r ≠ i) ∧
    (branchCond 2 r i = true ↔ toSigned 32 r < toSigned 32 i) ∧ (branchCond 3 r i = true ↔ toSigned 32 i ≤ toSigned 32 r) ∧
    (branchCond 4 r i = true ↔ r < i) ∧ (branchCond 5 r i = true ↔ i ≤ r) ∧
    (branchCond 6 r i = true ↔ r &&& i ≠ 0) ∧ (branchCond 7 r i = true ↔ r &&& i = 0)) ∧
  (∀ r i v : Nat, r < 2 ^ 32 → i < 2 ^ 32 →
    setkValue 0 r i v = i ∧ setkValue 1 r i v = (r + i) % 2 ^ 32 ∧
    setkValue 2 r i v / 65536 = r / 65536 ∧ setkValue 2 r i v % 65536 = i % 65536 ∧
    setkValue 3 r i v % 65536 = r % 65536 ∧ setkValue 3 r i v / 65536 = i % 65536 ∧
    setkValue 4 r i v % 65536 = r % 65536 ∧ setkValue 4 r i v / 65536 = (r / 65536 + i % 65536) % 65536 ∧
    setkValue 5 r i v = v))

/-- HALT enters flight. With no op in flight before it the core halts at once; its completion object is updated, a HALT record with LAST_FAULT and
the op's index and bank is on its way, and no other core, engine or byte of memory changes. BATCH, ENDB and FENCE: a BATCH samples its bank, and the
row budgets that wait for that bank take effect; the others enter flight. The model's own choices it rests on: log 28, 41, 103, 107, 149. -/
def Obligations.HaltAndBatchOpsIssue : Prop :=
  (∀ (s : State) (c w : Nat), Issues s c 0x01 w →
    exec (.halt c) s = .next (((s.advance c).enter c (syncOf w) false false [] .halt).settle c) ∧
    ((s.core c).seq.ops = [] → ∃ t : State, exec (.halt c) s = .next t ∧ (t.core c).state = .halted ∧ (t.core c).seq.ops = [] ∧
      t.ash.inbox = s.ash.inbox ++ [⟨⟨s.time.gtc, coreSource c, 0x0007, [(s.core c).seq.lastFault,
        (s.core c).seq.pc % 4096 + (s.core c).seq.bank % 2 * 4096], false, false, false, false, 0, 0⟩, none⟩] ∧
      t.net.syncs = (if syncOf w = 0 then s.net.syncs
        else s.net.syncs ++ [⟨handleObj c (syncOf w), false, 1, 0, false, false, coreSource c, none, false⟩]) ∧
      (∀ x, x ≠ c → t.core x = s.core x) ∧ t.mem = s.mem ∧ t.engines = s.engines ∧ t.counters = s.counters ∧ t.outs = s.outs)) ∧
  (∀ (s : State) (c w : Nat),
    let q := (s.core c).seq
    (Issues s c 0x08 w → ∃ t : State, exec (.batch c) s = .next (t.settle c) ∧
      (t.core c).seq.openBatch = some q.batchNo ∧ (t.core c).seq.batchNo = (q.batchNo + 1) % 2 ^ 32 ∧
      (t.core c).seq.mapBank = s.sampledBank c ∧ (t.core c).seq.bank = s.sampledBank c ∧ (t.core c).seq.inHandler = false ∧
      (t.core c).seq.ops = q.ops ∧ (t.core c).ana.thresh = s.cfg 0x2800 6 ∧ (t.core c).ana.repeats = s.cfg 0x2800 7 ∧
      (t.core c).ana.pending = false ∧ (∀ x, x ≠ c → t.core x = s.core x) ∧ t.mem = s.mem ∧ t.engines = s.engines ∧ t.net = s.net) ∧
    (Issues s c 0x09 w → q.openBatch ≠ none →
      exec (.endb c) s = .next ((((((s.advance c).enter c (syncOf w) false false [] .endb).modSeq c
        (fun q => { q with openBatch := none })).checkLatch c)).settle c)) ∧
    (Issues s c 0x09 w → q.openBatch = none → exec (.endb c) s = .next ((s.advance c).settle c)) ∧
    (Issues s c 0x08 w → s.sampledBank c ≠ q.mapBank → exec (.batch c) s = .next (((((s.advance c).anaEffect c).bankBudgets c (s.sampledBank c)).modSeq c
      (fun r =>
        let r := { r with closings := if r.openBatch.isSome then r.closings + 1 else r.closings, openBatch := some r.batchNo,
                          batchNo := (r.batchNo + 1) % 2 ^ 32, mapBank := s.sampledBank c, inHandler := false }
        if s.sampledBank c = r.bank then r else r.switchBank (s.sampledBank c) ((s.core c).head (s.sampledBank c))) |>.batchCommitDue c).settle c)) ∧
    (Issues s c 0x0A w → exec (.fence c) s = .next (((s.advance c).enter c 0 false false [] .fence).settle c)))

/-- The array and vector ops enter flight with their operands read: MVM, DRAIN, DMM and VOP. With a zero bound an MVM has a row of zeros to write,
or none in add mode, and a DRAIN completes with nothing done. The model's own choices it rests on: log 108, 140. -/
def Obligations.ArrayOpsIssue : Prop :=
  ∀ (s : State) (c w : Nat),
    let k := s.core c
    let kb := kbOf w
    (Issues s c 0x10 w → 0 < k.bound (mvmKb w) → ∃ (t : State) (body : MvmOp), exec (.mvm c) s = .next (t.settle c) ∧
      (t.core c).seq.ops.getLast? = some ⟨k.seq.nextSeq, (s.advance c |>.core c).seq.issued, k.seq.bank, s.opMap c, syncOf w,
        k.seq.openBatch, bit w 51, bit w 52, false, false, 0, .mvm body, none, [],
        [mvmTile w + (if bit w 53 then k.offset (mvmKb w) else 0)], [], []⟩ ∧
      body.leng = mvmEng w ∧ body.eng = Tab.get (mvmEng w) (k.map (s.opMap c)) (mvmEng w) ∧
      body.tile = mvmTile w + (if bit w 53 then k.offset (mvmKb w) else 0) ∧ body.row = field w 33 3 ∧ body.acc = bit w 48 ∧
      body.ifmt = field w 49 2 ∧ body.bound = k.bound (mvmKb w) ∧ body.inputs = none ∧
      body.line = (field w 20 13 + (if bit w 54 then k.offset (mvmKb w) else 0)) % 8192 ∧
      body.budget = Tab.get 16 k.ana.budget body.eng ∧ body.scale = k.ana.scale ∧ t.mem = s.mem ∧ t.net = s.net) ∧
    (Issues s c 0x11 w → 0 < k.bound kb → ∃ (t : State) (d : DrainOp) (st : Nat), exec (.drain c) s = .next (t.settle c) ∧
      (t.core c).seq.ops.getLast? = some ⟨k.seq.nextSeq, (s.advance c |>.core c).seq.issued, k.seq.bank, s.opMap c, syncOf w,
        k.seq.openBatch, bit w 49, false, false, false, st, .drain d, none, [], [], [], []⟩ ∧
      st = poisonStatus (s.abPoisoned c (lineOf w) 0 64) ∧
      d.tile = drainTile w + (if bit w 55 then k.offset kb else 0) ∧ d.row0 = drainRow0 w ∧ d.n = k.bound kb ∧
      d.act = field w 52 3 ∧ d.fuse = field w 50 2 ∧ d.clear = bit w 48 ∧ d.pool = field w 46 2 ∧ d.ofmt = field w 43 3 ∧
      d.started = false ∧ t.mem = s.mem ∧ t.net = s.net) ∧
    (Issues s c 0x10 w → k.bound (mvmKb w) = 0 → (∀ o, o ∈ k.seq.ops → o.seq < k.seq.nextSeq) →
      ∃ (t : State) (o : Op), exec (.mvm c) s = .next (t.settle c) ∧ (t.core c).seq.ops.getLast? = some o ∧ o.seq = k.seq.nextSeq ∧
        o.rows = (if bit w 48 then []
          else [⟨mvmTile w + (if bit w 53 then k.offset (mvmKb w) else 0), field w 33 3, false, false, 128, []⟩]) ∧
        t.mem = s.mem ∧ t.net = s.net) ∧
    (Issues s c 0x11 w → k.bound kb = 0 → exec (.drain c) s = .next (((s.advance c).enterDone c (syncOf w)).settle c)) ∧
    (Issues s c 0x12 w →
      exec (.dmm c) s = .next (((s.advance c).enter c (syncOf w) (bit w 49) false
        ((List.range (max (ceilDiv (k.bound kb) 8) 1)).map (· + (dmmTile w + (if bit w 27 then k.offset (kb + 2) else 0))))
        (.dmm ⟨k.bound kb, k.bound (kb + 1), k.bound (kb + 2), k.offset kb % 8192, k.offset (kb + 1) % 8192,
          dmmTile w + (if bit w 27 then k.offset (kb + 2) else 0), field w 50 3, field w 53 3, bit w 48, false, false⟩)).settle c)) ∧
    (Issues s c 0x13 w →
      exec (.vop c) s = .next (((s.advance c).enter c (syncOf w) (bit w 51) false []
        (.vop ⟨field w 48 3, k.bound kb, k.offset kb % 8192, k.offset (kb + 1) % 8192, k.offset (kb + 2) % 8192,
          field w 21 3, field w 24 3, field w 27 3, false⟩)).settle c))

/-- LOAD, STORE, SEND and RECV enter flight with their operands read. LDK, SIG, WAIT, WAITT and WAITPH enter flight; a WAITT whose time has passed
and a WAITPH at its phase, with MODE 0 or 1, complete at once. -/
def Obligations.MoveAndSyncOpsIssue : Prop :=
  (∀ (s : State) (c w : Nat),
    let k := s.core c
    let kb := kbOf w
    let line := (lineOf w + k.offset kb) % 8192
    (Issues s c 0x18 w → 0 < k.bound kb →
      exec (.load c) s = .next (((s.advance c).enter c (syncOf w) false false [] (.load (k.bound kb) (k.kreg (kb + 1)) line)).settle c)) ∧
    (Issues s c 0x18 w → k.bound kb = 0 → exec (.load c) s = .next (((s.advance c).enterDone c (syncOf w)).settle c)) ∧
    (Issues s c 0x19 w → 0 < k.bound kb → bit w 48 = false →
      exec (.store c) s = .next (((s.advance c).enter c (syncOf w) false false [] (.store (k.bound kb) (k.kreg (kb + 1)) line)).settle c)) ∧
    (Issues s c 0x19 w → 0 < k.bound kb → bit w 48 = true →
      exec (.store c) s = .next (((s.advance c).enter c (syncOf w) false false [] (.storeRows (k.bound kb)
        (storeTile w + (if bit w 49 then k.offset kb else 0)) (storeRow w) (lineOf w))).settle c)) ∧
    (Issues s c 0x19 w → k.bound kb = 0 → exec (.store c) s = .next (((s.advance c).enterDone c (syncOf w)).settle c)) ∧
    (Issues s c 0x1A w →
      exec (.send c) s = .next (((s.advance c).enter c (syncOf w) false false []
        (.send (peerOf w) (chanOf w) (k.bound kb) line false false)).settle c)) ∧
    (Issues s c 0x1B w → bit w 48 = false →
      exec (.recv c) s = .next (((s.advance c).enter c (syncOf w) false false []
        (.recv (peerOf w) (chanOf w) (k.bound kb) line false false)).settle c)) ∧
    (Issues s c 0x1B w → bit w 48 = true →
      exec (.recv c) s = .next (((s.advance c).enter c (syncOf w) false false [recvTile w + (if bit w 51 then k.offset kb else 0)]
        (.recvRows (peerOf w) (chanOf w) (k.bound kb) (recvTile w + (if bit w 51 then k.offset kb else 0)) (recvRow w)
          (bit w 49) (bit w 50) false false)).settle c))) ∧
  (∀ (s : State) (c w : Nat),
    let k := s.core c
    (Issues s c 0x06 w → bit w 49 = true →
      exec (.ldk c) s = .next (((s.advance c).enter c 0 false false []
        (.ldkSync (bit w 48) (field w 0 5) (handleObj c (field w 5 17)))).settle c)) ∧
    (Issues s c 0x06 w → bit w 49 = false →
      exec (.ldk c) s = .next (((s.advance c).enter c 0 false false []
        (.ldkBuf (bit w 48) (field w 0 5) (field w 5 13) (field w 18 4))).settle c)) ∧
    (Issues s c 0x20 w →
      exec (.sig c) s = .next (((s.advance c).enter c 0 false false [] (.sig (handleObj c (syncOf w)) (bit w 48)
        (if bit w 48 then k.sreg (field w 33 5) else field w 17 16) false)).settle c)) ∧
    (Issues s c 0x21 w →
      exec (.wait c) s = .next (((s.advance c).enter c 0 false false [] (.wait (handleObj c (syncOf w))
        (if bit w 48 then (k.sreg (field w 41 5) % 2 ^ 24 + imm24Of w) % 2 ^ 24 else imm24Of w)
        (if bit w 49 then k.windowOf c (handleObj c (syncOf w)) else none) none)).settle c)) ∧
    (Issues s c 0x22 w → waittTarget k w ≤ s.time.gtc → exec (.waitt c) s = .next ((s.advance c).settle c)) ∧
    (Issues s c 0x22 w → s.time.gtc < waittTarget k w →
      exec (.waitt c) s = .next (((s.advance c).enter c 0 false false [] (.waitt (waittTarget k w))).settle c)) ∧
    (∀ d, Issues s c 0x23 w → bit w 48 = false → (k.sreg (field w 3 5) + 2 ^ 32 - s.phaseOf (field w 0 3)) % 2 ^ 32 = d + 1 →
      exec (.waitph c) s = .next (((s.advance c).enter c 0 false false [] (.waitph (field w 0 3) (d + 1) 0)).settle c)) ∧
    (Issues s c 0x23 w → bit w 48 = false → (k.sreg (field w 3 5) + 2 ^ 32 - s.phaseOf (field w 0 3)) % 2 ^ 32 = 0 →
      exec (.waitph c) s = .next ((s.advance c).settle c)) ∧
    (∀ d, let mark := s.cfg 0x2320 (field w 8 6 + 1)
      Issues s c 0x23 w → bit w 48 = true → (field mark 0 32 + 2 ^ 32 - s.phaseOf (field w 0 3)) % 2 ^ (32 - field mark 36 4) = d →
        exec (.waitph c) s = .next (if d = 0 then (s.advance c).settle c
          else ((s.advance c).enter c 0 false false [] (.waitph (field w 0 3) d 0)).settle c)))

/-- EMIT and LOG, and the fault path: with no op in flight the core enters its handler with the fault word in s31, or halts. The model's own choices
it rests on: log 27, 152. -/
def Obligations.OutputOpsAndFaultPath : Prop :=
  ∀ (s : State) (c w : Nat),
    let k := s.core c
    let kb := kbOf w
    (Issues s c 0x28 w → bit w 48 = false → 0 < k.bound kb →
      exec (.emit c) s = .next (((s.advance c).enter c (syncOf w) false false []
        (.emitDac (field w 39 4) (k.bound kb) ((lineOf w + k.offset kb) % 8192) (field w 34 5))).settle c)) ∧
    (Issues s c 0x28 w → bit w 48 = false → k.bound kb = 0 → exec (.emit c) s = .next (((s.advance c).enterDone c (syncOf w)).settle c)) ∧
    (Issues s c 0x28 w → bit w 48 = true → (∀ h, k.head k.seq.bank = some h → h.sentDeadline = 0) →
      exec (.emit c) s = .next (({ ((s.advance c).enter c (syncOf w) false false [] (.emitTrip (field w 17 5))) with
        net := { s.net with decisions := s.net.decisions ++
          [⟨c, k.seq.nextSeq, field w 17 5, (if bit w 50 then k.sreg (field w 23 5) != 0 else bit w 22), none, bit w 49⟩] } } : State).settle c)) ∧
    (∀ h, Issues s c 0x28 w → bit w 48 = true → k.head k.seq.bank = some h → h.sentDeadline ≠ 0 →
      exec (.emit c) s = .next (({ ((s.advance c).enter c (syncOf w) false false [] (.emitTrip (field w 17 5))) with
        net := { s.net with decisions := s.net.decisions ++
          [⟨c, k.seq.nextSeq, field w 17 5, (if bit w 50 then k.sreg (field w 23 5) != 0 else bit w 22),
            if bit w 49 then some (k.seq.stamp + h.sentDeadline) else none, bit w 49⟩] } } : State).settle c)) ∧
    (Issues s c 0x29 w →
      exec (.log c) s = .next (((s.advance c).enter c (syncOf w) false false []
        (.log (field w 34 10) (k.bound kb) ((lineOf w + k.offset kb) % 8192) false)).settle c)) ∧
    (∀ (f : FaultInfo) (h : PlanHeader), k.seq.faultPend = some f → k.state = .running → k.seq.ops = [] → k.head k.seq.bank = some h → bit h.flags 1 = true →
      k.seq.inHandler = false →
      exec (.faultPath c) s = .next (s.modSeq c (fun q =>
        { q.setS 31 f.word with pc := h.faultEntry, faultPend := none, inHandler := true, stopReq := none }))) ∧
    (∀ (f : FaultInfo) (h : PlanHeader), k.seq.faultPend = some f → k.state = .running → k.seq.ops = [] → k.head k.seq.bank = some h →
      bit h.flags 1 = false ∨ k.seq.inHandler = true →
      exec (.faultPath c) s = .next (s.halt c f.index f.bank 0x2000))

/-! ### Ops in flight, mesh, sync -/

/-- A write of plain memory: its bytes read as written and every other byte reads as before. -/
def Obligations.PokeWritesItsBytes : Prop :=
  ∀ (s : State) (a x : Nat) (bs : List Byte), s.memOk = true →
    Mem.read (s.poke a bs).mem x = (if a ≤ x ∧ x < a + bs.length then bs.getD (x - a) 0 else Mem.read s.mem x)

/-- R51: every read's corrected value of a physical column, from its converter code and the committed entry's GAIN and OFFSET, rounded to nearest
with ties away from zero and clamped, a clamp being a correction clip. -/
def Obligations.ReadsAreCorrected : Prop :=
  (∀ (g : Engine) (x : Cond) (scale budget draw c : Nat) (drive : List (Nat × Int)), c < 136 → g.regs.active.length = 136 →
    let e := g.regs.active.getD c Corr.ideal
    let y := (readColumns g x scale budget drive draw).getD c ⟨0, false, false⟩
    ∃ code : Int, -512 ≤ code ∧ code ≤ 511 ∧
      let v := roundAway (code * e.gain) 4096 + e.offset
      y.r = max (-4096) (min 4095 v) ∧ (y.corr = true ↔ v < -4096 ∨ 4095 < v) ∧ (y.adc = true ↔ code = -512 ∨ code = 511)) ∧
  (∀ (n : Int) (d : Nat), 0 < d →
    2 * (roundAway n d * d - n).natAbs ≤ d ∧ (2 * (roundAway n d * d - n).natAbs = d → n.natAbs ≤ (roundAway n d * d).natAbs)) ∧
  (∀ w : Nat, ((corrOf w).gain : Int) = w / 65536 % 65536 ∧ (corrOf w).offset = toSigned 16 (w % 65536))

/-- One read slot of an MVM that has reads to make on the engine: the reads are counted, fresh free values are drawn for each conversion, and the
MVM keeps what is left to read; the last slot forms its row, with its clips and its LOWCONF mark (R52-R56, R77); no byte of memory and no other
engine changes. A tile row commits in issue order (R101-R103): where none of the op's rows may commit yet nothing changes; the first that may,
whatever the rows before it wait for, is written as `commitRow` says, and with its last row the op is done. The model's own choices it rests on: log
6, 11, 32, 97, 109, 113. -/
def Obligations.ReadsAndRowCommits : Prop :=
  (∀ (s : State) (c e : Nat) (o : Op) (m : MvmOp) (rg : ReadGroup) (rest : List ReadGroup),
    (s.core c).seq.ops.find? (fun o => o.busyOn e) = some o → o.body = .mvm m → m.todo = rg :: rest →
    s.atbRamps c = false → (rg.opens && (s.eng c e).regs.corrCommit) = false →
    let x := readWithCheck (s.eng c e) (s.cond c e) m rg s.draws
    ∃ t : State, exec (.readSlot c e) s = .next t ∧
      (t.eng c e).regs.readCnt = ((s.eng c e).regs.readCnt + x.made) % 2 ^ 64 ∧ t.draws = s.draws + 136 * x.made ∧
      (rest ≠ [] →
        (t.core c).seq.ops = (s.core c).seq.ops.map (fun y => if y.seq = o.seq then { y with body := .mvm (m.afterRead rg rest x) } else y)) ∧
      (rest = [] →
        let fin := (m.afterRead rg [] x).finish (s.eng c e) (isSentinel c)
        (t.core c).seq.ops = (s.core c).seq.ops.map (fun y =>
          if y.seq = o.seq then { y with body := .mvm fin, rows := mvmRows fin (s.eng c e).wfmt } else y)) ∧
      (∀ k, k ≠ engKey c e → Tab.find t.engines k = Tab.find s.engines k) ∧ t.mem = s.mem ∧ t.net = s.net ∧
      (x.failed = 0 → t.counters = s.counters)) ∧
  (∀ (s : State) (c q : Nat) (o : Op), s.op c q = some o → o.formed = true → o.rows ≠ [] →
    ((∀ w, w ∈ o.rows → (s.core c).mayCommit q w.tile w.row = false) → exec (.tileWriteCommit c q) s = .next s) ∧
    (∀ w, o.rows.find? (fun w => (s.core c).mayCommit q w.tile w.row) = some w →
      ∃ u : State, exec (.tileWriteCommit c q) s = .next (if o.rows.erase w = [] then u.rowsDone c q else u.settle c) ∧
        u.mem = (s.commitRow c w).mem ∧ (u.core c).tags = ((s.commitRow c w).core c).tags ∧ u.engines = s.engines ∧
        u.net = s.net ∧ u.outs = s.outs))

/-- DRAIN: it starts once every earlier write of its tile has committed, no earlier op still clears a row of it and its operands are written, clears
its rows where CLEAR is set, and completes by writing its output lines. The DOU takes its ops in order (R114): the head starts once its operands are
written; a VOP then writes its results, a DMM hands its rows to the write-back queue. The model's own choices it rests on: log 7, 13, 14, 31, 97,
108, 132, 133, 134, 135. -/
def Obligations.DrainAndDouComplete : Prop :=
  (∀ (s : State) (c q : Nat) (o : Op) (d : DrainOp),
    s.op c q = some o → o.body = .drain d →
    let k := s.core c
    let outs := (List.range d.outRows).flatMap (fun j => (List.range 128).map (fun l => s.drainOut c d j l))
    let bad := s.poisoned (accAddr c d.tile d.row0 0) (512 * d.n) || o.readBytes.any (fun r => s.abPoisoned c r.1 0 r.2)
    (d.started = false → k.tileFree q d.tile = true → k.rowsOpen q d.tile d.row0 d.n d.clear = true →
      k.mayRead q o.reads = true →
      let z := s.modOp c q (fun o =>
        { o with body := .drain { d with started := true },
                 out := [(d.dest, (outs.map (fun x => toLE (fmtBytes d.ofmt) x.1)).flatten)],
                 sat := (List.range d.n).any (fun i => (k.tag d.tile (d.row0 + i)).accSat) || outs.any (·.2),
                 status := if bad then 4 else o.status })
      exec (.drainStart c q) s = .next
        ((if d.clear then (List.range d.n).foldl (fun s i => s.clearRow c d.tile (d.row0 + i)) z else z).settle c)) ∧
    (d.started = false → k.tileFree q d.tile = false → exec (.drainStart c q) s = .next s) ∧
    (d.started = true → k.mayWrite q o.writes = true →
      exec (.drainComplete c q) s = .next ((o.out.foldl (fun s x => s.abWrite c x.1 x.2) s).completeOp c o 0)) ∧
    (d.started = false → exec (.drainComplete c q) s = .next s)) ∧
  (∀ (s : State) (c : Nat) (o : Op), (s.core c).douHead = some o →
    let k := s.core c
    let st := if o.readBytes.any (fun r => s.abPoisoned c r.1 0 r.2) then 4 else o.status
    (∀ d : DmmOp, o.body = .dmm d → d.started = false → k.mayRead o.seq o.reads = true →
      exec (.douOpStart c) s = .next ((s.modOp c o.seq (fun o =>
        { o with body := .dmm { d with started := true }, rows := s.dmmRows c d, status := st })).settle c)) ∧
    (∀ v : VopOp, o.body = .vop v → v.started = false → k.mayRead o.seq o.reads = true →
      exec (.douOpStart c) s = .next ((s.modOp c o.seq (fun o =>
        { o with body := .vop { v with started := true },
                 out := [(v.dLine, ((s.vopResult c v).map (fun x => toLE (fmtBytes v.dfmt) x.1)).flatten)],
                 sat := (s.vopResult c v).any (·.2), status := st })).settle c)) ∧
    (∀ d : DmmOp, o.body = .dmm d → d.started = true → o.rows ≠ [] →
      exec (.douOpComplete c) s = .next (s.modOp c o.seq (fun o => { o with body := .dmm { d with finished := true } }))) ∧
    (∀ v : VopOp, o.body = .vop v → v.started = true → s.op c o.seq = some o → k.mayWrite o.seq o.writes = true →
      exec (.douOpComplete c) s = .next ((o.out.foldl (fun s x => s.abWrite c x.1 x.2) s).completeOp c o 0)))

/-- LOAD and STORE move their lines when the scoreboard lets them (R105, R111, R146): 64 bytes a line, at 64 times the hub SRAM line or at the
activation-buffer line. They wait for a retrain of the hub bridge (R313); across a closed bridge end a LOAD reads poison and a STORE is dropped and
counted (R303), each with status 4 (log 111). Lines that came in poisoned flits are poisoned where they go (R312). A frame goes into slot n mod
slots of its window and ARRIVED rises by one (R108, R240). The model's own choices it rests on: log 7, 33, 111, 146, 159, 160, 162. -/
def Obligations.MovesAndFramesComplete : Prop :=
  (∀ (s : State) (c q : Nat) (o : Op), s.op c q = some o →
    let k := s.core c
    let d := dieOf c
    (∀ n hub line, o.body = .load n hub line → k.mayWrite q [(line, n)] = true →
      (s.pathStalls 4 d = true → exec (.moveComplete c q) s = .next s) ∧
      (s.pathStalls 4 d = false → s.pathShut 4 d ≠ none →
        exec (.moveComplete c q) s = .next ((s.abWrite c line ((List.range (64 * n)).map poisonByte)).completeOp c o 4)) ∧
      (s.pathStalls 4 d = false → s.pathShut 4 d = none → s.pathUnmet 4 d = false →
        let z := ((s.crossed 4 d (1 + n)).abWrite c line (s.bytes (hub * 64) (n * 64))).poisonLines o.hurt (fun s i => s.poisonLine c (line + i))
        (s.poisoned (hub * 64) (n * 64) = false → exec (.moveComplete c q) s = .next (z.completeOp c o 0)) ∧
        (s.poisoned (hub * 64) (n * 64) = true → exec (.moveComplete c q) s = .next ((z.setCause 5).completeOp c o 4)))) ∧
    (∀ n hub line, o.body = .store n hub line → k.mayRead q o.reads = true →
      (s.pathStalls d 4 = true → exec (.moveComplete c q) s = .next s) ∧
      (∀ x, s.pathStalls d 4 = false → s.pathShut d 4 = some x → exec (.moveComplete c q) s = .next ((s.dieDrop x).completeOp c o 4)) ∧
      (s.pathStalls d 4 = false → s.pathShut d 4 = none → s.pathUnmet d 4 = false →
        exec (.moveComplete c q) s = .next ((((s.crossed d 4 (1 + n)).poke (hub * 64) (s.abBytes c line 0 (n * 64))).poisonLines o.hurt
          (fun s i => s.poisonAt ((hub + i) * 64))).completeOp c o (if s.abPoisoned c line 0 (n * 64) then 4 else 0)))) ∧
    (∀ n tile row line, o.body = .storeRows n tile row line → k.rowsWritten q tile row n = true →
      k.rowsOpen q tile row n false = true → k.mayWrite q o.writes = true →
      exec (.moveComplete c q) s = .next ((s.abWrite c line (s.bytes (accAddr c tile row 0) (512 * n))).completeOp c o
        (if s.poisoned (accAddr c tile row 0) (512 * n) then 4 else 0)))) ∧
  (∀ (s : State) (c w : Nat) (m : FrameMsg) (rest : List FrameMsg),
    let k := s.core c
    let f := k.wins.getD w ⟨0, 0, 0⟩
    let a := syncCount (s.sync (winArrived c f))
    takeFrame c w s.net.frames = some (m, rest) → s.pathStalls 4 (dieOf c) = false → s.pathShut 4 (dieOf c) = none →
    s.pathUnmet 4 (dieOf c) = false → field f.word 13 13 ≠ 0 → k.ctx ≠ none → m.epoch ≠ 0 → m.epoch = k.comm.epoch → m.hurt = [] →
    k.comm.crossing = true → (a + 2 ^ 24 - syncCount (s.sync (winConsumed c f))) % 2 ^ 24 < field f.word 13 13 →
    m.bytes.length ≤ 64 * field f.word 26 6 →
    exec (.frameWindowWrite c w) s = .next (((({ (s.crossed 4 (dieOf c) m.flits) with net := { s.net with frames := rest } } : State).abWrite c
      (field f.word 0 13 + f.next % field f.word 13 13 * field f.word 26 6) m.bytes).modCore c (fun k =>
        { k with wins := k.wins.set w { f with next := f.next + 1, stamp := m.stamp } })).applySync
      ⟨winArrived c f, false, 1, 0, false, false, 0, none, false⟩))

/-- A router refuses with status 3 a core without a role, with status 4 while its crossing is closed, and with status 3 an epoch that is 0 or not
its core's; anything else it executes (R126, R127). Messages of one pair arrive in the order sent, whatever their kind: the next one reaches its
core, is refused and answered, or goes back as a result. A closed bridge end on the way drops it, answered with status 4 (log 111); a bridge in its
retrain holds it. A result that comes poisoned gives its SEND status 4. The model's own choices it rests on: log 24, 29, 110, 111, 112, 147, 159,
160, 162. -/
def Obligations.MessagesReachTheirCore : Prop :=
  (∀ (s : State) (m : Msg),
    let k := s.core m.dst
    (k.ctx = none → s.routerStatus m = 3) ∧
    (k.ctx ≠ none → k.comm.crossing = false → s.routerStatus m = 4) ∧
    (k.ctx ≠ none → k.comm.crossing = true → m.destEpoch = 0 ∨ m.destEpoch ≠ k.comm.epoch → s.routerStatus m = 3) ∧
    (k.ctx ≠ none → k.comm.crossing = true → m.destEpoch ≠ 0 → m.destEpoch = k.comm.epoch → s.routerStatus m = 0)) ∧
  (∀ (s : State) (src dst : Nat) (m : Msg) (rest : List Msg), nextMsg src dst s.net.msgs = some (m, rest) →
    (m.kind ≠ 0 → exec (.dataMessage src dst) s = .next s) ∧
    (m.kind ≠ 1 → exec (.credit src dst) s = .next s) ∧
    (s.pathStalls (dieOf src) (dieOf dst) = true →
      exec (.dataMessage src dst) s = .next s ∧ exec (.credit src dst) s = .next s) ∧
    (∀ d, m.kind = 0 → s.pathStalls (dieOf src) (dieOf dst) = false → s.pathShut (dieOf src) (dieOf dst) = some d →
      exec (.dataMessage src dst) s = .next (((s.setMsgs rest).bump (0x2210 + d) 6).answer m 4)) ∧
    (s.pathStalls (dieOf src) (dieOf dst) = false → s.pathShut (dieOf src) (dieOf dst) = none →
      s.pathUnmet (dieOf src) (dieOf dst) = false →
      let z := (s.crossed (dieOf src) (dieOf dst) m.flits).setMsgs rest
      (m.kind = 0 → s.routerStatus m = 0 → exec (.dataMessage src dst) s = .next ((z.deliverData m).answer m 0)) ∧
      (m.kind = 0 → s.routerStatus m ≠ 0 →
        exec (.dataMessage src dst) s = .next ((z.countRefusal m (s.routerStatus m)).answer m (s.routerStatus m))) ∧
      (m.kind = 1 → s.routerStatus m = 0 →
        exec (.credit src dst) s = .next ((z.modComm m.dst (fun x =>
          { x with credits := x.credits ++ [⟨m.src, m.chan, m.aux, m.line, m.port, !m.hurt.isEmpty⟩] })).settle m.dst)) ∧
      (m.kind = 1 → s.routerStatus m ≠ 0 →
        exec (.credit src dst) s = .next ((z.countRefusal m (s.routerStatus m)).answer m (s.routerStatus m))) ∧
      (∀ (q : Nat) (o : Op) (a b n l : Nat) (st overs : Bool),
        takeMsg (fun m => m.kind == 2 && m.dst == dst && m.op == q) s.net.msgs = some (m, rest) → m.src = src →
        m.srcEpoch = (s.core dst).comm.epoch → m.aux ≠ 3 → s.op dst q = some o → o.body = .send a b n l st overs →
        exec (.deliveryResult dst q) s = .next (z.completeOp dst o (if m.hurt ≠ [] then 4 else if overs then 2 else m.aux)))))

/-- An update is applied at its store (R119-R121): the object's word becomes what the update makes of it, every other byte of memory reads as
before, and WAITs in flight see the new word. An update that comes poisoned poisons the word. The store answers a WAIT whose target has been
reached, or an LDK; GTC_REACHES_TARGET completes a WAITT whose time has come. Across a closed bridge end an LDK reads poison, and both end with
status 4 (R303); an LDK whose answer came poisoned reads poison (R312). (COUNT - target) mod 2^24 < 2^23. The decision watchdog (R226): its expiry
is recorded and counted, and raises FAULT_CAUSE [1] where WD_FAULTN is set; before SENT_WD has passed nothing happens. The model's own choices it
rests on: log 9, 55, 103, 159, 160. -/
def Obligations.SyncObjectsAndWaits : Prop :=
  (∀ (s : State) (obj : Nat) (u : SyncUpd) (rest : List SyncUpd),
    takeSync obj s.net.syncs = some (u, rest) → u.sig = none → s.memOk = true →
    s.pathStalls u.ends.1 u.ends.2 = false → s.pathShut u.ends.1 u.ends.2 = none →
    s.storeUnmet u.ends.1 u.ends.2 = false →
    (u.hurt = true → exec (.syncUpdate obj) s =
      .next (({ (s.crossed u.ends.1 u.ends.2 1) with net := { s.net with syncs := rest } } : State).poisonWord (syncAddr obj / 8 * 8))) ∧
    (u.hurt = false → s.poisoned (syncAddr obj) 4 = false →
      ∃ t : State, exec (.syncUpdate obj) s = .next t ∧ t.sync obj = syncAfter (s.sync obj) u % 2 ^ 32 ∧ t.net.syncs = rest ∧
        (∀ a, a < syncAddr obj ∨ syncAddr obj + 4 ≤ a → Mem.read t.mem a = Mem.read s.mem a) ∧
        (∀ c, t.core c = (s.core c).seeSync obj (syncAfter (s.sync obj) u)) ∧ t.engines = s.engines ∧ t.outs = s.outs)) ∧
  (∀ (s : State) (c : Nat) (o : Op),
    ((s.core c).seq.ops.find? (fun o => o.asks.isSome) = some o →
      (∀ obj t win hit, o.body = .wait obj t win hit → s.pathStalls (obj / 65536) (dieOf c) = false →
        s.storeUnmet (dieOf c) (obj / 65536) = false →
        let z := s.crossed (obj / 65536) (dieOf c) 1
        (∀ w, s.pathShut (obj / 65536) (dieOf c) = none → hit = some w → exec (.syncResponse c) s = .next (z.waitDone c o obj w win)) ∧
        (s.pathShut (obj / 65536) (dieOf c) = none → hit = none → s.poisoned (syncAddr obj) 4 = true ∨ reached (s.sync obj) t = true →
          exec (.syncResponse c) s = .next (z.waitDone c o obj (s.sync obj) win)) ∧
        (s.pathShut (obj / 65536) (dieOf c) = none → hit = none → s.poisoned (syncAddr obj) 4 = false → reached (s.sync obj) t = false →
          exec (.syncResponse c) s = .next s) ∧
        (s.pathShut (obj / 65536) (dieOf c) ≠ none → exec (.syncResponse c) s = .next (s.completeOp c o 4))) ∧
      (∀ f d obj, o.body = .ldkSync f d obj → s.pathStalls (obj / 65536) (dieOf c) = false →
        s.storeUnmet (dieOf c) (obj / 65536) = false →
        (s.pathShut (obj / 65536) (dieOf c) = none → s.poisoned (syncAddr obj) 4 = false →
          exec (.syncResponse c) s =
            .next (((s.crossed (obj / 65536) (dieOf c) 1).modSeq c (fun q =>
              q.setReg f d (if o.hurt = [] then s.sync obj else 0xDEADDEAD))).completeOp c o 0)) ∧
        (s.pathShut (obj / 65536) (dieOf c) ≠ none →
          exec (.syncResponse c) s = .next ((s.modSeq c (fun q => q.setReg f d 0xDEADDEAD)).completeOp c o 4)))) ∧
    ((s.core c).seq.ops.find? (fun o => match o.body with | .waitt t => decide (t ≤ s.time.gtc) | _ => false) = some o →
      exec (.gtcReachesTarget c) s = .next (s.completeOp c o 0))) ∧
  (∀ w t : Nat, reached w t = true ↔ ((w % 2 ^ 24 : Int) - (t % 2 ^ 24 : Int)) % 2 ^ 24 < 2 ^ 23) ∧
  (∀ (s : State) (c since wd : Nat), (s.core c).watchdog = some (since, wd) →
    (s.time.up - since < wd → exec (.sentWdExpiry c) s = .next s) ∧
    (wd ≤ s.time.up - since → s.cfg 0x2330 3 ≠ 1 →
      exec (.sentWdExpiry c) s = .next (((s.modCore c (fun k => { k with watchdog := none })).record (coreSource c) 0x0021 [1, wd]).bump 0x2330 1)) ∧
    (wd ≤ s.time.up - since → s.cfg 0x2330 3 = 1 →
      exec (.sentWdExpiry c) s =
        .next ((((s.modCore c (fun k => { k with watchdog := none })).record (coreSource c) 0x0021 [1, wd]).bump 0x2330 1).setCause 1)))

/-! ### Core memory, engines in service -/

/-- Writes of the core's registers through its local space, with the crossing open (R60, R61, R98); a write is dropped and counted at a closed end
of a bridge on the way, and at a closed crossing for the core and for its die or the hub (R303); it may be lost at a RATIO crossing whose ratio is
not met (R290). A host write to the activation buffer of a core with the way to it open and its ratios met: the bytes go to their addresses, and
nothing else changes but the flits its bridge has passed. A host write to the accumulator of a running core is discarded and counted in HOST_DISCARD
(R98). Pending commits take effect as one change once the engine is not BUSY, and the analogue settings at the core's idle point; a tracker's update
that 1 ms has not found idle is committed on a compute engine (R71). The model's own choices it rests on: log 37, 38, 159, 160. -/
def Obligations.CoreMemoryIsWritten : Prop :=
  (∀ (s : State) (c e off v : Nat) (data : List Byte),
    let dropped := (s.bump (0x3000 + c) 0x0C).bump (if isSentinel c then 0x2200 else 0x2210 + dieOf c) (if isSentinel c then 0x0D else 6)
    let dead := fun d : Nat => s.bump (0x2210 + d) 6
    let u := s.crossed 4 (dieOf c) 2
    let open' := s.pathShut 4 (dieOf c) = none ∧ (s.core c).comm.crossing = true
    (∀ d, s.pathShut 4 (dieOf c) = some d →
      exec (.corrCommit c e) s = .next (dead d) ∧ exec (.anaCommit c) s = .next (dead d) ∧
      exec (.repairMapWrite c e v) s = .next (dead d) ∧ exec (.hostLocalWrite c off data) s = .next (dead d)) ∧
    (s.pathShut 4 (dieOf c) = none → (s.core c).comm.crossing = false →
      exec (.corrCommit c e) s = .next dropped ∧ exec (.anaCommit c) s = .next dropped ∧
      exec (.repairMapWrite c e v) s = .next dropped ∧ exec (.hostLocalWrite c off data) s = .next dropped) ∧
    (open' → s.pathUnmet 4 (dieOf c) = true → Config.ratioFate s.draws % 3 = 1 →
      exec (.anaCommit c) s = .next (s.draw.crossed 4 (dieOf c) 2)) ∧
    (open' → s.pathUnmet 4 (dieOf c) = false → s.engBusy c e = true →
      exec (.corrCommit c e) s = .next (u.modEng c e (fun g => { g with regs := { g.regs with corrCommit := true } }))) ∧
    (open' → s.pathUnmet 4 (dieOf c) = false → s.engBusy c e = false →
      ∃ t : State, exec (.corrCommit c e) s = .next t ∧
        (t.eng c e).regs.active = (s.eng c e).regs.staged ∧ (t.eng c e).regs.repair = (s.eng c e).regs.repairStaged ∧
        (t.eng c e).regs.corrCommit = false ∧ t.cores = s.cores ∧ t.mem = s.mem ∧ t.counters = s.counters) ∧
    (open' → s.pathUnmet 4 (dieOf c) = false →
      exec (.anaCommit c) s = .next (u.modCore c (fun k => { k with ana := { k.ana with pending := true } })) ∧
      exec (.repairMapWrite c e v) s = .next (u.modEng c e (fun g =>
        { g with regs := { g.regs with repairStaged := repairFields g.regs.repairStaged v } })))) ∧
  (∀ (s : State) (c off : Nat) (data : List Byte), s.pathShut 4 (dieOf c) = none → (s.core c).comm.crossing = true →
    s.pathUnmet 4 (dieOf c) = false → 0 < data.length → off + data.length ≤ 0x80000 →
    exec (.hostLocalWrite c off data) s = .next ((s.crossed 4 (dieOf c) (1 + ceilDiv data.length 64)).poke (coreBase c + off) data)) ∧
  (∀ (s : State) (c off : Nat) (data : List Byte), s.pathShut 4 (dieOf c) = none → (s.core c).comm.crossing = true →
    s.pathUnmet 4 (dieOf c) = false → (s.core c).state = .running → 0 < data.length →
    0x80000 ≤ off → off + data.length ≤ 0xC0000 →
    exec (.hostLocalWrite c off data) s = .next ((s.crossed 4 (dieOf c) (1 + ceilDiv data.length 64)).bump (0x3000 + c) 0x0F)) ∧
  (∀ (s : State) (c e : Nat),
    ((s.eng c e).regs.corrCommit = true → s.engBusy c e = false →
      ∃ t : State, exec (.corrCommitEffect c e) s = .next t ∧ (t.eng c e).regs.active = (s.eng c e).regs.staged ∧
        (t.eng c e).regs.repair = (s.eng c e).regs.repairStaged ∧ (t.eng c e).regs.corrCommit = false ∧
        t.cores = s.cores ∧ t.mem = s.mem) ∧
    (s.engBusy c e = true → exec (.corrCommitEffect c e) s = .next s) ∧
    ((s.core c).seq.ops = [] → (s.core c).ana.pending = true →
      exec (.anaCommitEffect c) s = .next (s.modCore c (fun k => { k with ana := { k.ana with
        scale := k.ana.scaleStaged, budget := k.ana.budgetStaged, pending := false, thresh := s.cfg 0x2800 6, repeats := s.cfg 0x2800 7 } }))) ∧
    ((s.core c).seq.ops ≠ [] → exec (.anaCommitEffect c) s = .next s) ∧
    (isSentinel c = false → (s.eng c e).trackWait = true → s.engBusy c e = true → (s.eng c e).trackAt.getD 0 + 1000000 ≤ s.time.up →
      exec (.trackerForcedCommit c e) s = .next (s.setEng c e { s.eng c e with trackWait := false, regs := { (s.eng c e).regs with corrCommit := true } })) ∧
    (isSentinel c = true ∨ s.time.up < (s.eng c e).trackAt.getD 0 + 1000000 → exec (.trackerForcedCommit c e) s = .next s))

/-- The drift tracker moves T_e towards the mean of its estimates by at most 64 (1/512), never out of 0 to 0xFFFF. A tracker update of an engine
with estimates, once TRACK_PERIOD has passed since its last: T_e moves, its gains are staged for the next idle instant and the estimates are used
up; without estimates the update is counted as missed. An engine in service whose T_e falls below RENEW_FLOOR is scheduled for renewal (R94). Before
the period has passed nothing changes. T_e of every engine goes to the hub keep once an hour, the generation before it is kept, and nothing else
changes (R73). The model's own choices it rests on: log 7, 126, 127. -/
def Obligations.TrackersTrackDrift : Prop :=
  (∀ (te : Nat) (l : List Nat), te ≤ 0xFFFF →
    trackedTe te l ≤ 0xFFFF ∧ (trackedTe te l : Int) ≤ te + 64 ∧ (te : Int) ≤ trackedTe te l + 64) ∧
  (∀ (s : State) (c e : Nat), s.cfg 0x2800 0x0D ≠ 0 → s.paused = false →
    (s.periodOver (s.eng c e).trackAt (s.cfg 0x2800 5) = false → exec (.trackUpdate c e) s = .next s) ∧
    (s.periodOver (s.eng c e).trackAt (s.cfg 0x2800 5) = true →
      ((s.eng c e).test.estimates ≠ [] →
        isSentinel c = true ∨ s.cfg 0x2800 8 ≤ trackedTe (s.eng c e).te (s.eng c e).test.estimates → s.engBusy c e = true → (s.eng c e).trackWait = false →
        ∃ t : State, exec (.trackUpdate c e) s = .next t ∧
          (t.eng c e).te = trackedTe (s.eng c e).te (s.eng c e).test.estimates ∧ (t.eng c e).test.estimates = [] ∧
          (t.eng c e).regs.staged = trackedGains (s.eng c e).base (trackedTe (s.eng c e).te (s.eng c e).test.estimates) ∧
          (t.eng c e).trackWait = true ∧ (t.eng c e).trackAt = some s.time.up ∧ (t.eng c e).regs.active = (s.eng c e).regs.active ∧
          (t.eng c e).state = (s.eng c e).state ∧ t.cores = s.cores ∧ t.mem = s.mem) ∧
      ((s.eng c e).test.estimates ≠ [] → isSentinel c = false → trackedTe (s.eng c e).te (s.eng c e).test.estimates < s.cfg 0x2800 8 →
        (s.eng c e).state = .inService → (s.eng c e).owner ≠ none → s.engBusy c e = true → (s.eng c e).trackWait = false →
        ∃ t : State, exec (.trackUpdate c e) s = .next t ∧ (t.eng c e).te = trackedTe (s.eng c e).te (s.eng c e).test.estimates ∧
          (t.eng c e).state = .renewSched) ∧
      ((s.eng c e).test.estimates = [] → (s.eng c e).trackWait = false →
        exec (.trackUpdate c e) s = .next ((s.modEng c e (fun g => { g with trackAt := some s.time.up })).bump 0x2801 9)))) ∧
  (∀ s : State,
    (s.time.up < s.keep.teAt + 3600000000000 → exec .tePersist s = .next s) ∧
    (s.keep.teAt + 3600000000000 ≤ s.time.up → exec .tePersist s =
      .next { s with keep := { s.keep with
        te := s.engines.foldl (fun t x => Tab.set t x.1 x.2.te) s.keep.te, prevTe := s.keep.te, teAt := s.time.up } }))

/-- A test read begins on a serving engine that is not BUSY and whose core is on and not on its pilot, the first of a round once TEST_PERIOD has
passed since the last round began; its values join the round at the next test command, and the fourth completes the round and is judged. Once a
TEST_PERIOD the health score is formed: 255 less the four penalties, each within its limit (R91), so never below 15; on an engine that serves a
context the state follows it. A health score only makes an engine's state worse: what it leads to is the state it was in, a scheduled retirement
from service or renewal, or below-now. The model's own choices it rests on: log 7, 100, 101, 125, 126. -/
def Obligations.HealthFollowsTestRounds : Prop :=
  (∀ (s : State) (c e : Nat),
    ((s.eng c e).serving = true → s.engBusy c e = false → (s.core c).state ≠ .off → s.onPilot c = false →
      (s.eng c e).test.running = none → (s.eng c e).test.reads.length < 4 →
      (s.eng c e).test.reads ≠ [] ∨ s.periodOver (s.eng c e).test.began (s.cfg 0x2800 4) = true →
      exec (.testRead c e) s = .next ((s.setEng c e { s.eng c e with test := { (s.eng c e).test with
        running := some (s.time.up, testValues (s.eng c e) (s.cond c e) (s.core c).ana.scale (s.eng c e).test.reads.length s.draws),
        began := if (s.eng c e).test.reads = [] then some s.time.up else (s.eng c e).test.began } }).drawN 136)) ∧
    (s.engBusy c e = true ∨ ((s.eng c e).test.reads = [] ∧ s.periodOver (s.eng c e).test.began (s.cfg 0x2800 4) = false) →
      (s.eng c e).test.running = none → ∃ t : State, exec (.testRead c e) s = .next t ∧
      t.eng c e = s.eng c e ∧ t.draws = s.draws ∧ t.cores = s.cores ∧ t.mem = s.mem) ∧
    ((s.eng c e).test.running = none → 4 ≤ (s.eng c e).test.reads.length →
      exec (.testRoundComplete c e) s =
        .next ((s.setEng c e ((s.eng c e).judge (s.eng c e).test.reads (s.cfg 0x2800 0x0C))).maskRetire c e)) ∧
    (∀ r ys, (s.eng c e).test.running = some (r, ys) → (s.eng c e).test.reads.length < 3 →
      exec (.testRoundComplete c e) s = .next (s.setEng c e { s.eng c e with test := { (s.eng c e).test with
        reads := (s.eng c e).test.reads ++ [ys], running := none } }))) ∧
  (∀ (s : State) (c e : Nat),
    let st := if (s.eng c e).serving then
        scoreState (s.eng c e).state (255 - sumNat ((s.eng c e).penalties s.time.up)) (s.cfg 0x2800 9) (s.cfg 0x2800 0x0A)
      else (s.eng c e).state
    (s.periodOver (s.eng c e).health.scored (s.cfg 0x2800 4) = false → exec (.healthScore c e) s = .next s) ∧
    (s.periodOver (s.eng c e).health.scored (s.cfg 0x2800 4) = true →
      ∃ t : State, exec (.healthScore c e) s = .next t ∧
        (t.eng c e).health.score = 255 - sumNat ((s.eng c e).penalties s.time.up) ∧ 15 ≤ (t.eng c e).health.score ∧
        (t.eng c e).health.scored = some s.time.up ∧ (t.eng c e).state = st ∧
        (t.eng c e).pairs = (s.eng c e).pairs ∧ t.cores = s.cores ∧ t.mem = s.mem ∧ (st = (s.eng c e).state → t.ash = s.ash))) ∧
  (∀ (st : EngState) (h sched now : Nat),
    (scoreState st h sched now = st ∨ scoreState st h sched now = .retireSched ∨ scoreState st h sched now = .belowNow) ∧
    (st = .spare ∨ st = .dead ∨ st = .belowNow → scoreState st h sched now = st) ∧
    (h < now → st = .inService ∨ st = .renewSched ∨ st = .retireSched → scoreState st h sched now = .belowNow) ∧
    (now ≤ h → h < sched → st = .inService ∨ st = .renewSched → scoreState st h sched now = .retireSched))

/-- A survey slice of an engine that may be stoked, in its turn, adds the devices out of tolerance to the flagged ones and its block is surveyed and
no longer urgent or overdue. A repair slice of a block gives its pulses to the flagged devices of its rows, by what the damper has free in its turn:
those that end in tolerance are flagged no more, and with none left the block counts as repaired; with nothing flagged it pulses nothing. A block is
overdue once SURVEY_PERIOD has passed without a survey (R85-R88). The damper grants a pulse group within its limit (R205), never while the
programming rail is lost, and in the order of R128: the lowest engine key among the requests that fit, groups and repair slices alike, unless one
has lost 16 arbitrations. A group that ran gives its current back, and the engine's job goes on; on an engine that an MVM holds it waits (R24). A
column is repaired when it is due, or when it waits since it was due; any other stays as it is. A repair that finds no repair column free marks the
column; one whose block is in staging begins the programming of the lowest free repair column from it; otherwise the block is asked for and the
action waits (R92, R95). The model's own choices it rests on: log 7, 12, 39, 42, 125, 128, 129, 136. -/
def Obligations.StokingDamperRepairs : Prop :=
  (∀ (s : State) (c e b : Nat),
    let g := s.eng c e
    let mine := fun k : Nat => devRow k / 64 == b
    let z := s.sliceOf c e (s.sliceRoom c e) (g.stoke.flagged.filter mine)
    (s.stokable c e = false → exec (.surveySlice c e b) s = .next s ∧ exec (.repairSlice c e b) s = .next s) ∧
    (s.surveyTurn c e b = false → exec (.surveySlice c e b) s = .next s) ∧
    (s.stokable c e = true → b < 16 → s.surveyTurn c e b = true →
      ∃ t : State, exec (.surveySlice c e b) s = .next t ∧
        (t.eng c e).stoke.flagged = g.stoke.flagged ++ s.surveyFinds c e b ∧
        (∀ k, k ∈ s.surveyFinds c e b → k ∉ g.stoke.flagged ∧ Tab.find g.stuck k = none ∧
          ∃ n, outOfTol g.te (g.level k) (deviceCode g (s.cond c e) k (s.draws + n)) (s.cfg 0x2800 2) = true) ∧
        (t.eng c e).stoke.urgent = g.stoke.urgent.erase b ∧ (t.eng c e).stoke.overdue = g.stoke.overdue.erase b ∧
        Tab.find (t.eng c e).stoke.lastAt b = some s.time.up ∧
        (t.eng c e).pairs = g.pairs ∧ t.cores = s.cores ∧ t.mem = s.mem) ∧
    (s.stokable c e = true → b < 8 → z.job.stuck = [] →
      ∃ t : State, exec (.repairSlice c e b) s = .next t ∧
        (t.eng c e).stoke.flagged = g.stoke.flagged.filter (fun k => !mine k) ++ z.left ∧
        (z.left = [] → b ∈ (t.eng c e).stoke.repaired) ∧ (z.left ≠ [] → (t.eng c e).stoke.repaired = g.stoke.repaired) ∧
        (engKey c e ∈ t.damper.stokes ↔ z.left ≠ [] ∧ z.given = 0) ∧ t.damper.now = s.damper.now ∧
        (t.eng c e).pairs = g.pairs ∧ (t.eng c e).stuck = g.stuck ∧ t.cores = s.cores ∧ t.mem = s.mem ∧ t.net = s.net) ∧
    (s.stokable c e = true → b < 8 → (∀ k ∈ g.stoke.flagged, devRow k / 64 ≠ b) →
      ∃ t : State, exec (.repairSlice c e b) s = .next t ∧ (t.eng c e).stoke.flagged = g.stoke.flagged ∧
        b ∈ (t.eng c e).stoke.repaired ∧ (t.eng c e).pairs = g.pairs ∧ t.draws = s.draws + 1 ∧ t.damper.now = s.damper.now ∧
        t.cores = s.cores ∧ t.mem = s.mem) ∧
    (s.stoked c e = true → b < 16 → b ∉ g.stoke.overdue →
      let last := match Tab.find g.stoke.lastAt b with | some t => t | none => g.prog.2
      (1000000000 * s.cfg 0x2800 3 ≤ s.time.up - last →
        exec (.surveyOverdue c e b) s = .next (s.modEng c e (fun g => { g with stoke := { g.stoke with overdue := g.stoke.overdue ++ [b] } }))) ∧
      (s.time.up - last < 1000000000 * s.cfg 0x2800 3 → exec (.surveyOverdue c e b) s = .next s))) ∧
  (∀ (s : State) (c e i : Nat) (j : ProgJob), (s.eng c e).job = some j →
    let key := engKey c e
    let z := if (Tab.find s.damper.waiting key).isSome then s
      else { s with damper := { s.damper with waiting := Tab.set s.damper.waiting key s.time.up } }
    (s.paused = false → s.asks key = some i → z.damperTurn = some key →
      ∃ t : State, exec (.damperGrant c e) s = .next t ∧ t.damper.now = s.damper.now + i ∧ t.damper.now ≤ s.damperLimit ∧
        s.damper.railOk = true ∧ Tab.find t.damper.granted key = some i ∧ (t.eng c e).job = some { j with granted := true } ∧
        t.cores = s.cores ∧ t.mem = s.mem) ∧
    (s.paused = false → s.asks key = some i → z.damperTurn ≠ some key → exec (.damperGrant c e) s = .next z.markBudget) ∧
    (s.asks key = none → exec (.damperGrant c e) s = .next s) ∧
    (z.damperTurn = some key → (∀ k ∈ z.ready, Tab.get 0 z.damper.losses k < 16) → ∀ k ∈ z.ready, key ≤ k) ∧
    (∀ k, k ∈ z.ready ↔ (k ∈ z.damper.waiting.map (·.1) ∧ z.fits k = true) ∨ (k ∈ z.damper.stokes ∧ z.sliceFits k = true)) ∧
    (j.granted = true → s.engBusy c e = false →
      ∃ t : State, exec (.pulseGroup c e) s = .next t ∧
        t.damper.now = s.damper.now - Tab.get 0 s.damper.granted key ∧ t.draws = s.draws + (j.group (s.eng c e)).length ∧
        (∃ j', (t.eng c e).job = some j' ∧ j'.granted = false ∧ j'.goal = j.goal ∧ j'.use = j.use) ∧
        (t.eng c e).pairs = (s.eng c e).pairs ∧ t.cores = s.cores ∧ t.mem = s.mem ∧ t.counters = s.counters) ∧
    (j.granted = false ∨ s.engBusy c e = true → exec (.pulseGroup c e) s = .next s)) ∧
  (∀ (s : State) (c e col : Nat), s.paused = false → isSentinel c = false → (s.eng c e).serving = true → (s.eng c e).job = none → col < 128 →
    (s.eng c e).phys col = col →
    (s.columnDue (s.eng c e) col = false → (c, e, 4 * col) ∉ s.svc.retireWait → exec (.columnRepair c e col) s = .next s) ∧
    (s.columnDue (s.eng c e) col = true ∨ (c, e, 4 * col) ∈ s.svc.retireWait →
    ((s.eng c e).regs.freeRepair = none →
      exec (.columnRepair c e col) s = .next ((s.setEng c e { s.eng c e with
        noRepair := if (s.eng c e).noRepair.contains col then (s.eng c e).noRepair else (s.eng c e).noRepair ++ [col],
        repairSched := (s.eng c e).repairSched.erase col }).endWait c e (4 * col))) ∧
    (∀ k x bank l idx, (s.eng c e).regs.freeRepair = some k → (s.eng c e).owner = some (x, bank, l) →
      ((s.ctx x).bank bank).indexOf c e = some idx →
      (∀ r, r < k → repairUsed (s.eng c e).regs.repair r = true ∨ repairUsed (s.eng c e).regs.repairStaged r = true) ∧
      (s.blockHere x bank idx = false →
        exec (.columnRepair c e col) s = .next ((s.wantBlock x bank idx).waitAction c e (4 * col) 0)) ∧
      (s.blockHere x bank idx = true →
        ∃ (t : State) (j : ProgJob), exec (.columnRepair c e col) s = .next t ∧ (t.eng c e).job = some j ∧ j.use = .column k col ∧ j.step = 1 ∧
          j.granted = false ∧ (∀ d, d ∈ j.pending ↔ d < 512 * 272 ∧ devCol d = 132 + k ∧ Tab.find (s.eng c e).stuck d = none) ∧
          (t.eng c e).regs = (s.eng c e).regs ∧ t.mem = s.mem ∧ t.cores = s.cores))))

/-! ### Contexts, images -/

/-- Who may run a context command: below its level (Engineer for LOAD, INSTALL, ABORT, UNLOAD and FORCE_START, Operator for ECLOSE, START and STOP)
it is refused; while a command of the context is in progress every one but ABORT ends in BUSY (R196, R210). LOAD and INSTALL: the bank is in
construction, its source and fetch objects kept with it (R194), the command in progress, and the installation takes the staging slots when they are
free; a context in another state ends the command with STATE (R196, R198). The model's own choices it rests on: log 34, 45, 48. -/
def Obligations.ContextCommandsBegin : Prop :=
  (∀ (s : State) (ses : Ses) (x : Nat), x < 64 → s.reachable ses = true → s.serves = true →
    ((s.session ses).level < 2 → ∀ (src : Nat) (auto : Bool), src < 2 →
      exec (.loadCmd ses x src) s = .next (s.refuse ses 0x2600 1 0x06010000) ∧
      exec (.install ses x src auto) s = .next (s.refuse ses 0x2600 1 0x06010000) ∧
      exec (.abort ses x) s = .next (s.refuse ses 0x2600 1 0x06010000) ∧
      exec (.unload ses x) s = .next (s.refuse ses 0x2600 1 0x06010000) ∧
      exec (.forceStart ses x) s = .next (s.refuse ses 0x2600 1 0x06010000)) ∧
    ((s.session ses).level < 1 → ∀ w : Nat, w < 3 →
      exec (.eclose ses x w) s = .next (s.refuse ses 0x2600 1 0x06010000) ∧
      exec (.start ses x) s = .next (s.refuse ses 0x2600 1 0x06010000) ∧
      exec (.stop ses x) s = .next (s.refuse ses 0x2600 1 0x06010000)) ∧
    (2 ≤ (s.session ses).level → (s.ctx x).cmd ≠ 0 → ∀ (src w : Nat) (auto : Bool), src < 2 → w < 3 →
      exec (.loadCmd ses x src) s = .next ((s.setStatus 10 x 1).giveReply ses ⟨0, []⟩) ∧
      exec (.install ses x src auto) s = .next ((s.setStatus 10 x 2).giveReply ses ⟨0, []⟩) ∧
      exec (.eclose ses x w) s = .next ((s.setStatus 10 x 3).giveReply ses ⟨0, []⟩) ∧
      exec (.start ses x) s = .next ((s.setStatus 10 x 5).giveReply ses ⟨0, []⟩) ∧
      exec (.stop ses x) s = .next ((s.setStatus 10 x 6).giveReply ses ⟨0, []⟩) ∧
      exec (.unload ses x) s = .next ((s.setStatus 10 x 7).giveReply ses ⟨0, []⟩) ∧
      exec (.forceStart ses x) s = .next ((s.setStatus 10 x 8).giveReply ses ⟨0, []⟩))) ∧
  (∀ (s : State) (ses : Ses) (x src : Nat) (auto : Bool), Served s ses 2 → x < 64 → src < 2 → (s.ctx x).cmd = 0 →
    let k := s.ctx x
    let may := k.sentinel = false ∧ (k.state = .stopped ∨ k.state = .running) ∧ (k.bank k.imago).state = .imago ∧
      (k.bank (1 - k.imago)).state = .empty
    (k.state = .none → ∃ t : State, exec (.loadCmd ses x src) s = .next t ∧
      (t.ctx x).state = .loading ∧ (t.ctx x).cmd = 1 ∧ (t.ctx x).bank0.state = .chrysalis ∧ (t.ctx x).bank0.source = src ∧
      (t.ctx x).bank0.link = s.fetchSet ∧ (t.ctx x).bank1.state = .empty ∧ t.cmdStatus = 14 + x * 256 + 65536 ∧
      (s.stageFree = true → s.stage.waiting = [] → t.stage.install = some x ∧ t.stage.bank = 0 ∧ t.stage.source = src ∧ t.stage.bytes = 0) ∧
      (s.stageFree = false → t.stage = { s.stage with waiting := s.stage.waiting ++ [x] }) ∧
      (∀ y, y ≠ x → t.ctx y = s.ctx y) ∧ t.cores = s.cores ∧ t.engines = s.engines ∧ t.mem = s.mem) ∧
    (k.state ≠ .none → exec (.loadCmd ses x src) s = .next ((s.setStatus 11 x 1).giveReply ses ⟨0, []⟩)) ∧
    (may → ∃ t : State, exec (.install ses x src auto) s = .next t ∧
      (t.ctx x).state = k.state ∧ (t.ctx x).cmd = 2 ∧ (t.ctx x).auto = auto ∧ ((t.ctx x).bank (1 - k.imago)).state = .chrysalis ∧
      ((t.ctx x).bank (1 - k.imago)).source = src ∧ (t.ctx x).bank k.imago = k.bank k.imago ∧ t.cmdStatus = 14 + x * 256 + 2 * 65536 ∧
      (s.stageFree = true → s.stage.waiting = [] → t.stage.install = some x ∧ t.stage.bank = 1 - k.imago ∧ t.stage.source = src) ∧
      (∀ y, y ≠ x → t.ctx y = s.ctx y) ∧ t.cores = s.cores ∧ t.engines = s.engines ∧ t.mem = s.mem) ∧
    (¬ may → exec (.install ses x src auto) s = .next ((s.setStatus 11 x 2).giveReply ses ⟨0, []⟩)))

/-- ECLOSE asks for an eclosion onto the READY bank; ABORT ends what the context has begun; each in a context not so far answers STATE (R202, R203).
START runs every core of a stopped context from its plan's entry on the imago bank; STOP asks every core to stop; UNLOAD gives all of it back
whatever the context's state, once its cores are at rest; FORCE_START restores the plans of a context held in verification and runs it, its engines
as they are marked, and with a plan missing it is refused and changes nothing. Each in another state answers STATE (R197, R203, R209). The model's
own choices it rests on: log 48, 138. -/
def Obligations.ContextCommandsEnd : Prop :=
  (∀ (s : State) (ses : Ses) (x w : Nat), x < 64 → w < 3 →
    let k := s.ctx x
    let i := if k.bank0.state = .chrysalis ∨ k.bank0.state = .ready then 0 else 1
    let q : Eclosion := { bank := 1 - k.imago, e := 0, attempts := 0, when_ := w, time := s.ecloseTime, mark := s.ecloseMark,
                          due := w == 0, begun := false, answered := [], refused := false, exchange := none }
    (Served s ses 1 → k.cmd = 0 → (k.bank k.imago).state = .imago → (k.bank (1 - k.imago)).state = .ready → k.eclosion = none →
      exec (.eclose ses x w) s =
        .next (((s.setCtx x { k with cmd := 3, eclosion := some q }).setStatus 14 x 3).giveReply ses ⟨0, []⟩)) ∧
    (Served s ses 1 → k.cmd = 0 → (k.bank k.imago).state ≠ .imago ∨ (k.bank (1 - k.imago)).state ≠ .ready ∨ k.eclosion ≠ none →
      exec (.eclose ses x w) s = .next ((s.setStatus 11 x 3).giveReply ses ⟨0, []⟩)) ∧
    (Served s ses 2 → (k.bank i).state ≠ .chrysalis → (k.bank i).state ≠ .ready →
      exec (.abort ses x) s = .next ((s.setStatus 11 x 4).giveReply ses ⟨0, []⟩)) ∧
    (Served s ses 2 → (k.bank i).state = .chrysalis ∨ (k.bank i).state = .ready → k.cmd = 1 ∨ k.cmd = 2 →
      exec (.abort ses x) s = .next ((s.failInstall x 9).giveReply ses ⟨0, []⟩)) ∧
    (Served s ses 2 → (k.bank i).state = .chrysalis ∨ (k.bank i).state = .ready → k.cmd = 0 ∨ k.cmd = 3 → ∃ t : State, exec (.abort ses x) s = .next t ∧
      ((t.ctx x).bank i) = Bank.reset ∧ (t.ctx x).cmd = 0 ∧ (t.ctx x).eclosion = none ∧ (t.ctx x).pointer = k.imago ∧
      (t.ctx x).state = k.state ∧ t.cmdStatus = (if k.cmd = 0 then x * 256 + 4 * 65536 else 9 + x * 256 + 3 * 65536) ∧
      (∀ y, y ≠ x → t.ctx y = s.ctx y) ∧ t.mem = s.mem)) ∧
  (∀ (s : State) (ses : Ses) (x : Nat), x < 64 → (s.ctx x).cmd = 0 →
    let k := s.ctx x
    (Served s ses 1 → k.state = .stopped → (k.bank k.imago).state = .imago → s.coresAtRest x = true →
      ∃ t : State, exec (.start ses x) s = .next t ∧ (t.ctx x).state = .running ∧ t.cmdStatus = x * 256 + 5 * 65536 ∧
        (∀ c h, c ∈ k.cores → (s.core c).head k.imago = some h → (t.core c).state = .running ∧ (t.core c).seq.pc = h.entry ∧
          (t.core c).seq.bank = k.imago ∧ (t.core c).seq.mapBank = k.imago ∧ (t.core c).seq.ops = []) ∧
        (∀ c, c ∉ k.cores → t.core c = s.core c) ∧ t.mem = s.mem ∧ t.engines = s.engines) ∧
    (Served s ses 1 → k.state ≠ .stopped ∨ (k.bank k.imago).state ≠ .imago ∨ s.coresAtRest x = false →
      exec (.start ses x) s = .next ((s.setStatus 11 x 5).giveReply ses ⟨0, []⟩)) ∧
    (Served s ses 1 → k.state = .running → exec (.stop ses x) s = .next
      (((k.cores.foldl State.stopCore (s.setCtx x (k.enter .stopped))).setStatus 0 x 6).giveReply ses ⟨0, []⟩)) ∧
    (Served s ses 1 → k.state ≠ .running → exec (.stop ses x) s = .next ((s.setStatus 11 x 6).giveReply ses ⟨0, []⟩)) ∧
    (Served s ses 2 → k.state ≠ .none → s.coresAtRest x = true →
      ∃ t : State, exec (.unload ses x) s = .next t ∧ t.ctx x = Ctx.reset ∧ t.cmdStatus = x * 256 + 7 * 65536 ∧
        (∀ c, c ∈ k.cores → (t.core c).state = .off ∧ (t.core c).ctx = none) ∧ (∀ y, y ≠ x → t.ctx y = s.ctx y)) ∧
    (Served s ses 2 → k.state = .none ∨ s.coresAtRest x = false →
      exec (.unload ses x) s = .next ((s.setStatus 11 x 7).giveReply ses ⟨0, []⟩)) ∧
    (let may := k.state = .verifyHold ∧ k.planMissing = false ∧ k.sentinel = false ∧ k.cores.all s.coreReady = true ∧ s.missingPlan x = none
     let r := s.restoreCtx x (k.cores.filter (fun c => (s.core c).atRest))
     (Served s ses 2 → may → ∃ t : State,
        exec (.forceStart ses x) s = .next t ∧ (t.ctx x).state = .running ∧ t.cmdStatus = x * 256 + 8 * 65536 ∧
        (∀ c h, c ∈ k.cores → (r.core c).head k.imago = some h → (t.core c).state = .running ∧ (t.core c).seq.pc = h.entry) ∧
        t.engines = s.engines ∧ t.mem = r.mem) ∧
     (Served s ses 2 → ¬ may → exec (.forceStart ses x) s = .next ((s.setStatus 11 x 8).giveReply ses ⟨0, []⟩))))

/-- A load is placed (R171-R173): with no placement, no sync range or too few engines it ends with CAPACITY, which LOAD_STATUS shows while the
context is in use (R133, R210); else every chosen core belongs to the context, and the context holds its cores and sync ranges. A bank whose blocks
are all verified, with nothing of it in staging: a LOAD ends with the context STOPPED on an IMAGO bank, an INSTALL with a READY bank, which AUTO
makes an eclosion follow (R195, R197); until then nothing changes. A block that is to be programmed once more, its payload gone from the ring, is
asked for, and programmed when it is in staging (R194, R199). The model's own choices it rests on: log 7, 43, 44, 130, 151. -/
def Obligations.BanksAreLoadedAndVerified : Prop :=
  (∀ (s : State) (x : Nat) (l : List Nat), s.stage.evaluate = x :: l →
    let u : State := { s with stage := { s.stage with evaluate := l } }
    let k := s.ctx x
    let b := k.bank 0
    let failed := u.failInstall x 5
    let fails := exec .ctxLoadEvaluation s =
      .next (if (failed.ctx x).state = .none then failed else failed.modCtx x (fun k => { k with loadStatus := 5 }))
    (u.place k.sentinel k.groups b.lcores = none → fails) ∧
    (∀ cs, u.place k.sentinel k.groups b.lcores = some cs →
      (u.allocSync k.sentinel cs b.lcores = none ∨ u.enginesFit b.lcores cs = false → fails) ∧
      (∀ d h, u.allocSync k.sentinel cs b.lcores = some (d, h) → u.enginesFit b.lcores cs = true →
        ∃ t : State, exec .ctxLoadEvaluation s = .next t ∧ (t.ctx x).cores = cs ∧ (t.ctx x).dieBase = d.1 ∧ (t.ctx x).dieLen = d.2 ∧
          (t.ctx x).hubBase = h.1 ∧ (t.ctx x).hubLen = h.2 ∧ (t.ctx x).state = k.state ∧ (∀ c, c ∈ cs → (t.core c).ctx = some x) ∧
          (∀ y, y ≠ x → t.ctx y = s.ctx y) ∧ t.stage = { u.stage with evaluated := true } ∧ t.mem = s.mem))) ∧
  (∀ (s : State) (x : Nat),
    let k := s.ctx x
    let b := k.bank (if k.cmd = 1 then 0 else 1 - k.imago)
    let still := b.state ≠ .chrysalis ∨ s.stage.install ≠ none ∨ b.firstAgain = none
    let whole := b.state = .chrysalis ∧ s.stage.install ≠ some x ∧ s.stage.waiting.contains x = false ∧ b.blocks.all (·.verified) = true
    (still → k.cmd ≠ 1 → k.cmd ≠ 2 → exec (.bankVerified x) s = .next s) ∧
    (still → ¬ whole → exec (.bankVerified x) s = .next s) ∧
    (still → k.cmd = 1 → whole → ∃ t : State, exec (.bankVerified x) s = .next t ∧ (t.ctx x).state = .stopped ∧ (t.ctx x).pointer = 0 ∧
      (t.ctx x).cmd = 0 ∧ (t.ctx x).bank0 = { b with state := .imago } ∧ (t.ctx x).bank1 = k.bank1 ∧ t.cmdStatus = x * 256 + 65536 ∧
      (∀ n, n ∈ b.blocks → (t.eng n.core n.eng).chrysalis = false) ∧ (∀ y, y ≠ x → t.ctx y = s.ctx y) ∧ t.mem = s.mem) ∧
    (still → k.cmd = 2 → whole → k.auto = false → ∃ t : State, exec (.bankVerified x) s = .next t ∧ (t.ctx x).cmd = 0 ∧
      (t.ctx x).bank (1 - k.imago) = { b with state := .ready } ∧ (t.ctx x).bank k.imago = k.bank k.imago ∧ (t.ctx x).state = k.state ∧
      (t.ctx x).eclosion = k.eclosion ∧ t.cmdStatus = x * 256 + 2 * 65536 ∧ (∀ y, y ≠ x → t.ctx y = s.ctx y) ∧ t.cores = s.cores ∧
      t.mem = s.mem) ∧
    (still → k.cmd = 2 → whole → k.auto = true → ∃ t : State, exec (.bankVerified x) s = .next t ∧ (t.ctx x).cmd = 3 ∧
      (t.ctx x).bank (1 - k.imago) = { b with state := .ready } ∧ t.cmdStatus = 14 + x * 256 + 3 * 65536 ∧
      (∃ q, (t.ctx x).eclosion = some q ∧ q.bank = 1 - k.imago ∧ q.when_ = 0 ∧ q.due = true ∧ q.begun = false) ∧
      (∀ y, y ≠ x → t.ctx y = s.ctx y) ∧ t.cores = s.cores ∧ t.mem = s.mem) ∧
    (∀ n i, b.state = .chrysalis → s.stage.install = none → b.firstAgain = some (n, i) →
      let bank := if k.cmd = 1 then 0 else 1 - k.imago
      (s.blockHere x bank i = false → exec (.bankVerified x) s = .next (s.wantBlock x bank i)) ∧
      (s.blockHere x bank i = true → ∃ (t : State) (j : ProgJob), exec (.bankVerified x) s = .next t ∧ (t.eng n.core n.eng).job = some j ∧
        j.use = .block x bank i ∧ j.step = 1 ∧ j.wfmt = n.wfmt ∧ t.mem = s.mem ∧ t.cores = s.cores)))

/-- Eclosion (R200-R202): ARM goes out with E once its moment has come; a core that has already issued batch E refuses; a refused attempt is
disarmed and made again, at most four times; with every core armed the pointer moves, the old bank drains, and the row budgets of an installed bank
come into effect at E (R62). A drained bank is retired once every core has passed E and no op uses its map: it is EMPTY and its cores hold no
COMMIT; while one core has not, nothing changes (R203). The model's own choices it rests on: log 7, 41, 50. -/
def Obligations.EclosionAndRetirement : Prop :=
  (∀ (s : State) (x c : Nat) (q : Eclosion), (s.ctx x).eclosion = some q →
    let k := s.ctx x
    (q.begun = false → (if q.when_ = 1 then decide (q.time ≤ s.time.gtc) else q.due) = true →
      exec (.eclosionBegin x) s = .next (s.setCtx x { k with
        pointer := k.imago + 2, eclosion := some { q with e := s.eclosionE x, begun := true, answered := [], refused := false } })) ∧
    (q.begun = true ∨ (if q.when_ = 1 then decide (q.time ≤ s.time.gtc) else q.due) = false → exec (.eclosionBegin x) s = .next s) ∧
    (q.begun = true → c ∈ k.cores → c ∉ q.answered → batchAtLeast ((s.core c).seq.batchNo + 2 ^ 32 - 1) q.e = false →
      ∃ t : State, exec (.arm x c) s = .next t ∧ t.ctx x = { k with eclosion := some { q with answered := q.answered ++ [c] } } ∧
        (t.core c).seq.armed = some (q.bank, q.e) ∧ (∀ d, d ≠ c → t.core d = s.core d) ∧ (∀ y, y ≠ x → t.ctx y = s.ctx y) ∧ t.mem = s.mem) ∧
    (q.begun = true → c ∈ k.cores → c ∉ q.answered → batchAtLeast ((s.core c).seq.batchNo + 2 ^ 32 - 1) q.e = true →
      exec (.arm x c) s = .next (s.setCtx x { k with eclosion := some { q with answered := q.answered ++ [c], refused := true } })) ∧
    (q.refused = false → exec (.disarm x) s = .next s) ∧
    (q.refused = true → q.attempts < 3 → ∃ t : State, exec (.disarm x) s = .next t ∧ 
      (t.ctx x).eclosion = some { q with attempts := q.attempts + 1, e := s.eclosionE x, begun := true, answered := [], refused := false } ∧
      (∀ d, d ∈ k.cores → (t.core d).seq.armed = none) ∧ t.cmdStatus = s.cmdStatus ∧ t.mem = s.mem) ∧
    (q.refused = true → 3 ≤ q.attempts → ∃ t : State, exec (.disarm x) s = .next t ∧ (t.ctx x).eclosion = none ∧ (t.ctx x).cmd = 0 ∧
      (t.ctx x).pointer = k.imago ∧ (∀ d, d ∈ k.cores → (t.core d).seq.armed = none) ∧
      t.cmdStatus = (if k.cmd = 3 then 13 + x * 256 + 3 * 65536 else s.cmdStatus) ∧ t.mem = s.mem) ∧
    (q.begun = false ∨ q.refused = true ∨ k.cores.all (q.answered.contains ·) = false → exec (.commit x) s = .next s) ∧
    (q.begun = true → q.refused = false → k.cores.all (q.answered.contains ·) = true → q.bank = 1 - k.imago →
      ∃ t : State, exec (.commit x) s = .next t ∧ (t.ctx x).pointer = q.bank ∧ (t.ctx x).switchAt = q.e ∧ (t.ctx x).cmd = 0 ∧
        (t.ctx x).eclosion = none ∧ (t.ctx x).lastEclosion = s.time.gtc ∧ ((t.ctx x).bank q.bank).state = .imago ∧
        ((t.ctx x).bank k.imago).state = .draining ∧ (∀ d, d ∈ k.cores → (t.core d).seq.committed = some (q.bank, q.e) ∧
          (t.core d).seq.armed = none ∧ (q.exchange = none → (t.core d).ana.bankDue = some q.bank)) ∧
        t.cmdStatus = (if k.cmd = 3 then x * 256 + 3 * 65536 else s.cmdStatus) ∧ t.mem = s.mem)) ∧
  (∀ (s : State) (x : Nat),
    let k := s.ctx x
    ((k.bank (1 - k.imago)).state ≠ .draining ∨ k.cores.all (fun c => s.coreDrained c (1 - k.imago) k.switchAt) = false →
      exec (.bankRetire x) s = .next s) ∧
    ((k.bank (1 - k.imago)).state = .draining → k.cores.all (fun c => s.coreDrained c (1 - k.imago) k.switchAt) = true →
      ∃ t : State, exec (.bankRetire x) s = .next t ∧ ((t.ctx x).bank (1 - k.imago)) = Bank.reset ∧
        (t.ctx x).bank k.imago = k.bank k.imago ∧ (t.ctx x).pointer = k.pointer ∧
        (∀ c, c ∈ k.cores → (t.core c).seq.committed = none ∧ (t.core c).head (1 - k.imago) = none) ∧ t.mem = s.mem))

/-- STAGED: with 128 bytes the header is checked, and with the three sections the records; a failed check ends the installation with its code. A
LOAD that passes waits for evaluation, its bank holding the image's number, blocks and records; one whose image has KEEP blocks, and an INSTALL of a
sentinel image or with a KEEP block that names none of the imago, end with FORMAT; an INSTALL that the context's placement does not fit ends with
PLACEMENT, one without engines with CAPACITY, and any other has its new blocks bound to free engines and its KEEP blocks to the engines they have. A
plan section read again must be of the same image (R186, R189, R196, R198, R306). The end of the plan section, once all that could flow has flowed:
META_CRC must agree; for a LOAD or INSTALL the payloads follow, a re-read plan section gives the staging slots back (R189, R306). The model's own
choices it rests on: log 40, 45, 151. -/
def Obligations.StagedImagesAreChecked : Prop :=
  (∀ (s : State) (x : Nat), s.stage.install = some x → s.stage.staged = false → 128 ≤ s.stage.bytes →
    let h := s.imgHeader
    let ks := (List.range h.lcores).map (s.imgLcore h)
    let bs := (List.range h.blocks).map (s.imgBlock h)
    (s.headerCheck ≠ 0 → exec .staged s = .next (s.failInstall x s.headerCheck)) ∧
    (s.headerCheck = 0 → s.stage.bytes < h.metaEnd → exec .staged s = .next s.fetchMore) ∧
    (s.headerCheck = 0 → h.metaEnd ≤ s.stage.bytes → recordsOk h bs ks 0 0 = false → exec .staged s = .next (s.failInstall x 3)) ∧
    let passes := s.headerCheck = 0 ∧ h.metaEnd ≤ s.stage.bytes ∧ recordsOk h bs ks 0 0 = true
    let z : State := { s with stage := { s.stage with staged := true, planOff := h.planOff, coreOff := h.coreOff, dirOff := h.dirOff,
                                                      payloadOff := h.payloadOff, totalLen := h.totalLen, metaCrc := h.metaCrc, crcAt := h.coreOff } }
    let k := s.ctx x
    let imago := k.bank k.imago
    let kept := bs.any (fun n => n.keep && !imago.blocks.any (fun m => m.lcore == n.lcore && m.leng == n.leng)) = false
    let bound := s.assign k.cores imago.blocks bs
    let w := bound.foldl (fun u n =>
        if n.keep then u.modCore n.core (fun q => q.setMap s.stage.bank (Tab.set (q.map s.stage.bank) n.leng n.eng)) else u.bindBlock x s.stage.bank n)
      (z.modCtx x (fun k => k.modBank s.stage.bank (fun b => { b with image := h.id, blocks := bound, lcores := ks, payloadOff := h.payloadOff })))
    (passes → s.stage.replan = true → h.id = (k.bank s.stage.bank).image →
      exec .staged s = .next ({ z with stage := { z.stage with evaluated := true } } : State).stageFlow) ∧
    (passes → s.stage.replan = true → h.id ≠ (k.bank s.stage.bank).image → exec .staged s = .next z.freeStage) ∧
    (passes → s.stage.replan = false → s.stage.isInstall = false → bs.any (·.keep) = true → exec .staged s = .next (z.failInstall x 3)) ∧
    (passes → s.stage.replan = false → s.stage.isInstall = true →
      (h.sentinel = true → exec .staged s = .next (z.failInstall x 3)) ∧
      (h.sentinel = false → samePlacement k.groups h imago.lcores ks = false → exec .staged s = .next (z.failInstall x 7)) ∧
      (h.sentinel = false → samePlacement k.groups h imago.lcores ks = true → ¬ kept → exec .staged s = .next (z.failInstall x 3)) ∧
      (h.sentinel = false → samePlacement k.groups h imago.lcores ks = true → kept → s.installFits k.cores bs = false →
        let failed := z.failInstall x 5
        exec .staged s = .next (if (failed.ctx x).state = .none then failed else failed.modCtx x (fun k => { k with loadStatus := 5 }))) ∧
      (h.sentinel = false → samePlacement k.groups h imago.lcores ks = true → kept → s.installFits k.cores bs = true →
        exec .staged s = .next ({ w with stage := { w.stage with evaluated := true } } : State).stageFlow)) ∧
    (passes → s.stage.replan = false → s.stage.isInstall = false →
      bs.any (·.keep) = false → ∃ t : State, exec .staged s = .next t ∧ t.stage.staged = true ∧ t.stage.totalLen = h.totalLen ∧
        t.stage.payloadOff = h.payloadOff ∧ t.stage.evaluate = s.stage.evaluate ++ [x] ∧ (t.ctx x).bank0.image = h.id ∧
        (t.ctx x).bank0.blocks = bs ∧ (t.ctx x).bank0.payloadOff = h.payloadOff ∧ (t.ctx x).bank0.lcores = ks ∧ (t.ctx x).sentinel = h.sentinel ∧ t.cores = s.cores ∧ t.mem = s.mem)) ∧
  (∀ (s : State) (x : Nat), s.stage.install = some x →
    let u := s.stageFlow
    let t := u.stage
    t.install = some x → t.plansDone = false → t.evaluated = true → t.payloadOff ≤ t.crcAt → (u.ctx x).cores.length ≤ t.plansIn.length →
      ((BitVec.ofNat 32 t.crc ^^^ 0xFFFFFFFF#32).toNat ≠ t.metaCrc → exec .planSectionEnd s = .next (u.failInstall x 1)) ∧
      ((BitVec.ofNat 32 t.crc ^^^ 0xFFFFFFFF#32).toNat = t.metaCrc → t.replan = true → ∃ v : State, exec .planSectionEnd s = .next v ∧
        (v.ctx x).planMissing = false ∧ v.stage.plansDone = false ∧ (t.waiting = [] → u.svc.rereads = [] → v.stage.install = none) ∧ v.cores = u.cores ∧ v.mem = u.mem) ∧
      ((BitVec.ofNat 32 t.crc ^^^ 0xFFFFFFFF#32).toNat = t.metaCrc → t.replan = false →
        let v : State := { u with stage := { t with plansDone := true } }
        exec .planSectionEnd s = .next ((if t.isInstall then v else v.fillPeers x).stageFlow.finishStage)))

/-- The NVMe/TCP association (R191, R192): each queue set up by its ICResp, ended by a terminate request, a PDU out of the subset (which a
termination PDU answers) or a lost connection; set up again after 1, 2, 4 ... at most 32 s, and given up after FETCH_RETRIES attempts. Commands of
the association: a completion of no command outstanding is out of the subset; a status other than 0 is kept and the command made again under a new
identifier, as is one not completed within FETCH_TIMEOUT or without all its data, up to three times; then the association ends. Completions of the
set-up lead to its next command, and a Read that has completed lands in staging. Where a Read reads (R192): image bytes from FETCH_START_LBA on, a
block's payload from its place in the image of its bank; never more than Identify allows. The model's own choices it rests on: log 7, 9, 102, 131.
-/
def Obligations.ImagesAreFetched : Prop :=
  (∀ s : State,
    let f := s.fetch
    let up := s.time.up
    let term : State := { s with fetch := { f with sent := f.sent ++ [.termReq] } }
    let down := fun (u : State) => ({ u with fetch := { u.fetch with
      state := 3, backoff := (if u.fetch.backoff = 0 then 1 else min 32 (2 * u.fetch.backoff)), since := up, out := [], opening := none } } : State)
    let live := f.state = 1 ∨ f.state = 2
    (∀ q, f.opening = some q → exec .icResp s = .next { s with fetch := ({ f with opening := none } : Fetch).send up q 0 (.connect q) }) ∧
    (f.opening = none → exec .icResp s = exec .outOfSubsetPdu s) ∧
    (live → f.attempts < f.set.retries →
      exec .c2hTermReq s = .next (down s) ∧ exec .lostConnection s = .next (down s) ∧ exec .outOfSubsetPdu s = .next (down term)) ∧
    (live → f.set.retries ≤ f.attempts →
      exec .c2hTermReq s = .next s.fetchFailed ∧ exec .lostConnection s = .next s.fetchFailed ∧ exec .outOfSubsetPdu s = .next term.fetchFailed) ∧
    (¬ live → exec .c2hTermReq s = .next s ∧ exec .outOfSubsetPdu s = .next s ∧ exec .lostConnection s = .next s) ∧
    (∀ x, s.stage.install = some x →
      s.fetchFailed = ({ s with fetch := { f with state := 4, out := [], opening := none } }).failInstall x 8) ∧
    (f.state = 3 → 1000000000 * f.backoff ≤ up - f.since → exec .fetchReconnect s =
      .next (({ s with fetch := { f with
        state := 1, attempts := f.attempts + 1, ready := 0, out := [], lbaSize := 0, maxRead := 0, opening := some 0, since := up,
        sent := f.sent ++ [NvmePdu.icReq 0 f.set.digests] } }).bump 0x2701 4)) ∧
    (f.state ≠ 3 ∨ up - f.since < 1000000000 * f.backoff → exec .fetchReconnect s = .next s) ∧
    (live → 0 < f.ready → 500000000 * f.set.kato ≤ up - f.lastKeep →
      exec .keepAlive s = .next { s with fetch := ({ f with lastKeep := up } : Fetch).send up 0 0 .keepAlive }) ∧
    (¬ live ∨ f.ready = 0 ∨ up - f.lastKeep < 500000000 * f.set.kato → exec .keepAlive s = .next s)) ∧
  (∀ (s : State) (r : NvmeResp),
    let f := s.fetch
    let up := s.time.up
    let again := fun (u : State) (o : NvmeOut) => ({ u with fetch := { u.fetch with
      out := u.fetch.out.map (fun x => if x = o then ⟨o.queue, f.nextCid, o.cmd, up, o.tries + 1, [], false⟩ else x),
      nextCid := (f.nextCid + 1) % 65536, sent := f.sent ++ [.capsule o.queue f.nextCid (f.nsOf o.cmd) o.cmd] } } : State)
    let kept : State := { s with fetch := { f with lastStatus := r.status % 65536 } }
    let gone := fun (o : NvmeOut) => ({ f with out := f.out.erase o } : Fetch)
    (f.command r.queue r.cid = none → exec (.capsuleResp r) s = exec .outOfSubsetPdu s) ∧
    (∀ o, f.command r.queue r.cid = some o →
      (r.status ≠ 0 → o.tries < 3 → exec (.capsuleResp r) s = .next (again kept o)) ∧
      (r.status ≠ 0 → 3 ≤ o.tries → exec (.capsuleResp r) s = .next kept.fetchDown) ∧
      (r.status = 0 → o.got.length ≠ o.cmd.dataLen → o.tries < 3 → exec (.capsuleResp r) s = .next (again s o)) ∧
      (r.status = 0 → o.got.length = o.cmd.dataLen →
        (o.cmd = .connect 0 → exec (.capsuleResp r) s =
          .next { s with fetch := ({ gone o with ready := 1, lastKeep := up } : Fetch).send up 0 0 (.propertyGet 0) }) ∧
        (∀ q, o.cmd = .connect (q + 1) → q + 1 < f.set.queues → exec (.capsuleResp r) s =
          .next { s with fetch := { gone o with ready := q + 2, opening := some (q + 2), since := up, sent := f.sent ++ [.icReq (q + 2) f.set.digests] } }) ∧
        (∀ q, o.cmd = .connect (q + 1) → f.set.queues ≤ q + 1 → exec (.capsuleResp r) s =
          .next ({ s with fetch := { gone o with ready := q + 2, state := 2 } }).fetchMore) ∧
        (o.cmd = .propertySet → exec (.capsuleResp r) s = .next { s with fetch := (gone o).send up 0 0 (.propertyGet 0x1C) }) ∧
        (o.cmd = .identify 0 → lbaBytes o.got = none →
          exec (.capsuleResp r) s = .next ({ s with fetch := gone o }).fetchFailed) ∧
        (f.out = [o] → o.isRead = true → o.done = false → exec (.capsuleResp r) s =
          .next ((((({ s with fetch := { f with out := [] } } : State).landBytes o.got).stageFlow).finishStage).fetchMore))) ∧
      (f.state = 1 ∨ f.state = 2 → f.opening = none → f.out = [o] → o.done = false → 1000000 * f.set.timeout ≤ up - o.since → o.tries < 3 →
        exec .fetchTimeout s = .next (again s o))) ∧
    (f.opening = none → (∀ o, o ∈ f.out → o.done = true ∨ up - o.since < 1000000 * f.set.timeout) → exec .fetchTimeout s = .next s)) ∧
  (∀ (s : State) (p : Nat),
    (s.stage.block = none → s.fetchLba p = s.fetch.set.startLba + p / s.fetch.lbaSize) ∧
    (∀ b n, s.stage.block = some b → ((s.ctx b.ctx).bank b.bank).blocks[b.idx]? = some n → s.fetchLba p =
      s.fetch.set.startLba + (((s.ctx b.ctx).bank b.bank).payloadOff + n.payload * 65536 + p) / s.fetch.lbaSize) ∧
    s.fetchLen p ≤ s.fetch.maxRead ∧
    (∀ (r : NvmeResp) (o : NvmeOut) (t : State), s.fetch.command r.queue r.cid = some o → o.cmd = .identify 1 → r.status = 0 →
      o.got.length = 4096 → exec (.capsuleResp r) s = .next t → t.fetch.maxRead ≤ 131072))

/-- Image bytes arrive: a C2HData PDU adds to its command's data, completed Reads go to their place in the ring, a pushed tail as bytes the host has
written; a digest error is counted and ends the association, a tail that goes back or past the image ends the installation with FORMAT (R191, R193).
A single block (R194): BLOCK_READY for the block wanted of the PCIe host completes it, and it is usable where its checksum and its codes agree with
the directory; any other index changes nothing. A block that fails gives the staging slots back. The model's own choices it rests on: log 7, 102. -/
def Obligations.ImageBytesAreWritten : Prop :=
  (∀ (s : State) (x v : Nat) (d : NvmeData) (bs : List Byte),
    let f := s.fetch
    let live := f.state = 1 ∨ f.state = 2
    (¬ live → exec (.c2hData d true) s = .next s ∧ exec (.c2hData d false) s = .next s) ∧
    (live → exec (.c2hData d false) s = .next ((s.bump 0x2701 5).fetchDown)) ∧
    (live → f.command d.queue d.cid = none → exec (.c2hData d true) s = exec .outOfSubsetPdu s) ∧
    (∀ o, live → f.command d.queue d.cid = some o →
      (o.got.length + d.bytes.length ≤ o.cmd.dataLen → exec (.c2hData d true) s = .next { s with fetch := { f with
        out := f.out.map (fun y => if y = o then { y with got := y.got ++ d.bytes } else y) } }) ∧
      (o.cmd.dataLen < o.got.length + d.bytes.length → exec (.c2hData d true) s = exec .outOfSubsetPdu s)) ∧
    (s.stage.block = none → s.stage.install = some x → s.landBytes bs =
      s.stageBytes (bs.take (min s.stage.room (if s.stage.staged = true then s.stage.totalLen - s.stage.bytes else bs.length)))) ∧
    (∀ b, s.stage.block = some b → b.ready = false → s.landBytes bs = s.blockBytes b bs) ∧
    ((s.stageBytes bs).stage.bytes = s.stage.bytes + bs.length) ∧
    (∀ i, i < bs.length → bs.length ≤ s.stage.slots * 65536 → s.memOk = true →
      Mem.read (s.stageBytes bs).mem ((s.stage.bytes + i) % (s.stage.slots * 65536)) = bs.getD i 0) ∧
    (s.stage.install = none ∨ s.stage.source ≠ 1 → exec (.pushTail v) s = .next { s with stage := { s.stage with tail := v } }) ∧
    (s.stage.install = some x → s.stage.source = 1 → v < s.stage.tail → exec (.pushTail v) s = .next (s.failInstall x 3)) ∧
    (s.stage.install = some x → s.stage.source = 1 → s.stage.tail ≤ v →
      let u : State := { s with stage := { s.stage with tail := v, bytes := v } }
      (u.pastImage v = true → exec (.pushTail v) s = .next (u.failInstall x 3)) ∧
      (u.pastImage v = false → exec (.pushTail v) s = .next (u.stageFlow.finishStage)) ∧
      (s.stage.staged = true → (u.pastImage v = true ↔ s.stage.totalLen < v)))) ∧
  (∀ (s : State) (ses : Ses) (idx : Nat) (b : BlockReq), Served s ses 2 → idx < 2 ^ 32 → s.stage.block = some b → b.ready = false →
    ((s.ctx b.ctx).bank b.bank).source = 1 →
    (b.idx ≠ idx → exec (.blockReady ses idx) s = .next (s.giveReply ses ⟨0, []⟩)) ∧
    (b.idx = idx → ∀ k, ((s.ctx b.ctx).bank b.bank).blocks[idx]? = some k →
      (s.payloadCrc 0 = k.crc → s.payloadOk 0 k.wfmt = true → exec (.blockReady ses idx) s = .next
        (({ s with stage := { s.stage with block := some { b with bytes := payloadLen, ready := true }, want := 0 } }).giveReply ses ⟨0, []⟩)) ∧
      (s.payloadCrc 0 ≠ k.crc ∨ s.payloadOk 0 k.wfmt = false → exec (.blockReady ses idx) s = .next
        ((({ s with stage := { s.stage with block := none, want := 0 } } : State).freeStage).giveReply ses ⟨0, []⟩))))

/-! ### Engines and cores replaced -/

/-- What a session at Engineer asks of an engine, a column, a core or the defect list (R90, R91, R96, R318); numbers that name no engine are out of
range. An engine that is due leaves its logical engine while the other bank is EMPTY (R93-R95, R199): with no spare it waits and its core is
scheduled for replacement; with its weights in staging the lowest spare is programmed with them; else they are asked for. A wait for the other kind
of exchange ends with it. An engine that is not due stays, and one that is due gives way to one of its die below RETIRE_NOW (R91). One that does not
take its weights now lets the transfer asked for them end (R190). The model's own choices it rests on: log 7, 49, 50, 92, 163. -/
def Obligations.EngineExchanges : Prop :=
  (∀ (s : State) (ses : Ses) (c e col : Nat), Served s ses 2 → c < 65536 → e < 256 → col < 256 →
    (s.present c = true → e < 50 → (s.eng c e).state = .inService ∨ (s.eng c e).state = .renewSched →
      ∃ t : State, exec (.retireEngine ses c e) s = .next t ∧ t.eng c e = { s.eng c e with
        state := .retireSched, prevState := (s.eng c e).state, fallen := (s.eng c e).fallen.filter (· != 4) } ∧ t.cores = s.cores ∧
        t.mem = s.mem) ∧
    (s.present c = true → e < 50 → (s.eng c e).state ≠ .inService → (s.eng c e).state ≠ .renewSched →
      exec (.retireEngine ses c e) s = .next (s.giveReply ses ⟨0, []⟩)) ∧
    (s.present c = true → e < 50 → col < 128 → isSentinel c = false → exec (.retireColumn ses c e col) s = .next ((s.setEng c e { s.eng c e with
      repairSched := if (s.eng c e).repairSched.contains col then (s.eng c e).repairSched else (s.eng c e).repairSched ++ [col] }).giveReply ses ⟨0, []⟩)) ∧
    (s.present c = true → e < 50 → isSentinel c = false → exec (.surveyNow ses c e) s = .next ((s.setEng c e { s.eng c e with
      stoke := { (s.eng c e).stoke with urgent := List.range 16 } }).giveReply ses ⟨0, []⟩)) ∧
    (s.present c = false ∨ 50 ≤ e →
      exec (.retireEngine ses c e) s = .next (s.refuse ses 0x2802 1 0x06090030) ∧
      exec (.retireColumn ses c e col) s = .next (s.refuse ses 0x2802 2 0x06090030) ∧
      exec (.surveyNow ses c e) s = .next (s.refuse ses 0x2802 3 0x06090030)) ∧
    (s.present c = true → e < 50 → 128 ≤ col → exec (.retireColumn ses c e col) s = .next (s.refuse ses 0x2802 2 0x06090030)) ∧
    (s.present c = true → e < 50 → isSentinel c = true →
      exec (.surveyNow ses c e) s = .next (s.giveReply ses ⟨0, []⟩) ∧ (col < 128 → exec (.retireColumn ses c e col) s = .next (s.giveReply ses ⟨0, []⟩)) ∧
      exec (.coreReplace ses c) s = .next (((s.modReplace 4 (fun r => { r with state := 3, old := c })).record (coreSource c) 0x001A
        [c + 0xFFFF * 65536, 4]).giveReply ses ⟨0, []⟩)) ∧
    (exec (.defEntry ses) s = .next ((s.modSession ses (fun k => { k with cursor := (k.cursor + 1) % 2 ^ 32 })).giveReply ses
      ⟨0, toLE 8 (match s.defects[(s.session ses).cursor]? with | some d => d.word | none => 0)⟩)) ∧
    (s.present c = true → isSentinel c = false → (s.core c).ctx ≠ none → s.replacing c = false →
      exec (.coreReplace ses c) s = .next ((s.modReplace (dieOf c) (fun r => { r with queue := queueCore c 3 r.queue })).giveReply ses ⟨0, []⟩)) ∧
    (s.present c = true → isSentinel c = false → (s.core c).ctx = none ∨ s.replacing c = true →
      exec (.coreReplace ses c) s = .next (s.giveReply ses ⟨0, []⟩)) ∧
    (s.present c = false → exec (.coreReplace ses c) s = .next (s.refuse ses 0x2C10 1 0x06090030))) ∧
  (∀ (s : State) (c e x bank leng idx : Nat),
    let g := s.eng c e
    let k := s.ctx x
    let kind := if g.state = .renewSched then 2 else 1
    g.owner = some (x, bank, leng) → (k.bank k.imago).indexOf c e = some idx →
    (g.state.due = false ∨ isSentinel c = true ∨ g.chrysalis = true → exec (.engineExchange c e) s = .next s) ∧
    (∀ b, s.stage.block = some b → s.endRequest x bank idx =
      if b.ctx = x ∧ b.bank = bank ∧ b.idx = idx ∧ b.user.isNone = true then
        ({ s with stage := { s.stage with block := none, want := 0 } } : State).freeStage else s) ∧
    (s.stage.block = none → s.endRequest x bank idx = s) ∧
    (isSentinel c = false → g.chrysalis = false → g.state.due = true → bank = k.imago → (k.bank bank).state = .imago →
      s.urgentFirst c e = true ∨ (k.bank (1 - bank)).state = .draining ∨ ((k.bank (1 - bank)).state = .empty ∧ s.exchanging x = true) →
      exec (.engineExchange c e) s = .next (s.endRequest x bank idx)) ∧
    (s.urgentFirst c e = false → isSentinel c = false → g.chrysalis = false → g.state.due = true → bank = k.imago → (k.bank bank).state = .imago →
      (k.bank (1 - bank)).state = .empty → s.exchanging x = false →
      (s.freeEngines c = [] → exec (.engineExchange c e) s =
        .next ((((s.endRequest x bank idx).endWait c e (3 - kind)).waitAction c e kind 1).scheduleReplace c 2)) ∧
      (∀ sp l, s.freeEngines c = sp :: l → s.blockHere x bank idx = false →
        exec (.engineExchange c e) s = .next (((s.wantBlock x bank idx).endWait c e (3 - kind)).waitAction c e kind 0)) ∧
      (∀ sp l, s.freeEngines c = sp :: l → s.blockHere x bank idx = true → ∃ t : State, exec (.engineExchange c e) s = .next t ∧
        (∃ j, (t.eng c sp).job = some j ∧ j.step = 1 ∧ j.wfmt = g.wfmt ∧ j.use = .exchange x leng e (kind == 2)) ∧
        (t.eng c sp).owner = some (x, 1 - bank, leng) ∧ (t.eng c sp).chrysalis = true ∧
        t.stage.block = s.stage.block.map (fun b => { b with user := some (engKey c sp) }) ∧ t.cores = s.cores ∧
        (∀ y, t.ctx y = s.ctx y) ∧ t.mem = s.mem)))

/-- A job that has come to the end of its pulses (R204): devices found stuck are compensated first; a whole engine then holds the programmed codes,
at T_e 1.0 with no job, and what the job was for goes on, but not on the analogue pilot; a repair column takes its column over. Until then, and
while an MVM holds the engine (R24), nothing changes. Verification at power-up (R208, R209): compute engines die by die in ascending order; it makes
a test round, reads every device once, and either marks the engine's blocks verified or holds its context; the MVMs of an engine that failed are
marked LOWCONF, where FORCE_START runs its context, until it passes or is reprogrammed; then the contexts whose banks are checked start again as
they were. On an engine that an MVM holds it waits (R24). The model's own choices it rests on: log 7, 12, 52. -/
def Obligations.EnginesAreVerified : Prop :=
  (∀ (s : State) (c e : Nat) (j : ProgJob), (s.eng c e).job = some j →
    let u := (s.closeJob c e j).doneBlock c e
    let ends := j.step = 4 ∧ j.granted = false ∧ j.stuck = [] ∧ s.engBusy c e = false
    (j.step ≠ 4 ∨ j.granted = true ∨ s.engBusy c e = true → exec (.engineProgrammed c e) s = .next s) ∧
    (j.step = 4 → j.granted = false → s.engBusy c e = false → j.stuck ≠ [] → exec (.engineProgrammed c e) s = .next (s.setEng c e { s.eng c e with
      job := some (j.compensate (s.eng c e)).1, refMask := (j.compensate (s.eng c e)).2 })) ∧
    (u.eng c e).job = none ∧ (u.eng c e).te = 0x8000 ∧ (u.eng c e).wfmt = j.wfmt ∧ (u.eng c e).unverified = false ∧
    (u.eng c e).pairs = j.goal ∧ (u.eng c e).stuck = j.goalStuck ∧
    (ends → (∀ k col, j.use ≠ .column k col) → s.onPilot c = true → exec (.engineProgrammed c e) s = .next s) ∧
    (∀ k col, ends → j.use = .column k col →
      exec (.engineProgrammed c e) s = .next ((s.closeColumn c e k col j).doneBlock c e) ∧
      ((s.closeColumn c e k col j).eng c e).job = none ∧ ((s.closeColumn c e k col j).eng c e).regs.repairStaged =
        (s.eng c e).regs.repairStaged.set k col) ∧
    (ends → s.onPilot c = false →
      (∀ x bank i, j.use = .block x bank i → exec (.engineProgrammed c e) s = .next (u.blockProgrammed x bank i)) ∧
      (∀ x l o r, j.use = .exchange x l o r → exec (.engineProgrammed c e) s = .next (u.exchangeDone c e x l o r)) ∧
      (∀ d o, j.use = .core d o → exec (.engineProgrammed c e) s = .next u) ∧
      (j.use = .requalify → ∃ t : State, exec (.engineProgrammed c e) s = .next t ∧ (t.eng c e).health.score = ((u.healthScore c e).eng c e).health.score ∧
        (t.eng c e).state = (if (t.eng c e).health.score < s.cfg 0x2800 9 then .dead else .spare)))) ∧
  (∀ (s : State) (c e x b i : Nat),
    let u := s.verifyTe c e
    let waits := (s.ctx x).state = .verifying ∨ (s.ctx x).state = .verifyHold
    (s.unverifiedBlock c e = none → exec (.engineVerify c e) s = .next s) ∧
    (s.unverifiedBlock c e = some (x, b, i) → s.pwr.powerGood = false ∨ (s.eng c e).job ≠ none ∨ s.onPilot c = true ∨
        s.lowerDieWaits c = true ∨ s.engBusy c e = true →
      exec (.engineVerify c e) s = .next s) ∧
    (s.unverifiedBlock c e = some (x, b, i) → (s.eng c e).job = none → s.pwr.powerGood = true → s.onPilot c = false →
      s.lowerDieWaits c = false → s.engBusy c e = false → isSentinel c = true ∨ Tab.get 0 s.pwr.dies (dieOf c) = 1 →
      ∃ t : State, exec (.engineVerify c e) s = .next t ∧ s.draws + 544 + 512 * 272 ≤ t.draws ∧ t.cores = s.cores ∧ t.mem = s.mem ∧
        (u.verifyPass c e u.draws = true → t.ctx x = (s.ctx x).verified c e ∧ (t.eng c e).te = (u.eng c e).te ∧ (t.eng c e).unverified = false) ∧
        (u.verifyPass c e u.draws = false → waits → t.ctx x = (s.ctx x).enter .verifyHold ∧ (t.eng c e).unverified = true) ∧
        (u.verifyPass c e u.draws = false → ¬ waits → t.ctx x = s.ctx x ∧ (t.eng c e).unverified = true)))

/-- A restored context whose banks are checked and whose cores are ready takes up again: RUNNING where it ran, else STOPPED; a context that is not
being verified, or not all checked, stays as it is, and one whose plans the store could not hold has them read again, also while an engine that
failed holds it (R306, R307, R209). Replacement of a core (R318-R320): the next core of a die's queue gets the nearest spare that passes its
self-test; with none the die waits; at the switch the new core takes the old one's place in its context, its registers, its memory and a fresh
epoch, and the old core's epoch rises at the change of role and again at its reset (R126), unless the old core's maps have come to name an engine
the new one does not hold yet, which is programmed first; a bank in construction keeps none of its new blocks on the old core (R199). The model's
own choices it rests on: log 7, 51, 72, 164, 167. -/
def Obligations.ContextsAndCoresGoOn : Prop :=
  (∀ (s : State) (x : Nat),
    let k := s.ctx x
    let waits := k.state = .verifying ∨ k.state = .verifyHold
    let r := s.restoreCtx x (k.cores.filter (fun c => (s.core c).atRest))
    let h := { k.enter .stopped with planMissing := false, restart := false }
    let held := k.bank0.checked = false ∨ k.bank1.checked = false
    (¬ waits ∨ k.cores.all s.coreReady = false → exec (.contextAutostart x) s = .next s) ∧
    (held → k.state ≠ .verifyHold ∨ k.planMissing = true ∨ s.missingPlan x = none → exec (.contextAutostart x) s = .next s) ∧
    (∀ p, held → k.state = .verifyHold → k.planMissing = false → s.missingPlan x = some p → k.cores.all s.coreReady = true →
      exec (.contextAutostart x) s = .next (s.askReplan x p.bank)) ∧
    (waits → k.bank0.checked = true → k.bank1.checked = true → k.cores.all s.coreReady = true →
      (∀ p, r.missingPlan x = some p → exec (.contextAutostart x) s = .next (r.askReplan x p.bank)) ∧
      (r.missingPlan x = none → ∃ t : State, exec (.contextAutostart x) s = .next t ∧
        t.ctx x = (if k.restart = true then h.enter .running else h) ∧
        (∀ y, y ≠ x → t.ctx y = s.ctx y) ∧ t.engines = s.engines ∧ t.mem = r.mem))) ∧
  (∀ (s : State) (d : Nat), d < 4 →
    let r := s.replace d
    let free := s.svc.spareCores.filter (fun c => dieOf c == d && (s.core c).state != .dead)
    (r.state = 0 → r.queue = [] → exec (.coreReplaceStart d) s = .next s) ∧
    (r.state = 2 → exec (.coreReplaceStart d) s = .next s) ∧
    (∀ o cause l, r.state = 0 → r.queue = (o, cause) :: l →
      (free = [] → exec (.coreReplaceStart d) s = .next ((s.modReplace d (fun r =>
        { r with queue := l, state := 3, old := o, cause := cause })).waitAction o 0 3 1)) ∧
      (∀ n, nearest (coreDistance false (o % 144 % 12) (o % 144 / 12)) free = some n → ∃ t : State,
        exec (.coreReplaceStart d) s = .next t ∧ t.mem = s.mem ∧ (Config.coreSelfTest s.draws = true →
          t.replace d = { r with state := 1, old := o, new := n, cause := cause, queue := l, map := [] } ∧
          (t.core n).state = .idle ∧ t.svc.spareCores = s.svc.spareCores.erase n))) ∧
    (r.state ≠ 2 → exec (.coreReplaceSwitch d) s = .next s) ∧
    (s.heldAt r.old r.e = false → exec (.coreReplaceSwitch d) s = .next s) ∧
    (∀ (o n : Nat) (left : Block → Bool) (bs : List Block) (fs : List Nat) (b : Block), o ≠ n → b ∈ rebind o n left bs fs → b.core = o → b.keep = true) ∧
    (∀ x, r.state = 2 → (s.core r.old).ctx = some x → s.heldAt r.old r.e = true → s.unmoved x r ≠ [] → exec (.coreReplaceSwitch d) s =
      .next ((s.modSeq r.old (fun q => { q with armed := none })).modReplace d (fun r => { r with state := 1 }))) ∧
    (∀ x, r.state = 2 → (s.core r.old).ctx = some x → s.heldAt r.old r.e = true → s.unmoved x r = [] → r.old ≠ r.new → s.memOk = true →
      (s.ctx x).bank0.state ≠ .chrysalis → (s.ctx x).bank1.state ≠ .chrysalis →
      ∃ t : State, exec (.coreReplaceSwitch d) s = .next t ∧
        (t.ctx x).cores = (s.ctx x).cores.map (fun c => if c = r.old then r.new else c) ∧ (t.ctx x).state = (s.ctx x).state ∧
        (t.core r.new).seq = { (s.core r.old).seq with armed := none } ∧ (t.core r.new).state = (s.core r.old).state ∧
        (t.core r.new).comm.epoch = nextEpoch (s.core r.new).comm.epoch ∧ (t.core r.old).ctx = none ∧
        (t.core r.old).comm.epoch = nextEpoch (nextEpoch (s.core r.old).comm.epoch) ∧
        (∀ i, i < 0xC0000 → Mem.read t.mem (coreBase r.new + i) = Mem.read s.mem (coreBase r.old + i)) ∧
        (t.replace d).state = 0 ∧ (t.replace d).queue = r.queue ∧ t.count 0x2C10 6 = (s.bump 0x2C10 6).count 0x2C10 6))

/-! ### Flue -/

/-- A frame of a trained port (R177): one with a bad CRC asks for a replay; a good one acknowledges, returns credits and lets what waits go out, or
else an IDLE frame, in training a HELLO; an IDLE does nothing more. A NAK sends every frame after its ACK again. A numbered frame out of its turn is
not acted on: ahead of its turn it asks for a replay, a duplicate is dropped. The first good frame after a retrain, by the role its header tells,
shows whether a mirror pair still agrees (R183). A HELLO from another module brings a link in training UP; one with the module's own number holds it
in training and is recorded once (R177). The model's own choices it rests on: log 7, 61, 114, 154, 160, 172. -/
def Obligations.FlueLinksComeUp : Prop :=
  (∀ (s : State) (p : Nat) (h : FlueHdr) (es : List EpochEntry),
    let q := s.port p
    let f := s.frameHeader p h
    let u := f.rejoin p h
    (q.rejoin = false ∨ q.state ≠ 2 → u = f) ∧
    (q.rejoin = true → q.state = 2 → u = (f.modPort p (fun q => { q with rejoin := false })).pairMirror p q.remoteRole (h.role == 1)) ∧
    (q.trained = false → exec (.idle p h) s = .next s ∧ exec (.epoch p h es) s = .next s) ∧
    (q.trained = true → h.crcOk = false → exec (.idle p h) s = .next
      (let v := s.modPort p (fun q => { q with nakDue := true }); if q.state = 1 then v.sendHello p else v)) ∧
    (q.trained = true → h.crcOk = true → exec (.idle p h) s = .next ((u.modPort p (fun q => { q with heard := true })).portAnswer p h)) ∧
    (q.trained = true → h.crcOk = true → h.nak = false → q.out = [] → q.rejoin = false →
      let v := s.modPort p (fun q => { q with acked := h.ack, replay := q.replay.filter (fun f => !ackedBy f.seq h.ack),
                                              credits := q.credits + h.creditRet, lastFrame := s.time.up, replayRun := 0, heard := true })
      exec (.idle p h) s = .next (if q.state = 1 then v.sendHello p else if q.state = 2 then v.sendIdle p else v)) ∧
    (((s.sendIdle p).port p).onLine =
      some ⟨⟨0, false, false, 0, 0, []⟩, 0, q.rxSeq, q.nakDue, min 255 q.owed, mirrorRole s.mirror.state⟩) ∧
    (h.nak = true → q.replay.filter (fun f => !ackedBy f.seq h.ack) ≠ [] → (f.port p).replayRun = q.replayRun + 1 ∧
      (f.port p).onLine.map (fun x => (x.seq, x.frame)) = (q.replay.filter (fun f => !ackedBy f.seq h.ack)).getLast?.map (fun x => (x.seq, x.frame)) ∧
      (q.trained = true → h.crcOk = true → q.out = [] → q.rejoin = false → exec (.idle p h) s = .next (f.modPort p (fun q => { q with heard := true }))) ∧
      f.count (flueIdx p) 7 = (s.bump (flueIdx p) 7).count (flueIdx p) 7) ∧
    (q.trained = true → h.crcOk = true → q.state = 2 → h.seq ≠ (q.rxSeq + 1) % 65536 → ackedBy h.seq q.rxSeq = false →
      exec (.epoch p h es) s = .next ((u.modPort p (fun q => { q with nakDue := true })).portAnswer p h)) ∧
    (q.trained = true → h.crcOk = true → q.state = 2 → h.seq ≠ (q.rxSeq + 1) % 65536 → ackedBy h.seq q.rxSeq = true →
      exec (.epoch p h es) s = .next (u.portAnswer p h))) ∧
  (∀ (s : State) (p : Nat) (h : FlueHdr) (m rp role : Nat), (s.port p).trained = true → h.crcOk = true → (s.port p).state = 1 →
    (m ≠ s.cfg 0x2D00 1 → ∃ t : State, exec (.hello p h m rp role) s = .next t ∧ (t.port p).state = 2 ∧ (t.port p).remoteId = m ∧
      (t.port p).remotePort = rp ∧ (t.port p).remoteSerial = h.aux ∧ (∀ x, t.ctx x = s.ctx x) ∧ t.engines = s.engines ∧ t.mem = s.mem) ∧
    (m = s.cfg 0x2D00 1 → ∃ t : State, exec (.hello p h m rp role) s = .next t ∧ (t.port p).state = 1 ∧ (t.port p).remoteId = m ∧
      t.ash = (if (s.port p).conflict = true then s else (s.modPort p (fun q => { q with remoteId := m })).flueRecord p 3 0).ash ∧
      (t.port p).conflict = true ∧ t.mirror = s.mirror ∧ t.cores = s.cores ∧ t.mem = s.mem))

/-- Numbered frames in their turn (R178, R179, R183): an EPOCH report replaces what the remote last reported; a message is checked in the order of
R179 and delivered, credited or refused over the hub bridge, whose retrain stalls it and whose closed end drops it; what waits behind a stalled
bridge or a frozen master keeps its link credits (R278), and the answer goes back to its sender; a mirrored frame and a TAKEOVER act in standby. The
model's own choices it rests on: log 7, 61, 106, 111, 114, 115, 147, 154, 160. -/
def Obligations.FlueMessagesInOrder : Prop :=
  ∀ (s : State) (p n : Nat) (h : FlueHdr) (f : State → State), (s.port p).trained = true → h.crcOk = true → (s.port p).state = 2 →
    h.seq = ((s.port p).rxSeq + n) % 65536 → 0 < n →
    let u := (((s.frameHeader p h).rejoin p h).modPort p (fun q => { q with rxSeq := h.seq, nakDue := false, owed := q.owed + n, heard := true })).bumpBy (flueIdx p) 6 n
    let fin := fun (v : State) => v.portAnswer p h
    (s.flueReceive p h n f = fin (f u)) ∧
    (∀ es, n = 1 → exec (.epoch p h es) s = .next (fin (u.epochReport p es))) ∧
    (∀ es, ((u.epochReport p es).port p).epochs =
      (u.port p).epochs.filter (fun e => !es.any (fun n => n.ctx == e.ctx && n.lcore == e.lcore)) ++ es) ∧
    (n = 1 → exec (.takeover p h) s = .next (fin (if p = mirrorPort u ∧ u.mirror.state = 2 then u.takeover 2 else u))) ∧
    (∀ g st q fr, n = messageFrames (ceilDiv fr.length 64) → exec (.mirrorFrame p h g st q fr) s =
      .next (fin (if p = mirrorPort u ∧ u.mirror.state = 2 ∧ u.mirrored g = true then u.frameOut g st q fr false true else u))) ∧
    (∀ m st e, u.flueAnswer p m st e = u.sendItem p
      ⟨messageOut ⟨m.srcCtx, m.srcLcore, m.srcEpoch, m.destCtx, m.destLcore, e, m.channel, 0, 2, m.mseq, st⟩ [], none, none⟩) ∧
    (∀ m pl, n = messageFrames (if m.mtype = 0 then m.len else 0) →
      ((u.ctx m.destCtx).state = .none ∨ (u.ctx m.destCtx).cores[m.destLcore]? = none →
        exec (.message p h m pl) s = .next (fin (u.flueRefuse p 1 m 0))) ∧
      (∀ c, (u.ctx m.destCtx).state ≠ .none → (u.ctx m.destCtx).cores[m.destLcore]? = some c →
        let e := (u.core c).comm.epoch
        let a := coreBase c + 64 * m.aux
        let keeps := u.modPort p (fun q => { q with owed := q.owed - n })
        let way := fun (l : Nat) (v : State) => v.crossed 4 (dieOf c) l
        let clear := u.pathStalls 4 (dieOf c) = false ∧ u.pathShut 4 (dieOf c) = none ∧ u.pathUnmet 4 (dieOf c) = false
        let data := fun (b : Nat) => (⟨0, 0x10000 + b, c, m.channel, m.destEpoch, m.srcEpoch, m.len, m.mseq, m.mseq, m.aux, (0, 0, 0), 0, pl, some p, []⟩ : Msg)
        let held := fun (b : Nat) (k : Master) =>
          { k with held := k.held ++ [⟨a, true, 64 * m.len, pl, 0, some (data b, m), none, none⟩] }
        (m.destEpoch = 0 ∨ m.destEpoch ≠ e → exec (.message p h m pl) s = .next (fin (u.flueRefuse p 2 m e))) ∧
        (m.destEpoch ≠ 0 → m.destEpoch = e →
          (u.senderBinding p m = none → exec (.message p h m pl) s = .next (fin (u.flueRefuse p 3 m e))) ∧
          (∀ b, u.senderBinding p m = some b → m.mtype = 2 → exec (.message p h m pl) s = .next (fin (u.flueResult p c (0x10000 + b) m))) ∧
          (∀ b, u.senderBinding p m = some b → m.mtype = 1 → clear → (u.core c).comm.crossing = true → exec (.message p h m pl) s =
            .next (fin (((way 1 u.draw).modComm c (fun x => { x with credits := x.credits ++
              [⟨0x10000 + b, m.channel, m.aux, Config.creditLine u.draws % 32768, some p, false⟩] })).settle c))) ∧
          (∀ b, u.senderBinding p m = some b → m.mtype = 0 → (u.master (4 + p)).frozen = true →
            exec (.message p h m pl) s = .next (fin (keeps.modMaster (4 + p) (held b)))) ∧
          (∀ b, u.senderBinding p m = some b → m.mtype = 0 → (u.master (4 + p)).frozen = false →
            coreBase (c + 1) < a + 64 * m.len ∨ u.masterMay (4 + p) a (64 * m.len) true = false → exec (.message p h m pl) s =
              .next (fin (((u.freezeMaster (4 + p) a true).modPort p (fun q => { q with owed := q.owed - n })).modMaster (4 + p) (held b)))) ∧
          (∀ b, u.senderBinding p m = some b → m.mtype = 0 → (u.master (4 + p)).frozen = false →
            a + 64 * m.len ≤ coreBase (c + 1) → u.masterMay (4 + p) a (64 * m.len) true = true →
            (clear → (u.core c).comm.crossing = true → exec (.message p h m pl) s =
              .next (fin (((way (1 + m.len) u).deliverData (data b)).flueAnswer p m 0 e))) ∧
            (u.pathStalls 4 (dieOf c) = true → exec (.message p h m pl) s =
              .next (fin (keeps.modPort p (fun q => { q with stalled := q.stalled ++ [(data b, m)] })))) ∧
            (u.pathStalls 4 (dieOf c) = false → ∀ d, u.pathShut 4 (dieOf c) = some d → exec (.message p h m pl) s =
              .next (fin ((u.dieDrop d).flueAnswer p m 4 e)))) ∧
          (∀ b, u.senderBinding p m = some b → m.mtype = 1 → clear → (u.core c).comm.crossing = false → exec (.message p h m pl) s =
            .next (fin (((way 1 u.draw).crossDrop c).flueAnswer p m 4 e))))))

/-- Links retrain after 16 replays in a row, the slots bound to them at epoch 0 meanwhile; they go down after 100 µs without a valid frame, and come
back as their lanes are trained, a HELLO going out, with the frame credits that no waiting message takes up (R177, R178, R180, R278). A pair whose
two ends are active after a retrain keeps the lower MODULE_ID active (R183). Mirroring (R182, R183): the active's keepalive, the standby's timeout,
the two host commands and the release of held outputs. A handover is taken only from the active, a takeover only by the standby. The model's own
choices it rests on: log 7, 62, 94, 153, 172. -/
def Obligations.LinkStatesAndMirroring : Prop :=
  (∀ (s : State) (p : Nat),
    let q := s.port p
    (q.state = 2 → 16 ≤ q.replayRun → ∃ t : State, exec (.flueRetrain p) s = .next t ∧ t.port p = { q with
      state := 1, trained := false, retraining := true, replayRun := 0 } ∧ (∀ k, k ≠ p → t.port k = s.port k) ∧
      (∀ x b, field (s.binding x b) 0 2 = p → t.boundEpoch x b = 0) ∧ (∀ c, (t.core c).seq = (s.core c).seq) ∧ t.mem = s.mem) ∧
    (q.state ≠ 2 ∨ q.replayRun < 16 → exec (.flueRetrain p) s = .next s) ∧
    (q.state ≠ 0 → 100000 ≤ s.time.up - max q.lastFrame q.trainedAt → ∃ t : State, exec (.flueDown p) s = .next t ∧ (t.port p).state = 0 ∧
      (t.port p).trained = false ∧ (t.port p).epochs = [] ∧ (t.port p).credits = 0 ∧
      (q.state = 2 → p = mirrorPort s → s.mirror.state = 1 → (∀ c, (s.core c).seq.ops = []) → t.mirror.state = 3)) ∧
    (q.state = 0 ∨ s.time.up - max q.lastFrame q.trainedAt < 100000 → exec (.flueDown p) s = .next s) ∧
    (s.portPowered p = true → q.trained = false → q.retraining = false → exec (.flueLanesTrained p) s = .next ((s.modPort p (fun q =>
      { q with state := 1, trained := true, trainedAt := s.time.up, owed := Config.frameCredits - s.withheld p, conflict := false, heard := false })).sendHello p)) ∧
    (s.portPowered p = true → q.trained = false → q.retraining = true → q.out = [] → exec (.flueLanesTrained p) s =
      .next (((s.modPort p (fun q => { q with state := 2, trained := true, retraining := false, rejoin := true })).refillBound).sendIdle p)) ∧
    (∀ h : FlueHdr, q.rejoin = true → q.state = 2 → p = mirrorPort s → s.cfg 0x2D00 2 ≠ 0 → q.remoteRole ≠ 0 → s.cfg 0x2D00 2 ≠ q.remoteRole →
      s.mirror.state = 3 → h.role = 1 → ((s.frameHeader p h).rejoin p h).mirror.state = if s.cfg 0x2D00 1 < q.remoteId then 1 else 2) ∧
    (s.portPowered p = false ∨ q.trained = true → exec (.flueLanesTrained p) s = .next s)) ∧
  (∀ (s : State) (ses : Ses),
    let p := mirrorPort s
    (s.mirror.state = 1 → (s.port p).state = 2 → 10000 ≤ s.time.up - (s.port p).lastSent →
      exec .mirrorKeepalive s = .next (s.sendIdle p)) ∧
    (s.mirror.state ≠ 1 → exec .mirrorKeepalive s = .next s) ∧
    (s.mirror.state = 2 → 1000 * s.cfg 0x2D00 7 ≤ s.time.up - (s.port p).lastFrame → exec .mirrorTimeout s = .next (s.takeover 1)) ∧
    (s.mirror.state ≠ 2 ∨ s.time.up - (s.port p).lastFrame < 1000 * s.cfg 0x2D00 7 → exec .mirrorTimeout s = .next s) ∧
    (Served s ses 1 → s.mirror.state = 1 → exec (.mirrorCmdHandover ses) s = .next ((s.sendTakeover 7).giveReply ses ⟨0, []⟩)) ∧
    (Served s ses 1 → s.mirror.state ≠ 1 → exec (.mirrorCmdHandover ses) s = .next (s.refuse ses 0x2D00 11 0x08000022)) ∧
    (Served s ses 1 → s.mirror.state = 2 → exec (.mirrorCmdTakeover ses) s = .next ((s.takeover 3).giveReply ses ⟨0, []⟩)) ∧
    (Served s ses 1 → s.mirror.state ≠ 2 → exec (.mirrorCmdTakeover ses) s = .next (s.refuse ses 0x2D00 11 0x08000022)) ∧
    (∀ cause, (s.takeover cause).mirror.state = (if (s.port p).state = 2 then 1 else 3) ∧
      (bit (s.cfg 0x2D00 8) 0 = false → (s.takeover cause).mirror.holding = false ∧ ∀ n, n < 32 → ((s.takeover cause).trip n).held = false)) ∧
    (s.mirror.awaitMark = true → s.mirror.markSeen = true → ∃ t : State, exec .mirrorRelease s = .next t ∧ t.mirror.holding = false ∧
      t.mirror.awaitMark = false ∧ t.mirror.markSeen = false ∧ (∀ n, n < 32 → (t.trip n).held = false) ∧ t.cores = s.cores ∧ t.mem = s.mem) ∧
    (s.mirror.awaitMark = false ∨ s.mirror.markSeen = false → exec .mirrorRelease s = .next s))

/-! ### Time, measurement, outputs -/

/-- The GTC against its reference (R213, R215-R217): what a reference event does in each state, which events are compared, the loss of the source,
by missed cycles or with DC inactive, and latches. Events missing in between leave the cycle as it was. The model's own choices it rests on: log 7,
53, 117. -/
def Obligations.GtcFollowsReference : Prop :=
  ∀ (s : State) (dc : Nat),
    let src := s.cfg 0x2300 2
    let z := s.seeRef dc
    let t := z.time
    let off := z.refTime dc - t.gtc
    let dt := t.up - t.lastRef
    let win := s.cfg 0x2300 6
    let follows := src ≠ 0 ∧ (t.mode = .acquire ∨ t.mode = .locked) ∧ t.lastRef ≠ 0 ∧ dt ≠ 0 ∧ z.refAccepted dc = true
    let seen : TimeBase := { t with lastRef := t.up, cmpDc := dc }
    let sum : TimeBase := { seen with
      offset := off, outliers := 0, integral := t.integral + off,
      rate := rateOf off (t.integral + off) dt, good := (if off.natAbs ≤ win then t.good + 1 else 0),
      rates := (t.rates ++ [rateOf off (t.integral + off) dt]).drop (t.rates.length + 1 - 64) }
    (src = 0 → exec (.referenceEvent dc) s = .next s) ∧
    (t.gtc = s.time.gtc ∧ t.mode = s.time.mode ∧ t.lastSeen = s.time.up ∧
      (src = 1 → t.lastDc = dc ∧ (s.time.lastDc ≠ 0 → t.cycle = nextCycle s.time.cycle (dc - s.time.lastDc)))) ∧
    (∀ n m : Nat, nextCycle 0 n = n ∧ (0 < n → 0 < m → nextCycle n (m * n) = n)) ∧
    (src = 1 → (z.refAccepted dc = true ↔ 31250 ≤ t.cycle ∧ t.cycle ≤ 100000000 ∧ (1000000 ≤ t.cycle ∨ 1000000 ≤ dc - t.cmpDc))) ∧
    (src ≠ 1 → z.refAccepted dc = true) ∧
    (src ≠ 0 → t.mode = .holdover → ∃ u : State, exec (.referenceEvent dc) s = .next u ∧ u.time.mode = .acquire ∧ u.time.lastRef = t.up ∧ u.time.cycle = 0 ∧
      u.time.gtc = t.gtc ∧ u.cores = s.cores ∧ u.mem = s.mem) ∧
    (src ≠ 0 → t.mode = .acquire ∨ t.mode = .locked → t.lastRef = 0 → exec (.referenceEvent dc) s = .next { z with time := seen }) ∧
    (src ≠ 0 → t.mode = .acquire ∨ t.mode = .locked → t.lastRef ≠ 0 → z.refAccepted dc = false → exec (.referenceEvent dc) s = .next z) ∧
    (follows → t.mode = .locked → 10 * win < off.natAbs → t.outliers < 2 → exec (.referenceEvent dc) s = .next { z with time :=
      { seen with offset := off, outliers := t.outliers + 1 } }) ∧
    (follows → t.mode = .locked → 10 * win < off.natAbs → 2 ≤ t.outliers → ∃ u : State, exec (.referenceEvent dc) s = .next u ∧
      u.time.mode = .acquire ∧ u.time.rate = t.rate ∧ u.time.offset = off ∧ u.cores = s.cores ∧ u.mem = s.mem) ∧
    (follows → t.mode = .acquire ∨ off.natAbs ≤ 10 * win → t.mode = .locked ∨ sum.good < 16 →
      exec (.referenceEvent dc) s = .next { z with time := sum }) ∧
    (follows → t.mode = .acquire → 16 ≤ sum.good → ∃ u : State, exec (.referenceEvent dc) s = .next u ∧ u.time.mode = .locked ∧
      u.time.rate = sum.rate ∧ u.time.offset = off ∧ u.cores = s.cores ∧ u.mem = s.mem) ∧
    (∀ o i : Int, ∀ d : Nat, -100000 ≤ rateOf o i d ∧ rateOf o i d ≤ 100000) ∧
    (s.sourceMissing = true ∨ s.dcInactive = true → s.time.mode = .acquire ∨ s.time.mode = .locked → ∃ u : State, exec .sourceLost s = .next u ∧ u.time.mode = .holdover ∧
      u.time.rate = s.time.meanRate ∧ u.time.holdoverSince = t.gtc ∧ u.cores = s.cores ∧ u.mem = s.mem) ∧
    (s.sourceMissing = false → s.dcInactive = false → exec .sourceLost s = .next s.draw) ∧
    (src = 1 → s.clocked 0 = false → s.dcInactive = true) ∧ (src ≠ 1 → s.dcInactive = false) ∧
    (src = 1 → s.time.cycle ≠ 0 → (s.sourceMissing = true ↔ 4 * s.time.cycle ≤ s.time.up - s.time.lastSeen)) ∧
    (src = 2 → (s.sourceMissing = true ↔ 1500000000 ≤ s.time.up - s.time.lastSeen)) ∧ (src = 0 → s.sourceMissing = false) ∧
    (exec (.latch 0 dc) s = .next { s with time := { s.time with latch0 := s.time.gtc, dcLatch0 := dc } }) ∧
    (exec (.latch 1 dc) s = .next { s with time := { s.time with latch1 := s.time.gtc, dcLatch1 := dc } })

/-- R214: a write to STEP_REQ adds its value to the GTC at once; without Engineer privilege, while a context runs, and where the GTC would fall
below 0 or pass its end, as it never wraps, it is refused and changes nothing (with which code past its end the rule does not say, and the statement
leaves it open). A comparison with the source corrects the rate only and leaves the GTC itself. -/
def Obligations.GtcStepsAsWritten : Prop :=
  ∀ (s : State) (ses : Ses) (v : Int),
    let t := s.time
    (Served s ses 2 → -(2 ^ 63) ≤ v → v < 2 ^ 63 → s.anyRunning = false → 0 ≤ (t.gtc : Int) + v → (t.gtc : Int) + v < 2 ^ 64 →
      ∃ u : State, exec (.stepReq ses v) s = .next (u.giveReply ses ⟨0, []⟩) ∧
        u = { s with time := { t with gtc := ((t.gtc : Int) + v).toNat }, outs := { s.outs with dacs := u.outs.dacs } } ∧
        (∀ ch, ch < 16 → u.dac ch = { s.dac ch with lastInstant := (u.dac ch).lastInstant, gridFrom := (u.dac ch).gridFrom })) ∧
    (s.reachable ses = true → s.serves = true → (s.session ses).level < 2 →
      exec (.stepReq ses v) s = .next (s.refuse ses 0x2300 9 0x06010000)) ∧
    (Served s ses 2 → -(2 ^ 63) ≤ v → v < 2 ^ 63 → s.anyRunning = true →
      exec (.stepReq ses v) s = .next (s.refuse ses 0x2300 9 0x08000022)) ∧
    (Served s ses 2 → -(2 ^ 63) ≤ v → v < 2 ^ 63 → s.anyRunning = false → (t.gtc : Int) + v < 0 →
      exec (.stepReq ses v) s = .next (s.refuse ses 0x2300 9 0x06090030)) ∧
    (Served s ses 2 → -(2 ^ 63) ≤ v → v < 2 ^ 63 → s.anyRunning = false → 2 ^ 64 ≤ (t.gtc : Int) + v →
      ∃ code : Nat, exec (.stepReq ses v) s = .next (s.refuse ses 0x2300 9 code)) ∧
    (∀ dc, ∃ u : State, exec (.referenceEvent dc) s = .next u ∧ u.time.gtc = t.gtc)

/-- Trackers (R219-R221): an update, 32 ns after the one before, moves the phase by the frequency's 32 ns and, outside HOLDOVER, by what the last
event shifted it; an event's phase error is taken at its own instant (R222); an edge that stands for phase 0, an encoder's counts and index, and
faults of the input; an event of another kind of source, or of an input that is off, changes nothing. The model's own choices it rests on: log 7,
22, 54, 157. -/
def Obligations.TrackersFollowInputs : Prop :=
  ∀ (s : State) (t : Nat),
    let k := s.trk t
    let src := s.cfg (trkIdx t) 1
    let n := k.rem + k.freq * 32 * 2 ^ 32
    let h := k.rem + s.trkSpeed t * 32 * 2 ^ 32
    let now := s.time.up
    let phase : Nat :=
      (((k.phase : Int) + (k.rem + s.trkSpeed t * ((now - k.lastUpdate : Nat) : Int) * 2 ^ 32) / 1000000000000) % 2 ^ 32).toNat
    let err := toSigned 32 (2 ^ 32 - phase)
    let per := 4 * s.cfg (trkIdx t) 6
    let far := 4 < min (k.counts % (per : Int)).natAbs ((per : Int) - k.counts % (per : Int)).natAbs
    let due := k.lastUpdate + 32 ≤ now
    (k.state = .off → exec (.trackerUpdate t) s = .next s ∧ ∀ ev, exec (.trackerInputEvent t ev) s = .next s) ∧
    (¬ due → exec (.trackerUpdate t) s = .next s) ∧
    (due → k.state = .acquiring ∨ k.state = .locked → s.trkInputOk t = true → ∃ u : State, exec (.trackerUpdate t) s = .next u ∧
      (u.trk t).phase = ofSigned 32 ((k.phase : Int) + (n / 1000000000000 + k.shift)) ∧ (u.trk t).rem = (n % 1000000000000).toNat ∧
      (u.trk t).shift = 0 ∧ (u.trk t).lastUpdate = k.lastUpdate + 32 ∧ (u.trk t).state = k.state ∧ (∀ i, i ≠ t → u.trk i = s.trk i) ∧ u.time = s.time) ∧
    (due → k.state = .acquiring ∨ k.state = .locked → s.trkInputOk t = false → ∃ u : State, exec (.trackerUpdate t) s = .next u ∧
      (u.trk t).state = .holdover) ∧
    (due → k.state = .holdover → ∃ u : State, exec (.trackerUpdate t) s = .next u ∧ (u.trk t).state = .holdover ∧
      (u.trk t).phase = ofSigned 32 ((k.phase : Int) + h / 1000000000000) ∧ (∀ i, i ≠ t → u.trk i = s.trk i) ∧ u.time = s.time) ∧
    (s.trkInputOk t = false → ∀ ev, ev ≠ .missing → exec (.trackerInputEvent t ev) s = .next s) ∧
    (k.state ≠ .off → (src < 3 ∨ 5 < src → exec (.trackerInputEvent t .edge) s = .next s ∧ exec (.trackerInputEvent t .missing) s = .next s) ∧
      (src ≠ 6 → exec (.trackerInputEvent t .index) s = .next s ∧ exec (.trackerInputEvent t .skip) s = .next s ∧
        ∀ f, exec (.trackerInputEvent t (.count f)) s = .next s) ∧
      (src ≠ 1 → src ≠ 2 → exec (.trackerInputEvent t .sample) s = .next s) ∧
      (3 ≤ src → src ≤ 5 → s.edgeMissing t = true → ∃ u : State, exec (.trackerInputEvent t .missing) s = .next u ∧ (u.trk t).state = .holdover ∧
        (u.trk t).phase = k.phase ∧ u.cores = s.cores ∧ u.mem = s.mem) ∧
      (s.edgeMissing t = false → exec (.trackerInputEvent t .missing) s = .next s) ∧
      (k.lastEvent ≠ 0 → (s.edgeMissing t = true ↔ 2000000000000 ≤ s.cfg (trkIdx t) 3 * (now - k.lastEvent))) ∧
      (s.trkInputOk t = true →
        (3 ≤ src → src ≤ 5 → k.lastEvent = 0 → exec (.trackerInputEvent t .edge) s = .next (s.modTrk t (fun k =>
          { k with lastEvent := now, shift := err, rem := 0 }))) ∧
        (3 ≤ src → src ≤ 5 → k.lastEvent ≠ 0 → k.lastEvent < now → exec (.trackerInputEvent t .edge) s = .next ((s.modTrk t (fun k =>
          { k with lastEvent := now, shift := err, rem := 0 })).trkLock t (eventFreq 1 (now - k.lastEvent)) err)) ∧
        (src = 6 → ∃ u : State, exec (.trackerInputEvent t .skip) s = .next u ∧ (u.trk t).state = .holdover ∧ (u.trk t).phase = k.phase ∧
          u.cores = s.cores ∧ u.mem = s.mem) ∧
        (src = 6 → ¬ (k.indexed = true ∧ far) → exec (.trackerInputEvent t .index) s = .next (s.modTrk t (fun k =>
          { k with counts := 0, indexed := true, shift := err, rem := 0 }))) ∧
        (src = 6 → k.indexed = true → far → ∃ u : State, exec (.trackerInputEvent t .index) s = .next u ∧ (u.trk t).state = .holdover ∧
          (u.trk t).counts = 0 ∧ (u.trk t).shift = toSigned 32 (2 ^ 32 - (s.trkFault t).phaseNow t) ∧ u.cores = s.cores ∧ u.mem = s.mem) ∧
        (∀ f, src = 6 → ∃ u : State, exec (.trackerInputEvent t (.count f)) s = .next u ∧
          (u.trk t).counts = (k.counts + if f then 1 else -1) % (per : Int) ∧ (u.trk t).lastEvent = now ∧
          (u.trk t).phase = k.phase ∧ u.cores = s.cores ∧ u.mem = s.mem) ∧
        (src = 1 ∨ src = 2 → ∃ u : State, exec (.trackerInputEvent t .sample) s = .next u ∧ u.draws = s.draws + 2 ∧
          (u.trk t).lastEvent = now ∧ (u.trk t).phase = k.phase ∧ (k.state = .locked → (u.trk t).shift.natAbs ≤ 8589934) ∧
          u.cores = s.cores ∧ u.mem = s.mem))) ∧
    (∀ f e : Int, k.state = .acquiring → s.freqOk t f = true → e.natAbs ≤ 2 ^ 24 → 15 ≤ k.good → ((s.trkLock t f e).trk t).state = .locked) ∧
    (∀ f e : Int, k.state = .locked ∨ k.state = .acquiring → s.freqOk t f = false ∨ 2 ^ 28 < e.natAbs → ((s.trkLock t f e).trk t).state = .holdover)

/-- Clock monitors, channel faults, decimation and the comparator (R232-R236): what a window end, a fault, a result and a decision leave; a channel
that is off or not clocked takes none. A window has its R bits whatever the pin's clock did in it, and a restart leaves nothing of the abandoned one
(R233-R235). Auxiliary conversions, frames and rings (R237-R242): a conversion's code and its value for frames, in its input's turn on its converter
and 500 ns after the one before; a group with D results of each member forms a frame and uses them up; one without does not; rings freeze when their
entries after a trip are written. The model's own choices it rests on: log 7, 56, 57, 118, 120. -/
def Obligations.MeasurementsAndFrames : Prop :=
  (∀ (s : State) (c p n : Nat) (bits : List Bool),
    let i := chIdx c
    let k := s.chan c
    let pin := s.cfg i 2
    let r := s.cfg i 4
    let q := decimate r (s.cfg i 5) (s.chTrim c) (windowBits ((k.windows + 1) * r) bits)
    let ends := s.chEnabled c = true ∧ r ≤ k.winBits + s.bitsDone c k.winAt (s.time.up - 20)
    let history := k.cmpBits + s.bitsDone c k.cmpStart s.time.up
    let valid := if k.faulted = true ∧ s.windowValid c bits = true then k.validWindows + 1 else 0
    let subst := k.faulted = true ∧ valid < 3
    (p < 8 → bit (s.cfg 0x2470 (p + 1)) 0 = false → 4 ≤ n → n ≤ 26 → ∃ t : State, exec (.mclkWindow p n) s = .next t ∧ t.mclk p = ⟨false⟩ ∧
      ((s.mclk p).fault = true → c < 96 → pin = p → t.chan c = { k with spoiled := true }) ∧ (pin ≠ p → t.chan c = k) ∧ t.cores = s.cores) ∧
    (p < 8 → bit (s.cfg 0x2470 (p + 1)) 0 = false → n < 4 ∨ 26 < n → c < 96 → pin = p → s.chEnabled c = true →
      ∃ t : State, exec (.mclkWindow p n) s = .next t ∧ t.mclk p = ⟨true⟩ ∧ (t.chan c).clk = true ∧ t.cores = s.cores) ∧
    (bit (s.cfg 0x2470 (p + 1)) 0 = true → exec (.mclkWindow p n) s = .next s) ∧
    (s.chEnabled c = true → k.faulted = false →
      ∃ t : State, exec (.channelFault c 1) s = .next t ∧ (t.chan c).stuck = true ∧ (t.chan c).last = k.last ∧
        t.ash.inbox.length ≥ s.ash.inbox.length + 1 ∧ t.cores = s.cores ∧
        (s.cfg i 6 ≠ 0 → s.cfg i 0x0B = 1 → (t.chan c).evHi = true ∧ (t.chan c).evLo = true) ∧
        (s.cfg i 6 = 0 → (t.chan c).evHi = k.evHi ∧ (t.chan c).evLo = k.evLo)) ∧
    (s.chEnabled c = false → ∀ cause, exec (.channelFault c cause) s = .next s) ∧
    ((s.mclk pin).fault = false → exec (.channelFault c 0) s = .next s) ∧
    (k.faulted = true → 3 ≤ k.validWindows → exec (.channelFaultExit c) s = .next (s.modChan c (fun k =>
      { k with clk := false, stuck := false, manch := false, validWindows := 0, cmpStart := s.time.up, cmpBits := 0 }))) ∧
    (∀ on : Nat × Nat → Bool, c < 96 → s.cfg i 1 ≠ 0 → on (pin, r) = true → (s.restartWindows on).chan c =
      { k with winAt := s.time.up, windows := 0, winBits := 0, spoiled := false, run := 0 }) ∧
    (k.faulted = false ∨ k.validWindows < 3 → exec (.channelFaultExit c) s = .next s) ∧
    (¬ ends → exec (.decimatedResult c bits) s = .next s) ∧
    (ends → ∃ t : State, exec (.decimatedResult c bits) s = .next t ∧ (t.chan c).last = q ∧ (t.chan c).validWindows = valid ∧
      (t.chan c).skip = k.skip - 1 ∧ (t.chan c).winAt = s.nextWindow c ∧ (t.chan c).windows = k.windows + 1 ∧ (t.chan c).winBits = 0 ∧
      (t.chan c).spoiled = false ∧
      (k.skip = 0 → (List.range 16).any (fun g => (s.fgChans g).contains c) = true → ∃ v, (t.chan c).fresh = k.fresh ++ [v] ∧
        v.stamp = s.time.gtc ∧ (v.faulted = true ↔ subst) ∧ (subst → v.value = toSigned 16 (s.cfg i 0x0C)) ∧ (¬ subst → v.value = q)) ∧
      (0 < k.skip → (t.chan c).fresh = k.fresh) ∧ (∀ d, d ≠ c → t.chan d = s.chan d) ∧ t.cores = s.cores ∧ t.mem = s.mem) ∧
    (s.windowValid c bits = true →
      (s.mclk pin).fault = false ∧ k.spoiled = false ∧ (k.runOver r bits).2.2 = false) ∧
    (-32768 ≤ q ∧ q ≤ 32767) ∧
    (s.cfg i 6 ≠ 0 → s.chEnabled c = false ∨ k.faulted = true ∨ bits.length < 2 * s.cfg i 7 - 1 ∨
      history < 2 * s.cfg i 7 - 1 → exec (.comparator c bits) s = .next s) ∧
    (s.cfg i 6 ≠ 0 → s.chEnabled c = true → k.faulted = false → 2 * s.cfg i 7 - 1 ≤ bits.length → 2 * s.cfg i 7 - 1 ≤ history →
      let ev := eventsAfter k (comparatorValue (s.cfg i 7) (s.chTrim c) bits) (toSigned 16 (s.cfg i 8)) (toSigned 16 (s.cfg i 9)) (s.cfg i 0x0A)
      ∃ t : State, exec (.comparator c bits) s = .next t ∧ (t.chan c).evHi = ev.1 ∧ (t.chan c).evLo = ev.2 ∧ (t.chan c).last = k.last ∧
        t.cores = s.cores) ∧
    (s.cfg i 6 = 0 → ∃ t : State, exec (.comparator c bits) s = .next t ∧ (t.chan c).evHi = false ∧ (t.chan c).evLo = false)) ∧
  (∀ (s : State) (ses : Ses) (a g r v code : Nat),
    let mark := bit (s.cfg 0x2470 0x0A) 0
    let ring := Tab.get Ring.reset s.meas.rings r
    let ring' : Ring := { ring with frozen := bit v 0, armed := bit v 1, post := if bit v 1 && !bit v 0 then ring.post else none }
    (s.cfg (0x2460 + a) 1 = 0 ∨ s.clocked 10 = false → exec (.auxConversion a code) s = .next s) ∧
    (s.convNext (a / 4) ≠ some a ∨ s.convReady (a / 4) = false → exec (.auxConversion a code) s = .next s) ∧
    (s.convNext (a / 4) = some a → s.cfg (0x2460 + a) 1 = 1 ∧ (mark = true → (s.aux a).cycles ≠ 0)) ∧
    (s.convReady (a / 4) = true ↔ ∀ t, (s.conv (a / 4)).since = some t → t + 500 ≤ s.time.up) ∧
    (s.convNext (a / 4) = some a → s.convReady (a / 4) = true → s.clocked 10 = true →
      (List.range 16).any (fun g => (s.fgAux g).contains a) = true → exec (.auxConversion a code) s = .next
        (({ s with meas := { s.meas with convs := Tab.set s.meas.convs (a / 4) ⟨some a, some s.time.up⟩ } }).modAux a (fun k =>
        { k with last := s.auxInput a code, cycles := k.cycles - 1,
                 fresh := k.fresh ++ [(⟨auxValue (s.auxTrim a) (s.auxInput a code), s.time.gtc, false⟩ : Sample)] }))) ∧
    ((∀ ch, ch < 16 → s.clocked 12 = false ∨ s.cfg (dacIdx ch) 0x0E ≠ a) → s.auxInput a code = code % 65536) ∧
    (0x100 ≤ s.fgSource g ∧ s.fgSource g < 0x200) ∧
    ((s.fg g).state ≠ 1 ∨ (s.fgSamples g).any (fun m => decide (m.2.length < s.cfg (fgIdx g) 5)) = true →
      exec (.frameForm g) s = .next s) ∧
    (bit (s.cfg (fgIdx g) 7) 0 = true → (s.fg g).opened = false → exec (.frameForm g) s = .next s) ∧
    ((s.fg g).state = 1 → (s.fgSamples g).any (fun m => decide (m.2.length < s.cfg (fgIdx g) 5)) = false →
      bit (s.cfg (fgIdx g) 7) 0 = false ∨ (s.fg g).opened = true → ∃ t : State, exec (.frameForm g) s = .next t ∧
        (t.fg g).frames = ((s.fg g).frames + 1) % 2 ^ 64 ∧ (t.fg g).opened = false ∧ (t.fg g).state = 1 ∧
        (∀ c, c ∈ s.fgChans g → (t.chan c).fresh = (s.chan c).fresh.drop (s.cfg (fgIdx g) 5) ∧ (t.chan c).last = (s.chan c).last) ∧
        (∀ c, c ∉ s.fgChans g → t.chan c = s.chan c) ∧ t.cores = s.cores ∧ t.engines = s.engines) ∧
    (r < 16 → ring.armed = true → ring.post = some 0 → ring.frozen = false → exec (.ringFreeze r) s = .next { s with meas := { s.meas with
        rings := Tab.set s.meas.rings r { ring with frozen := true, post := none } } }) ∧
    (ring.armed = false ∨ ring.post ≠ some 0 ∨ ring.frozen = true → exec (.ringFreeze r) s = .next s) ∧
    (r < 16 → v < 4 → Served s ses 1 → exec (.ringCtrl ses r v) s = .next (({ s with meas := { s.meas with rings := Tab.set s.meas.rings r ring' } }).giveReply ses ⟨0, []⟩)))

/-- Sample instants, host codes and the current-steering path (R243-R247): the head of the queue goes to the ladder at a due instant; an empty queue
there is counted as an underrun; a host's code joins the queue of an ungranted channel with room; the path steps its pattern or its ramp. The
model's own choices it rests on: log 7, 30, 57, 119. -/
def Obligations.DacChannelsRun : Prop :=
  ∀ (s : State) (ses : Ses) (ch code : Nat), ch < 16 →
    let d := s.dac ch
    let i := dacIdx ch
    let at_ := if bit (s.cfg i 3) 0 then d.lastInstant else s.gridInstant ch
    let at' := if bit (s.cfg i 3) 0 then d.lastAt else some s.time.up
    let u := s.modDac ch (fun d => { d with due := false, lastInstant := at_, lastAt := at' })
    (s.instantDue ch = false → exec (.sampleInstant ch) s = .next s) ∧
    (s.instantDue ch = true → s.instantActs ch = false → exec (.sampleInstant ch) s = .next u) ∧
    (∀ v l, s.instantDue ch = true → s.instantActs ch = true → d.queue = v :: l → s.outs.dacClrLow = false → s.dacHeld ch = false →
      exec (.sampleInstant ch) s = .next ((u.modDac ch (fun d =>
        { d with queue := l, underrunRun := 0, releaseClear := false, ladder := v, ladderTrim := s.dacTrim ch 0, holdLevel := none })).settleEmits ch)) ∧
    (∀ v l, s.instantDue ch = true → s.instantActs ch = true → d.queue = v :: l → s.outs.dacClrLow = true ∨ s.dacHeld ch = true →
      exec (.sampleInstant ch) s = .next ((u.modDac ch (fun d => { d with queue := l, underrunRun := 0 })).settleEmits ch)) ∧
    (s.instantDue ch = true → s.instantActs ch = true → d.queue = [] → d.releaseClear = true →
      exec (.sampleInstant ch) s = .next ((u.modDac ch (fun d =>
        { d with ladder := s.cfg i 6, ladderTrim := s.dacTrim ch 0, releaseClear := false, holdLevel := none })).settleEmits ch)) ∧
    (s.instantDue ch = true → s.instantActs ch = true → d.queue = [] → d.releaseClear = false → d.awaitFirst = false → s.cfg i 8 = 0 →
      ∃ v : State, exec (.sampleInstant ch) s = .next (v.settleEmits ch) ∧ v.count i 0x13 = (s.bump i 0x13).count i 0x13 ∧
        v.dac ch = { d with due := false, lastInstant := at_, lastAt := at', holdLevel := none, underrunRun := d.underrunRun + 1 } ∧ v.mem = s.mem) ∧
    (Served s ses 1 → code < 65536 → s.cfg i 2 ≠ 0xFF → exec (.dacWrite ses ch code) s = .next (s.refuse ses i 16 0x08000022)) ∧
    (Served s ses 1 → code < 65536 → s.cfg i 2 = 0xFF → d.room ≠ 0 → d.fault = false → exec (.dacWrite ses ch code) s = .next
      ((s.modDac ch (fun d => { d with
        queue := d.queue ++ [code], powerClamp := d.powerClamp && d.rangeClamp, awaitFirst := false })).giveReply ses ⟨0, []⟩)) ∧
    (Served s ses 1 → code < 65536 → s.cfg i 2 = 0xFF → d.room = 0 ∨ d.fault = true →
      exec (.dacWrite ses ch code) s = .next ((s.bumpBy i 0x14 1).giveReply ses ⟨0, []⟩)) ∧
    (s.onFast ch = false ∨ d.fastRun = false ∨ d.fault = true ∨ d.handover = true ∨ s.clocked 12 = false ∨ s.time.up < d.fastAt + 10 * s.cfg i 0x0B →
      exec (.fastUpdate ch) s = .next s) ∧
    (s.onFast ch = true → d.fastRun = true → d.fault = false → d.handover = false → s.clocked 12 = true → d.fastAt + 10 * s.cfg i 0x0B ≤ s.time.up →
        bit (s.cfg i 0x0A) 0 = true →
      exec (.fastUpdate ch) s = .next (s.modDac ch (fun d => { d with
        fastPos := (d.fastPos + 1) % s.cfg i 0x0D, fast := s.num (patAddr ch ((d.fastPos + 1) % s.cfg i 0x0D)) 2,
        fastAt := d.fastAt + 10 * s.cfg i 0x0B, fastTrim := s.dacTrim ch 1 }))) ∧
    (s.onFast ch = true → d.fastRun = true → d.fault = false → d.handover = false → s.clocked 12 = true → d.fastAt + 10 * s.cfg i 0x0B ≤ s.time.up →
        bit (s.cfg i 0x0A) 0 = false →
      let tgt := s.codeValue ch (field (s.cfg i 0x0C) 16 16)
      let r := rampStep (s.codeValue ch d.fast) tgt (field (s.cfg i 0x0C) 32 16)
      (bit (s.cfg i 0x0A) 1 = false ∨ r ≠ tgt → exec (.fastUpdate ch) s = .next (s.modDac ch (fun d =>
        { d with fast := ofSigned 16 r, fastAt := d.fastAt + 10 * s.cfg i 0x0B, fastTrim := s.dacTrim ch 1 }))) ∧
      (bit (s.cfg i 0x0A) 1 = true → r = tgt → exec (.fastUpdate ch) s = .next (s.modDac ch (fun d => { d with
        fast := ofSigned 16 r, fastAt := d.fastAt + 10 * s.cfg i 0x0B, fastTrim := s.dacTrim ch 1, fastRun := false, returned := true,
        handover := true })))) ∧
    (∀ cur tgt : Int, ∀ step : Nat, (tgt - cur).natAbs ≤ step → rampStep cur tgt step = tgt) ∧
    (∀ cur tgt : Int, ∀ step : Nat, step < (tgt - cur).natAbs → (rampStep cur tgt step - cur).natAbs = step)

/-- Faults, clamps and rails of the DAC channels (R247, R248): a fault flushes the queue and holds the level of FAULT_ACT until released with no
cause present; EMITs that wait for the channel then go on; clamps end by the ladder taking the queue's head or CLEAR_CODE; DAC_CLR_N and the rails
act on every channel. The model's own choices it rests on: log 7, 58, 119. -/
def Obligations.DacFaultsAndClamps : Prop :=
  ∀ (s : State) (ses : Ses) (ch : Nat), ch < 16 →
    let d := s.dac ch
    let i := dacIdx ch
    let cleared := { d with ladder := s.cfg i 6, ladderTrim := s.dacTrim ch 0 }
    let after := if d.shortLatched = true then s.draw else s
    (∃ t : State, exec .dacClrNLow s = .next t ∧ t.outs = { s.outs with dacClrLow := true, dacs := t.outs.dacs } ∧ t.dac ch = cleared ∧ t.mem = s.mem ∧ t.cores = s.cores) ∧
    (s.outs.dacClrLow = false → exec .dacClrNHigh s = .next s) ∧
    (s.outs.dacClrLow = true → ∃ t : State, exec .dacClrNHigh s = .next t ∧ t.outs.dacClrLow = false ∧ t.mem = s.mem ∧ t.cores = s.cores ∧
      t.dac ch = (if d.fault then cleared else if s.onFast ch then { cleared with handover := true, fastRun := false }
        else { cleared with holdLevel := some (.code (s.cfg i 6)) })) ∧
    (∃ z : State, exec (.short ch) s = .next (z.settleEmits ch) ∧ (z.dac ch).shortLatched = true ∧ (z.dac ch).fault = true ∧
      (d.fault = true → z.dac ch = { d with shortLatched := true }) ∧
      (d.fault = false → (z.dac ch).queue = [] ∧ (z.dac ch).fastRun = false ∧ (z.dac ch).holdLevel = some (s.dacOut ch)) ∧
      (∀ k, k ≠ ch → z.dac k = { s.dac k with standby := (z.dac k).standby, releaseClear := (z.dac k).releaseClear }) ∧ z.mem = s.mem ∧ z.cores = s.cores) ∧
    (Served s ses 1 → d.fault = false → ∃ z : State, exec (.dacEnterFault ses ch) s = .next ((z.settleEmits ch).giveReply ses ⟨0, []⟩) ∧
      (z.dac ch).fault = true ∧ (z.dac ch).queue = [] ∧ (z.dac ch).fastRun = false ∧ (z.dac ch).holdLevel = some (s.dacOut ch) ∧
      (bit (s.cfg 0x2560 4) ch = true → bit z.outs.faultCause 3 = true) ∧
      (∀ k, k ≠ ch → z.dac k = { s.dac k with standby := (z.dac k).standby, releaseClear := (z.dac k).releaseClear }) ∧ z.mem = s.mem ∧ z.cores = s.cores) ∧
    (Served s ses 1 → d.fault = true → exec (.dacEnterFault ses ch) s = .next ((s.settleEmits ch).giveReply ses ⟨0, []⟩)) ∧
    (Served s ses 1 → d.fault = true → s.dacCause ch = false → exec (.dacRelease ses ch) s = .next ((after.modDac ch (fun d => { d with
      fault := false, shortLatched := false, awaitFirst := true, underrunRun := 0,
      holdLevel := some (s.faultLevel ch (d.holdLevel.getD .zero)) })).giveReply ses ⟨0, []⟩)) ∧
    (Served s ses 1 → d.fault = true → s.dacCause ch = true → exec (.dacRelease ses ch) s = .next (after.giveReply ses ⟨0, []⟩)) ∧
    (Served s ses 1 → d.fault = false → exec (.dacRelease ses ch) s = .next (s.giveReply ses ⟨0, []⟩)) ∧
    (d.rangeClamp = false → exec (.rangeClampEnd ch) s = .next s) ∧
    (d.rangeClamp = true → d.fault = true → exec (.rangeClampEnd ch) s = .next (s.modDac ch (fun d => { d with rangeClamp := false }))) ∧
    (d.rangeClamp = true → d.fault = false → s.outs.dacClrLow = false → exec (.rangeClampEnd ch) s = .next ((s.modDac ch (fun d => { d with
      rangeClamp := false, ladder := d.queue.headD (s.cfg i 6), ladderTrim := s.dacTrim ch 0, queue := d.queue.tail, holdLevel := none,
      releaseClear := false })).settleEmits ch)) ∧
    (d.rangeClamp = true → d.fault = false → s.outs.dacClrLow = true → exec (.rangeClampEnd ch) s = .next (s.modDac ch (fun _ =>
      { cleared with rangeClamp := false }))) ∧
    (d.handover = false → exec (.handoverClampEnd ch) s = .next s) ∧
    (d.handover = true → d.fault = true → exec (.handoverClampEnd ch) s = .next (s.modDac ch (fun d => { d with handover := false }))) ∧
    (d.handover = true → d.fault = false → s.onFast ch = false → s.outs.dacClrLow = false → exec (.handoverClampEnd ch) s = .next
      ((s.modDac ch (fun d => { d with
        handover := false, ladder := d.queue.headD (s.cfg i 6), ladderTrim := s.dacTrim ch 0, queue := d.queue.tail, holdLevel := none,
        releaseClear := false })).settleEmits ch)) ∧
    (d.handover = true → d.fault = false → s.onFast ch = true → ∃ t : State, exec (.handoverClampEnd ch) s = .next t ∧ (t.dac ch).handover = false ∧
      (t.dac ch).holdLevel = none ∧ (t.dac ch).fastRun = true ∧ (t.dac ch).fastPos = 0 ∧ (t.dac ch).fast =
        (if bit (s.cfg i 0x0A) 0 then s.num (patAddr ch 0) 2 else field (s.cfg i 0x0C) 0 16)) ∧
    (∃ t : State, exec .railFault s = .next t ∧ t.outs.railLow = true ∧ t.dacOut ch = .zero) ∧
    ((∀ e, e ∈ s.cores → ∀ o, o ∈ e.2.seq.ops → ∀ k n l f, o.body ≠ .emitDac k n l f) →
      ∃ t : State, exec .railFault s = .next t ∧ (t.dac ch).fault = true ∧ bit (t.dac ch).causes 1 = true ∧ t.mem = s.mem ∧ t.cores = s.cores) ∧
    (∃ t : State, exec .analogueRailReturn s = .next t ∧ t.outs.railLow = false ∧ bit (t.dac ch).causes 1 = false ∧ (t.dac ch).fault = d.fault ∧
      t.mem = s.mem ∧ t.cores = s.cores)

/-- Trip outputs, FAULT_N and PFAIL_N (R226, R237, R248-R252): the decisions of a tick that reach the trip logic, past no closed bridge end, are
applied and complete their EMITs, those a retrain stalls waiting; a latched output is released by the host when no source trips it, and the output
of MIRROR_IND shows the mirror state, or a backstop trip, each of its assertions counted with its cause; a late decision is applied all the same,
its EMIT ending with SENT_LATE and recorded (R155); a write of FAULT_CAUSE clears what no longer stands; PFAIL_N is counted, recorded and
checkpointed. The model's own choices it rests on: log 7, 55, 78, 105, 111, 160, 165. -/
def Obligations.TripsAndFaultLines : Prop :=
  ∀ (s : State) (ses : Ses) (n v : Nat), n < 32 →
    let ds := s.net.decisions
    let t := s.trip n
    let i := tripIdx n
    let updated := fun (s : State) => (List.range 32).foldl (fun s n => s.updateTrip n) s
    let clear := fun (d : Decision) => s.pathStalls (dieOf d.core) 4 = false ∧ s.pathShut (dieOf d.core) 4 = none ∧ s.pathUnmet (dieOf d.core) 4 = false
    let arms := fun (d : Decision) (w : State) => w.mem = s.mem ∧ (∀ c, c ≠ d.core → w.core c = s.core c) ∧ w.core d.core = { s.core d.core with
      watchdog := if d.arms = false then (s.core d.core).watchdog else if s.cfg 0x2330 2 = 0 then none else some (s.time.up, s.cfg 0x2330 2) }
    (ds = [] → exec .tripTick s = .next (updated s)) ∧
    (∀ d, ds = [d] → s.pathStalls (dieOf d.core) 4 = true → exec .tripTick s = .next (updated s)) ∧
    (∀ d x, ds = [d] → s.pathStalls (dieOf d.core) 4 = false → s.pathShut (dieOf d.core) 4 = some x → exec .tripTick s =
      .next (updated ((({ s with net := { s.net with decisions := [] } }).dieDrop x).decisionGone d 4))) ∧
    (∀ d, ds = [d] → clear d → d.trip = n → s.granted d = true → s.cfg i 1 = 1 → s.outs.driven = true → s.cfg 0x2D00 9 ≠ n → d.value = true → t.held = false →
      t.asserted = false → d.deadline = none → (∀ k, k ≠ n → (s.trip k).emit = false ∧ s.backstopEvent k = none) →
      ∃ w : State, exec .tripTick s = .next (match s.op d.core d.op with | some o => w.completeOp d.core o 0 | none => w) ∧
        w.net.decisions = [] ∧ (w.trip n).asserted = true ∧ (w.trip n).emit = true ∧
        (s.backstopEvent n = none → (w.trip n).lastCause = coreSource d.core) ∧ arms d w) ∧
    (∀ d, ds = [d] → clear d → d.trip = n → s.granted d = false → d.deadline = none →
      ∃ w : State, exec .tripTick s = .next (match s.op d.core d.op with | some o => w.completeOp d.core o 0 | none => w) ∧
        w.net.decisions = [] ∧ (w.trip n).emit = t.emit ∧ arms d w) ∧
    (∀ d at_, ds = [d] → clear d → d.trip = n → d.deadline = some at_ →
      ∃ w : State, exec .tripTick s = .next (match s.op d.core d.op with | some o => w.completeOp d.core o (if at_ < s.time.gtc then 5 else 0) | none => w) ∧
        w.net.decisions = [] ∧ (w.trip n).emit = (if s.granted d = true then d.value else t.emit) ∧ arms d w ∧
        (s.granted d = true → d.value = true → s.cfg i 1 = 1 → s.outs.driven = true → s.cfg 0x2D00 9 ≠ n → t.held = false →
          (w.trip n).asserted = true) ∧
        (at_ < s.time.gtc → w.count 0x2330 1 = (s.bump 0x2330 1).count 0x2330 1 ∧ ∃ l, w.ash.inbox = l ++ [⟨⟨s.time.gtc, coreSource d.core, 0x0021,
          [2 * d.trip, min (s.time.gtc - at_) 0xFFFFFFFF], false, false, false, false, 0, 0⟩, none⟩]) ∧
        (s.time.gtc ≤ at_ → w.count 0x2330 1 = s.count 0x2330 1)) ∧
    (s.cfg i 1 = 1 → s.outs.driven = true → s.cfg 0x2D00 9 = n →
      let u := s.updateTrip n
      let rose := u.count i 8 = (s.bump i 8).count i 8
      (∀ e, s.backstopEvent n = some e → t.asserted = false → (u.trip n).asserted = true ∧ (u.trip n).backstop = true ∧
        (u.trip n).lastCause = 0x0100 + e / 2 + e % 256 * 65536 ∧ rose) ∧
      (s.backstopEvent n = none → s.mirror.state = 1 ∨ s.mirror.state = 3 → t.asserted = false →
        (u.trip n).asserted = true ∧ (u.trip n).lastCause = 0x24 + mirrorPort s ∧ rose) ∧
      (s.backstopEvent n = none → s.mirror.state ≠ 1 → s.mirror.state ≠ 3 → backstopCause t.lastCause = false → (u.trip n).asserted = false) ∧
      (s.backstopEvent n = none → t.asserted = true → backstopCause t.lastCause = true → s.cfg i 3 = 0 → (u.trip n).asserted = true)) ∧
    (exec (.tripMinOnExpiry n) s = .next (s.updateTrip n)) ∧
    (s.cfg i 1 = 1 → s.outs.driven = true → s.cfg 0x2D00 9 ≠ n → s.backstopEvent n = none → t.emit = false → t.asserted = true → s.cfg i 3 = 1 →
      1000 * s.cfg i 4 ≤ s.time.up - t.since → ∃ u : State, exec (.tripMinOnExpiry n) s = .next u ∧ (u.trip n).asserted = false) ∧
    (s.cfg i 1 = 1 → s.outs.driven = true → s.cfg 0x2D00 9 ≠ n → t.asserted = true →
      s.backstopEvent n ≠ none ∨ (t.emit = true ∧ t.held = false) ∨ s.cfg i 3 ≠ 1 ∨ s.time.up - t.since < 1000 * s.cfg i 4 →
      ∃ u : State, exec (.tripMinOnExpiry n) s = .next u ∧ (u.trip n).asserted = true) ∧
    (Served s ses 1 → s.cfg i 3 = 0 → s.tripSource n = false →
      exec (.tripCmd ses n) s = .next ((s.modTrip n (fun t => { t with asserted := false })).showMirror.giveReply ses ⟨0, []⟩)) ∧
    (Served s ses 1 → s.cfg i 3 ≠ 1 → s.tripSource n = true → exec (.tripCmd ses n) s = .next (s.refuse ses i 7 0x08000022)) ∧
    (Served s ses 1 → s.cfg i 3 = 1 → exec (.tripCmd ses n) s = .next (s.giveReply ses ⟨0, []⟩)) ∧
    (Served s ses 1 → v < 64 → ∃ u : State, exec (.faultCauseWrite ses v) s = .next u ∧
      (∀ b, b < 6 → bit u.outs.faultCause b = ((bit s.outs.faultCause b && !bit v b) || bit s.presentCauses b)) ∧ u.cores = s.cores ∧ u.mem = s.mem) ∧
    (s.meas.pfail = true → exec .pfail s = .next s) ∧
    (s.tripLand n = if s.outs.driven = true then some ((s.trip n).asserted == (s.cfg i 2 == 1)) else none) ∧
    (s.meas.pfail = false → (∀ e, e ∈ s.cores → ∀ o, o ∈ e.2.seq.ops → ∀ k n l f, o.body ≠ .emitDac k n l f) → ∃ u : State, exec .pfail s = .next u ∧ u.meas.pfail = true ∧ u.cores = s.cores ∧
      (s.ash.clearing = true → u.ash.pfailWaits = true) ∧ (s.ash.clearing = false → u.ash.checkpoint = true) ∧
      (∀ ch, ch < 16 → s.cfg (dacIdx ch) 0x0F = 1 → (u.dac ch).fault = true ∧ bit (u.dac ch).causes 3 = true)) ∧
    (∃ u : State, exec .pfailDeassert s = .next u ∧ u.meas.pfail = false ∧ u.ash.checkpointed = false ∧
      (∀ ch, ch < 16 → bit (u.dac ch).causes 3 = false ∧ (u.dac ch).fault = (s.dac ch).fault) ∧ u.cores = s.cores ∧ u.mem = s.mem)

/-! ### Object dictionary, sets, sessions, interfaces -/

/-- A write of an object is checked in the order of R275 and only the first failure acts; after its step 7 come the aborts of a mapping (R258,
R260); past every check a setting goes to the shadow, without its reserved bits, and any other object acts, unless its word in the hub keep has an
error: that the first access that meets it, and no later one, is refused is the model's choice. A read is checked for existence, then for a
write-only object, then for such an error; no object needs a level to be read. The model's own choices it rests on: log 68. -/
def Obligations.WritesCheckedInOrder : Prop :=
  ∀ (s : State) (ses : Ses) (idx sub : Nat) (data : List Byte), s.reachable ses = true →
    let v := fromLE data
    let w := fun (u : State) code => exec (.objectWrite ses idx sub data) s = .next (u.refuse ses idx sub code)
    (s.serves = true → s.row idx sub = none → odExists s.part idx = false → w s 0x06020000) ∧
    (s.serves = true → s.row idx sub = none → odExists s.part idx = true → w s 0x06090011) ∧
    (∀ r, s.serves = true → s.row idx sub = some r →
      let may := r.acc ≠ .ro ∧ s.needPriv idx sub v r ≤ (s.session ses).level ∧ r.lengthOk data.length = true
      let free := ownWrite idx sub = false ∧ (r.set = true → s.claimedByOther ses = false ∧ s.sets.state = 0)
      (r.acc = .ro → w s 0x06010002) ∧
      (r.acc ≠ .ro → (s.session ses).level < s.needPriv idx sub v r → w s 0x06010000) ∧
      (r.acc ≠ .ro → s.needPriv idx sub v r ≤ (s.session ses).level → r.lengthOk data.length = false → w s 0x06070010) ∧
      (ownWrite idx sub = false → may → r.set = true → s.claimedByOther ses = true → w (s.setResult 6) 0x08000022) ∧
      (ownWrite idx sub = false → may → r.set = true → s.claimedByOther ses = false → s.sets.state ≠ 0 → w s 0x08000022) ∧
      (may → free → r.size ≠ 0 → s.stateAllows idx sub v = false → w s 0x08000022) ∧
      (may → free → r.size ≠ 0 → s.stateAllows idx sub v = true → s.inRange idx sub v r = false → w s 0x06090030) ∧
      (may → free → r.size ≠ 0 → s.stateAllows idx sub v = true → s.inRange idx sub v r = true → s.mappingAbort idx sub v ≠ 0 →
        w s (s.mappingAbort idx sub v)) ∧
      (may → free → r.size ≠ 0 → s.stateAllows idx sub v = true → s.inRange idx sub v r = true → s.mappingAbort idx sub v = 0 →
        (r.set = false → s.keepBad idx sub r = true → w (s.metBad idx sub) 0x06060000) ∧
        (r.set = true → exec (.objectWrite ses idx sub data) s = .next (({ s with sets := { s.sets with
          shadow := Tab.set s.sets.shadow (s.setKey ses idx sub) (Nat.land v r.mask) } }).giveReply ses ⟨0, []⟩)) ∧
        (r.set = false → s.keepBad idx sub r = false → exec (.objectWrite ses idx sub data) s =
          .next ((s.writeDirect ses idx sub (Nat.land v r.mask)).giveReply ses ⟨0, []⟩))) ∧
      (may → free → r.size = 0 → exec (.objectWrite ses idx sub data) s =
        .next (({ s with sets := { s.sets with nqnShadow := data } }).giveReply ses ⟨0, []⟩))) ∧
    (ses = 1 → s.serves = true →
      let u : State := { s with ecat := { s.ecat with mailError := 0 } }
      let no := fun code => exec (.mailboxRequest (.upload idx sub)) s = .next (u.giveReply 1 ⟨code, []⟩)
      (s.row idx sub = none → odExists s.part idx = false → no 0x06020000) ∧
      (s.row idx sub = none → odExists s.part idx = true → no 0x06090011) ∧
      (∀ r, s.row idx sub = some r → r.acc = .wo → no 0x06010001) ∧
      (∀ r, s.row idx sub = some r → r.acc ≠ .wo → s.keepBad idx sub r = true →
        exec (.mailboxRequest (.upload idx sub)) s = .next ((u.metBad idx sub).giveReply 1 ⟨0x06060000, []⟩)))

/-- R274: SET_CMD is checked in its order; a COMMIT waits for its instant, DISCARD copies the active set over the shadow and ends claim and commit,
CLAIM and YIELD begin and end a claim. A commit takes effect at its instant, as one swap of the copies, and its units follow; then the shadow is
reloaded (R273, R274). Until its instant nothing changes. The model's own choices it rests on: log 7, 81. -/
def Obligations.SetCommandsAndCommits : Prop :=
  (∀ (s : State) (ses : Ses) (w m x : Nat), w < 4 → m < 64 → x < 64 →
    let no := fun (u : State) i code => exec i s = .next (u.refuse ses 0x2100 1 code)
    let ok := fun (u : State) i => exec i s = .next (u.giveReply ses ⟨0, []⟩)
    let free := s.claimedByOther ses = false
    (Served s ses 1 → w = 3 → no s (.setCommit ses w m x) 0x06090030) ∧
    (Served s ses 1 → w < 3 → free → s.sets.state = 0 → (w = 1 → s.markOn m = true) → (w = 2 → (s.ctx x).state = .running) →
      ok { s with sets := { s.sets with state := 1, result := 1, commitReq := some ⟨masterSource (sesMaster ses), w, m, x, false⟩ } }
        (.setCommit ses w m x)) ∧
    (Served s ses 1 → w < 3 → free → s.sets.state ≠ 0 → s.sets.state ≤ 2 → no (s.setResult 5) (.setCommit ses w m x) 0x08000022) ∧
    (Served s ses 1 → free → s.sets.state = 0 → s.markOn m = false → no (s.setResult 2) (.setCommit ses 1 m x) 0x08000022) ∧
    (Served s ses 1 → free → s.sets.state = 0 → (s.ctx x).state ≠ .running → no (s.setResult 3) (.setCommit ses 2 m x) 0x08000022) ∧
    (Served s ses 1 → s.claimedByOther ses = true → (w < 3 → no (s.setResult 6) (.setCommit ses w m x) 0x08000022) ∧
      no (s.setResult 6) (.claim ses) 0x08000022 ∧ no (s.setResult 6) (.yieldClaim ses) 0x08000022) ∧
    (Served s ses 1 → free → s.sets.state = 2 → no (s.setResult 5) (.claim ses) 0x08000022 ∧ no (s.setResult 5) (.yieldClaim ses) 0x08000022) ∧
    (Served s ses 1 → free → s.sets.state ≠ 2 → ok { s with sets := { s.sets with owner := some ses } } (.claim ses)) ∧
    (Served s ses 1 → free → s.sets.state ≠ 2 → ok { s with sets := { s.sets with owner := none } } (.yieldClaim ses)) ∧
    (Served s ses s.dirtyPriv → free → s.sets.state ≠ 2 → ok { s with sets := { s.sets with
      shadow := s.sets.active, nqnShadow := s.sets.nqn, state := 0, result := 4, owner := none, commitReq := none } } (.discard ses)) ∧
    (s.reachable ses = true → s.serves = true → (s.session ses).level < s.dirtyPriv → no s (.discard ses) 0x06010000)) ∧
  (∀ s : State,
    (s.sets.commitReq = none → exec .setCommitEffect s = .next s) ∧
    (∀ r, s.sets.commitReq = some r → r.when_ ≠ 0 → r.due = false → exec .setCommitEffect s = .next s) ∧
    (∀ r, s.sets.commitReq = some r → r.when_ = 0 ∨ r.due = true → ∃ u : State,
      exec .setCommitEffect s =
        .next (((((u.gateInterfaces s).moveDividers s).moveTime s).moveMeasure s).moveOutputs s |>.moveCores s |>.markBudget) ∧
      u.sets.active = s.sets.shadow ∧ u.sets.shadow = s.sets.active ∧ u.sets.nqn = s.sets.nqnShadow ∧ u.sets.state = 2 ∧ u.sets.result = 0 ∧
      u.sets.owner = none ∧ u.sets.commitReq = none ∧ u.sets.lastCommit = s.time.gtc ∧ bit u.pcie.msix 0 = true ∧
      u.cores = s.cores ∧ u.engines = s.engines ∧ u.mem = s.mem) ∧
    (s.sets.state = 2 → exec .shadowReloadDone s =
      .next { s with sets := { s.sets with shadow := s.sets.active, nqnShadow := s.sets.nqn, state := 0 } }) ∧
    (s.sets.state ≠ 2 → exec .shadowReloadDone s = .next s))

/-- Sessions and keys (R270-R272): challenges, responses, their failures and lockout, drops, keys. A mismatch never changes the level, and no
session gives a slot a level above its own. The model's own choices it rests on: log 15, 79. -/
def Obligations.SessionsRise : Prop :=
  ∀ (s : State) (ses : Ses) (slot lvl : Nat) (proof data : List Byte), slot < 256 → lvl < 256 → proof.length = 32 → data.length = 34 →
    let k := s.session ses
    let m := sesMaster ses
    let sl := (data.getD 0 0).toNat
    let dl := (data.getD 1 0).toNat
    let spent := s.modSession ses (fun k => { k with nonce := none })
    (Served s ses 0 → slot < 8 → s.lockedOut m = false → exec (.authSlot ses slot) s = .next (((s.drawN 32).modSession ses (fun k => { k with
      nonce := some s.freshNonce, slot := slot, nonceAt := s.time.up })).giveReply ses ⟨0, []⟩)) ∧
    (Served s ses 0 → s.lockedOut m = true → exec (.authSlot ses slot) s = .next (s.refuse ses 0x2B00 2 0x08000022)) ∧
    (Served s ses 0 → 8 ≤ slot → s.lockedOut m = false → exec (.authSlot ses slot) s = .next (s.refuse ses 0x2B00 2 0x06090030)) ∧
    (Served s ses 0 → k.nonce = none → exec (.authResponse ses proof) s = .next (s.refuse ses 0x2B00 4 0x08000022)) ∧
    (∀ n, Served s ses 0 → k.nonce = some n → s.current k.nonceAt = false →
      exec (.authResponse ses proof) s = .next (spent.refuse ses 0x2B00 4 0x08000022)) ∧
    (∀ n, Served s ses 0 → k.nonce = some n → s.current k.nonceAt = true → (s.keySlot k.slot).level ≠ 0 → proof = s.authProof ses n k.slot →
      ∃ t : State, exec (.authResponse ses proof) s = .next t ∧ (t.session ses).level = (s.keySlot k.slot).level ∧ (t.session ses).nonce = none ∧
        (t.master m).fails = 0 ∧ (t.session ses).reply = ⟨0, []⟩ ∧ (∀ x, x ≠ ses → t.session x = s.session x) ∧ t.mem = s.mem) ∧
    (∀ n, Served s ses 0 → k.nonce = some n → s.current k.nonceAt = true → (s.keySlot k.slot).level = 0 ∨ proof ≠ s.authProof ses n k.slot →
      ∃ t : State, exec (.authResponse ses proof) s = .next t ∧ (t.session ses).level = k.level ∧ (t.session ses).nonce = none ∧
        (t.session ses).reply = ⟨0x06010000, []⟩ ∧ t.count 0x2B00 6 = (s.bump 0x2B00 6).count 0x2B00 6 ∧
        (5 ≤ (s.master m).fails + 1 → (t.master m).lockout = some s.time.up) ∧
        ((s.master m).fails + 1 < 5 → (t.master m).fails = (s.master m).fails + 1 ∧ (t.master m).lockout = (s.master m).lockout)) ∧
    (∀ n, k.nonce = some n → s.current k.nonceAt = false → exec (.nonceLapse ses) s = .next spent) ∧
    (k.nonce = none ∨ s.current k.nonceAt = true → exec (.nonceLapse ses) s = .next s) ∧
    (∀ t0, (s.master m).lockout = some t0 → t0 + 60000000000 ≤ s.time.up →
      exec (.authLockoutEnd m) s = .next (s.modMaster m (fun k => { k with lockout := none }))) ∧
    (∀ t0, (s.master m).lockout = some t0 → s.time.up < t0 + 60000000000 → exec (.authLockoutEnd m) s = .next s) ∧
    (Served s ses lvl → exec (.authDrop ses lvl) s = .next ((s.modSession ses (fun k => { k with level := lvl })).giveReply ses ⟨0, []⟩)) ∧
    (Served s ses 0 → k.level < lvl → exec (.authDrop ses lvl) s = .next (s.refuse ses 0x2B00 5 0x06090030)) ∧
    (s.reachable ses = true → s.serves = true → k.level < (if s.noKeys then 0 else 2) →
      exec (.keyWrite ses data) s = .next (s.refuse ses 0x2B02 1 0x06010000)) ∧
    (Served s 1 0 → exec (.mailboxRequest (.upload 0x2B02 1)) s =
      .next (({ s with ecat := { s.ecat with mailError := 0 } }).giveReply 1 ⟨0x06010001, []⟩)) ∧
    (Served s ses (if s.noKeys then 0 else 2) → m = 2 → exec (.keyWrite ses data) s = .next (s.refuse ses 0x2B02 1 0x08000022)) ∧
    (Served s ses (if s.noKeys then 0 else 2) → m ≠ 2 → sl = 0 ∨ 7 < sl ∨ 2 < dl →
      exec (.keyWrite ses data) s = .next (s.refuse ses 0x2B02 1 0x06090030)) ∧
    (Served s ses (if s.noKeys then 0 else 2) → m ≠ 2 → 1 ≤ sl → sl ≤ 7 → dl ≤ 2 → s.noKeys = true ∨ dl ≤ k.level →
      s.keep.bad.contains (odKey 0x2B02 1) = true → exec (.keyWrite ses data) s = .next ((s.metBad 0x2B02 1).refuse ses 0x2B02 1 0x06060000)) ∧
    (Served s ses (if s.noKeys then 0 else 2) → m ≠ 2 → 1 ≤ sl → sl ≤ 7 → dl ≤ 2 → s.noKeys = true ∨ dl ≤ k.level →
      s.keep.bad.contains (odKey 0x2B02 1) = false → exec (.keyWrite ses data) s =
      .next (({ s with keys := Tab.set s.keys sl (if dl = 0 then KeySlot.reset else ⟨dl, data.drop 2⟩), keep := { s.keep with prevKeys := s.keys } }).giveReply ses ⟨0, []⟩)) ∧
    (∀ t, s.noKeys = false → exec (.keyWrite ses data) s = .next t →
      Tab.get KeySlot.reset t.keys sl ≠ Tab.get KeySlot.reset s.keys sl → dl ≤ k.level)

/-- UDP (R268, R269, R278, R282): a session is opened at Observer and its number answered; a request of an open session whose tag and SEQ pass is
served once, and its answer goes out, tagged, and is kept; a repeated SEQ is answered from the store, an older one by nothing; a memory request of a
frozen master is held and answered when it has been made; anything malformed, of no session or with a wrong tag is dropped and counted; while the
firmware switches requests are aborted; 60 s without a request close a session. The model's own choices it rests on: log 7, 36, 87, 124. -/
def Obligations.UdpSessionsServe : Prop :=
  ∀ (s : State) (n p : Nat) (h : UdpHdr),
    let k := s.session (2 + n)
    let now := s.time.up
    let u := s.modSession (2 + n) (fun k => { k with maxSeq := some h.seq, lastRequest := now })
    let tagged := fun (q : UdpReq) => k.level = 0 ∨ h.tag = tagOf k.key (q.bytes n h.seq)
    let good := fun (q : UdpReq) => s.portServes h.port = true ∧ k.open_ = true ∧ tagged q
    let new := fun (q : UdpReq) => good q ∧ k.kept.find? (fun e => e.1 == h.seq) = none ∧ (∀ m, k.maxSeq = some m → m < h.seq)
    let fresh := fun (q : UdpReq) => new q ∧ s.serves = true
    let ans := fun (q : UdpReq) (x : Reply × State) => x.2.udpAnswer h.port n h.seq q x.1
    let held := fun (q : UdpReq) a (w : Bool) len data => (⟨a, w, len, data, 2 + n, none, some (h.port, h.seq, q), none⟩ : HeldReq)
    let alive : UdpReq := ⟨9, 0, 0, 0, []⟩
    let op : UdpReq := ⟨1, 0, 0, 0, []⟩
    let drop := s.bump (0x2B20 + h.port % 2) 7
    (∀ seq i, s.portServes p = true → s.serves = true → s.freeSession = some i → exec (.udpOpen ⟨p, seq⟩) s = .next ((s.modSession (2 + i) (fun _ =>
      { Session.reset with open_ := true, lastRequest := now })).sendUdp p (op.response i seq ⟨0, []⟩))) ∧
    (∀ seq, s.portServes p = true → s.serves = false → exec (.udpOpen ⟨p, seq⟩) s = .next (s.sendUdp p (op.response 0 seq ⟨0x08000020, []⟩))) ∧
    (∀ seq, s.portServes p = false ∨ (s.serves = true ∧ s.freeSession = none) → exec (.udpOpen ⟨p, seq⟩) s = .next s) ∧
    (s.portServes p = true → exec (.malformedMessage p) s = .next (s.bump (0x2B20 + p % 2) 7)) ∧
    (s.portServes p = false → exec (.malformedMessage p) s = .next s) ∧
    (∀ idx sub c, 1 ≤ c → c ≤ 64 → fresh ⟨3, idx, sub, c, []⟩ →
      exec (.udpRead n h idx sub c) s = .next (ans ⟨3, idx, sub, c, []⟩ (u.readMany (2 + n) idx ((List.range c).map (· + sub))))) ∧
    (∀ idx sub vs, vs ≠ [] → vs.length ≤ 64 → vs.flatten.length ≤ 1024 → fresh ⟨4, idx, sub, vs.length, vs.flatten⟩ →
      exec (.udpWrite n h idx sub vs) s = .next (ans ⟨4, idx, sub, vs.length, vs.flatten⟩
        (⟨(u.writeMany (2 + n) idx sub vs).1, []⟩, (u.writeMany (2 + n) idx sub vs).2))) ∧
    (fresh alive → exec (.udpKeepalive n h) s = .next (ans alive (⟨0, []⟩, u))) ∧
    (new alive → s.serves = false → exec (.udpKeepalive n h) s = .next (ans alive (⟨0x08000020, []⟩, u))) ∧
    (∀ a len, len ≤ 1008 → let q : UdpReq := ⟨7, 0, 0, 0, toLE 4 a ++ toLE 4 len ++ []⟩
      fresh q →
      ((s.master 2).frozen = false → s.masterMay 2 a len false = true → exec (.memRead n h a len) s = .next (ans q (⟨0, u.sysBytes a len⟩, u))) ∧
      ((s.master 2).frozen = false → s.masterMay 2 a len false = false →
        exec (.memRead n h a len) s = .next ((u.freezeMaster 2 a false).hold 2 (held q a false len []))) ∧
      ((s.master 2).frozen = true → exec (.memRead n h a len) s = .next (u.hold 2 (held q a false len [])))) ∧
    (∀ a (data : List Byte), data.length ≤ 1008 → let q : UdpReq := ⟨8, 0, 0, 0, toLE 4 a ++ toLE 4 data.length ++ data⟩
      fresh q →
      ((s.master 2).frozen = false → s.masterMay 2 a data.length true = true → exec (.memWrite n h a data) s =
        .next (ans q (⟨0, []⟩, u.sysWriteAll (decide (2 ≤ k.level)) a data))) ∧
      ((s.master 2).frozen = false → s.masterMay 2 a data.length true = false →
        exec (.memWrite n h a data) s = .next ((u.freezeMaster 2 a true).hold 2 (held q a true data.length data))) ∧
      ((s.master 2).frozen = true → exec (.memWrite n h a data) s = .next (u.hold 2 (held q a true data.length data)))) ∧
    (∀ slot, slot < 8 → s.lockedOut 2 = false → fresh ⟨5, 0, 0, 0, toLE 1 slot⟩ →
      exec (.authBegin n h slot) s = .next (ans ⟨5, 0, 0, 0, toLE 1 slot⟩ (⟨0, s.freshNonce⟩,
        (u.drawN 32).modSession (2 + n) (fun k => { k with nonce := some s.freshNonce, slot := slot, nonceAt := now })))) ∧
    (∀ proof : List Byte, proof.length = 32 → fresh ⟨6, 0, 0, 0, proof⟩ → exec (.authProve n h proof) s =
      .next (ans ⟨6, 0, 0, 0, proof⟩ (⟨(u.respond (2 + n) proof).1, []⟩, (u.respond (2 + n) proof).2))) ∧
    (fresh ⟨2, 0, 0, 0, []⟩ → exec (.udpClose n h) s = .next ((ans ⟨2, 0, 0, 0, []⟩ (⟨0, []⟩, u)).closeSession (2 + n))) ∧
    (∀ e, good alive → k.kept.find? (fun e => e.1 == h.seq) = some e →
      exec (.udpKeepalive n h) s = .next ((s.modSession (2 + n) (fun k => { k with lastRequest := now })).sendUdp h.port e.2)) ∧
    (∀ m, good alive → k.kept.find? (fun e => e.1 == h.seq) = none → k.maxSeq = some m → h.seq ≤ m → exec (.udpKeepalive n h) s = .next s) ∧
    (∀ idx sub, s.portServes h.port = true → k.open_ = false ∨ ¬ tagged ⟨3, idx, sub, 1, []⟩ → exec (.udpRead n h idx sub 1) s = .next drop) ∧
    (s.portServes h.port = true → k.open_ = false ∨ ¬ tagged alive → exec (.udpKeepalive n h) s = .next drop) ∧
    (∀ idx sub c, s.portServes h.port = true → c = 0 ∨ 64 < c → exec (.udpRead n h idx sub c) s = .next drop) ∧
    (s.portServes h.port = false → exec (.udpKeepalive n h) s = .next s) ∧
    (k.open_ = true → k.lastRequest + 60000000000 ≤ now → exec (.sessionTimeout n) s = .next (s.closeSession (2 + n)) ∧
      (s.closeSession (2 + n)).session (2 + n) = Session.reset ∧ (s.closeSession (2 + n)).sets.owner ≠ some (2 + n)) ∧
    (k.open_ = false ∨ now < k.lastRequest + 60000000000 → exec (.sessionTimeout n) s = .next s)

/-- PCIe (R264-R267, R282, R303): BAR0 and the long-object window are object accesses, which read poison at a closed management crossing; BAR2 and
DMA are accesses of the PCIe master, which freezes outside its windows; the DMA channel whose turn it is does its descriptor, whose status is
written and the next one is at the head; while the master is frozen a write to its order is held. The model's own choices it rests on: log 7, 83,
90, 158, 161, 168. -/
def Obligations.PcieAccesses : Prop :=
  ∀ (s : State) (idx sub byte width v a len k : Nat) (data desc host : List Byte), s.reachable 0 = true → sub < 256 → byte < 16 → 0 < width →
    let off := idx * 0x1000 + sub * 16 + byte
    let long := match s.row idx sub with | some r => r.isLong | none => false
    let wo := match s.row idx sub with | some r => r.acc == .wo | none => false
    let r := s.readObject 0 idx sub
    let sel : State := { s with pcie := { s.pcie with longSel := idx % 65536 + sub * 65536 } }
    let put : State := { sel with pcie := { sel.pcie with longData := data, longLen := data.length } }
    let w := put.writeObject 0 idx sub data
    let d := s.dma k
    let turn := d.head ≠ d.tail ∧ s.dmaHeld k = false ∧ (s.master 0).frozen = false ∧ s.dmaTurn = some k
    let g := s.dmaWon k
    let no := fun (u : State) code => ((u.giveReply 0 ⟨code, []⟩).badAccess idx sub code).pcieData (some (List.replicate width 0))
    let done := fun (u : State) st => if descIrq desc then
        (u.setDma k { u.dma k with status := st, head := ((u.dma k).head + 1) % (u.dma k).size }).msix (3 + k)
      else u.setDma k { u.dma k with status := st, head := ((u.dma k).head + 1) % (u.dma k).size }
    (byte = 0 → long = false → exec (.bar0Access true off width v) s = .next (s.hostWrite 0 idx sub (toLE width v))) ∧
    (s.serves = false → exec (.bar0Access true off width v) s = .next s.crossingDrop) ∧
    (s.serves = true → byte % width = 0 → long = false → r.1.abort = 0 → exec (.bar0Access false off width v) s =
      .next ((r.2.giveReply 0 r.1).pcieData (some (fit width 0 (r.1.value.drop byte))))) ∧
    (s.serves = true → wo = false → long = true → exec (.bar0Access false off width v) s = .next (no s 0x06070010)) ∧
    (s.serves = true → wo = true → exec (.bar0Access false off width v) s = .next (no s 0x06010001)) ∧
    (s.serves = true → s.row idx sub = none → odExists s.part idx = false → exec (.bar0Access false off width v) s = .next (no s 0x06020000)) ∧
    (s.fw.switching ≠ none → s.serves = false → exec (.bar0Access false off width v) s = .next (s.pcieData (some (List.replicate width 0)))) ∧
    (s.fw.switching = none → s.pwr.mgmtCrossing = false → exec (.bar0Access false off width v) s =
      .next (s.pcieData (some ((List.range width).map (fun i => poisonByte (byte + i)))))) ∧
    (exec (.bar2Access true a len data) s = .next (s.masterWrite 0 0 a data)) ∧
    ((s.master 0).frozen = true → exec (.bar2Access false a len data) s = .next (s.pcieData none)) ∧
    ((s.master 0).frozen = false → s.masterMay 0 a len false = true → exec (.bar2Access false a len data) s = .next (s.pcieData (some (s.sysBytes a len)))) ∧
    ((s.master 0).frozen = false → s.masterMay 0 a len false = false → ∃ t : State, exec (.bar2Access false a len data) s = .next t ∧
      (t.master 0).frozen = true ∧ t.pcie.readData = none ∧ bit t.pcie.msix 2 = true ∧ t.mem = s.mem ∧ t.cores = s.cores) ∧
    (exec .odAbort s = .next (({ s with pcie := { s.pcie with odAbort := 0 } }).pcieData (some (toLE 8 s.pcie.odAbort)))) ∧
    (s.serves = true → (sel.readObject 0 idx sub).1.abort = 0 → ∃ t : State, exec (.longRead idx sub) s = .next t ∧
      t.pcie.longData = (sel.readObject 0 idx sub).1.value ∧ t.pcie.longLen = (sel.readObject 0 idx sub).1.value.length ∧
      t.pcie.longSel = idx % 65536 + sub * 65536) ∧
    (s.serves = true → (sel.readObject 0 idx sub).1.abort ≠ 0 → exec (.longRead idx sub) s =
      .next (((sel.readObject 0 idx sub).2.giveReply 0 (sel.readObject 0 idx sub).1).latchAbort idx sub (sel.readObject 0 idx sub).1.abort)) ∧
    (s.serves = true → exec (.longWrite idx sub data) s = .next (if w.1 = 0 then w.2.giveReply 0 ⟨0, []⟩
      else (w.2.giveReply 0 ⟨w.1, []⟩).latchAbort idx sub w.1)) ∧
    (s.serves = false → exec (.longWrite idx sub data) s = .next put.crossingDrop ∧
      (s.fw.switching ≠ none ∨ s.pwr.mgmtCrossing = true → exec (.longRead idx sub) s = .next sel) ∧
      (s.fw.switching = none → s.pwr.mgmtCrossing = false → exec (.longRead idx sub) s =
        .next { sel with pcie := { sel.pcie with longData := (List.range 256).map poisonByte } })) ∧
    (∀ base size, ringSizes.contains size = true → v < size → exec (.dmaTail k base size v) s =
      .next (s.setDma k { d with base := base / 32 * 32, size := size, tail := v })) ∧
    (d.head = d.tail ∨ s.dmaHeld k = true ∨ ((s.master 0).frozen = false ∧ s.dmaTurn ≠ some k) → ∀ e, exec (.dmaDescriptor k desc host e) s = .next s) ∧
    (d.head ≠ d.tail → s.dmaHeld k = false → (s.master 0).frozen = true → ∀ e,
      let held : HeldReq := ⟨descAddr desc, true, descLen desc, fit (descLen desc) 0 host, 0, none, none, some (k, descIrq desc, e)⟩
      (descToHost desc = true → exec (.dmaDescriptor k desc host e) s = .next s) ∧
      (descToHost desc = false → (s.master 0).held.length < 64 → exec (.dmaDescriptor k desc host e) s = .next (s.hold 0 held)) ∧
      (descToHost desc = false → 64 ≤ (s.master 0).held.length → exec (.dmaDescriptor k desc host e) s = .next ((s.hold 0 held).dmaSkip k))) ∧
    (turn → s.masterMay 0 (descAddr desc) (descLen desc) (!descToHost desc) = false → ∀ e, exec (.dmaDescriptor k desc host e) s =
        .next (done (g.freezeMaster 0 (descAddr desc) (!descToHost desc)) 2)) ∧
    (turn → s.masterMay 0 (descAddr desc) (descLen desc) (!descToHost desc) = true →
      exec (.dmaDescriptor k desc host true) s = .next (done g 4) ∧
      (descToHost desc = true → s.poisoned (descAddr desc) (descLen desc) = true ∨ s.closedPart (descAddr desc) (descLen desc) = true →
        exec (.dmaDescriptor k desc host false) s = .next (done (g.hubPoison (descAddr desc) (descLen desc)) 3)) ∧
      (descToHost desc = true → s.poisoned (descAddr desc) (descLen desc) = false → s.closedPart (descAddr desc) (descLen desc) = false →
        exec (.dmaDescriptor k desc host false) s = .next (done (g.pcieData (some (g.sysBytes (descAddr desc) (descLen desc)))) 1)) ∧
      (descToHost desc = false → exec (.dmaDescriptor k desc host false) s =
        .next (done (g.masterWrite 0 0 (descAddr desc) (fit (descLen desc) 0 host)) 1)))

/-- EtherCAT (R258-R263): mailbox requests are object accesses, of one subindex, or of a record or an array from subindex 0 or 1; the state goes up
by one step or down; values are captured from SAFEOP up and applied in OP, in index order. The model's own choices it rests on: log 7, 88, 94, 121,
122, 166. -/
def Obligations.EthercatServes : Prop :=
  ∀ (s : State) (idx sub v w x y al : Nat) (data : List Byte),
    let m : State := { s with ecat := { s.ecat with mailError := 0 } }
    (s.reachable 1 = false → ∀ r, exec (.mailboxRequest r) s = .next s) ∧
    (s.reachable 1 = true →
      exec (.mailboxRequest .unsupported) s = .next { s with ecat := { s.ecat with mailError := 2 } } ∧
      exec (.mailboxRequest (.upload idx sub)) s = .next (m.hostRead 1 idx sub) ∧
      exec (.mailboxRequest (.download idx sub data)) s = .next (m.hostWrite 1 idx sub data)) ∧
    (s.reachable 1 = true → s.serves = true → exec (.mailboxRequest .odList) s = .next (m.giveReply 1 ⟨0, s.odIndices.flatMap (toLE 2)⟩)) ∧
    (s.reachable 1 = true → s.serves = true → odExists s.part idx = false → ∀ vs,
      exec (.mailboxRequest (.completeUpload idx sub)) s = .next (m.giveReply 1 ⟨0x06020000, []⟩) ∧
      exec (.mailboxRequest (.completeDownload idx sub vs)) s = .next (m.giveReply 1 ⟨0x06020000, []⟩) ∧
      exec (.mailboxRequest (.objectDescription idx)) s = .next (m.giveReply 1 ⟨0x06020000, []⟩) ∧
      (s.row idx sub = none → exec (.mailboxRequest (.entryDescription idx sub)) s = .next (m.giveReply 1 ⟨0x06020000, []⟩))) ∧
    (s.reachable 1 = true → s.serves = true → odExists s.part idx = true →
      (odZero idx = none → sub < 2 → s.subsFrom idx sub ≠ [] → exec (.mailboxRequest (.completeUpload idx sub)) s =
        .next ((m.readMany 1 idx (s.subsFrom idx sub)).2.giveReply 1 (m.readMany 1 idx (s.subsFrom idx sub)).1)) ∧
      (odZero idx = none → sub = 1 → ∀ vs, exec (.mailboxRequest (.completeDownload idx sub vs)) s =
        .next ((m.writeMany 1 idx sub vs).2.giveReply 1 ⟨(m.writeMany 1 idx sub vs).1, []⟩)) ∧
      (odZero idx ≠ none ∨ 2 ≤ sub → ∀ vs,
        exec (.mailboxRequest (.completeUpload idx sub)) s = .next (m.giveReply 1 ⟨0x06090011, []⟩) ∧
        exec (.mailboxRequest (.completeDownload idx sub vs)) s = .next (m.giveReply 1 ⟨0x06090011, []⟩)) ∧
      ∀ r, s.row idx sub = some r →
        exec (.mailboxRequest (.entryDescription idx sub)) s = .next (m.giveReply 1 ⟨0, describeEntry idx sub r.size r.acc⟩)) ∧
    (s.reachable 1 = true → s.serves = false →
      ∀ r, r = .upload idx sub ∨ r = .completeUpload idx sub ∨ r = .odList ∨ r = .objectDescription idx ∨ r = .entryDescription idx sub →
        exec (.mailboxRequest r) s = .next (m.giveReply 1 ⟨0x08000020, []⟩)) ∧
    (s.ecatLink = true → alOrder al ≤ alOrder s.ecat.al + 1 → al ≠ 1 →
      exec (.alStateRequest al) s = .next { s with ecat := { s.ecat with al := al, alStatus := 0 } }) ∧
    (s.ecatLink = true → exec (.alStateRequest 1) s = .next (({ s with ecat := { s.ecat with al := 1, alStatus := 0 } }).modSession 1 (fun k =>
      { k with level := 0 }))) ∧
    (s.ecatLink = true → alOrder s.ecat.al + 1 < alOrder al → ∃ t : State, exec (.alStateRequest al) s = .next t ∧ t.ecat.al = s.ecat.al ∧
      t.sessions = s.sessions ∧ t.cores = s.cores ∧ t.mem = s.mem) ∧
    (s.ecatLink = false → exec (.alStateRequest al) s = .next s ∧ exec .pdoSnapshot s = .next s ∧ ∀ l, exec (.rxpdoApply l) s = .next s) ∧
    (s.ecatLink = true → 4 ≤ s.ecat.al → ∃ t : State, exec .pdoSnapshot s = .next t ∧ t.ecat.gtcSnap = s.time.gtc ∧ t.ecat.al = s.ecat.al ∧
      t.ecat.snapshot.length = (s.assigned false).length ∧ t.cores = s.cores ∧ t.mem = s.mem) ∧
    (s.ecat.al < 4 → exec .pdoSnapshot s = .next s) ∧
    (s.ecat.al ≠ 8 → ∀ l, exec (.rxpdoApply l) s = .next s) ∧
    (s.ecatLink = true → s.ecat.al = 8 → s.assigned true = [(0x7000, x)] → exec (.rxpdoApply [v]) s = .next (s.dacCode (x - 1) v)) ∧
    (s.ecatLink = true → s.ecat.al = 8 → s.assigned true = [(0x7800, x)] → exec (.rxpdoApply [v]) s = .next (s.rxWord (x - 1) v)) ∧
    (s.ecatLink = true → s.ecat.al = 8 → s.assigned true = [(0x7000, y), (0x7000, x)] → x < y →
      exec (.rxpdoApply [w, v]) s = .next ((s.dacCode (x - 1) v).dacCode (y - 1) w))

/-- Masters, calibration, telemetry, links (R278-R283): releases of a frozen master, calibration words, what CAL_RESTORE takes, counters and
telemetry. The model's own choices it rests on: log 7, 60, 91, 93, 94. -/
def Obligations.MastersAndTables : Prop :=
  ∀ (s : State) (ses : Ses) (m c a v p : Nat) (up : Bool) (data : List Byte), m < 8 → v < 2 ^ 32 →
    (Served s ses 2 → (s.master m).frozen = false →
      exec (.masterResume ses m) s = .next (s.refuse ses 0x2B00 7 0x08000022) ∧ exec (.masterDrop ses m) s = .next (s.refuse ses 0x2B00 7 0x08000022)) ∧
    (Served s ses 2 → (s.master m).frozen = true → ∃ t : State, exec (.masterDrop ses m) s = .next t ∧ (t.master m).frozen = false ∧
      (t.master m).held = [] ∧ t.count (0x2B10 + m) 0x15 = (s.bumpBy (0x2B10 + m) 0x15 (s.master m).held.length).count (0x2B10 + m) 0x15 ∧
      t.cores = s.cores ∧ t.mem = s.mem) ∧
    (Served s ses 2 → (s.master m).frozen = true → (s.master m).held = [] → ∃ t : State, exec (.masterResume ses m) s = .next t ∧
      (t.master m).frozen = false ∧ (t.master m).held = [] ∧ t.cores = s.cores ∧ t.mem = s.mem) ∧
    (Served s ses 2 → s.present c = true → (s.core c).state = .frozen → ∃ t : State, exec (.masterResume ses (0x1000 + c)) s = .next t ∧
      (t.core c).state = .running ∧ (t.core c).seq = (s.core c).seq ∧ (∀ x, x ≠ c → t.core x = s.core x) ∧ t.mem = s.mem) ∧
    (Served s ses 2 → s.present c = true → (s.core c).state = .frozen → (s.core c).seq.ops = [] → ∃ t : State,
      exec (.masterDrop ses (0x1000 + c)) s = .next t ∧ (t.core c).state = .halted ∧ t.mem = s.mem) ∧
    (s.reachable ses = false ∨ calRange a = false → exec (.calWrite ses a data) s = .next s) ∧
    (s.reachable ses = true → (s.master (sesMaster ses)).frozen = true → calRange a = true → exec (.calWrite ses a data) s =
      .next (s.hold (sesMaster ses) ⟨a, true, data.length, data, ses, none, none, none⟩)) ∧
    (s.reachable ses = true → (s.master (sesMaster ses)).frozen = false → s.masterMay (sesMaster ses) a 4 true = true → data.length = 4 → a % 4 = 0 →
      0x0A000000 ≤ a → a < 0x0A0001C0 ∨ (0x0A000200 ≤ a ∧ a < 0x0A000400) → 2 ≤ (s.session ses).level →
      exec (.calWrite ses a data) s = .next (({ s with trims := Tab.set s.trims a (fromLE data) }).bump 0x2900 1)) ∧
    (s.reachable ses = true → (s.master (sesMaster ses)).frozen = false → s.masterMay (sesMaster ses) a 4 true = true → data.length = 4 → a % 4 = 0 →
      0x0A000000 ≤ a → a < 0x0A0001C0 ∨ (0x0A000200 ≤ a ∧ a < 0x0A000400) → (s.session ses).level < 2 → exec (.calWrite ses a data) s = .next s) ∧
    (Served s ses 2 → v % 4 = 3 → exec (.calRestore ses v) s = .next (s.refuse ses 0x2900 2 0x06090030)) ∧
    (Served s ses 2 → v % 4 = 2 → exec (.calRestore ses v) s = .next (({ s with trims := s.trims.filter (fun t =>
      !(decide (0x0A000000 ≤ t.1) && decide (t.1 < 0x0A010000))) }).giveReply ses ⟨0, []⟩)) ∧
    (Served s ses 2 → v % 4 = 1 → s.present (v / 4 % 65536) = true →
      exec (.calRestore ses v) s = .next ((s.restoreEngines (fun c => c == v / 4 % 65536)).giveReply ses ⟨0, []⟩)) ∧
    (s.keep.countersAt + 60000000000 ≤ s.time.up → exec .counterPersist s = .next { s with keep := { s.keep with
      counters := s.counters.filter (fun e => s.kept e.1), prevCounters := s.keep.counters, countersAt := s.time.up } }) ∧
    (s.time.up < s.keep.countersAt + 60000000000 → exec .counterPersist s = .next s) ∧
    (s.telemOn = true → s.pwr.watch = false → s.portServes (s.cfg 0x2B30 1) = true → s.telem.lastAt + 1000000000 * s.cfg 0x2B30 4 ≤ s.time.up →
      exec .telemetryDatagram s = .next { s.telemValues.2 with telem := { s.telemValues.2.telem with
        lastAt := s.time.up, values := s.telemValues.1, records := sortRecs s.telem.unsent, unsent := [] } }) ∧
    (s.telemOn = false ∨ s.time.up < s.telem.lastAt + 1000000000 * s.cfg 0x2B30 4 → exec .telemetryDatagram s = .next s) ∧
    (exec (.ethLinkState p up) s = .next { s with links := Tab.set s.links p (up && s.clocked (1 + p) && !s.clk.refLost) }) ∧
    (exec .pcieReset s = .next (({ s with pcie := Pcie.reset }).modSession 0 (fun k => { k with level := 0, nonce := none, clearNonce := none })))

/-- Management firmware (R281, R282): loads, switches, what a bank that serves or does not leaves, RESTORE_DEFAULTS and the watchdog. A write while
the controller does not serve is answered 0x0800_0020, or dropped on PCIe. The model's own choices it rests on: log 7, 17, 82, 83. -/
def Obligations.FirmwareSwitches : Prop :=
  ∀ (s : State) (ses : Ses),
    let img := s.bytes 0 s.fw.len
    let b := 1 - s.fw.active
    (Served s ses 2 → s.stageFree = true → exec (.fwLoad ses) s =
      .next (({ s with fw := { s.fw with status := 1 }, stage := { s.stage with firmware := true } }).giveReply ses ⟨0, []⟩)) ∧
    (Served s ses 2 → s.stageFree = false → exec (.fwLoad ses) s = .next (s.refuse ses 0x2B80 5 0x08000022)) ∧
    (Served s ses 2 → s.sets.state = 0 → s.ctxs.all (fun x => x.2.cmd == 0) = true → ∃ t : State, exec (.fwSwitch ses) s = .next t ∧
      t.fw.serving = false ∧ t.fw.switching = some (b, s.time.up, false) ∧ t.pwr.mgmtCrossing = false ∧ (∀ x, (t.session x).level = 0) ∧
      t.cores = s.cores ∧ t.mem = s.mem) ∧
    (Served s ses 2 → s.sets.state ≠ 0 ∨ s.ctxs.all (fun x => x.2.cmd == 0) = false →
      exec (.fwSwitch ses) s = .next (s.refuse ses 0x2B80 5 0x08000022)) ∧
    (Served s ses 2 → exec (.restoreDefaults ses) s =
      .next (({ s with keep := { s.keep with restoreDefaults := true } }).giveReply ses ⟨0, []⟩)) ∧
    (s.fw.status = 1 → s.stage.firmware = true → ∃ t : State, exec .fwImageWritten s = .next t ∧
      (Config.firmwareSigned img = true → t.fw.status = 2 ∧ Tab.get [] t.fw.images b = img ∧ t.fw.active = s.fw.active) ∧
      (Config.firmwareSigned img = false → t.fw = { s.fw with status := 4 }) ∧
      t.stage.firmware = false ∧ t.cores = s.cores ∧ t.mem = s.mem) ∧
    (s.fw.status ≠ 1 ∨ s.stage.firmware = false → exec .fwImageWritten s = .next s) ∧
    (s.fw.switching = none → exec .fwBankServing s = .next s ∧ exec .fwSwitchAbandon s = .next s) ∧
    (∀ n since wd, s.fw.switching = some (n, since, wd) →
      (s.time.up < since + 2000000000 → ∃ t : State, exec .fwBankServing s = .next t ∧ t.fw = { s.fw with
        serving := true, active := n, switching := none } ∧ bit t.outs.causeNow 2 = false ∧ t.cores = s.cores ∧ t.mem = s.mem) ∧
      (since + 2000000000 ≤ s.time.up → exec .fwBankServing s = .next s) ∧
      (since + 2000000000 ≤ s.time.up → ∃ t : State, exec .fwSwitchAbandon s = .next t ∧ t.fw.status = 3 ∧ t.fw.serving = false ∧
        t.fw.switching = some (s.fw.active, s.time.up, true) ∧ t.cores = s.cores ∧ t.mem = s.mem) ∧
      (s.time.up < since + 2000000000 → ∃ t : State, exec .fwSwitchAbandon s = .next t ∧
        (Config.firmwareSelfCheck s.draws = true → t = s) ∧ t.cores = s.cores ∧ t.mem = s.mem)) ∧
    (s.pwr.watch = false → s.fw.switching = none → ∃ t : State, exec .managementWatchdog s = .next t ∧ t.fw.serving = false ∧
      t.fw.switching = some (s.fw.active, s.time.up, true) ∧ bit t.outs.faultCause 2 = true ∧ bit t.outs.causeNow 2 = true ∧
      (∀ x, (t.session x).level = 0) ∧ t.cores = s.cores ∧ t.mem = s.mem) ∧
    (s.pwr.watch = true ∨ s.fw.switching ≠ none → exec .managementWatchdog s = .next s) ∧
    (∀ idx sub data, s.reachable ses = true → s.serves = false →
      exec (.objectWrite ses idx sub data) s = .next (if ses ≠ 0 then s.giveReply ses ⟨0x08000020, []⟩
        else if s.pwr.mgmtCrossing = true then s else s.bump 0x2200 13))

/-! ### Clocks, power, resets, service life -/

/-- Losses of lock and returns (R294, R296, R297): the domains of a generator that loses lock ramp on the pilot, which it shares with its mate, the
GTC leaves a lost TPLL; it returns after a millisecond of lock; without the reference everything is on pilots and the links are down. The model's
own choices it rests on: log 7, 75, 94, 113, 141. -/
def Obligations.GeneratorsLoseAndRegainLock : Prop :=
  ∀ (s : State) (g : Nat),
    let k := s.gen g
    (s.hasGen g = false ∨ k.state = 1 ∨ k.state = 2 → exec (.lockLoss g) s = .next s) ∧
    (∀ m, pilotMate g = some m → (s.gen m).state ≠ 0 → s.pilotOf g = (s.gen m).pilotPpm) ∧
    (s.hasGen g = true → k.state = 0 → ∃ t : State, exec (.lockLoss g) s = .next t ∧ (t.gen g).state = 1 ∧ (t.gen g).pilotPpm = s.pilotOf g ∧
      t.count (genIdx g) 2 = (s.bump (genIdx g) 2).count (genIdx g) 2 ∧
      (∀ d, d ∈ s.fedBy g → d ≠ 3 → t.divider d = ⟨min 255 (4 * s.divSet d), s.divSet d, none⟩) ∧
      (g = 1 → t.time.mode = if s.clk.refLost then .pilot else .coarse) ∧ (g ≠ 1 → t.time = s.time) ∧
      t.mem = s.mem ∧ (g = 0 ∨ g = 1 → t.cores = s.cores ∧ t.engines = s.engines) ∧
      (∀ c e, (t.eng c e).pairs = (s.eng c e).pairs ∧ (t.eng c e).regs.readCnt = (s.eng c e).regs.readCnt ∧
        (genDie g = some (dieOf c) → (t.eng c e).test.running = none)) ∧
      ∀ c d, genDie g = some d → dieOf c = d → (t.core c).seq.ops = (s.core c).seq.ops.map (s.reissueOp c)) ∧
    (s.hasGen g = true → k.state = 3 → ∃ t : State, exec (.lockLoss g) s = .next t ∧ (t.gen g).state = 2 ∧
      t.count (genIdx g) 2 = (s.bump (genIdx g) 2).count (genIdx g) 2 ∧ t.time = s.time ∧ t.cores = s.cores ∧ t.mem = s.mem) ∧
    (s.hasGen g = true → s.clk.refLost = false → k.state = 1 ∨ k.state = 2 →
      exec (.pllRelock g) s = .next (s.setGen g { k with state := 3, since := s.time.up })) ∧
    (s.hasGen g = false ∨ s.clk.refLost = true ∨ k.state = 0 ∨ k.state = 3 → exec (.pllRelock g) s = .next s) ∧
    (k.state = 3 → k.since + 1000000 ≤ s.time.up → (s.fedBy g).any s.ramping = false → ∃ t : State, exec (.pllReturn g) s = .next t ∧
      (t.gen g).state = 0 ∧ t.count (genIdx g) 2 = (s.bump (genIdx g) 2).count (genIdx g) 2 ∧ (g = 1 → s.time.mode = .coarse ∨ s.time.mode = .pilot → t.time.mode = s.time.prev) ∧
      (g ≠ 1 → t.time = s.time) ∧ t.time.gtc = s.time.gtc ∧ t.clk.divs = s.clk.divs ∧ t.cores = s.cores ∧ t.mem = s.mem) ∧
    (k.state ≠ 3 ∨ s.time.up < k.since + 1000000 ∨ (s.fedBy g).any s.ramping = true → exec (.pllReturn g) s = .next s) ∧
    (s.clk.refLost = true → exec .referenceLost s = .next s) ∧
    (s.clk.refLost = false → ∃ t : State, exec .referenceLost s = .next t ∧ t.clk.refLost = true ∧ t.time.mode = .pilot ∧
      t.time.gtc = s.time.gtc ∧ t.ecatLink = false ∧ (∀ p, p < 2 → t.portServes p = false) ∧ (∀ p, p < 4 → (t.port p).state = 0) ∧
      (∀ n, s.hasGen n = true → (t.gen n).state ≠ 0) ∧ (∀ c e, (t.eng c e).pairs = (s.eng c e).pairs) ∧ t.reachable 0 = s.reachable 0) ∧
    (exec .referencePresent s = .next { s with clk := { s.clk with refLost := false } })

/-- Ramps (R290, R292, R293): a domain's divider makes one step toward its target; what follows it through RATIO crossings keeps its ratio; no other
divider moves; a domain that ramped to change its source changes it there and ramps back. Bridges (R312, R313): an uncorrectable flit is counted and
recorded and replayed, the sixteenth in a row is followed by a retrain, after which the count starts again and what waited at the bridge goes on.
The model's own choices it rests on: log 7, 76, 77, 159, 162. -/
def Obligations.RampsAndRetrains : Prop :=
  ∀ (s : State) (dom b : Nat),
    let v := s.divider dom
    let n := if v.now < v.target then v.now + 1 else v.now - 1
    (s.domains.contains dom = false ∨ v.now = v.target ∨ s.led dom = true → exec (.dividerStep dom) s = .next s) ∧
    (s.domains.contains dom = true → v.now ≠ v.target → s.led dom = false → ∃ t : State, exec (.dividerStep dom) s = .next t ∧
      (v.hold = none ∨ n ≠ v.target → t.divider dom = { v with now := n }) ∧
      (v.hold ≠ none → n = v.target → t.divider dom = ⟨n, s.divSet dom, none⟩) ∧
      (∀ f r, (f, r) ∈ s.followers dom → t.divider f = { s.divider f with now := r * n }) ∧
      (∀ d, d ≠ dom → (∀ r, (d, r) ∉ s.followers dom) → t.divider d = s.divider d) ∧ t.time = s.time ∧ t.cores = s.cores ∧ t.mem = s.mem) ∧
    (s.hasBridge b = true → (s.bridge b).training = false → ∃ t : State, exec (.bridgeReplay b) s = .next t ∧
      t.bridge b = { s.bridge b with replays := (s.bridge b).replays + 1 } ∧ t.count 0x2C00 9 = (s.bump 0x2C00 9).count 0x2C00 9 ∧
      t.count 0x2C00 4 = (s.bump 0x2C00 4).count 0x2C00 4 ∧ (∃ w, t.ash.inbox = s.ash.inbox ++
        [⟨⟨s.time.gtc, 0, 0x0011, [w], false, false, false, false, 0, 0⟩, none⟩]) ∧
      (∀ x, x ≠ b → t.bridge x = s.bridge x) ∧ t.net = s.net ∧ t.cores = s.cores ∧ t.mem = s.mem) ∧
    (s.hasBridge b = false ∨ (s.bridge b).training = true → exec (.bridgeReplay b) s = .next s) ∧
    (16 ≤ (s.bridge b).replays → exec (.bridgeRetrain b) s = .next (s.setBridge b { s.bridge b with training := true })) ∧
    ((s.bridge b).replays < 16 → exec (.bridgeRetrain b) s = .next s) ∧
    ((s.bridge b).training = true → exec (.bridgeRetrained b) s = .next (s.cores.foldl (fun t e => t.settle e.1)
      ((List.range 4).foldl State.portResume (s.setBridge b { s.bridge b with replays := 0, training := false })))) ∧
    ((s.bridge b).training = false → exec (.bridgeRetrained b) s = .next s)

/-- Power states (R299-R301): POWER_CMD's three commands and what refuses them, the end of the watch state, dies and cores that turn on. The model's
own choices it rests on: log 3, 7, 47, 73, 74. -/
def Obligations.PowerStatesFollowCommands : Prop :=
  ∀ (s : State) (ses : Ses) (c d : Nat),
    let store := fun (x a : Nat) => 0x06200000 + x * 0x40000 ≤ a ∧ a < 0x06200000 + (x + 1) * 0x40000
    (Served s ses 2 → s.anyRunning = true → exec (.watch ses) s = .next (s.refuse ses 0x2200 4 0x08000022)) ∧
    (Served s ses 2 → s.anyRunning = false → ∃ t : State, exec (.watch ses) s = .next t ∧ t.pwr.watch = true ∧ t.pwr.ready = 0 ∧
      t.outs.driven = false ∧ bit t.outs.faultCause 0 = true ∧ bit t.outs.causeNow 0 = true ∧ t.mem = [] ∧
      (∀ x, x < s.part.dies → t.dieOn x = false) ∧ (∀ x, (t.core x).state = .off ∨ (t.core x).state = .dead) ∧
      (∀ k, k < 8 → (s.trk k).state ≠ .off → (t.trk k).state = .holdover) ∧ t.time = s.time ∧ t.engines = s.engines) ∧
    (Served s ses 2 → s.computeLoaded = true → exec (.diesDown ses) s = .next (s.refuse ses 0x2200 4 0x08000022)) ∧
    (Served s ses 2 → s.computeLoaded = false → ∃ t : State, exec (.diesDown ses) s = .next t ∧ t.pwr.state = 1 ∧
      (∀ x, x < s.part.dies → t.dieOn x = false) ∧ (∀ x, dieOf x < 4 → (t.core x).comm.epoch = 0) ∧
      (∀ x, 4 ≤ dieOf x → t.core x = s.core x) ∧ t.engines = s.engines ∧ t.time = s.time ∧
      (∀ x a, x < s.part.dies → store x a → Mem.read t.mem a = 0) ∧
      (∀ a, (∀ x, x < s.part.dies → ¬ store x a) → Mem.read t.mem a = Mem.read s.mem a)) ∧
    (Served s ses 2 → ∃ t : State, exec (.diesUp ses) s = .next t ∧ (∀ x, t.dieOn x = s.dieOn x) ∧
      (∀ x, x < s.part.dies → s.dieOn x = false → s.coreRail x = true → Tab.get 0 t.pwr.dies x = 2 ∧ t.pwr.state = 2) ∧
      ((∀ x, x < s.part.dies → s.dieOn x = true) → t.pwr.state = 0) ∧ t.pwr.dieAt = none ∧
      t.cores = s.cores ∧ t.engines = s.engines ∧ t.time = s.time ∧
      (∀ a, (∀ x, x < s.part.dies → ¬ store x a) → Mem.read t.mem a = Mem.read s.mem a)) ∧
    (s.pwr.watch = false ∨ s.pwr.powerGood = false ∨ s.pwr.watchWake = 0 ∨ s.time.gtc < s.pwr.watchWake → exec .watchWake s = .next s) ∧
    (s.pwr.watch = true → s.pwr.powerGood = true → s.pwr.watchWake ≠ 0 → s.pwr.watchWake ≤ s.time.gtc → ∃ t : State, exec .watchWake s = .next t ∧
      t.pwr.watch = false ∧ t.pwr.resetCause = 3 ∧ t.time.gtc = s.time.gtc ∧ t.outs.driven = true ∧ t.ash.retention = [] ∧
      ∀ x e, (t.eng x e).pairs = (s.eng x e).pairs) ∧
    (s.pwr.powerGood = true → s.pwr.watch = false → s.pwr.state ≠ 1 → d < s.part.dies → s.dieOn d = false → s.coreRail d = true →
      (∀ i, i < d → s.dieOn i = true ∨ s.coreRail i = false) → (∀ a, s.pwr.dieAt = some a → a + 100000000 ≤ s.time.up) →
      ∃ t : State, exec (.diePowerOn d) s = .next t ∧ t.dieOn d = true ∧ t.pwr.dieAt = some s.time.up ∧
      (∀ x, x ≠ d → t.dieOn x = s.dieOn x) ∧ t.engines = s.engines ∧ t.cores = s.cores ∧ t.mem = s.mem ∧
      (s.pwr.state = 2 → (∀ x, x < s.part.dies → x ≠ d → Tab.get 0 s.pwr.dies x ≠ 2) → t.pwr.state = 0)) ∧
    (s.pwr.powerGood = false ∨ s.pwr.watch = true ∨ s.pwr.state = 1 ∨ s.part.dies ≤ d ∨ s.dieOn d = true ∨ s.coreRail d = false ∨
        (∃ a, s.pwr.dieAt = some a ∧ s.time.up < a + 100000000) →
      exec (.diePowerOn d) s = .next s) ∧
    (isSentinel c = true ∨ s.dieOn (dieOf c) = true → (s.core c).ctx ≠ none → (s.core c).state = .off →
      (∀ i, i < c → dieOf i = dieOf c → (s.core i).ctx = none ∨ (s.core i).state ≠ .off) → ∃ t : State, exec (.coreTurnOn c) s = .next t ∧
      (t.core c).state = .idle ∧ (t.core c).ctx = (s.core c).ctx ∧ (∀ x, x ≠ c → t.core x = s.core x) ∧
      (∀ x e, (t.eng x e).pairs = (s.eng x e).pairs) ∧ t.mem = s.mem) ∧
    ((isSentinel c = false ∧ s.dieOn (dieOf c) = false) ∨ (s.core c).ctx = none ∨ (s.core c).state ≠ .off →
      exec (.coreTurnOn c) s = .next s)

/-- Resets (R302-R306): what a module reset keeps and what it starts again, from power-good, RESET_N and RESET_CMD; a core's and a die's reset, and
what refuses them; a crossing reopened. The model's own choices it rests on: log 3, 7, 46, 60, 71, 74. -/
def Obligations.ResetsReachTheirScope : Prop :=
  ∀ (s : State) (ses : Ses) (c d : Nat), c < 65536 → d < 65536 →
    let module := fun (t : State) cause => t.pwr.resetCause = cause ∧ t.time.up = s.time.up ∧ t.keys = s.keys ∧ t.defects = s.defects ∧
      t.outs.driven = true ∧ (∀ x e, (t.eng x e).pairs = (s.eng x e).pairs ∧ (t.eng x e).sums = (s.eng x e).sums) ∧
      (∀ x e v, (Tab.find s.engines (engKey x e)).isSome = true → Tab.find s.keep.te (engKey x e) = some v → (t.eng x e).te = v) ∧ (∀ n, n < 4 → t.dieOn n = false)
    (s.pwr.powerGood = true → exec .powerGood s = .next s) ∧
    (s.pwr.powerGood = false → ∃ t : State, exec .powerGood s = .next t ∧ t.pwr.powerGood = true ∧ module t 0) ∧
    (s.pwr.powerGood = false → s.cmdStatus % 256 = resInterrupted → ∃ t : State, exec .powerGood s = .next t ∧ t.cmdStatus % 256 = resInterrupted) ∧
    (∃ t : State, exec .powerGoodLoss s = .next t ∧ t.pwr.powerGood = false ∧ t.outs.driven = false ∧ t.mem = [] ∧ t.keys = s.keys ∧
      ∀ x e, (t.eng x e).pairs = (s.eng x e).pairs) ∧
    (s.pwr.powerGood = true → s.pwr.watch = false → ∃ t : State, exec .resetN s = .next t ∧ module t 1) ∧
    (s.pwr.powerGood = false → exec .resetN s = .next s) ∧
    (s.pwr.powerGood = true → s.pwr.watch = true → ∃ t : State, exec .resetN s = .next t ∧ t.pwr.watch = false ∧ t.pwr.resetCause = 3 ∧ t.time.gtc = s.time.gtc) ∧
    (Served s ses 2 → s.pwr.powerGood = true → ∃ t : State, exec (.resetCmdModule ses) s = .next t ∧ module t 2) ∧
    (Served s ses 2 → s.dieRuns d = true → exec (.resetCmdDie ses d) s = .next (s.refuse ses 0x2200 11 0x08000022)) ∧
    (Served s ses 2 → s.dieRuns d = false → s.part.dies ≤ d → exec (.resetCmdDie ses d) s = .next (s.refuse ses 0x2200 11 0x06090030)) ∧
    (Served s ses 2 → s.dieRuns d = false → d < s.part.dies → ∃ t : State, exec (.resetCmdDie ses d) s = .next t ∧
      Tab.get false t.pwr.crossings d = false ∧ (∀ x, x ∈ s.coresOn d → (t.core x).seq = Seq.reset ∧ (t.core x).comm.crossing = false) ∧
      (∀ x e, (t.eng x e).pairs = (s.eng x e).pairs) ∧ t.time = s.time) ∧
    (Served s ses 2 → s.coreRuns c = true → exec (.resetCmdCore ses c) s = .next (s.refuse ses 0x2200 11 0x08000022)) ∧
    (Served s ses 2 → s.coreRuns c = false → s.present c = false →
      exec (.resetCmdCore ses c) s = .next (s.refuse ses 0x2200 11 0x06090030)) ∧
    (Served s ses 2 → s.coreRuns c = false → s.present c = true → (s.core c).state = .off →
      exec (.resetCmdCore ses c) s = .next (s.giveReply ses ⟨0, []⟩)) ∧
    (Served s ses 2 → s.coreRuns c = false → s.present c = true → (s.core c).state ≠ .off → ∃ t : State,
      exec (.resetCmdCore ses c) s = .next t ∧ (t.core c).seq = Seq.reset ∧ (t.core c).tags = [] ∧ (t.core c).wins = [] ∧
      (t.core c).ctx = (s.core c).ctx ∧ (t.core c).lcore = (s.core c).lcore ∧ (t.core c).comm.crossing = false ∧
      (∀ a, abAddr c 0 ≤ a → a < accAddr c 0 0 0 → Mem.read t.mem a = Mem.read s.mem a) ∧
      (∀ x e, (t.eng x e).pairs = (s.eng x e).pairs) ∧ t.time = s.time) ∧
    (s.dieOn d = true → exec (.crossingReopen (.die d)) s =
      .next ({ s with pwr := { s.pwr with crossings := Tab.set s.pwr.crossings d true } } : State).stageFlow) ∧
    (s.dieOn d = false → exec (.crossingReopen (.die d)) s = .next s) ∧
    (s.fw.serving = true → exec (.crossingReopen .mgmt) s = .next { s with pwr := { s.pwr with mgmtCrossing := true } }) ∧
    ((s.core c).state = .off → exec (.crossingReopen (.core c)) s = .next s) ∧
    ((s.core c).state = .idle ∨ (s.core c).state = .running → s.stage.install = none →
      exec (.crossingReopen (.core c)) s = .next (s.modComm c (fun m => { m with crossing := true })))

/-- Rails and temperature (R343, R347): a die that loses VDD_CORE is reset and off and its cores that served halt with status 4, the epoch of each
risen once (R126); it powers up when the rail is back; VDD_PROG and VDD_OPT; THERM_N while any sensor is hot. The model's own choices it rests on:
log 7, 70, 95. -/
def Obligations.RailsAndTemperature : Prop :=
  ∀ (s : State) (d : Nat) (h : Heat),
    let told := fun (t : State) was => s.pwr.powerGood = true →
      ∃ m, m ∈ t.ash.inbox ∧ m.record.src = 0x0050 + d ∧ m.record.code = 6 ∧ m.record.payload = [0, was]
    (d < s.part.dies → s.coreRail d = true → s.dieOn d = true → ∃ t : State, exec (.vddCoreLoss d) s = .next t ∧ t.coreRail d = false ∧ t.dieOn d = false ∧
      Tab.get false t.pwr.crossings d = false ∧ (∀ x, x ≠ d → t.dieOn x = s.dieOn x) ∧
      ((s.coresOn d).Nodup → ∀ c, c ∈ s.coresOn d → (t.core c).comm.epoch = nextEpoch (s.core c).comm.epoch) ∧
      (∀ c, c ∈ s.coresOn d → (t.core c).state = (if (s.core c).ctx.isSome then .halted else .off) ∧ (t.core c).ctx = (s.core c).ctx ∧
        ((s.core c).state = .running → (t.core c).seq.lastFault = (FaultInfo.mk 4 (s.core c).seq.pc (s.core c).seq.bank).word)) ∧
      (∀ x e, (t.eng x e).pairs = (s.eng x e).pairs) ∧ t.time = s.time ∧ told t 1) ∧
    (d < s.part.dies → s.coreRail d = true → s.dieOn d = false → ∃ t : State, exec (.vddCoreLoss d) s = .next t ∧ t.coreRail d = false ∧
      Tab.get 0 t.pwr.dies d = 0 ∧ (∀ x, t.dieOn x = s.dieOn x) ∧ t.cores = s.cores ∧ t.engines = s.engines ∧ t.time = s.time ∧
      told t (Tab.get 0 s.pwr.dies d)) ∧
    (s.coreRail d = false → exec (.vddCoreLoss d) s = .next s) ∧
    (s.part.dies ≤ d → exec (.vddCoreLoss d) s = .next s ∧ exec (.vddCoreReturn d) s = .next s) ∧
    (d < s.part.dies → s.pwr.powerGood = true → s.pwr.watch = false → s.pwr.state ≠ 1 → s.dieOn d = false → ∃ t : State,
      exec (.vddCoreReturn d) s = .next t ∧ t.coreRail d = true ∧ t.dieOn d = true ∧ (∀ x, x ≠ d → t.dieOn x = s.dieOn x) ∧
      (∀ c, dieOf c = d → (s.core c).state = .halted → (t.core c).state = .off) ∧ t.engines = s.engines ∧ t.mem = s.mem ∧ t.time = s.time) ∧
    (d < s.part.dies → s.dieOn d = true →
      exec (.vddCoreReturn d) s = .next { s with pwr := { s.pwr with coreRails := Tab.set s.pwr.coreRails d true } }) ∧
    (exec .vddProgLoss s = .next { s with damper := { s.damper with railOk := false, railSince := s.time.up } }) ∧
    (exec .vddProgReturn s = .next { s with damper := { s.damper with railOk := true, railSince := s.time.up } }) ∧
    (exec .vddOptValid s = .next { s with pwr := { s.pwr with optOk := true } }) ∧
    (∃ t : State, exec .vddOptLoss s = .next t ∧ t.pwr.optOk = false ∧ (∀ p, p < 4 → (t.port p).state = 0 ∧ (t.port p).credits = 0) ∧
      t.engines = s.engines) ∧
    (d < 5 → ∃ t : State, exec (.thermN d .hot) s = .next t ∧ t.outs.therm = true) ∧
    (d < 5 → h ≠ .hot → (∀ n, n < 5 → n ≠ d → Tab.get .cool s.outs.heat n ≠ .hot) → (∃ n, n < 5 ∧ n ≠ d ∧ Tab.get .cool s.outs.heat n = .near) ∨
        h = .near → ∃ t : State, exec (.thermN d h) s = .next t ∧ t.outs.therm = s.outs.therm) ∧
    (d < 5 → (∀ n, n < 5 → n ≠ d → Tab.get .cool s.outs.heat n = .cool) → ∃ t : State, exec (.thermN d .cool) s = .next t ∧
      t.outs.therm = false ∧ t.cores = s.cores ∧ t.mem = s.mem) ∧
    (5 ≤ d → exec (.thermN d h) s = .next s)

/-- Scrubbing (R311-R316): a correctable error is counted and put right; an uncorrectable one leaves the word poisoned and LAST_UE set; a flit is
delivered poisoned, and one of an op gives the op status 4; a word found in two passes in a row is persistent; a pass of the hub keep counts for
itself. The model's own choices it rests on: log 67, 68, 69, 137, 162. -/
def Obligations.ScrubbingFindsErrors : Prop :=
  ∀ (s : State) (a : Nat),
    let period := 1000000000 * s.cfg 0x2C00 1
    (exec (.scrubAccess a .clean) s = .next s) ∧
    (a < 2 ^ 32 → s.sramAt a = false → ∀ f, exec (.scrubAccess a f) s = .next s) ∧
    (a < 2 ^ 32 → s.sramAt a = true → ∃ t : State, exec (.scrubAccess a .correctable) s = .next t ∧
      t.count 0x2C00 3 = (s.bump 0x2C00 3).count 0x2C00 3 ∧ a / 8 * 8 ∈ t.svc.ceNow ∧ t.svc.poison = s.svc.poison ∧ t.mem = s.mem ∧
      t.cores = s.cores ∧ t.engines = s.engines) ∧
    (a < 2 ^ 32 → s.sramAt a = true → ∃ t : State, exec (.scrubAccess a .uncorrectable) s = .next t ∧ t.poisoned (a / 8 * 8) 8 = true ∧
      t.svc.lastUe = a / 8 * 8 + eccSource a * 2 ^ 32 ∧ t.count 0x2C00 4 = (s.bump 0x2C00 4).count 0x2C00 4 ∧
      (a < 0x06000000 → bit t.outs.faultCause 5 = true) ∧ t.mem = s.mem ∧ t.cores = s.cores ∧ t.engines = s.engines) ∧
    (2 ^ 32 ≤ a → a < 2 ^ 33 → ∃ t : State, exec (.scrubAccess a .uncorrectable) s = .next t ∧ bit t.outs.faultCause 5 = true ∧
      t.keep = (s.keepLast (odKey 0x2C00 8) s.svc.lastUe).keep.fallBack (Config.keepKey (a - 2 ^ 32)) ∧
      (∀ i v, 1 ≤ i → i ≤ 7 → Config.keepKey (a - 2 ^ 32) = odKey 0x2B01 (i + 1) → Tab.find s.keep.prevKeys i = some v → Tab.get KeySlot.reset t.keys i = v) ∧ t.svc.poison = s.svc.poison ∧ t.mem = s.mem ∧ t.cores = s.cores ∧
      (Config.keepKey (a - 2 ^ 32) < 2 ^ 34 → t.engines = s.engines)) ∧
    (2 ^ 33 ≤ a → a < 2 ^ 34 → ∃ t : State, exec (.scrubAccess a .uncorrectable) s = .next t ∧
      (a - 2 ^ 33) % 128 ∈ (t.eng ((a - 2 ^ 33) / 512 / 50) ((a - 2 ^ 33) / 512 % 50)).sumsBad ∧ t.mem = s.mem ∧ t.cores = s.cores) ∧
    (2 ^ 34 ≤ a → s.flitAt a = false → ∀ f, exec (.scrubAccess a f) s = .next s) ∧
    (2 ^ 34 ≤ a → s.flitAt a = true → ∃ t : State, exec (.scrubAccess a .correctable) s = .next t ∧
      t.count 0x2C00 3 = (s.bump 0x2C00 3).count 0x2C00 3 ∧ t.svc = s.svc ∧ t.net = s.net ∧ t.mem = s.mem ∧ t.cores = s.cores ∧ t.engines = s.engines) ∧
    (2 ^ 34 ≤ a → s.flitAt a = true → ∃ t : State, exec (.scrubAccess a .uncorrectable) s = .next t ∧
      t.count 0x2C00 4 = (s.bump 0x2C00 4).count 0x2C00 4 ∧ t.mem = s.mem ∧ (a < 2 ^ 37 → t.cores = s.cores) ∧ t.engines = s.engines ∧
      (∀ m, a < 2 ^ 35 → s.net.msgs[(a - 2 ^ 34) / 128]? = some m →
        t.net.msgs[(a - 2 ^ 34) / 128]? = some { m with hurt := insertNew m.hurt (a % 128) }) ∧
      (∀ u, 2 ^ 35 ≤ a → a < 2 ^ 36 → s.net.syncs[(a - 2 ^ 35) / 128]? = some u → t.net.syncs[(a - 2 ^ 35) / 128]? = some { u with hurt := true }) ∧
      (∀ m, 2 ^ 36 ≤ a → a < 2 ^ 37 → s.net.frames[(a - 2 ^ 36) / 128]? = some m →
        t.net.frames[(a - 2 ^ 36) / 128]? = some { m with hurt := insertNew m.hurt (a % 128) }) ∧
      (∀ o, let k := (a - 2 ^ 37) / 128
        let c := k / 64
        2 ^ 37 ≤ a → (s.core c).seq.ops[k % 64]? = some o →
        (t.core c).seq.ops = (s.core c).seq.ops.map (fun y => if y.seq = o.seq then y.poisonFlit (a % 128) else y) ∧
        (∀ y f, (Op.poisonFlit y f).status = 4 ∧ (Op.poisonFlit y f).hurt = insertNew y.hurt f) ∧ (∀ x, x ≠ c → t.core x = s.core x) ∧
        t.net.decisions = s.net.decisions.map (fun d =>
          if d.core = c ∧ d.op = o.seq then { d with value := Config.poisonedDecision s.draws } else d))) ∧
    (2 ^ 32 ≤ a → a < 2 ^ 34 → ∃ t : State, exec (.scrubAccess a .correctable) s = .next t ∧ t.count 0x2C00 3 = (s.bump 0x2C00 3).count 0x2C00 3 ∧
      (if a < 2 ^ 33 then a / 8 * 8 else a) ∈ t.svc.ceNow ∧ t.mem = s.mem ∧ t.keep = s.keep ∧ t.engines = s.engines) ∧
    (exec (.scrubPass true) s = .next (s.bumpBy 0x2C00 6 (boolNat (decide (s.svc.scrubAt + period ≤ s.time.up)) +
      boolNat (decide (s.svc.keepAt + 1000000000 * s.cfg 0x2C00 2 ≤ s.time.up))))) ∧
    (s.time.up < s.svc.scrubAt → exec (.scrubPass false) s = .next s) ∧
    (∀ w, s.passEnds w = true ↔ ¬ (2 ^ 32 ≤ w ∧ w < 2 ^ 33) ∨ s.svc.keepAt + 1000000000 * s.cfg 0x2C00 2 ≤ s.time.up) ∧
    (s.svc.scrubAt ≤ s.time.up → ∃ t : State, exec (.scrubPass false) s = .next t ∧
      t.count 0x2C00 5 = (s.bumpBy 0x2C00 5 (1 + boolNat (s.passEnds (2 ^ 32)))).count 0x2C00 5 ∧
      (∀ w, w ∈ t.svc.ceLast ↔ if s.passEnds w then w ∈ s.svc.ceNow else w ∈ s.svc.ceLast) ∧
      (∀ w, w ∈ t.svc.ceNow ↔ s.passEnds w = false ∧ w ∈ s.svc.ceNow) ∧
      (∀ w, s.passEnds w = true → w ∈ s.svc.ceNow → w ∈ s.svc.ceLast → (Tab.find t.svc.ceWords w).isSome = true) ∧
      (∀ w, s.passEnds w = false ∨ w ∉ s.svc.ceNow ∨ w ∉ s.svc.ceLast → Tab.find t.svc.ceWords w = Tab.find s.svc.ceWords w) ∧
      t.svc.scrubAt = max s.time.up (s.svc.scrubAt + period) ∧ t.mem = s.mem ∧ t.engines = s.engines)

/-! ### The recorder -/

/-- Records reach the recorder (R322-R326): the rate limit of the code's bucket, the sort stage, its release into the areas or the hold queue, the
refill of a bucket, and the bytes of a record in the founding area. A record that comes more than 1 ms after its stamp is marked LATE wherever it
goes (R323, R328). The model's own choices it rests on: log 7, 63, 137. -/
def Obligations.RecordsReachAreas : Prop :=
  ∀ (s : State) (m : RecMsg) (l : List RecMsg) (r : Rec) (rs : List Rec) (n : Nat),
    let b := bucketOf m.record.code
    let tok := s.tokensOf b
    let x : State := { s with ash := { s.ash with inbox := l } }
    let pass := s.ash.inbox = m :: l ∧ m.logOp = none ∧ 5 < m.record.code ∧ 0 < tok ∧ m.record.payload.length ≤ 32
    let out : Rec := { m.record.carry (Tab.get 0 s.ash.supp b) with
      seq := Tab.get 0 s.ash.seqs m.record.src, late := decide (m.record.gtc + 1000000 < s.time.gtc) }
    let paid : Ashpit := { x.ash with
      tokens := Tab.set s.ash.tokens b (tok - 1), supp := Tab.set s.ash.supp b 0, seqs := Tab.set s.ash.seqs m.record.src ((out.seq + 1) % 65536) }
    (s.ash.inbox = [] → exec .record s = .next s) ∧
    (s.ash.inbox = m :: l → m.logOp = none → 5 < m.record.code → tok = 0 → exec .record s = .next
      (({ x with ash := { x.ash with supp := Tab.set s.ash.supp b (Tab.get 0 s.ash.supp b + 1) } }).bump 0x2A00 9)) ∧
    (pass → s.pwr.watch = false → s.ash.checkpoint = false → s.time.gtc ≤ m.record.gtc + 1000000 → exec .record s =
      .next { s with ash := { paid with sort := insertRec out s.ash.sort } }) ∧
    (pass → s.ash.checkpoint = true → s.ash.hold.length < 256 → exec .record s =
      .next { s with ash := { paid with hold := s.ash.hold ++ [{ out with held := true }] } }) ∧
    (pass → s.pwr.watch = false → s.ash.checkpoint = false → m.record.gtc + 1000000 < s.time.gtc → exec .record s =
      .next (({ s with ash := paid } : State).leaveSort out)) ∧
    (pass → s.ash.checkpoint = false → s.pwr.watch = true → s.ash.retention = [] → exec .record s = .next { s with ash := { paid with retention := [out] } }) ∧
    (∀ c q o, s.ash.inbox = m :: l → m.logOp = some (c, q) → s.op c q = some o → 5 < m.record.code → 0 < tok → s.pwr.watch = false →
      s.ash.checkpoint = false → exec .record s = .next (({ s with ash := { paid with
        sort := insertRec { out with gtc := s.time.gtc, late := false } s.ash.sort } } : State).completeOp c o 0)) ∧
    (s.ash.sort = [] → exec .sortRelease s = .next s) ∧
    (s.ash.sort = r :: rs → s.time.gtc < r.gtc + 1000000 → exec .sortRelease s = .next s) ∧
    (s.ash.sort = r :: rs → r.gtc + 1000000 ≤ s.time.gtc → s.ash.freeze = none → s.ash.checkpoint = false → exec .sortRelease s =
      .next (({ s with ash := { s.ash with sort := rs } } : State).writeRecord r)) ∧
    (s.ash.sort = r :: rs → r.gtc + 1000000 ≤ s.time.gtc → s.ash.freeze ≠ none ∨ s.ash.checkpoint = true → s.ash.hold.length < 256 →
      exec .sortRelease s = .next { s with ash := { s.ash with sort := rs, hold := s.ash.hold ++ [{ r with held := true }] } }) ∧
    (s.ash.sort = r :: rs → r.gtc + 1000000 ≤ s.time.gtc → s.ash.freeze ≠ none → 256 ≤ s.ash.hold.length → ∃ t : State,
      exec .sortRelease s = .next t ∧ t.ash.hold = s.ash.hold ∧ t.ash.gap ≠ none ∧ t.count 0x2A00 8 = (s.bump 0x2A00 8).count 0x2A00 8 ∧
      t.mem = s.mem) ∧
    (n < 1024 → (∀ a, Tab.find s.ash.refilled n = some a → a + 1000000000 / s.bucketCfg n 2 ≤ s.time.up) → exec (.tokenRefill n) s = .next { s with
      ash := { s.ash with tokens := Tab.set s.ash.tokens n (min (s.bucketCfg n 3) (s.tokensOf n + 1)), refilled := Tab.set s.ash.refilled n s.time.up } }) ∧
    (n < 1024 → (∃ a, Tab.find s.ash.refilled n = some a ∧ s.time.up < a + 1000000000 / s.bucketCfg n 2) → exec (.tokenRefill n) s = .next s) ∧
    (∀ e k : Rec, (insertRec e [k] = if e.before k then [e, k] else [k, e]) ∧
      (e.before k = true ↔ e.gtc < k.gtc ∨ (e.gtc = k.gtc ∧ e.src < k.src)))

/-- R322: what a record's bytes are, and where they go: behind the last of the founding area while it fits there, else at the head of the rolling
area; a segment of the founding area is in the hub keep when it is full. The model's own choices it rests on: log 64. -/
def Obligations.RecordsAreLaidDown : Prop :=
  ∀ (s : State) (r : Rec), r.payload.length ≤ 32 →
    let n := recSize r.payload.length
    let t := s.writeRecord r
    let a := s.ash.foundFill
    let h := s.ash.rollHead
    r.bytes.length = n ∧ n % 16 = 0 ∧ 16 + 4 * r.payload.length ≤ n ∧ n < 16 + 4 * r.payload.length + 16 ∧
    fromLE (r.bytes.take 8) = r.gtc % 2 ^ 64 ∧ fromLE ((r.bytes.drop 8).take 2) = r.src % 65536 ∧ fromLE ((r.bytes.drop 10).take 2) = r.code % 65536 ∧
    fromLE ((r.bytes.drop 12).take 1) = r.payload.length ∧ fromLE ((r.bytes.drop 14).take 2) = r.seq % 65536 ∧
    (∀ i v, r.payload[i]? = some v → fromLE ((r.bytes.drop (16 + 4 * i)).take 4) = v % 2 ^ 32) ∧
    (s.memOk = true → a + n ≤ foundSize →
      (∀ x, Mem.read t.mem x = if foundBase + a ≤ x ∧ x < foundBase + a + n then r.bytes.getD (x - (foundBase + a)) 0 else Mem.read s.mem x) ∧
      t.ash.foundFill = a + n ∧ t.ash.rollHead = h ∧ t.ash.lastGtc = r.gtc ∧ t.count 0x2A00 7 = (s.bump 0x2A00 7).count 0x2A00 7 ∧
      (a / 65536 ≠ (a + n) / 65536 → ∀ x, foundBase + a / 65536 * 65536 ≤ x → x < foundBase + a / 65536 * 65536 + 65536 →
        Mem.read t.keep.ash x = Mem.read t.mem x) ∧
      (a / 65536 = (a + n) / 65536 → t.keep = s.keep)) ∧
    (s.memOk = true → a = foundSize → h + n ≤ rollSize → s.ash.rollUsed + n ≤ rollSize →
      (∀ x, Mem.read t.mem x = if rollBase + h ≤ x ∧ x < rollBase + h + n then r.bytes.getD (x - (rollBase + h)) 0 else Mem.read s.mem x) ∧
      t.ash.foundFill = a ∧ t.ash.rollHead = (h + n) % rollSize ∧ t.ash.rollUsed = s.ash.rollUsed + n ∧
      t.count 0x2A00 7 = (s.bump 0x2A00 7).count 0x2A00 7)

/-- Freezes and checkpoints (R326, R327): a freeze holds for FREEZE_MAX as it stood when it began; its end writes what was held; a checkpoint ends
with what waited written and, while PFAIL_N lasts, the power-down marked as checkpointed. The model's own choices it rests on: log 7, 65. -/
def Obligations.FreezesAndCheckpoints : Prop :=
  ∀ (s : State) (ses : Ses),
    let a := s.ash
    let thaw : State := { s with ash := { a with freeze := none } }
    (Served s ses 1 → a.freeze = none → exec (.ashFreeze ses) s =
      .next (({ s with ash := { a with freeze := some ⟨s.time.up, s.cfg 0x2A00 2⟩ } }).giveReply ses ⟨0, []⟩)) ∧
    (Served s ses 1 → a.freeze ≠ none → exec (.ashFreeze ses) s = .next (s.giveReply ses ⟨0, []⟩)) ∧
    (Served s ses 1 → a.freeze = none → exec (.ashUnfreeze ses) s = .next (s.giveReply ses ⟨0, []⟩)) ∧
    (Served s ses 1 → a.freeze ≠ none → a.checkpoint = true → exec (.ashUnfreeze ses) s = .next (thaw.giveReply ses ⟨0, []⟩)) ∧
    (Served s ses 1 → a.freeze ≠ none → a.checkpoint = false → a.gap = none → exec (.ashUnfreeze ses) s = .next
      ((a.hold.foldl (fun u r => if u.pwr.watch then u.retain r else u.writeRecord r) ({ s with ash := { a with freeze := none, hold := [] } } : State)).giveReply ses ⟨0, []⟩)) ∧
    (∀ f, a.freeze = some f → s.time.up < f.since + f.max * 1000000000 → exec .freezeMaxExpiry s = .next s) ∧
    (∀ f, a.freeze = some f → f.since + f.max * 1000000000 ≤ s.time.up → a.checkpoint = false → ∃ t : State, exec .freezeMaxExpiry s = .next t ∧
      t.ash.freeze = none ∧ t.ash.hold = [] ∧ t.ash.gap = none ∧ t.cores = s.cores ∧ t.engines = s.engines) ∧
    (a.freeze = none → exec .freezeMaxExpiry s = .next s) ∧
    (a.checkpoint = false → exec .checkpointComplete s = .next s) ∧
    (a.checkpoint = true → ∃ t : State, exec .checkpointComplete s = .next t ∧ t.ash.checkpoint = false ∧ t.ash.checkpointed = s.meas.pfail ∧
      bit t.pcie.msix 7 = true ∧ (a.freeze = none → t.ash.hold = [] ∧ t.ash.gap = none) ∧ (a.freeze ≠ none → t.ash.hold = a.hold) ∧
      t.cores = s.cores ∧ t.engines = s.engines)

/-- Clears (R329): each read of CLEAR_CHAL draws a nonce for its session; ASH_CLEAR is refused during a freeze or a checkpoint and without a current
nonce, a mismatch is counted, and a clear leaves empty areas with a CLEAR record first; a waiting PFAIL_N is then served. The model's own choices it
rests on: log 7, 15, 66. -/
def Obligations.ClearsNeedTheirProof : Prop :=
  ∀ (s : State) (ses : Ses) (slot : Nat) (proof nonce : List Byte), slot < 256 → proof.length = 32 →
    let k := s.session ses
    let spent := s.modSession ses (fun k => { k with clearNonce := none })
    let current := Served s ses 2 ∧ s.ash.freeze = none ∧ s.ash.checkpoint = false ∧ k.clearNonce = some nonce ∧ s.current k.clearAt = true
    let fits := 1 ≤ slot ∧ slot ≤ 7 ∧ (s.keySlot slot).level = 2 ∧ proof = s.clearProof nonce slot
    (s.reachable ses = true → s.serves = true → exec (.clearChal ses) s = .next (((s.drawN 32).modSession ses (fun k =>
      { k with clearNonce := some s.freshNonce, clearAt := s.time.up })).giveReply ses ⟨0, s.freshNonce⟩)) ∧
    (Served s ses 2 → s.ash.freeze ≠ none ∨ s.ash.checkpoint = true ∨ k.clearNonce = none →
      exec (.ashClear ses slot proof) s = .next (s.refuse ses 0x2A00 12 0x08000022)) ∧
    (Served s ses 2 → s.ash.freeze = none → s.ash.checkpoint = false → k.clearNonce = some nonce → s.current k.clearAt = false →
      exec (.ashClear ses slot proof) s = .next (spent.refuse ses 0x2A00 12 0x08000022)) ∧
    (s.reachable ses = true → s.serves = true → k.level < 2 → exec (.ashClear ses slot proof) s = .next (s.refuse ses 0x2A00 12 0x06010000)) ∧
    (current → ¬ fits → ∃ t : State, exec (.ashClear ses slot proof) s = .next t ∧ (t.session ses).reply = ⟨0x06010000, []⟩ ∧
      (t.session ses).clearNonce = none ∧ t.count 0x2B00 6 = (s.bump 0x2B00 6).count 0x2B00 6 ∧ t.mem = s.mem ∧ t.keep = s.keep ∧
      t.ash.foundFill = s.ash.foundFill) ∧
    (current → fits → ∃ t : State, exec (.ashClear ses slot proof) s = .next t ∧ (t.session ses).reply = ⟨0, []⟩ ∧
      t.ash.clearing = true ∧ t.ash.foundFill = 48 ∧ t.ash.rollHead = 0 ∧ t.ash.rollUsed = 0 ∧ t.ash.sort = [] ∧ t.ash.hold = [] ∧
      t.ash.lastClear = s.time.gtc ∧ t.keep.ash = [] ∧ t.count 0x2A00 7 = 1 ∧ t.count 0x2A00 8 = 0 ∧ t.count 0x2A00 9 = 0 ∧
      (s.memOk = true → ∀ x, foundBase + 48 ≤ x → x < rollBase + rollSize → Mem.read t.mem x = 0) ∧
      t.cores = s.cores ∧ t.engines = s.engines) ∧
    (s.ash.clearing = false → exec .ashClearComplete s = .next s) ∧
    (s.ash.clearing = true → s.ash.pfailWaits = false → exec .ashClearComplete s =
      .next { s with ash := { s.ash with clearing := false, pfailWaits := false } }) ∧
    (s.ash.clearing = true → s.ash.pfailWaits = true → s.ash.checkpoint = false → ∃ t : State, exec .ashClearComplete s = .next t ∧
      t.ash.clearing = false ∧ t.ash.pfailWaits = false ∧ t.ash.checkpoint = true ∧ t.ash.freeze = none ∧ t.cores = s.cores)

end
end

