-- ==== Sys2Proof/Laws/Memory.lean ====
section
/-! SUPPORT. Byte memory: its canonical form is kept by every operation on it, and what a read gives after a write. -/

namespace Sys2Proof.Machine

/-- Every address of the memory is at least `a`. -/
def Mem.above (a : Nat) (m : Mem) : Prop := ∀ c ∈ m, a ≤ c.1

/-- The canonical form, by induction. -/
theorem Mem.wf_cons (c : Host.Cell) (m : Mem) :
    Mem.wf (c :: m) = true ↔ c.2 ≠ 0 ∧ Mem.above (c.1 + 1) m ∧ Mem.wf m = true := by
  induction m generalizing c with
  | nil => simp [Mem.wf, Mem.sorted, Mem.above]
  | cons d t ih =>
    have h2 : Mem.wf (c :: d :: t) = true ↔ c.1 < d.1 ∧ c.2 ≠ 0 ∧ Mem.wf (d :: t) = true := by
      simp only [Mem.wf, Mem.sorted, List.all_cons, Bool.and_eq_true, decide_eq_true_eq, bne_iff_ne, ne_eq]
      tauto
    rw [h2, ih d]
    constructor
    · rintro ⟨h, hc, hd, ha, hw⟩
      refine ⟨hc, ?_, hd, ha, hw⟩
      intro e he
      rcases List.mem_cons.1 he with rfl | he
      · exact h
      · have := ha e he; omega
    · rintro ⟨hc, ha, hd, hb, hw⟩
      exact ⟨ha d (by simp), hc, hd, hb, hw⟩

theorem Mem.wf_nil : Mem.wf [] = true := rfl

theorem Mem.wf_tail {c : Host.Cell} {m : Mem} (h : Mem.wf (c :: m) = true) : Mem.wf m = true := ((Mem.wf_cons c m).1 h).2.2

theorem Mem.above_write {k a : Nat} {m : Mem} (b : Byte) (hm : Mem.above k m) (ha : k ≤ a) :
    Mem.above k (Mem.write m a b) := by
  induction m with
  | nil =>
    unfold Mem.write; split
    · simp [Mem.above]
    · simp [Mem.above, ha]
  | cons d t ih =>
    have ht : Mem.above k t := fun e he => hm e (List.mem_cons_of_mem _ he)
    have hd : k ≤ d.1 := hm d (by simp)
    unfold Mem.write
    repeat' split
    all_goals intro e he
    · exact hm e he
    all_goals try simp only [List.mem_cons] at he
    · rcases he with rfl | rfl | he
      · exact ha
      · exact hd
      · exact ht e he
    · exact ht e he
    · rcases he with rfl | he
      · exact ha
      · exact ht e he
    · rcases he with rfl | he
      · exact hd
      · exact ih ht e he

/-- A write keeps the canonical form. -/
theorem Mem.wf_write {m : Mem} (a : Nat) (b : Byte) (h : Mem.wf m = true) : Mem.wf (Mem.write m a b) = true := by
  induction m with
  | nil =>
    unfold Mem.write; split
    · exact h
    · next hb => exact (Mem.wf_cons _ _).2 ⟨hb, by simp [Mem.above], h⟩
  | cons d t ih =>
    obtain ⟨hd, hab, ht⟩ := (Mem.wf_cons d t).1 h
    unfold Mem.write
    repeat' split
    · exact h
    · next hlt hb =>
      refine (Mem.wf_cons _ _).2 ⟨hb, ?_, h⟩
      intro e he
      rcases List.mem_cons.1 he with rfl | he
      · exact hlt
      · have := hab e he; dsimp only at this ⊢; omega
    · exact ht
    · next hnl heq hb => subst heq; exact (Mem.wf_cons _ _).2 ⟨hb, hab, ht⟩
    · next hnl hne => exact (Mem.wf_cons _ _).2 ⟨hd, Mem.above_write b hab (by dsimp only; omega), ih ht⟩

theorem Mem.wf_writeBytes {m : Mem} (a : Nat) (bs : List Byte) (h : Mem.wf m = true) : Mem.wf (Mem.writeBytes m a bs) = true := by
  induction bs generalizing m a with
  | nil => exact h
  | cons b t ih => exact ih (a + 1) (Mem.wf_write a b h)

theorem Mem.wf_filter {m : Mem} (p : Host.Cell → Bool) (h : Mem.wf m = true) : Mem.wf (m.filter p) = true := by
  induction m with
  | nil => exact h
  | cons d t ih =>
    obtain ⟨hd, hab, ht⟩ := (Mem.wf_cons d t).1 h
    rw [List.filter_cons]
    split
    · exact (Mem.wf_cons _ _).2 ⟨hd, fun e he => hab e (List.mem_of_mem_filter he), ih ht⟩
    · exact ih ht

theorem Mem.wf_clear {m : Mem} (lo hi : Nat) (h : Mem.wf m = true) : Mem.wf (Mem.clear m lo hi) = true := Mem.wf_filter _ h

theorem Mem.wf_keepRange {m : Mem} (lo hi : Nat) (h : Mem.wf m = true) : Mem.wf (Mem.keepRange m lo hi) = true := Mem.wf_filter _ h

/-- Two canonical memories, the first all below the second, joined. -/
theorem Mem.wf_append {m n : Mem} (k : Nat) (hm : Mem.wf m = true) (hn : Mem.wf n = true) (hb : ∀ c ∈ m, c.1 < k)
    (ha : Mem.above k n) : Mem.wf (m ++ n) = true := by
  induction m with
  | nil => exact hn
  | cons d t ih =>
    obtain ⟨hd, hab, ht⟩ := (Mem.wf_cons d t).1 hm
    refine (Mem.wf_cons _ _).2 ⟨hd, ?_, ih ht (fun c hc => hb c (List.mem_cons_of_mem _ hc))⟩
    intro e he
    rcases List.mem_append.1 he with he | he
    · exact hab e he
    · have h1 := hb d (by simp); have h2 := ha e he; omega

theorem Mem.read_above {k : Nat} {m : Mem} (h : Mem.above (k + 1) m) : Mem.read m k = 0 := by
  induction m with
  | nil => rfl
  | cons d t ih =>
    have h1 := h d (by simp)
    unfold Mem.read
    rw [if_neg (by omega)]
    exact ih (fun e he => h e (List.mem_cons_of_mem _ he))

/-- A read after a write: the byte written at its address, and every other byte as before. -/
theorem Mem.read_write {m : Mem} (a x : Nat) (b : Byte) (h : Mem.wf m = true) :
    Mem.read (Mem.write m a b) x = if x = a then b else Mem.read m x := by
  induction m with
  | nil =>
    unfold Mem.write; split
    · next hb => subst hb; simp [Mem.read]
    · simp only [Mem.read]; split <;> split <;> first | rfl | omega
  | cons d t ih =>
    obtain ⟨hd, hab, ht⟩ := (Mem.wf_cons d t).1 h
    unfold Mem.write
    split
    · next hlt =>
      have h0 : Mem.read (d :: t) a = 0 :=
        Mem.read_above (fun e he => by
          rcases List.mem_cons.1 he with rfl | he
          · exact hlt
          · have := hab e he; omega)
      split
      · next hb => subst hb; split
                   · next hx => subst hx; exact h0
                   · rfl
      · rw [Mem.read]; split <;> split <;> first | rfl | (subst_vars; first | rfl | contradiction)
    · split
      · next heq =>
        subst heq
        split
        · next hb =>
          subst hb
          split
          · next hx => subst hx; exact Mem.read_above hab
          · next hx => rw [Mem.read, if_neg (fun e => hx e.symm)]
        · rw [Mem.read, Mem.read]; split <;> split <;> first | rfl | (subst_vars; contradiction)
      · next hne =>
        rw [Mem.read, Mem.read, ih ht]
        split <;> split <;> first | rfl | (subst_vars; omega)

/-- A memory with a range taken from another one. -/
theorem Mem.wf_take {m src : Mem} {lo hi : Nat} (hl : lo ≤ hi) (h : Mem.wf m = true) (hs : Mem.wf src = true) :
    Mem.wf (Mem.take m src lo hi) = true := by
  unfold Mem.take
  have mem_range : ∀ {x : Mem} {a b : Nat} {c : Host.Cell}, c ∈ Mem.keepRange x a b → a ≤ c.1 ∧ c.1 < b := by
    intro x a b c hc
    have := (List.mem_filter.1 hc).2
    simp only [Bool.and_eq_true, decide_eq_true_eq] at this
    exact this
  refine Mem.wf_append hi (Mem.wf_append lo (Mem.wf_keepRange _ _ h) (Mem.wf_keepRange _ _ hs) ?_ ?_) (Mem.wf_filter _ h) ?_ ?_
  · intro c hc; exact (mem_range hc).2
  · intro c hc; exact (mem_range hc).1
  · intro c hc
    rcases List.mem_append.1 hc with hc | hc
    · exact lt_of_lt_of_le (mem_range hc).2 hl
    · exact (mem_range hc).2
  · intro c hc
    have := (List.mem_filter.1 hc).2
    simpa using this

end Sys2Proof.Machine
end

