-- ==== Sys2Proof/Laws/Tables.lean ====
section
/-! SUPPORT. Tables by number: what a table gives after an entry is set. -/

namespace Sys2Proof.Machine

/-- An entry that was set reads as it was set. -/
@[simp] theorem Tab.get_set_same {α : Type} (d : α) (t : Tab α) (k : Nat) (v : α) : Tab.get d (Tab.set t k v) k = v := by
  induction t with
  | nil => simp [Tab.set, Tab.get]
  | cons e t ih =>
    obtain ⟨a, b⟩ := e
    unfold Tab.set
    split
    · simp [Tab.get]
    · split
      · simp [Tab.get]
      · next h => simp [Tab.get, h, ih]

/-- Every other entry reads as before. -/
theorem Tab.get_set_ne {α : Type} (d : α) (t : Tab α) {k j : Nat} (v : α) (h : j ≠ k) :
    Tab.get d (Tab.set t k v) j = Tab.get d t j := by
  induction t with
  | nil => simp [Tab.set, Tab.get, h.symm]
  | cons e t ih =>
    obtain ⟨a, b⟩ := e
    unfold Tab.set
    split
    · simp [Tab.get, h.symm]
    · split
      · next ha => subst ha; simp [Tab.get, h.symm]
      · simp [Tab.get, ih]

/-- Setting an entry twice leaves the second value. -/
@[simp] theorem Tab.set_set {α : Type} (t : Tab α) (k : Nat) (v w : α) : Tab.set (Tab.set t k v) k w = Tab.set t k w := by
  induction t with
  | nil => simp [Tab.set]
  | cons e t ih =>
    obtain ⟨a, b⟩ := e
    by_cases h1 : k < a
    · simp [Tab.set, h1]
    · by_cases h2 : a = k
      · subst h2; simp [Tab.set]
      · simp [Tab.set, h1, h2, ih]

/-- What a table holds at a key that was set. -/
@[simp] theorem Tab.find_set_same {α : Type} (t : Tab α) (k : Nat) (v : α) : Tab.find (Tab.set t k v) k = some v := by
  induction t with
  | nil => simp [Tab.set, Tab.find]
  | cons e t ih =>
    obtain ⟨a, b⟩ := e
    unfold Tab.set
    split
    · simp [Tab.find]
    · split
      · simp [Tab.find]
      · next h => simp [Tab.find, h, ih]

@[simp] theorem Tab.get_erase_same {α : Type} (d : α) (t : Tab α) (k : Nat) : Tab.get d (Tab.erase t k) k = d := by
  induction t with
  | nil => rfl
  | cons e t ih =>
    by_cases h : e.1 = k
    · simpa [Tab.erase, h] using ih
    · simpa [Tab.erase, Tab.get, h] using ih

theorem Tab.get_erase_ne {α : Type} (d : α) (t : Tab α) {k j : Nat} (h : j ≠ k) : Tab.get d (Tab.erase t k) j = Tab.get d t j := by
  induction t with
  | nil => rfl
  | cons e t ih =>
    by_cases hk : e.1 = k
    · subst hk
      simpa [Tab.erase, Tab.get, Ne.symm h] using ih
    · by_cases hj : e.1 = j
      · simp [Tab.erase, Tab.get, hj, h]
      · simpa [Tab.erase, Tab.get, hk, hj] using ih

end Sys2Proof.Machine
end

