-- ==== Sys2Proof/Laws/Keeps.lean ====
section
/-! SUPPORT. What every operation keeps: the queue of waiting commands, the part, the Vendor key, the canonical form of memory and
legal modes. -/

namespace Sys2Proof.Machine

/-- What every operation of the machine keeps: the waiting commands, the part, the Vendor key, the canonical form of
memory and legal modes. -/
structure Keeps (s t : State) : Prop where
  pending : t.pending = s.pending
  part : t.part = s.part
  vendor : Tab.get KeySlot.reset t.keys 0 = Tab.get KeySlot.reset s.keys 0
  mem : s.memOk = true → t.memOk = true
  modes : s.modesOk = true → t.modesOk = true

/-- A command's outcome: any next state has kept it all. -/
def OutKeeps (s : State) (o : Out) : Prop := ∀ t, o = .next t → Keeps s t

theorem Keeps.refl (s : State) : Keeps s s := ⟨rfl, rfl, rfl, id, id⟩

theorem OutKeeps.next {s t : State} (h : Keeps s t) : OutKeeps s (.next t) := by
  intro u hu; cases hu; exact h

/-- A state built from another that has kept it all, with none of these fields changed. -/
theorem Keeps.lit {z s : State} {pending : List Instr} {part : Part} {mem : Mem} {cores : Tab Core} {engines : Tab Engine} {net : Net} {ctxs : Tab Ctx} {cmdStatus : Nat} {ecloseTime : Nat} {ecloseMark : Nat} {fetch : Fetch} {stage : Stage} {damper : Damper} {time : TimeBase} {trackers : Tab Tracker} {meas : Meas} {outs : Outputs} {sets : Sets} {sessions : Tab Session} {masters : Tab Master} {keys : Tab KeySlot} {pcie : Pcie} {ecat : Ecat} {links : Tab Bool} {telem : Telem} {fw : Firmware} {clk : Clocks} {pwr : Power} {svc : Service} {defects : List Defect} {ports : Tab Port} {mirror : Mirror} {ash : Ashpit} {keep : HubKeep} {trims : Tab Nat} {counters : Tab Nat} {draws : Nat} (h : Keeps z s) (h1 : pending = s.pending) (h2 : part = s.part) (h3 : mem = s.mem) (h4 : keys = s.keys)
    (h5 : ecat.al = s.ecat.al) (h6 : mirror.state = s.mirror.state) (h7 : pwr.state = s.pwr.state) (h8 : sets.state = s.sets.state) (h9 : keep.ash = s.keep.ash) :
    Keeps z (State.mk pending part mem cores engines net ctxs cmdStatus ecloseTime ecloseMark fetch stage damper time trackers meas outs sets sessions masters keys pcie ecat links telem fw clk pwr svc defects ports mirror ash keep trims counters draws) := by
  obtain ⟨a, b, c, d, e⟩ := h
  subst h1 h2 h3 h4
  refine ⟨a, b, c, fun w => ?_, ?_⟩
  · have := d w
    unfold State.memOk at this ⊢
    dsimp only
    rw [h9]
    exact this
  intro hz
  have := e hz
  unfold State.modesOk at this ⊢
  dsimp only
  rw [h5, h6, h7, h8]
  exact this

/-- What a state's fields must show for a state built with them to have kept it all. -/
def KeepsLit (z : State) (pending : List Instr) (part : Part) (mem : Mem) (keys : Tab KeySlot) (al mirror pwr sets : Nat) (ash : Mem) : Prop :=
  ∃ s, Keeps z s ∧ pending = s.pending ∧ part = s.part ∧ mem = s.mem ∧ keys = s.keys ∧ al = s.ecat.al ∧ mirror = s.mirror.state ∧
    pwr = s.pwr.state ∧ sets = s.sets.state ∧ ash = s.keep.ash

theorem Keeps.lit_iff {z : State} {pending : List Instr} {part : Part} {mem : Mem} {cores : Tab Core} {engines : Tab Engine} {net : Net} {ctxs : Tab Ctx} {cmdStatus : Nat} {ecloseTime : Nat} {ecloseMark : Nat} {fetch : Fetch} {stage : Stage} {damper : Damper} {time : TimeBase} {trackers : Tab Tracker} {meas : Meas} {outs : Outputs} {sets : Sets} {sessions : Tab Session} {masters : Tab Master} {keys : Tab KeySlot} {pcie : Pcie} {ecat : Ecat} {links : Tab Bool} {telem : Telem} {fw : Firmware} {clk : Clocks} {pwr : Power} {svc : Service} {defects : List Defect} {ports : Tab Port} {mirror : Mirror} {ash : Ashpit} {keep : HubKeep} {trims : Tab Nat} {counters : Tab Nat} {draws : Nat} :
    Keeps z (State.mk pending part mem cores engines net ctxs cmdStatus ecloseTime ecloseMark fetch stage damper time trackers meas outs sets sessions masters keys pcie ecat links telem fw clk pwr svc defects ports mirror ash keep trims counters draws) ↔ KeepsLit z pending part mem keys ecat.al mirror.state pwr.state sets.state keep.ash :=
  ⟨fun h => ⟨_, h, rfl, rfl, rfl, rfl, rfl, rfl, rfl, rfl, rfl⟩,
    fun ⟨_, h, h1, h2, h3, h4, h5, h6, h7, h8, h9⟩ => Keeps.lit h h1 h2 h3 h4 h5 h6 h7 h8 h9⟩

theorem KeepsLit.of {z s : State} {pending part mem keys al mirror pwr sets ash} (h : Keeps z s) (h1 : pending = s.pending) (h2 : part = s.part)
    (h3 : mem = s.mem) (h4 : keys = s.keys) (h5 : al = s.ecat.al) (h6 : mirror = s.mirror.state) (h7 : pwr = s.pwr.state)
    (h8 : sets = s.sets.state) (h9 : ash = s.keep.ash) : KeepsLit z pending part mem keys al mirror pwr sets ash :=
  ⟨s, h, h1, h2, h3, h4, h5, h6, h7, h8, h9⟩

/-- A state built with another memory, canonical where the old one was. -/
theorem Keeps.litMem {z s : State} {pending : List Instr} {part : Part} {mem : Mem} {cores : Tab Core} {engines : Tab Engine} {net : Net} {ctxs : Tab Ctx} {cmdStatus : Nat} {ecloseTime : Nat} {ecloseMark : Nat} {fetch : Fetch} {stage : Stage} {damper : Damper} {time : TimeBase} {trackers : Tab Tracker} {meas : Meas} {outs : Outputs} {sets : Sets} {sessions : Tab Session} {masters : Tab Master} {keys : Tab KeySlot} {pcie : Pcie} {ecat : Ecat} {links : Tab Bool} {telem : Telem} {fw : Firmware} {clk : Clocks} {pwr : Power} {svc : Service} {defects : List Defect} {ports : Tab Port} {mirror : Mirror} {ash : Ashpit} {keep : HubKeep} {trims : Tab Nat} {counters : Tab Nat} {draws : Nat} (h : Keeps z s) (h1 : pending = s.pending) (h2 : part = s.part) (h3 : s.memOk = true → (Mem.wf mem && Mem.wf keep.ash) = true) (h4 : keys = s.keys)
    (h5 : ecat.al = s.ecat.al) (h6 : mirror.state = s.mirror.state) (h7 : pwr.state = s.pwr.state) (h8 : sets.state = s.sets.state) :
    Keeps z (State.mk pending part mem cores engines net ctxs cmdStatus ecloseTime ecloseMark fetch stage damper time trackers meas outs sets sessions masters keys pcie ecat links telem fw clk pwr svc defects ports mirror ash keep trims counters draws) := by
  obtain ⟨a, b, c, d, e⟩ := h
  subst h1 h2 h4
  refine ⟨a, b, c, fun w => h3 (d w), ?_⟩
  intro hz
  have := e hz
  unfold State.modesOk at this ⊢
  dsimp only
  rw [h5, h6, h7, h8]
  exact this

/-- A state built from another that has kept it all, its modes legal where the old ones were. -/
theorem Keeps.litModes {z s : State} {pending : List Instr} {part : Part} {mem : Mem} {cores : Tab Core} {engines : Tab Engine} {net : Net} {ctxs : Tab Ctx} {cmdStatus : Nat} {ecloseTime : Nat} {ecloseMark : Nat} {fetch : Fetch} {stage : Stage} {damper : Damper} {time : TimeBase} {trackers : Tab Tracker} {meas : Meas} {outs : Outputs} {sets : Sets} {sessions : Tab Session} {masters : Tab Master} {keys : Tab KeySlot} {pcie : Pcie} {ecat : Ecat} {links : Tab Bool} {telem : Telem} {fw : Firmware} {clk : Clocks} {pwr : Power} {svc : Service} {defects : List Defect} {ports : Tab Port} {mirror : Mirror} {ash : Ashpit} {keep : HubKeep} {trims : Tab Nat} {counters : Tab Nat} {draws : Nat} (h : Keeps z s) (h1 : pending = s.pending) (h2 : part = s.part) (h3 : mem = s.mem) (h4 : keys = s.keys)
    (hm : s.modesOk = true → (State.mk pending part mem cores engines net ctxs cmdStatus ecloseTime ecloseMark fetch stage damper time trackers meas outs sets sessions masters keys pcie ecat links telem fw clk pwr svc defects ports mirror ash keep trims counters draws).modesOk = true) (h9 : keep.ash = s.keep.ash) :
    Keeps z (State.mk pending part mem cores engines net ctxs cmdStatus ecloseTime ecloseMark fetch stage damper time trackers meas outs sets sessions masters keys pcie ecat links telem fw clk pwr svc defects ports mirror ash keep trims counters draws) := by
  obtain ⟨a, b, c, d, e⟩ := h
  subst h1 h2 h3 h4
  refine ⟨a, b, c, fun w => ?_, ?_⟩
  · have := d w
    unfold State.memOk at this ⊢
    dsimp only
    rw [h9]
    exact this
  exact fun hz => hm (e hz)

theorem Keeps.ite {c : Prop} {_ : Decidable c} {z a b : State} (ha : c → Keeps z a) (hb : ¬c → Keeps z b) : Keeps z (if c then a else b) := by
  split
  · exact ha ‹_›
  · exact hb ‹_›

theorem Keeps.foldl {α : Type} {z s : State} {f : State → α → State} {l : List α} (h : Keeps z s)
    (hf : ∀ s x, Keeps z s → Keeps z (f s x)) : Keeps z (l.foldl f s) := by
  induction l generalizing s with
  | nil => exact h
  | cons x t ih => exact ih (hf s x h)

theorem Keeps.foldl_fst {α β : Type} {z : State} {f : State × β → α → State × β} {l : List α} {p : State × β} (h : Keeps z p.1)
    (hf : ∀ p x, Keeps z p.1 → Keeps z (f p x).1) : Keeps z (l.foldl f p).1 := by
  induction l generalizing p with
  | nil => exact h
  | cons x t ih => exact ih (hf p x h)

theorem Keeps.foldl_snd {α β : Type} {z : State} {f : β × State → α → β × State} {l : List α} {p : β × State} (h : Keeps z p.2)
    (hf : ∀ p x, Keeps z p.2 → Keeps z (f p x).2) : Keeps z (l.foldl f p).2 := by
  induction l generalizing p with
  | nil => exact h
  | cons x t ih => exact ih (hf p x h)

end Sys2Proof.Machine
end

