-- ==== Sys2Proof/Laws/Ops.lean ====
section
/-! SUPPORT. What the operations of Machine/Ops.lean keep (Laws/Keeps.lean), one lemma for each. -/

set_option linter.unusedTactic false
set_option linter.unreachableTactic false
set_option linter.unusedSimpArgs false

namespace Sys2Proof.Machine

theorem keeps_setCore {z s : State} (h : Keeps z s) (x0 : Nat) (x1 : Core) : Keeps z (State.setCore s x0 x1) := by
  unfold State.setCore
  try dsimp only
  with_reducible repeat' first | assumption | apply Keeps.foldl | apply Keeps.ite | (simp only [Keeps.lit_iff]; apply KeepsLit.of <;> first | rfl | skip) | split | omega | dsimp only [id] | (intro)

theorem keeps_modCore {z s : State} (h : Keeps z s) (x0 : Nat) (x1 : Core → Core) : Keeps z (State.modCore s x0 x1) := by
  unfold State.modCore
  try dsimp only
  with_reducible repeat' first | assumption | apply keeps_setCore | apply Keeps.foldl | apply Keeps.ite | (simp only [Keeps.lit_iff]; apply KeepsLit.of <;> first | rfl | skip) | split | omega | dsimp only [id] | (intro)

theorem keeps_modSeq {z s : State} (h : Keeps z s) (x0 : Nat) (x1 : Seq → Seq) : Keeps z (State.modSeq s x0 x1) := by
  unfold State.modSeq
  try dsimp only
  with_reducible repeat' first | assumption | apply keeps_modCore | apply Keeps.foldl | apply Keeps.ite | (simp only [Keeps.lit_iff]; apply KeepsLit.of <;> first | rfl | skip) | split | omega | dsimp only [id] | (intro)

theorem keeps_modComm {z s : State} (h : Keeps z s) (x0 : Nat) (x1 : Comm → Comm) : Keeps z (State.modComm s x0 x1) := by
  unfold State.modComm
  try dsimp only
  with_reducible repeat' first | assumption | apply keeps_modCore | apply Keeps.foldl | apply Keeps.ite | (simp only [Keeps.lit_iff]; apply KeepsLit.of <;> first | rfl | skip) | split | omega | dsimp only [id] | (intro)

theorem keeps_setEng {z s : State} (h : Keeps z s) (x0 : Nat) (x1 : Nat) (x2 : Engine) : Keeps z (State.setEng s x0 x1 x2) := by
  unfold State.setEng
  try dsimp only
  with_reducible repeat' first | assumption | apply Keeps.foldl | apply Keeps.ite | (simp only [Keeps.lit_iff]; apply KeepsLit.of <;> first | rfl | skip) | split | omega | dsimp only [id] | (intro)

theorem keeps_modEng {z s : State} (h : Keeps z s) (x0 : Nat) (x1 : Nat) (x2 : Engine → Engine) : Keeps z (State.modEng s x0 x1 x2) := by
  unfold State.modEng
  try dsimp only
  with_reducible repeat' first | assumption | apply keeps_setEng | apply Keeps.foldl | apply Keeps.ite | (simp only [Keeps.lit_iff]; apply KeepsLit.of <;> first | rfl | skip) | split | omega | dsimp only [id] | (intro)

theorem keeps_setCtx {z s : State} (h : Keeps z s) (x0 : Nat) (x1 : Ctx) : Keeps z (State.setCtx s x0 x1) := by
  unfold State.setCtx
  try dsimp only
  with_reducible repeat' first | assumption | apply Keeps.foldl | apply Keeps.ite | (simp only [Keeps.lit_iff]; apply KeepsLit.of <;> first | rfl | skip) | split | omega | dsimp only [id] | (intro)

theorem keeps_modCtx {z s : State} (h : Keeps z s) (x0 : Nat) (x1 : Ctx → Ctx) : Keeps z (State.modCtx s x0 x1) := by
  unfold State.modCtx
  try dsimp only
  with_reducible repeat' first | assumption | apply keeps_setCtx | apply Keeps.foldl | apply Keeps.ite | (simp only [Keeps.lit_iff]; apply KeepsLit.of <;> first | rfl | skip) | split | omega | dsimp only [id] | (intro)

theorem keeps_keepLast {z s : State} (h : Keeps z s) (x0 : Nat) (x1 : Nat) : Keeps z (State.keepLast s x0 x1) := by
  unfold State.keepLast
  try dsimp only
  with_reducible repeat' first | assumption | apply Keeps.foldl | apply Keeps.ite | (simp only [Keeps.lit_iff]; apply KeepsLit.of <;> first | rfl | skip) | split | omega | dsimp only [id] | (intro)

theorem keeps_modChan {z s : State} (h : Keeps z s) (x0 : Nat) (x1 : Channel → Channel) : Keeps z (State.modChan s x0 x1) := by
  unfold State.modChan
  try dsimp only
  with_reducible repeat' first | assumption | apply Keeps.foldl | apply Keeps.ite | (simp only [Keeps.lit_iff]; apply KeepsLit.of <;> first | rfl | skip) | split | omega | dsimp only [id] | (intro)

theorem keeps_modDac {z s : State} (h : Keeps z s) (x0 : Nat) (x1 : Dac → Dac) : Keeps z (State.modDac s x0 x1) := by
  unfold State.modDac
  try dsimp only
  with_reducible repeat' first | assumption | apply Keeps.foldl | apply Keeps.ite | (simp only [Keeps.lit_iff]; apply KeepsLit.of <;> first | rfl | skip) | split | omega | dsimp only [id] | (intro)

theorem keeps_modTrip {z s : State} (h : Keeps z s) (x0 : Nat) (x1 : Trip → Trip) : Keeps z (State.modTrip s x0 x1) := by
  unfold State.modTrip
  try dsimp only
  with_reducible repeat' first | assumption | apply Keeps.foldl | apply Keeps.ite | (simp only [Keeps.lit_iff]; apply KeepsLit.of <;> first | rfl | skip) | split | omega | dsimp only [id] | (intro)

theorem keeps_modTrk {z s : State} (h : Keeps z s) (x0 : Nat) (x1 : Tracker → Tracker) : Keeps z (State.modTrk s x0 x1) := by
  unfold State.modTrk
  try dsimp only
  with_reducible repeat' first | assumption | apply Keeps.foldl | apply Keeps.ite | (simp only [Keeps.lit_iff]; apply KeepsLit.of <;> first | rfl | skip) | split | omega | dsimp only [id] | (intro)

theorem keeps_modSession {z s : State} (h : Keeps z s) (x0 : Nat) (x1 : Session → Session) : Keeps z (State.modSession s x0 x1) := by
  unfold State.modSession
  try dsimp only
  with_reducible repeat' first | assumption | apply Keeps.foldl | apply Keeps.ite | (simp only [Keeps.lit_iff]; apply KeepsLit.of <;> first | rfl | skip) | split | omega | dsimp only [id] | (intro)

theorem keeps_modMaster {z s : State} (h : Keeps z s) (x0 : Nat) (x1 : Master → Master) : Keeps z (State.modMaster s x0 x1) := by
  unfold State.modMaster
  try dsimp only
  with_reducible repeat' first | assumption | apply Keeps.foldl | apply Keeps.ite | (simp only [Keeps.lit_iff]; apply KeepsLit.of <;> first | rfl | skip) | split | omega | dsimp only [id] | (intro)

theorem keeps_modPort {z s : State} (h : Keeps z s) (x0 : Nat) (x1 : Port → Port) : Keeps z (State.modPort s x0 x1) := by
  unfold State.modPort
  try dsimp only
  with_reducible repeat' first | assumption | apply Keeps.foldl | apply Keeps.ite | (simp only [Keeps.lit_iff]; apply KeepsLit.of <;> first | rfl | skip) | split | omega | dsimp only [id] | (intro)

theorem keeps_setGen {z s : State} (h : Keeps z s) (x0 : Nat) (x1 : Gen) : Keeps z (State.setGen s x0 x1) := by
  unfold State.setGen
  try dsimp only
  with_reducible repeat' first | assumption | apply Keeps.foldl | apply Keeps.ite | (simp only [Keeps.lit_iff]; apply KeepsLit.of <;> first | rfl | skip) | split | omega | dsimp only [id] | (intro)

theorem keeps_modReplace {z s : State} (h : Keeps z s) (x0 : Nat) (x1 : Replace → Replace) : Keeps z (State.modReplace s x0 x1) := by
  unfold State.modReplace
  try dsimp only
  with_reducible repeat' first | assumption | apply Keeps.foldl | apply Keeps.ite | (simp only [Keeps.lit_iff]; apply KeepsLit.of <;> first | rfl | skip) | split | omega | dsimp only [id] | (intro)

theorem keeps_draw {z s : State} (h : Keeps z s) : Keeps z (State.draw s) := by
  unfold State.draw
  try dsimp only
  with_reducible repeat' first | assumption | apply Keeps.foldl | apply Keeps.ite | (simp only [Keeps.lit_iff]; apply KeepsLit.of <;> first | rfl | skip) | split | omega | dsimp only [id] | (intro)

theorem keeps_drawN {z s : State} (h : Keeps z s) (x0 : Nat) : Keeps z (State.drawN s x0) := by
  unfold State.drawN
  try dsimp only
  with_reducible repeat' first | assumption | apply Keeps.foldl | apply Keeps.ite | (simp only [Keeps.lit_iff]; apply KeepsLit.of <;> first | rfl | skip) | split | omega | dsimp only [id] | (intro)

theorem keeps_setCount {z s : State} (h : Keeps z s) (x0 : Nat) (x1 : Nat) (x2 : Nat) : Keeps z (State.setCount s x0 x1 x2) := by
  unfold State.setCount
  try dsimp only
  with_reducible repeat' first | assumption | apply Keeps.foldl | apply Keeps.ite | (simp only [Keeps.lit_iff]; apply KeepsLit.of <;> first | rfl | skip) | split | omega | dsimp only [id] | (intro)

theorem keeps_bumpBy {z s : State} (h : Keeps z s) (x0 : Nat) (x1 : Nat) (x2 : Nat) : Keeps z (State.bumpBy s x0 x1 x2) := by
  unfold State.bumpBy
  try dsimp only
  with_reducible repeat' first | assumption | apply keeps_setCount | apply Keeps.foldl | apply Keeps.ite | (simp only [Keeps.lit_iff]; apply KeepsLit.of <;> first | rfl | skip) | split | omega | dsimp only [id] | (intro)

theorem keeps_bump {z s : State} (h : Keeps z s) (x0 : Nat) (x1 : Nat) : Keeps z (State.bump s x0 x1) := by
  unfold State.bump
  try dsimp only
  with_reducible repeat' first | assumption | apply keeps_bumpBy | apply Keeps.foldl | apply Keeps.ite | (simp only [Keeps.lit_iff]; apply KeepsLit.of <;> first | rfl | skip) | split | omega | dsimp only [id] | (intro)

theorem keeps_recordAt {z s : State} (h : Keeps z s) (x0 : Nat) (x1 : Nat) (x2 : Nat) (x3 : List Nat) : Keeps z (State.recordAt s x0 x1 x2 x3) := by
  unfold State.recordAt
  try dsimp only
  with_reducible repeat' first | assumption | apply Keeps.foldl | apply Keeps.ite | (simp only [Keeps.lit_iff]; apply KeepsLit.of <;> first | rfl | skip) | split | omega | dsimp only [id] | (intro)

theorem keeps_record {z s : State} (h : Keeps z s) (x0 : Nat) (x1 : Nat) (x2 : List Nat) : Keeps z (State.record s x0 x1 x2) := by
  unfold State.record
  try dsimp only
  with_reducible repeat' first | assumption | apply keeps_recordAt | apply Keeps.foldl | apply Keeps.ite | (simp only [Keeps.lit_iff]; apply KeepsLit.of <;> first | rfl | skip) | split | omega | dsimp only [id] | (intro)

theorem keeps_msix {z s : State} (h : Keeps z s) (x0 : Nat) : Keeps z (State.msix s x0) := by
  unfold State.msix
  try dsimp only
  with_reducible repeat' first | assumption | apply Keeps.foldl | apply Keeps.ite | (simp only [Keeps.lit_iff]; apply KeepsLit.of <;> first | rfl | skip) | split | omega | dsimp only [id] | (intro)

theorem keeps_poisonWord {z s : State} (h : Keeps z s) (x0 : Nat) : Keeps z (State.poisonWord s x0) := by
  unfold State.poisonWord
  try dsimp only
  with_reducible repeat' first | assumption | apply Keeps.foldl | apply Keeps.ite | (simp only [Keeps.lit_iff]; apply KeepsLit.of <;> first | rfl | skip) | split | omega | dsimp only [id] | (intro)

theorem keeps_poisonAt {z s : State} (h : Keeps z s) (x0 : Nat) : Keeps z (State.poisonAt s x0) := by
  unfold State.poisonAt
  try dsimp only
  with_reducible repeat' first | assumption | apply keeps_poisonWord | apply Keeps.foldl | apply Keeps.ite | (simp only [Keeps.lit_iff]; apply KeepsLit.of <;> first | rfl | skip) | split | omega | dsimp only [id] | (intro)

theorem keeps_poisonLine {z s : State} (h : Keeps z s) (x0 : Nat) (x1 : Nat) : Keeps z (State.poisonLine s x0 x1) := by
  unfold State.poisonLine
  try dsimp only
  with_reducible repeat' first | assumption | apply keeps_poisonAt | apply Keeps.foldl | apply Keeps.ite | (simp only [Keeps.lit_iff]; apply KeepsLit.of <;> first | rfl | skip) | split | omega | dsimp only [id] | (intro)

theorem keeps_poke {z s : State} (h : Keeps z s) (x0 : Nat) (x1 : List Sys2Proof.Byte) : Keeps z (State.poke s x0 x1) :=
  Keeps.litMem h rfl rfl (fun w => by
    simp only [State.memOk, Bool.and_eq_true] at w ⊢
    exact ⟨Mem.wf_writeBytes x0 x1 w.1, w.2⟩) rfl rfl rfl rfl rfl

theorem keeps_wipe {z s : State} (h : Keeps z s) (x0 x1 : Nat) : Keeps z (State.wipe s x0 x1) :=
  Keeps.litMem h rfl rfl (fun w => by
    simp only [State.memOk, Bool.and_eq_true] at w ⊢
    exact ⟨Mem.wf_clear x0 x1 w.1, w.2⟩) rfl rfl rfl rfl rfl

theorem keeps_setSync {z s : State} (h : Keeps z s) (x0 : Nat) (x1 : Nat) : Keeps z (State.setSync s x0 x1) := by
  unfold State.setSync
  try dsimp only
  with_reducible repeat' first | assumption | apply keeps_poke | apply Keeps.foldl | apply Keeps.ite | (simp only [Keeps.lit_iff]; apply KeepsLit.of <;> first | rfl | skip) | split | omega | dsimp only [id] | (intro)

theorem keeps_sendSync {z s : State} (h : Keeps z s) (x0 : SyncUpd) : Keeps z (State.sendSync s x0) := by
  unfold State.sendSync
  try dsimp only
  with_reducible repeat' first | assumption | apply Keeps.foldl | apply Keeps.ite | (simp only [Keeps.lit_iff]; apply KeepsLit.of <;> first | rfl | skip) | split | omega | dsimp only [id] | (intro)

theorem keeps_setLanes {z s : State} (h : Keeps z s) (x0 : Nat) (x1 : Nat) (x2 : Nat) (x3 : List W32) : Keeps z (State.setLanes s x0 x1 x2 x3) := by
  unfold State.setLanes
  try dsimp only
  with_reducible repeat' first | assumption | apply keeps_poke | apply Keeps.foldl | apply Keeps.ite | (simp only [Keeps.lit_iff]; apply KeepsLit.of <;> first | rfl | skip) | split | omega | dsimp only [id] | (intro)

theorem keeps_setTag {z s : State} (h : Keeps z s) (x0 : Nat) (x1 : Nat) (x2 : Nat) (x3 : RowTag) : Keeps z (State.setTag s x0 x1 x2 x3) := by
  unfold State.setTag
  try dsimp only
  with_reducible repeat' first | assumption | apply keeps_modCore | apply Keeps.foldl | apply Keeps.ite | (simp only [Keeps.lit_iff]; apply KeepsLit.of <;> first | rfl | skip) | split | omega | dsimp only [id] | (intro)

theorem keeps_abWrite {z s : State} (h : Keeps z s) (x0 : Nat) (x1 : Nat) (x2 : List Byte) : Keeps z (State.abWrite s x0 x1 x2) := by
  unfold State.abWrite
  try dsimp only
  with_reducible repeat' first | assumption | apply keeps_poke | apply Keeps.foldl | apply Keeps.ite | (simp only [Keeps.lit_iff]; apply KeepsLit.of <;> first | rfl | skip) | split | omega | dsimp only [id] | (intro)

theorem keeps_refillPeers {z s : State} (h : Keeps z s) (x0 : Nat) : Keeps z (State.refillPeers s x0) := by
  unfold State.refillPeers
  try dsimp only
  with_reducible repeat' first | assumption | apply keeps_refill | apply Keeps.foldl | apply Keeps.ite | (simp only [Keeps.lit_iff]; apply KeepsLit.of <;> first | rfl | skip) | split | omega | dsimp only [id] | (intro)

theorem keeps_raiseEpoch {z s : State} (h : Keeps z s) (x0 : Nat) : Keeps z (State.raiseEpoch s x0) := by
  unfold State.raiseEpoch
  try dsimp only
  with_reducible repeat' first | assumption | apply keeps_modComm | apply keeps_refillPeers | apply Keeps.foldl | apply Keeps.ite | (simp only [Keeps.lit_iff]; apply KeepsLit.of <;> first | rfl | skip) | split | omega | dsimp only [id] | (intro)

theorem keeps_fate {z s : State} (h : Keeps z s) (x0 : Bool) : Keeps z (State.fate s x0).2 := by
  unfold State.fate
  try dsimp only
  with_reducible repeat' first | assumption | apply keeps_draw | apply Keeps.foldl | apply Keeps.ite | (simp only [Keeps.lit_iff]; apply KeepsLit.of <;> first | rfl | skip) | split | omega | dsimp only [id] | (intro)

theorem keeps_fate_of {z s t : State} {x0 : Bool} {v} (e : State.fate s x0 = (v, t)) (h : Keeps z s) : Keeps z t := by
  have k := keeps_fate h x0
  rw [e] at k
  exact k

theorem keeps_dieDrop {z s : State} (h : Keeps z s) (x0 : Nat) : Keeps z (State.dieDrop s x0) := by
  unfold State.dieDrop
  try dsimp only
  with_reducible repeat' first | assumption | apply keeps_bump | apply Keeps.foldl | apply Keeps.ite | (simp only [Keeps.lit_iff]; apply KeepsLit.of <;> first | rfl | skip) | split | omega | dsimp only [id] | (intro)

theorem keeps_crossed {z s : State} (h : Keeps z s) (x0 : Nat) (x1 : Nat) (x2 : Nat) : Keeps z (State.crossed s x0 x1 x2) := by
  unfold State.crossed
  try dsimp only
  with_reducible repeat' first | assumption | apply Keeps.foldl | apply Keeps.ite | (simp only [Keeps.lit_iff]; apply KeepsLit.of <;> first | rfl | skip) | split | omega | dsimp only [id] | (intro)

theorem keeps_way {z s : State} (h : Keeps z s) (x0 : Nat) (x1 : Nat) (x2 : Nat) (x3 : Bool) : Keeps z (State.way s x0 x1 x2 x3).2 := by
  unfold State.way
  try dsimp only
  with_reducible repeat' first | assumption | apply keeps_fate | apply keeps_crossed | apply Keeps.foldl | apply Keeps.ite | (simp only [Keeps.lit_iff]; apply KeepsLit.of <;> first | rfl | skip) | refine keeps_fate_of (by assumption) ?_ | split | omega | dsimp only [id] | (intro)

theorem keeps_way_of {z s t : State} {x0 : Nat} {x1 : Nat} {x2 : Nat} {x3 : Bool} {v} (e : State.way s x0 x1 x2 x3 = (v, t)) (h : Keeps z s) : Keeps z t := by
  have k := keeps_way h x0 x1 x2 x3
  rw [e] at k
  exact k

theorem keeps_overBridge {z s : State} (h : Keeps z s) (x0 : Bool) (x1 : State → State) (hx1 : ∀ s, Keeps z s → Keeps z (x1 s)) : Keeps z (State.overBridge s x0 x1) := by
  unfold State.overBridge
  try dsimp only
  with_reducible repeat' first | assumption | apply hx1 | apply keeps_fate | apply Keeps.foldl | apply Keeps.ite | (simp only [Keeps.lit_iff]; apply KeepsLit.of <;> first | rfl | skip) | refine keeps_fate_of (by assumption) ?_ | split | omega | dsimp only [id] | (intro)

theorem keeps_linesOver {z s : State} (h : Keeps z s) (x0 : Bool) (x1 : Nat) (x2 : List Byte) (x3 : List Byte) : Keeps z (State.linesOver s x0 x1 x2 x3).2 := by
  unfold State.linesOver
  try dsimp only
  with_reducible repeat' first | assumption | apply keeps_drawN | apply Keeps.foldl | apply Keeps.ite | (simp only [Keeps.lit_iff]; apply KeepsLit.of <;> first | rfl | skip) | split | omega | dsimp only [id] | (intro)

theorem keeps_linesOver_of {z s t : State} {x0 : Bool} {x1 : Nat} {x2 : List Byte} {x3 : List Byte} {v} (e : State.linesOver s x0 x1 x2 x3 = (v, t)) (h : Keeps z s) : Keeps z t := by
  have k := keeps_linesOver h x0 x1 x2 x3
  rw [e] at k
  exact k

theorem keeps_crossDrop {z s : State} (h : Keeps z s) (x0 : Nat) : Keeps z (State.crossDrop s x0) := by
  unfold State.crossDrop
  try dsimp only
  with_reducible repeat' first | assumption | apply keeps_bump | apply Keeps.foldl | apply Keeps.ite | (simp only [Keeps.lit_iff]; apply KeepsLit.of <;> first | rfl | skip) | split | omega | dsimp only [id] | (intro)

theorem keeps_hubWrite {z s : State} (h : Keeps z s) (x0 : Nat) (x1 : List Byte) (x2 : List Byte) (x3 : List Byte → State → State) (hx3 : ∀ b s, Keeps z s → Keeps z (x3 b s)) : Keeps z (State.hubWrite s x0 x1 x2 x3) := by
  unfold State.hubWrite
  dsimp only
  split
  · exact keeps_dieDrop h _
  · split
    · exact keeps_crossDrop h _
    · exact hx3 _ _ (keeps_linesOver (keeps_crossed h _ _ _) _ _ _ _)

end Sys2Proof.Machine
end

