-- ==== Sys2Proof/Laws/Flags.lean ====
section
/-! SUPPORT. What the operations of Machine/Flags.lean keep (Laws/Keeps.lean), one lemma for each. -/

set_option linter.unusedTactic false
set_option linter.unreachableTactic false
set_option linter.unusedSimpArgs false

namespace Sys2Proof.Machine

theorem keeps_commitRow {z s : State} (h : Keeps z s) (x0 : Nat) (x1 : RowWrite) : Keeps z (State.commitRow s x0 x1) := by
  unfold State.commitRow
  try dsimp only
  with_reducible repeat' first | assumption | apply keeps_setLanes | apply keeps_setTag | apply Keeps.foldl | apply Keeps.ite | (simp only [Keeps.lit_iff]; apply KeepsLit.of <;> first | rfl | skip) | split | omega | dsimp only [id] | (intro)

theorem keeps_clearRow {z s : State} (h : Keeps z s) (x0 : Nat) (x1 : Nat) (x2 : Nat) : Keeps z (State.clearRow s x0 x1 x2) := by
  unfold State.clearRow
  try dsimp only
  with_reducible repeat' first | assumption | apply keeps_setLanes | apply keeps_setTag | apply Keeps.foldl | apply Keeps.ite | (simp only [Keeps.lit_iff]; apply KeepsLit.of <;> first | rfl | skip) | split | omega | dsimp only [id] | (intro)

theorem keeps_startFetch {z s : State} (h : Keeps z s) (x0 : FetchSet) : Keeps z (State.startFetch s x0) := by
  unfold State.startFetch
  try dsimp only
  with_reducible repeat' first | assumption | apply Keeps.foldl | apply Keeps.ite | (simp only [Keeps.lit_iff]; apply KeepsLit.of <;> first | rfl | skip) | split | omega | dsimp only [id] | (intro)

end Sys2Proof.Machine
end

