-- ==== Sys2Proof/Laws/Outputs.lean ====
section
/-! SUPPORT. What the operations of Machine/Outputs.lean keep (Laws/Keeps.lean), one lemma for each. -/

set_option linter.unusedTactic false
set_option linter.unreachableTactic false
set_option linter.unusedSimpArgs false

namespace Sys2Proof.Machine

theorem keeps_ringTrigger {z s : State} (h : Keeps z s) (x0 : Nat) : Keeps z (State.ringTrigger s x0) := by
  unfold State.ringTrigger
  try dsimp only
  with_reducible repeat' first | assumption | apply Keeps.foldl | apply Keeps.ite | (simp only [Keeps.lit_iff]; apply KeepsLit.of <;> first | rfl | skip) | split | omega | dsimp only [id] | (intro)

theorem keeps_assertTrip {z s : State} (h : Keeps z s) (x0 : Nat) (x1 : Nat) : Keeps z (State.assertTrip s x0 x1) := by
  unfold State.assertTrip
  try dsimp only
  with_reducible repeat' first | assumption | apply keeps_modTrip | apply keeps_bump | apply keeps_record | apply keeps_ringTrigger | apply Keeps.foldl | apply Keeps.ite | (simp only [Keeps.lit_iff]; apply KeepsLit.of <;> first | rfl | skip) | split | omega | dsimp only [id] | (intro)

theorem keeps_mirrorTrip {z s : State} (h : Keeps z s) (x0 : Nat) (x1 : Option Nat) : Keeps z (State.mirrorTrip s x0 x1) := by
  unfold State.mirrorTrip
  try dsimp only
  with_reducible repeat' first | assumption | apply keeps_assertTrip | apply keeps_modTrip | apply Keeps.foldl | apply Keeps.ite | (simp only [Keeps.lit_iff]; apply KeepsLit.of <;> first | rfl | skip) | split | omega | dsimp only [id] | (intro)

theorem keeps_updateTrip {z s : State} (h : Keeps z s) (x0 : Nat) : Keeps z (State.updateTrip s x0) := by
  unfold State.updateTrip
  try dsimp only
  with_reducible repeat' first | assumption | apply keeps_modTrip | apply keeps_mirrorTrip | apply keeps_assertTrip | apply Keeps.foldl | apply Keeps.ite | (simp only [Keeps.lit_iff]; apply KeepsLit.of <;> first | rfl | skip) | split | omega | dsimp only [id] | (intro)

theorem keeps_updateTrips {z s : State} (h : Keeps z s) : Keeps z (State.updateTrips s) := by
  unfold State.updateTrips
  try dsimp only
  with_reducible repeat' first | assumption | apply keeps_updateTrip | apply Keeps.foldl | apply Keeps.ite | (simp only [Keeps.lit_iff]; apply KeepsLit.of <;> first | rfl | skip) | split | omega | dsimp only [id] | (intro)

theorem keeps_showMirror {z s : State} (h : Keeps z s) : Keeps z (State.showMirror s) := by
  unfold State.showMirror
  try dsimp only
  with_reducible repeat' first | assumption | apply keeps_updateTrip | apply Keeps.foldl | apply Keeps.ite | (simp only [Keeps.lit_iff]; apply KeepsLit.of <;> first | rfl | skip) | split | omega | dsimp only [id] | (intro)

theorem keeps_setMirror {z s : State} (h : Keeps z s) (x0 x1 : Nat) (hx : x0 ≤ 4) : Keeps z (State.setMirror s x0 x1) := by
  unfold State.setMirror
  split
  · exact h
  · apply keeps_showMirror
    apply keeps_record
    obtain ⟨a, b, c, d, e⟩ := h
    refine ⟨a, b, c, d, fun hz => ?_⟩
    have := e hz
    simp only [State.modesOk, Bool.and_eq_true, decide_eq_true_eq] at this ⊢
    exact ⟨⟨⟨this.1.1.1, hx⟩, this.1.2⟩, this.2⟩

theorem keeps_holdDac {z s : State} (h : Keeps z s) (x0 : Nat) (x1 : DacOut) : Keeps z (State.holdDac s x0 x1) := by
  unfold State.holdDac
  try dsimp only
  with_reducible repeat' first | assumption | apply keeps_modDac | apply Keeps.foldl | apply Keeps.ite | (simp only [Keeps.lit_iff]; apply KeepsLit.of <;> first | rfl | skip) | split | omega | dsimp only [id] | (intro)

theorem keeps_releaseDac {z s : State} (h : Keeps z s) (x0 : Nat) : Keeps z (State.releaseDac s x0) := by
  unfold State.releaseDac
  try dsimp only
  with_reducible repeat' first | assumption | apply keeps_modDac | apply Keeps.foldl | apply Keeps.ite | (simp only [Keeps.lit_iff]; apply KeepsLit.of <;> first | rfl | skip) | split | omega | dsimp only [id] | (intro)

theorem keeps_holdOutputs {z s : State} (h : Keeps z s) : Keeps z (State.holdOutputs s) := by
  unfold State.holdOutputs
  try dsimp only
  with_reducible repeat' first | assumption | apply keeps_holdDac | apply keeps_modTrip | apply Keeps.foldl | apply Keeps.ite | (simp only [Keeps.lit_iff]; apply KeepsLit.of <;> first | rfl | skip) | split | omega | dsimp only [id] | (intro)

theorem keeps_toStandby {z s : State} (h : Keeps z s) (x0 : Nat) : Keeps z (State.toStandby s x0) :=
  keeps_holdOutputs (keeps_setMirror h 2 x0 (by decide))

theorem keeps_onLine {z s : State} (h : Keeps z s) (x0 : Nat) (x1 : Nat) (x2 : FlueFrame) : Keeps z (State.onLine s x0 x1 x2) := by
  unfold State.onLine
  try dsimp only
  with_reducible repeat' first | assumption | apply keeps_modPort | apply Keeps.foldl | apply Keeps.ite | (simp only [Keeps.lit_iff]; apply KeepsLit.of <;> first | rfl | skip) | split | omega | dsimp only [id] | (intro)

theorem keeps_sendIdle {z s : State} (h : Keeps z s) (x0 : Nat) : Keeps z (State.sendIdle s x0) := by
  unfold State.sendIdle
  try dsimp only
  with_reducible repeat' first | assumption | apply keeps_onLine | apply Keeps.foldl | apply Keeps.ite | (simp only [Keeps.lit_iff]; apply KeepsLit.of <;> first | rfl | skip) | split | omega | dsimp only [id] | (intro)

theorem keeps_sendHello {z s : State} (h : Keeps z s) (x0 : Nat) : Keeps z (State.sendHello s x0) := by
  unfold State.sendHello
  try dsimp only
  with_reducible repeat' first | assumption | apply keeps_onLine | apply keeps_bump | apply Keeps.foldl | apply Keeps.ite | (simp only [Keeps.lit_iff]; apply KeepsLit.of <;> first | rfl | skip) | split | omega | dsimp only [id] | (intro)

theorem keeps_sendFrame {z s : State} (h : Keeps z s) (x0 : Nat) (x1 : FlueFrame) : Keeps z (State.sendFrame s x0 x1) := by
  unfold State.sendFrame
  try dsimp only
  with_reducible repeat' first | assumption | apply keeps_onLine | apply keeps_modPort | apply keeps_bump | apply Keeps.foldl | apply Keeps.ite | (simp only [Keeps.lit_iff]; apply KeepsLit.of <;> first | rfl | skip) | split | omega | dsimp only [id] | (intro)

theorem keeps_portFlow {z s : State} (h : Keeps z s) (x0 x1 : Nat) : Keeps z (State.portFlow s x0 x1) := by
  induction x1 generalizing s with
  | zero => exact h
  | succ n ih =>
    unfold State.portFlow
    dsimp only
    with_reducible repeat' first | assumption | apply ih | apply keeps_modPort | apply keeps_sendFrame | apply Keeps.foldl | apply keeps_toStandby | apply Keeps.ite | split | intro

theorem keeps_portTurn {z s : State} (h : Keeps z s) (x0 : Nat) : Keeps z (State.portTurn s x0) := by
  unfold State.portTurn
  try dsimp only
  with_reducible repeat' first | assumption | apply keeps_portFlow | apply keeps_sendHello | apply keeps_sendIdle | apply Keeps.foldl | apply Keeps.ite | (simp only [Keeps.lit_iff]; apply KeepsLit.of <;> first | rfl | skip) | split | omega | dsimp only [id] | (intro)

theorem keeps_resend {z s : State} (h : Keeps z s) (x0 : Nat) : Keeps z (State.resend s x0) := by
  unfold State.resend
  try dsimp only
  with_reducible repeat' first | assumption | apply keeps_onLine | apply keeps_bump | apply Keeps.foldl | apply Keeps.ite | (simp only [Keeps.lit_iff]; apply KeepsLit.of <;> first | rfl | skip) | split | omega | dsimp only [id] | (intro)

theorem keeps_sendItem {z s : State} (h : Keeps z s) (x0 : Nat) (x1 : OutItem) : Keeps z (State.sendItem s x0 x1) := by
  unfold State.sendItem
  try dsimp only
  with_reducible repeat' first | assumption | apply keeps_modPort | apply keeps_portFlow | apply Keeps.foldl | apply Keeps.ite | (simp only [Keeps.lit_iff]; apply KeepsLit.of <;> first | rfl | skip) | split | omega | dsimp only [id] | (intro)

theorem keeps_sendTakeover {z s : State} (h : Keeps z s) (x0 : Nat) : Keeps z (State.sendTakeover s x0) := by
  unfold State.sendTakeover
  try dsimp only
  with_reducible repeat' first | assumption | apply keeps_sendItem | apply Keeps.foldl | apply Keeps.ite | (simp only [Keeps.lit_iff]; apply KeepsLit.of <;> first | rfl | skip) | split | omega | dsimp only [id] | (intro)

theorem keeps_announceEpoch {z s : State} (h : Keeps z s) (x0 : Nat) : Keeps z (State.announceEpoch s x0) := by
  unfold State.announceEpoch
  try dsimp only
  with_reducible repeat' first | assumption | apply keeps_sendItem | apply Keeps.foldl | apply Keeps.ite | (simp only [Keeps.lit_iff]; apply KeepsLit.of <;> first | rfl | skip) | split | omega | dsimp only [id] | (intro)

theorem keeps_faultEdge {z s : State} (h : Keeps z s) (x0 : Bool) : Keeps z (State.faultEdge s x0) := by
  unfold State.faultEdge
  try dsimp only
  with_reducible repeat' first | assumption | apply keeps_msix | apply keeps_sendTakeover | apply Keeps.foldl | apply Keeps.ite | (simp only [Keeps.lit_iff]; apply KeepsLit.of <;> first | rfl | skip) | split | omega | dsimp only [id] | (intro)

theorem keeps_setCause {z s : State} (h : Keeps z s) (x0 : Nat) : Keeps z (State.setCause s x0) := by
  unfold State.setCause
  try dsimp only
  with_reducible repeat' first | assumption | apply keeps_faultEdge | apply Keeps.foldl | apply Keeps.ite | (simp only [Keeps.lit_iff]; apply KeepsLit.of <;> first | rfl | skip) | split | omega | dsimp only [id] | (intro)

theorem keeps_clearCauses {z s : State} (h : Keeps z s) (x0 : Nat) : Keeps z (State.clearCauses s x0) := by
  unfold State.clearCauses
  try dsimp only
  with_reducible repeat' first | assumption | apply keeps_faultEdge | apply Keeps.foldl | apply Keeps.ite | (simp only [Keeps.lit_iff]; apply KeepsLit.of <;> first | rfl | skip) | split | omega | dsimp only [id] | (intro)

theorem keeps_releaseOutputs {z s : State} (h : Keeps z s) : Keeps z (State.releaseOutputs s) := by
  unfold State.releaseOutputs
  try dsimp only
  with_reducible repeat' first | assumption | apply keeps_modTrip | apply keeps_releaseDac | apply keeps_updateTrips | apply Keeps.foldl | apply Keeps.ite | (simp only [Keeps.lit_iff]; apply KeepsLit.of <;> first | rfl | skip) | split | omega | dsimp only [id] | (intro)

theorem keeps_takeover {z s : State} (h : Keeps z s) (x0 : Nat) : Keeps z (State.takeover s x0) := by
  unfold State.takeover
  try dsimp only
  with_reducible repeat' first | assumption | apply keeps_setMirror | apply keeps_bump | apply keeps_releaseOutputs | apply Keeps.foldl | apply Keeps.ite | (simp only [Keeps.lit_iff]; apply KeepsLit.of <;> first | rfl | skip) | split | omega | dsimp only [id] | (intro)

theorem keeps_dacQueue {z s : State} (h : Keeps z s) (x0 : Nat) (x1 : List Nat) : Keeps z (State.dacQueue s x0 x1) := by
  unfold State.dacQueue
  try dsimp only
  with_reducible repeat' first | assumption | apply keeps_bumpBy | apply keeps_modDac | apply Keeps.foldl | apply Keeps.ite | (simp only [Keeps.lit_iff]; apply KeepsLit.of <;> first | rfl | skip) | split | omega | dsimp only [id] | (intro)

theorem keeps_dacFlush {z s : State} (h : Keeps z s) (x0 : Nat) : Keeps z (State.dacFlush s x0) := by
  unfold State.dacFlush
  try dsimp only
  with_reducible repeat' first | assumption | apply keeps_bumpBy | apply keeps_modDac | apply Keeps.foldl | apply Keeps.ite | (simp only [Keeps.lit_iff]; apply KeepsLit.of <;> first | rfl | skip) | split | omega | dsimp only [id] | (intro)

theorem keeps_setLadder {z s : State} (h : Keeps z s) (x0 : Nat) (x1 : Nat) : Keeps z (State.setLadder s x0 x1) := by
  unfold State.setLadder
  try dsimp only
  with_reducible repeat' first | assumption | apply keeps_modDac | apply Keeps.foldl | apply Keeps.ite | (simp only [Keeps.lit_iff]; apply KeepsLit.of <;> first | rfl | skip) | split | omega | dsimp only [id] | (intro)

theorem keeps_dacFault {z s : State} (h : Keeps z s) (x0 : Nat) (x1 : Nat) : Keeps z (State.dacFault s x0 x1) := by
  unfold State.dacFault
  try dsimp only
  with_reducible repeat' first | assumption | apply keeps_dacFlush | apply keeps_modDac | apply keeps_record | apply keeps_setCause | apply Keeps.foldl | apply Keeps.ite | (simp only [Keeps.lit_iff]; apply KeepsLit.of <;> first | rfl | skip) | split | omega | dsimp only [id] | (intro)

end Sys2Proof.Machine
end

