-- ==== Sys2Proof/Laws/Flight.lean ====
section
/-! SUPPORT. What the operations of Machine/Flight.lean keep (Laws/Keeps.lean), one lemma for each. -/

set_option linter.unusedTactic false
set_option linter.unreachableTactic false
set_option linter.unusedSimpArgs false

namespace Sys2Proof.Machine

theorem keeps_modOp {z s : State} (h : Keeps z s) (x0 : Nat) (x1 : Nat) (x2 : Op → Op) : Keeps z (State.modOp s x0 x1 x2) := by
  unfold State.modOp
  try dsimp only
  with_reducible repeat' first | assumption | apply keeps_modSeq | apply Keeps.foldl | apply Keeps.ite | (simp only [Keeps.lit_iff]; apply KeepsLit.of <;> first | rfl | skip) | split | omega | dsimp only [id] | (intro)

theorem keeps_setFault {z s : State} (h : Keeps z s) (x0 : Nat) (x1 : FaultInfo) : Keeps z (State.setFault s x0 x1) := by
  unfold State.setFault
  try dsimp only
  with_reducible repeat' first | assumption | apply keeps_modSeq | apply Keeps.foldl | apply Keeps.ite | (simp only [Keeps.lit_iff]; apply KeepsLit.of <;> first | rfl | skip) | split | omega | dsimp only [id] | (intro)

theorem keeps_finishOp {z s : State} (h : Keeps z s) (x0 : Nat) (x1 : Op) (x2 : Nat) : Keeps z (State.finishOp s x0 x1 x2) := by
  unfold State.finishOp
  try dsimp only
  with_reducible repeat' first | assumption | apply keeps_modCore | apply keeps_sendSync | apply keeps_setFault | apply keeps_modSeq | apply Keeps.foldl | apply Keeps.ite | (simp only [Keeps.lit_iff]; apply KeepsLit.of <;> first | rfl | skip) | split | omega | dsimp only [id] | (intro)

theorem keeps_halt {z s : State} (h : Keeps z s) (x0 : Nat) (x1 : Nat) (x2 : Nat) (x3 : Nat) : Keeps z (State.halt s x0 x1 x2 x3) := by
  unfold State.halt
  try dsimp only
  with_reducible repeat' first | assumption | apply keeps_modCore | apply keeps_record | apply Keeps.foldl | apply Keeps.ite | (simp only [Keeps.lit_iff]; apply KeepsLit.of <;> first | rfl | skip) | split | omega | dsimp only [id] | (intro)

theorem keeps_layPlan {z s : State} (h : Keeps z s) (x0 : Nat) (x1 : Nat) (x2 : List Nat) : Keeps z (State.layPlan s x0 x1 x2) := by
  unfold State.layPlan
  try dsimp only
  with_reducible repeat' first | assumption | apply keeps_hubWrite | apply keeps_poke | apply Keeps.foldl | apply Keeps.ite | (simp only [Keeps.lit_iff]; apply KeepsLit.of <;> first | rfl | skip) | split | omega | dsimp only [id] | (intro)

theorem keeps_readPlans {z s : State} (h : Keeps z s) (x0 : Nat) (x1 : Nat) : Keeps z (State.readPlans s x0 x1) := by
  unfold State.readPlans
  try dsimp only
  with_reducible repeat' first | assumption | apply keeps_startFetch | apply Keeps.foldl | apply Keeps.ite | (simp only [Keeps.lit_iff]; apply KeepsLit.of <;> first | rfl | skip) | split | omega | dsimp only [id] | (intro)

theorem keeps_rewriteBank {z s : State} (h : Keeps z s) (x0 : Nat) (x1 : Nat) : Keeps z (State.rewriteBank s x0 x1) := by
  unfold State.rewriteBank
  try dsimp only
  with_reducible repeat' first | assumption | apply keeps_layPlan | apply keeps_readPlans | apply Keeps.foldl | apply Keeps.ite | (simp only [Keeps.lit_iff]; apply KeepsLit.of <;> first | rfl | skip) | split | omega | dsimp only [id] | (intro)

theorem keeps_settleStop {z s : State} (h : Keeps z s) (x0 : Nat) : Keeps z (State.settleStop s x0) := by
  unfold State.settleStop
  try dsimp only
  with_reducible repeat' first | assumption | apply keeps_halt | apply keeps_rewriteBank | apply Keeps.foldl | apply Keeps.ite | (simp only [Keeps.lit_iff]; apply KeepsLit.of <;> first | rfl | skip) | split | omega | dsimp only [id] | (intro)

theorem keeps_nackLocal {z s : State} (h : Keeps z s) (x0 : Nat) (x1 : Msg) : Keeps z (State.nackLocal s x0 x1) := by
  unfold State.nackLocal
  try dsimp only
  with_reducible repeat' first | assumption | apply keeps_bump | apply keeps_record | apply Keeps.foldl | apply Keeps.ite | (simp only [Keeps.lit_iff]; apply KeepsLit.of <;> first | rfl | skip) | split | omega | dsimp only [id] | (intro)

theorem keeps_toPort {z s : State} (h : Keeps z s) (x0 : Nat) (x1 : Nat) (x2 : Msg) (x3 : OutItem) : Keeps z (State.toPort s x0 x1 x2 x3) := by
  unfold State.toPort
  try dsimp only
  with_reducible repeat' first | assumption | apply keeps_way | apply keeps_dieDrop | apply keeps_sendItem | apply Keeps.foldl | apply Keeps.ite | (simp only [Keeps.lit_iff]; apply KeepsLit.of <;> first | rfl | skip) | refine keeps_way_of (by assumption) ?_ | split | omega | dsimp only [id] | (intro)

theorem keeps_sendMsg {z s : State} (h : Keeps z s) (x0 : Nat) (x1 : Peer) (x2 : Msg) : Keeps z (State.sendMsg s x0 x1 x2) := by
  unfold State.sendMsg
  try dsimp only
  with_reducible repeat' first | assumption | apply keeps_nackLocal | apply keeps_toPort | apply Keeps.foldl | apply Keeps.ite | (simp only [Keeps.lit_iff]; apply KeepsLit.of <;> first | rfl | skip) | split | omega | dsimp only [id] | (intro)

theorem keeps_takeSeq {z s : State} (h : Keeps z s) (x0 : Nat) (x1 : Nat) (x2 : Nat) : Keeps z (State.takeSeq s x0 x1 x2).2 := by
  unfold State.takeSeq
  try dsimp only
  with_reducible repeat' first | assumption | apply keeps_modComm | apply Keeps.foldl | apply Keeps.ite | (simp only [Keeps.lit_iff]; apply KeepsLit.of <;> first | rfl | skip) | split | omega | dsimp only [id] | (intro)

theorem keeps_takeSeq_of {z s t : State} {x0 : Nat} {x1 : Nat} {x2 : Nat} {v} (e : State.takeSeq s x0 x1 x2 = (v, t)) (h : Keeps z s) : Keeps z t := by
  have k := keeps_takeSeq h x0 x1 x2
  rw [e] at k
  exact k

theorem keeps_transmit {z s : State} (h : Keeps z s) (x0 : Nat) (x1 : Op) (x2 : Nat) (x3 : Nat) (x4 : Nat) (x5 : Nat) : Keeps z (State.transmit s x0 x1 x2 x3 x4 x5) := by
  unfold State.transmit
  try dsimp only
  with_reducible repeat' first | assumption | apply keeps_takeSeq | apply keeps_modComm | apply keeps_modOp | apply keeps_sendMsg | apply Keeps.foldl | apply Keeps.ite | (simp only [Keeps.lit_iff]; apply KeepsLit.of <;> first | rfl | skip) | refine keeps_takeSeq_of (by assumption) ?_ | split | omega | dsimp only [id] | (intro)

theorem keeps_postCredit {z s : State} (h : Keeps z s) (x0 : Nat) (x1 : Op) (x2 : Nat) (x3 : Nat) (x4 : Nat) (x5 : Nat) (x6 : OpBody) : Keeps z (State.postCredit s x0 x1 x2 x3 x4 x5 x6) := by
  unfold State.postCredit
  try dsimp only
  with_reducible repeat' first | assumption | apply keeps_takeSeq | apply keeps_modComm | apply keeps_modOp | apply keeps_sendMsg | apply Keeps.foldl | apply Keeps.ite | (simp only [Keeps.lit_iff]; apply KeepsLit.of <;> first | rfl | skip) | refine keeps_takeSeq_of (by assumption) ?_ | split | omega | dsimp only [id] | (intro)

theorem keeps_mvmFinish {z s : State} (h : Keeps z s) (x0 : Nat) (x1 : Nat) : Keeps z (State.mvmFinish s x0 x1) := by
  unfold State.mvmFinish
  try dsimp only
  with_reducible repeat' first | assumption | apply keeps_modOp | apply Keeps.foldl | apply Keeps.ite | (simp only [Keeps.lit_iff]; apply KeepsLit.of <;> first | rfl | skip) | split | omega | dsimp only [id] | (intro)

theorem keeps_commitEng {z s : State} (h : Keeps z s) (x0 : Nat) (x1 : Nat) : Keeps z (State.commitEng s x0 x1) := by
  unfold State.commitEng
  try dsimp only
  with_reducible repeat' first | assumption | apply keeps_setEng | apply Keeps.foldl | apply Keeps.ite | (simp only [Keeps.lit_iff]; apply KeepsLit.of <;> first | rfl | skip) | split | omega | dsimp only [id] | (intro)

theorem keeps_commitIdle {z s : State} (h : Keeps z s) (x0 : Nat) (x1 : Nat) : Keeps z (State.commitIdle s x0 x1) := by
  unfold State.commitIdle
  try dsimp only
  with_reducible repeat' first | assumption | apply keeps_corrCommit | apply keeps_commitEng | apply Keeps.foldl | apply Keeps.ite | (simp only [Keeps.lit_iff]; apply KeepsLit.of <;> first | rfl | skip) | split | omega | dsimp only [id] | (intro)

theorem keeps_mvmFetch {z s : State} (h : Keeps z s) (x0 : Nat) (x1 : Op) (x2 : MvmOp) : Keeps z (State.mvmFetch s x0 x1 x2) := by
  unfold State.mvmFetch
  try dsimp only
  with_reducible repeat' first | assumption | apply keeps_modOp | apply keeps_mvmFinish | apply keeps_commitIdle | apply Keeps.foldl | apply Keeps.ite | (simp only [Keeps.lit_iff]; apply KeepsLit.of <;> first | rfl | skip) | split | omega | dsimp only [id] | (intro)

theorem keeps_checkLatch {z s : State} (h : Keeps z s) (x0 : Nat) : Keeps z (State.checkLatch s x0) := by
  unfold State.checkLatch
  try dsimp only
  with_reducible repeat' first | assumption | apply keeps_modSeq | apply Keeps.foldl | apply Keeps.ite | (simp only [Keeps.lit_iff]; apply KeepsLit.of <;> first | rfl | skip) | split | omega | dsimp only [id] | (intro)

theorem keeps_giveCodes {z s : State} (h : Keeps z s) (x0 : Nat) (x1 : Op) (x2 : Nat) (x3 : List Byte) : Keeps z (State.giveCodes s x0 x1 x2 x3) := by
  unfold State.giveCodes
  try dsimp only
  with_reducible repeat' first | assumption | apply keeps_dacQueue | apply keeps_finishOp | apply keeps_modOp | apply Keeps.foldl | apply Keeps.ite | (simp only [Keeps.lit_iff]; apply KeepsLit.of <;> first | rfl | skip) | split | omega | dsimp only [id] | (intro)

theorem keeps_toInbox {z s : State} (h : Keeps z s) (x0 : List RecMsg) : Keeps z (State.toInbox s x0) := by
  unfold State.toInbox
  try dsimp only
  with_reducible repeat' first | assumption | apply Keeps.foldl | apply Keeps.ite | (simp only [Keeps.lit_iff]; apply KeepsLit.of <;> first | rfl | skip) | split | omega | dsimp only [id] | (intro)

theorem keeps_settleOp {z s : State} (h : Keeps z s) (x0 : Nat) (x1 : Nat) : Keeps z (State.settleOp s x0 x1) := by
  unfold State.settleOp
  try dsimp only
  with_reducible repeat' first | assumption | apply keeps_mvmFetch | apply keeps_sendSync | apply keeps_modOp | apply keeps_checkLatch | apply keeps_finishOp | apply keeps_halt | apply keeps_modSeq | apply keeps_transmit | apply keeps_postCredit | apply keeps_abWrite | apply keeps_bumpBy | apply keeps_giveCodes | apply keeps_way | apply keeps_dieDrop | apply keeps_toInbox | apply Keeps.foldl | apply Keeps.ite | (simp only [Keeps.lit_iff]; apply KeepsLit.of <;> first | rfl | skip) | refine keeps_way_of (by assumption) ?_ | split | omega | dsimp only [id] | (intro)

theorem keeps_settle {z s : State} (h : Keeps z s) (x0 : Nat) : Keeps z (State.settle s x0) := by
  unfold State.settle
  try dsimp only
  with_reducible repeat' first | assumption | apply keeps_settleOp | apply keeps_settleStop | apply Keeps.foldl | apply Keeps.ite | (simp only [Keeps.lit_iff]; apply KeepsLit.of <;> first | rfl | skip) | split | omega | dsimp only [id] | (intro)

theorem keeps_completeOp {z s : State} (h : Keeps z s) (x0 : Nat) (x1 : Op) (x2 : Nat) : Keeps z (State.completeOp s x0 x1 x2) := by
  unfold State.completeOp
  try dsimp only
  with_reducible repeat' first | assumption | apply keeps_finishOp | apply keeps_settle | apply Keeps.foldl | apply Keeps.ite | (simp only [Keeps.lit_iff]; apply KeepsLit.of <;> first | rfl | skip) | split | omega | dsimp only [id] | (intro)

theorem keeps_freezeCore {z s : State} (h : Keeps z s) (x0 : Nat) (x1 : Nat) (x2 : Nat) : Keeps z (State.freezeCore s x0 x1 x2) := by
  unfold State.freezeCore
  try dsimp only
  with_reducible repeat' first | assumption | apply keeps_modCore | apply keeps_record | apply keeps_msix | apply Keeps.foldl | apply Keeps.ite | (simp only [Keeps.lit_iff]; apply KeepsLit.of <;> first | rfl | skip) | split | omega | dsimp only [id] | (intro)

theorem keeps_discard {z s : State} (h : Keeps z s) (x0 : Nat) (x1 : Nat) (x2 : Nat) : Keeps z (State.discard s x0 x1 x2) := by
  unfold State.discard
  try dsimp only
  with_reducible repeat' first | assumption | apply keeps_setFault | apply keeps_modSeq | apply keeps_sendSync | apply Keeps.foldl | apply Keeps.ite | (simp only [Keeps.lit_iff]; apply KeepsLit.of <;> first | rfl | skip) | split | omega | dsimp only [id] | (intro)

theorem keeps_advance {z s : State} (h : Keeps z s) (x0 : Nat) : Keeps z (State.advance s x0) := by
  unfold State.advance
  try dsimp only
  with_reducible repeat' first | assumption | apply keeps_modSeq | apply Keeps.foldl | apply Keeps.ite | (simp only [Keeps.lit_iff]; apply KeepsLit.of <;> first | rfl | skip) | split | omega | dsimp only [id] | (intro)

theorem keeps_jump {z s : State} (h : Keeps z s) (x0 : Nat) (x1 : Nat) : Keeps z (State.jump s x0 x1) := by
  unfold State.jump
  try dsimp only
  with_reducible repeat' first | assumption | apply keeps_modSeq | apply Keeps.foldl | apply Keeps.ite | (simp only [Keeps.lit_iff]; apply KeepsLit.of <;> first | rfl | skip) | split | omega | dsimp only [id] | (intro)

theorem keeps_planFault {z s : State} (h : Keeps z s) (x0 : Nat) : Keeps z (State.planFault s x0) := by
  unfold State.planFault
  try dsimp only
  with_reducible repeat' first | assumption | apply keeps_setFault | apply keeps_modSeq | apply keeps_settle | apply Keeps.foldl | apply Keeps.ite | (simp only [Keeps.lit_iff]; apply KeepsLit.of <;> first | rfl | skip) | split | omega | dsimp only [id] | (intro)

theorem keeps_issue {z s : State} (h : Keeps z s) (x0 x1 : Nat) (x2 : Nat → State → State)
    (hx : ∀ w s, Keeps z s → Keeps z (x2 w s)) : Keeps z (State.issue s x0 x1 x2) := by
  unfold State.issue
  try dsimp only
  with_reducible repeat' first | assumption | apply keeps_settle | apply keeps_bump | apply keeps_discard | apply keeps_freezeCore | apply keeps_planFault | apply keeps_advance | apply hx | apply Keeps.ite | split | intro

theorem keeps_enter {z s : State} (h : Keeps z s) (x0 : Nat) (x1 : Nat) (x2 : Bool) (x3 : Bool) (x4 : List Nat) (x5 : OpBody) : Keeps z (State.enter s x0 x1 x2 x3 x4 x5) := by
  unfold State.enter
  try dsimp only
  with_reducible repeat' first | assumption | apply keeps_modCore | apply Keeps.foldl | apply Keeps.ite | (simp only [Keeps.lit_iff]; apply KeepsLit.of <;> first | rfl | skip) | split | omega | dsimp only [id] | (intro)

theorem keeps_enterDone {z s : State} (h : Keeps z s) (x0 : Nat) (x1 : Nat) : Keeps z (State.enterDone s x0 x1) := by
  unfold State.enterDone
  try dsimp only
  with_reducible repeat' first | assumption | apply keeps_enter | apply keeps_finishOp | apply Keeps.foldl | apply Keeps.ite | (simp only [Keeps.lit_iff]; apply KeepsLit.of <;> first | rfl | skip) | split | omega | dsimp only [id] | (intro)

end Sys2Proof.Machine
end

