-- ==== Sys2Proof/Laws/Plan.lean ====
section
/-! SUPPORT. What the operations of Machine/Plan.lean keep (Laws/Keeps.lean), one lemma for each. -/

set_option linter.unusedTactic false
set_option linter.unreachableTactic false
set_option linter.unusedSimpArgs false

namespace Sys2Proof.Machine

theorem keeps_execNop {z s : State} (h : Keeps z s) (x0 : Nat) : OutKeeps z (execNop x0 s) := by
  unfold execNop
  try dsimp only
  with_reducible repeat' first | assumption | apply OutKeeps.next | apply keeps_issue | apply Keeps.foldl | apply Keeps.ite | (simp only [Keeps.lit_iff]; apply KeepsLit.of <;> first | rfl | skip) | split | omega | dsimp only [id] | (intro)

theorem keeps_haltOp {z s : State} (h : Keeps z s) (x0 : Nat) (x1 : Nat) : Keeps z (haltOp x0 x1 s) := by
  unfold haltOp
  try dsimp only
  with_reducible repeat' first | assumption | apply keeps_enter | apply keeps_halt | apply Keeps.foldl | apply Keeps.ite | (simp only [Keeps.lit_iff]; apply KeepsLit.of <;> first | rfl | skip) | split | omega | dsimp only [id] | (intro)

theorem keeps_execHalt {z s : State} (h : Keeps z s) (x0 : Nat) : OutKeeps z (execHalt x0 s) := by
  unfold execHalt
  try dsimp only
  with_reducible repeat' first | assumption | apply OutKeeps.next | apply keeps_issue | apply keeps_haltOp | apply Keeps.foldl | apply Keeps.ite | (simp only [Keeps.lit_iff]; apply KeepsLit.of <;> first | rfl | skip) | split | omega | dsimp only [id] | (intro)

theorem keeps_execJmp {z s : State} (h : Keeps z s) (x0 : Nat) : OutKeeps z (execJmp x0 s) := by
  unfold execJmp
  try dsimp only
  with_reducible repeat' first | assumption | apply OutKeeps.next | apply keeps_issue | apply keeps_jump | apply Keeps.foldl | apply Keeps.ite | (simp only [Keeps.lit_iff]; apply KeepsLit.of <;> first | rfl | skip) | split | omega | dsimp only [id] | (intro)

theorem keeps_brOp {z s : State} (h : Keeps z s) (x0 : Nat) (x1 : Nat) : Keeps z (brOp x0 x1 s) := by
  unfold brOp
  try dsimp only
  with_reducible repeat' first | assumption | apply keeps_jump | apply Keeps.foldl | apply Keeps.ite | (simp only [Keeps.lit_iff]; apply KeepsLit.of <;> first | rfl | skip) | split | omega | dsimp only [id] | (intro)

theorem keeps_execBr {z s : State} (h : Keeps z s) (x0 : Nat) : OutKeeps z (execBr x0 s) := by
  unfold execBr
  try dsimp only
  with_reducible repeat' first | assumption | apply OutKeeps.next | apply keeps_issue | apply keeps_brOp | apply Keeps.foldl | apply Keeps.ite | (simp only [Keeps.lit_iff]; apply KeepsLit.of <;> first | rfl | skip) | split | omega | dsimp only [id] | (intro)

theorem keeps_loopOp {z s : State} (h : Keeps z s) (x0 : Nat) (x1 : Nat) : Keeps z (loopOp x0 x1 s) := by
  unfold loopOp
  try dsimp only
  with_reducible repeat' first | assumption | apply keeps_modSeq | apply keeps_jump | apply Keeps.foldl | apply Keeps.ite | (simp only [Keeps.lit_iff]; apply KeepsLit.of <;> first | rfl | skip) | split | omega | dsimp only [id] | (intro)

theorem keeps_execLoop {z s : State} (h : Keeps z s) (x0 : Nat) : OutKeeps z (execLoop x0 s) := by
  unfold execLoop
  try dsimp only
  with_reducible repeat' first | assumption | apply OutKeeps.next | apply keeps_issue | apply keeps_loopOp | apply Keeps.foldl | apply Keeps.ite | (simp only [Keeps.lit_iff]; apply KeepsLit.of <;> first | rfl | skip) | split | omega | dsimp only [id] | (intro)

theorem keeps_setkOp {z s : State} (h : Keeps z s) (x0 : Nat) (x1 : Nat) : Keeps z (setkOp x0 x1 s) := by
  unfold setkOp
  try dsimp only
  with_reducible repeat' first | assumption | apply keeps_modSeq | apply Keeps.foldl | apply Keeps.ite | (simp only [Keeps.lit_iff]; apply KeepsLit.of <;> first | rfl | skip) | split | omega | dsimp only [id] | (intro)

theorem keeps_execSetk {z s : State} (h : Keeps z s) (x0 : Nat) : OutKeeps z (execSetk x0 s) := by
  unfold execSetk
  try dsimp only
  with_reducible repeat' first | assumption | apply OutKeeps.next | apply keeps_issue | apply keeps_setkOp | apply Keeps.foldl | apply Keeps.ite | (simp only [Keeps.lit_iff]; apply KeepsLit.of <;> first | rfl | skip) | split | omega | dsimp only [id] | (intro)

theorem keeps_ldkOp {z s : State} (h : Keeps z s) (x0 : Nat) (x1 : Nat) : Keeps z (ldkOp x0 x1 s) := by
  unfold ldkOp
  try dsimp only
  with_reducible repeat' first | assumption | apply keeps_enter | apply Keeps.foldl | apply Keeps.ite | (simp only [Keeps.lit_iff]; apply KeepsLit.of <;> first | rfl | skip) | split | omega | dsimp only [id] | (intro)

theorem keeps_execLdk {z s : State} (h : Keeps z s) (x0 : Nat) : OutKeeps z (execLdk x0 s) := by
  unfold execLdk
  try dsimp only
  with_reducible repeat' first | assumption | apply OutKeeps.next | apply keeps_issue | apply keeps_ldkOp | apply Keeps.foldl | apply Keeps.ite | (simp only [Keeps.lit_iff]; apply KeepsLit.of <;> first | rfl | skip) | split | omega | dsimp only [id] | (intro)

theorem keeps_bankBudgets {z s : State} (h : Keeps z s) (x0 : Nat) (x1 : Nat) : Keeps z (State.bankBudgets s x0 x1) := by
  unfold State.bankBudgets
  try dsimp only
  with_reducible repeat' first | assumption | apply keeps_modCore | apply Keeps.foldl | apply Keeps.ite | (simp only [Keeps.lit_iff]; apply KeepsLit.of <;> first | rfl | skip) | split | omega | dsimp only [id] | (intro)

theorem keeps_anaEffect {z s : State} (h : Keeps z s) (x0 : Nat) : Keeps z (State.anaEffect s x0) := by
  unfold State.anaEffect
  try dsimp only
  with_reducible repeat' first | assumption | apply keeps_modCore | apply Keeps.foldl | apply Keeps.ite | (simp only [Keeps.lit_iff]; apply KeepsLit.of <;> first | rfl | skip) | split | omega | dsimp only [id] | (intro)

theorem keeps_batchCommitDue {z s : State} (h : Keeps z s) (x0 : Nat) : Keeps z (State.batchCommitDue s x0) := by
  unfold State.batchCommitDue
  try dsimp only
  with_reducible repeat' first | assumption | apply Keeps.foldl | apply Keeps.ite | (simp only [Keeps.lit_iff]; apply KeepsLit.of <;> first | rfl | skip) | split | omega | dsimp only [id] | (intro)

theorem keeps_batchOp {z s : State} (h : Keeps z s) (x0 : Nat) : Keeps z (batchOp x0 s) := by
  unfold batchOp
  try dsimp only
  with_reducible repeat' first | assumption | apply keeps_anaEffect | apply keeps_bankBudgets | apply keeps_modSeq | apply keeps_batchCommitDue | apply Keeps.foldl | apply Keeps.ite | (simp only [Keeps.lit_iff]; apply KeepsLit.of <;> first | rfl | skip) | split | omega | dsimp only [id] | (intro)

theorem keeps_execBatch {z s : State} (h : Keeps z s) (x0 : Nat) : OutKeeps z (execBatch x0 s) := by
  unfold execBatch
  try dsimp only
  with_reducible repeat' first | assumption | apply OutKeeps.next | apply keeps_issue | apply keeps_batchOp | apply Keeps.foldl | apply Keeps.ite | (simp only [Keeps.lit_iff]; apply KeepsLit.of <;> first | rfl | skip) | split | omega | dsimp only [id] | (intro)

theorem keeps_endbOp {z s : State} (h : Keeps z s) (x0 : Nat) (x1 : Nat) : Keeps z (endbOp x0 x1 s) := by
  unfold endbOp
  try dsimp only
  with_reducible repeat' first | assumption | apply keeps_enter | apply keeps_modSeq | apply keeps_checkLatch | apply Keeps.foldl | apply Keeps.ite | (simp only [Keeps.lit_iff]; apply KeepsLit.of <;> first | rfl | skip) | split | omega | dsimp only [id] | (intro)

theorem keeps_execEndb {z s : State} (h : Keeps z s) (x0 : Nat) : OutKeeps z (execEndb x0 s) := by
  unfold execEndb
  try dsimp only
  with_reducible repeat' first | assumption | apply OutKeeps.next | apply keeps_issue | apply keeps_endbOp | apply Keeps.foldl | apply Keeps.ite | (simp only [Keeps.lit_iff]; apply KeepsLit.of <;> first | rfl | skip) | split | omega | dsimp only [id] | (intro)

theorem keeps_execFence {z s : State} (h : Keeps z s) (x0 : Nat) : OutKeeps z (execFence x0 s) := by
  unfold execFence
  try dsimp only
  with_reducible repeat' first | assumption | apply OutKeeps.next | apply keeps_issue | apply keeps_enter | apply Keeps.foldl | apply Keeps.ite | (simp only [Keeps.lit_iff]; apply KeepsLit.of <;> first | rfl | skip) | split | omega | dsimp only [id] | (intro)

theorem keeps_sigOp {z s : State} (h : Keeps z s) (x0 : Nat) (x1 : Nat) : Keeps z (sigOp x0 x1 s) := by
  unfold sigOp
  try dsimp only
  with_reducible repeat' first | assumption | apply keeps_enter | apply Keeps.foldl | apply Keeps.ite | (simp only [Keeps.lit_iff]; apply KeepsLit.of <;> first | rfl | skip) | split | omega | dsimp only [id] | (intro)

theorem keeps_execSig {z s : State} (h : Keeps z s) (x0 : Nat) : OutKeeps z (execSig x0 s) := by
  unfold execSig
  try dsimp only
  with_reducible repeat' first | assumption | apply OutKeeps.next | apply keeps_issue | apply keeps_sigOp | apply Keeps.foldl | apply Keeps.ite | (simp only [Keeps.lit_iff]; apply KeepsLit.of <;> first | rfl | skip) | split | omega | dsimp only [id] | (intro)

theorem keeps_waitOp {z s : State} (h : Keeps z s) (x0 : Nat) (x1 : Nat) : Keeps z (waitOp x0 x1 s) := by
  unfold waitOp
  try dsimp only
  with_reducible repeat' first | assumption | apply keeps_enter | apply Keeps.foldl | apply Keeps.ite | (simp only [Keeps.lit_iff]; apply KeepsLit.of <;> first | rfl | skip) | split | omega | dsimp only [id] | (intro)

theorem keeps_execWait {z s : State} (h : Keeps z s) (x0 : Nat) : OutKeeps z (execWait x0 s) := by
  unfold execWait
  try dsimp only
  with_reducible repeat' first | assumption | apply OutKeeps.next | apply keeps_issue | apply keeps_waitOp | apply Keeps.foldl | apply Keeps.ite | (simp only [Keeps.lit_iff]; apply KeepsLit.of <;> first | rfl | skip) | split | omega | dsimp only [id] | (intro)

theorem keeps_waittOp {z s : State} (h : Keeps z s) (x0 : Nat) (x1 : Nat) : Keeps z (waittOp x0 x1 s) := by
  unfold waittOp
  try dsimp only
  with_reducible repeat' first | assumption | apply keeps_enter | apply Keeps.foldl | apply Keeps.ite | (simp only [Keeps.lit_iff]; apply KeepsLit.of <;> first | rfl | skip) | split | omega | dsimp only [id] | (intro)

theorem keeps_execWaitt {z s : State} (h : Keeps z s) (x0 : Nat) : OutKeeps z (execWaitt x0 s) := by
  unfold execWaitt
  try dsimp only
  with_reducible repeat' first | assumption | apply OutKeeps.next | apply keeps_issue | apply keeps_waittOp | apply Keeps.foldl | apply Keeps.ite | (simp only [Keeps.lit_iff]; apply KeepsLit.of <;> first | rfl | skip) | split | omega | dsimp only [id] | (intro)

theorem keeps_waitphOp {z s : State} (h : Keeps z s) (x0 : Nat) (x1 : Nat) : Keeps z (waitphOp x0 x1 s) := by
  unfold waitphOp
  try dsimp only
  with_reducible repeat' first | assumption | apply keeps_enter | apply Keeps.foldl | apply Keeps.ite | (simp only [Keeps.lit_iff]; apply KeepsLit.of <;> first | rfl | skip) | split | omega | dsimp only [id] | (intro)

theorem keeps_execWaitph {z s : State} (h : Keeps z s) (x0 : Nat) : OutKeeps z (execWaitph x0 s) := by
  unfold execWaitph
  try dsimp only
  with_reducible repeat' first | assumption | apply OutKeeps.next | apply keeps_issue | apply keeps_waitphOp | apply Keeps.foldl | apply Keeps.ite | (simp only [Keeps.lit_iff]; apply KeepsLit.of <;> first | rfl | skip) | split | omega | dsimp only [id] | (intro)

theorem keeps_emitOp {z s : State} (h : Keeps z s) (x0 : Nat) (x1 : Nat) : Keeps z (emitOp x0 x1 s) := by
  unfold emitOp
  try dsimp only
  with_reducible repeat' first | assumption | apply keeps_enter | apply keeps_enterDone | apply Keeps.foldl | apply Keeps.ite | (simp only [Keeps.lit_iff]; apply KeepsLit.of <;> first | rfl | skip) | split | omega | dsimp only [id] | (intro)

theorem keeps_execEmit {z s : State} (h : Keeps z s) (x0 : Nat) : OutKeeps z (execEmit x0 s) := by
  unfold execEmit
  try dsimp only
  with_reducible repeat' first | assumption | apply OutKeeps.next | apply keeps_issue | apply keeps_emitOp | apply Keeps.foldl | apply Keeps.ite | (simp only [Keeps.lit_iff]; apply KeepsLit.of <;> first | rfl | skip) | split | omega | dsimp only [id] | (intro)

theorem keeps_logOp {z s : State} (h : Keeps z s) (x0 : Nat) (x1 : Nat) : Keeps z (logOp x0 x1 s) := by
  unfold logOp
  try dsimp only
  with_reducible repeat' first | assumption | apply keeps_enter | apply Keeps.foldl | apply Keeps.ite | (simp only [Keeps.lit_iff]; apply KeepsLit.of <;> first | rfl | skip) | split | omega | dsimp only [id] | (intro)

theorem keeps_execLog {z s : State} (h : Keeps z s) (x0 : Nat) : OutKeeps z (execLog x0 s) := by
  unfold execLog
  try dsimp only
  with_reducible repeat' first | assumption | apply OutKeeps.next | apply keeps_issue | apply keeps_logOp | apply Keeps.foldl | apply Keeps.ite | (simp only [Keeps.lit_iff]; apply KeepsLit.of <;> first | rfl | skip) | split | omega | dsimp only [id] | (intro)

theorem keeps_faultPath {z s : State} (h : Keeps z s) (x0 : Nat) : Keeps z (faultPath x0 s) := by
  unfold faultPath
  try dsimp only
  with_reducible repeat' first | assumption | apply keeps_modSeq | apply keeps_halt | apply Keeps.foldl | apply Keeps.ite | (simp only [Keeps.lit_iff]; apply KeepsLit.of <;> first | rfl | skip) | split | omega | dsimp only [id] | (intro)

theorem keeps_execFaultPath {z s : State} (h : Keeps z s) (x0 : Nat) : OutKeeps z (execFaultPath x0 s) := by
  unfold execFaultPath
  try dsimp only
  with_reducible repeat' first | assumption | apply OutKeeps.next | apply keeps_faultPath | apply Keeps.foldl | apply Keeps.ite | (simp only [Keeps.lit_iff]; apply KeepsLit.of <;> first | rfl | skip) | split | omega | dsimp only [id] | (intro)

end Sys2Proof.Machine
end

