-- ==== Sys2Proof/Laws/Tiles.lean ====
section
/-! SUPPORT. What the operations of Machine/Tiles.lean keep (Laws/Keeps.lean), one lemma for each. -/

set_option linter.unusedTactic false
set_option linter.unreachableTactic false
set_option linter.unusedSimpArgs false

namespace Sys2Proof.Machine

theorem keeps_stopTestRead {z s : State} (h : Keeps z s) (x0 : Nat) (x1 : Nat) : Keeps z (State.stopTestRead s x0 x1) := by
  unfold State.stopTestRead
  try dsimp only
  with_reducible repeat' first | assumption | apply keeps_modEng | apply Keeps.foldl | apply Keeps.ite | (simp only [Keeps.lit_iff]; apply KeepsLit.of <;> first | rfl | skip) | split | omega | dsimp only [id] | (intro)

theorem keeps_mvmOp {z s : State} (h : Keeps z s) (x0 : Nat) (x1 : Nat) : Keeps z (mvmOp x0 x1 s) := by
  unfold mvmOp
  try dsimp only
  with_reducible repeat' first | assumption | apply keeps_enter | apply keeps_stopTestRead | apply keeps_mvmFinish | apply Keeps.foldl | apply Keeps.ite | (simp only [Keeps.lit_iff]; apply KeepsLit.of <;> first | rfl | skip) | split | omega | dsimp only [id] | (intro)

theorem keeps_execMvm {z s : State} (h : Keeps z s) (x0 : Nat) : OutKeeps z (execMvm x0 s) := by
  unfold execMvm
  try dsimp only
  with_reducible repeat' first | assumption | apply OutKeeps.next | apply keeps_issue | apply keeps_mvmOp | apply Keeps.foldl | apply Keeps.ite | (simp only [Keeps.lit_iff]; apply KeepsLit.of <;> first | rfl | skip) | split | omega | dsimp only [id] | (intro)

theorem keeps_readSlot {z s : State} (h : Keeps z s) (x0 : Nat) (x1 : Nat) : Keeps z (State.readSlot s x0 x1) := by
  unfold State.readSlot
  try dsimp only
  with_reducible repeat' first | assumption | apply keeps_corrCommit | apply keeps_commitEng | apply keeps_setEng | apply keeps_drawN | apply keeps_bumpBy | apply keeps_modOp | apply keeps_mvmFinish | apply keeps_commitIdle | apply Keeps.foldl | apply Keeps.ite | (simp only [Keeps.lit_iff]; apply KeepsLit.of <;> first | rfl | skip) | split | omega | dsimp only [id] | (intro)

theorem keeps_execReadSlot {z s : State} (h : Keeps z s) (x0 : Nat) (x1 : Nat) : OutKeeps z (execReadSlot x0 x1 s) := by
  unfold execReadSlot
  try dsimp only
  with_reducible repeat' first | assumption | apply OutKeeps.next | apply keeps_readSlot | apply Keeps.foldl | apply Keeps.ite | (simp only [Keeps.lit_iff]; apply KeepsLit.of <;> first | rfl | skip) | split | omega | dsimp only [id] | (intro)

theorem keeps_mvmAccount {z s : State} (h : Keeps z s) (x0 : Nat) (x1 : Op) (x2 : MvmOp) : Keeps z (State.mvmAccount s x0 x1 x2) := by
  unfold State.mvmAccount
  try dsimp only
  with_reducible repeat' first | assumption | apply keeps_setEng | apply keeps_modOp | apply keeps_modEng | apply keeps_bump | apply keeps_record | apply Keeps.foldl | apply Keeps.ite | (simp only [Keeps.lit_iff]; apply KeepsLit.of <;> first | rfl | skip) | split | omega | dsimp only [id] | (intro)

theorem keeps_rowsDone {z s : State} (h : Keeps z s) (x0 : Nat) (x1 : Nat) : Keeps z (State.rowsDone s x0 x1) := by
  unfold State.rowsDone
  try dsimp only
  with_reducible repeat' first | assumption | apply keeps_mvmAccount | apply keeps_completeOp | apply Keeps.foldl | apply Keeps.ite | (simp only [Keeps.lit_iff]; apply KeepsLit.of <;> first | rfl | skip) | split | omega | dsimp only [id] | (intro)

theorem keeps_tileCommit {z s : State} (h : Keeps z s) (x0 : Nat) (x1 : Nat) : Keeps z (State.tileCommit s x0 x1) := by
  unfold State.tileCommit
  try dsimp only
  with_reducible repeat' first | assumption | apply keeps_rowsDone | apply keeps_commitRow | apply keeps_modOp | apply keeps_modCore | apply keeps_settle | apply Keeps.foldl | apply Keeps.ite | (simp only [Keeps.lit_iff]; apply KeepsLit.of <;> first | rfl | skip) | split | omega | dsimp only [id] | (intro)

theorem keeps_execTileWriteCommit {z s : State} (h : Keeps z s) (x0 : Nat) (x1 : Nat) : OutKeeps z (execTileWriteCommit x0 x1 s) := by
  unfold execTileWriteCommit
  try dsimp only
  with_reducible repeat' first | assumption | apply OutKeeps.next | apply keeps_tileCommit | apply Keeps.foldl | apply Keeps.ite | (simp only [Keeps.lit_iff]; apply KeepsLit.of <;> first | rfl | skip) | split | omega | dsimp only [id] | (intro)

theorem keeps_drainOp {z s : State} (h : Keeps z s) (x0 : Nat) (x1 : Nat) : Keeps z (drainOp x0 x1 s) := by
  unfold drainOp
  try dsimp only
  with_reducible repeat' first | assumption | apply keeps_enterDone | apply keeps_enter | apply keeps_modOp | apply Keeps.foldl | apply Keeps.ite | (simp only [Keeps.lit_iff]; apply KeepsLit.of <;> first | rfl | skip) | split | omega | dsimp only [id] | (intro)

theorem keeps_execDrain {z s : State} (h : Keeps z s) (x0 : Nat) : OutKeeps z (execDrain x0 s) := by
  unfold execDrain
  try dsimp only
  with_reducible repeat' first | assumption | apply OutKeeps.next | apply keeps_issue | apply keeps_drainOp | apply Keeps.foldl | apply Keeps.ite | (simp only [Keeps.lit_iff]; apply KeepsLit.of <;> first | rfl | skip) | split | omega | dsimp only [id] | (intro)

theorem keeps_drainStart {z s : State} (h : Keeps z s) (x0 : Nat) (x1 : Nat) : Keeps z (State.drainStart s x0 x1) := by
  unfold State.drainStart
  try dsimp only
  with_reducible repeat' first | assumption | apply keeps_modOp | apply keeps_clearRow | apply keeps_settle | apply Keeps.foldl | apply Keeps.ite | (simp only [Keeps.lit_iff]; apply KeepsLit.of <;> first | rfl | skip) | split | omega | dsimp only [id] | (intro)

theorem keeps_execDrainStart {z s : State} (h : Keeps z s) (x0 : Nat) (x1 : Nat) : OutKeeps z (execDrainStart x0 x1 s) := by
  unfold execDrainStart
  try dsimp only
  with_reducible repeat' first | assumption | apply OutKeeps.next | apply keeps_drainStart | apply Keeps.foldl | apply Keeps.ite | (simp only [Keeps.lit_iff]; apply KeepsLit.of <;> first | rfl | skip) | split | omega | dsimp only [id] | (intro)

theorem keeps_writeOut {z s : State} (h : Keeps z s) (x0 : Nat) (x1 : Nat) : Keeps z (State.writeOut s x0 x1) := by
  unfold State.writeOut
  try dsimp only
  with_reducible repeat' first | assumption | apply keeps_abWrite | apply keeps_completeOp | apply Keeps.foldl | apply Keeps.ite | (simp only [Keeps.lit_iff]; apply KeepsLit.of <;> first | rfl | skip) | split | omega | dsimp only [id] | (intro)

theorem keeps_drainComplete {z s : State} (h : Keeps z s) (x0 : Nat) (x1 : Nat) : Keeps z (State.drainComplete s x0 x1) := by
  unfold State.drainComplete
  try dsimp only
  with_reducible repeat' first | assumption | apply keeps_writeOut | apply Keeps.foldl | apply Keeps.ite | (simp only [Keeps.lit_iff]; apply KeepsLit.of <;> first | rfl | skip) | split | omega | dsimp only [id] | (intro)

theorem keeps_execDrainComplete {z s : State} (h : Keeps z s) (x0 : Nat) (x1 : Nat) : OutKeeps z (execDrainComplete x0 x1 s) := by
  unfold execDrainComplete
  try dsimp only
  with_reducible repeat' first | assumption | apply OutKeeps.next | apply keeps_drainComplete | apply Keeps.foldl | apply Keeps.ite | (simp only [Keeps.lit_iff]; apply KeepsLit.of <;> first | rfl | skip) | split | omega | dsimp only [id] | (intro)

theorem keeps_dmmOp {z s : State} (h : Keeps z s) (x0 : Nat) (x1 : Nat) : Keeps z (dmmOp x0 x1 s) := by
  unfold dmmOp
  try dsimp only
  with_reducible repeat' first | assumption | apply keeps_enter | apply Keeps.foldl | apply Keeps.ite | (simp only [Keeps.lit_iff]; apply KeepsLit.of <;> first | rfl | skip) | split | omega | dsimp only [id] | (intro)

theorem keeps_execDmm {z s : State} (h : Keeps z s) (x0 : Nat) : OutKeeps z (execDmm x0 s) := by
  unfold execDmm
  try dsimp only
  with_reducible repeat' first | assumption | apply OutKeeps.next | apply keeps_issue | apply keeps_dmmOp | apply Keeps.foldl | apply Keeps.ite | (simp only [Keeps.lit_iff]; apply KeepsLit.of <;> first | rfl | skip) | split | omega | dsimp only [id] | (intro)

theorem keeps_vopOp {z s : State} (h : Keeps z s) (x0 : Nat) (x1 : Nat) : Keeps z (vopOp x0 x1 s) := by
  unfold vopOp
  try dsimp only
  with_reducible repeat' first | assumption | apply keeps_enter | apply Keeps.foldl | apply Keeps.ite | (simp only [Keeps.lit_iff]; apply KeepsLit.of <;> first | rfl | skip) | split | omega | dsimp only [id] | (intro)

theorem keeps_execVop {z s : State} (h : Keeps z s) (x0 : Nat) : OutKeeps z (execVop x0 s) := by
  unfold execVop
  try dsimp only
  with_reducible repeat' first | assumption | apply OutKeeps.next | apply keeps_issue | apply keeps_vopOp | apply Keeps.foldl | apply Keeps.ite | (simp only [Keeps.lit_iff]; apply KeepsLit.of <;> first | rfl | skip) | split | omega | dsimp only [id] | (intro)

theorem keeps_douStart {z s : State} (h : Keeps z s) (x0 : Nat) : Keeps z (State.douStart s x0) := by
  unfold State.douStart
  try dsimp only
  with_reducible repeat' first | assumption | apply keeps_modOp | apply keeps_settle | apply Keeps.foldl | apply Keeps.ite | (simp only [Keeps.lit_iff]; apply KeepsLit.of <;> first | rfl | skip) | split | omega | dsimp only [id] | (intro)

theorem keeps_execDouOpStart {z s : State} (h : Keeps z s) (x0 : Nat) : OutKeeps z (execDouOpStart x0 s) := by
  unfold execDouOpStart
  try dsimp only
  with_reducible repeat' first | assumption | apply OutKeeps.next | apply keeps_douStart | apply Keeps.foldl | apply Keeps.ite | (simp only [Keeps.lit_iff]; apply KeepsLit.of <;> first | rfl | skip) | split | omega | dsimp only [id] | (intro)

theorem keeps_douComplete {z s : State} (h : Keeps z s) (x0 : Nat) : Keeps z (State.douComplete s x0) := by
  unfold State.douComplete
  try dsimp only
  with_reducible repeat' first | assumption | apply keeps_modOp | apply keeps_rowsDone | apply keeps_writeOut | apply Keeps.foldl | apply Keeps.ite | (simp only [Keeps.lit_iff]; apply KeepsLit.of <;> first | rfl | skip) | split | omega | dsimp only [id] | (intro)

theorem keeps_execDouOpComplete {z s : State} (h : Keeps z s) (x0 : Nat) : OutKeeps z (execDouOpComplete x0 s) := by
  unfold execDouOpComplete
  try dsimp only
  with_reducible repeat' first | assumption | apply OutKeeps.next | apply keeps_douComplete | apply Keeps.foldl | apply Keeps.ite | (simp only [Keeps.lit_iff]; apply KeepsLit.of <;> first | rfl | skip) | split | omega | dsimp only [id] | (intro)

theorem keeps_loadOp {z s : State} (h : Keeps z s) (x0 : Nat) (x1 : Nat) : Keeps z (loadOp x0 x1 s) := by
  unfold loadOp
  try dsimp only
  with_reducible repeat' first | assumption | apply keeps_enterDone | apply keeps_enter | apply Keeps.foldl | apply Keeps.ite | (simp only [Keeps.lit_iff]; apply KeepsLit.of <;> first | rfl | skip) | split | omega | dsimp only [id] | (intro)

theorem keeps_execLoad {z s : State} (h : Keeps z s) (x0 : Nat) : OutKeeps z (execLoad x0 s) := by
  unfold execLoad
  try dsimp only
  with_reducible repeat' first | assumption | apply OutKeeps.next | apply keeps_issue | apply keeps_loadOp | apply Keeps.foldl | apply Keeps.ite | (simp only [Keeps.lit_iff]; apply KeepsLit.of <;> first | rfl | skip) | split | omega | dsimp only [id] | (intro)

theorem keeps_storeOp {z s : State} (h : Keeps z s) (x0 : Nat) (x1 : Nat) : Keeps z (storeOp x0 x1 s) := by
  unfold storeOp
  try dsimp only
  with_reducible repeat' first | assumption | apply keeps_enterDone | apply keeps_enter | apply Keeps.foldl | apply Keeps.ite | (simp only [Keeps.lit_iff]; apply KeepsLit.of <;> first | rfl | skip) | split | omega | dsimp only [id] | (intro)

theorem keeps_execStore {z s : State} (h : Keeps z s) (x0 : Nat) : OutKeeps z (execStore x0 s) := by
  unfold execStore
  try dsimp only
  with_reducible repeat' first | assumption | apply OutKeeps.next | apply keeps_issue | apply keeps_storeOp | apply Keeps.foldl | apply Keeps.ite | (simp only [Keeps.lit_iff]; apply KeepsLit.of <;> first | rfl | skip) | split | omega | dsimp only [id] | (intro)

theorem keeps_poisonLines {z s : State} (h : Keeps z s) (x0 : List Nat) (x1 : State → Nat → State) (hx1 : ∀ s i, Keeps z s → Keeps z (x1 s i)) : Keeps z (State.poisonLines s x0 x1) := by
  unfold State.poisonLines
  refine Keeps.foldl h (fun s i k => ?_)
  split
  · exact k
  · exact hx1 _ _ k

theorem keeps_moveComplete {z s : State} (h : Keeps z s) (x0 : Nat) (x1 : Nat) : Keeps z (State.moveComplete s x0 x1) := by
  unfold State.moveComplete
  try dsimp only
  with_reducible repeat' first | assumption | apply keeps_abWrite | apply keeps_completeOp | apply keeps_crossed | apply keeps_linesOver | apply keeps_poisonLines | apply keeps_poisonLine | apply keeps_setCause | apply keeps_dieDrop | apply keeps_poke | apply keeps_poisonAt | apply Keeps.foldl | apply Keeps.ite | (simp only [Keeps.lit_iff]; apply KeepsLit.of <;> first | rfl | skip) | refine keeps_linesOver_of (by assumption) ?_ | split | omega | dsimp only [id] | (intro)

theorem keeps_execMoveComplete {z s : State} (h : Keeps z s) (x0 : Nat) (x1 : Nat) : OutKeeps z (execMoveComplete x0 x1 s) := by
  unfold execMoveComplete
  try dsimp only
  with_reducible repeat' first | assumption | apply OutKeeps.next | apply keeps_moveComplete | apply Keeps.foldl | apply Keeps.ite | (simp only [Keeps.lit_iff]; apply KeepsLit.of <;> first | rfl | skip) | split | omega | dsimp only [id] | (intro)

end Sys2Proof.Machine
end

