-- ==== Sys2Proof/Laws/Mesh.lean ====
section
/-! SUPPORT. What the operations of Machine/Mesh.lean keep (Laws/Keeps.lean), one lemma for each. -/

set_option linter.unusedTactic false
set_option linter.unreachableTactic false
set_option linter.unusedSimpArgs false

namespace Sys2Proof.Machine

theorem keeps_sendOp {z s : State} (h : Keeps z s) (x0 : Nat) (x1 : Nat) : Keeps z (sendOp x0 x1 s) := by
  unfold sendOp
  try dsimp only
  with_reducible repeat' first | assumption | apply keeps_enter | apply Keeps.foldl | apply Keeps.ite | (simp only [Keeps.lit_iff]; apply KeepsLit.of <;> first | rfl | skip) | split | omega | dsimp only [id] | (intro)

theorem keeps_execSend {z s : State} (h : Keeps z s) (x0 : Nat) : OutKeeps z (execSend x0 s) := by
  unfold execSend
  try dsimp only
  with_reducible repeat' first | assumption | apply OutKeeps.next | apply keeps_issue | apply keeps_sendOp | apply Keeps.foldl | apply Keeps.ite | (simp only [Keeps.lit_iff]; apply KeepsLit.of <;> first | rfl | skip) | split | omega | dsimp only [id] | (intro)

theorem keeps_recvOp {z s : State} (h : Keeps z s) (x0 : Nat) (x1 : Nat) : Keeps z (recvOp x0 x1 s) := by
  unfold recvOp
  try dsimp only
  with_reducible repeat' first | assumption | apply keeps_enter | apply Keeps.foldl | apply Keeps.ite | (simp only [Keeps.lit_iff]; apply KeepsLit.of <;> first | rfl | skip) | split | omega | dsimp only [id] | (intro)

theorem keeps_execRecv {z s : State} (h : Keeps z s) (x0 : Nat) : OutKeeps z (execRecv x0 s) := by
  unfold execRecv
  try dsimp only
  with_reducible repeat' first | assumption | apply OutKeeps.next | apply keeps_issue | apply keeps_recvOp | apply Keeps.foldl | apply Keeps.ite | (simp only [Keeps.lit_iff]; apply KeepsLit.of <;> first | rfl | skip) | split | omega | dsimp only [id] | (intro)

theorem keeps_setMsgs {z s : State} (h : Keeps z s) (x0 : List Msg) : Keeps z (State.setMsgs s x0) := by
  unfold State.setMsgs
  try dsimp only
  with_reducible repeat' first | assumption | apply Keeps.foldl | apply Keeps.ite | (simp only [Keeps.lit_iff]; apply KeepsLit.of <;> first | rfl | skip) | split | omega | dsimp only [id] | (intro)

theorem keeps_answer {z s : State} (h : Keeps z s) (x0 : Msg) (x1 : Nat) : Keeps z (State.answer s x0 x1) := by
  unfold State.answer
  try dsimp only
  with_reducible repeat' first | assumption | apply keeps_setMsgs | apply Keeps.foldl | apply Keeps.ite | (simp only [Keeps.lit_iff]; apply KeepsLit.of <;> first | rfl | skip) | split | omega | dsimp only [id] | (intro)

theorem keeps_countRefusal {z s : State} (h : Keeps z s) (x0 : Msg) (x1 : Nat) : Keeps z (State.countRefusal s x0 x1) := by
  unfold State.countRefusal
  try dsimp only
  with_reducible repeat' first | assumption | apply keeps_crossDrop | apply keeps_bump | apply keeps_record | apply Keeps.foldl | apply Keeps.ite | (simp only [Keeps.lit_iff]; apply KeepsLit.of <;> first | rfl | skip) | split | omega | dsimp only [id] | (intro)

theorem keeps_creditUsed {z s : State} (h : Keeps z s) (x0 : Msg) (x1 : Nat) : Keeps z (State.creditUsed s x0 x1) := by
  unfold State.creditUsed
  try dsimp only
  with_reducible repeat' first | assumption | apply keeps_modPort | apply Keeps.foldl | apply Keeps.ite | (simp only [Keeps.lit_iff]; apply KeepsLit.of <;> first | rfl | skip) | split | omega | dsimp only [id] | (intro)

theorem keeps_deliverData {z s : State} (h : Keeps z s) (x0 : Msg) : Keeps z (State.deliverData s x0) := by
  unfold State.deliverData
  try dsimp only
  with_reducible repeat' first | assumption | apply keeps_modComm | apply keeps_creditUsed | apply keeps_modOp | apply keeps_settle | apply Keeps.foldl | apply Keeps.ite | (simp only [Keeps.lit_iff]; apply KeepsLit.of <;> first | rfl | skip) | split | omega | dsimp only [id] | (intro)

theorem keeps_deliverCredit {z s : State} (h : Keeps z s) (x0 : Msg) : Keeps z (State.deliverCredit s x0) := by
  unfold State.deliverCredit
  try dsimp only
  with_reducible repeat' first | assumption | apply keeps_modComm | apply keeps_settle | apply Keeps.foldl | apply Keeps.ite | (simp only [Keeps.lit_iff]; apply KeepsLit.of <;> first | rfl | skip) | split | omega | dsimp only [id] | (intro)

theorem keeps_arrive {z s : State} (h : Keeps z s) (x0 : Msg) : Keeps z (State.arrive s x0) := by
  unfold State.arrive
  try dsimp only
  with_reducible repeat' first | assumption | apply keeps_deliverCredit | apply keeps_deliverData | apply keeps_answer | apply keeps_countRefusal | apply Keeps.foldl | apply Keeps.ite | (simp only [Keeps.lit_iff]; apply KeepsLit.of <;> first | rfl | skip) | split | omega | dsimp only [id] | (intro)

theorem keeps_arriveFirst {z s : State} (h : Keeps z s) (x0 : Nat) (x1 : Nat) (x2 : Nat) : Keeps z (State.arriveFirst s x0 x1 x2) := by
  unfold State.arriveFirst
  try dsimp only
  with_reducible repeat' first | assumption | apply keeps_way | apply keeps_setMsgs | apply keeps_dieDrop | apply keeps_answer | apply keeps_arrive | apply Keeps.foldl | apply Keeps.ite | (simp only [Keeps.lit_iff]; apply KeepsLit.of <;> first | rfl | skip) | refine keeps_way_of (by assumption) ?_ | split | omega | dsimp only [id] | (intro)

theorem keeps_execDataMessage {z s : State} (h : Keeps z s) (x0 : Nat) (x1 : Nat) : OutKeeps z (execDataMessage x0 x1 s) := by
  unfold execDataMessage
  try dsimp only
  with_reducible repeat' first | assumption | apply OutKeeps.next | apply keeps_arriveFirst | apply Keeps.foldl | apply Keeps.ite | (simp only [Keeps.lit_iff]; apply KeepsLit.of <;> first | rfl | skip) | split | omega | dsimp only [id] | (intro)

theorem keeps_execCredit {z s : State} (h : Keeps z s) (x0 : Nat) (x1 : Nat) : OutKeeps z (execCredit x0 x1 s) := by
  unfold execCredit
  try dsimp only
  with_reducible repeat' first | assumption | apply OutKeeps.next | apply keeps_arriveFirst | apply Keeps.foldl | apply Keeps.ite | (simp only [Keeps.lit_iff]; apply KeepsLit.of <;> first | rfl | skip) | split | omega | dsimp only [id] | (intro)

theorem keeps_returnHeader {z s : State} (h : Keeps z s) (x0 : Nat) (x1 : Msg) : Keeps z (State.returnHeader s x0 x1) := by
  unfold State.returnHeader
  try dsimp only
  with_reducible repeat' first | assumption | apply keeps_modComm | apply keeps_bump | apply Keeps.foldl | apply Keeps.ite | (simp only [Keeps.lit_iff]; apply KeepsLit.of <;> first | rfl | skip) | split | omega | dsimp only [id] | (intro)

theorem keeps_deliverResult {z s : State} (h : Keeps z s) (x0 : Nat) (x1 : Nat) (x2 : Msg) : Keeps z (State.deliverResult s x0 x1 x2) := by
  unfold State.deliverResult
  try dsimp only
  with_reducible repeat' first | assumption | apply keeps_countRefusal | apply keeps_returnHeader | apply keeps_completeOp | apply keeps_modComm | apply Keeps.foldl | apply Keeps.ite | (simp only [Keeps.lit_iff]; apply KeepsLit.of <;> first | rfl | skip) | split | omega | dsimp only [id] | (intro)

theorem keeps_resultArrives {z s : State} (h : Keeps z s) (x0 : Nat) (x1 : Nat) : Keeps z (State.resultArrives s x0 x1) := by
  unfold State.resultArrives
  try dsimp only
  with_reducible repeat' first | assumption | apply keeps_way | apply keeps_setMsgs | apply keeps_dieDrop | apply keeps_deliverResult | apply Keeps.foldl | apply Keeps.ite | (simp only [Keeps.lit_iff]; apply KeepsLit.of <;> first | rfl | skip) | refine keeps_way_of (by assumption) ?_ | split | omega | dsimp only [id] | (intro)

theorem keeps_execDeliveryResult {z s : State} (h : Keeps z s) (x0 : Nat) (x1 : Nat) : OutKeeps z (execDeliveryResult x0 x1 s) := by
  unfold execDeliveryResult
  try dsimp only
  with_reducible repeat' first | assumption | apply OutKeeps.next | apply keeps_resultArrives | apply Keeps.foldl | apply Keeps.ite | (simp only [Keeps.lit_iff]; apply KeepsLit.of <;> first | rfl | skip) | split | omega | dsimp only [id] | (intro)

theorem keeps_putSync {z s : State} (h : Keeps z s) (x0 : SyncUpd) : Keeps z (State.putSync s x0) := by
  unfold State.putSync
  try dsimp only
  with_reducible repeat' first | assumption | apply keeps_setSync | apply Keeps.foldl | apply Keeps.ite | (simp only [Keeps.lit_iff]; apply KeepsLit.of <;> first | rfl | skip) | split | omega | dsimp only [id] | (intro)

theorem keeps_applySync {z s : State} (h : Keeps z s) (x0 : SyncUpd) : Keeps z (State.applySync s x0) := by
  unfold State.applySync
  try dsimp only
  with_reducible repeat' first | assumption | apply keeps_poisonWord | apply keeps_putSync | apply keeps_completeOp | apply Keeps.foldl | apply Keeps.ite | (simp only [Keeps.lit_iff]; apply KeepsLit.of <;> first | rfl | skip) | split | omega | dsimp only [id] | (intro)

theorem keeps_syncUpdate {z s : State} (h : Keeps z s) (x0 : Nat) : Keeps z (State.syncUpdate s x0) := by
  unfold State.syncUpdate
  try dsimp only
  with_reducible repeat' first | assumption | apply keeps_way | apply keeps_dieDrop | apply keeps_applySync | apply Keeps.foldl | apply Keeps.ite | (simp only [Keeps.lit_iff]; apply KeepsLit.of <;> first | rfl | skip) | refine keeps_way_of (by assumption) ?_ | split | omega | dsimp only [id] | (intro)

theorem keeps_execSyncUpdate {z s : State} (h : Keeps z s) (x0 : Nat) : OutKeeps z (execSyncUpdate x0 s) := by
  unfold execSyncUpdate
  try dsimp only
  with_reducible repeat' first | assumption | apply OutKeeps.next | apply keeps_syncUpdate | apply Keeps.foldl | apply Keeps.ite | (simp only [Keeps.lit_iff]; apply KeepsLit.of <;> first | rfl | skip) | split | omega | dsimp only [id] | (intro)

theorem keeps_waitDone {z s : State} (h : Keeps z s) (x0 : Nat) (x1 : Op) (x2 : Nat) (x3 : Nat) (x4 : Option Nat) : Keeps z (State.waitDone s x0 x1 x2 x3 x4) := by
  unfold State.waitDone
  try dsimp only
  with_reducible repeat' first | assumption | apply keeps_modSeq | apply keeps_finishOp | apply keeps_setFault | apply keeps_settle | apply Keeps.foldl | apply Keeps.ite | (simp only [Keeps.lit_iff]; apply KeepsLit.of <;> first | rfl | skip) | split | omega | dsimp only [id] | (intro)

theorem keeps_syncAnswer {z s : State} (h : Keeps z s) (x0 : Nat) (x1 : Op) : Keeps z (State.syncAnswer s x0 x1) := by
  unfold State.syncAnswer
  try dsimp only
  with_reducible repeat' first | assumption | apply keeps_waitDone | apply keeps_modSeq | apply keeps_completeOp | apply Keeps.foldl | apply Keeps.ite | (simp only [Keeps.lit_iff]; apply KeepsLit.of <;> first | rfl | skip) | split | omega | dsimp only [id] | (intro)

theorem keeps_syncShut {z s : State} (h : Keeps z s) (x0 : Nat) (x1 : Op) : Keeps z (State.syncShut s x0 x1) := by
  unfold State.syncShut
  try dsimp only
  with_reducible repeat' first | assumption | apply keeps_modSeq | apply keeps_completeOp | apply Keeps.foldl | apply Keeps.ite | (simp only [Keeps.lit_iff]; apply KeepsLit.of <;> first | rfl | skip) | split | omega | dsimp only [id] | (intro)

theorem keeps_syncResponse {z s : State} (h : Keeps z s) (x0 : Nat) : Keeps z (State.syncResponse s x0) := by
  unfold State.syncResponse
  try dsimp only
  with_reducible repeat' first | assumption | apply keeps_way | apply keeps_syncShut | apply keeps_syncAnswer | apply Keeps.foldl | apply Keeps.ite | (simp only [Keeps.lit_iff]; apply KeepsLit.of <;> first | rfl | skip) | refine keeps_way_of (by assumption) ?_ | split | omega | dsimp only [id] | (intro)

theorem keeps_execSyncResponse {z s : State} (h : Keeps z s) (x0 : Nat) : OutKeeps z (execSyncResponse x0 s) := by
  unfold execSyncResponse
  try dsimp only
  with_reducible repeat' first | assumption | apply OutKeeps.next | apply keeps_syncResponse | apply Keeps.foldl | apply Keeps.ite | (simp only [Keeps.lit_iff]; apply KeepsLit.of <;> first | rfl | skip) | split | omega | dsimp only [id] | (intro)

theorem keeps_frameOverwrite {z s : State} (h : Keeps z s) (x0 : Nat) (x1 : Nat) (x2 : Nat) (x3 : Nat) (x4 : List Nat) : Keeps z (State.frameOverwrite s x0 x1 x2 x3 x4) := by
  unfold State.frameOverwrite
  try dsimp only
  with_reducible repeat' first | assumption | apply keeps_bump | apply keeps_record | apply Keeps.foldl | apply Keeps.ite | (simp only [Keeps.lit_iff]; apply KeepsLit.of <;> first | rfl | skip) | split | omega | dsimp only [id] | (intro)

theorem keeps_refuseFrame {z s : State} (h : Keeps z s) (x0 : Nat) (x1 : FrameMsg) : Keeps z (State.refuseFrame s x0 x1) := by
  unfold State.refuseFrame
  try dsimp only
  with_reducible repeat' first | assumption | apply keeps_bump | apply keeps_record | apply Keeps.foldl | apply Keeps.ite | (simp only [Keeps.lit_iff]; apply KeepsLit.of <;> first | rfl | skip) | split | omega | dsimp only [id] | (intro)

theorem keeps_writeFrame {z s : State} (h : Keeps z s) (x0 : Nat) (x1 : Nat) (x2 : FrameMsg) : Keeps z (State.writeFrame s x0 x1 x2) := by
  unfold State.writeFrame
  try dsimp only
  with_reducible repeat' first | assumption | apply keeps_refuseFrame | apply keeps_crossDrop | apply keeps_frameOverwrite | apply keeps_abWrite | apply keeps_poisonLine | apply keeps_bump | apply keeps_modCore | apply keeps_applySync | apply Keeps.foldl | apply Keeps.ite | (simp only [Keeps.lit_iff]; apply KeepsLit.of <;> first | rfl | skip) | split | omega | dsimp only [id] | (intro)

theorem keeps_frameArrives {z s : State} (h : Keeps z s) (x0 : Nat) (x1 : Nat) : Keeps z (State.frameArrives s x0 x1) := by
  unfold State.frameArrives
  try dsimp only
  with_reducible repeat' first | assumption | apply keeps_way | apply keeps_dieDrop | apply keeps_writeFrame | apply Keeps.foldl | apply Keeps.ite | (simp only [Keeps.lit_iff]; apply KeepsLit.of <;> first | rfl | skip) | refine keeps_way_of (by assumption) ?_ | split | omega | dsimp only [id] | (intro)

theorem keeps_execFrameWindowWrite {z s : State} (h : Keeps z s) (x0 : Nat) (x1 : Nat) : OutKeeps z (execFrameWindowWrite x0 x1 s) := by
  unfold execFrameWindowWrite
  try dsimp only
  with_reducible repeat' first | assumption | apply OutKeeps.next | apply keeps_frameArrives | apply Keeps.foldl | apply Keeps.ite | (simp only [Keeps.lit_iff]; apply KeepsLit.of <;> first | rfl | skip) | split | omega | dsimp only [id] | (intro)

theorem keeps_waittDone {z s : State} (h : Keeps z s) (x0 : Nat) : Keeps z (State.waittDone s x0) := by
  unfold State.waittDone
  try dsimp only
  with_reducible repeat' first | assumption | apply keeps_completeOp | apply Keeps.foldl | apply Keeps.ite | (simp only [Keeps.lit_iff]; apply KeepsLit.of <;> first | rfl | skip) | split | omega | dsimp only [id] | (intro)

theorem keeps_execGtcReachesTarget {z s : State} (h : Keeps z s) (x0 : Nat) : OutKeeps z (execGtcReachesTarget x0 s) := by
  unfold execGtcReachesTarget
  try dsimp only
  with_reducible repeat' first | assumption | apply OutKeeps.next | apply keeps_waittDone | apply Keeps.foldl | apply Keeps.ite | (simp only [Keeps.lit_iff]; apply KeepsLit.of <;> first | rfl | skip) | split | omega | dsimp only [id] | (intro)

end Sys2Proof.Machine
end

