-- ==== Sys2Proof/Laws/Engines.lean ====
section
/-! SUPPORT. What the operations of Machine/Engines.lean keep (Laws/Keeps.lean), one lemma for each. -/

set_option linter.unusedTactic false
set_option linter.unreachableTactic false
set_option linter.unusedSimpArgs false

namespace Sys2Proof.Machine

theorem keeps_hostCore {z s : State} (h : Keeps z s) (x0 : Nat) (x1 : Nat) (x2 : State → State) (hx2 : ∀ s, Keeps z s → Keeps z (x2 s)) : Keeps z (State.hostCore s x0 x1 x2) := by
  unfold State.hostCore
  try dsimp only
  with_reducible repeat' first | assumption | apply hx2 | apply keeps_dieDrop | apply keeps_crossDrop | apply keeps_crossed | apply keeps_overBridge | apply Keeps.foldl | apply Keeps.ite | (simp only [Keeps.lit_iff]; apply KeepsLit.of <;> first | rfl | skip) | split | omega | dsimp only [id] | (intro)

theorem keeps_setCorrCommit {z s : State} (h : Keeps z s) (x0 : Nat) (x1 : Nat) : Keeps z (State.setCorrCommit s x0 x1) := by
  unfold State.setCorrCommit
  try dsimp only
  with_reducible repeat' first | assumption | apply keeps_modEng | apply keeps_corrCommit | apply keeps_commitIdle | apply Keeps.foldl | apply Keeps.ite | (simp only [Keeps.lit_iff]; apply KeepsLit.of <;> first | rfl | skip) | split | omega | dsimp only [id] | (intro)

theorem keeps_corrCommit {z s : State} (h : Keeps z s) (x0 : Nat) (x1 : Nat) : Keeps z (State.corrCommit s x0 x1) := by
  unfold State.corrCommit
  try dsimp only
  with_reducible repeat' first | assumption | apply keeps_hostCore | apply keeps_setCorrCommit | apply Keeps.foldl | apply Keeps.ite | (simp only [Keeps.lit_iff]; apply KeepsLit.of <;> first | rfl | skip) | split | omega | dsimp only [id] | (intro)

theorem keeps_anaCommit {z s : State} (h : Keeps z s) (x0 : Nat) : Keeps z (State.anaCommit s x0) := by
  unfold State.anaCommit
  try dsimp only
  with_reducible repeat' first | assumption | apply keeps_hostCore | apply keeps_modCore | apply Keeps.foldl | apply Keeps.ite | (simp only [Keeps.lit_iff]; apply KeepsLit.of <;> first | rfl | skip) | split | omega | dsimp only [id] | (intro)

theorem keeps_stageRepair {z s : State} (h : Keeps z s) (x0 : Nat) (x1 : Nat) (x2 : Nat) : Keeps z (State.stageRepair s x0 x1 x2) := by
  unfold State.stageRepair
  try dsimp only
  with_reducible repeat' first | assumption | apply keeps_modEng | apply Keeps.foldl | apply Keeps.ite | (simp only [Keeps.lit_iff]; apply KeepsLit.of <;> first | rfl | skip) | split | omega | dsimp only [id] | (intro)

theorem keeps_repairMapWrite {z s : State} (h : Keeps z s) (x0 : Nat) (x1 : Nat) (x2 : Nat) : Keeps z (State.repairMapWrite s x0 x1 x2) := by
  unfold State.repairMapWrite
  try dsimp only
  with_reducible repeat' first | assumption | apply keeps_hostCore | apply keeps_stageRepair | apply Keeps.foldl | apply Keeps.ite | (simp only [Keeps.lit_iff]; apply KeepsLit.of <;> first | rfl | skip) | split | omega | dsimp only [id] | (intro)

theorem keeps_ctrlWrite {z s : State} (h : Keeps z s) (x0 : Nat) (x1 : Nat) (x2 : Nat) : Keeps z (State.ctrlWrite s x0 x1 x2) := by
  unfold State.ctrlWrite
  try dsimp only
  with_reducible repeat' first | assumption | apply keeps_modEng | apply keeps_setCorrCommit | apply Keeps.foldl | apply Keeps.ite | (simp only [Keeps.lit_iff]; apply KeepsLit.of <;> first | rfl | skip) | split | omega | dsimp only [id] | (intro)

theorem keeps_engWrite {z s : State} (h : Keeps z s) (x0 : Nat) (x1 : Nat) (x2 : Nat) (x3 : Nat → Nat) : Keeps z (State.engWrite s x0 x1 x2 x3) := by
  unfold State.engWrite
  try dsimp only
  with_reducible repeat' first | assumption | apply keeps_ctrlWrite | apply keeps_modEng | apply keeps_stageRepair | apply keeps_staged | apply Keeps.foldl | apply Keeps.ite | (simp only [Keeps.lit_iff]; apply KeepsLit.of <;> first | rfl | skip) | split | omega | dsimp only [id] | (intro)

theorem keeps_localWrite {z s : State} (h : Keeps z s) (x0 : Nat) (x1 : Nat) (x2 : List Byte) : Keeps z (State.localWrite s x0 x1 x2) := by
  unfold State.localWrite
  try dsimp only
  with_reducible repeat' first | assumption | apply keeps_poke | apply keeps_engWrite | apply keeps_modCore | apply keeps_bump | apply Keeps.foldl | apply Keeps.ite | (simp only [Keeps.lit_iff]; apply KeepsLit.of <;> first | rfl | skip) | split | omega | dsimp only [id] | (intro)

theorem keeps_coreWrite {z s : State} (h : Keeps z s) (x0 : Nat) (x1 : Nat) (x2 : List Byte) : Keeps z (State.coreWrite s x0 x1 x2) := by
  unfold State.coreWrite
  try dsimp only
  with_reducible repeat' first | assumption | apply keeps_hostCore | apply keeps_localWrite | apply Keeps.foldl | apply Keeps.ite | (simp only [Keeps.lit_iff]; apply KeepsLit.of <;> first | rfl | skip) | split | omega | dsimp only [id] | (intro)

theorem keeps_execHostLocalWrite {z s : State} (h : Keeps z s) (x0 : Nat) (x1 : Nat) (x2 : List Byte) : OutKeeps z (execHostLocalWrite x0 x1 x2 s) := by
  unfold execHostLocalWrite
  try dsimp only
  with_reducible repeat' first | assumption | apply OutKeeps.next | apply keeps_coreWrite | apply Keeps.foldl | apply Keeps.ite | (simp only [Keeps.lit_iff]; apply KeepsLit.of <;> first | rfl | skip) | split | omega | dsimp only [id] | (intro)

theorem keeps_execCorrCommit {z s : State} (h : Keeps z s) (x0 : Nat) (x1 : Nat) : OutKeeps z (execCorrCommit x0 x1 s) := by
  unfold execCorrCommit
  try dsimp only
  with_reducible repeat' first | assumption | apply OutKeeps.next | apply keeps_corrCommit | apply Keeps.foldl | apply Keeps.ite | (simp only [Keeps.lit_iff]; apply KeepsLit.of <;> first | rfl | skip) | split | omega | dsimp only [id] | (intro)

theorem keeps_execCorrCommitEffect {z s : State} (h : Keeps z s) (x0 : Nat) (x1 : Nat) : OutKeeps z (execCorrCommitEffect x0 x1 s) := by
  unfold execCorrCommitEffect
  try dsimp only
  with_reducible repeat' first | assumption | apply OutKeeps.next | apply keeps_commitIdle | apply Keeps.foldl | apply Keeps.ite | (simp only [Keeps.lit_iff]; apply KeepsLit.of <;> first | rfl | skip) | split | omega | dsimp only [id] | (intro)

theorem keeps_execAnaCommit {z s : State} (h : Keeps z s) (x0 : Nat) : OutKeeps z (execAnaCommit x0 s) := by
  unfold execAnaCommit
  try dsimp only
  with_reducible repeat' first | assumption | apply OutKeeps.next | apply keeps_anaCommit | apply Keeps.foldl | apply Keeps.ite | (simp only [Keeps.lit_iff]; apply KeepsLit.of <;> first | rfl | skip) | split | omega | dsimp only [id] | (intro)

theorem keeps_anaIdle {z s : State} (h : Keeps z s) (x0 : Nat) : Keeps z (State.anaIdle s x0) := by
  unfold State.anaIdle
  try dsimp only
  with_reducible repeat' first | assumption | apply keeps_anaEffect | apply Keeps.foldl | apply Keeps.ite | (simp only [Keeps.lit_iff]; apply KeepsLit.of <;> first | rfl | skip) | split | omega | dsimp only [id] | (intro)

theorem keeps_execAnaCommitEffect {z s : State} (h : Keeps z s) (x0 : Nat) : OutKeeps z (execAnaCommitEffect x0 s) := by
  unfold execAnaCommitEffect
  try dsimp only
  with_reducible repeat' first | assumption | apply OutKeeps.next | apply keeps_anaIdle | apply Keeps.foldl | apply Keeps.ite | (simp only [Keeps.lit_iff]; apply KeepsLit.of <;> first | rfl | skip) | split | omega | dsimp only [id] | (intro)

theorem keeps_execRepairMapWrite {z s : State} (h : Keeps z s) (x0 : Nat) (x1 : Nat) (x2 : Nat) : OutKeeps z (execRepairMapWrite x0 x1 x2 s) := by
  unfold execRepairMapWrite
  try dsimp only
  with_reducible repeat' first | assumption | apply OutKeeps.next | apply keeps_repairMapWrite | apply Keeps.foldl | apply Keeps.ite | (simp only [Keeps.lit_iff]; apply KeepsLit.of <;> first | rfl | skip) | split | omega | dsimp only [id] | (intro)

theorem keeps_noteDefect {z s : State} (h : Keeps z s) (x0 : Defect) : Keeps z (State.noteDefect s x0) := by
  unfold State.noteDefect
  try dsimp only
  with_reducible repeat' first | assumption | apply keeps_bump | apply keeps_modEng | apply Keeps.foldl | apply Keeps.ite | (simp only [Keeps.lit_iff]; apply KeepsLit.of <;> first | rfl | skip) | split | omega | dsimp only [id] | (intro)

theorem keeps_noteDevices {z s : State} (h : Keeps z s) (x0 : Nat) (x1 : Nat) (x2 : List (Nat × Nat × Int)) : Keeps z (State.noteDevices s x0 x1 x2) := by
  unfold State.noteDevices
  try dsimp only
  with_reducible repeat' first | assumption | apply keeps_noteDefect | apply Keeps.foldl | apply Keeps.ite | (simp only [Keeps.lit_iff]; apply KeepsLit.of <;> first | rfl | skip) | split | omega | dsimp only [id] | (intro)

theorem keeps_noteProgrammed {z s : State} (h : Keeps z s) (x0 : Nat) (x1 : Nat) (x2 : List (Nat × Nat × Int)) : Keeps z (State.noteProgrammed s x0 x1 x2) := by
  unfold State.noteProgrammed
  try dsimp only
  with_reducible repeat' first | assumption | apply keeps_noteDefect | apply Keeps.foldl | apply Keeps.ite | (simp only [Keeps.lit_iff]; apply KeepsLit.of <;> first | rfl | skip) | split | omega | dsimp only [id] | (intro)

theorem keeps_testRead {z s : State} (h : Keeps z s) (x0 : Nat) (x1 : Nat) : Keeps z (State.testRead s x0 x1) := by
  unfold State.testRead
  try dsimp only
  with_reducible repeat' first | assumption | apply keeps_setEng | apply keeps_drawN | apply Keeps.foldl | apply Keeps.ite | (simp only [Keeps.lit_iff]; apply KeepsLit.of <;> first | rfl | skip) | split | omega | dsimp only [id] | (intro)

theorem keeps_execTestRead {z s : State} (h : Keeps z s) (x0 : Nat) (x1 : Nat) : OutKeeps z (execTestRead x0 x1 s) := by
  unfold execTestRead
  try dsimp only
  with_reducible repeat' first | assumption | apply OutKeeps.next | apply keeps_testRead | apply Keeps.foldl | apply Keeps.ite | (simp only [Keeps.lit_iff]; apply KeepsLit.of <;> first | rfl | skip) | split | omega | dsimp only [id] | (intro)

theorem keeps_engState {z s : State} (h : Keeps z s) (x0 : Nat) (x1 : Nat) (x2 : EngState) : Keeps z (State.engState s x0 x1 x2) := by
  unfold State.engState
  try dsimp only
  with_reducible repeat' first | assumption | apply keeps_setEng | apply keeps_record | apply Keeps.foldl | apply Keeps.ite | (simp only [Keeps.lit_iff]; apply KeepsLit.of <;> first | rfl | skip) | split | omega | dsimp only [id] | (intro)

theorem keeps_maskRetire {z s : State} (h : Keeps z s) (x0 : Nat) (x1 : Nat) : Keeps z (State.maskRetire s x0 x1) := by
  unfold State.maskRetire
  try dsimp only
  with_reducible repeat' first | assumption | apply keeps_engState | apply Keeps.foldl | apply Keeps.ite | (simp only [Keeps.lit_iff]; apply KeepsLit.of <;> first | rfl | skip) | split | omega | dsimp only [id] | (intro)

theorem keeps_stuckDevice {z s : State} (h : Keeps z s) (x0 : Nat) (x1 : Nat) (x2 : Nat) (x3 : Nat) : Keeps z (State.stuckDevice s x0 x1 x2 x3) := by
  unfold State.stuckDevice
  try dsimp only
  with_reducible repeat' first | assumption | apply keeps_setEng | apply keeps_noteDevices | apply keeps_maskRetire | apply Keeps.foldl | apply Keeps.ite | (simp only [Keeps.lit_iff]; apply KeepsLit.of <;> first | rfl | skip) | split | omega | dsimp only [id] | (intro)

theorem keeps_testRound {z s : State} (h : Keeps z s) (x0 : Nat) (x1 : Nat) : Keeps z (State.testRound s x0 x1) := by
  unfold State.testRound
  try dsimp only
  with_reducible repeat' first | assumption | apply keeps_setEng | apply keeps_maskRetire | apply Keeps.foldl | apply Keeps.ite | (simp only [Keeps.lit_iff]; apply KeepsLit.of <;> first | rfl | skip) | split | omega | dsimp only [id] | (intro)

theorem keeps_execTestRoundComplete {z s : State} (h : Keeps z s) (x0 : Nat) (x1 : Nat) : OutKeeps z (execTestRoundComplete x0 x1 s) := by
  unfold execTestRoundComplete
  try dsimp only
  with_reducible repeat' first | assumption | apply OutKeeps.next | apply keeps_testRound | apply Keeps.foldl | apply Keeps.ite | (simp only [Keeps.lit_iff]; apply KeepsLit.of <;> first | rfl | skip) | split | omega | dsimp only [id] | (intro)

theorem keeps_testNow {z s : State} (h : Keeps z s) (x0 : Nat) (x1 : Nat) : Keeps z (State.testNow s x0 x1) := by
  unfold State.testNow
  try dsimp only
  with_reducible repeat' first | assumption | apply keeps_setEng | apply keeps_drawN | apply keeps_maskRetire | apply Keeps.foldl | apply Keeps.ite | (simp only [Keeps.lit_iff]; apply KeepsLit.of <;> first | rfl | skip) | split | omega | dsimp only [id] | (intro)

theorem keeps_renewCheck {z s : State} (h : Keeps z s) (x0 : Nat) (x1 : Nat) : Keeps z (State.renewCheck s x0 x1) := by
  unfold State.renewCheck
  try dsimp only
  with_reducible repeat' first | assumption | apply keeps_engState | apply Keeps.foldl | apply Keeps.ite | (simp only [Keeps.lit_iff]; apply KeepsLit.of <;> first | rfl | skip) | split | omega | dsimp only [id] | (intro)

theorem keeps_trackUpdate {z s : State} (h : Keeps z s) (x0 : Nat) (x1 : Nat) : Keeps z (State.trackUpdate s x0 x1) := by
  unfold State.trackUpdate
  try dsimp only
  with_reducible repeat' first | assumption | apply keeps_modEng | apply keeps_bump | apply keeps_staged | apply keeps_setEng | apply keeps_commitIdle | apply keeps_renewCheck | apply Keeps.foldl | apply Keeps.ite | (simp only [Keeps.lit_iff]; apply KeepsLit.of <;> first | rfl | skip) | split | omega | dsimp only [id] | (intro)

theorem keeps_execTrackUpdate {z s : State} (h : Keeps z s) (x0 : Nat) (x1 : Nat) : OutKeeps z (execTrackUpdate x0 x1 s) := by
  unfold execTrackUpdate
  try dsimp only
  with_reducible repeat' first | assumption | apply OutKeeps.next | apply keeps_trackUpdate | apply Keeps.foldl | apply Keeps.ite | (simp only [Keeps.lit_iff]; apply KeepsLit.of <;> first | rfl | skip) | split | omega | dsimp only [id] | (intro)

theorem keeps_trackForced {z s : State} (h : Keeps z s) (x0 : Nat) (x1 : Nat) : Keeps z (State.trackForced s x0 x1) := by
  unfold State.trackForced
  try dsimp only
  with_reducible repeat' first | assumption | apply keeps_setEng | apply keeps_corrCommit | apply keeps_commitIdle | apply Keeps.foldl | apply Keeps.ite | (simp only [Keeps.lit_iff]; apply KeepsLit.of <;> first | rfl | skip) | split | omega | dsimp only [id] | (intro)

theorem keeps_execTrackerForcedCommit {z s : State} (h : Keeps z s) (x0 : Nat) (x1 : Nat) : OutKeeps z (execTrackerForcedCommit x0 x1 s) := by
  unfold execTrackerForcedCommit
  try dsimp only
  with_reducible repeat' first | assumption | apply OutKeeps.next | apply keeps_trackForced | apply Keeps.foldl | apply Keeps.ite | (simp only [Keeps.lit_iff]; apply KeepsLit.of <;> first | rfl | skip) | split | omega | dsimp only [id] | (intro)

theorem keeps_persistTe {z s : State} (h : Keeps z s) : Keeps z (State.persistTe s) := by
  unfold State.persistTe
  try dsimp only
  with_reducible repeat' first | assumption | apply Keeps.foldl | apply Keeps.ite | (simp only [Keeps.lit_iff]; apply KeepsLit.of <;> first | rfl | skip) | split | omega | dsimp only [id] | (intro)

theorem keeps_teHour {z s : State} (h : Keeps z s) : Keeps z (State.teHour s) := by
  unfold State.teHour
  try dsimp only
  with_reducible repeat' first | assumption | apply keeps_persistTe | apply Keeps.foldl | apply Keeps.ite | (simp only [Keeps.lit_iff]; apply KeepsLit.of <;> first | rfl | skip) | split | omega | dsimp only [id] | (intro)

theorem keeps_execTePersist {z s : State} (h : Keeps z s) : OutKeeps z (execTePersist s) := by
  unfold execTePersist
  try dsimp only
  with_reducible repeat' first | assumption | apply OutKeeps.next | apply keeps_teHour | apply Keeps.foldl | apply Keeps.ite | (simp only [Keeps.lit_iff]; apply KeepsLit.of <;> first | rfl | skip) | split | omega | dsimp only [id] | (intro)

theorem keeps_healthScore {z s : State} (h : Keeps z s) (x0 : Nat) (x1 : Nat) : Keeps z (State.healthScore s x0 x1) := by
  unfold State.healthScore
  try dsimp only
  with_reducible repeat' first | assumption | apply keeps_setEng | apply keeps_engState | apply Keeps.foldl | apply Keeps.ite | (simp only [Keeps.lit_iff]; apply KeepsLit.of <;> first | rfl | skip) | split | omega | dsimp only [id] | (intro)

theorem keeps_healthDue {z s : State} (h : Keeps z s) (x0 : Nat) (x1 : Nat) : Keeps z (State.healthDue s x0 x1) := by
  unfold State.healthDue
  try dsimp only
  with_reducible repeat' first | assumption | apply keeps_healthScore | apply Keeps.foldl | apply Keeps.ite | (simp only [Keeps.lit_iff]; apply KeepsLit.of <;> first | rfl | skip) | split | omega | dsimp only [id] | (intro)

theorem keeps_execHealthScore {z s : State} (h : Keeps z s) (x0 : Nat) (x1 : Nat) : OutKeeps z (execHealthScore x0 x1 s) := by
  unfold execHealthScore
  try dsimp only
  with_reducible repeat' first | assumption | apply OutKeeps.next | apply keeps_healthDue | apply Keeps.foldl | apply Keeps.ite | (simp only [Keeps.lit_iff]; apply KeepsLit.of <;> first | rfl | skip) | split | omega | dsimp only [id] | (intro)

theorem keeps_surveySlice {z s : State} (h : Keeps z s) (x0 : Nat) (x1 : Nat) (x2 : Nat) : Keeps z (State.surveySlice s x0 x1 x2) := by
  unfold State.surveySlice
  try dsimp only
  with_reducible repeat' first | assumption | apply keeps_modEng | apply keeps_drawN | apply Keeps.foldl | apply Keeps.ite | (simp only [Keeps.lit_iff]; apply KeepsLit.of <;> first | rfl | skip) | split | omega | dsimp only [id] | (intro)

theorem keeps_execSurveySlice {z s : State} (h : Keeps z s) (x0 : Nat) (x1 : Nat) (x2 : Nat) : OutKeeps z (execSurveySlice x0 x1 x2 s) := by
  unfold execSurveySlice
  try dsimp only
  with_reducible repeat' first | assumption | apply OutKeeps.next | apply keeps_surveySlice | apply Keeps.foldl | apply Keeps.ite | (simp only [Keeps.lit_iff]; apply KeepsLit.of <;> first | rfl | skip) | split | omega | dsimp only [id] | (intro)

theorem keeps_surveyOverdue {z s : State} (h : Keeps z s) (x0 : Nat) (x1 : Nat) (x2 : Nat) : Keeps z (State.surveyOverdue s x0 x1 x2) := by
  unfold State.surveyOverdue
  try dsimp only
  with_reducible repeat' first | assumption | apply keeps_modEng | apply Keeps.foldl | apply Keeps.ite | (simp only [Keeps.lit_iff]; apply KeepsLit.of <;> first | rfl | skip) | split | omega | dsimp only [id] | (intro)

theorem keeps_execSurveyOverdue {z s : State} (h : Keeps z s) (x0 : Nat) (x1 : Nat) (x2 : Nat) : OutKeeps z (execSurveyOverdue x0 x1 x2 s) := by
  unfold execSurveyOverdue
  try dsimp only
  with_reducible repeat' first | assumption | apply OutKeeps.next | apply keeps_surveyOverdue | apply Keeps.foldl | apply Keeps.ite | (simp only [Keeps.lit_iff]; apply KeepsLit.of <;> first | rfl | skip) | split | omega | dsimp only [id] | (intro)

theorem keeps_retireEngine {z s : State} (h : Keeps z s) (x0 : Nat) : Keeps z (State.retireEngine s x0) := by
  unfold State.retireEngine
  try dsimp only
  with_reducible repeat' first | assumption | apply keeps_engState | apply Keeps.foldl | apply Keeps.ite | (simp only [Keeps.lit_iff]; apply KeepsLit.of <;> first | rfl | skip) | split | omega | dsimp only [id] | (intro)

theorem keeps_retireColumn {z s : State} (h : Keeps z s) (x0 : Nat) : Keeps z (State.retireColumn s x0) := by
  unfold State.retireColumn
  try dsimp only
  with_reducible repeat' first | assumption | apply keeps_modEng | apply Keeps.foldl | apply Keeps.ite | (simp only [Keeps.lit_iff]; apply KeepsLit.of <;> first | rfl | skip) | split | omega | dsimp only [id] | (intro)

theorem keeps_surveyNow {z s : State} (h : Keeps z s) (x0 : Nat) : Keeps z (State.surveyNow s x0) := by
  unfold State.surveyNow
  try dsimp only
  with_reducible repeat' first | assumption | apply keeps_modEng | apply Keeps.foldl | apply Keeps.ite | (simp only [Keeps.lit_iff]; apply KeepsLit.of <;> first | rfl | skip) | split | omega | dsimp only [id] | (intro)

theorem keeps_baseWrite {z s : State} (h : Keeps z s) (x0 : Nat) (x1 : Nat) (x2 : Nat) (x3 : Nat) : Keeps z (State.baseWrite s x0 x1 x2 x3) := by
  unfold State.baseWrite
  try dsimp only
  with_reducible repeat' first | assumption | apply keeps_modEng | apply keeps_staged | apply keeps_corrCommit | apply keeps_commitIdle | apply Keeps.foldl | apply Keeps.ite | (simp only [Keeps.lit_iff]; apply KeepsLit.of <;> first | rfl | skip) | split | omega | dsimp only [id] | (intro)

theorem keeps_calPut {z s : State} (h : Keeps z s) (x0 : Nat) (x1 : Nat) : Keeps z (State.calPut s x0 x1) := by
  unfold State.calPut
  try dsimp only
  with_reducible repeat' first | assumption | apply keeps_baseWrite | apply keeps_modCore | apply Keeps.foldl | apply Keeps.ite | (simp only [Keeps.lit_iff]; apply KeepsLit.of <;> first | rfl | skip) | split | omega | dsimp only [id] | (intro)

theorem keeps_calBytes {z s : State} (h : Keeps z s) (x0 : Nat) (x1 : List Byte) : Keeps z (State.calBytes s x0 x1) := by
  unfold State.calBytes
  try dsimp only
  with_reducible repeat' first | assumption | apply keeps_calPut | apply keeps_bump | apply Keeps.foldl | apply Keeps.ite | (simp only [Keeps.lit_iff]; apply KeepsLit.of <;> first | rfl | skip) | split | omega | dsimp only [id] | (intro)

theorem keeps_restoreEngines {z s : State} (h : Keeps z s) (x0 : Nat → Bool) : Keeps z (State.restoreEngines s x0) := by
  unfold State.restoreEngines
  try dsimp only
  with_reducible repeat' first | assumption | apply keeps_baseWrite | apply keeps_calPut | apply Keeps.foldl | apply Keeps.ite | (simp only [Keeps.lit_iff]; apply KeepsLit.of <;> first | rfl | skip) | split | omega | dsimp only [id] | (intro)

end Sys2Proof.Machine
end

