-- ==== Sys2Proof/Laws/Program.lean ====
section
/-! SUPPORT. What the operations of Machine/Program.lean keep (Laws/Keeps.lean), one lemma for each. -/

set_option linter.unusedTactic false
set_option linter.unreachableTactic false
set_option linter.unusedSimpArgs false

namespace Sys2Proof.Machine

theorem keeps_startJob {z s : State} (h : Keeps z s) (x0 : Nat) (x1 : Nat) (x2 : Nat) (x3 : Nat → Nat → Int) (x4 : JobUse) : Keeps z (State.startJob s x0 x1 x2 x3 x4) := by
  unfold State.startJob
  try dsimp only
  with_reducible repeat' first | assumption | apply keeps_setEng | apply keeps_draw | apply Keeps.foldl | apply Keeps.ite | (simp only [Keeps.lit_iff]; apply KeepsLit.of <;> first | rfl | skip) | split | omega | dsimp only [id] | (intro)

theorem keeps_markBudget {z s : State} (h : Keeps z s) : Keeps z (State.markBudget s) := by
  unfold State.markBudget
  try dsimp only
  with_reducible repeat' first | assumption | apply Keeps.foldl | apply Keeps.ite | (simp only [Keeps.lit_iff]; apply KeepsLit.of <;> first | rfl | skip) | split | omega | dsimp only [id] | (intro)

theorem keeps_damperWon {z s : State} (h : Keeps z s) (x0 : Nat) (x1 : List Nat) : Keeps z (State.damperWon s x0 x1) := by
  unfold State.damperWon
  try dsimp only
  with_reducible repeat' first | assumption | apply keeps_bump | apply Keeps.foldl | apply Keeps.ite | (simp only [Keeps.lit_iff]; apply KeepsLit.of <;> first | rfl | skip) | split | omega | dsimp only [id] | (intro)

theorem keeps_damperGrant {z s : State} (h : Keeps z s) (x0 : Nat) (x1 : Nat) : Keeps z (State.damperGrant s x0 x1) := by
  unfold State.damperGrant
  try dsimp only
  with_reducible repeat' first | assumption | apply keeps_markBudget | apply keeps_damperWon | apply keeps_bumpBy | apply keeps_setEng | apply Keeps.foldl | apply Keeps.ite | (simp only [Keeps.lit_iff]; apply KeepsLit.of <;> first | rfl | skip) | split | omega | dsimp only [id] | (intro)

theorem keeps_execDamperGrant {z s : State} (h : Keeps z s) (x0 : Nat) (x1 : Nat) : OutKeeps z (execDamperGrant x0 x1 s) := by
  unfold execDamperGrant
  try dsimp only
  with_reducible repeat' first | assumption | apply OutKeeps.next | apply keeps_damperGrant | apply Keeps.foldl | apply Keeps.ite | (simp only [Keeps.lit_iff]; apply KeepsLit.of <;> first | rfl | skip) | split | omega | dsimp only [id] | (intro)

theorem keeps_damperFree {z s : State} (h : Keeps z s) (x0 : Nat) : Keeps z (State.damperFree s x0) := by
  unfold State.damperFree
  try dsimp only
  with_reducible repeat' first | assumption | apply keeps_markBudget | apply Keeps.foldl | apply Keeps.ite | (simp only [Keeps.lit_iff]; apply KeepsLit.of <;> first | rfl | skip) | split | omega | dsimp only [id] | (intro)

theorem keeps_pulseGroup {z s : State} (h : Keeps z s) (x0 : Nat) (x1 : Nat) : Keeps z (State.pulseGroup s x0 x1) := by
  unfold State.pulseGroup
  try dsimp only
  with_reducible repeat' first | assumption | apply keeps_setEng | apply keeps_drawN | apply keeps_damperFree | apply Keeps.foldl | apply Keeps.ite | (simp only [Keeps.lit_iff]; apply KeepsLit.of <;> first | rfl | skip) | split | omega | dsimp only [id] | (intro)

theorem keeps_execPulseGroup {z s : State} (h : Keeps z s) (x0 : Nat) (x1 : Nat) : OutKeeps z (execPulseGroup x0 x1 s) := by
  unfold execPulseGroup
  try dsimp only
  with_reducible repeat' first | assumption | apply OutKeeps.next | apply keeps_pulseGroup | apply Keeps.foldl | apply Keeps.ite | (simp only [Keeps.lit_iff]; apply KeepsLit.of <;> first | rfl | skip) | split | omega | dsimp only [id] | (intro)

theorem keeps_sliceAsked {z s : State} (h : Keeps z s) (x0 : Nat) (x1 : Nat) (x2 : Nat) (x3 : Bool) : Keeps z (State.sliceAsked s x0 x1 x2 x3) := by
  unfold State.sliceAsked
  try dsimp only
  with_reducible repeat' first | assumption | apply keeps_damperWon | apply keeps_markBudget | apply Keeps.foldl | apply Keeps.ite | (simp only [Keeps.lit_iff]; apply KeepsLit.of <;> first | rfl | skip) | split | omega | dsimp only [id] | (intro)

theorem keeps_repairSlice {z s : State} (h : Keeps z s) (x0 : Nat) (x1 : Nat) (x2 : Nat) : Keeps z (State.repairSlice s x0 x1 x2) := by
  unfold State.repairSlice
  try dsimp only
  with_reducible repeat' first | assumption | apply keeps_setEng | apply keeps_drawN | apply keeps_sliceAsked | apply keeps_bumpBy | apply keeps_stuckDevice | apply Keeps.foldl | apply Keeps.ite | (simp only [Keeps.lit_iff]; apply KeepsLit.of <;> first | rfl | skip) | split | omega | dsimp only [id] | (intro)

theorem keeps_execRepairSlice {z s : State} (h : Keeps z s) (x0 : Nat) (x1 : Nat) (x2 : Nat) : OutKeeps z (execRepairSlice x0 x1 x2 s) := by
  unfold execRepairSlice
  try dsimp only
  with_reducible repeat' first | assumption | apply OutKeeps.next | apply keeps_repairSlice | apply Keeps.foldl | apply Keeps.ite | (simp only [Keeps.lit_iff]; apply KeepsLit.of <;> first | rfl | skip) | split | omega | dsimp only [id] | (intro)

theorem keeps_endRepairs {z s : State} (h : Keeps z s) (x0 : Nat) (x1 : Nat) : Keeps z (State.endRepairs s x0 x1) := by
  unfold State.endRepairs
  try dsimp only
  with_reducible repeat' first | assumption | apply Keeps.foldl | apply Keeps.ite | (simp only [Keeps.lit_iff]; apply KeepsLit.of <;> first | rfl | skip) | split | omega | dsimp only [id] | (intro)

theorem keeps_closeJob {z s : State} (h : Keeps z s) (x0 : Nat) (x1 : Nat) (x2 : ProgJob) : Keeps z (State.closeJob s x0 x1 x2) := by
  unfold State.closeJob
  try dsimp only
  with_reducible repeat' first | assumption | apply keeps_setEng | apply keeps_endRepairs | apply keeps_noteProgrammed | apply keeps_testNow | apply Keeps.foldl | apply Keeps.ite | (simp only [Keeps.lit_iff]; apply KeepsLit.of <;> first | rfl | skip) | split | omega | dsimp only [id] | (intro)

theorem keeps_beginStage {z s : State} (h : Keeps z s) (x0 : Nat) : Keeps z (State.beginStage s x0) := by
  unfold State.beginStage
  try dsimp only
  with_reducible repeat' first | assumption | apply keeps_startFetch | apply Keeps.foldl | apply Keeps.ite | (simp only [Keeps.lit_iff]; apply KeepsLit.of <;> first | rfl | skip) | split | omega | dsimp only [id] | (intro)

theorem keeps_freeStage {z s : State} (h : Keeps z s) : Keeps z (State.freeStage s) := by
  unfold State.freeStage
  try dsimp only
  with_reducible repeat' first | assumption | apply keeps_beginStage | apply keeps_readPlans | apply Keeps.foldl | apply Keeps.ite | (simp only [Keeps.lit_iff]; apply KeepsLit.of <;> first | rfl | skip) | split | omega | dsimp only [id] | (intro)

theorem keeps_wantBlock {z s : State} (h : Keeps z s) (x0 : Nat) (x1 : Nat) (x2 : Nat) : Keeps z (State.wantBlock s x0 x1 x2) := by
  unfold State.wantBlock
  try dsimp only
  with_reducible repeat' first | assumption | apply keeps_startFetch | apply Keeps.foldl | apply Keeps.ite | (simp only [Keeps.lit_iff]; apply KeepsLit.of <;> first | rfl | skip) | split | omega | dsimp only [id] | (intro)

theorem keeps_dropBlock {z s : State} (h : Keeps z s) : Keeps z (State.dropBlock s) := by
  unfold State.dropBlock
  try dsimp only
  with_reducible repeat' first | assumption | apply keeps_freeStage | apply Keeps.foldl | apply Keeps.ite | (simp only [Keeps.lit_iff]; apply KeepsLit.of <;> first | rfl | skip) | split | omega | dsimp only [id] | (intro)

theorem keeps_endRequest {z s : State} (h : Keeps z s) (x0 : Nat) (x1 : Nat) (x2 : Nat) : Keeps z (State.endRequest s x0 x1 x2) := by
  unfold State.endRequest
  try dsimp only
  with_reducible repeat' first | assumption | apply keeps_dropBlock | apply Keeps.foldl | apply Keeps.ite | (simp only [Keeps.lit_iff]; apply KeepsLit.of <;> first | rfl | skip) | split | omega | dsimp only [id] | (intro)

theorem keeps_useBlock {z s : State} (h : Keeps z s) (x0 : Nat) (x1 : Nat) : Keeps z (State.useBlock s x0 x1) := by
  unfold State.useBlock
  try dsimp only
  with_reducible repeat' first | assumption | apply Keeps.foldl | apply Keeps.ite | (simp only [Keeps.lit_iff]; apply KeepsLit.of <;> first | rfl | skip) | split | omega | dsimp only [id] | (intro)

theorem keeps_doneBlock {z s : State} (h : Keeps z s) (x0 : Nat) (x1 : Nat) : Keeps z (State.doneBlock s x0 x1) := by
  unfold State.doneBlock
  try dsimp only
  with_reducible repeat' first | assumption | apply keeps_dropBlock | apply Keeps.foldl | apply Keeps.ite | (simp only [Keeps.lit_iff]; apply KeepsLit.of <;> first | rfl | skip) | split | omega | dsimp only [id] | (intro)

theorem keeps_checkBlock {z s : State} (h : Keeps z s) : Keeps z (State.checkBlock s) := by
  unfold State.checkBlock
  try dsimp only
  with_reducible repeat' first | assumption | apply keeps_dropBlock | apply Keeps.foldl | apply Keeps.ite | (simp only [Keeps.lit_iff]; apply KeepsLit.of <;> first | rfl | skip) | split | omega | dsimp only [id] | (intro)

theorem keeps_waitAction {z s : State} (h : Keeps z s) (x0 : Nat) (x1 : Nat) (x2 : Nat) (x3 : Nat) : Keeps z (State.waitAction s x0 x1 x2 x3) := by
  unfold State.waitAction
  try dsimp only
  with_reducible repeat' first | assumption | apply keeps_record | apply Keeps.foldl | apply Keeps.ite | (simp only [Keeps.lit_iff]; apply KeepsLit.of <;> first | rfl | skip) | split | omega | dsimp only [id] | (intro)

theorem keeps_endWait {z s : State} (h : Keeps z s) (x0 : Nat) (x1 : Nat) (x2 : Nat) : Keeps z (State.endWait s x0 x1 x2) := by
  unfold State.endWait
  try dsimp only
  with_reducible repeat' first | assumption | apply Keeps.foldl | apply Keeps.ite | (simp only [Keeps.lit_iff]; apply KeepsLit.of <;> first | rfl | skip) | split | omega | dsimp only [id] | (intro)

theorem keeps_waitExchange {z s : State} (h : Keeps z s) (x0 : Nat) (x1 : Nat) (x2 : Nat) (x3 : Nat) : Keeps z (State.waitExchange s x0 x1 x2 x3) := by
  unfold State.waitExchange
  try dsimp only
  with_reducible repeat' first | assumption | apply keeps_endWait | apply keeps_waitAction | apply Keeps.foldl | apply Keeps.ite | (simp only [Keeps.lit_iff]; apply KeepsLit.of <;> first | rfl | skip) | split | omega | dsimp only [id] | (intro)

theorem keeps_endExchange {z s : State} (h : Keeps z s) (x0 : Nat) (x1 : Nat) : Keeps z (State.endExchange s x0 x1) := by
  unfold State.endExchange
  try dsimp only
  with_reducible repeat' first | assumption | apply keeps_endWait | apply Keeps.foldl | apply Keeps.ite | (simp only [Keeps.lit_iff]; apply KeepsLit.of <;> first | rfl | skip) | split | omega | dsimp only [id] | (intro)

theorem keeps_endWaits {z s : State} (h : Keeps z s) (x0 : Nat) (x1 : Nat) : Keeps z (State.endWaits s x0 x1) := by
  unfold State.endWaits
  try dsimp only
  with_reducible repeat' first | assumption | apply Keeps.foldl | apply Keeps.ite | (simp only [Keeps.lit_iff]; apply KeepsLit.of <;> first | rfl | skip) | split | omega | dsimp only [id] | (intro)

theorem keeps_startColumn {z s : State} (h : Keeps z s) (x0 : Nat) (x1 : Nat) (x2 : Nat) (x3 : Nat) (x4 : Nat → Int) : Keeps z (State.startColumn s x0 x1 x2 x3 x4) := by
  unfold State.startColumn
  try dsimp only
  with_reducible repeat' first | assumption | apply keeps_setEng | apply keeps_draw | apply Keeps.foldl | apply Keeps.ite | (simp only [Keeps.lit_iff]; apply KeepsLit.of <;> first | rfl | skip) | split | omega | dsimp only [id] | (intro)

theorem keeps_closeColumn {z s : State} (h : Keeps z s) (x0 : Nat) (x1 : Nat) (x2 : Nat) (x3 : Nat) (x4 : ProgJob) : Keeps z (State.closeColumn s x0 x1 x2 x3 x4) := by
  unfold State.closeColumn
  try dsimp only
  with_reducible repeat' first | assumption | apply keeps_corrCommit | apply keeps_setEng | apply keeps_commitIdle | apply keeps_noteDefect | apply keeps_modEng | apply keeps_noteDevices | apply keeps_record | apply Keeps.foldl | apply Keeps.ite | (simp only [Keeps.lit_iff]; apply KeepsLit.of <;> first | rfl | skip) | split | omega | dsimp only [id] | (intro)

theorem keeps_columnRepair {z s : State} (h : Keeps z s) (x0 : Nat) (x1 : Nat) (x2 : Nat) : Keeps z (State.columnRepair s x0 x1 x2) := by
  unfold State.columnRepair
  try dsimp only
  with_reducible repeat' first | assumption | apply keeps_setEng | apply keeps_endWait | apply keeps_startColumn | apply keeps_useBlock | apply keeps_wantBlock | apply keeps_waitAction | apply Keeps.foldl | apply Keeps.ite | (simp only [Keeps.lit_iff]; apply KeepsLit.of <;> first | rfl | skip) | split | omega | dsimp only [id] | (intro)

theorem keeps_execColumnRepair {z s : State} (h : Keeps z s) (x0 : Nat) (x1 : Nat) (x2 : Nat) : OutKeeps z (execColumnRepair x0 x1 x2 s) := by
  unfold execColumnRepair
  try dsimp only
  with_reducible repeat' first | assumption | apply OutKeeps.next | apply keeps_columnRepair | apply Keeps.foldl | apply Keeps.ite | (simp only [Keeps.lit_iff]; apply KeepsLit.of <;> first | rfl | skip) | split | omega | dsimp only [id] | (intro)

end Sys2Proof.Machine
end

