-- ==== Sys2Proof/Laws/Images.lean ====
section
/-! SUPPORT. What the operations of Machine/Images.lean keep (Laws/Keeps.lean), one lemma for each. -/

set_option linter.unusedTactic false
set_option linter.unreachableTactic false
set_option linter.unusedSimpArgs false

namespace Sys2Proof.Machine

theorem keeps_setStatus {z s : State} (h : Keeps z s) (x0 : Nat) (x1 : Nat) (x2 : Nat) : Keeps z (State.setStatus s x0 x1 x2) := by
  unfold State.setStatus
  try dsimp only
  with_reducible repeat' first | assumption | apply keeps_msix | apply Keeps.foldl | apply Keeps.ite | (simp only [Keeps.lit_iff]; apply KeepsLit.of <;> first | rfl | skip) | split | omega | dsimp only [id] | (intro)

theorem keeps_fetchFill {z : State} (n : Nat) {s : State} (h : Keeps z s) : Keeps z (State.fetchFill n s) := by
  induction n generalizing s with
  | zero => exact h
  | succ n ih =>
    unfold State.fetchFill
    dsimp only
    with_reducible repeat' first | assumption | apply ih | apply keeps_fetchSend | (simp only [Keeps.lit_iff]; apply KeepsLit.of <;> first | rfl | skip) | split | intro

theorem keeps_fetchMore {z s : State} (h : Keeps z s) : Keeps z (State.fetchMore s) := by
  unfold State.fetchMore
  try dsimp only
  with_reducible repeat' first | assumption | apply keeps_fetchFill | apply Keeps.foldl | apply Keeps.ite | (simp only [Keeps.lit_iff]; apply KeepsLit.of <;> first | rfl | skip) | split | omega | dsimp only [id] | (intro)

theorem keeps_putPlan {z s : State} (h : Keeps z s) (x0 : Nat) (x1 : Nat) (x2 : PlanHeader) (x3 : List Nat) : Keeps z (State.putPlan s x0 x1 x2 x3) := by
  unfold State.putPlan
  try dsimp only
  with_reducible repeat' first | assumption | apply keeps_layPlan | apply keeps_hostCore | apply keeps_modCore | apply Keeps.foldl | apply Keeps.ite | (simp only [Keeps.lit_iff]; apply KeepsLit.of <;> first | rfl | skip) | split | omega | dsimp only [id] | (intro)

theorem keeps_putPreload {z s : State} (h : Keeps z s) (x0 : Nat) (x1 : Nat) (x2 : List Byte) : Keeps z (State.putPreload s x0 x1 x2) := by
  unfold State.putPreload
  try dsimp only
  with_reducible repeat' first | assumption | apply keeps_hubWrite | apply keeps_abWrite | apply Keeps.foldl | apply Keeps.ite | (simp only [Keeps.lit_iff]; apply KeepsLit.of <;> first | rfl | skip) | split | omega | dsimp only [id] | (intro)

theorem keeps_refillBound {z s : State} (h : Keeps z s) : Keeps z (State.refillBound s) := by
  unfold State.refillBound
  try dsimp only
  with_reducible repeat' first | assumption | apply Keeps.foldl | apply Keeps.ite | (simp only [Keeps.lit_iff]; apply KeepsLit.of <;> first | rfl | skip) | split | omega | dsimp only [id] | (intro)

theorem keeps_fillPeers {z s : State} (h : Keeps z s) (x0 : Nat) : Keeps z (State.fillPeers s x0) := by
  unfold State.fillPeers
  try dsimp only
  with_reducible repeat' first | assumption | apply keeps_modComm | apply Keeps.foldl | apply Keeps.ite | (simp only [Keeps.lit_iff]; apply KeepsLit.of <;> first | rfl | skip) | split | omega | dsimp only [id] | (intro)

end Sys2Proof.Machine
end

