-- ==== Sys2Proof/Laws/Contexts.lean ====
section
/-! SUPPORT. What the operations of Machine/Contexts.lean keep (Laws/Keeps.lean), one lemma for each. -/

set_option linter.unusedTactic false
set_option linter.unreachableTactic false
set_option linter.unusedSimpArgs false

namespace Sys2Proof.Machine

theorem keeps_roleChange {z s : State} (h : Keeps z s) (x0 : Nat) : Keeps z (State.roleChange s x0) := by
  unfold State.roleChange
  try dsimp only
  with_reducible repeat' first | assumption | apply keeps_raiseEpoch | apply keeps_announceEpoch | apply Keeps.foldl | apply Keeps.ite | (simp only [Keeps.lit_iff]; apply KeepsLit.of <;> first | rfl | skip) | split | omega | dsimp only [id] | (intro)

theorem keeps_coreOff {z s : State} (h : Keeps z s) (x0 : Nat) : Keeps z (State.coreOff s x0) := by
  unfold State.coreOff
  try dsimp only
  with_reducible repeat' first | assumption | apply keeps_wipe | apply keeps_setCore | apply Keeps.foldl | apply Keeps.ite | (simp only [Keeps.lit_iff]; apply KeepsLit.of <;> first | rfl | skip) | split | omega | dsimp only [id] | (intro)

theorem keeps_resetEngines {z s : State} (h : Keeps z s) (x0 : Nat) : Keeps z (State.resetEngines s x0) := by
  unfold State.resetEngines
  try dsimp only
  with_reducible repeat' first | assumption | apply Keeps.foldl | apply Keeps.ite | (simp only [Keeps.lit_iff]; apply KeepsLit.of <;> first | rfl | skip) | split | omega | dsimp only [id] | (intro)

theorem keeps_coreStart {z s : State} (h : Keeps z s) (x0 : Nat) : Keeps z (State.coreStart s x0) := by
  unfold State.coreStart
  try dsimp only
  with_reducible repeat' first | assumption | apply keeps_restoreEngines | apply keeps_resetEngines | apply keeps_modCore | apply keeps_idle | apply Keeps.foldl | apply Keeps.ite | (simp only [Keeps.lit_iff]; apply KeepsLit.of <;> first | rfl | skip) | split | omega | dsimp only [id] | (intro)

theorem keeps_forgetDecisions {z s : State} (h : Keeps z s) (x0 : Nat) : Keeps z (State.forgetDecisions s x0) := by
  unfold State.forgetDecisions
  try dsimp only
  with_reducible repeat' first | assumption | apply keeps_modTrip | apply keeps_updateTrip | apply Keeps.foldl | apply Keeps.ite | (simp only [Keeps.lit_iff]; apply KeepsLit.of <;> first | rfl | skip) | split | omega | dsimp only [id] | (intro)

theorem keeps_storePlan {z s : State} (h : Keeps z s) (x0 : StoredPlan) : Keeps z (State.storePlan s x0) := by
  unfold State.storePlan
  try dsimp only
  with_reducible repeat' first | assumption | apply Keeps.foldl | apply Keeps.ite | (simp only [Keeps.lit_iff]; apply KeepsLit.of <;> first | rfl | skip) | split | omega | dsimp only [id] | (intro)

theorem keeps_dropPlans {z s : State} (h : Keeps z s) (x0 : Nat) (x1 : Nat) : Keeps z (State.dropPlans s x0 x1) := by
  unfold State.dropPlans
  try dsimp only
  with_reducible repeat' first | assumption | apply Keeps.foldl | apply Keeps.ite | (simp only [Keeps.lit_iff]; apply KeepsLit.of <;> first | rfl | skip) | split | omega | dsimp only [id] | (intro)

theorem keeps_endPulses {z s : State} (h : Keeps z s) (x0 : Nat) (x1 : Nat) : Keeps z (State.endPulses s x0 x1) := by
  unfold State.endPulses
  try dsimp only
  with_reducible repeat' first | assumption | apply keeps_damperFree | apply Keeps.foldl | apply Keeps.ite | (simp only [Keeps.lit_iff]; apply KeepsLit.of <;> first | rfl | skip) | split | omega | dsimp only [id] | (intro)

theorem keeps_dropRequest {z s : State} (h : Keeps z s) (x0 : Nat) (x1 : Nat) : Keeps z (State.dropRequest s x0 x1) := by
  unfold State.dropRequest
  try dsimp only
  with_reducible repeat' first | assumption | apply keeps_dropBlock | apply Keeps.foldl | apply Keeps.ite | (simp only [Keeps.lit_iff]; apply KeepsLit.of <;> first | rfl | skip) | split | omega | dsimp only [id] | (intro)

theorem keeps_freeBank {z s : State} (h : Keeps z s) (x0 : Nat) (x1 : Nat) : Keeps z (State.freeBank s x0 x1) := by
  unfold State.freeBank
  try dsimp only
  with_reducible repeat' first | assumption | apply keeps_dropRequest | apply keeps_endPulses | apply keeps_doneBlock | apply keeps_endWaits | apply keeps_modEng | apply keeps_markBudget | apply keeps_modCore | apply keeps_dropPlans | apply keeps_modCtx | apply Keeps.foldl | apply Keeps.ite | (simp only [Keeps.lit_iff]; apply KeepsLit.of <;> first | rfl | skip) | split | omega | dsimp only [id] | (intro)

theorem keeps_dropReplace {z s : State} (h : Keeps z s) (x0 : Nat) : Keeps z (State.dropReplace s x0) := by
  unfold State.dropReplace
  try dsimp only
  with_reducible repeat' first | assumption | apply keeps_endPulses | apply keeps_doneBlock | apply keeps_modEng | apply keeps_markBudget | apply keeps_coreOff | apply keeps_modReplace | apply keeps_endWait | apply Keeps.foldl | apply Keeps.ite | (simp only [Keeps.lit_iff]; apply KeepsLit.of <;> first | rfl | skip) | split | omega | dsimp only [id] | (intro)

theorem keeps_dropReplaces {z s : State} (h : Keeps z s) (x0 : List Nat) : Keeps z (State.dropReplaces s x0) := by
  unfold State.dropReplaces
  try dsimp only
  with_reducible repeat' first | assumption | apply keeps_dropReplace | apply keeps_modReplace | apply Keeps.foldl | apply Keeps.ite | (simp only [Keeps.lit_iff]; apply KeepsLit.of <;> first | rfl | skip) | split | omega | dsimp only [id] | (intro)

theorem keeps_releaseCtx {z s : State} (h : Keeps z s) (x0 : Nat) : Keeps z (State.releaseCtx s x0) := by
  unfold State.releaseCtx
  try dsimp only
  with_reducible repeat' first | assumption | apply keeps_freeBank | apply keeps_dropReplaces | apply keeps_coreOff | apply keeps_raiseEpoch | apply keeps_setCtx | apply keeps_setCount | apply keeps_forgetDecisions | apply Keeps.foldl | apply Keeps.ite | (simp only [Keeps.lit_iff]; apply KeepsLit.of <;> first | rfl | skip) | split | omega | dsimp only [id] | (intro)

theorem keeps_askStage {z s : State} (h : Keeps z s) (x0 : Nat) : Keeps z (State.askStage s x0) := by
  unfold State.askStage
  try dsimp only
  with_reducible repeat' first | assumption | apply keeps_beginStage | apply Keeps.foldl | apply Keeps.ite | (simp only [Keeps.lit_iff]; apply KeepsLit.of <;> first | rfl | skip) | split | omega | dsimp only [id] | (intro)

theorem keeps_failInstall {z s : State} (h : Keeps z s) (x0 : Nat) (x1 : Nat) : Keeps z (State.failInstall s x0 x1) := by
  unfold State.failInstall
  try dsimp only
  with_reducible repeat' first | assumption | apply keeps_freeStage | apply keeps_releaseCtx | apply keeps_freeBank | apply keeps_modCtx | apply keeps_setStatus | apply Keeps.foldl | apply Keeps.ite | (simp only [Keeps.lit_iff]; apply KeepsLit.of <;> first | rfl | skip) | split | omega | dsimp only [id] | (intro)

theorem keeps_failPlan {z s : State} (h : Keeps z s) (x0 : Nat) (x1 : Nat) : Keeps z (State.failPlan s x0 x1) := by
  unfold State.failPlan
  try dsimp only
  with_reducible repeat' first | assumption | apply keeps_failInstall | apply keeps_modCtx | apply Keeps.foldl | apply Keeps.ite | (simp only [Keeps.lit_iff]; apply KeepsLit.of <;> first | rfl | skip) | split | omega | dsimp only [id] | (intro)

theorem keeps_takeUp {z s : State} (h : Keeps z s) (x0 : Nat) (x1 : Nat) : Keeps z (State.takeUp s x0 x1) := by
  unfold State.takeUp
  try dsimp only
  with_reducible repeat' first | assumption | apply keeps_engState | apply Keeps.foldl | apply Keeps.ite | (simp only [Keeps.lit_iff]; apply KeepsLit.of <;> first | rfl | skip) | split | omega | dsimp only [id] | (intro)

theorem keeps_bindBlock {z s : State} (h : Keeps z s) (x0 : Nat) (x1 : Nat) (x2 : Block) : Keeps z (State.bindBlock s x0 x1 x2) := by
  unfold State.bindBlock
  try dsimp only
  with_reducible repeat' first | assumption | apply keeps_takeUp | apply keeps_modEng | apply keeps_modCore | apply Keeps.foldl | apply Keeps.ite | (simp only [Keeps.lit_iff]; apply KeepsLit.of <;> first | rfl | skip) | split | omega | dsimp only [id] | (intro)

theorem keeps_evaluate {z s : State} (h : Keeps z s) (x0 : Nat) : Keeps z (State.evaluate s x0) := by
  unfold State.evaluate
  try dsimp only
  with_reducible repeat' first | assumption | apply keeps_failPlan | apply keeps_modCtx | apply keeps_modCore | apply keeps_roleChange | apply keeps_bindBlock | apply Keeps.foldl | apply Keeps.ite | (simp only [Keeps.lit_iff]; apply KeepsLit.of <;> first | rfl | skip) | split | omega | dsimp only [id] | (intro)

theorem keeps_stageCrc {z s : State} (h : Keeps z s) : Keeps z (State.stageCrc s) := by
  unfold State.stageCrc
  try dsimp only
  with_reducible repeat' first | assumption | apply keeps_staged | apply Keeps.foldl | apply Keeps.ite | (simp only [Keeps.lit_iff]; apply KeepsLit.of <;> first | rfl | skip) | split | omega | dsimp only [id] | (intro)

theorem keeps_takePlan {z s : State} (h : Keeps z s) (x0 : Nat) (x1 : Nat) : Keeps z (State.takePlan s x0 x1) := by
  unfold State.takePlan
  try dsimp only
  with_reducible repeat' first | assumption | apply keeps_failPlan | apply keeps_failInstall | apply keeps_putPlan | apply keeps_putPreload | apply keeps_modCtx | apply keeps_storePlan | apply Keeps.foldl | apply Keeps.ite | (simp only [Keeps.lit_iff]; apply KeepsLit.of <;> first | rfl | skip) | split | omega | dsimp only [id] | (intro)

theorem keeps_takePlans {z s : State} (h : Keeps z s) (x0 x1 : Nat) : Keeps z (State.takePlans s x0 x1) := by
  induction x1 generalizing s with
  | zero => exact h
  | succ n ih =>
    unfold State.takePlans
    try dsimp only
    with_reducible repeat' first | assumption | apply ih | apply keeps_takePlan | apply Keeps.ite | split | intro

theorem keeps_takePayload {z s : State} (h : Keeps z s) (x0 : Nat) (x1 : Nat) (x2 : Block) : Keeps z (State.takePayload s x0 x1 x2) := by
  unfold State.takePayload
  try dsimp only
  with_reducible repeat' first | assumption | apply keeps_failInstall | apply keeps_startJob | apply keeps_modCtx | apply Keeps.foldl | apply Keeps.ite | (simp only [Keeps.lit_iff]; apply KeepsLit.of <;> first | rfl | skip) | split | omega | dsimp only [id] | (intro)

theorem keeps_takePayloads {z s : State} (h : Keeps z s) (x0 : Nat) : Keeps z (State.takePayloads s x0) := by
  unfold State.takePayloads
  try dsimp only
  with_reducible repeat' first | assumption | apply keeps_takePayload | apply Keeps.foldl | apply Keeps.ite | (simp only [Keeps.lit_iff]; apply KeepsLit.of <;> first | rfl | skip) | split | omega | dsimp only [id] | (intro)

theorem keeps_stageHead {z s : State} (h : Keeps z s) (x0 : Nat) : Keeps z (State.stageHead s x0) := by
  unfold State.stageHead
  try dsimp only
  with_reducible repeat' first | assumption | apply keeps_staged | apply Keeps.foldl | apply Keeps.ite | (simp only [Keeps.lit_iff]; apply KeepsLit.of <;> first | rfl | skip) | split | omega | dsimp only [id] | (intro)

theorem keeps_stageFlow {z s : State} (h : Keeps z s) : Keeps z (State.stageFlow s) := by
  unfold State.stageFlow
  try dsimp only
  with_reducible repeat' first | assumption | apply keeps_staged | apply keeps_stageCrc | apply keeps_takePlans | apply keeps_takePayloads | apply keeps_stageHead | apply keeps_fetchMore | apply Keeps.foldl | apply Keeps.ite | (simp only [Keeps.lit_iff]; apply KeepsLit.of <;> first | rfl | skip) | split | omega | dsimp only [id] | (intro)

theorem keeps_finishStage {z s : State} (h : Keeps z s) : Keeps z (State.finishStage s) := by
  unfold State.finishStage
  try dsimp only
  with_reducible repeat' first | assumption | apply keeps_freeStage | apply Keeps.foldl | apply Keeps.ite | (simp only [Keeps.lit_iff]; apply KeepsLit.of <;> first | rfl | skip) | split | omega | dsimp only [id] | (intro)

theorem keeps_stagedWith {z s : State} (h : Keeps z s) (x0 : Nat) (x1 : ImgHeader) (x2 : List Lcore) (x3 : List Block) : Keeps z (State.stagedWith s x0 x1 x2 x3) := by
  unfold State.stagedWith
  try dsimp only
  with_reducible repeat' first | assumption | apply keeps_staged | apply keeps_coreOff | apply keeps_stageFlow | apply keeps_freeStage | apply keeps_failInstall | apply keeps_failPlan | apply keeps_modCtx | apply keeps_modCore | apply keeps_bindBlock | apply keeps_evaluate | apply Keeps.foldl | apply Keeps.ite | (simp only [Keeps.lit_iff]; apply KeepsLit.of <;> first | rfl | skip) | split | omega | dsimp only [id] | (intro)

theorem keeps_staged {z s : State} (h : Keeps z s) : Keeps z (State.staged s) := by
  unfold State.staged
  try dsimp only
  with_reducible repeat' first | assumption | apply keeps_failInstall | apply keeps_fetchMore | apply keeps_stagedWith | apply Keeps.foldl | apply Keeps.ite | (simp only [Keeps.lit_iff]; apply KeepsLit.of <;> first | rfl | skip) | split | omega | dsimp only [id] | (intro)

theorem keeps_execStaged {z s : State} (h : Keeps z s) : OutKeeps z (execStaged s) := by
  unfold execStaged
  try dsimp only
  with_reducible repeat' first | assumption | apply OutKeeps.next | apply keeps_staged | apply Keeps.foldl | apply Keeps.ite | (simp only [Keeps.lit_iff]; apply KeepsLit.of <;> first | rfl | skip) | split | omega | dsimp only [id] | (intro)

theorem keeps_execCtxLoadEvaluation {z s : State} (h : Keeps z s) : OutKeeps z (execCtxLoadEvaluation s) := by
  unfold execCtxLoadEvaluation
  try dsimp only
  with_reducible repeat' first | assumption | apply OutKeeps.next | apply keeps_evaluate | apply Keeps.foldl | apply Keeps.ite | (simp only [Keeps.lit_iff]; apply KeepsLit.of <;> first | rfl | skip) | split | omega | dsimp only [id] | (intro)

theorem keeps_planEnd {z s : State} (h : Keeps z s) : Keeps z (State.planEnd s) := by
  unfold State.planEnd
  try dsimp only
  with_reducible repeat' first | assumption | apply keeps_stageFlow | apply keeps_failInstall | apply keeps_modCtx | apply keeps_freeStage | apply keeps_fillPeers | apply keeps_finishStage | apply Keeps.foldl | apply Keeps.ite | (simp only [Keeps.lit_iff]; apply KeepsLit.of <;> first | rfl | skip) | split | omega | dsimp only [id] | (intro)

theorem keeps_execPlanSectionEnd {z s : State} (h : Keeps z s) : OutKeeps z (execPlanSectionEnd s) := by
  unfold execPlanSectionEnd
  try dsimp only
  with_reducible repeat' first | assumption | apply OutKeeps.next | apply keeps_planEnd | apply Keeps.foldl | apply Keeps.ite | (simp only [Keeps.lit_iff]; apply KeepsLit.of <;> first | rfl | skip) | split | omega | dsimp only [id] | (intro)

theorem keeps_commitBudgets {z s : State} (h : Keeps z s) (x0 : Bank) : Keeps z (State.commitBudgets s x0) := by
  unfold State.commitBudgets
  try dsimp only
  with_reducible repeat' first | assumption | apply keeps_modCore | apply Keeps.foldl | apply Keeps.ite | (simp only [Keeps.lit_iff]; apply KeepsLit.of <;> first | rfl | skip) | split | omega | dsimp only [id] | (intro)

theorem keeps_settleOwners {z s : State} (h : Keeps z s) (x0 : Nat) (x1 : Nat) : Keeps z (State.settleOwners s x0 x1) := by
  unfold State.settleOwners
  try dsimp only
  with_reducible repeat' first | assumption | apply keeps_modEng | apply Keeps.foldl | apply Keeps.ite | (simp only [Keeps.lit_iff]; apply KeepsLit.of <;> first | rfl | skip) | split | omega | dsimp only [id] | (intro)

theorem keeps_storeTargets {z s : State} (h : Keeps z s) (x0 : Nat) : Keeps z (State.storeTargets s x0) := by
  unfold State.storeTargets
  try dsimp only
  with_reducible repeat' first | assumption | apply Keeps.foldl | apply Keeps.ite | (simp only [Keeps.lit_iff]; apply KeepsLit.of <;> first | rfl | skip) | split | omega | dsimp only [id] | (intro)

theorem keeps_askEclosion {z s : State} (h : Keeps z s) (x0 : Nat) (x1 : Nat) (x2 : Nat) (x3 : Option (Nat × Nat × Nat)) : Keeps z (State.askEclosion s x0 x1 x2 x3) := by
  unfold State.askEclosion
  try dsimp only
  with_reducible repeat' first | assumption | apply keeps_modCtx | dsimp only [answered] | apply Keeps.foldl | apply Keeps.ite | (simp only [Keeps.lit_iff]; apply KeepsLit.of <;> first | rfl | skip) | split | omega | dsimp only [id] | (intro)

theorem keeps_readyOwners {z s : State} (h : Keeps z s) (x0 : Nat) (x1 : Nat) : Keeps z (State.readyOwners s x0 x1) := by
  unfold State.readyOwners
  try dsimp only
  with_reducible repeat' first | assumption | apply keeps_modEng | apply Keeps.foldl | apply Keeps.ite | (simp only [Keeps.lit_iff]; apply KeepsLit.of <;> first | rfl | skip) | split | omega | dsimp only [id] | (intro)

theorem keeps_programAgain {z s : State} (h : Keeps z s) (x0 : Nat) (x1 : Nat) (x2 : Nat) (x3 : Block) : Keeps z (State.programAgain s x0 x1 x2 x3) := by
  unfold State.programAgain
  try dsimp only
  with_reducible repeat' first | assumption | apply keeps_startJob | apply keeps_useBlock | apply keeps_modCtx | apply keeps_wantBlock | apply Keeps.foldl | apply Keeps.ite | (simp only [Keeps.lit_iff]; apply KeepsLit.of <;> first | rfl | skip) | split | omega | dsimp only [id] | (intro)

theorem keeps_bankVerified {z s : State} (h : Keeps z s) (x0 : Nat) : Keeps z (State.bankVerified s x0) := by
  unfold State.bankVerified
  try dsimp only
  with_reducible repeat' first | assumption | apply keeps_programAgain | apply keeps_settleOwners | apply keeps_commitBudgets | apply keeps_storeTargets | apply keeps_modCtx | apply keeps_enter | apply keeps_setStatus | apply keeps_readyOwners | apply keeps_askEclosion | apply Keeps.foldl | apply Keeps.ite | (simp only [Keeps.lit_iff]; apply KeepsLit.of <;> first | rfl | skip) | split | omega | dsimp only [id] | (intro)

theorem keeps_execBankVerified {z s : State} (h : Keeps z s) (x0 : Nat) : OutKeeps z (execBankVerified x0 s) := by
  unfold execBankVerified
  try dsimp only
  with_reducible repeat' first | assumption | apply OutKeeps.next | apply keeps_bankVerified | apply Keeps.foldl | apply Keeps.ite | (simp only [Keeps.lit_iff]; apply KeepsLit.of <;> first | rfl | skip) | split | omega | dsimp only [id] | (intro)

theorem keeps_cmdLoad {z s : State} (h : Keeps z s) (x0 : Nat) (x1 : Nat) : Keeps z (State.cmdLoad s x0 x1) := by
  unfold State.cmdLoad
  try dsimp only
  with_reducible repeat' first | assumption | apply keeps_setStatus | apply keeps_setCtx | apply keeps_askStage | apply Keeps.foldl | apply Keeps.ite | (simp only [Keeps.lit_iff]; apply KeepsLit.of <;> first | rfl | skip) | split | omega | dsimp only [id] | (intro)

theorem keeps_cmdInstall {z s : State} (h : Keeps z s) (x0 : Nat) (x1 : Nat) (x2 : Bool) : Keeps z (State.cmdInstall s x0 x1 x2) := by
  unfold State.cmdInstall
  try dsimp only
  with_reducible repeat' first | assumption | apply keeps_setStatus | apply keeps_modCtx | apply keeps_askStage | apply Keeps.foldl | apply Keeps.ite | (simp only [Keeps.lit_iff]; apply KeepsLit.of <;> first | rfl | skip) | split | omega | dsimp only [id] | (intro)

theorem keeps_cmdEclose {z s : State} (h : Keeps z s) (x0 : Nat) (x1 : Nat) : Keeps z (State.cmdEclose s x0 x1) := by
  unfold State.cmdEclose
  try dsimp only
  with_reducible repeat' first | assumption | apply keeps_setStatus | apply keeps_askEclosion | apply keeps_modCtx | apply Keeps.foldl | apply Keeps.ite | (simp only [Keeps.lit_iff]; apply KeepsLit.of <;> first | rfl | skip) | split | omega | dsimp only [id] | (intro)

theorem keeps_disarmAll {z s : State} (h : Keeps z s) (x0 : Nat) : Keeps z (State.disarmAll s x0) := by
  unfold State.disarmAll
  try dsimp only
  with_reducible repeat' first | assumption | apply keeps_modSeq | apply Keeps.foldl | apply Keeps.ite | (simp only [Keeps.lit_iff]; apply KeepsLit.of <;> first | rfl | skip) | split | omega | dsimp only [id] | (intro)

theorem keeps_cmdAbort {z s : State} (h : Keeps z s) (x0 : Nat) : Keeps z (State.cmdAbort s x0) := by
  unfold State.cmdAbort
  try dsimp only
  with_reducible repeat' first | assumption | apply keeps_setStatus | apply keeps_failInstall | apply keeps_disarmAll | apply keeps_modCtx | apply keeps_freeBank | apply Keeps.foldl | apply Keeps.ite | (simp only [Keeps.lit_iff]; apply KeepsLit.of <;> first | rfl | skip) | split | omega | dsimp only [id] | (intro)

theorem keeps_startCore {z s : State} (h : Keeps z s) (x0 : Nat) (x1 : Nat) : Keeps z (State.startCore s x0 x1) := by
  unfold State.startCore
  try dsimp only
  with_reducible repeat' first | assumption | apply keeps_bankBudgets | apply keeps_modCore | apply Keeps.foldl | apply Keeps.ite | (simp only [Keeps.lit_iff]; apply KeepsLit.of <;> first | rfl | skip) | split | omega | dsimp only [id] | (intro)

theorem keeps_startCtx {z s : State} (h : Keeps z s) (x0 : Nat) : Keeps z (State.startCtx s x0) := by
  unfold State.startCtx
  try dsimp only
  with_reducible repeat' first | assumption | apply keeps_startCore | apply keeps_modCtx | apply keeps_enter | apply Keeps.foldl | apply Keeps.ite | (simp only [Keeps.lit_iff]; apply KeepsLit.of <;> first | rfl | skip) | split | omega | dsimp only [id] | (intro)

theorem keeps_cmdStart {z s : State} (h : Keeps z s) (x0 : Nat) : Keeps z (State.cmdStart s x0) := by
  unfold State.cmdStart
  try dsimp only
  with_reducible repeat' first | assumption | apply keeps_setStatus | apply keeps_startCtx | apply Keeps.foldl | apply Keeps.ite | (simp only [Keeps.lit_iff]; apply KeepsLit.of <;> first | rfl | skip) | split | omega | dsimp only [id] | (intro)

theorem keeps_stopCore {z s : State} (h : Keeps z s) (x0 : Nat) : Keeps z (State.stopCore s x0) := by
  unfold State.stopCore
  try dsimp only
  with_reducible repeat' first | assumption | apply keeps_modSeq | apply keeps_settle | apply Keeps.foldl | apply Keeps.ite | (simp only [Keeps.lit_iff]; apply KeepsLit.of <;> first | rfl | skip) | split | omega | dsimp only [id] | (intro)

theorem keeps_cmdStop {z s : State} (h : Keeps z s) (x0 : Nat) : Keeps z (State.cmdStop s x0) := by
  unfold State.cmdStop
  try dsimp only
  with_reducible repeat' first | assumption | apply keeps_setStatus | apply keeps_stopCore | apply keeps_modCtx | apply keeps_enter | apply Keeps.foldl | apply Keeps.ite | (simp only [Keeps.lit_iff]; apply KeepsLit.of <;> first | rfl | skip) | split | omega | dsimp only [id] | (intro)

theorem keeps_cmdUnload {z s : State} (h : Keeps z s) (x0 : Nat) : Keeps z (State.cmdUnload s x0) := by
  unfold State.cmdUnload
  try dsimp only
  with_reducible repeat' first | assumption | apply keeps_setStatus | apply keeps_releaseCtx | apply Keeps.foldl | apply Keeps.ite | (simp only [Keeps.lit_iff]; apply KeepsLit.of <;> first | rfl | skip) | split | omega | dsimp only [id] | (intro)

theorem keeps_restorePlan {z s : State} (h : Keeps z s) (x0 : StoredPlan) : Keeps z (State.restorePlan s x0) := by
  unfold State.restorePlan
  try dsimp only
  with_reducible repeat' first | assumption | apply keeps_putPlan | apply keeps_putPreload | apply Keeps.foldl | apply Keeps.ite | (simp only [Keeps.lit_iff]; apply KeepsLit.of <;> first | rfl | skip) | split | omega | dsimp only [id] | (intro)

theorem keeps_askReplan {z s : State} (h : Keeps z s) (x0 : Nat) (x1 : Nat) : Keeps z (State.askReplan s x0 x1) := by
  unfold State.askReplan
  try dsimp only
  with_reducible repeat' first | assumption | apply keeps_modCtx | apply keeps_enter | apply keeps_readPlans | apply Keeps.foldl | apply Keeps.ite | (simp only [Keeps.lit_iff]; apply KeepsLit.of <;> first | rfl | skip) | split | omega | dsimp only [id] | (intro)

theorem keeps_restoreMaps {z s : State} (h : Keeps z s) (x0 : Nat) (x1 : Nat) : Keeps z (State.restoreMaps s x0 x1) := by
  unfold State.restoreMaps
  try dsimp only
  with_reducible repeat' first | assumption | apply keeps_modCore | apply Keeps.foldl | apply Keeps.ite | (simp only [Keeps.lit_iff]; apply KeepsLit.of <;> first | rfl | skip) | split | omega | dsimp only [id] | (intro)

theorem keeps_restoreCtx {z s : State} (h : Keeps z s) (x0 : Nat) (x1 : List Nat) : Keeps z (State.restoreCtx s x0 x1) := by
  unfold State.restoreCtx
  try dsimp only
  with_reducible repeat' first | assumption | apply keeps_restoreMaps | apply keeps_commitBudgets | apply keeps_restorePlan | apply Keeps.foldl | apply Keeps.ite | (simp only [Keeps.lit_iff]; apply KeepsLit.of <;> first | rfl | skip) | split | omega | dsimp only [id] | (intro)

theorem keeps_cmdForce {z s : State} (h : Keeps z s) (x0 : Nat) : Keeps z (State.cmdForce s x0) := by
  unfold State.cmdForce
  try dsimp only
  with_reducible repeat' first | assumption | apply keeps_setStatus | apply keeps_restoreCtx | apply keeps_fillPeers | apply keeps_startCtx | apply Keeps.foldl | apply Keeps.ite | (simp only [Keeps.lit_iff]; apply KeepsLit.of <;> first | rfl | skip) | split | omega | dsimp only [id] | (intro)

theorem keeps_ctxCommand {z s : State} (h : Keeps z s) (x0 : Nat) : Keeps z (State.ctxCommand s x0) := by
  unfold State.ctxCommand
  try dsimp only
  with_reducible repeat' first | assumption | apply keeps_setStatus | apply keeps_cmdLoad | apply keeps_cmdInstall | apply keeps_cmdEclose | apply keeps_cmdAbort | apply keeps_cmdStart | apply keeps_cmdStop | apply keeps_cmdUnload | apply keeps_cmdForce | apply Keeps.foldl | apply Keeps.ite | (simp only [Keeps.lit_iff]; apply KeepsLit.of <;> first | rfl | skip) | split | omega | dsimp only [id] | (intro)

theorem keeps_modEclosion {z s : State} (h : Keeps z s) (x0 : Nat) (x1 : Eclosion → Eclosion) : Keeps z (State.modEclosion s x0 x1) := by
  unfold State.modEclosion
  try dsimp only
  with_reducible repeat' first | assumption | apply keeps_modCtx | apply Keeps.foldl | apply Keeps.ite | (simp only [Keeps.lit_iff]; apply KeepsLit.of <;> first | rfl | skip) | split | omega | dsimp only [id] | (intro)

theorem keeps_sendArm {z s : State} (h : Keeps z s) (x0 : Nat) : Keeps z (State.sendArm s x0) := by
  unfold State.sendArm
  try dsimp only
  with_reducible repeat' first | assumption | apply keeps_modEclosion | apply keeps_modCtx | dsimp only [answered] | apply Keeps.foldl | apply Keeps.ite | (simp only [Keeps.lit_iff]; apply KeepsLit.of <;> first | rfl | skip) | split | omega | dsimp only [id] | (intro)

theorem keeps_eclosionBegin {z s : State} (h : Keeps z s) (x0 : Nat) : Keeps z (State.eclosionBegin s x0) := by
  unfold State.eclosionBegin
  try dsimp only
  with_reducible repeat' first | assumption | apply keeps_sendArm | apply Keeps.foldl | apply Keeps.ite | (simp only [Keeps.lit_iff]; apply KeepsLit.of <;> first | rfl | skip) | split | omega | dsimp only [id] | (intro)

theorem keeps_execEclosionBegin {z s : State} (h : Keeps z s) (x0 : Nat) : OutKeeps z (execEclosionBegin x0 s) := by
  unfold execEclosionBegin
  try dsimp only
  with_reducible repeat' first | assumption | apply OutKeeps.next | apply keeps_eclosionBegin | apply Keeps.foldl | apply Keeps.ite | (simp only [Keeps.lit_iff]; apply KeepsLit.of <;> first | rfl | skip) | split | omega | dsimp only [id] | (intro)

theorem keeps_armCore {z s : State} (h : Keeps z s) (x0 : Nat) (x1 : Nat) : Keeps z (State.armCore s x0 x1) := by
  unfold State.armCore
  try dsimp only
  with_reducible repeat' first | assumption | apply keeps_modEclosion | apply keeps_modSeq | dsimp only [answered] | apply Keeps.foldl | apply Keeps.ite | (simp only [Keeps.lit_iff]; apply KeepsLit.of <;> first | rfl | skip) | split | omega | dsimp only [id] | (intro)

theorem keeps_execArm {z s : State} (h : Keeps z s) (x0 : Nat) (x1 : Nat) : OutKeeps z (execArm x0 x1 s) := by
  unfold execArm
  try dsimp only
  with_reducible repeat' first | assumption | apply OutKeeps.next | apply keeps_armCore | apply Keeps.foldl | apply Keeps.ite | (simp only [Keeps.lit_iff]; apply KeepsLit.of <;> first | rfl | skip) | split | omega | dsimp only [id] | (intro)

theorem keeps_disarm {z s : State} (h : Keeps z s) (x0 : Nat) : Keeps z (State.disarm s x0) := by
  unfold State.disarm
  try dsimp only
  with_reducible repeat' first | assumption | apply keeps_disarmAll | apply keeps_modCtx | apply keeps_setStatus | apply keeps_modEclosion | apply keeps_sendArm | apply Keeps.foldl | apply Keeps.ite | (simp only [Keeps.lit_iff]; apply KeepsLit.of <;> first | rfl | skip) | split | omega | dsimp only [id] | (intro)

theorem keeps_execDisarm {z s : State} (h : Keeps z s) (x0 : Nat) : OutKeeps z (execDisarm x0 s) := by
  unfold execDisarm
  try dsimp only
  with_reducible repeat' first | assumption | apply OutKeeps.next | apply keeps_disarm | apply Keeps.foldl | apply Keeps.ite | (simp only [Keeps.lit_iff]; apply KeepsLit.of <;> first | rfl | skip) | split | omega | dsimp only [id] | (intro)

theorem keeps_commitEclosion {z s : State} (h : Keeps z s) (x0 : Nat) : Keeps z (State.commitEclosion s x0) := by
  unfold State.commitEclosion
  try dsimp only
  with_reducible repeat' first | assumption | apply keeps_modCtx | apply keeps_settleOwners | apply keeps_modSeq | apply keeps_modCore | apply keeps_bump | apply keeps_setStatus | dsimp only [answered] | apply Keeps.foldl | apply Keeps.ite | (simp only [Keeps.lit_iff]; apply KeepsLit.of <;> first | rfl | skip) | split | omega | dsimp only [id] | (intro)

theorem keeps_execCommit {z s : State} (h : Keeps z s) (x0 : Nat) : OutKeeps z (execCommit x0 s) := by
  unfold execCommit
  try dsimp only
  with_reducible repeat' first | assumption | apply OutKeeps.next | apply keeps_commitEclosion | apply Keeps.foldl | apply Keeps.ite | (simp only [Keeps.lit_iff]; apply KeepsLit.of <;> first | rfl | skip) | split | omega | dsimp only [id] | (intro)

theorem keeps_requalify {z s : State} (h : Keeps z s) (x0 : Nat) (x1 : Nat) (x2 : Bool) : Keeps z (State.requalify s x0 x1 x2) := by
  unfold State.requalify
  try dsimp only
  with_reducible repeat' first | assumption | apply keeps_setEng | apply keeps_engState | apply keeps_startJob | apply Keeps.foldl | apply Keeps.ite | (simp only [Keeps.lit_iff]; apply KeepsLit.of <;> first | rfl | skip) | split | omega | dsimp only [id] | (intro)

theorem keeps_bankRetire {z s : State} (h : Keeps z s) (x0 : Nat) : Keeps z (State.bankRetire s x0) := by
  unfold State.bankRetire
  try dsimp only
  with_reducible repeat' first | assumption | apply keeps_freeBank | apply keeps_modSeq | apply keeps_requalify | apply keeps_endWait | apply Keeps.foldl | apply Keeps.ite | (simp only [Keeps.lit_iff]; apply KeepsLit.of <;> first | rfl | skip) | split | omega | dsimp only [id] | (intro)

theorem keeps_execBankRetire {z s : State} (h : Keeps z s) (x0 : Nat) : OutKeeps z (execBankRetire x0 s) := by
  unfold execBankRetire
  try dsimp only
  with_reducible repeat' first | assumption | apply OutKeeps.next | apply keeps_bankRetire | apply Keeps.foldl | apply Keeps.ite | (simp only [Keeps.lit_iff]; apply KeepsLit.of <;> first | rfl | skip) | split | omega | dsimp only [id] | (intro)

end Sys2Proof.Machine
end

