-- ==== Sys2Proof/Laws/Fetch.lean ====
section
/-! SUPPORT. What the operations of Machine/Fetch.lean keep (Laws/Keeps.lean), one lemma for each. -/

set_option linter.unusedTactic false
set_option linter.unreachableTactic false
set_option linter.unusedSimpArgs false

namespace Sys2Proof.Machine

theorem keeps_stageBytes {z s : State} (h : Keeps z s) (x0 : List Sys2Proof.Byte) : Keeps z (State.stageBytes s x0) := by
  refine Keeps.litMem h rfl rfl (fun w => ?_) rfl rfl rfl rfl rfl
  simp only [State.memOk, Bool.and_eq_true] at w ⊢
  refine ⟨?_, w.2⟩
  replace w := w.1
  generalize x0.zipIdx = l
  generalize s.mem = m at w
  induction l generalizing m with
  | nil => exact w
  | cons a t ih => exact ih _ (Mem.wf_write _ _ w)

theorem keeps_blockBytes {z s : State} (h : Keeps z s) (x0 : BlockReq) (x1 : List Byte) : Keeps z (State.blockBytes s x0 x1) := by
  unfold State.blockBytes
  try dsimp only
  with_reducible repeat' first | assumption | apply keeps_poke | apply keeps_checkBlock | apply Keeps.foldl | apply Keeps.ite | (simp only [Keeps.lit_iff]; apply KeepsLit.of <;> first | rfl | skip) | split | omega | dsimp only [id] | (intro)

theorem keeps_landBytes {z s : State} (h : Keeps z s) (x0 : List Byte) : Keeps z (State.landBytes s x0) := by
  unfold State.landBytes
  try dsimp only
  with_reducible repeat' first | assumption | apply keeps_blockBytes | apply keeps_stageBytes | apply keeps_staged | apply Keeps.foldl | apply Keeps.ite | (simp only [Keeps.lit_iff]; apply KeepsLit.of <;> first | rfl | skip) | split | omega | dsimp only [id] | (intro)

theorem keeps_landReads {z : State} (n : Nat) {s : State} (h : Keeps z s) : Keeps z (State.landReads n s) := by
  induction n generalizing s with
  | zero => exact h
  | succ n ih =>
    unfold State.landReads
    dsimp only
    with_reducible repeat' first | assumption | apply ih | apply keeps_landBytes | (simp only [Keeps.lit_iff]; apply KeepsLit.of <;> first | rfl | skip) | split | intro

theorem keeps_fetchFailed {z s : State} (h : Keeps z s) : Keeps z (State.fetchFailed s) := by
  unfold State.fetchFailed
  try dsimp only
  with_reducible repeat' first | assumption | apply keeps_failInstall | apply keeps_dropBlock | apply Keeps.foldl | apply Keeps.ite | (simp only [Keeps.lit_iff]; apply KeepsLit.of <;> first | rfl | skip) | split | omega | dsimp only [id] | (intro)

theorem keeps_fetchDown {z s : State} (h : Keeps z s) : Keeps z (State.fetchDown s) := by
  unfold State.fetchDown
  try dsimp only
  with_reducible repeat' first | assumption | apply keeps_fetchFailed | apply Keeps.foldl | apply Keeps.ite | (simp only [Keeps.lit_iff]; apply KeepsLit.of <;> first | rfl | skip) | split | omega | dsimp only [id] | (intro)

theorem keeps_outOfSubset {z s : State} (h : Keeps z s) : Keeps z (State.outOfSubset s) := by
  unfold State.outOfSubset
  try dsimp only
  with_reducible repeat' first | assumption | apply keeps_fetchDown | apply Keeps.foldl | apply Keeps.ite | (simp only [Keeps.lit_iff]; apply KeepsLit.of <;> first | rfl | skip) | split | omega | dsimp only [id] | (intro)

theorem keeps_fetchRetry {z s : State} (h : Keeps z s) (x0 : NvmeOut) : Keeps z (State.fetchRetry s x0) := by
  unfold State.fetchRetry
  try dsimp only
  with_reducible repeat' first | assumption | apply keeps_fetchDown | apply Keeps.foldl | apply Keeps.ite | (simp only [Keeps.lit_iff]; apply KeepsLit.of <;> first | rfl | skip) | split | omega | dsimp only [id] | (intro)

theorem keeps_fetchSend {z s : State} (h : Keeps z s) (x0 : Nat) (x1 : NvmeCmd) : Keeps z (State.fetchSend s x0 x1) := by
  unfold State.fetchSend
  try dsimp only
  with_reducible repeat' first | assumption | apply Keeps.foldl | apply Keeps.ite | (simp only [Keeps.lit_iff]; apply KeepsLit.of <;> first | rfl | skip) | split | omega | dsimp only [id] | (intro)

theorem keeps_icResp {z s : State} (h : Keeps z s) : Keeps z (State.icResp s) := by
  unfold State.icResp
  try dsimp only
  with_reducible repeat' first | assumption | apply keeps_fetchSend | apply keeps_outOfSubset | apply Keeps.foldl | apply Keeps.ite | (simp only [Keeps.lit_iff]; apply KeepsLit.of <;> first | rfl | skip) | split | omega | dsimp only [id] | (intro)

theorem keeps_execIcResp {z s : State} (h : Keeps z s) : OutKeeps z (execIcResp s) := by
  unfold execIcResp
  try dsimp only
  with_reducible repeat' first | assumption | apply OutKeeps.next | apply keeps_icResp | apply Keeps.foldl | apply Keeps.ite | (simp only [Keeps.lit_iff]; apply KeepsLit.of <;> first | rfl | skip) | split | omega | dsimp only [id] | (intro)

theorem keeps_fetchNext {z s : State} (h : Keeps z s) (x0 : NvmeOut) (x1 : Nat) : Keeps z (State.fetchNext s x0 x1) := by
  unfold State.fetchNext
  try dsimp only
  with_reducible repeat' first | assumption | apply keeps_fetchSend | apply keeps_fetchMore | apply keeps_fetchFailed | apply keeps_keepAlive | apply Keeps.foldl | apply Keeps.ite | (simp only [Keeps.lit_iff]; apply KeepsLit.of <;> first | rfl | skip) | split | omega | dsimp only [id] | (intro)

theorem keeps_capsuleResp {z s : State} (h : Keeps z s) (x0 : NvmeResp) : Keeps z (State.capsuleResp s x0) := by
  unfold State.capsuleResp
  try dsimp only
  with_reducible repeat' first | assumption | apply keeps_outOfSubset | apply keeps_fetchRetry | apply keeps_landReads | apply keeps_stageFlow | apply keeps_finishStage | apply keeps_fetchMore | apply keeps_fetchNext | apply Keeps.foldl | apply Keeps.ite | (simp only [Keeps.lit_iff]; apply KeepsLit.of <;> first | rfl | skip) | split | omega | dsimp only [id] | (intro)

theorem keeps_execCapsuleResp {z s : State} (h : Keeps z s) (x0 : NvmeResp) : OutKeeps z (execCapsuleResp x0 s) := by
  unfold execCapsuleResp
  try dsimp only
  with_reducible repeat' first | assumption | apply OutKeeps.next | apply keeps_capsuleResp | apply Keeps.foldl | apply Keeps.ite | (simp only [Keeps.lit_iff]; apply KeepsLit.of <;> first | rfl | skip) | split | omega | dsimp only [id] | (intro)

theorem keeps_c2hData {z s : State} (h : Keeps z s) (x0 : NvmeData) (x1 : Bool) : Keeps z (State.c2hData s x0 x1) := by
  unfold State.c2hData
  try dsimp only
  with_reducible repeat' first | assumption | apply keeps_bump | apply keeps_fetchDown | apply keeps_outOfSubset | apply Keeps.foldl | apply Keeps.ite | (simp only [Keeps.lit_iff]; apply KeepsLit.of <;> first | rfl | skip) | split | omega | dsimp only [id] | (intro)

theorem keeps_execC2hData {z s : State} (h : Keeps z s) (x0 : NvmeData) (x1 : Bool) : OutKeeps z (execC2hData x0 x1 s) := by
  unfold execC2hData
  try dsimp only
  with_reducible repeat' first | assumption | apply OutKeeps.next | apply keeps_c2hData | apply Keeps.foldl | apply Keeps.ite | (simp only [Keeps.lit_iff]; apply KeepsLit.of <;> first | rfl | skip) | split | omega | dsimp only [id] | (intro)

theorem keeps_execC2hTermReq {z s : State} (h : Keeps z s) : OutKeeps z (execC2hTermReq s) := by
  unfold execC2hTermReq
  try dsimp only
  with_reducible repeat' first | assumption | apply OutKeeps.next | apply keeps_fetchDown | apply Keeps.foldl | apply Keeps.ite | (simp only [Keeps.lit_iff]; apply KeepsLit.of <;> first | rfl | skip) | split | omega | dsimp only [id] | (intro)

theorem keeps_execOutOfSubsetPdu {z s : State} (h : Keeps z s) : OutKeeps z (execOutOfSubsetPdu s) := by
  unfold execOutOfSubsetPdu
  try dsimp only
  with_reducible repeat' first | assumption | apply OutKeeps.next | apply keeps_outOfSubset | apply Keeps.foldl | apply Keeps.ite | (simp only [Keeps.lit_iff]; apply KeepsLit.of <;> first | rfl | skip) | split | omega | dsimp only [id] | (intro)

theorem keeps_execLostConnection {z s : State} (h : Keeps z s) : OutKeeps z (execLostConnection s) := by
  unfold execLostConnection
  try dsimp only
  with_reducible repeat' first | assumption | apply OutKeeps.next | apply keeps_fetchDown | apply Keeps.foldl | apply Keeps.ite | (simp only [Keeps.lit_iff]; apply KeepsLit.of <;> first | rfl | skip) | split | omega | dsimp only [id] | (intro)

theorem keeps_fetchTimeout {z s : State} (h : Keeps z s) : Keeps z (State.fetchTimeout s) := by
  unfold State.fetchTimeout
  try dsimp only
  with_reducible repeat' first | assumption | apply keeps_fetchDown | apply keeps_fetchRetry | apply Keeps.foldl | apply Keeps.ite | (simp only [Keeps.lit_iff]; apply KeepsLit.of <;> first | rfl | skip) | split | omega | dsimp only [id] | (intro)

theorem keeps_execFetchTimeout {z s : State} (h : Keeps z s) : OutKeeps z (execFetchTimeout s) := by
  unfold execFetchTimeout
  try dsimp only
  with_reducible repeat' first | assumption | apply OutKeeps.next | apply keeps_fetchTimeout | apply Keeps.foldl | apply Keeps.ite | (simp only [Keeps.lit_iff]; apply KeepsLit.of <;> first | rfl | skip) | split | omega | dsimp only [id] | (intro)

theorem keeps_fetchReconnect {z s : State} (h : Keeps z s) : Keeps z (State.fetchReconnect s) := by
  unfold State.fetchReconnect
  try dsimp only
  with_reducible repeat' first | assumption | apply keeps_bump | apply Keeps.foldl | apply Keeps.ite | (simp only [Keeps.lit_iff]; apply KeepsLit.of <;> first | rfl | skip) | split | omega | dsimp only [id] | (intro)

theorem keeps_execFetchReconnect {z s : State} (h : Keeps z s) : OutKeeps z (execFetchReconnect s) := by
  unfold execFetchReconnect
  try dsimp only
  with_reducible repeat' first | assumption | apply OutKeeps.next | apply keeps_fetchReconnect | apply Keeps.foldl | apply Keeps.ite | (simp only [Keeps.lit_iff]; apply KeepsLit.of <;> first | rfl | skip) | split | omega | dsimp only [id] | (intro)

theorem keeps_keepAlive {z s : State} (h : Keeps z s) : Keeps z (State.keepAlive s) := by
  unfold State.keepAlive
  try dsimp only
  with_reducible repeat' first | assumption | apply keeps_fetchSend | apply Keeps.foldl | apply Keeps.ite | (simp only [Keeps.lit_iff]; apply KeepsLit.of <;> first | rfl | skip) | split | omega | dsimp only [id] | (intro)

theorem keeps_execKeepAlive {z s : State} (h : Keeps z s) : OutKeeps z (execKeepAlive s) := by
  unfold execKeepAlive
  try dsimp only
  with_reducible repeat' first | assumption | apply OutKeeps.next | apply keeps_keepAlive | apply Keeps.foldl | apply Keeps.ite | (simp only [Keeps.lit_iff]; apply KeepsLit.of <;> first | rfl | skip) | split | omega | dsimp only [id] | (intro)

theorem keeps_pushTail {z s : State} (h : Keeps z s) (x0 : Nat) : Keeps z (State.pushTail s x0) := by
  unfold State.pushTail
  try dsimp only
  with_reducible repeat' first | assumption | apply keeps_failInstall | apply keeps_stageFlow | apply keeps_finishStage | apply Keeps.foldl | apply Keeps.ite | (simp only [Keeps.lit_iff]; apply KeepsLit.of <;> first | rfl | skip) | split | omega | dsimp only [id] | (intro)

theorem keeps_execPushTail {z s : State} (h : Keeps z s) (x0 : Nat) : OutKeeps z (execPushTail x0 s) := by
  unfold execPushTail
  try dsimp only
  with_reducible repeat' first | assumption | apply OutKeeps.next | apply keeps_pushTail | apply Keeps.foldl | apply Keeps.ite | (simp only [Keeps.lit_iff]; apply KeepsLit.of <;> first | rfl | skip) | split | omega | dsimp only [id] | (intro)

theorem keeps_blockReady {z s : State} (h : Keeps z s) (x0 : Nat) : Keeps z (State.blockReady s x0) := by
  unfold State.blockReady
  try dsimp only
  with_reducible repeat' first | assumption | apply keeps_checkBlock | apply Keeps.foldl | apply Keeps.ite | (simp only [Keeps.lit_iff]; apply KeepsLit.of <;> first | rfl | skip) | split | omega | dsimp only [id] | (intro)

end Sys2Proof.Machine
end

