-- ==== Sys2Proof/Laws/Exchange.lean ====
section
/-! SUPPORT. What the operations of Machine/Exchange.lean keep (Laws/Keeps.lean), one lemma for each. -/

set_option linter.unusedTactic false
set_option linter.unreachableTactic false
set_option linter.unusedSimpArgs false

namespace Sys2Proof.Machine

theorem keeps_scheduleReplace {z s : State} (h : Keeps z s) (x0 : Nat) (x1 : Nat) : Keeps z (State.scheduleReplace s x0 x1) := by
  unfold State.scheduleReplace
  try dsimp only
  with_reducible repeat' first | assumption | apply keeps_modReplace | apply keeps_record | apply Keeps.foldl | apply Keeps.ite | (simp only [Keeps.lit_iff]; apply KeepsLit.of <;> first | rfl | skip) | split | omega | dsimp only [id] | (intro)

theorem keeps_programSpare {z s : State} (h : Keeps z s) (x0 : Nat) (x1 : Nat) (x2 : Nat) (x3 : Nat) (x4 : Nat) (x5 : Nat) (x6 : JobUse) : Keeps z (State.programSpare s x0 x1 x2 x3 x4 x5 x6) := by
  unfold State.programSpare
  try dsimp only
  with_reducible repeat' first | assumption | apply keeps_takeUp | apply keeps_startJob | apply keeps_modEng | apply keeps_useBlock | apply Keeps.foldl | apply Keeps.ite | (simp only [Keeps.lit_iff]; apply KeepsLit.of <;> first | rfl | skip) | split | omega | dsimp only [id] | (intro)

theorem keeps_keepExchange {z s : State} (h : Keeps z s) (x0 : Nat) (x1 : Nat) (x2 : Nat) (x3 : Nat) (x4 : Nat) (x5 : Bool) : Keeps z (State.keepExchange s x0 x1 x2 x3 x4 x5) := by
  unfold State.keepExchange
  try dsimp only
  with_reducible repeat' first | assumption | apply keeps_modCtx | apply keeps_modCore | apply Keeps.foldl | apply Keeps.ite | (simp only [Keeps.lit_iff]; apply KeepsLit.of <;> first | rfl | skip) | split | omega | dsimp only [id] | (intro)

theorem keeps_dropDue {z s : State} (h : Keeps z s) (x0 : Nat) (x1 : Nat) : Keeps z (State.dropDue s x0 x1) := by
  unfold State.dropDue
  try dsimp only
  with_reducible repeat' first | assumption | apply keeps_engState | apply Keeps.foldl | apply Keeps.ite | (simp only [Keeps.lit_iff]; apply KeepsLit.of <;> first | rfl | skip) | split | omega | dsimp only [id] | (intro)

theorem keeps_exchangeStandby {z s : State} (h : Keeps z s) (x0 : Nat) (x1 : Nat) (x2 : Nat) (x3 : Nat) (x4 : Nat) (x5 : Nat) : Keeps z (State.exchangeStandby s x0 x1 x2 x3 x4 x5) := by
  unfold State.exchangeStandby
  try dsimp only
  with_reducible repeat' first | assumption | apply keeps_endRequest | apply keeps_dropDue | apply keeps_endExchange | apply keeps_waitExchange | apply keeps_scheduleReplace | apply keeps_programSpare | apply keeps_keepExchange | apply keeps_modCtx | apply keeps_wantBlock | apply Keeps.foldl | apply Keeps.ite | (simp only [Keeps.lit_iff]; apply KeepsLit.of <;> first | rfl | skip) | split | omega | dsimp only [id] | (intro)

theorem keeps_engineExchange {z s : State} (h : Keeps z s) (x0 : Nat) (x1 : Nat) : Keeps z (State.engineExchange s x0 x1) := by
  unfold State.engineExchange
  try dsimp only
  with_reducible repeat' first | assumption | apply keeps_endRequest | apply keeps_waitExchange | apply keeps_scheduleReplace | apply keeps_programSpare | apply keeps_endExchange | apply keeps_wantBlock | apply keeps_exchangeStandby | apply Keeps.foldl | apply Keeps.ite | (simp only [Keeps.lit_iff]; apply KeepsLit.of <;> first | rfl | skip) | split | omega | dsimp only [id] | (intro)

theorem keeps_execEngineExchange {z s : State} (h : Keeps z s) (x0 : Nat) (x1 : Nat) : OutKeeps z (execEngineExchange x0 x1 s) := by
  unfold execEngineExchange
  try dsimp only
  with_reducible repeat' first | assumption | apply OutKeeps.next | apply keeps_engineExchange | apply Keeps.foldl | apply Keeps.ite | (simp only [Keeps.lit_iff]; apply KeepsLit.of <;> first | rfl | skip) | split | omega | dsimp only [id] | (intro)

theorem keeps_standbyCopy {z s : State} (h : Keeps z s) (x0 : Nat) (x1 : Nat) (x2 : Nat) (x3 : Nat) : Keeps z (State.standbyCopy s x0 x1 x2 x3) := by
  unfold State.standbyCopy
  try dsimp only
  with_reducible repeat' first | assumption | apply keeps_modCore | apply keeps_modCtx | apply keeps_poke | apply keeps_storePlan | apply Keeps.foldl | apply Keeps.ite | (simp only [Keeps.lit_iff]; apply KeepsLit.of <;> first | rfl | skip) | split | omega | dsimp only [id] | (intro)

theorem keeps_exchangeDone {z s : State} (h : Keeps z s) (x0 : Nat) (x1 : Nat) (x2 : Nat) (x3 : Nat) (x4 : Nat) (x5 : Bool) : Keeps z (State.exchangeDone s x0 x1 x2 x3 x4 x5) := by
  unfold State.exchangeDone
  try dsimp only
  with_reducible repeat' first | assumption | apply keeps_modEng | apply keeps_record | apply keeps_standbyCopy | apply keeps_askEclosion | apply keeps_keepExchange | apply keeps_dropDue | apply Keeps.foldl | apply Keeps.ite | (simp only [Keeps.lit_iff]; apply KeepsLit.of <;> first | rfl | skip) | split | omega | dsimp only [id] | (intro)

theorem keeps_readiness {z s : State} (h : Keeps z s) : Keeps z (State.readiness s) := by
  unfold State.readiness
  try dsimp only
  with_reducible repeat' first | assumption | apply keeps_clearCauses | apply Keeps.foldl | apply Keeps.ite | (simp only [Keeps.lit_iff]; apply KeepsLit.of <;> first | rfl | skip) | split | omega | dsimp only [id] | (intro)

theorem keeps_blockProgrammed {z s : State} (h : Keeps z s) (x0 : Nat) (x1 : Nat) (x2 : Nat) : Keeps z (State.blockProgrammed s x0 x1 x2) := by
  unfold State.blockProgrammed
  try dsimp only
  with_reducible repeat' first | assumption | apply keeps_modCtx | apply keeps_stageFlow | apply keeps_finishStage | apply keeps_readiness | apply Keeps.foldl | apply Keeps.ite | (simp only [Keeps.lit_iff]; apply KeepsLit.of <;> first | rfl | skip) | split | omega | dsimp only [id] | (intro)

theorem keeps_requalified {z s : State} (h : Keeps z s) (x0 : Nat) (x1 : Nat) : Keeps z (State.requalified s x0 x1) := by
  unfold State.requalified
  try dsimp only
  with_reducible repeat' first | assumption | apply keeps_healthScore | apply keeps_engState | apply Keeps.foldl | apply Keeps.ite | (simp only [Keeps.lit_iff]; apply KeepsLit.of <;> first | rfl | skip) | split | omega | dsimp only [id] | (intro)

theorem keeps_jobUsed {z s : State} (h : Keeps z s) (x0 : Nat) (x1 : Nat) (x2 : JobUse) : Keeps z (State.jobUsed s x0 x1 x2) := by
  unfold State.jobUsed
  try dsimp only
  with_reducible repeat' first | assumption | apply keeps_blockProgrammed | apply keeps_exchangeDone | apply keeps_requalify | apply keeps_requalified | apply Keeps.foldl | apply Keeps.ite | (simp only [Keeps.lit_iff]; apply KeepsLit.of <;> first | rfl | skip) | split | omega | dsimp only [id] | (intro)

theorem keeps_engineProgrammed {z s : State} (h : Keeps z s) (x0 : Nat) (x1 : Nat) : Keeps z (State.engineProgrammed s x0 x1) := by
  unfold State.engineProgrammed
  try dsimp only
  with_reducible repeat' first | assumption | apply keeps_setEng | apply keeps_closeColumn | apply keeps_doneBlock | apply keeps_closeJob | apply keeps_jobUsed | apply Keeps.foldl | apply Keeps.ite | (simp only [Keeps.lit_iff]; apply KeepsLit.of <;> first | rfl | skip) | split | omega | dsimp only [id] | (intro)

theorem keeps_execEngineProgrammed {z s : State} (h : Keeps z s) (x0 : Nat) (x1 : Nat) : OutKeeps z (execEngineProgrammed x0 x1 s) := by
  unfold execEngineProgrammed
  try dsimp only
  with_reducible repeat' first | assumption | apply OutKeeps.next | apply keeps_engineProgrammed | apply Keeps.foldl | apply Keeps.ite | (simp only [Keeps.lit_iff]; apply KeepsLit.of <;> first | rfl | skip) | split | omega | dsimp only [id] | (intro)

theorem keeps_verifyTe {z s : State} (h : Keeps z s) (x0 : Nat) (x1 : Nat) : Keeps z (State.verifyTe s x0 x1) := by
  unfold State.verifyTe
  try dsimp only
  with_reducible repeat' first | assumption | apply keeps_testNow | apply keeps_modEng | apply Keeps.foldl | apply Keeps.ite | (simp only [Keeps.lit_iff]; apply KeepsLit.of <;> first | rfl | skip) | split | omega | dsimp only [id] | (intro)

theorem keeps_flagDevices {z s : State} (h : Keeps z s) (x0 : Nat) (x1 : Nat) (x2 : Nat) : Keeps z (State.flagDevices s x0 x1 x2) := by
  unfold State.flagDevices
  try dsimp only
  with_reducible repeat' first | assumption | apply keeps_draw | apply keeps_setEng | apply Keeps.foldl | apply Keeps.ite | (simp only [Keeps.lit_iff]; apply KeepsLit.of <;> first | rfl | skip) | split | omega | dsimp only [id] | (intro)

theorem keeps_verifyFail {z s : State} (h : Keeps z s) (x0 : Nat) (x1 : Nat) (x2 : Nat) (x3 : Nat) (x4 : Nat) : Keeps z (State.verifyFail s x0 x1 x2 x3 x4) := by
  unfold State.verifyFail
  try dsimp only
  with_reducible repeat' first | assumption | apply keeps_setEng | apply keeps_modCtx | apply keeps_enter | apply keeps_startJob | apply keeps_useBlock | apply keeps_wantBlock | apply Keeps.foldl | apply Keeps.ite | (simp only [Keeps.lit_iff]; apply KeepsLit.of <;> first | rfl | skip) | split | omega | dsimp only [id] | (intro)

theorem keeps_engineVerify {z s : State} (h : Keeps z s) (x0 : Nat) (x1 : Nat) : Keeps z (State.engineVerify s x0 x1) := by
  unfold State.engineVerify
  try dsimp only
  with_reducible repeat' first | assumption | apply keeps_verifyTe | apply keeps_draw | apply keeps_drawN | apply keeps_modEng | apply keeps_flagDevices | apply keeps_endRequest | apply keeps_modCtx | apply keeps_readiness | apply keeps_verifyFail | apply Keeps.foldl | apply Keeps.ite | (simp only [Keeps.lit_iff]; apply KeepsLit.of <;> first | rfl | skip) | split | omega | dsimp only [id] | (intro)

theorem keeps_execEngineVerify {z s : State} (h : Keeps z s) (x0 : Nat) (x1 : Nat) : OutKeeps z (execEngineVerify x0 x1 s) := by
  unfold execEngineVerify
  try dsimp only
  with_reducible repeat' first | assumption | apply OutKeeps.next | apply keeps_engineVerify | apply Keeps.foldl | apply Keeps.ite | (simp only [Keeps.lit_iff]; apply KeepsLit.of <;> first | rfl | skip) | split | omega | dsimp only [id] | (intro)

theorem keeps_contextAutostart {z s : State} (h : Keeps z s) (x0 : Nat) : Keeps z (State.contextAutostart s x0) := by
  unfold State.contextAutostart
  try dsimp only
  with_reducible repeat' first | assumption | apply keeps_restoreCtx | apply keeps_askReplan | apply keeps_modCtx | apply keeps_enter | apply keeps_fillPeers | apply keeps_startCore | apply keeps_readiness | apply Keeps.foldl | apply Keeps.ite | (simp only [Keeps.lit_iff]; apply KeepsLit.of <;> first | rfl | skip) | split | omega | dsimp only [id] | (intro)

theorem keeps_execContextAutostart {z s : State} (h : Keeps z s) (x0 : Nat) : OutKeeps z (execContextAutostart x0 s) := by
  unfold execContextAutostart
  try dsimp only
  with_reducible repeat' first | assumption | apply OutKeeps.next | apply keeps_contextAutostart | apply Keeps.foldl | apply Keeps.ite | (simp only [Keeps.lit_iff]; apply KeepsLit.of <;> first | rfl | skip) | split | omega | dsimp only [id] | (intro)

theorem keeps_hostReplace {z s : State} (h : Keeps z s) (x0 : Nat) : Keeps z (State.hostReplace s x0) := by
  unfold State.hostReplace
  try dsimp only
  with_reducible repeat' first | assumption | apply keeps_scheduleReplace | apply Keeps.foldl | apply Keeps.ite | (simp only [Keeps.lit_iff]; apply KeepsLit.of <;> first | rfl | skip) | split | omega | dsimp only [id] | (intro)

theorem keeps_spareFails {z s : State} (h : Keeps z s) (x0 : Nat) (x1 : Nat) : Keeps z (State.spareFails s x0 x1) := by
  unfold State.spareFails
  try dsimp only
  with_reducible repeat' first | assumption | apply keeps_modCore | apply keeps_record | apply Keeps.foldl | apply Keeps.ite | (simp only [Keeps.lit_iff]; apply KeepsLit.of <;> first | rfl | skip) | split | omega | dsimp only [id] | (intro)

theorem keeps_chooseSpare {z s : State} (h : Keeps z s) (x0 : Nat) (x1 : Nat) (x2 : Nat) (x3 : Nat) : Keeps z (State.chooseSpare s x0 x1 x2 x3) := by
  induction x3 generalizing s x0 x1 x2 with
  | zero =>
    unfold State.chooseSpare
    try dsimp only
    with_reducible repeat' first | assumption
  | succ n ih =>
    unfold State.chooseSpare
    try dsimp only
    with_reducible repeat' first | assumption | apply ih | apply keeps_coreStart | apply keeps_modReplace | apply keeps_spareFails | apply keeps_waitAction | apply keeps_draw | apply keeps_modCore | apply keeps_endWait | apply Keeps.foldl | apply Keeps.ite | (simp only [Keeps.lit_iff]; apply KeepsLit.of <;> first | rfl | skip) | split | omega | dsimp only [id] | (intro)

theorem keeps_replaceEngine {z s : State} (h : Keeps z s) (x0 : Nat) (x1 : Nat) (x2 : Nat) : Keeps z (State.replaceEngine s x0 x1 x2) := by
  unfold State.replaceEngine
  try dsimp only
  with_reducible repeat' first | assumption | apply keeps_takeUp | apply keeps_startJob | apply keeps_modEng | apply keeps_useBlock | apply keeps_modReplace | apply keeps_endWait | apply keeps_wantBlock | apply keeps_waitAction | apply Keeps.foldl | apply Keeps.ite | (simp only [Keeps.lit_iff]; apply KeepsLit.of <;> first | rfl | skip) | split | omega | dsimp only [id] | (intro)

theorem keeps_copyBytes {z s : State} (h : Keeps z s) (x0 : State) (x1 : Nat) (x2 : Nat) (x3 : Nat) : Keeps z (State.copyBytes s x0 x1 x2 x3) := by
  unfold State.copyBytes
  try dsimp only
  with_reducible repeat' first | assumption | apply keeps_poisonWord | apply keeps_poke | apply Keeps.foldl | apply Keeps.ite | (simp only [Keeps.lit_iff]; apply KeepsLit.of <;> first | rfl | skip) | split | omega | dsimp only [id] | (intro)

theorem keeps_copyBank {z s : State} (h : Keeps z s) (x0 : Nat) (x1 : Nat) (x2 : Nat) : Keeps z (State.copyBank s x0 x1 x2) := by
  unfold State.copyBank
  try dsimp only
  with_reducible repeat' first | assumption | apply keeps_copyBytes | apply keeps_modCore | apply keeps_putPlan | apply keeps_putPreload | apply Keeps.foldl | apply Keeps.ite | (simp only [Keeps.lit_iff]; apply KeepsLit.of <;> first | rfl | skip) | split | omega | dsimp only [id] | (intro)

theorem keeps_copyPlans {z s : State} (h : Keeps z s) (x0 : Nat) (x1 : Nat) (x2 : Tab Nat) : Keeps z (State.copyPlans s x0 x1 x2) := by
  unfold State.copyPlans
  try dsimp only
  with_reducible repeat' first | assumption | apply keeps_copyBank | apply keeps_modCore | apply Keeps.foldl | apply Keeps.ite | (simp only [Keeps.lit_iff]; apply KeepsLit.of <;> first | rfl | skip) | split | omega | dsimp only [id] | (intro)

theorem keeps_replaceStart {z s : State} (h : Keeps z s) (x0 : Nat) : Keeps z (State.replaceStart s x0) := by
  unfold State.replaceStart
  try dsimp only
  with_reducible repeat' first | assumption | apply keeps_modReplace | apply keeps_chooseSpare | apply keeps_replaceEngine | apply keeps_copyPlans | apply keeps_modSeq | apply Keeps.foldl | apply Keeps.ite | (simp only [Keeps.lit_iff]; apply KeepsLit.of <;> first | rfl | skip) | split | omega | dsimp only [id] | (intro)

theorem keeps_execCoreReplaceStart {z s : State} (h : Keeps z s) (x0 : Nat) : OutKeeps z (execCoreReplaceStart x0 s) := by
  unfold execCoreReplaceStart
  try dsimp only
  with_reducible repeat' first | assumption | apply OutKeeps.next | apply keeps_replaceStart | apply Keeps.foldl | apply Keeps.ite | (simp only [Keeps.lit_iff]; apply KeepsLit.of <;> first | rfl | skip) | split | omega | dsimp only [id] | (intro)

theorem keeps_movePeers {z s : State} (h : Keeps z s) (x0 : Nat) (x1 : Nat) : Keeps z (State.movePeers s x0 x1) := by
  unfold State.movePeers
  try dsimp only
  with_reducible repeat' first | assumption | apply Keeps.foldl | apply Keeps.ite | (simp only [Keeps.lit_iff]; apply KeepsLit.of <;> first | rfl | skip) | split | omega | dsimp only [id] | (intro)

theorem keeps_rebuild {z s : State} (h : Keeps z s) (x0 : Nat) (x1 : Nat) (x2 : Nat) : Keeps z (State.rebuild s x0 x1 x2) := by
  unfold State.rebuild
  try dsimp only
  with_reducible repeat' first | assumption | apply keeps_endPulses | apply keeps_doneBlock | apply keeps_endWaits | apply keeps_modEng | apply keeps_markBudget | apply keeps_failPlan | apply keeps_modCtx | apply keeps_bindBlock | apply keeps_stageFlow | apply Keeps.foldl | apply Keeps.ite | (simp only [Keeps.lit_iff]; apply KeepsLit.of <;> first | rfl | skip) | split | omega | dsimp only [id] | (intro)

theorem keeps_copyCore {z s : State} (h : Keeps z s) (x0 : Nat) (x1 : Nat) (x2 : Tab Nat) : Keeps z (State.copyCore s x0 x1 x2) := by
  unfold State.copyCore
  try dsimp only
  with_reducible repeat' first | assumption | apply keeps_copyPlans | apply keeps_copyBytes | apply keeps_setCore | apply Keeps.foldl | apply Keeps.ite | (simp only [Keeps.lit_iff]; apply KeepsLit.of <;> first | rfl | skip) | split | omega | dsimp only [id] | (intro)

theorem keeps_moveOwners {z s : State} (h : Keeps z s) (x0 : Nat) (x1 : Nat) (x2 : Tab Nat) : Keeps z (State.moveOwners s x0 x1 x2) := by
  unfold State.moveOwners
  try dsimp only
  with_reducible repeat' first | assumption | apply keeps_modEng | apply keeps_endWaits | apply keeps_markBudget | apply Keeps.foldl | apply Keeps.ite | (simp only [Keeps.lit_iff]; apply KeepsLit.of <;> first | rfl | skip) | split | omega | dsimp only [id] | (intro)

theorem keeps_retireCore {z s : State} (h : Keeps z s) (x0 : Nat) : Keeps z (State.retireCore s x0) := by
  unfold State.retireCore
  try dsimp only
  with_reducible repeat' first | assumption | apply keeps_draw | apply keeps_coreOff | apply keeps_raiseEpoch | apply keeps_modCore | apply Keeps.foldl | apply Keeps.ite | (simp only [Keeps.lit_iff]; apply KeepsLit.of <;> first | rfl | skip) | split | omega | dsimp only [id] | (intro)

theorem keeps_replaceSwitch {z s : State} (h : Keeps z s) (x0 : Nat) : Keeps z (State.replaceSwitch s x0) := by
  unfold State.replaceSwitch
  try dsimp only
  with_reducible repeat' first | assumption | apply keeps_modSeq | apply keeps_modReplace | apply keeps_copyCore | apply keeps_modCtx | apply keeps_moveOwners | apply keeps_rebuild | apply keeps_modComm | apply keeps_movePeers | apply keeps_announceEpoch | apply keeps_retireCore | apply keeps_record | apply keeps_bump | apply keeps_endWait | apply Keeps.foldl | apply Keeps.ite | (simp only [Keeps.lit_iff]; apply KeepsLit.of <;> first | rfl | skip) | split | omega | dsimp only [id] | (intro)

theorem keeps_execCoreReplaceSwitch {z s : State} (h : Keeps z s) (x0 : Nat) : OutKeeps z (execCoreReplaceSwitch x0 s) := by
  unfold execCoreReplaceSwitch
  try dsimp only
  with_reducible repeat' first | assumption | apply OutKeeps.next | apply keeps_replaceSwitch | apply Keeps.foldl | apply Keeps.ite | (simp only [Keeps.lit_iff]; apply KeepsLit.of <;> first | rfl | skip) | split | omega | dsimp only [id] | (intro)

end Sys2Proof.Machine
end

