-- ==== Sys2Proof/Laws/Access.lean ====
section
/-! SUPPORT. What the operations of Machine/Access.lean keep (Laws/Keeps.lean), one lemma for each. -/

set_option linter.unusedTactic false
set_option linter.unreachableTactic false
set_option linter.unusedSimpArgs false

namespace Sys2Proof.Machine

theorem keeps_calRestore {z s : State} (h : Keeps z s) (x0 : Nat) : Keeps z (State.calRestore s x0) := by
  unfold State.calRestore
  try dsimp only
  with_reducible repeat' first | assumption | apply keeps_restoreEngines | apply Keeps.foldl | apply Keeps.ite | (simp only [Keeps.lit_iff]; apply KeepsLit.of <;> first | rfl | skip) | split | omega | dsimp only [id] | (intro)

theorem keeps_keepSyncFields {z s : State} (h : Keeps z s) (x0 : State) (x1 : Nat) (x2 : Nat) : Keeps z (State.keepSyncFields s x0 x1 x2) := by
  unfold State.keepSyncFields
  try dsimp only
  with_reducible repeat' first | assumption | apply keeps_setSync | apply Keeps.foldl | apply Keeps.ite | (simp only [Keeps.lit_iff]; apply KeepsLit.of <;> first | rfl | skip) | split | omega | dsimp only [id] | (intro)

theorem keeps_seeWords {z s : State} (h : Keeps z s) (x0 : Nat) (x1 : Nat) : Keeps z (State.seeWords s x0 x1) := by
  unfold State.seeWords
  try dsimp only
  with_reducible repeat' first | assumption | apply Keeps.foldl | apply Keeps.ite | (simp only [Keeps.lit_iff]; apply KeepsLit.of <;> first | rfl | skip) | split | omega | dsimp only [id] | (intro)

theorem keeps_placeWrite {z s : State} (h : Keeps z s) (x0 : Nat) (x1 : List Byte) : Keeps z (State.placeWrite s x0 x1) := by
  unfold State.placeWrite
  try dsimp only
  with_reducible repeat' first | assumption | apply keeps_poke | apply keeps_keepSyncFields | apply keeps_seeWords | apply Keeps.foldl | apply Keeps.ite | (simp only [Keeps.lit_iff]; apply KeepsLit.of <;> first | rfl | skip) | split | omega | dsimp only [id] | (intro)

theorem keeps_storeWrite {z s : State} (h : Keeps z s) (x0 : Nat) (x1 : List Byte) : Keeps z (State.storeWrite s x0 x1) := by
  unfold State.storeWrite
  try dsimp only
  with_reducible repeat' first | assumption | apply keeps_crossed | apply keeps_overBridge | apply keeps_placeWrite | apply Keeps.foldl | apply Keeps.ite | (simp only [Keeps.lit_iff]; apply KeepsLit.of <;> first | rfl | skip) | split | omega | dsimp only [id] | (intro)

theorem keeps_sysWrite {z s : State} (h : Keeps z s) (x0 : Bool) (x1 : Nat) (x2 : List Byte) : Keeps z (State.sysWrite s x0 x1 x2) := by
  unfold State.sysWrite
  try dsimp only
  with_reducible repeat' first | assumption | apply keeps_bump | apply keeps_calBytes | apply keeps_coreWrite | apply keeps_storeWrite | apply Keeps.foldl | apply Keeps.ite | (simp only [Keeps.lit_iff]; apply KeepsLit.of <;> first | rfl | skip) | split | omega | dsimp only [id] | (intro)

theorem keeps_sysPieces {z s : State} (h : Keeps z s) (x0 : Bool) (x1 : Nat) (x2 : List Sys2Proof.Byte) (x3 : Nat) : Keeps z (State.sysPieces s x0 x1 x2 x3) := by
  induction x3 generalizing s x0 x1 x2 with
  | zero =>
    unfold State.sysPieces
    try dsimp only
    with_reducible repeat' first | assumption
  | succ n ih =>
    unfold State.sysPieces
    try dsimp only
    with_reducible repeat' first | assumption | apply ih | apply keeps_sysWrite | apply Keeps.foldl | apply Keeps.ite | split | omega | dsimp only [id] | (intro)

theorem keeps_sysWriteAll {z s : State} (h : Keeps z s) (x0 : Bool) (x1 : Nat) (x2 : List Byte) : Keeps z (State.sysWriteAll s x0 x1 x2) := by
  unfold State.sysWriteAll
  try dsimp only
  with_reducible repeat' first | assumption | apply keeps_sysPieces | apply Keeps.foldl | apply Keeps.ite | (simp only [Keeps.lit_iff]; apply KeepsLit.of <;> first | rfl | skip) | split | omega | dsimp only [id] | (intro)

theorem keeps_freezeMaster {z s : State} (h : Keeps z s) (x0 : Nat) (x1 : Nat) (x2 : Bool) : Keeps z (State.freezeMaster s x0 x1 x2) := by
  unfold State.freezeMaster
  try dsimp only
  with_reducible repeat' first | assumption | apply keeps_modMaster | apply keeps_record | apply keeps_msix | apply Keeps.foldl | apply Keeps.ite | (simp only [Keeps.lit_iff]; apply KeepsLit.of <;> first | rfl | skip) | split | omega | dsimp only [id] | (intro)

theorem keeps_hold {z s : State} (h : Keeps z s) (x0 : Nat) (x1 : HeldReq) : Keeps z (State.hold s x0 x1) := by
  unfold State.hold
  try dsimp only
  with_reducible repeat' first | assumption | apply keeps_modMaster | apply keeps_bump | apply Keeps.foldl | apply Keeps.ite | (simp only [Keeps.lit_iff]; apply KeepsLit.of <;> first | rfl | skip) | split | omega | dsimp only [id] | (intro)

theorem keeps_masterWrite {z s : State} (h : Keeps z s) (x0 : Nat) (x1 : Ses) (x2 : Nat) (x3 : List Byte) : Keeps z (State.masterWrite s x0 x1 x2 x3) := by
  unfold State.masterWrite
  try dsimp only
  with_reducible repeat' first | assumption | apply keeps_hold | apply keeps_sysWriteAll | apply keeps_freezeMaster | apply Keeps.foldl | apply Keeps.ite | (simp only [Keeps.lit_iff]; apply KeepsLit.of <;> first | rfl | skip) | split | omega | dsimp only [id] | (intro)

end Sys2Proof.Machine
end

