-- ==== Sys2Proof/Laws/Time.lean ====
section
/-! SUPPORT. What the operations of Machine/Time.lean keep (Laws/Keeps.lean), one lemma for each. -/

set_option linter.unusedTactic false
set_option linter.unreachableTactic false
set_option linter.unusedSimpArgs false

namespace Sys2Proof.Machine

theorem keeps_setGtcMode {z s : State} (h : Keeps z s) (x0 : GtcState) : Keeps z (State.setGtcMode s x0) := by
  unfold State.setGtcMode
  try dsimp only
  with_reducible repeat' first | assumption | apply keeps_record | apply Keeps.foldl | apply Keeps.ite | (simp only [Keeps.lit_iff]; apply KeepsLit.of <;> first | rfl | skip) | split | omega | dsimp only [id] | (intro)

theorem keeps_timeSourceSet {z s : State} (h : Keeps z s) : Keeps z (State.timeSourceSet s) := by
  unfold State.timeSourceSet
  try dsimp only
  with_reducible repeat' first | assumption | apply keeps_setGtcMode | apply Keeps.foldl | apply Keeps.ite | (simp only [Keeps.lit_iff]; apply KeepsLit.of <;> first | rfl | skip) | split | omega | dsimp only [id] | (intro)

theorem keeps_compareRef {z s : State} (h : Keeps z s) (x0 : Int) (x1 : Nat) : Keeps z (State.compareRef s x0 x1) := by
  unfold State.compareRef
  try dsimp only
  with_reducible repeat' first | assumption | apply keeps_setGtcMode | apply Keeps.foldl | apply Keeps.ite | (simp only [Keeps.lit_iff]; apply KeepsLit.of <;> first | rfl | skip) | split | omega | dsimp only [id] | (intro)

theorem keeps_seeRef {z s : State} (h : Keeps z s) (x0 : Nat) : Keeps z (State.seeRef s x0) := by
  unfold State.seeRef
  try dsimp only
  with_reducible repeat' first | assumption | apply Keeps.foldl | apply Keeps.ite | (simp only [Keeps.lit_iff]; apply KeepsLit.of <;> first | rfl | skip) | split | omega | dsimp only [id] | (intro)

theorem keeps_disciplineBy {z s : State} (h : Keeps z s) (x0 : Nat) : Keeps z (State.disciplineBy s x0) := by
  unfold State.disciplineBy
  try dsimp only
  with_reducible repeat' first | assumption | apply keeps_compareRef | apply Keeps.foldl | apply Keeps.ite | (simp only [Keeps.lit_iff]; apply KeepsLit.of <;> first | rfl | skip) | split | omega | dsimp only [id] | (intro)

theorem keeps_referenceEvent {z s : State} (h : Keeps z s) (x0 : Nat) : Keeps z (State.referenceEvent s x0) := by
  unfold State.referenceEvent
  try dsimp only
  with_reducible repeat' first | assumption | apply keeps_seeRef | apply keeps_setGtcMode | apply keeps_disciplineBy | apply Keeps.foldl | apply Keeps.ite | (simp only [Keeps.lit_iff]; apply KeepsLit.of <;> first | rfl | skip) | split | omega | dsimp only [id] | (intro)

theorem keeps_execReferenceEvent {z s : State} (h : Keeps z s) (x0 : Nat) : OutKeeps z (execReferenceEvent x0 s) := by
  unfold execReferenceEvent
  try dsimp only
  with_reducible repeat' first | assumption | apply OutKeeps.next | apply keeps_referenceEvent | apply Keeps.foldl | apply Keeps.ite | (simp only [Keeps.lit_iff]; apply KeepsLit.of <;> first | rfl | skip) | split | omega | dsimp only [id] | (intro)

theorem keeps_sourceLost {z s : State} (h : Keeps z s) : Keeps z (State.sourceLost s) := by
  unfold State.sourceLost
  try dsimp only
  with_reducible repeat' first | assumption | apply keeps_bump | apply keeps_setGtcMode | apply Keeps.foldl | apply Keeps.ite | (simp only [Keeps.lit_iff]; apply KeepsLit.of <;> first | rfl | skip) | split | omega | dsimp only [id] | (intro)

theorem keeps_execSourceLost {z s : State} (h : Keeps z s) : OutKeeps z (execSourceLost s) := by
  unfold execSourceLost
  try dsimp only
  with_reducible repeat' first | assumption | apply OutKeeps.next | apply keeps_sourceLost | apply keeps_draw | apply Keeps.foldl | apply Keeps.ite | (simp only [Keeps.lit_iff]; apply KeepsLit.of <;> first | rfl | skip) | split | omega | dsimp only [id] | (intro)

theorem keeps_latchEdge {z s : State} (h : Keeps z s) (x0 : Nat) (x1 : Nat) : Keeps z (State.latchEdge s x0 x1) := by
  unfold State.latchEdge
  try dsimp only
  with_reducible repeat' first | assumption | apply Keeps.foldl | apply Keeps.ite | (simp only [Keeps.lit_iff]; apply KeepsLit.of <;> first | rfl | skip) | split | omega | dsimp only [id] | (intro)

theorem keeps_execLatch {z s : State} (h : Keeps z s) (x0 : Nat) (x1 : Nat) : OutKeeps z (execLatch x0 x1 s) := by
  unfold execLatch
  try dsimp only
  with_reducible repeat' first | assumption | apply OutKeeps.next | apply keeps_latchEdge | apply Keeps.foldl | apply Keeps.ite | (simp only [Keeps.lit_iff]; apply KeepsLit.of <;> first | rfl | skip) | split | omega | dsimp only [id] | (intro)

theorem keeps_stepGtc {z s : State} (h : Keeps z s) (x0 : Int) : Keeps z (State.stepGtc s x0) := by
  unfold State.stepGtc
  try dsimp only
  with_reducible repeat' first | assumption | apply keeps_modDac | apply Keeps.foldl | apply Keeps.ite | (simp only [Keeps.lit_iff]; apply KeepsLit.of <;> first | rfl | skip) | split | omega | dsimp only [id] | (intro)

theorem keeps_modFg {z s : State} (h : Keeps z s) (x0 : Nat) (x1 : Group → Group) : Keeps z (State.modFg s x0 x1) := by
  unfold State.modFg
  try dsimp only
  with_reducible repeat' first | assumption | apply Keeps.foldl | apply Keeps.ite | (simp only [Keeps.lit_iff]; apply KeepsLit.of <;> first | rfl | skip) | split | omega | dsimp only [id] | (intro)

theorem keeps_modAux {z s : State} (h : Keeps z s) (x0 : Nat) (x1 : Aux → Aux) : Keeps z (State.modAux s x0 x1) := by
  unfold State.modAux
  try dsimp only
  with_reducible repeat' first | assumption | apply Keeps.foldl | apply Keeps.ite | (simp only [Keeps.lit_iff]; apply KeepsLit.of <;> first | rfl | skip) | split | omega | dsimp only [id] | (intro)

theorem keeps_restartWindows {z s : State} (h : Keeps z s) (x0 : Nat × Nat → Bool) : Keeps z (State.restartWindows s x0) := by
  unfold State.restartWindows
  try dsimp only
  with_reducible repeat' first | assumption | apply keeps_modChan | apply Keeps.foldl | apply Keeps.ite | (simp only [Keeps.lit_iff]; apply KeepsLit.of <;> first | rfl | skip) | split | omega | dsimp only [id] | (intro)

theorem keeps_restartGroup {z s : State} (h : Keeps z s) (x0 : Nat) : Keeps z (State.restartGroup s x0) := by
  unfold State.restartGroup
  try dsimp only
  with_reducible repeat' first | assumption | apply keeps_bump | apply keeps_restartWindows | apply keeps_modChan | apply keeps_modAux | apply keeps_modFg | apply Keeps.foldl | apply Keeps.ite | (simp only [Keeps.lit_iff]; apply KeepsLit.of <;> first | rfl | skip) | split | omega | dsimp only [id] | (intro)

theorem keeps_markInstant {z s : State} (h : Keeps z s) (x0 : Nat) : Keeps z (State.markInstant s x0) := by
  unfold State.markInstant
  try dsimp only
  with_reducible repeat' first | assumption | apply keeps_modDac | apply Keeps.foldl | apply Keeps.ite | (simp only [Keeps.lit_iff]; apply KeepsLit.of <;> first | rfl | skip) | split | omega | dsimp only [id] | (intro)

theorem keeps_startConvs {z s : State} (h : Keeps z s) : Keeps z (State.startConvs s) := by
  unfold State.startConvs
  try dsimp only
  with_reducible repeat' first | assumption | apply Keeps.foldl | apply Keeps.ite | (simp only [Keeps.lit_iff]; apply KeepsLit.of <;> first | rfl | skip) | split | omega | dsimp only [id] | (intro)

theorem keeps_markFires {z s : State} (h : Keeps z s) (x0 : Nat) : Keeps z (State.markFires s x0) := by
  unfold State.markFires
  try dsimp only
  with_reducible repeat' first | assumption | apply keeps_markInstant | apply keeps_restartGroup | apply keeps_modAux | apply keeps_startConvs | apply Keeps.foldl | apply Keeps.ite | (simp only [Keeps.lit_iff]; apply KeepsLit.of <;> first | rfl | skip) | split | omega | dsimp only [id] | (intro)

theorem keeps_fireMarks {z s : State} (h : Keeps z s) (x0 : Nat) (x1 : Nat) (x2 : Nat) : Keeps z (State.fireMarks s x0 x1 x2) := by
  unfold State.fireMarks
  try dsimp only
  with_reducible repeat' first | assumption | apply keeps_markFires | apply Keeps.foldl | apply Keeps.ite | (simp only [Keeps.lit_iff]; apply KeepsLit.of <;> first | rfl | skip) | split | omega | dsimp only [id] | (intro)

theorem keeps_setTrk {z s : State} (h : Keeps z s) (x0 : Nat) (x1 : TrkState) : Keeps z (State.setTrk s x0 x1) := by
  unfold State.setTrk
  try dsimp only
  with_reducible repeat' first | assumption | apply keeps_modTrk | apply keeps_bump | apply keeps_record | apply Keeps.foldl | apply Keeps.ite | (simp only [Keeps.lit_iff]; apply KeepsLit.of <;> first | rfl | skip) | split | omega | dsimp only [id] | (intro)

theorem keeps_waitphAdvance {z s : State} (h : Keeps z s) (x0 : Nat) (x1 : Int) : Keeps z (State.waitphAdvance s x0 x1) := by
  unfold State.waitphAdvance
  try dsimp only
  with_reducible repeat' first | assumption | apply keeps_completeOp | apply Keeps.foldl | apply Keeps.ite | (simp only [Keeps.lit_iff]; apply KeepsLit.of <;> first | rfl | skip) | split | omega | dsimp only [id] | (intro)

theorem keeps_movePhase {z s : State} (h : Keeps z s) (x0 : Nat) (x1 : Int) : Keeps z (State.movePhase s x0 x1) := by
  unfold State.movePhase
  try dsimp only
  with_reducible repeat' first | assumption | apply keeps_modTrk | apply keeps_fireMarks | apply keeps_waitphAdvance | apply Keeps.foldl | apply Keeps.ite | (simp only [Keeps.lit_iff]; apply KeepsLit.of <;> first | rfl | skip) | split | omega | dsimp only [id] | (intro)

theorem keeps_trackerUpdate {z s : State} (h : Keeps z s) (x0 : Nat) : Keeps z (State.trackerUpdate s x0) := by
  unfold State.trackerUpdate
  try dsimp only
  with_reducible repeat' first | assumption | apply keeps_setTrk | apply keeps_modTrk | apply keeps_movePhase | apply Keeps.foldl | apply Keeps.ite | (simp only [Keeps.lit_iff]; apply KeepsLit.of <;> first | rfl | skip) | split | omega | dsimp only [id] | (intro)

theorem keeps_execTrackerUpdate {z s : State} (h : Keeps z s) (x0 : Nat) : OutKeeps z (execTrackerUpdate x0 s) := by
  unfold execTrackerUpdate
  try dsimp only
  with_reducible repeat' first | assumption | apply OutKeeps.next | apply keeps_trackerUpdate | apply Keeps.foldl | apply Keeps.ite | (simp only [Keeps.lit_iff]; apply KeepsLit.of <;> first | rfl | skip) | split | omega | dsimp only [id] | (intro)

theorem keeps_trkLock {z s : State} (h : Keeps z s) (x0 : Nat) (x1 : Int) (x2 : Int) : Keeps z (State.trkLock s x0 x1 x2) := by
  unfold State.trkLock
  try dsimp only
  with_reducible repeat' first | assumption | apply keeps_modTrk | apply keeps_setTrk | apply Keeps.foldl | apply Keeps.ite | (simp only [Keeps.lit_iff]; apply KeepsLit.of <;> first | rfl | skip) | split | omega | dsimp only [id] | (intro)

theorem keeps_phaseZero {z s : State} (h : Keeps z s) (x0 : Nat) : Keeps z (State.phaseZero s x0) := by
  unfold State.phaseZero
  try dsimp only
  with_reducible repeat' first | assumption | apply keeps_modTrk | apply keeps_trkLock | apply Keeps.foldl | apply Keeps.ite | (simp only [Keeps.lit_iff]; apply KeepsLit.of <;> first | rfl | skip) | split | omega | dsimp only [id] | (intro)

theorem keeps_encoderCount {z s : State} (h : Keeps z s) (x0 : Nat) (x1 : Bool) : Keeps z (State.encoderCount s x0 x1) := by
  unfold State.encoderCount
  try dsimp only
  with_reducible repeat' first | assumption | apply keeps_modTrk | apply keeps_trkLock | apply Keeps.foldl | apply Keeps.ite | (simp only [Keeps.lit_iff]; apply KeepsLit.of <;> first | rfl | skip) | split | omega | dsimp only [id] | (intro)

theorem keeps_trkFault {z s : State} (h : Keeps z s) (x0 : Nat) : Keeps z (State.trkFault s x0) := by
  unfold State.trkFault
  try dsimp only
  with_reducible repeat' first | assumption | apply keeps_modTrk | apply keeps_setTrk | apply Keeps.foldl | apply Keeps.ite | (simp only [Keeps.lit_iff]; apply KeepsLit.of <;> first | rfl | skip) | split | omega | dsimp only [id] | (intro)

theorem keeps_encoderIndex {z s : State} (h : Keeps z s) (x0 : Nat) : Keeps z (State.encoderIndex s x0) := by
  unfold State.encoderIndex
  try dsimp only
  with_reducible repeat' first | assumption | apply keeps_trkFault | apply keeps_modTrk | apply Keeps.foldl | apply Keeps.ite | (simp only [Keeps.lit_iff]; apply KeepsLit.of <;> first | rfl | skip) | split | omega | dsimp only [id] | (intro)

theorem keeps_mainsSample {z s : State} (h : Keeps z s) (x0 : Nat) : Keeps z (State.mainsSample s x0) := by
  unfold State.mainsSample
  try dsimp only
  with_reducible repeat' first | assumption | apply keeps_drawN | apply keeps_modTrk | apply keeps_trkLock | apply Keeps.foldl | apply Keeps.ite | (simp only [Keeps.lit_iff]; apply KeepsLit.of <;> first | rfl | skip) | split | omega | dsimp only [id] | (intro)

theorem keeps_trackerEvent {z s : State} (h : Keeps z s) (x0 : Nat) (x1 : TrkInput) : Keeps z (State.trackerEvent s x0 x1) := by
  unfold State.trackerEvent
  try dsimp only
  with_reducible repeat' first | assumption | apply keeps_mainsSample | apply keeps_phaseZero | apply keeps_encoderCount | apply keeps_encoderIndex | apply keeps_trkFault | apply Keeps.foldl | apply Keeps.ite | (simp only [Keeps.lit_iff]; apply KeepsLit.of <;> first | rfl | skip) | split | omega | dsimp only [id] | (intro)

theorem keeps_execTrackerInputEvent {z s : State} (h : Keeps z s) (x0 : Nat) (x1 : TrkInput) : OutKeeps z (execTrackerInputEvent x0 x1 s) := by
  unfold execTrackerInputEvent
  try dsimp only
  with_reducible repeat' first | assumption | apply OutKeeps.next | apply keeps_trackerEvent | apply Keeps.foldl | apply Keeps.ite | (simp only [Keeps.lit_iff]; apply KeepsLit.of <;> first | rfl | skip) | split | omega | dsimp only [id] | (intro)

theorem keeps_startTracker {z s : State} (h : Keeps z s) (x0 : Nat) : Keeps z (State.startTracker s x0) := by
  unfold State.startTracker
  try dsimp only
  with_reducible repeat' first | assumption | apply keeps_setTrk | apply keeps_modTrk | apply Keeps.foldl | apply Keeps.ite | (simp only [Keeps.lit_iff]; apply KeepsLit.of <;> first | rfl | skip) | split | omega | dsimp only [id] | (intro)

theorem keeps_watchdogExpiry {z s : State} (h : Keeps z s) (x0 : Nat) : Keeps z (State.watchdogExpiry s x0) := by
  unfold State.watchdogExpiry
  try dsimp only
  with_reducible repeat' first | assumption | apply keeps_modCore | apply keeps_record | apply keeps_bump | apply keeps_setCause | apply Keeps.foldl | apply Keeps.ite | (simp only [Keeps.lit_iff]; apply KeepsLit.of <;> first | rfl | skip) | split | omega | dsimp only [id] | (intro)

theorem keeps_execSentWdExpiry {z s : State} (h : Keeps z s) (x0 : Nat) : OutKeeps z (execSentWdExpiry x0 s) := by
  unfold execSentWdExpiry
  try dsimp only
  with_reducible repeat' first | assumption | apply OutKeeps.next | apply keeps_watchdogExpiry | apply Keeps.foldl | apply Keeps.ite | (simp only [Keeps.lit_iff]; apply KeepsLit.of <;> first | rfl | skip) | split | omega | dsimp only [id] | (intro)

end Sys2Proof.Machine
end

