-- ==== Sys2Proof/Laws/Measure.lean ====
section
/-! SUPPORT. What the operations of Machine/Measure.lean keep (Laws/Keeps.lean), one lemma for each. -/

set_option linter.unusedTactic false
set_option linter.unreachableTactic false
set_option linter.unusedSimpArgs false

namespace Sys2Proof.Machine

theorem keeps_chFault {z s : State} (h : Keeps z s) (x0 : Nat) (x1 : Nat) : Keeps z (State.chFault s x0 x1) := by
  unfold State.chFault
  try dsimp only
  with_reducible repeat' first | assumption | apply keeps_modChan | apply keeps_bump | apply keeps_record | apply keeps_updateTrips | apply Keeps.foldl | apply Keeps.ite | (simp only [Keeps.lit_iff]; apply KeepsLit.of <;> first | rfl | skip) | split | omega | dsimp only [id] | (intro)

theorem keeps_channelFault {z s : State} (h : Keeps z s) (x0 : Nat) (x1 : Nat) : Keeps z (State.channelFault s x0 x1) := by
  unfold State.channelFault
  try dsimp only
  with_reducible repeat' first | assumption | apply keeps_chFault | apply Keeps.foldl | apply Keeps.ite | (simp only [Keeps.lit_iff]; apply KeepsLit.of <;> first | rfl | skip) | split | omega | dsimp only [id] | (intro)

theorem keeps_execChannelFault {z s : State} (h : Keeps z s) (x0 : Nat) (x1 : Nat) : OutKeeps z (execChannelFault x0 x1 s) := by
  unfold execChannelFault
  try dsimp only
  with_reducible repeat' first | assumption | apply OutKeeps.next | apply keeps_channelFault | apply Keeps.foldl | apply Keeps.ite | (simp only [Keeps.lit_iff]; apply KeepsLit.of <;> first | rfl | skip) | split | omega | dsimp only [id] | (intro)

theorem keeps_mclkWindow {z s : State} (h : Keeps z s) (x0 : Nat) (x1 : Nat) : Keeps z (State.mclkWindow s x0 x1) := by
  unfold State.mclkWindow
  try dsimp only
  with_reducible repeat' first | assumption | apply keeps_modChan | apply keeps_chFault | apply Keeps.foldl | apply Keeps.ite | (simp only [Keeps.lit_iff]; apply KeepsLit.of <;> first | rfl | skip) | split | omega | dsimp only [id] | (intro)

theorem keeps_execMclkWindow {z s : State} (h : Keeps z s) (x0 : Nat) (x1 : Nat) : OutKeeps z (execMclkWindow x0 x1 s) := by
  unfold execMclkWindow
  try dsimp only
  with_reducible repeat' first | assumption | apply OutKeeps.next | apply keeps_mclkWindow | apply Keeps.foldl | apply Keeps.ite | (simp only [Keeps.lit_iff]; apply KeepsLit.of <;> first | rfl | skip) | split | omega | dsimp only [id] | (intro)

theorem keeps_channelFaultExit {z s : State} (h : Keeps z s) (x0 : Nat) : Keeps z (State.channelFaultExit s x0) := by
  unfold State.channelFaultExit
  try dsimp only
  with_reducible repeat' first | assumption | apply keeps_modChan | apply Keeps.foldl | apply Keeps.ite | (simp only [Keeps.lit_iff]; apply KeepsLit.of <;> first | rfl | skip) | split | omega | dsimp only [id] | (intro)

theorem keeps_execChannelFaultExit {z s : State} (h : Keeps z s) (x0 : Nat) : OutKeeps z (execChannelFaultExit x0 s) := by
  unfold execChannelFaultExit
  try dsimp only
  with_reducible repeat' first | assumption | apply OutKeeps.next | apply keeps_channelFaultExit | apply Keeps.foldl | apply Keeps.ite | (simp only [Keeps.lit_iff]; apply KeepsLit.of <;> first | rfl | skip) | split | omega | dsimp only [id] | (intro)

theorem keeps_rebase {z s : State} (h : Keeps z s) (x0 : State) (x1 : Nat) : Keeps z (State.rebase s x0 x1) := by
  unfold State.rebase
  try dsimp only
  with_reducible repeat' first | assumption | apply keeps_modChan | apply Keeps.foldl | apply Keeps.ite | (simp only [Keeps.lit_iff]; apply KeepsLit.of <;> first | rfl | skip) | split | omega | dsimp only [id] | (intro)

theorem keeps_decimated {z s : State} (h : Keeps z s) (x0 : Nat) (x1 : List Bool) : Keeps z (State.decimated s x0 x1) := by
  unfold State.decimated
  try dsimp only
  with_reducible repeat' first | assumption | apply keeps_modChan | apply Keeps.foldl | apply Keeps.ite | (simp only [Keeps.lit_iff]; apply KeepsLit.of <;> first | rfl | skip) | split | omega | dsimp only [id] | (intro)

theorem keeps_execDecimatedResult {z s : State} (h : Keeps z s) (x0 : Nat) (x1 : List Bool) : OutKeeps z (execDecimatedResult x0 x1 s) := by
  unfold execDecimatedResult
  try dsimp only
  with_reducible repeat' first | assumption | apply OutKeeps.next | apply keeps_decimated | apply Keeps.foldl | apply Keeps.ite | (simp only [Keeps.lit_iff]; apply KeepsLit.of <;> first | rfl | skip) | split | omega | dsimp only [id] | (intro)

theorem keeps_eventOnset {z s : State} (h : Keeps z s) (x0 : Nat) (x1 : Nat) (x2 : Int) : Keeps z (State.eventOnset s x0 x1 x2) := by
  unfold State.eventOnset
  try dsimp only
  with_reducible repeat' first | assumption | apply keeps_bump | apply keeps_record | apply Keeps.foldl | apply Keeps.ite | (simp only [Keeps.lit_iff]; apply KeepsLit.of <;> first | rfl | skip) | split | omega | dsimp only [id] | (intro)

theorem keeps_comparator {z s : State} (h : Keeps z s) (x0 : Nat) (x1 : List Bool) : Keeps z (State.comparator s x0 x1) := by
  unfold State.comparator
  try dsimp only
  with_reducible repeat' first | assumption | apply keeps_modChan | apply keeps_updateTrips | apply keeps_eventOnset | apply Keeps.foldl | apply Keeps.ite | (simp only [Keeps.lit_iff]; apply KeepsLit.of <;> first | rfl | skip) | split | omega | dsimp only [id] | (intro)

theorem keeps_execComparator {z s : State} (h : Keeps z s) (x0 : Nat) (x1 : List Bool) : OutKeeps z (execComparator x0 x1 s) := by
  unfold execComparator
  try dsimp only
  with_reducible repeat' first | assumption | apply OutKeeps.next | apply keeps_comparator | apply Keeps.foldl | apply Keeps.ite | (simp only [Keeps.lit_iff]; apply KeepsLit.of <;> first | rfl | skip) | split | omega | dsimp only [id] | (intro)

theorem keeps_auxConversion {z s : State} (h : Keeps z s) (x0 : Nat) (x1 : Nat) : Keeps z (State.auxConversion s x0 x1) := by
  unfold State.auxConversion
  try dsimp only
  with_reducible repeat' first | assumption | apply keeps_modAux | apply Keeps.foldl | apply Keeps.ite | (simp only [Keeps.lit_iff]; apply KeepsLit.of <;> first | rfl | skip) | split | omega | dsimp only [id] | (intro)

theorem keeps_execAuxConversion {z s : State} (h : Keeps z s) (x0 : Nat) (x1 : Nat) : OutKeeps z (execAuxConversion x0 x1 s) := by
  unfold execAuxConversion
  try dsimp only
  with_reducible repeat' first | assumption | apply OutKeeps.next | apply keeps_auxConversion | apply Keeps.foldl | apply Keeps.ite | (simp only [Keeps.lit_iff]; apply KeepsLit.of <;> first | rfl | skip) | split | omega | dsimp only [id] | (intro)

theorem keeps_regroup {z s : State} (h : Keeps z s) (x0 : Nat) : Keeps z (State.regroup s x0) := by
  unfold State.regroup
  try dsimp only
  with_reducible repeat' first | assumption | apply keeps_modFg | apply keeps_record | apply Keeps.foldl | apply Keeps.ite | (simp only [Keeps.lit_iff]; apply KeepsLit.of <;> first | rfl | skip) | split | omega | dsimp only [id] | (intro)

theorem keeps_ringWrite {z s : State} (h : Keeps z s) (x0 : Nat) (x1 : List Byte) : Keeps z (State.ringWrite s x0 x1) := by
  unfold State.ringWrite
  try dsimp only
  with_reducible repeat' first | assumption | apply keeps_bump | apply keeps_poke | apply Keeps.foldl | apply Keeps.ite | (simp only [Keeps.lit_iff]; apply KeepsLit.of <;> first | rfl | skip) | split | omega | dsimp only [id] | (intro)

theorem keeps_frameTo {z s : State} (h : Keeps z s) (x0 : List Nat) (x1 : Nat) (x2 : Nat) (x3 : Nat) (x4 : List Byte) : Keeps z (State.frameTo s x0 x1 x2 x3 x4) := by
  unfold State.frameTo
  try dsimp only
  with_reducible repeat' first | assumption | apply Keeps.foldl | apply Keeps.ite | (simp only [Keeps.lit_iff]; apply KeepsLit.of <;> first | rfl | skip) | split | omega | dsimp only [id] | (intro)

theorem keeps_frameDie {z s : State} (h : Keeps z s) (x0 : Nat) (x1 : List Nat) (x2 : Nat) (x3 : Nat) (x4 : Nat) (x5 : Nat) (x6 : List Byte) : Keeps z (State.frameDie s x0 x1 x2 x3 x4 x5 x6) := by
  unfold State.frameDie
  try dsimp only
  with_reducible repeat' first | assumption | apply keeps_bump | apply keeps_frameTo | apply keeps_record | apply Keeps.foldl | apply Keeps.ite | (simp only [Keeps.lit_iff]; apply KeepsLit.of <;> first | rfl | skip) | split | omega | dsimp only [id] | (intro)

theorem keeps_frameDest {z s : State} (h : Keeps z s) (x0 : Nat) (x1 : Nat) (x2 : Nat) (x3 : Nat) (x4 : List Byte) : Keeps z (State.frameDest s x0 x1 x2 x3 x4) := by
  unfold State.frameDest
  try dsimp only
  with_reducible repeat' first | assumption | apply keeps_frameTo | apply keeps_frameDie | apply Keeps.foldl | apply Keeps.ite | (simp only [Keeps.lit_iff]; apply KeepsLit.of <;> first | rfl | skip) | split | omega | dsimp only [id] | (intro)

theorem keeps_frameOut {z s : State} (h : Keeps z s) (x0 : Nat) (x1 : Nat) (x2 : Nat) (x3 : List Byte) (x4 : Bool) (x5 : Bool) : Keeps z (State.frameOut s x0 x1 x2 x3 x4 x5) := by
  unfold State.frameOut
  try dsimp only
  with_reducible repeat' first | assumption | apply keeps_frameDest | apply Keeps.foldl | apply Keeps.ite | (simp only [Keeps.lit_iff]; apply KeepsLit.of <;> first | rfl | skip) | split | omega | dsimp only [id] | (intro)

theorem keeps_frameForm {z s : State} (h : Keeps z s) (x0 : Nat) : Keeps z (State.frameForm s x0) := by
  unfold State.frameForm
  try dsimp only
  with_reducible repeat' first | assumption | apply keeps_modChan | apply keeps_modAux | apply keeps_modFg | apply keeps_ringWrite | apply keeps_sendItem | apply keeps_frameOut | apply Keeps.foldl | apply Keeps.ite | (simp only [Keeps.lit_iff]; apply KeepsLit.of <;> first | rfl | skip) | split | omega | dsimp only [id] | (intro)

theorem keeps_execFrameForm {z s : State} (h : Keeps z s) (x0 : Nat) : OutKeeps z (execFrameForm x0 s) := by
  unfold execFrameForm
  try dsimp only
  with_reducible repeat' first | assumption | apply OutKeeps.next | apply keeps_frameForm | apply Keeps.foldl | apply Keeps.ite | (simp only [Keeps.lit_iff]; apply KeepsLit.of <;> first | rfl | skip) | split | omega | dsimp only [id] | (intro)

theorem keeps_ringFreeze {z s : State} (h : Keeps z s) (x0 : Nat) : Keeps z (State.ringFreeze s x0) := by
  unfold State.ringFreeze
  try dsimp only
  with_reducible repeat' first | assumption | apply Keeps.foldl | apply Keeps.ite | (simp only [Keeps.lit_iff]; apply KeepsLit.of <;> first | rfl | skip) | split | omega | dsimp only [id] | (intro)

theorem keeps_execRingFreeze {z s : State} (h : Keeps z s) (x0 : Nat) : OutKeeps z (execRingFreeze x0 s) := by
  unfold execRingFreeze
  try dsimp only
  with_reducible repeat' first | assumption | apply OutKeeps.next | apply keeps_ringFreeze | apply Keeps.foldl | apply Keeps.ite | (simp only [Keeps.lit_iff]; apply KeepsLit.of <;> first | rfl | skip) | split | omega | dsimp only [id] | (intro)

theorem keeps_ringCtrl {z s : State} (h : Keeps z s) (x0 : Nat) (x1 : Nat) : Keeps z (State.ringCtrl s x0 x1) := by
  unfold State.ringCtrl
  try dsimp only
  with_reducible repeat' first | assumption | apply Keeps.foldl | apply Keeps.ite | (simp only [Keeps.lit_iff]; apply KeepsLit.of <;> first | rfl | skip) | split | omega | dsimp only [id] | (intro)

end Sys2Proof.Machine
end

