-- ==== Sys2Proof/Laws/Converters.lean ====
section
/-! SUPPORT. What the operations of Machine/Converters.lean keep (Laws/Keeps.lean), one lemma for each. -/

set_option linter.unusedTactic false
set_option linter.unreachableTactic false
set_option linter.unusedSimpArgs false

namespace Sys2Proof.Machine

theorem keeps_settleEmits {z s : State} (h : Keeps z s) (x0 : Nat) : Keeps z (State.settleEmits s x0) := by
  unfold State.settleEmits
  try dsimp only
  with_reducible repeat' first | assumption | apply keeps_settle | apply Keeps.foldl | apply Keeps.ite | (simp only [Keeps.lit_iff]; apply KeepsLit.of <;> first | rfl | skip) | split | omega | dsimp only [id] | (intro)

theorem keeps_faultDac {z s : State} (h : Keeps z s) (x0 : Nat) (x1 : Nat) : Keeps z (State.faultDac s x0 x1) := by
  unfold State.faultDac
  try dsimp only
  with_reducible repeat' first | assumption | apply keeps_dacFault | apply keeps_settleEmits | apply Keeps.foldl | apply Keeps.ite | (simp only [Keeps.lit_iff]; apply KeepsLit.of <;> first | rfl | skip) | split | omega | dsimp only [id] | (intro)

theorem keeps_underrun {z s : State} (h : Keeps z s) (x0 : Nat) : Keeps z (State.underrun s x0) := by
  unfold State.underrun
  try dsimp only
  with_reducible repeat' first | assumption | apply keeps_bump | apply keeps_record | apply keeps_modDac | apply keeps_faultDac | apply Keeps.foldl | apply Keeps.ite | (simp only [Keeps.lit_iff]; apply KeepsLit.of <;> first | rfl | skip) | split | omega | dsimp only [id] | (intro)

theorem keeps_takeHead {z s : State} (h : Keeps z s) (x0 : Nat) : Keeps z (State.takeHead s x0) := by
  unfold State.takeHead
  try dsimp only
  with_reducible repeat' first | assumption | apply keeps_setLadder | apply keeps_modDac | apply keeps_underrun | apply Keeps.foldl | apply Keeps.ite | (simp only [Keeps.lit_iff]; apply KeepsLit.of <;> first | rfl | skip) | split | omega | dsimp only [id] | (intro)

theorem keeps_sampleInstant {z s : State} (h : Keeps z s) (x0 : Nat) : Keeps z (State.sampleInstant s x0) := by
  unfold State.sampleInstant
  try dsimp only
  with_reducible repeat' first | assumption | apply keeps_modDac | apply keeps_takeHead | apply keeps_settleEmits | apply Keeps.foldl | apply Keeps.ite | (simp only [Keeps.lit_iff]; apply KeepsLit.of <;> first | rfl | skip) | split | omega | dsimp only [id] | (intro)

theorem keeps_execSampleInstant {z s : State} (h : Keeps z s) (x0 : Nat) : OutKeeps z (execSampleInstant x0 s) := by
  unfold execSampleInstant
  try dsimp only
  with_reducible repeat' first | assumption | apply OutKeeps.next | apply keeps_sampleInstant | apply Keeps.foldl | apply Keeps.ite | (simp only [Keeps.lit_iff]; apply KeepsLit.of <;> first | rfl | skip) | split | omega | dsimp only [id] | (intro)

theorem keeps_dacWrite {z s : State} (h : Keeps z s) (x0 : Nat) (x1 : Nat) : Keeps z (State.dacWrite s x0 x1) := by
  unfold State.dacWrite
  try dsimp only
  with_reducible repeat' first | assumption | apply keeps_bump | apply keeps_dacQueue | apply Keeps.foldl | apply Keeps.ite | (simp only [Keeps.lit_iff]; apply KeepsLit.of <;> first | rfl | skip) | split | omega | dsimp only [id] | (intro)

theorem keeps_startFast {z s : State} (h : Keeps z s) (x0 : Nat) : Keeps z (State.startFast s x0) := by
  unfold State.startFast
  try dsimp only
  with_reducible repeat' first | assumption | apply keeps_modDac | apply Keeps.foldl | apply Keeps.ite | (simp only [Keeps.lit_iff]; apply KeepsLit.of <;> first | rfl | skip) | split | omega | dsimp only [id] | (intro)

theorem keeps_fastUpdate {z s : State} (h : Keeps z s) (x0 : Nat) : Keeps z (State.fastUpdate s x0) := by
  unfold State.fastUpdate
  try dsimp only
  with_reducible repeat' first | assumption | apply keeps_modDac | apply Keeps.foldl | apply Keeps.ite | (simp only [Keeps.lit_iff]; apply KeepsLit.of <;> first | rfl | skip) | split | omega | dsimp only [id] | (intro)

theorem keeps_execFastUpdate {z s : State} (h : Keeps z s) (x0 : Nat) : OutKeeps z (execFastUpdate x0 s) := by
  unfold execFastUpdate
  try dsimp only
  with_reducible repeat' first | assumption | apply OutKeeps.next | apply keeps_fastUpdate | apply Keeps.foldl | apply Keeps.ite | (simp only [Keeps.lit_iff]; apply KeepsLit.of <;> first | rfl | skip) | split | omega | dsimp only [id] | (intro)

theorem keeps_ladderTakes {z s : State} (h : Keeps z s) (x0 : Nat) : Keeps z (State.ladderTakes s x0) := by
  unfold State.ladderTakes
  try dsimp only
  with_reducible repeat' first | assumption | apply keeps_setLadder | apply keeps_modDac | apply keeps_settleEmits | apply Keeps.foldl | apply Keeps.ite | (simp only [Keeps.lit_iff]; apply KeepsLit.of <;> first | rfl | skip) | split | omega | dsimp only [id] | (intro)

theorem keeps_rangeClampEnd {z s : State} (h : Keeps z s) (x0 : Nat) : Keeps z (State.rangeClampEnd s x0) := by
  unfold State.rangeClampEnd
  try dsimp only
  with_reducible repeat' first | assumption | apply keeps_modDac | apply keeps_ladderTakes | apply Keeps.foldl | apply Keeps.ite | (simp only [Keeps.lit_iff]; apply KeepsLit.of <;> first | rfl | skip) | split | omega | dsimp only [id] | (intro)

theorem keeps_execRangeClampEnd {z s : State} (h : Keeps z s) (x0 : Nat) : OutKeeps z (execRangeClampEnd x0 s) := by
  unfold execRangeClampEnd
  try dsimp only
  with_reducible repeat' first | assumption | apply OutKeeps.next | apply keeps_rangeClampEnd | apply Keeps.foldl | apply Keeps.ite | (simp only [Keeps.lit_iff]; apply KeepsLit.of <;> first | rfl | skip) | split | omega | dsimp only [id] | (intro)

theorem keeps_handoverClampEnd {z s : State} (h : Keeps z s) (x0 : Nat) : Keeps z (State.handoverClampEnd s x0) := by
  unfold State.handoverClampEnd
  try dsimp only
  with_reducible repeat' first | assumption | apply keeps_modDac | apply keeps_startFast | apply keeps_ladderTakes | apply Keeps.foldl | apply Keeps.ite | (simp only [Keeps.lit_iff]; apply KeepsLit.of <;> first | rfl | skip) | split | omega | dsimp only [id] | (intro)

theorem keeps_execHandoverClampEnd {z s : State} (h : Keeps z s) (x0 : Nat) : OutKeeps z (execHandoverClampEnd x0 s) := by
  unfold execHandoverClampEnd
  try dsimp only
  with_reducible repeat' first | assumption | apply OutKeeps.next | apply keeps_handoverClampEnd | apply Keeps.foldl | apply Keeps.ite | (simp only [Keeps.lit_iff]; apply KeepsLit.of <;> first | rfl | skip) | split | omega | dsimp only [id] | (intro)

theorem keeps_clearLadders {z s : State} (h : Keeps z s) : Keeps z (State.clearLadders s) := by
  unfold State.clearLadders
  try dsimp only
  with_reducible repeat' first | assumption | apply keeps_setLadder | apply Keeps.foldl | apply Keeps.ite | (simp only [Keeps.lit_iff]; apply KeepsLit.of <;> first | rfl | skip) | split | omega | dsimp only [id] | (intro)

theorem keeps_execDacClrNLow {z s : State} (h : Keeps z s) : OutKeeps z (execDacClrNLow s) := by
  unfold execDacClrNLow
  try dsimp only
  with_reducible repeat' first | assumption | apply OutKeeps.next | apply keeps_clearLadders | apply Keeps.foldl | apply Keeps.ite | (simp only [Keeps.lit_iff]; apply KeepsLit.of <;> first | rfl | skip) | split | omega | dsimp only [id] | (intro)

theorem keeps_clrHigh {z s : State} (h : Keeps z s) : Keeps z (State.clrHigh s) := by
  unfold State.clrHigh
  try dsimp only
  with_reducible repeat' first | assumption | apply keeps_clearLadders | apply keeps_modDac | apply Keeps.foldl | apply Keeps.ite | (simp only [Keeps.lit_iff]; apply KeepsLit.of <;> first | rfl | skip) | split | omega | dsimp only [id] | (intro)

theorem keeps_execDacClrNHigh {z s : State} (h : Keeps z s) : OutKeeps z (execDacClrNHigh s) := by
  unfold execDacClrNHigh
  try dsimp only
  with_reducible repeat' first | assumption | apply OutKeeps.next | apply keeps_clrHigh | apply Keeps.foldl | apply Keeps.ite | (simp only [Keeps.lit_iff]; apply KeepsLit.of <;> first | rfl | skip) | split | omega | dsimp only [id] | (intro)

theorem keeps_shorted {z s : State} (h : Keeps z s) (x0 : Nat) : Keeps z (State.shorted s x0) := by
  unfold State.shorted
  try dsimp only
  with_reducible repeat' first | assumption | apply keeps_modDac | apply keeps_record | apply keeps_faultDac | apply Keeps.foldl | apply Keeps.ite | (simp only [Keeps.lit_iff]; apply KeepsLit.of <;> first | rfl | skip) | split | omega | dsimp only [id] | (intro)

theorem keeps_execShort {z s : State} (h : Keeps z s) (x0 : Nat) : OutKeeps z (execShort x0 s) := by
  unfold execShort
  try dsimp only
  with_reducible repeat' first | assumption | apply OutKeeps.next | apply keeps_shorted | apply Keeps.foldl | apply Keeps.ite | (simp only [Keeps.lit_iff]; apply KeepsLit.of <;> first | rfl | skip) | split | omega | dsimp only [id] | (intro)

theorem keeps_standingFault {z s : State} (h : Keeps z s) (x0 : Nat) : Keeps z (State.standingFault s x0) := by
  unfold State.standingFault
  try dsimp only
  with_reducible repeat' first | assumption | apply keeps_faultDac | apply keeps_pfail | apply keeps_modDac | apply Keeps.foldl | apply Keeps.ite | (simp only [Keeps.lit_iff]; apply KeepsLit.of <;> first | rfl | skip) | split | omega | dsimp only [id] | (intro)

theorem keeps_dacRelease {z s : State} (h : Keeps z s) (x0 : Nat) : Keeps z (State.dacRelease s x0) := by
  unfold State.dacRelease
  try dsimp only
  with_reducible repeat' first | assumption | apply keeps_draw | apply keeps_modDac | apply Keeps.foldl | apply Keeps.ite | (simp only [Keeps.lit_iff]; apply KeepsLit.of <;> first | rfl | skip) | split | omega | dsimp only [id] | (intro)

theorem keeps_railFault {z s : State} (h : Keeps z s) : Keeps z (State.railFault s) := by
  unfold State.railFault
  try dsimp only
  with_reducible repeat' first | assumption | apply keeps_modDac | apply keeps_faultDac | apply Keeps.foldl | apply Keeps.ite | (simp only [Keeps.lit_iff]; apply KeepsLit.of <;> first | rfl | skip) | split | omega | dsimp only [id] | (intro)

theorem keeps_execRailFault {z s : State} (h : Keeps z s) : OutKeeps z (execRailFault s) := by
  unfold execRailFault
  try dsimp only
  with_reducible repeat' first | assumption | apply OutKeeps.next | apply keeps_railFault | apply Keeps.foldl | apply Keeps.ite | (simp only [Keeps.lit_iff]; apply KeepsLit.of <;> first | rfl | skip) | split | omega | dsimp only [id] | (intro)

theorem keeps_railReturn {z s : State} (h : Keeps z s) : Keeps z (State.railReturn s) := by
  unfold State.railReturn
  try dsimp only
  with_reducible repeat' first | assumption | apply keeps_modDac | apply Keeps.foldl | apply Keeps.ite | (simp only [Keeps.lit_iff]; apply KeepsLit.of <;> first | rfl | skip) | split | omega | dsimp only [id] | (intro)

theorem keeps_execAnalogueRailReturn {z s : State} (h : Keeps z s) : OutKeeps z (execAnalogueRailReturn s) := by
  unfold execAnalogueRailReturn
  try dsimp only
  with_reducible repeat' first | assumption | apply OutKeeps.next | apply keeps_railReturn | apply Keeps.foldl | apply Keeps.ite | (simp only [Keeps.lit_iff]; apply KeepsLit.of <;> first | rfl | skip) | split | omega | dsimp only [id] | (intro)

theorem keeps_decisionEmit {z s : State} (h : Keeps z s) (x0 : Decision) : Keeps z (State.decisionEmit s x0) := by
  unfold State.decisionEmit
  try dsimp only
  with_reducible repeat' first | assumption | apply keeps_record | apply keeps_bump | apply keeps_modCore | apply keeps_completeOp | apply Keeps.foldl | apply Keeps.ite | (simp only [Keeps.lit_iff]; apply KeepsLit.of <;> first | rfl | skip) | split | omega | dsimp only [id] | (intro)

theorem keeps_settleTrip {z s : State} (h : Keeps z s) (x0 : List Decision) (x1 : Nat) : Keeps z (State.settleTrip s x0 x1) := by
  unfold State.settleTrip
  try dsimp only
  with_reducible repeat' first | assumption | apply keeps_updateTrip | apply keeps_modTrip | apply keeps_bumpBy | apply Keeps.foldl | apply Keeps.ite | (simp only [Keeps.lit_iff]; apply KeepsLit.of <;> first | rfl | skip) | split | omega | dsimp only [id] | (intro)

theorem keeps_decisionGone {z s : State} (h : Keeps z s) (x0 : Decision) (x1 : Nat) : Keeps z (State.decisionGone s x0 x1) := by
  unfold State.decisionGone
  try dsimp only
  with_reducible repeat' first | assumption | apply keeps_completeOp | apply Keeps.foldl | apply Keeps.ite | (simp only [Keeps.lit_iff]; apply KeepsLit.of <;> first | rfl | skip) | split | omega | dsimp only [id] | (intro)

theorem keeps_decisionWay {z : State} (r : List Decision × State) (d : Decision) (h : Keeps z r.2) : Keeps z (decisionWay r d).2 := by
  unfold decisionWay
  split <;> rename_i e <;> have k := keeps_way_of e h <;> dsimp only
  · exact Keeps.lit k rfl rfl rfl rfl rfl rfl rfl rfl rfl
  · exact keeps_decisionGone (keeps_dieDrop k _) d 4
  · exact keeps_decisionGone k d 0
  · exact k
  · exact k

theorem keeps_decisionsIn {z s : State} (h : Keeps z s) : Keeps z (State.decisionsIn s).2 :=
  Keeps.foldl_snd (p := ([], { s with net := { s.net with decisions := [] } })) (Keeps.lit h rfl rfl rfl rfl rfl rfl rfl rfl rfl) (fun r d k => keeps_decisionWay r d k)

theorem keeps_decisionsIn_of {z s t : State} {v} (e : State.decisionsIn s = (v, t)) (h : Keeps z s) : Keeps z t := by
  have k := keeps_decisionsIn h
  rw [e] at k
  exact k

theorem keeps_tripTick {z s : State} (h : Keeps z s) : Keeps z (State.tripTick s) := by
  unfold State.tripTick
  try dsimp only
  with_reducible repeat' first | assumption | apply keeps_decisionsIn | apply keeps_settleTrip | apply keeps_decisionEmit | apply Keeps.foldl | apply Keeps.ite | (simp only [Keeps.lit_iff]; apply KeepsLit.of <;> first | rfl | skip) | refine keeps_decisionsIn_of (by assumption) ?_ | split | omega | dsimp only [id] | (intro)

theorem keeps_execTripTick {z s : State} (h : Keeps z s) : OutKeeps z (execTripTick s) := by
  unfold execTripTick
  try dsimp only
  with_reducible repeat' first | assumption | apply OutKeeps.next | apply keeps_tripTick | apply Keeps.foldl | apply Keeps.ite | (simp only [Keeps.lit_iff]; apply KeepsLit.of <;> first | rfl | skip) | split | omega | dsimp only [id] | (intro)

theorem keeps_tripRelease {z s : State} (h : Keeps z s) (x0 : Nat) : Keeps z (State.tripRelease s x0) := by
  unfold State.tripRelease
  try dsimp only
  with_reducible repeat' first | assumption | apply keeps_modTrip | apply keeps_showMirror | apply Keeps.foldl | apply Keeps.ite | (simp only [Keeps.lit_iff]; apply KeepsLit.of <;> first | rfl | skip) | split | omega | dsimp only [id] | (intro)

theorem keeps_execTripMinOnExpiry {z s : State} (h : Keeps z s) (x0 : Nat) : OutKeeps z (execTripMinOnExpiry x0 s) := by
  unfold execTripMinOnExpiry
  try dsimp only
  with_reducible repeat' first | assumption | apply OutKeeps.next | apply keeps_updateTrip | apply Keeps.foldl | apply Keeps.ite | (simp only [Keeps.lit_iff]; apply KeepsLit.of <;> first | rfl | skip) | split | omega | dsimp only [id] | (intro)

end Sys2Proof.Machine
end

