-- ==== Sys2Proof/Laws/Flue.lean ====
section
/-! SUPPORT. What the operations of Machine/Flue.lean keep (Laws/Keeps.lean), one lemma for each. -/

set_option linter.unusedTactic false
set_option linter.unreachableTactic false
set_option linter.unusedSimpArgs false

namespace Sys2Proof.Machine

theorem keeps_flueRecord {z s : State} (h : Keeps z s) (x0 : Nat) (x1 : Nat) (x2 : Nat) : Keeps z (State.flueRecord s x0 x1 x2) := by
  unfold State.flueRecord
  try dsimp only
  with_reducible repeat' first | assumption | apply keeps_record | apply Keeps.foldl | apply Keeps.ite | (simp only [Keeps.lit_iff]; apply KeepsLit.of <;> first | rfl | skip) | split | omega | dsimp only [id] | (intro)

theorem keeps_frameHeader {z s : State} (h : Keeps z s) (x0 : Nat) (x1 : FlueHdr) : Keeps z (State.frameHeader s x0 x1) := by
  unfold State.frameHeader
  try dsimp only
  with_reducible repeat' first | assumption | apply keeps_modPort | apply keeps_resend | apply keeps_bump | apply Keeps.foldl | apply Keeps.ite | (simp only [Keeps.lit_iff]; apply KeepsLit.of <;> first | rfl | skip) | split | omega | dsimp only [id] | (intro)

theorem keeps_portAnswer {z s : State} (h : Keeps z s) (x0 : Nat) (x1 : FlueHdr) : Keeps z (State.portAnswer s x0 x1) := by
  unfold State.portAnswer
  try dsimp only
  with_reducible repeat' first | assumption | apply keeps_portFlow | apply keeps_portTurn | apply Keeps.foldl | apply Keeps.ite | (simp only [Keeps.lit_iff]; apply KeepsLit.of <;> first | rfl | skip) | split | omega | dsimp only [id] | (intro)

theorem keeps_pairMirror {z s : State} (h : Keeps z s) (x0 : Nat) (x1 : Nat) (x2 : Bool) : Keeps z (State.pairMirror s x0 x1 x2) := by
  unfold State.pairMirror
  try dsimp only
  with_reducible repeat' first | assumption | apply keeps_setMirror | apply keeps_releaseOutputs | apply keeps_toStandby | apply Keeps.foldl | apply Keeps.ite | (simp only [Keeps.lit_iff]; apply KeepsLit.of <;> first | rfl | skip) | split | omega | dsimp only [id] | (intro)

theorem keeps_rejoin {z s : State} (h : Keeps z s) (x0 : Nat) (x1 : FlueHdr) : Keeps z (State.rejoin s x0 x1) := by
  unfold State.rejoin
  try dsimp only
  with_reducible repeat' first | assumption | apply keeps_modPort | apply keeps_pairMirror | apply Keeps.foldl | apply Keeps.ite | (simp only [Keeps.lit_iff]; apply KeepsLit.of <;> first | rfl | skip) | split | omega | dsimp only [id] | (intro)

theorem keeps_flueReceive {z s : State} (h : Keeps z s) (x0 : Nat) (x1 : FlueHdr) (x2 : Nat) (x3 : State → State) (hx3 : ∀ s, Keeps z s → Keeps z (x3 s)) : Keeps z (State.flueReceive s x0 x1 x2 x3) := by
  unfold State.flueReceive
  try dsimp only
  with_reducible repeat' first | assumption | apply hx3 | apply keeps_modPort | apply keeps_sendHello | apply keeps_frameHeader | apply keeps_rejoin | apply keeps_bumpBy | apply keeps_portAnswer | apply Keeps.foldl | apply Keeps.ite | (simp only [Keeps.lit_iff]; apply KeepsLit.of <;> first | rfl | skip) | split | omega | dsimp only [id] | (intro)

theorem keeps_idle {z s : State} (h : Keeps z s) (x0 : Nat) (x1 : FlueHdr) : Keeps z (State.idle s x0 x1) := by
  unfold State.idle
  try dsimp only
  with_reducible repeat' first | assumption | apply keeps_flueReceive | apply keeps_modPort | apply Keeps.foldl | apply Keeps.ite | (simp only [Keeps.lit_iff]; apply KeepsLit.of <;> first | rfl | skip) | split | omega | dsimp only [id] | (intro)

theorem keeps_execIdle {z s : State} (h : Keeps z s) (x0 : Nat) (x1 : FlueHdr) : OutKeeps z (execIdle x0 x1 s) := by
  unfold execIdle
  try dsimp only
  with_reducible repeat' first | assumption | apply OutKeeps.next | apply keeps_idle | apply Keeps.foldl | apply Keeps.ite | (simp only [Keeps.lit_iff]; apply KeepsLit.of <;> first | rfl | skip) | split | omega | dsimp only [id] | (intro)

theorem keeps_linkUp {z s : State} (h : Keeps z s) (x0 : Nat) (x1 : Nat) (x2 : Bool) : Keeps z (State.linkUp s x0 x1 x2) := by
  unfold State.linkUp
  try dsimp only
  with_reducible repeat' first | assumption | apply keeps_modPort | apply keeps_flueRecord | apply keeps_sendItem | apply keeps_refillBound | apply keeps_pairMirror | apply Keeps.foldl | apply Keeps.ite | (simp only [Keeps.lit_iff]; apply KeepsLit.of <;> first | rfl | skip) | split | omega | dsimp only [id] | (intro)

theorem keeps_hello {z s : State} (h : Keeps z s) (x0 : Nat) (x1 : FlueHdr) (x2 : Nat) (x3 : Nat) (x4 : Nat) : Keeps z (State.hello s x0 x1 x2 x3 x4) := by
  unfold State.hello
  try dsimp only
  with_reducible repeat' first | assumption | apply keeps_flueReceive | apply keeps_bump | apply keeps_modPort | apply keeps_flueRecord | apply keeps_sendHello | apply keeps_linkUp | apply Keeps.foldl | apply Keeps.ite | (simp only [Keeps.lit_iff]; apply KeepsLit.of <;> first | rfl | skip) | split | omega | dsimp only [id] | (intro)

theorem keeps_execHello {z s : State} (h : Keeps z s) (x0 : Nat) (x1 : FlueHdr) (x2 : Nat) (x3 : Nat) (x4 : Nat) : OutKeeps z (execHello x0 x1 x2 x3 x4 s) := by
  unfold execHello
  try dsimp only
  with_reducible repeat' first | assumption | apply OutKeeps.next | apply keeps_hello | apply Keeps.foldl | apply Keeps.ite | (simp only [Keeps.lit_iff]; apply KeepsLit.of <;> first | rfl | skip) | split | omega | dsimp only [id] | (intro)

theorem keeps_failOp {z s : State} (h : Keeps z s) (x0 : Port) (x1 : Nat) (x2 : Nat) (x3 : Op) : Keeps z (State.failOp s x0 x1 x2 x3) := by
  unfold State.failOp
  try dsimp only
  with_reducible repeat' first | assumption | apply keeps_modComm | apply keeps_completeOp | apply Keeps.foldl | apply Keeps.ite | (simp only [Keeps.lit_iff]; apply KeepsLit.of <;> first | rfl | skip) | split | omega | dsimp only [id] | (intro)

theorem keeps_failCore {z s : State} (h : Keeps z s) (x0 : Port) (x1 : Nat) (x2 : Nat) : Keeps z (State.failCore s x0 x1 x2) := by
  unfold State.failCore
  try dsimp only
  with_reducible repeat' first | assumption | apply keeps_modComm | apply keeps_failOp | apply Keeps.foldl | apply Keeps.ite | (simp only [Keeps.lit_iff]; apply KeepsLit.of <;> first | rfl | skip) | split | omega | dsimp only [id] | (intro)

theorem keeps_linkLost {z s : State} (h : Keeps z s) (x0 : Nat) : Keeps z (State.linkLost s x0) := by
  unfold State.linkLost
  try dsimp only
  with_reducible repeat' first | assumption | apply keeps_modPort | apply keeps_onLine | apply keeps_rejoin | apply keeps_flueRecord | apply keeps_refillBound | apply keeps_failCore | apply keeps_setMirror | apply Keeps.foldl | apply Keeps.ite | (simp only [Keeps.lit_iff]; apply KeepsLit.of <;> first | rfl | skip) | split | omega | dsimp only [id] | (intro)

theorem keeps_flueDown {z s : State} (h : Keeps z s) (x0 : Nat) : Keeps z (State.flueDown s x0) := by
  unfold State.flueDown
  try dsimp only
  with_reducible repeat' first | assumption | apply keeps_linkLost | apply Keeps.foldl | apply Keeps.ite | (simp only [Keeps.lit_iff]; apply KeepsLit.of <;> first | rfl | skip) | split | omega | dsimp only [id] | (intro)

theorem keeps_execFlueDown {z s : State} (h : Keeps z s) (x0 : Nat) : OutKeeps z (execFlueDown x0 s) := by
  unfold execFlueDown
  try dsimp only
  with_reducible repeat' first | assumption | apply OutKeeps.next | apply keeps_flueDown | apply Keeps.foldl | apply Keeps.ite | (simp only [Keeps.lit_iff]; apply KeepsLit.of <;> first | rfl | skip) | split | omega | dsimp only [id] | (intro)

theorem keeps_flueRetrain {z s : State} (h : Keeps z s) (x0 : Nat) : Keeps z (State.flueRetrain s x0) := by
  unfold State.flueRetrain
  try dsimp only
  with_reducible repeat' first | assumption | apply keeps_modPort | apply keeps_bump | apply keeps_flueRecord | apply keeps_refillBound | apply Keeps.foldl | apply Keeps.ite | (simp only [Keeps.lit_iff]; apply KeepsLit.of <;> first | rfl | skip) | split | omega | dsimp only [id] | (intro)

theorem keeps_execFlueRetrain {z s : State} (h : Keeps z s) (x0 : Nat) : OutKeeps z (execFlueRetrain x0 s) := by
  unfold execFlueRetrain
  try dsimp only
  with_reducible repeat' first | assumption | apply OutKeeps.next | apply keeps_flueRetrain | apply Keeps.foldl | apply Keeps.ite | (simp only [Keeps.lit_iff]; apply KeepsLit.of <;> first | rfl | skip) | split | omega | dsimp only [id] | (intro)

theorem keeps_lanesTrained {z s : State} (h : Keeps z s) (x0 : Nat) : Keeps z (State.lanesTrained s x0) := by
  unfold State.lanesTrained
  try dsimp only
  with_reducible repeat' first | assumption | apply keeps_modPort | apply keeps_rejoin | apply keeps_refillBound | apply keeps_portTurn | apply keeps_sendHello | apply Keeps.foldl | apply Keeps.ite | (simp only [Keeps.lit_iff]; apply KeepsLit.of <;> first | rfl | skip) | split | omega | dsimp only [id] | (intro)

theorem keeps_execFlueLanesTrained {z s : State} (h : Keeps z s) (x0 : Nat) : OutKeeps z (execFlueLanesTrained x0 s) := by
  unfold execFlueLanesTrained
  try dsimp only
  with_reducible repeat' first | assumption | apply OutKeeps.next | apply keeps_lanesTrained | apply Keeps.foldl | apply Keeps.ite | (simp only [Keeps.lit_iff]; apply KeepsLit.of <;> first | rfl | skip) | split | omega | dsimp only [id] | (intro)

theorem keeps_optLoss {z s : State} (h : Keeps z s) : Keeps z (State.optLoss s) := by
  unfold State.optLoss
  try dsimp only
  with_reducible repeat' first | assumption | apply keeps_linkLost | apply Keeps.foldl | apply Keeps.ite | (simp only [Keeps.lit_iff]; apply KeepsLit.of <;> first | rfl | skip) | split | omega | dsimp only [id] | (intro)

theorem keeps_execVddOptLoss {z s : State} (h : Keeps z s) : OutKeeps z (execVddOptLoss s) := by
  unfold execVddOptLoss
  try dsimp only
  with_reducible repeat' first | assumption | apply OutKeeps.next | apply keeps_optLoss | apply Keeps.foldl | apply Keeps.ite | (simp only [Keeps.lit_iff]; apply KeepsLit.of <;> first | rfl | skip) | split | omega | dsimp only [id] | (intro)

theorem keeps_execVddOptValid {z s : State} (h : Keeps z s) : OutKeeps z (execVddOptValid s) := by
  unfold execVddOptValid
  try dsimp only
  with_reducible repeat' first | assumption | apply OutKeeps.next | apply Keeps.foldl | apply Keeps.ite | (simp only [Keeps.lit_iff]; apply KeepsLit.of <;> first | rfl | skip) | split | omega | dsimp only [id] | (intro)

theorem keeps_epochReport {z s : State} (h : Keeps z s) (x0 : Nat) (x1 : List EpochEntry) : Keeps z (State.epochReport s x0 x1) := by
  unfold State.epochReport
  try dsimp only
  with_reducible repeat' first | assumption | apply keeps_modPort | apply keeps_refillBound | apply Keeps.foldl | apply Keeps.ite | (simp only [Keeps.lit_iff]; apply KeepsLit.of <;> first | rfl | skip) | split | omega | dsimp only [id] | (intro)

theorem keeps_execEpoch {z s : State} (h : Keeps z s) (x0 : Nat) (x1 : FlueHdr) (x2 : List EpochEntry) : OutKeeps z (execEpoch x0 x1 x2 s) := by
  unfold execEpoch
  try dsimp only
  with_reducible repeat' first | assumption | apply OutKeeps.next | apply keeps_flueReceive | apply keeps_epochReport | apply Keeps.foldl | apply Keeps.ite | (simp only [Keeps.lit_iff]; apply KeepsLit.of <;> first | rfl | skip) | split | omega | dsimp only [id] | (intro)

theorem keeps_flueAnswer {z s : State} (h : Keeps z s) (x0 : Nat) (x1 : FlueMsg) (x2 : Nat) (x3 : Nat) : Keeps z (State.flueAnswer s x0 x1 x2 x3) := by
  unfold State.flueAnswer
  try dsimp only
  with_reducible repeat' first | assumption | apply keeps_sendItem | apply Keeps.foldl | apply Keeps.ite | (simp only [Keeps.lit_iff]; apply KeepsLit.of <;> first | rfl | skip) | split | omega | dsimp only [id] | (intro)

theorem keeps_flueRefuse {z s : State} (h : Keeps z s) (x0 : Nat) (x1 : Nat) (x2 : FlueMsg) (x3 : Nat) : Keeps z (State.flueRefuse s x0 x1 x2 x3) := by
  unfold State.flueRefuse
  try dsimp only
  with_reducible repeat' first | assumption | apply keeps_bump | apply keeps_flueRecord | apply keeps_flueAnswer | apply Keeps.foldl | apply Keeps.ite | (simp only [Keeps.lit_iff]; apply KeepsLit.of <;> first | rfl | skip) | split | omega | dsimp only [id] | (intro)

theorem keeps_flueResult {z s : State} (h : Keeps z s) (x0 : Nat) (x1 : Nat) (x2 : Nat) (x3 : FlueMsg) : Keeps z (State.flueResult s x0 x1 x2 x3) := by
  unfold State.flueResult
  try dsimp only
  with_reducible repeat' first | assumption | apply keeps_modPort | apply keeps_bump | apply keeps_record | apply keeps_deliverResult | apply Keeps.foldl | apply Keeps.ite | (simp only [Keeps.lit_iff]; apply KeepsLit.of <;> first | rfl | skip) | split | omega | dsimp only [id] | (intro)

theorem keeps_flueDeliver {z s : State} (h : Keeps z s) (x0 : Nat) (x1 : FlueMsg) (x2 : Msg) : Keeps z (State.flueDeliver s x0 x1 x2) := by
  unfold State.flueDeliver
  try dsimp only
  with_reducible repeat' first | assumption | apply keeps_crossDrop | apply keeps_flueAnswer | apply keeps_deliverCredit | apply keeps_deliverData | apply Keeps.foldl | apply Keeps.ite | (simp only [Keeps.lit_iff]; apply KeepsLit.of <;> first | rfl | skip) | split | omega | dsimp only [id] | (intro)

theorem keeps_keepCredits {z s : State} (h : Keeps z s) (x0 : Nat) (x1 : FlueMsg) : Keeps z (State.keepCredits s x0 x1) := by
  unfold State.keepCredits
  try dsimp only
  with_reducible repeat' first | assumption | apply keeps_modPort | apply Keeps.foldl | apply Keeps.ite | (simp only [Keeps.lit_iff]; apply KeepsLit.of <;> first | rfl | skip) | split | omega | dsimp only [id] | (intro)

theorem keeps_giveCredits {z s : State} (h : Keeps z s) (x0 : Nat) (x1 : FlueMsg) : Keeps z (State.giveCredits s x0 x1) := by
  unfold State.giveCredits
  try dsimp only
  with_reducible repeat' first | assumption | apply keeps_modPort | apply Keeps.foldl | apply Keeps.ite | (simp only [Keeps.lit_iff]; apply KeepsLit.of <;> first | rfl | skip) | split | omega | dsimp only [id] | (intro)

theorem keeps_flueEnter {z s : State} (h : Keeps z s) (x0 : Nat) (x1 : FlueMsg) (x2 : Msg) : Keeps z (State.flueEnter s x0 x1 x2) := by
  unfold State.flueEnter
  try dsimp only
  with_reducible repeat' first | assumption | apply keeps_way | apply keeps_keepCredits | apply keeps_modPort | apply keeps_dieDrop | apply keeps_flueAnswer | apply keeps_flueDeliver | apply Keeps.foldl | apply Keeps.ite | (simp only [Keeps.lit_iff]; apply KeepsLit.of <;> first | rfl | skip) | refine keeps_way_of (by assumption) ?_ | split | omega | dsimp only [id] | (intro)

theorem keeps_portResume {z s : State} (h : Keeps z s) (x0 : Nat) : Keeps z (State.portResume s x0) := by
  unfold State.portResume
  try dsimp only
  with_reducible repeat' first | assumption | apply keeps_giveCredits | apply keeps_flueEnter | apply keeps_modPort | apply keeps_portFlow | apply Keeps.foldl | apply Keeps.ite | (simp only [Keeps.lit_iff]; apply KeepsLit.of <;> first | rfl | skip) | split | omega | dsimp only [id] | (intro)

theorem keeps_flueMessage {z s : State} (h : Keeps z s) (x0 : Nat) (x1 : FlueMsg) (x2 : List Byte) : Keeps z (State.flueMessage s x0 x1 x2) := by
  unfold State.flueMessage
  try dsimp only
  with_reducible repeat' first | assumption | apply keeps_flueRefuse | apply keeps_flueResult | apply keeps_draw | apply keeps_flueEnter | apply keeps_keepCredits | apply keeps_modMaster | apply keeps_freezeMaster | apply Keeps.foldl | apply Keeps.ite | (simp only [Keeps.lit_iff]; apply KeepsLit.of <;> first | rfl | skip) | split | omega | dsimp only [id] | (intro)

theorem keeps_execMessage {z s : State} (h : Keeps z s) (x0 : Nat) (x1 : FlueHdr) (x2 : FlueMsg) (x3 : List Byte) : OutKeeps z (execMessage x0 x1 x2 x3 s) := by
  unfold execMessage
  try dsimp only
  with_reducible repeat' first | assumption | apply OutKeeps.next | apply keeps_flueReceive | apply keeps_flueMessage | apply Keeps.foldl | apply Keeps.ite | (simp only [Keeps.lit_iff]; apply KeepsLit.of <;> first | rfl | skip) | split | omega | dsimp only [id] | (intro)

theorem keeps_mirrorFrame {z s : State} (h : Keeps z s) (x0 : Nat) (x1 : Nat) (x2 : Nat) (x3 : Nat) (x4 : List Byte) : Keeps z (State.mirrorFrame s x0 x1 x2 x3 x4) := by
  unfold State.mirrorFrame
  try dsimp only
  with_reducible repeat' first | assumption | apply keeps_frameOut | apply Keeps.foldl | apply Keeps.ite | (simp only [Keeps.lit_iff]; apply KeepsLit.of <;> first | rfl | skip) | split | omega | dsimp only [id] | (intro)

theorem keeps_execMirrorFrame {z s : State} (h : Keeps z s) (x0 : Nat) (x1 : FlueHdr) (x2 : Nat) (x3 : Nat) (x4 : Nat) (x5 : List Byte) : OutKeeps z (execMirrorFrame x0 x1 x2 x3 x4 x5 s) := by
  unfold execMirrorFrame
  try dsimp only
  with_reducible repeat' first | assumption | apply OutKeeps.next | apply keeps_flueReceive | apply keeps_mirrorFrame | apply Keeps.foldl | apply Keeps.ite | (simp only [Keeps.lit_iff]; apply KeepsLit.of <;> first | rfl | skip) | split | omega | dsimp only [id] | (intro)

theorem keeps_execTakeover {z s : State} (h : Keeps z s) (x0 : Nat) (x1 : FlueHdr) : OutKeeps z (execTakeover x0 x1 s) := by
  unfold execTakeover
  try dsimp only
  with_reducible repeat' first | assumption | apply OutKeeps.next | apply keeps_flueReceive | apply keeps_takeover | apply Keeps.foldl | apply Keeps.ite | (simp only [Keeps.lit_iff]; apply KeepsLit.of <;> first | rfl | skip) | split | omega | dsimp only [id] | (intro)

theorem keeps_mirrorKeepalive {z s : State} (h : Keeps z s) : Keeps z (State.mirrorKeepalive s) := by
  unfold State.mirrorKeepalive
  try dsimp only
  with_reducible repeat' first | assumption | apply keeps_sendIdle | apply Keeps.foldl | apply Keeps.ite | (simp only [Keeps.lit_iff]; apply KeepsLit.of <;> first | rfl | skip) | split | omega | dsimp only [id] | (intro)

theorem keeps_execMirrorKeepalive {z s : State} (h : Keeps z s) : OutKeeps z (execMirrorKeepalive s) := by
  unfold execMirrorKeepalive
  try dsimp only
  with_reducible repeat' first | assumption | apply OutKeeps.next | apply keeps_mirrorKeepalive | apply Keeps.foldl | apply Keeps.ite | (simp only [Keeps.lit_iff]; apply KeepsLit.of <;> first | rfl | skip) | split | omega | dsimp only [id] | (intro)

theorem keeps_mirrorTimeout {z s : State} (h : Keeps z s) : Keeps z (State.mirrorTimeout s) := by
  unfold State.mirrorTimeout
  try dsimp only
  with_reducible repeat' first | assumption | apply keeps_takeover | apply Keeps.foldl | apply Keeps.ite | (simp only [Keeps.lit_iff]; apply KeepsLit.of <;> first | rfl | skip) | split | omega | dsimp only [id] | (intro)

theorem keeps_execMirrorTimeout {z s : State} (h : Keeps z s) : OutKeeps z (execMirrorTimeout s) := by
  unfold execMirrorTimeout
  try dsimp only
  with_reducible repeat' first | assumption | apply OutKeeps.next | apply keeps_mirrorTimeout | apply Keeps.foldl | apply Keeps.ite | (simp only [Keeps.lit_iff]; apply KeepsLit.of <;> first | rfl | skip) | split | omega | dsimp only [id] | (intro)

theorem keeps_mirrorRelease {z s : State} (h : Keeps z s) : Keeps z (State.mirrorRelease s) := by
  unfold State.mirrorRelease
  try dsimp only
  with_reducible repeat' first | assumption | apply keeps_releaseOutputs | apply Keeps.foldl | apply Keeps.ite | (simp only [Keeps.lit_iff]; apply KeepsLit.of <;> first | rfl | skip) | split | omega | dsimp only [id] | (intro)

theorem keeps_execMirrorRelease {z s : State} (h : Keeps z s) : OutKeeps z (execMirrorRelease s) := by
  unfold execMirrorRelease
  try dsimp only
  with_reducible repeat' first | assumption | apply OutKeeps.next | apply keeps_mirrorRelease | apply Keeps.foldl | apply Keeps.ite | (simp only [Keeps.lit_iff]; apply KeepsLit.of <;> first | rfl | skip) | split | omega | dsimp only [id] | (intro)

theorem keeps_mirrorCommit {z s : State} (h : Keeps z s) : Keeps z (State.mirrorCommit s) := by
  unfold State.mirrorCommit
  try dsimp only
  with_reducible repeat' first | assumption | apply keeps_setMirror | apply keeps_releaseOutputs | apply keeps_pairMirror | apply Keeps.foldl | apply Keeps.ite | (simp only [Keeps.lit_iff]; apply KeepsLit.of <;> first | rfl | skip) | split | omega | dsimp only [id] | (intro)

end Sys2Proof.Machine
end

