-- ==== Sys2Proof/Laws/Recorder.lean ====
section
/-! SUPPORT. What the operations of Machine/Recorder.lean keep (Laws/Keeps.lean), one lemma for each. -/

set_option linter.unusedTactic false
set_option linter.unreachableTactic false
set_option linter.unusedSimpArgs false

namespace Sys2Proof.Machine

theorem keeps_takeRecSeq {z s : State} (h : Keeps z s) (x0 : Nat) : Keeps z (State.takeRecSeq s x0).2 := by
  unfold State.takeRecSeq
  try dsimp only
  with_reducible repeat' first | assumption | apply Keeps.foldl | apply Keeps.ite | (simp only [Keeps.lit_iff]; apply KeepsLit.of <;> first | rfl | skip) | split | omega | dsimp only [id] | (intro)

theorem keeps_takeRecSeq_of {z s t : State} {x0 : Nat} {v} (e : State.takeRecSeq s x0 = (v, t)) (h : Keeps z s) : Keeps z t := by
  have k := keeps_takeRecSeq h x0
  rw [e] at k
  exact k

theorem keeps_ownRec {z s : State} (h : Keeps z s) (x0 : Nat) (x1 : Nat) (x2 : List Nat) : Keeps z (State.ownRec s x0 x1 x2).2 := by
  unfold State.ownRec
  try dsimp only
  with_reducible repeat' first | assumption | apply keeps_takeRecSeq | apply Keeps.foldl | apply Keeps.ite | (simp only [Keeps.lit_iff]; apply KeepsLit.of <;> first | rfl | skip) | refine keeps_takeRecSeq_of (by assumption) ?_ | split | omega | dsimp only [id] | (intro)

theorem keeps_ownRec_of {z s t : State} {x0 : Nat} {x1 : Nat} {x2 : List Nat} {v} (e : State.ownRec s x0 x1 x2 = (v, t)) (h : Keeps z s) : Keeps z t := by
  have k := keeps_ownRec h x0 x1 x2
  rw [e] at k
  exact k

theorem keeps_persistSegment {z s : State} (h : Keeps z s) (x0 x1 x2 x3 : Nat) : Keeps z (State.persistSegment s x0 x1 x2 x3) :=
  Keeps.litMem h rfl rfl (fun w => by
    simp only [State.memOk, Bool.and_eq_true] at w ⊢
    exact ⟨w.1, Mem.wf_take (by omega) w.2 w.1⟩) rfl rfl rfl rfl rfl

theorem keeps_persistOpen {z s : State} (h : Keeps z s) : Keeps z (State.persistOpen s) := by
  unfold State.persistOpen
  try dsimp only
  with_reducible repeat' first | assumption | apply keeps_persistSegment | apply Keeps.foldl | apply Keeps.ite | (simp only [Keeps.lit_iff]; apply KeepsLit.of <;> first | rfl | skip) | split | omega | dsimp only [id] | (intro)

theorem keeps_foundPut {z s : State} (h : Keeps z s) (x0 : List Byte) : Keeps z (State.foundPut s x0) := by
  unfold State.foundPut
  try dsimp only
  with_reducible repeat' first | assumption | apply keeps_poke | apply keeps_persistSegment | apply Keeps.foldl | apply Keeps.ite | (simp only [Keeps.lit_iff]; apply KeepsLit.of <;> first | rfl | skip) | split | omega | dsimp only [id] | (intro)

theorem keeps_rollPut {z s : State} (h : Keeps z s) (x0 : List Byte) : Keeps z (State.rollPut s x0) := by
  unfold State.rollPut
  try dsimp only
  with_reducible repeat' first | assumption | apply keeps_poke | apply keeps_persistSegment | apply Keeps.foldl | apply Keeps.ite | (simp only [Keeps.lit_iff]; apply KeepsLit.of <;> first | rfl | skip) | split | omega | dsimp only [id] | (intro)

theorem keeps_makeRoom {z s : State} (h : Keeps z s) (x0 : Nat) (x1 : Nat) : Keeps z (State.makeRoom s x0 x1) := by
  induction x1 generalizing s x0 with
  | zero =>
    unfold State.makeRoom
    try dsimp only
    with_reducible repeat' first | assumption
  | succ n ih =>
    unfold State.makeRoom
    try dsimp only
    with_reducible repeat' first | assumption | apply ih | apply Keeps.foldl | apply Keeps.ite | (simp only [Keeps.lit_iff]; apply KeepsLit.of <;> first | rfl | skip) | split | omega | dsimp only [id] | (intro)

theorem keeps_padBytes {z s : State} (h : Keeps z s) (x0 : Nat) : Keeps z (State.padBytes s x0).2 := by
  unfold State.padBytes
  try dsimp only
  with_reducible repeat' first | assumption | apply keeps_ownRec | apply Keeps.foldl | apply Keeps.ite | (simp only [Keeps.lit_iff]; apply KeepsLit.of <;> first | rfl | skip) | refine keeps_ownRec_of (by assumption) ?_ | split | omega | dsimp only [id] | (intro)

theorem keeps_padBytes_of {z s t : State} {x0 : Nat} {v} (e : State.padBytes s x0 = (v, t)) (h : Keeps z s) : Keeps z t := by
  have k := keeps_padBytes h x0
  rw [e] at k
  exact k

theorem keeps_toTelemetry {z s : State} (h : Keeps z s) (x0 : Rec) : Keeps z (State.toTelemetry s x0) := by
  unfold State.toTelemetry
  try dsimp only
  with_reducible repeat' first | assumption | apply Keeps.foldl | apply Keeps.ite | (simp only [Keeps.lit_iff]; apply KeepsLit.of <;> first | rfl | skip) | split | omega | dsimp only [id] | (intro)

theorem keeps_writeRecord {z s : State} (h : Keeps z s) (x0 : Rec) : Keeps z (State.writeRecord s x0) := by
  unfold State.writeRecord
  try dsimp only
  with_reducible repeat' first | assumption | apply keeps_padBytes | apply keeps_foundPut | apply keeps_makeRoom | apply keeps_rollPut | apply keeps_toTelemetry | apply keeps_bump | apply Keeps.foldl | apply Keeps.ite | (simp only [Keeps.lit_iff]; apply KeepsLit.of <;> first | rfl | skip) | refine keeps_padBytes_of (by assumption) ?_ | split | omega | dsimp only [id] | (intro)

theorem keeps_holdRecord {z s : State} (h : Keeps z s) (x0 : Rec) : Keeps z (State.holdRecord s x0) := by
  unfold State.holdRecord
  try dsimp only
  with_reducible repeat' first | assumption | apply keeps_hold | apply keeps_bump | apply Keeps.foldl | apply Keeps.ite | (simp only [Keeps.lit_iff]; apply KeepsLit.of <;> first | rfl | skip) | split | omega | dsimp only [id] | (intro)

theorem keeps_leaveSort {z s : State} (h : Keeps z s) (x0 : Rec) : Keeps z (State.leaveSort s x0) := by
  unfold State.leaveSort
  try dsimp only
  with_reducible repeat' first | assumption | apply keeps_holdRecord | apply keeps_writeRecord | apply Keeps.foldl | apply Keeps.ite | (simp only [Keeps.lit_iff]; apply KeepsLit.of <;> first | rfl | skip) | split | omega | dsimp only [id] | (intro)

theorem keeps_retain {z s : State} (h : Keeps z s) (x0 : Rec) : Keeps z (State.retain s x0) := by
  unfold State.retain
  try dsimp only
  with_reducible repeat' first | assumption | apply Keeps.foldl | apply Keeps.ite | (simp only [Keeps.lit_iff]; apply KeepsLit.of <;> first | rfl | skip) | split | omega | dsimp only [id] | (intro)

theorem keeps_putRecord {z s : State} (h : Keeps z s) (x0 : Rec) : Keeps z (State.putRecord s x0) := by
  unfold State.putRecord
  try dsimp only
  with_reducible repeat' first | assumption | apply keeps_retain | apply keeps_writeRecord | apply Keeps.foldl | apply Keeps.ite | (simp only [Keeps.lit_iff]; apply KeepsLit.of <;> first | rfl | skip) | split | omega | dsimp only [id] | (intro)

theorem keeps_writeGap {z s : State} (h : Keeps z s) (x0 : Option (Nat × Nat × Nat)) : Keeps z (State.writeGap s x0) := by
  unfold State.writeGap
  try dsimp only
  with_reducible repeat' first | assumption | apply keeps_ownRec | apply keeps_putRecord | apply Keeps.foldl | apply Keeps.ite | (simp only [Keeps.lit_iff]; apply KeepsLit.of <;> first | rfl | skip) | refine keeps_ownRec_of (by assumption) ?_ | split | omega | dsimp only [id] | (intro)

theorem keeps_writeHeld {z s : State} (h : Keeps z s) (x0 : Bool) : Keeps z (State.writeHeld s x0) := by
  unfold State.writeHeld
  try dsimp only
  with_reducible repeat' first | assumption | apply keeps_hold | apply keeps_putRecord | apply keeps_writeGap | apply Keeps.foldl | apply Keeps.ite | (simp only [Keeps.lit_iff]; apply KeepsLit.of <;> first | rfl | skip) | split | omega | dsimp only [id] | (intro)

theorem keeps_endFreeze {z s : State} (h : Keeps z s) : Keeps z (State.endFreeze s) := by
  unfold State.endFreeze
  try dsimp only
  with_reducible repeat' first | assumption | apply keeps_writeHeld | apply Keeps.foldl | apply Keeps.ite | (simp only [Keeps.lit_iff]; apply KeepsLit.of <;> first | rfl | skip) | split | omega | dsimp only [id] | (intro)

theorem keeps_setFreeze {z s : State} (h : Keeps z s) (x0 : Bool) : Keeps z (State.setFreeze s x0) := by
  unfold State.setFreeze
  try dsimp only
  with_reducible repeat' first | assumption | apply keeps_endFreeze | apply Keeps.foldl | apply Keeps.ite | (simp only [Keeps.lit_iff]; apply KeepsLit.of <;> first | rfl | skip) | split | omega | dsimp only [id] | (intro)

theorem keeps_freezeExpiry {z s : State} (h : Keeps z s) : Keeps z (State.freezeExpiry s) := by
  unfold State.freezeExpiry
  try dsimp only
  with_reducible repeat' first | assumption | apply keeps_endFreeze | apply Keeps.foldl | apply Keeps.ite | (simp only [Keeps.lit_iff]; apply KeepsLit.of <;> first | rfl | skip) | split | omega | dsimp only [id] | (intro)

theorem keeps_execFreezeMaxExpiry {z s : State} (h : Keeps z s) : OutKeeps z (execFreezeMaxExpiry s) := by
  unfold execFreezeMaxExpiry
  try dsimp only
  with_reducible repeat' first | assumption | apply OutKeeps.next | apply keeps_freezeExpiry | apply Keeps.foldl | apply Keeps.ite | (simp only [Keeps.lit_iff]; apply KeepsLit.of <;> first | rfl | skip) | split | omega | dsimp only [id] | (intro)

theorem keeps_limit {z s : State} (h : Keeps z s) (x0 : Rec) : Keeps z (State.limit s x0).2 := by
  unfold State.limit
  try dsimp only
  with_reducible repeat' first | assumption | apply keeps_takeRecSeq | apply keeps_bump | apply Keeps.foldl | apply Keeps.ite | (simp only [Keeps.lit_iff]; apply KeepsLit.of <;> first | rfl | skip) | refine keeps_takeRecSeq_of (by assumption) ?_ | split | omega | dsimp only [id] | (intro)

theorem keeps_limit_of {z s t : State} {x0 : Rec} {v} (e : State.limit s x0 = (v, t)) (h : Keeps z s) : Keeps z t := by
  have k := keeps_limit h x0
  rw [e] at k
  exact k

theorem keeps_acceptRecord {z s : State} (h : Keeps z s) (x0 : Rec) : Keeps z (State.acceptRecord s x0) := by
  unfold State.acceptRecord
  try dsimp only
  with_reducible repeat' first | assumption | apply keeps_holdRecord | apply keeps_retain | apply keeps_leaveSort | apply Keeps.foldl | apply Keeps.ite | (simp only [Keeps.lit_iff]; apply KeepsLit.of <;> first | rfl | skip) | split | omega | dsimp only [id] | (intro)

theorem keeps_recordIn {z s : State} (h : Keeps z s) : Keeps z (State.recordIn s) := by
  unfold State.recordIn
  try dsimp only
  with_reducible repeat' first | assumption | apply keeps_logOp | apply keeps_record | apply keeps_limit | apply keeps_acceptRecord | apply keeps_completeOp | apply Keeps.foldl | apply Keeps.ite | (simp only [Keeps.lit_iff]; apply KeepsLit.of <;> first | rfl | skip) | refine keeps_limit_of (by assumption) ?_ | split | omega | dsimp only [id] | (intro)

theorem keeps_execRecord {z s : State} (h : Keeps z s) : OutKeeps z (execRecord s) := by
  unfold execRecord
  try dsimp only
  with_reducible repeat' first | assumption | apply OutKeeps.next | apply keeps_recordIn | apply Keeps.foldl | apply Keeps.ite | (simp only [Keeps.lit_iff]; apply KeepsLit.of <;> first | rfl | skip) | split | omega | dsimp only [id] | (intro)

theorem keeps_sortRelease {z s : State} (h : Keeps z s) : Keeps z (State.sortRelease s) := by
  unfold State.sortRelease
  try dsimp only
  with_reducible repeat' first | assumption | apply keeps_leaveSort | apply Keeps.foldl | apply Keeps.ite | (simp only [Keeps.lit_iff]; apply KeepsLit.of <;> first | rfl | skip) | split | omega | dsimp only [id] | (intro)

theorem keeps_execSortRelease {z s : State} (h : Keeps z s) : OutKeeps z (execSortRelease s) := by
  unfold execSortRelease
  try dsimp only
  with_reducible repeat' first | assumption | apply OutKeeps.next | apply keeps_sortRelease | apply Keeps.foldl | apply Keeps.ite | (simp only [Keeps.lit_iff]; apply KeepsLit.of <;> first | rfl | skip) | split | omega | dsimp only [id] | (intro)

theorem keeps_refill {z s : State} (h : Keeps z s) (x0 : Nat) : Keeps z (State.refill s x0) := by
  unfold State.refill
  try dsimp only
  with_reducible repeat' first | assumption | apply Keeps.foldl | apply Keeps.ite | (simp only [Keeps.lit_iff]; apply KeepsLit.of <;> first | rfl | skip) | split | omega | dsimp only [id] | (intro)

theorem keeps_execTokenRefill {z s : State} (h : Keeps z s) (x0 : Nat) : OutKeeps z (execTokenRefill x0 s) := by
  unfold execTokenRefill
  try dsimp only
  with_reducible repeat' first | assumption | apply OutKeeps.next | apply keeps_refill | apply Keeps.foldl | apply Keeps.ite | (simp only [Keeps.lit_iff]; apply KeepsLit.of <;> first | rfl | skip) | split | omega | dsimp only [id] | (intro)

theorem keeps_flushSort {z s : State} (h : Keeps z s) : Keeps z (State.flushSort s) := by
  unfold State.flushSort
  try dsimp only
  with_reducible repeat' first | assumption | apply keeps_leaveSort | apply Keeps.foldl | apply Keeps.ite | (simp only [Keeps.lit_iff]; apply KeepsLit.of <;> first | rfl | skip) | split | omega | dsimp only [id] | (intro)

theorem keeps_checkpointRecord {z s : State} (h : Keeps z s) (x0 : Nat) : Keeps z (State.checkpointRecord s x0) := by
  unfold State.checkpointRecord
  try dsimp only
  with_reducible repeat' first | assumption | apply keeps_endFreeze | apply keeps_flushSort | apply keeps_bump | apply keeps_ownRec | apply keeps_putRecord | apply Keeps.foldl | apply Keeps.ite | (simp only [Keeps.lit_iff]; apply KeepsLit.of <;> first | rfl | skip) | refine keeps_ownRec_of (by assumption) ?_ | split | omega | dsimp only [id] | (intro)

theorem keeps_checkpointStart {z s : State} (h : Keeps z s) : Keeps z (State.checkpointStart s) := by
  unfold State.checkpointStart
  try dsimp only
  with_reducible repeat' first | assumption | apply keeps_checkpointRecord | apply Keeps.foldl | apply Keeps.ite | (simp only [Keeps.lit_iff]; apply KeepsLit.of <;> first | rfl | skip) | split | omega | dsimp only [id] | (intro)

theorem keeps_checkpointEnd {z s : State} (h : Keeps z s) : Keeps z (State.checkpointEnd s) := by
  unfold State.checkpointEnd
  try dsimp only
  with_reducible repeat' first | assumption | apply keeps_persistOpen | apply keeps_msix | apply keeps_pfail | apply keeps_writeHeld | apply Keeps.foldl | apply Keeps.ite | (simp only [Keeps.lit_iff]; apply KeepsLit.of <;> first | rfl | skip) | split | omega | dsimp only [id] | (intro)

theorem keeps_execCheckpointComplete {z s : State} (h : Keeps z s) : OutKeeps z (execCheckpointComplete s) := by
  unfold execCheckpointComplete
  try dsimp only
  with_reducible repeat' first | assumption | apply OutKeeps.next | apply keeps_checkpointEnd | apply Keeps.foldl | apply Keeps.ite | (simp only [Keeps.lit_iff]; apply KeepsLit.of <;> first | rfl | skip) | split | omega | dsimp only [id] | (intro)

theorem keeps_persistCounters {z s : State} (h : Keeps z s) : Keeps z (State.persistCounters s) := by
  unfold State.persistCounters
  try dsimp only
  with_reducible repeat' first | assumption | apply Keeps.foldl | apply Keeps.ite | (simp only [Keeps.lit_iff]; apply KeepsLit.of <;> first | rfl | skip) | split | omega | dsimp only [id] | (intro)

theorem keeps_counterMinute {z s : State} (h : Keeps z s) : Keeps z (State.counterMinute s) := by
  unfold State.counterMinute
  try dsimp only
  with_reducible repeat' first | assumption | apply keeps_persistCounters | apply Keeps.foldl | apply Keeps.ite | (simp only [Keeps.lit_iff]; apply KeepsLit.of <;> first | rfl | skip) | split | omega | dsimp only [id] | (intro)

theorem keeps_execCounterPersist {z s : State} (h : Keeps z s) : OutKeeps z (execCounterPersist s) := by
  unfold execCounterPersist
  try dsimp only
  with_reducible repeat' first | assumption | apply OutKeeps.next | apply keeps_counterMinute | apply Keeps.foldl | apply Keeps.ite | (simp only [Keeps.lit_iff]; apply KeepsLit.of <;> first | rfl | skip) | split | omega | dsimp only [id] | (intro)

theorem keeps_pfail {z s : State} (h : Keeps z s) : Keeps z (State.pfail s) := by
  unfold State.pfail
  try dsimp only
  with_reducible repeat' first | assumption | apply keeps_bump | apply keeps_record | apply keeps_modDac | apply keeps_faultDac | apply keeps_persistCounters | apply keeps_persistTe | apply keeps_checkpointStart | apply Keeps.foldl | apply Keeps.ite | (simp only [Keeps.lit_iff]; apply KeepsLit.of <;> first | rfl | skip) | split | omega | dsimp only [id] | (intro)

theorem keeps_execPfail {z s : State} (h : Keeps z s) : OutKeeps z (execPfail s) := by
  unfold execPfail
  try dsimp only
  with_reducible repeat' first | assumption | apply OutKeeps.next | apply keeps_pfail | apply Keeps.foldl | apply Keeps.ite | (simp only [Keeps.lit_iff]; apply KeepsLit.of <;> first | rfl | skip) | split | omega | dsimp only [id] | (intro)

theorem keeps_pfailEnd {z s : State} (h : Keeps z s) : Keeps z (State.pfailEnd s) := by
  unfold State.pfailEnd
  try dsimp only
  with_reducible repeat' first | assumption | apply keeps_modDac | apply keeps_pfail | apply Keeps.foldl | apply Keeps.ite | (simp only [Keeps.lit_iff]; apply KeepsLit.of <;> first | rfl | skip) | split | omega | dsimp only [id] | (intro)

theorem keeps_execPfailDeassert {z s : State} (h : Keeps z s) : OutKeeps z (execPfailDeassert s) := by
  unfold execPfailDeassert
  try dsimp only
  with_reducible repeat' first | assumption | apply OutKeeps.next | apply keeps_pfailEnd | apply Keeps.foldl | apply Keeps.ite | (simp only [Keeps.lit_iff]; apply KeepsLit.of <;> first | rfl | skip) | split | omega | dsimp only [id] | (intro)

theorem keeps_clearAsh {z s : State} (h : Keeps z s) (x0 : Nat) : Keeps z (State.clearAsh s x0) := by
  unfold State.clearAsh
  dsimp only
  refine keeps_writeRecord (keeps_ownRec (Keeps.litMem (keeps_wipe (keeps_writeHeld (keeps_flushSort h) false) foundBase (rollBase + rollSize))
    rfl rfl (fun w => ?_) rfl rfl rfl rfl rfl) _ _ _) _
  simp only [State.memOk, Bool.and_eq_true] at w ⊢
  exact ⟨w.1, Mem.wf_nil⟩

theorem keeps_clearEnd {z s : State} (h : Keeps z s) : Keeps z (State.clearEnd s) := by
  unfold State.clearEnd
  try dsimp only
  with_reducible repeat' first | assumption | apply keeps_checkpointStart | apply Keeps.foldl | apply Keeps.ite | (simp only [Keeps.lit_iff]; apply KeepsLit.of <;> first | rfl | skip) | split | omega | dsimp only [id] | (intro)

theorem keeps_execAshClearComplete {z s : State} (h : Keeps z s) : OutKeeps z (execAshClearComplete s) := by
  unfold execAshClearComplete
  try dsimp only
  with_reducible repeat' first | assumption | apply OutKeeps.next | apply keeps_clearEnd | apply Keeps.foldl | apply Keeps.ite | (simp only [Keeps.lit_iff]; apply KeepsLit.of <;> first | rfl | skip) | split | omega | dsimp only [id] | (intro)

theorem keeps_ashReload {z s : State} (h : Keeps z s) : Keeps z (State.ashReload s) :=
  Keeps.litMem h rfl rfl (fun w => by
    simp only [State.memOk, Bool.and_eq_true] at w ⊢
    exact ⟨Mem.wf_take (by decide) w.1 w.2, w.2⟩) rfl rfl rfl rfl rfl

theorem keeps_powerUpRecord {z s : State} (h : Keeps z s) (x0 : Nat) (x1 : Bool) : Keeps z (State.powerUpRecord s x0 x1) := by
  unfold State.powerUpRecord
  try dsimp only
  with_reducible repeat' first | assumption | apply keeps_ownRec | apply keeps_writeRecord | apply Keeps.foldl | apply Keeps.ite | (simp only [Keeps.lit_iff]; apply KeepsLit.of <;> first | rfl | skip) | refine keeps_ownRec_of (by assumption) ?_ | split | omega | dsimp only [id] | (intro)

end Sys2Proof.Machine
end

