-- ==== Sys2Proof/Laws/Clocks.lean ====
section
/-! SUPPORT. What the operations of Machine/Clocks.lean keep (Laws/Keeps.lean), one lemma for each. -/

set_option linter.unusedTactic false
set_option linter.unreachableTactic false
set_option linter.unusedSimpArgs false

namespace Sys2Proof.Machine

theorem keeps_setDivider {z s : State} (h : Keeps z s) (x0 : Nat) (x1 : Divider) : Keeps z (State.setDivider s x0 x1) := by
  unfold State.setDivider
  try dsimp only
  with_reducible repeat' first | assumption | apply Keeps.foldl | apply Keeps.ite | (simp only [Keeps.lit_iff]; apply KeepsLit.of <;> first | rfl | skip) | split | omega | dsimp only [id] | (intro)

theorem keeps_switchDue {z s : State} (h : Keeps z s) (x0 : Nat) : Keeps z (State.switchDue s x0) := by
  unfold State.switchDue
  try dsimp only
  with_reducible repeat' first | assumption | apply keeps_hold | apply keeps_setDivider | apply Keeps.foldl | apply Keeps.ite | (simp only [Keeps.lit_iff]; apply KeepsLit.of <;> first | rfl | skip) | split | omega | dsimp only [id] | (intro)

theorem keeps_switchFrom {z s : State} (h : Keeps z s) (x0 : Nat) (x1 : Nat) : Keeps z (State.switchFrom s x0 x1) := by
  unfold State.switchFrom
  try dsimp only
  with_reducible repeat' first | assumption | apply keeps_setDivider | apply keeps_hold | apply keeps_switchDue | apply Keeps.foldl | apply Keeps.ite | (simp only [Keeps.lit_iff]; apply KeepsLit.of <;> first | rfl | skip) | split | omega | dsimp only [id] | (intro)

theorem keeps_invalidateSlots {z s : State} (h : Keeps z s) (x0 : Nat) : Keeps z (State.invalidateSlots s x0) := by
  unfold State.invalidateSlots
  try dsimp only
  with_reducible repeat' first | assumption | apply Keeps.foldl | apply Keeps.ite | (simp only [Keeps.lit_iff]; apply KeepsLit.of <;> first | rfl | skip) | split | omega | dsimp only [id] | (intro)

theorem keeps_setGenState {z s : State} (h : Keeps z s) (x0 : Nat) (x1 : Nat) (x2 : Bool) : Keeps z (State.setGenState s x0 x1 x2) := by
  unfold State.setGenState
  try dsimp only
  with_reducible repeat' first | assumption | apply keeps_setGen | apply keeps_record | apply Keeps.foldl | apply Keeps.ite | (simp only [Keeps.lit_iff]; apply KeepsLit.of <;> first | rfl | skip) | split | omega | dsimp only [id] | (intro)

theorem keeps_toPilot {z s : State} (h : Keeps z s) (x0 : Nat) : Keeps z (State.toPilot s x0) := by
  unfold State.toPilot
  try dsimp only
  with_reducible repeat' first | assumption | apply keeps_setDivider | apply Keeps.foldl | apply Keeps.ite | (simp only [Keeps.lit_iff]; apply KeepsLit.of <;> first | rfl | skip) | split | omega | dsimp only [id] | (intro)

theorem keeps_gtcCoarse {z s : State} (h : Keeps z s) : Keeps z (State.gtcCoarse s) := by
  unfold State.gtcCoarse
  try dsimp only
  with_reducible repeat' first | assumption | apply keeps_setGtcMode | apply Keeps.foldl | apply Keeps.ite | (simp only [Keeps.lit_iff]; apply KeepsLit.of <;> first | rfl | skip) | split | omega | dsimp only [id] | (intro)

theorem keeps_lockLoss {z s : State} (h : Keeps z s) (x0 : Nat) : Keeps z (State.lockLoss s x0) := by
  unfold State.lockLoss
  try dsimp only
  with_reducible repeat' first | assumption | apply keeps_setGenState | apply keeps_bump | apply keeps_setGen | apply keeps_toPilot | apply keeps_draw | apply keeps_gtcCoarse | apply keeps_restartWindows | apply keeps_invalidateSlots | apply Keeps.foldl | apply Keeps.ite | (simp only [Keeps.lit_iff]; apply KeepsLit.of <;> first | rfl | skip) | split | omega | dsimp only [id] | (intro)

theorem keeps_execLockLoss {z s : State} (h : Keeps z s) (x0 : Nat) : OutKeeps z (execLockLoss x0 s) := by
  unfold execLockLoss
  try dsimp only
  with_reducible repeat' first | assumption | apply OutKeeps.next | apply keeps_lockLoss | apply Keeps.foldl | apply Keeps.ite | (simp only [Keeps.lit_iff]; apply KeepsLit.of <;> first | rfl | skip) | split | omega | dsimp only [id] | (intro)

theorem keeps_pllRelock {z s : State} (h : Keeps z s) (x0 : Nat) : Keeps z (State.pllRelock s x0) := by
  unfold State.pllRelock
  try dsimp only
  with_reducible repeat' first | assumption | apply keeps_setGenState | apply Keeps.foldl | apply Keeps.ite | (simp only [Keeps.lit_iff]; apply KeepsLit.of <;> first | rfl | skip) | split | omega | dsimp only [id] | (intro)

theorem keeps_execPllRelock {z s : State} (h : Keeps z s) (x0 : Nat) : OutKeeps z (execPllRelock x0 s) := by
  unfold execPllRelock
  try dsimp only
  with_reducible repeat' first | assumption | apply OutKeeps.next | apply keeps_pllRelock | apply Keeps.foldl | apply Keeps.ite | (simp only [Keeps.lit_iff]; apply KeepsLit.of <;> first | rfl | skip) | split | omega | dsimp only [id] | (intro)

theorem keeps_pllReturn {z s : State} (h : Keeps z s) (x0 : Nat) : Keeps z (State.pllReturn s x0) := by
  unfold State.pllReturn
  try dsimp only
  with_reducible repeat' first | assumption | apply keeps_setGenState | apply keeps_bump | apply keeps_setGtcMode | apply Keeps.foldl | apply Keeps.ite | (simp only [Keeps.lit_iff]; apply KeepsLit.of <;> first | rfl | skip) | split | omega | dsimp only [id] | (intro)

theorem keeps_execPllReturn {z s : State} (h : Keeps z s) (x0 : Nat) : OutKeeps z (execPllReturn x0 s) := by
  unfold execPllReturn
  try dsimp only
  with_reducible repeat' first | assumption | apply OutKeeps.next | apply keeps_pllReturn | apply Keeps.foldl | apply Keeps.ite | (simp only [Keeps.lit_iff]; apply KeepsLit.of <;> first | rfl | skip) | split | omega | dsimp only [id] | (intro)

theorem keeps_linksDown {z s : State} (h : Keeps z s) : Keeps z (State.linksDown s) := by
  unfold State.linksDown
  try dsimp only
  with_reducible repeat' first | assumption | apply keeps_linkLost | apply Keeps.foldl | apply Keeps.ite | (simp only [Keeps.lit_iff]; apply KeepsLit.of <;> first | rfl | skip) | split | omega | dsimp only [id] | (intro)

theorem keeps_referenceLost {z s : State} (h : Keeps z s) : Keeps z (State.referenceLost s) := by
  unfold State.referenceLost
  try dsimp only
  with_reducible repeat' first | assumption | apply keeps_lockLoss | apply keeps_gtcCoarse | apply keeps_linksDown | apply Keeps.foldl | apply Keeps.ite | (simp only [Keeps.lit_iff]; apply KeepsLit.of <;> first | rfl | skip) | split | omega | dsimp only [id] | (intro)

theorem keeps_execReferenceLost {z s : State} (h : Keeps z s) : OutKeeps z (execReferenceLost s) := by
  unfold execReferenceLost
  try dsimp only
  with_reducible repeat' first | assumption | apply OutKeeps.next | apply keeps_referenceLost | apply Keeps.foldl | apply Keeps.ite | (simp only [Keeps.lit_iff]; apply KeepsLit.of <;> first | rfl | skip) | split | omega | dsimp only [id] | (intro)

theorem keeps_execReferencePresent {z s : State} (h : Keeps z s) : OutKeeps z (execReferencePresent s) := by
  unfold execReferencePresent
  try dsimp only
  with_reducible repeat' first | assumption | apply OutKeeps.next | apply Keeps.foldl | apply Keeps.ite | (simp only [Keeps.lit_iff]; apply KeepsLit.of <;> first | rfl | skip) | split | omega | dsimp only [id] | (intro)

theorem keeps_stepDivider {z s : State} (h : Keeps z s) (x0 : Nat) : Keeps z (State.stepDivider s x0) := by
  unfold State.stepDivider
  try dsimp only
  with_reducible repeat' first | assumption | apply keeps_setDivider | apply Keeps.foldl | apply Keeps.ite | (simp only [Keeps.lit_iff]; apply KeepsLit.of <;> first | rfl | skip) | split | omega | dsimp only [id] | (intro)

theorem keeps_rampEnds {z s : State} (h : Keeps z s) : Keeps z (State.rampEnds s) := by
  unfold State.rampEnds
  try dsimp only
  with_reducible repeat' first | assumption | apply keeps_setGenState | apply Keeps.foldl | apply Keeps.ite | (simp only [Keeps.lit_iff]; apply KeepsLit.of <;> first | rfl | skip) | split | omega | dsimp only [id] | (intro)

theorem keeps_dividerStep {z s : State} (h : Keeps z s) (x0 : Nat) : Keeps z (State.dividerStep s x0) := by
  unfold State.dividerStep
  try dsimp only
  with_reducible repeat' first | assumption | apply keeps_stepDivider | apply keeps_switchDue | apply keeps_rampEnds | apply Keeps.foldl | apply Keeps.ite | (simp only [Keeps.lit_iff]; apply KeepsLit.of <;> first | rfl | skip) | split | omega | dsimp only [id] | (intro)

theorem keeps_execDividerStep {z s : State} (h : Keeps z s) (x0 : Nat) : OutKeeps z (execDividerStep x0 s) := by
  unfold execDividerStep
  try dsimp only
  with_reducible repeat' first | assumption | apply OutKeeps.next | apply keeps_dividerStep | apply Keeps.foldl | apply Keeps.ite | (simp only [Keeps.lit_iff]; apply KeepsLit.of <;> first | rfl | skip) | split | omega | dsimp only [id] | (intro)

theorem keeps_divCommit {z s : State} (h : Keeps z s) (x0 : Nat) (x1 : Nat) : Keeps z (State.divCommit s x0 x1) := by
  unfold State.divCommit
  try dsimp only
  with_reducible repeat' first | assumption | apply keeps_setDivider | apply keeps_hold | apply keeps_switchDue | apply Keeps.foldl | apply Keeps.ite | (simp only [Keeps.lit_iff]; apply KeepsLit.of <;> first | rfl | skip) | split | omega | dsimp only [id] | (intro)

theorem keeps_setBridge {z s : State} (h : Keeps z s) (x0 : Nat) (x1 : Bridge) : Keeps z (State.setBridge s x0 x1) := by
  unfold State.setBridge
  try dsimp only
  with_reducible repeat' first | assumption | apply Keeps.foldl | apply Keeps.ite | (simp only [Keeps.lit_iff]; apply KeepsLit.of <;> first | rfl | skip) | split | omega | dsimp only [id] | (intro)

theorem keeps_noteUe {z s : State} (h : Keeps z s) (x0 : Nat) : Keeps z (State.noteUe s x0) := by
  unfold State.noteUe
  try dsimp only
  with_reducible repeat' first | assumption | apply keeps_bump | apply keeps_record | apply keeps_keepLast | apply Keeps.foldl | apply Keeps.ite | (simp only [Keeps.lit_iff]; apply KeepsLit.of <;> first | rfl | skip) | split | omega | dsimp only [id] | (intro)

theorem keeps_bridgeReplay {z s : State} (h : Keeps z s) (x0 : Nat) : Keeps z (State.bridgeReplay s x0) := by
  unfold State.bridgeReplay
  try dsimp only
  with_reducible repeat' first | assumption | apply keeps_setBridge | apply keeps_bump | apply keeps_noteUe | apply Keeps.foldl | apply Keeps.ite | (simp only [Keeps.lit_iff]; apply KeepsLit.of <;> first | rfl | skip) | split | omega | dsimp only [id] | (intro)

theorem keeps_execBridgeReplay {z s : State} (h : Keeps z s) (x0 : Nat) : OutKeeps z (execBridgeReplay x0 s) := by
  unfold execBridgeReplay
  try dsimp only
  with_reducible repeat' first | assumption | apply OutKeeps.next | apply keeps_bridgeReplay | apply Keeps.foldl | apply Keeps.ite | (simp only [Keeps.lit_iff]; apply KeepsLit.of <;> first | rfl | skip) | split | omega | dsimp only [id] | (intro)

theorem keeps_bridgeRetrain {z s : State} (h : Keeps z s) (x0 : Nat) : Keeps z (State.bridgeRetrain s x0) := by
  unfold State.bridgeRetrain
  try dsimp only
  with_reducible repeat' first | assumption | apply keeps_setBridge | apply Keeps.foldl | apply Keeps.ite | (simp only [Keeps.lit_iff]; apply KeepsLit.of <;> first | rfl | skip) | split | omega | dsimp only [id] | (intro)

theorem keeps_execBridgeRetrain {z s : State} (h : Keeps z s) (x0 : Nat) : OutKeeps z (execBridgeRetrain x0 s) := by
  unfold execBridgeRetrain
  try dsimp only
  with_reducible repeat' first | assumption | apply OutKeeps.next | apply keeps_bridgeRetrain | apply Keeps.foldl | apply Keeps.ite | (simp only [Keeps.lit_iff]; apply KeepsLit.of <;> first | rfl | skip) | split | omega | dsimp only [id] | (intro)

theorem keeps_bridgeRetrained {z s : State} (h : Keeps z s) (x0 : Nat) : Keeps z (State.bridgeRetrained s x0) := by
  unfold State.bridgeRetrained
  try dsimp only
  with_reducible repeat' first | assumption | apply keeps_setBridge | apply keeps_settle | apply keeps_portResume | apply Keeps.foldl | apply Keeps.ite | (simp only [Keeps.lit_iff]; apply KeepsLit.of <;> first | rfl | skip) | split | omega | dsimp only [id] | (intro)

theorem keeps_execBridgeRetrained {z s : State} (h : Keeps z s) (x0 : Nat) : OutKeeps z (execBridgeRetrained x0 s) := by
  unfold execBridgeRetrained
  try dsimp only
  with_reducible repeat' first | assumption | apply OutKeeps.next | apply keeps_bridgeRetrained | apply Keeps.foldl | apply Keeps.ite | (simp only [Keeps.lit_iff]; apply KeepsLit.of <;> first | rfl | skip) | split | omega | dsimp only [id] | (intro)

end Sys2Proof.Machine
end

