-- ==== Sys2Proof/Laws/Power.lean ====
section
/-! SUPPORT. What the operations of Machine/Power.lean keep (Laws/Keeps.lean), one lemma for each. -/

set_option linter.unusedTactic false
set_option linter.unreachableTactic false
set_option linter.unusedSimpArgs false

namespace Sys2Proof.Machine

theorem keeps_afterReset {z s : State} (h : Keeps z s) (x0 : Nat) : Keeps z (State.afterReset s x0) := by
  have ha : s.keep.defaults.ash = s.keep.ash := by unfold HubKeep.defaults; split <;> rfl
  unfold State.afterReset
  refine Keeps.foldl ?_ (fun s x k => keeps_setStatus k _ _ _)
  obtain ⟨a, b, c, d, e⟩ := h
  refine ⟨a, b, c, fun w => ?_, fun _ => rfl⟩
  have := d w
  simp only [State.memOk, Bool.and_eq_true] at this ⊢
  exact ⟨rfl, ha ▸ this.2⟩

theorem keeps_onPilotAtBoot {z s : State} (h : Keeps z s) (x0 : Nat) : Keeps z (State.onPilotAtBoot s x0) := by
  unfold State.onPilotAtBoot
  try dsimp only
  with_reducible repeat' first | assumption | apply keeps_setGenState | apply keeps_setGen | apply keeps_draw | apply Keeps.foldl | apply Keeps.ite | (simp only [Keeps.lit_iff]; apply KeepsLit.of <;> first | rfl | skip) | split | omega | dsimp only [id] | (intro)

theorem keeps_bootClocks {z s : State} (h : Keeps z s) : Keeps z (State.bootClocks s) := by
  unfold State.bootClocks
  try dsimp only
  with_reducible repeat' first | assumption | apply keeps_onPilotAtBoot | apply keeps_gtcCoarse | apply Keeps.foldl | apply Keeps.ite | (simp only [Keeps.lit_iff]; apply KeepsLit.of <;> first | rfl | skip) | split | omega | dsimp only [id] | (intro)

theorem keeps_bootSettings {z s : State} (h : Keeps z s) (x0 : Bool) : Keeps z (State.bootSettings s x0) := by
  unfold State.bootSettings
  try dsimp only
  with_reducible repeat' first | assumption | apply keeps_wake | apply keeps_timeSourceSet | apply keeps_startTracker | apply keeps_regroup | apply keeps_mirrorCommit | apply keeps_standingFault | apply keeps_railFault | apply Keeps.foldl | apply Keeps.ite | (simp only [Keeps.lit_iff]; apply KeepsLit.of <;> first | rfl | skip) | split | omega | dsimp only [id] | (intro)

theorem keeps_armBackstop {z s : State} (h : Keeps z s) : Keeps z (State.armBackstop s) := by
  unfold State.armBackstop
  try dsimp only
  with_reducible repeat' first | assumption | apply keeps_updateTrips | apply Keeps.foldl | apply Keeps.ite | (simp only [Keeps.lit_iff]; apply KeepsLit.of <;> first | rfl | skip) | split | omega | dsimp only [id] | (intro)

theorem keeps_powerUp {z s : State} (h : Keeps z s) (x0 : Nat) (x1 : Bool) : Keeps z (State.powerUp s x0 x1) := by
  unfold State.powerUp
  try dsimp only
  with_reducible repeat' first | assumption | apply keeps_wake | apply keeps_ashReload | apply keeps_bump | apply keeps_writeRecord | apply keeps_writeGap | apply keeps_powerUpRecord | apply keeps_bootClocks | apply keeps_bootSettings | apply keeps_armBackstop | apply keeps_readiness | apply Keeps.foldl | apply Keeps.ite | (simp only [Keeps.lit_iff]; apply KeepsLit.of <;> first | rfl | skip) | split | omega | dsimp only [id] | (intro)

theorem keeps_powerGoodUp {z s : State} (h : Keeps z s) : Keeps z (State.powerGoodUp s) := by
  unfold State.powerGoodUp
  try dsimp only
  with_reducible repeat' first | assumption | apply keeps_afterReset | apply keeps_setStatus | apply keeps_powerUp | apply Keeps.foldl | apply Keeps.ite | (simp only [Keeps.lit_iff]; apply KeepsLit.of <;> first | rfl | skip) | split | omega | dsimp only [id] | (intro)

theorem keeps_execPowerGood {z s : State} (h : Keeps z s) : OutKeeps z (execPowerGood s) := by
  unfold execPowerGood
  try dsimp only
  with_reducible repeat' first | assumption | apply OutKeeps.next | apply keeps_powerGoodUp | apply Keeps.foldl | apply Keeps.ite | (simp only [Keeps.lit_iff]; apply KeepsLit.of <;> first | rfl | skip) | split | omega | dsimp only [id] | (intro)

theorem keeps_powerGoodDown {z s : State} (h : Keeps z s) : Keeps z (State.powerGoodDown s) := by
  unfold State.powerGoodDown
  try dsimp only
  with_reducible repeat' first | assumption | apply keeps_afterReset | apply Keeps.foldl | apply Keeps.ite | (simp only [Keeps.lit_iff]; apply KeepsLit.of <;> first | rfl | skip) | split | omega | dsimp only [id] | (intro)

theorem keeps_execPowerGoodLoss {z s : State} (h : Keeps z s) : OutKeeps z (execPowerGoodLoss s) := by
  unfold execPowerGoodLoss
  try dsimp only
  with_reducible repeat' first | assumption | apply OutKeeps.next | apply keeps_powerGoodDown | apply Keeps.foldl | apply Keeps.ite | (simp only [Keeps.lit_iff]; apply KeepsLit.of <;> first | rfl | skip) | split | omega | dsimp only [id] | (intro)

theorem keeps_moduleReset {z s : State} (h : Keeps z s) (x0 : Nat) : Keeps z (State.moduleReset s x0) := by
  unfold State.moduleReset
  try dsimp only
  with_reducible repeat' first | assumption | apply keeps_afterReset | apply keeps_powerUp | apply Keeps.foldl | apply Keeps.ite | (simp only [Keeps.lit_iff]; apply KeepsLit.of <;> first | rfl | skip) | split | omega | dsimp only [id] | (intro)

theorem keeps_wipeStore {z s : State} (h : Keeps z s) (x0 : Nat) : Keeps z (State.wipeStore s x0) := by
  unfold State.wipeStore
  try dsimp only
  with_reducible repeat' first | assumption | apply keeps_wipe | apply Keeps.foldl | apply Keeps.ite | (simp only [Keeps.lit_iff]; apply KeepsLit.of <;> first | rfl | skip) | split | omega | dsimp only [id] | (intro)

theorem keeps_setDie {z s : State} (h : Keeps z s) (x0 : Nat) (x1 : Nat) : Keeps z (State.setDie s x0 x1) := by
  unfold State.setDie
  try dsimp only
  with_reducible repeat' first | assumption | apply keeps_wipeStore | apply Keeps.foldl | apply Keeps.ite | (simp only [Keeps.lit_iff]; apply KeepsLit.of <;> first | rfl | skip) | split | omega | dsimp only [id] | (intro)

theorem keeps_pwrState {z s : State} (p : Power) (h : Keeps z s) (hp : p.state ≤ 2) : Keeps z { s with pwr := p } := by
  obtain ⟨a, b, c, d, e⟩ := h
  refine ⟨a, b, c, d, fun w => ?_⟩
  have := e w
  simp only [State.modesOk, Bool.and_eq_true, decide_eq_true_eq] at this ⊢
  exact ⟨⟨this.1.1, hp⟩, this.2⟩

theorem keeps_diesSettled {z s : State} (h : Keeps z s) : Keeps z (State.diesSettled s) :=
  Keeps.ite (fun _ => keeps_pwrState _ h (Nat.zero_le 2)) (fun _ => h)

theorem keeps_diePowerOn {z s : State} (h : Keeps z s) (x0 : Nat) : Keeps z (State.diePowerOn s x0) := by
  unfold State.diePowerOn
  try dsimp only
  with_reducible repeat' first | assumption | apply keeps_setDie | apply keeps_diesSettled | apply keeps_readiness | apply Keeps.foldl | apply Keeps.ite | (simp only [Keeps.lit_iff]; apply KeepsLit.of <;> first | rfl | skip) | split | omega | dsimp only [id] | (intro)

theorem keeps_execDiePowerOn {z s : State} (h : Keeps z s) (x0 : Nat) : OutKeeps z (execDiePowerOn x0 s) := by
  unfold execDiePowerOn
  try dsimp only
  with_reducible repeat' first | assumption | apply OutKeeps.next | apply keeps_diePowerOn | apply Keeps.foldl | apply Keeps.ite | (simp only [Keeps.lit_iff]; apply KeepsLit.of <;> first | rfl | skip) | split | omega | dsimp only [id] | (intro)

theorem keeps_coreOn {z s : State} (h : Keeps z s) (x0 : Nat) : Keeps z (State.coreOn s x0) := by
  unfold State.coreOn
  try dsimp only
  with_reducible repeat' first | assumption | apply keeps_coreStart | apply Keeps.foldl | apply Keeps.ite | (simp only [Keeps.lit_iff]; apply KeepsLit.of <;> first | rfl | skip) | split | omega | dsimp only [id] | (intro)

theorem keeps_coreTurnOn {z s : State} (h : Keeps z s) (x0 : Nat) : Keeps z (State.coreTurnOn s x0) := by
  unfold State.coreTurnOn
  try dsimp only
  with_reducible repeat' first | assumption | apply keeps_coreOn | apply Keeps.foldl | apply Keeps.ite | (simp only [Keeps.lit_iff]; apply KeepsLit.of <;> first | rfl | skip) | split | omega | dsimp only [id] | (intro)

theorem keeps_execCoreTurnOn {z s : State} (h : Keeps z s) (x0 : Nat) : OutKeeps z (execCoreTurnOn x0 s) := by
  unfold execCoreTurnOn
  try dsimp only
  with_reducible repeat' first | assumption | apply OutKeeps.next | apply keeps_coreTurnOn | apply Keeps.foldl | apply Keeps.ite | (simp only [Keeps.lit_iff]; apply KeepsLit.of <;> first | rfl | skip) | split | omega | dsimp only [id] | (intro)

theorem keeps_reopen {z s : State} (h : Keeps z s) (x0 : Crossing) : Keeps z (State.reopen s x0) := by
  unfold State.reopen
  try dsimp only
  with_reducible repeat' first | assumption | apply keeps_modComm | apply keeps_stageFlow | apply Keeps.foldl | apply Keeps.ite | (simp only [Keeps.lit_iff]; apply KeepsLit.of <;> first | rfl | skip) | split | omega | dsimp only [id] | (intro)

theorem keeps_execCrossingReopen {z s : State} (h : Keeps z s) (x0 : Crossing) : OutKeeps z (execCrossingReopen x0 s) := by
  unfold execCrossingReopen
  try dsimp only
  with_reducible repeat' first | assumption | apply OutKeeps.next | apply keeps_reopen | apply Keeps.foldl | apply Keeps.ite | (simp only [Keeps.lit_iff]; apply KeepsLit.of <;> first | rfl | skip) | split | omega | dsimp only [id] | (intro)

theorem keeps_diesDown {z s : State} (h : Keeps z s) : Keeps z (State.diesDown s) :=
  have k : Keeps z ((List.range s.part.dies).foldl (fun s d => s.setDie d 0) s) := Keeps.foldl h (fun _ _ k => keeps_setDie k _ _)
  keeps_pwrState _ (Keeps.lit k rfl rfl rfl rfl rfl rfl rfl rfl rfl) (by decide : (1 : Nat) ≤ 2)

theorem keeps_diesUp {z s : State} (h : Keeps z s) : Keeps z (State.diesUp s) :=
  keeps_diesSettled (Keeps.foldl (keeps_pwrState _ h (Nat.le_refl 2)) (fun _ _ k => Keeps.ite (fun _ => keeps_setDie k _ _) (fun _ => k)))

theorem keeps_coreReset {z s : State} (h : Keeps z s) (x0 : Nat) : Keeps z (State.coreReset s x0) := by
  unfold State.coreReset
  try dsimp only
  with_reducible repeat' first | assumption | apply keeps_wipe | apply keeps_restoreEngines | apply keeps_resetEngines | apply keeps_setCore | apply keeps_idle | apply keeps_roleChange | apply Keeps.foldl | apply Keeps.ite | (simp only [Keeps.lit_iff]; apply KeepsLit.of <;> first | rfl | skip) | split | omega | dsimp only [id] | (intro)

theorem keeps_dieReset {z s : State} (h : Keeps z s) (x0 : Nat) : Keeps z (State.dieReset s x0) := by
  unfold State.dieReset
  try dsimp only
  with_reducible repeat' first | assumption | apply keeps_coreReset | apply keeps_wipeStore | apply Keeps.foldl | apply Keeps.ite | (simp only [Keeps.lit_iff]; apply KeepsLit.of <;> first | rfl | skip) | split | omega | dsimp only [id] | (intro)

theorem keeps_resetCommand {z s : State} (h : Keeps z s) (x0 : Nat) : Keeps z (State.resetCommand s x0) := by
  unfold State.resetCommand
  try dsimp only
  with_reducible repeat' first | assumption | apply keeps_moduleReset | apply keeps_dieReset | apply keeps_coreReset | apply Keeps.foldl | apply Keeps.ite | (simp only [Keeps.lit_iff]; apply KeepsLit.of <;> first | rfl | skip) | split | omega | dsimp only [id] | (intro)

theorem keeps_haltLost {z s : State} (h : Keeps z s) (x0 : Nat) : Keeps z (State.haltLost s x0) := by
  unfold State.haltLost
  try dsimp only
  with_reducible repeat' first | assumption | apply keeps_setFault | apply keeps_halt | apply Keeps.foldl | apply Keeps.ite | (simp only [Keeps.lit_iff]; apply KeepsLit.of <;> first | rfl | skip) | split | omega | dsimp only [id] | (intro)

theorem keeps_coreLost {z s : State} (h : Keeps z s) (x0 : Nat) (x1 : Nat) : Keeps z (State.coreLost s x0 x1) := by
  unfold State.coreLost
  try dsimp only
  with_reducible repeat' first | assumption | apply keeps_coreOff | apply keeps_modCore | apply Keeps.foldl | apply Keeps.ite | (simp only [Keeps.lit_iff]; apply KeepsLit.of <;> first | rfl | skip) | split | omega | dsimp only [id] | (intro)

theorem keeps_coreRailLoss {z s : State} (h : Keeps z s) (x0 : Nat) : Keeps z (State.coreRailLoss s x0) := by
  unfold State.coreRailLoss
  try dsimp only
  with_reducible repeat' first | assumption | apply keeps_haltLost | apply keeps_coreLost | apply keeps_dieReset | apply keeps_setDie | apply keeps_diesSettled | apply keeps_record | apply Keeps.foldl | apply Keeps.ite | (simp only [Keeps.lit_iff]; apply KeepsLit.of <;> first | rfl | skip) | split | omega | dsimp only [id] | (intro)

theorem keeps_execVddCoreLoss {z s : State} (h : Keeps z s) (x0 : Nat) : OutKeeps z (execVddCoreLoss x0 s) := by
  unfold execVddCoreLoss
  try dsimp only
  with_reducible repeat' first | assumption | apply OutKeeps.next | apply keeps_coreRailLoss | apply Keeps.foldl | apply Keeps.ite | (simp only [Keeps.lit_iff]; apply KeepsLit.of <;> first | rfl | skip) | split | omega | dsimp only [id] | (intro)

theorem keeps_coreRailReturn {z s : State} (h : Keeps z s) (x0 : Nat) : Keeps z (State.coreRailReturn s x0) := by
  unfold State.coreRailReturn
  try dsimp only
  with_reducible repeat' first | assumption | apply keeps_setDie | apply keeps_readiness | apply Keeps.foldl | apply Keeps.ite | (simp only [Keeps.lit_iff]; apply KeepsLit.of <;> first | rfl | skip) | split | omega | dsimp only [id] | (intro)

theorem keeps_execVddCoreReturn {z s : State} (h : Keeps z s) (x0 : Nat) : OutKeeps z (execVddCoreReturn x0 s) := by
  unfold execVddCoreReturn
  try dsimp only
  with_reducible repeat' first | assumption | apply OutKeeps.next | apply keeps_coreRailReturn | apply Keeps.foldl | apply Keeps.ite | (simp only [Keeps.lit_iff]; apply KeepsLit.of <;> first | rfl | skip) | split | omega | dsimp only [id] | (intro)

theorem keeps_execVddProgLoss {z s : State} (h : Keeps z s) : OutKeeps z (execVddProgLoss s) := by
  unfold execVddProgLoss
  try dsimp only
  with_reducible repeat' first | assumption | apply OutKeeps.next | apply Keeps.foldl | apply Keeps.ite | (simp only [Keeps.lit_iff]; apply KeepsLit.of <;> first | rfl | skip) | split | omega | dsimp only [id] | (intro)

theorem keeps_execVddProgReturn {z s : State} (h : Keeps z s) : OutKeeps z (execVddProgReturn s) := by
  unfold execVddProgReturn
  try dsimp only
  with_reducible repeat' first | assumption | apply OutKeeps.next | apply Keeps.foldl | apply Keeps.ite | (simp only [Keeps.lit_iff]; apply KeepsLit.of <;> first | rfl | skip) | split | omega | dsimp only [id] | (intro)

theorem keeps_thermal {z s : State} (h : Keeps z s) (x0 : Nat) (x1 : Heat) : Keeps z (State.thermal s x0 x1) := by
  unfold State.thermal
  try dsimp only
  with_reducible repeat' first | assumption | apply Keeps.foldl | apply Keeps.ite | (simp only [Keeps.lit_iff]; apply KeepsLit.of <;> first | rfl | skip) | split | omega | dsimp only [id] | (intro)

theorem keeps_execThermN {z s : State} (h : Keeps z s) (x0 : Nat) (x1 : Heat) : OutKeeps z (execThermN x0 x1 s) := by
  unfold execThermN
  try dsimp only
  with_reducible repeat' first | assumption | apply OutKeeps.next | apply keeps_thermal | apply Keeps.foldl | apply Keeps.ite | (simp only [Keeps.lit_iff]; apply KeepsLit.of <;> first | rfl | skip) | split | omega | dsimp only [id] | (intro)

theorem keeps_enterWatch {z s : State} (h : Keeps z s) : Keeps z (State.enterWatch s) := by
  have k := keeps_persistCounters (keeps_persistOpen (keeps_checkpointRecord h 1))
  unfold State.enterWatch
  refine Keeps.foldl (Keeps.foldl (Keeps.foldl (Keeps.litMem k rfl rfl (fun w => ?_) rfl rfl rfl rfl rfl)
    (fun s p k => keeps_linkLost k _)) (fun s d k => keeps_setDie k _ _))
    (fun s t k => Keeps.ite (fun _ => k) (fun _ => keeps_setTrk k _ _))
  simp only [State.memOk, Bool.and_eq_true] at w ⊢
  exact ⟨rfl, w.2⟩

theorem keeps_wake {z s : State} (h : Keeps z s) : Keeps z (State.wake s) := by
  unfold State.wake
  try dsimp only
  with_reducible repeat' first | assumption | apply keeps_afterReset | apply keeps_hold | apply keeps_powerUp | apply Keeps.foldl | apply Keeps.ite | (simp only [Keeps.lit_iff]; apply KeepsLit.of <;> first | rfl | skip) | split | omega | dsimp only [id] | (intro)

theorem keeps_execWatchWake {z s : State} (h : Keeps z s) : OutKeeps z (execWatchWake s) := by
  unfold execWatchWake
  try dsimp only
  with_reducible repeat' first | assumption | apply OutKeeps.next | apply keeps_wake | apply Keeps.foldl | apply Keeps.ite | (simp only [Keeps.lit_iff]; apply KeepsLit.of <;> first | rfl | skip) | split | omega | dsimp only [id] | (intro)

theorem keeps_execResetN {z s : State} (h : Keeps z s) : OutKeeps z (execResetN s) := by
  unfold execResetN
  try dsimp only
  with_reducible repeat' first | assumption | apply OutKeeps.next | apply keeps_wake | apply keeps_moduleReset | apply Keeps.foldl | apply Keeps.ite | (simp only [Keeps.lit_iff]; apply KeepsLit.of <;> first | rfl | skip) | split | omega | dsimp only [id] | (intro)

theorem keeps_coreUe {z s : State} (h : Keeps z s) (x0 : Nat) : Keeps z (State.coreUe s x0) := by
  unfold State.coreUe
  try dsimp only
  with_reducible repeat' first | assumption | apply keeps_scheduleReplace | apply Keeps.foldl | apply Keeps.ite | (simp only [Keeps.lit_iff]; apply KeepsLit.of <;> first | rfl | skip) | split | omega | dsimp only [id] | (intro)

theorem keeps_sramUe {z s : State} (h : Keeps z s) (x0 : Nat) : Keeps z (State.sramUe s x0) := by
  unfold State.sramUe
  try dsimp only
  with_reducible repeat' first | assumption | apply keeps_poisonWord | apply keeps_setCause | apply keeps_coreUe | apply Keeps.foldl | apply Keeps.ite | (simp only [Keeps.lit_iff]; apply KeepsLit.of <;> first | rfl | skip) | split | omega | dsimp only [id] | (intro)

theorem keeps_sumUe {z s : State} (h : Keeps z s) (x0 : Nat) : Keeps z (State.sumUe s x0) := by
  unfold State.sumUe
  try dsimp only
  with_reducible repeat' first | assumption | apply keeps_modEng | apply Keeps.foldl | apply Keeps.ite | (simp only [Keeps.lit_iff]; apply KeepsLit.of <;> first | rfl | skip) | split | omega | dsimp only [id] | (intro)

theorem Tab.get_back_ne {α : Type} (d : α) (now prev : Tab α) {k j : Nat} (h : j ≠ k) :
    Tab.get d (Tab.back now prev k) j = Tab.get d now j := by
  unfold Tab.back
  split
  · exact Tab.get_set_ne d now _ h
  · exact Tab.get_erase_ne d now h

theorem keeps_keepUe {z s : State} (h : Keeps z s) (x0 : Nat) : Keeps z (State.keepUe s x0) := by
  unfold State.keepUe
  dsimp only
  have hk : ∀ u : State, Keeps z u → Keeps z { u with
      keep := u.keep.fallBack (Config.keepKey (x0 - 2 ^ 32)),
      keys := if Config.keepKey (x0 - 2 ^ 32) / 256 = 0x2B01 ∧ 2 ≤ Config.keepKey (x0 - 2 ^ 32) % 256 then
        Tab.back u.keys u.keep.prevKeys (Config.keepKey (x0 - 2 ^ 32) % 256 - 1) else u.keys } := by
    rintro u ⟨a, b, c, d, e⟩
    refine ⟨a, b, ?_, d, e⟩
    dsimp only
    split
    · exact (Tab.get_back_ne _ _ _ (by omega)).trans c
    · exact c
  split
  · exact keeps_modCtx (hk _ (keeps_setCause h 5)) _ _
  split
  · exact keeps_modEng (hk _ (keeps_setCause h 5)) _ _ _
  · exact hk _ (keeps_setCause h 5)

theorem keeps_opUe {z s : State} (h : Keeps z s) (x0 : Nat) (x1 : Nat) (x2 : Op) : Keeps z (State.opUe s x0 x1 x2) := by
  unfold State.opUe
  try dsimp only
  with_reducible repeat' first | assumption | apply keeps_draw | apply keeps_modOp | apply Keeps.foldl | apply Keeps.ite | (simp only [Keeps.lit_iff]; apply KeepsLit.of <;> first | rfl | skip) | split | omega | dsimp only [id] | (intro)

theorem keeps_flitUe {z s : State} (h : Keeps z s) (x0 : Nat) : Keeps z (State.flitUe s x0) := by
  unfold State.flitUe
  try dsimp only
  with_reducible repeat' first | assumption | apply keeps_opUe | apply Keeps.foldl | apply Keeps.ite | (simp only [Keeps.lit_iff]; apply KeepsLit.of <;> first | rfl | skip) | split | omega | dsimp only [id] | (intro)

theorem keeps_eccUe {z s : State} (h : Keeps z s) (x0 : Nat) : Keeps z (State.eccUe s x0) := by
  have k := keeps_noteUe h x0
  exact Keeps.ite (fun _ => keeps_sramUe k x0) (fun _ => Keeps.ite (fun _ => keeps_keepUe k x0) (fun _ =>
    Keeps.ite (fun _ => keeps_sumUe k x0) (fun _ => keeps_flitUe k x0)))

theorem keeps_scrub {z s : State} (h : Keeps z s) (x0 : Nat) (x1 : EccFinding) : Keeps z (State.scrub s x0 x1) := by
  unfold State.scrub
  try dsimp only
  with_reducible repeat' first | assumption | apply keeps_bump | apply keeps_record | apply keeps_eccUe | apply Keeps.foldl | apply Keeps.ite | (simp only [Keeps.lit_iff]; apply KeepsLit.of <;> first | rfl | skip) | split | omega | dsimp only [id] | (intro)

theorem keeps_execScrubAccess {z s : State} (h : Keeps z s) (x0 : Nat) (x1 : EccFinding) : OutKeeps z (execScrubAccess x0 x1 s) := by
  unfold execScrubAccess
  try dsimp only
  with_reducible repeat' first | assumption | apply OutKeeps.next | apply keeps_scrub | apply Keeps.foldl | apply Keeps.ite | (simp only [Keeps.lit_iff]; apply KeepsLit.of <;> first | rfl | skip) | split | omega | dsimp only [id] | (intro)

theorem keeps_persistentWord {z s : State} (h : Keeps z s) (x0 : Nat) : Keeps z (State.persistentWord s x0) := by
  unfold State.persistentWord
  try dsimp only
  with_reducible repeat' first | assumption | apply keeps_bump | apply keeps_record | apply Keeps.foldl | apply Keeps.ite | (simp only [Keeps.lit_iff]; apply KeepsLit.of <;> first | rfl | skip) | split | omega | dsimp only [id] | (intro)

theorem keeps_wornCore {z s : State} (h : Keeps z s) (x0 : Nat) : Keeps z (State.wornCore s x0) := by
  unfold State.wornCore
  try dsimp only
  with_reducible repeat' first | assumption | apply keeps_scheduleReplace | apply Keeps.foldl | apply Keeps.ite | (simp only [Keeps.lit_iff]; apply KeepsLit.of <;> first | rfl | skip) | split | omega | dsimp only [id] | (intro)

theorem keeps_wornCores {z s : State} (h : Keeps z s) : Keeps z (State.wornCores s) := by
  unfold State.wornCores
  try dsimp only
  with_reducible repeat' first | assumption | apply keeps_wornCore | apply Keeps.foldl | apply Keeps.ite | (simp only [Keeps.lit_iff]; apply KeepsLit.of <;> first | rfl | skip) | split | omega | dsimp only [id] | (intro)

theorem keeps_scrubLate {z s : State} (h : Keeps z s) : Keeps z (State.scrubLate s) := by
  unfold State.scrubLate
  try dsimp only
  with_reducible repeat' first | assumption | apply keeps_bumpBy | apply Keeps.foldl | apply Keeps.ite | (simp only [Keeps.lit_iff]; apply KeepsLit.of <;> first | rfl | skip) | split | omega | dsimp only [id] | (intro)

theorem keeps_scrubEnd {z s : State} (h : Keeps z s) : Keeps z (State.scrubEnd s) := by
  unfold State.scrubEnd
  try dsimp only
  with_reducible repeat' first | assumption | apply keeps_bumpBy | apply keeps_persistentWord | apply keeps_wornCores | apply Keeps.foldl | apply Keeps.ite | (simp only [Keeps.lit_iff]; apply KeepsLit.of <;> first | rfl | skip) | split | omega | dsimp only [id] | (intro)

theorem keeps_scrubPass {z s : State} (h : Keeps z s) (x0 : Bool) : Keeps z (State.scrubPass s x0) := by
  unfold State.scrubPass
  try dsimp only
  with_reducible repeat' first | assumption | apply keeps_scrubLate | apply keeps_scrubEnd | apply Keeps.foldl | apply Keeps.ite | (simp only [Keeps.lit_iff]; apply KeepsLit.of <;> first | rfl | skip) | split | omega | dsimp only [id] | (intro)

theorem keeps_execScrubPass {z s : State} (h : Keeps z s) (x0 : Bool) : OutKeeps z (execScrubPass x0 s) := by
  unfold execScrubPass
  try dsimp only
  with_reducible repeat' first | assumption | apply OutKeeps.next | apply keeps_scrubPass | apply Keeps.foldl | apply Keeps.ite | (simp only [Keeps.lit_iff]; apply KeepsLit.of <;> first | rfl | skip) | split | omega | dsimp only [id] | (intro)

end Sys2Proof.Machine
end

