-- ==== Sys2Proof/Laws/Sets.lean ====
section
/-! SUPPORT. What the operations of Machine/Sets.lean keep (Laws/Keeps.lean), one lemma for each. -/

set_option linter.unusedTactic false
set_option linter.unreachableTactic false
set_option linter.unusedSimpArgs false

namespace Sys2Proof.Machine

theorem keeps_persistSets {z s : State} (h : Keeps z s) : Keeps z (State.persistSets s) := by
  unfold State.persistSets
  try dsimp only
  with_reducible repeat' first | assumption | apply Keeps.foldl | apply Keeps.ite | (simp only [Keeps.lit_iff]; apply KeepsLit.of <;> first | rfl | skip) | split | omega | dsimp only [id] | (intro)

theorem keeps_ecatDown {z s : State} (h : Keeps z s) : Keeps z (State.ecatDown s) := by
  refine keeps_modSession (Keeps.litModes h rfl rfl rfl rfl (fun w => ?_) rfl) _ _
  simp only [State.modesOk, Bool.and_eq_true, decide_eq_true_eq] at w ⊢
  exact ⟨⟨⟨rfl, w.1.1.2⟩, w.1.2⟩, w.2⟩

theorem keeps_pcieDown {z s : State} (h : Keeps z s) : Keeps z (State.pcieDown s) := by
  unfold State.pcieDown
  try dsimp only
  with_reducible repeat' first | assumption | apply keeps_modSession | apply Keeps.foldl | apply Keeps.ite | (simp only [Keeps.lit_iff]; apply KeepsLit.of <;> first | rfl | skip) | split | omega | dsimp only [id] | (intro)

theorem keeps_gateInterfaces {z s : State} (h : Keeps z s) (x0 : State) : Keeps z (State.gateInterfaces s x0) := by
  unfold State.gateInterfaces
  try dsimp only
  with_reducible repeat' first | assumption | apply keeps_ecatDown | apply keeps_pcieDown | apply keeps_linkLost | apply Keeps.foldl | apply Keeps.ite | (simp only [Keeps.lit_iff]; apply KeepsLit.of <;> first | rfl | skip) | split | omega | dsimp only [id] | (intro)

theorem keeps_moveDividers {z s : State} (h : Keeps z s) (x0 : State) : Keeps z (State.moveDividers s x0) := by
  unfold State.moveDividers
  try dsimp only
  with_reducible repeat' first | assumption | apply keeps_hold | apply keeps_switchFrom | apply keeps_divCommit | apply Keeps.foldl | apply Keeps.ite | (simp only [Keeps.lit_iff]; apply KeepsLit.of <;> first | rfl | skip) | split | omega | dsimp only [id] | (intro)

theorem keeps_moveTime {z s : State} (h : Keeps z s) (x0 : State) : Keeps z (State.moveTime s x0) := by
  unfold State.moveTime
  try dsimp only
  with_reducible repeat' first | assumption | apply keeps_timeSourceSet | apply keeps_startTracker | apply Keeps.foldl | apply Keeps.ite | (simp only [Keeps.lit_iff]; apply KeepsLit.of <;> first | rfl | skip) | split | omega | dsimp only [id] | (intro)

theorem keeps_moveMeasure {z s : State} (h : Keeps z s) (x0 : State) : Keeps z (State.moveMeasure s x0) := by
  unfold State.moveMeasure
  try dsimp only
  with_reducible repeat' first | assumption | apply keeps_rebase | apply keeps_modChan | apply keeps_chFault | apply keeps_restartWindows | apply keeps_regroup | apply Keeps.foldl | apply Keeps.ite | (simp only [Keeps.lit_iff]; apply KeepsLit.of <;> first | rfl | skip) | split | omega | dsimp only [id] | (intro)

theorem keeps_moveDacGate {z s : State} (h : Keeps z s) (x0 : State) (x1 : Nat) : Keeps z (State.moveDacGate s x0 x1) := by
  unfold State.moveDacGate
  try dsimp only
  with_reducible repeat' first | assumption | apply keeps_dacFlush | apply keeps_modDac | apply keeps_standingFault | apply Keeps.foldl | apply Keeps.ite | (simp only [Keeps.lit_iff]; apply KeepsLit.of <;> first | rfl | skip) | split | omega | dsimp only [id] | (intro)

theorem keeps_moveDacRange {z s : State} (h : Keeps z s) (x0 : State) (x1 : Nat) : Keeps z (State.moveDacRange s x0 x1) := by
  unfold State.moveDacRange
  try dsimp only
  with_reducible repeat' first | assumption | apply keeps_dacFlush | apply keeps_modDac | apply Keeps.foldl | apply Keeps.ite | (simp only [Keeps.lit_iff]; apply KeepsLit.of <;> first | rfl | skip) | split | omega | dsimp only [id] | (intro)

theorem keeps_moveDacGrant {z s : State} (h : Keeps z s) (x0 : State) (x1 : Nat) : Keeps z (State.moveDacGrant s x0 x1) := by
  unfold State.moveDacGrant
  try dsimp only
  with_reducible repeat' first | assumption | apply keeps_dacFlush | apply keeps_modDac | apply Keeps.foldl | apply Keeps.ite | (simp only [Keeps.lit_iff]; apply KeepsLit.of <;> first | rfl | skip) | split | omega | dsimp only [id] | (intro)

theorem keeps_moveDacGrid {z s : State} (h : Keeps z s) (x0 : State) (x1 : Nat) : Keeps z (State.moveDacGrid s x0 x1) := by
  unfold State.moveDacGrid
  try dsimp only
  with_reducible repeat' first | assumption | apply keeps_modDac | apply Keeps.foldl | apply Keeps.ite | (simp only [Keeps.lit_iff]; apply KeepsLit.of <;> first | rfl | skip) | split | omega | dsimp only [id] | (intro)

theorem keeps_moveDacPath {z s : State} (h : Keeps z s) (x0 : State) (x1 : Nat) : Keeps z (State.moveDacPath s x0 x1) := by
  unfold State.moveDacPath
  try dsimp only
  with_reducible repeat' first | assumption | apply keeps_modDac | apply keeps_startFast | apply Keeps.foldl | apply Keeps.ite | (simp only [Keeps.lit_iff]; apply KeepsLit.of <;> first | rfl | skip) | split | omega | dsimp only [id] | (intro)

theorem keeps_moveDacPfail {z s : State} (h : Keeps z s) (x0 : State) (x1 : Nat) : Keeps z (State.moveDacPfail s x0 x1) := by
  unfold State.moveDacPfail
  try dsimp only
  with_reducible repeat' first | assumption | apply keeps_pfail | apply keeps_modDac | apply keeps_faultDac | apply Keeps.foldl | apply Keeps.ite | (simp only [Keeps.lit_iff]; apply KeepsLit.of <;> first | rfl | skip) | split | omega | dsimp only [id] | (intro)

theorem keeps_moveDacEmits {z s : State} (h : Keeps z s) (x0 : State) (x1 : Nat) : Keeps z (State.moveDacEmits s x0 x1) := by
  unfold State.moveDacEmits
  try dsimp only
  with_reducible repeat' first | assumption | apply keeps_settleEmits | apply Keeps.foldl | apply Keeps.ite | (simp only [Keeps.lit_iff]; apply KeepsLit.of <;> first | rfl | skip) | split | omega | dsimp only [id] | (intro)

theorem keeps_moveDac {z s : State} (h : Keeps z s) (x0 : State) (x1 : Nat) : Keeps z (State.moveDac s x0 x1) := by
  unfold State.moveDac
  try dsimp only
  with_reducible repeat' first | assumption | apply keeps_moveDacGate | apply keeps_moveDacRange | apply keeps_moveDacGrant | apply keeps_moveDacGrid | apply keeps_moveDacPath | apply keeps_moveDacPfail | apply keeps_moveDacEmits | apply Keeps.foldl | apply Keeps.ite | (simp only [Keeps.lit_iff]; apply KeepsLit.of <;> first | rfl | skip) | split | omega | dsimp only [id] | (intro)

theorem keeps_moveDacHeld {z s : State} (h : Keeps z s) (x0 : State) (x1 : Nat) : Keeps z (State.moveDacHeld s x0 x1) := by
  unfold State.moveDacHeld
  try dsimp only
  with_reducible repeat' first | assumption | apply keeps_holdDac | apply keeps_releaseDac | apply Keeps.foldl | apply Keeps.ite | (simp only [Keeps.lit_iff]; apply KeepsLit.of <;> first | rfl | skip) | split | omega | dsimp only [id] | (intro)

theorem keeps_moveOutputs {z s : State} (h : Keeps z s) (x0 : State) : Keeps z (State.moveOutputs s x0) := by
  unfold State.moveOutputs
  try dsimp only
  with_reducible repeat' first | assumption | apply keeps_faultEdge | apply keeps_moveDac | apply keeps_moveDacHeld | apply keeps_modTrip | apply keeps_mirrorCommit | apply keeps_updateTrips | apply Keeps.foldl | apply Keeps.ite | (simp only [Keeps.lit_iff]; apply KeepsLit.of <;> first | rfl | skip) | split | omega | dsimp only [id] | (intro)

theorem keeps_moveCores {z s : State} (h : Keeps z s) (x0 : State) : Keeps z (State.moveCores s x0) := by
  unfold State.moveCores
  try dsimp only
  with_reducible repeat' first | assumption | apply keeps_refillBound | apply keeps_anaIdle | apply Keeps.foldl | apply Keeps.ite | (simp only [Keeps.lit_iff]; apply KeepsLit.of <;> first | rfl | skip) | split | omega | dsimp only [id] | (intro)

theorem keeps_swapSets {z s : State} (h : Keeps z s)  : Keeps z (State.swapSets s) := by
  refine Keeps.litModes h rfl rfl rfl rfl (fun w => ?_) rfl
  simp only [State.modesOk, Bool.and_eq_true, decide_eq_true_eq] at w ⊢
  exact ⟨w.1, by decide⟩

theorem keeps_commitSets {z s : State} (h : Keeps z s) (x0 : PendCommit) : Keeps z (State.commitSets s x0) := by
  unfold State.commitSets
  try dsimp only
  with_reducible repeat' first | assumption | apply keeps_swapSets | apply keeps_bump | apply keeps_record | apply keeps_persistSets | apply keeps_msix | apply keeps_gateInterfaces | apply keeps_moveDividers | apply keeps_moveTime | apply keeps_moveMeasure | apply keeps_moveOutputs | apply keeps_moveCores | apply keeps_markBudget | apply Keeps.foldl | apply Keeps.ite | (simp only [Keeps.lit_iff]; apply KeepsLit.of <;> first | rfl | skip) | split | omega | dsimp only [id] | (intro)

theorem keeps_commitEffect {z s : State} (h : Keeps z s) : Keeps z (State.commitEffect s) := by
  unfold State.commitEffect
  try dsimp only
  with_reducible repeat' first | assumption | apply keeps_commitSets | apply Keeps.foldl | apply Keeps.ite | (simp only [Keeps.lit_iff]; apply KeepsLit.of <;> first | rfl | skip) | split | omega | dsimp only [id] | (intro)

theorem keeps_execSetCommitEffect {z s : State} (h : Keeps z s) : OutKeeps z (execSetCommitEffect s) := by
  unfold execSetCommitEffect
  try dsimp only
  with_reducible repeat' first | assumption | apply OutKeeps.next | apply keeps_commitEffect | apply Keeps.foldl | apply Keeps.ite | (simp only [Keeps.lit_iff]; apply KeepsLit.of <;> first | rfl | skip) | split | omega | dsimp only [id] | (intro)

theorem keeps_shadowReload {z s : State} (h : Keeps z s) : Keeps z (State.shadowReload s) := by
  unfold State.shadowReload
  refine Keeps.ite (fun _ => Keeps.litModes h rfl rfl rfl rfl (fun w => ?_) rfl) (fun _ => h)
  simp only [State.modesOk, Bool.and_eq_true, decide_eq_true_eq] at w ⊢
  exact ⟨w.1, by decide⟩

theorem keeps_execShadowReloadDone {z s : State} (h : Keeps z s) : OutKeeps z (execShadowReloadDone s) := by
  unfold execShadowReloadDone
  try dsimp only
  with_reducible repeat' first | assumption | apply OutKeeps.next | apply keeps_shadowReload | apply Keeps.foldl | apply Keeps.ite | (simp only [Keeps.lit_iff]; apply KeepsLit.of <;> first | rfl | skip) | split | omega | dsimp only [id] | (intro)

theorem keeps_setResult {z s : State} (h : Keeps z s) (x0 : Nat) : Keeps z (State.setResult s x0) := by
  unfold State.setResult
  try dsimp only
  with_reducible repeat' first | assumption | apply Keeps.foldl | apply Keeps.ite | (simp only [Keeps.lit_iff]; apply KeepsLit.of <;> first | rfl | skip) | split | omega | dsimp only [id] | (intro)

theorem keeps_discardSets {z s : State} (h : Keeps z s)  : Keeps z (State.discardSets s) := by
  refine Keeps.litModes h rfl rfl rfl rfl (fun w => ?_) rfl
  simp only [State.modesOk, Bool.and_eq_true, decide_eq_true_eq] at w ⊢
  exact ⟨w.1, by decide⟩

theorem keeps_requestCommit {z s : State} (h : Keeps z s) (x0 : PendCommit) : Keeps z (State.requestCommit s x0) := by
  refine Keeps.litModes h rfl rfl rfl rfl (fun w => ?_) rfl
  simp only [State.modesOk, Bool.and_eq_true, decide_eq_true_eq] at w ⊢
  exact ⟨w.1, by decide⟩

theorem keeps_setDo {z s : State} (h : Keeps z s) (x0 : Ses) (x1 : Nat) : Keeps z (State.setDo s x0 x1) := by
  unfold State.setDo
  try dsimp only
  with_reducible repeat' first | assumption | apply keeps_requestCommit | apply keeps_discardSets | apply Keeps.foldl | apply Keeps.ite | (simp only [Keeps.lit_iff]; apply KeepsLit.of <;> first | rfl | skip) | split | omega | dsimp only [id] | (intro)

theorem keeps_setCommand {z s : State} (h : Keeps z s) (x0 : Ses) (x1 : Nat) : Keeps z (State.setCommand s x0 x1).2 := by
  unfold State.setCommand
  try dsimp only
  with_reducible repeat' first | assumption | apply keeps_setResult | apply keeps_setDo | apply Keeps.foldl | apply Keeps.ite | (simp only [Keeps.lit_iff]; apply KeepsLit.of <;> first | rfl | skip) | split | omega | dsimp only [id] | (intro)

theorem keeps_setCommand_of {z s t : State} {x0 : Ses} {x1 : Nat} {v} (e : State.setCommand s x0 x1 = (v, t)) (h : Keeps z s) : Keeps z t := by
  have k := keeps_setCommand h x0 x1
  rw [e] at k
  exact k

theorem keeps_endClaim {z s : State} (h : Keeps z s) (x0 : Ses) : Keeps z (State.endClaim s x0) := by
  unfold State.endClaim
  try dsimp only
  with_reducible repeat' first | assumption | apply Keeps.foldl | apply Keeps.ite | (simp only [Keeps.lit_iff]; apply KeepsLit.of <;> first | rfl | skip) | split | omega | dsimp only [id] | (intro)

end Sys2Proof.Machine
end

