-- ==== Sys2Proof/Laws/Sessions.lean ====
section
/-! SUPPORT. What the operations of Machine/Sessions.lean keep (Laws/Keeps.lean), one lemma for each. -/

set_option linter.unusedTactic false
set_option linter.unreachableTactic false
set_option linter.unusedSimpArgs false

namespace Sys2Proof.Machine

theorem keeps_beginAuth {z s : State} (h : Keeps z s) (x0 : Ses) (x1 : Nat) : Keeps z (State.beginAuth s x0 x1).2 := by
  unfold State.beginAuth
  try dsimp only
  with_reducible repeat' first | assumption | apply keeps_drawN | apply keeps_modSession | apply Keeps.foldl | apply Keeps.ite | (simp only [Keeps.lit_iff]; apply KeepsLit.of <;> first | rfl | skip) | split | omega | dsimp only [id] | (intro)

theorem keeps_beginAuth_of {z s t : State} {x0 : Ses} {x1 : Nat} {v} (e : State.beginAuth s x0 x1 = (v, t)) (h : Keeps z s) : Keeps z t := by
  have k := keeps_beginAuth h x0 x1
  rw [e] at k
  exact k

theorem keeps_authFail {z s : State} (h : Keeps z s) (x0 : Ses) (x1 : Nat) : Keeps z (State.authFail s x0 x1) := by
  unfold State.authFail
  try dsimp only
  with_reducible repeat' first | assumption | apply keeps_modMaster | apply keeps_bump | apply keeps_record | apply Keeps.foldl | apply Keeps.ite | (simp only [Keeps.lit_iff]; apply KeepsLit.of <;> first | rfl | skip) | split | omega | dsimp only [id] | (intro)

theorem keeps_respond {z s : State} (h : Keeps z s) (x0 : Ses) (x1 : List Byte) : Keeps z (State.respond s x0 x1).2 := by
  unfold State.respond
  try dsimp only
  with_reducible repeat' first | assumption | apply keeps_modSession | apply keeps_modMaster | apply keeps_authFail | apply Keeps.foldl | apply Keeps.ite | (simp only [Keeps.lit_iff]; apply KeepsLit.of <;> first | rfl | skip) | split | omega | dsimp only [id] | (intro)

theorem keeps_respond_of {z s t : State} {x0 : Ses} {x1 : List Byte} {v} (e : State.respond s x0 x1 = (v, t)) (h : Keeps z s) : Keeps z t := by
  have k := keeps_respond h x0 x1
  rw [e] at k
  exact k

theorem keeps_lapse {z s : State} (h : Keeps z s) (x0 : Ses) : Keeps z (State.lapse s x0) := by
  unfold State.lapse
  try dsimp only
  with_reducible repeat' first | assumption | apply keeps_modSession | apply Keeps.foldl | apply Keeps.ite | (simp only [Keeps.lit_iff]; apply KeepsLit.of <;> first | rfl | skip) | split | omega | dsimp only [id] | (intro)

theorem keeps_execNonceLapse {z s : State} (h : Keeps z s) (x0 : Ses) : OutKeeps z (execNonceLapse x0 s) := by
  unfold execNonceLapse
  try dsimp only
  with_reducible repeat' first | assumption | apply OutKeeps.next | apply keeps_lapse | apply Keeps.foldl | apply Keeps.ite | (simp only [Keeps.lit_iff]; apply KeepsLit.of <;> first | rfl | skip) | split | omega | dsimp only [id] | (intro)

theorem keeps_lockoutEnd {z s : State} (h : Keeps z s) (x0 : Nat) : Keeps z (State.lockoutEnd s x0) := by
  unfold State.lockoutEnd
  try dsimp only
  with_reducible repeat' first | assumption | apply keeps_modMaster | apply Keeps.foldl | apply Keeps.ite | (simp only [Keeps.lit_iff]; apply KeepsLit.of <;> first | rfl | skip) | split | omega | dsimp only [id] | (intro)

theorem keeps_execAuthLockoutEnd {z s : State} (h : Keeps z s) (x0 : Nat) : OutKeeps z (execAuthLockoutEnd x0 s) := by
  unfold execAuthLockoutEnd
  try dsimp only
  with_reducible repeat' first | assumption | apply OutKeeps.next | apply keeps_lockoutEnd | apply Keeps.foldl | apply Keeps.ite | (simp only [Keeps.lit_iff]; apply KeepsLit.of <;> first | rfl | skip) | split | omega | dsimp only [id] | (intro)

theorem keeps_dropLevel {z s : State} (h : Keeps z s) (x0 : Ses) (x1 : Nat) : Keeps z (State.dropLevel s x0 x1).2 := by
  unfold State.dropLevel
  try dsimp only
  with_reducible repeat' first | assumption | apply keeps_modSession | apply Keeps.foldl | apply Keeps.ite | (simp only [Keeps.lit_iff]; apply KeepsLit.of <;> first | rfl | skip) | split | omega | dsimp only [id] | (intro)

theorem keeps_dropLevel_of {z s t : State} {x0 : Ses} {x1 : Nat} {v} (e : State.dropLevel s x0 x1 = (v, t)) (h : Keeps z s) : Keeps z t := by
  have k := keeps_dropLevel h x0 x1
  rw [e] at k
  exact k

theorem keeps_writeKey {z s : State} (h : Keeps z s) (x0 : Ses) (x1 : List Sys2Proof.Byte) : Keeps z (State.writeKey s x0 x1).2 := by
  unfold State.writeKey
  dsimp only
  repeat' first | exact h | split
  all_goals
    obtain ⟨a, b, c, d, e⟩ := h
    refine ⟨a, b, ?_, d, e⟩
    rw [← c]
    exact Tab.get_set_ne _ _ _ (by omega)

theorem keeps_writeKey_of {z s t : State} {x0 : Ses} {x1 : List Byte} {v} (e : State.writeKey s x0 x1 = (v, t)) (h : Keeps z s) : Keeps z t := by
  have k := keeps_writeKey h x0 x1
  rw [e] at k
  exact k

theorem keeps_sendUdp {z s : State} (h : Keeps z s) (x0 : Nat) (x1 : List Byte) : Keeps z (State.sendUdp s x0 x1) := by
  unfold State.sendUdp
  try dsimp only
  with_reducible repeat' first | assumption | apply Keeps.foldl | apply Keeps.ite | (simp only [Keeps.lit_iff]; apply KeepsLit.of <;> first | rfl | skip) | split | omega | dsimp only [id] | (intro)

theorem keeps_udpAnswer {z s : State} (h : Keeps z s) (x0 : Nat) (x1 : Nat) (x2 : Nat) (x3 : UdpReq) (x4 : Reply) : Keeps z (State.udpAnswer s x0 x1 x2 x3 x4) := by
  unfold State.udpAnswer
  try dsimp only
  with_reducible repeat' first | assumption | apply keeps_modSession | apply keeps_sendUdp | apply Keeps.foldl | apply Keeps.ite | (simp only [Keeps.lit_iff]; apply KeepsLit.of <;> first | rfl | skip) | split | omega | dsimp only [id] | (intro)

theorem keeps_closeSession {z s : State} (h : Keeps z s) (x0 : Ses) : Keeps z (State.closeSession s x0) := by
  unfold State.closeSession
  try dsimp only
  with_reducible repeat' first | assumption | apply keeps_endClaim | apply keeps_modMaster | apply Keeps.foldl | apply Keeps.ite | (simp only [Keeps.lit_iff]; apply KeepsLit.of <;> first | rfl | skip) | split | omega | dsimp only [id] | (intro)

theorem keeps_sessionTimeout {z s : State} (h : Keeps z s) (x0 : Nat) : Keeps z (State.sessionTimeout s x0) := by
  unfold State.sessionTimeout
  try dsimp only
  with_reducible repeat' first | assumption | apply keeps_closeSession | apply Keeps.foldl | apply Keeps.ite | (simp only [Keeps.lit_iff]; apply KeepsLit.of <;> first | rfl | skip) | split | omega | dsimp only [id] | (intro)

theorem keeps_execSessionTimeout {z s : State} (h : Keeps z s) (x0 : Nat) : OutKeeps z (execSessionTimeout x0 s) := by
  unfold execSessionTimeout
  try dsimp only
  with_reducible repeat' first | assumption | apply OutKeeps.next | apply keeps_sessionTimeout | apply Keeps.foldl | apply Keeps.ite | (simp only [Keeps.lit_iff]; apply KeepsLit.of <;> first | rfl | skip) | split | omega | dsimp only [id] | (intro)

theorem keeps_clearNonce {z s : State} (h : Keeps z s) (x0 : Ses) : Keeps z (State.clearNonce s x0).2 := by
  unfold State.clearNonce
  try dsimp only
  with_reducible repeat' first | assumption | apply keeps_drawN | apply keeps_modSession | apply Keeps.foldl | apply Keeps.ite | (simp only [Keeps.lit_iff]; apply KeepsLit.of <;> first | rfl | skip) | split | omega | dsimp only [id] | (intro)

theorem keeps_clearNonce_of {z s t : State} {x0 : Ses} {v} (e : State.clearNonce s x0 = (v, t)) (h : Keeps z s) : Keeps z t := by
  have k := keeps_clearNonce h x0
  rw [e] at k
  exact k

theorem keeps_writeClear {z s : State} (h : Keeps z s) (x0 : Ses) (x1 : List Byte) : Keeps z (State.writeClear s x0 x1).2 := by
  unfold State.writeClear
  try dsimp only
  with_reducible repeat' first | assumption | apply keeps_clearNonce | apply keeps_modSession | apply keeps_clearAsh | apply keeps_bump | apply keeps_record | apply Keeps.foldl | apply Keeps.ite | (simp only [Keeps.lit_iff]; apply KeepsLit.of <;> first | rfl | skip) | refine keeps_clearNonce_of (by assumption) ?_ | split | omega | dsimp only [id] | (intro)

theorem keeps_writeClear_of {z s t : State} {x0 : Ses} {x1 : List Byte} {v} (e : State.writeClear s x0 x1 = (v, t)) (h : Keeps z s) : Keeps z t := by
  have k := keeps_writeClear h x0 x1
  rw [e] at k
  exact k

theorem keeps_fwRecord {z s : State} (h : Keeps z s) (x0 : Nat) (x1 : Nat) : Keeps z (State.fwRecord s x0 x1) := by
  unfold State.fwRecord
  try dsimp only
  with_reducible repeat' first | assumption | apply keeps_record | apply Keeps.foldl | apply Keeps.ite | (simp only [Keeps.lit_iff]; apply KeepsLit.of <;> first | rfl | skip) | split | omega | dsimp only [id] | (intro)

theorem keeps_fwLoad {z s : State} (h : Keeps z s) : Keeps z (State.fwLoad s) := by
  unfold State.fwLoad
  try dsimp only
  with_reducible repeat' first | assumption | apply Keeps.foldl | apply Keeps.ite | (simp only [Keeps.lit_iff]; apply KeepsLit.of <;> first | rfl | skip) | split | omega | dsimp only [id] | (intro)

theorem keeps_fwWritten {z s : State} (h : Keeps z s) : Keeps z (State.fwWritten s) := by
  unfold State.fwWritten
  try dsimp only
  with_reducible repeat' first | assumption | apply keeps_keepLast | apply keeps_fwRecord | apply keeps_freeStage | apply Keeps.foldl | apply Keeps.ite | (simp only [Keeps.lit_iff]; apply KeepsLit.of <;> first | rfl | skip) | split | omega | dsimp only [id] | (intro)

theorem keeps_execFwImageWritten {z s : State} (h : Keeps z s) : OutKeeps z (execFwImageWritten s) := by
  unfold execFwImageWritten
  try dsimp only
  with_reducible repeat' first | assumption | apply OutKeeps.next | apply keeps_fwWritten | apply Keeps.foldl | apply Keeps.ite | (simp only [Keeps.lit_iff]; apply KeepsLit.of <;> first | rfl | skip) | split | omega | dsimp only [id] | (intro)

theorem keeps_dropSessions {z s : State} (h : Keeps z s) : Keeps z (State.dropSessions s) := by
  unfold State.dropSessions
  try dsimp only
  with_reducible repeat' first | assumption | apply keeps_clearNonce | apply Keeps.foldl | apply Keeps.ite | (simp only [Keeps.lit_iff]; apply KeepsLit.of <;> first | rfl | skip) | refine keeps_clearNonce_of (by assumption) ?_ | split | omega | dsimp only [id] | (intro)

theorem keeps_restartMgmt {z s : State} (h : Keeps z s) (x0 : Nat) (x1 : Bool) : Keeps z (State.restartMgmt s x0 x1) := by
  unfold State.restartMgmt
  try dsimp only
  with_reducible repeat' first | assumption | apply keeps_dropSessions | apply Keeps.foldl | apply Keeps.ite | (simp only [Keeps.lit_iff]; apply KeepsLit.of <;> first | rfl | skip) | split | omega | dsimp only [id] | (intro)

theorem keeps_fwSwitch {z s : State} (h : Keeps z s) : Keeps z (State.fwSwitch s) := by
  unfold State.fwSwitch
  try dsimp only
  with_reducible repeat' first | assumption | apply keeps_restartMgmt | apply Keeps.foldl | apply Keeps.ite | (simp only [Keeps.lit_iff]; apply KeepsLit.of <;> first | rfl | skip) | split | omega | dsimp only [id] | (intro)

theorem keeps_fwServing {z s : State} (h : Keeps z s) : Keeps z (State.fwServing s) := by
  unfold State.fwServing
  try dsimp only
  with_reducible repeat' first | assumption | apply keeps_keepLast | apply keeps_fwRecord | apply Keeps.foldl | apply Keeps.ite | (simp only [Keeps.lit_iff]; apply KeepsLit.of <;> first | rfl | skip) | split | omega | dsimp only [id] | (intro)

theorem keeps_execFwBankServing {z s : State} (h : Keeps z s) : OutKeeps z (execFwBankServing s) := by
  unfold execFwBankServing
  try dsimp only
  with_reducible repeat' first | assumption | apply OutKeeps.next | apply keeps_fwServing | apply Keeps.foldl | apply Keeps.ite | (simp only [Keeps.lit_iff]; apply KeepsLit.of <;> first | rfl | skip) | split | omega | dsimp only [id] | (intro)

theorem keeps_fwAbandon {z s : State} (h : Keeps z s) : Keeps z (State.fwAbandon s) := by
  unfold State.fwAbandon
  try dsimp only
  with_reducible repeat' first | assumption | apply keeps_draw | apply keeps_fwRecord | apply keeps_restartMgmt | apply Keeps.foldl | apply Keeps.ite | (simp only [Keeps.lit_iff]; apply KeepsLit.of <;> first | rfl | skip) | split | omega | dsimp only [id] | (intro)

theorem keeps_execFwSwitchAbandon {z s : State} (h : Keeps z s) : OutKeeps z (execFwSwitchAbandon s) := by
  unfold execFwSwitchAbandon
  try dsimp only
  with_reducible repeat' first | assumption | apply OutKeeps.next | apply keeps_fwAbandon | apply Keeps.foldl | apply Keeps.ite | (simp only [Keeps.lit_iff]; apply KeepsLit.of <;> first | rfl | skip) | split | omega | dsimp only [id] | (intro)

theorem keeps_mgmtWatchdog {z s : State} (h : Keeps z s) : Keeps z (State.mgmtWatchdog s) := by
  unfold State.mgmtWatchdog
  try dsimp only
  with_reducible repeat' first | assumption | apply keeps_restartMgmt | apply keeps_fwRecord | apply keeps_setCause | apply Keeps.foldl | apply Keeps.ite | (simp only [Keeps.lit_iff]; apply KeepsLit.of <;> first | rfl | skip) | split | omega | dsimp only [id] | (intro)

theorem keeps_execManagementWatchdog {z s : State} (h : Keeps z s) : OutKeeps z (execManagementWatchdog s) := by
  unfold execManagementWatchdog
  try dsimp only
  with_reducible repeat' first | assumption | apply OutKeeps.next | apply keeps_mgmtWatchdog | apply Keeps.foldl | apply Keeps.ite | (simp only [Keeps.lit_iff]; apply KeepsLit.of <;> first | rfl | skip) | split | omega | dsimp only [id] | (intro)

theorem keeps_markDefaults {z s : State} (h : Keeps z s) : Keeps z (State.markDefaults s) := by
  unfold State.markDefaults
  try dsimp only
  with_reducible repeat' first | assumption | apply Keeps.foldl | apply Keeps.ite | (simp only [Keeps.lit_iff]; apply KeepsLit.of <;> first | rfl | skip) | split | omega | dsimp only [id] | (intro)

theorem keeps_pcieReset {z s : State} (h : Keeps z s) : Keeps z (State.pcieReset s) := by
  unfold State.pcieReset
  try dsimp only
  with_reducible repeat' first | assumption | apply keeps_modSession | apply keeps_clearNonce | apply Keeps.foldl | apply Keeps.ite | (simp only [Keeps.lit_iff]; apply KeepsLit.of <;> first | rfl | skip) | refine keeps_clearNonce_of (by assumption) ?_ | split | omega | dsimp only [id] | (intro)

theorem keeps_execPcieReset {z s : State} (h : Keeps z s) : OutKeeps z (execPcieReset s) := by
  unfold execPcieReset
  try dsimp only
  with_reducible repeat' first | assumption | apply OutKeeps.next | apply keeps_pcieReset | apply Keeps.foldl | apply Keeps.ite | (simp only [Keeps.lit_iff]; apply KeepsLit.of <;> first | rfl | skip) | split | omega | dsimp only [id] | (intro)

end Sys2Proof.Machine
end

