-- ==== Sys2Proof/Laws/Dictionary.lean ====
section
/-! SUPPORT. What the operations of Machine/Dictionary.lean keep (Laws/Keeps.lean), one lemma for each. -/

set_option linter.unusedTactic false
set_option linter.unreachableTactic false
set_option linter.unusedSimpArgs false

namespace Sys2Proof.Machine

theorem keeps_hubPoison {z s : State} (h : Keeps z s) (x0 : Nat) (x1 : Nat) : Keeps z (State.hubPoison s x0 x1) := by
  unfold State.hubPoison
  try dsimp only
  with_reducible repeat' first | assumption | apply keeps_setCause | apply Keeps.foldl | apply Keeps.ite | (simp only [Keeps.lit_iff]; apply KeepsLit.of <;> first | rfl | skip) | split | omega | dsimp only [id] | (intro)

theorem keeps_txWord {z s : State} (h : Keeps z s) (x0 : Nat) : Keeps z (State.txWord s x0).2 := by
  unfold State.txWord
  try dsimp only
  with_reducible repeat' first | assumption | apply keeps_hubPoison | apply keeps_freezeMaster | apply Keeps.foldl | apply Keeps.ite | (simp only [Keeps.lit_iff]; apply KeepsLit.of <;> first | rfl | skip) | split | omega | dsimp only [id] | (intro)

theorem keeps_txWord_of {z s t : State} {x0 : Nat} {v} (e : State.txWord s x0 = (v, t)) (h : Keeps z s) : Keeps z t := by
  have k := keeps_txWord h x0
  rw [e] at k
  exact k

theorem keeps_rxWord {z s : State} (h : Keeps z s) (x0 : Nat) (x1 : Nat) : Keeps z (State.rxWord s x0 x1) := by
  unfold State.rxWord
  try dsimp only
  with_reducible repeat' first | assumption | apply keeps_masterWrite | apply Keeps.foldl | apply Keeps.ite | (simp only [Keeps.lit_iff]; apply KeepsLit.of <;> first | rfl | skip) | split | omega | dsimp only [id] | (intro)

theorem keeps_metBad {z s : State} (h : Keeps z s) (x0 : Nat) (x1 : Nat) : Keeps z (State.metBad s x0 x1) := by
  unfold State.metBad
  try dsimp only
  with_reducible repeat' first | assumption | apply Keeps.foldl | apply Keeps.ite | (simp only [Keeps.lit_iff]; apply KeepsLit.of <;> first | rfl | skip) | split | omega | dsimp only [id] | (intro)

theorem keeps_odRead {z s : State} (h : Keeps z s) (x0 : Ses) (x1 : Nat) (x2 : Nat) : Keeps z (State.odRead s x0 x1 x2).2 := by
  unfold State.odRead
  try dsimp only
  with_reducible repeat' first | assumption | apply keeps_metBad | apply keeps_txWord | apply keeps_clearNonce | apply keeps_modSession | apply Keeps.foldl | apply Keeps.ite | (simp only [Keeps.lit_iff]; apply KeepsLit.of <;> first | rfl | skip) | refine keeps_txWord_of (by assumption) ?_ | refine keeps_clearNonce_of (by assumption) ?_ | split | omega | dsimp only [id] | (intro)

theorem keeps_odRead_of {z s t : State} {x0 : Ses} {x1 : Nat} {x2 : Nat} {v} (e : State.odRead s x0 x1 x2 = (v, t)) (h : Keeps z s) : Keeps z t := by
  have k := keeps_odRead h x0 x1 x2
  rw [e] at k
  exact k

theorem keeps_readObject {z s : State} (h : Keeps z s) (x0 : Ses) (x1 : Nat) (x2 : Nat) : Keeps z (State.readObject s x0 x1 x2).2 := by
  unfold State.readObject
  try dsimp only
  with_reducible repeat' first | assumption | apply keeps_odRead | apply Keeps.foldl | apply Keeps.ite | (simp only [Keeps.lit_iff]; apply KeepsLit.of <;> first | rfl | skip) | refine keeps_odRead_of (by assumption) ?_ | split | omega | dsimp only [id] | (intro)

theorem keeps_readObject_of {z s t : State} {x0 : Ses} {x1 : Nat} {x2 : Nat} {v} (e : State.readObject s x0 x1 x2 = (v, t)) (h : Keeps z s) : Keeps z t := by
  have k := keeps_readObject h x0 x1 x2
  rw [e] at k
  exact k

end Sys2Proof.Machine
end

