-- ==== Sys2Proof/Laws/Commands.lean ====
section
/-! SUPPORT. What the operations of Machine/Commands.lean keep (Laws/Keeps.lean), one lemma for each. -/

set_option linter.unusedTactic false
set_option linter.unreachableTactic false
set_option linter.unusedSimpArgs false

namespace Sys2Proof.Machine

theorem keeps_setDma {z s : State} (h : Keeps z s) (x0 : Nat) (x1 : DmaChan) : Keeps z (State.setDma s x0 x1) := by
  unfold State.setDma
  try dsimp only
  with_reducible repeat' first | assumption | apply Keeps.foldl | apply Keeps.ite | (simp only [Keeps.lit_iff]; apply KeepsLit.of <;> first | rfl | skip) | split | omega | dsimp only [id] | (intro)

theorem keeps_dmaDone {z s : State} (h : Keeps z s) (x0 : Nat) (x1 : Nat) (x2 : Bool) : Keeps z (State.dmaDone s x0 x1 x2) := by
  unfold State.dmaDone
  try dsimp only
  with_reducible repeat' first | assumption | apply keeps_setDma | apply keeps_msix | apply Keeps.foldl | apply Keeps.ite | (simp only [Keeps.lit_iff]; apply KeepsLit.of <;> first | rfl | skip) | split | omega | dsimp only [id] | (intro)

theorem keeps_dmaSkip {z s : State} (h : Keeps z s) (x0 : Nat) : Keeps z (State.dmaSkip s x0) := by
  unfold State.dmaSkip
  try dsimp only
  with_reducible repeat' first | assumption | apply keeps_setDma | apply Keeps.foldl | apply Keeps.ite | (simp only [Keeps.lit_iff]; apply KeepsLit.of <;> first | rfl | skip) | split | omega | dsimp only [id] | (intro)

theorem keeps_dmaIn {z s : State} (h : Keeps z s) (x0 : Nat) (x1 : Nat) (x2 : List Byte) (x3 : Bool) (x4 : Bool) : Keeps z (State.dmaIn s x0 x1 x2 x3 x4) := by
  unfold State.dmaIn
  try dsimp only
  with_reducible repeat' first | assumption | apply keeps_dmaDone | apply keeps_sysWriteAll | apply Keeps.foldl | apply Keeps.ite | (simp only [Keeps.lit_iff]; apply KeepsLit.of <;> first | rfl | skip) | split | omega | dsimp only [id] | (intro)

theorem keeps_resumeHeld {z s : State} (h : Keeps z s) (x0 : Nat) (x1 : HeldReq) : Keeps z (State.resumeHeld s x0 x1) := by
  unfold State.resumeHeld
  try dsimp only
  with_reducible repeat' first | assumption | apply keeps_modMaster | apply keeps_giveCredits | apply keeps_flueEnter | apply keeps_freezeMaster | apply keeps_hold | apply keeps_dmaIn | apply keeps_sysWriteAll | apply keeps_udpAnswer | apply keeps_dmaDone | apply Keeps.foldl | apply Keeps.ite | (simp only [Keeps.lit_iff]; apply KeepsLit.of <;> first | rfl | skip) | split | omega | dsimp only [id] | (intro)

theorem keeps_resumeMaster {z s : State} (h : Keeps z s) (x0 : Nat) : Keeps z (State.resumeMaster s x0) := by
  unfold State.resumeMaster
  try dsimp only
  with_reducible repeat' first | assumption | apply keeps_resumeHeld | apply keeps_modMaster | apply Keeps.foldl | apply Keeps.ite | (simp only [Keeps.lit_iff]; apply KeepsLit.of <;> first | rfl | skip) | split | omega | dsimp only [id] | (intro)

theorem keeps_dropMaster {z s : State} (h : Keeps z s) (x0 : Nat) : Keeps z (State.dropMaster s x0) := by
  unfold State.dropMaster
  try dsimp only
  with_reducible repeat' first | assumption | apply keeps_giveCredits | apply keeps_dmaSkip | apply keeps_modMaster | apply keeps_bumpBy | apply Keeps.foldl | apply Keeps.ite | (simp only [Keeps.lit_iff]; apply KeepsLit.of <;> first | rfl | skip) | split | omega | dsimp only [id] | (intro)

theorem keeps_releaseMaster {z s : State} (h : Keeps z s) (x0 : Ses) (x1 : Nat) : Keeps z (State.releaseMaster s x0 x1) := by
  unfold State.releaseMaster
  try dsimp only
  with_reducible repeat' first | assumption | apply keeps_record | apply keeps_resumeMaster | apply keeps_dropMaster | apply keeps_modCore | apply keeps_stopCore | apply Keeps.foldl | apply Keeps.ite | (simp only [Keeps.lit_iff]; apply KeepsLit.of <;> first | rfl | skip) | split | omega | dsimp only [id] | (intro)

theorem keeps_writeSetting {z s : State} (h : Keeps z s) (x0 : Ses) (x1 : Nat) (x2 : Nat) (x3 : Nat) (x4 : OdRow) : Keeps z (State.writeSetting s x0 x1 x2 x3 x4) := by
  unfold State.writeSetting
  try dsimp only
  with_reducible repeat' first | assumption | apply Keeps.foldl | apply Keeps.ite | (simp only [Keeps.lit_iff]; apply KeepsLit.of <;> first | rfl | skip) | split | omega | dsimp only [id] | (intro)

theorem keeps_mirrorCommand {z s : State} (h : Keeps z s) (x0 : Nat) : Keeps z (State.mirrorCommand s x0) := by
  unfold State.mirrorCommand
  try dsimp only
  with_reducible repeat' first | assumption | apply keeps_sendTakeover | apply keeps_takeover | apply Keeps.foldl | apply Keeps.ite | (simp only [Keeps.lit_iff]; apply KeepsLit.of <;> first | rfl | skip) | split | omega | dsimp only [id] | (intro)

theorem keeps_powerCommand {z s : State} (h : Keeps z s) (x0 : Nat) : Keeps z (State.powerCommand s x0) := by
  unfold State.powerCommand
  try dsimp only
  with_reducible repeat' first | assumption | apply keeps_enterWatch | apply keeps_diesDown | apply keeps_diesUp | apply Keeps.foldl | apply Keeps.ite | (simp only [Keeps.lit_iff]; apply KeepsLit.of <;> first | rfl | skip) | split | omega | dsimp only [id] | (intro)

theorem keeps_firmwareCommand {z s : State} (h : Keeps z s) (x0 : Nat) : Keeps z (State.firmwareCommand s x0) := by
  unfold State.firmwareCommand
  try dsimp only
  with_reducible repeat' first | assumption | apply keeps_fwLoad | apply keeps_fwSwitch | apply keeps_markDefaults | apply Keeps.foldl | apply Keeps.ite | (simp only [Keeps.lit_iff]; apply KeepsLit.of <;> first | rfl | skip) | split | omega | dsimp only [id] | (intro)

theorem keeps_dacCode {z s : State} (h : Keeps z s) (x0 : Nat) (x1 : Nat) : Keeps z (State.dacCode s x0 x1) := by
  unfold State.dacCode
  try dsimp only
  with_reducible repeat' first | assumption | apply keeps_dacWrite | apply keeps_bump | apply Keeps.foldl | apply Keeps.ite | (simp only [Keeps.lit_iff]; apply KeepsLit.of <;> first | rfl | skip) | split | omega | dsimp only [id] | (intro)

theorem keeps_writePdo {z s : State} (h : Keeps z s) (x0 : Nat) (x1 : Nat) (x2 : Nat) : Keeps z (State.writePdo s x0 x1 x2) := by
  unfold State.writePdo
  try dsimp only
  with_reducible repeat' first | assumption | apply Keeps.foldl | apply Keeps.ite | (simp only [Keeps.lit_iff]; apply KeepsLit.of <;> first | rfl | skip) | split | omega | dsimp only [id] | (intro)

theorem keeps_writePower {z s : State} (h : Keeps z s) (x0 : Nat) (x1 : Nat) : Keeps z (State.writePower s x0 x1) := by
  unfold State.writePower
  try dsimp only
  with_reducible repeat' first | assumption | apply keeps_powerCommand | apply keeps_resetCommand | apply Keeps.foldl | apply Keeps.ite | (simp only [Keeps.lit_iff]; apply KeepsLit.of <;> first | rfl | skip) | split | omega | dsimp only [id] | (intro)

theorem keeps_writeCtx {z s : State} (h : Keeps z s) (x0 : Nat) (x1 : Nat) : Keeps z (State.writeCtx s x0 x1) := by
  unfold State.writeCtx
  try dsimp only
  with_reducible repeat' first | assumption | apply keeps_ctxCommand | apply Keeps.foldl | apply Keeps.ite | (simp only [Keeps.lit_iff]; apply KeepsLit.of <;> first | rfl | skip) | split | omega | dsimp only [id] | (intro)

theorem keeps_writeStoke {z s : State} (h : Keeps z s) (x0 : Nat) (x1 : Nat) : Keeps z (State.writeStoke s x0 x1) := by
  unfold State.writeStoke
  try dsimp only
  with_reducible repeat' first | assumption | apply keeps_retireEngine | apply keeps_retireColumn | apply keeps_surveyNow | apply Keeps.foldl | apply Keeps.ite | (simp only [Keeps.lit_iff]; apply KeepsLit.of <;> first | rfl | skip) | split | omega | dsimp only [id] | (intro)

theorem keeps_writeDac {z s : State} (h : Keeps z s) (x0 : Nat) (x1 : Nat) (x2 : Nat) : Keeps z (State.writeDac s x0 x1 x2) := by
  unfold State.writeDac
  try dsimp only
  with_reducible repeat' first | assumption | apply keeps_dacWrite | apply keeps_dacRelease | apply keeps_faultDac | apply Keeps.foldl | apply Keeps.ite | (simp only [Keeps.lit_iff]; apply KeepsLit.of <;> first | rfl | skip) | split | omega | dsimp only [id] | (intro)

theorem keeps_writeSelector {z s : State} (h : Keeps z s) (x0 : Ses) (x1 : Nat) (x2 : Nat) : Keeps z (State.writeSelector s x0 x1 x2) := by
  unfold State.writeSelector
  try dsimp only
  with_reducible repeat' first | assumption | apply keeps_modSession | apply Keeps.foldl | apply Keeps.ite | (simp only [Keeps.lit_iff]; apply KeepsLit.of <;> first | rfl | skip) | split | omega | dsimp only [id] | (intro)

theorem keeps_writeModule {z s : State} (h : Keeps z s) (x0 : Ses) (x1 : Nat) (x2 : Nat) (x3 : Nat) : Keeps z (State.writeModule s x0 x1 x2 x3) := by
  unfold State.writeModule
  try dsimp only
  with_reducible repeat' first | assumption | apply keeps_calRestore | apply keeps_setFreeze | apply keeps_releaseMaster | apply keeps_firmwareCommand | apply keeps_hostReplace | apply keeps_mirrorCommand | apply keeps_dacCode | apply keeps_rxWord | apply Keeps.foldl | apply Keeps.ite | (simp only [Keeps.lit_iff]; apply KeepsLit.of <;> first | rfl | skip) | split | omega | dsimp only [id] | (intro)

theorem keeps_writeDirect {z s : State} (h : Keeps z s) (x0 : Ses) (x1 : Nat) (x2 : Nat) (x3 : Nat) : Keeps z (State.writeDirect s x0 x1 x2 x3) := by
  unfold State.writeDirect
  try dsimp only
  with_reducible repeat' first | assumption | apply keeps_writePdo | apply keeps_writeSelector | apply keeps_writePower | apply keeps_stepGtc | apply keeps_ringCtrl | apply keeps_writeDac | apply keeps_tripRelease | apply keeps_clearCauses | apply keeps_writeCtx | apply keeps_blockReady | apply keeps_writeStoke | apply keeps_writeModule | apply Keeps.foldl | apply Keeps.ite | (simp only [Keeps.lit_iff]; apply KeepsLit.of <;> first | rfl | skip) | split | omega | dsimp only [id] | (intro)

theorem keeps_writeChecked {z s : State} (h : Keeps z s) (x0 : Ses) (x1 : Nat) (x2 : Nat) (x3 : List Byte) (x4 : OdRow) : Keeps z (State.writeChecked s x0 x1 x2 x3 x4).2 := by
  unfold State.writeChecked
  try dsimp only
  with_reducible repeat' first | assumption | apply keeps_setResult | apply keeps_metBad | apply keeps_writeSetting | apply keeps_writeDirect | apply Keeps.foldl | apply Keeps.ite | (simp only [Keeps.lit_iff]; apply KeepsLit.of <;> first | rfl | skip) | split | omega | dsimp only [id] | (intro)

theorem keeps_writeChecked_of {z s t : State} {x0 : Ses} {x1 : Nat} {x2 : Nat} {x3 : List Byte} {x4 : OdRow} {v} (e : State.writeChecked s x0 x1 x2 x3 x4 = (v, t)) (h : Keeps z s) : Keeps z t := by
  have k := keeps_writeChecked h x0 x1 x2 x3 x4
  rw [e] at k
  exact k

theorem keeps_odWrite {z s : State} (h : Keeps z s) (x0 : Ses) (x1 : Nat) (x2 : Nat) (x3 : List Byte) : Keeps z (State.odWrite s x0 x1 x2 x3).2 := by
  unfold State.odWrite
  try dsimp only
  with_reducible repeat' first | assumption | apply keeps_setCommand | apply keeps_beginAuth | apply keeps_respond | apply keeps_dropLevel | apply keeps_metBad | apply keeps_writeKey | apply keeps_writeClear | apply keeps_writeChecked | apply Keeps.foldl | apply Keeps.ite | (simp only [Keeps.lit_iff]; apply KeepsLit.of <;> first | rfl | skip) | refine keeps_setCommand_of (by assumption) ?_ | refine keeps_beginAuth_of (by assumption) ?_ | refine keeps_respond_of (by assumption) ?_ | refine keeps_dropLevel_of (by assumption) ?_ | refine keeps_writeKey_of (by assumption) ?_ | refine keeps_writeClear_of (by assumption) ?_ | refine keeps_writeChecked_of (by assumption) ?_ | split | omega | dsimp only [id] | (intro)

theorem keeps_odWrite_of {z s t : State} {x0 : Ses} {x1 : Nat} {x2 : Nat} {x3 : List Byte} {v} (e : State.odWrite s x0 x1 x2 x3 = (v, t)) (h : Keeps z s) : Keeps z t := by
  have k := keeps_odWrite h x0 x1 x2 x3
  rw [e] at k
  exact k

theorem keeps_writeObject {z s : State} (h : Keeps z s) (x0 : Ses) (x1 : Nat) (x2 : Nat) (x3 : List Byte) : Keeps z (State.writeObject s x0 x1 x2 x3).2 := by
  unfold State.writeObject
  try dsimp only
  with_reducible repeat' first | assumption | apply keeps_odWrite | apply Keeps.foldl | apply Keeps.ite | (simp only [Keeps.lit_iff]; apply KeepsLit.of <;> first | rfl | skip) | refine keeps_odWrite_of (by assumption) ?_ | split | omega | dsimp only [id] | (intro)

theorem keeps_writeObject_of {z s t : State} {x0 : Ses} {x1 : Nat} {x2 : Nat} {x3 : List Byte} {v} (e : State.writeObject s x0 x1 x2 x3 = (v, t)) (h : Keeps z s) : Keeps z t := by
  have k := keeps_writeObject h x0 x1 x2 x3
  rw [e] at k
  exact k

theorem keeps_giveReply {z s : State} (h : Keeps z s) (x0 : Ses) (x1 : Reply) : Keeps z (State.giveReply s x0 x1) := by
  unfold State.giveReply
  try dsimp only
  with_reducible repeat' first | assumption | apply keeps_modSession | apply Keeps.foldl | apply Keeps.ite | (simp only [Keeps.lit_iff]; apply KeepsLit.of <;> first | rfl | skip) | split | omega | dsimp only [id] | (intro)

theorem keeps_latchAbort {z s : State} (h : Keeps z s) (x0 : Nat) (x1 : Nat) (x2 : Nat) : Keeps z (State.latchAbort s x0 x1 x2) := by
  unfold State.latchAbort
  try dsimp only
  with_reducible repeat' first | assumption | apply Keeps.foldl | apply Keeps.ite | (simp only [Keeps.lit_iff]; apply KeepsLit.of <;> first | rfl | skip) | split | omega | dsimp only [id] | (intro)

theorem keeps_badAccess {z s : State} (h : Keeps z s) (x0 : Nat) (x1 : Nat) (x2 : Nat) : Keeps z (State.badAccess s x0 x1 x2) := by
  unfold State.badAccess
  try dsimp only
  with_reducible repeat' first | assumption | apply keeps_latchAbort | apply Keeps.foldl | apply Keeps.ite | (simp only [Keeps.lit_iff]; apply KeepsLit.of <;> first | rfl | skip) | split | omega | dsimp only [id] | (intro)

theorem keeps_crossingDrop {z s : State} (h : Keeps z s) : Keeps z (State.crossingDrop s) := by
  unfold State.crossingDrop
  try dsimp only
  with_reducible repeat' first | assumption | apply keeps_bump | apply Keeps.foldl | apply Keeps.ite | (simp only [Keeps.lit_iff]; apply KeepsLit.of <;> first | rfl | skip) | split | omega | dsimp only [id] | (intro)

theorem keeps_refusedBy {z s : State} (h : Keeps z s) (x0 : Bool) (x1 : Nat) (x2 : Nat) (x3 : Nat) : Keeps z (State.refusedBy s x0 x1 x2 x3) := by
  unfold State.refusedBy
  try dsimp only
  with_reducible repeat' first | assumption | apply keeps_bar0 | apply keeps_badAccess | apply keeps_latchAbort | apply Keeps.foldl | apply Keeps.ite | (simp only [Keeps.lit_iff]; apply KeepsLit.of <;> first | rfl | skip) | split | omega | dsimp only [id] | (intro)

theorem keeps_writeBy {z s : State} (h : Keeps z s) (x0 : Bool) (x1 : Ses) (x2 : Nat) (x3 : Nat) (x4 : List Byte) : Keeps z (State.writeBy s x0 x1 x2 x3 x4) := by
  unfold State.writeBy
  try dsimp only
  with_reducible repeat' first | assumption | apply keeps_crossingDrop | apply keeps_writeObject | apply keeps_giveReply | apply keeps_refusedBy | apply keeps_bar0 | apply Keeps.foldl | apply Keeps.ite | (simp only [Keeps.lit_iff]; apply KeepsLit.of <;> first | rfl | skip) | refine keeps_writeObject_of (by assumption) ?_ | split | omega | dsimp only [id] | (intro)

theorem keeps_hostWrite {z s : State} (h : Keeps z s) (x0 : Ses) (x1 : Nat) (x2 : Nat) (x3 : List Byte) : Keeps z (State.hostWrite s x0 x1 x2 x3) := by
  unfold State.hostWrite
  try dsimp only
  with_reducible repeat' first | assumption | apply keeps_writeBy | apply Keeps.foldl | apply Keeps.ite | (simp only [Keeps.lit_iff]; apply KeepsLit.of <;> first | rfl | skip) | split | omega | dsimp only [id] | (intro)

theorem keeps_hostRead {z s : State} (h : Keeps z s) (x0 : Ses) (x1 : Nat) (x2 : Nat) : Keeps z (State.hostRead s x0 x1 x2) := by
  unfold State.hostRead
  try dsimp only
  with_reducible repeat' first | assumption | apply keeps_readObject | apply keeps_giveReply | apply keeps_refusedBy | apply Keeps.foldl | apply Keeps.ite | (simp only [Keeps.lit_iff]; apply KeepsLit.of <;> first | rfl | skip) | refine keeps_readObject_of (by assumption) ?_ | split | omega | dsimp only [id] | (intro)

theorem keeps_execObjectWrite {z s : State} (h : Keeps z s) (x0 : Ses) (x1 : Nat) (x2 : Nat) (x3 : List Byte) : OutKeeps z (execObjectWrite x0 x1 x2 x3 s) := by
  unfold execObjectWrite
  try dsimp only
  with_reducible repeat' first | assumption | apply OutKeeps.next | apply keeps_hostWrite | apply Keeps.foldl | apply Keeps.ite | (simp only [Keeps.lit_iff]; apply KeepsLit.of <;> first | rfl | skip) | split | omega | dsimp only [id] | (intro)

theorem keeps_execSetCommit {z s : State} (h : Keeps z s) (x0 : Ses) (x1 : Nat) (x2 : Nat) (x3 : Nat) : OutKeeps z (execSetCommit x0 x1 x2 x3 s) := by
  unfold execSetCommit
  try dsimp only
  with_reducible repeat' first | assumption | apply OutKeeps.next | apply keeps_hostWrite | apply Keeps.foldl | apply Keeps.ite | (simp only [Keeps.lit_iff]; apply KeepsLit.of <;> first | rfl | skip) | split | omega | dsimp only [id] | (intro)

theorem keeps_execDiscard {z s : State} (h : Keeps z s) (x0 : Ses) : OutKeeps z (execDiscard x0 s) := by
  unfold execDiscard
  try dsimp only
  with_reducible repeat' first | assumption | apply OutKeeps.next | apply keeps_hostWrite | apply Keeps.foldl | apply Keeps.ite | (simp only [Keeps.lit_iff]; apply KeepsLit.of <;> first | rfl | skip) | split | omega | dsimp only [id] | (intro)

theorem keeps_execClaim {z s : State} (h : Keeps z s) (x0 : Ses) : OutKeeps z (execClaim x0 s) := by
  unfold execClaim
  try dsimp only
  with_reducible repeat' first | assumption | apply OutKeeps.next | apply keeps_hostWrite | apply Keeps.foldl | apply Keeps.ite | (simp only [Keeps.lit_iff]; apply KeepsLit.of <;> first | rfl | skip) | split | omega | dsimp only [id] | (intro)

theorem keeps_execYieldClaim {z s : State} (h : Keeps z s) (x0 : Ses) : OutKeeps z (execYieldClaim x0 s) := by
  unfold execYieldClaim
  try dsimp only
  with_reducible repeat' first | assumption | apply OutKeeps.next | apply keeps_hostWrite | apply Keeps.foldl | apply Keeps.ite | (simp only [Keeps.lit_iff]; apply KeepsLit.of <;> first | rfl | skip) | split | omega | dsimp only [id] | (intro)

theorem keeps_execAuthSlot {z s : State} (h : Keeps z s) (x0 : Ses) (x1 : Nat) : OutKeeps z (execAuthSlot x0 x1 s) := by
  unfold execAuthSlot
  try dsimp only
  with_reducible repeat' first | assumption | apply OutKeeps.next | apply keeps_hostWrite | apply Keeps.foldl | apply Keeps.ite | (simp only [Keeps.lit_iff]; apply KeepsLit.of <;> first | rfl | skip) | split | omega | dsimp only [id] | (intro)

theorem keeps_execAuthResponse {z s : State} (h : Keeps z s) (x0 : Ses) (x1 : List Byte) : OutKeeps z (execAuthResponse x0 x1 s) := by
  unfold execAuthResponse
  try dsimp only
  with_reducible repeat' first | assumption | apply OutKeeps.next | apply keeps_hostWrite | apply Keeps.foldl | apply Keeps.ite | (simp only [Keeps.lit_iff]; apply KeepsLit.of <;> first | rfl | skip) | split | omega | dsimp only [id] | (intro)

theorem keeps_execAuthDrop {z s : State} (h : Keeps z s) (x0 : Ses) (x1 : Nat) : OutKeeps z (execAuthDrop x0 x1 s) := by
  unfold execAuthDrop
  try dsimp only
  with_reducible repeat' first | assumption | apply OutKeeps.next | apply keeps_hostWrite | apply Keeps.foldl | apply Keeps.ite | (simp only [Keeps.lit_iff]; apply KeepsLit.of <;> first | rfl | skip) | split | omega | dsimp only [id] | (intro)

theorem keeps_execKeyWrite {z s : State} (h : Keeps z s) (x0 : Ses) (x1 : List Byte) : OutKeeps z (execKeyWrite x0 x1 s) := by
  unfold execKeyWrite
  try dsimp only
  with_reducible repeat' first | assumption | apply OutKeeps.next | apply keeps_hostWrite | apply Keeps.foldl | apply Keeps.ite | (simp only [Keeps.lit_iff]; apply KeepsLit.of <;> first | rfl | skip) | split | omega | dsimp only [id] | (intro)

theorem keeps_execMasterResume {z s : State} (h : Keeps z s) (x0 : Ses) (x1 : Nat) : OutKeeps z (execMasterResume x0 x1 s) := by
  unfold execMasterResume
  try dsimp only
  with_reducible repeat' first | assumption | apply OutKeeps.next | apply keeps_hostWrite | apply Keeps.foldl | apply Keeps.ite | (simp only [Keeps.lit_iff]; apply KeepsLit.of <;> first | rfl | skip) | split | omega | dsimp only [id] | (intro)

theorem keeps_execMasterDrop {z s : State} (h : Keeps z s) (x0 : Ses) (x1 : Nat) : OutKeeps z (execMasterDrop x0 x1 s) := by
  unfold execMasterDrop
  try dsimp only
  with_reducible repeat' first | assumption | apply OutKeeps.next | apply keeps_hostWrite | apply Keeps.foldl | apply Keeps.ite | (simp only [Keeps.lit_iff]; apply KeepsLit.of <;> first | rfl | skip) | split | omega | dsimp only [id] | (intro)

theorem keeps_ctxWrite {z s : State} (h : Keeps z s) (x0 : Ses) (x1 : Nat) : Keeps z (State.ctxWrite s x0 x1) := by
  unfold State.ctxWrite
  try dsimp only
  with_reducible repeat' first | assumption | apply keeps_hostWrite | apply Keeps.foldl | apply Keeps.ite | (simp only [Keeps.lit_iff]; apply KeepsLit.of <;> first | rfl | skip) | split | omega | dsimp only [id] | (intro)

theorem keeps_execLoadCmd {z s : State} (h : Keeps z s) (x0 : Ses) (x1 : Nat) (x2 : Nat) : OutKeeps z (execLoadCmd x0 x1 x2 s) := by
  unfold execLoadCmd
  try dsimp only
  with_reducible repeat' first | assumption | apply OutKeeps.next | apply keeps_ctxWrite | apply Keeps.foldl | apply Keeps.ite | (simp only [Keeps.lit_iff]; apply KeepsLit.of <;> first | rfl | skip) | split | omega | dsimp only [id] | (intro)

theorem keeps_execInstall {z s : State} (h : Keeps z s) (x0 : Ses) (x1 : Nat) (x2 : Nat) (x3 : Bool) : OutKeeps z (execInstall x0 x1 x2 x3 s) := by
  unfold execInstall
  try dsimp only
  with_reducible repeat' first | assumption | apply OutKeeps.next | apply keeps_ctxWrite | apply Keeps.foldl | apply Keeps.ite | (simp only [Keeps.lit_iff]; apply KeepsLit.of <;> first | rfl | skip) | split | omega | dsimp only [id] | (intro)

theorem keeps_execEclose {z s : State} (h : Keeps z s) (x0 : Ses) (x1 : Nat) (x2 : Nat) : OutKeeps z (execEclose x0 x1 x2 s) := by
  unfold execEclose
  try dsimp only
  with_reducible repeat' first | assumption | apply OutKeeps.next | apply keeps_ctxWrite | apply Keeps.foldl | apply Keeps.ite | (simp only [Keeps.lit_iff]; apply KeepsLit.of <;> first | rfl | skip) | split | omega | dsimp only [id] | (intro)

theorem keeps_execAbort {z s : State} (h : Keeps z s) (x0 : Ses) (x1 : Nat) : OutKeeps z (execAbort x0 x1 s) := by
  unfold execAbort
  try dsimp only
  with_reducible repeat' first | assumption | apply OutKeeps.next | apply keeps_ctxWrite | apply Keeps.foldl | apply Keeps.ite | (simp only [Keeps.lit_iff]; apply KeepsLit.of <;> first | rfl | skip) | split | omega | dsimp only [id] | (intro)

theorem keeps_execStart {z s : State} (h : Keeps z s) (x0 : Ses) (x1 : Nat) : OutKeeps z (execStart x0 x1 s) := by
  unfold execStart
  try dsimp only
  with_reducible repeat' first | assumption | apply OutKeeps.next | apply keeps_ctxWrite | apply Keeps.foldl | apply Keeps.ite | (simp only [Keeps.lit_iff]; apply KeepsLit.of <;> first | rfl | skip) | split | omega | dsimp only [id] | (intro)

theorem keeps_execStop {z s : State} (h : Keeps z s) (x0 : Ses) (x1 : Nat) : OutKeeps z (execStop x0 x1 s) := by
  unfold execStop
  try dsimp only
  with_reducible repeat' first | assumption | apply OutKeeps.next | apply keeps_ctxWrite | apply Keeps.foldl | apply Keeps.ite | (simp only [Keeps.lit_iff]; apply KeepsLit.of <;> first | rfl | skip) | split | omega | dsimp only [id] | (intro)

theorem keeps_execUnload {z s : State} (h : Keeps z s) (x0 : Ses) (x1 : Nat) : OutKeeps z (execUnload x0 x1 s) := by
  unfold execUnload
  try dsimp only
  with_reducible repeat' first | assumption | apply OutKeeps.next | apply keeps_ctxWrite | apply Keeps.foldl | apply Keeps.ite | (simp only [Keeps.lit_iff]; apply KeepsLit.of <;> first | rfl | skip) | split | omega | dsimp only [id] | (intro)

theorem keeps_execForceStart {z s : State} (h : Keeps z s) (x0 : Ses) (x1 : Nat) : OutKeeps z (execForceStart x0 x1 s) := by
  unfold execForceStart
  try dsimp only
  with_reducible repeat' first | assumption | apply OutKeeps.next | apply keeps_ctxWrite | apply Keeps.foldl | apply Keeps.ite | (simp only [Keeps.lit_iff]; apply KeepsLit.of <;> first | rfl | skip) | split | omega | dsimp only [id] | (intro)

theorem keeps_execBlockReady {z s : State} (h : Keeps z s) (x0 : Ses) (x1 : Nat) : OutKeeps z (execBlockReady x0 x1 s) := by
  unfold execBlockReady
  try dsimp only
  with_reducible repeat' first | assumption | apply OutKeeps.next | apply keeps_hostWrite | apply Keeps.foldl | apply Keeps.ite | (simp only [Keeps.lit_iff]; apply KeepsLit.of <;> first | rfl | skip) | split | omega | dsimp only [id] | (intro)

theorem keeps_execRetireEngine {z s : State} (h : Keeps z s) (x0 : Ses) (x1 : Nat) (x2 : Nat) : OutKeeps z (execRetireEngine x0 x1 x2 s) := by
  unfold execRetireEngine
  try dsimp only
  with_reducible repeat' first | assumption | apply OutKeeps.next | apply keeps_hostWrite | apply Keeps.foldl | apply Keeps.ite | (simp only [Keeps.lit_iff]; apply KeepsLit.of <;> first | rfl | skip) | split | omega | dsimp only [id] | (intro)

theorem keeps_execRetireColumn {z s : State} (h : Keeps z s) (x0 : Ses) (x1 : Nat) (x2 : Nat) (x3 : Nat) : OutKeeps z (execRetireColumn x0 x1 x2 x3 s) := by
  unfold execRetireColumn
  try dsimp only
  with_reducible repeat' first | assumption | apply OutKeeps.next | apply keeps_hostWrite | apply Keeps.foldl | apply Keeps.ite | (simp only [Keeps.lit_iff]; apply KeepsLit.of <;> first | rfl | skip) | split | omega | dsimp only [id] | (intro)

theorem keeps_execSurveyNow {z s : State} (h : Keeps z s) (x0 : Ses) (x1 : Nat) (x2 : Nat) : OutKeeps z (execSurveyNow x0 x1 x2 s) := by
  unfold execSurveyNow
  try dsimp only
  with_reducible repeat' first | assumption | apply OutKeeps.next | apply keeps_hostWrite | apply Keeps.foldl | apply Keeps.ite | (simp only [Keeps.lit_iff]; apply KeepsLit.of <;> first | rfl | skip) | split | omega | dsimp only [id] | (intro)

theorem keeps_execDefEntry {z s : State} (h : Keeps z s) (x0 : Ses) : OutKeeps z (execDefEntry x0 s) := by
  unfold execDefEntry
  try dsimp only
  with_reducible repeat' first | assumption | apply OutKeeps.next | apply keeps_hostRead | apply Keeps.foldl | apply Keeps.ite | (simp only [Keeps.lit_iff]; apply KeepsLit.of <;> first | rfl | skip) | split | omega | dsimp only [id] | (intro)

theorem keeps_execCoreReplace {z s : State} (h : Keeps z s) (x0 : Ses) (x1 : Nat) : OutKeeps z (execCoreReplace x0 x1 s) := by
  unfold execCoreReplace
  try dsimp only
  with_reducible repeat' first | assumption | apply OutKeeps.next | apply keeps_hostWrite | apply Keeps.foldl | apply Keeps.ite | (simp only [Keeps.lit_iff]; apply KeepsLit.of <;> first | rfl | skip) | split | omega | dsimp only [id] | (intro)

theorem keeps_execMirrorCmdHandover {z s : State} (h : Keeps z s) (x0 : Ses) : OutKeeps z (execMirrorCmdHandover x0 s) := by
  unfold execMirrorCmdHandover
  try dsimp only
  with_reducible repeat' first | assumption | apply OutKeeps.next | apply keeps_hostWrite | apply Keeps.foldl | apply Keeps.ite | (simp only [Keeps.lit_iff]; apply KeepsLit.of <;> first | rfl | skip) | split | omega | dsimp only [id] | (intro)

theorem keeps_execMirrorCmdTakeover {z s : State} (h : Keeps z s) (x0 : Ses) : OutKeeps z (execMirrorCmdTakeover x0 s) := by
  unfold execMirrorCmdTakeover
  try dsimp only
  with_reducible repeat' first | assumption | apply OutKeeps.next | apply keeps_hostWrite | apply Keeps.foldl | apply Keeps.ite | (simp only [Keeps.lit_iff]; apply KeepsLit.of <;> first | rfl | skip) | split | omega | dsimp only [id] | (intro)

theorem keeps_execStepReq {z s : State} (h : Keeps z s) (x0 : Ses) (x1 : Int) : OutKeeps z (execStepReq x0 x1 s) := by
  unfold execStepReq
  try dsimp only
  with_reducible repeat' first | assumption | apply OutKeeps.next | apply keeps_hostWrite | apply Keeps.foldl | apply Keeps.ite | (simp only [Keeps.lit_iff]; apply KeepsLit.of <;> first | rfl | skip) | split | omega | dsimp only [id] | (intro)

theorem keeps_execRingCtrl {z s : State} (h : Keeps z s) (x0 : Ses) (x1 : Nat) (x2 : Nat) : OutKeeps z (execRingCtrl x0 x1 x2 s) := by
  unfold execRingCtrl
  try dsimp only
  with_reducible repeat' first | assumption | apply OutKeeps.next | apply keeps_hostWrite | apply Keeps.foldl | apply Keeps.ite | (simp only [Keeps.lit_iff]; apply KeepsLit.of <;> first | rfl | skip) | split | omega | dsimp only [id] | (intro)

theorem keeps_execDacWrite {z s : State} (h : Keeps z s) (x0 : Ses) (x1 : Nat) (x2 : Nat) : OutKeeps z (execDacWrite x0 x1 x2 s) := by
  unfold execDacWrite
  try dsimp only
  with_reducible repeat' first | assumption | apply OutKeeps.next | apply keeps_hostWrite | apply Keeps.foldl | apply Keeps.ite | (simp only [Keeps.lit_iff]; apply KeepsLit.of <;> first | rfl | skip) | split | omega | dsimp only [id] | (intro)

theorem keeps_execDacRelease {z s : State} (h : Keeps z s) (x0 : Ses) (x1 : Nat) : OutKeeps z (execDacRelease x0 x1 s) := by
  unfold execDacRelease
  try dsimp only
  with_reducible repeat' first | assumption | apply OutKeeps.next | apply keeps_hostWrite | apply Keeps.foldl | apply Keeps.ite | (simp only [Keeps.lit_iff]; apply KeepsLit.of <;> first | rfl | skip) | split | omega | dsimp only [id] | (intro)

theorem keeps_execDacEnterFault {z s : State} (h : Keeps z s) (x0 : Ses) (x1 : Nat) : OutKeeps z (execDacEnterFault x0 x1 s) := by
  unfold execDacEnterFault
  try dsimp only
  with_reducible repeat' first | assumption | apply OutKeeps.next | apply keeps_hostWrite | apply Keeps.foldl | apply Keeps.ite | (simp only [Keeps.lit_iff]; apply KeepsLit.of <;> first | rfl | skip) | split | omega | dsimp only [id] | (intro)

theorem keeps_execTripCmd {z s : State} (h : Keeps z s) (x0 : Ses) (x1 : Nat) : OutKeeps z (execTripCmd x0 x1 s) := by
  unfold execTripCmd
  try dsimp only
  with_reducible repeat' first | assumption | apply OutKeeps.next | apply keeps_hostWrite | apply Keeps.foldl | apply Keeps.ite | (simp only [Keeps.lit_iff]; apply KeepsLit.of <;> first | rfl | skip) | split | omega | dsimp only [id] | (intro)

theorem keeps_execFaultCauseWrite {z s : State} (h : Keeps z s) (x0 : Ses) (x1 : Nat) : OutKeeps z (execFaultCauseWrite x0 x1 s) := by
  unfold execFaultCauseWrite
  try dsimp only
  with_reducible repeat' first | assumption | apply OutKeeps.next | apply keeps_hostWrite | apply Keeps.foldl | apply Keeps.ite | (simp only [Keeps.lit_iff]; apply KeepsLit.of <;> first | rfl | skip) | split | omega | dsimp only [id] | (intro)

theorem keeps_execCalRestore {z s : State} (h : Keeps z s) (x0 : Ses) (x1 : Nat) : OutKeeps z (execCalRestore x0 x1 s) := by
  unfold execCalRestore
  try dsimp only
  with_reducible repeat' first | assumption | apply OutKeeps.next | apply keeps_hostWrite | apply Keeps.foldl | apply Keeps.ite | (simp only [Keeps.lit_iff]; apply KeepsLit.of <;> first | rfl | skip) | split | omega | dsimp only [id] | (intro)

theorem keeps_execFwLoad {z s : State} (h : Keeps z s) (x0 : Ses) : OutKeeps z (execFwLoad x0 s) := by
  unfold execFwLoad
  try dsimp only
  with_reducible repeat' first | assumption | apply OutKeeps.next | apply keeps_hostWrite | apply Keeps.foldl | apply Keeps.ite | (simp only [Keeps.lit_iff]; apply KeepsLit.of <;> first | rfl | skip) | split | omega | dsimp only [id] | (intro)

theorem keeps_execFwSwitch {z s : State} (h : Keeps z s) (x0 : Ses) : OutKeeps z (execFwSwitch x0 s) := by
  unfold execFwSwitch
  try dsimp only
  with_reducible repeat' first | assumption | apply OutKeeps.next | apply keeps_hostWrite | apply Keeps.foldl | apply Keeps.ite | (simp only [Keeps.lit_iff]; apply KeepsLit.of <;> first | rfl | skip) | split | omega | dsimp only [id] | (intro)

theorem keeps_execRestoreDefaults {z s : State} (h : Keeps z s) (x0 : Ses) : OutKeeps z (execRestoreDefaults x0 s) := by
  unfold execRestoreDefaults
  try dsimp only
  with_reducible repeat' first | assumption | apply OutKeeps.next | apply keeps_hostWrite | apply Keeps.foldl | apply Keeps.ite | (simp only [Keeps.lit_iff]; apply KeepsLit.of <;> first | rfl | skip) | split | omega | dsimp only [id] | (intro)

theorem keeps_execWatch {z s : State} (h : Keeps z s) (x0 : Ses) : OutKeeps z (execWatch x0 s) := by
  unfold execWatch
  try dsimp only
  with_reducible repeat' first | assumption | apply OutKeeps.next | apply keeps_hostWrite | apply Keeps.foldl | apply Keeps.ite | (simp only [Keeps.lit_iff]; apply KeepsLit.of <;> first | rfl | skip) | split | omega | dsimp only [id] | (intro)

theorem keeps_execDiesDown {z s : State} (h : Keeps z s) (x0 : Ses) : OutKeeps z (execDiesDown x0 s) := by
  unfold execDiesDown
  try dsimp only
  with_reducible repeat' first | assumption | apply OutKeeps.next | apply keeps_hostWrite | apply Keeps.foldl | apply Keeps.ite | (simp only [Keeps.lit_iff]; apply KeepsLit.of <;> first | rfl | skip) | split | omega | dsimp only [id] | (intro)

theorem keeps_execDiesUp {z s : State} (h : Keeps z s) (x0 : Ses) : OutKeeps z (execDiesUp x0 s) := by
  unfold execDiesUp
  try dsimp only
  with_reducible repeat' first | assumption | apply OutKeeps.next | apply keeps_hostWrite | apply Keeps.foldl | apply Keeps.ite | (simp only [Keeps.lit_iff]; apply KeepsLit.of <;> first | rfl | skip) | split | omega | dsimp only [id] | (intro)

theorem keeps_execResetCmdModule {z s : State} (h : Keeps z s) (x0 : Ses) : OutKeeps z (execResetCmdModule x0 s) := by
  unfold execResetCmdModule
  try dsimp only
  with_reducible repeat' first | assumption | apply OutKeeps.next | apply keeps_hostWrite | apply Keeps.foldl | apply Keeps.ite | (simp only [Keeps.lit_iff]; apply KeepsLit.of <;> first | rfl | skip) | split | omega | dsimp only [id] | (intro)

theorem keeps_execResetCmdDie {z s : State} (h : Keeps z s) (x0 : Ses) (x1 : Nat) : OutKeeps z (execResetCmdDie x0 x1 s) := by
  unfold execResetCmdDie
  try dsimp only
  with_reducible repeat' first | assumption | apply OutKeeps.next | apply keeps_hostWrite | apply Keeps.foldl | apply Keeps.ite | (simp only [Keeps.lit_iff]; apply KeepsLit.of <;> first | rfl | skip) | split | omega | dsimp only [id] | (intro)

theorem keeps_execResetCmdCore {z s : State} (h : Keeps z s) (x0 : Ses) (x1 : Nat) : OutKeeps z (execResetCmdCore x0 x1 s) := by
  unfold execResetCmdCore
  try dsimp only
  with_reducible repeat' first | assumption | apply OutKeeps.next | apply keeps_hostWrite | apply Keeps.foldl | apply Keeps.ite | (simp only [Keeps.lit_iff]; apply KeepsLit.of <;> first | rfl | skip) | split | omega | dsimp only [id] | (intro)

theorem keeps_execAshFreeze {z s : State} (h : Keeps z s) (x0 : Ses) : OutKeeps z (execAshFreeze x0 s) := by
  unfold execAshFreeze
  try dsimp only
  with_reducible repeat' first | assumption | apply OutKeeps.next | apply keeps_hostWrite | apply Keeps.foldl | apply Keeps.ite | (simp only [Keeps.lit_iff]; apply KeepsLit.of <;> first | rfl | skip) | split | omega | dsimp only [id] | (intro)

theorem keeps_execAshUnfreeze {z s : State} (h : Keeps z s) (x0 : Ses) : OutKeeps z (execAshUnfreeze x0 s) := by
  unfold execAshUnfreeze
  try dsimp only
  with_reducible repeat' first | assumption | apply OutKeeps.next | apply keeps_hostWrite | apply Keeps.foldl | apply Keeps.ite | (simp only [Keeps.lit_iff]; apply KeepsLit.of <;> first | rfl | skip) | split | omega | dsimp only [id] | (intro)

theorem keeps_execClearChal {z s : State} (h : Keeps z s) (x0 : Ses) : OutKeeps z (execClearChal x0 s) := by
  unfold execClearChal
  try dsimp only
  with_reducible repeat' first | assumption | apply OutKeeps.next | apply keeps_hostRead | apply Keeps.foldl | apply Keeps.ite | (simp only [Keeps.lit_iff]; apply KeepsLit.of <;> first | rfl | skip) | split | omega | dsimp only [id] | (intro)

theorem keeps_execAshClear {z s : State} (h : Keeps z s) (x0 : Ses) (x1 : Nat) (x2 : List Byte) : OutKeeps z (execAshClear x0 x1 x2 s) := by
  unfold execAshClear
  try dsimp only
  with_reducible repeat' first | assumption | apply OutKeeps.next | apply keeps_hostWrite | apply Keeps.foldl | apply Keeps.ite | (simp only [Keeps.lit_iff]; apply KeepsLit.of <;> first | rfl | skip) | split | omega | dsimp only [id] | (intro)

end Sys2Proof.Machine
end

