-- ==== Sys2Proof/Laws/HostWrite.lean ====
section
/-! SUPPORT. A session's write of one object: little-endian numbers, the rows of the objects the commands write, and what a write
that passes every check does. -/

namespace Sys2Proof.Machine

@[simp] theorem length_toLE (n v : Nat) : (toLE n v).length = n := by
  induction n generalizing v with
  | zero => rfl
  | succ n ih => simp [toLE, ih]

/-- A number written in n bytes reads back modulo 256^n. -/
@[simp] theorem fromLE_toLE (n v : Nat) : fromLE (toLE n v) = v % 256 ^ n := by
  induction n generalizing v with
  | zero => simp [toLE, fromLE, Nat.mod_one]
  | succ n ih =>
    simp only [toLE, fromLE, ih, BitVec.toNat_ofNat]
    rw [show 256 ^ (n + 1) = 256 * 256 ^ n by rw [Nat.pow_succ, Nat.mul_comm], Nat.mod_mul]

theorem State.row_setCmd (s : State) : s.row 0x2100 1 = some (woObj 4 0) := rfl
theorem State.row_authSlot (s : State) : s.row 0x2B00 2 = some { woObj 1 0 with lo := 0, hi := 7 } := rfl
theorem State.row_authResponse (s : State) : s.row 0x2B00 4 = some (woObj 32 0) := rfl
theorem State.row_authDrop (s : State) : s.row 0x2B00 5 = some (woObj 1 0) := rfl
theorem State.row_keyWrite (s : State) : s.row 0x2B02 1 = some { woObj 34 2 with persist := true } := rfl
theorem State.row_masterRelease (s : State) : s.row 0x2B00 7 = some (woObj 4 2) := rfl
theorem State.row_ctxCmd (s : State) : s.row 0x2600 1 = some (woObj 8 1) := rfl
theorem State.row_blockReady (s : State) : s.row 0x2720 2 = some (woObj 4 2) := rfl
theorem State.row_retireEngine (s : State) : s.row 0x2802 1 = some (woObj 4 2) := rfl
theorem State.row_retireColumn (s : State) : s.row 0x2802 2 = some (woObj 4 2) := rfl
theorem State.row_surveyNow (s : State) : s.row 0x2802 3 = some (woObj 4 2) := rfl
theorem State.row_defEntry (s : State) : s.row 0x2810 4 = some (roObj 8 0) := rfl
theorem State.row_coreReplace (s : State) : s.row 0x2C10 1 = some (woObj 2 2) := rfl
theorem State.row_mirrorCmd (s : State) : s.row 0x2D00 11 = some { woObj 1 1 with lo := 1, hi := 2 } := rfl
theorem State.row_stepReq (s : State) : s.row 0x2300 9 = some { woObj 8 2 with signed := true, lo := -(2 ^ 63), hi := 2 ^ 63 - 1 } := rfl
theorem State.row_faultCause (s : State) : s.row 0x2560 1 = some ((bitObj 2 0x3F 1).direct.level 1) := rfl
theorem State.row_calRestore (s : State) : s.row 0x2900 2 = some (woObj 4 2) := rfl
theorem State.row_fwCmd (s : State) : s.row 0x2B80 5 = some { woObj 1 2 with lo := 1, hi := 3 } := rfl
theorem State.row_powerCmd (s : State) : s.row 0x2200 4 = some (woObj 1 2) := rfl
theorem State.row_resetCmd (s : State) : s.row 0x2200 11 = some (woObj 4 2) := rfl
theorem State.row_ashFreeze (s : State) : s.row 0x2A00 1 = some ((boolObj false).direct.level 1) := rfl
theorem State.row_clearChal (s : State) : s.row 0x2A00 11 = some (roObj 32 0) := rfl
theorem State.row_ashClear (s : State) : s.row 0x2A00 12 = some (woObj 33 2) := rfl

theorem State.row_ringCtrl (s : State) {r : Nat} (h : r < 16) : s.row (ringIdx r) 2 = some ((bitObj 1 3 0).direct.level 1) := by
  interval_cases r <;> rfl
theorem State.row_dacCode (s : State) {ch : Nat} (h : ch < 16) : s.row (dacIdx ch) 16 = some (woObj 2 1) := by
  interval_cases ch <;> rfl
theorem State.row_dacCmd (s : State) {ch : Nat} (h : ch < 16) : s.row (dacIdx ch) 18 = some { woObj 1 1 with lo := 1, hi := 2 } := by
  interval_cases ch <;> rfl
theorem State.row_tripCmd (s : State) {n : Nat} (h : n < 32) : s.row (tripIdx n) 7 = some { woObj 1 1 with lo := 1, hi := 1 } := by
  interval_cases n <;> rfl

/-- What a session's write answers once its object has been written. -/
theorem State.hostWrite_of {s t : State} {ses idx sub a : Nat} {data : List Byte} (hr : s.reachable ses = true) (hs : s.serves = true)
    (hw : s.odWrite ses idx sub data = (a, t)) :
    s.hostWrite ses idx sub data = (if ses = 0 ∧ a ≠ 0 then (t.giveReply ses ⟨a, []⟩).refusedBy (!s.longObject idx sub) idx sub a
      else t.giveReply ses ⟨a, []⟩) := by
  unfold State.hostWrite State.writeBy State.writeObject
  simp [hr, hs, hw]

/-- An accepted write. -/
theorem State.hostWrite_done {s t : State} {ses idx sub : Nat} {data : List Byte} (hr : s.reachable ses = true) (hs : s.serves = true)
    (hw : s.odWrite ses idx sub data = (0, t)) : s.hostWrite ses idx sub data = t.giveReply ses ⟨0, []⟩ := by
  rw [State.hostWrite_of hr hs hw]; simp

/-- A write of an object that is no setting, past every check of R275. -/
theorem State.odWrite_direct {s : State} {ses idx sub : Nat} {data : List Byte} {r : OdRow} (hrow : s.row idx sub = some r)
    (hacc : r.acc ≠ .ro) (hp : s.needPriv idx sub (fromLE data) r ≤ (s.session ses).level) (hl : r.lengthOk data.length = true)
    (ho : ownWrite idx sub = false) (hset : r.set = false) (hsz : r.size ≠ 0) (ha : s.stateAllows idx sub (fromLE data) = true)
    (hi : s.inRange idx sub (fromLE data) r = true) (hm : s.mappingAbort idx sub (fromLE data) = 0) (hk : s.keepBad idx sub r = false) :
    s.odWrite ses idx sub data = (0, s.writeDirect ses idx sub (Nat.land (fromLE data) r.mask)) := by
  unfold ownWrite at ho
  simp only [Bool.or_eq_false_iff, Bool.and_eq_false_iff, beq_eq_false_iff_ne, ne_eq] at ho
  obtain ⟨⟨⟨h1, h2⟩, h3⟩, h4⟩ := ho
  unfold State.odWrite State.writeChecked
  rw [hrow]
  have n2 : ¬ (idx = 0x2B00 ∧ sub = 2) := by rintro ⟨a, b⟩; simp [a, b] at h2
  have n4 : ¬ (idx = 0x2B00 ∧ sub = 4) := by rintro ⟨a, b⟩; simp [a, b] at h2
  have n5 : ¬ (idx = 0x2B00 ∧ sub = 5) := by rintro ⟨a, b⟩; simp [a, b] at h2
  have n1 : ¬ (idx = 0x2100 ∧ sub = 1) := by rintro ⟨a, b⟩; simp [a, b] at h1
  have n12 : ¬ (idx = 0x2A00 ∧ sub = 12) := by rintro ⟨a, b⟩; simp [a, b] at h4
  simp [hacc, Nat.not_lt.mpr hp, hl, n1, n2, n4, n5, h3, n12, hset, hsz, ha, hi, hm, hk]

/-- Past every check, a setting goes to the shadow. -/
theorem State.odWrite_setting {s : State} {ses idx sub : Nat} {data : List Byte} {r : OdRow} (hrow : s.row idx sub = some r)
    (hacc : r.acc ≠ .ro) (hp : s.needPriv idx sub (fromLE data) r ≤ (s.session ses).level) (hl : r.lengthOk data.length = true)
    (ho : ownWrite idx sub = false) (hset : r.set = true) (hc : s.claimedByOther ses = false) (hst : s.sets.state = 0) (hsz : r.size ≠ 0)
    (ha : s.stateAllows idx sub (fromLE data) = true)
    (hi : s.inRange idx sub (fromLE data) r = true) (hm : s.mappingAbort idx sub (fromLE data) = 0) :
    s.odWrite ses idx sub data = (0, s.writeSetting ses idx sub (fromLE data) r) := by
  unfold ownWrite at ho
  simp only [Bool.or_eq_false_iff, Bool.and_eq_false_iff, beq_eq_false_iff_ne, ne_eq] at ho
  obtain ⟨⟨⟨h1, h2⟩, h3⟩, h4⟩ := ho
  unfold State.odWrite State.writeChecked
  rw [hrow]
  have n2 : ¬ (idx = 0x2B00 ∧ sub = 2) := by rintro ⟨a, b⟩; simp [a, b] at h2
  have n4 : ¬ (idx = 0x2B00 ∧ sub = 4) := by rintro ⟨a, b⟩; simp [a, b] at h2
  have n5 : ¬ (idx = 0x2B00 ∧ sub = 5) := by rintro ⟨a, b⟩; simp [a, b] at h2
  have n1 : ¬ (idx = 0x2100 ∧ sub = 1) := by rintro ⟨a, b⟩; simp [a, b] at h1
  have n12 : ¬ (idx = 0x2A00 ∧ sub = 12) := by rintro ⟨a, b⟩; simp [a, b] at h4
  simp [hacc, Nat.not_lt.mpr hp, hl, n1, n2, n4, n5, h3, n12, hset, hsz, ha, hi, hm, hc, hst]

/-- A full mask leaves a number of its width as it is. -/
theorem land_full {n v : Nat} (h : v < 2 ^ n) : Nat.land v (2 ^ n - 1) = v := by
  show v &&& (2 ^ n - 1) = v
  rw [Nat.and_two_pow_sub_one_eq_mod, Nat.mod_eq_of_lt h]

/-- A CTX_CMD that may be given runs. -/
theorem State.ctxWrite_done {s : State} {ses v : Nat} (hr : s.reachable ses = true) (hs : s.serves = true) (hv : v < 2 ^ 64)
    (hp : ctxPriv v ≤ (s.session ses).level) (h1 : 1 ≤ field v 0 8) (h8 : field v 0 8 ≤ 8) (hw : ¬ (field v 0 8 = 3 ∧ field v 15 2 = 3)) :
    s.ctxWrite ses v = (s.ctxCommand v).giveReply ses ⟨0, []⟩ := by
  unfold State.ctxWrite
  have hle : fromLE (toLE 8 v) = v := by rw [fromLE_toLE]; exact Nat.mod_eq_of_lt (by norm_num at hv ⊢; exact hv)
  have hw' : s.odWrite ses 0x2600 1 (toLE 8 v) = (0, s.ctxCommand v) := by
    rw [State.odWrite_direct (r := woObj 8 1) (State.row_ctxCmd s) (by decide) (by simpa [hle, State.needPriv] using hp)
      (by simp [OdRow.lengthOk, woObj, roObj]) (by rfl) rfl (by decide) (by rfl) ?_ (by rfl) (by rfl)]
    · rw [hle, show (woObj 8 1).mask = 2 ^ 64 - 1 from rfl, land_full hv]; rfl
    · rw [hle]
      unfold State.inRange State.fieldsOk State.stepOk OdRow.number
      rw [show (woObj 8 1).mask = 2 ^ 64 - 1 from rfl, land_full hv]
      have : (v : Int) ≤ 18446744073709551616 := by norm_num at hv; omega
      have hw3 := not_and_or.mp hw
      simpa [woObj, roObj, h1, h8, this] using hw3
  exact State.hostWrite_done hr hs hw'

end Sys2Proof.Machine
end

