-- ==== Sys2Proof/Laws/ContextCommands.lean ====
section
/-! SUPPORT. The eight context commands of a session: whose code CTX_CMD gets, and what a refusal for want of a level answers. -/

namespace Sys2Proof.Machine

/-- A command of a context in progress, other than ABORT, answers BUSY; else it runs. -/
def State.unlessBusy (s : State) (x cmd : Nat) (t : State) : State := if (s.ctx x).cmd ≠ 0 then s.setStatus resBusy x cmd else t

/-- The fields of a CTX_CMD word. -/
theorem ctxWord_fields {cmd x : Nat} (hc : cmd < 256) (hx : x < 64) (up : Nat) :
    field (ctxWord cmd x + up * 2 ^ 14) 0 8 = cmd ∧ field (ctxWord cmd x + up * 2 ^ 14) 8 6 = x ∧
      (ctxWord cmd x + up * 2 ^ 14) / 2 ^ 14 = up := by
  unfold field ctxWord
  refine ⟨by omega, by omega, by omega⟩

theorem ctxPriv_eq (v : Nat) : ctxPriv v = if field v 0 8 = 1 ∨ field v 0 8 = 2 ∨ field v 0 8 = 4 ∨ field v 0 8 = 7 ∨ field v 0 8 = 8 then 2 else 1 := rfl

/-- A CTX_CMD of a session that does not hold the level. -/
theorem State.ctxWrite_low {s : State} {ses v : Nat} (hr : s.reachable ses = true) (hs : s.serves = true) (hv : v < 2 ^ 64)
    (hp : (s.session ses).level < ctxPriv v) : s.ctxWrite ses v = s.refuse ses 0x2600 1 0x06010000 := by
  have hle : fromLE (toLE 8 v) = v := by rw [fromLE_toLE]; exact Nat.mod_eq_of_lt (by norm_num at hv ⊢; exact hv)
  have : s.odWrite ses 0x2600 1 (toLE 8 v) = (0x06010000, s) := by
    unfold State.odWrite
    rw [State.row_ctxCmd]
    simp [woObj, roObj, State.needPriv, hle, hp]
  unfold State.ctxWrite
  rw [State.hostWrite_of hr hs this]
  unfold State.refuse; by_cases h : ses = 0 <;> simp [h]

/-- A CTX_CMD word of a session that holds its level. -/
theorem State.ctxWrite_word {s : State} {ses x cmd up : Nat} (hr : s.reachable ses = true) (hs : s.serves = true) (h1 : 1 ≤ cmd) (h8 : cmd ≤ 8)
    (hx : x < 64) (hu : up < 16) (hw : ¬ (cmd = 3 ∧ up / 2 % 4 = 3))
    (hl : (if cmd = 1 ∨ cmd = 2 ∨ cmd = 4 ∨ cmd = 7 ∨ cmd = 8 then 2 else 1) ≤ (s.session ses).level) :
    s.ctxWrite ses (ctxWord cmd x + up * 2 ^ 14) = (s.ctxCommand (ctxWord cmd x + up * 2 ^ 14)).giveReply ses ⟨0, []⟩ := by
  obtain ⟨a, b, c⟩ := ctxWord_fields (by omega : cmd < 256) hx up
  refine State.ctxWrite_done hr hs (by unfold ctxWord; omega) ?_ (by omega) (by omega) ?_
  · rw [ctxPriv_eq, a]; exact hl
  · rw [a]
    rintro ⟨h, k⟩
    refine hw ⟨h, ?_⟩
    unfold field ctxWord at k
    omega

variable {s : State} {ses x : Nat}

theorem State.execLoadCmd_done (h : Served s ses 2) (hx : x < 64) {src : Nat} (hsrc : src < 2) :
    execLoadCmd ses x src s = .next ((s.unlessBusy x 1 (s.cmdLoad x src)).giveReply ses ⟨0, []⟩) := by
  obtain ⟨a, b, c⟩ := ctxWord_fields (by omega : 1 < 256) hx src
  have f : field (ctxWord 1 x + src * 2 ^ 14) 14 1 = src := by unfold field; rw [c]; omega
  unfold execLoadCmd
  rw [State.ctxWrite_word h.1 h.2.1 (by omega) (by omega) hx (by omega) (by omega) (by simpa using h.2.2)]
  simp only [State.ctxCommand, State.unlessBusy, a, b, f]
  split <;> simp_all

theorem autoBit {src : Nat} (hsrc : src < 2) (auto : Bool) : decide ((src + boolNat auto * 8) / 8 % 2 = 1) = auto := by
  interval_cases src <;> cases auto <;> rfl

theorem State.execInstall_done (h : Served s ses 2) (hx : x < 64) {src : Nat} (hsrc : src < 2) (auto : Bool) :
    execInstall ses x src auto s = .next ((s.unlessBusy x 2 (s.cmdInstall x src auto)).giveReply ses ⟨0, []⟩) := by
  have hb : boolNat auto < 2 := by cases auto <;> decide
  have e : ctxWord 2 x + src * 2 ^ 14 + boolNat auto * 2 ^ 17 = ctxWord 2 x + (src + boolNat auto * 8) * 2 ^ 14 := by ring
  obtain ⟨a, b, c⟩ := ctxWord_fields (by omega : 2 < 256) hx (src + boolNat auto * 8)
  have f : field (ctxWord 2 x + (src + boolNat auto * 8) * 2 ^ 14) 14 1 = src := by unfold field; rw [c]; omega
  have g : bit (ctxWord 2 x + (src + boolNat auto * 8) * 2 ^ 14) 17 = auto := by
    unfold bit
    rw [Nat.testBit_eq_decide_div_mod_eq, show 2 ^ 17 = 2 ^ 14 * 8 by norm_num, ← Nat.div_div_eq_div_mul, c]
    exact autoBit hsrc auto
  unfold execInstall
  rw [e, State.ctxWrite_word h.1 h.2.1 (by omega) (by omega) hx (by omega) (by omega) (by simpa using h.2.2)]
  simp only [State.ctxCommand, State.unlessBusy, a, b, f, g]
  split <;> simp_all

theorem State.execEclose_done (h : Served s ses 1) (hx : x < 64) {w : Nat} (hw : w < 3) :
    execEclose ses x w s = .next ((s.unlessBusy x 3 (s.cmdEclose x w)).giveReply ses ⟨0, []⟩) := by
  have e : ctxWord 3 x + w * 2 ^ 15 = ctxWord 3 x + (2 * w) * 2 ^ 14 := by ring
  obtain ⟨a, b, c⟩ := ctxWord_fields (by omega : 3 < 256) hx (2 * w)
  have f : field (ctxWord 3 x + (2 * w) * 2 ^ 14) 15 2 = w := by
    unfold field
    rw [show 2 ^ 15 = 2 ^ 14 * 2 by norm_num, ← Nat.div_div_eq_div_mul, c]; omega
  unfold execEclose
  rw [e, State.ctxWrite_word h.1 h.2.1 (by omega) (by omega) hx (by omega) (by omega) (by simpa using h.2.2)]
  simp only [State.ctxCommand, State.unlessBusy, a, b, f]
  split <;> simp_all

/-- The commands without operands beside the context. -/
theorem State.execPlain_done {cmd lvl : Nat} (h : Served s ses lvl) (hx : x < 64) (h1 : 1 ≤ cmd) (h8 : cmd ≤ 8) (_ : cmd ≠ 3)
    (hl : lvl = if cmd = 1 ∨ cmd = 2 ∨ cmd = 4 ∨ cmd = 7 ∨ cmd = 8 then 2 else 1) :
    s.ctxWrite ses (ctxWord cmd x) = (s.ctxCommand (ctxWord cmd x)).giveReply ses ⟨0, []⟩ ∧ field (ctxWord cmd x) 0 8 = cmd ∧
      field (ctxWord cmd x) 8 6 = x := by
  have e : ctxWord cmd x = ctxWord cmd x + 0 * 2 ^ 14 := by ring
  obtain ⟨a, b, -⟩ := ctxWord_fields (by omega : cmd < 256) hx 0
  rw [← e] at a b
  refine ⟨?_, a, b⟩
  have := State.ctxWrite_word (up := 0) h.1 h.2.1 h1 h8 hx (by omega) (by omega) (hl ▸ h.2.2)
  rwa [← e] at this

theorem State.execAbort_done (h : Served s ses 2) (hx : x < 64) :
    execAbort ses x s = .next ((s.cmdAbort x).giveReply ses ⟨0, []⟩) := by
  obtain ⟨a, b, c⟩ := State.execPlain_done (cmd := 4) h hx (by omega) (by omega) (by omega) rfl
  unfold execAbort
  rw [a]
  simp [State.ctxCommand, b, c]

theorem State.execStart_done (h : Served s ses 1) (hx : x < 64) :
    execStart ses x s = .next ((s.unlessBusy x 5 (s.cmdStart x)).giveReply ses ⟨0, []⟩) := by
  obtain ⟨a, b, c⟩ := State.execPlain_done (cmd := 5) h hx (by omega) (by omega) (by omega) rfl
  unfold execStart
  rw [a]
  simp only [State.ctxCommand, State.unlessBusy, b, c]
  split <;> simp_all

theorem State.execStop_done (h : Served s ses 1) (hx : x < 64) :
    execStop ses x s = .next ((s.unlessBusy x 6 (s.cmdStop x)).giveReply ses ⟨0, []⟩) := by
  obtain ⟨a, b, c⟩ := State.execPlain_done (cmd := 6) h hx (by omega) (by omega) (by omega) rfl
  unfold execStop
  rw [a]
  simp only [State.ctxCommand, State.unlessBusy, b, c]
  split <;> simp_all

theorem State.execUnload_done (h : Served s ses 2) (hx : x < 64) :
    execUnload ses x s = .next ((s.unlessBusy x 7 (s.cmdUnload x)).giveReply ses ⟨0, []⟩) := by
  obtain ⟨a, b, c⟩ := State.execPlain_done (cmd := 7) h hx (by omega) (by omega) (by omega) rfl
  unfold execUnload
  rw [a]
  simp only [State.ctxCommand, State.unlessBusy, b, c]
  split <;> simp_all

theorem State.execForceStart_done (h : Served s ses 2) (hx : x < 64) :
    execForceStart ses x s = .next ((s.unlessBusy x 8 (s.cmdForce x)).giveReply ses ⟨0, []⟩) := by
  obtain ⟨a, b, c⟩ := State.execPlain_done (cmd := 8) h hx (by omega) (by omega) (by omega) rfl
  unfold execForceStart
  rw [a]
  simp only [State.ctxCommand, State.unlessBusy, b, c]
  split <;> simp_all

end Sys2Proof.Machine
end

