-- ==== Sys2Proof/Laws/Host.lean ====
section
/-! SUPPORT. What the operations of Machine/Host.lean keep (Laws/Keeps.lean), one lemma for each. -/

set_option linter.unusedTactic false
set_option linter.unreachableTactic false
set_option linter.unusedSimpArgs false

namespace Sys2Proof.Machine

theorem keeps_pcieData {z s : State} (h : Keeps z s) (x0 : Option (List Byte)) : Keeps z (State.pcieData s x0) := by
  unfold State.pcieData
  try dsimp only
  with_reducible repeat' first | assumption | apply Keeps.foldl | apply Keeps.ite | (simp only [Keeps.lit_iff]; apply KeepsLit.of <;> first | rfl | skip) | split | omega | dsimp only [id] | (intro)

theorem keeps_bar0Write {z s : State} (h : Keeps z s) (x0 : Nat) (x1 : Nat) (x2 : Nat) (x3 : Nat) (x4 : Nat) : Keeps z (State.bar0Write s x0 x1 x2 x3 x4) := by
  unfold State.bar0Write
  try dsimp only
  with_reducible repeat' first | assumption | apply keeps_writeBy | apply Keeps.foldl | apply Keeps.ite | (simp only [Keeps.lit_iff]; apply KeepsLit.of <;> first | rfl | skip) | split | omega | dsimp only [id] | (intro)

theorem keeps_bar0Read {z s : State} (h : Keeps z s) (x0 : Nat) (x1 : Nat) (x2 : Nat) (x3 : Nat) : Keeps z (State.bar0Read s x0 x1 x2 x3) := by
  unfold State.bar0Read
  try dsimp only
  with_reducible repeat' first | assumption | apply keeps_pcieData | apply keeps_readObject | apply keeps_giveReply | apply keeps_badAccess | apply Keeps.foldl | apply Keeps.ite | (simp only [Keeps.lit_iff]; apply KeepsLit.of <;> first | rfl | skip) | refine keeps_readObject_of (by assumption) ?_ | split | omega | dsimp only [id] | (intro)

theorem keeps_bar0 {z s : State} (h : Keeps z s) (x0 : Bool) (x1 : Nat) (x2 : Nat) (x3 : Nat) : Keeps z (State.bar0 s x0 x1 x2 x3) := by
  unfold State.bar0
  try dsimp only
  with_reducible repeat' first | assumption | apply keeps_bar0Write | apply keeps_bar0Read | apply Keeps.foldl | apply Keeps.ite | (simp only [Keeps.lit_iff]; apply KeepsLit.of <;> first | rfl | skip) | split | omega | dsimp only [id] | (intro)

theorem keeps_execBar0Access {z s : State} (h : Keeps z s) (x0 : Bool) (x1 : Nat) (x2 : Nat) (x3 : Nat) : OutKeeps z (execBar0Access x0 x1 x2 x3 s) := by
  unfold execBar0Access
  try dsimp only
  with_reducible repeat' first | assumption | apply OutKeeps.next | apply keeps_bar0 | apply Keeps.foldl | apply Keeps.ite | (simp only [Keeps.lit_iff]; apply KeepsLit.of <;> first | rfl | skip) | split | omega | dsimp only [id] | (intro)

theorem keeps_bar2 {z s : State} (h : Keeps z s) (x0 : Bool) (x1 : Nat) (x2 : Nat) (x3 : List Byte) : Keeps z (State.bar2 s x0 x1 x2 x3) := by
  unfold State.bar2
  try dsimp only
  with_reducible repeat' first | assumption | apply keeps_masterWrite | apply keeps_pcieData | apply keeps_freezeMaster | apply Keeps.foldl | apply Keeps.ite | (simp only [Keeps.lit_iff]; apply KeepsLit.of <;> first | rfl | skip) | split | omega | dsimp only [id] | (intro)

theorem keeps_execBar2Access {z s : State} (h : Keeps z s) (x0 : Bool) (x1 : Nat) (x2 : Nat) (x3 : List Byte) : OutKeeps z (execBar2Access x0 x1 x2 x3 s) := by
  unfold execBar2Access
  try dsimp only
  with_reducible repeat' first | assumption | apply OutKeeps.next | apply keeps_bar2 | apply Keeps.foldl | apply Keeps.ite | (simp only [Keeps.lit_iff]; apply KeepsLit.of <;> first | rfl | skip) | split | omega | dsimp only [id] | (intro)

theorem keeps_readAbort {z s : State} (h : Keeps z s) : Keeps z (State.readAbort s) := by
  unfold State.readAbort
  try dsimp only
  with_reducible repeat' first | assumption | apply keeps_pcieData | apply Keeps.foldl | apply Keeps.ite | (simp only [Keeps.lit_iff]; apply KeepsLit.of <;> first | rfl | skip) | split | omega | dsimp only [id] | (intro)

theorem keeps_execOdAbort {z s : State} (h : Keeps z s) : OutKeeps z (execOdAbort s) := by
  unfold execOdAbort
  try dsimp only
  with_reducible repeat' first | assumption | apply OutKeeps.next | apply keeps_readAbort | apply Keeps.foldl | apply Keeps.ite | (simp only [Keeps.lit_iff]; apply KeepsLit.of <;> first | rfl | skip) | split | omega | dsimp only [id] | (intro)

theorem keeps_longSelect {z s : State} (h : Keeps z s) (x0 : Nat) (x1 : Nat) : Keeps z (State.longSelect s x0 x1) := by
  unfold State.longSelect
  try dsimp only
  with_reducible repeat' first | assumption | apply Keeps.foldl | apply Keeps.ite | (simp only [Keeps.lit_iff]; apply KeepsLit.of <;> first | rfl | skip) | split | omega | dsimp only [id] | (intro)

theorem keeps_longDead {z s : State} (h : Keeps z s) : Keeps z (State.longDead s) := by
  unfold State.longDead
  try dsimp only
  with_reducible repeat' first | assumption | apply Keeps.foldl | apply Keeps.ite | (simp only [Keeps.lit_iff]; apply KeepsLit.of <;> first | rfl | skip) | split | omega | dsimp only [id] | (intro)

theorem keeps_longReadNow {z s : State} (h : Keeps z s) (x0 : Nat) (x1 : Nat) : Keeps z (State.longReadNow s x0 x1) := by
  unfold State.longReadNow
  try dsimp only
  with_reducible repeat' first | assumption | apply keeps_longSelect | apply keeps_longDead | apply keeps_readObject | apply keeps_giveReply | apply keeps_latchAbort | apply Keeps.foldl | apply Keeps.ite | (simp only [Keeps.lit_iff]; apply KeepsLit.of <;> first | rfl | skip) | refine keeps_readObject_of (by assumption) ?_ | split | omega | dsimp only [id] | (intro)

theorem keeps_execLongRead {z s : State} (h : Keeps z s) (x0 : Nat) (x1 : Nat) : OutKeeps z (execLongRead x0 x1 s) := by
  unfold execLongRead
  try dsimp only
  with_reducible repeat' first | assumption | apply OutKeeps.next | apply keeps_longReadNow | apply Keeps.foldl | apply Keeps.ite | (simp only [Keeps.lit_iff]; apply KeepsLit.of <;> first | rfl | skip) | split | omega | dsimp only [id] | (intro)

theorem keeps_longWriteNow {z s : State} (h : Keeps z s) (x0 : Nat) (x1 : Nat) (x2 : List Byte) : Keeps z (State.longWriteNow s x0 x1 x2) := by
  unfold State.longWriteNow
  try dsimp only
  with_reducible repeat' first | assumption | apply keeps_longSelect | apply keeps_crossingDrop | apply keeps_writeObject | apply keeps_giveReply | apply keeps_latchAbort | apply Keeps.foldl | apply Keeps.ite | (simp only [Keeps.lit_iff]; apply KeepsLit.of <;> first | rfl | skip) | refine keeps_writeObject_of (by assumption) ?_ | split | omega | dsimp only [id] | (intro)

theorem keeps_execLongWrite {z s : State} (h : Keeps z s) (x0 : Nat) (x1 : Nat) (x2 : List Byte) : OutKeeps z (execLongWrite x0 x1 x2 s) := by
  unfold execLongWrite
  try dsimp only
  with_reducible repeat' first | assumption | apply OutKeeps.next | apply keeps_longWriteNow | apply Keeps.foldl | apply Keeps.ite | (simp only [Keeps.lit_iff]; apply KeepsLit.of <;> first | rfl | skip) | split | omega | dsimp only [id] | (intro)

theorem keeps_dmaStart {z s : State} (h : Keeps z s) (x0 : Nat) (x1 : Nat) (x2 : Nat) (x3 : Nat) : Keeps z (State.dmaStart s x0 x1 x2 x3) := by
  unfold State.dmaStart
  try dsimp only
  with_reducible repeat' first | assumption | apply keeps_setDma | apply Keeps.foldl | apply Keeps.ite | (simp only [Keeps.lit_iff]; apply KeepsLit.of <;> first | rfl | skip) | split | omega | dsimp only [id] | (intro)

theorem keeps_execDmaTail {z s : State} (h : Keeps z s) (x0 : Nat) (x1 : Nat) (x2 : Nat) (x3 : Nat) : OutKeeps z (execDmaTail x0 x1 x2 x3 s) := by
  unfold execDmaTail
  try dsimp only
  with_reducible repeat' first | assumption | apply OutKeeps.next | apply keeps_dmaStart | apply Keeps.foldl | apply Keeps.ite | (simp only [Keeps.lit_iff]; apply KeepsLit.of <;> first | rfl | skip) | split | omega | dsimp only [id] | (intro)

theorem keeps_dmaWon {z s : State} (h : Keeps z s) (x0 : Nat) : Keeps z (State.dmaWon s x0) := by
  unfold State.dmaWon
  try dsimp only
  with_reducible repeat' first | assumption | apply keeps_setDma | apply Keeps.foldl | apply Keeps.ite | (simp only [Keeps.lit_iff]; apply KeepsLit.of <;> first | rfl | skip) | split | omega | dsimp only [id] | (intro)

theorem keeps_dmaHold {z s : State} (h : Keeps z s) (x0 : Nat) (x1 : HeldReq) : Keeps z (State.dmaHold s x0 x1) := by
  unfold State.dmaHold
  try dsimp only
  with_reducible repeat' first | assumption | apply keeps_hold | apply keeps_dmaSkip | apply Keeps.foldl | apply Keeps.ite | (simp only [Keeps.lit_iff]; apply KeepsLit.of <;> first | rfl | skip) | split | omega | dsimp only [id] | (intro)

theorem keeps_dmaRun {z s : State} (h : Keeps z s) (x0 : Nat) (x1 : List Byte) (x2 : List Byte) (x3 : Bool) : Keeps z (State.dmaRun s x0 x1 x2 x3) := by
  unfold State.dmaRun
  try dsimp only
  with_reducible repeat' first | assumption | apply keeps_dmaHold | apply keeps_dmaWon | apply keeps_freezeMaster | apply keeps_dmaDone | apply keeps_dmaIn | apply keeps_hubPoison | apply keeps_pcieData | apply Keeps.foldl | apply Keeps.ite | (simp only [Keeps.lit_iff]; apply KeepsLit.of <;> first | rfl | skip) | split | omega | dsimp only [id] | (intro)

theorem keeps_execDmaDescriptor {z s : State} (h : Keeps z s) (x0 : Nat) (x1 : List Byte) (x2 : List Byte) (x3 : Bool) : OutKeeps z (execDmaDescriptor x0 x1 x2 x3 s) := by
  unfold execDmaDescriptor
  try dsimp only
  with_reducible repeat' first | assumption | apply OutKeeps.next | apply keeps_dmaRun | apply Keeps.foldl | apply Keeps.ite | (simp only [Keeps.lit_iff]; apply KeepsLit.of <;> first | rfl | skip) | split | omega | dsimp only [id] | (intro)

theorem keeps_calWrite {z s : State} (h : Keeps z s) (x0 : Ses) (x1 : Nat) (x2 : List Byte) : Keeps z (State.calWrite s x0 x1 x2) := by
  unfold State.calWrite
  try dsimp only
  with_reducible repeat' first | assumption | apply keeps_masterWrite | apply Keeps.foldl | apply Keeps.ite | (simp only [Keeps.lit_iff]; apply KeepsLit.of <;> first | rfl | skip) | split | omega | dsimp only [id] | (intro)

theorem keeps_execCalWrite {z s : State} (h : Keeps z s) (x0 : Ses) (x1 : Nat) (x2 : List Byte) : OutKeeps z (execCalWrite x0 x1 x2 s) := by
  unfold execCalWrite
  try dsimp only
  with_reducible repeat' first | assumption | apply OutKeeps.next | apply keeps_calWrite | apply Keeps.foldl | apply Keeps.ite | (simp only [Keeps.lit_iff]; apply KeepsLit.of <;> first | rfl | skip) | split | omega | dsimp only [id] | (intro)

theorem keeps_ecatAnswer {z s : State} (h : Keeps z s) (x0 : Reply) : Keeps z (State.ecatAnswer s x0) := by
  unfold State.ecatAnswer
  try dsimp only
  with_reducible repeat' first | assumption | apply keeps_giveReply | apply Keeps.foldl | apply Keeps.ite | (simp only [Keeps.lit_iff]; apply KeepsLit.of <;> first | rfl | skip) | split | omega | dsimp only [id] | (intro)

theorem keeps_readMany {z s : State} (h : Keeps z s) (x0 : Sys2Proof.Ses) (x1 : Nat) (x2 : List Nat) : Keeps z (State.readMany s x0 x1 x2).2 := by
  induction x2 generalizing s x0 x1 with
  | nil =>
    unfold State.readMany
    try dsimp only
    with_reducible repeat' first | assumption
  | cons y t ih =>
    unfold State.readMany
    try dsimp only
    with_reducible repeat' first | assumption | apply ih | apply keeps_readObject | apply Keeps.foldl | apply Keeps.ite | refine keeps_readObject_of (by assumption) ?_ | split

theorem keeps_readMany_of {z s t : State} {x0 : Sys2Proof.Ses} {x1 : Nat} {x2 : List Nat} {v} (e : State.readMany s x0 x1 x2 = (v, t)) (h : Keeps z s) : Keeps z t := by
  have k := keeps_readMany h x0 x1 x2
  rw [e] at k
  exact k

theorem keeps_writeMany {z s : State} (h : Keeps z s) (x0 : Sys2Proof.Ses) (x1 : Nat) (x2 : Nat) (x3 : List (List Sys2Proof.Byte)) : Keeps z (State.writeMany s x0 x1 x2 x3).2 := by
  induction x3 generalizing s x0 x1 x2 with
  | nil =>
    unfold State.writeMany
    try dsimp only
    with_reducible repeat' first | assumption
  | cons y t ih =>
    unfold State.writeMany
    try dsimp only
    with_reducible repeat' first | assumption | apply ih | apply keeps_writeObject | apply Keeps.foldl | apply Keeps.ite | refine keeps_writeObject_of (by assumption) ?_ | split

theorem keeps_writeMany_of {z s t : State} {x0 : Sys2Proof.Ses} {x1 : Nat} {x2 : Nat} {x3 : List (List Sys2Proof.Byte)} {v} (e : State.writeMany s x0 x1 x2 x3 = (v, t)) (h : Keeps z s) : Keeps z t := by
  have k := keeps_writeMany h x0 x1 x2 x3
  rw [e] at k
  exact k

theorem keeps_readComplete {z s : State} (h : Keeps z s) (x0 : Nat) (x1 : Nat) : Keeps z (State.readComplete s x0 x1).2 := by
  unfold State.readComplete
  try dsimp only
  with_reducible repeat' first | assumption | apply keeps_readMany | apply Keeps.foldl | apply Keeps.ite | (simp only [Keeps.lit_iff]; apply KeepsLit.of <;> first | rfl | skip) | refine keeps_readMany_of (by assumption) ?_ | split | omega | dsimp only [id] | (intro)

theorem keeps_readComplete_of {z s t : State} {x0 : Nat} {x1 : Nat} {v} (e : State.readComplete s x0 x1 = (v, t)) (h : Keeps z s) : Keeps z t := by
  have k := keeps_readComplete h x0 x1
  rw [e] at k
  exact k

theorem keeps_writeComplete {z s : State} (h : Keeps z s) (x0 : Nat) (x1 : Nat) (x2 : List (List Byte)) : Keeps z (State.writeComplete s x0 x1 x2).2 := by
  unfold State.writeComplete
  try dsimp only
  with_reducible repeat' first | assumption | apply keeps_writeMany | apply Keeps.foldl | apply Keeps.ite | (simp only [Keeps.lit_iff]; apply KeepsLit.of <;> first | rfl | skip) | refine keeps_writeMany_of (by assumption) ?_ | split | omega | dsimp only [id] | (intro)

theorem keeps_writeComplete_of {z s t : State} {x0 : Nat} {x1 : Nat} {x2 : List (List Byte)} {v} (e : State.writeComplete s x0 x1 x2 = (v, t)) (h : Keeps z s) : Keeps z t := by
  have k := keeps_writeComplete h x0 x1 x2
  rw [e] at k
  exact k

theorem keeps_mailbox {z s : State} (h : Keeps z s) (x0 : MailReq) : Keeps z (State.mailbox s x0) := by
  unfold State.mailbox
  try dsimp only
  with_reducible repeat' first | assumption | apply keeps_hostRead | apply keeps_hostWrite | apply keeps_readComplete | apply keeps_ecatAnswer | apply keeps_writeComplete | apply Keeps.foldl | apply Keeps.ite | (simp only [Keeps.lit_iff]; apply KeepsLit.of <;> first | rfl | skip) | refine keeps_readComplete_of (by assumption) ?_ | refine keeps_writeComplete_of (by assumption) ?_ | split | omega | dsimp only [id] | (intro)

theorem keeps_execMailboxRequest {z s : State} (h : Keeps z s) (x0 : MailReq) : OutKeeps z (execMailboxRequest x0 s) := by
  unfold execMailboxRequest
  try dsimp only
  with_reducible repeat' first | assumption | apply OutKeeps.next | apply keeps_mailbox | apply Keeps.foldl | apply Keeps.ite | (simp only [Keeps.lit_iff]; apply KeepsLit.of <;> first | rfl | skip) | split | omega | dsimp only [id] | (intro)

theorem keeps_alRequest {z s : State} (h : Keeps z s) (x0 : Nat) : Keeps z (State.alRequest s x0) := by
  unfold State.alRequest
  refine Keeps.ite (fun _ => h) (fun _ => ?_)
  split
  · exact Keeps.lit h rfl rfl rfl rfl rfl rfl rfl rfl rfl
  · next hal =>
    have k : Keeps z { s with ecat := { s.ecat with al := x0, alStatus := 0 } } := by
      refine Keeps.litModes h rfl rfl rfl rfl (fun w => ?_) rfl
      simp only [State.modesOk, Bool.and_eq_true, decide_eq_true_eq] at w ⊢
      refine ⟨⟨⟨?_, w.1.1.2⟩, w.1.2⟩, w.2⟩
      have h1 := w.1.1.1
      simp only [List.contains_eq_mem, List.mem_cons, List.not_mem_nil, or_false, decide_eq_true_eq] at h1 ⊢
      have h2 : alOrder s.ecat.al ≤ 3 := by rcases h1 with h1 | h1 | h1 | h1 <;> rw [h1] <;> decide
      have h3 : alOrder x0 ≤ 4 := by omega
      clear hal h1 h2 w
      unfold alOrder at h3
      split at h3 <;> first | decide | omega
    exact Keeps.ite (fun _ => keeps_modSession k _ _) (fun _ => k)

theorem keeps_execAlStateRequest {z s : State} (h : Keeps z s) (x0 : Nat) : OutKeeps z (execAlStateRequest x0 s) := by
  unfold execAlStateRequest
  try dsimp only
  with_reducible repeat' first | assumption | apply OutKeeps.next | apply keeps_alRequest | apply Keeps.foldl | apply Keeps.ite | (simp only [Keeps.lit_iff]; apply KeepsLit.of <;> first | rfl | skip) | split | omega | dsimp only [id] | (intro)

theorem keeps_pdoSnapshot {z s : State} (h : Keeps z s) : Keeps z (State.pdoSnapshot s) := by
  unfold State.pdoSnapshot
  try dsimp only
  with_reducible repeat' first | assumption | apply keeps_odRead | apply Keeps.foldl | apply Keeps.ite | (simp only [Keeps.lit_iff]; apply KeepsLit.of <;> first | rfl | skip) | refine keeps_odRead_of (by assumption) ?_ | split | omega | dsimp only [id] | (intro)

theorem keeps_execPdoSnapshot {z s : State} (h : Keeps z s) : OutKeeps z (execPdoSnapshot s) := by
  unfold execPdoSnapshot
  try dsimp only
  with_reducible repeat' first | assumption | apply OutKeeps.next | apply keeps_pdoSnapshot | apply Keeps.foldl | apply Keeps.ite | (simp only [Keeps.lit_iff]; apply KeepsLit.of <;> first | rfl | skip) | split | omega | dsimp only [id] | (intro)

theorem keeps_rxApply {z s : State} (h : Keeps z s) (x0 : Nat) (x1 : Nat) (x2 : Nat) : Keeps z (State.rxApply s x0 x1 x2) := by
  unfold State.rxApply
  try dsimp only
  with_reducible repeat' first | assumption | apply keeps_dacCode | apply keeps_rxWord | apply Keeps.foldl | apply Keeps.ite | (simp only [Keeps.lit_iff]; apply KeepsLit.of <;> first | rfl | skip) | split | omega | dsimp only [id] | (intro)

theorem keeps_rxpdoApply {z s : State} (h : Keeps z s) (x0 : List Nat) : Keeps z (State.rxpdoApply s x0) := by
  unfold State.rxpdoApply
  try dsimp only
  with_reducible repeat' first | assumption | apply keeps_rxApply | apply Keeps.foldl | apply Keeps.ite | (simp only [Keeps.lit_iff]; apply KeepsLit.of <;> first | rfl | skip) | split | omega | dsimp only [id] | (intro)

theorem keeps_execRxpdoApply {z s : State} (h : Keeps z s) (x0 : List Nat) : OutKeeps z (execRxpdoApply x0 s) := by
  unfold execRxpdoApply
  try dsimp only
  with_reducible repeat' first | assumption | apply OutKeeps.next | apply keeps_rxpdoApply | apply Keeps.foldl | apply Keeps.ite | (simp only [Keeps.lit_iff]; apply KeepsLit.of <;> first | rfl | skip) | split | omega | dsimp only [id] | (intro)

theorem keeps_udpDrop {z s : State} (h : Keeps z s) (x0 : Nat) : Keeps z (State.udpDrop s x0) := by
  unfold State.udpDrop
  try dsimp only
  with_reducible repeat' first | assumption | apply keeps_bump | apply Keeps.foldl | apply Keeps.ite | (simp only [Keeps.lit_iff]; apply KeepsLit.of <;> first | rfl | skip) | split | omega | dsimp only [id] | (intro)

theorem keeps_execMalformedMessage {z s : State} (h : Keeps z s) (x0 : Nat) : OutKeeps z (execMalformedMessage x0 s) := by
  unfold execMalformedMessage
  try dsimp only
  with_reducible repeat' first | assumption | apply OutKeeps.next | apply keeps_udpDrop | apply Keeps.foldl | apply Keeps.ite | (simp only [Keeps.lit_iff]; apply KeepsLit.of <;> first | rfl | skip) | split | omega | dsimp only [id] | (intro)

theorem keeps_udpOpen {z s : State} (h : Keeps z s) (x0 : Nat) (x1 : Nat) : Keeps z (State.udpOpen s x0 x1) := by
  unfold State.udpOpen
  try dsimp only
  with_reducible repeat' first | assumption | apply keeps_sendUdp | apply keeps_modSession | apply Keeps.foldl | apply Keeps.ite | (simp only [Keeps.lit_iff]; apply KeepsLit.of <;> first | rfl | skip) | split | omega | dsimp only [id] | (intro)

theorem keeps_execUdpOpen {z s : State} (h : Keeps z s) (x0 : UdpOpening) : OutKeeps z (execUdpOpen x0 s) := by
  unfold execUdpOpen
  try dsimp only
  with_reducible repeat' first | assumption | apply OutKeeps.next | apply keeps_udpOpen | apply Keeps.foldl | apply Keeps.ite | (simp only [Keeps.lit_iff]; apply KeepsLit.of <;> first | rfl | skip) | split | omega | dsimp only [id] | (intro)

theorem keeps_udpRequest {z s : State} (h : Keeps z s) (x0 : Nat) (x1 : UdpHdr) (x2 : UdpReq) (x3 : State → Option Reply × State) (hx3 : ∀ s, Keeps z s → Keeps z (x3 s).2) : Keeps z (State.udpRequest s x0 x1 x2 x3) := by
  unfold State.udpRequest
  try dsimp only
  with_reducible repeat' first | assumption | apply hx3 | apply keeps_udpDrop | apply keeps_modSession | apply keeps_sendUdp | apply keeps_udpAnswer | apply Keeps.foldl | apply Keeps.ite | (simp only [Keeps.lit_iff]; apply KeepsLit.of <;> first | rfl | skip) | split | omega | dsimp only [id] | (intro)

theorem keeps_udpClose {z s : State} (h : Keeps z s) (x0 : Nat) (x1 : UdpHdr) : Keeps z (State.udpClose s x0 x1) := by
  unfold State.udpClose
  try dsimp only
  with_reducible repeat' first | assumption | apply keeps_udpRequest | apply keeps_closeSession | apply Keeps.foldl | apply Keeps.ite | (simp only [Keeps.lit_iff]; apply KeepsLit.of <;> first | rfl | skip) | split | omega | dsimp only [id] | (intro)

theorem keeps_execUdpClose {z s : State} (h : Keeps z s) (x0 : Nat) (x1 : UdpHdr) : OutKeeps z (execUdpClose x0 x1 s) := by
  unfold execUdpClose
  try dsimp only
  with_reducible repeat' first | assumption | apply OutKeeps.next | apply keeps_udpClose | apply Keeps.foldl | apply Keeps.ite | (simp only [Keeps.lit_iff]; apply KeepsLit.of <;> first | rfl | skip) | split | omega | dsimp only [id] | (intro)

theorem keeps_udpRead {z s : State} (h : Keeps z s) (x0 : Nat) (x1 : UdpHdr) (x2 : Nat) (x3 : Nat) (x4 : Nat) : Keeps z (State.udpRead s x0 x1 x2 x3 x4) := by
  unfold State.udpRead
  try dsimp only
  with_reducible repeat' first | assumption | apply keeps_udpDrop | apply keeps_udpRequest | apply keeps_readMany | dsimp only [answered] | apply Keeps.foldl | apply Keeps.ite | (simp only [Keeps.lit_iff]; apply KeepsLit.of <;> first | rfl | skip) | refine keeps_readMany_of (by assumption) ?_ | split | omega | dsimp only [id] | (intro)

theorem keeps_execUdpRead {z s : State} (h : Keeps z s) (x0 : Nat) (x1 : UdpHdr) (x2 : Nat) (x3 : Nat) (x4 : Nat) : OutKeeps z (execUdpRead x0 x1 x2 x3 x4 s) := by
  unfold execUdpRead
  try dsimp only
  with_reducible repeat' first | assumption | apply OutKeeps.next | apply keeps_udpRead | apply Keeps.foldl | apply Keeps.ite | (simp only [Keeps.lit_iff]; apply KeepsLit.of <;> first | rfl | skip) | split | omega | dsimp only [id] | (intro)

theorem keeps_udpWrite {z s : State} (h : Keeps z s) (x0 : Nat) (x1 : UdpHdr) (x2 : Nat) (x3 : Nat) (x4 : List (List Byte)) : Keeps z (State.udpWrite s x0 x1 x2 x3 x4) := by
  unfold State.udpWrite
  try dsimp only
  with_reducible repeat' first | assumption | apply keeps_udpDrop | apply keeps_udpRequest | apply keeps_writeMany | apply Keeps.foldl | apply Keeps.ite | (simp only [Keeps.lit_iff]; apply KeepsLit.of <;> first | rfl | skip) | refine keeps_writeMany_of (by assumption) ?_ | split | omega | dsimp only [id] | (intro)

theorem keeps_execUdpWrite {z s : State} (h : Keeps z s) (x0 : Nat) (x1 : UdpHdr) (x2 : Nat) (x3 : Nat) (x4 : List (List Byte)) : OutKeeps z (execUdpWrite x0 x1 x2 x3 x4 s) := by
  unfold execUdpWrite
  try dsimp only
  with_reducible repeat' first | assumption | apply OutKeeps.next | apply keeps_udpWrite | apply Keeps.foldl | apply Keeps.ite | (simp only [Keeps.lit_iff]; apply KeepsLit.of <;> first | rfl | skip) | split | omega | dsimp only [id] | (intro)

theorem keeps_udpBegin {z s : State} (h : Keeps z s) (x0 : Nat) (x1 : Nat) : Keeps z (State.udpBegin s x0 x1).2 := by
  unfold State.udpBegin
  try dsimp only
  with_reducible repeat' first | assumption | apply keeps_beginAuth | apply Keeps.foldl | apply Keeps.ite | (simp only [Keeps.lit_iff]; apply KeepsLit.of <;> first | rfl | skip) | refine keeps_beginAuth_of (by assumption) ?_ | split | omega | dsimp only [id] | (intro)

theorem keeps_udpBegin_of {z s t : State} {x0 : Nat} {x1 : Nat} {v} (e : State.udpBegin s x0 x1 = (v, t)) (h : Keeps z s) : Keeps z t := by
  have k := keeps_udpBegin h x0 x1
  rw [e] at k
  exact k

theorem keeps_execAuthBegin {z s : State} (h : Keeps z s) (x0 : Nat) (x1 : UdpHdr) (x2 : Nat) : OutKeeps z (execAuthBegin x0 x1 x2 s) := by
  unfold execAuthBegin
  try dsimp only
  with_reducible repeat' first | assumption | apply OutKeeps.next | apply keeps_udpRequest | apply keeps_udpBegin | dsimp only [answered] | apply Keeps.foldl | apply Keeps.ite | (simp only [Keeps.lit_iff]; apply KeepsLit.of <;> first | rfl | skip) | refine keeps_udpBegin_of (by assumption) ?_ | split | omega | dsimp only [id] | (intro)

theorem keeps_execAuthProve {z s : State} (h : Keeps z s) (x0 : Nat) (x1 : UdpHdr) (x2 : List Byte) : OutKeeps z (execAuthProve x0 x1 x2 s) := by
  unfold execAuthProve
  try dsimp only
  with_reducible repeat' first | assumption | apply OutKeeps.next | apply keeps_udpRequest | apply keeps_respond | apply Keeps.foldl | apply Keeps.ite | (simp only [Keeps.lit_iff]; apply KeepsLit.of <;> first | rfl | skip) | refine keeps_respond_of (by assumption) ?_ | split | omega | dsimp only [id] | (intro)

theorem keeps_udpMem {z s : State} (h : Keeps z s) (x0 : Nat) (x1 : UdpHdr) (x2 : UdpReq) (x3 : Bool) (x4 : Nat) (x5 : Nat) (x6 : List Byte) : Keeps z (State.udpMem s x0 x1 x2 x3 x4 x5 x6).2 := by
  unfold State.udpMem
  try dsimp only
  with_reducible repeat' first | assumption | apply keeps_hold | apply keeps_freezeMaster | apply keeps_sysWriteAll | apply Keeps.foldl | apply Keeps.ite | (simp only [Keeps.lit_iff]; apply KeepsLit.of <;> first | rfl | skip) | split | omega | dsimp only [id] | (intro)

theorem keeps_udpMem_of {z s t : State} {x0 : Nat} {x1 : UdpHdr} {x2 : UdpReq} {x3 : Bool} {x4 : Nat} {x5 : Nat} {x6 : List Byte} {v} (e : State.udpMem s x0 x1 x2 x3 x4 x5 x6 = (v, t)) (h : Keeps z s) : Keeps z t := by
  have k := keeps_udpMem h x0 x1 x2 x3 x4 x5 x6
  rw [e] at k
  exact k

theorem keeps_udpMemory {z s : State} (h : Keeps z s) (x0 : Nat) (x1 : UdpHdr) (x2 : Bool) (x3 : Nat) (x4 : Nat) (x5 : List Byte) : Keeps z (State.udpMemory s x0 x1 x2 x3 x4 x5) := by
  unfold State.udpMemory
  try dsimp only
  with_reducible repeat' first | assumption | apply keeps_udpDrop | apply keeps_udpRequest | apply keeps_udpMem | apply Keeps.foldl | apply Keeps.ite | (simp only [Keeps.lit_iff]; apply KeepsLit.of <;> first | rfl | skip) | refine keeps_udpMem_of (by assumption) ?_ | split | omega | dsimp only [id] | (intro)

theorem keeps_execMemRead {z s : State} (h : Keeps z s) (x0 : Nat) (x1 : UdpHdr) (x2 : Nat) (x3 : Nat) : OutKeeps z (execMemRead x0 x1 x2 x3 s) := by
  unfold execMemRead
  try dsimp only
  with_reducible repeat' first | assumption | apply OutKeeps.next | apply keeps_udpMemory | apply Keeps.foldl | apply Keeps.ite | (simp only [Keeps.lit_iff]; apply KeepsLit.of <;> first | rfl | skip) | split | omega | dsimp only [id] | (intro)

theorem keeps_execMemWrite {z s : State} (h : Keeps z s) (x0 : Nat) (x1 : UdpHdr) (x2 : Nat) (x3 : List Byte) : OutKeeps z (execMemWrite x0 x1 x2 x3 s) := by
  unfold execMemWrite
  try dsimp only
  with_reducible repeat' first | assumption | apply OutKeeps.next | apply keeps_udpMemory | apply Keeps.foldl | apply Keeps.ite | (simp only [Keeps.lit_iff]; apply KeepsLit.of <;> first | rfl | skip) | split | omega | dsimp only [id] | (intro)

theorem keeps_execUdpKeepalive {z s : State} (h : Keeps z s) (x0 : Nat) (x1 : UdpHdr) : OutKeeps z (execUdpKeepalive x0 x1 s) := by
  unfold execUdpKeepalive
  try dsimp only
  with_reducible repeat' first | assumption | apply OutKeeps.next | apply keeps_udpRequest | apply Keeps.foldl | apply Keeps.ite | (simp only [Keeps.lit_iff]; apply KeepsLit.of <;> first | rfl | skip) | split | omega | dsimp only [id] | (intro)

theorem keeps_ethLink {z s : State} (h : Keeps z s) (x0 : Nat) (x1 : Bool) : Keeps z (State.ethLink s x0 x1) := by
  unfold State.ethLink
  try dsimp only
  with_reducible repeat' first | assumption | apply Keeps.foldl | apply Keeps.ite | (simp only [Keeps.lit_iff]; apply KeepsLit.of <;> first | rfl | skip) | split | omega | dsimp only [id] | (intro)

theorem keeps_execEthLinkState {z s : State} (h : Keeps z s) (x0 : Nat) (x1 : Bool) : OutKeeps z (execEthLinkState x0 x1 s) := by
  unfold execEthLinkState
  try dsimp only
  with_reducible repeat' first | assumption | apply OutKeeps.next | apply keeps_ethLink | apply Keeps.foldl | apply Keeps.ite | (simp only [Keeps.lit_iff]; apply KeepsLit.of <;> first | rfl | skip) | split | omega | dsimp only [id] | (intro)

theorem keeps_telemValues {z s : State} (h : Keeps z s) : Keeps z (State.telemValues s).2 := by
  unfold State.telemValues
  try dsimp only
  with_reducible repeat' first | assumption | apply keeps_txWord | apply Keeps.foldl_snd | apply Keeps.foldl | apply Keeps.ite | (simp only [Keeps.lit_iff]; apply KeepsLit.of <;> first | rfl | skip) | refine keeps_txWord_of (by assumption) ?_ | split | omega | dsimp only [id] | (intro)

theorem keeps_telemValues_of {z s t : State} {v} (e : State.telemValues s = (v, t)) (h : Keeps z s) : Keeps z t := by
  have k := keeps_telemValues h
  rw [e] at k
  exact k

theorem keeps_telemetry {z s : State} (h : Keeps z s) : Keeps z (State.telemetry s) := by
  unfold State.telemetry
  try dsimp only
  with_reducible repeat' first | assumption | apply keeps_telemValues | apply Keeps.foldl | apply Keeps.ite | (simp only [Keeps.lit_iff]; apply KeepsLit.of <;> first | rfl | skip) | refine keeps_telemValues_of (by assumption) ?_ | split | omega | dsimp only [id] | (intro)

theorem keeps_execTelemetryDatagram {z s : State} (h : Keeps z s) : OutKeeps z (execTelemetryDatagram s) := by
  unfold execTelemetryDatagram
  try dsimp only
  with_reducible repeat' first | assumption | apply OutKeeps.next | apply keeps_telemetry | apply Keeps.foldl | apply Keeps.ite | (simp only [Keeps.lit_iff]; apply KeepsLit.of <;> first | rfl | skip) | split | omega | dsimp only [id] | (intro)

end Sys2Proof.Machine
end

