-- ==== Sys2Proof/Laws/State.lean ====
section
/-! SUPPORT. Every field of the state after every shared update, and what the readers give after the writers. -/

namespace Sys2Proof.Machine

@[simp] theorem State.setCore_pending (s : State) (c : Nat) (k : Core) : (s.setCore c k).pending = s.pending := rfl
@[simp] theorem State.setCore_part (s : State) (c : Nat) (k : Core) : (s.setCore c k).part = s.part := rfl
@[simp] theorem State.setCore_mem (s : State) (c : Nat) (k : Core) : (s.setCore c k).mem = s.mem := rfl
@[simp] theorem State.setCore_cores (s : State) (c : Nat) (k : Core) : (s.setCore c k).cores = Tab.set s.cores c k := rfl
@[simp] theorem State.setCore_engines (s : State) (c : Nat) (k : Core) : (s.setCore c k).engines = s.engines := rfl
@[simp] theorem State.setCore_net (s : State) (c : Nat) (k : Core) : (s.setCore c k).net = s.net := rfl
@[simp] theorem State.setCore_ctxs (s : State) (c : Nat) (k : Core) : (s.setCore c k).ctxs = s.ctxs := rfl
@[simp] theorem State.setCore_cmdStatus (s : State) (c : Nat) (k : Core) : (s.setCore c k).cmdStatus = s.cmdStatus := rfl
@[simp] theorem State.setCore_ecloseTime (s : State) (c : Nat) (k : Core) : (s.setCore c k).ecloseTime = s.ecloseTime := rfl
@[simp] theorem State.setCore_ecloseMark (s : State) (c : Nat) (k : Core) : (s.setCore c k).ecloseMark = s.ecloseMark := rfl
@[simp] theorem State.setCore_fetch (s : State) (c : Nat) (k : Core) : (s.setCore c k).fetch = s.fetch := rfl
@[simp] theorem State.setCore_stage (s : State) (c : Nat) (k : Core) : (s.setCore c k).stage = s.stage := rfl
@[simp] theorem State.setCore_damper (s : State) (c : Nat) (k : Core) : (s.setCore c k).damper = s.damper := rfl
@[simp] theorem State.setCore_time (s : State) (c : Nat) (k : Core) : (s.setCore c k).time = s.time := rfl
@[simp] theorem State.setCore_trackers (s : State) (c : Nat) (k : Core) : (s.setCore c k).trackers = s.trackers := rfl
@[simp] theorem State.setCore_meas (s : State) (c : Nat) (k : Core) : (s.setCore c k).meas = s.meas := rfl
@[simp] theorem State.setCore_outs (s : State) (c : Nat) (k : Core) : (s.setCore c k).outs = s.outs := rfl
@[simp] theorem State.setCore_sets (s : State) (c : Nat) (k : Core) : (s.setCore c k).sets = s.sets := rfl
@[simp] theorem State.setCore_sessions (s : State) (c : Nat) (k : Core) : (s.setCore c k).sessions = s.sessions := rfl
@[simp] theorem State.setCore_masters (s : State) (c : Nat) (k : Core) : (s.setCore c k).masters = s.masters := rfl
@[simp] theorem State.setCore_keys (s : State) (c : Nat) (k : Core) : (s.setCore c k).keys = s.keys := rfl
@[simp] theorem State.setCore_pcie (s : State) (c : Nat) (k : Core) : (s.setCore c k).pcie = s.pcie := rfl
@[simp] theorem State.setCore_ecat (s : State) (c : Nat) (k : Core) : (s.setCore c k).ecat = s.ecat := rfl
@[simp] theorem State.setCore_links (s : State) (c : Nat) (k : Core) : (s.setCore c k).links = s.links := rfl
@[simp] theorem State.setCore_telem (s : State) (c : Nat) (k : Core) : (s.setCore c k).telem = s.telem := rfl
@[simp] theorem State.setCore_fw (s : State) (c : Nat) (k : Core) : (s.setCore c k).fw = s.fw := rfl
@[simp] theorem State.setCore_clk (s : State) (c : Nat) (k : Core) : (s.setCore c k).clk = s.clk := rfl
@[simp] theorem State.setCore_pwr (s : State) (c : Nat) (k : Core) : (s.setCore c k).pwr = s.pwr := rfl
@[simp] theorem State.setCore_svc (s : State) (c : Nat) (k : Core) : (s.setCore c k).svc = s.svc := rfl
@[simp] theorem State.setCore_defects (s : State) (c : Nat) (k : Core) : (s.setCore c k).defects = s.defects := rfl
@[simp] theorem State.setCore_ports (s : State) (c : Nat) (k : Core) : (s.setCore c k).ports = s.ports := rfl
@[simp] theorem State.setCore_mirror (s : State) (c : Nat) (k : Core) : (s.setCore c k).mirror = s.mirror := rfl
@[simp] theorem State.setCore_ash (s : State) (c : Nat) (k : Core) : (s.setCore c k).ash = s.ash := rfl
@[simp] theorem State.setCore_keep (s : State) (c : Nat) (k : Core) : (s.setCore c k).keep = s.keep := rfl
@[simp] theorem State.setCore_trims (s : State) (c : Nat) (k : Core) : (s.setCore c k).trims = s.trims := rfl
@[simp] theorem State.setCore_counters (s : State) (c : Nat) (k : Core) : (s.setCore c k).counters = s.counters := rfl
@[simp] theorem State.setCore_draws (s : State) (c : Nat) (k : Core) : (s.setCore c k).draws = s.draws := rfl

@[simp] theorem State.modCore_pending (s : State) (c : Nat) (f : Core → Core) : (s.modCore c f).pending = s.pending := rfl
@[simp] theorem State.modCore_part (s : State) (c : Nat) (f : Core → Core) : (s.modCore c f).part = s.part := rfl
@[simp] theorem State.modCore_mem (s : State) (c : Nat) (f : Core → Core) : (s.modCore c f).mem = s.mem := rfl
@[simp] theorem State.modCore_cores (s : State) (c : Nat) (f : Core → Core) : (s.modCore c f).cores = Tab.set s.cores c (f (s.core c)) := rfl
@[simp] theorem State.modCore_engines (s : State) (c : Nat) (f : Core → Core) : (s.modCore c f).engines = s.engines := rfl
@[simp] theorem State.modCore_net (s : State) (c : Nat) (f : Core → Core) : (s.modCore c f).net = s.net := rfl
@[simp] theorem State.modCore_ctxs (s : State) (c : Nat) (f : Core → Core) : (s.modCore c f).ctxs = s.ctxs := rfl
@[simp] theorem State.modCore_cmdStatus (s : State) (c : Nat) (f : Core → Core) : (s.modCore c f).cmdStatus = s.cmdStatus := rfl
@[simp] theorem State.modCore_ecloseTime (s : State) (c : Nat) (f : Core → Core) : (s.modCore c f).ecloseTime = s.ecloseTime := rfl
@[simp] theorem State.modCore_ecloseMark (s : State) (c : Nat) (f : Core → Core) : (s.modCore c f).ecloseMark = s.ecloseMark := rfl
@[simp] theorem State.modCore_fetch (s : State) (c : Nat) (f : Core → Core) : (s.modCore c f).fetch = s.fetch := rfl
@[simp] theorem State.modCore_stage (s : State) (c : Nat) (f : Core → Core) : (s.modCore c f).stage = s.stage := rfl
@[simp] theorem State.modCore_damper (s : State) (c : Nat) (f : Core → Core) : (s.modCore c f).damper = s.damper := rfl
@[simp] theorem State.modCore_time (s : State) (c : Nat) (f : Core → Core) : (s.modCore c f).time = s.time := rfl
@[simp] theorem State.modCore_trackers (s : State) (c : Nat) (f : Core → Core) : (s.modCore c f).trackers = s.trackers := rfl
@[simp] theorem State.modCore_meas (s : State) (c : Nat) (f : Core → Core) : (s.modCore c f).meas = s.meas := rfl
@[simp] theorem State.modCore_outs (s : State) (c : Nat) (f : Core → Core) : (s.modCore c f).outs = s.outs := rfl
@[simp] theorem State.modCore_sets (s : State) (c : Nat) (f : Core → Core) : (s.modCore c f).sets = s.sets := rfl
@[simp] theorem State.modCore_sessions (s : State) (c : Nat) (f : Core → Core) : (s.modCore c f).sessions = s.sessions := rfl
@[simp] theorem State.modCore_masters (s : State) (c : Nat) (f : Core → Core) : (s.modCore c f).masters = s.masters := rfl
@[simp] theorem State.modCore_keys (s : State) (c : Nat) (f : Core → Core) : (s.modCore c f).keys = s.keys := rfl
@[simp] theorem State.modCore_pcie (s : State) (c : Nat) (f : Core → Core) : (s.modCore c f).pcie = s.pcie := rfl
@[simp] theorem State.modCore_ecat (s : State) (c : Nat) (f : Core → Core) : (s.modCore c f).ecat = s.ecat := rfl
@[simp] theorem State.modCore_links (s : State) (c : Nat) (f : Core → Core) : (s.modCore c f).links = s.links := rfl
@[simp] theorem State.modCore_telem (s : State) (c : Nat) (f : Core → Core) : (s.modCore c f).telem = s.telem := rfl
@[simp] theorem State.modCore_fw (s : State) (c : Nat) (f : Core → Core) : (s.modCore c f).fw = s.fw := rfl
@[simp] theorem State.modCore_clk (s : State) (c : Nat) (f : Core → Core) : (s.modCore c f).clk = s.clk := rfl
@[simp] theorem State.modCore_pwr (s : State) (c : Nat) (f : Core → Core) : (s.modCore c f).pwr = s.pwr := rfl
@[simp] theorem State.modCore_svc (s : State) (c : Nat) (f : Core → Core) : (s.modCore c f).svc = s.svc := rfl
@[simp] theorem State.modCore_defects (s : State) (c : Nat) (f : Core → Core) : (s.modCore c f).defects = s.defects := rfl
@[simp] theorem State.modCore_ports (s : State) (c : Nat) (f : Core → Core) : (s.modCore c f).ports = s.ports := rfl
@[simp] theorem State.modCore_mirror (s : State) (c : Nat) (f : Core → Core) : (s.modCore c f).mirror = s.mirror := rfl
@[simp] theorem State.modCore_ash (s : State) (c : Nat) (f : Core → Core) : (s.modCore c f).ash = s.ash := rfl
@[simp] theorem State.modCore_keep (s : State) (c : Nat) (f : Core → Core) : (s.modCore c f).keep = s.keep := rfl
@[simp] theorem State.modCore_trims (s : State) (c : Nat) (f : Core → Core) : (s.modCore c f).trims = s.trims := rfl
@[simp] theorem State.modCore_counters (s : State) (c : Nat) (f : Core → Core) : (s.modCore c f).counters = s.counters := rfl
@[simp] theorem State.modCore_draws (s : State) (c : Nat) (f : Core → Core) : (s.modCore c f).draws = s.draws := rfl

@[simp] theorem State.setEng_pending (s : State) (c e : Nat) (g : Engine) : (s.setEng c e g).pending = s.pending := rfl
@[simp] theorem State.setEng_part (s : State) (c e : Nat) (g : Engine) : (s.setEng c e g).part = s.part := rfl
@[simp] theorem State.setEng_mem (s : State) (c e : Nat) (g : Engine) : (s.setEng c e g).mem = s.mem := rfl
@[simp] theorem State.setEng_cores (s : State) (c e : Nat) (g : Engine) : (s.setEng c e g).cores = s.cores := rfl
@[simp] theorem State.setEng_engines (s : State) (c e : Nat) (g : Engine) : (s.setEng c e g).engines = Tab.set s.engines (engKey c e) (g.since (s.eng c e)) := rfl
@[simp] theorem State.setEng_net (s : State) (c e : Nat) (g : Engine) : (s.setEng c e g).net = s.net := rfl
@[simp] theorem State.setEng_ctxs (s : State) (c e : Nat) (g : Engine) : (s.setEng c e g).ctxs = s.ctxs := rfl
@[simp] theorem State.setEng_cmdStatus (s : State) (c e : Nat) (g : Engine) : (s.setEng c e g).cmdStatus = s.cmdStatus := rfl
@[simp] theorem State.setEng_ecloseTime (s : State) (c e : Nat) (g : Engine) : (s.setEng c e g).ecloseTime = s.ecloseTime := rfl
@[simp] theorem State.setEng_ecloseMark (s : State) (c e : Nat) (g : Engine) : (s.setEng c e g).ecloseMark = s.ecloseMark := rfl
@[simp] theorem State.setEng_fetch (s : State) (c e : Nat) (g : Engine) : (s.setEng c e g).fetch = s.fetch := rfl
@[simp] theorem State.setEng_stage (s : State) (c e : Nat) (g : Engine) : (s.setEng c e g).stage = s.stage := rfl
@[simp] theorem State.setEng_damper (s : State) (c e : Nat) (g : Engine) : (s.setEng c e g).damper = s.damper := rfl
@[simp] theorem State.setEng_time (s : State) (c e : Nat) (g : Engine) : (s.setEng c e g).time = s.time := rfl
@[simp] theorem State.setEng_trackers (s : State) (c e : Nat) (g : Engine) : (s.setEng c e g).trackers = s.trackers := rfl
@[simp] theorem State.setEng_meas (s : State) (c e : Nat) (g : Engine) : (s.setEng c e g).meas = s.meas := rfl
@[simp] theorem State.setEng_outs (s : State) (c e : Nat) (g : Engine) : (s.setEng c e g).outs = s.outs := rfl
@[simp] theorem State.setEng_sets (s : State) (c e : Nat) (g : Engine) : (s.setEng c e g).sets = s.sets := rfl
@[simp] theorem State.setEng_sessions (s : State) (c e : Nat) (g : Engine) : (s.setEng c e g).sessions = s.sessions := rfl
@[simp] theorem State.setEng_masters (s : State) (c e : Nat) (g : Engine) : (s.setEng c e g).masters = s.masters := rfl
@[simp] theorem State.setEng_keys (s : State) (c e : Nat) (g : Engine) : (s.setEng c e g).keys = s.keys := rfl
@[simp] theorem State.setEng_pcie (s : State) (c e : Nat) (g : Engine) : (s.setEng c e g).pcie = s.pcie := rfl
@[simp] theorem State.setEng_ecat (s : State) (c e : Nat) (g : Engine) : (s.setEng c e g).ecat = s.ecat := rfl
@[simp] theorem State.setEng_links (s : State) (c e : Nat) (g : Engine) : (s.setEng c e g).links = s.links := rfl
@[simp] theorem State.setEng_telem (s : State) (c e : Nat) (g : Engine) : (s.setEng c e g).telem = s.telem := rfl
@[simp] theorem State.setEng_fw (s : State) (c e : Nat) (g : Engine) : (s.setEng c e g).fw = s.fw := rfl
@[simp] theorem State.setEng_clk (s : State) (c e : Nat) (g : Engine) : (s.setEng c e g).clk = s.clk := rfl
@[simp] theorem State.setEng_pwr (s : State) (c e : Nat) (g : Engine) : (s.setEng c e g).pwr = s.pwr := rfl
@[simp] theorem State.setEng_svc (s : State) (c e : Nat) (g : Engine) : (s.setEng c e g).svc = s.svc := rfl
@[simp] theorem State.setEng_defects (s : State) (c e : Nat) (g : Engine) : (s.setEng c e g).defects = s.defects := rfl
@[simp] theorem State.setEng_ports (s : State) (c e : Nat) (g : Engine) : (s.setEng c e g).ports = s.ports := rfl
@[simp] theorem State.setEng_mirror (s : State) (c e : Nat) (g : Engine) : (s.setEng c e g).mirror = s.mirror := rfl
@[simp] theorem State.setEng_ash (s : State) (c e : Nat) (g : Engine) : (s.setEng c e g).ash = s.ash := rfl
@[simp] theorem State.setEng_keep (s : State) (c e : Nat) (g : Engine) : (s.setEng c e g).keep = s.keep := rfl
@[simp] theorem State.setEng_trims (s : State) (c e : Nat) (g : Engine) : (s.setEng c e g).trims = s.trims := rfl
@[simp] theorem State.setEng_counters (s : State) (c e : Nat) (g : Engine) : (s.setEng c e g).counters = s.counters := rfl
@[simp] theorem State.setEng_draws (s : State) (c e : Nat) (g : Engine) : (s.setEng c e g).draws = s.draws := rfl

@[simp] theorem State.modEng_pending (s : State) (c e : Nat) (f : Engine → Engine) : (s.modEng c e f).pending = s.pending := rfl
@[simp] theorem State.modEng_part (s : State) (c e : Nat) (f : Engine → Engine) : (s.modEng c e f).part = s.part := rfl
@[simp] theorem State.modEng_mem (s : State) (c e : Nat) (f : Engine → Engine) : (s.modEng c e f).mem = s.mem := rfl
@[simp] theorem State.modEng_cores (s : State) (c e : Nat) (f : Engine → Engine) : (s.modEng c e f).cores = s.cores := rfl
@[simp] theorem State.modEng_engines (s : State) (c e : Nat) (f : Engine → Engine) : (s.modEng c e f).engines = Tab.set s.engines (engKey c e) ((f (s.eng c e)).since (s.eng c e)) := rfl
@[simp] theorem State.modEng_net (s : State) (c e : Nat) (f : Engine → Engine) : (s.modEng c e f).net = s.net := rfl
@[simp] theorem State.modEng_ctxs (s : State) (c e : Nat) (f : Engine → Engine) : (s.modEng c e f).ctxs = s.ctxs := rfl
@[simp] theorem State.modEng_cmdStatus (s : State) (c e : Nat) (f : Engine → Engine) : (s.modEng c e f).cmdStatus = s.cmdStatus := rfl
@[simp] theorem State.modEng_ecloseTime (s : State) (c e : Nat) (f : Engine → Engine) : (s.modEng c e f).ecloseTime = s.ecloseTime := rfl
@[simp] theorem State.modEng_ecloseMark (s : State) (c e : Nat) (f : Engine → Engine) : (s.modEng c e f).ecloseMark = s.ecloseMark := rfl
@[simp] theorem State.modEng_fetch (s : State) (c e : Nat) (f : Engine → Engine) : (s.modEng c e f).fetch = s.fetch := rfl
@[simp] theorem State.modEng_stage (s : State) (c e : Nat) (f : Engine → Engine) : (s.modEng c e f).stage = s.stage := rfl
@[simp] theorem State.modEng_damper (s : State) (c e : Nat) (f : Engine → Engine) : (s.modEng c e f).damper = s.damper := rfl
@[simp] theorem State.modEng_time (s : State) (c e : Nat) (f : Engine → Engine) : (s.modEng c e f).time = s.time := rfl
@[simp] theorem State.modEng_trackers (s : State) (c e : Nat) (f : Engine → Engine) : (s.modEng c e f).trackers = s.trackers := rfl
@[simp] theorem State.modEng_meas (s : State) (c e : Nat) (f : Engine → Engine) : (s.modEng c e f).meas = s.meas := rfl
@[simp] theorem State.modEng_outs (s : State) (c e : Nat) (f : Engine → Engine) : (s.modEng c e f).outs = s.outs := rfl
@[simp] theorem State.modEng_sets (s : State) (c e : Nat) (f : Engine → Engine) : (s.modEng c e f).sets = s.sets := rfl
@[simp] theorem State.modEng_sessions (s : State) (c e : Nat) (f : Engine → Engine) : (s.modEng c e f).sessions = s.sessions := rfl
@[simp] theorem State.modEng_masters (s : State) (c e : Nat) (f : Engine → Engine) : (s.modEng c e f).masters = s.masters := rfl
@[simp] theorem State.modEng_keys (s : State) (c e : Nat) (f : Engine → Engine) : (s.modEng c e f).keys = s.keys := rfl
@[simp] theorem State.modEng_pcie (s : State) (c e : Nat) (f : Engine → Engine) : (s.modEng c e f).pcie = s.pcie := rfl
@[simp] theorem State.modEng_ecat (s : State) (c e : Nat) (f : Engine → Engine) : (s.modEng c e f).ecat = s.ecat := rfl
@[simp] theorem State.modEng_links (s : State) (c e : Nat) (f : Engine → Engine) : (s.modEng c e f).links = s.links := rfl
@[simp] theorem State.modEng_telem (s : State) (c e : Nat) (f : Engine → Engine) : (s.modEng c e f).telem = s.telem := rfl
@[simp] theorem State.modEng_fw (s : State) (c e : Nat) (f : Engine → Engine) : (s.modEng c e f).fw = s.fw := rfl
@[simp] theorem State.modEng_clk (s : State) (c e : Nat) (f : Engine → Engine) : (s.modEng c e f).clk = s.clk := rfl
@[simp] theorem State.modEng_pwr (s : State) (c e : Nat) (f : Engine → Engine) : (s.modEng c e f).pwr = s.pwr := rfl
@[simp] theorem State.modEng_svc (s : State) (c e : Nat) (f : Engine → Engine) : (s.modEng c e f).svc = s.svc := rfl
@[simp] theorem State.modEng_defects (s : State) (c e : Nat) (f : Engine → Engine) : (s.modEng c e f).defects = s.defects := rfl
@[simp] theorem State.modEng_ports (s : State) (c e : Nat) (f : Engine → Engine) : (s.modEng c e f).ports = s.ports := rfl
@[simp] theorem State.modEng_mirror (s : State) (c e : Nat) (f : Engine → Engine) : (s.modEng c e f).mirror = s.mirror := rfl
@[simp] theorem State.modEng_ash (s : State) (c e : Nat) (f : Engine → Engine) : (s.modEng c e f).ash = s.ash := rfl
@[simp] theorem State.modEng_keep (s : State) (c e : Nat) (f : Engine → Engine) : (s.modEng c e f).keep = s.keep := rfl
@[simp] theorem State.modEng_trims (s : State) (c e : Nat) (f : Engine → Engine) : (s.modEng c e f).trims = s.trims := rfl
@[simp] theorem State.modEng_counters (s : State) (c e : Nat) (f : Engine → Engine) : (s.modEng c e f).counters = s.counters := rfl
@[simp] theorem State.modEng_draws (s : State) (c e : Nat) (f : Engine → Engine) : (s.modEng c e f).draws = s.draws := rfl

@[simp] theorem State.setCtx_pending (s : State) (x : Nat) (k : Ctx) : (s.setCtx x k).pending = s.pending := rfl
@[simp] theorem State.setCtx_part (s : State) (x : Nat) (k : Ctx) : (s.setCtx x k).part = s.part := rfl
@[simp] theorem State.setCtx_mem (s : State) (x : Nat) (k : Ctx) : (s.setCtx x k).mem = s.mem := rfl
@[simp] theorem State.setCtx_cores (s : State) (x : Nat) (k : Ctx) : (s.setCtx x k).cores = s.cores := rfl
@[simp] theorem State.setCtx_engines (s : State) (x : Nat) (k : Ctx) : (s.setCtx x k).engines = s.engines := rfl
@[simp] theorem State.setCtx_net (s : State) (x : Nat) (k : Ctx) : (s.setCtx x k).net = s.net := rfl
@[simp] theorem State.setCtx_ctxs (s : State) (x : Nat) (k : Ctx) : (s.setCtx x k).ctxs = Tab.set s.ctxs x (k.since (s.ctx x)) := rfl
@[simp] theorem State.setCtx_cmdStatus (s : State) (x : Nat) (k : Ctx) : (s.setCtx x k).cmdStatus = s.cmdStatus := rfl
@[simp] theorem State.setCtx_ecloseTime (s : State) (x : Nat) (k : Ctx) : (s.setCtx x k).ecloseTime = s.ecloseTime := rfl
@[simp] theorem State.setCtx_ecloseMark (s : State) (x : Nat) (k : Ctx) : (s.setCtx x k).ecloseMark = s.ecloseMark := rfl
@[simp] theorem State.setCtx_fetch (s : State) (x : Nat) (k : Ctx) : (s.setCtx x k).fetch = s.fetch := rfl
@[simp] theorem State.setCtx_stage (s : State) (x : Nat) (k : Ctx) : (s.setCtx x k).stage = s.stage := rfl
@[simp] theorem State.setCtx_damper (s : State) (x : Nat) (k : Ctx) : (s.setCtx x k).damper = s.damper := rfl
@[simp] theorem State.setCtx_time (s : State) (x : Nat) (k : Ctx) : (s.setCtx x k).time = s.time := rfl
@[simp] theorem State.setCtx_trackers (s : State) (x : Nat) (k : Ctx) : (s.setCtx x k).trackers = s.trackers := rfl
@[simp] theorem State.setCtx_meas (s : State) (x : Nat) (k : Ctx) : (s.setCtx x k).meas = s.meas := rfl
@[simp] theorem State.setCtx_outs (s : State) (x : Nat) (k : Ctx) : (s.setCtx x k).outs = s.outs := rfl
@[simp] theorem State.setCtx_sets (s : State) (x : Nat) (k : Ctx) : (s.setCtx x k).sets = s.sets := rfl
@[simp] theorem State.setCtx_sessions (s : State) (x : Nat) (k : Ctx) : (s.setCtx x k).sessions = s.sessions := rfl
@[simp] theorem State.setCtx_masters (s : State) (x : Nat) (k : Ctx) : (s.setCtx x k).masters = s.masters := rfl
@[simp] theorem State.setCtx_keys (s : State) (x : Nat) (k : Ctx) : (s.setCtx x k).keys = s.keys := rfl
@[simp] theorem State.setCtx_pcie (s : State) (x : Nat) (k : Ctx) : (s.setCtx x k).pcie = s.pcie := rfl
@[simp] theorem State.setCtx_ecat (s : State) (x : Nat) (k : Ctx) : (s.setCtx x k).ecat = s.ecat := rfl
@[simp] theorem State.setCtx_links (s : State) (x : Nat) (k : Ctx) : (s.setCtx x k).links = s.links := rfl
@[simp] theorem State.setCtx_telem (s : State) (x : Nat) (k : Ctx) : (s.setCtx x k).telem = s.telem := rfl
@[simp] theorem State.setCtx_fw (s : State) (x : Nat) (k : Ctx) : (s.setCtx x k).fw = s.fw := rfl
@[simp] theorem State.setCtx_clk (s : State) (x : Nat) (k : Ctx) : (s.setCtx x k).clk = s.clk := rfl
@[simp] theorem State.setCtx_pwr (s : State) (x : Nat) (k : Ctx) : (s.setCtx x k).pwr = s.pwr := rfl
@[simp] theorem State.setCtx_svc (s : State) (x : Nat) (k : Ctx) : (s.setCtx x k).svc = s.svc := rfl
@[simp] theorem State.setCtx_defects (s : State) (x : Nat) (k : Ctx) : (s.setCtx x k).defects = s.defects := rfl
@[simp] theorem State.setCtx_ports (s : State) (x : Nat) (k : Ctx) : (s.setCtx x k).ports = s.ports := rfl
@[simp] theorem State.setCtx_mirror (s : State) (x : Nat) (k : Ctx) : (s.setCtx x k).mirror = s.mirror := rfl
@[simp] theorem State.setCtx_ash (s : State) (x : Nat) (k : Ctx) : (s.setCtx x k).ash = s.ash := rfl
@[simp] theorem State.setCtx_keep (s : State) (x : Nat) (k : Ctx) : (s.setCtx x k).keep = s.keep := rfl
@[simp] theorem State.setCtx_trims (s : State) (x : Nat) (k : Ctx) : (s.setCtx x k).trims = s.trims := rfl
@[simp] theorem State.setCtx_counters (s : State) (x : Nat) (k : Ctx) : (s.setCtx x k).counters = s.counters := rfl
@[simp] theorem State.setCtx_draws (s : State) (x : Nat) (k : Ctx) : (s.setCtx x k).draws = s.draws := rfl

@[simp] theorem State.modCtx_pending (s : State) (x : Nat) (f : Ctx → Ctx) : (s.modCtx x f).pending = s.pending := rfl
@[simp] theorem State.modCtx_part (s : State) (x : Nat) (f : Ctx → Ctx) : (s.modCtx x f).part = s.part := rfl
@[simp] theorem State.modCtx_mem (s : State) (x : Nat) (f : Ctx → Ctx) : (s.modCtx x f).mem = s.mem := rfl
@[simp] theorem State.modCtx_cores (s : State) (x : Nat) (f : Ctx → Ctx) : (s.modCtx x f).cores = s.cores := rfl
@[simp] theorem State.modCtx_engines (s : State) (x : Nat) (f : Ctx → Ctx) : (s.modCtx x f).engines = s.engines := rfl
@[simp] theorem State.modCtx_net (s : State) (x : Nat) (f : Ctx → Ctx) : (s.modCtx x f).net = s.net := rfl
@[simp] theorem State.modCtx_ctxs (s : State) (x : Nat) (f : Ctx → Ctx) : (s.modCtx x f).ctxs = Tab.set s.ctxs x ((f (s.ctx x)).since (s.ctx x)) := rfl
@[simp] theorem State.modCtx_cmdStatus (s : State) (x : Nat) (f : Ctx → Ctx) : (s.modCtx x f).cmdStatus = s.cmdStatus := rfl
@[simp] theorem State.modCtx_ecloseTime (s : State) (x : Nat) (f : Ctx → Ctx) : (s.modCtx x f).ecloseTime = s.ecloseTime := rfl
@[simp] theorem State.modCtx_ecloseMark (s : State) (x : Nat) (f : Ctx → Ctx) : (s.modCtx x f).ecloseMark = s.ecloseMark := rfl
@[simp] theorem State.modCtx_fetch (s : State) (x : Nat) (f : Ctx → Ctx) : (s.modCtx x f).fetch = s.fetch := rfl
@[simp] theorem State.modCtx_stage (s : State) (x : Nat) (f : Ctx → Ctx) : (s.modCtx x f).stage = s.stage := rfl
@[simp] theorem State.modCtx_damper (s : State) (x : Nat) (f : Ctx → Ctx) : (s.modCtx x f).damper = s.damper := rfl
@[simp] theorem State.modCtx_time (s : State) (x : Nat) (f : Ctx → Ctx) : (s.modCtx x f).time = s.time := rfl
@[simp] theorem State.modCtx_trackers (s : State) (x : Nat) (f : Ctx → Ctx) : (s.modCtx x f).trackers = s.trackers := rfl
@[simp] theorem State.modCtx_meas (s : State) (x : Nat) (f : Ctx → Ctx) : (s.modCtx x f).meas = s.meas := rfl
@[simp] theorem State.modCtx_outs (s : State) (x : Nat) (f : Ctx → Ctx) : (s.modCtx x f).outs = s.outs := rfl
@[simp] theorem State.modCtx_sets (s : State) (x : Nat) (f : Ctx → Ctx) : (s.modCtx x f).sets = s.sets := rfl
@[simp] theorem State.modCtx_sessions (s : State) (x : Nat) (f : Ctx → Ctx) : (s.modCtx x f).sessions = s.sessions := rfl
@[simp] theorem State.modCtx_masters (s : State) (x : Nat) (f : Ctx → Ctx) : (s.modCtx x f).masters = s.masters := rfl
@[simp] theorem State.modCtx_keys (s : State) (x : Nat) (f : Ctx → Ctx) : (s.modCtx x f).keys = s.keys := rfl
@[simp] theorem State.modCtx_pcie (s : State) (x : Nat) (f : Ctx → Ctx) : (s.modCtx x f).pcie = s.pcie := rfl
@[simp] theorem State.modCtx_ecat (s : State) (x : Nat) (f : Ctx → Ctx) : (s.modCtx x f).ecat = s.ecat := rfl
@[simp] theorem State.modCtx_links (s : State) (x : Nat) (f : Ctx → Ctx) : (s.modCtx x f).links = s.links := rfl
@[simp] theorem State.modCtx_telem (s : State) (x : Nat) (f : Ctx → Ctx) : (s.modCtx x f).telem = s.telem := rfl
@[simp] theorem State.modCtx_fw (s : State) (x : Nat) (f : Ctx → Ctx) : (s.modCtx x f).fw = s.fw := rfl
@[simp] theorem State.modCtx_clk (s : State) (x : Nat) (f : Ctx → Ctx) : (s.modCtx x f).clk = s.clk := rfl
@[simp] theorem State.modCtx_pwr (s : State) (x : Nat) (f : Ctx → Ctx) : (s.modCtx x f).pwr = s.pwr := rfl
@[simp] theorem State.modCtx_svc (s : State) (x : Nat) (f : Ctx → Ctx) : (s.modCtx x f).svc = s.svc := rfl
@[simp] theorem State.modCtx_defects (s : State) (x : Nat) (f : Ctx → Ctx) : (s.modCtx x f).defects = s.defects := rfl
@[simp] theorem State.modCtx_ports (s : State) (x : Nat) (f : Ctx → Ctx) : (s.modCtx x f).ports = s.ports := rfl
@[simp] theorem State.modCtx_mirror (s : State) (x : Nat) (f : Ctx → Ctx) : (s.modCtx x f).mirror = s.mirror := rfl
@[simp] theorem State.modCtx_ash (s : State) (x : Nat) (f : Ctx → Ctx) : (s.modCtx x f).ash = s.ash := rfl
@[simp] theorem State.modCtx_keep (s : State) (x : Nat) (f : Ctx → Ctx) : (s.modCtx x f).keep = s.keep := rfl
@[simp] theorem State.modCtx_trims (s : State) (x : Nat) (f : Ctx → Ctx) : (s.modCtx x f).trims = s.trims := rfl
@[simp] theorem State.modCtx_counters (s : State) (x : Nat) (f : Ctx → Ctx) : (s.modCtx x f).counters = s.counters := rfl
@[simp] theorem State.modCtx_draws (s : State) (x : Nat) (f : Ctx → Ctx) : (s.modCtx x f).draws = s.draws := rfl

@[simp] theorem State.modChan_pending (s : State) (c : Nat) (f : Channel → Channel) : (s.modChan c f).pending = s.pending := rfl
@[simp] theorem State.modChan_part (s : State) (c : Nat) (f : Channel → Channel) : (s.modChan c f).part = s.part := rfl
@[simp] theorem State.modChan_mem (s : State) (c : Nat) (f : Channel → Channel) : (s.modChan c f).mem = s.mem := rfl
@[simp] theorem State.modChan_cores (s : State) (c : Nat) (f : Channel → Channel) : (s.modChan c f).cores = s.cores := rfl
@[simp] theorem State.modChan_engines (s : State) (c : Nat) (f : Channel → Channel) : (s.modChan c f).engines = s.engines := rfl
@[simp] theorem State.modChan_net (s : State) (c : Nat) (f : Channel → Channel) : (s.modChan c f).net = s.net := rfl
@[simp] theorem State.modChan_ctxs (s : State) (c : Nat) (f : Channel → Channel) : (s.modChan c f).ctxs = s.ctxs := rfl
@[simp] theorem State.modChan_cmdStatus (s : State) (c : Nat) (f : Channel → Channel) : (s.modChan c f).cmdStatus = s.cmdStatus := rfl
@[simp] theorem State.modChan_ecloseTime (s : State) (c : Nat) (f : Channel → Channel) : (s.modChan c f).ecloseTime = s.ecloseTime := rfl
@[simp] theorem State.modChan_ecloseMark (s : State) (c : Nat) (f : Channel → Channel) : (s.modChan c f).ecloseMark = s.ecloseMark := rfl
@[simp] theorem State.modChan_fetch (s : State) (c : Nat) (f : Channel → Channel) : (s.modChan c f).fetch = s.fetch := rfl
@[simp] theorem State.modChan_stage (s : State) (c : Nat) (f : Channel → Channel) : (s.modChan c f).stage = s.stage := rfl
@[simp] theorem State.modChan_damper (s : State) (c : Nat) (f : Channel → Channel) : (s.modChan c f).damper = s.damper := rfl
@[simp] theorem State.modChan_time (s : State) (c : Nat) (f : Channel → Channel) : (s.modChan c f).time = s.time := rfl
@[simp] theorem State.modChan_trackers (s : State) (c : Nat) (f : Channel → Channel) : (s.modChan c f).trackers = s.trackers := rfl
@[simp] theorem State.modChan_meas (s : State) (c : Nat) (f : Channel → Channel) : (s.modChan c f).meas = { s.meas with chans := Tab.set s.meas.chans c (f (s.chan c)) } := rfl
@[simp] theorem State.modChan_outs (s : State) (c : Nat) (f : Channel → Channel) : (s.modChan c f).outs = s.outs := rfl
@[simp] theorem State.modChan_sets (s : State) (c : Nat) (f : Channel → Channel) : (s.modChan c f).sets = s.sets := rfl
@[simp] theorem State.modChan_sessions (s : State) (c : Nat) (f : Channel → Channel) : (s.modChan c f).sessions = s.sessions := rfl
@[simp] theorem State.modChan_masters (s : State) (c : Nat) (f : Channel → Channel) : (s.modChan c f).masters = s.masters := rfl
@[simp] theorem State.modChan_keys (s : State) (c : Nat) (f : Channel → Channel) : (s.modChan c f).keys = s.keys := rfl
@[simp] theorem State.modChan_pcie (s : State) (c : Nat) (f : Channel → Channel) : (s.modChan c f).pcie = s.pcie := rfl
@[simp] theorem State.modChan_ecat (s : State) (c : Nat) (f : Channel → Channel) : (s.modChan c f).ecat = s.ecat := rfl
@[simp] theorem State.modChan_links (s : State) (c : Nat) (f : Channel → Channel) : (s.modChan c f).links = s.links := rfl
@[simp] theorem State.modChan_telem (s : State) (c : Nat) (f : Channel → Channel) : (s.modChan c f).telem = s.telem := rfl
@[simp] theorem State.modChan_fw (s : State) (c : Nat) (f : Channel → Channel) : (s.modChan c f).fw = s.fw := rfl
@[simp] theorem State.modChan_clk (s : State) (c : Nat) (f : Channel → Channel) : (s.modChan c f).clk = s.clk := rfl
@[simp] theorem State.modChan_pwr (s : State) (c : Nat) (f : Channel → Channel) : (s.modChan c f).pwr = s.pwr := rfl
@[simp] theorem State.modChan_svc (s : State) (c : Nat) (f : Channel → Channel) : (s.modChan c f).svc = s.svc := rfl
@[simp] theorem State.modChan_defects (s : State) (c : Nat) (f : Channel → Channel) : (s.modChan c f).defects = s.defects := rfl
@[simp] theorem State.modChan_ports (s : State) (c : Nat) (f : Channel → Channel) : (s.modChan c f).ports = s.ports := rfl
@[simp] theorem State.modChan_mirror (s : State) (c : Nat) (f : Channel → Channel) : (s.modChan c f).mirror = s.mirror := rfl
@[simp] theorem State.modChan_ash (s : State) (c : Nat) (f : Channel → Channel) : (s.modChan c f).ash = s.ash := rfl
@[simp] theorem State.modChan_keep (s : State) (c : Nat) (f : Channel → Channel) : (s.modChan c f).keep = s.keep := rfl
@[simp] theorem State.modChan_trims (s : State) (c : Nat) (f : Channel → Channel) : (s.modChan c f).trims = s.trims := rfl
@[simp] theorem State.modChan_counters (s : State) (c : Nat) (f : Channel → Channel) : (s.modChan c f).counters = s.counters := rfl
@[simp] theorem State.modChan_draws (s : State) (c : Nat) (f : Channel → Channel) : (s.modChan c f).draws = s.draws := rfl

@[simp] theorem State.modDac_pending (s : State) (ch : Nat) (f : Dac → Dac) : (s.modDac ch f).pending = s.pending := rfl
@[simp] theorem State.modDac_part (s : State) (ch : Nat) (f : Dac → Dac) : (s.modDac ch f).part = s.part := rfl
@[simp] theorem State.modDac_mem (s : State) (ch : Nat) (f : Dac → Dac) : (s.modDac ch f).mem = s.mem := rfl
@[simp] theorem State.modDac_cores (s : State) (ch : Nat) (f : Dac → Dac) : (s.modDac ch f).cores = s.cores := rfl
@[simp] theorem State.modDac_engines (s : State) (ch : Nat) (f : Dac → Dac) : (s.modDac ch f).engines = s.engines := rfl
@[simp] theorem State.modDac_net (s : State) (ch : Nat) (f : Dac → Dac) : (s.modDac ch f).net = s.net := rfl
@[simp] theorem State.modDac_ctxs (s : State) (ch : Nat) (f : Dac → Dac) : (s.modDac ch f).ctxs = s.ctxs := rfl
@[simp] theorem State.modDac_cmdStatus (s : State) (ch : Nat) (f : Dac → Dac) : (s.modDac ch f).cmdStatus = s.cmdStatus := rfl
@[simp] theorem State.modDac_ecloseTime (s : State) (ch : Nat) (f : Dac → Dac) : (s.modDac ch f).ecloseTime = s.ecloseTime := rfl
@[simp] theorem State.modDac_ecloseMark (s : State) (ch : Nat) (f : Dac → Dac) : (s.modDac ch f).ecloseMark = s.ecloseMark := rfl
@[simp] theorem State.modDac_fetch (s : State) (ch : Nat) (f : Dac → Dac) : (s.modDac ch f).fetch = s.fetch := rfl
@[simp] theorem State.modDac_stage (s : State) (ch : Nat) (f : Dac → Dac) : (s.modDac ch f).stage = s.stage := rfl
@[simp] theorem State.modDac_damper (s : State) (ch : Nat) (f : Dac → Dac) : (s.modDac ch f).damper = s.damper := rfl
@[simp] theorem State.modDac_time (s : State) (ch : Nat) (f : Dac → Dac) : (s.modDac ch f).time = s.time := rfl
@[simp] theorem State.modDac_trackers (s : State) (ch : Nat) (f : Dac → Dac) : (s.modDac ch f).trackers = s.trackers := rfl
@[simp] theorem State.modDac_meas (s : State) (ch : Nat) (f : Dac → Dac) : (s.modDac ch f).meas = s.meas := rfl
@[simp] theorem State.modDac_outs (s : State) (ch : Nat) (f : Dac → Dac) : (s.modDac ch f).outs = { s.outs with dacs := Tab.set s.outs.dacs ch (f (s.dac ch)) } := rfl
@[simp] theorem State.modDac_sets (s : State) (ch : Nat) (f : Dac → Dac) : (s.modDac ch f).sets = s.sets := rfl
@[simp] theorem State.modDac_sessions (s : State) (ch : Nat) (f : Dac → Dac) : (s.modDac ch f).sessions = s.sessions := rfl
@[simp] theorem State.modDac_masters (s : State) (ch : Nat) (f : Dac → Dac) : (s.modDac ch f).masters = s.masters := rfl
@[simp] theorem State.modDac_keys (s : State) (ch : Nat) (f : Dac → Dac) : (s.modDac ch f).keys = s.keys := rfl
@[simp] theorem State.modDac_pcie (s : State) (ch : Nat) (f : Dac → Dac) : (s.modDac ch f).pcie = s.pcie := rfl
@[simp] theorem State.modDac_ecat (s : State) (ch : Nat) (f : Dac → Dac) : (s.modDac ch f).ecat = s.ecat := rfl
@[simp] theorem State.modDac_links (s : State) (ch : Nat) (f : Dac → Dac) : (s.modDac ch f).links = s.links := rfl
@[simp] theorem State.modDac_telem (s : State) (ch : Nat) (f : Dac → Dac) : (s.modDac ch f).telem = s.telem := rfl
@[simp] theorem State.modDac_fw (s : State) (ch : Nat) (f : Dac → Dac) : (s.modDac ch f).fw = s.fw := rfl
@[simp] theorem State.modDac_clk (s : State) (ch : Nat) (f : Dac → Dac) : (s.modDac ch f).clk = s.clk := rfl
@[simp] theorem State.modDac_pwr (s : State) (ch : Nat) (f : Dac → Dac) : (s.modDac ch f).pwr = s.pwr := rfl
@[simp] theorem State.modDac_svc (s : State) (ch : Nat) (f : Dac → Dac) : (s.modDac ch f).svc = s.svc := rfl
@[simp] theorem State.modDac_defects (s : State) (ch : Nat) (f : Dac → Dac) : (s.modDac ch f).defects = s.defects := rfl
@[simp] theorem State.modDac_ports (s : State) (ch : Nat) (f : Dac → Dac) : (s.modDac ch f).ports = s.ports := rfl
@[simp] theorem State.modDac_mirror (s : State) (ch : Nat) (f : Dac → Dac) : (s.modDac ch f).mirror = s.mirror := rfl
@[simp] theorem State.modDac_ash (s : State) (ch : Nat) (f : Dac → Dac) : (s.modDac ch f).ash = s.ash := rfl
@[simp] theorem State.modDac_keep (s : State) (ch : Nat) (f : Dac → Dac) : (s.modDac ch f).keep = s.keep := rfl
@[simp] theorem State.modDac_trims (s : State) (ch : Nat) (f : Dac → Dac) : (s.modDac ch f).trims = s.trims := rfl
@[simp] theorem State.modDac_counters (s : State) (ch : Nat) (f : Dac → Dac) : (s.modDac ch f).counters = s.counters := rfl
@[simp] theorem State.modDac_draws (s : State) (ch : Nat) (f : Dac → Dac) : (s.modDac ch f).draws = s.draws := rfl

@[simp] theorem State.modTrip_pending (s : State) (n : Nat) (f : Trip → Trip) : (s.modTrip n f).pending = s.pending := rfl
@[simp] theorem State.modTrip_part (s : State) (n : Nat) (f : Trip → Trip) : (s.modTrip n f).part = s.part := rfl
@[simp] theorem State.modTrip_mem (s : State) (n : Nat) (f : Trip → Trip) : (s.modTrip n f).mem = s.mem := rfl
@[simp] theorem State.modTrip_cores (s : State) (n : Nat) (f : Trip → Trip) : (s.modTrip n f).cores = s.cores := rfl
@[simp] theorem State.modTrip_engines (s : State) (n : Nat) (f : Trip → Trip) : (s.modTrip n f).engines = s.engines := rfl
@[simp] theorem State.modTrip_net (s : State) (n : Nat) (f : Trip → Trip) : (s.modTrip n f).net = s.net := rfl
@[simp] theorem State.modTrip_ctxs (s : State) (n : Nat) (f : Trip → Trip) : (s.modTrip n f).ctxs = s.ctxs := rfl
@[simp] theorem State.modTrip_cmdStatus (s : State) (n : Nat) (f : Trip → Trip) : (s.modTrip n f).cmdStatus = s.cmdStatus := rfl
@[simp] theorem State.modTrip_ecloseTime (s : State) (n : Nat) (f : Trip → Trip) : (s.modTrip n f).ecloseTime = s.ecloseTime := rfl
@[simp] theorem State.modTrip_ecloseMark (s : State) (n : Nat) (f : Trip → Trip) : (s.modTrip n f).ecloseMark = s.ecloseMark := rfl
@[simp] theorem State.modTrip_fetch (s : State) (n : Nat) (f : Trip → Trip) : (s.modTrip n f).fetch = s.fetch := rfl
@[simp] theorem State.modTrip_stage (s : State) (n : Nat) (f : Trip → Trip) : (s.modTrip n f).stage = s.stage := rfl
@[simp] theorem State.modTrip_damper (s : State) (n : Nat) (f : Trip → Trip) : (s.modTrip n f).damper = s.damper := rfl
@[simp] theorem State.modTrip_time (s : State) (n : Nat) (f : Trip → Trip) : (s.modTrip n f).time = s.time := rfl
@[simp] theorem State.modTrip_trackers (s : State) (n : Nat) (f : Trip → Trip) : (s.modTrip n f).trackers = s.trackers := rfl
@[simp] theorem State.modTrip_meas (s : State) (n : Nat) (f : Trip → Trip) : (s.modTrip n f).meas = s.meas := rfl
@[simp] theorem State.modTrip_outs (s : State) (n : Nat) (f : Trip → Trip) : (s.modTrip n f).outs = { s.outs with trips := Tab.set s.outs.trips n (f (s.trip n)) } := rfl
@[simp] theorem State.modTrip_sets (s : State) (n : Nat) (f : Trip → Trip) : (s.modTrip n f).sets = s.sets := rfl
@[simp] theorem State.modTrip_sessions (s : State) (n : Nat) (f : Trip → Trip) : (s.modTrip n f).sessions = s.sessions := rfl
@[simp] theorem State.modTrip_masters (s : State) (n : Nat) (f : Trip → Trip) : (s.modTrip n f).masters = s.masters := rfl
@[simp] theorem State.modTrip_keys (s : State) (n : Nat) (f : Trip → Trip) : (s.modTrip n f).keys = s.keys := rfl
@[simp] theorem State.modTrip_pcie (s : State) (n : Nat) (f : Trip → Trip) : (s.modTrip n f).pcie = s.pcie := rfl
@[simp] theorem State.modTrip_ecat (s : State) (n : Nat) (f : Trip → Trip) : (s.modTrip n f).ecat = s.ecat := rfl
@[simp] theorem State.modTrip_links (s : State) (n : Nat) (f : Trip → Trip) : (s.modTrip n f).links = s.links := rfl
@[simp] theorem State.modTrip_telem (s : State) (n : Nat) (f : Trip → Trip) : (s.modTrip n f).telem = s.telem := rfl
@[simp] theorem State.modTrip_fw (s : State) (n : Nat) (f : Trip → Trip) : (s.modTrip n f).fw = s.fw := rfl
@[simp] theorem State.modTrip_clk (s : State) (n : Nat) (f : Trip → Trip) : (s.modTrip n f).clk = s.clk := rfl
@[simp] theorem State.modTrip_pwr (s : State) (n : Nat) (f : Trip → Trip) : (s.modTrip n f).pwr = s.pwr := rfl
@[simp] theorem State.modTrip_svc (s : State) (n : Nat) (f : Trip → Trip) : (s.modTrip n f).svc = s.svc := rfl
@[simp] theorem State.modTrip_defects (s : State) (n : Nat) (f : Trip → Trip) : (s.modTrip n f).defects = s.defects := rfl
@[simp] theorem State.modTrip_ports (s : State) (n : Nat) (f : Trip → Trip) : (s.modTrip n f).ports = s.ports := rfl
@[simp] theorem State.modTrip_mirror (s : State) (n : Nat) (f : Trip → Trip) : (s.modTrip n f).mirror = s.mirror := rfl
@[simp] theorem State.modTrip_ash (s : State) (n : Nat) (f : Trip → Trip) : (s.modTrip n f).ash = s.ash := rfl
@[simp] theorem State.modTrip_keep (s : State) (n : Nat) (f : Trip → Trip) : (s.modTrip n f).keep = s.keep := rfl
@[simp] theorem State.modTrip_trims (s : State) (n : Nat) (f : Trip → Trip) : (s.modTrip n f).trims = s.trims := rfl
@[simp] theorem State.modTrip_counters (s : State) (n : Nat) (f : Trip → Trip) : (s.modTrip n f).counters = s.counters := rfl
@[simp] theorem State.modTrip_draws (s : State) (n : Nat) (f : Trip → Trip) : (s.modTrip n f).draws = s.draws := rfl

@[simp] theorem State.modTrk_pending (s : State) (t : Nat) (f : Tracker → Tracker) : (s.modTrk t f).pending = s.pending := rfl
@[simp] theorem State.modTrk_part (s : State) (t : Nat) (f : Tracker → Tracker) : (s.modTrk t f).part = s.part := rfl
@[simp] theorem State.modTrk_mem (s : State) (t : Nat) (f : Tracker → Tracker) : (s.modTrk t f).mem = s.mem := rfl
@[simp] theorem State.modTrk_cores (s : State) (t : Nat) (f : Tracker → Tracker) : (s.modTrk t f).cores = s.cores := rfl
@[simp] theorem State.modTrk_engines (s : State) (t : Nat) (f : Tracker → Tracker) : (s.modTrk t f).engines = s.engines := rfl
@[simp] theorem State.modTrk_net (s : State) (t : Nat) (f : Tracker → Tracker) : (s.modTrk t f).net = s.net := rfl
@[simp] theorem State.modTrk_ctxs (s : State) (t : Nat) (f : Tracker → Tracker) : (s.modTrk t f).ctxs = s.ctxs := rfl
@[simp] theorem State.modTrk_cmdStatus (s : State) (t : Nat) (f : Tracker → Tracker) : (s.modTrk t f).cmdStatus = s.cmdStatus := rfl
@[simp] theorem State.modTrk_ecloseTime (s : State) (t : Nat) (f : Tracker → Tracker) : (s.modTrk t f).ecloseTime = s.ecloseTime := rfl
@[simp] theorem State.modTrk_ecloseMark (s : State) (t : Nat) (f : Tracker → Tracker) : (s.modTrk t f).ecloseMark = s.ecloseMark := rfl
@[simp] theorem State.modTrk_fetch (s : State) (t : Nat) (f : Tracker → Tracker) : (s.modTrk t f).fetch = s.fetch := rfl
@[simp] theorem State.modTrk_stage (s : State) (t : Nat) (f : Tracker → Tracker) : (s.modTrk t f).stage = s.stage := rfl
@[simp] theorem State.modTrk_damper (s : State) (t : Nat) (f : Tracker → Tracker) : (s.modTrk t f).damper = s.damper := rfl
@[simp] theorem State.modTrk_time (s : State) (t : Nat) (f : Tracker → Tracker) : (s.modTrk t f).time = s.time := rfl
@[simp] theorem State.modTrk_trackers (s : State) (t : Nat) (f : Tracker → Tracker) : (s.modTrk t f).trackers = Tab.set s.trackers t (f (s.trk t)) := rfl
@[simp] theorem State.modTrk_meas (s : State) (t : Nat) (f : Tracker → Tracker) : (s.modTrk t f).meas = s.meas := rfl
@[simp] theorem State.modTrk_outs (s : State) (t : Nat) (f : Tracker → Tracker) : (s.modTrk t f).outs = s.outs := rfl
@[simp] theorem State.modTrk_sets (s : State) (t : Nat) (f : Tracker → Tracker) : (s.modTrk t f).sets = s.sets := rfl
@[simp] theorem State.modTrk_sessions (s : State) (t : Nat) (f : Tracker → Tracker) : (s.modTrk t f).sessions = s.sessions := rfl
@[simp] theorem State.modTrk_masters (s : State) (t : Nat) (f : Tracker → Tracker) : (s.modTrk t f).masters = s.masters := rfl
@[simp] theorem State.modTrk_keys (s : State) (t : Nat) (f : Tracker → Tracker) : (s.modTrk t f).keys = s.keys := rfl
@[simp] theorem State.modTrk_pcie (s : State) (t : Nat) (f : Tracker → Tracker) : (s.modTrk t f).pcie = s.pcie := rfl
@[simp] theorem State.modTrk_ecat (s : State) (t : Nat) (f : Tracker → Tracker) : (s.modTrk t f).ecat = s.ecat := rfl
@[simp] theorem State.modTrk_links (s : State) (t : Nat) (f : Tracker → Tracker) : (s.modTrk t f).links = s.links := rfl
@[simp] theorem State.modTrk_telem (s : State) (t : Nat) (f : Tracker → Tracker) : (s.modTrk t f).telem = s.telem := rfl
@[simp] theorem State.modTrk_fw (s : State) (t : Nat) (f : Tracker → Tracker) : (s.modTrk t f).fw = s.fw := rfl
@[simp] theorem State.modTrk_clk (s : State) (t : Nat) (f : Tracker → Tracker) : (s.modTrk t f).clk = s.clk := rfl
@[simp] theorem State.modTrk_pwr (s : State) (t : Nat) (f : Tracker → Tracker) : (s.modTrk t f).pwr = s.pwr := rfl
@[simp] theorem State.modTrk_svc (s : State) (t : Nat) (f : Tracker → Tracker) : (s.modTrk t f).svc = s.svc := rfl
@[simp] theorem State.modTrk_defects (s : State) (t : Nat) (f : Tracker → Tracker) : (s.modTrk t f).defects = s.defects := rfl
@[simp] theorem State.modTrk_ports (s : State) (t : Nat) (f : Tracker → Tracker) : (s.modTrk t f).ports = s.ports := rfl
@[simp] theorem State.modTrk_mirror (s : State) (t : Nat) (f : Tracker → Tracker) : (s.modTrk t f).mirror = s.mirror := rfl
@[simp] theorem State.modTrk_ash (s : State) (t : Nat) (f : Tracker → Tracker) : (s.modTrk t f).ash = s.ash := rfl
@[simp] theorem State.modTrk_keep (s : State) (t : Nat) (f : Tracker → Tracker) : (s.modTrk t f).keep = s.keep := rfl
@[simp] theorem State.modTrk_trims (s : State) (t : Nat) (f : Tracker → Tracker) : (s.modTrk t f).trims = s.trims := rfl
@[simp] theorem State.modTrk_counters (s : State) (t : Nat) (f : Tracker → Tracker) : (s.modTrk t f).counters = s.counters := rfl
@[simp] theorem State.modTrk_draws (s : State) (t : Nat) (f : Tracker → Tracker) : (s.modTrk t f).draws = s.draws := rfl

@[simp] theorem State.modSession_pending (s : State) (n : Nat) (f : Session → Session) : (s.modSession n f).pending = s.pending := rfl
@[simp] theorem State.modSession_part (s : State) (n : Nat) (f : Session → Session) : (s.modSession n f).part = s.part := rfl
@[simp] theorem State.modSession_mem (s : State) (n : Nat) (f : Session → Session) : (s.modSession n f).mem = s.mem := rfl
@[simp] theorem State.modSession_cores (s : State) (n : Nat) (f : Session → Session) : (s.modSession n f).cores = s.cores := rfl
@[simp] theorem State.modSession_engines (s : State) (n : Nat) (f : Session → Session) : (s.modSession n f).engines = s.engines := rfl
@[simp] theorem State.modSession_net (s : State) (n : Nat) (f : Session → Session) : (s.modSession n f).net = s.net := rfl
@[simp] theorem State.modSession_ctxs (s : State) (n : Nat) (f : Session → Session) : (s.modSession n f).ctxs = s.ctxs := rfl
@[simp] theorem State.modSession_cmdStatus (s : State) (n : Nat) (f : Session → Session) : (s.modSession n f).cmdStatus = s.cmdStatus := rfl
@[simp] theorem State.modSession_ecloseTime (s : State) (n : Nat) (f : Session → Session) : (s.modSession n f).ecloseTime = s.ecloseTime := rfl
@[simp] theorem State.modSession_ecloseMark (s : State) (n : Nat) (f : Session → Session) : (s.modSession n f).ecloseMark = s.ecloseMark := rfl
@[simp] theorem State.modSession_fetch (s : State) (n : Nat) (f : Session → Session) : (s.modSession n f).fetch = s.fetch := rfl
@[simp] theorem State.modSession_stage (s : State) (n : Nat) (f : Session → Session) : (s.modSession n f).stage = s.stage := rfl
@[simp] theorem State.modSession_damper (s : State) (n : Nat) (f : Session → Session) : (s.modSession n f).damper = s.damper := rfl
@[simp] theorem State.modSession_time (s : State) (n : Nat) (f : Session → Session) : (s.modSession n f).time = s.time := rfl
@[simp] theorem State.modSession_trackers (s : State) (n : Nat) (f : Session → Session) : (s.modSession n f).trackers = s.trackers := rfl
@[simp] theorem State.modSession_meas (s : State) (n : Nat) (f : Session → Session) : (s.modSession n f).meas = s.meas := rfl
@[simp] theorem State.modSession_outs (s : State) (n : Nat) (f : Session → Session) : (s.modSession n f).outs = s.outs := rfl
@[simp] theorem State.modSession_sets (s : State) (n : Nat) (f : Session → Session) : (s.modSession n f).sets = s.sets := rfl
@[simp] theorem State.modSession_sessions (s : State) (n : Nat) (f : Session → Session) : (s.modSession n f).sessions = Tab.set s.sessions n (f (s.session n)) := rfl
@[simp] theorem State.modSession_masters (s : State) (n : Nat) (f : Session → Session) : (s.modSession n f).masters = s.masters := rfl
@[simp] theorem State.modSession_keys (s : State) (n : Nat) (f : Session → Session) : (s.modSession n f).keys = s.keys := rfl
@[simp] theorem State.modSession_pcie (s : State) (n : Nat) (f : Session → Session) : (s.modSession n f).pcie = s.pcie := rfl
@[simp] theorem State.modSession_ecat (s : State) (n : Nat) (f : Session → Session) : (s.modSession n f).ecat = s.ecat := rfl
@[simp] theorem State.modSession_links (s : State) (n : Nat) (f : Session → Session) : (s.modSession n f).links = s.links := rfl
@[simp] theorem State.modSession_telem (s : State) (n : Nat) (f : Session → Session) : (s.modSession n f).telem = s.telem := rfl
@[simp] theorem State.modSession_fw (s : State) (n : Nat) (f : Session → Session) : (s.modSession n f).fw = s.fw := rfl
@[simp] theorem State.modSession_clk (s : State) (n : Nat) (f : Session → Session) : (s.modSession n f).clk = s.clk := rfl
@[simp] theorem State.modSession_pwr (s : State) (n : Nat) (f : Session → Session) : (s.modSession n f).pwr = s.pwr := rfl
@[simp] theorem State.modSession_svc (s : State) (n : Nat) (f : Session → Session) : (s.modSession n f).svc = s.svc := rfl
@[simp] theorem State.modSession_defects (s : State) (n : Nat) (f : Session → Session) : (s.modSession n f).defects = s.defects := rfl
@[simp] theorem State.modSession_ports (s : State) (n : Nat) (f : Session → Session) : (s.modSession n f).ports = s.ports := rfl
@[simp] theorem State.modSession_mirror (s : State) (n : Nat) (f : Session → Session) : (s.modSession n f).mirror = s.mirror := rfl
@[simp] theorem State.modSession_ash (s : State) (n : Nat) (f : Session → Session) : (s.modSession n f).ash = s.ash := rfl
@[simp] theorem State.modSession_keep (s : State) (n : Nat) (f : Session → Session) : (s.modSession n f).keep = s.keep := rfl
@[simp] theorem State.modSession_trims (s : State) (n : Nat) (f : Session → Session) : (s.modSession n f).trims = s.trims := rfl
@[simp] theorem State.modSession_counters (s : State) (n : Nat) (f : Session → Session) : (s.modSession n f).counters = s.counters := rfl
@[simp] theorem State.modSession_draws (s : State) (n : Nat) (f : Session → Session) : (s.modSession n f).draws = s.draws := rfl

@[simp] theorem State.modMaster_pending (s : State) (m : Nat) (f : Master → Master) : (s.modMaster m f).pending = s.pending := rfl
@[simp] theorem State.modMaster_part (s : State) (m : Nat) (f : Master → Master) : (s.modMaster m f).part = s.part := rfl
@[simp] theorem State.modMaster_mem (s : State) (m : Nat) (f : Master → Master) : (s.modMaster m f).mem = s.mem := rfl
@[simp] theorem State.modMaster_cores (s : State) (m : Nat) (f : Master → Master) : (s.modMaster m f).cores = s.cores := rfl
@[simp] theorem State.modMaster_engines (s : State) (m : Nat) (f : Master → Master) : (s.modMaster m f).engines = s.engines := rfl
@[simp] theorem State.modMaster_net (s : State) (m : Nat) (f : Master → Master) : (s.modMaster m f).net = s.net := rfl
@[simp] theorem State.modMaster_ctxs (s : State) (m : Nat) (f : Master → Master) : (s.modMaster m f).ctxs = s.ctxs := rfl
@[simp] theorem State.modMaster_cmdStatus (s : State) (m : Nat) (f : Master → Master) : (s.modMaster m f).cmdStatus = s.cmdStatus := rfl
@[simp] theorem State.modMaster_ecloseTime (s : State) (m : Nat) (f : Master → Master) : (s.modMaster m f).ecloseTime = s.ecloseTime := rfl
@[simp] theorem State.modMaster_ecloseMark (s : State) (m : Nat) (f : Master → Master) : (s.modMaster m f).ecloseMark = s.ecloseMark := rfl
@[simp] theorem State.modMaster_fetch (s : State) (m : Nat) (f : Master → Master) : (s.modMaster m f).fetch = s.fetch := rfl
@[simp] theorem State.modMaster_stage (s : State) (m : Nat) (f : Master → Master) : (s.modMaster m f).stage = s.stage := rfl
@[simp] theorem State.modMaster_damper (s : State) (m : Nat) (f : Master → Master) : (s.modMaster m f).damper = s.damper := rfl
@[simp] theorem State.modMaster_time (s : State) (m : Nat) (f : Master → Master) : (s.modMaster m f).time = s.time := rfl
@[simp] theorem State.modMaster_trackers (s : State) (m : Nat) (f : Master → Master) : (s.modMaster m f).trackers = s.trackers := rfl
@[simp] theorem State.modMaster_meas (s : State) (m : Nat) (f : Master → Master) : (s.modMaster m f).meas = s.meas := rfl
@[simp] theorem State.modMaster_outs (s : State) (m : Nat) (f : Master → Master) : (s.modMaster m f).outs = s.outs := rfl
@[simp] theorem State.modMaster_sets (s : State) (m : Nat) (f : Master → Master) : (s.modMaster m f).sets = s.sets := rfl
@[simp] theorem State.modMaster_sessions (s : State) (m : Nat) (f : Master → Master) : (s.modMaster m f).sessions = s.sessions := rfl
@[simp] theorem State.modMaster_masters (s : State) (m : Nat) (f : Master → Master) : (s.modMaster m f).masters = Tab.set s.masters m (f (s.master m)) := rfl
@[simp] theorem State.modMaster_keys (s : State) (m : Nat) (f : Master → Master) : (s.modMaster m f).keys = s.keys := rfl
@[simp] theorem State.modMaster_pcie (s : State) (m : Nat) (f : Master → Master) : (s.modMaster m f).pcie = s.pcie := rfl
@[simp] theorem State.modMaster_ecat (s : State) (m : Nat) (f : Master → Master) : (s.modMaster m f).ecat = s.ecat := rfl
@[simp] theorem State.modMaster_links (s : State) (m : Nat) (f : Master → Master) : (s.modMaster m f).links = s.links := rfl
@[simp] theorem State.modMaster_telem (s : State) (m : Nat) (f : Master → Master) : (s.modMaster m f).telem = s.telem := rfl
@[simp] theorem State.modMaster_fw (s : State) (m : Nat) (f : Master → Master) : (s.modMaster m f).fw = s.fw := rfl
@[simp] theorem State.modMaster_clk (s : State) (m : Nat) (f : Master → Master) : (s.modMaster m f).clk = s.clk := rfl
@[simp] theorem State.modMaster_pwr (s : State) (m : Nat) (f : Master → Master) : (s.modMaster m f).pwr = s.pwr := rfl
@[simp] theorem State.modMaster_svc (s : State) (m : Nat) (f : Master → Master) : (s.modMaster m f).svc = s.svc := rfl
@[simp] theorem State.modMaster_defects (s : State) (m : Nat) (f : Master → Master) : (s.modMaster m f).defects = s.defects := rfl
@[simp] theorem State.modMaster_ports (s : State) (m : Nat) (f : Master → Master) : (s.modMaster m f).ports = s.ports := rfl
@[simp] theorem State.modMaster_mirror (s : State) (m : Nat) (f : Master → Master) : (s.modMaster m f).mirror = s.mirror := rfl
@[simp] theorem State.modMaster_ash (s : State) (m : Nat) (f : Master → Master) : (s.modMaster m f).ash = s.ash := rfl
@[simp] theorem State.modMaster_keep (s : State) (m : Nat) (f : Master → Master) : (s.modMaster m f).keep = s.keep := rfl
@[simp] theorem State.modMaster_trims (s : State) (m : Nat) (f : Master → Master) : (s.modMaster m f).trims = s.trims := rfl
@[simp] theorem State.modMaster_counters (s : State) (m : Nat) (f : Master → Master) : (s.modMaster m f).counters = s.counters := rfl
@[simp] theorem State.modMaster_draws (s : State) (m : Nat) (f : Master → Master) : (s.modMaster m f).draws = s.draws := rfl

@[simp] theorem State.modPort_pending (s : State) (p : Nat) (f : Port → Port) : (s.modPort p f).pending = s.pending := rfl
@[simp] theorem State.modPort_part (s : State) (p : Nat) (f : Port → Port) : (s.modPort p f).part = s.part := rfl
@[simp] theorem State.modPort_mem (s : State) (p : Nat) (f : Port → Port) : (s.modPort p f).mem = s.mem := rfl
@[simp] theorem State.modPort_cores (s : State) (p : Nat) (f : Port → Port) : (s.modPort p f).cores = s.cores := rfl
@[simp] theorem State.modPort_engines (s : State) (p : Nat) (f : Port → Port) : (s.modPort p f).engines = s.engines := rfl
@[simp] theorem State.modPort_net (s : State) (p : Nat) (f : Port → Port) : (s.modPort p f).net = s.net := rfl
@[simp] theorem State.modPort_ctxs (s : State) (p : Nat) (f : Port → Port) : (s.modPort p f).ctxs = s.ctxs := rfl
@[simp] theorem State.modPort_cmdStatus (s : State) (p : Nat) (f : Port → Port) : (s.modPort p f).cmdStatus = s.cmdStatus := rfl
@[simp] theorem State.modPort_ecloseTime (s : State) (p : Nat) (f : Port → Port) : (s.modPort p f).ecloseTime = s.ecloseTime := rfl
@[simp] theorem State.modPort_ecloseMark (s : State) (p : Nat) (f : Port → Port) : (s.modPort p f).ecloseMark = s.ecloseMark := rfl
@[simp] theorem State.modPort_fetch (s : State) (p : Nat) (f : Port → Port) : (s.modPort p f).fetch = s.fetch := rfl
@[simp] theorem State.modPort_stage (s : State) (p : Nat) (f : Port → Port) : (s.modPort p f).stage = s.stage := rfl
@[simp] theorem State.modPort_damper (s : State) (p : Nat) (f : Port → Port) : (s.modPort p f).damper = s.damper := rfl
@[simp] theorem State.modPort_time (s : State) (p : Nat) (f : Port → Port) : (s.modPort p f).time = s.time := rfl
@[simp] theorem State.modPort_trackers (s : State) (p : Nat) (f : Port → Port) : (s.modPort p f).trackers = s.trackers := rfl
@[simp] theorem State.modPort_meas (s : State) (p : Nat) (f : Port → Port) : (s.modPort p f).meas = s.meas := rfl
@[simp] theorem State.modPort_outs (s : State) (p : Nat) (f : Port → Port) : (s.modPort p f).outs = s.outs := rfl
@[simp] theorem State.modPort_sets (s : State) (p : Nat) (f : Port → Port) : (s.modPort p f).sets = s.sets := rfl
@[simp] theorem State.modPort_sessions (s : State) (p : Nat) (f : Port → Port) : (s.modPort p f).sessions = s.sessions := rfl
@[simp] theorem State.modPort_masters (s : State) (p : Nat) (f : Port → Port) : (s.modPort p f).masters = s.masters := rfl
@[simp] theorem State.modPort_keys (s : State) (p : Nat) (f : Port → Port) : (s.modPort p f).keys = s.keys := rfl
@[simp] theorem State.modPort_pcie (s : State) (p : Nat) (f : Port → Port) : (s.modPort p f).pcie = s.pcie := rfl
@[simp] theorem State.modPort_ecat (s : State) (p : Nat) (f : Port → Port) : (s.modPort p f).ecat = s.ecat := rfl
@[simp] theorem State.modPort_links (s : State) (p : Nat) (f : Port → Port) : (s.modPort p f).links = s.links := rfl
@[simp] theorem State.modPort_telem (s : State) (p : Nat) (f : Port → Port) : (s.modPort p f).telem = s.telem := rfl
@[simp] theorem State.modPort_fw (s : State) (p : Nat) (f : Port → Port) : (s.modPort p f).fw = s.fw := rfl
@[simp] theorem State.modPort_clk (s : State) (p : Nat) (f : Port → Port) : (s.modPort p f).clk = s.clk := rfl
@[simp] theorem State.modPort_pwr (s : State) (p : Nat) (f : Port → Port) : (s.modPort p f).pwr = s.pwr := rfl
@[simp] theorem State.modPort_svc (s : State) (p : Nat) (f : Port → Port) : (s.modPort p f).svc = s.svc := rfl
@[simp] theorem State.modPort_defects (s : State) (p : Nat) (f : Port → Port) : (s.modPort p f).defects = s.defects := rfl
@[simp] theorem State.modPort_ports (s : State) (p : Nat) (f : Port → Port) : (s.modPort p f).ports = Tab.set s.ports p (f (s.port p)) := rfl
@[simp] theorem State.modPort_mirror (s : State) (p : Nat) (f : Port → Port) : (s.modPort p f).mirror = s.mirror := rfl
@[simp] theorem State.modPort_ash (s : State) (p : Nat) (f : Port → Port) : (s.modPort p f).ash = s.ash := rfl
@[simp] theorem State.modPort_keep (s : State) (p : Nat) (f : Port → Port) : (s.modPort p f).keep = s.keep := rfl
@[simp] theorem State.modPort_trims (s : State) (p : Nat) (f : Port → Port) : (s.modPort p f).trims = s.trims := rfl
@[simp] theorem State.modPort_counters (s : State) (p : Nat) (f : Port → Port) : (s.modPort p f).counters = s.counters := rfl
@[simp] theorem State.modPort_draws (s : State) (p : Nat) (f : Port → Port) : (s.modPort p f).draws = s.draws := rfl

@[simp] theorem State.setGen_pending (s : State) (g : Nat) (v : Gen) : (s.setGen g v).pending = s.pending := rfl
@[simp] theorem State.setGen_part (s : State) (g : Nat) (v : Gen) : (s.setGen g v).part = s.part := rfl
@[simp] theorem State.setGen_mem (s : State) (g : Nat) (v : Gen) : (s.setGen g v).mem = s.mem := rfl
@[simp] theorem State.setGen_cores (s : State) (g : Nat) (v : Gen) : (s.setGen g v).cores = s.cores := rfl
@[simp] theorem State.setGen_engines (s : State) (g : Nat) (v : Gen) : (s.setGen g v).engines = s.engines := rfl
@[simp] theorem State.setGen_net (s : State) (g : Nat) (v : Gen) : (s.setGen g v).net = s.net := rfl
@[simp] theorem State.setGen_ctxs (s : State) (g : Nat) (v : Gen) : (s.setGen g v).ctxs = s.ctxs := rfl
@[simp] theorem State.setGen_cmdStatus (s : State) (g : Nat) (v : Gen) : (s.setGen g v).cmdStatus = s.cmdStatus := rfl
@[simp] theorem State.setGen_ecloseTime (s : State) (g : Nat) (v : Gen) : (s.setGen g v).ecloseTime = s.ecloseTime := rfl
@[simp] theorem State.setGen_ecloseMark (s : State) (g : Nat) (v : Gen) : (s.setGen g v).ecloseMark = s.ecloseMark := rfl
@[simp] theorem State.setGen_fetch (s : State) (g : Nat) (v : Gen) : (s.setGen g v).fetch = s.fetch := rfl
@[simp] theorem State.setGen_stage (s : State) (g : Nat) (v : Gen) : (s.setGen g v).stage = s.stage := rfl
@[simp] theorem State.setGen_damper (s : State) (g : Nat) (v : Gen) : (s.setGen g v).damper = s.damper := rfl
@[simp] theorem State.setGen_time (s : State) (g : Nat) (v : Gen) : (s.setGen g v).time = s.time := rfl
@[simp] theorem State.setGen_trackers (s : State) (g : Nat) (v : Gen) : (s.setGen g v).trackers = s.trackers := rfl
@[simp] theorem State.setGen_meas (s : State) (g : Nat) (v : Gen) : (s.setGen g v).meas = s.meas := rfl
@[simp] theorem State.setGen_outs (s : State) (g : Nat) (v : Gen) : (s.setGen g v).outs = s.outs := rfl
@[simp] theorem State.setGen_sets (s : State) (g : Nat) (v : Gen) : (s.setGen g v).sets = s.sets := rfl
@[simp] theorem State.setGen_sessions (s : State) (g : Nat) (v : Gen) : (s.setGen g v).sessions = s.sessions := rfl
@[simp] theorem State.setGen_masters (s : State) (g : Nat) (v : Gen) : (s.setGen g v).masters = s.masters := rfl
@[simp] theorem State.setGen_keys (s : State) (g : Nat) (v : Gen) : (s.setGen g v).keys = s.keys := rfl
@[simp] theorem State.setGen_pcie (s : State) (g : Nat) (v : Gen) : (s.setGen g v).pcie = s.pcie := rfl
@[simp] theorem State.setGen_ecat (s : State) (g : Nat) (v : Gen) : (s.setGen g v).ecat = s.ecat := rfl
@[simp] theorem State.setGen_links (s : State) (g : Nat) (v : Gen) : (s.setGen g v).links = s.links := rfl
@[simp] theorem State.setGen_telem (s : State) (g : Nat) (v : Gen) : (s.setGen g v).telem = s.telem := rfl
@[simp] theorem State.setGen_fw (s : State) (g : Nat) (v : Gen) : (s.setGen g v).fw = s.fw := rfl
@[simp] theorem State.setGen_clk (s : State) (g : Nat) (v : Gen) : (s.setGen g v).clk = { s.clk with gens := Tab.set s.clk.gens g v } := rfl
@[simp] theorem State.setGen_pwr (s : State) (g : Nat) (v : Gen) : (s.setGen g v).pwr = s.pwr := rfl
@[simp] theorem State.setGen_svc (s : State) (g : Nat) (v : Gen) : (s.setGen g v).svc = s.svc := rfl
@[simp] theorem State.setGen_defects (s : State) (g : Nat) (v : Gen) : (s.setGen g v).defects = s.defects := rfl
@[simp] theorem State.setGen_ports (s : State) (g : Nat) (v : Gen) : (s.setGen g v).ports = s.ports := rfl
@[simp] theorem State.setGen_mirror (s : State) (g : Nat) (v : Gen) : (s.setGen g v).mirror = s.mirror := rfl
@[simp] theorem State.setGen_ash (s : State) (g : Nat) (v : Gen) : (s.setGen g v).ash = s.ash := rfl
@[simp] theorem State.setGen_keep (s : State) (g : Nat) (v : Gen) : (s.setGen g v).keep = s.keep := rfl
@[simp] theorem State.setGen_trims (s : State) (g : Nat) (v : Gen) : (s.setGen g v).trims = s.trims := rfl
@[simp] theorem State.setGen_counters (s : State) (g : Nat) (v : Gen) : (s.setGen g v).counters = s.counters := rfl
@[simp] theorem State.setGen_draws (s : State) (g : Nat) (v : Gen) : (s.setGen g v).draws = s.draws := rfl

@[simp] theorem State.modReplace_pending (s : State) (d : Nat) (f : Replace → Replace) : (s.modReplace d f).pending = s.pending := rfl
@[simp] theorem State.modReplace_part (s : State) (d : Nat) (f : Replace → Replace) : (s.modReplace d f).part = s.part := rfl
@[simp] theorem State.modReplace_mem (s : State) (d : Nat) (f : Replace → Replace) : (s.modReplace d f).mem = s.mem := rfl
@[simp] theorem State.modReplace_cores (s : State) (d : Nat) (f : Replace → Replace) : (s.modReplace d f).cores = s.cores := rfl
@[simp] theorem State.modReplace_engines (s : State) (d : Nat) (f : Replace → Replace) : (s.modReplace d f).engines = s.engines := rfl
@[simp] theorem State.modReplace_net (s : State) (d : Nat) (f : Replace → Replace) : (s.modReplace d f).net = s.net := rfl
@[simp] theorem State.modReplace_ctxs (s : State) (d : Nat) (f : Replace → Replace) : (s.modReplace d f).ctxs = s.ctxs := rfl
@[simp] theorem State.modReplace_cmdStatus (s : State) (d : Nat) (f : Replace → Replace) : (s.modReplace d f).cmdStatus = s.cmdStatus := rfl
@[simp] theorem State.modReplace_ecloseTime (s : State) (d : Nat) (f : Replace → Replace) : (s.modReplace d f).ecloseTime = s.ecloseTime := rfl
@[simp] theorem State.modReplace_ecloseMark (s : State) (d : Nat) (f : Replace → Replace) : (s.modReplace d f).ecloseMark = s.ecloseMark := rfl
@[simp] theorem State.modReplace_fetch (s : State) (d : Nat) (f : Replace → Replace) : (s.modReplace d f).fetch = s.fetch := rfl
@[simp] theorem State.modReplace_stage (s : State) (d : Nat) (f : Replace → Replace) : (s.modReplace d f).stage = s.stage := rfl
@[simp] theorem State.modReplace_damper (s : State) (d : Nat) (f : Replace → Replace) : (s.modReplace d f).damper = s.damper := rfl
@[simp] theorem State.modReplace_time (s : State) (d : Nat) (f : Replace → Replace) : (s.modReplace d f).time = s.time := rfl
@[simp] theorem State.modReplace_trackers (s : State) (d : Nat) (f : Replace → Replace) : (s.modReplace d f).trackers = s.trackers := rfl
@[simp] theorem State.modReplace_meas (s : State) (d : Nat) (f : Replace → Replace) : (s.modReplace d f).meas = s.meas := rfl
@[simp] theorem State.modReplace_outs (s : State) (d : Nat) (f : Replace → Replace) : (s.modReplace d f).outs = s.outs := rfl
@[simp] theorem State.modReplace_sets (s : State) (d : Nat) (f : Replace → Replace) : (s.modReplace d f).sets = s.sets := rfl
@[simp] theorem State.modReplace_sessions (s : State) (d : Nat) (f : Replace → Replace) : (s.modReplace d f).sessions = s.sessions := rfl
@[simp] theorem State.modReplace_masters (s : State) (d : Nat) (f : Replace → Replace) : (s.modReplace d f).masters = s.masters := rfl
@[simp] theorem State.modReplace_keys (s : State) (d : Nat) (f : Replace → Replace) : (s.modReplace d f).keys = s.keys := rfl
@[simp] theorem State.modReplace_pcie (s : State) (d : Nat) (f : Replace → Replace) : (s.modReplace d f).pcie = s.pcie := rfl
@[simp] theorem State.modReplace_ecat (s : State) (d : Nat) (f : Replace → Replace) : (s.modReplace d f).ecat = s.ecat := rfl
@[simp] theorem State.modReplace_links (s : State) (d : Nat) (f : Replace → Replace) : (s.modReplace d f).links = s.links := rfl
@[simp] theorem State.modReplace_telem (s : State) (d : Nat) (f : Replace → Replace) : (s.modReplace d f).telem = s.telem := rfl
@[simp] theorem State.modReplace_fw (s : State) (d : Nat) (f : Replace → Replace) : (s.modReplace d f).fw = s.fw := rfl
@[simp] theorem State.modReplace_clk (s : State) (d : Nat) (f : Replace → Replace) : (s.modReplace d f).clk = s.clk := rfl
@[simp] theorem State.modReplace_pwr (s : State) (d : Nat) (f : Replace → Replace) : (s.modReplace d f).pwr = s.pwr := rfl
@[simp] theorem State.modReplace_svc (s : State) (d : Nat) (f : Replace → Replace) : (s.modReplace d f).svc = { s.svc with replace := Tab.set s.svc.replace d (f (s.replace d)) } := rfl
@[simp] theorem State.modReplace_defects (s : State) (d : Nat) (f : Replace → Replace) : (s.modReplace d f).defects = s.defects := rfl
@[simp] theorem State.modReplace_ports (s : State) (d : Nat) (f : Replace → Replace) : (s.modReplace d f).ports = s.ports := rfl
@[simp] theorem State.modReplace_mirror (s : State) (d : Nat) (f : Replace → Replace) : (s.modReplace d f).mirror = s.mirror := rfl
@[simp] theorem State.modReplace_ash (s : State) (d : Nat) (f : Replace → Replace) : (s.modReplace d f).ash = s.ash := rfl
@[simp] theorem State.modReplace_keep (s : State) (d : Nat) (f : Replace → Replace) : (s.modReplace d f).keep = s.keep := rfl
@[simp] theorem State.modReplace_trims (s : State) (d : Nat) (f : Replace → Replace) : (s.modReplace d f).trims = s.trims := rfl
@[simp] theorem State.modReplace_counters (s : State) (d : Nat) (f : Replace → Replace) : (s.modReplace d f).counters = s.counters := rfl
@[simp] theorem State.modReplace_draws (s : State) (d : Nat) (f : Replace → Replace) : (s.modReplace d f).draws = s.draws := rfl

@[simp] theorem State.draw_pending (s : State) : (s.draw).pending = s.pending := rfl
@[simp] theorem State.draw_part (s : State) : (s.draw).part = s.part := rfl
@[simp] theorem State.draw_mem (s : State) : (s.draw).mem = s.mem := rfl
@[simp] theorem State.draw_cores (s : State) : (s.draw).cores = s.cores := rfl
@[simp] theorem State.draw_engines (s : State) : (s.draw).engines = s.engines := rfl
@[simp] theorem State.draw_net (s : State) : (s.draw).net = s.net := rfl
@[simp] theorem State.draw_ctxs (s : State) : (s.draw).ctxs = s.ctxs := rfl
@[simp] theorem State.draw_cmdStatus (s : State) : (s.draw).cmdStatus = s.cmdStatus := rfl
@[simp] theorem State.draw_ecloseTime (s : State) : (s.draw).ecloseTime = s.ecloseTime := rfl
@[simp] theorem State.draw_ecloseMark (s : State) : (s.draw).ecloseMark = s.ecloseMark := rfl
@[simp] theorem State.draw_fetch (s : State) : (s.draw).fetch = s.fetch := rfl
@[simp] theorem State.draw_stage (s : State) : (s.draw).stage = s.stage := rfl
@[simp] theorem State.draw_damper (s : State) : (s.draw).damper = s.damper := rfl
@[simp] theorem State.draw_time (s : State) : (s.draw).time = s.time := rfl
@[simp] theorem State.draw_trackers (s : State) : (s.draw).trackers = s.trackers := rfl
@[simp] theorem State.draw_meas (s : State) : (s.draw).meas = s.meas := rfl
@[simp] theorem State.draw_outs (s : State) : (s.draw).outs = s.outs := rfl
@[simp] theorem State.draw_sets (s : State) : (s.draw).sets = s.sets := rfl
@[simp] theorem State.draw_sessions (s : State) : (s.draw).sessions = s.sessions := rfl
@[simp] theorem State.draw_masters (s : State) : (s.draw).masters = s.masters := rfl
@[simp] theorem State.draw_keys (s : State) : (s.draw).keys = s.keys := rfl
@[simp] theorem State.draw_pcie (s : State) : (s.draw).pcie = s.pcie := rfl
@[simp] theorem State.draw_ecat (s : State) : (s.draw).ecat = s.ecat := rfl
@[simp] theorem State.draw_links (s : State) : (s.draw).links = s.links := rfl
@[simp] theorem State.draw_telem (s : State) : (s.draw).telem = s.telem := rfl
@[simp] theorem State.draw_fw (s : State) : (s.draw).fw = s.fw := rfl
@[simp] theorem State.draw_clk (s : State) : (s.draw).clk = s.clk := rfl
@[simp] theorem State.draw_pwr (s : State) : (s.draw).pwr = s.pwr := rfl
@[simp] theorem State.draw_svc (s : State) : (s.draw).svc = s.svc := rfl
@[simp] theorem State.draw_defects (s : State) : (s.draw).defects = s.defects := rfl
@[simp] theorem State.draw_ports (s : State) : (s.draw).ports = s.ports := rfl
@[simp] theorem State.draw_mirror (s : State) : (s.draw).mirror = s.mirror := rfl
@[simp] theorem State.draw_ash (s : State) : (s.draw).ash = s.ash := rfl
@[simp] theorem State.draw_keep (s : State) : (s.draw).keep = s.keep := rfl
@[simp] theorem State.draw_trims (s : State) : (s.draw).trims = s.trims := rfl
@[simp] theorem State.draw_counters (s : State) : (s.draw).counters = s.counters := rfl
@[simp] theorem State.draw_draws (s : State) : (s.draw).draws = s.draws + 1 := rfl

@[simp] theorem State.drawN_pending (s : State) (n : Nat) : (s.drawN n).pending = s.pending := rfl
@[simp] theorem State.drawN_part (s : State) (n : Nat) : (s.drawN n).part = s.part := rfl
@[simp] theorem State.drawN_mem (s : State) (n : Nat) : (s.drawN n).mem = s.mem := rfl
@[simp] theorem State.drawN_cores (s : State) (n : Nat) : (s.drawN n).cores = s.cores := rfl
@[simp] theorem State.drawN_engines (s : State) (n : Nat) : (s.drawN n).engines = s.engines := rfl
@[simp] theorem State.drawN_net (s : State) (n : Nat) : (s.drawN n).net = s.net := rfl
@[simp] theorem State.drawN_ctxs (s : State) (n : Nat) : (s.drawN n).ctxs = s.ctxs := rfl
@[simp] theorem State.drawN_cmdStatus (s : State) (n : Nat) : (s.drawN n).cmdStatus = s.cmdStatus := rfl
@[simp] theorem State.drawN_ecloseTime (s : State) (n : Nat) : (s.drawN n).ecloseTime = s.ecloseTime := rfl
@[simp] theorem State.drawN_ecloseMark (s : State) (n : Nat) : (s.drawN n).ecloseMark = s.ecloseMark := rfl
@[simp] theorem State.drawN_fetch (s : State) (n : Nat) : (s.drawN n).fetch = s.fetch := rfl
@[simp] theorem State.drawN_stage (s : State) (n : Nat) : (s.drawN n).stage = s.stage := rfl
@[simp] theorem State.drawN_damper (s : State) (n : Nat) : (s.drawN n).damper = s.damper := rfl
@[simp] theorem State.drawN_time (s : State) (n : Nat) : (s.drawN n).time = s.time := rfl
@[simp] theorem State.drawN_trackers (s : State) (n : Nat) : (s.drawN n).trackers = s.trackers := rfl
@[simp] theorem State.drawN_meas (s : State) (n : Nat) : (s.drawN n).meas = s.meas := rfl
@[simp] theorem State.drawN_outs (s : State) (n : Nat) : (s.drawN n).outs = s.outs := rfl
@[simp] theorem State.drawN_sets (s : State) (n : Nat) : (s.drawN n).sets = s.sets := rfl
@[simp] theorem State.drawN_sessions (s : State) (n : Nat) : (s.drawN n).sessions = s.sessions := rfl
@[simp] theorem State.drawN_masters (s : State) (n : Nat) : (s.drawN n).masters = s.masters := rfl
@[simp] theorem State.drawN_keys (s : State) (n : Nat) : (s.drawN n).keys = s.keys := rfl
@[simp] theorem State.drawN_pcie (s : State) (n : Nat) : (s.drawN n).pcie = s.pcie := rfl
@[simp] theorem State.drawN_ecat (s : State) (n : Nat) : (s.drawN n).ecat = s.ecat := rfl
@[simp] theorem State.drawN_links (s : State) (n : Nat) : (s.drawN n).links = s.links := rfl
@[simp] theorem State.drawN_telem (s : State) (n : Nat) : (s.drawN n).telem = s.telem := rfl
@[simp] theorem State.drawN_fw (s : State) (n : Nat) : (s.drawN n).fw = s.fw := rfl
@[simp] theorem State.drawN_clk (s : State) (n : Nat) : (s.drawN n).clk = s.clk := rfl
@[simp] theorem State.drawN_pwr (s : State) (n : Nat) : (s.drawN n).pwr = s.pwr := rfl
@[simp] theorem State.drawN_svc (s : State) (n : Nat) : (s.drawN n).svc = s.svc := rfl
@[simp] theorem State.drawN_defects (s : State) (n : Nat) : (s.drawN n).defects = s.defects := rfl
@[simp] theorem State.drawN_ports (s : State) (n : Nat) : (s.drawN n).ports = s.ports := rfl
@[simp] theorem State.drawN_mirror (s : State) (n : Nat) : (s.drawN n).mirror = s.mirror := rfl
@[simp] theorem State.drawN_ash (s : State) (n : Nat) : (s.drawN n).ash = s.ash := rfl
@[simp] theorem State.drawN_keep (s : State) (n : Nat) : (s.drawN n).keep = s.keep := rfl
@[simp] theorem State.drawN_trims (s : State) (n : Nat) : (s.drawN n).trims = s.trims := rfl
@[simp] theorem State.drawN_counters (s : State) (n : Nat) : (s.drawN n).counters = s.counters := rfl
@[simp] theorem State.drawN_draws (s : State) (n : Nat) : (s.drawN n).draws = s.draws + n := rfl

@[simp] theorem State.setCount_pending (s : State) (idx sub v : Nat) : (s.setCount idx sub v).pending = s.pending := rfl
@[simp] theorem State.setCount_part (s : State) (idx sub v : Nat) : (s.setCount idx sub v).part = s.part := rfl
@[simp] theorem State.setCount_mem (s : State) (idx sub v : Nat) : (s.setCount idx sub v).mem = s.mem := rfl
@[simp] theorem State.setCount_cores (s : State) (idx sub v : Nat) : (s.setCount idx sub v).cores = s.cores := rfl
@[simp] theorem State.setCount_engines (s : State) (idx sub v : Nat) : (s.setCount idx sub v).engines = s.engines := rfl
@[simp] theorem State.setCount_net (s : State) (idx sub v : Nat) : (s.setCount idx sub v).net = s.net := rfl
@[simp] theorem State.setCount_ctxs (s : State) (idx sub v : Nat) : (s.setCount idx sub v).ctxs = s.ctxs := rfl
@[simp] theorem State.setCount_cmdStatus (s : State) (idx sub v : Nat) : (s.setCount idx sub v).cmdStatus = s.cmdStatus := rfl
@[simp] theorem State.setCount_ecloseTime (s : State) (idx sub v : Nat) : (s.setCount idx sub v).ecloseTime = s.ecloseTime := rfl
@[simp] theorem State.setCount_ecloseMark (s : State) (idx sub v : Nat) : (s.setCount idx sub v).ecloseMark = s.ecloseMark := rfl
@[simp] theorem State.setCount_fetch (s : State) (idx sub v : Nat) : (s.setCount idx sub v).fetch = s.fetch := rfl
@[simp] theorem State.setCount_stage (s : State) (idx sub v : Nat) : (s.setCount idx sub v).stage = s.stage := rfl
@[simp] theorem State.setCount_damper (s : State) (idx sub v : Nat) : (s.setCount idx sub v).damper = s.damper := rfl
@[simp] theorem State.setCount_time (s : State) (idx sub v : Nat) : (s.setCount idx sub v).time = s.time := rfl
@[simp] theorem State.setCount_trackers (s : State) (idx sub v : Nat) : (s.setCount idx sub v).trackers = s.trackers := rfl
@[simp] theorem State.setCount_meas (s : State) (idx sub v : Nat) : (s.setCount idx sub v).meas = s.meas := rfl
@[simp] theorem State.setCount_outs (s : State) (idx sub v : Nat) : (s.setCount idx sub v).outs = s.outs := rfl
@[simp] theorem State.setCount_sets (s : State) (idx sub v : Nat) : (s.setCount idx sub v).sets = s.sets := rfl
@[simp] theorem State.setCount_sessions (s : State) (idx sub v : Nat) : (s.setCount idx sub v).sessions = s.sessions := rfl
@[simp] theorem State.setCount_masters (s : State) (idx sub v : Nat) : (s.setCount idx sub v).masters = s.masters := rfl
@[simp] theorem State.setCount_keys (s : State) (idx sub v : Nat) : (s.setCount idx sub v).keys = s.keys := rfl
@[simp] theorem State.setCount_pcie (s : State) (idx sub v : Nat) : (s.setCount idx sub v).pcie = s.pcie := rfl
@[simp] theorem State.setCount_ecat (s : State) (idx sub v : Nat) : (s.setCount idx sub v).ecat = s.ecat := rfl
@[simp] theorem State.setCount_links (s : State) (idx sub v : Nat) : (s.setCount idx sub v).links = s.links := rfl
@[simp] theorem State.setCount_telem (s : State) (idx sub v : Nat) : (s.setCount idx sub v).telem = s.telem := rfl
@[simp] theorem State.setCount_fw (s : State) (idx sub v : Nat) : (s.setCount idx sub v).fw = s.fw := rfl
@[simp] theorem State.setCount_clk (s : State) (idx sub v : Nat) : (s.setCount idx sub v).clk = s.clk := rfl
@[simp] theorem State.setCount_pwr (s : State) (idx sub v : Nat) : (s.setCount idx sub v).pwr = s.pwr := rfl
@[simp] theorem State.setCount_svc (s : State) (idx sub v : Nat) : (s.setCount idx sub v).svc = s.svc := rfl
@[simp] theorem State.setCount_defects (s : State) (idx sub v : Nat) : (s.setCount idx sub v).defects = s.defects := rfl
@[simp] theorem State.setCount_ports (s : State) (idx sub v : Nat) : (s.setCount idx sub v).ports = s.ports := rfl
@[simp] theorem State.setCount_mirror (s : State) (idx sub v : Nat) : (s.setCount idx sub v).mirror = s.mirror := rfl
@[simp] theorem State.setCount_ash (s : State) (idx sub v : Nat) : (s.setCount idx sub v).ash = s.ash := rfl
@[simp] theorem State.setCount_keep (s : State) (idx sub v : Nat) : (s.setCount idx sub v).keep = s.keep := rfl
@[simp] theorem State.setCount_trims (s : State) (idx sub v : Nat) : (s.setCount idx sub v).trims = s.trims := rfl
@[simp] theorem State.setCount_counters (s : State) (idx sub v : Nat) : (s.setCount idx sub v).counters = Tab.set s.counters (odKey idx sub) v := rfl
@[simp] theorem State.setCount_draws (s : State) (idx sub v : Nat) : (s.setCount idx sub v).draws = s.draws := rfl

@[simp] theorem State.recordAt_pending (s : State) (gtc src code : Nat) (payload : List Nat) : (s.recordAt gtc src code payload).pending = s.pending := rfl
@[simp] theorem State.recordAt_part (s : State) (gtc src code : Nat) (payload : List Nat) : (s.recordAt gtc src code payload).part = s.part := rfl
@[simp] theorem State.recordAt_mem (s : State) (gtc src code : Nat) (payload : List Nat) : (s.recordAt gtc src code payload).mem = s.mem := rfl
@[simp] theorem State.recordAt_cores (s : State) (gtc src code : Nat) (payload : List Nat) : (s.recordAt gtc src code payload).cores = s.cores := rfl
@[simp] theorem State.recordAt_engines (s : State) (gtc src code : Nat) (payload : List Nat) : (s.recordAt gtc src code payload).engines = s.engines := rfl
@[simp] theorem State.recordAt_net (s : State) (gtc src code : Nat) (payload : List Nat) : (s.recordAt gtc src code payload).net = s.net := rfl
@[simp] theorem State.recordAt_ctxs (s : State) (gtc src code : Nat) (payload : List Nat) : (s.recordAt gtc src code payload).ctxs = s.ctxs := rfl
@[simp] theorem State.recordAt_cmdStatus (s : State) (gtc src code : Nat) (payload : List Nat) : (s.recordAt gtc src code payload).cmdStatus = s.cmdStatus := rfl
@[simp] theorem State.recordAt_ecloseTime (s : State) (gtc src code : Nat) (payload : List Nat) : (s.recordAt gtc src code payload).ecloseTime = s.ecloseTime := rfl
@[simp] theorem State.recordAt_ecloseMark (s : State) (gtc src code : Nat) (payload : List Nat) : (s.recordAt gtc src code payload).ecloseMark = s.ecloseMark := rfl
@[simp] theorem State.recordAt_fetch (s : State) (gtc src code : Nat) (payload : List Nat) : (s.recordAt gtc src code payload).fetch = s.fetch := rfl
@[simp] theorem State.recordAt_stage (s : State) (gtc src code : Nat) (payload : List Nat) : (s.recordAt gtc src code payload).stage = s.stage := rfl
@[simp] theorem State.recordAt_damper (s : State) (gtc src code : Nat) (payload : List Nat) : (s.recordAt gtc src code payload).damper = s.damper := rfl
@[simp] theorem State.recordAt_time (s : State) (gtc src code : Nat) (payload : List Nat) : (s.recordAt gtc src code payload).time = s.time := rfl
@[simp] theorem State.recordAt_trackers (s : State) (gtc src code : Nat) (payload : List Nat) : (s.recordAt gtc src code payload).trackers = s.trackers := rfl
@[simp] theorem State.recordAt_meas (s : State) (gtc src code : Nat) (payload : List Nat) : (s.recordAt gtc src code payload).meas = s.meas := rfl
@[simp] theorem State.recordAt_outs (s : State) (gtc src code : Nat) (payload : List Nat) : (s.recordAt gtc src code payload).outs = s.outs := rfl
@[simp] theorem State.recordAt_sets (s : State) (gtc src code : Nat) (payload : List Nat) : (s.recordAt gtc src code payload).sets = s.sets := rfl
@[simp] theorem State.recordAt_sessions (s : State) (gtc src code : Nat) (payload : List Nat) : (s.recordAt gtc src code payload).sessions = s.sessions := rfl
@[simp] theorem State.recordAt_masters (s : State) (gtc src code : Nat) (payload : List Nat) : (s.recordAt gtc src code payload).masters = s.masters := rfl
@[simp] theorem State.recordAt_keys (s : State) (gtc src code : Nat) (payload : List Nat) : (s.recordAt gtc src code payload).keys = s.keys := rfl
@[simp] theorem State.recordAt_pcie (s : State) (gtc src code : Nat) (payload : List Nat) : (s.recordAt gtc src code payload).pcie = s.pcie := rfl
@[simp] theorem State.recordAt_ecat (s : State) (gtc src code : Nat) (payload : List Nat) : (s.recordAt gtc src code payload).ecat = s.ecat := rfl
@[simp] theorem State.recordAt_links (s : State) (gtc src code : Nat) (payload : List Nat) : (s.recordAt gtc src code payload).links = s.links := rfl
@[simp] theorem State.recordAt_telem (s : State) (gtc src code : Nat) (payload : List Nat) : (s.recordAt gtc src code payload).telem = s.telem := rfl
@[simp] theorem State.recordAt_fw (s : State) (gtc src code : Nat) (payload : List Nat) : (s.recordAt gtc src code payload).fw = s.fw := rfl
@[simp] theorem State.recordAt_clk (s : State) (gtc src code : Nat) (payload : List Nat) : (s.recordAt gtc src code payload).clk = s.clk := rfl
@[simp] theorem State.recordAt_pwr (s : State) (gtc src code : Nat) (payload : List Nat) : (s.recordAt gtc src code payload).pwr = s.pwr := rfl
@[simp] theorem State.recordAt_svc (s : State) (gtc src code : Nat) (payload : List Nat) : (s.recordAt gtc src code payload).svc = s.svc := rfl
@[simp] theorem State.recordAt_defects (s : State) (gtc src code : Nat) (payload : List Nat) : (s.recordAt gtc src code payload).defects = s.defects := rfl
@[simp] theorem State.recordAt_ports (s : State) (gtc src code : Nat) (payload : List Nat) : (s.recordAt gtc src code payload).ports = s.ports := rfl
@[simp] theorem State.recordAt_mirror (s : State) (gtc src code : Nat) (payload : List Nat) : (s.recordAt gtc src code payload).mirror = s.mirror := rfl
@[simp] theorem State.recordAt_keep (s : State) (gtc src code : Nat) (payload : List Nat) : (s.recordAt gtc src code payload).keep = s.keep := rfl
@[simp] theorem State.recordAt_trims (s : State) (gtc src code : Nat) (payload : List Nat) : (s.recordAt gtc src code payload).trims = s.trims := rfl
@[simp] theorem State.recordAt_counters (s : State) (gtc src code : Nat) (payload : List Nat) : (s.recordAt gtc src code payload).counters = s.counters := rfl
@[simp] theorem State.recordAt_draws (s : State) (gtc src code : Nat) (payload : List Nat) : (s.recordAt gtc src code payload).draws = s.draws := rfl

@[simp] theorem State.record_pending (s : State) (src code : Nat) (payload : List Nat) : (s.record src code payload).pending = s.pending := rfl
@[simp] theorem State.record_part (s : State) (src code : Nat) (payload : List Nat) : (s.record src code payload).part = s.part := rfl
@[simp] theorem State.record_mem (s : State) (src code : Nat) (payload : List Nat) : (s.record src code payload).mem = s.mem := rfl
@[simp] theorem State.record_cores (s : State) (src code : Nat) (payload : List Nat) : (s.record src code payload).cores = s.cores := rfl
@[simp] theorem State.record_engines (s : State) (src code : Nat) (payload : List Nat) : (s.record src code payload).engines = s.engines := rfl
@[simp] theorem State.record_net (s : State) (src code : Nat) (payload : List Nat) : (s.record src code payload).net = s.net := rfl
@[simp] theorem State.record_ctxs (s : State) (src code : Nat) (payload : List Nat) : (s.record src code payload).ctxs = s.ctxs := rfl
@[simp] theorem State.record_cmdStatus (s : State) (src code : Nat) (payload : List Nat) : (s.record src code payload).cmdStatus = s.cmdStatus := rfl
@[simp] theorem State.record_ecloseTime (s : State) (src code : Nat) (payload : List Nat) : (s.record src code payload).ecloseTime = s.ecloseTime := rfl
@[simp] theorem State.record_ecloseMark (s : State) (src code : Nat) (payload : List Nat) : (s.record src code payload).ecloseMark = s.ecloseMark := rfl
@[simp] theorem State.record_fetch (s : State) (src code : Nat) (payload : List Nat) : (s.record src code payload).fetch = s.fetch := rfl
@[simp] theorem State.record_stage (s : State) (src code : Nat) (payload : List Nat) : (s.record src code payload).stage = s.stage := rfl
@[simp] theorem State.record_damper (s : State) (src code : Nat) (payload : List Nat) : (s.record src code payload).damper = s.damper := rfl
@[simp] theorem State.record_time (s : State) (src code : Nat) (payload : List Nat) : (s.record src code payload).time = s.time := rfl
@[simp] theorem State.record_trackers (s : State) (src code : Nat) (payload : List Nat) : (s.record src code payload).trackers = s.trackers := rfl
@[simp] theorem State.record_meas (s : State) (src code : Nat) (payload : List Nat) : (s.record src code payload).meas = s.meas := rfl
@[simp] theorem State.record_outs (s : State) (src code : Nat) (payload : List Nat) : (s.record src code payload).outs = s.outs := rfl
@[simp] theorem State.record_sets (s : State) (src code : Nat) (payload : List Nat) : (s.record src code payload).sets = s.sets := rfl
@[simp] theorem State.record_sessions (s : State) (src code : Nat) (payload : List Nat) : (s.record src code payload).sessions = s.sessions := rfl
@[simp] theorem State.record_masters (s : State) (src code : Nat) (payload : List Nat) : (s.record src code payload).masters = s.masters := rfl
@[simp] theorem State.record_keys (s : State) (src code : Nat) (payload : List Nat) : (s.record src code payload).keys = s.keys := rfl
@[simp] theorem State.record_pcie (s : State) (src code : Nat) (payload : List Nat) : (s.record src code payload).pcie = s.pcie := rfl
@[simp] theorem State.record_ecat (s : State) (src code : Nat) (payload : List Nat) : (s.record src code payload).ecat = s.ecat := rfl
@[simp] theorem State.record_links (s : State) (src code : Nat) (payload : List Nat) : (s.record src code payload).links = s.links := rfl
@[simp] theorem State.record_telem (s : State) (src code : Nat) (payload : List Nat) : (s.record src code payload).telem = s.telem := rfl
@[simp] theorem State.record_fw (s : State) (src code : Nat) (payload : List Nat) : (s.record src code payload).fw = s.fw := rfl
@[simp] theorem State.record_clk (s : State) (src code : Nat) (payload : List Nat) : (s.record src code payload).clk = s.clk := rfl
@[simp] theorem State.record_pwr (s : State) (src code : Nat) (payload : List Nat) : (s.record src code payload).pwr = s.pwr := rfl
@[simp] theorem State.record_svc (s : State) (src code : Nat) (payload : List Nat) : (s.record src code payload).svc = s.svc := rfl
@[simp] theorem State.record_defects (s : State) (src code : Nat) (payload : List Nat) : (s.record src code payload).defects = s.defects := rfl
@[simp] theorem State.record_ports (s : State) (src code : Nat) (payload : List Nat) : (s.record src code payload).ports = s.ports := rfl
@[simp] theorem State.record_mirror (s : State) (src code : Nat) (payload : List Nat) : (s.record src code payload).mirror = s.mirror := rfl
@[simp] theorem State.record_keep (s : State) (src code : Nat) (payload : List Nat) : (s.record src code payload).keep = s.keep := rfl
@[simp] theorem State.record_trims (s : State) (src code : Nat) (payload : List Nat) : (s.record src code payload).trims = s.trims := rfl
@[simp] theorem State.record_counters (s : State) (src code : Nat) (payload : List Nat) : (s.record src code payload).counters = s.counters := rfl
@[simp] theorem State.record_draws (s : State) (src code : Nat) (payload : List Nat) : (s.record src code payload).draws = s.draws := rfl

@[simp] theorem State.msix_pending (s : State) (v : Nat) : (s.msix v).pending = s.pending := rfl
@[simp] theorem State.msix_part (s : State) (v : Nat) : (s.msix v).part = s.part := rfl
@[simp] theorem State.msix_mem (s : State) (v : Nat) : (s.msix v).mem = s.mem := rfl
@[simp] theorem State.msix_cores (s : State) (v : Nat) : (s.msix v).cores = s.cores := rfl
@[simp] theorem State.msix_engines (s : State) (v : Nat) : (s.msix v).engines = s.engines := rfl
@[simp] theorem State.msix_net (s : State) (v : Nat) : (s.msix v).net = s.net := rfl
@[simp] theorem State.msix_ctxs (s : State) (v : Nat) : (s.msix v).ctxs = s.ctxs := rfl
@[simp] theorem State.msix_cmdStatus (s : State) (v : Nat) : (s.msix v).cmdStatus = s.cmdStatus := rfl
@[simp] theorem State.msix_ecloseTime (s : State) (v : Nat) : (s.msix v).ecloseTime = s.ecloseTime := rfl
@[simp] theorem State.msix_ecloseMark (s : State) (v : Nat) : (s.msix v).ecloseMark = s.ecloseMark := rfl
@[simp] theorem State.msix_fetch (s : State) (v : Nat) : (s.msix v).fetch = s.fetch := rfl
@[simp] theorem State.msix_stage (s : State) (v : Nat) : (s.msix v).stage = s.stage := rfl
@[simp] theorem State.msix_damper (s : State) (v : Nat) : (s.msix v).damper = s.damper := rfl
@[simp] theorem State.msix_time (s : State) (v : Nat) : (s.msix v).time = s.time := rfl
@[simp] theorem State.msix_trackers (s : State) (v : Nat) : (s.msix v).trackers = s.trackers := rfl
@[simp] theorem State.msix_meas (s : State) (v : Nat) : (s.msix v).meas = s.meas := rfl
@[simp] theorem State.msix_outs (s : State) (v : Nat) : (s.msix v).outs = s.outs := rfl
@[simp] theorem State.msix_sets (s : State) (v : Nat) : (s.msix v).sets = s.sets := rfl
@[simp] theorem State.msix_sessions (s : State) (v : Nat) : (s.msix v).sessions = s.sessions := rfl
@[simp] theorem State.msix_masters (s : State) (v : Nat) : (s.msix v).masters = s.masters := rfl
@[simp] theorem State.msix_keys (s : State) (v : Nat) : (s.msix v).keys = s.keys := rfl
@[simp] theorem State.msix_pcie (s : State) (v : Nat) : (s.msix v).pcie = { s.pcie with msix := setBit s.pcie.msix v true } := rfl
@[simp] theorem State.msix_ecat (s : State) (v : Nat) : (s.msix v).ecat = s.ecat := rfl
@[simp] theorem State.msix_links (s : State) (v : Nat) : (s.msix v).links = s.links := rfl
@[simp] theorem State.msix_telem (s : State) (v : Nat) : (s.msix v).telem = s.telem := rfl
@[simp] theorem State.msix_fw (s : State) (v : Nat) : (s.msix v).fw = s.fw := rfl
@[simp] theorem State.msix_clk (s : State) (v : Nat) : (s.msix v).clk = s.clk := rfl
@[simp] theorem State.msix_pwr (s : State) (v : Nat) : (s.msix v).pwr = s.pwr := rfl
@[simp] theorem State.msix_svc (s : State) (v : Nat) : (s.msix v).svc = s.svc := rfl
@[simp] theorem State.msix_defects (s : State) (v : Nat) : (s.msix v).defects = s.defects := rfl
@[simp] theorem State.msix_ports (s : State) (v : Nat) : (s.msix v).ports = s.ports := rfl
@[simp] theorem State.msix_mirror (s : State) (v : Nat) : (s.msix v).mirror = s.mirror := rfl
@[simp] theorem State.msix_ash (s : State) (v : Nat) : (s.msix v).ash = s.ash := rfl
@[simp] theorem State.msix_keep (s : State) (v : Nat) : (s.msix v).keep = s.keep := rfl
@[simp] theorem State.msix_trims (s : State) (v : Nat) : (s.msix v).trims = s.trims := rfl
@[simp] theorem State.msix_counters (s : State) (v : Nat) : (s.msix v).counters = s.counters := rfl
@[simp] theorem State.msix_draws (s : State) (v : Nat) : (s.msix v).draws = s.draws := rfl

@[simp] theorem State.poke_pending (s : State) (a : Nat) (bs : List Byte) : (s.poke a bs).pending = s.pending := rfl
@[simp] theorem State.poke_part (s : State) (a : Nat) (bs : List Byte) : (s.poke a bs).part = s.part := rfl
@[simp] theorem State.poke_mem (s : State) (a : Nat) (bs : List Byte) : (s.poke a bs).mem = Mem.writeBytes s.mem a bs := rfl
@[simp] theorem State.poke_cores (s : State) (a : Nat) (bs : List Byte) : (s.poke a bs).cores = s.cores := rfl
@[simp] theorem State.poke_engines (s : State) (a : Nat) (bs : List Byte) : (s.poke a bs).engines = s.engines := rfl
@[simp] theorem State.poke_net (s : State) (a : Nat) (bs : List Byte) : (s.poke a bs).net = s.net := rfl
@[simp] theorem State.poke_ctxs (s : State) (a : Nat) (bs : List Byte) : (s.poke a bs).ctxs = s.ctxs := rfl
@[simp] theorem State.poke_cmdStatus (s : State) (a : Nat) (bs : List Byte) : (s.poke a bs).cmdStatus = s.cmdStatus := rfl
@[simp] theorem State.poke_ecloseTime (s : State) (a : Nat) (bs : List Byte) : (s.poke a bs).ecloseTime = s.ecloseTime := rfl
@[simp] theorem State.poke_ecloseMark (s : State) (a : Nat) (bs : List Byte) : (s.poke a bs).ecloseMark = s.ecloseMark := rfl
@[simp] theorem State.poke_fetch (s : State) (a : Nat) (bs : List Byte) : (s.poke a bs).fetch = s.fetch := rfl
@[simp] theorem State.poke_stage (s : State) (a : Nat) (bs : List Byte) : (s.poke a bs).stage = s.stage := rfl
@[simp] theorem State.poke_damper (s : State) (a : Nat) (bs : List Byte) : (s.poke a bs).damper = s.damper := rfl
@[simp] theorem State.poke_time (s : State) (a : Nat) (bs : List Byte) : (s.poke a bs).time = s.time := rfl
@[simp] theorem State.poke_trackers (s : State) (a : Nat) (bs : List Byte) : (s.poke a bs).trackers = s.trackers := rfl
@[simp] theorem State.poke_meas (s : State) (a : Nat) (bs : List Byte) : (s.poke a bs).meas = s.meas := rfl
@[simp] theorem State.poke_outs (s : State) (a : Nat) (bs : List Byte) : (s.poke a bs).outs = s.outs := rfl
@[simp] theorem State.poke_sets (s : State) (a : Nat) (bs : List Byte) : (s.poke a bs).sets = s.sets := rfl
@[simp] theorem State.poke_sessions (s : State) (a : Nat) (bs : List Byte) : (s.poke a bs).sessions = s.sessions := rfl
@[simp] theorem State.poke_masters (s : State) (a : Nat) (bs : List Byte) : (s.poke a bs).masters = s.masters := rfl
@[simp] theorem State.poke_keys (s : State) (a : Nat) (bs : List Byte) : (s.poke a bs).keys = s.keys := rfl
@[simp] theorem State.poke_pcie (s : State) (a : Nat) (bs : List Byte) : (s.poke a bs).pcie = s.pcie := rfl
@[simp] theorem State.poke_ecat (s : State) (a : Nat) (bs : List Byte) : (s.poke a bs).ecat = s.ecat := rfl
@[simp] theorem State.poke_links (s : State) (a : Nat) (bs : List Byte) : (s.poke a bs).links = s.links := rfl
@[simp] theorem State.poke_telem (s : State) (a : Nat) (bs : List Byte) : (s.poke a bs).telem = s.telem := rfl
@[simp] theorem State.poke_fw (s : State) (a : Nat) (bs : List Byte) : (s.poke a bs).fw = s.fw := rfl
@[simp] theorem State.poke_clk (s : State) (a : Nat) (bs : List Byte) : (s.poke a bs).clk = s.clk := rfl
@[simp] theorem State.poke_pwr (s : State) (a : Nat) (bs : List Byte) : (s.poke a bs).pwr = s.pwr := rfl
@[simp] theorem State.poke_defects (s : State) (a : Nat) (bs : List Byte) : (s.poke a bs).defects = s.defects := rfl
@[simp] theorem State.poke_ports (s : State) (a : Nat) (bs : List Byte) : (s.poke a bs).ports = s.ports := rfl
@[simp] theorem State.poke_mirror (s : State) (a : Nat) (bs : List Byte) : (s.poke a bs).mirror = s.mirror := rfl
@[simp] theorem State.poke_ash (s : State) (a : Nat) (bs : List Byte) : (s.poke a bs).ash = s.ash := rfl
@[simp] theorem State.poke_keep (s : State) (a : Nat) (bs : List Byte) : (s.poke a bs).keep = s.keep := rfl
@[simp] theorem State.poke_trims (s : State) (a : Nat) (bs : List Byte) : (s.poke a bs).trims = s.trims := rfl
@[simp] theorem State.poke_counters (s : State) (a : Nat) (bs : List Byte) : (s.poke a bs).counters = s.counters := rfl
@[simp] theorem State.poke_draws (s : State) (a : Nat) (bs : List Byte) : (s.poke a bs).draws = s.draws := rfl

@[simp] theorem State.wipe_pending (s : State) (lo hi : Nat) : (s.wipe lo hi).pending = s.pending := rfl
@[simp] theorem State.wipe_part (s : State) (lo hi : Nat) : (s.wipe lo hi).part = s.part := rfl
@[simp] theorem State.wipe_mem (s : State) (lo hi : Nat) : (s.wipe lo hi).mem = Mem.clear s.mem lo hi := rfl
@[simp] theorem State.wipe_cores (s : State) (lo hi : Nat) : (s.wipe lo hi).cores = s.cores := rfl
@[simp] theorem State.wipe_engines (s : State) (lo hi : Nat) : (s.wipe lo hi).engines = s.engines := rfl
@[simp] theorem State.wipe_net (s : State) (lo hi : Nat) : (s.wipe lo hi).net = s.net := rfl
@[simp] theorem State.wipe_ctxs (s : State) (lo hi : Nat) : (s.wipe lo hi).ctxs = s.ctxs := rfl
@[simp] theorem State.wipe_cmdStatus (s : State) (lo hi : Nat) : (s.wipe lo hi).cmdStatus = s.cmdStatus := rfl
@[simp] theorem State.wipe_ecloseTime (s : State) (lo hi : Nat) : (s.wipe lo hi).ecloseTime = s.ecloseTime := rfl
@[simp] theorem State.wipe_ecloseMark (s : State) (lo hi : Nat) : (s.wipe lo hi).ecloseMark = s.ecloseMark := rfl
@[simp] theorem State.wipe_fetch (s : State) (lo hi : Nat) : (s.wipe lo hi).fetch = s.fetch := rfl
@[simp] theorem State.wipe_stage (s : State) (lo hi : Nat) : (s.wipe lo hi).stage = s.stage := rfl
@[simp] theorem State.wipe_damper (s : State) (lo hi : Nat) : (s.wipe lo hi).damper = s.damper := rfl
@[simp] theorem State.wipe_time (s : State) (lo hi : Nat) : (s.wipe lo hi).time = s.time := rfl
@[simp] theorem State.wipe_trackers (s : State) (lo hi : Nat) : (s.wipe lo hi).trackers = s.trackers := rfl
@[simp] theorem State.wipe_meas (s : State) (lo hi : Nat) : (s.wipe lo hi).meas = s.meas := rfl
@[simp] theorem State.wipe_outs (s : State) (lo hi : Nat) : (s.wipe lo hi).outs = s.outs := rfl
@[simp] theorem State.wipe_sets (s : State) (lo hi : Nat) : (s.wipe lo hi).sets = s.sets := rfl
@[simp] theorem State.wipe_sessions (s : State) (lo hi : Nat) : (s.wipe lo hi).sessions = s.sessions := rfl
@[simp] theorem State.wipe_masters (s : State) (lo hi : Nat) : (s.wipe lo hi).masters = s.masters := rfl
@[simp] theorem State.wipe_keys (s : State) (lo hi : Nat) : (s.wipe lo hi).keys = s.keys := rfl
@[simp] theorem State.wipe_pcie (s : State) (lo hi : Nat) : (s.wipe lo hi).pcie = s.pcie := rfl
@[simp] theorem State.wipe_ecat (s : State) (lo hi : Nat) : (s.wipe lo hi).ecat = s.ecat := rfl
@[simp] theorem State.wipe_links (s : State) (lo hi : Nat) : (s.wipe lo hi).links = s.links := rfl
@[simp] theorem State.wipe_telem (s : State) (lo hi : Nat) : (s.wipe lo hi).telem = s.telem := rfl
@[simp] theorem State.wipe_fw (s : State) (lo hi : Nat) : (s.wipe lo hi).fw = s.fw := rfl
@[simp] theorem State.wipe_clk (s : State) (lo hi : Nat) : (s.wipe lo hi).clk = s.clk := rfl
@[simp] theorem State.wipe_pwr (s : State) (lo hi : Nat) : (s.wipe lo hi).pwr = s.pwr := rfl
@[simp] theorem State.wipe_defects (s : State) (lo hi : Nat) : (s.wipe lo hi).defects = s.defects := rfl
@[simp] theorem State.wipe_ports (s : State) (lo hi : Nat) : (s.wipe lo hi).ports = s.ports := rfl
@[simp] theorem State.wipe_mirror (s : State) (lo hi : Nat) : (s.wipe lo hi).mirror = s.mirror := rfl
@[simp] theorem State.wipe_ash (s : State) (lo hi : Nat) : (s.wipe lo hi).ash = s.ash := rfl
@[simp] theorem State.wipe_keep (s : State) (lo hi : Nat) : (s.wipe lo hi).keep = s.keep := rfl
@[simp] theorem State.wipe_trims (s : State) (lo hi : Nat) : (s.wipe lo hi).trims = s.trims := rfl
@[simp] theorem State.wipe_counters (s : State) (lo hi : Nat) : (s.wipe lo hi).counters = s.counters := rfl
@[simp] theorem State.wipe_draws (s : State) (lo hi : Nat) : (s.wipe lo hi).draws = s.draws := rfl

@[simp] theorem State.sendSync_pending (s : State) (u : SyncUpd) : (s.sendSync u).pending = s.pending := rfl
@[simp] theorem State.sendSync_part (s : State) (u : SyncUpd) : (s.sendSync u).part = s.part := rfl
@[simp] theorem State.sendSync_mem (s : State) (u : SyncUpd) : (s.sendSync u).mem = s.mem := rfl
@[simp] theorem State.sendSync_cores (s : State) (u : SyncUpd) : (s.sendSync u).cores = s.cores := rfl
@[simp] theorem State.sendSync_engines (s : State) (u : SyncUpd) : (s.sendSync u).engines = s.engines := rfl
@[simp] theorem State.sendSync_net (s : State) (u : SyncUpd) : (s.sendSync u).net = { s.net with syncs := s.net.syncs ++ [u] } := rfl
@[simp] theorem State.sendSync_ctxs (s : State) (u : SyncUpd) : (s.sendSync u).ctxs = s.ctxs := rfl
@[simp] theorem State.sendSync_cmdStatus (s : State) (u : SyncUpd) : (s.sendSync u).cmdStatus = s.cmdStatus := rfl
@[simp] theorem State.sendSync_ecloseTime (s : State) (u : SyncUpd) : (s.sendSync u).ecloseTime = s.ecloseTime := rfl
@[simp] theorem State.sendSync_ecloseMark (s : State) (u : SyncUpd) : (s.sendSync u).ecloseMark = s.ecloseMark := rfl
@[simp] theorem State.sendSync_fetch (s : State) (u : SyncUpd) : (s.sendSync u).fetch = s.fetch := rfl
@[simp] theorem State.sendSync_stage (s : State) (u : SyncUpd) : (s.sendSync u).stage = s.stage := rfl
@[simp] theorem State.sendSync_damper (s : State) (u : SyncUpd) : (s.sendSync u).damper = s.damper := rfl
@[simp] theorem State.sendSync_time (s : State) (u : SyncUpd) : (s.sendSync u).time = s.time := rfl
@[simp] theorem State.sendSync_trackers (s : State) (u : SyncUpd) : (s.sendSync u).trackers = s.trackers := rfl
@[simp] theorem State.sendSync_meas (s : State) (u : SyncUpd) : (s.sendSync u).meas = s.meas := rfl
@[simp] theorem State.sendSync_outs (s : State) (u : SyncUpd) : (s.sendSync u).outs = s.outs := rfl
@[simp] theorem State.sendSync_sets (s : State) (u : SyncUpd) : (s.sendSync u).sets = s.sets := rfl
@[simp] theorem State.sendSync_sessions (s : State) (u : SyncUpd) : (s.sendSync u).sessions = s.sessions := rfl
@[simp] theorem State.sendSync_masters (s : State) (u : SyncUpd) : (s.sendSync u).masters = s.masters := rfl
@[simp] theorem State.sendSync_keys (s : State) (u : SyncUpd) : (s.sendSync u).keys = s.keys := rfl
@[simp] theorem State.sendSync_pcie (s : State) (u : SyncUpd) : (s.sendSync u).pcie = s.pcie := rfl
@[simp] theorem State.sendSync_ecat (s : State) (u : SyncUpd) : (s.sendSync u).ecat = s.ecat := rfl
@[simp] theorem State.sendSync_links (s : State) (u : SyncUpd) : (s.sendSync u).links = s.links := rfl
@[simp] theorem State.sendSync_telem (s : State) (u : SyncUpd) : (s.sendSync u).telem = s.telem := rfl
@[simp] theorem State.sendSync_fw (s : State) (u : SyncUpd) : (s.sendSync u).fw = s.fw := rfl
@[simp] theorem State.sendSync_clk (s : State) (u : SyncUpd) : (s.sendSync u).clk = s.clk := rfl
@[simp] theorem State.sendSync_pwr (s : State) (u : SyncUpd) : (s.sendSync u).pwr = s.pwr := rfl
@[simp] theorem State.sendSync_svc (s : State) (u : SyncUpd) : (s.sendSync u).svc = s.svc := rfl
@[simp] theorem State.sendSync_defects (s : State) (u : SyncUpd) : (s.sendSync u).defects = s.defects := rfl
@[simp] theorem State.sendSync_ports (s : State) (u : SyncUpd) : (s.sendSync u).ports = s.ports := rfl
@[simp] theorem State.sendSync_mirror (s : State) (u : SyncUpd) : (s.sendSync u).mirror = s.mirror := rfl
@[simp] theorem State.sendSync_ash (s : State) (u : SyncUpd) : (s.sendSync u).ash = s.ash := rfl
@[simp] theorem State.sendSync_keep (s : State) (u : SyncUpd) : (s.sendSync u).keep = s.keep := rfl
@[simp] theorem State.sendSync_trims (s : State) (u : SyncUpd) : (s.sendSync u).trims = s.trims := rfl
@[simp] theorem State.sendSync_counters (s : State) (u : SyncUpd) : (s.sendSync u).counters = s.counters := rfl
@[simp] theorem State.sendSync_draws (s : State) (u : SyncUpd) : (s.sendSync u).draws = s.draws := rfl

@[simp] theorem State.core_setCore_same (s : State) (c : Nat) (k : Core) : (s.setCore c k).core c = k := by
  simp [State.core, State.setCore]
theorem State.core_setCore_ne (s : State) {c x : Nat} (k : Core) (h : x ≠ c) : (s.setCore c k).core x = s.core x := by
  simp [State.core, State.setCore, Tab.get_set_ne _ _ _ h]
@[simp] theorem State.ctx_setCtx_same (s : State) (c : Nat) (k : Ctx) : (s.setCtx c k).ctx c = k.since (s.ctx c) := by
  simp [State.ctx, State.setCtx]
theorem State.ctx_setCtx_ne (s : State) {c x : Nat} (k : Ctx) (h : x ≠ c) : (s.setCtx c k).ctx x = s.ctx x := by
  simp [State.ctx, State.setCtx, Tab.get_set_ne _ _ _ h]
@[simp] theorem State.core_modCore_same (s : State) (c : Nat) (f : Core → Core) : (s.modCore c f).core c = f (s.core c) := by
  simp [State.core]
theorem State.core_modCore_ne (s : State) {c x : Nat} (f : Core → Core) (h : x ≠ c) : (s.modCore c f).core x = s.core x := by
  simp [State.core, Tab.get_set_ne _ _ _ h]
@[simp] theorem State.ctx_modCtx_same (s : State) (c : Nat) (f : Ctx → Ctx) : (s.modCtx c f).ctx c = (f (s.ctx c)).since (s.ctx c) := by
  simp [State.ctx]
theorem State.ctx_modCtx_ne (s : State) {c x : Nat} (f : Ctx → Ctx) (h : x ≠ c) : (s.modCtx c f).ctx x = s.ctx x := by
  simp [State.ctx, Tab.get_set_ne _ _ _ h]
@[simp] theorem State.chan_modChan_same (s : State) (c : Nat) (f : Channel → Channel) : (s.modChan c f).chan c = f (s.chan c) := by
  simp [State.chan]
theorem State.chan_modChan_ne (s : State) {c x : Nat} (f : Channel → Channel) (h : x ≠ c) : (s.modChan c f).chan x = s.chan x := by
  simp [State.chan, Tab.get_set_ne _ _ _ h]
@[simp] theorem State.dac_modDac_same (s : State) (c : Nat) (f : Dac → Dac) : (s.modDac c f).dac c = f (s.dac c) := by
  simp [State.dac]
theorem State.dac_modDac_ne (s : State) {c x : Nat} (f : Dac → Dac) (h : x ≠ c) : (s.modDac c f).dac x = s.dac x := by
  simp [State.dac, Tab.get_set_ne _ _ _ h]
@[simp] theorem State.trip_modTrip_same (s : State) (c : Nat) (f : Trip → Trip) : (s.modTrip c f).trip c = f (s.trip c) := by
  simp [State.trip]
theorem State.trip_modTrip_ne (s : State) {c x : Nat} (f : Trip → Trip) (h : x ≠ c) : (s.modTrip c f).trip x = s.trip x := by
  simp [State.trip, Tab.get_set_ne _ _ _ h]
@[simp] theorem State.trk_modTrk_same (s : State) (c : Nat) (f : Tracker → Tracker) : (s.modTrk c f).trk c = f (s.trk c) := by
  simp [State.trk]
theorem State.trk_modTrk_ne (s : State) {c x : Nat} (f : Tracker → Tracker) (h : x ≠ c) : (s.modTrk c f).trk x = s.trk x := by
  simp [State.trk, Tab.get_set_ne _ _ _ h]
@[simp] theorem State.session_modSession_same (s : State) (c : Nat) (f : Session → Session) : (s.modSession c f).session c = f (s.session c) := by
  simp [State.session]
theorem State.session_modSession_ne (s : State) {c x : Nat} (f : Session → Session) (h : x ≠ c) : (s.modSession c f).session x = s.session x := by
  simp [State.session, Tab.get_set_ne _ _ _ h]
@[simp] theorem State.master_modMaster_same (s : State) (c : Nat) (f : Master → Master) : (s.modMaster c f).master c = f (s.master c) := by
  simp [State.master]
theorem State.master_modMaster_ne (s : State) {c x : Nat} (f : Master → Master) (h : x ≠ c) : (s.modMaster c f).master x = s.master x := by
  simp [State.master, Tab.get_set_ne _ _ _ h]
@[simp] theorem State.port_modPort_same (s : State) (c : Nat) (f : Port → Port) : (s.modPort c f).port c = f (s.port c) := by
  simp [State.port]
theorem State.port_modPort_ne (s : State) {c x : Nat} (f : Port → Port) (h : x ≠ c) : (s.modPort c f).port x = s.port x := by
  simp [State.port, Tab.get_set_ne _ _ _ h]
@[simp] theorem State.replace_modReplace_same (s : State) (c : Nat) (f : Replace → Replace) : (s.modReplace c f).replace c = f (s.replace c) := by
  simp [State.replace]
theorem State.replace_modReplace_ne (s : State) {c x : Nat} (f : Replace → Replace) (h : x ≠ c) : (s.modReplace c f).replace x = s.replace x := by
  simp [State.replace, Tab.get_set_ne _ _ _ h]
@[simp] theorem State.eng_setEng_same (s : State) (c e : Nat) (g : Engine) : (s.setEng c e g).eng c e = g.since (s.eng c e) := by
  simp [State.eng]
@[simp] theorem State.eng_modEng_same (s : State) (c e : Nat) (f : Engine → Engine) : (s.modEng c e f).eng c e = (f (s.eng c e)).since (s.eng c e) := by
  simp [State.modEng]
@[simp] theorem State.count_setCount_same (s : State) (idx sub v : Nat) : (s.setCount idx sub v).count idx sub = v := by
  simp [State.count]
/-- Two changes of one core are one change. -/
theorem State.modCore_modCore (s : State) (c : Nat) (f g : Core → Core) : (s.modCore c f).modCore c g = s.modCore c (fun k => g (f k)) := by
  simp [State.modCore, State.setCore, State.core]

end Sys2Proof.Machine
end

