-- ==== Sys2Proof/Laws/Issue.lean ====
section
/-! SUPPORT. What issue and the move of the index do (R110, R131, R135). -/

namespace Sys2Proof.Machine

/-- An op that issues: the index moves on, the op acts, and the ops in flight go on. -/
theorem issue_ok {s : State} {c op w : Nat} (h : Issues s c op w) (act : Nat → State → State) : s.issue c op act = (act w (s.advance c)).settle c := by
  obtain ⟨⟨a, b, d, e⟩, ⟨f, g, i, j⟩, k⟩ := h
  unfold State.issue
  simp [a, b, d, e, f, g, i, j, k]

/-- The index after an issue. -/
theorem advance_core (s : State) (c : Nat) : (s.advance c).core c = { s.core c with seq := if (s.core c).seq.pc = 4095 then { (s.core c).seq with stopReq := some .pastEnd } else { (s.core c).seq with pc := (s.core c).seq.pc + 1 } } := by
  simp [State.advance, State.modSeq]

/-- The registers are as before the index moved on. -/
@[simp] theorem advance_reg (s : State) (c : Nat) (b : Bool) (r : Nat) : ((s.advance c).core c).reg b r = (s.core c).reg b r := by
  by_cases h : (s.core c).seq.pc = 4095 <;> rw [advance_core] <;> unfold Core.reg Core.sreg Core.kreg <;> simp only [h, if_true, if_false]
@[simp] theorem advance_kreg (s : State) (c : Nat) (r : Nat) : ((s.advance c).core c).kreg r = (s.core c).kreg r := advance_reg s c false r
@[simp] theorem advance_sreg (s : State) (c : Nat) (r : Nat) : ((s.advance c).core c).sreg r = (s.core c).sreg r := advance_reg s c true r
@[simp] theorem advance_bound (s : State) (c : Nat) (r : Nat) : ((s.advance c).core c).bound r = (s.core c).bound r := by simp only [Core.bound, advance_kreg]
@[simp] theorem advance_offset (s : State) (c : Nat) (r : Nat) : ((s.advance c).core c).offset r = (s.core c).offset r := by simp only [Core.offset, advance_kreg]

/-- A branch taken leaves no trace of the index that moved on. -/
theorem advance_jump (s : State) (c n : Nat) : (s.advance c).jump c n = s.modSeq c (fun q => { q with pc := n, stopReq := none }) := by
  simp only [State.advance, State.jump, State.modSeq, State.modCore_modCore]
  congr 1; funext k; split <;> rfl

end Sys2Proof.Machine
end

