-- ==== Sys2Proof/Laws/Tick.lean ====
section
/-! SUPPORT. What the operations of Machine/Tick.lean keep (Laws/Keeps.lean), one lemma for each. -/

set_option linter.unusedTactic false
set_option linter.unreachableTactic false
set_option linter.unusedSimpArgs false

namespace Sys2Proof.Machine

theorem keeps_tick {z s : State} (h : Keeps z s) : Keeps z (State.tick s) := by
  unfold State.tick
  try dsimp only
  with_reducible repeat' first | assumption | apply keeps_draw | apply Keeps.foldl | apply Keeps.ite | (simp only [Keeps.lit_iff]; apply KeepsLit.of <;> first | rfl | skip) | split | omega | dsimp only [id] | (intro)

end Sys2Proof.Machine
end

