-- ==== Sys2Proof/Tests/Slice0.lean ====
section
/-! SUPPORT. The model's own tests: well-formedness refuses each ill-formed term, one step of a command on a small state, and for each
statement with hypotheses a state that meets them. -/

namespace Sys2Proof.Tests

open Sys2Proof.Machine

/-! ## Small states -/

/-- A plan word: opcode and fields at their bits (Table 5.6). -/
def word (op : Nat) (fs : List (Nat × Nat)) : Nat := op * 2 ^ 56 + fs.foldl (fun a f => a + f.2 * 2 ^ f.1) 0

/-- A header with engines, peers and bounds to spare; FAULT_EN set as `flags` says. -/
def hdr (flags : Nat) : PlanHeader :=
  { flags := flags, length := 8, entry := 0, batchEntry := 0, faultEntry := 5, tileDemand := 64, engineDemand := 48, peerCount := 2,
    sentDeadline := 1000, douSpill := 0, boundMax := List.replicate 16 8192, frameWin := [], kInit := [], sInit := [] }

/-- A sequencer with every k register kv and every s register sv. -/
def regs (kv sv : Nat) : Seq := { Seq.reset with k := Vector.replicate 16 (BitVec.ofNat 32 kv), s := Vector.replicate 32 (BitVec.ofNat 32 sv) }

/-- A core that runs context 0. -/
def coreOf (q : Seq) : Core :=
  { Core.reset with
    state := .running, ctx := some 0, head0 := some (hdr 2), seq := q, comm := { Core.reset.comm with crossing := true, epoch := 1 } }

/-- Core c runs context 0, which owns hub sync objects 0 to 63, hub SRAM lines 0 to 999, DAC channel 0 and trip output 5. -/
def with1 (c : Nat) (k : Core) : State :=
  { State.reset with
    ctxs := [(0, { Ctx.reset with state := .running, hubBase := 0, hubLen := 64 })]
    sets := { Sets.reset with active := [(odKey 0x2500 2, 0), (odKey 0x2520 5, 0), (odKey 0x2525 5, 0), (odKey 0x2B40 1, 1000 * 2 ^ 26 + 3 * 2 ^ 52)] }
    cores := [(c, k)] }

/-- Core 3 at index 0 with the word w there. -/
def runs (w : Nat) (kv : Nat := 4) (sv : Nat := 0) : State :=
  { with1 3 (coreOf (regs kv sv)) with mem := Mem.writeBytes [] (planAddr 3 0 0) (toLE 8 w) }

/-- Sentinel core 576 at index 0 with the word w there. -/
def runsSentinel (w : Nat) : State :=
  { with1 576 (coreOf (regs 4 0)) with mem := Mem.writeBytes [] (planAddr 576 0 0) (toLE 8 w) }

/-- An op in flight as issued. -/
def inFlight (b : OpBody) : Op :=
  { seq := 0, index := 0, bank := 0, map := 0, sync := 0, batch := none, satRep := false, lcRep := false, sat := false, lowconf := false,
    status := 0, body := b, data := none, rows := [], pend := [], out := [], hurt := [] }

/-- Core 3 with ops in flight. -/
def flies (ops : List Op) : State := with1 3 (coreOf { regs 4 0 with ops := ops, nextSeq := ops.length })

/-! ## Issue -/

def atIssueB (s : State) (c w : Nat) : Bool :=
  (s.core c).issuing && !s.poisoned (planAddr c (s.core c).seq.bank (s.core c).seq.pc) 8 && s.planWord c == w && !s.stalled c w

theorem atIssue_of {s : State} {c w : Nat} (h : atIssueB s c w = true) : AtIssue s c w := by
  simpa [atIssueB, AtIssue, and_assoc] using h

def issuesB (s : State) (c op w : Nat) : Bool :=
  atIssueB s c w && (!illegalWord c ((s.core c).head (s.core c).seq.bank) w && s.windowFault c w == none && !tileFault (s.core c) w &&
    !boundFault (s.core c) w) && opcodeOf w == op

theorem issues_of {s : State} {c op w : Nat} (h : issuesB s c op w = true) : Issues s c op w := by
  simpa [issuesB, atIssueB, Issues, AtIssue, PassesChecks, and_assoc] using h

theorem witness_issue_checks :
    (AtIssue (runs (word 5 [(49, 6)])) 3 (word 5 [(49, 6)]) ∧
      illegalWord 3 (((runs (word 5 [(49, 6)])).core 3).head 0) (word 5 [(49, 6)]) = true) ∧
    (AtIssue (runs (word 0x20 [(0, 5)])) 3 (word 0x20 [(0, 5)]) ∧
      illegalWord 3 (((runs (word 0x20 [(0, 5)])).core 3).head 0) (word 0x20 [(0, 5)]) = false ∧
      (runs (word 0x20 [(0, 5)])).windowFault 3 (word 0x20 [(0, 5)]) = some (syncAddr 5, 1)) ∧
    (AtIssue (runs (word 0x10 [(36, 63), (53, 1)]) 0x10004) 3 (word 0x10 [(36, 63), (53, 1)]) ∧
      illegalWord 3 (some (hdr 2)) (word 0x10 [(36, 63), (53, 1)]) = false ∧
      (runs (word 0x10 [(36, 63), (53, 1)]) 0x10004).windowFault 3 (word 0x10 [(36, 63), (53, 1)]) = none ∧
      tileFault ((runs (word 0x10 [(36, 63), (53, 1)]) 0x10004).core 3) (word 0x10 [(36, 63), (53, 1)]) = true) ∧
    (AtIssue (runs (word 0x10 []) 8193) 3 (word 0x10 []) ∧ illegalWord 3 (some (hdr 2)) (word 0x10 []) = false ∧
      (runs (word 0x10 []) 8193).windowFault 3 (word 0x10 []) = none ∧ tileFault ((runs (word 0x10 []) 8193).core 3) (word 0x10 []) = false ∧
      boundFault ((runs (word 0x10 []) 8193).core 3) (word 0x10 []) = true) := by
  try dsimp only
  repeat' first | apply atIssue_of | apply And.intro
  all_goals decide

theorem witness_issue_needs :
    (State.reset.core 3).issuing = false ∧
    (AtIssue (runs (word 2 [])) 3 (word 2 []) ∧ opcodeOf (word 2 []) ≠ 3) ∧
    (({ runs 0 with svc := { Service.reset with poison := [planAddr 3 0 0] } } : State).poisoned (planAddr 3 0 0) 8 = true ∧
      ((runs 0).core 3).issuing = true) ∧
    (AtIssue (runs (word 7 [])) 3 (word 7 []) ∧ planCommand 3 (opcodeOf (word 7 [])) = none) ∧
    (let w := word 0x0A []
     let s : State := { flies [inFlight .fence] with mem := Mem.writeBytes [] (planAddr 3 0 0) (toLE 8 w) }
     (s.core 3).issuing = true ∧ s.poisoned (planAddr 3 0 0) 8 = false ∧ s.planWord 3 = w ∧ opcodeOf w = 0x0A ∧ s.stalled 3 w = true) := by
  try dsimp only
  repeat' first | apply atIssue_of | apply And.intro
  all_goals decide

theorem witness_control_ops :
    (Issues (runs 0) 3 0 0) ∧ (Issues (runs (word 2 [(0, 7)])) 3 2 (word 2 [(0, 7)])) ∧
    (Issues (runs (word 3 [])) 3 3 (word 3 []) ∧ branchCond 0 (((runs (word 3 [])).core 3).reg true 0) 0 = true) ∧
    (let w := word 3 [(49, 1), (48, 1)]; Issues (runs w) 3 3 w ∧ branchCond 1 (((runs w).core 3).reg true 0) 0 = false) ∧
    (let w := word 4 []; Issues (runs w) 3 4 w ∧ ((runs w).core 3).sreg 0 = 0) ∧
    (let w := word 4 []; Issues (runs w 4 1) 3 4 w ∧ ((runs w 4 1).core 3).sreg 0 = 1) ∧
    (let w := word 4 []; Issues (runs w 4 2) 3 4 w ∧ 1 < ((runs w 4 2).core 3).sreg 0) ∧
    (let w := word 4 [(48, 1), (21, 65535)]; Issues (runs w 4 2) 3 4 w ∧ 1 < ((runs w 4 2).core 3).sreg 0) ∧
    (Issues (runs (word 5 [(49, 5)])) 3 5 (word 5 [(49, 5)])) := by
  try dsimp only
  repeat' first | apply issues_of | apply And.intro
  all_goals decide

theorem witness_halt_and_batch :
    Issues (runs (word 1 [(0, 0x10005)])) 3 1 (word 1 [(0, 0x10005)]) ∧ Issues (runs (word 8 [])) 3 8 (word 8 []) ∧
    Issues (runs (word 9 [])) 3 9 (word 9 []) ∧ ((runs (word 9 [])).core 3).seq.openBatch = none ∧
    Issues (runs (word 0xA [])) 3 0xA (word 0xA []) ∧ ((runs (word 0xA [])).core 3).seq.latch = none ∧
    (let w := word 9 []
     let s := { with1 3 (coreOf { regs 4 0 with openBatch := some 0 }) with mem := Mem.writeBytes [] (planAddr 3 0 0) (toLE 8 w) }
     Issues s 3 9 w ∧ (s.core 3).seq.openBatch ≠ none) ∧
    (let w := word 0xA []
     let s := { with1 3 (coreOf { regs 4 0 with latch := some ⟨4, 0, 0⟩ }) with mem := Mem.writeBytes [] (planAddr 3 0 0) (toLE 8 w) }
     Issues s 3 0xA w ∧ (s.core 3).seq.latch = some ⟨4, 0, 0⟩) ∧
    (let w := word 8 []
     let s := { with1 3 (coreOf { regs 4 0 with mapBank := 1 }) with mem := Mem.writeBytes [] (planAddr 3 0 0) (toLE 8 w) }
     Issues s 3 8 w ∧ s.sampledBank 3 ≠ (s.core 3).seq.mapBank) := by
  try dsimp only
  repeat' first | apply issues_of | apply And.intro
  all_goals decide

theorem witness_array_ops :
    (let w := word 0x10 [(53, 1), (54, 1)]
     (Issues (runs w) 3 0x10 w ∧ 0 < ((runs w).core 3).bound (mvmKb w)) ∧
     (Issues (runs w 0) 3 0x10 w ∧ ((runs w 0).core 3).bound (mvmKb w) = 0 ∧ ∀ o, o ∈ ((runs w 0).core 3).seq.ops → o.seq < 0)) ∧
    (let w := word 0x11 [(55, 1)]
     (Issues (runs w 8) 3 0x11 w ∧ 0 < ((runs w 8).core 3).bound (kbOf w)) ∧ (Issues (runs w 0) 3 0x11 w ∧ ((runs w 0).core 3).bound (kbOf w) = 0)) ∧
    Issues (runs (word 0x12 []) 64) 3 0x12 (word 0x12 []) ∧ Issues (runs (word 0x13 [])) 3 0x13 (word 0x13 []) := by
  try dsimp only
  repeat' first | apply issues_of | apply And.intro
  all_goals decide

theorem witness_moves_and_sync_ops :
    (let w := word 0x18 []; (Issues (runs w) 3 0x18 w ∧ 0 < ((runs w).core 3).bound (kbOf w)) ∧ Issues (runs w 0) 3 0x18 w) ∧
    (let w := word 0x19 []; (Issues (runs w) 3 0x19 w ∧ 0 < ((runs w).core 3).bound (kbOf w)) ∧ Issues (runs w 0) 3 0x19 w) ∧
    (let w := word 0x19 [(48, 1)]; Issues (runs w 8) 3 0x19 w ∧ 0 < ((runs w 8).core 3).bound (kbOf w)) ∧
    Issues (runs (word 0x1A [(39, 1)])) 3 0x1A (word 0x1A [(39, 1)]) ∧ Issues (runs (word 0x1B [(39, 1)])) 3 0x1B (word 0x1B [(39, 1)]) ∧
    Issues (runs (word 0x1B [(48, 1)])) 3 0x1B (word 0x1B [(48, 1)]) ∧
    Issues (runs (word 6 [(49, 1), (5, 0x10005)])) 3 6 (word 6 [(49, 1), (5, 0x10005)]) ∧ Issues (runs (word 6 [])) 3 6 (word 6 []) ∧
    Issues (runs (word 0x20 [(0, 0x1003F)])) 3 0x20 (word 0x20 [(0, 0x1003F)]) ∧
    Issues (runs (word 0x21 [(0, 0x10000)])) 3 0x21 (word 0x21 [(0, 0x10000)]) := by
  try dsimp only
  repeat' first | apply issues_of | apply And.intro
  all_goals decide

theorem witness_waits :
    (let w := word 0x22 []; Issues (runs w) 3 0x22 w ∧ waittTarget ((runs w).core 3) w ≤ (runs w).time.gtc) ∧
    (let w := word 0x22 []; Issues (runs w 4 1) 3 0x22 w ∧ (runs w 4 1).time.gtc < waittTarget ((runs w 4 1).core 3) w) ∧
    (let w := word 0x23 [(48, 1), (8, 2)]; Issues (runs w) 3 0x23 w ∧ bit w 48 = true) ∧
    (let w := word 0x23 []; Issues (runs w) 3 0x23 w ∧ bit w 48 = false ∧
      (((runs w).core 3).sreg (field w 3 5) + 2 ^ 32 - (runs w).phaseOf (field w 0 3)) % 2 ^ 32 = 0) ∧
    (let w := word 0x23 []; Issues (runs w 4 9) 3 0x23 w ∧ bit w 48 = false ∧
      (((runs w 4 9).core 3).sreg (field w 3 5) + 2 ^ 32 - (runs w 4 9).phaseOf (field w 0 3)) % 2 ^ 32 = 8 + 1) := by
  try dsimp only
  repeat' first | apply issues_of | apply And.intro
  all_goals decide

theorem witness_outputs_and_fault_path :
    (let w := word 0x28 []; (Issues (runs w) 3 0x28 w ∧ 0 < ((runs w).core 3).bound (kbOf w)) ∧ Issues (runs w 0) 3 0x28 w) ∧
    (let w := word 0x28 [(48, 1), (17, 5)]; Issues (runs w) 3 0x28 w) ∧
    (let w := word 0x28 [(48, 1), (49, 1), (17, 5)]; Issues (runsSentinel w) 576 0x28 w) ∧
    (let w := word 0x28 [(48, 1), (17, 5)]
     let s := { with1 3 { coreOf (regs 4 0) with head0 := some { hdr 2 with sentDeadline := 0 } } with
       mem := Mem.writeBytes [] (planAddr 3 0 0) (toLE 8 w) }
     Issues s 3 0x28 w ∧ (s.core 3).head (s.core 3).seq.bank = some { hdr 2 with sentDeadline := 0 }) ∧
    Issues (runs (word 0x29 [])) 3 0x29 (word 0x29 []) ∧
    (let s := with1 3 (coreOf { regs 4 0 with faultPend := some ⟨1, 0, 0⟩ })
     let k := s.core 3
     k.seq.faultPend = some ⟨1, 0, 0⟩ ∧ k.state = .running ∧ k.seq.ops = [] ∧ k.head k.seq.bank = some (hdr 2) ∧ bit (hdr 2).flags 1 = true ∧
       k.seq.inHandler = false) ∧
    (let k := (with1 3 { coreOf { regs 4 0 with faultPend := some ⟨1, 0, 0⟩ } with head0 := some (hdr 0) }).core 3
     k.seq.faultPend = some ⟨1, 0, 0⟩ ∧ k.head k.seq.bank = some (hdr 0) ∧ bit (hdr 0).flags 1 = false) ∧
    (let k := (with1 3 (coreOf { regs 4 0 with faultPend := some ⟨1, 0, 0⟩, inHandler := true })).core 3
     k.seq.faultPend = some ⟨1, 0, 0⟩ ∧ k.seq.inHandler = true) := by
  try dsimp only
  repeat' first | apply issues_of | apply And.intro
  all_goals decide

/-! ## Ops in flight -/

/-- An MVM on engine 0 with two reads to make. -/
def mvmOp (todo : List ReadGroup) : MvmOp :=
  { leng := 0, eng := 0, tile := 1, row := 2, acc := false, ifmt := 0, bound := 4, line := 0, inputs := some [1, 2, 3, 4], todo := todo, sums := [],
    clipped := [], refSat := [], adcClip := false, corrClip := false, combClip := false, reads := 0, lowconf := false, lcCause := 0,
    budget := 16, thresh := 6, repeats := 3, scale := 0x4000 }

def row0 : RowWrite := ⟨1, 2, false, false, 128, []⟩

theorem witness_reads_and_commits :
    (let o := inFlight (.mvm (mvmOp [⟨0, [0], true⟩, ⟨1, [0], true⟩]))
     let s := flies [o]
     (s.core 3).seq.ops.find? (fun o => o.busyOn 0) = some o ∧ s.atbRamps 3 = false ∧ (true && (s.eng 3 0).regs.corrCommit) = false) ∧
    (let o := { inFlight (.mvm (mvmOp [])) with rows := [row0], pend := [1] }
     let s := flies [o]
     s.op 3 0 = some o ∧ o.formed = true ∧ o.rows ≠ [] ∧ o.rows.find? (fun w => (s.core 3).mayCommit 0 w.tile w.row) = some row0) ∧
    (let p := { inFlight (.mvm (mvmOp [])) with rows := [row0], pend := [1] }
     let o := { p with seq := 1 }
     let s := flies [p, o]
     s.op 3 1 = some o ∧ o.formed = true ∧ ∀ w, w ∈ o.rows → (s.core 3).mayCommit 1 w.tile w.row = false) ∧
    (let p := { inFlight (.mvm (mvmOp [])) with rows := [row0], pend := [1] }
     let o := { p with seq := 1, rows := [row0, { row0 with tile := 2 }], pend := [1, 2] }
     let s := flies [p, o]
     s.op 3 1 = some o ∧ o.rows.find? (fun w => (s.core 3).mayCommit 1 w.tile w.row) = some { row0 with tile := 2 }) := by
  decide

def drain0 : DrainOp :=
  { tile := 1, row0 := 0, n := 8, act := 0, fuse := 0, clear := false, pool := 0, ofmt := 0, dest := 7, param := 0, fusel := 0, leak := 0,
    mean := false, scale := false, bias := false, started := false }

def dmm0 : DmmOp := ⟨8, 1, 4, 0, 1, 2, 0, 0, false, false, false⟩
def vop0 : VopOp := ⟨0, 8, 0, 1, 2, 0, 0, 0, false⟩

theorem witness_drain_and_dou :
    (let o := inFlight (.drain drain0)
     let s := flies [o]
     s.op 3 0 = some o ∧ (s.core 3).tileFree 0 1 = true ∧ (s.core 3).rowsOpen 0 1 0 8 false = true ∧ (s.core 3).mayRead 0 o.reads = true) ∧
    (let p := { inFlight (.mvm (mvmOp [])) with rows := [row0], pend := [1] }
     let o := { inFlight (.drain drain0) with seq := 1 }
     let s := flies [p, o]
     s.op 3 1 = some o ∧ (s.core 3).tileFree 1 1 = false) ∧
    (let o := inFlight (.drain { drain0 with started := true })
     let s := flies [o]
     s.op 3 0 = some o ∧ (s.core 3).mayWrite 0 o.writes = true) ∧
    (let o := inFlight (.dmm dmm0)
     let s := flies [o]
     (s.core 3).douHead = some o ∧ (s.core 3).mayRead 0 o.reads = true) ∧
    (let o := inFlight (.vop vop0)
     let s := flies [o]
     (s.core 3).douHead = some o ∧ (s.core 3).mayRead 0 o.reads = true) ∧
    (let o := { inFlight (.dmm { dmm0 with started := true }) with rows := [row0] }
     ((flies [o]).core 3).douHead = some o) ∧
    (let o := inFlight (.vop { vop0 with started := true })
     let s := flies [o]
     (s.core 3).douHead = some o ∧ s.op 3 0 = some o ∧ (s.core 3).mayWrite 0 o.writes = true) := by
  decide

/-- The bridge end of die 0 is open, or in a retrain of its bridge. -/
def opened (s : State) : State := { s with pwr := { s.pwr with crossings := [(0, true)] } }
def retraining (s : State) : State := { s with svc := { s.svc with bridges := [(0, ⟨16, true, 0⟩), (4, ⟨16, true, 0⟩)] } }

/-- The way from a die to another is open, its ratios met. -/
def wayOpen (s : State) (a b : Nat) : Bool := !s.pathStalls a b && (s.pathShut a b).isNone && !s.pathUnmet a b

/-- A frame on its way to window 0 of core 3, which has room for two frames of a line each. -/
def framed : State :=
  { with1 3 { coreOf (regs 4 0) with wins := [⟨8 + 2 * 2 ^ 13 + 1 * 2 ^ 26 + 1 * 2 ^ 32 + 2 * 2 ^ 48, 0, 0⟩] } with
    net := ⟨[], [], [⟨3, 0, 0x100, 0, 77, 1, [1, 2], [4], []⟩], []⟩
    pwr := { Power.reset with crossings := [(0, true)] } }

theorem witness_moves_and_frames :
    (let o := inFlight (.load 2 0 8191)
     let s := opened (flies [o])
     (s.op 3 0 = some o ∧ (s.core 3).mayWrite 0 [(8191, 2)] = true ∧ s.poisoned 0 128 = false ∧ wayOpen s 4 0 = true) ∧
     (retraining s).pathStalls 4 0 = true ∧ (flies [o]).pathShut 4 0 ≠ none ∧ (flies [o]).pathStalls 4 0 = false ∧
     ({ s with svc := { s.svc with poison := [120] } } : State).poisoned 0 128 = true) ∧
    (let o := inFlight (.store 2 0 5)
     let s := opened (flies [o])
     s.op 3 0 = some o ∧ (s.core 3).mayRead 0 o.reads = true ∧ wayOpen s 0 4 = true ∧ (retraining s).pathStalls 0 4 = true ∧
       (flies [o]).pathShut 0 4 = some 0 ∧ (flies [o]).pathStalls 0 4 = false) ∧
    (let o := inFlight (.storeRows 8 0 0 5)
     let s := flies [o]
     s.op 3 0 = some o ∧ (s.core 3).rowsWritten 0 0 0 8 = true ∧ (s.core 3).rowsOpen 0 0 0 8 false = true ∧ (s.core 3).mayWrite 0 o.writes = true) ∧
    (let k := framed.core 3
     let f := k.wins.getD 0 ⟨0, 0, 0⟩
     takeFrame 3 0 framed.net.frames = some (⟨3, 0, 0x100, 0, 77, 1, [1, 2], [4], []⟩, []) ∧ framed.pathStalls 4 (dieOf 3) = false ∧
       framed.pathShut 4 (dieOf 3) = none ∧ framed.pathUnmet 4 (dieOf 3) = false ∧ field f.word 13 13 = 2 ∧
       k.comm.crossing = true ∧ k.ctx ≠ none ∧ k.comm.epoch = 1 ∧
       (syncCount (framed.sync (winArrived 3 f)) + 2 ^ 24 - syncCount (framed.sync (winConsumed 3 f))) % 2 ^ 24 < field f.word 13 13 ∧
       2 ≤ 64 * field f.word 26 6) := by
  decide

def msg0 : Msg := ⟨0, 4, 3, 1, 1, 1, 64, 0, 0, 0, (0, 0, 0), 0, [], none, []⟩

/-- Core 3 with messages under way. -/
def mailed (l : List Msg) (ops : List Op := []) : State := { flies ops with net := ⟨l, [], [], []⟩ }

theorem witness_messages :
    (let s := with1 3 { coreOf (regs 0 0) with comm := { Core.reset.comm with epoch := 1 } }
     (s.core 3).ctx ≠ none ∧ (s.core 3).comm.crossing = false ∧ s.routerStatus msg0 = 4) ∧
    (with1 4 (coreOf (regs 0 0))).routerStatus msg0 = 3 ∧
    (let s := with1 3 (coreOf (regs 0 0))
     (s.core 3).comm.crossing = true ∧ (s.core 3).ctx ≠ none ∧ (s.core 3).comm.epoch = 1 ∧ s.routerStatus msg0 = 0 ∧
       s.routerStatus { msg0 with destEpoch := 2 } = 3 ∧ s.routerStatus { msg0 with destEpoch := 0 } = 3) := by
  decide

theorem witness_arrivals :
    (let s := mailed [msg0, { msg0 with kind := 1 }]
     s.pathStalls 0 0 = false ∧ s.pathShut 0 0 = none ∧ s.pathUnmet 0 0 = false ∧ dieOf 4 = 0 ∧ dieOf 3 = 0 ∧
       nextMsg 4 3 s.net.msgs = some (msg0, [{ msg0 with kind := 1 }]) ∧ s.routerStatus msg0 = 0) ∧
    (let s := mailed [{ msg0 with kind := 1 }, msg0]
     nextMsg 4 3 s.net.msgs = some ({ msg0 with kind := 1 }, [msg0]) ∧ s.routerStatus { msg0 with kind := 1 } = 0 ∧
       s.routerStatus { msg0 with kind := 1, destEpoch := 2 } ≠ 0) ∧
    (let m := { msg0 with destEpoch := 2 }
     let s := mailed [m]
     nextMsg 4 3 s.net.msgs = some (m, []) ∧ s.routerStatus m ≠ 0) ∧
    (let m := { msg0 with src := 160 }
     let s := mailed [m]
     nextMsg 160 3 s.net.msgs = some (m, []) ∧ s.pathStalls (dieOf 160) (dieOf 3) = false ∧ s.pathShut (dieOf 160) (dieOf 3) = some 1 ∧
       ({ s with svc := { s.svc with bridges := [(4, ⟨1, true, 0⟩)] } } : State).pathStalls (dieOf 160) (dieOf 3) = true) ∧
    (let o := inFlight (.send 0 1 1 0 true false)
     let m := { msg0 with kind := 2 }
     let s := mailed [m] [o]
     nextMsg 4 3 s.net.msgs = some (m, []) ∧ takeMsg (fun m => m.kind == 2 && m.dst == 3 && m.op == 0) s.net.msgs = some (m, []) ∧
       m.src = 4 ∧ m.srcEpoch = (s.core 3).comm.epoch ∧ m.aux ≠ 3 ∧ s.op 3 0 = some o) := by
  decide

def upd0 : SyncUpd := ⟨262149, false, 1, 0, false, false, coreSource 3, none, false⟩

theorem witness_sync_and_waits :
    (let s := { with1 3 (coreOf (regs 0 0)) with net := ⟨[], [upd0], [], []⟩, pwr := { Power.reset with crossings := [(0, true)] } }
     takeSync 262149 s.net.syncs = some (upd0, []) ∧ s.memOk = true ∧ s.poisoned (syncAddr 262149) 4 = false ∧
       s.pathStalls upd0.ends.1 upd0.ends.2 = false ∧ s.pathShut upd0.ends.1 upd0.ends.2 = none ∧
       s.storeUnmet upd0.ends.1 upd0.ends.2 = false) ∧
    (let asked := fun (s : State) (o : Op) => (s.core 3).seq.ops.find? (fun o => o.asks.isSome) = some o ∧ wayOpen s 4 0 = true ∧
       s.storeUnmet 0 4 = false
     (let o := inFlight (.wait 262149 0 none (some 1)); asked (opened (flies [o])) o) ∧
     (let o := inFlight (.wait 262149 0 none none)
      asked (opened (flies [o])) o ∧ reached ((flies [o]).sync 262149) 0 = true ∧ (flies [o]).pathShut 4 0 ≠ none) ∧
     (let o := inFlight (.wait 262149 1 none none)
      asked (opened (flies [o])) o ∧ reached ((flies [o]).sync 262149) 1 = false ∧ (flies [o]).poisoned (syncAddr 262149) 4 = false) ∧
     (let o := inFlight (.ldkSync false 0 262149)
      asked (opened (flies [o])) o ∧ (flies [o]).poisoned (syncAddr 262149) 4 = false ∧ (flies [o]).pathShut 4 0 ≠ none)) ∧
    (let o := inFlight (.waitt 0)
     ((flies [o]).core 3).seq.ops.find? (fun o => match o.body with | .waitt t => decide (t ≤ (flies [o]).time.gtc) | _ => false) = some o) ∧
    (let s := with1 576 { coreOf (regs 0 0) with watchdog := some (0, 1000) }
     (s.core 576).watchdog = some (0, 1000) ∧ s.time.up - 0 < 1000 ∧
       ({ s with time := { s.time with up := 1000 } } : State).time.up - 0 = 1000 ∧ s.cfg 0x2330 3 = 1 ∧
       ({ s with sets := { s.sets with active := [(odKey 0x2330 3, 0)] } } : State).cfg 0x2330 3 ≠ 1) := by
  decide

/-! ## Core memory and engines -/

theorem witness_core_memory :
    ((State.reset.pathShut 4 0 = some 0) ∧ (opened State.reset).pathShut 4 0 = none ∧ ((opened State.reset).core 3).comm.crossing = false) ∧
    (let s := opened (flies [inFlight (.mvm (mvmOp [⟨0, [0], true⟩]))])
     wayOpen s 4 0 = true ∧
     let u : State := { s with sets := { s.sets with active := [(odKey 0x2210 3, 2), (odKey 0x2210 2, 13)] } }
     u.pathShut 4 0 = none ∧ u.pathUnmet 4 0 = true) ∧
    (let s := flies [inFlight (.mvm (mvmOp [⟨0, [0], true⟩]))]
     (s.core 3).comm.crossing = true ∧ s.engBusy 3 0 = true ∧ s.engBusy 3 1 = false ∧ (s.core 3).state = .running ∧ (s.core 3).seq.ops ≠ []) ∧
    (let s := (with1 3 { coreOf (regs 0 0) with ana := { Ana.reset with pending := true } }).modEng 3 0 (fun g =>
       { g with trackWait := true, regs := { g.regs with corrCommit := true } })
     (s.eng 3 0).regs.corrCommit = true ∧ s.engBusy 3 0 = false ∧ (s.core 3).seq.ops = [] ∧ (s.core 3).ana.pending = true) ∧
    (let s := (flies [inFlight (.mvm (mvmOp [⟨0, [0], true⟩]))]).modEng 3 0 (fun g => { g with trackWait := true, trackAt := some 5 })
     let u : State := { s with time := { s.time with up := 1000005 } }
     isSentinel 3 = false ∧ (u.eng 3 0).trackWait = true ∧ u.engBusy 3 0 = true ∧ (u.eng 3 0).trackAt.getD 0 + 1000000 ≤ u.time.up ∧
       s.time.up < (s.eng 3 0).trackAt.getD 0 + 1000000) ∧ isSentinel 576 = true ∧ isSentinel 575 = false := by
  decide

/-- Core 3 with engine 0 as g, serving bank 0 of context 0. -/
def engined (g : Engine) (ops : List Op := []) : State :=
  (with1 3 (coreOf { regs 4 0 with ops := ops })).setEng 3 0 { g with owner := some (0, 0, 0) }

def eng0 : Engine := Engine.reset false
def busyOps : List Op := [inFlight (.mvm (mvmOp [⟨0, [0], true⟩]))]

/-- A state n ns after power-up. -/
def atUp (n : Nat) (s : State) : State := { s with time := { s.time with up := n } }

theorem witness_trackers :
    (0x8000 ≤ 0xFFFF) ∧
    (let s := engined { eng0 with test := { TestState.reset with estimates := [0x8000] } } busyOps
     s.cfg 0x2800 0x0D ≠ 0 ∧ s.paused = false ∧ s.periodOver (s.eng 3 0).trackAt (s.cfg 0x2800 5) = true ∧ (s.eng 3 0).test.estimates ≠ [] ∧
       isSentinel 3 = false ∧ s.cfg 0x2800 8 ≤ trackedTe (s.eng 3 0).te (s.eng 3 0).test.estimates ∧ s.engBusy 3 0 = true ∧
       (s.eng 3 0).trackWait = false) ∧
    (let s := engined { eng0 with te := 100, test := { TestState.reset with estimates := [100] } } busyOps
     trackedTe (s.eng 3 0).te (s.eng 3 0).test.estimates < s.cfg 0x2800 8 ∧ (s.eng 3 0).state = .inService ∧ (s.eng 3 0).owner ≠ none ∧
       s.engBusy 3 0 = true ∧ (s.eng 3 0).trackWait = false ∧ s.paused = false) ∧
    (let s := engined { eng0 with trackAt := some 0 }
     s.periodOver (s.eng 3 0).trackAt (s.cfg 0x2800 5) = false ∧ s.cfg 0x2800 0x0D ≠ 0 ∧ s.paused = false) ∧
    (State.reset.cfg 0x2800 0x0D ≠ 0 ∧ State.reset.paused = false ∧ (State.reset.eng 3 0).test.estimates = [] ∧
      (State.reset.eng 3 0).trackWait = false ∧ State.reset.periodOver (State.reset.eng 3 0).trackAt (State.reset.cfg 0x2800 5) = true) ∧
    (State.reset.time.up < State.reset.keep.teAt + 3600000000000 ∧
      State.reset.keep.teAt + 3600000000000 ≤ (atUp 3600000000000 State.reset).time.up) := by
  decide

theorem witness_health :
    (let s := engined eng0
     (s.eng 3 0).serving = true ∧ s.engBusy 3 0 = false ∧ (s.core 3).state ≠ .off ∧ s.onPilot 3 = false ∧ (s.eng 3 0).test.running = none ∧
       (s.eng 3 0).test.reads.length < 4 ∧ s.periodOver (s.eng 3 0).test.began (s.cfg 0x2800 4) = true ∧
       s.periodOver (s.eng 3 0).health.scored (s.cfg 0x2800 4) = true) ∧
    (let s := engined { eng0 with test := { TestState.reset with began := some 0 }, health := { Health.reset with scored := some 0 } }
     (s.eng 3 0).test.reads = [] ∧ s.periodOver (s.eng 3 0).test.began (s.cfg 0x2800 4) = false ∧ (s.eng 3 0).test.running = none ∧
       s.periodOver (s.eng 3 0).health.scored (s.cfg 0x2800 4) = false) ∧
    (let s := engined { eng0 with test := { TestState.reset with reads := [[]], began := some 0 } }
     (s.eng 3 0).test.reads ≠ [] ∧ (s.eng 3 0).test.reads.length < 4 ∧ (s.eng 3 0).test.running = none) ∧
    (let s := engined eng0 busyOps
     s.engBusy 3 0 = true ∧ (s.eng 3 0).test.running = none) ∧
    (let s := engined { eng0 with test := { TestState.reset with reads := [[], [], [], []] } }
     (s.eng 3 0).test.running = none ∧ 4 ≤ (s.eng 3 0).test.reads.length) ∧
    (let s := engined { eng0 with test := { TestState.reset with reads := [[], []], running := some (0, [1]) } }
     (s.eng 3 0).test.running = some (0, [1]) ∧ (s.eng 3 0).test.reads.length < 3) ∧
    (State.reset.eng 3 0).serving = false := by
  decide

/-- A programming with two devices of one line left. -/
def job0 : ProgJob :=
  { key := 1, step := 1, wfmt := 0, goal := [], goalStuck := [], pending := [0, 1], later := [], overs := [], pulses := [], stuck := [], got := [],
    granted := false, use := .block 0 0 0 }

theorem witness_stoking :
    (State.reset.stokable 3 0 = false) ∧
    (let s := { engined eng0 with sets := { Sets.reset with active := [(odKey 0x2800 1, 1)] } }
     s.stokable 3 0 = true ∧ s.surveyTurn 3 0 0 = true ∧ s.surveyTurn 3 0 5 = false ∧
       (∀ k ∈ (s.eng 3 0).stoke.flagged, devRow k / 64 ≠ 7) ∧ (s.sliceOf 3 0 (s.sliceRoom 3 0) []).job.stuck = []) ∧
    (let s := { engined { eng0 with stoke := { Stoke.reset with lastAt := [(3, 7)] } } with
       sets := { Sets.reset with active := [(odKey 0x2800 1, 1), (odKey 0x2800 3, 3600)] } }
     s.stoked 3 0 = true ∧ 15 ∉ (s.eng 3 0).stoke.overdue ∧ Tab.find (s.eng 3 0).stoke.lastAt 3 = some 7 ∧
       Tab.find (s.eng 3 0).stoke.lastAt 15 = none ∧ s.time.up - 7 < 1000000000 * s.cfg 0x2800 3 ∧
       1000000000 * s.cfg 0x2800 3 ≤ (atUp 3600000000007 s).time.up - 7) := by
  decide

theorem witness_damper :
    (let s := engined { eng0 with job := some job0 }
     let z : State := { s with damper := { s.damper with waiting := [(150, 0)] } }
     (s.eng 3 0).job = some job0 ∧ s.paused = false ∧ engKey 3 0 = 150 ∧ s.asks 150 = some (job0.current (s.eng 3 0)) ∧
       z.damperTurn = some 150 ∧ (∀ k ∈ z.damper.waiting.map (·.1), z.fits k = true → Tab.get 0 z.damper.losses k < 16) ∧
       ({ z with damper := { z.damper with railOk := false } } : State).damperTurn = none) ∧
    (let j := { job0 with granted := true }
     let s := engined { eng0 with job := some j }
     (s.eng 3 0).job = some j ∧ s.asks 150 = none) := by
  decide

/-- Engine 0 of core 3 with column 5 scheduled for repair. -/
def repairing (g : Engine) (t : Stage) : State :=
  { engined { g with repairSched := [5] } with
    stage := t
    ctxs := [(0, { Ctx.reset with bank0 := { Bank.reset with state := .imago, blocks := [⟨0, 0, 0, false, 0, 0, 0, 3, 0, true, true, false⟩] } })] }

theorem witness_columns :
    (let s := repairing { eng0 with regs := { eng0.regs with repair := [1, 2, 3, 4] } } Stage.reset
     s.paused = false ∧ isSentinel 3 = false ∧ (s.eng 3 0).job = none ∧ (s.eng 3 0).serving = true ∧ (s.eng 3 0).phys 5 = 5 ∧
       s.columnDue (s.eng 3 0) 5 = true ∧ (s.eng 3 0).regs.freeRepair = none) ∧
    (let s := repairing eng0 Stage.reset
     s.columnDue (s.eng 3 0) 5 = true ∧ (s.eng 3 0).phys 5 = 5 ∧ (s.eng 3 0).regs.freeRepair = some 0 ∧ (s.eng 3 0).owner = some (0, 0, 0) ∧
       ((s.ctx 0).bank 0).indexOf 3 0 = some 0 ∧ s.blockHere 0 0 0 = false) ∧
    (let s := repairing eng0 { Stage.reset with block := some ⟨0, 0, 0, 0, true, none⟩ }
     s.columnDue (s.eng 3 0) 5 = true ∧ s.blockHere 0 0 0 = true) := by
  decide

/-! ## Contexts -/

/-- The management controller serves; session 0 holds the level. -/
def serving (level : Nat) (x : State := State.reset) : State :=
  { x with pwr := { x.pwr with powerGood := true }, fw := { x.fw with serving := true }, sessions := [(0, { Session.reset with level := level })] }

def servedB (s : State) (ses level : Nat) : Bool := s.reachable ses && s.serves && decide (level ≤ (s.session ses).level)

theorem served_of {s : State} {ses level : Nat} (h : servedB s ses level = true) : Served s ses level := by
  simpa [servedB, Served, and_assoc] using h

def bankOf (st : BankState) : Bank := { Bank.reset with state := st }

/-- A block of logical engine 0 on engine 0 of core 3, verified or not. -/
def block0 (crc : Nat) (verified : Bool) : Block := ⟨0, 0, 0, false, 2, crc, 0, 3, 0, true, verified, false⟩

/-- Context 0 as k, the rest as reset; session 0 is a served Engineer. -/
def ctxed (k : Ctx) : State := { serving 2 with ctxs := [(0, k)] }

def stopped : Ctx := { Ctx.reset with state := .stopped, bank0 := bankOf .imago }

theorem witness_context_begin :
    ((serving 1).reachable 0 = true ∧ (serving 1).serves = true ∧ ((serving 1).session 0).level < 2 ∧ ((serving 0).session 0).level < 1) ∧
    (let s := ctxed { stopped with cmd := 6 }
     2 ≤ (s.session 0).level ∧ (s.ctx 0).cmd ≠ 0 ∧ s.reachable 0 = true ∧ s.serves = true) ∧
    (Served (serving 2) 0 2 ∧ ((serving 2).ctx 63).cmd = 0 ∧ ((serving 2).ctx 63).state = .none ∧ (serving 2).stageFree = true ∧
      (serving 2).stage.waiting = []) ∧
    (({ serving 2 with stage := { Stage.reset with install := some 1 } } : State).stageFree = false) ∧
    (Served (ctxed stopped) 0 2 ∧ ((ctxed stopped).ctx 0).sentinel = false ∧ ((ctxed stopped).ctx 0).state = .stopped ∧
      (((ctxed stopped).ctx 0).bank ((ctxed stopped).ctx 0).imago).state = .imago ∧
      (((ctxed stopped).ctx 0).bank (1 - ((ctxed stopped).ctx 0).imago)).state = .empty ∧ ((ctxed stopped).ctx 0).cmd = 0) := by
  repeat' first | with_reducible apply served_of | with_reducible apply And.intro
  all_goals decide

theorem witness_eclose_abort :
    (let k := { stopped with bank1 := bankOf .ready }
     Served (ctxed k) 0 1 ∧ k.cmd = 0 ∧ (k.bank k.imago).state = .imago ∧ (k.bank (1 - k.imago)).state = .ready ∧ k.eclosion = none) ∧
    ((stopped.bank (1 - stopped.imago)).state ≠ .ready ∧ Served (ctxed stopped) 0 2 ∧ (stopped.bank 1).state ≠ .chrysalis) ∧
    (let k := { Ctx.reset with state := .loading, bank0 := bankOf .chrysalis, cmd := 1 }
     Served (ctxed k) 0 2 ∧ k.bank0.state = .chrysalis ∧ k.cmd = 1) ∧
    (let k := { stopped with bank1 := bankOf .ready }
     Served (ctxed k) 0 2 ∧ k.bank0.state = .imago ∧ (k.bank 1).state = .ready ∧ k.cmd = 0) := by
  try dsimp only
  repeat' first | with_reducible apply served_of | with_reducible apply And.intro
  all_goals decide

/-- Context 0 on core 3, whose core is idle with a header in bank 0 and can be reached from the hub. -/
def placed (k : Ctx) : State :=
  opened { ctxed { k with cores := [3] } with cores := [(3, { coreOf (regs 0 0) with state := .idle })] }

theorem witness_start_stop :
    (let s := placed stopped
     Served s 0 2 ∧ (s.ctx 0).state = .stopped ∧ ((s.ctx 0).bank (s.ctx 0).imago).state = .imago ∧ s.coresAtRest 0 = true ∧
       (s.core 3).head (s.ctx 0).imago = some (hdr 2) ∧ (s.ctx 0).cmd = 0) ∧
    ({ placed stopped with cores := [(3, coreOf (regs 0 0))] } : State).coresAtRest 0 = false ∧
    (Served (placed { stopped with state := .running }) 0 1 ∧ ((placed { stopped with state := .running }).ctx 0).state = .running) ∧
    (let k := { stopped with state := .verifyHold }
     let r := (placed k).restoreCtx 0 [3]
     Served (placed k) 0 2 ∧ k.state = .verifyHold ∧ k.planMissing = false ∧ k.sentinel = false ∧ [3].all (placed k).coreReady = true ∧
       [3].filter (fun c => ((placed k).core c).atRest) = [3] ∧ r.missingPlan 0 = none ∧ (r.core 3).head (r.ctx 0).imago = some (hdr 2)) ∧
    (let p : StoredPlan := ⟨0, 0, 0, hdr 2, [], 0, [], true⟩
     let s : State := { ctxed { stopped with state := .verifyHold, cores := [3] } with
       cores := [(3, { coreOf (regs 0 0) with state := .idle, head0 := none })], keep := { HubKeep.reset with plans := [p] } }
     (s.restoreCtx 0 [3]).missingPlan 0 = some p) ∧
    (Served (placed { stopped with state := .verifying }) 0 2 ∧ (placed { stopped with state := .verifying }).coresAtRest 0 = true) := by
  try dsimp only
  repeat' first | with_reducible apply served_of | with_reducible apply And.intro
  all_goals decide

def lcore0 (engines : Nat) : Lcore := ⟨0, 0, 0, 0, engines, 0, 1, 1, 0, 0, 0, 0, 0, 0⟩

/-- Context 0 is loading onto die 0, which is on. -/
def loading (dies engines : Nat) : State :=
  { ctxed { Ctx.reset with state := .loading, groups := 1, cmd := 1, bank0 := { bankOf .chrysalis with lcores := [lcore0 engines] } } with
    pwr := { Power.reset with powerGood := true, dies := if dies = 0 then [] else [(0, 1)] }
    stage := { Stage.reset with evaluate := [0] } }

theorem witness_loads :
    (let s := loading 0 1
     s.place false 1 [lcore0 1] = none ∧ s.stage.evaluate = [0]) ∧
    (let s := loading 1 1
     s.place false 1 [lcore0 1] = some [0] ∧ (s.allocSync false [0] [lcore0 1]).isSome = true ∧ s.enginesFit [lcore0 1] [0] = true) ∧
    (let s := loading 1 60
     s.place false 1 [lcore0 60] = some [0] ∧ s.enginesFit [lcore0 60] [0] = false) ∧
    (let k := { Ctx.reset with state := .loading, cmd := 1, bank0 := bankOf .chrysalis }
     let s := ctxed k
     k.bank0.state = .chrysalis ∧ s.stage.install ≠ some 0 ∧ s.stage.waiting.contains 0 = false ∧ k.bank0.blocks.all (·.verified) = true) ∧
    (let k := { stopped with cmd := 2, bank1 := bankOf .chrysalis }
     (k.bank (1 - k.imago)).state = .chrysalis ∧ k.auto = false ∧ ({ k with auto := true } : Ctx).auto = true ∧ k.cmd = 2) ∧
    (let b := { bankOf .chrysalis with blocks := [{ block0 0 false with started := false, again := true }] }
     let s := ctxed { Ctx.reset with state := .loading, cmd := 1, bank0 := b }
     b.firstAgain = some ({ block0 0 false with started := false, again := true }, 0) ∧ s.stage.install = none ∧ s.blockHere 0 0 0 = false ∧
       ({ s with stage := { s.stage with block := some ⟨0, 0, 0, 0, true, none⟩ } } : State).blockHere 0 0 0 = true) ∧
    (State.reset.ctx 0).cmd ≠ 1 := by
  decide +kernel

def ecl (begun refused : Bool) (answered : List Nat) (attempts : Nat) : Eclosion :=
  ⟨1, 5, attempts, 0, 0, 0, true, begun, answered, refused, none⟩

/-- Context 0 on core 3 with an eclosion. -/
def eclosing (q : Eclosion) : State := placed { stopped with state := .running, bank1 := bankOf .ready, cmd := 3, eclosion := some q }

theorem witness_eclosion :
    (((eclosing (ecl false false [] 0)).ctx 0).eclosion = some (ecl false false [] 0) ∧
      (if (ecl false false [] 0).when_ = 1 then decide ((ecl false false [] 0).time ≤ 0) else (ecl false false [] 0).due) = true) ∧
    (let s := eclosing (ecl true false [] 0)
     3 ∈ (s.ctx 0).cores ∧ 3 ∉ (ecl true false [] 0).answered ∧ batchAtLeast ((s.core 3).seq.batchNo + 2 ^ 32 - 1) 5 = false) ∧
    (let s := { eclosing (ecl true false [] 0) with cores := [(3, coreOf { regs 0 0 with batchNo := 6 })] }
     batchAtLeast ((s.core 3).seq.batchNo + 2 ^ 32 - 1) 5 = true) ∧
    ((ecl true true [3] 2).refused = true ∧ (ecl true true [3] 2).attempts < 3 ∧ 3 ≤ (ecl true true [3] 3).attempts) ∧
    (let s := eclosing (ecl true false [3] 0)
     (s.ctx 0).cores.all ((ecl true false [3] 0).answered.contains ·) = true ∧ (ecl true false [3] 0).bank = 1 - (s.ctx 0).imago) ∧
    (let s := placed { stopped with state := .running, pointer := 1, bank0 := bankOf .draining, bank1 := bankOf .imago, switchAt := 5 }
     ((s.ctx 0).bank (1 - (s.ctx 0).imago)).state = .draining ∧
       (s.ctx 0).cores.all (fun c => s.coreDrained c (1 - (s.ctx 0).imago) (s.ctx 0).switchAt) = true ∧
       ({ s with cores := [(3, coreOf { regs 0 0 with committed := some (1, 5) })] } : State).coreDrained 3 0 5 = false) := by
  decide

/-! ## Images -/

/-- Numbers of n bytes at their places in an image. -/
def put (l : List (Nat × Nat × Nat)) : Mem := l.foldl (fun m f => Mem.writeBytes m f.1 (toLE f.2.1 f.2.2)) []

/-- The header of an image with one logical core, no engine of it and no block (Table 7.1). -/
def headerFields : List (Nat × Nat × Nat) :=
  [(0, 4, 0x49574453), (4, 2, 1), (0x008, 8, 77), (0x010, 2, 1), (0x012, 2, 512), (0x014, 2, 128), (0x016, 2, 128), (0x018, 2, 64), (0x01A, 1, 16),
   (0x01B, 1, 1), (0x01C, 2, 100), (0x01E, 2, 240), (0x020, 2, 1), (0x028, 8, 128), (0x030, 8, 192), (0x038, 8, 192), (0x040, 8, 65536),
   (0x048, 8, 65536)]

def headerBytes : List Byte := Mem.readBytes (put headerFields) 0 0x07C

theorem crc_first : (headerBytes.take 31).foldl crcByte 0xFFFFFFFF#32 = 0xe4d5b33d#32 := by decide +kernel
theorem crc_second : ((headerBytes.drop 31).take 31).foldl crcByte 0xe4d5b33d#32 = 0x30866ea8#32 := by decide +kernel
theorem crc_third : ((headerBytes.drop 62).take 31).foldl crcByte 0x30866ea8#32 = 0xf279382e#32 := by decide +kernel
theorem crc_fourth : (headerBytes.drop 93).foldl crcByte 0xf279382e#32 = 0x629027a9#32 := by decide +kernel

theorem headerBytes_cut : headerBytes = headerBytes.take 31 ++ ((headerBytes.drop 31).take 31 ++ ((headerBytes.drop 62).take 31 ++ headerBytes.drop 93)) := by
  decide +kernel

theorem header_crc : crc32c headerBytes = 2641352790 := by
  unfold crc32c
  rw [headerBytes_cut, List.foldl_append, List.foldl_append, List.foldl_append, crc_first, crc_second, crc_third, crc_fourth]
  decide

def headerMem : Mem := Mem.writeBytes (put headerFields) 0x07C (toLE 4 2641352790)

/-- A LOAD of context 0 with n bytes of the image in staging. -/
def staging (m : Mem) (n : Nat) : State :=
  { ctxed { Ctx.reset with state := .loading, cmd := 1, bank0 := bankOf .chrysalis } with
    mem := m, stage := { Stage.reset with install := some 0, bytes := n } }

/-- A state that holds a header of these bytes passes the checks of the header. -/
theorem header_ok {s : State} {bs : List Byte} {crc : Nat} (hc : crc32c bs = crc) (h : s.imgBytes 0 0x07C = bs)
    (hv : (s.imgNum 0 4, s.imgNum 4 2, s.imgNum 0x010 2, s.imgNum 0x07C 4) = (0x49574453, 1, 1, crc))
    (hg : (s.imgNum 0x012 2, s.imgNum 0x014 2, s.imgNum 0x016 2, s.imgNum 0x018 2, s.imgNum 0x01A 1, s.imgNum 0x01C 2, s.imgNum 0x01E 2) =
      (512, 128, 128, 64, 16, 100, 240))
    (hi : ∃ sen blocks planOff total, s.imgHeader = ⟨sen, 77, 1, 1, blocks, 128, 192, planOff, 65536, total, 0⟩ ∧
      blocks ≤ 1 ∧ 192 + 16 * blocks ≤ planOff ∧ planOff ≤ 65536 ∧ 65536 ≤ total) : s.headerCheck = 0 := by
  simp only [Prod.mk.injEq] at hv hg
  obtain ⟨sen, blocks, planOff, total, hi, h1, h2, h3, h4⟩ := hi
  simp only [State.headerCheck, h, hc, hv, hg, hi, ImgHeader.metaEnd]
  cases sen <;> simp <;> omega

theorem headerMem_ok (m : Mem) (n : Nat) (h : (staging m n).imgBytes 0 0x07C = headerBytes)
    (hv : ((staging m n).imgNum 0 4, (staging m n).imgNum 4 2, (staging m n).imgNum 0x010 2, (staging m n).imgNum 0x07C 4) =
      (0x49574453, 1, 1, 2641352790))
    (hg : ((staging m n).imgNum 0x012 2, (staging m n).imgNum 0x014 2, (staging m n).imgNum 0x016 2, (staging m n).imgNum 0x018 2,
      (staging m n).imgNum 0x01A 1, (staging m n).imgNum 0x01C 2, (staging m n).imgNum 0x01E 2) = (512, 128, 128, 64, 16, 100, 240))
    (hi : (staging m n).imgHeader = ⟨false, 77, 1, 1, 0, 128, 192, 192, 65536, 65536, 0⟩) : (staging m n).headerCheck = 0 :=
  header_ok header_crc h hv hg ⟨false, 0, 192, 65536, hi, by decide, by decide, by decide, by decide⟩

theorem witness_header_refused : (staging [] 128).stage.install = some 0 ∧ (staging [] 128).stage.staged = false ∧
    128 ≤ (staging [] 128).stage.bytes ∧ (staging [] 128).headerCheck ≠ 0 := by decide

theorem witness_images_checked :
    let s := staging headerMem 192
    s.headerCheck = 0 ∧ (staging headerMem 191).stage.bytes < s.imgHeader.metaEnd ∧ s.imgHeader.metaEnd ≤ s.stage.bytes ∧
      recordsOk s.imgHeader [] [s.imgLcore s.imgHeader 0] 0 0 = true ∧ s.stage.replan = false ∧ s.stage.isInstall = false := by
  refine ⟨headerMem_ok _ _ (by decide +kernel) (by decide +kernel) (by decide +kernel) (by decide +kernel), ?_⟩
  decide +kernel

theorem witness_records_refused :
    let s := staging (Mem.write headerMem 130 200) 192
    s.headerCheck = 0 ∧ s.imgHeader.metaEnd ≤ s.stage.bytes ∧ recordsOk s.imgHeader [] [s.imgLcore s.imgHeader 0] 0 0 = false := by
  refine ⟨headerMem_ok _ _ (by decide +kernel) (by decide +kernel) (by decide +kernel) (by decide +kernel), ?_⟩
  decide +kernel

/-- A plan section that has ended: nothing of it is left to flow; the running checksum is that of no byte. -/
def planned (crc : Nat) (replan : Bool) : State :=
  { staging [] 65536 with
    stage := { Stage.reset with install := some 0, staged := true, evaluated := true, bytes := 65536, metaCrc := crc, replan := replan } }

theorem witness_plan_section_ends :
    (let u := (planned 1 false).stageFlow
     u.stage.install = some 0 ∧ u.stage.plansDone = false ∧ u.stage.evaluated = true ∧ u.stage.payloadOff ≤ u.stage.crcAt ∧
       (u.ctx 0).cores.length ≤ u.stage.plansIn.length ∧ (BitVec.ofNat 32 u.stage.crc ^^^ 0xFFFFFFFF#32).toNat ≠ u.stage.metaCrc) ∧
    (let u := (planned 0 false).stageFlow
     (BitVec.ofNat 32 u.stage.crc ^^^ 0xFFFFFFFF#32).toNat = u.stage.metaCrc ∧ u.stage.replan = false) ∧
    (let u := (planned 0 true).stageFlow
     (BitVec.ofNat 32 u.stage.crc ^^^ 0xFFFFFFFF#32).toNat = u.stage.metaCrc ∧ u.stage.replan = true ∧ u.stage.install = some 0) := by
  decide +kernel

def fetching (f : Fetch) (up : Nat) : State := { State.reset with fetch := f, time := { TimeBase.reset with up := up } }

/-- An association in the state st with these commands outstanding. -/
def assoc (st : Nat) (out : List NvmeOut) : Fetch := { Fetch.reset with state := st, ready := 3, out := out, lbaSize := 512, maxRead := 131072 }

/-- A command on queue 0 made `tries` times more, with this data so far. -/
def command (k : NvmeCmd) (tries : Nat := 0) (got : List Byte := []) : NvmeOut := ⟨0, 9, k, 0, tries, got, false⟩

theorem witness_associations :
    (State.reset.fetch.state ≠ 1 ∧ State.reset.fetch.state ≠ 2 ∧ State.reset.fetch.state ≠ 3 ∧ State.reset.fetch.opening = none) ∧
    ({ assoc 1 [] with opening := some 2 }.opening = some 2) ∧
    (let f := assoc 1 []
     f.state = 1 ∧ f.attempts < f.set.retries) ∧
    (let f := { assoc 2 [] with attempts := 5 }
     f.state = 2 ∧ f.set.retries ≤ f.attempts) ∧
    ((staging [] 0).stage.install = some 0) ∧
    (let s := fetching { assoc 3 [] with backoff := 4 } 4000000000
     s.fetch.state = 3 ∧ 1000000000 * s.fetch.backoff ≤ s.time.up - s.fetch.since ∧ s.time.up - 1 - s.fetch.since < 1000000000 * s.fetch.backoff) ∧
    (let s := fetching (assoc 2 []) 5000000000
     0 < s.fetch.ready ∧ 500000000 * s.fetch.set.kato ≤ s.time.up - s.fetch.lastKeep ∧ 4999999999 - s.fetch.lastKeep < 500000000 * s.fetch.set.kato) := by
  decide

theorem witness_commands :
    (let o := command (.read 0 0 2)
     let s := fetching (assoc 2 [o]) 2000000000
     s.fetch.command 0 9 = some o ∧ s.fetch.command 0 8 = none ∧ o.tries < 3 ∧ o.got.length ≠ o.cmd.dataLen ∧ s.fetch.out = [o] ∧
       s.fetch.opening = none ∧ o.done = false ∧ 1000000 * s.fetch.set.timeout ≤ s.time.up - o.since ∧
       1999999999 - o.since < 1000000 * s.fetch.set.timeout) ∧
    (3 ≤ (command (.read 0 0 2) 3).tries ∧ (assoc 2 [command (.read 0 0 2) 3]).command 0 9 = some (command (.read 0 0 2) 3)) ∧
    (let o := command (.read 0 0 2) 0 [1, 2]
     o.got.length = o.cmd.dataLen ∧ o.isRead = true ∧ (assoc 2 [o]).command 0 9 = some o ∧ (assoc 2 [o]).out = [o]) ∧
    (let o := command (.connect 0)
     o.got.length = o.cmd.dataLen ∧ (assoc 1 [o]).command 0 9 = some o) ∧
    (let o := { command (.connect 1) with queue := 1 }
     o.got.length = o.cmd.dataLen ∧ (assoc 1 [o]).command 1 9 = some o ∧ 0 + 1 < (assoc 1 [o]).set.queues) ∧
    (let o := { command (.connect 2) with queue := 2 }
     (assoc 1 [o]).command 2 9 = some o ∧ (assoc 1 [o]).set.queues ≤ 1 + 1) ∧
    (let o := command .propertySet
     o.got.length = o.cmd.dataLen ∧ (assoc 1 [o]).command 0 9 = some o) := by
  decide

theorem witness_identify :
    (let o := command (.identify 0) 0 (List.replicate 4096 0)
     (assoc 1 [o]).command 0 9 = some o ∧ lbaBytes o.got = none) ∧ (List.replicate 4096 (0 : Byte)).length = 4096 ∧
    (let o := command (.identify 1) 0 (List.replicate 4096 0)
     (assoc 1 [o]).command 0 9 = some o) := by
  refine ⟨⟨?_, ?_⟩, List.length_replicate, ?_⟩ <;> first | decide +kernel | rfl

theorem witness_image_bytes :
    (let s := { staging [] 0 with fetch := assoc 2 [command (.read 0 0 2)] }
     s.fetch.state = 2 ∧ s.stage.block = none ∧ s.stage.install = some 0 ∧ s.memOk = true ∧
       s.fetch.command 0 9 = some (command (.read 0 0 2)) ∧ s.fetch.command 1 9 = none ∧ 0 + 2 ≤ (command (.read 0 0 2)).cmd.dataLen ∧
       (command (.read 0 0 2)).cmd.dataLen < 0 + 3) ∧
    (State.reset.fetch.state ≠ 2 ∧ State.reset.stage.install = none ∧ 65536 ≤ State.reset.stage.slots * 65536) ∧
    ((some (BlockReq.mk 0 0 0 0 false none)) = some ⟨0, 0, 0, 0, false, none⟩ ∧ (BlockReq.mk 0 0 0 0 false none).ready = false) ∧
    (let s := { staging [] 0 with stage := { Stage.reset with install := some 0, source := 1, tail := 10, staged := true, totalLen := 65536 } }
     s.stage.install = some 0 ∧ s.stage.source = 1 ∧ 9 < s.stage.tail ∧ s.stage.tail ≤ 65536 ∧
       ({ s with stage := { s.stage with tail := 65537, bytes := 65537 } } : State).pastImage 65537 = true ∧
       ({ s with stage := { s.stage with tail := 65536, bytes := 65536 } } : State).pastImage 65536 = false) := by
  decide

theorem witness_reads_addressed :
    State.reset.stage.block = none ∧
    (let s := { ctxed { Ctx.reset with bank0 := { bankOf .imago with blocks := [block0 0 true] } } with
       stage := { Stage.reset with block := some ⟨0, 0, 0, 0, false, none⟩ } }
     s.stage.block = some ⟨0, 0, 0, 0, false, none⟩ ∧ ((s.ctx 0).bank 0).blocks[0]? = some (block0 0 true)) := by
  decide

/-- Block 0 of context 0's bank is wanted of the PCIe host; its checksum is that of a payload of zeros. -/
def wanted (crc : Nat) : State :=
  { ctxed { Ctx.reset with bank0 := { bankOf .imago with blocks := [block0 crc true], source := 1 } } with
    stage := { Stage.reset with block := some ⟨0, 0, 0, 0, false, none⟩ } }

theorem witness_single_block :
    (∀ crc, (wanted crc).stage.block = some ⟨0, 0, 0, 0, false, none⟩ ∧ (((wanted crc).ctx 0).bank 0).source = 1 ∧
      ((wanted crc).ctx 0 |>.bank 0).blocks[0]? = some (block0 crc true) ∧
      (wanted crc).payloadCrc 0 = State.reset.payloadCrc 0 ∧ (wanted crc).payloadOk 0 0 = true) ∧ Served (wanted 0) 0 2 := by
  refine ⟨fun crc => ⟨rfl, rfl, rfl, rfl, ?_⟩, served_of (by decide)⟩
  have h : ∀ a, Mem.num (wanted crc).mem a 1 = 0 := fun a => rfl
  simp [State.payloadOk, State.payloadCode, h, toSigned]

/-! ## Engines and cores replaced -/

def used : Block := block0 0 true

/-- Engine 0 of core 3 serves context 0's bank 0 in the state st. -/
def due (st : EngState) (t : Stage) (k : Core) (g : Engine) : State :=
  ({ ctxed { stopped with bank0 := { bankOf .imago with blocks := [used] } } with stage := t, cores := [(3, k)] }).setEng 3 0
    { g with state := st, owner := some (0, 0, 0) }

theorem witness_engine_requests :
    (Served (serving 2) 0 2 ∧ (serving 2).present 3 = true ∧ ((serving 2).eng 3 49).state = .inService ∧ isSentinel 3 = false ∧
      (serving 2).present 584 = false ∧ (serving 2).present 583 = true ∧ isSentinel 583 = true) ∧
    (let s := (serving 2).modEng 3 0 (fun g => { g with state := .dead })
     Served s 0 2 ∧ (s.eng 3 0).state ≠ .inService ∧ (s.eng 3 0).state ≠ .renewSched) ∧
    (let s := { serving 2 with cores := [(3, coreOf (regs 0 0))] }
     Served s 0 2 ∧ (s.core 3).ctx ≠ none ∧ s.replacing 3 = false) ∧ ((serving 2).core 3).ctx = none := by
  try dsimp only
  repeat' first | with_reducible apply served_of | with_reducible apply And.intro
  all_goals decide

theorem witness_engine_exchange :
    (let s := due .inService Stage.reset Core.reset eng0
     (s.eng 3 0).owner = some (0, 0, 0) ∧ ((s.ctx 0).bank (s.ctx 0).imago).indexOf 3 0 = some 0 ∧ (s.eng 3 0).state.due = false) ∧
    (let s := due .retireSched Stage.reset Core.reset eng0
     s.urgentFirst 3 0 = false ∧ (s.eng 3 0).state.due = true ∧ (s.eng 3 0).chrysalis = false ∧ 0 = (s.ctx 0).imago ∧ ((s.ctx 0).bank 0).state = .imago ∧
       ((s.ctx 0).bank 1).state = .empty ∧ s.exchanging 0 = false ∧ s.freeEngines 3 = 1 :: (List.range 48).map (· + 2) ∧ s.blockHere 0 0 0 = false) ∧
    (let s := due .retireSched { Stage.reset with block := some ⟨0, 0, 0, 0, true, none⟩ } Core.reset eng0
     s.blockHere 0 0 0 = true) ∧
    (let s := (due .retireSched Stage.reset Core.reset eng0).setEng 4 0 { eng0 with state := .belowNow, owner := some (0, 0, 0) }
     (s.eng 3 0).owner = some (0, 0, 0) ∧ ((s.ctx 0).bank (s.ctx 0).imago).indexOf 3 0 = some 0 ∧ isSentinel 3 = false) ∧
    (let s := due .retireSched Stage.reset { Core.reset with map0 := (List.range 50).map (fun e => (e, e)) } eng0
     s.freeEngines 3 = []) := by
  decide

def closing (u : JobUse) : ProgJob := { job0 with step := 4, pending := [], use := u }

theorem witness_engines_verified :
    (((engined { eng0 with job := some job0 }).eng 3 0).job = some job0 ∧ job0.step ≠ 4) ∧
    ((closing (.block 0 0 0)).step = 4 ∧ (closing (.block 0 0 0)).granted = false ∧ (closing (.block 0 0 0)).stuck = [] ∧
      (closing (.exchange 0 0 0 true)).use = .exchange 0 0 0 true ∧ (closing (.core 0 0)).use = .core 0 0 ∧ (closing .requalify).use = .requalify ∧
      (closing (.column 0 5)).use = .column 0 5 ∧ ((engined { eng0 with job := some (closing .requalify) }).onPilot 3) = false) ∧
    (State.reset.unverifiedBlock 3 0 = none) ∧
    (let k := { stopped with bank0 := { bankOf .imago with blocks := [block0 0 false] } }
     let s := { ctxed k with pwr := { Power.reset with powerGood := true, dies := [(0, 1)] } }
     ({ s with pwr := Power.reset } : State).pwr.powerGood = false ∧ s.onPilot 3 = false ∧ s.lowerDieWaits 3 = false ∧ s.unverifiedBlock 3 0 = some (0, 0, 0) ∧ (s.eng 3 0).job = none ∧ Tab.get 0 s.pwr.dies (dieOf 3) = 1) := by
  decide

theorem witness_contexts_and_cores_go_on :
    (stopped.state ≠ .verifying ∧ stopped.state ≠ .verifyHold) ∧
    (let k := { stopped with state := .verifying, restart := true, cores := [3] }
     let s := placed k
     (s.ctx 0).state = .verifying ∧ k.bank0.checked = true ∧ k.bank1.checked = true ∧ (s.ctx 0).cores.all s.coreReady = true ∧
       s.keep.plans.all (fun p => !p.marked) = true) ∧
    ((State.reset.replace 0).state = 0 ∧ (State.reset.replace 0).queue = []) ∧
    (let s := State.reset.modReplace 0 (fun r => { r with queue := [(3, 0)] })
     (s.replace 0).queue = [(3, 0)] ∧
       nearest (coreDistance false (3 % 144 % 12) (3 % 144 / 12)) (s.svc.spareCores.filter (fun c => dieOf c == 0 && (s.core c).state != .dead)) =
         some 136) ∧
    (let s := { State.reset.modReplace 3 (fun r => { r with queue := [(575, 0)] }) with svc := { Service.reset with spareCores := [] } }
     s.svc.spareCores.filter (fun c => dieOf c == 3 && (s.core c).state != .dead) = []) ∧
    (let s := (placed { stopped with cores := [3] }).modReplace 0 (fun r => { r with state := 2, old := 3, new := 136 })
     (s.replace 0).state = 2 ∧ (s.core 3).ctx = some 0 ∧ s.heldAt 3 0 = true ∧ s.memOk = true ∧ s.unmoved 0 (s.replace 0) = [] ∧
       (s.ctx 0).bank0.state ≠ .chrysalis ∧ (s.ctx 0).bank1.state ≠ .chrysalis ∧
       ({ s with cores := [(3, coreOf (regs 0 0))] } : State).heldAt 3 5 = false) ∧
    (let b := { block0 0 true with keep := true }
     3 ≠ 136 ∧ b ∈ rebind 3 136 (fun _ => true) [b] [1] ∧ b.core = 3) := by
  decide

/-! ## Flue -/

def ported (q : Port) : State := { State.reset with ports := [(0, q)] }
def up : Port := { Port.reset with state := 2, trained := true }
/-- A frame sent under number 5 and kept for a replay. -/
def kept5 : LineFrame := ⟨⟨0, false, false, 0, 0, []⟩, 5, 0, false, 0, 0⟩
def hdrOk (seq ack : Nat) : FlueHdr := ⟨true, true, true, 0, false, 0, seq, ack, 0, 0⟩

theorem witness_flue_frames :
    (State.reset.port 0).trained = false ∧ ((ported up).port 0).trained = true ∧ ((ported up).port 0).out = [] ∧ (hdrOk 1 0).crcOk = true ∧
    (hdrOk 1 0).nak = false ∧ ({ hdrOk 1 0 with crcOk := false } : FlueHdr).crcOk = false ∧
    ((ported { up with replay := [kept5] }).port 0).replay.filter (fun f => !ackedBy f.seq 4) ≠ [] ∧ ({ hdrOk 1 4 with nak := true } : FlueHdr).nak = true ∧
    (2 ≠ (((ported up).port 0).rxSeq + 1) % 65536 ∧ ackedBy 2 ((ported up).port 0).rxSeq = false) ∧
    (0 ≠ (((ported up).port 0).rxSeq + 1) % 65536 ∧ ackedBy 0 ((ported up).port 0).rxSeq = true) ∧
    (let s := ported { up with state := 1 }
     (s.port 0).trained = true ∧ (s.port 0).state = 1 ∧ 7 ≠ s.cfg 0x2D00 1 ∧ s.cfg 0x2D00 1 = 1) := by
  decide

/-- Port 0 up; context 0 on core 3 with binding 1 for its remote. -/
def bound : State :=
  { with1 3 (coreOf (regs 0 0)) with
    ports := [(0, { up with remoteId := 9 })]
    ctxs := [(0, { Ctx.reset with state := .running, cores := [3] })]
    sets := { Sets.reset with active :=
      [(odKey 0x2B14 1, 2 ^ 26 - 1 + 0 * 2 ^ 26 + 3 * 2 ^ 52), (odKey 0x2D20 2, 4 + 9 * 2 ^ 16)] } }

def fmsg (epoch mtype : Nat) : FlueMsg := ⟨0, 0, epoch, 0, 0, 1, 1, 0, mtype, 0, 0⟩

theorem witness_flue_messages :
    ((bound.port 0).trained = true ∧ (hdrOk 1 0).crcOk = true ∧ (bound.port 0).state = 2 ∧ (hdrOk 1 0).seq = ((bound.port 0).rxSeq + 1) % 65536 ∧
      1 = messageFrames (ceilDiv 0 64) ∧ (hdrOk 1 0).seq = ((bound.port 0).rxSeq + 1) % 65536 ∧ 0 < 1) ∧
    (({ bound with cores := [(3, { coreOf (regs 0 0) with comm := { Core.reset.comm with epoch := 1 } })] } : State).core 3).comm.crossing = false ∧
    ((State.reset.ctx 0).state = .none) ∧
    ((bound.ctx 0).state ≠ .none ∧ (bound.ctx 0).cores[0]? = some 3 ∧ (fmsg 1 0).destEpoch = (bound.core 3).comm.epoch ∧
      (fmsg 2 0).destEpoch ≠ (bound.core 3).comm.epoch ∧ bound.senderBinding 0 (fmsg 1 0) = some 1 ∧
      bound.senderBinding 0 { fmsg 1 0 with srcLcore := 1 } = none ∧ (bound.core 3).comm.crossing = true ∧ (bound.master 4).frozen = false) ∧
    (wayOpen (opened bound) 4 0 = true ∧ (retraining (opened bound)).pathStalls 4 0 = true ∧ bound.pathStalls 4 0 = false ∧ bound.pathShut 4 0 = some 0) ∧
    ((fmsg 1 2).mtype = 2 ∧ (fmsg 1 1).mtype = 1 ∧ (hdrOk 1 0).seq ≠ 0) := by
  decide

/-- The Flue master of port 0 may write to the activation buffer of core 3. -/
theorem witness_flue_window :
    ({ bound with sets := { bound.sets with active := [(odKey 0x2B14 1, abAddr 3 0 / 64 + 8192 * 2 ^ 26 + 3 * 2 ^ 52)] } } : State).masterMay 4
      (abAddr 3 0) 64 true = true := by
  decide

theorem witness_flue_links :
    (let q := { up with replayRun := 16 }
     ((ported q).port 0).state = 2 ∧ 16 ≤ ((ported q).port 0).replayRun ∧ up.replayRun < 16) ∧
    (let s := { ported up with time := { TimeBase.reset with up := 100000 } }
     (s.port 0).state ≠ 0 ∧ (s.port 0).retraining = false ∧ 100000 ≤ s.time.up - max (s.port 0).lastFrame (s.port 0).trainedAt ∧
       99999 - max (s.port 0).lastFrame (s.port 0).trainedAt < 100000) ∧
    (let s := { ported Port.reset with pwr := { Power.reset with optOk := true, powerGood := true } }
     s.portPowered 0 = true ∧ (s.port 0).trained = false ∧ (s.port 0).retraining = false ∧ (ported Port.reset).portPowered 0 = false) ∧
    (let q := { Port.reset with retraining := true }
     q.trained = false ∧ q.retraining = true ∧ q.out = []) := by
  decide

def mirrored (m : Nat) (up' : Nat) : State :=
  { serving 1 (ported up) with mirror := ⟨m, true, true, true⟩, time := { TimeBase.reset with up := up' } }

theorem witness_mirror_down : (mirrored 1 0).mirror.state = 1 ∧ (mirrored 1 0).port (mirrorPort (mirrored 1 0)) = up ∧ up.state = 2 ∧
    ∀ c, ((mirrored 1 0).core c).seq.ops = [] := by
  refine ⟨by decide, by decide, by decide, fun _ => rfl⟩

theorem witness_mirror :
    (let s := mirrored 1 10000
     s.mirror.state = 1 ∧ (s.port (mirrorPort s)).state = 2 ∧ 10000 ≤ s.time.up - (s.port (mirrorPort s)).lastSent ∧ Served s 0 1) ∧
    (let s := mirrored 2 4000000000
     s.mirror.state = 2 ∧ 1000 * s.cfg 0x2D00 7 ≤ s.time.up - (s.port (mirrorPort s)).lastFrame ∧ Served s 0 1 ∧ s.mirror.awaitMark = true ∧
       s.mirror.markSeen = true) ∧
    (State.reset.mirror.state ≠ 1 ∧ State.reset.mirror.state ≠ 2 ∧ State.reset.mirror.awaitMark = false ∧ bit (State.reset.cfg 0x2D00 8) 0 = false) := by
  try dsimp only
  repeat' first | with_reducible apply served_of | with_reducible apply And.intro
  all_goals decide

/-! ## Time, trackers, measurement, outputs -/

/-- Settings (index, subindex, value) in the active copy; session 0 served at level 2. -/
def withCfg (l : List (Nat × Nat × Nat)) (x : State := State.reset) : State :=
  let s := serving 2 x
  { s with sets := { s.sets with active := l.foldl (fun t e => Tab.set t (odKey e.1 e.2.1) e.2.2) [] } }

/-- REF_SOURCE 2; a former comparison at 1 s, now one second later, with the GTC g. -/
def referenced (m : GtcState) (g : Nat) (x : TimeBase := TimeBase.reset) : State :=
  withCfg [(0x2300, 2, 2)] { State.reset with time := { x with mode := m, gtc := g, up := 2000000000, lastRef := 1000000000 } }

/-- A DC source whose last SYNC0 event was at DC time dc, the present cycle c, own time up. -/
def dcAt (dc c cmp up : Nat) : State :=
  withCfg [(0x2300, 2, 1)] { State.reset with
    time := { TimeBase.reset with mode := .acquire, up := up, lastRef := 1, lastSeen := 1, lastDc := dc, cmpDc := cmp, cycle := c } }

theorem witness_dc_reference :
    (let z := (dcAt 5000000 0 4000000 2000000).seeRef 6000000
     z.refAccepted 6000000 = true ∧ z.cfg 0x2300 2 = 1 ∧ z.time.mode = .acquire ∧ z.time.lastRef ≠ 0 ∧ z.time.up - z.time.lastRef ≠ 0) ∧
    (let z := (dcAt 5000000 0 4500000 2000000).seeRef 5250000
     z.refAccepted 5250000 = false ∧ z.time.mode = .acquire ∧ z.time.lastRef ≠ 0) ∧
    (let s := dcAt 5000000 1000000 0 4000001
     s.time.cycle ≠ 0 ∧ s.sourceMissing = true ∧ s.time.mode = .acquire ∧ s.cfg 0x2300 2 = 1) ∧
    (let s := withCfg [(0x2300, 2, 1), (0x2200, 2, 8190)] (referenced .locked 0)
     s.time.mode = .locked ∧ s.cfg 0x2300 2 = 1 ∧ s.clocked 0 = false ∧ s.dcInactive = true) ∧ State.reset.dcInactive = false ∧
    (dcAt 5000000 1000000 0 4000000).sourceMissing = false ∧
    (let s := referenced .locked 0 { TimeBase.reset with lastSeen := 500000000 }
     s.sourceMissing = true ∧ s.time.mode = .locked) ∧
    (referenced .locked 0 { TimeBase.reset with lastSeen := 500000001 }).sourceMissing = false := by
  decide

theorem witness_gtc :
    (State.reset.cfg 0x2300 2 = 0) ∧
    (let s := referenced .holdover 0
     s.cfg 0x2300 2 ≠ 0 ∧ s.time.mode = .holdover) ∧
    (let s := withCfg [(0x2300, 2, 2)] { State.reset with time := { TimeBase.reset with mode := .acquire } }
     s.cfg 0x2300 2 ≠ 0 ∧ s.time.mode = .acquire ∧ s.time.lastRef = 0) ∧
    (let s := referenced .locked 0
     s.cfg 0x2300 2 ≠ 0 ∧ s.time.mode = .locked ∧ s.time.lastRef ≠ 0 ∧ s.time.up - s.time.lastRef ≠ 0 ∧ s.cfg 0x2300 2 ≠ 1 ∧ s.cfg 0x2300 6 = 100 ∧
       (s.refTime 0 - s.time.gtc).natAbs ≤ 1000 ∧ s.time.outliers < 2) ∧
    (let s := referenced .locked 1001
     s.time.mode = .locked ∧ 10 * s.cfg 0x2300 6 < (s.refTime 0 - s.time.gtc).natAbs ∧ s.time.outliers < 2) ∧
    (let s := referenced .locked 1001 { TimeBase.reset with outliers := 2 }
     s.time.mode = .locked ∧ 10 * s.cfg 0x2300 6 < (s.refTime 0 - s.time.gtc).natAbs ∧ 2 ≤ s.time.outliers) ∧
    (let s := referenced .acquire 0 { TimeBase.reset with good := 14 }
     s.time.mode = .acquire ∧ s.time.good + 1 < 16) ∧
    (let s := referenced .acquire 0 { TimeBase.reset with good := 15 }
     s.time.mode = .acquire ∧ (s.refTime 0 - s.time.gtc).natAbs ≤ s.cfg 0x2300 6 ∧ 16 ≤ s.time.good + 1) := by
  decide

theorem witness_gtc_step :
    (let s := serving 2
     Served s 0 2 ∧ s.anyRunning = false ∧ 0 ≤ (s.time.gtc : Int) + 0 ∧ (s.time.gtc : Int) + 0 < 2 ^ 64 ∧ (s.time.gtc : Int) + (-1) < 0) ∧
    (let s : State := { serving 2 with time := { (serving 2).time with gtc := 2 ^ 64 - 1 } }
     Served s 0 2 ∧ s.anyRunning = false ∧ 2 ^ 64 ≤ (s.time.gtc : Int) + 1) ∧
    (let s := serving 1
     s.reachable 0 = true ∧ s.serves = true ∧ (s.session 0).level < 2) ∧
    (let s := ctxed { stopped with state := .running }
     Served s 0 2 ∧ s.anyRunning = true) := by
  try dsimp only
  repeat' first | with_reducible apply served_of | with_reducible apply And.intro
  all_goals decide

/-- Tracker 0 as k with the source src and input 0; channel 0 enabled where ch is 1. -/
def tracking (src ch : Nat) (k : Tracker) : State :=
  withCfg [(0x2310, 1, src), (0x2310, 2, 0), (0x2400, 1, ch)] { State.reset with trackers := [(0, k)], time := { TimeBase.reset with up := 2000 } }

def trkAs (st : TrkState) : Tracker := { Tracker.reset with state := st, freq := 50000 * 2 ^ 16 }

theorem witness_tracker_inputs :
    ((State.reset.trk 0).state = .off) ∧
    (let s := tracking 1 1 (trkAs .acquiring)
     (s.trk 0).state = .acquiring ∧ s.trkInputOk 0 = true ∧ s.cfg (trkIdx 0) 1 = 1 ∧ (s.trk 0).lastUpdate + 32 ≤ s.time.up) ∧
    (let s := tracking 1 1 { trkAs .acquiring with lastUpdate := 1969 }
     ¬ (s.trk 0).lastUpdate + 32 ≤ s.time.up) ∧
    (let s := tracking 3 0 (trkAs .holdover)
     (s.trk 0).state = .holdover ∧ (s.trk 0).lastUpdate + 32 ≤ s.time.up) ∧
    (let s := tracking 1 0 (trkAs .locked)
     (s.trk 0).state = .locked ∧ s.trkInputOk 0 = false) ∧
    (let s := tracking 3 0 (trkAs .acquiring)
     s.cfg (trkIdx 0) 1 = 3 ∧ (s.trk 0).state ≠ .off ∧ (s.trk 0).lastEvent = 0 ∧ s.trkInputOk 0 = true ∧ s.edgeMissing 0 = false ∧
       (atUp 100000000 s).edgeMissing 0 = true) ∧
    (let s := tracking 5 0 { trkAs .acquiring with lastEvent := 1999, good := 15 }
     s.cfg (trkIdx 0) 1 = 5 ∧ (s.trk 0).lastEvent ≠ 0 ∧ (s.trk 0).lastEvent < s.time.up ∧ s.freqOk 0 50000 = true ∧ (2 ^ 24 : Int).natAbs ≤ 2 ^ 24 ∧
       15 ≤ (s.trk 0).good ∧ s.freqOk 0 39999 = false) ∧
    (let far := fun (s : State) => 4 < min ((s.trk 0).counts % (4 * s.cfg (trkIdx 0) 6 : Nat)).natAbs
       ((4 * s.cfg (trkIdx 0) 6 : Nat) - (s.trk 0).counts % (4 * s.cfg (trkIdx 0) 6 : Nat)).natAbs
     let s := tracking 6 0 (trkAs .locked)
     let u := tracking 6 0 { trkAs .locked with counts := 10, indexed := true }
     s.cfg (trkIdx 0) 1 = 6 ∧ s.trkInputOk 0 = true ∧ ¬ ((s.trk 0).indexed = true ∧ far s) ∧ (u.trk 0).indexed = true ∧ far u) ∧
    (2 ^ 28 < (2 ^ 29 : Int).natAbs) := by
  decide

/-- Channel 0 enabled with a comparator of length 1, a member of frame group 0, aux input 0 enabled; the channel as k and the group as g. -/
def measuring (k : Channel) (g : Group) (more : List (Nat × Nat × Nat) := []) (x : State := State.reset) : State :=
  withCfg ([(0x2400, 1, 1), (0x2400, 6, 1), (0x2400, 7, 1), (0x2400, 0x0B, 1), (0x2480, 1, 1), (0x2480, 4, 1), (0x2460, 1, 1)] ++ more)
    { x with meas := { x.meas with chans := [(0, k)], groups := [(0, g)] } }

def forming : Group := { Group.reset with state := 1 }

theorem witness_channels :
    (let s := measuring Channel.reset forming
     bit (s.cfg 0x2470 1) 0 = true ∧ bit ((measuring Channel.reset forming [(0x2470, 8, 50)]).cfg 0x2470 8) 0 = false ∧ s.cfg (chIdx 0) 2 = 0 ∧ s.chEnabled 0 = true ∧ (s.chan 0).faulted = false ∧
       s.cfg (chIdx 0) 6 ≠ 0 ∧ s.cfg (chIdx 0) 0x0B = 1 ∧ (s.mclk 0).fault = false ∧ (s.chan 0).skip = 0 ∧
       (List.range 16).any (fun g => (s.fgChans g).contains 0) = true ∧ 2 * s.cfg (chIdx 0) 7 - 1 = 1 ∧
       s.cfg (chIdx 0) 4 ≤ (atUp 1000000 s).bitsDone 0 (s.chan 0).winAt 999980 ∧ s.bitsDone 0 (s.chan 0).winAt (s.time.up - 20) < s.cfg (chIdx 0) 4 ∧
       1 ≤ (atUp 1000000 s).bitsDone 0 (s.chan 0).cmpStart 1000000 ∧ s.bitsDone 0 (s.chan 0).cmpStart s.time.up < 1) ∧
    (let s := { measuring Channel.reset forming [(0x2470, 1, 50)] with meas := { Meas.reset with mclks := [(0, ⟨true⟩)] } }
     bit (s.cfg 0x2470 1) 0 = false ∧ (s.mclk 0).fault = true ∧ s.cfg (chIdx 0) 2 = 0 ∧ s.chEnabled 0 = true) ∧
    (State.reset.chEnabled 95 = false ∧ State.reset.cfg (chIdx 95) 6 = 0) ∧
    (let s := measuring { Channel.reset with stuck := true, validWindows := 3 } forming
     (s.chan 0).faulted = true ∧ 3 ≤ (s.chan 0).validWindows ∧ (s.mclk (s.cfg (chIdx 0) 2)).fault = false) ∧
    (let s := measuring { Channel.reset with stuck := true, validWindows := 2 } forming
     (s.chan 0).faulted = true ∧ (s.chan 0).validWindows < 3) ∧
    (let s := measuring { Channel.reset with skip := 1 } forming
     s.chEnabled 0 = true ∧ 0 < (s.chan 0).skip) := by
  decide

theorem witness_frames_and_rings :
    (State.reset.cfg 0x2460 1 = 0) ∧
    (let s := measuring Channel.reset forming
     s.cfg 0x2460 1 ≠ 0 ∧ s.clocked 10 = true ∧ bit (s.cfg 0x2470 0x0A) 0 = false ∧ (List.range 16).any (fun g => (s.fgAux g).contains 0) = true ∧
       s.convNext (0 / 4) = some 0 ∧ s.convReady (0 / 4) = true ∧ s.convNext (1 / 4) ≠ some 1 ∧
       ({ s with meas := { s.meas with convs := [(0, ⟨none, some s.time.up⟩)] } } : State).convReady (0 / 4) = false ∧
       (s.fgSamples 0).any (fun m => decide (m.2.length < s.cfg (fgIdx 0) 5)) = true ∧ s.cfg (fgIdx 0) 5 = 1 ∧
       (List.range 16).all (fun ch => !s.clocked 12 || s.cfg (dacIdx ch) 0x0E != 0) = true) ∧
    ((State.reset.fg 0).state ≠ 1) ∧
    (let s := measuring Channel.reset forming [(0x2480, 7, 1)]
     bit (s.cfg (fgIdx 0) 7) 0 = true ∧ (s.fg 0).opened = false) ∧
    (let s := (measuring { Channel.reset with fresh := [⟨1, 0, false⟩] } forming).modAux 0 (fun k => { k with fresh := [⟨1, 0, false⟩] })
     (s.fg 0).state = 1 ∧ (s.fgSamples 0).any (fun m => decide (m.2.length < s.cfg (fgIdx 0) 5)) = false ∧ bit (s.cfg (fgIdx 0) 7) 0 = false ∧
       0 ∈ s.fgChans 0 ∧ 1 ∉ s.fgChans 0) ∧
    (let s := { State.reset with meas := { Meas.reset with rings := [(15, ⟨0, false, true, some 0⟩)] } }
     (Tab.get Ring.reset s.meas.rings 15).armed = true ∧ (Tab.get Ring.reset s.meas.rings 15).post = some 0 ∧
       (Tab.get Ring.reset s.meas.rings 15).frozen = false) ∧
    (Tab.get Ring.reset State.reset.meas.rings 0).armed = false ∧ Served (serving 1) 0 1 := by
  try dsimp only
  repeat' first | with_reducible apply served_of | with_reducible apply And.intro
  all_goals decide

/-- DAC channel 0 of the host, its first instant of the GTC grid come, the channel as d. -/
def driving (d : Dac) (l : List (Nat × Nat × Nat) := []) : State :=
  withCfg l { State.reset with time := { TimeBase.reset with gtc := 10000, up := 10 }, outs := { Outputs.reset with dacs := [(0, d)] } }

theorem witness_dac_channels :
    ((withCfg []).instantDue 0 = false) ∧
    (let s := driving { Dac.reset with awaitFirst := false } [(0x2500, 8, 0)]
     s.instantDue 0 = true ∧ s.instantActs 0 = true ∧ (s.dac 0).queue = [] ∧ (s.dac 0).releaseClear = false ∧ (s.dac 0).awaitFirst = false ∧
       s.cfg (dacIdx 0) 8 = 0 ∧ s.gridInstant 0 = 10000 ∧ s.onFast 0 = false) ∧
    (let s := driving { Dac.reset with fault := true }
     s.instantDue 0 = true ∧ s.instantActs 0 = false ∧ (s.dac 0).fault = true) ∧
    (let s := driving { Dac.reset with queue := [1, 2] }
     s.instantDue 0 = true ∧ s.instantActs 0 = true ∧ (s.dac 0).queue = 1 :: [2] ∧ s.outs.dacClrLow = false ∧ s.dacHeld 0 = false ∧
       ({ s with outs := { s.outs with dacClrLow := true } } : State).instantActs 0 = true) ∧
    (let s := driving Dac.reset
     Served s 0 1 ∧ s.cfg (dacIdx 0) 2 = 0xFF ∧ (s.dac 0).room ≠ 0 ∧ (s.dac 0).fault = false) ∧
    (Served (driving Dac.reset [(0x2500, 2, 0)]) 0 1 ∧ (driving Dac.reset [(0x2500, 2, 0)]).cfg (dacIdx 0) 2 ≠ 0xFF) ∧
    (let s := driving { Dac.reset with queue := List.replicate 256 0 }
     (s.dac 0).room = 0) ∧
    (let s := driving { Dac.reset with fastRun := true, handover := false } [(0x2500, 9, 1), (0x2500, 0x0A, 1)]
     s.onFast 0 = true ∧ (s.dac 0).fastRun = true ∧ (s.dac 0).fault = false ∧ (s.dac 0).handover = false ∧ s.clocked 12 = true ∧
       bit (s.cfg (dacIdx 0) 0x0A) 0 = true ∧ (s.dac 0).fastAt + 10 * s.cfg (dacIdx 0) 0x0B ≤ s.time.up) ∧
    (let s := driving { Dac.reset with fastRun := true, fastAt := 1 } [(0x2500, 9, 1)]
     s.onFast 0 = true ∧ s.time.up < (s.dac 0).fastAt + 10 * s.cfg (dacIdx 0) 0x0B) ∧
    (let s := driving { Dac.reset with fastRun := true, handover := false, fast := 0 }
       [(0x2500, 9, 1), (0x2500, 0x0A, 2), (0x2500, 0x0C, 10 * 2 ^ 16 + 10 * 2 ^ 32)]
     (s.dac 0).fastAt + 10 * s.cfg (dacIdx 0) 0x0B ≤ s.time.up ∧ bit (s.cfg (dacIdx 0) 0x0A) 0 = false ∧ bit (s.cfg (dacIdx 0) 0x0A) 1 = true ∧
       rampStep (s.codeValue 0 (s.dac 0).fast) (s.codeValue 0 (field (s.cfg (dacIdx 0) 0x0C) 16 16)) (field (s.cfg (dacIdx 0) 0x0C) 32 16) =
         s.codeValue 0 (field (s.cfg (dacIdx 0) 0x0C) 16 16)) ∧
    (let s := driving { Dac.reset with fastRun := true, handover := false, fast := 0 }
       [(0x2500, 9, 1), (0x2500, 0x0A, 2), (0x2500, 0x0C, 10 * 2 ^ 16 + 9 * 2 ^ 32)]
     rampStep (s.codeValue 0 (s.dac 0).fast) (s.codeValue 0 (field (s.cfg (dacIdx 0) 0x0C) 16 16)) (field (s.cfg (dacIdx 0) 0x0C) 32 16) ≠
         s.codeValue 0 (field (s.cfg (dacIdx 0) 0x0C) 16 16)) := by
  try dsimp only
  repeat' first | with_reducible apply served_of | with_reducible apply And.intro
  all_goals decide +kernel

theorem witness_dac_faults :
    (State.reset.outs.dacClrLow = false ∧ ({ State.reset with outs := { Outputs.reset with dacClrLow := true } } : State).outs.dacClrLow = true) ∧
    (let s := driving { Dac.reset with fault := false }
     (s.dac 0).fault = false ∧ Served s 0 1) ∧
    (let s := driving { Dac.reset with fault := true }
     Served s 0 1 ∧ (s.dac 0).fault = true ∧ s.dacCause 0 = false ∧ ({ s with outs := { s.outs with railLow := true } } : State).dacCause 0 = true) ∧
    (let s := driving { Dac.reset with fault := false, rangeClamp := true, handover := true }
     (s.dac 0).rangeClamp = true ∧ (s.dac 0).handover = true ∧ (s.dac 0).fault = false ∧ s.onFast 0 = false ∧ s.outs.dacClrLow = false ∧
       ({ s with outs := { s.outs with dacClrLow := true } } : State).outs.dacClrLow = true ∧ s.cores = []) ∧
    (let s := driving { Dac.reset with fault := true, shortLatched := true }
     (s.dac 0).fault = true ∧ (s.dac 0).shortLatched = true) ∧
    (let s := driving { Dac.reset with fault := true, rangeClamp := true, handover := true }
     (s.dac 0).rangeClamp = true ∧ (s.dac 0).handover = true ∧ (s.dac 0).fault = true) ∧
    (let s := driving { Dac.reset with fault := false, rangeClamp := false, handover := false }
     (s.dac 0).rangeClamp = false ∧ (s.dac 0).handover = false) ∧
    (let s := driving { Dac.reset with fault := false, handover := true } [(0x2500, 9, 1)]
     (s.dac 0).handover = true ∧ s.onFast 0 = true) := by
  try dsimp only
  repeat' first | with_reducible apply served_of | with_reducible apply And.intro
  all_goals decide

/-- Trip output 0 driven and enabled in MODE mode, as t, time 10 us; core 3 runs the context it is granted to; the decisions of the tick. -/
def tripping (mode : Nat) (t : Trip) (ds : List Decision) : State :=
  withCfg [(0x2520, 1, 1), (0x2520, 3, mode), (0x2520, 5, 0)]
    { with1 3 (coreOf (regs 0 0)) with
      outs := { Outputs.reset with driven := true, trips := [(0, t)] }, time := { TimeBase.reset with up := 10000 }, net := ⟨[], [], [], ds⟩ }

def tripOn (since : Nat) : Trip := { Trip.reset with asserted := true, since := since }

theorem witness_trips :
    ((withCfg []).net.decisions = []) ∧
    (let d : Decision := ⟨3, 0, 0, true, none, false⟩
     let s := tripping 0 Trip.reset [d]
     s.net.decisions = [d] ∧ wayOpen (opened s) (dieOf d.core) 4 = true ∧ (retraining s).pathStalls (dieOf d.core) 4 = true ∧
       s.pathStalls (dieOf d.core) 4 = false ∧ s.pathShut (dieOf d.core) 4 = some 0 ∧ d.trip = 0 ∧ s.granted d = true ∧ s.cfg (tripIdx 0) 1 = 1 ∧ s.outs.driven = true ∧ s.cfg 0x2D00 9 ≠ 0 ∧
       d.value = true ∧ (s.trip 0).held = false ∧ (s.trip 0).asserted = false ∧
       ((List.range 32).all (fun k => k == 0 || (!(s.trip k).emit && s.backstopEvent k == none))) = true) ∧
    (let d : Decision := ⟨4, 0, 0, true, none, false⟩
     let s := tripping 0 Trip.reset [d]
     s.net.decisions = [d] ∧ s.granted d = false) ∧
    (let s := tripping 1 (tripOn 0) []
     s.cfg (tripIdx 0) 1 = 1 ∧ s.outs.driven = true ∧ s.cfg 0x2D00 9 ≠ 0 ∧ s.backstopEvent 0 = none ∧ (s.trip 0).emit = false ∧
       (s.trip 0).asserted = true ∧ s.cfg (tripIdx 0) 3 = 1 ∧ 1000 * s.cfg (tripIdx 0) 4 ≤ s.time.up - (s.trip 0).since) ∧
    (let s := tripping 1 (tripOn 1) []
     s.time.up - (s.trip 0).since < 1000 * s.cfg (tripIdx 0) 4 ∧ (s.trip 0).asserted = true) ∧
    (let s := tripping 0 (tripOn 0) []
     Served s 0 1 ∧ s.cfg (tripIdx 0) 3 = 0 ∧ s.tripSource 0 = false) ∧
    (let s := tripping 0 { tripOn 0 with emit := true } []
     Served s 0 1 ∧ s.cfg (tripIdx 0) 3 ≠ 1 ∧ s.tripSource 0 = true) ∧
    (Served (tripping 1 (tripOn 0) []) 0 1 ∧ (tripping 1 (tripOn 0) []).cfg (tripIdx 0) 3 = 1) ∧
    (State.reset.meas.pfail = false ∧ State.reset.ash.clearing = false ∧ (withCfg [(0x250F, 0x0F, 1)]).cfg (dacIdx 15) 0x0F = 1) ∧
    (({ State.reset with meas := { Meas.reset with pfail := true }, ash := { Ashpit.reset with clearing := true } } : State).meas.pfail = true) := by
  try dsimp only
  repeat' first | with_reducible apply served_of | with_reducible apply And.intro
  all_goals decide

/-! ## Object dictionary, sessions, interfaces -/

/-- The EtherCAT mailbox is there in the state al, Engineer. -/
def mailing (al : Nat) (x : State := State.reset) : State :=
  { x with pwr := { x.pwr with powerGood := true }, ecat := { x.ecat with al := al }, fw := { x.fw with serving := true }, sessions := [(1, { Session.reset with level := 2 })] }

/-- Whether the checks of R275 up to the claim pass for v of n bytes. -/
def passes (s : State) (idx sub v n : Nat) : Bool :=
  match s.row idx sub with
  | some r => r.acc != .ro && decide (s.needPriv idx sub v r ≤ (s.session 0).level) && r.lengthOk n && decide (ownWrite idx sub = false)
  | none => false

theorem witness_write_checks :
    (let s := serving 2
     s.reachable 0 = true ∧ s.serves = true ∧ s.row 0x1FFF 0 = none ∧ odExists s.part 0x1FFF = false ∧ s.row 0x2300 200 = none ∧
       odExists s.part 0x2300 = true ∧ (s.row 0x2300 1).map (·.acc) = some .ro) ∧
    (let s := serving 1
     (s.row 0x2300 2).any (fun r => r.acc != .ro && decide ((s.session 0).level < s.needPriv 0x2300 2 1 r)) = true) ∧
    ((serving 2).row 0x2300 2).any (fun r => !r.lengthOk 2) = true ∧
    (let s := { serving 2 with sets := { Sets.reset with owner := some 1 } }
     passes s 0x2300 2 2 1 = true ∧ (s.row 0x2300 2).map (·.set) = some true ∧ s.claimedByOther 0 = true) ∧
    (let s := { serving 2 with sets := { Sets.reset with state := 1 } }
     passes s 0x2300 2 2 1 = true ∧ s.claimedByOther 0 = false ∧ s.sets.state ≠ 0) ∧
    (let s := serving 2
     passes s 0x1600 1 0 4 = true ∧ s.stateAllows 0x1600 1 0 = false ∧ (s.row 0x1600 1).any (fun r => r.size == 4 && !r.set) = true) ∧
    (let s := serving 2
     passes s 0x2300 2 3 1 = true ∧ s.stateAllows 0x2300 2 3 = true ∧ (s.row 0x2300 2).map (s.inRange 0x2300 2 3) = some false ∧
       (s.row 0x2300 2).map (s.inRange 0x2300 2 2) = some true ∧ s.mappingAbort 0x2300 2 2 = 0 ∧ s.sets.state = 0) ∧
    (let s : State := { serving 2 with ecat := { Ecat.reset with al := 2 } }
     passes s 0x1600 1 0x23000000 4 = true ∧ s.stateAllows 0x1600 1 0x23000000 = true ∧
       (s.row 0x1600 1).map (s.inRange 0x1600 1 0x23000000) = some true ∧ s.mappingAbort 0x1600 1 0x23000000 ≠ 0 ∧
       s.mappingAbort 0x1600 1 0 = 0 ∧ (s.row 0x1600 1).map (s.inRange 0x1600 1 0) = some true) ∧
    (let s := serving 2
     passes s 0x2700 3 0 3 = true ∧ (s.row 0x2700 3).any (fun r => r.size == 0) = true) ∧
    (let s := mailing 2
     s.reachable 1 = true ∧ s.serves = true ∧ s.row 0x1FFF 0 = none ∧ s.row 0x2300 200 = none ∧ (s.row 0x2B02 1).map (·.acc) = some .wo) ∧
    (let s := { mailing 2 with keep := { HubKeep.reset with bad := [odKey 0x1600 1] } }
     (s.row 0x1600 1).any (fun r => r.acc == .rw && !r.set && s.keepBad 0x1600 1 r) = true ∧ s.stateAllows 0x1600 1 0 = true ∧
       (s.row 0x1600 1).map (s.inRange 0x1600 1 0) = some true ∧ s.mappingAbort 0x1600 1 0 = 0) := by
  decide +kernel

def setsAs (x : Sets) (s : State := serving 2) : State := { s with sets := x }

theorem witness_set_commands :
    (let s := serving 2
     Served s 0 1 ∧ s.claimedByOther 0 = false ∧ s.sets.state = 0 ∧ (s.ctx 63).state ≠ .running ∧ s.markOn 63 = false ∧ s.sets.state ≠ 2 ∧
       Served s 0 s.dirtyPriv ∧ s.sets.commitReq = none) ∧
    ((withCfg [(0x2320, 64, 2 ^ 40)]).markOn 63 = true) ∧
    (((ctxed { stopped with state := .running }).ctx 0).state = .running) ∧
    (let s := setsAs { Sets.reset with state := 2 }
     Served s 0 1 ∧ s.claimedByOther 0 = false ∧ s.sets.state ≠ 0 ∧ s.sets.state ≤ 2 ∧ s.sets.state = 2) ∧
    (let s := setsAs { Sets.reset with owner := some 1 }
     Served s 0 1 ∧ s.claimedByOther 0 = true) ∧
    (let s := setsAs { Sets.reset with shadow := [(odKey 0x2300 2, 2)] } (serving 1)
     s.reachable 0 = true ∧ s.serves = true ∧ (s.session 0).level < s.dirtyPriv) ∧
    (let s := setsAs { Sets.reset with state := 1, commitReq := some ⟨0x20, 1, 63, 0, false⟩ }
     s.sets.commitReq = some ⟨0x20, 1, 63, 0, false⟩ ∧ (⟨0x20, 1, 63, 0, false⟩ : PendCommit).when_ ≠ 0) ∧
    (let s := setsAs { Sets.reset with state := 1, commitReq := some ⟨0x20, 0, 0, 0, false⟩ }
     s.sets.commitReq = some ⟨0x20, 0, 0, 0, false⟩ ∧ (⟨0x20, 0, 0, 0, false⟩ : PendCommit).when_ = 0) := by
  try dsimp only
  repeat' first | with_reducible apply served_of | with_reducible apply And.intro
  all_goals decide +kernel

theorem hash_length (bs : List Byte) : (Sha.hash bs).length = 32 := by
  have hr : ∀ v k w, v.length = 8 → (Sha.turn v k w).length = 8 := by intro v k w h; simp [Sha.turn, h]
  have hf : ∀ (l : List (W32 × W32)) v, v.length = 8 → (l.foldl (fun a kw => Sha.turn a kw.1 kw.2) v).length = 8 := by
    intro l; induction l with
    | nil => intro v h; exact h
    | cons a t ih => intro v h; exact ih _ (hr _ _ _ h)
  have hb : ∀ v bs, v.length = 8 → (Sha.block v bs).length = 8 := by intro v bs h; simp [Sha.block, hf _ _ h, h]
  have hs : ∀ (l : List Nat) (p : List Byte) v, v.length = 8 → (l.foldl (fun v i => Sha.block v (chunk p i 64)) v).length = 8 := by
    intro l p; induction l with
    | nil => intro v h; exact h
    | cons a t ih => intro v h; exact ih _ (hb _ _ h)
  have hl : ∀ n v, (toLE n v).length = n := by intro n; induction n with
    | zero => intro v; rfl
    | succ n ih => intro v; simp [toLE, ih]
  have ht : ∀ l : List W32, (l.map Sha.toBE).flatten.length = 4 * l.length := by
    intro l; induction l with
    | nil => rfl
    | cons a t ih => simp only [List.map_cons, List.flatten_cons, List.length_append, ih, List.length_cons, Sha.toBE, List.length_reverse, hl]; omega
  simp only [Sha.hash, ht, hs _ _ _ (show Sha.start.length = 8 by decide +kernel)]

theorem hmac_length (k m : List Byte) : (hmac k m).length = 32 := hash_length _

def sessioned (k : Session) (x : State := State.reset) : State :=
  { x with pwr := { x.pwr with powerGood := true }, fw := { x.fw with serving := true }, keys := [(1, ⟨2, [7]⟩)], sessions := [(0, k)] }

def nonced (slot level : Nat) : Session := { Session.reset with nonce := some [1, 2], slot := slot, level := level, clearNonce := some [3] }

def upAt (up : Nat) : State := { State.reset with time := { TimeBase.reset with up := up } }

theorem witness_sessions :
    (let s := sessioned (nonced 1 0)
     Served s 0 0 ∧ s.lockedOut 0 = false ∧ sesMaster 0 = 0 ∧ (s.session 0).nonce = some [1, 2] ∧ s.current (s.session 0).nonceAt = true ∧
       (s.keySlot (s.session 0).slot).level ≠ 0 ∧ (s.session 0).level < 255) ∧
    (let s := sessioned (nonced 7 0)
     (s.keySlot (s.session 0).slot).level = 0) ∧
    (let s := sessioned (nonced 1 0) (upAt 1000000000000)
     s.current (s.session 0).nonceAt = false) ∧
    (let s := { sessioned Session.reset (upAt 59999999999) with masters := [(0, { Master.reset with lockout := some 0, fails := 4 })] }
     Served s 0 0 ∧ s.lockedOut 0 = true ∧ (s.session 0).nonce = none ∧ (s.master 0).lockout = some 0 ∧ s.time.up < 0 + 60000000000 ∧
       5 ≤ (s.master 0).fails + 1) ∧
    (0 + 60000000000 ≤ (upAt 60000000000).time.up) ∧
    (let s := serving 0
     Served s 0 (if s.noKeys then 0 else 2) ∧ s.noKeys = true ∧ sesMaster 0 ≠ 2 ∧ s.keep.bad.contains (odKey 0x2B02 1) = false ∧
       ({ s with keep := { s.keep with bad := [odKey 0x2B02 1] } } : State).keep.bad.contains (odKey 0x2B02 1) = true) ∧
    (let s := sessioned (nonced 1 1)
     s.reachable 0 = true ∧ s.serves = true ∧ (s.session 0).level < (if s.noKeys then 0 else 2)) ∧
    (let s := sessioned (nonced 1 2)
     Served s 0 (if s.noKeys then 0 else 2) ∧ 2 ≤ (s.session 0).level) ∧
    (let s := { serving 0 with sessions := [(2, { Session.reset with open_ := true })] }
     Served s 2 (if s.noKeys then 0 else 2) ∧ sesMaster 2 = 2) ∧
    Served (mailing 2) 1 0 := by
  try dsimp only
  repeat' first | with_reducible apply served_of | with_reducible apply And.intro
  all_goals decide +kernel

theorem witness_auth_proof : ((sessioned (nonced 1 0)).authProof 0 [1, 2] 1).length = 32 := hmac_length _ _

/-- UDP session 7 open as k; port 0 serves. -/
def udp (k : Session) (x : State := State.reset) (more : List (Nat × Nat × Nat) := []) : State :=
  let s := withCfg ([(0x2B20, 1, 1)] ++ more) x
  { s with sessions := [(9, { k with open_ := true })] }

def uhdr (seq : Nat) : UdpHdr := ⟨0, seq, []⟩

def alive : UdpReq := ⟨9, 0, 0, 0, []⟩

theorem witness_udp :
    (let s := udp { Session.reset with maxSeq := some 4 } State.reset [(0x2B12, 1, 1000 * 2 ^ 26 + 3 * 2 ^ 52)]
     s.portServes 0 = true ∧ s.portServes 1 = false ∧ (s.session 9).open_ = true ∧ (s.session 9).level = 0 ∧
       ((s.session 9).kept.find? (fun e => e.1 == 5) = none) ∧ (s.session 9).maxSeq = some 4 ∧ s.serves = true ∧ s.freeSession = some 0 ∧
       (s.master 2).frozen = false ∧ s.masterMay 2 0 1008 false = true ∧ s.lockedOut 2 = false ∧ (s.session 9).maxSeq ≠ some (uhdr 5).seq) ∧
    ((udp { Session.reset with kept := [(5, [7])] }).session 9).kept.find? (fun e => e.1 == 5) = some (5, [7]) ∧
    (let s := udp { Session.reset with level := 1, key := [3] }
     (s.session 9).open_ = true ∧ (s.session 9).level ≠ 0 ∧ (uhdr 5).tag ≠ tagOf (s.session 9).key (alive.bytes 7 5) ∧
       (⟨0, 5, tagOf [3] (alive.bytes 7 5)⟩ : UdpHdr).tag = tagOf (s.session 9).key (alive.bytes 7 5)) ∧
    (let s := { udp Session.reset with fw := Firmware.reset }
     s.portServes 0 = true ∧ s.serves = false) ∧
    (let s := { udp Session.reset with sessions := (List.range 8).map (fun n => (2 + n, { Session.reset with open_ := true })) }
     s.portServes 0 = true ∧ s.serves = true ∧ s.freeSession = none) ∧
    (5 ≤ 6 ∧ ((udp { Session.reset with maxSeq := some 6 }).session 9).maxSeq = some 6 ∧ (udp Session.reset).masterMay 2 0 1008 true = false) ∧
    (((udp Session.reset).session 2).open_ = false) ∧
    (({ udp Session.reset with masters := [(2, { Master.reset with frozen := true })] } : State).master 2).frozen = true ∧
    (let s := udp Session.reset (upAt 60000000000)
     (s.session 9).lastRequest + 60000000000 ≤ s.time.up) ∧
    (let s := udp Session.reset (upAt 59999999999)
     s.time.up < (s.session 9).lastRequest + 60000000000) := by
  decide +kernel

/-- A DMA descriptor of 64 bytes at address 0. -/
def desc0 (flags : Byte) : List Byte := List.replicate 12 0 ++ [64, 0, 0, 0, flags]

def pcied (x : State := State.reset) : State :=
  { withCfg [(0x2B10, 1, 1000 * 2 ^ 26 + 3 * 2 ^ 52)] x with pcie := { Pcie.reset with dma := [(3, ⟨0, 16, 1, 0, 0, 0⟩)] } }

theorem witness_pcie :
    (let s := pcied
     s.reachable 0 = true ∧ s.serves = true ∧ (s.row 0x2300 2).map (·.isLong) = some false ∧ (s.row 0x2700 4).map (·.isLong) = some true ∧
       (s.readObject 0 0x2300 2).1.abort = 0 ∧ (s.readObject 0 0x2700 4).1.abort = 0 ∧ (s.master 0).frozen = false ∧
       s.masterMay 0 0 64000 false = true ∧ s.masterMay 0 0 64001 false = false ∧ ringSizes.contains 16 = true ∧ (s.dma 3).head ≠ (s.dma 3).tail ∧
       (s.dma 0).head = (s.dma 0).tail ∧ descAddr (desc0 1) = 0 ∧ descLen (desc0 1) = 64 ∧ descToHost (desc0 1) = true ∧
       descToHost (desc0 2) = false ∧ s.poisoned 0 64 = false ∧ s.closedPart 0 64 = false ∧ s.dmaHeld 3 = false ∧ s.dmaTurn = some 3 ∧ s.dmaTurn ≠ some 0 ∧ 4 % 4 = 0 ∧
       (s.row 0x2B02 1).map (·.acc) = some .wo ∧ s.row 0x1FFF 0 = none ∧ odExists s.part 0x1FFF = false ∧ s.fw.switching = none) ∧
    (let s := { serving 0 with fw := { Firmware.reset with switching := some (1, 0, false) } }
     s.reachable 0 = true ∧ s.serves = false ∧ s.fw.switching ≠ none) ∧
    (let s := { serving 0 with pwr := { Power.reset with powerGood := true, mgmtCrossing := false } }
     s.reachable 0 = true ∧ s.serves = false ∧ s.fw.switching = none ∧ s.pwr.mgmtCrossing = false) ∧
    ({ pcied with svc := { Service.reset with poison := [56] } } : State).poisoned 0 64 = true ∧
    ((withCfg []).masterMay 0 0 64 true = false) ∧
    (({ pcied with masters := [(0, { Master.reset with frozen := true })] } : State).master 0).frozen = true := by
  decide +kernel

/-- OP, with an RxPDO of the values of l. -/
def mapped (l : List Nat) : State :=
  let s := mailing 8
  { s with ecat := { s.ecat with pdo := (odKey 0x1C12 1, 0x1600) :: (List.range l.length).map (fun i => (odKey 0x1600 (i + 1), l.getD i 0)) } }

theorem witness_ethercat :
    (State.reset.reachable 1 = false) ∧
    ((mailing 2).reachable 1 = true ∧ (mailing 2).serves = true ∧ odExists (mailing 2).part 0x1FFF = false ∧ (mailing 2).row 0x1FFF 0 = none ∧
      odExists (mailing 2).part 0x2300 = true ∧ (mailing 2).subsFrom 0x2300 1 ≠ [] ∧ ((mailing 2).row 0x2300 1).isSome = true) ∧
    (let s := { mailing 2 with fw := Firmware.reset }
     s.reachable 1 = true ∧ s.serves = false) ∧
    (let s := mailing 2
     s.ecatLink = true ∧ alOrder 4 ≤ alOrder s.ecat.al + 1 ∧ alOrder s.ecat.al + 1 < alOrder 8) ∧
    ((withCfg [(0x2200, 2, 8190)]).ecatLink = false) ∧
    (let s := mailing 4
     s.ecatLink = true ∧ 4 ≤ s.ecat.al ∧ s.ecat.al ≠ 8) ∧
    ((mailing 2).ecat.al < 4) ∧
    (let s := mapped [0x70000110]
     s.ecatLink = true ∧ s.ecat.al = 8 ∧ s.assigned true = [(0x7000, 1)]) ∧
    ((mapped [0x78000120]).assigned true = [(0x7800, 1)]) ∧
    ((mapped [0x70001010, 0x70000110]).assigned true = [(0x7000, 16), (0x7000, 1)]) := by
  decide +kernel

theorem witness_masters :
    (let s := serving 2
     Served s 0 2 ∧ (s.master 7).frozen = false ∧ s.present 583 = true) ∧
    (let s := { serving 2 with masters := [(7, { Master.reset with frozen := true })] }
     Served s 0 2 ∧ (s.master 7).frozen = true ∧ (s.master 7).held = []) ∧
    (let s := { serving 2 with cores := [(3, { Core.reset with state := .frozen })] }
     Served s 0 2 ∧ s.present 3 = true ∧ (s.core 3).state = .frozen ∧ (s.core 3).seq.ops = []) ∧
    (State.reset.reachable 2 = false ∧ calRange 0x0A010920 = false ∧ calRange 0x08000000 = true) ∧
    (let s := { serving 2 with masters := [(0, { Master.reset with frozen := true })] }
     s.reachable 0 = true ∧ (s.master (sesMaster 0)).frozen = true) ∧
    (let s := withCfg [(0x2B10, 1, 0x0A000000 / 64 + 1000 * 2 ^ 26 + 3 * 2 ^ 52)]
     s.reachable 0 = true ∧ (s.master (sesMaster 0)).frozen = false ∧ s.masterMay (sesMaster 0) 0x0A0001BC 4 true = true ∧ 0x0A0001BC % 4 = 0 ∧
       2 ≤ (s.session 0).level) ∧
    (let s := { withCfg [(0x2B10, 1, 0x0A000000 / 64 + 1000 * 2 ^ 26 + 3 * 2 ^ 52)] with sessions := [] }
     s.reachable 0 = true ∧ s.masterMay (sesMaster 0) 0x0A0001BC 4 true = true ∧ (s.session 0).level < 2) ∧
    (let s := withCfg [(0x2B20, 1, 1), (0x2B30, 1, 0)] (upAt 10000000000)
     s.telemOn = true ∧ s.pwr.watch = false ∧ s.portServes (s.cfg 0x2B30 1) = true ∧ s.telem.lastAt + 1000000000 * s.cfg 0x2B30 4 ≤ s.time.up) ∧
    (State.reset.telemOn = false ∧ (upAt 9999999999).time.up < State.reset.telem.lastAt + 1000000000 * State.reset.cfg 0x2B30 4) ∧
    (State.reset.keep.countersAt + 60000000000 ≤ (upAt 60000000000).time.up ∧ (upAt 59999999999).time.up < State.reset.keep.countersAt + 60000000000) := by
  try dsimp only
  repeat' first | with_reducible apply served_of | with_reducible apply And.intro
  all_goals decide +kernel

def switching (x : Option (Nat × Nat × Bool)) (up : Nat) : State :=
  { upAt up with fw := { Firmware.reset with switching := x } }

theorem witness_firmware :
    (let s := serving 2
     Served s 0 2 ∧ s.stageFree = true ∧ s.sets.state = 0 ∧ s.ctxs.all (fun x => x.2.cmd == 0) = true ∧ s.pwr.watch = false ∧
       s.fw.switching = none) ∧
    (let s := { serving 2 with stage := { Stage.reset with install := some 0 } }
     Served s 0 2 ∧ s.stageFree = false) ∧
    (let s := setsAs { Sets.reset with state := 1 }
     Served s 0 2 ∧ s.sets.state ≠ 0) ∧
    (let s := ctxed { stopped with cmd := 1 }
     Served s 0 2 ∧ s.ctxs.all (fun x => x.2.cmd == 0) = false) ∧
    (let s := { serving 2 with fw := { Firmware.reset with serving := true, status := 1 }, stage := { Stage.reset with firmware := true } }
     s.fw.status = 1 ∧ s.stage.firmware = true) ∧
    (State.reset.fw.status ≠ 1) ∧
    (let s := switching (some (1, 0, false)) 1999999999
     s.fw.switching = some (1, 0, false) ∧ s.time.up < 0 + 2000000000) ∧
    (let s := switching (some (1, 0, false)) 2000000000
     s.fw.switching = some (1, 0, false) ∧ 0 + 2000000000 ≤ s.time.up) ∧
    (let s := { serving 0 with fw := Firmware.reset, pwr := { Power.reset with powerGood := true, mgmtCrossing := true } }
     s.reachable 0 = true ∧ s.serves = false ∧ s.pwr.mgmtCrossing = true) ∧
    (let s := { serving 0 with fw := Firmware.reset, pwr := { Power.reset with powerGood := true, mgmtCrossing := false } }
     s.reachable 0 = true ∧ s.serves = false ∧ s.pwr.mgmtCrossing = false) := by
  try dsimp only
  repeat' first | with_reducible apply served_of | with_reducible apply And.intro
  all_goals decide +kernel

/-! ## Clocks, power, resets, service life -/

def clocksAs (k : Clocks) (up : Nat := 0) : State := { upAt up with clk := k }

theorem witness_generators :
    (State.reset.hasGen 11 = false ∧ State.reset.hasGen 10 = true ∧ (State.reset.gen 10).state = 0 ∧ State.reset.clk.refLost = false ∧
      genDie 10 = some 3 ∧ dieOf 575 = 3 ∧ 43 ∈ State.reset.fedBy 10) ∧
    (let s := clocksAs ⟨false, [(1, ⟨1, 0, 0⟩), (2, ⟨2, 0, 0⟩), (3, ⟨3, 0, 0⟩)], []⟩
     (s.gen 1).state = 1 ∧ (s.gen 2).state = 2 ∧ (s.gen 3).state = 3 ∧ s.hasGen 3 = true ∧ s.clk.refLost = false ∧
       s.time.up < (s.gen 3).since + 1000000) ∧
    (let s := clocksAs ⟨false, [(1, ⟨3, 0, 0⟩)], []⟩ 1000000
     (s.gen 1).state = 3 ∧ (s.gen 1).since + 1000000 ≤ s.time.up ∧ (s.fedBy 1).any s.ramping = false) ∧
    (let s := { clocksAs ⟨false, [(1, ⟨3, 0, 0⟩)], []⟩ 1000000 with time := { TimeBase.reset with up := 1000000, mode := .coarse } }
     s.time.mode = .coarse ∧ (s.fedBy 1).any s.ramping = false) ∧
    (let s := clocksAs ⟨false, [(1, ⟨3, 0, 0⟩)], [(2, ⟨49, 48, none⟩)]⟩ 1000000
     (s.fedBy 1).any s.ramping = true) ∧
    ((clocksAs ⟨true, [], []⟩).clk.refLost = true) ∧
    (let s := clocksAs ⟨false, [(1, ⟨1, 0, 77⟩)], []⟩
     pilotMate 0 = some 1 ∧ (s.gen 1).state ≠ 0 ∧ s.hasGen 0 = true ∧ (s.gen 0).state = 0) := by
  decide +kernel

theorem witness_ramps :
    (State.reset.domains.contains 44 = false ∧ (State.reset.divider 0).now = (State.reset.divider 0).target) ∧
    (let s := clocksAs ⟨false, [], [(1, ⟨24, 25, none⟩)]⟩
     s.domains.contains 1 = true ∧ (s.divider 1).now ≠ (s.divider 1).target ∧ s.led 1 = false ∧ s.followers 1 = [] ∧ s.domains.contains 43 = true ∧ (s.divider 1).hold = none) ∧
    (let s := clocksAs ⟨false, [], [(1, ⟨24, 25, some 2⟩)]⟩
     s.domains.contains 1 = true ∧ (s.divider 1).hold ≠ none ∧ (s.divider 1).now + 1 = (s.divider 1).target ∧ s.led 1 = false) ∧
    (let s := { withCfg [(0x2200, 3, 1)] with clk := ⟨false, [], [(2, ⟨48, 49, none⟩)]⟩ }
     (0, 1) ∈ s.followers 2 ∧ s.led 0 = true ∧ s.led 2 = false) ∧
    (State.reset.hasBridge 7 = true ∧ State.reset.hasBridge 8 = false ∧ (State.reset.bridge 0).training = false ∧ (State.reset.bridge 0).replays < 16) ∧
    (let s := State.reset.setBridge 3 ⟨16, true, 0⟩
     (s.bridge 3).training = true ∧ 16 ≤ (s.bridge 3).replays) := by
  decide +kernel

def powered (p : Power) : State := { serving 2 with pwr := { p with mgmtCrossing := true } }

def good : Power := { Power.reset with powerGood := true }

theorem witness_power_states :
    (let s := serving 2
     Served s 0 2 ∧ s.anyRunning = false ∧ s.computeLoaded = false ∧ s.pwr.watch = false ∧ s.dieOn 0 = false ∧ s.coreRail 0 = true ∧
       0 < s.part.dies) ∧
    (State.reset.pwr.powerGood = false) ∧
    (let s := powered { good with dies := [(0, 1), (1, 1), (2, 1), (3, 1)] }
     ((List.range s.part.dies).all s.dieOn) = true ∧ (0x06200000 ≤ 0x0623FFFF ∧ 0x0623FFFF < 0x06200000 + 0x40000)) ∧
    (let s := powered { good with state := 1 }
     s.pwr.state = 1 ∧ s.pwr.watch = false) ∧
    (let s := powered { good with state := 2, dies := [(0, 2)] }
     s.pwr.state = 2 ∧ s.pwr.state ≠ 1 ∧ s.dieOn 0 = false ∧ s.coreRail 0 = true ∧ s.pwr.dieAt = none ∧
       ((List.range 4).all (fun x => x == 0 || Tab.get 0 s.pwr.dies x != 2)) = true) ∧
    (let s := ctxed { stopped with state := .running }
     Served s 0 2 ∧ s.anyRunning = true ∧ s.computeLoaded = true) ∧
    (let s := { powered { good with watch := true, watchWake := 5 } with time := { TimeBase.reset with gtc := 5 } }
     s.pwr.watch = true ∧ s.pwr.powerGood = true ∧ s.pwr.watchWake ≠ 0 ∧ s.pwr.watchWake ≤ s.time.gtc ∧
       ({ s with time := { s.time with gtc := 4 } } : State).time.gtc < s.pwr.watchWake) ∧
    (let s := powered { good with coreRails := [(2, false)] }
     s.pwr.powerGood = true ∧ s.pwr.watch = false ∧ s.pwr.state = 0 ∧ 0 < s.part.dies ∧ s.dieOn 0 = false ∧ s.coreRail 0 = true ∧
       s.coreRail 2 = false ∧ s.part.dies ≤ 4 ∧ s.pwr.dieAt = none) ∧
    (let s := { powered { good with dies := [(0, 1)], dieAt := some 5 } with time := { TimeBase.reset with up := 100000005 } }
     s.dieOn 0 = true ∧ s.dieOn 1 = false ∧ s.coreRail 1 = true ∧ s.pwr.dieAt = some 5 ∧ 5 + 100000000 ≤ s.time.up ∧ (upAt 100000004).time.up < 5 + 100000000) ∧
    (let s := powered { good with dies := [(0, 1), (1, 1)], coreRails := [(2, false)] }
     s.dieOn 3 = false ∧ s.coreRail 3 = true ∧ ((List.range 3).all (fun i => s.dieOn i || !s.coreRail i)) = true ∧ s.dieOn 1 = true) ∧
    (let s := { powered { good with dies := [(0, 1)] } with cores := [(3, { Core.reset with state := .off, ctx := some 0 })] }
     s.dieOn (dieOf 3) = true ∧ (s.core 3).ctx ≠ none ∧ (s.core 3).state = .off ∧
       ((List.range 3).all (fun i => (s.core i).ctx == none)) = true) ∧
    (isSentinel 143 = false ∧ State.reset.dieOn (dieOf 143) = false ∧ (State.reset.core 3).ctx = none) := by
  try dsimp only
  repeat' first | with_reducible apply served_of | with_reducible apply And.intro
  all_goals decide +kernel

theorem witness_resets :
    (State.reset.pwr.powerGood = false ∧ State.reset.pwr.watch = false ∧ State.reset.dieOn 0 = false ∧ State.reset.fw.serving = false) ∧
    (let s := { State.reset with cmdStatus := resInterrupted + 3 * 256 }
     s.pwr.powerGood = false ∧ s.cmdStatus % 256 = resInterrupted) ∧
    (let s := powered good
     s.pwr.powerGood = true ∧ s.pwr.watch = false ∧ Served s 0 2 ∧ s.dieRuns 3 = false ∧ s.part.dies ≤ 4 ∧ 3 < s.part.dies ∧ s.coreRuns 583 = false ∧
       s.present 583 = true ∧ s.present 584 = false ∧ (s.core 3).state = .off ∧ s.fw.serving = true) ∧
    (let s := powered { good with watch := true }
     s.pwr.watch = true ∧ s.pwr.powerGood = true) ∧
    (let s := ctxed { stopped with state := .running, cores := [3] }
     Served s 0 2 ∧ s.dieRuns 0 = true ∧ s.coreRuns 3 = true) ∧
    (let s := { powered good with cores := [(3, { coreOf (regs 0 0) with state := .idle })] }
     Served s 0 2 ∧ s.coreRuns 3 = false ∧ (s.core 3).state ≠ .off ∧ (s.core 3).state = .idle ∧ s.stage.install = none) ∧
    ((powered { good with dies := [(3, 1)] }).dieOn 3 = true) ∧
    (let s := engined { eng0 with te := 5 }
     (Tab.find s.engines (engKey 3 0)).isSome = true ∧
       Tab.find ({ s with keep := { HubKeep.reset with te := [(engKey 3 0, 77)] } } : State).keep.te (engKey 3 0) = some 77) := by
  try dsimp only
  repeat' first | with_reducible apply served_of | with_reducible apply And.intro
  all_goals decide +kernel

theorem witness_rails :
    (let s := { powered { good with dies := [(0, 1)] } with cores := [(3, coreOf (regs 0 0))] }
     0 < s.part.dies ∧ s.coreRail 0 = true ∧ s.coreRail 3 = true ∧ s.dieOn 0 = true ∧ s.dieOn 3 = false ∧ s.part.dies ≤ 4 ∧ s.pwr.powerGood = true ∧ s.pwr.watch = false ∧ s.pwr.state = 0 ∧
       3 ∈ s.coresOn 0 ∧ (s.core 3).ctx.isSome = true ∧ (s.core 3).state = .running) ∧
    (let s := powered { good with coreRails := [(0, false)] }
     s.coreRail 0 = false ∧ s.dieOn 0 = false ∧ s.pwr.powerGood = true ∧ s.pwr.watch = false ∧ s.pwr.state ≠ 1) ∧
    ((List.range 5).all (fun n => Tab.get .cool State.reset.outs.heat n == .cool) = true) ∧
    (let s := { State.reset with outs := { Outputs.reset with heat := [(4, .near)], therm := true } }
     (List.range 4).all (fun n => Tab.get .cool s.outs.heat n != .hot) = true ∧ Tab.get .cool s.outs.heat 4 = .near) := by
  decide +kernel

theorem witness_scrubbing :
    (State.reset.sramAt 0x06310000 = false ∧ State.reset.sramAt 0x0630FFF8 = true ∧ State.reset.sramAt 0x05FFFFF8 = true ∧
      (0x05FFFFF8 < 0x06000000)) ∧
    (let s := { State.reset with svc := { Service.reset with ceNow := [8, 16], ceLast := [16] } }
     16 ∈ s.svc.ceNow ∧ 16 ∈ s.svc.ceLast ∧ 8 ∉ s.svc.ceLast ∧ s.passEnds 16 = true ∧ s.passEnds (2 ^ 32) = false ∧ s.passEnds (2 ^ 33) = true ∧
       s.svc.scrubAt ≤ s.time.up ∧ s.time.up < s.svc.scrubAt + 1000000000 * s.cfg 0x2C00 1) ∧
    (let s := upAt 86400000000000
     s.svc.scrubAt + 1000000000 * s.cfg 0x2C00 1 ≤ s.time.up ∧ s.passEnds (2 ^ 32) = true) ∧
    (let s := { State.reset with svc := { Service.reset with scrubAt := 1 } }
     s.time.up < s.svc.scrubAt) ∧
    (State.reset.flitAt (2 ^ 34) = false ∧ (2 ^ 33 ≤ 2 ^ 34 - 1) ∧ (2 ^ 32 ≤ 2 ^ 33 - 1)) ∧
    (let s := { State.reset with net := ⟨[msg0], [upd0], [⟨3, 0, 0x100, 0, 77, 1, [1, 2], [4], []⟩], []⟩ }
     s.flitAt (2 ^ 34) = true ∧ s.net.msgs[(2 ^ 34 - 2 ^ 34) / 128]? = some msg0 ∧ s.flitAt (2 ^ 34 + 127) = false ∧
       s.flitAt (2 ^ 35) = true ∧ s.net.syncs[(2 ^ 35 - 2 ^ 35) / 128]? = some upd0 ∧ s.flitAt (2 ^ 36 + 1) = true ∧
       s.net.frames[(2 ^ 36 + 1 - 2 ^ 36) / 128]? = some ⟨3, 0, 0x100, 0, 77, 1, [1, 2], [4], []⟩ ∧ s.flitAt (2 ^ 36 + 2) = false) ∧
    (Tab.find ({ State.reset with keep := { HubKeep.reset with prevKeys := [(1, ⟨2, [7]⟩)] } } : State).keep.prevKeys 1 = some ⟨2, [7]⟩) := by
  decide

/-! ## The recorder -/

def rec0 (gtc : Nat) : Rec := ⟨gtc, 0x1003, 6, [1], false, false, false, false, 0, 0⟩

def ashes (a : Ashpit) (gtc : Nat := 0) (x : State := State.reset) : State :=
  { x with ash := a, time := { TimeBase.reset with gtc := gtc } }

def inbox1 : Ashpit := { Ashpit.reset with inbox := [⟨rec0 0, none⟩] }

theorem witness_records :
    (State.reset.ash.inbox = [] ∧ State.reset.ash.sort = []) ∧
    (let s := ashes { inbox1 with tokens := [(6, 0)] }
     s.ash.inbox = [⟨rec0 0, none⟩] ∧ s.tokensOf (bucketOf 6) = 0) ∧
    (let s := ashes inbox1 1000000
     s.ash.inbox = [⟨rec0 0, none⟩] ∧ 5 < (rec0 0).code ∧ 0 < s.tokensOf (bucketOf (rec0 0).code) ∧ (rec0 0).payload.length ≤ 32 ∧
       s.pwr.watch = false ∧ s.ash.checkpoint = false ∧ s.time.gtc ≤ (rec0 0).gtc + 1000000) ∧
    ((rec0 0).gtc + 1000000 < (ashes inbox1 1000001).time.gtc) ∧
    (let s := ashes { inbox1 with checkpoint := true }
     s.ash.checkpoint = true ∧ s.ash.hold.length < 256) ∧
    (let s := ashes inbox1 0 { State.reset with pwr := { Power.reset with watch := true } }
     s.pwr.watch = true ∧ s.ash.retention = []) ∧
    (let s := { flies [inFlight (.log 6 0 0 true)] with ash := { Ashpit.reset with inbox := [⟨rec0 0, some (3, 0)⟩] } }
     s.ash.inbox = [⟨rec0 0, some (3, 0)⟩] ∧ s.op 3 0 = some (inFlight (.log 6 0 0 true)) ∧ 0 < s.tokensOf (bucketOf 6)) ∧
    (let s := ashes { Ashpit.reset with sort := [rec0 0] } 1000000
     Tab.find s.ash.refilled 6 = none ∧ s.ash.sort = [rec0 0] ∧ (rec0 0).gtc + 1000000 ≤ s.time.gtc ∧ s.ash.freeze = none ∧ s.ash.checkpoint = false ∧
       (ashes { Ashpit.reset with sort := [rec0 0] } 999999).time.gtc < (rec0 0).gtc + 1000000) ∧
    (let s := ashes { Ashpit.reset with sort := [rec0 0], freeze := some ⟨0, 60⟩ } 1000000
     s.ash.freeze ≠ none ∧ s.ash.hold.length < 256) ∧
    (let s := ashes { Ashpit.reset with refilled := [(6, 0)] } 0
     Tab.find s.ash.refilled 6 = some 0 ∧ s.time.up < 0 + 1000000000 / s.bucketCfg 6 2 ∧ 0 + 1000000000 / s.bucketCfg 6 2 ≤ (upAt 10000000).time.up) ∧
    (let s := ashes { Ashpit.reset with sort := [rec0 0], freeze := some ⟨0, 60⟩, hold := List.replicate 256 (rec0 0) } 1000000
     s.ash.freeze ≠ none ∧ 256 ≤ s.ash.hold.length) := by
  decide +kernel

theorem witness_record_bytes :
    ((rec0 5).payload.length ≤ 32 ∧ (rec0 5).payload[0]? = some 1 ∧ State.reset.memOk = true ∧
      State.reset.ash.foundFill + recSize (rec0 5).payload.length ≤ foundSize) ∧
    (let s := ashes { Ashpit.reset with foundFill := foundSize - 32 }
     s.ash.foundFill + recSize 1 = foundSize ∧ s.ash.foundFill / 65536 ≠ (s.ash.foundFill + recSize 1) / 65536) ∧
    (let s := ashes { Ashpit.reset with foundFill := foundSize, rollHead := rollSize - 32, rollUsed := rollSize - 32 }
     s.ash.foundFill = foundSize ∧ s.ash.rollHead + recSize 1 ≤ rollSize ∧ s.ash.rollUsed + recSize 1 ≤ rollSize) := by
  decide

theorem witness_freezes :
    (let s := serving 1
     Served s 0 1 ∧ s.ash.freeze = none ∧ s.ash.checkpoint = false) ∧
    (let s := { serving 1 (upAt 59999999999) with ash := { Ashpit.reset with freeze := some ⟨0, 60⟩ } }
     Served s 0 1 ∧ s.ash.freeze ≠ none ∧ s.ash.checkpoint = false ∧ s.ash.gap = none ∧ s.time.up < 0 + 60 * 1000000000) ∧
    (let s := { serving 1 (upAt 60000000000) with ash := { Ashpit.reset with freeze := some ⟨0, 60⟩, checkpoint := true } }
     Served s 0 1 ∧ s.ash.freeze = some ⟨0, 60⟩ ∧ s.ash.checkpoint = true ∧ 0 + 60 * 1000000000 ≤ s.time.up) := by
  try dsimp only
  repeat' first | with_reducible apply served_of | with_reducible apply And.intro
  all_goals decide

theorem witness_clears :
    (let s := sessioned (nonced 1 2)
     Served s 0 2 ∧ s.ash.freeze = none ∧ s.ash.checkpoint = false ∧ (s.session 0).clearNonce = some [3] ∧ s.current (s.session 0).clearAt = true ∧
       (s.keySlot 1).level = 2 ∧ s.reachable 0 = true ∧ s.serves = true) ∧
    (Served (serving 2) 0 2 ∧ ((serving 2).session 0).clearNonce = none) ∧
    (let s := sessioned (nonced 1 2) (upAt 1000000000000)
     Served s 0 2 ∧ s.current (s.session 0).clearAt = false) ∧
    (let s := sessioned (nonced 1 1)
     s.reachable 0 = true ∧ s.serves = true ∧ (s.session 0).level < 2) ∧
    (State.reset.ash.clearing = false) ∧
    (let s := ashes { Ashpit.reset with clearing := true, pfailWaits := true }
     s.ash.clearing = true ∧ s.ash.pfailWaits = true ∧ s.ash.checkpoint = false ∧ (ashes { Ashpit.reset with clearing := true }).ash.pfailWaits = false) := by
  try dsimp only
  repeat' first | with_reducible apply served_of | with_reducible apply And.intro
  all_goals decide +kernel

theorem witness_clear_proof : ((sessioned (nonced 1 2)).clearProof [3] 1).length = 32 := hmac_length _ _

/-! ## Invariants -/

theorem witness_invariants : State.reset.memOk = true ∧ State.reset.modesOk = true := by decide

/-! ## Well-formedness: each check refuses an ill-formed term -/

theorem test_wf_numbers :
    okCore 584 = false ∧ okCore 583 = true ∧ okEng 583 50 = false ∧ okEng 584 0 = false ∧ okEng 583 49 = true ∧ okSes 10 = false ∧ okSes 9 = true ∧
    okCtx 64 = false ∧ okCtx 63 = true ∧ okPort 4 = false ∧ okPort 3 = true ∧ okUdp 8 ⟨0, 0, []⟩ = false ∧ okUdp 0 ⟨2, 0, []⟩ = false ∧
    okUdp 0 ⟨0, 2 ^ 32, []⟩ = false ∧ okUdp 0 ⟨0, 0, List.replicate 17 0⟩ = false ∧ okUdp 7 ⟨1, 2 ^ 32 - 1, List.replicate 16 0⟩ = true ∧
    okWidth 16 65536 = false ∧ okWidth 16 65535 = true ∧ okHdr ⟨true, true, true, 5, false, 0, 0, 0, 0, 0⟩ = false ∧
    okHdr ⟨true, true, true, 4, false, 0, 65536, 0, 0, 0⟩ = false ∧ okHdr ⟨true, true, true, 4, false, 0, 0, 65536, 0, 0⟩ = false ∧
    okHdr ⟨true, true, true, 4, false, 0, 0, 0, 256, 0⟩ = false ∧ okHdr ⟨true, true, true, 4, false, 0, 65535, 65535, 255, 0⟩ = true ∧
    okCrossing (.core 584) = false ∧ okCrossing (.die 4) = false ∧ okCrossing (.die 3) = true := by
  decide

theorem test_wf_cores :
    (Instr.nop 584).wf = false ∧ (Instr.readSlot 0 50).wf = false ∧ (Instr.tileWriteCommit 584 0).wf = false ∧ (Instr.frameWindowWrite 0 4).wf = false ∧
    (Instr.dataMessage 0 584).wf = false ∧ (Instr.credit 584 0).wf = false ∧ (Instr.syncUpdate 278528).wf = false ∧
    (Instr.crossingReopen (.die 4)).wf = false ∧ (Instr.hostLocalWrite 0 0x200000 [0]).wf = false ∧ (Instr.repairMapWrite 0 0 (2 ^ 32)).wf = false ∧
    (Instr.surveySlice 0 0 16).wf = false ∧ (Instr.surveyOverdue 0 0 16).wf = false ∧ (Instr.repairSlice 0 0 8).wf = false ∧
    (Instr.columnRepair 0 0 128).wf = false ∧ (Instr.retireEngine 10 0 0).wf = false ∧ (Instr.retireEngine 0 65536 0).wf = false ∧
    (Instr.surveyNow 0 0 256).wf = false ∧ (Instr.retireColumn 0 0 0 256).wf = false ∧ (Instr.nop 583).wf = true ∧ (Instr.syncUpdate 278527).wf = true := by
  decide

theorem test_wf_contexts :
    (Instr.loadCmd 0 64 0).wf = false ∧ (Instr.loadCmd 0 0 2).wf = false ∧ (Instr.install 0 0 2 false).wf = false ∧ (Instr.eclose 0 0 4).wf = false ∧
    (Instr.start 10 0).wf = false ∧ (Instr.bankVerified 64).wf = false ∧ (Instr.arm 0 584).wf = false ∧ (Instr.pushTail (2 ^ 64)).wf = false ∧
    (Instr.capsuleResp ⟨0, 0, 65536, 0⟩).wf = false ∧ (Instr.capsuleResp ⟨5, 0, 0, 0⟩).wf = false ∧ (Instr.c2hData ⟨5, 0, []⟩ true).wf = false ∧
    (Instr.c2hData ⟨0, 65536, []⟩ true).wf = false ∧ (Instr.udpOpen ⟨1, 2 ^ 32⟩).wf = false ∧ (Instr.blockReady 0 (2 ^ 32)).wf = false ∧ (Instr.coreReplace 0 65536).wf = false ∧
    (Instr.coreReplaceStart 5).wf = false ∧ (Instr.coreReplaceSwitch 5).wf = false ∧ (Instr.hello 4 (hdrOk 0 0) 0 0 0).wf = false ∧
    (Instr.hello 0 (hdrOk 0 0) 0 0 4).wf = false ∧ (Instr.idle 4 (hdrOk 0 0)).wf = false ∧ (Instr.message 0 (hdrOk 0 0) (fmsg 0 3) []).wf = false ∧
    (Instr.epoch 4 (hdrOk 0 0) []).wf = false ∧ (Instr.mirrorFrame 0 (hdrOk 0 0) 16 0 0 []).wf = false ∧ (Instr.flueDown 4).wf = false ∧
    (Instr.malformedMessage 2).wf = false ∧ (Instr.start 9 63).wf = true := by
  decide

theorem test_wf_time_and_outputs :
    (Instr.referenceEvent (2 ^ 64)).wf = false ∧ (Instr.stepReq 0 (2 ^ 63)).wf = false ∧ (Instr.stepReq 0 (-(2 ^ 63))).wf = true ∧ (Instr.latch 2 0).wf = false ∧
    (Instr.trackerUpdate 8).wf = false ∧ (Instr.trackerInputEvent 8 .edge).wf = false ∧ (Instr.mclkWindow 8 0).wf = false ∧
    (Instr.channelFault 96 0).wf = false ∧ (Instr.channelFault 0 3).wf = false ∧ (Instr.channelFaultExit 96).wf = false ∧
    (Instr.decimatedResult 96 []).wf = false ∧ (Instr.auxConversion 16 0).wf = false ∧ (Instr.auxConversion 0 65536).wf = false ∧
    (Instr.frameForm 16).wf = false ∧ (Instr.ringFreeze 16).wf = false ∧ (Instr.ringCtrl 0 16 0).wf = false ∧ (Instr.sampleInstant 16).wf = false ∧
    (Instr.dacWrite 0 16 0).wf = false ∧ (Instr.dacWrite 0 0 65536).wf = false ∧ (Instr.tripMinOnExpiry 32).wf = false ∧
    (Instr.dacRelease 10 0).wf = false ∧ (Instr.dacWrite 0 15 65535).wf = true := by
  decide

theorem test_wf_host :
    (Instr.alStateRequest 5).wf = false ∧ (Instr.rxpdoApply (List.replicate 257 0)).wf = false ∧ (Instr.bar0Access true (2 ^ 32) 4 0).wf = false ∧
    (Instr.bar0Access true 0 3 0).wf = false ∧ (Instr.bar2Access true (2 ^ 40) 0 []).wf = false ∧ (Instr.bar2Access true 0 4097 []).wf = false ∧
    (Instr.longRead 65536 0).wf = false ∧ (Instr.longWrite 0 256 []).wf = false ∧ (Instr.dmaTail 4 0 0 0).wf = false ∧
    (Instr.dmaDescriptor 0 [] [] false).wf = false ∧ (Instr.udpOpen ⟨2, 0⟩).wf = false ∧ (Instr.udpClose 8 (uhdr 0)).wf = false ∧
    (Instr.udpRead 0 (uhdr 0) 65536 0 1).wf = false ∧ (Instr.udpWrite 0 (uhdr 0) 0 256 []).wf = false ∧ (Instr.authBegin 0 (uhdr 0) 256).wf = false ∧
    (Instr.authProve 0 (uhdr 0) []).wf = false ∧ (Instr.memRead 0 (uhdr 0) (2 ^ 64) 0).wf = false ∧ (Instr.memWrite 8 (uhdr 0) 0 []).wf = false ∧
    (Instr.sessionTimeout 8).wf = false ∧ (Instr.authSlot 0 256).wf = false ∧ (Instr.authResponse 0 []).wf = false ∧ (Instr.authLockoutEnd 8).wf = false ∧
    (Instr.authDrop 0 256).wf = false ∧ (Instr.keyWrite 0 []).wf = false ∧ (Instr.setCommit 0 4 0 0).wf = false ∧ (Instr.setCommit 0 0 64 0).wf = false ∧
    (Instr.objectWrite 0 65536 0 []).wf = false ∧ (Instr.masterResume 0 65536).wf = false ∧ (Instr.calWrite 0 (2 ^ 64) []).wf = false ∧
    (Instr.calRestore 0 (2 ^ 32)).wf = false ∧ (Instr.ethLinkState 2 true).wf = false ∧ (Instr.masterResume 0 0x1003).wf = true := by
  decide +kernel

theorem test_wf_power_and_service :
    (Instr.lockLoss 11).wf = false ∧ (Instr.dividerStep 44).wf = false ∧ (Instr.diePowerOn 4).wf = false ∧ (Instr.resetCmdDie 0 65536).wf = false ∧
    (Instr.resetCmdCore 0 65536).wf = false ∧ (Instr.scrubAccess (2 ^ 64) .clean).wf = false ∧ (Instr.bridgeReplay 8).wf = false ∧
    (Instr.tokenRefill 1024).wf = false ∧ (Instr.ashClear 0 0 []).wf = false ∧ (Instr.thermN 5 .hot).wf = false ∧ (Instr.thermN 4 .hot).wf = true := by
  decide

/-! ## The spec's worked examples -/

/-- Example of file 02 (Table 2.13): the quarter loads of slice 1, limit 3,840, give groups of two quarters; slice 0 is one group. -/
theorem test_row_groups :
    groupQuarters (fun q => [1520, 1310, 1105, 890].getD q 0) 3840 (List.range 4) [] 0 = [[0, 1], [2, 3]] ∧
    groupQuarters (fun q => [410, 220, 95, 0].getD q 0) 3840 (List.range 4) [] 0 = [[0, 1, 2, 3]] := by
  decide

/-- The same example: three codes through GAIN 0x4147 and OFFSET -6, and the combination of the two slices. -/
theorem test_corrected_values :
    (correct 143 ⟨0x4147, -6⟩).r = 577 ∧ (correct 301 ⟨0x4147, -6⟩).r = 1222 ∧ (correct (-88) ⟨0x4147, -6⟩).r = -365 ∧
    combine [577, 1222 - 365] = (10089, false) := by
  decide

/-- Example of file 04 (Table 4.11): lane 37 saturates, becomes sticky, and then ignores what is added. -/
theorem test_sticky_lane :
    addIntLane 2147475000#32 false 10089 false = ⟨2147483647#32, true, true⟩ ∧ addIntLane 2147483647#32 true (-9500) false = ⟨2147483647#32, true, false⟩ ∧
    addIntLane 2147475000#32 false (-9500) false = ⟨2147465500#32, false, false⟩ := by
  decide

/-- The state an outcome goes on in. -/
def after : Host.Outcome State Fault Refusal → State
  | .next t => t
  | _ => State.reset

/-- Core 576 with the word w, whose context also owns trip output 3 and hub objects 0 to 0x3FF, and 7 in word 0 of its line 0x048. -/
def runsSentinelTrip (w : Nat) : State :=
  let s := runsSentinel w
  { s with
    ctxs := [(0, { s.ctx 0 with hubLen := 1024 })], sets := { s.sets with active := (odKey 0x2523 5, 0) :: s.sets.active }
    mem := Mem.writeBytes s.mem (coreBase 576 + 0x048 * 64) (toLE 4 7) }

/-- Example of file 05 (Table 5.11, index 0x004): MVM, I8, ENG 1, IN 0x040, KB k2, tile 1 row 0, overwrite, SATREP, LCREP. -/
theorem test_mvm_word :
    ((after (exec (.mvm 576) (runsSentinel 0x101A041004040000))).core 576).seq.ops.map
      (fun o => (o.satRep, o.lcRep, match o.body with
        | .mvm m => [m.leng, m.tile, m.row, m.ifmt, m.line, m.bound, if m.acc then 1 else 0]
        | _ => [])) = [(true, true, [1, 1, 0, 1, 0x040, 4, 0])] := by
  decide +kernel

/-- Index 0x005: DRAIN of tile 1 from row 0, k1, ReLU, int32, CLEAR, SATREP; index 0x006: LDK of s5 from line 0x048, word 0. -/
theorem test_drain_and_ldk_words :
    ((after (exec (.drain 576) (runsSentinel 0x111310200C220000))).core 576).seq.ops.map
      (fun o => (o.satRep, match o.body with
        | .drain d => [d.tile, d.row0, d.n, d.act, d.ofmt, if d.clear then 1 else 0]
        | _ => [])) = [(true, [1, 0, 4, 1, 2, 1])] ∧
    ((after (exec (.ldk 576) (runsSentinelTrip 0x0601000000000905))).core 576).sreg 5 = 7 := by
  decide

/-- Index 0x007: EMIT of trip 3 from s5, which holds 0, with DL and SYNC 0x1_0102, 1,000 ns after a stamp latch of 0; index 0x001: the WAIT's
handle; index 0x008: SIG adds 1 to 0x1_0101. -/
theorem test_emit_wait_sig_words :
    (after (exec (.emit 576) (runsSentinelTrip 0x2807000002870102))).net.decisions.map (fun d => (d.core, d.trip, d.value, d.deadline)) =
      [(576, 3, false, some 1000)] ∧
    opcodeOf 0x2103040000030100 = 0x21 ∧ syncOf 0x2103040000030100 = 0x10100 ∧
    syncOf 0x2000000000030101 = 0x10101 ∧ imm24Of 0x2000000000030101 = 1 := by
  decide

/-- Example of file 09: code 0x1000, 0x1400 and 0x1600 in the range -5 V to 5 V, as V = 5 * code / 32768, are 0.625, 0.78125 and 0.859375 V; a code
with its top bit set is negative. -/
theorem test_dac_codes :
    toSigned 16 0x1000 * 5000000 / 32768 = 625000 ∧ toSigned 16 0x1400 * 5000000 / 32768 = 781250 ∧ toSigned 16 0x1600 * 5000000 / 32768 = 859375 ∧
    toSigned 16 0x8000 = -32768 := by
  decide

/-- Example of file 10: SET_CMD 0x0000_0311 is a commit at mark 12 for context 0, and is no malformed command. -/
theorem test_set_command_word :
    setCmdBad 0x311 = false ∧ field 0x311 0 4 = 1 ∧ field 0x311 4 2 = 1 ∧ field 0x311 6 6 = 12 ∧ field 0x311 12 6 = 0 ∧ setCmdBad 0x310 = true := by
  decide

/-- The same example: BAR0 offset 0x0252_3050 writes TRIP_GRANT of output 3 into the shadow copy; the active copy keeps its value. -/
theorem test_bar0_write :
    (let s := after (exec (.bar0Access true 0x02523050 1 10) (serving 2))
     Tab.get 0 s.sets.shadow (odKey 0x2523 5) = 10 ∧ s.cfg 0x2523 5 = (serving 2).cfg 0x2523 5) := by
  decide +kernel

/-- Example of file 00: core 377 is on die 2, and its records carry source 0x1179. -/
theorem test_core_names : dieOf 377 = 2 ∧ 377 % 144 = 7 * 12 + 5 ∧ coreSource 377 = 0x1179 := by decide

/-- Record lengths of R322: a 16-byte header and four bytes a word, in 16-byte steps. -/
theorem test_record_sizes : recSize 0 = 16 ∧ recSize 1 = 32 ∧ recSize 4 = 32 ∧ recSize 5 = 48 := by decide

/-! ## Numbers -/

/-- R234: the weights of the bits of a sinc3 window add up to R cubed; those of a sinc2 window to M squared (R236). -/
theorem test_filter_weights :
    sumInt ((List.range 22).map (sinc3 8)) = 512 ∧ sumInt ((List.range 15).map (sinc2 8)) = 64 ∧ sinc2 8 7 = 8 ∧ sinc3 8 0 = 1 := by
  decide

/-- IEEE 754 numbers: 1 + 2 = 3, 3 * 0.5 = 1.5, 1 / 4; bf16 of 1.5 and e4m3 of 1. -/
theorem test_float_arithmetic :
    add32 0x3F800000#32 0x40000000#32 = 0x40400000#32 ∧ mul32 0x40400000#32 0x3F000000#32 = 0x3FC00000#32 ∧
    div32 0x3F800000#32 4 = 0x3E800000#32 ∧ int32ToF (-3) = 0xC0400000#32 ∧ (toE4m3 0x3F800000#32).1 = 0x38 := by
  decide

/-- Float to integer: halves go to the even neighbour, and a value past the range saturates. -/
theorem test_float_to_integer :
    floatToInt (-128) 127 0x40200000#32 = (2, false) ∧ floatToInt (-128) 127 0x40600000#32 = (4, false) ∧
    floatToInt (-128) 127 0x43480000#32 = (127, true) := by
  decide

/-- Table 4.3: the sigmoid of 0 is 1/2 and its tanh is 0, so any number further off than the table's error is no answer. -/
theorem test_activation_bounds :
    within (val32 0x3F000000#32) (sigmoidEncl false (0, 0)) (2 ^ 82) = true ∧ within (val32 0x3F010000#32) (sigmoidEncl false (0, 0)) (2 ^ 82) = false ∧
    within (val32 0#32) (tanhEncl false (0, 0)) (2 ^ 83) = true ∧ within (val32 0x3F800000#32) (tanhEncl false (0, 0)) (2 ^ 83) = false := by
  decide +kernel

/-- SHA-256 of the three letters abc and CRC-32C of the nine digits, as their standards give them (R269, R271 and the images use the two). -/
theorem test_digests :
    (Sha.hash [0x61, 0x62, 0x63]).take 4 = [0xBA, 0x78, 0x16, 0xBF] ∧
    crc32c [0x31, 0x32, 0x33, 0x34, 0x35, 0x36, 0x37, 0x38, 0x39] = 0xE3069283 := by
  decide +kernel

/-! ## Clauses with hypotheses of their own -/

theorem witness_issue_and_reads :
    (let w := word 4 [(48, 1), (21, 65535)]; Issues (runs w 4 1) 3 4 w ∧ ((runs w 4 1).core 3).sreg 0 = 1 ∧ bit w 48 = true) ∧
    (let m := mvmOp [⟨0, [0], true⟩]
     let s := flies [inFlight (.mvm m)]
     (s.core 3).seq.ops.find? (fun o => o.busyOn 0) = some (inFlight (.mvm m)) ∧ m.todo = ⟨0, [0], true⟩ :: [] ∧ s.atbRamps 3 = false) ∧
    (let o := inFlight (.drain { drain0 with clear := true })
     let s := flies [o]
     s.op 3 0 = some o ∧ (s.core 3).tileFree 0 1 = true ∧ (s.core 3).rowsOpen 0 1 0 8 true = true ∧ (s.core 3).mayRead 0 o.reads = true) ∧
    135 < 136 := by
  try dsimp only
  repeat' first | apply issues_of | apply And.intro
  all_goals decide

theorem witness_columns_held : eng0.regs.active.length = 136 := by decide +kernel

theorem witness_engines_busy :
    (let s := engined { eng0 with job := some { job0 with granted := true } } busyOps
     (s.eng 3 0).job = some { job0 with granted := true } ∧ s.engBusy 3 0 = true) ∧
    (let s := engined { eng0 with job := some (closing .requalify) } busyOps
     (s.eng 3 0).job = some (closing .requalify) ∧ s.engBusy 3 0 = true) ∧
    (let k := { stopped with bank0 := { bankOf .imago with blocks := [block0 0 false] } }
     let s := { ctxed k with cores := [(3, coreOf { regs 4 0 with ops := busyOps })] }
     s.unverifiedBlock 3 0 = some (0, 0, 0) ∧ s.engBusy 3 0 = true) := by
  decide

/-- A repair slice of engine 1 of core 3 waits beside a group of engine 0. -/
def slices : State :=
  let s := (engined { eng0 with job := some job0 }).setEng 3 1
    { eng0 with owner := some (0, 0, 1), stoke := { Stoke.reset with flagged := [0] } }
  { s with damper := { s.damper with waiting := [(150, 0)], stokes := [151] }, sets := { Sets.reset with active := [(odKey 0x2800 1, 1)] } }

theorem witness_slices_and_columns :
    (engKey 3 1 = 151 ∧ slices.sliceFits 151 = true ∧ slices.ready = [150, 151] ∧ slices.damperTurn = some 150) ∧
    (let s := engined eng0
     s.columnDue (s.eng 3 0) 5 = false ∧ (3, 0, 4 * 5) ∉ s.svc.retireWait ∧ (s.eng 3 0).phys 5 = 5 ∧ (s.eng 3 0).serving = true) ∧
    (let s := { engined eng0 with svc := { Service.reset with retireWait := [(3, 0, 20)] } }
     s.columnDue (s.eng 3 0) 5 = false ∧ (3, 0, 4 * 5) ∈ s.svc.retireWait) := by
  decide

/-- Context 0 in the state st with a plan of core 3 that the store does not hold. -/
def planless (st : CtxState) (b : Bank) : State :=
  opened { ctxed { stopped with state := st, cores := [3], bank0 := b } with
    cores := [(3, { coreOf (regs 0 0) with state := .idle, head0 := none })], keep := { HubKeep.reset with plans := [⟨0, 0, 0, hdr 2, [], 0, [], true⟩] } }

theorem witness_missing_plans :
    (Served (planless .verifyHold (bankOf .imago)) 0 2 ∧
      (planless .verifyHold (bankOf .imago)).missingPlan 0 = some ⟨0, 0, 0, hdr 2, [], 0, [], true⟩) ∧
    (let s := planless .verifyHold { bankOf .imago with blocks := [block0 0 false] }
     (s.ctx 0).bank0.checked = false ∧ (s.ctx 0).state = .verifyHold ∧ (s.ctx 0).planMissing = false ∧ (s.ctx 0).cores.all s.coreReady = true ∧
       s.missingPlan 0 = some ⟨0, 0, 0, hdr 2, [], 0, [], true⟩) ∧
    (let s := placed { stopped with state := .verifying, bank0 := { bankOf .imago with blocks := [block0 0 false] } }
     (s.ctx 0).bank0.checked = false ∧ (s.ctx 0).state ≠ .verifyHold ∧ s.missingPlan 0 = none) := by
  try dsimp only
  repeat' first | with_reducible apply served_of | with_reducible apply And.intro
  all_goals decide

theorem witness_requests_end :
    (let s := due .retireSched { Stage.reset with block := some ⟨0, 0, 0, 0, false, none⟩ } Core.reset eng0
     s.stage.block = some ⟨0, 0, 0, 0, false, none⟩ ∧ (due .retireSched Stage.reset Core.reset eng0).stage.block = none) ∧
    (let s := (due .retireSched Stage.reset Core.reset eng0).setEng 4 0 { eng0 with state := .belowNow, owner := some (0, 0, 1) }
     let t := { s with ctxs := [(0, { s.ctx 0 with bank0 := { (s.ctx 0).bank0 with blocks := [used, { used with core := 4, leng := 1 }] } })] }
     (t.eng 3 0).owner = some (0, 0, 0) ∧ ((t.ctx 0).bank (t.ctx 0).imago).indexOf 3 0 = some 0 ∧ t.urgentFirst 3 0 = true ∧
       isSentinel 3 = false ∧ (t.eng 3 0).chrysalis = false ∧ (t.eng 3 0).state.due = true) ∧
    (let s := (due .retireSched Stage.reset Core.reset eng0).setEng 5 7 { eng0 with job := some { job0 with use := .exchange 0 3 0 false } }
     ((s.ctx 0).bank 1).state = .empty ∧ s.exchanging 0 = true) := by
  decide

theorem witness_flue_rejoins :
    (let s := ported { up with rejoin := true }
     (s.port 0).rejoin = true ∧ (s.port 0).state = 2 ∧ (s.port 0).trained = true) ∧
    (let x := { serving 1 (ported { up with rejoin := true, remoteRole := 2, remoteId := 9 }) with mirror := ⟨3, false, false, false⟩ }
     let s := { x with sets := { x.sets with active := [(odKey 0x2D00 2, 1)] } }
     (s.port 0).rejoin = true ∧ mirrorPort s = 0 ∧ s.cfg 0x2D00 2 ≠ 0 ∧ (s.port 0).remoteRole ≠ 0 ∧ s.cfg 0x2D00 2 ≠ (s.port 0).remoteRole ∧
       s.mirror.state = 3 ∧ ({ hdrOk 1 0 with role := 1 } : FlueHdr).role = 1) ∧
    (let s := { bound with masters := [(4, { Master.reset with frozen := true })] }
     bound.senderBinding 0 (fmsg 1 0) = some 1 ∧ (s.master 4).frozen = true) ∧
    (coreBase 3 + 64 * (fmsg 1 0).aux + 64 * (fmsg 1 0).len ≤ coreBase 4 ∧
      ({ bound with sets := { bound.sets with active := [(odKey 0x2B14 1, coreBase 3 / 64 + 8192 * 2 ^ 26 + 3 * 2 ^ 52)] } } : State).masterMay 4
        (coreBase 3 + 64 * (fmsg 1 0).aux) (64 * (fmsg 1 0).len) true = true) ∧
    (let m := { fmsg 1 0 with aux := 32767, len := 2 }
     coreBase 4 < coreBase 3 + 64 * m.aux + 64 * m.len) := by
  decide

theorem witness_measuring_again :
    (let s := measuring Channel.reset forming
     0 < 96 ∧ s.cfg (chIdx 0) 1 ≠ 0 ∧ (fun x => x == (s.cfg (chIdx 0) 2, s.cfg (chIdx 0) 4)) (s.cfg (chIdx 0) 2, s.cfg (chIdx 0) 4) = true ∧
       s.historyDone 0 < 2 * s.cfg (chIdx 0) 7 - 1) ∧
    (let s := measuring { Channel.reset with cmpBits := 1 } forming
     2 * s.cfg (chIdx 0) 7 - 1 ≤ s.historyDone 0) := by
  decide

/-- Trip output 0 shows the mirror state m; comparator event 0 is in its backstop mask where b is 1. -/
def mirroring (m b : Nat) (t : Trip) : State :=
  let s := tripping 0 t []
  { s with
    mirror := ⟨m, false, false, false⟩
    meas := { s.meas with chans := [(0, { Channel.reset with evHi := true })] }
    sets := { s.sets with active := (odKey 0x2D00 9, 0) :: (odKey 0x2540 1, b) :: s.sets.active } }

theorem witness_trips_shown :
    (let d : Decision := ⟨3, 0, 0, true, some 5, true⟩
     let s := opened (tripping 0 Trip.reset [d])
     let u : State := { s with time := { s.time with gtc := 6 } }
     s.net.decisions = [d] ∧ wayOpen s (dieOf d.core) 4 = true ∧ s.time.gtc ≤ 5 ∧ 5 < u.time.gtc ∧ s.granted d = true ∧ u.granted d = true) ∧
    (let s := mirroring 2 1 Trip.reset
     s.backstopEvent 0 = some 0 ∧ (s.trip 0).asserted = false ∧ s.cfg (tripIdx 0) 1 = 1 ∧ s.outs.driven = true ∧ s.cfg 0x2D00 9 = 0) ∧
    ((mirroring 1 0 Trip.reset).backstopEvent 0 = none ∧ (mirroring 1 0 Trip.reset).mirror.state = 1) ∧
    (let s := mirroring 2 0 (tripOn 0)
     s.backstopEvent 0 = none ∧ s.mirror.state ≠ 1 ∧ s.mirror.state ≠ 3 ∧ backstopCause (s.trip 0).lastCause = false) ∧
    (let s := mirroring 2 0 { tripOn 0 with lastCause := 0x100 }
     s.backstopEvent 0 = none ∧ (s.trip 0).asserted = true ∧ backstopCause (s.trip 0).lastCause = true ∧ s.cfg (tripIdx 0) 3 = 0) := by
  decide

theorem witness_services :
    ((mailing 2).reachable 1 = true ∧ (mailing 2).serves = true ∧ odExists (mailing 2).part 0x1000 = true ∧ odZero 0x1000 ≠ none ∧
      odZero 0x2300 = none ∧ 1 < 2) ∧
    ((State.reset.coresOn 3).Nodup) ∧
    (let s := flies [inFlight (.load 2 0 5)]
     let a := 2 ^ 37 + (3 * 64) * 128 + 1
     s.flitAt a = true ∧ (s.core ((a - 2 ^ 37) / 128 / 64)).seq.ops[(a - 2 ^ 37) / 128 % 64]? = some (inFlight (.load 2 0 5)) ∧
       s.flitAt (2 ^ 37 + (3 * 64) * 128 + 3) = false ∧ s.flitAt (2 ^ 37 + (3 * 64 + 1) * 128) = false) ∧
    (let s := sessioned (nonced 1 2)
     s.noKeys = false ∧ (s.session 0).level = 2) := by
  decide +kernel

/-! ## Images with a block, installed and read again -/

/-- The header of an image with one logical core and one block; a sentinel image where f is 1. -/
def blockFields (f : Nat) : List (Nat × Nat × Nat) :=
  [(0, 4, 0x49574453), (4, 2, 1), (6, 2, f), (0x008, 8, 77), (0x010, 2, 1), (0x012, 2, 512), (0x014, 2, 128), (0x016, 2, 128), (0x018, 2, 64),
   (0x01A, 1, 16), (0x01B, 1, 1), (0x01C, 2, 100), (0x01E, 2, 240), (0x020, 2, 1), (0x024, 4, 1), (0x028, 8, 128), (0x030, 8, 192), (0x038, 8, 208),
   (0x040, 8, 65536), (0x048, 8, 131072)]

def blockHeader (f : Nat) : List Byte := Mem.readBytes (put (blockFields f)) 0 0x07C

theorem crc_cut {bs : List Byte} {a b c d : BitVec 32} (hb : bs = bs.take 31 ++ ((bs.drop 31).take 31 ++ ((bs.drop 62).take 31 ++ bs.drop 93)))
    (h1 : (bs.take 31).foldl crcByte 0xFFFFFFFF#32 = a) (h2 : ((bs.drop 31).take 31).foldl crcByte a = b)
    (h3 : ((bs.drop 62).take 31).foldl crcByte b = c) (h4 : (bs.drop 93).foldl crcByte c = d) : crc32c bs = (d ^^^ 0xFFFFFFFF#32).toNat := by
  unfold crc32c
  rw [hb, List.foldl_append, List.foldl_append, List.foldl_append, h1, h2, h3, h4]

theorem compute_crc : crc32c (blockHeader 0) = 2045595502 :=
  crc_cut (a := 0xe4d5b33d#32) (b := 0xdd24da99#32) (c := 0x85400bee#32) (d := 0x8612b091#32) (by decide +kernel) (by decide +kernel)
    (by decide +kernel) (by decide +kernel) (by decide +kernel)

theorem sentinel_crc : crc32c (blockHeader 1) = 990692424 :=
  crc_cut (a := 0xcae178a0#32) (b := 0x436e0761#32) (c := 0x890b1839#32) (d := 0xc4f33bb7#32) (by decide +kernel) (by decide +kernel)
    (by decide +kernel) (by decide +kernel) (by decide +kernel)

/-- The image, its block's directory entry with this first word. -/
def blockImage (f crc entry : Nat) : Mem := put (blockFields f ++ [(0x07C, 4, crc), (136, 1, 1), (138, 2, 1), (140, 2, 1), (192, 4, entry)])

/-- Its three sections are in staging for context 0, as k, with core 3 as q. -/
def staged (m : Mem) (install replan : Bool) (k : Ctx) (q : Core) : State :=
  { ctxed k with
    cores := [(3, q)], mem := m
    stage := { Stage.reset with install := some 0, bank := if install then 1 else 0, isInstall := install, replan := replan, bytes := 208 } }

/-- What STAGED asks of the sections. -/
def passesB (s : State) : Bool :=
  let h := s.imgHeader
  decide (h.metaEnd ≤ s.stage.bytes) && recordsOk h ((List.range h.blocks).map (s.imgBlock h)) ((List.range h.lcores).map (s.imgLcore h)) 0 0

def blocksOf (s : State) : List Block := (List.range s.imgHeader.blocks).map (s.imgBlock s.imgHeader)

theorem witness_load_with_keep :
    let s := staged (blockImage 0 2045595502 0x02800000) false false { Ctx.reset with state := .loading, cmd := 1, bank0 := bankOf .chrysalis } Core.reset
    s.headerCheck = 0 ∧ passesB s = true ∧ s.stage.replan = false ∧ s.stage.isInstall = false ∧ (blocksOf s).any (·.keep) = true := by
  refine ⟨header_ok compute_crc (by decide +kernel) (by decide +kernel) (by decide +kernel) ⟨false, 1, 208, 131072, by decide +kernel⟩, ?_⟩
  decide +kernel

/-- Context 0 on core 3 with an installation; its imago has one logical core. -/
def installing (groups : Nat) : Ctx :=
  { stopped with cmd := 2, groups := groups, cores := [3], bank0 := { bankOf .imago with lcores := [lcore0 1] }, bank1 := bankOf .chrysalis }

theorem witness_sentinel_installed :
    let s := staged (blockImage 1 990692424 0x02000000) true false (installing 1) Core.reset
    s.headerCheck = 0 ∧ passesB s = true ∧ s.stage.replan = false ∧ s.stage.isInstall = true ∧ s.imgHeader.sentinel = true := by
  refine ⟨header_ok sentinel_crc (by decide +kernel) (by decide +kernel) (by decide +kernel) ⟨true, 1, 208, 131072, by decide +kernel⟩, ?_⟩
  decide +kernel

/-- The image of a compute core is installed. -/
theorem installed_ok (entry groups : Nat) (q : Core) (r : Bool)
    (h : let s := staged (blockImage 0 2045595502 entry) true r (installing groups) q
      s.imgBytes 0 0x07C = blockHeader 0 ∧ (s.imgNum 0 4, s.imgNum 4 2, s.imgNum 0x010 2, s.imgNum 0x07C 4) = (0x49574453, 1, 1, 2045595502) ∧
      (s.imgNum 0x012 2, s.imgNum 0x014 2, s.imgNum 0x016 2, s.imgNum 0x018 2, s.imgNum 0x01A 1, s.imgNum 0x01C 2, s.imgNum 0x01E 2) =
        (512, 128, 128, 64, 16, 100, 240) ∧ s.imgHeader = ⟨false, 77, 1, 1, 1, 128, 192, 208, 65536, 131072, 0⟩) :
    (staged (blockImage 0 2045595502 entry) true r (installing groups) q).headerCheck = 0 :=
  header_ok compute_crc h.1 h.2.1 h.2.2.1 ⟨false, 1, 208, 131072, h.2.2.2, by decide, by decide, by decide, by decide⟩

theorem witness_placement_differs :
    let s := staged (blockImage 0 2045595502 0x02000000) true false (installing 2) Core.reset
    s.headerCheck = 0 ∧ passesB s = true ∧ s.imgHeader.sentinel = false ∧
      samePlacement (s.ctx 0).groups s.imgHeader (s.ctx 0).bank0.lcores [s.imgLcore s.imgHeader 0] = false := by
  refine ⟨installed_ok _ _ _ _ (by decide +kernel), ?_⟩
  decide +kernel

theorem witness_installs :
    (let s := staged (blockImage 0 2045595502 0x02800000) true false (installing 1) Core.reset
     s.headerCheck = 0 ∧ passesB s = true ∧ s.imgHeader.sentinel = false ∧
       samePlacement (s.ctx 0).groups s.imgHeader (s.ctx 0).bank0.lcores [s.imgLcore s.imgHeader 0] = true ∧
       (blocksOf s).any (fun n => n.keep && !(s.ctx 0).bank0.blocks.any (fun m => m.lcore == n.lcore && m.leng == n.leng)) = true) ∧
    (let s := staged (blockImage 0 2045595502 0x02000000) true false (installing 1) { Core.reset with map0 := (List.range 50).map (fun e => (e, e)) }
     s.headerCheck = 0 ∧ passesB s = true ∧
       samePlacement (s.ctx 0).groups s.imgHeader (s.ctx 0).bank0.lcores [s.imgLcore s.imgHeader 0] = true ∧
       (blocksOf s).any (fun n => n.keep && !(s.ctx 0).bank0.blocks.any (fun m => m.lcore == n.lcore && m.leng == n.leng)) = false ∧
       s.installFits (s.ctx 0).cores (blocksOf s) = false) ∧
    (let s := staged (blockImage 0 2045595502 0x02000000) true false (installing 1) Core.reset
     s.headerCheck = 0 ∧ passesB s = true ∧ s.installFits (s.ctx 0).cores (blocksOf s) = true) := by
  refine ⟨⟨installed_ok _ _ _ _ (by decide +kernel), ?_⟩, ⟨installed_ok _ _ _ _ (by decide +kernel), ?_⟩,
    installed_ok _ _ _ _ (by decide +kernel), ?_⟩ <;> decide +kernel

theorem witness_plans_read_again :
    let s := staged (blockImage 0 2045595502 0x02000000) true true (installing 1) Core.reset
    s.headerCheck = 0 ∧ passesB s = true ∧ s.stage.replan = true ∧ s.imgHeader.id ≠ ((s.ctx 0).bank s.stage.bank).image ∧ s.imgHeader.id = 77 := by
  refine ⟨installed_ok _ _ _ _ (by decide +kernel), ?_⟩
  decide +kernel

end Sys2Proof.Tests
end

section
/-! SUPPORT. What a read delivers (R42, R51) and the layout of a correction entry (R59): the laws of `roundAway`, `clampInt`, `readColumns`,
`correct` and `corrOf`, and with them the settlement of the correction of reads. -/

namespace Sys2Proof.Machine

/-! ## Rounding and clamping -/

/-- `clampInt` is the usual clamp where its ends are in order. -/
theorem clampInt_eq_max_min {lo hi : Int} (h : lo ≤ hi) (v : Int) : clampInt lo hi v = max lo (min hi v) := by
  unfold clampInt
  split_ifs <;> omega

theorem clampInt_mem_Icc {lo hi : Int} (h : lo ≤ hi) (v : Int) : clampInt lo hi v ∈ Set.Icc lo hi := by
  rw [clampInt_eq_max_min h]
  exact ⟨le_max_left _ _, max_le h (min_le_left _ _)⟩

theorem roundAway_natCast (a d : Nat) : roundAway (a : Int) d = ((2 * a + d) / (2 * d) : Nat) := by
  simp [roundAway]

/-- Ties go away from zero on both sides: rounding is odd. -/
theorem roundAway_neg_natCast (a d : Nat) : roundAway (-(a : Int)) d = -((2 * a + d) / (2 * d) : Nat) := by
  obtain rfl | ha := Nat.eq_zero_or_pos a
  · have hq : d / (2 * d) = 0 := Nat.div_eq_zero_iff.mpr (by omega)
    simp [roundAway, hq]
  · simp [roundAway, ha]

/-- The rounded quotient q of magnitudes: q * d is at most half of d above a, and less than that below. -/
theorem roundedQuotient_bracket (a : Nat) {d : Nat} (hd : 0 < d) :
    2 * ((2 * a + d) / (2 * d) * d) ≤ 2 * a + d ∧ 2 * a < 2 * ((2 * a + d) / (2 * d) * d) + d := by
  have hmod : (2 * a + d) % (2 * d) < 2 * d := Nat.mod_lt _ (by omega)
  have hdiv : 2 * ((2 * a + d) / (2 * d) * d) + (2 * a + d) % (2 * d) = 2 * a + d := by
    rw [← Nat.mul_assoc, Nat.mul_comm 2, Nat.mul_assoc]
    exact Nat.div_add_mod' _ _
  omega

/-- Rounding to nearest, ties away from zero: the error is at most half of the denominator, and on a tie the magnitude does not fall. -/
theorem roundAway_nearest (n : Int) {d : Nat} (hd : 0 < d) :
    2 * (roundAway n d * d - n).natAbs ≤ d ∧ (2 * (roundAway n d * d - n).natAbs = d → n.natAbs ≤ (roundAway n d * d).natAbs) := by
  obtain ⟨a, hn⟩ := n.eq_nat_or_neg
  have hq := roundedQuotient_bracket a hd
  obtain rfl | rfl := hn
  · rw [roundAway_natCast, ← Nat.cast_mul]
    omega
  · rw [roundAway_neg_natCast, neg_mul, ← Nat.cast_mul]
    omega

/-! ## Reads -/

/-- R42: the converter code is a signed 10-bit number. -/
theorem converterCode_mem_Icc (p : Int) (scale budget : Nat) (x : Residual) (err : Int) :
    converterCode p scale budget x err ∈ Set.Icc (-512) 511 :=
  clampInt_mem_Icc (by decide) _

/-- A physical column of a read is the correction, by the committed table's entry, of the code that the converter draws for it. -/
theorem readColumns_getD (g : Engine) (x : Cond) (scale budget : Nat) (drive : List (Nat × Int)) (draw : Nat) {c : Nat} (hc : c < 136) (y : ColRead) :
    (readColumns g x scale budget drive draw).getD c y =
      correct (converterCode (columnCharge g x drive c) scale budget
        ⟨driveLoad drive, Config.columnGain x.eng c, Config.columnOffset x.eng c, clampInt (-2000) 2000 (Config.temperature x.eng draw), x.pilot⟩
        (Config.codeError (draw + c))) (g.regs.active.getD c Corr.ideal) := by
  simp [readColumns, hc]

/-- R51: the corrected value is the rounded and offset product, clamped to 13 bits. -/
theorem correct_r (code : Int) (e : Corr) :
    (correct code e).r = max (-4096) (min 4095 (roundAway (code * e.gain) 4096 + e.offset)) :=
  clampInt_eq_max_min (by decide) _

/-- R51: the clamp that changes the value is the correction clip. -/
theorem correct_corr_iff (code : Int) (e : Corr) :
    (correct code e).corr = true ↔
      roundAway (code * e.gain) 4096 + e.offset < -4096 ∨ 4095 < roundAway (code * e.gain) 4096 + e.offset := by
  simp [correct]

/-- R42: the end codes count as clipped. -/
theorem correct_adc_iff (code : Int) (e : Corr) : (correct code e).adc = true ↔ code = -512 ∨ code = 511 := by
  simp [correct]

/-! ## The correction entry's word (R59) -/

theorem toSigned_mod_two_pow (width v : Nat) : toSigned width (v % 2 ^ width) = toSigned width v := by
  simp [toSigned]

theorem corrOf_gain (w : Nat) : ((corrOf w).gain : Int) = w / 65536 % 65536 := by
  simp [corrOf, field]

theorem corrOf_offset (w : Nat) : (corrOf w).offset = toSigned 16 (w % 65536) :=
  (toSigned_mod_two_pow 16 w).symm

/-- Settles O13: a read's column is the correction of a converter code in range; the rounding is to nearest with ties away from zero; the entry's
fields are the halves of its word. -/
theorem readsAreCorrected : Obligations.ReadsAreCorrected := by
  unfold Obligations.ReadsAreCorrected
  refine ⟨fun g x scale budget draw c drive hc _ => ?_, fun n d hd => roundAway_nearest n hd, fun w => ⟨corrOf_gain w, corrOf_offset w⟩⟩
  rw [readColumns_getD g x scale budget drive draw hc]
  have hcode := converterCode_mem_Icc (columnCharge g x drive c) scale budget
  exact ⟨_, (hcode _ _).1, (hcode _ _).2, correct_r _ _, correct_corr_iff _ _, correct_adc_iff _ _⟩

end Sys2Proof.Machine
end

section
/-! SUPPORT. STEP_REQ and the reference's comparisons (R214, R215): what a refused write of an object leaves (R275), signed numbers of a width,
what a step changes and what a comparison leaves, and with them the settlement of the steps of the GTC. -/

namespace Sys2Proof.Machine

/-! ## Signed numbers of a width -/

/-- A number of a width, read with a sign, is the balanced remainder. -/
theorem toSigned_succ (w v : Nat) : toSigned (w + 1) v = Int.bmod v (2 ^ (w + 1)) := by
  have half : (((2 ^ (w + 1) : Nat) : Int) + 1) / 2 = (2 ^ w : Nat) := by
    rw [Nat.pow_succ]
    omega
  unfold toSigned
  rw [Int.bmod_def, half, ← Int.natCast_mod]
  simp only [Nat.add_sub_cancel, Nat.cast_lt]

theorem natCast_ofSigned (w : Nat) (v : Int) : (ofSigned w v : Int) = v % (2 ^ w : Nat) :=
  Int.toNat_of_nonneg (Int.emod_nonneg _ (by positivity))

theorem ofSigned_lt (w : Nat) (v : Int) : ofSigned w v < 2 ^ w := by
  have h := Int.emod_lt_of_pos v (show (0 : Int) < (2 ^ w : Nat) by positivity)
  rw [← natCast_ofSigned] at h
  exact_mod_cast h

/-- An integer of the signed range comes back from its two's complement. -/
theorem toSigned_ofSigned {w : Nat} {v : Int} (hlo : -(2 ^ w) ≤ v) (hhi : v < 2 ^ w) : toSigned (w + 1) (ofSigned (w + 1) v) = v := by
  rw [toSigned_succ, natCast_ofSigned, Int.emod_bmod]
  apply Int.bmod_eq_of_le <;> push_cast [Int.pow_succ] <;> omega

section Writes
/-! ## Refused writes (R275) -/

variable {s : State} {ses idx sub : Nat} {data : List Byte} {r : OdRow}

/-- A write that is answered with an abort code and changes nothing. -/
theorem State.hostWrite_refused {a : Nat} (hr : s.reachable ses = true) (hs : s.serves = true) (ha : a ≠ 0)
    (hw : s.odWrite ses idx sub data = (a, s)) : s.hostWrite ses idx sub data = s.refuse ses idx sub a := by
  rw [State.hostWrite_of hr hs hw]
  simp [State.refuse, ha]

/-- R275 step 3. -/
theorem State.odWrite_unprivileged (hrow : s.row idx sub = some r) (hacc : r.acc ≠ .ro)
    (hp : (s.session ses).level < s.needPriv idx sub (fromLE data) r) : s.odWrite ses idx sub data = (0x06010000, s) := by
  unfold State.odWrite
  simp [hrow, hacc, hp]

/-- Past steps 1 to 4 of R275, an object without a meaning of its own goes through the steps behind them. -/
theorem State.odWrite_checked (hrow : s.row idx sub = some r) (hacc : r.acc ≠ .ro)
    (hp : s.needPriv idx sub (fromLE data) r ≤ (s.session ses).level) (hl : r.lengthOk data.length = true) (ho : ownWrite idx sub = false) :
    s.odWrite ses idx sub data = s.writeChecked ses idx sub data r := by
  have hown (i n : Nat) (h : ownWrite i n = true) : ¬ (idx = i ∧ sub = n) := by
    rintro ⟨rfl, rfl⟩
    exact Bool.false_ne_true (ho.symm.trans h)
  have hkey : idx ≠ 0x2B02 := by
    rintro rfl
    simp [ownWrite] at ho
  unfold State.odWrite
  simp [hrow, hacc, Nat.not_lt.mpr hp, hl, hkey, hown 0x2100 1 rfl, hown 0x2B00 2 rfl, hown 0x2B00 4 rfl, hown 0x2B00 5 rfl,
    hown 0x2A00 12 rfl]

/-- R275 step 6. -/
theorem State.writeChecked_disallowed (hset : r.set = false) (hsz : r.size ≠ 0) (ha : s.stateAllows idx sub (fromLE data) = false) :
    s.writeChecked ses idx sub data r = (0x08000022, s) := by
  simp [State.writeChecked, hset, hsz, ha]

/-- R275 step 7. -/
theorem State.writeChecked_outOfRange (hset : r.set = false) (hsz : r.size ≠ 0) (ha : s.stateAllows idx sub (fromLE data) = true)
    (hi : s.inRange idx sub (fromLE data) r = false) : s.writeChecked ses idx sub data r = (0x06090030, s) := by
  simp [State.writeChecked, hset, hsz, ha, hi]

/-! ## A step of the GTC -/

/-- One change of each channel of a list touches the table of channels only. -/
theorem State.foldl_modDac_frame (f : Dac → Dac) (l : List Nat) (s : State) :
    l.foldl (fun s ch => s.modDac ch f) s =
      { s with outs := { s.outs with dacs := (l.foldl (fun s ch => s.modDac ch f) s).outs.dacs } } := by
  induction l generalizing s with
  | nil => rfl
  | cons c l ih => exact ih (s.modDac c f)

/-- Each channel of the list has the change, and every other channel is as it was. -/
theorem State.dac_foldl_modDac (f : Dac → Dac) {l : List Nat} (hl : l.Nodup) (s : State) (ch : Nat) :
    (l.foldl (fun s ch => s.modDac ch f) s).dac ch = if ch ∈ l then f (s.dac ch) else s.dac ch := by
  induction l generalizing s with
  | nil => rfl
  | cons c l ih =>
    obtain ⟨hc, hl⟩ := List.nodup_cons.mp hl
    rw [List.foldl_cons, ih hl]
    by_cases h : ch = c
    · subst h
      simp [hc]
    · simp [h, State.dac_modDac_ne s f h]

/-- A step moves the GTC and sets the channels' sample grids; the rest of the machine is as it was. -/
theorem State.stepGtc_frame (s : State) (v : Int) :
    s.stepGtc v = { s with time := { s.time with gtc := ((s.time.gtc : Int) + v).toNat }
                           outs := { s.outs with dacs := (s.stepGtc v).outs.dacs } } :=
  State.foldl_modDac_frame _ _ _

theorem State.dac_stepGtc (s : State) (v : Int) {ch : Nat} (hch : ch < 16) :
    (s.stepGtc v).dac ch = (s.dac ch).regrid ((s.time.gtc : Int) + v).toNat := by
  refine (State.dac_foldl_modDac _ List.nodup_range _ ch).trans ?_
  rw [if_pos (List.mem_range.mpr hch)]
  rfl

/-! ## Writes of STEP_REQ (R214) -/

/-- The row of STEP_REQ (`State.row_stepReq`): a signed number of 64 bits, for the Engineer to write. -/
def stepReqRow : OdRow := { woObj 8 2 with signed := true, lo := -(2 ^ 63), hi := 2 ^ 63 - 1 }

/-- The bytes a session writes to STEP_REQ (`exec_stepReq`). -/
def stepReqData (v : Int) : List Byte := toLE 8 (ofSigned 64 v)

theorem fromLE_stepReqData (v : Int) : fromLE (stepReqData v) = ofSigned 64 v := by
  rw [stepReqData, fromLE_toLE]
  exact Nat.mod_eq_of_lt (ofSigned_lt 64 v)

theorem stepReqRow_lengthOk (v : Int) : stepReqRow.lengthOk (stepReqData v).length = true := by
  rw [stepReqData, length_toLE]
  rfl

/-- Of a value of its type, the range asks that the GTC stays within its ends. -/
theorem State.inRange_stepReq (s : State) {v : Int} (hlo : -(2 ^ 63) ≤ v) (hhi : v < 2 ^ 63) :
    s.inRange 0x2300 9 (ofSigned 64 v) stepReqRow = true ↔ 0 ≤ (s.time.gtc : Int) + v ∧ (s.time.gtc : Int) + v < 2 ^ 64 := by
  have hn : stepReqRow.number (ofSigned 64 v) = v := toSigned_ofSigned (w := 63) hlo hhi
  have hfields (n : Nat) : s.fieldsOk 0x2300 9 n = true := rfl
  have hloRow : stepReqRow.lo ≤ v := hlo
  have hhiRow : v ≤ stepReqRow.hi := Int.le_sub_one_of_lt hhi
  simp [State.inRange, State.stepOk, hn, hfields, hloRow, hhiRow]

theorem exec_stepReq (ses : Ses) (v : Int) (s : State) :
    exec (.stepReq ses v) s = .next (s.hostWrite ses 0x2300 9 (stepReqData v)) := rfl

/-- The device state allows a step while no context runs. -/
theorem State.stateAllows_stepReq (s : State) (n : Nat) : s.stateAllows 0x2300 9 n = !s.anyRunning := rfl

theorem State.writeDirect_stepReq (s : State) (ses : Ses) (n : Nat) : s.writeDirect ses 0x2300 9 n = s.stepGtc (toSigned 64 n) := rfl

theorem State.odWrite_stepReq_checked (v : Int) (h : 2 ≤ (s.session ses).level) :
    s.odWrite ses 0x2300 9 (stepReqData v) = s.writeChecked ses 0x2300 9 (stepReqData v) stepReqRow :=
  State.odWrite_checked (State.row_stepReq s) (by decide) h (stepReqRow_lengthOk v) rfl

/-- Without Engineer privilege. -/
theorem State.stepReq_unprivileged (v : Int) (hr : s.reachable ses = true) (hs : s.serves = true) (hl : (s.session ses).level < 2) :
    exec (.stepReq ses v) s = .next (s.refuse ses 0x2300 9 0x06010000) := by
  rw [exec_stepReq, State.hostWrite_refused hr hs (by decide) (State.odWrite_unprivileged (State.row_stepReq s) (by decide) hl)]

/-- While a context runs. -/
theorem State.stepReq_running (v : Int) (h : Served s ses 2) (hrun : s.anyRunning = true) :
    exec (.stepReq ses v) s = .next (s.refuse ses 0x2300 9 0x08000022) := by
  obtain ⟨hr, hs, hl⟩ := h
  have hallow : s.stateAllows 0x2300 9 (fromLE (stepReqData v)) = false := by
    simp [State.stateAllows_stepReq, hrun]
  have hw : s.odWrite ses 0x2300 9 (stepReqData v) = (0x08000022, s) := by
    rw [State.odWrite_stepReq_checked v hl, State.writeChecked_disallowed rfl (by decide) hallow]
  rw [exec_stepReq, State.hostWrite_refused hr hs (by decide) hw]

/-- Past either end of the GTC; the code at its upper end is the model's choice (log 116). -/
theorem State.stepReq_pastEnds {v : Int} (h : Served s ses 2) (hlo : -(2 ^ 63) ≤ v) (hhi : v < 2 ^ 63) (hrun : s.anyRunning = false)
    (hpast : ¬ (0 ≤ (s.time.gtc : Int) + v ∧ (s.time.gtc : Int) + v < 2 ^ 64)) :
    exec (.stepReq ses v) s = .next (s.refuse ses 0x2300 9 0x06090030) := by
  obtain ⟨hr, hs, hl⟩ := h
  have hallow : s.stateAllows 0x2300 9 (fromLE (stepReqData v)) = true := by
    simp [State.stateAllows_stepReq, hrun]
  have hrange : s.inRange 0x2300 9 (fromLE (stepReqData v)) stepReqRow = false := by
    rw [fromLE_stepReqData, ← Bool.not_eq_true, s.inRange_stepReq hlo hhi]
    exact hpast
  have hw : s.odWrite ses 0x2300 9 (stepReqData v) = (0x06090030, s) := by
    rw [State.odWrite_stepReq_checked v hl, State.writeChecked_outOfRange rfl (by decide) hallow hrange]
  rw [exec_stepReq, State.hostWrite_refused hr hs (by decide) hw]

/-- Past every check, the GTC steps. -/
theorem State.stepReq_done {v : Int} (h : Served s ses 2) (hlo : -(2 ^ 63) ≤ v) (hhi : v < 2 ^ 63) (hrun : s.anyRunning = false)
    (hge : 0 ≤ (s.time.gtc : Int) + v) (hlt : (s.time.gtc : Int) + v < 2 ^ 64) :
    exec (.stepReq ses v) s = .next ((s.stepGtc v).giveReply ses ⟨0, []⟩) := by
  obtain ⟨hr, hs, hl⟩ := h
  have hallow : s.stateAllows 0x2300 9 (fromLE (stepReqData v)) = true := by
    simp [State.stateAllows_stepReq, hrun]
  have hrange : s.inRange 0x2300 9 (fromLE (stepReqData v)) stepReqRow = true := by
    rw [fromLE_stepReqData, s.inRange_stepReq hlo hhi]
    exact ⟨hge, hlt⟩
  have hvalue : toSigned 64 (Nat.land (fromLE (stepReqData v)) stepReqRow.mask) = v := by
    rw [fromLE_stepReqData, show stepReqRow.mask = 2 ^ 64 - 1 from rfl, land_full (ofSigned_lt 64 v)]
    exact toSigned_ofSigned (w := 63) hlo hhi
  have hw : s.odWrite ses 0x2300 9 (stepReqData v) = (0, s.stepGtc v) := by
    rw [State.odWrite_direct (r := stepReqRow) (State.row_stepReq s) (by decide) hl (stepReqRow_lengthOk v) rfl rfl (by decide)
      hallow hrange rfl rfl, State.writeDirect_stepReq, hvalue]
  rw [exec_stepReq, State.hostWrite_done hr hs hw]

end Writes

/-! ## Comparisons with the source leave the GTC (R214, R215) -/

@[simp] theorem State.setGtcMode_gtc (s : State) (m : GtcState) : (s.setGtcMode m).time.gtc = s.time.gtc := by
  unfold State.setGtcMode
  split <;> simp

@[simp] theorem State.seeRef_gtc (s : State) (dc : Nat) : (s.seeRef dc).time.gtc = s.time.gtc := by
  unfold State.seeRef
  split <;> rfl

/-- A comparison ends with a change of state that it may make. -/
theorem State.ite_setGtcMode_gtc (p : Prop) [Decidable p] (s : State) (m : GtcState) :
    (if p then s.setGtcMode m else s).time.gtc = s.time.gtc := by
  split
  · exact State.setGtcMode_gtc s m
  · rfl

/-- An outlier, which may end LOCKED, and a comparison, which may end ACQUIRE. -/
@[simp] theorem State.compareRef_gtc (s : State) (offset : Int) (tcmp : Nat) : (s.compareRef offset tcmp).time.gtc = s.time.gtc := by
  unfold State.compareRef
  dsimp only
  split
  · exact State.ite_setGtcMode_gtc _ _ _
  · exact State.ite_setGtcMode_gtc _ _ _

/-- The first event, an event that is not accepted, and one that is compared. -/
@[simp] theorem State.disciplineBy_gtc (s : State) (dc : Nat) : (s.disciplineBy dc).time.gtc = s.time.gtc := by
  unfold State.disciplineBy
  dsimp only
  split
  · rfl
  · split
    · rfl
    · simp

/-- A reference event leaves the GTC itself, in every state of the discipline. -/
@[simp] theorem State.referenceEvent_gtc (s : State) (dc : Nat) : (s.referenceEvent dc).time.gtc = s.time.gtc := by
  unfold State.referenceEvent
  split
  · rfl
  · cases hmode : (s.seeRef dc).time.mode <;> simp [hmode]

/-- Settles O37: a step past every check moves the GTC and regrids the channels; each other write is refused by its own step of R275; a reference
event leaves the GTC. -/
theorem gtcStepsAsWritten : Obligations.GtcStepsAsWritten := by
  unfold Obligations.GtcStepsAsWritten
  intro s ses v
  refine ⟨fun h hlo hhi hrun hge hlt => ?_, fun hr hs hl => State.stepReq_unprivileged v hr hs hl,
    fun h _ _ hrun => State.stepReq_running v h hrun, fun h hlo hhi hrun hneg => ?_, fun h hlo hhi hrun hpast => ?_,
    fun dc => ⟨_, rfl, State.referenceEvent_gtc s dc⟩⟩
  · refine ⟨s.stepGtc v, State.stepReq_done h hlo hhi hrun hge hlt, s.stepGtc_frame v, fun ch hch => ?_⟩
    rw [State.dac_stepGtc s v hch]
    rfl
  · exact State.stepReq_pastEnds h hlo hhi hrun fun hends => hends.1.not_gt hneg
  · exact ⟨_, State.stepReq_pastEnds h hlo hhi hrun fun hends => hends.2.not_ge hpast⟩

end Sys2Proof.Machine
end

section
/-! SUPPORT. What every command and every step keeps: from the lemma of each command's meaning to the queue, the invariants of memory and modes,
and with them the settlement of the statements about the queue and the reset. -/

namespace Sys2Proof.Machine

/-- Every command keeps what the operations keep. -/
theorem exec_keeps (i : Instr) (s : State) : OutKeeps s (exec i s) :=
  have hs := Keeps.refl s
  match i with
  | .nop c => keeps_execNop hs c
  | .halt c => keeps_execHalt hs c
  | .jmp c => keeps_execJmp hs c
  | .br c => keeps_execBr hs c
  | .loop c => keeps_execLoop hs c
  | .setk c => keeps_execSetk hs c
  | .ldk c => keeps_execLdk hs c
  | .batch c => keeps_execBatch hs c
  | .endb c => keeps_execEndb hs c
  | .fence c => keeps_execFence hs c
  | .mvm c => keeps_execMvm hs c
  | .drain c => keeps_execDrain hs c
  | .dmm c => keeps_execDmm hs c
  | .vop c => keeps_execVop hs c
  | .load c => keeps_execLoad hs c
  | .store c => keeps_execStore hs c
  | .send c => keeps_execSend hs c
  | .recv c => keeps_execRecv hs c
  | .sig c => keeps_execSig hs c
  | .wait c => keeps_execWait hs c
  | .waitt c => keeps_execWaitt hs c
  | .waitph c => keeps_execWaitph hs c
  | .emit c => keeps_execEmit hs c
  | .log c => keeps_execLog hs c
  | .faultPath c => keeps_execFaultPath hs c
  | .readSlot c e => keeps_execReadSlot hs c e
  | .tileWriteCommit c op => keeps_execTileWriteCommit hs c op
  | .drainStart c op => keeps_execDrainStart hs c op
  | .drainComplete c op => keeps_execDrainComplete hs c op
  | .douOpStart c => keeps_execDouOpStart hs c
  | .douOpComplete c => keeps_execDouOpComplete hs c
  | .moveComplete c op => keeps_execMoveComplete hs c op
  | .frameWindowWrite c w => keeps_execFrameWindowWrite hs c w
  | .dataMessage src dst => keeps_execDataMessage hs src dst
  | .credit src dst => keeps_execCredit hs src dst
  | .deliveryResult c op => keeps_execDeliveryResult hs c op
  | .syncUpdate obj => keeps_execSyncUpdate hs obj
  | .syncResponse c => keeps_execSyncResponse hs c
  | .crossingReopen x => keeps_execCrossingReopen hs x
  | .hostLocalWrite c off data => keeps_execHostLocalWrite hs c off data
  | .corrCommit c e => keeps_execCorrCommit hs c e
  | .corrCommitEffect c e => keeps_execCorrCommitEffect hs c e
  | .anaCommit c => keeps_execAnaCommit hs c
  | .anaCommitEffect c => keeps_execAnaCommitEffect hs c
  | .repairMapWrite c e v => keeps_execRepairMapWrite hs c e v
  | .trackUpdate c e => keeps_execTrackUpdate hs c e
  | .tePersist => keeps_execTePersist hs
  | .testRead c e => keeps_execTestRead hs c e
  | .testRoundComplete c e => keeps_execTestRoundComplete hs c e
  | .healthScore c e => keeps_execHealthScore hs c e
  | .surveySlice c e b => keeps_execSurveySlice hs c e b
  | .repairSlice c e b => keeps_execRepairSlice hs c e b
  | .columnRepair c e col => keeps_execColumnRepair hs c e col
  | .engineExchange c e => keeps_execEngineExchange hs c e
  | .retireEngine ses c e => keeps_execRetireEngine hs ses c e
  | .retireColumn ses c e col => keeps_execRetireColumn hs ses c e col
  | .surveyNow ses c e => keeps_execSurveyNow hs ses c e
  | .defEntry ses => keeps_execDefEntry hs ses
  | .ctxLoadEvaluation => keeps_execCtxLoadEvaluation hs
  | .loadCmd ses ctx src => keeps_execLoadCmd hs ses ctx src
  | .install ses ctx src auto => keeps_execInstall hs ses ctx src auto
  | .eclose ses ctx when_ => keeps_execEclose hs ses ctx when_
  | .abort ses ctx => keeps_execAbort hs ses ctx
  | .start ses ctx => keeps_execStart hs ses ctx
  | .stop ses ctx => keeps_execStop hs ses ctx
  | .unload ses ctx => keeps_execUnload hs ses ctx
  | .forceStart ses ctx => keeps_execForceStart hs ses ctx
  | .staged => keeps_execStaged hs
  | .planSectionEnd => keeps_execPlanSectionEnd hs
  | .pushTail v => keeps_execPushTail hs v
  | .capsuleResp status => keeps_execCapsuleResp hs status
  | .c2hData data digestOk => keeps_execC2hData hs data digestOk
  | .icResp => keeps_execIcResp hs
  | .c2hTermReq => keeps_execC2hTermReq hs
  | .fetchTimeout => keeps_execFetchTimeout hs
  | .fetchReconnect => keeps_execFetchReconnect hs
  | .keepAlive => keeps_execKeepAlive hs
  | .blockReady ses idx => keeps_execBlockReady hs ses idx
  | .pulseGroup c e => keeps_execPulseGroup hs c e
  | .damperGrant c e => keeps_execDamperGrant hs c e
  | .engineProgrammed c e => keeps_execEngineProgrammed hs c e
  | .bankVerified ctx => keeps_execBankVerified hs ctx
  | .eclosionBegin ctx => keeps_execEclosionBegin hs ctx
  | .arm ctx c => keeps_execArm hs ctx c
  | .disarm ctx => keeps_execDisarm hs ctx
  | .commit ctx => keeps_execCommit hs ctx
  | .bankRetire ctx => keeps_execBankRetire hs ctx
  | .engineVerify c e => keeps_execEngineVerify hs c e
  | .contextAutostart ctx => keeps_execContextAutostart hs ctx
  | .coreReplace ses c => keeps_execCoreReplace hs ses c
  | .coreReplaceStart die => keeps_execCoreReplaceStart hs die
  | .coreReplaceSwitch die => keeps_execCoreReplaceSwitch hs die
  | .hello p h moduleId remotePort mirrorRole => keeps_execHello hs p h moduleId remotePort mirrorRole
  | .idle p h => keeps_execIdle hs p h
  | .message p h m payload => keeps_execMessage hs p h m payload
  | .epoch p h entries => keeps_execEpoch hs p h entries
  | .mirrorFrame p h group stamp seq frame => keeps_execMirrorFrame hs p h group stamp seq frame
  | .takeover p h => keeps_execTakeover hs p h
  | .flueRetrain p => keeps_execFlueRetrain hs p
  | .flueDown p => keeps_execFlueDown hs p
  | .mirrorKeepalive => keeps_execMirrorKeepalive hs
  | .mirrorTimeout => keeps_execMirrorTimeout hs
  | .mirrorCmdHandover ses => keeps_execMirrorCmdHandover hs ses
  | .mirrorCmdTakeover ses => keeps_execMirrorCmdTakeover hs ses
  | .mirrorRelease => keeps_execMirrorRelease hs
  | .referenceEvent refTime => keeps_execReferenceEvent hs refTime
  | .sourceLost => keeps_execSourceLost hs
  | .stepReq ses v => keeps_execStepReq hs ses v
  | .latch n dcTime => keeps_execLatch hs n dcTime
  | .trackerUpdate t => keeps_execTrackerUpdate hs t
  | .trackerInputEvent t ev => keeps_execTrackerInputEvent hs t ev
  | .sentWdExpiry c => keeps_execSentWdExpiry hs c
  | .mclkWindow pin edges => keeps_execMclkWindow hs pin edges
  | .channelFault ch cause => keeps_execChannelFault hs ch cause
  | .channelFaultExit ch => keeps_execChannelFaultExit hs ch
  | .decimatedResult ch bits => keeps_execDecimatedResult hs ch bits
  | .comparator ch bits => keeps_execComparator hs ch bits
  | .auxConversion a code => keeps_execAuxConversion hs a code
  | .pfail => keeps_execPfail hs
  | .frameForm g => keeps_execFrameForm hs g
  | .ringFreeze r => keeps_execRingFreeze hs r
  | .ringCtrl ses r v => keeps_execRingCtrl hs ses r v
  | .sampleInstant ch => keeps_execSampleInstant hs ch
  | .dacWrite ses ch code => keeps_execDacWrite hs ses ch code
  | .fastUpdate ch => keeps_execFastUpdate hs ch
  | .dacClrNLow => keeps_execDacClrNLow hs
  | .dacClrNHigh => keeps_execDacClrNHigh hs
  | .short ch => keeps_execShort hs ch
  | .dacRelease ses ch => keeps_execDacRelease hs ses ch
  | .dacEnterFault ses ch => keeps_execDacEnterFault hs ses ch
  | .rangeClampEnd ch => keeps_execRangeClampEnd hs ch
  | .handoverClampEnd ch => keeps_execHandoverClampEnd hs ch
  | .railFault => keeps_execRailFault hs
  | .tripTick => keeps_execTripTick hs
  | .tripCmd ses n => keeps_execTripCmd hs ses n
  | .tripMinOnExpiry n => keeps_execTripMinOnExpiry hs n
  | .faultCauseWrite ses v => keeps_execFaultCauseWrite hs ses v
  | .mailboxRequest r => keeps_execMailboxRequest hs r
  | .alStateRequest target => keeps_execAlStateRequest hs target
  | .pdoSnapshot => keeps_execPdoSnapshot hs
  | .rxpdoApply values => keeps_execRxpdoApply hs values
  | .bar0Access write off width value => keeps_execBar0Access hs write off width value
  | .bar2Access write addr len data => keeps_execBar2Access hs write addr len data
  | .odAbort => keeps_execOdAbort hs
  | .longRead idx sub => keeps_execLongRead hs idx sub
  | .longWrite idx sub data => keeps_execLongWrite hs idx sub data
  | .dmaTail k base size v => keeps_execDmaTail hs k base size v
  | .dmaDescriptor k desc host busError => keeps_execDmaDescriptor hs k desc host busError
  | .udpOpen o => keeps_execUdpOpen hs o
  | .udpClose n h => keeps_execUdpClose hs n h
  | .udpRead n h idx sub count => keeps_execUdpRead hs n h idx sub count
  | .udpWrite n h idx sub values => keeps_execUdpWrite hs n h idx sub values
  | .authBegin n h slot => keeps_execAuthBegin hs n h slot
  | .authProve n h proof => keeps_execAuthProve hs n h proof
  | .memRead n h addr len => keeps_execMemRead hs n h addr len
  | .memWrite n h addr data => keeps_execMemWrite hs n h addr data
  | .udpKeepalive n h => keeps_execUdpKeepalive hs n h
  | .sessionTimeout n => keeps_execSessionTimeout hs n
  | .authSlot ses slot => keeps_execAuthSlot hs ses slot
  | .authResponse ses proof => keeps_execAuthResponse hs ses proof
  | .nonceLapse ses => keeps_execNonceLapse hs ses
  | .authLockoutEnd master => keeps_execAuthLockoutEnd hs master
  | .authDrop ses level => keeps_execAuthDrop hs ses level
  | .keyWrite ses data => keeps_execKeyWrite hs ses data
  | .setCommit ses when_ mark ctx => keeps_execSetCommit hs ses when_ mark ctx
  | .setCommitEffect => keeps_execSetCommitEffect hs
  | .discard ses => keeps_execDiscard hs ses
  | .claim ses => keeps_execClaim hs ses
  | .yieldClaim ses => keeps_execYieldClaim hs ses
  | .shadowReloadDone => keeps_execShadowReloadDone hs
  | .objectWrite ses idx sub data => keeps_execObjectWrite hs ses idx sub data
  | .masterResume ses m => keeps_execMasterResume hs ses m
  | .masterDrop ses m => keeps_execMasterDrop hs ses m
  | .calWrite ses addr data => keeps_execCalWrite hs ses addr data
  | .calRestore ses v => keeps_execCalRestore hs ses v
  | .counterPersist => keeps_execCounterPersist hs
  | .fwLoad ses => keeps_execFwLoad hs ses
  | .fwSwitch ses => keeps_execFwSwitch hs ses
  | .restoreDefaults ses => keeps_execRestoreDefaults hs ses
  | .fwSwitchAbandon => keeps_execFwSwitchAbandon hs
  | .telemetryDatagram => keeps_execTelemetryDatagram hs
  | .referenceLost => keeps_execReferenceLost hs
  | .referencePresent => keeps_execReferencePresent hs
  | .lockLoss g => keeps_execLockLoss hs g
  | .dividerStep dom => keeps_execDividerStep hs dom
  | .pllReturn g => keeps_execPllReturn hs g
  | .watch ses => keeps_execWatch hs ses
  | .diesDown ses => keeps_execDiesDown hs ses
  | .diesUp ses => keeps_execDiesUp hs ses
  | .watchWake => keeps_execWatchWake hs
  | .coreTurnOn c => keeps_execCoreTurnOn hs c
  | .diePowerOn d => keeps_execDiePowerOn hs d
  | .powerGood => keeps_execPowerGood hs
  | .powerGoodLoss => keeps_execPowerGoodLoss hs
  | .resetN => keeps_execResetN hs
  | .resetCmdModule ses => keeps_execResetCmdModule hs ses
  | .resetCmdDie ses d => keeps_execResetCmdDie hs ses d
  | .resetCmdCore ses c => keeps_execResetCmdCore hs ses c
  | .managementWatchdog => keeps_execManagementWatchdog hs
  | .pcieReset => keeps_execPcieReset hs
  | .vddCoreLoss d => keeps_execVddCoreLoss hs d
  | .vddCoreReturn d => keeps_execVddCoreReturn hs d
  | .vddProgLoss => keeps_execVddProgLoss hs
  | .vddProgReturn => keeps_execVddProgReturn hs
  | .vddOptValid => keeps_execVddOptValid hs
  | .scrubAccess addr found => keeps_execScrubAccess hs addr found
  | .scrubPass late => keeps_execScrubPass hs late
  | .bridgeReplay b => keeps_execBridgeReplay hs b
  | .bridgeRetrain b => keeps_execBridgeRetrain hs b
  | .record => keeps_execRecord hs
  | .sortRelease => keeps_execSortRelease hs
  | .tokenRefill bucket => keeps_execTokenRefill hs bucket
  | .ashFreeze ses => keeps_execAshFreeze hs ses
  | .ashUnfreeze ses => keeps_execAshUnfreeze hs ses
  | .freezeMaxExpiry => keeps_execFreezeMaxExpiry hs
  | .checkpointComplete => keeps_execCheckpointComplete hs
  | .clearChal ses => keeps_execClearChal hs ses
  | .ashClear ses slot proof => keeps_execAshClear hs ses slot proof
  | .gtcReachesTarget c => keeps_execGtcReachesTarget hs c
  | .trackerForcedCommit c e => keeps_execTrackerForcedCommit hs c e
  | .surveyOverdue c e b => keeps_execSurveyOverdue hs c e b
  | .flueLanesTrained p => keeps_execFlueLanesTrained hs p
  | .bridgeRetrained b => keeps_execBridgeRetrained hs b
  | .pllRelock g => keeps_execPllRelock hs g
  | .pfailDeassert => keeps_execPfailDeassert hs
  | .thermN sensor heat => keeps_execThermN hs sensor heat
  | .analogueRailReturn => keeps_execAnalogueRailReturn hs
  | .vddOptLoss => keeps_execVddOptLoss hs
  | .fwImageWritten => keeps_execFwImageWritten hs
  | .fwBankServing => keeps_execFwBankServing hs
  | .ashClearComplete => keeps_execAshClearComplete hs
  | .lostConnection => keeps_execLostConnection hs
  | .ethLinkState p up => keeps_execEthLinkState hs p up
  | .malformedMessage p => keeps_execMalformedMessage hs p
  | .outOfSubsetPdu => keeps_execOutOfSubsetPdu hs

/-- Every command has a meaning, and none ends in a fault or a refusal. -/
theorem exec_next (i : Instr) (s : State) : ∃ t, exec i s = .next t := by
  cases i <;> exact ⟨_, rfl⟩

theorem step_of_empty {s : State} (h : s.pending = []) : step s = .next s.tick := by
  simp [step, h]

theorem step_of_front {s : State} {i : Instr} {l : List Instr} (h : s.pending = i :: l) : step s = exec i { s with pending := l } := by
  simp [step, h]

/-- What a step can do: a tick on an empty queue, or the front command on the queue's rest. -/
theorem step_cases {s t : State} (h : step s = .next t) :
    (s.pending = [] ∧ t = s.tick) ∨ ∃ i l, s.pending = i :: l ∧ exec i { s with pending := l } = .next t := by
  cases hq : s.pending with
  | nil =>
    rw [step_of_empty hq] at h
    injection h with h
    exact .inl ⟨rfl, h.symm⟩
  | cons i l => exact .inr ⟨i, l, rfl, step_of_front hq ▸ h⟩

/-- A step keeps all that the operations keep, but for the queue, which it may take the front of. -/
theorem step_keeps {s t : State} (h : step s = .next t) : ∃ l, Keeps { s with pending := l } t := by
  obtain ⟨hq, rfl⟩ | ⟨i, l, -, he⟩ := step_cases h
  · exact ⟨s.pending, keeps_tick (Keeps.refl s)⟩
  · exact ⟨l, exec_keeps i _ t he⟩

/-- Settles O3: every operation keeps the canonical form (`exec_keeps`), and so does a step. -/
theorem stepKeepsMemoryCanonical : Obligations.StepKeepsMemoryCanonical := by
  unfold Obligations.StepKeepsMemoryCanonical
  intro s t hs h
  obtain ⟨l, hk⟩ := step_keeps h
  exact hk.mem hs

/-- Settles O4: every operation keeps the modes legal (`exec_keeps`), and so does a step. -/
theorem stepKeepsModesLegal : Obligations.StepKeepsModesLegal := by
  unfold Obligations.StepKeepsModesLegal
  intro s t hs h
  obtain ⟨l, hk⟩ := step_keeps h
  exact hk.modes hs

/-- Settles O2: what a command keeps holds the queue's rest, the part and the Vendor key. -/
theorem commandsGoOnInOrder : Obligations.CommandsGoOnInOrder := by
  unfold Obligations.CommandsGoOnInOrder
  refine ⟨⟨fun i l s t hq h => ?_, fun s t hq h => ?_⟩, exec_next, fun s t h => ?_⟩
  · rw [step_of_front hq] at h
    exact (exec_keeps i _ t h).pending
  · rw [step_of_empty hq] at h
    injection h with h
    rw [← h, (keeps_tick (Keeps.refl s)).pending, hq]
  · obtain ⟨l, hk⟩ := step_keeps h
    exact ⟨hk.vendor, hk.part⟩

/-- Settles O1: the two cases of a step. -/
theorem stepRunsFrontCommand : Obligations.StepRunsFrontCommand := by
  unfold Obligations.StepRunsFrontCommand
  exact ⟨fun _ _ _ => step_of_front rfl, fun _ => step_of_empty⟩

/-- Settles O5: the state right after reset, field by field. -/
theorem resetMeetsInvariants : Obligations.ResetMeetsInvariants := by
  unfold Obligations.ResetMeetsInvariants
  exact ⟨rfl, rfl, rfl, rfl, rfl, rfl, fun _ => rfl⟩

end Sys2Proof.Machine
end

section
/-! SUPPORT. Bytes written in a row: what each address reads as behind them, and with it the settlement of the write of plain memory. -/

namespace Sys2Proof.Machine

/-- A read after a run of writes: the byte of the run at its address, and every other byte as before. -/
theorem Mem.read_writeBytes {m : Mem} (a x : Nat) (bs : List Byte) (h : Mem.wf m = true) :
    Mem.read (Mem.writeBytes m a bs) x = if a ≤ x ∧ x < a + bs.length then bs.getD (x - a) 0 else Mem.read m x := by
  induction bs generalizing m a with
  | nil =>
    have hout : ¬ (a ≤ x ∧ x < a + ([] : List Byte).length) := by
      simp only [List.length_nil]
      omega
    rw [if_neg hout]
    rfl
  | cons b bs ih =>
    rw [Mem.writeBytes, ih (a + 1) (Mem.wf_write a b h), Mem.read_write a x b h, List.length_cons]
    by_cases hx : x = a
    · subst hx
      simp
    · by_cases hin : a + 1 ≤ x ∧ x < a + 1 + bs.length
      · obtain ⟨k, rfl⟩ : ∃ k, x = a + 1 + k := ⟨x - (a + 1), by omega⟩
        have hk : a + 1 + k - a = k + 1 := by omega
        have hk' : a + 1 + k - (a + 1) = k := by omega
        rw [if_pos hin, if_pos (by omega), hk, hk', List.getD_cons_succ]
      · rw [if_neg hin, if_neg hx, if_neg (by omega)]

theorem State.mem_wf {s : State} (h : s.memOk = true) : Mem.wf s.mem = true := ((Bool.and_eq_true _ _).mp h).1

theorem State.ash_wf {s : State} (h : s.memOk = true) : Mem.wf s.keep.ash = true := ((Bool.and_eq_true _ _).mp h).2

/-- A read after a write of plain memory. -/
theorem State.read_poke {s : State} (a x : Nat) (bs : List Byte) (h : s.memOk = true) :
    Mem.read (s.poke a bs).mem x = if a ≤ x ∧ x < a + bs.length then bs.getD (x - a) 0 else Mem.read s.mem x :=
  Mem.read_writeBytes a x bs (State.mem_wf h)

/-- Settles O12: the law of `Mem.writeBytes`, by induction on the bytes. -/
theorem pokeWritesItsBytes : Obligations.PokeWritesItsBytes := by
  unfold Obligations.PokeWritesItsBytes
  exact fun s a x bs h => State.read_poke a x bs h

end Sys2Proof.Machine
end

section
/-! SUPPORT. A bit that was set or cleared, and what issue does in each of its cases (R110, R157): the command of a plan op issues its opcode, and
with these laws the settlement of the checks at issue. -/

namespace Sys2Proof.Machine

/-! ## Bits -/

/-- A bit reads as it was set. -/
@[simp] theorem bit_setBit_same (v i : Nat) (b : Bool) : bit (setBit v i b) i = b := by
  unfold bit setBit
  split_ifs with h hb
  · exact h
  · rw [Nat.add_comm, Nat.testBit_two_pow_add_eq]
    exact Bool.not_eq.mpr h
  · rw [Bool.not_eq_true] at hb
    rw [hb, Bool.not_eq_false] at h
    have hsplit := Nat.testBit_two_pow_add_eq (v - 2 ^ i) i
    rw [Nat.add_sub_cancel' (Nat.ge_two_pow_of_testBit h), h, eq_comm, Bool.not_eq_true'] at hsplit
    rw [hsplit, hb]

/-! ## Issue -/

/-- The command of a plan op is the issue of its opcode, with an action of its own. -/
theorem exec_planCommand {c op : Nat} {i : Instr} (h : planCommand c op = some i) :
    ∃ act : Nat → State → State, ∀ s, exec i s = .next (s.issue c op act) := by
  unfold planCommand at h
  split at h
  all_goals first
    | (injection h with h; subst h; exact ⟨_, fun _ => rfl⟩)
    | contradiction

section Issue

variable {s : State} {c op w : Nat} {act : Nat → State → State}

/-- A core that does not issue. -/
theorem issue_idle (h : (s.core c).issuing = false) : s.issue c op act = s := by
  simp [State.issue, h]

/-- An uncorrectable error in the word. -/
theorem issue_planFault (h : (s.core c).issuing = true)
    (hp : s.poisoned (planAddr c (s.core c).seq.bank (s.core c).seq.pc) 8 = true) : s.issue c op act = s.planFault c := by
  simp [State.issue, h, hp]

/-- Issue stalls. -/
theorem issue_stalled (h : (s.core c).issuing = true)
    (hp : s.poisoned (planAddr c (s.core c).seq.bank (s.core c).seq.pc) 8 = false) (hw : s.planWord c = w) (ho : opcodeOf w = op)
    (hs : s.stalled c w = true) : s.issue c op act = s.bump (0x3000 + c) 0x08 := by
  simp [State.issue, h, hp, hw, ho, hs]

/-- Another op's word. -/
theorem issue_other (h : AtIssue s c w) (ho : opcodeOf w ≠ op) (h0 : op ≠ 0) : s.issue c op act = s := by
  obtain ⟨hi, hp, hw, -⟩ := h
  simp [State.issue, hi, hp, hw, ho, h0]

/-- R157 step 1. -/
theorem issue_illegal (h : AtIssue s c w) (ho : opcodeOf w = op ∨ (op = 0 ∧ opcodeOf w ∉ opcodes))
    (hb : illegalWord c ((s.core c).head (s.core c).seq.bank) w = true) : s.issue c op act = s.discard c w 6 := by
  obtain ⟨hi, hp, hw, hs⟩ := h
  obtain ho | ⟨h0, hn⟩ := ho
  · simp [State.issue, hi, hp, hw, hs, ho, hb]
  · simp [State.issue, hi, hp, hw, hs, h0, hn, hb]

/-- R157 step 2. -/
theorem issue_windowFault (h : AtIssue s c w) (ho : opcodeOf w = op) {a kind : Nat}
    (hb : illegalWord c ((s.core c).head (s.core c).seq.bank) w = false) (hf : s.windowFault c w = some (a, kind)) :
    s.issue c op act = s.freezeCore c a kind := by
  obtain ⟨hi, hp, hw, hs⟩ := h
  simp [State.issue, hi, hp, hw, hs, ho, hb, hf]

/-- R157 step 3. -/
theorem issue_tileFault (h : AtIssue s c w) (ho : opcodeOf w = op)
    (hb : illegalWord c ((s.core c).head (s.core c).seq.bank) w = false) (hf : s.windowFault c w = none)
    (ht : tileFault (s.core c) w = true) : s.issue c op act = s.discard c w 1 := by
  obtain ⟨hi, hp, hw, hs⟩ := h
  simp [State.issue, hi, hp, hw, hs, ho, hb, hf, ht]

/-- R157 step 4. -/
theorem issue_boundFault (h : AtIssue s c w) (ho : opcodeOf w = op)
    (hb : illegalWord c ((s.core c).head (s.core c).seq.bank) w = false) (hf : s.windowFault c w = none)
    (ht : tileFault (s.core c) w = false) (hn : boundFault (s.core c) w = true) : s.issue c op act = s.discard c w 2 := by
  obtain ⟨hi, hp, hw, hs⟩ := h
  simp [State.issue, hi, hp, hw, hs, ho, hb, hf, ht, hn]

end Issue

/-! ## What a discarded op and a freeze leave -/

/-- What a discarded op leaves its core. -/
theorem discard_core (s : State) (c w status : Nat) :
    (s.discard c w status).core c = { s.core c with seq := { (s.core c).seq with
      lastFault := (FaultInfo.mk status (s.core c).seq.pc (s.core c).seq.bank).word
      faultPend := some ⟨status, (s.core c).seq.pc, (s.core c).seq.bank⟩ } } := by
  unfold State.discard State.setFault State.modSeq
  split_ifs <;> simp [State.core, State.sendSync, State.modCore, State.setCore]

/-- A discarded op touches its own core and, with its object, the updates on the way. -/
theorem discard_frame (s : State) (c w status : Nat) :
    s.discard c w status = { s with
      cores := (s.discard c w status).cores
      net := { s.net with syncs := if status = 6 ∨ syncOf w = 0 then s.net.syncs
        else s.net.syncs ++ [⟨handleObj c (syncOf w), false, 1, status, false, false, coreSource c, none, false⟩] } } := by
  unfold State.discard State.setFault State.modSeq
  split_ifs <;> rfl

theorem discard_core_ne (s : State) {c x : Nat} (w status : Nat) (hx : x ≠ c) : (s.discard c w status).core x = s.core x := by
  unfold State.discard State.setFault State.modSeq
  split_ifs <;> simp [State.core, State.sendSync, State.modCore, State.setCore, Tab.get_set_ne _ _ _ hx]

/-- Settles O6: each failing check is an equation of `State.issue`, and what a freeze and a discarded op leave is told field by field. -/
theorem issueChecksInOrder : Obligations.IssueChecksInOrder := by
  unfold Obligations.IssueChecksInOrder
  refine ⟨fun c op w i s hi hat hop => ?_, fun s c w status a kind => ?_⟩
  · obtain ⟨act, hact⟩ := exec_planCommand hi
    simp only [hact]
    refine ⟨fun hb => ?_, fun a kind hb hf => ?_, fun hb hf ht => ?_, fun hb hf ht hn => ?_⟩
    · rw [issue_illegal hat (.inl hop) hb]
    · rw [issue_windowFault hat hop hb hf]
    · rw [issue_tileFault hat hop hb hf ht]
    · rw [issue_boundFault hat hop hb hf ht hn]
  · have hframe := discard_frame s c w status
    refine ⟨?_, fun x hx => ?_, rfl, rfl, rfl, bit_setBit_same _ _ _, rfl, discard_core s c w status,
      fun x hx => discard_core_ne s w status hx, ?_, ?_, ?_, ?_, ?_⟩
    · exact State.core_modCore_same s c (fun k => { k with state := .frozen })
    · exact State.core_modCore_ne s (fun k => { k with state := .frozen }) hx
    all_goals rw [hframe]

end Sys2Proof.Machine
end

section
/-! SUPPORT. The control ops (R153): what each does to the index and the registers, BR's conditions and SETK's modes, and with them the settlement
of their issue. -/

namespace Sys2Proof.Machine

/-- Two changes of a core's sequencer in a row. -/
@[simp] theorem State.modSeq_modSeq (s : State) (c : Nat) (f g : Seq → Seq) :
    (s.modSeq c f).modSeq c g = s.modSeq c (fun q => g (f q)) := by
  simp only [State.modSeq, State.modCore_modCore]

@[simp] theorem State.core_modSeq_same (s : State) (c : Nat) (f : Seq → Seq) :
    (s.modSeq c f).core c = { s.core c with seq := f (s.core c).seq } :=
  State.core_modCore_same s c _

theorem State.core_modSeq_ne (s : State) {c x : Nat} (f : Seq → Seq) (h : x ≠ c) : (s.modSeq c f).core x = s.core x :=
  State.core_modCore_ne s _ h

/-- Every opcode of Table 5.3 has a command. -/
theorem planCommand_isSome (c : Nat) : ∀ op ∈ opcodes, (planCommand c op).isSome = true := by
  simp [opcodes, planCommand]

theorem planCommand_eq_none {c op : Nat} (h : planCommand c op = none) : op ∉ opcodes := by
  intro hm
  simpa [h] using planCommand_isSome c op hm

/-- A word with no opcode of the table is illegal. -/
theorem illegalWord_of_noOpcode {c w : Nat} {h : Option PlanHeader} (hop : opcodeOf w ∉ opcodes) : illegalWord c h w = true := by
  unfold illegalWord
  simp [hop]

/-- What stands in a register, and where the index stands, after a branch back of LOOP. -/
theorem advance_modSeq_jump (s : State) (c n cnt v : Nat) :
    ((s.advance c).modSeq c (fun q => q.setS cnt v)).jump c n =
      s.modSeq c (fun q => { q.setS cnt v with pc := n, stopReq := none }) := by
  simp only [State.advance, State.jump, State.modSeq_modSeq]
  congr 1
  funext q
  split <;> rfl

theorem advance_modSeq_setK_jump (s : State) (c n cnt v kr o : Nat) :
    (((s.advance c).modSeq c (fun q => q.setS cnt v)).modSeq c (fun q => q.setK kr o)).jump c n =
      s.modSeq c (fun q => { (q.setS cnt v).setK kr o with pc := n, stopReq := none }) := by
  simp only [State.advance, State.jump, State.modSeq_modSeq]
  congr 1
  funext q
  split <;> rfl

/-! ## LOOP -/

theorem loopOp_zero {s : State} {c w : Nat} (h : (s.core c).sreg (field w 12 5) = 0) : loopOp c w s = s := by
  simp [loopOp, h]

/-- The last round falls through. -/
theorem loopOp_last {s : State} {c w : Nat} (h : (s.core c).sreg (field w 12 5) = 1) :
    loopOp c w s = if bit w 48 then s.modSeq c (fun q => (q.setS (field w 12 5) 0).setK (field w 17 4)
        (withOffset ((s.core c).kreg (field w 17 4)) ((s.core c).offset (field w 17 4) + field w 21 16)))
      else s.modSeq c (fun q => q.setS (field w 12 5) 0) := by
  simp [loopOp, h]

/-- Any round before the last branches back. -/
theorem loopOp_again {s : State} {c w : Nat} (h : 1 < (s.core c).sreg (field w 12 5)) :
    loopOp c w s =
      let z := s.modSeq c (fun q => q.setS (field w 12 5) ((s.core c).sreg (field w 12 5) - 1))
      (if bit w 48 then z.modSeq c (fun q => q.setK (field w 17 4)
          (withOffset ((s.core c).kreg (field w 17 4)) ((s.core c).offset (field w 17 4) + field w 21 16))) else z).jump c (field w 0 12) := by
  have hne : (s.core c).sreg (field w 12 5) ≠ 0 := by omega
  have hne' : (s.core c).sreg (field w 12 5) - 1 ≠ 0 := by omega
  unfold loopOp
  dsimp only
  rw [if_neg hne, if_neg hne']

/-! ## Values -/

theorem branchCond_iff (r i : Nat) :
    (branchCond 0 r i = true ↔ r = i) ∧ (branchCond 1 r i = true ↔ r ≠ i) ∧
    (branchCond 2 r i = true ↔ toSigned 32 r < toSigned 32 i) ∧ (branchCond 3 r i = true ↔ toSigned 32 i ≤ toSigned 32 r) ∧
    (branchCond 4 r i = true ↔ r < i) ∧ (branchCond 5 r i = true ↔ i ≤ r) ∧
    (branchCond 6 r i = true ↔ r &&& i ≠ 0) ∧ (branchCond 7 r i = true ↔ r &&& i = 0) := by
  simp [branchCond]

theorem withOffset_bound (r o : Nat) : withOffset r o % 65536 = r % 65536 := by
  unfold withOffset
  omega

theorem withOffset_offset (r o : Nat) : withOffset r o / 65536 = o % 65536 := by
  unfold withOffset
  omega

/-- Settles O7: the cases of `State.issue` for every plan op, and the effects of the control ops by `issue_ok`. -/
theorem controlOpsIssue : Obligations.ControlOpsIssue := by
  unfold Obligations.ControlOpsIssue
  refine ⟨fun c op w i s hi => ?_, fun s c w => ?_, branchCond_iff, fun r i v hr hi => ?_⟩
  · obtain ⟨act, hact⟩ := exec_planCommand hi
    simp only [hact]
    refine ⟨fun h => ?_, fun h ho h0 => ?_, fun h hp => ?_, fun h hn => ?_, fun h hp hw ho hs => ?_⟩
    · rw [issue_idle h]
    · rw [issue_other h ho h0]
    · rw [issue_planFault h hp]
    · have hno := planCommand_eq_none hn
      show Host.Outcome.next (s.issue c 0x00 _) = _
      rw [issue_illegal h (.inr ⟨rfl, hno⟩) (illegalWord_of_noOpcode hno)]
    · rw [issue_stalled h hp hw ho hs]
  · refine ⟨fun h => ?_, fun h => ?_, fun h hb => ?_, fun h hb => ?_, fun h hv => ?_, fun h hv hk => ?_, fun h hv hk => ?_,
      fun h hv hk => ?_, fun h hv hk => ?_, fun h => ?_⟩
    · exact congrArg _ (issue_ok h _)
    · refine congrArg _ ((issue_ok h _).trans ?_)
      rw [advance_jump]
    · refine congrArg _ ((issue_ok h _).trans ?_)
      rw [brOp, advance_reg, if_pos hb, advance_jump]
    · refine congrArg _ ((issue_ok h _).trans ?_)
      rw [brOp, advance_reg, if_neg (by rw [hb]; exact Bool.false_ne_true)]
    · refine congrArg _ ((issue_ok h _).trans ?_)
      rw [loopOp_zero (by rw [advance_sreg, hv])]
    · refine congrArg _ ((issue_ok h _).trans ?_)
      rw [loopOp_last (by rw [advance_sreg, hv]), hk]
      simp
    · refine congrArg _ ((issue_ok h _).trans ?_)
      rw [loopOp_last (by rw [advance_sreg, hv]), hk, advance_kreg, advance_offset]
      simp
    · refine congrArg _ ((issue_ok h _).trans ?_)
      rw [loopOp_again (by rw [advance_sreg]; exact hv), hk, advance_sreg]
      exact congrArg (State.settle · c) (advance_modSeq_jump s c _ _ _)
    · refine congrArg _ ((issue_ok h _).trans ?_)
      rw [loopOp_again (by rw [advance_sreg]; exact hv), hk, advance_sreg, advance_kreg, advance_offset]
      exact congrArg (State.settle · c) (advance_modSeq_setK_jump s c _ _ _ _ _)
    · refine congrArg _ ((issue_ok h _).trans ?_)
      simp only [setkOp, advance_reg]
  · refine ⟨rfl, rfl, ?_, ?_, withOffset_bound r i, withOffset_offset r i, withOffset_bound r _, withOffset_offset r _, rfl⟩ <;>
      simp only [setkValue] <;> omega

end Sys2Proof.Machine
end

section
/-! SUPPORT. The ops that move data, synchronise and give outputs enter flight with their operands read (R146-R150, R153-R156), and the fault path
(R158); with them the settlement of their issue. -/

namespace Sys2Proof.Machine

section Issue

variable {s : State} {c w : Nat}

/-- What an op that issues does is its action on the state whose index has moved on. -/
theorem issue_act {op : Nat} {act : Nat → State → State} {t : State} (h : Issues s c op w) (ht : act w (s.advance c) = t) :
    (Host.Outcome.next (s.issue c op act) : Out) = .next (t.settle c) := by
  rw [issue_ok h, ht]

@[simp] theorem advance_phaseOf (s : State) (c t : Nat) : (s.advance c).phaseOf t = s.phaseOf t := rfl

@[simp] theorem advance_net (s : State) (c : Nat) : (s.advance c).net = s.net := rfl

@[simp] theorem enter_net (s : State) (c sync : Nat) (sat lc : Bool) (pend : List Nat) (body : OpBody) :
    (s.enter c sync sat lc pend body).net = s.net := rfl

@[simp] theorem advance_time (s : State) (c : Nat) : (s.advance c).time = s.time := rfl

@[simp] theorem advance_cfg (s : State) (c i n : Nat) : (s.advance c).cfg i n = s.cfg i n := rfl

@[simp] theorem advance_windowOf (s : State) (c obj : Nat) : ((s.advance c).core c).windowOf c obj = (s.core c).windowOf c obj := by
  rw [advance_core]
  rfl

/-- The fields of a core's sequencer that a move of the index leaves. -/
theorem advance_seq (s : State) (c : Nat) :
    ((s.advance c).core c).seq =
      { (s.core c).seq with pc := ((s.advance c).core c).seq.pc, stopReq := ((s.advance c).core c).seq.stopReq } := by
  rw [advance_core]
  dsimp only
  split <;> rfl

@[simp] theorem advance_stamp (s : State) (c : Nat) : ((s.advance c).core c).seq.stamp = (s.core c).seq.stamp := by
  rw [advance_seq]
@[simp] theorem advance_bank (s : State) (c : Nat) : ((s.advance c).core c).seq.bank = (s.core c).seq.bank := by
  rw [advance_seq]
@[simp] theorem advance_nextSeq (s : State) (c : Nat) : ((s.advance c).core c).seq.nextSeq = (s.core c).seq.nextSeq := by
  rw [advance_seq]
@[simp] theorem advance_openBatch (s : State) (c : Nat) : ((s.advance c).core c).seq.openBatch = (s.core c).seq.openBatch := by
  rw [advance_seq]
@[simp] theorem advance_ops (s : State) (c : Nat) : ((s.advance c).core c).seq.ops = (s.core c).seq.ops := by
  rw [advance_seq]

@[simp] theorem advance_head (s : State) (c b : Nat) : ((s.advance c).core c).head b = (s.core c).head b := by
  rw [advance_core]
  rfl

@[simp] theorem advance_waittTarget (s : State) (c w : Nat) : waittTarget ((s.advance c).core c) w = waittTarget (s.core c) w := by
  simp only [waittTarget, advance_stamp, advance_sreg]

/-! ## The distance of a WAITPH -/

/-- How far tracker t is from the phase a WAITPH names, in its MODE (R149). -/
def waitphDistance (s : State) (c w : Nat) : Nat :=
  if bit w 48 then
    (field (s.cfg 0x2320 (field w 8 6 + 1)) 0 32 + 2 ^ 32 - s.phaseOf (field w 0 3)) % 2 ^ (32 - field (s.cfg 0x2320 (field w 8 6 + 1)) 36 4)
  else ((s.core c).sreg (field w 3 5) + 2 ^ 32 - s.phaseOf (field w 0 3)) % 2 ^ 32

theorem waitphOp_eq (s : State) (c w : Nat) :
    waitphOp c w s =
      if waitphDistance s c w = 0 then s else s.enter c 0 false false [] (.waitph (field w 0 3) (waitphDistance s c w) 0) := rfl

/-- The move of the index leaves it. -/
@[simp] theorem advance_waitphDistance (s : State) (c w : Nat) : waitphDistance (s.advance c) c w = waitphDistance s c w := by
  unfold waitphDistance
  rw [advance_sreg, advance_phaseOf, advance_cfg]

/-- MODE 0 takes the phase from a register, MODE 1 from a mark. -/
theorem waitphDistance_register (h : bit w 48 = false) :
    waitphDistance s c w = ((s.core c).sreg (field w 3 5) + 2 ^ 32 - s.phaseOf (field w 0 3)) % 2 ^ 32 := by
  rw [waitphDistance, h, if_neg Bool.false_ne_true]

theorem waitphDistance_mark (h : bit w 48 = true) :
    waitphDistance s c w =
      (field (s.cfg 0x2320 (field w 8 6 + 1)) 0 32 + 2 ^ 32 - s.phaseOf (field w 0 3)) % 2 ^ (32 - field (s.cfg 0x2320 (field w 8 6 + 1)) 36 4) := by
  rw [waitphDistance, if_pos h]

end Issue

/-- Settles O10: each op's own action, on the state whose index has moved on (`issue_act`). -/
theorem moveAndSyncOpsIssue : Obligations.MoveAndSyncOpsIssue := by
  unfold Obligations.MoveAndSyncOpsIssue
  refine ⟨fun s c w => ?_, fun s c w => ?_⟩
  · refine ⟨fun h hb => issue_act h ?_, fun h hb => issue_act h ?_, fun h hb hm => issue_act h ?_, fun h hb hm => issue_act h ?_,
      fun h hb => issue_act h ?_, fun h => issue_act h ?_, fun h hm => issue_act h ?_, fun h hm => issue_act h ?_⟩
    · simp [loadOp, Nat.ne_of_gt hb]
    · simp [loadOp, hb]
    · simp [storeOp, Nat.ne_of_gt hb, hm]
    · simp [storeOp, Nat.ne_of_gt hb, hm]
    · simp [storeOp, hb]
    · simp [sendOp]
    · simp [recvOp, hm]
    · simp [recvOp, hm]
  · refine ⟨fun h hm => issue_act h ?_, fun h hm => issue_act h ?_, fun h => issue_act h ?_, fun h => issue_act h ?_,
      fun h ht => issue_act h ?_, fun h ht => issue_act h ?_, fun d h hm hd => issue_act h ?_, fun h hm hd => issue_act h ?_,
      fun d h hm hd => ?_⟩
    · simp [ldkOp, hm]
    · simp [ldkOp, hm]
    · simp [sigOp]
    · simp [waitOp, waitTarget]
    · simp [waittOp, ht]
    · simp [waittOp, Nat.not_le.mpr ht]
    · have hdist := (waitphDistance_register hm).trans hd
      rw [waitphOp_eq, advance_waitphDistance, hdist, if_neg d.succ_ne_zero]
    · have hdist := (waitphDistance_register hm).trans hd
      rw [waitphOp_eq, advance_waitphDistance, hdist, if_pos rfl]
    · have hdist := (waitphDistance_mark (c := c) hm).trans hd
      refine (issue_act h (waitphOp_eq _ c w)).trans ?_
      rw [advance_waitphDistance, hdist]
      split <;> rfl

/-- Settles O11: EMIT and LOG by `issue_act`; the fault path by its cases. -/
theorem outputOpsAndFaultPath : Obligations.OutputOpsAndFaultPath := by
  unfold Obligations.OutputOpsAndFaultPath
  intro s c w
  refine ⟨fun h hm hb => issue_act h ?_, fun h hm hb => issue_act h ?_, fun h hm hd => issue_act h ?_, fun hd h hm hh hdl => issue_act h ?_,
    fun h => issue_act h ?_, fun f h hf hrun hops hh hflag hin => congrArg Host.Outcome.next ?_, fun f h hf hrun hops hh hor => congrArg Host.Outcome.next ?_⟩
  · simp [emitOp, hm, Nat.ne_of_gt hb]
  · simp [emitOp, hm, hb]
  · cases hk : (s.core c).head (s.core c).seq.bank with
    | none => simp [emitOp, hm, hk]
    | some k => simp [emitOp, hm, hk, hd k hk]
  · simp [emitOp, hm, hh, hdl]
  · simp [logOp]
  · simp [faultPath, hf, hrun, hops, hh, hflag, hin]
  · have hno : (bit h.flags 1 && !(s.core c).seq.inHandler) = false := by
      obtain hflag | hin := hor
      · simp [hflag]
      · simp [hin]
    simp [faultPath, hf, hrun, hops, hh, hno]

end Sys2Proof.Machine
end

section
/-! SUPPORT. The op that enters flight, what a HALT in an empty flight does (R150), what a BATCH samples (R151, R152), and the array ops (R142-R145);
with them the settlement of their issue. -/

namespace Sys2Proof.Machine

/-! ## The move of the index -/

@[simp] theorem advance_mem (s : State) (c : Nat) : (s.advance c).mem = s.mem := rfl
@[simp] theorem advance_ash (s : State) (c : Nat) : (s.advance c).ash = s.ash := rfl
@[simp] theorem advance_engines (s : State) (c : Nat) : (s.advance c).engines = s.engines := rfl
@[simp] theorem advance_counters (s : State) (c : Nat) : (s.advance c).counters = s.counters := rfl
@[simp] theorem advance_outs (s : State) (c : Nat) : (s.advance c).outs = s.outs := rfl
@[simp] theorem advance_ctx (s : State) (c x : Nat) : (s.advance c).ctx x = s.ctx x := rfl

theorem advance_core_ne (s : State) {c x : Nat} (h : x ≠ c) : (s.advance c).core x = s.core x := State.core_modCore_ne s _ h

/-- A move of the index touches the sequencer only. -/
theorem advance_core_seq (s : State) (c : Nat) : (s.advance c).core c = { s.core c with seq := ((s.advance c).core c).seq } := by
  rw [advance_core]

@[simp] theorem advance_ctxOf (s : State) (c : Nat) : ((s.advance c).core c).ctx = (s.core c).ctx := by
  rw [advance_core_seq]
@[simp] theorem advance_ana (s : State) (c : Nat) : ((s.advance c).core c).ana = (s.core c).ana := by
  rw [advance_core_seq]
@[simp] theorem advance_map (s : State) (c b : Nat) : ((s.advance c).core c).map b = (s.core c).map b := by
  rw [advance_core_seq]
  rfl
@[simp] theorem advance_mapBank (s : State) (c : Nat) : ((s.advance c).core c).seq.mapBank = (s.core c).seq.mapBank := by
  rw [advance_seq]
@[simp] theorem advance_committed (s : State) (c : Nat) : ((s.advance c).core c).seq.committed = (s.core c).seq.committed := by
  rw [advance_seq]
@[simp] theorem advance_batchNo (s : State) (c : Nat) : ((s.advance c).core c).seq.batchNo = (s.core c).seq.batchNo := by
  rw [advance_seq]
@[simp] theorem advance_closings (s : State) (c : Nat) : ((s.advance c).core c).seq.closings = (s.core c).seq.closings := by
  rw [advance_seq]
@[simp] theorem advance_lastFault (s : State) (c : Nat) : ((s.advance c).core c).seq.lastFault = (s.core c).seq.lastFault := by
  rw [advance_seq]

@[simp] theorem advance_opMap (s : State) (c : Nat) : (s.advance c).opMap c = s.opMap c := by
  simp only [State.opMap, advance_mapBank, advance_ctxOf, advance_ctx]

@[simp] theorem advance_sampledBank (s : State) (c : Nat) : (s.advance c).sampledBank c = s.sampledBank c := by
  simp only [State.sampledBank, advance_ctxOf, advance_ctx, advance_bank, advance_committed, advance_batchNo]

/-- The op at the index issues: its own index is that of the last issue. -/
theorem advance_issued {s : State} {c : Nat} (h : (s.core c).issuing = true) :
    ((s.advance c).core c).seq.issued = (s.core c).seq.pc := by
  have hstop : (s.core c).seq.stopReq = none := by
    simp only [Core.issuing, Bool.and_eq_true, Option.isNone_iff_eq_none] at h
    exact h.2
  rw [advance_core, Seq.issued]
  by_cases hpc : (s.core c).seq.pc = 4095 <;> simp [hpc, hstop]

/-! ## The op that enters flight -/

/-- The op that `State.enter` puts into flight (`enter_core`). -/
def State.newOp (s : State) (c sync : Nat) (satRep lcRep : Bool) (pend : List Nat) (body : OpBody) : Op :=
  ⟨(s.core c).seq.nextSeq, (s.core c).seq.issued, (s.core c).seq.bank, s.opMap c, sync, (s.core c).seq.openBatch, satRep, lcRep, false, false, 0,
    body, none, [], pend, [], []⟩

section Enter

variable (s : State) (c sync : Nat) (satRep lcRep : Bool) (pend : List Nat) (body : OpBody)

theorem enter_core :
    (s.enter c sync satRep lcRep pend body).core c = { s.core c with
      seq := { (s.core c).seq with
        ops := (s.core c).seq.ops ++ [s.newOp c sync satRep lcRep pend body]
        nextSeq := (s.core c).seq.nextSeq + 1 }
      pending := pend.foldl (fun p t => Tab.set p t (Tab.get 0 p t + 1)) (s.core c).pending } :=
  State.core_modCore_same s c _

theorem enter_core_ne {x : Nat} (h : x ≠ c) : (s.enter c sync satRep lcRep pend body).core x = s.core x := State.core_modCore_ne s _ h

@[simp] theorem enter_ops : ((s.enter c sync satRep lcRep pend body).core c).seq.ops =
    (s.core c).seq.ops ++ [s.newOp c sync satRep lcRep pend body] := by
  rw [enter_core]

@[simp] theorem enter_mem : (s.enter c sync satRep lcRep pend body).mem = s.mem := rfl
@[simp] theorem enter_ash : (s.enter c sync satRep lcRep pend body).ash = s.ash := rfl
@[simp] theorem enter_engines : (s.enter c sync satRep lcRep pend body).engines = s.engines := rfl
@[simp] theorem enter_counters : (s.enter c sync satRep lcRep pend body).counters = s.counters := rfl
@[simp] theorem enter_outs : (s.enter c sync satRep lcRep pend body).outs = s.outs := rfl
@[simp] theorem enter_time : (s.enter c sync satRep lcRep pend body).time = s.time := rfl

@[simp] theorem enter_newOp_advance : (s.advance c).newOp c sync satRep lcRep pend body =
    { s.newOp c sync satRep lcRep pend body with index := ((s.advance c).core c).seq.issued } := by
  simp only [State.newOp, advance_nextSeq, advance_bank, advance_opMap, advance_openBatch]

/-- What a change of the ops numbered q leaves last. -/
theorem getLast?_modOp (q : Nat) (f : Op → Op) (o : Op) (h : (s.core c).seq.ops.getLast? = some o) :
    ((s.modOp c q f).core c).seq.ops.getLast? = some (if o.seq = q then f o else o) := by
  simp [State.modOp, State.modSeq, h]

end Enter

/-! ## HALT -/

/-- In an empty flight a HALT leaves it at once, and the core halts (R150). -/
theorem enter_halt_settle {s : State} {c sync : Nat} (h : (s.core c).seq.ops = []) :
    (s.enter c sync false false [] .halt).settle c =
      ((s.enter c sync false false [] .halt).finishOp c (s.newOp c sync false false [] .halt) 0).halt c (s.core c).seq.issued (s.core c).seq.bank 0 := by
  have hops : ((s.enter c sync false false [] .halt).core c).seq.ops = [s.newOp c sync false false [] .halt] := by
    simp [h]
  have hstop (u : State) (i b how : Nat) : (u.halt c i b how).settleStop c = u.halt c i b how := by
    simp [State.settleStop, State.halt, State.core]
  have hact : (s.enter c sync false false [] .halt).settleOp c (s.newOp c sync false false [] .halt).seq =
      ((s.enter c sync false false [] .halt).finishOp c (s.newOp c sync false false [] .halt) 0).halt c (s.core c).seq.issued (s.core c).seq.bank 0 := by
    simp [State.settleOp, State.op, hops, Core.before, State.newOp]
  rw [State.settle, hops]
  simp only [List.map_cons, List.map_nil, List.foldl_cons, List.foldl_nil]
  rw [hact, hstop]

/-- What the end of an op with no error leaves: its object is updated, and nothing but its own core and the updates on the way changes. -/
theorem finishOp_ok (s : State) (c : Nat) {o : Op} (h : o.status = 0) :
    s.finishOp c o 0 = { s with
      cores := (s.finishOp c o 0).cores
      net := { s.net with syncs := if o.sync = 0 then s.net.syncs
        else s.net.syncs ++ [⟨handleObj c o.sync, false, 1, 0, o.satRep && o.sat, o.lcRep && o.lowconf, coreSource c, none, false⟩] } } := by
  unfold State.finishOp
  by_cases hs : o.sync = 0 <;> simp [h, hs] <;> rfl

theorem finishOp_core_ne (s : State) {c x : Nat} (o : Op) (st : Nat) (hx : x ≠ c) : (s.finishOp c o st).core x = s.core x := by
  unfold State.finishOp State.setFault State.modSeq
  dsimp only
  split_ifs <;> simp [State.core, Tab.get_set_ne _ _ _ hx]

/-- The op is out of flight, its pending counts have fallen, and a halt finds LAST_FAULT as it was. -/
theorem finishOp_core_ok (s : State) (c : Nat) {o : Op} (h : o.status = 0) :
    (s.finishOp c o 0).core c =
      ({ s.core c with seq := { (s.core c).seq with ops := (s.core c).seq.ops.filter (fun x => x.seq != o.seq) } }).dropPend o.pend := by
  unfold State.finishOp
  by_cases hs : o.sync = 0 <;> simp [h, hs, State.core]

theorem halt_core (s : State) (c i b how : Nat) : (s.halt c i b how).core c = { s.core c with
    state := .halted, seq := { (s.core c).seq with stopReq := none, faultPend := none, openBatch := none } } := by
  simp [State.halt, State.core]

/-- What a halt leaves besides its own core: its record on its way. -/
theorem halt_eq (s : State) (c i b how : Nat) : s.halt c i b how = { s with
    cores := (s.halt c i b how).cores
    ash := { s.ash with inbox := s.ash.inbox ++ [⟨⟨s.time.gtc, coreSource c, 0x0007, [(s.core c).seq.lastFault, i % 4096 + b % 2 * 4096 + how],
      false, false, false, false, 0, 0⟩, none⟩] } } := by
  unfold State.halt
  simp only [State.core_modCore_same]
  rfl

theorem halt_core_ne (s : State) {c x : Nat} (i b how : Nat) (hx : x ≠ c) : (s.halt c i b how).core x = s.core x := by
  simp [State.halt, State.core, Tab.get_set_ne _ _ _ hx]

/-! ## Batches -/

/-- Only a core's analogue settings differ, and of those neither the check settings nor whether a commit waits. -/
structure OnlyBudgets (c : Nat) (s t : State) : Prop where
  own : ∃ a : Ana, t.core c = { s.core c with ana := a } ∧ a.thresh = (s.core c).ana.thresh ∧ a.repeats = (s.core c).ana.repeats ∧
    a.pending = (s.core c).ana.pending
  other : ∀ x, x ≠ c → t.core x = s.core x
  mem : t.mem = s.mem
  engines : t.engines = s.engines
  net : t.net = s.net

theorem OnlyBudgets.refl (c : Nat) (s : State) : OnlyBudgets c s s := ⟨⟨(s.core c).ana, rfl, rfl, rfl, rfl⟩, fun _ _ => rfl, rfl, rfl, rfl⟩

theorem OnlyBudgets.modAna {c : Nat} {s t : State} (h : OnlyBudgets c s t) (f : Ana → Ana)
    (hf : ∀ a, (f a).thresh = a.thresh ∧ (f a).repeats = a.repeats ∧ (f a).pending = a.pending) :
    OnlyBudgets c s (t.modCore c (fun k => { k with ana := f k.ana })) := by
  obtain ⟨⟨a, ha, ht, hr, hp⟩, ho, hm, he, hn⟩ := h
  refine ⟨⟨f a, ?_, (hf a).1.trans ht, (hf a).2.1.trans hr, (hf a).2.2.trans hp⟩, fun x hx => ?_, hm, he, hn⟩
  · rw [State.core_modCore_same, ha]
  · rw [State.core_modCore_ne _ _ hx, ho x hx]

theorem OnlyBudgets.foldl {c : Nat} {s t : State} {α : Type} (l : List α) (f : α → Ana → Ana) (h : OnlyBudgets c s t)
    (hf : ∀ n a, (f n a).thresh = a.thresh ∧ (f n a).repeats = a.repeats ∧ (f n a).pending = a.pending) :
    OnlyBudgets c s (l.foldl (fun t n => t.modCore c (fun k => { k with ana := f n k.ana })) t) := by
  induction l generalizing t with
  | nil => exact h
  | cons n l ih => exact ih (h.modAna (f n) (hf n))

theorem bankBudgets_only (s : State) (c b : Nat) : OnlyBudgets c s (s.bankBudgets c b) := by
  unfold State.bankBudgets
  split
  · exact OnlyBudgets.refl c s
  · refine OnlyBudgets.modAna ?_ (fun a => { a with bankDue := none }) fun _ => ⟨rfl, rfl, rfl⟩
    split
    · exact OnlyBudgets.refl c s
    · exact OnlyBudgets.foldl _ (fun (n : Block) a => { a with
        budget := Tab.set a.budget n.eng n.n
        budgetStaged := Tab.set a.budgetStaged n.eng n.n }) (OnlyBudgets.refl c s) fun _ _ => ⟨rfl, rfl, rfl⟩

/-- What a BATCH that samples bank b makes of the sequencer, where h is the plan header kept for b (R151). -/
def Seq.openNext (q : Seq) (b : Nat) (h : Option PlanHeader) : Seq :=
  let q := { q with closings := if q.openBatch.isSome then q.closings + 1 else q.closings, openBatch := some q.batchNo,
                    batchNo := (q.batchNo + 1) % 2 ^ 32, mapBank := b, inHandler := false }
  if b = q.bank then q else q.switchBank b h

/-- The fields a switch of the plan bank leaves. -/
theorem switchBank_eq (q : Seq) (b : Nat) (h : Option PlanHeader) :
    q.switchBank b h = { q with bank := b, pc := (q.switchBank b h).pc, stopReq := (q.switchBank b h).stopReq,
                                k := (q.switchBank b h).k, s := (q.switchBank b h).s } := by
  unfold Seq.switchBank Seq.init
  cases h with
  | none =>
    dsimp only
    split <;> rfl
  | some h =>
    dsimp only
    split_ifs <;> rfl

theorem openNext_eq (q : Seq) (b : Nat) (h : Option PlanHeader) :
    q.openNext b h = { q with
      closings := if q.openBatch.isSome then q.closings + 1 else q.closings, openBatch := some q.batchNo,
      batchNo := (q.batchNo + 1) % 2 ^ 32, mapBank := b, inHandler := false, bank := b, pc := (q.openNext b h).pc,
      stopReq := (q.openNext b h).stopReq, k := (q.openNext b h).k, s := (q.openNext b h).s } := by
  unfold Seq.openNext
  dsimp only
  by_cases hb : b = q.bank
  · rw [if_pos hb, hb]
  · rw [if_neg hb]
    conv_lhs => rw [switchBank_eq]

theorem batchOp_eq (s : State) (c : Nat) :
    batchOp c s = (((s.anaEffect c).bankBudgets c (s.sampledBank c)).modSeq c
      (fun q => q.openNext (s.sampledBank c) ((((s.anaEffect c).bankBudgets c (s.sampledBank c)).core c).head (s.sampledBank c)))).batchCommitDue c := rfl

@[simp] theorem batchCommitDue_core (s : State) (c x : Nat) : (s.batchCommitDue c).core x = s.core x := rfl

theorem anaEffect_core_ne (s : State) {c x : Nat} (h : x ≠ c) : (s.anaEffect c).core x = s.core x := State.core_modCore_ne s _ h

theorem anaEffect_core (s : State) (c : Nat) :
    ∃ a : Ana, (s.anaEffect c).core c = { s.core c with ana := a } ∧ a.thresh = s.cfg 0x2800 6 ∧ a.repeats = s.cfg 0x2800 7 ∧ a.pending = false := by
  refine ⟨_, State.core_modCore_same s c _, rfl, rfl, ?_⟩
  dsimp only
  split_ifs with h
  · rfl
  · simpa using h

/-- The plan headers are as before. -/
theorem head_budgeted (s : State) (c b i : Nat) : (((s.anaEffect c).bankBudgets c b).core c).head i = (s.core c).head i := by
  obtain ⟨a, ha, -⟩ := anaEffect_core s c
  obtain ⟨a', ha', -⟩ := (bankBudgets_only (s.anaEffect c) c b).own
  rw [ha', ha]
  rfl

end Sys2Proof.Machine

end

section
/-! SUPPORT. The settlement of the issue of HALT, BATCH, ENDB and FENCE (R150-R152), and of the array ops (R142-R145). -/

namespace Sys2Proof.Machine

/-- A HALT that issues in an empty flight: the core halts, its object is updated and its record is on its way. -/
theorem halt_issues {s : State} {c w : Nat} (h : Issues s c 0x01 w) (hops : (s.core c).seq.ops = []) :
    ∃ t : State, exec (.halt c) s = .next t ∧ (t.core c).state = .halted ∧ (t.core c).seq.ops = [] ∧
      t.ash.inbox = s.ash.inbox ++ [⟨⟨s.time.gtc, coreSource c, 0x0007, [(s.core c).seq.lastFault,
        (s.core c).seq.pc % 4096 + (s.core c).seq.bank % 2 * 4096], false, false, false, false, 0, 0⟩, none⟩] ∧
      t.net.syncs = (if syncOf w = 0 then s.net.syncs
        else s.net.syncs ++ [⟨handleObj c (syncOf w), false, 1, 0, false, false, coreSource c, none, false⟩]) ∧
      (∀ x, x ≠ c → t.core x = s.core x) ∧ t.mem = s.mem ∧ t.engines = s.engines ∧ t.counters = s.counters ∧ t.outs = s.outs := by
  obtain ⟨⟨hissuing, -⟩, -⟩ := id h
  have hadv : ((s.advance c).core c).seq.ops = [] := by rw [advance_ops, hops]
  have hpc := advance_issued hissuing
  refine ⟨_, (issue_act h rfl).trans (congrArg Host.Outcome.next (enter_halt_settle hadv)), ?_⟩
  have hcore := finishOp_core_ok ((s.advance c).enter c (syncOf w) false false [] .halt) c
    (o := (s.advance c).newOp c (syncOf w) false false [] .halt) rfl
  have hframe := finishOp_ok ((s.advance c).enter c (syncOf w) false false [] .halt) c
    (o := (s.advance c).newOp c (syncOf w) false false [] .halt) rfl
  refine ⟨?_, ?_, ?_, ?_, fun x hx => ?_, ?_⟩
  · rw [halt_core]
  · rw [halt_core, hcore, enter_core]
    simp [Core.dropPend, hadv]
  · rw [halt_eq, hcore, enter_core, hframe, hpc]
    simp [Core.dropPend]
  · rw [halt_eq, hframe]
    rfl
  · rw [halt_core_ne _ _ _ _ hx, finishOp_core_ne _ _ _ hx, enter_core_ne _ _ _ _ _ _ _ hx, advance_core_ne _ hx]
  · rw [halt_eq, hframe]
    exact ⟨rfl, rfl, rfl, rfl⟩

/-- A BATCH that issues: what it makes of its core, and that it touches nothing else (R151, R152). -/
theorem batch_issues {s : State} {c w : Nat} (h : Issues s c 0x08 w) :
    ∃ t : State, exec (.batch c) s = .next (t.settle c) ∧
      (∃ a : Ana, t.core c = { s.core c with
          ana := a, seq := ((s.advance c).core c).seq.openNext (s.sampledBank c) ((s.core c).head (s.sampledBank c)) } ∧
        a.thresh = s.cfg 0x2800 6 ∧ a.repeats = s.cfg 0x2800 7 ∧ a.pending = false) ∧
      (∀ x, x ≠ c → t.core x = s.core x) ∧ t.mem = s.mem ∧ t.engines = s.engines ∧ t.net = s.net := by
  refine ⟨_, issue_act h (batchOp_eq (s.advance c) c), ?_⟩
  rw [head_budgeted, advance_head, advance_sampledBank]
  obtain ⟨a, ha, hthresh, hrepeats, hpending⟩ := anaEffect_core (s.advance c) c
  obtain ⟨⟨a', ha', ht, hr, hp⟩, hother, hmem, heng, hnet⟩ := bankBudgets_only ((s.advance c).anaEffect c) c (s.sampledBank c)
  rw [ha] at ha' ht hr hp
  refine ⟨⟨a', ?_, ht.trans hthresh, hr.trans hrepeats, hp.trans hpending⟩, fun x hx => ?_, hmem, heng, hnet⟩
  · rw [batchCommitDue_core, State.core_modSeq_same, ha']
    dsimp only
    rw [advance_core_seq]
  · rw [batchCommitDue_core, State.core_modSeq_ne _ _ hx, hother x hx, anaEffect_core_ne _ hx, advance_core_ne _ hx]

/-- Settles O8: the issue of HALT, BATCH, ENDB and FENCE. -/
theorem haltAndBatchOpsIssue : Obligations.HaltAndBatchOpsIssue := by
  unfold Obligations.HaltAndBatchOpsIssue
  refine ⟨fun s c w h => ⟨issue_act h rfl, halt_issues h⟩, fun s c w => ⟨fun h => ?_, fun h ho => issue_act h ?_, fun h ho => issue_act h ?_,
    fun h _ => issue_act h ?_, fun h => issue_act h rfl⟩⟩
  · obtain ⟨t, ht, ⟨a, hc, hthresh, hrepeats, hpending⟩, hother, hmem, heng, hnet⟩ := batch_issues h
    refine ⟨t, ht, ?_, ?_, ?_, ?_, ?_, ?_, ?_, ?_, ?_, hother, hmem, heng, hnet⟩
    all_goals rw [hc]
    · rw [openNext_eq, advance_batchNo]
    · rw [openNext_eq, advance_batchNo]
    · rw [openNext_eq]
    · rw [openNext_eq]
    · rw [openNext_eq]
    · rw [openNext_eq, advance_ops]
    · exact hthresh
    · exact hrepeats
    · exact hpending
  · simp [endbOp, ho]
  · simp [endbOp, ho]
  · rw [batchOp_eq, head_budgeted, advance_head, advance_sampledBank]
    rfl

/-! ## The array ops -/

/-- A test read that an MVM abandons is in its engine only. -/
theorem stopTestRead_frame (s : State) (c e : Nat) : s.stopTestRead c e = { s with engines := (s.stopTestRead c e).engines } := by
  unfold State.stopTestRead
  split
  · split <;> rfl
  · rfl

@[simp] theorem stopTestRead_core (s : State) (c e x : Nat) : (s.stopTestRead c e).core x = s.core x := by
  rw [stopTestRead_frame]
  rfl

/-- The MVM of a word, as the operands read it at issue (R142). -/
def mvmBody (s : State) (c w : Nat) : MvmOp :=
  let k := s.core c
  let e := Tab.get (mvmEng w) (k.map (s.opMap c)) (mvmEng w)
  { leng := mvmEng w, eng := e, tile := mvmTile w + (if bit w 53 then k.offset (mvmKb w) else 0), row := field w 33 3, acc := bit w 48,
    ifmt := field w 49 2, bound := k.bound (mvmKb w), line := (field w 20 13 + (if bit w 54 then k.offset (mvmKb w) else 0)) % 8192,
    inputs := if k.bound (mvmKb w) = 0 then some [] else none, todo := [],
    sums := List.replicate (sliceCount (field w 49 2)) (List.replicate 128 0), clipped := [], refSat := [false, false, false, false],
    adcClip := false, corrClip := false, combClip := false, reads := 0, lowconf := false, lcCause := 0, budget := Tab.get 16 k.ana.budget e,
    thresh := k.ana.thresh, repeats := k.ana.repeats, scale := k.ana.scale }

/-- The MVM enters flight, and a test read that has just begun on its engine is abandoned. -/
def mvmEnters (s : State) (c w : Nat) : State :=
  ((s.advance c).enter c (syncOf w) (bit w 51) (bit w 52) [(mvmBody s c w).tile] (.mvm (mvmBody s c w))).stopTestRead c (mvmBody s c w).eng

theorem mvmOp_eq (s : State) (c w : Nat) :
    mvmOp c w (s.advance c) =
      if (s.core c).bound (mvmKb w) = 0 then (mvmEnters s c w).mvmFinish c (s.core c).seq.nextSeq else mvmEnters s c w := by
  unfold mvmOp mvmEnters mvmBody
  simp only [advance_bound, advance_offset, advance_map, advance_opMap, advance_ana, advance_nextSeq]

/-- The MVM in flight. -/
theorem mvmEnters_ops (s : State) (c w : Nat) :
    ((mvmEnters s c w).core c).seq.ops = (s.core c).seq.ops ++
      [⟨(s.core c).seq.nextSeq, ((s.advance c).core c).seq.issued, (s.core c).seq.bank, s.opMap c, syncOf w, (s.core c).seq.openBatch,
        bit w 51, bit w 52, false, false, 0, .mvm (mvmBody s c w), none, [], [(mvmBody s c w).tile], [], []⟩] := by
  rw [mvmEnters, stopTestRead_core, enter_ops, advance_ops, enter_newOp_advance]
  rfl

theorem mvmEnters_frame (s : State) (c w : Nat) : (mvmEnters s c w).mem = s.mem ∧ (mvmEnters s c w).net = s.net := by
  rw [mvmEnters, stopTestRead_frame]
  exact ⟨rfl, rfl⟩

/-- An op found by its number, where every other one in flight has a lower number. -/
theorem op_of_last {s : State} {c q : Nat} {l : List Op} {o : Op} (hl : (s.core c).seq.ops = l ++ [o]) (ho : o.seq = q)
    (hlow : ∀ y ∈ l, y.seq < q) : s.op c q = some o := by
  have hnone : l.find? (fun y => y.seq == q) = none := by
    rw [List.find?_eq_none]
    intro y hy
    have := hlow y hy
    simp only [beq_iff_eq]
    omega
  rw [State.op, hl, List.find?_append, hnone]
  simp [ho]

/-- An MVM with a zero bound has its row at once, or none in add mode (R139). -/
theorem mvmFinish_zero {s : State} {c w : Nat} (hlow : ∀ y ∈ (s.core c).seq.ops, y.seq < (s.core c).seq.nextSeq) :
    ∃ o : Op, (((mvmEnters s c w).mvmFinish c (s.core c).seq.nextSeq).core c).seq.ops.getLast? = some o ∧ o.seq = (s.core c).seq.nextSeq ∧
      o.rows = if bit w 48 then []
        else [⟨mvmTile w + (if bit w 53 then (s.core c).offset (mvmKb w) else 0), field w 33 3, false, false, 128, []⟩] := by
  unfold State.mvmFinish
  rw [op_of_last (mvmEnters_ops s c w) rfl hlow]
  refine ⟨_, getLast?_modOp _ c _ _ _ (by rw [mvmEnters_ops, List.getLast?_concat]), ?_⟩
  rw [if_pos rfl]
  exact ⟨rfl, rfl⟩

theorem modOp_frame (s : State) (c q : Nat) (f : Op → Op) : (s.modOp c q f).mem = s.mem ∧ (s.modOp c q f).net = s.net := ⟨rfl, rfl⟩

theorem mvmFinish_frame (s : State) (c q : Nat) : (s.mvmFinish c q).mem = s.mem ∧ (s.mvmFinish c q).net = s.net := by
  unfold State.mvmFinish
  split
  · split <;> exact ⟨rfl, rfl⟩
  · exact ⟨rfl, rfl⟩

/-- The DRAIN of a word, as the operands and the descriptor line are read at issue (R143). -/
def drainBody (s : State) (c w : Nat) : DrainOp :=
  let k := s.core c
  let off := if bit w 55 then k.offset (kbOf w) else 0
  let desc := s.abBytes c (lineOf w) 0 64
  let f := fun i n => fromLE ((desc.drop i).take n)
  let leak := f 0x0A 1
  { tile := drainTile w + off, row0 := drainRow0 w, n := k.bound (kbOf w), act := field w 52 3, fuse := field w 50 2, clear := bit w 48,
    pool := field w 46 2, ofmt := field w 43 3, dest := (f 0 2 % 8192 + off * f 2 2) % 8192, param := f 4 2 % 8192,
    fusel := (f 6 2 % 8192 + off * f 8 2) % 8192, leak := if leak = 0 ∨ 8 < leak then 1 else leak, mean := bit (f 0x0B 1) 0,
    scale := bit (f 0x0C 1) 0, bias := bit (f 0x0D 1) 0, started := false }

theorem advance_abBytes (s : State) (c line off n : Nat) : (s.advance c).abBytes c line off n = s.abBytes c line off n := rfl

theorem advance_abPoisoned (s : State) (c line off n : Nat) : (s.advance c).abPoisoned c line off n = s.abPoisoned c line off n := rfl

/-- The DRAIN as it enters flight. -/
def drainEnters (s : State) (c w : Nat) : State :=
  (s.advance c).enter c (syncOf w) (bit w 49) false [] (.drain (drainBody s c w))

theorem drainOp_eq {s : State} {c w : Nat} (hb : 0 < (s.core c).bound (kbOf w)) :
    drainOp c w (s.advance c) =
      if s.abPoisoned c (lineOf w) 0 64 then (drainEnters s c w).modOp c (s.core c).seq.nextSeq (fun o => { o with status := 4 })
      else drainEnters s c w := by
  unfold drainOp drainEnters drainBody
  simp only [advance_bound, advance_offset, advance_nextSeq, advance_abBytes, advance_abPoisoned, if_neg (Nat.ne_of_gt hb)]
  rfl

/-- A DRAIN that issues: the op in flight, its status and its operands. -/
theorem drain_issues {s : State} {c w : Nat} (h : Issues s c 0x11 w) (hb : 0 < (s.core c).bound (kbOf w)) :
    ∃ (t : State) (d : DrainOp) (st : Nat), exec (.drain c) s = .next (t.settle c) ∧
      (t.core c).seq.ops.getLast? = some ⟨(s.core c).seq.nextSeq, (s.advance c |>.core c).seq.issued, (s.core c).seq.bank, s.opMap c, syncOf w,
        (s.core c).seq.openBatch, bit w 49, false, false, false, st, .drain d, none, [], [], [], []⟩ ∧
      st = poisonStatus (s.abPoisoned c (lineOf w) 0 64) ∧
      d.tile = drainTile w + (if bit w 55 then (s.core c).offset (kbOf w) else 0) ∧ d.row0 = drainRow0 w ∧ d.n = (s.core c).bound (kbOf w) ∧
      d.act = field w 52 3 ∧ d.fuse = field w 50 2 ∧ d.clear = bit w 48 ∧ d.pool = field w 46 2 ∧ d.ofmt = field w 43 3 ∧
      d.started = false ∧ t.mem = s.mem ∧ t.net = s.net := by
  have hlast : ((drainEnters s c w).core c).seq.ops.getLast? =
      some ⟨(s.core c).seq.nextSeq, (s.advance c |>.core c).seq.issued, (s.core c).seq.bank, s.opMap c, syncOf w,
        (s.core c).seq.openBatch, bit w 49, false, false, false, 0, .drain (drainBody s c w), none, [], [], [], []⟩ := by
    rw [drainEnters, enter_ops, List.getLast?_concat, enter_newOp_advance]
    rfl
  cases hp : s.abPoisoned c (lineOf w) 0 64 with
  | false =>
    exact ⟨drainEnters s c w, drainBody s c w, 0, issue_act h (by rw [drainOp_eq hb, hp, if_neg Bool.false_ne_true]), hlast, rfl,
      rfl, rfl, rfl, rfl, rfl, rfl, rfl, rfl, rfl, rfl, rfl⟩
  | true =>
    exact ⟨_, drainBody s c w, 4, issue_act h (by rw [drainOp_eq hb, hp, if_pos rfl]),
      (getLast?_modOp _ c _ _ _ hlast).trans (congrArg some (if_pos rfl)), rfl, rfl, rfl, rfl, rfl, rfl, rfl, rfl, rfl, rfl, rfl, rfl⟩

/-- Settles O9: the issue of MVM, DRAIN, DMM and VOP. -/
theorem arrayOpsIssue : Obligations.ArrayOpsIssue := by
  unfold Obligations.ArrayOpsIssue
  intro s c w
  refine ⟨fun h hb => ?_, drain_issues, fun h hb hlow => ?_, fun h hb => issue_act h ?_, fun h => issue_act h ?_, fun h => issue_act h ?_⟩
  · refine ⟨mvmEnters s c w, mvmBody s c w, issue_act h (by rw [mvmOp_eq, if_neg (Nat.ne_of_gt hb)]), ?_, rfl, rfl, rfl, rfl, rfl, rfl, rfl,
      if_neg (Nat.ne_of_gt hb), rfl, rfl, rfl, mvmEnters_frame s c w⟩
    rw [mvmEnters_ops, List.getLast?_concat]
    rfl
  · obtain ⟨o, ho⟩ := mvmFinish_zero (w := w) hlow
    obtain ⟨hmem, hnet⟩ := mvmEnters_frame s c w
    obtain ⟨hmem', hnet'⟩ := mvmFinish_frame (mvmEnters s c w) c (s.core c).seq.nextSeq
    exact ⟨_, o, issue_act h (by rw [mvmOp_eq, if_pos hb]), ho.1, ho.2.1, ho.2.2, hmem'.trans hmem, hnet'.trans hnet⟩
  · simp [drainOp, hb]
  · simp [dmmOp]
  · simp [vopOp]

end Sys2Proof.Machine
end

section
/-! SUPPORT. The order of R275: what a write of an object answers at each of its steps, and a read of the EtherCAT mailbox; with them the settlement
of the order of the checks. -/

namespace Sys2Proof.Machine

variable {s t : State} {ses idx sub : Nat} {data : List Byte} {r : OdRow}

/-- A refused write that leaves the object's row as it was: the session gets the code. -/
theorem State.hostWrite_refusedAs {a : Nat} (hr : s.reachable ses = true) (hs : s.serves = true) (ha : a ≠ 0)
    (hlong : t.longObject idx sub = s.longObject idx sub) (hw : s.odWrite ses idx sub data = (a, t)) :
    s.hostWrite ses idx sub data = t.refuse ses idx sub a := by
  rw [State.hostWrite_of hr hs hw]
  simp [State.refuse, ha, hlong]

/-- R275 step 1. -/
theorem State.odWrite_noObject (hrow : s.row idx sub = none) :
    s.odWrite ses idx sub data = (if odExists s.part idx then 0x06090011 else 0x06020000, s) := by
  simp [State.odWrite, hrow]

/-- R275 step 2. -/
theorem State.odWrite_readOnly (hrow : s.row idx sub = some r) (hacc : r.acc = .ro) : s.odWrite ses idx sub data = (0x06010002, s) := by
  simp [State.odWrite, hrow, hacc]

/-- R275 step 4. -/
theorem State.odWrite_badLength (hrow : s.row idx sub = some r) (hacc : r.acc ≠ .ro)
    (hp : s.needPriv idx sub (fromLE data) r ≤ (s.session ses).level) (hl : r.lengthOk data.length = false) :
    s.odWrite ses idx sub data = (0x06070010, s) := by
  simp [State.odWrite, hrow, hacc, Nat.not_lt.mpr hp, hl]

/-- R275 step 5: another session's claim. -/
theorem State.writeChecked_claimed (hset : r.set = true) (hc : s.claimedByOther ses = true) :
    s.writeChecked ses idx sub data r = (0x08000022, s.setResult 6) := by
  simp [State.writeChecked, hset, hc]

/-- R275 step 5: a commit waits, or the shadow is reloaded. -/
theorem State.writeChecked_busy (hset : r.set = true) (hc : s.claimedByOther ses = false) (hst : s.sets.state ≠ 0) :
    s.writeChecked ses idx sub data r = (0x08000022, s) := by
  simp [State.writeChecked, hset, hc, hst]

/-- The claim and the state of the sets do not hinder the write. -/
def SetsFree (s : State) (ses : Ses) (r : OdRow) : Prop := r.set = true → s.claimedByOther ses = false ∧ s.sets.state = 0

/-- The string object has no step 6 or 7. -/
theorem State.writeChecked_string (hf : SetsFree s ses r) (hsz : r.size = 0) :
    s.writeChecked ses idx sub data r = (0, { s with sets := { s.sets with nqnShadow := data } }) := by
  cases hset : r.set with
  | false => simp [State.writeChecked, hset, hsz]
  | true => simp [State.writeChecked, hset, hsz, hf hset]

/-- Past step 5 of R275: the device state, the range, the mapping, an error in the hub keep, and the effect. -/
theorem State.writeChecked_free (hf : SetsFree s ses r) (hsz : r.size ≠ 0) :
    s.writeChecked ses idx sub data r =
      if !s.stateAllows idx sub (fromLE data) then (0x08000022, s)
      else if !s.inRange idx sub (fromLE data) r then (0x06090030, s)
      else if s.mappingAbort idx sub (fromLE data) ≠ 0 then (s.mappingAbort idx sub (fromLE data), s)
      else if !r.set && s.keepBad idx sub r then (0x06060000, s.metBad idx sub)
      else if r.set then (0, s.writeSetting ses idx sub (fromLE data) r)
      else (0, s.writeDirect ses idx sub (Nat.land (fromLE data) r.mask)) := by
  cases hset : r.set with
  | false => simp [State.writeChecked, hset, hsz]
  | true => simp [State.writeChecked, hset, hsz, hf hset]

/-! ## Reads by the mailbox -/

/-- An upload whose read answers at once. -/
theorem State.mailbox_upload {a : Reply} (hr : s.reachable 1 = true) (hs : s.serves = true)
    (ho : ({ s with ecat := { s.ecat with mailError := 0 } } : State).odRead 1 idx sub = (a, t)) :
    exec (.mailboxRequest (.upload idx sub)) s = .next (t.giveReply 1 a) := by
  have hr' : ({ s with ecat := { s.ecat with mailError := 0 } } : State).reachable 1 = true := hr
  have hs' : ({ s with ecat := { s.ecat with mailError := 0 } } : State).serves = true := hs
  show Host.Outcome.next (s.mailbox (.upload idx sub)) = _
  unfold State.mailbox State.hostRead State.readObject
  simp [hr, hr', hs', ho]

/-- Settles O43: each step of R275 in its order, then the effect; a read by the mailbox. -/
theorem writesCheckedInOrder : Obligations.WritesCheckedInOrder := by
  unfold Obligations.WritesCheckedInOrder
  intro s ses idx sub data hr
  refine ⟨fun hs hrow hex => ?_, fun hs hrow hex => ?_, fun r hs hrow => ?_, fun h1 hs => ?_⟩
  · exact congrArg _ (State.hostWrite_refused hr hs (by decide) (by rw [State.odWrite_noObject hrow, hex]; rfl))
  · exact congrArg _ (State.hostWrite_refused hr hs (by decide) (by rw [State.odWrite_noObject hrow, hex]; rfl))
  · have refused {t : State} {a : Nat} (ha : a ≠ 0) (hlong : t.longObject idx sub = s.longObject idx sub)
        (hw : s.odWrite ses idx sub data = (a, t)) : exec (.objectWrite ses idx sub data) s = .next (t.refuse ses idx sub a) :=
      congrArg _ (State.hostWrite_refusedAs hr hs ha hlong hw)
    have accepted {t : State} (hw : s.odWrite ses idx sub data = (0, t)) :
        exec (.objectWrite ses idx sub data) s = .next (t.giveReply ses ⟨0, []⟩) :=
      congrArg _ (State.hostWrite_done hr hs hw)
    refine ⟨fun hacc => ?_, fun hacc hp => ?_, fun hacc hp hl => ?_, fun ho hm hset hc => ?_, fun ho hm hset hc hst => ?_,
      fun hm hf hsz ha => ?_, fun hm hf hsz ha hi => ?_, fun hm hf hsz ha hi hn => ?_, fun hm hf hsz ha hi hn => ?_, fun hm hf hsz => ?_⟩
    · exact refused (by decide) rfl (State.odWrite_readOnly hrow hacc)
    · exact refused (by decide) rfl (State.odWrite_unprivileged hrow hacc hp)
    · exact refused (by decide) rfl (State.odWrite_badLength hrow hacc hp hl)
    all_goals
      obtain ⟨hacc, hp, hl⟩ := hm
    · exact refused (by decide) rfl ((State.odWrite_checked hrow hacc hp hl ho).trans (State.writeChecked_claimed hset hc))
    · exact refused (by decide) rfl ((State.odWrite_checked hrow hacc hp hl ho).trans (State.writeChecked_busy hset hc hst))
    all_goals
      obtain ⟨ho, hf⟩ := hf
      have hw := State.odWrite_checked (ses := ses) hrow hacc hp hl ho
    · exact refused (by decide) rfl (hw.trans (by simp [State.writeChecked_free hf hsz, ha]))
    · exact refused (by decide) rfl (hw.trans (by simp [State.writeChecked_free hf hsz, ha, hi]))
    · exact refused hn rfl (hw.trans (by simp [State.writeChecked_free hf hsz, ha, hi, hn]))
    · refine ⟨fun hset hk => ?_, fun hset => ?_, fun hset hk => ?_⟩
      · exact refused (by decide) rfl (hw.trans (by simp [State.writeChecked_free hf hsz, ha, hi, hn, hset, hk]))
      · exact accepted (hw.trans (by simp [State.writeChecked_free hf hsz, ha, hi, hn, hset, State.writeSetting]))
      · exact accepted (hw.trans (by simp [State.writeChecked_free hf hsz, ha, hi, hn, hset, hk]))
    · exact accepted (hw.trans (State.writeChecked_string hf hsz))
  · subst h1
    refine ⟨fun hrow hex => ?_, fun hrow hex => ?_, fun r hrow hacc => ?_, fun r hrow hacc hk => ?_⟩
    all_goals
      have hrow' : ({ s with ecat := { s.ecat with mailError := 0 } } : State).row idx sub = s.row idx sub := rfl
      refine State.mailbox_upload hr hs ?_
    · simp [State.odRead, hrow', hrow, hex]
    · simp [State.odRead, hrow', hrow, hex]
    · simp [State.odRead, hrow', hrow, hacc]
    · have hk' : ({ s with ecat := { s.ecat with mailError := 0 } } : State).keepBad idx sub r = true := hk
      simp [State.odRead, hrow', hrow, hacc, hk']

end Sys2Proof.Machine
end

section
/-! SUPPORT. The bytes of a record (R322, Table 12.3), the range that a copy of memory takes from another, and where a record goes; with them the
settlement of how records are laid down. -/

namespace Sys2Proof.Machine

/-! ## Lists of a fixed length -/

@[simp] theorem length_fit {α : Type} (n : Nat) (d : α) (l : List α) : (fit n d l).length = n := by
  simp only [fit, List.length_take, List.length_append, List.length_replicate]
  omega

/-- A part that stands in a list stands at the same place in its filled form. -/
theorem fit_part {α : Type} {n : Nat} {d : α} {l a b z : List α} (hl : l = a ++ b ++ z) (hn : l.length ≤ n) :
    ((fit n d l).drop a.length).take b.length = b := by
  have hfit : fit n d l = a ++ (b ++ (z ++ List.replicate (n - l.length) d)) := by
    unfold fit
    rw [List.take_of_length_le (by simp only [List.length_append, List.length_replicate]; omega), hl]
    simp only [List.append_assoc]
  rw [hfit, List.drop_left, List.take_left]

/-- The word at place i of words laid down one after the other. -/
theorem flatMap_toLE_split {k : Nat} {l : List Nat} {i v : Nat} (h : l[i]? = some v) :
    ∃ a z : List Byte, l.flatMap (toLE k) = a ++ toLE k v ++ z ∧ a.length = k * i := by
  obtain ⟨hi, rfl⟩ := List.getElem?_eq_some_iff.mp h
  refine ⟨(l.take i).flatMap (toLE k), (l.drop (i + 1)).flatMap (toLE k), ?_, ?_⟩
  · rw [List.append_assoc, ← List.flatMap_cons, ← List.flatMap_append, ← List.drop_eq_getElem_cons hi, List.take_append_drop]
  · rw [List.length_flatMap]
    simp [Nat.min_eq_left hi.le, Nat.mul_comm]

/-! ## A record's bytes -/

/-- What a record's bytes hold before the zero fill (Table 12.3). -/
def Rec.content (r : Rec) : List Byte :=
  toLE 8 r.gtc ++ toLE 2 r.src ++ toLE 2 r.code ++ toLE 1 r.payload.length ++ toLE 1 (packBits [r.supp, r.trunc, r.held, r.late]) ++
    toLE 2 r.seq ++ r.payload.flatMap (toLE 4)

theorem Rec.bytes_eq (r : Rec) : r.bytes = fit (recSize r.payload.length) 0 r.content := rfl

theorem Rec.length_content (r : Rec) : r.content.length = 16 + 4 * r.payload.length := by
  simp only [Rec.content, List.length_append, length_toLE, List.length_flatMap, List.map_const', List.sum_replicate]
  simp [Nat.mul_comm]

/-- A record's size is the next multiple of 16. -/
theorem recSize_bounds (n : Nat) : recSize n % 16 = 0 ∧ 16 + 4 * n ≤ recSize n ∧ recSize n < 16 + 4 * n + 16 := by
  unfold recSize ceilDiv
  omega

/-- A part of the content stands in the bytes. -/
theorem Rec.bytes_part (r : Rec) {a b z : List Byte} (h : r.content = a ++ b ++ z) : (r.bytes.drop a.length).take b.length = b := by
  rw [Rec.bytes_eq]
  refine fit_part h ?_
  rw [r.length_content]
  exact (recSize_bounds _).2.1

/-- The fields of a record's head, and its payload words, as its bytes give them. -/
theorem Rec.bytes_fields (r : Rec) (hlen : r.payload.length ≤ 32) :
    fromLE (r.bytes.take 8) = r.gtc % 2 ^ 64 ∧ fromLE ((r.bytes.drop 8).take 2) = r.src % 65536 ∧
    fromLE ((r.bytes.drop 10).take 2) = r.code % 65536 ∧ fromLE ((r.bytes.drop 12).take 1) = r.payload.length ∧
    fromLE ((r.bytes.drop 14).take 2) = r.seq % 65536 ∧
    ∀ i v, r.payload[i]? = some v → fromLE ((r.bytes.drop (16 + 4 * i)).take 4) = v % 2 ^ 32 := by
  have part {a b z : List Byte} {i k v : Nat} (h : r.content = a ++ b ++ z) (hb : b = toLE k v) (hi : a.length = i) :
      fromLE ((r.bytes.drop i).take k) = v % 256 ^ k := by
    have hp := r.bytes_part h
    rw [hb, length_toLE, hi] at hp
    rw [hp, fromLE_toLE]
  refine ⟨part (a := []) (k := 8) (v := r.gtc) (by simp only [Rec.content, List.append_assoc, List.nil_append]; rfl) rfl rfl,
    part (a := toLE 8 r.gtc) (k := 2) (v := r.src) (by simp only [Rec.content, List.append_assoc]; rfl) rfl (by simp),
    part (a := toLE 8 r.gtc ++ toLE 2 r.src) (k := 2) (v := r.code) (by simp only [Rec.content, List.append_assoc]; rfl) rfl (by simp),
    (part (a := toLE 8 r.gtc ++ toLE 2 r.src ++ toLE 2 r.code) (k := 1) (v := r.payload.length)
      (by simp only [Rec.content, List.append_assoc]; rfl) rfl (by simp)).trans (Nat.mod_eq_of_lt (by omega)),
    part (a := toLE 8 r.gtc ++ toLE 2 r.src ++ toLE 2 r.code ++ toLE 1 r.payload.length ++ toLE 1 (packBits [r.supp, r.trunc, r.held, r.late]))
      (k := 2) (v := r.seq) (by simp only [Rec.content, List.append_assoc]; rfl) rfl (by simp), fun i v hv => ?_⟩
  obtain ⟨a, z, hsplit, ha⟩ := flatMap_toLE_split (k := 4) hv
  refine part (a := toLE 8 r.gtc ++ toLE 2 r.src ++ toLE 2 r.code ++ toLE 1 r.payload.length ++
    toLE 1 (packBits [r.supp, r.trunc, r.held, r.late]) ++ toLE 2 r.seq ++ a) (k := 4) (v := v) (z := z) ?_ rfl ?_
  · rw [Rec.content, hsplit]
    simp only [List.append_assoc]
  · simp only [List.length_append, length_toLE, ha]

/-! ## The copy of a segment -/

theorem Mem.read_append_of_absent {m n : Mem} {x : Nat} (h : ∀ c ∈ m, c.1 ≠ x) : Mem.read (m ++ n) x = Mem.read n x := by
  induction m with
  | nil => rfl
  | cons c m ih =>
    rw [List.cons_append, Mem.read, if_neg (h c List.mem_cons_self)]
    exact ih fun e he => h e (List.mem_cons_of_mem _ he)

/-- An address of a range reads as in the memory that the range was taken from, where nothing behind it lists the address. -/
theorem Mem.read_keepRange_append {m n : Mem} {lo hi x : Nat} (hlo : lo ≤ x) (hhi : x < hi) (hn : Mem.read n x = 0) :
    Mem.read (Mem.keepRange m lo hi ++ n) x = Mem.read m x := by
  induction m with
  | nil => exact hn
  | cons c m ih =>
    obtain ⟨k, b⟩ := c
    unfold Mem.keepRange at ih ⊢
    rw [Mem.read]
    by_cases hk : k = x
    · subst hk
      rw [List.filter_cons_of_pos (by simp [hlo, hhi]), List.cons_append, Mem.read, if_pos rfl, if_pos rfl]
    · rw [if_neg hk, ← ih, List.filter_cons]
      split
      · rw [List.cons_append, Mem.read, if_neg hk]
      · rfl

theorem Mem.read_of_absent {m : Mem} {x : Nat} (h : ∀ c ∈ m, c.1 ≠ x) : Mem.read m x = 0 := by
  have := Mem.read_append_of_absent (n := []) h
  rwa [List.append_nil] at this

/-- Within the range taken, a copy reads as its source. -/
theorem Mem.read_take_in (m src : Mem) {lo hi x : Nat} (hlo : lo ≤ x) (hhi : x < hi) : Mem.read (Mem.take m src lo hi) x = Mem.read src x := by
  unfold Mem.take
  rw [List.append_assoc, Mem.read_append_of_absent, Mem.read_keepRange_append hlo hhi]
  · refine Mem.read_of_absent fun c hc => ?_
    have := of_decide_eq_true (List.mem_filter.mp hc).2
    omega
  · intro c hc
    have := (List.mem_filter.mp hc).2
    simp only [Bool.and_eq_true, decide_eq_true_eq] at this
    omega

/-! ## Counters -/

/-- What a counter shows after a count depends on what it showed before, on the part and on the active set only. -/
theorem State.count_bumpBy_congr {s t : State} (idx sub n : Nat) (hpart : t.part = s.part) (hsets : t.sets.active = s.sets.active)
    (hcount : t.counters = s.counters) : (t.bumpBy idx sub n).count idx sub = (s.bumpBy idx sub n).count idx sub := by
  have hrow : t.row idx sub = s.row idx sub := by simp only [State.row, hpart, hsets]
  have hc : t.count idx sub = s.count idx sub := by simp only [State.count, State.dflt, hrow, hcount]
  unfold State.bumpBy
  rw [State.count_setCount_same, State.count_setCount_same, hrow, hc]

/-! ## Where a record goes -/

/-- What follows a record's bytes: the stamps, the telemetry and the count. -/
def State.recordDone (s : State) (r : Rec) (first : Prop) [Decidable first] : State :=
  (({ s with ash := { s.ash with lastGtc := r.gtc, firstGtc := if first then r.gtc else s.ash.firstGtc } } : State).toTelemetry r).bump 0x2A00 7

/-- A record that fits goes behind the last of the founding area. -/
theorem State.writeRecord_found {s : State} {r : Rec} (h : s.ash.foundFill + recSize r.payload.length ≤ foundSize) :
    s.writeRecord r = (s.foundPut r.bytes).recordDone r (s.ash.foundFill = 0) := by
  have hpad : ¬ (s.ash.foundFill < foundSize ∧ foundSize < s.ash.foundFill + recSize r.payload.length) := by omega
  unfold State.writeRecord
  simp only [if_neg hpad, if_pos h]
  rfl

/-- Once the founding area is full, a record goes to the head of the rolling area. -/
theorem State.writeRecord_roll {s : State} {r : Rec} (hfull : s.ash.foundFill = foundSize)
    (hend : s.ash.rollHead + recSize r.payload.length ≤ rollSize) (hroom : s.ash.rollUsed + recSize r.payload.length ≤ rollSize) :
    s.writeRecord r = (s.rollPut r.bytes).recordDone r (s.ash.foundFill = 0) := by
  have hsize := (recSize_bounds r.payload.length).2.1
  have hmake : s.makeRoom (recSize r.payload.length) 16 = s := by
    rw [State.makeRoom, if_pos hroom]
  have hpad : ¬ (s.ash.foundFill < foundSize ∧ foundSize < s.ash.foundFill + recSize r.payload.length) := by omega
  have hno : ¬ s.ash.foundFill + recSize r.payload.length ≤ foundSize := by omega
  have hgap : ¬ rollSize < s.ash.rollHead + recSize r.payload.length := by omega
  unfold State.writeRecord
  simp only [if_neg hpad, if_neg hno, if_neg hgap, hmake]
  rfl

theorem State.toTelemetry_frame (s : State) (r : Rec) : s.toTelemetry r = { s with telem := (s.toTelemetry r).telem } := by
  unfold State.toTelemetry
  split <;> rfl

/-- What follows a record's bytes changes the stamps, the telemetry and the counters only. -/
theorem State.recordDone_frame (s : State) (r : Rec) (first : Prop) [Decidable first] :
    s.recordDone r first = { s with
      ash := { s.ash with lastGtc := r.gtc, firstGtc := if first then r.gtc else s.ash.firstGtc }
      telem := (s.recordDone r first).telem, counters := (s.recordDone r first).counters } := by
  unfold State.recordDone
  rw [State.toTelemetry_frame]
  rfl

theorem State.count_recordDone {s t : State} (r : Rec) (first : Prop) [Decidable first] (hpart : t.part = s.part)
    (hsets : t.sets.active = s.sets.active) (hcount : t.counters = s.counters) :
    (t.recordDone r first).count 0x2A00 7 = (s.bump 0x2A00 7).count 0x2A00 7 := by
  unfold State.recordDone
  rw [State.toTelemetry_frame]
  exact State.count_bumpBy_congr 0x2A00 7 1 hpart hsets hcount

/-- Bytes in the founding area: a segment that is not full stays out of the hub keep. -/
theorem State.foundPut_frame (s : State) (bs : List Byte) :
    s.foundPut bs = { s.poke (foundBase + s.ash.foundFill) bs with
      ash := { s.ash with foundFill := s.ash.foundFill + bs.length }, keep := (s.foundPut bs).keep } := by
  unfold State.foundPut
  dsimp only
  split <;> rfl

theorem State.foundPut_keep_open {s : State} {bs : List Byte} (h : s.ash.foundFill / 65536 = (s.ash.foundFill + bs.length) / 65536) :
    (s.foundPut bs).keep = s.keep := by
  unfold State.foundPut
  dsimp only
  rw [if_pos h]
  rfl

/-- A full segment of the founding area is in the hub keep as it stands in memory. -/
theorem State.foundPut_keep_full {s : State} {bs : List Byte} (h : s.ash.foundFill / 65536 ≠ (s.ash.foundFill + bs.length) / 65536) {x : Nat}
    (hlo : foundBase + s.ash.foundFill / 65536 * 65536 ≤ x) (hhi : x < foundBase + s.ash.foundFill / 65536 * 65536 + 65536) :
    Mem.read (s.foundPut bs).keep.ash x = Mem.read (s.foundPut bs).mem x := by
  unfold State.foundPut
  dsimp only
  rw [if_neg h]
  exact Mem.read_take_in _ _ hlo hhi

theorem State.rollPut_frame (s : State) (bs : List Byte) :
    s.rollPut bs = { s.poke (rollBase + s.ash.rollHead) bs with
      ash := { s.ash with rollHead := (s.ash.rollHead + bs.length) % rollSize, rollUsed := s.ash.rollUsed + bs.length }
      keep := (s.rollPut bs).keep } := by
  unfold State.rollPut
  dsimp only
  split_ifs <;> rfl

/-- Settles O58: the bytes by `Rec.bytes_fields`; a record in the founding area and in the rolling area by its one write. -/
theorem recordsAreLaidDown : Obligations.RecordsAreLaidDown := by
  unfold Obligations.RecordsAreLaidDown
  intro s r hlen
  have hbytes : r.bytes.length = recSize r.payload.length := length_fit _ _ _
  obtain ⟨hmod, hge, hlt⟩ := recSize_bounds r.payload.length
  obtain ⟨hgtc, hsrc, hcode, hn, hseq, hpayload⟩ := r.bytes_fields hlen
  refine ⟨hbytes, hmod, hge, hlt, hgtc, hsrc, hcode, hn, hseq, hpayload, fun hok hfit => ?_, fun hok hfull hend hroom => ?_⟩
  · have hmem : (s.writeRecord r).mem = (s.poke (foundBase + s.ash.foundFill) r.bytes).mem := by
      rw [State.writeRecord_found hfit, State.recordDone_frame, State.foundPut_frame]
    refine ⟨fun x => ?_, ?_, ?_, ?_, ?_, fun hseg x hlo hhi => ?_, fun hseg => ?_⟩
    · rw [hmem, State.read_poke _ _ _ hok, hbytes]
    all_goals rw [State.writeRecord_found hfit]
    · rw [State.recordDone_frame, State.foundPut_frame, hbytes]
    · rw [State.recordDone_frame, State.foundPut_frame]
    · rw [State.recordDone_frame]
    · apply State.count_recordDone <;> rw [State.foundPut_frame] <;> rfl
    · rw [State.recordDone_frame]
      exact State.foundPut_keep_full (by rwa [hbytes]) hlo hhi
    · rw [State.recordDone_frame]
      exact State.foundPut_keep_open (by rwa [hbytes])
  · have hmem : (s.writeRecord r).mem = (s.poke (rollBase + s.ash.rollHead) r.bytes).mem := by
      rw [State.writeRecord_roll hfull hend hroom, State.recordDone_frame, State.rollPut_frame]
    refine ⟨fun x => ?_, ?_, ?_, ?_, ?_⟩
    · rw [hmem, State.read_poke _ _ _ hok, hbytes]
    all_goals rw [State.writeRecord_roll hfull hend hroom]
    · rw [State.recordDone_frame, State.rollPut_frame]
    · rw [State.recordDone_frame, State.rollPut_frame, hbytes]
    · rw [State.recordDone_frame, State.rollPut_frame, hbytes]
    · apply State.count_recordDone <;> rw [State.rollPut_frame] <;> rfl

end Sys2Proof.Machine
end

section
/-! SUPPORT. How a record reaches the recorder (R323, R325, R326, R328): the rate limit, where an accepted record goes, and the sort stage; with them
the settlement of the records that reach the areas. -/

namespace Sys2Proof.Machine

/-! ## The suppressed count a record carries -/

@[simp] theorem Rec.carry_gtc (r : Rec) (n : Nat) : (r.carry n).gtc = r.gtc := by
  unfold Rec.carry
  split <;> rfl

theorem Rec.carry_withGtc (r : Rec) (n t : Nat) : ({ r with gtc := t } : Rec).carry n = { r.carry n with gtc := t } := by
  unfold Rec.carry
  split <;> rfl

theorem Rec.length_carry {r : Rec} (n : Nat) (h : r.payload.length ≤ 32) : (r.carry n).payload.length ≤ 32 := by
  unfold Rec.carry
  split
  · exact h
  · exact (List.length_take_le ..)

/-! ## The rate limit -/

/-- The recorder behind a record of source `src` in bucket b that passed the rate limit. -/
def Ashpit.paid (a : Ashpit) (b tok src : Nat) : Ashpit :=
  { a with tokens := Tab.set a.tokens b (tok - 1), supp := Tab.set a.supp b 0, seqs := Tab.set a.seqs src ((Tab.get 0 a.seqs src + 1) % 65536) }

/-- A bucket with a token lets the record pass. -/
theorem State.limit_passes {s : State} {r : Rec} (hcode : 5 < r.code) (htok : 0 < s.tokensOf (bucketOf r.code)) :
    s.limit r = (some { r.carry (Tab.get 0 s.ash.supp (bucketOf r.code)) with seq := Tab.get 0 s.ash.seqs r.src },
      { s with ash := s.ash.paid (bucketOf r.code) (s.tokensOf (bucketOf r.code)) r.src }) := by
  unfold State.limit
  simp only [if_neg (Nat.not_le.mpr hcode), if_neg (Nat.ne_of_gt htok)]
  rfl

/-- An empty bucket suppresses it. -/
theorem State.limit_suppresses {s : State} {r : Rec} (hcode : 5 < r.code) (htok : s.tokensOf (bucketOf r.code) = 0) :
    s.limit r = (none, ({ s with ash := { s.ash with
      supp := Tab.set s.ash.supp (bucketOf r.code) (Tab.get 0 s.ash.supp (bucketOf r.code) + 1) } } : State).bump 0x2A00 9) := by
  unfold State.limit
  simp only [if_neg (Nat.not_le.mpr hcode), if_pos htok]

/-! ## Where an accepted record goes -/

/-- The record with its LATE mark (R323). -/
def State.marked (s : State) (r : Rec) : Rec := { r with late := decide (r.gtc + 1000000 < s.time.gtc) }

/-- The suppressed count changes nothing about the LATE mark. -/
theorem State.marked_carry (s : State) (r : Rec) (k n : Nat) :
    s.marked { r.carry k with seq := n } = { r.carry k with seq := n, late := decide (r.gtc + 1000000 < s.time.gtc) } := by
  simp only [State.marked, Rec.carry_gtc]

theorem State.acceptRecord_sorted {s : State} {r : Rec} (hc : s.ash.checkpoint = false) (hw : s.pwr.watch = false)
    (hl : s.time.gtc ≤ r.gtc + 1000000) : s.acceptRecord r = { s with ash := { s.ash with sort := insertRec (s.marked r) s.ash.sort } } := by
  simp [State.acceptRecord, hc, hw, Nat.not_lt.mpr hl, State.marked]

theorem State.acceptRecord_late {s : State} {r : Rec} (hc : s.ash.checkpoint = false) (hw : s.pwr.watch = false)
    (hl : r.gtc + 1000000 < s.time.gtc) : s.acceptRecord r = s.leaveSort (s.marked r) := by
  simp [State.acceptRecord, hc, hw, hl, State.marked]

theorem State.acceptRecord_checkpoint {s : State} (r : Rec) (hc : s.ash.checkpoint = true) : s.acceptRecord r = s.holdRecord (s.marked r) := by
  simp [State.acceptRecord, hc, State.marked]

theorem State.acceptRecord_watch {s : State} (r : Rec) (hc : s.ash.checkpoint = false) (hw : s.pwr.watch = true) :
    s.acceptRecord r = s.retain (s.marked r) := by
  simp [State.acceptRecord, hc, hw, State.marked]

theorem State.holdRecord_room {s : State} (r : Rec) (h : s.ash.hold.length < 256) :
    s.holdRecord r = { s with ash := { s.ash with hold := s.ash.hold ++ [{ r with held := true }] } } := if_pos h

/-- The retention buffer has room for a first record. -/
theorem State.retain_first {s : State} {r : Rec} (h : s.ash.retention = []) (hlen : r.payload.length ≤ 32) :
    s.retain r = { s with ash := { s.ash with retention := [r] } } := by
  have hroom : recSize r.payload.length ≤ 65536 := by
    unfold recSize ceilDiv
    omega
  simp [State.retain, h, sumNat, hroom]

/-! ## A record's arrival -/

/-- A record with no op of its own that passes its limit. -/
theorem State.recordIn_of {s t : State} {m : RecMsg} {l : List RecMsg} {r : Rec} (hi : s.ash.inbox = m :: l) (ho : m.logOp = none)
    (hlim : ({ s with ash := { s.ash with inbox := l } } : State).limit m.record = (some r, t)) : s.recordIn = t.acceptRecord r := by
  unfold State.recordIn
  rw [hi]
  simp only [ho, Option.isSome_none, Bool.false_eq_true, if_false, hlim]

theorem State.recordIn_suppressed {s t : State} {m : RecMsg} {l : List RecMsg} (hi : s.ash.inbox = m :: l) (ho : m.logOp = none)
    (hlim : ({ s with ash := { s.ash with inbox := l } } : State).limit m.record = (none, t)) : s.recordIn = t := by
  unfold State.recordIn
  rw [hi]
  simp only [ho, Option.isSome_none, Bool.false_eq_true, if_false, hlim]

/-- A LOG record takes the GTC of its arrival, and its op completes. -/
theorem State.recordIn_log {s t u : State} {m : RecMsg} {l : List RecMsg} {r : Rec} {c q : Nat} {o : Op} (hi : s.ash.inbox = m :: l)
    (ho : m.logOp = some (c, q))
    (hlim : ({ s with ash := { s.ash with inbox := l } } : State).limit { m.record with gtc := s.time.gtc } = (some r, t))
    (hacc : t.acceptRecord r = u) (hop : u.op c q = some o) : s.recordIn = u.completeOp c o 0 := by
  unfold State.recordIn
  rw [hi]
  simp only [ho, Option.isSome_some, if_true, hlim, hacc, hop]

theorem State.sortRelease_of {s : State} {r : Rec} {l : List Rec} (hs : s.ash.sort = r :: l) (ht : r.gtc + 1000000 ≤ s.time.gtc) :
    s.sortRelease = ({ s with ash := { s.ash with sort := l } } : State).leaveSort r := by
  unfold State.sortRelease
  rw [hs]
  exact if_pos ht

theorem State.leaveSort_held {s : State} (r : Rec) (h : s.ash.freeze ≠ none ∨ s.ash.checkpoint = true) : s.leaveSort r = s.holdRecord r := by
  refine if_pos ?_
  obtain h | h := h
  · simp [Option.isSome_iff_ne_none.mpr h]
  · simp [h]

theorem State.leaveSort_written {s : State} (r : Rec) (hf : s.ash.freeze = none) (hc : s.ash.checkpoint = false) :
    s.leaveSort r = s.writeRecord r := by
  simp [State.leaveSort, hf, hc]

/-! ## The refill of a bucket -/

/-- A bucket may gain a token. -/
def State.refillDue (s : State) (b : Nat) : Bool :=
  match Tab.find s.ash.refilled b with
  | some t => decide (t + 1000000000 / s.bucketCfg b 2 ≤ s.time.up)
  | none => true

theorem State.refillDue_iff (s : State) (b : Nat) :
    s.refillDue b = true ↔ ∀ a, Tab.find s.ash.refilled b = some a → a + 1000000000 / s.bucketCfg b 2 ≤ s.time.up := by
  unfold State.refillDue
  cases Tab.find s.ash.refilled b <;> simp

theorem State.refill_eq (s : State) (b : Nat) :
    s.refill b = if s.refillDue b then { s with ash := { s.ash with
      tokens := Tab.set s.ash.tokens b (min (s.bucketCfg b 3) (s.tokensOf b + 1)), refilled := Tab.set s.ash.refilled b s.time.up } }
      else s := rfl

theorem insertRec_singleton (e k : Rec) : insertRec e [k] = if e.before k then [e, k] else [k, e] := rfl

theorem Rec.before_iff (e k : Rec) : e.before k = true ↔ e.gtc < k.gtc ∨ (e.gtc = k.gtc ∧ e.src < k.src) := by
  simp [Rec.before]

/-- A bucket's number is below 1024, so `tokenRefill` refills the bucket it names. -/
theorem exec_tokenRefill {n : Nat} (hn : n < 1024) (s : State) : exec (.tokenRefill n) s = .next (s.refill n) := by
  show Host.Outcome.next (s.refill (n % 1024)) = _
  rw [Nat.mod_eq_of_lt hn]

/-- A full hold queue drops the record and counts it. -/
theorem State.holdRecord_full {s : State} (r : Rec) (h : 256 ≤ s.ash.hold.length) :
    (s.holdRecord r).ash.hold = s.ash.hold ∧ (s.holdRecord r).ash.gap ≠ none ∧
      (s.holdRecord r).count 0x2A00 8 = (s.bump 0x2A00 8).count 0x2A00 8 ∧ (s.holdRecord r).mem = s.mem := by
  unfold State.holdRecord
  rw [if_neg (Nat.not_lt.mpr h)]
  refine ⟨rfl, by simp [State.bump, State.bumpBy, State.setCount], ?_, rfl⟩
  simp only [State.bump, State.bumpBy, State.count_setCount_same]
  rfl

/-- Settles O57: the rate limit, then the place of the record, case by case. -/
theorem recordsReachAreas : Obligations.RecordsReachAreas := by
  unfold Obligations.RecordsReachAreas
  intro s m l r rs n
  have hpaid {q : Rec} (ho : 5 < q.code) (ht : 0 < s.tokensOf (bucketOf q.code)) :=
    State.limit_passes (s := { s with ash := { s.ash with inbox := l } }) (r := q) ho ht
  refine ⟨fun hi => congrArg Host.Outcome.next (a₂ := s) ?_, fun hi ho hcode htok => ?_, fun ⟨hi, ho, hcode, htok, _⟩ hw hc ht => ?_,
    fun ⟨hi, ho, hcode, htok, _⟩ hc hh => ?_,
    fun ⟨hi, ho, hcode, htok, _⟩ hw hc ht => ?_, fun ⟨hi, ho, hcode, htok, hlen⟩ hc hw hr => ?_, fun c q o hi ho hop hcode htok hw hc => ?_,
    fun hs => congrArg Host.Outcome.next (a₂ := s) ?_, fun hs ht => congrArg Host.Outcome.next (a₂ := s) ?_,
    fun hs ht hf hc => congrArg Host.Outcome.next ?_, fun hs ht hf hh => congrArg Host.Outcome.next ?_,
    fun hs ht hf hh => ⟨_, rfl, ?_⟩, fun hn hd => ?_, fun hn ⟨a, ha, hd⟩ => ?_,
    fun e k => ⟨insertRec_singleton e k, Rec.before_iff e k⟩⟩
  · unfold State.recordIn
    rw [hi]
  · exact congrArg Host.Outcome.next (State.recordIn_suppressed hi ho (State.limit_suppresses hcode htok))
  · show Host.Outcome.next s.recordIn = _
    rw [State.recordIn_of hi ho (hpaid hcode htok), State.acceptRecord_sorted, State.marked_carry]
    exacts [rfl, hc, hw, by simpa using ht]
  · show Host.Outcome.next s.recordIn = _
    rw [State.recordIn_of hi ho (hpaid hcode htok), State.acceptRecord_checkpoint, State.holdRecord_room, State.marked_carry]
    exacts [rfl, hh, hc]
  · show Host.Outcome.next s.recordIn = _
    rw [State.recordIn_of hi ho (hpaid hcode htok), State.acceptRecord_late, State.marked_carry]
    exacts [rfl, hc, hw, by simpa using ht]
  · show Host.Outcome.next s.recordIn = _
    rw [State.recordIn_of hi ho (hpaid hcode htok), State.acceptRecord_watch, State.marked_carry, State.retain_first]
    exacts [rfl, hr, Rec.length_carry _ hlen, hc, hw]
  · have hsort := State.acceptRecord_sorted (r := { ({ m.record with gtc := s.time.gtc } : Rec).carry
        (Tab.get 0 s.ash.supp (bucketOf m.record.code)) with seq := Tab.get 0 s.ash.seqs m.record.src })
      (s := { s with ash := Ashpit.paid { s.ash with inbox := l } (bucketOf m.record.code) (s.tokensOf (bucketOf m.record.code)) m.record.src })
      hc hw (by simp)
    refine congrArg Host.Outcome.next ((State.recordIn_log hi ho (hpaid hcode htok) hsort hop).trans ?_)
    simp [State.marked, Ashpit.paid, Rec.carry_withGtc]
  · unfold State.sortRelease
    rw [hs]
  · unfold State.sortRelease
    rw [hs]
    exact if_neg (Nat.not_le.mpr ht)
  · exact (State.sortRelease_of hs ht).trans (State.leaveSort_written _ hf hc)
  · exact ((State.sortRelease_of hs ht).trans (State.leaveSort_held _ hf)).trans (State.holdRecord_room _ hh)
  · rw [State.sortRelease_of hs ht, State.leaveSort_held]
    exacts [State.holdRecord_full _ hh, .inl hf]
  · rw [exec_tokenRefill hn, State.refill_eq, if_pos ((s.refillDue_iff n).mpr hd)]
  · rw [exec_tokenRefill hn, State.refill_eq, if_neg fun h => Nat.not_le.mpr hd ((s.refillDue_iff n).mp h a ha)]

end Sys2Proof.Machine
end

section
/-! SUPPORT. The recorder's areas: which part of the state the writing of records touches; what freezes, checkpoints and clears rest on it; with them
the settlement of the freezes and checkpoints. -/

namespace Sys2Proof.Machine

/-! ## What the writing of records touches -/

/-- The parts of the state that the writing of records (R322, R324, R328) may change. -/
structure Areas where
  mem : Mem
  poison : List Nat
  keep : HubKeep
  telem : Telem
  counters : Tab Nat
  found : Nat
  head : Nat
  oldest : Nat
  used : Nat
  seqs : Tab Nat
  first : Nat
  last : Nat
  retention : List Rec
  dropped : Option (Nat × Nat × Nat)

def State.areas (s : State) : Areas :=
  ⟨s.mem, s.svc.poison, s.keep, s.telem, s.counters, s.ash.foundFill, s.ash.rollHead, s.ash.rollOldest, s.ash.rollUsed, s.ash.seqs, s.ash.firstGtc,
    s.ash.lastGtc, s.ash.retention, s.ash.retDropped⟩

def State.withAreas (s : State) (a : Areas) : State :=
  { s with mem := a.mem, svc := { s.svc with poison := a.poison }, keep := a.keep, telem := a.telem, counters := a.counters,
           ash := { s.ash with foundFill := a.found, rollHead := a.head, rollOldest := a.oldest, rollUsed := a.used, seqs := a.seqs,
                               firstGtc := a.first, lastGtc := a.last, retention := a.retention, retDropped := a.dropped } }

/-- Every other part of the state is as before. -/
def OnlyAreas (s t : State) : Prop := t = s.withAreas t.areas

theorem OnlyAreas.refl (s : State) : OnlyAreas s s := rfl

theorem OnlyAreas.trans {s t u : State} (h : OnlyAreas s t) (k : OnlyAreas t u) : OnlyAreas s u :=
  Eq.trans (show u = _ from k) (congrArg (fun x : State => x.withAreas u.areas) (show t = _ from h) :)

theorem OnlyAreas.eq {s t : State} (h : OnlyAreas s t) : t = s.withAreas t.areas := h
theorem OnlyAreas.cores {s t : State} (h : OnlyAreas s t) : t.cores = s.cores := (congrArg State.cores h.eq :)
theorem OnlyAreas.engines {s t : State} (h : OnlyAreas s t) : t.engines = s.engines := (congrArg State.engines h.eq :)
theorem OnlyAreas.part {s t : State} (h : OnlyAreas s t) : t.part = s.part := (congrArg State.part h.eq :)
theorem OnlyAreas.sets {s t : State} (h : OnlyAreas s t) : t.sets = s.sets := (congrArg State.sets h.eq :)
theorem OnlyAreas.meas {s t : State} (h : OnlyAreas s t) : t.meas = s.meas := (congrArg State.meas h.eq :)
theorem OnlyAreas.time {s t : State} (h : OnlyAreas s t) : t.time = s.time := (congrArg State.time h.eq :)
theorem OnlyAreas.pcie {s t : State} (h : OnlyAreas s t) : t.pcie = s.pcie := (congrArg State.pcie h.eq :)
theorem OnlyAreas.freeze {s t : State} (h : OnlyAreas s t) : t.ash.freeze = s.ash.freeze := (congrArg (fun x : State => x.ash.freeze) h.eq :)
theorem OnlyAreas.checkpoint {s t : State} (h : OnlyAreas s t) : t.ash.checkpoint = s.ash.checkpoint := (congrArg (fun x : State => x.ash.checkpoint) h.eq :)
theorem OnlyAreas.clearing {s t : State} (h : OnlyAreas s t) : t.ash.clearing = s.ash.clearing := (congrArg (fun x : State => x.ash.clearing) h.eq :)
theorem OnlyAreas.pfailWaits {s t : State} (h : OnlyAreas s t) : t.ash.pfailWaits = s.ash.pfailWaits := (congrArg (fun x : State => x.ash.pfailWaits) h.eq :)
theorem OnlyAreas.checkpointed {s t : State} (h : OnlyAreas s t) : t.ash.checkpointed = s.ash.checkpointed := (congrArg (fun x : State => x.ash.checkpointed) h.eq :)
theorem OnlyAreas.sort {s t : State} (h : OnlyAreas s t) : t.ash.sort = s.ash.sort := (congrArg (fun x : State => x.ash.sort) h.eq :)
theorem OnlyAreas.hold {s t : State} (h : OnlyAreas s t) : t.ash.hold = s.ash.hold := (congrArg (fun x : State => x.ash.hold) h.eq :)
theorem OnlyAreas.gap {s t : State} (h : OnlyAreas s t) : t.ash.gap = s.ash.gap := (congrArg (fun x : State => x.ash.gap) h.eq :)
theorem OnlyAreas.lastClear {s t : State} (h : OnlyAreas s t) : t.ash.lastClear = s.ash.lastClear := (congrArg (fun x : State => x.ash.lastClear) h.eq :)

theorem onlyAreas_foundPut (s : State) (bs : List Byte) : OnlyAreas s (s.foundPut bs) := by
  unfold State.foundPut
  dsimp only
  split <;> exact rfl

theorem onlyAreas_rollPut (s : State) (bs : List Byte) : OnlyAreas s (s.rollPut bs) := by
  unfold State.rollPut
  dsimp only
  split_ifs <;> exact rfl

theorem onlyAreas_makeRoom (size f : Nat) (s : State) : OnlyAreas s (s.makeRoom size f) := by
  induction f generalizing s with
  | zero => exact .refl s
  | succ f ih =>
    unfold State.makeRoom
    split
    · exact .refl s
    · refine .trans ?_ (ih _)
      exact rfl

theorem onlyAreas_toTelemetry (s : State) (r : Rec) : OnlyAreas s (s.toTelemetry r) := by
  unfold State.toTelemetry
  split <;> exact rfl

theorem onlyAreas_writeRecord (s : State) (r : Rec) : OnlyAreas s (s.writeRecord r) := by
  have hdone (u : State) (n : Nat) : OnlyAreas u
      ((({ u with ash := { u.ash with lastGtc := r.gtc, firstGtc := n } } : State).toTelemetry r).bump 0x2A00 7) :=
    .trans (t := { u with ash := { u.ash with lastGtc := r.gtc, firstGtc := n } }) rfl (.trans (onlyAreas_toTelemetry _ r) rfl)
  have hpad (u : State) (n : Nat) (p : State → List Byte → State) (hp : ∀ v bs, OnlyAreas v (p v bs)) :
      OnlyAreas u (p (u.padBytes n).2 (u.padBytes n).1) := .trans (t := (u.padBytes n).2) rfl (hp _ _)
  unfold State.writeRecord
  dsimp only
  refine .trans ?_ (hdone _ _)
  split_ifs with h1 h2 h3 h2 h3
  · exact .trans (hpad s _ State.foundPut onlyAreas_foundPut) (onlyAreas_foundPut ..)
  · exact .trans (hpad s _ State.foundPut onlyAreas_foundPut) (.trans (.trans (.trans (onlyAreas_makeRoom ..)
      (hpad _ _ State.rollPut onlyAreas_rollPut)) (onlyAreas_makeRoom ..)) (onlyAreas_rollPut ..))
  · exact .trans (hpad s _ State.foundPut onlyAreas_foundPut) (.trans (onlyAreas_makeRoom ..) (onlyAreas_rollPut ..))
  · exact onlyAreas_foundPut ..
  · exact .trans (.trans (.trans (onlyAreas_makeRoom ..)
      (hpad _ _ State.rollPut onlyAreas_rollPut)) (onlyAreas_makeRoom ..)) (onlyAreas_rollPut ..)
  · exact .trans (onlyAreas_makeRoom ..) (onlyAreas_rollPut ..)

theorem onlyAreas_retain (s : State) (r : Rec) : OnlyAreas s (s.retain r) := by
  unfold State.retain
  dsimp only
  split <;> exact rfl

theorem onlyAreas_putRecord (s : State) (r : Rec) : OnlyAreas s (s.putRecord r) := by
  unfold State.putRecord
  split
  · exact onlyAreas_retain s r
  · exact onlyAreas_writeRecord s r

theorem onlyAreas_foldl {α : Type} (f : State → α → State) (hf : ∀ s a, OnlyAreas s (f s a)) (l : List α) (s : State) :
    OnlyAreas s (l.foldl f s) := by
  induction l generalizing s with
  | nil => exact .refl s
  | cons a l ih => exact .trans (hf s a) (ih _)

theorem onlyAreas_writeGap (s : State) (gap : Option (Nat × Nat × Nat)) : OnlyAreas s (s.writeGap gap) := by
  unfold State.writeGap
  split
  · exact .refl s
  · next t n k => exact .trans (t := (s.ownRec t 4 [min n 0xFFFFFFFF, min k 0xFFFFFFFF]).2) rfl (onlyAreas_putRecord ..)

/-- The hold queue and the gap are used up; for the rest only areas change. -/
theorem onlyAreas_writeHeld (s : State) (byKey : Bool) :
    OnlyAreas { s with ash := { s.ash with hold := [], gap := none } } (s.writeHeld byKey) :=
  .trans (onlyAreas_foldl _ onlyAreas_putRecord _ _) (onlyAreas_writeGap ..)

theorem State.leaveSort_free {s : State} (r : Rec) (hf : s.ash.freeze = none) (hc : s.ash.checkpoint = false) :
    OnlyAreas s (s.leaveSort r) := by
  have h : s.leaveSort r = s.writeRecord r := by simp [State.leaveSort, hf, hc]
  exact h ▸ onlyAreas_writeRecord s r

/-- With no freeze and no checkpoint the sort stage empties into the areas. -/
theorem onlyAreas_flushSort {s : State} (hf : s.ash.freeze = none) (hc : s.ash.checkpoint = false) :
    OnlyAreas { s with ash := { s.ash with sort := [] } } s.flushSort := by
  have hfold (l : List Rec) (u : State) (hf : u.ash.freeze = none) (hc : u.ash.checkpoint = false) :
      OnlyAreas u (l.foldl State.leaveSort u) := by
    induction l generalizing u with
    | nil => exact .refl u
    | cons r l ih =>
      have hr := State.leaveSort_free r hf hc
      exact .trans hr (ih _ (hr.freeze.trans hf) (hr.checkpoint.trans hc))
  exact hfold s.ash.sort _ hf hc

theorem onlyAreas_persistOpen (s : State) : OnlyAreas s s.persistOpen := by
  unfold State.persistOpen
  dsimp only
  split <;> exact rfl

/-! ## A write of an object that is no setting -/

/-- A served session's write of an object that is no setting, past every check. -/
theorem State.hostWrite_direct {s : State} {ses idx sub lvl : Nat} {data : List Byte} {r : OdRow} (h : Served s ses lvl)
    (hrow : s.row idx sub = some r) (hacc : r.acc ≠ .ro) (hp : s.needPriv idx sub (fromLE data) r ≤ lvl)
    (hl : r.lengthOk data.length = true) (ho : ownWrite idx sub = false) (hset : r.set = false) (hsz : r.size ≠ 0)
    (ha : s.stateAllows idx sub (fromLE data) = true) (hi : s.inRange idx sub (fromLE data) r = true)
    (hm : s.mappingAbort idx sub (fromLE data) = 0) (hk : s.keepBad idx sub r = false) :
    s.hostWrite ses idx sub data = (s.writeDirect ses idx sub (Nat.land (fromLE data) r.mask)).giveReply ses ⟨0, []⟩ := by
  obtain ⟨hreach, hserves, hlevel⟩ := h
  exact State.hostWrite_done hreach hserves (State.odWrite_direct hrow hacc (hp.trans hlevel) hl ho hset hsz ha hi hm hk)

/-! ## Freezes -/

theorem State.hostWrite_freeze {s : State} {ses : Ses} (h : Served s ses 1) (v : Bool) :
    s.hostWrite ses 0x2A00 1 (toLE 1 (boolNat v)) = (s.setFreeze v).giveReply ses ⟨0, []⟩ := by
  cases v <;>
  exact State.hostWrite_direct h (State.row_ashFreeze s) (by decide) (le_refl 1) rfl rfl rfl (by decide) rfl rfl rfl rfl

theorem State.endFreeze_none {s : State} (h : s.ash.freeze = none) : s.endFreeze = s := by simp [State.endFreeze, h]

theorem State.endFreeze_checkpoint {s : State} (h : s.ash.freeze ≠ none) (hc : s.ash.checkpoint = true) :
    s.endFreeze = { s with ash := { s.ash with freeze := none } } := by
  obtain ⟨f, hf⟩ := Option.ne_none_iff_exists'.mp h
  simp [State.endFreeze, hf, hc]

theorem State.endFreeze_held {s : State} (h : s.ash.freeze ≠ none) (hc : s.ash.checkpoint = false) :
    s.endFreeze = ({ s with ash := { s.ash with freeze := none } } : State).writeHeld false := by
  obtain ⟨f, hf⟩ := Option.ne_none_iff_exists'.mp h
  simp [State.endFreeze, hf, hc]

theorem State.freezeExpiry_of {s : State} {f : Freeze} (h : s.ash.freeze = some f) :
    s.freezeExpiry = if f.since + f.max * 1000000000 ≤ s.time.up then s.endFreeze else s := by
  unfold State.freezeExpiry
  rw [h]

/-! ## The end of a checkpoint -/

/-- The checkpoint is over, its MSI-X raised; what was held is not yet written. -/
def State.checkpointOver (s : State) : State :=
  { s.persistOpen.msix 7 with ash := { s.persistOpen.ash with checkpoint := false, checkpointed := s.persistOpen.meas.pfail } }

theorem State.checkpointOver_checkpointed (s : State) : s.checkpointOver.ash.checkpointed = s.meas.pfail :=
  congrArg Meas.pfail (onlyAreas_persistOpen s).meas
theorem State.checkpointOver_hold (s : State) : s.checkpointOver.ash.hold = s.ash.hold := (onlyAreas_persistOpen s).hold
theorem State.checkpointOver_cores (s : State) : s.checkpointOver.cores = s.cores := (onlyAreas_persistOpen s).cores
theorem State.checkpointOver_engines (s : State) : s.checkpointOver.engines = s.engines := (onlyAreas_persistOpen s).engines
theorem State.checkpointOver_msix (s : State) : bit s.checkpointOver.pcie.msix 7 = true := bit_setBit_same ..

theorem State.checkpointEnd_eq {s : State} (h : s.ash.checkpoint = true) :
    s.checkpointEnd = if s.ash.freeze.isSome then s.checkpointOver else s.checkpointOver.writeHeld true := by
  have hf := (onlyAreas_persistOpen s).freeze
  unfold State.checkpointEnd
  simp only [h, Bool.not_true, Bool.false_eq_true, if_false]
  change (if s.persistOpen.ash.freeze.isSome = true then _ else _) = _
  rw [hf]
  rfl

/-- Settles O59: every clause but the two ends is one of the equations; the ends rest on what the writing of records touches. -/
theorem freezesAndCheckpoints : Obligations.FreezesAndCheckpoints := by
  unfold Obligations.FreezesAndCheckpoints
  intro s ses
  refine ⟨fun h hf => congrArg Host.Outcome.next ((State.hostWrite_freeze h true).trans ?_),
    fun h hf => congrArg Host.Outcome.next ((State.hostWrite_freeze h true).trans ?_),
    fun h hf => congrArg Host.Outcome.next ((State.hostWrite_freeze h false).trans ?_),
    fun h hf hc => congrArg Host.Outcome.next ((State.hostWrite_freeze h false).trans ?_),
    fun h hf hc hg => congrArg Host.Outcome.next ((State.hostWrite_freeze h false).trans ?_),
    fun f hf ht => congrArg Host.Outcome.next (a₂ := s) ?_, fun f hf ht hc => ⟨_, rfl, ?_⟩,
    fun hf => congrArg Host.Outcome.next (a₂ := s) ?_, fun hc => congrArg Host.Outcome.next (a₂ := s) ?_, fun hc => ⟨_, rfl, ?_⟩⟩
  · simp [State.setFreeze, hf]
  · obtain ⟨f, hf⟩ := Option.ne_none_iff_exists'.mp hf
    simp [State.setFreeze, hf]
  · simp [State.setFreeze, State.endFreeze_none hf]
  · simp [State.setFreeze, State.endFreeze_checkpoint hf hc]
  · simp only [State.setFreeze, Bool.not_false, if_true, State.endFreeze_held hf hc, State.writeHeld, hg, State.writeGap]
    rfl
  · rw [State.freezeExpiry_of hf, if_neg (Nat.not_le.mpr ht)]
  · have hw := onlyAreas_writeHeld { s with ash := { s.ash with freeze := none } } false
    rw [State.freezeExpiry_of hf, if_pos ht, State.endFreeze_held (by simp [hf]) hc]
    exact ⟨hw.freeze, hw.hold, hw.gap, hw.cores, hw.engines⟩
  · simp [State.freezeExpiry, hf]
  · simp [State.checkpointEnd, hc]
  · have hw := onlyAreas_writeHeld s.checkpointOver true
    rw [State.checkpointEnd_eq hc]
    split
    · next hf =>
      exact ⟨rfl, s.checkpointOver_checkpointed, s.checkpointOver_msix, fun h => by simp [h] at hf, fun _ => s.checkpointOver_hold,
        s.checkpointOver_cores, s.checkpointOver_engines⟩
    · next hf =>
      exact ⟨hw.checkpoint, hw.checkpointed.trans s.checkpointOver_checkpointed, hw.pcie ▸ s.checkpointOver_msix, fun _ => ⟨hw.hold, hw.gap⟩,
        fun h => absurd (Option.isSome_iff_ne_none.mpr h) hf, hw.cores.trans s.checkpointOver_cores, hw.engines.trans s.checkpointOver_engines⟩

end Sys2Proof.Machine
end

section
/-! SUPPORT. Clears of the recorder (R329): the challenge, the refusals, what a clear leaves; with them the settlement of the clears. -/

namespace Sys2Proof.Machine

variable {s t : State} {ses idx sub : Nat}

/-! ## Answers of a session -/

/-- A refusal changes the session's reply and the latch of the PCIe host only. -/
theorem State.refuse_frame (s : State) (ses idx sub code : Nat) :
    s.refuse ses idx sub code = { s.giveReply ses ⟨code, []⟩ with pcie := (s.refuse ses idx sub code).pcie } := by
  unfold State.refuse State.refusedBy
  split_ifs <;> rfl

theorem State.session_giveReply (s : State) (ses : Ses) (r : Reply) : (s.giveReply ses r).session ses = { s.session ses with reply := r } := by
  simp [State.giveReply]

theorem State.session_refuse (s : State) (ses idx sub code : Nat) :
    (s.refuse ses idx sub code).session ses = { s.session ses with reply := ⟨code, []⟩ } := by
  rw [State.refuse_frame]
  exact State.session_giveReply ..

/-! ## A table without some of its keys -/

theorem Tab.get_filter_absent {α : Type} (d : α) (l : Tab α) {p : Nat × α → Bool} {k : Nat} (h : ∀ v, p (k, v) = false) :
    Tab.get d (l.filter p) k = d := by
  induction l with
  | nil => rfl
  | cons e l ih =>
    obtain ⟨i, v⟩ := e
    by_cases hi : i = k
    · subst hi
      simpa [List.filter_cons, h v] using ih
    · cases hp : p (i, v) <;> simpa [List.filter_cons, hp, Tab.get, Tab.find, hi] using ih

/-! ## Each field behind a record laid down in the founding area -/

theorem State.foundPut_foundFill (s : State) (bs : List Byte) : (s.foundPut bs).ash.foundFill = s.ash.foundFill + bs.length := by
  rw [State.foundPut_frame]
theorem State.foundPut_rollHead (s : State) (bs : List Byte) : (s.foundPut bs).ash.rollHead = s.ash.rollHead := by rw [State.foundPut_frame]
theorem State.foundPut_rollUsed (s : State) (bs : List Byte) : (s.foundPut bs).ash.rollUsed = s.ash.rollUsed := by rw [State.foundPut_frame]
theorem State.foundPut_mem (s : State) (bs : List Byte) : (s.foundPut bs).mem = Mem.writeBytes s.mem (foundBase + s.ash.foundFill) bs := by
  rw [State.foundPut_frame]
  rfl
theorem State.foundPut_counters (s : State) (bs : List Byte) : (s.foundPut bs).counters = s.counters := by
  rw [State.foundPut_frame]
  rfl
theorem State.foundPut_sets (s : State) (bs : List Byte) : (s.foundPut bs).sets = s.sets := by
  rw [State.foundPut_frame]
  rfl
theorem State.foundPut_part (s : State) (bs : List Byte) : (s.foundPut bs).part = s.part := by
  rw [State.foundPut_frame]
  rfl

section Done
variable (s : State) (r : Rec) (first : Prop) [Decidable first]

theorem State.recordDone_foundFill : (s.recordDone r first).ash.foundFill = s.ash.foundFill := by rw [State.recordDone_frame]
theorem State.recordDone_rollHead : (s.recordDone r first).ash.rollHead = s.ash.rollHead := by rw [State.recordDone_frame]
theorem State.recordDone_rollUsed : (s.recordDone r first).ash.rollUsed = s.ash.rollUsed := by rw [State.recordDone_frame]
theorem State.recordDone_mem : (s.recordDone r first).mem = s.mem := by rw [State.recordDone_frame]
theorem State.recordDone_keep : (s.recordDone r first).keep = s.keep := by rw [State.recordDone_frame]

end Done

/-! ## What a clear leaves -/

/-- The state of a clear before its CLEAR record: areas, copies and counters emptied. -/
def State.emptied (s : State) : State :=
  let a := s.ash
  let s := (s.wipe foundBase (rollBase + rollSize)).keepLast (odKey 0x2A00 0x0D) a.lastClear
  { s with
    ash := { s.ash with foundFill := 0, rollHead := 0, rollOldest := 0, rollUsed := 0, clearing := true, lastClear := s.time.gtc },
    keep := { s.keep with ash := [], ashFill := 0, ashHead := 0, ashOldest := 0, ashUsed := 0, prevFill := s.keep.ashFill, prevHead := s.keep.ashHead, prevOldest := s.keep.ashOldest },
    counters := s.counters.filter (fun e => !clearedCounter e.1) }

/-- The payload of the CLEAR record (Table 12.5). -/
def State.clearWords (s : State) (slot : Nat) : List Nat :=
  let a := s.ash
  let n := s.count 0x2A00 7
  [a.firstGtc % 2 ^ 32, a.firstGtc / 2 ^ 32, n % 2 ^ 32, n / 2 ^ 32, slot, a.lastGtc % 2 ^ 32, a.lastGtc / 2 ^ 32]

/-- The state of a clear after its records have been written, and the record on the emptied areas. -/
def State.drained (s : State) : State := s.flushSort.writeHeld false

def State.clearRec (s : State) (slot : Nat) : Rec × State := s.drained.emptied.ownRec s.drained.time.gtc 1 (s.drained.clearWords slot)

theorem State.clearAsh_eq (s : State) (slot : Nat) : s.clearAsh slot = (s.clearRec slot).2.writeRecord (s.clearRec slot).1 := rfl

theorem State.length_clearRec_payload (s : State) (slot : Nat) : (s.clearRec slot).1.payload.length = 7 := rfl
theorem State.foundFill_clearRec (s : State) (slot : Nat) : (s.clearRec slot).2.ash.foundFill = 0 := rfl
theorem State.rollHead_clearRec (s : State) (slot : Nat) : (s.clearRec slot).2.ash.rollHead = 0 := rfl
theorem State.rollUsed_clearRec (s : State) (slot : Nat) : (s.clearRec slot).2.ash.rollUsed = 0 := rfl

theorem State.drained_areas {s : State} (hf : s.ash.freeze = none) (hc : s.ash.checkpoint = false) :
    OnlyAreas { s with ash := { s.ash with sort := [], hold := [], gap := none } } s.drained := by
  have h := onlyAreas_flushSort hf hc
  have h2 : OnlyAreas { s with ash := { s.ash with sort := [], hold := [], gap := none } }
      { s.flushSort with ash := { s.flushSort.ash with hold := [], gap := none } } :=
    (congrArg (fun u : State => ({ u with ash := { u.ash with hold := [], gap := none } } : State)) h.eq :)
  exact h2.trans (onlyAreas_writeHeld s.flushSort false)

theorem State.drained_memOk (s : State) (h : s.memOk = true) : s.drained.memOk = true :=
  (keeps_writeHeld (keeps_flushSort (Keeps.refl s)) false).mem h

/-- The CLEAR record is the first of the new founding area. -/
theorem State.clearAsh_found (s : State) (slot : Nat) :
    s.clearAsh slot = ((s.clearRec slot).2.foundPut (s.clearRec slot).1.bytes).recordDone (s.clearRec slot).1
      ((s.clearRec slot).2.ash.foundFill = 0) := by
  have hfit : (s.clearRec slot).2.ash.foundFill + recSize (s.clearRec slot).1.payload.length ≤ foundSize := by
    rw [s.foundFill_clearRec, s.length_clearRec_payload]
    decide
  rw [State.clearAsh_eq, State.writeRecord_found hfit]

theorem State.length_clearRec (s : State) (slot : Nat) : (s.clearRec slot).1.bytes.length = 48 := by
  rw [Rec.bytes_eq, length_fit, s.length_clearRec_payload]
  rfl

theorem State.clearAsh_areas (s : State) (slot : Nat) : OnlyAreas (s.clearRec slot).2 (s.clearAsh slot) := by
  rw [State.clearAsh_eq]
  exact onlyAreas_writeRecord ..

theorem State.clearAsh_foundFill (s : State) (slot : Nat) : (s.clearAsh slot).ash.foundFill = 48 := by
  rw [State.clearAsh_found, State.recordDone_foundFill, State.foundPut_foundFill, s.foundFill_clearRec, s.length_clearRec]

theorem State.clearAsh_rollHead (s : State) (slot : Nat) : (s.clearAsh slot).ash.rollHead = 0 := by
  rw [State.clearAsh_found, State.recordDone_rollHead, State.foundPut_rollHead, s.rollHead_clearRec]

theorem State.clearAsh_rollUsed (s : State) (slot : Nat) : (s.clearAsh slot).ash.rollUsed = 0 := by
  rw [State.clearAsh_found, State.recordDone_rollUsed, State.foundPut_rollUsed, s.rollUsed_clearRec]

theorem State.clearAsh_mem (s : State) (slot : Nat) : (s.clearAsh slot).mem = Mem.writeBytes s.drained.emptied.mem foundBase (s.clearRec slot).1.bytes := by
  rw [State.clearAsh_found, State.recordDone_mem, State.foundPut_mem, s.foundFill_clearRec]
  rfl

theorem State.clearAsh_keep (s : State) (slot : Nat) : (s.clearAsh slot).keep.ash = [] := by
  have hseg : (s.clearRec slot).2.ash.foundFill / 65536 = ((s.clearRec slot).2.ash.foundFill + (s.clearRec slot).1.bytes.length) / 65536 := by
    rw [s.length_clearRec, s.foundFill_clearRec]
  rw [State.clearAsh_found, State.recordDone_keep, State.foundPut_keep_open hseg]
  rfl

/-- A counter that a clear resets starts again at its default. -/
theorem State.count_emptied (s : State) {sub : Nat} (hsub : sub = 7 ∨ sub = 8 ∨ sub = 9) : s.emptied.count 0x2A00 sub = 0 := by
  have h : clearedCounter (odKey 0x2A00 sub) = true := by
    obtain rfl | rfl | rfl := hsub <;> decide
  refine (Tab.get_filter_absent _ _ fun v => by simp [h]).trans ?_
  obtain rfl | rfl | rfl := hsub <;> rfl

/-- A record counts in RECORDS and in no other counter. -/
theorem State.count_recordDone_ne {s : State} (r : Rec) (first : Prop) [Decidable first] {sub : Nat} (h : sub ≠ 7) :
    (s.recordDone r first).count 0x2A00 sub = s.count 0x2A00 sub := by
  unfold State.recordDone
  rw [State.toTelemetry_frame]
  exact Tab.get_set_ne _ _ _ (by unfold odKey; omega)

theorem State.count_congr {s t : State} (idx sub : Nat) (hpart : t.part = s.part) (hsets : t.sets.active = s.sets.active)
    (hcount : t.counters = s.counters) : t.count idx sub = s.count idx sub := by
  simp only [State.count, State.dflt, State.row, hpart, hsets, hcount]

/-- The CLEAR record is the only record counted. -/
theorem State.count_clearAsh (s : State) (slot : Nat) : (s.clearAsh slot).count 0x2A00 7 = 1 := by
  have h : (s.clearRec slot).2.count 0x2A00 7 = 0 := s.drained.count_emptied (.inl rfl)
  rw [State.clearAsh_found, State.count_recordDone (s := (s.clearRec slot).2) _ _ (State.foundPut_part ..)
    (by rw [State.foundPut_sets]) (State.foundPut_counters ..)]
  simp only [State.bump, State.bumpBy, State.count_setCount_same, h]
  rfl

theorem State.count_clearAsh_ne (s : State) (slot : Nat) {sub : Nat} (hsub : sub = 8 ∨ sub = 9) : (s.clearAsh slot).count 0x2A00 sub = 0 := by
  rw [State.clearAsh_found, State.count_recordDone_ne _ _ (by omega),
    State.count_congr (s := (s.clearRec slot).2) 0x2A00 sub (State.foundPut_part ..) (by rw [State.foundPut_sets]) (State.foundPut_counters ..)]
  exact s.drained.count_emptied (by omega)

/-- Nothing but the CLEAR record is left in the areas. -/
theorem State.read_clearAsh {s : State} (slot : Nat) (h : s.memOk = true) {x : Nat} (hlo : foundBase + 48 ≤ x) (hhi : x < rollBase + rollSize) :
    Mem.read (s.clearAsh slot).mem x = 0 := by
  rw [State.clearAsh_mem]
  refine (Mem.read_writeBytes foundBase x _ (Mem.wf_clear _ _ (State.mem_wf (s.drained_memOk h)))).trans ?_
  rw [s.length_clearRec slot, if_neg (by omega)]
  refine Mem.read_of_absent fun c hc hx => ?_
  have hout := (List.mem_filter.mp hc).2
  subst hx
  simp only [Bool.or_eq_true, decide_eq_true_eq] at hout
  omega

/-! ## The commands -/

theorem State.hostRead_clearChal (hr : s.reachable ses = true) (hs : s.serves = true) :
    s.hostRead ses 0x2A00 11 = ((s.drawN 32).modSession ses (fun k =>
      { k with clearNonce := some s.freshNonce, clearAt := s.time.up })).giveReply ses ⟨0, s.freshNonce⟩ := by
  have hread : s.odRead ses 0x2A00 11 = (⟨0, s.freshNonce⟩, (s.drawN 32).modSession ses (fun k =>
      { k with clearNonce := some s.freshNonce, clearAt := s.time.up })) := by
    unfold State.odRead
    rw [State.row_clearChal]
    rfl
  simp [State.hostRead, State.readObject, hr, hs, hread]

/-- Past steps 1 to 4 of R275, ASH_CLEAR acts by its own rule. -/
theorem State.odWrite_ashClear {data : List Byte} (hl : 2 ≤ (s.session ses).level) (hlen : data.length = 33) :
    s.odWrite ses 0x2A00 12 data = s.writeClear ses data := by
  have hacc : (woObj 33 2).acc ≠ .ro := by decide
  have hlev : ¬ (s.session ses).level < s.needPriv 0x2A00 12 (fromLE data) (woObj 33 2) := Nat.not_lt.mpr hl
  have hlen : (woObj 33 2).lengthOk data.length = true := by
    rw [hlen]
    rfl
  unfold State.odWrite
  rw [State.row_ashClear]
  simp [hacc, hlev, hlen]

/-- Steps 1 to 3 of R275 for ASH_CLEAR without the level. -/
theorem State.odWrite_ashClear_low {data : List Byte} (hl : (s.session ses).level < 2) : s.odWrite ses 0x2A00 12 data = (0x06010000, s) :=
  State.odWrite_unprivileged (State.row_ashClear s) (by decide) hl

theorem State.writeClear_busy {data : List Byte} (h : s.ash.freeze ≠ none ∨ s.ash.checkpoint = true ∨ (s.session ses).clearNonce = none) :
    s.writeClear ses data = (0x08000022, s) := by
  unfold State.writeClear
  by_cases hb : (s.ash.freeze.isSome || s.ash.checkpoint) = true
  · simp [hb]
  · obtain ⟨hf, hc⟩ : s.ash.freeze = none ∧ s.ash.checkpoint = false := by simpa using hb
    simp [hf, hc] at h
    simp [hf, hc, h]

/-- The session behind an attempt to clear: its nonce is spent. -/
def State.spentNonce (s : State) (ses : Ses) : State := s.modSession ses (fun k => { k with clearNonce := none })

section Nonce
variable {data nonce : List Byte} {slot : Nat}

/-- With a nonce, and neither a freeze nor a checkpoint: a nonce that is no longer current. -/
theorem State.writeClear_stale (hf : s.ash.freeze = none) (hc : s.ash.checkpoint = false)
    (hn : (s.session ses).clearNonce = some nonce) (hcur : s.current (s.session ses).clearAt = false) :
    s.writeClear ses data = (0x08000022, s.spentNonce ses) := by
  have hcur' : (s.spentNonce ses).current (s.session ses).clearAt = false := hcur
  unfold State.spentNonce at hcur' ⊢
  simp [State.writeClear, hf, hc, hn, hcur']

/-- What the proof of a clear must meet. -/
def State.clearFits (s : State) (slot : Nat) (proof nonce : List Byte) : Prop :=
  1 ≤ slot ∧ slot ≤ 7 ∧ (s.keySlot slot).level = 2 ∧ proof = s.clearProof nonce slot

theorem State.writeClear_mismatch (hf : s.ash.freeze = none) (hc : s.ash.checkpoint = false)
    (hn : (s.session ses).clearNonce = some nonce) (hcur : s.current (s.session ses).clearAt = true)
    (hto : (data.getD 0 0).toNat = slot) (hfit : ¬ s.clearFits slot (data.drop 1) nonce) :
    s.writeClear ses data = (0x06010000,
      ((s.spentNonce ses).bump 0x2B00 6).record (masterSource (sesMaster ses)) 0x002C [slot % 256 + 256]) := by
  have hcur' : (s.spentNonce ses).current (s.session ses).clearAt = true := hcur
  have hfit' : ¬ (1 ≤ slot ∧ slot ≤ 7 ∧ ((s.spentNonce ses).keySlot slot).level = 2 ∧
    data.drop 1 = (s.spentNonce ses).clearProof nonce slot) := hfit
  unfold State.spentNonce at hcur' hfit' ⊢
  unfold State.writeClear
  simp only [hf, hc, hn, hto, hcur', hfit', Option.isSome_none, Bool.or_self, Bool.not_true, Bool.false_eq_true, if_false]

theorem State.writeClear_accepted (hf : s.ash.freeze = none) (hc : s.ash.checkpoint = false)
    (hn : (s.session ses).clearNonce = some nonce) (hcur : s.current (s.session ses).clearAt = true)
    (hto : (data.getD 0 0).toNat = slot) (hfit : s.clearFits slot (data.drop 1) nonce) :
    s.writeClear ses data = (0, (s.spentNonce ses).clearAsh slot) := by
  have hcur' : (s.spentNonce ses).current (s.session ses).clearAt = true := hcur
  have hfit' : 1 ≤ slot ∧ slot ≤ 7 ∧ ((s.spentNonce ses).keySlot slot).level = 2 ∧
    data.drop 1 = (s.spentNonce ses).clearProof nonce slot := hfit
  unfold State.spentNonce at hcur' hfit' ⊢
  unfold State.writeClear
  simp only [hf, hc, hn, hto, hcur', Option.isSome_none, Bool.or_self, Bool.not_true, Bool.false_eq_true, if_false]
  exact if_pos hfit'

end Nonce

/-- What an accepted clear leaves of the sort stage, the hold queue and the rest of the machine. -/
theorem State.clearAsh_rest {s : State} (slot : Nat) (hf : s.ash.freeze = none) (hc : s.ash.checkpoint = false) :
    (s.clearAsh slot).ash.clearing = true ∧ (s.clearAsh slot).ash.sort = [] ∧ (s.clearAsh slot).ash.hold = [] ∧
      (s.clearAsh slot).ash.lastClear = s.time.gtc ∧ (s.clearAsh slot).cores = s.cores ∧ (s.clearAsh slot).engines = s.engines := by
  have hd := State.drained_areas hf hc
  have ha := s.clearAsh_areas slot
  exact ⟨ha.clearing, ha.sort.trans hd.sort, ha.hold.trans hd.hold, ha.lastClear.trans (congrArg TimeBase.gtc hd.time),
    ha.cores.trans hd.cores, ha.engines.trans hd.engines⟩

/-! ## A PFAIL_N that waited for the end of a clear -/

/-- The end of a freeze outside a checkpoint: beside the areas it uses up the hold queue. -/
theorem State.endFreeze_areas {s : State} (hc : s.ash.checkpoint = false) : ∃ hold gap,
    OnlyAreas { s with ash := { s.ash with freeze := none, hold := hold, gap := gap } } s.endFreeze := by
  by_cases hf : s.ash.freeze = none
  · refine ⟨s.ash.hold, s.ash.gap, ?_⟩
    rw [State.endFreeze_none hf, ← hf]
    exact .refl s
  · refine ⟨[], none, ?_⟩
    rw [State.endFreeze_held hf hc]
    exact onlyAreas_writeHeld { s with ash := { s.ash with freeze := none } } false

theorem State.checkpointRecord_areas {s : State} (why : Nat) (hc : s.ash.checkpoint = false) : ∃ hold gap,
    OnlyAreas { s with ash := { s.ash with freeze := none, hold := hold, gap := gap, sort := [] } } (s.checkpointRecord why) := by
  obtain ⟨hold, gap, he⟩ := State.endFreeze_areas hc
  have hflush := onlyAreas_flushSort he.freeze (he.checkpoint.trans hc)
  have hsort : OnlyAreas { s with ash := { s.ash with freeze := none, hold := hold, gap := gap, sort := [] } }
      { s.endFreeze with ash := { s.endFreeze.ash with sort := [] } } :=
    (congrArg (fun u : State => ({ u with ash := { u.ash with sort := [] } } : State)) he.eq :)
  let u := s.endFreeze.flushSort.bump 0x2A00 10
  have hbump : OnlyAreas s.endFreeze.flushSort (u.ownRec u.time.gtc 3 [why]).2 := rfl
  exact ⟨hold, gap, hsort.trans (hflush.trans (hbump.trans (onlyAreas_putRecord ..)))⟩

/-- Settles O60: the command's checks in order; an accepted clear by what the emptied areas and the first record on them are. -/
theorem clearsNeedTheirProof : Obligations.ClearsNeedTheirProof := by
  unfold Obligations.ClearsNeedTheirProof
  intro s ses slot proof nonce hslot hproof
  have hlen : (BitVec.ofNat 8 slot :: proof).length = 33 := by simp [hproof]
  have hto : ((BitVec.ofNat 8 slot :: proof).getD 0 0).toNat = slot := by simp [Nat.mod_eq_of_lt hslot]
  refine ⟨fun hr hs => congrArg Host.Outcome.next (State.hostRead_clearChal hr hs), fun ⟨hr, hs, hl⟩ h => congrArg Host.Outcome.next ?_,
    fun ⟨hr, hs, hl⟩ hf hc hn hcur => congrArg Host.Outcome.next ?_, fun hr hs hl => congrArg Host.Outcome.next ?_,
    fun ⟨⟨hr, hs, hl⟩, hf, hc, hn, hcur⟩ hfit => ?_, fun ⟨⟨hr, hs, hl⟩, hf, hc, hn, hcur⟩ hfit => ?_,
    fun h => congrArg Host.Outcome.next (a₂ := s) ?_, fun h hw => congrArg Host.Outcome.next ?_, fun h hw hc => ⟨_, rfl, ?_⟩⟩
  · exact State.hostWrite_refused hr hs (by decide) ((State.odWrite_ashClear hl hlen).trans (State.writeClear_busy h))
  · exact State.hostWrite_refusedAs hr hs (by decide) rfl ((State.odWrite_ashClear hl hlen).trans (State.writeClear_stale hf hc hn hcur))
  · exact State.hostWrite_refused hr hs (by decide) (State.odWrite_ashClear_low hl)
  · have hw := (State.odWrite_ashClear hl hlen).trans (State.writeClear_mismatch hf hc hn hcur hto hfit)
    refine ⟨_, congrArg Host.Outcome.next (State.hostWrite_refusedAs hr hs (by decide) (by rfl) hw), ?_⟩
    rw [State.session_refuse, State.refuse_frame]
    refine ⟨rfl, ?_, ?_, rfl, rfl, rfl⟩
    · show ((s.spentNonce ses).session ses).clearNonce = none
      simp [State.spentNonce]
    · exact State.count_bumpBy_congr 0x2B00 6 1 (s := s) (t := s.spentNonce ses) rfl rfl rfl
  · have hw := (State.odWrite_ashClear hl hlen).trans (State.writeClear_accepted hf hc hn hcur hto hfit)
    obtain ⟨hclearing, hsort, hhold, hlast, hcores, hengines⟩ := State.clearAsh_rest (s := s.spentNonce ses) slot hf hc
    have hfound := (s.spentNonce ses).clearAsh_foundFill slot
    have hhead := (s.spentNonce ses).clearAsh_rollHead slot
    have hused := (s.spentNonce ses).clearAsh_rollUsed slot
    have hkeep := (s.spentNonce ses).clearAsh_keep slot
    have hrecords := (s.spentNonce ses).count_clearAsh slot
    have hoverflow := (s.spentNonce ses).count_clearAsh_ne slot (.inl rfl)
    have hsupp := (s.spentNonce ses).count_clearAsh_ne slot (.inr rfl)
    have hread := fun hm x => State.read_clearAsh (s := s.spentNonce ses) slot hm (x := x)
    refine ⟨_, congrArg Host.Outcome.next (State.hostWrite_done hr hs hw), ?_⟩
    rw [State.session_giveReply]
    generalize (s.spentNonce ses).clearAsh slot = t at *
    exact ⟨rfl, hclearing, hfound, hhead, hused, hsort, hhold, hlast, hkeep, hrecords, hoverflow, hsupp, hread, hcores, hengines⟩
  · simp [State.clearEnd, h]
  · simp [State.clearEnd, h, hw]
  · obtain ⟨hold, gap, hr⟩ := State.checkpointRecord_areas (s := { s with ash := { s.ash with clearing := false, pfailWaits := false } }) 0 hc
    have hend : s.clearEnd = ({ s with ash := { s.ash with clearing := false, pfailWaits := false } } : State).checkpointStart := by
      simp [State.clearEnd, h, hw]
    rw [hend, State.checkpointStart, if_neg (by simp [hc])]
    exact ⟨hr.clearing, hr.pfailWaits, rfl, hr.freeze, hr.cores⟩

end Sys2Proof.Machine
end

section
/-! SUPPORT. Challenges, responses and keys (R270-R272): what each of the session objects answers past steps 1 to 4 of R275; with them the settlement
of the sessions. -/

namespace Sys2Proof.Machine

variable {s : State} {ses : Ses} {data : List Byte}

@[simp] theorem State.session_modMaster (s : State) (m : Nat) (f : Master → Master) (n : Nat) : (s.modMaster m f).session n = s.session n := rfl

theorem State.session_giveReply_ne (s : State) {ses x : Ses} (r : Reply) (h : x ≠ ses) : (s.giveReply ses r).session x = s.session x :=
  State.session_modSession_ne _ _ h

/-! ## Past steps 1 to 4 of R275 -/

theorem State.odWrite_authSlot (hl : data.length = 1) : s.odWrite ses 0x2B00 2 data = s.beginAuth ses (fromLE data) := by
  unfold State.odWrite
  rw [State.row_authSlot]
  simp [woObj, roObj, OdRow.lengthOk, hl, State.needPriv]

theorem State.odWrite_authResponse (hl : data.length = 32) : s.odWrite ses 0x2B00 4 data = s.respond ses data := by
  have hlev : ¬ (s.session ses).level < s.needPriv 0x2B00 4 (fromLE data) (woObj 32 0) := Nat.not_lt_zero _
  have hlen : (woObj 32 0).lengthOk data.length = true := by
    rw [hl]
    rfl
  have hacc : (woObj 32 0).acc ≠ .ro := by decide
  unfold State.odWrite
  rw [State.row_authResponse]
  simp [hacc, hlen, hlev]

theorem State.odWrite_authDrop (hl : data.length = 1) : s.odWrite ses 0x2B00 5 data = s.dropLevel ses (fromLE data) := by
  have hlev : ¬ (s.session ses).level < s.needPriv 0x2B00 5 (fromLE data) (woObj 1 0) := Nat.not_lt_zero _
  have hlen : (woObj 1 0).lengthOk data.length = true := by
    rw [hl]
    rfl
  have hacc : (woObj 1 0).acc ≠ .ro := by decide
  unfold State.odWrite
  rw [State.row_authDrop]
  simp [hacc, hlen, hlev]

/-- The level a KEY_WRITE needs. -/
def State.keyPriv (s : State) : Nat := if s.noKeys then 0 else 2

theorem State.odWrite_keyWrite (hl : data.length = 34) (hp : s.keyPriv ≤ (s.session ses).level) :
    s.odWrite ses 0x2B02 1 data = if s.keyBad ses data then (0x06060000, s.metBad 0x2B02 1) else s.writeKey ses data := by
  have hlev : ¬ (s.session ses).level < s.needPriv 0x2B02 1 (fromLE data) { woObj 34 2 with persist := true } := Nat.not_lt.mpr hp
  have hlen : ({ woObj 34 2 with persist := true } : OdRow).lengthOk data.length = true := by
    rw [hl]
    rfl
  have hacc : ({ woObj 34 2 with persist := true } : OdRow).acc ≠ .ro := by decide
  unfold State.odWrite
  rw [State.row_keyWrite]
  simp only [hacc, hlen, hlev]
  simp

theorem State.odWrite_keyWrite_low (hp : (s.session ses).level < s.keyPriv) : s.odWrite ses 0x2B02 1 data = (0x06010000, s) :=
  State.odWrite_unprivileged (State.row_keyWrite s) (by decide) hp

/-! ## Responses -/

/-- The session behind a response: its challenge is spent. -/
def State.spentChallenge (s : State) (ses : Ses) : State := s.modSession ses (fun k => { k with nonce := none })

theorem State.master_spentChallenge (s : State) (ses : Ses) (m : Nat) : (s.spentChallenge ses).master m = s.master m := rfl

section Response
variable {n proof : List Byte}

theorem State.respond_none (h : (s.session ses).nonce = none) : s.respond ses proof = (0x08000022, s) := by
  simp [State.respond, h]

theorem State.respond_stale (h : (s.session ses).nonce = some n) (hcur : s.current (s.session ses).nonceAt = false) :
    s.respond ses proof = (0x08000022, s.spentChallenge ses) := by
  simp [State.respond, h, hcur, State.spentChallenge]

/-- The session rises to its slot's level. -/
def State.risen (s : State) (ses : Ses) (n : List Byte) : State :=
  ((s.spentChallenge ses).modSession ses (fun k => { k with
    level := (s.keySlot (s.session ses).slot).level
    key := if 2 ≤ ses then hmac (s.keyOf (s.session ses).slot) (n ++ [0x01]) else [] })).modMaster (sesMaster ses) (fun k => { k with fails := 0 })

theorem State.master_risen (s : State) (ses : Ses) (n : List Byte) :
    (s.risen ses n).master (sesMaster ses) = { s.master (sesMaster ses) with fails := 0 } := by
  unfold State.risen
  exact State.master_modMaster_same _ _ _

theorem State.respond_right (h : (s.session ses).nonce = some n) (hcur : s.current (s.session ses).nonceAt = true)
    (hlev : (s.keySlot (s.session ses).slot).level ≠ 0) (hproof : proof = s.authProof ses n (s.session ses).slot) :
    s.respond ses proof = (0, s.risen ses n) := by
  unfold State.respond
  simp only [h, hcur, Bool.not_true, Bool.false_eq_true, if_false]
  exact if_pos ⟨hlev, hproof⟩

theorem State.respond_wrong (h : (s.session ses).nonce = some n) (hcur : s.current (s.session ses).nonceAt = true)
    (hwrong : (s.keySlot (s.session ses).slot).level = 0 ∨ proof ≠ s.authProof ses n (s.session ses).slot) :
    s.respond ses proof = (0x06010000, (s.spentChallenge ses).authFail ses (s.session ses).slot) := by
  unfold State.respond
  simp only [h, hcur, Bool.not_true, Bool.false_eq_true, if_false]
  exact if_neg fun ⟨hlev, hproof⟩ => hwrong.elim hlev fun hne => hne hproof

end Response

theorem State.master_refuse (s : State) (ses idx sub code m : Nat) : (s.refuse ses idx sub code).master m = s.master m := by
  rw [State.refuse_frame]
  rfl

theorem State.count_refuse (s : State) (ses idx sub code i n : Nat) : (s.refuse ses idx sub code).count i n = s.count i n := by
  rw [State.refuse_frame]
  rfl

/-- A failed response touches its master, the counter and the recorder's inbox. -/
theorem State.master_authFail (s : State) (ses : Ses) (slot : Nat) : (s.authFail ses slot).master (sesMaster ses) =
    if 5 ≤ (s.master (sesMaster ses)).fails + 1 then { s.master (sesMaster ses) with fails := 0, lockout := some s.time.up }
    else { s.master (sesMaster ses) with fails := (s.master (sesMaster ses)).fails + 1 } :=
  (State.master_modMaster_same s (sesMaster ses) fun k => if 5 ≤ (s.master (sesMaster ses)).fails + 1 then
    { k with fails := 0, lockout := some s.time.up } else { k with fails := (s.master (sesMaster ses)).fails + 1 } :)

theorem State.count_authFail (s : State) (ses : Ses) (slot : Nat) :
    (s.authFail ses slot).count 0x2B00 6 = (s.bump 0x2B00 6).count 0x2B00 6 :=
  State.count_bumpBy_congr 0x2B00 6 1 (s := s)
    (t := s.modMaster (sesMaster ses) fun k => if 5 ≤ (s.master (sesMaster ses)).fails + 1 then { k with fails := 0, lockout := some s.time.up }
      else { k with fails := (s.master (sesMaster ses)).fails + 1 }) rfl rfl rfl

theorem State.session_authFail (s : State) (ses : Ses) (slot n : Nat) : (s.authFail ses slot).session n = s.session n := rfl

/-- What a response that proves its key leaves. -/
theorem State.risen_leaves (s : State) (ses : Ses) (n : List Byte) :
    ((s.risen ses n).session ses).level = (s.keySlot (s.session ses).slot).level ∧ ((s.risen ses n).session ses).nonce = none ∧
      ((s.risen ses n).master (sesMaster ses)).fails = 0 ∧ (∀ x, x ≠ ses → (s.risen ses n).session x = s.session x) ∧
      (s.risen ses n).mem = s.mem := by
  refine ⟨?_, ?_, congrArg Master.fails (s.master_risen ses n), fun x hx => ?_, rfl⟩
  · simp [State.risen]
  · simp [State.risen, State.spentChallenge]
  · simp [State.session, State.risen, State.spentChallenge, State.modSession, State.modMaster, Tab.get_set_ne _ _ _ hx]

/-- What a response that does not prove it leaves. -/
theorem State.failed_leaves (s : State) (ses : Ses) (slot : Nat) :
    let t := (s.spentChallenge ses).authFail ses slot
    (t.session ses).level = (s.session ses).level ∧ (t.session ses).nonce = none ∧ t.count 0x2B00 6 = (s.bump 0x2B00 6).count 0x2B00 6 ∧
      (5 ≤ (s.master (sesMaster ses)).fails + 1 → (t.master (sesMaster ses)).lockout = some s.time.up) ∧
      ((s.master (sesMaster ses)).fails + 1 < 5 → (t.master (sesMaster ses)).fails = (s.master (sesMaster ses)).fails + 1 ∧
        (t.master (sesMaster ses)).lockout = (s.master (sesMaster ses)).lockout) := by
  refine ⟨?_, ?_, State.count_authFail (s.spentChallenge ses) ses slot, fun h5 => ?_, fun h5 => ?_⟩
  · rw [State.session_authFail]
    simp [State.spentChallenge]
  · rw [State.session_authFail]
    simp [State.spentChallenge]
  · rw [State.master_authFail, State.master_spentChallenge, if_pos h5]
    rfl
  · rw [State.master_authFail, State.master_spentChallenge, if_neg (Nat.not_le.mpr h5)]
    exact ⟨rfl, rfl⟩

theorem State.lockedOut_of {m t0 : Nat} (h : (s.master m).lockout = some t0) : s.lockedOut m = decide (s.time.up < t0 + 60000000000) := by
  unfold State.lockedOut
  rw [h]
  rfl

/-! ## Keys -/

/-- The state behind a key written to a slot. -/
def State.keyed (s : State) (data : List Byte) : State :=
  { s with keys := Tab.set s.keys (data.getD 0 0).toNat (if (data.getD 1 0).toNat = 0 then KeySlot.reset else ⟨(data.getD 1 0).toNat, data.drop 2⟩)
           keep := { s.keep with prevKeys := s.keys } }

/-- The UDP masters write no keys. -/
theorem State.writeKey_udp (hm : sesMaster ses = 2) : s.writeKey ses data = (0x08000022, s) := by simp [State.writeKey, hm]

theorem State.writeKey_outOfRange (hm : sesMaster ses ≠ 2)
    (h : (data.getD 0 0).toNat = 0 ∨ 7 < (data.getD 0 0).toNat ∨ 2 < (data.getD 1 0).toNat) : s.writeKey ses data = (0x06090030, s) := by
  unfold State.writeKey
  dsimp only
  rw [if_neg hm, if_pos h]

/-- What an accepted key write must meet. -/
structure KeyFits (s : State) (ses : Ses) (data : List Byte) : Prop where
  master : sesMaster ses ≠ 2
  slot : 1 ≤ (data.getD 0 0).toNat ∧ (data.getD 0 0).toNat ≤ 7
  level : (data.getD 1 0).toNat ≤ 2
  below : s.noKeys = true ∨ (data.getD 1 0).toNat ≤ (s.session ses).level

theorem State.writeKey_fits (h : KeyFits s ses data) : s.writeKey ses data = (0, s.keyed data) := by
  obtain ⟨hm, ⟨hlo, hhi⟩, hlev, hbelow⟩ := h
  have hrange : ¬ ((data.getD 0 0).toNat = 0 ∨ 7 < (data.getD 0 0).toNat ∨ 2 < (data.getD 1 0).toNat) := by omega
  have hown : (!s.noKeys && decide ((s.session ses).level < (data.getD 1 0).toNat)) = false := by
    obtain h | h := hbelow
    · simp [h]
    · rw [decide_eq_false (Nat.not_lt.mpr h), Bool.and_false]
  unfold State.writeKey
  dsimp only
  rw [if_neg hm, if_neg hrange, hown]
  rfl

theorem State.keyBad_eq (s : State) (ses : Ses) (data : List Byte) :
    s.keyBad ses data = (s.keep.bad.contains (odKey 0x2B02 1) && (s.writeKey ses data).1 == 0) := rfl

/-- A key write changes a slot only where it fits. -/
theorem State.keys_writeKey (s : State) (ses : Ses) (data : List Byte) (hkeys : s.noKeys = false)
    (hne : Tab.get KeySlot.reset (s.writeKey ses data).2.keys (data.getD 0 0).toNat ≠ Tab.get KeySlot.reset s.keys (data.getD 0 0).toNat) :
    (data.getD 1 0).toNat ≤ (s.session ses).level := by
  unfold State.writeKey at hne
  dsimp only at hne
  by_contra hover
  have hown : (!s.noKeys && decide ((s.session ses).level < (data.getD 1 0).toNat)) = true := by simpa [hkeys] using hover
  split_ifs at hne with h1 h2
  · exact absurd rfl hne
  · exact absurd rfl hne
  · exact absurd rfl hne

theorem State.refusedBy_frame (s : State) (bar0 : Bool) (idx sub abort : Nat) :
    s.refusedBy bar0 idx sub abort = { s with pcie := (s.refusedBy bar0 idx sub abort).pcie } := by
  unfold State.refusedBy State.badAccess State.latchAbort
  cases bar0
  · rfl
  · rfl

theorem State.refusedBy_keys (s : State) (bar0 : Bool) (idx sub abort : Nat) : (s.refusedBy bar0 idx sub abort).keys = s.keys := by
  rw [State.refusedBy_frame]

theorem State.crossingDrop_keys (s : State) : s.crossingDrop.keys = s.keys := by
  unfold State.crossingDrop
  split <;> rfl

/-- What a key write answers and does, whatever the session is. -/
theorem State.keys_hostWrite_keyWrite (s : State) (ses : Ses) (hl : data.length = 34) :
    (s.hostWrite ses 0x2B02 1 data).keys = s.keys ∨ (s.hostWrite ses 0x2B02 1 data).keys = (s.writeKey ses data).2.keys := by
  by_cases hr : s.reachable ses = true
  · by_cases hs : s.serves = true
    · have hreply (t : State) (a : Nat) (hw : s.odWrite ses 0x2B02 1 data = (a, t)) : (s.hostWrite ses 0x2B02 1 data).keys = t.keys := by
        rw [State.hostWrite_of hr hs hw]
        split
        · exact State.refusedBy_keys ..
        · rfl
      by_cases hp : s.keyPriv ≤ (s.session ses).level
      · by_cases hb : s.keyBad ses data = true
        · exact .inl (hreply (s.metBad 0x2B02 1) _ ((State.odWrite_keyWrite hl hp).trans (if_pos hb)))
        · exact .inr (hreply _ _ ((State.odWrite_keyWrite hl hp).trans (if_neg hb)))
      · exact .inl (hreply _ _ (State.odWrite_keyWrite_low (Nat.lt_of_not_le hp)))
    · have hs : s.serves = false := by simpa using hs
      refine .inl ?_
      simp only [State.hostWrite, State.writeBy, State.writeObject, hr, hs, Bool.not_true, Bool.not_false, Bool.false_eq_true, if_false, and_true]
      split_ifs
      · exact State.crossingDrop_keys s
      · exact State.refusedBy_keys ..
      · rfl
  · refine .inl ?_
    simp [State.hostWrite, State.writeBy, hr]

/-- Settles O45: each session object by its own rule; no key rises above the level of the session that writes it. -/
theorem sessionsRise : Obligations.SessionsRise := by
  unfold Obligations.SessionsRise
  intro s ses slot lvl proof data hslot hlvl hproof hdata
  have hone (v : Nat) : (toLE 1 v).length = 1 := length_toLE 1 v
  have hbyte {v : Nat} (h : v < 256) : fromLE (toLE 1 v) = v := by
    rw [fromLE_toLE]
    exact Nat.mod_eq_of_lt h
  refine ⟨fun ⟨hr, hs, _⟩ h8 hlock => congrArg Host.Outcome.next (State.hostWrite_done hr hs ?_),
    fun ⟨hr, hs, _⟩ hlock => congrArg Host.Outcome.next (State.hostWrite_refused hr hs (by decide) ?_),
    fun ⟨hr, hs, _⟩ h8 hlock => congrArg Host.Outcome.next (State.hostWrite_refused hr hs (by decide) ?_),
    fun ⟨hr, hs, _⟩ hn => congrArg Host.Outcome.next (State.hostWrite_refused hr hs (by decide) ?_),
    fun n ⟨hr, hs, _⟩ hn hcur => congrArg Host.Outcome.next (State.hostWrite_refusedAs hr hs (by decide) (by rfl)
      ((State.odWrite_authResponse hproof).trans (State.respond_stale hn hcur))),
    fun n ⟨hr, hs, _⟩ hn hcur hlev hp => ?_, fun n ⟨hr, hs, _⟩ hn hcur hw => ?_,
    fun n hn hcur => congrArg Host.Outcome.next ?_, fun h => congrArg Host.Outcome.next (a₂ := s) ?_,
    fun t0 hlock ht => congrArg Host.Outcome.next ?_, fun t0 hlock ht => congrArg Host.Outcome.next (a₂ := s) ?_,
    fun ⟨hr, hs, hl⟩ => congrArg Host.Outcome.next (State.hostWrite_done hr hs ?_),
    fun ⟨hr, hs, _⟩ hl => congrArg Host.Outcome.next (State.hostWrite_refused hr hs (by decide) ?_),
    fun hr hs hl => congrArg Host.Outcome.next (State.hostWrite_refused hr hs (by decide) (State.odWrite_keyWrite_low hl)),
    fun ⟨hr, hs, _⟩ => State.mailbox_upload hr hs ?_,
    fun ⟨hr, hs, hl⟩ hm => congrArg Host.Outcome.next (State.hostWrite_refused hr hs (by decide) ((State.odWrite_keyWrite hdata hl).trans ?_)),
    fun ⟨hr, hs, hl⟩ hm h => congrArg Host.Outcome.next (State.hostWrite_refused hr hs (by decide) ((State.odWrite_keyWrite hdata hl).trans ?_)),
    fun ⟨hr, hs, hl⟩ hm h1 h7 h2 hbelow hbad => congrArg Host.Outcome.next (State.hostWrite_refusedAs hr hs (by decide) (by rfl)
      ((State.odWrite_keyWrite hdata hl).trans ?_)),
    fun ⟨hr, hs, hl⟩ hm h1 h7 h2 hbelow hbad => congrArg Host.Outcome.next (State.hostWrite_done hr hs
      ((State.odWrite_keyWrite hdata hl).trans ?_)), fun t hkeys ht hne => ?_⟩
  · rw [State.odWrite_authSlot (hone slot), hbyte hslot]
    simp [State.beginAuth, hlock, Nat.not_le.mpr h8]
  · rw [State.odWrite_authSlot (hone slot)]
    simp [State.beginAuth, hlock]
  · rw [State.odWrite_authSlot (hone slot), hbyte hslot]
    simp [State.beginAuth, hlock, h8]
  · exact (State.odWrite_authResponse hproof).trans (State.respond_none hn)
  · refine ⟨_, congrArg Host.Outcome.next (State.hostWrite_done hr hs
      ((State.odWrite_authResponse hproof).trans (State.respond_right hn hcur hlev hp))), ?_⟩
    obtain ⟨hlevel, hnonce, hfails, hother, hmem⟩ := s.risen_leaves ses n
    generalize s.risen ses n = t at *
    rw [State.session_giveReply]
    exact ⟨hlevel, hnonce, hfails, rfl, fun x hx => (State.session_giveReply_ne t _ hx).trans (hother x hx), hmem⟩
  · refine ⟨_, congrArg Host.Outcome.next (State.hostWrite_refusedAs hr hs (by decide) (by rfl)
      ((State.odWrite_authResponse hproof).trans (State.respond_wrong hn hcur hw))), ?_⟩
    obtain ⟨hlevel, hnonce, hcount, hlock, hrun⟩ := s.failed_leaves ses (s.session ses).slot
    rw [State.session_refuse, State.count_refuse, State.master_refuse]
    exact ⟨hlevel, hnonce, rfl, hcount, hlock, hrun⟩
  · simp [State.lapse, hn, hcur]
  · obtain h | h := h <;> simp [State.lapse, h]
  · simp [State.lockoutEnd, hlock, State.lockedOut_of hlock, Nat.not_lt.mpr ht]
  · simp [State.lockoutEnd, State.lockedOut_of hlock, ht]
  · rw [State.odWrite_authDrop (hone lvl), hbyte hlvl]
    simp [State.dropLevel, Nat.not_lt.mpr hl]
  · rw [State.odWrite_authDrop (hone lvl), hbyte hlvl]
    simp [State.dropLevel, hl]
  · rfl
  · rw [State.keyBad_eq, State.writeKey_udp hm]
    simp
  · rw [State.keyBad_eq, State.writeKey_outOfRange hm h]
    simp
  · rw [State.keyBad_eq, State.writeKey_fits ⟨hm, ⟨h1, h7⟩, h2, hbelow⟩, hbad]
    rfl
  · rw [State.keyBad_eq, State.writeKey_fits ⟨hm, ⟨h1, h7⟩, h2, hbelow⟩, hbad]
    rfl
  · have ht : s.hostWrite ses 0x2B02 1 data = t := Host.Outcome.next.inj ht
    subst ht
    obtain h | h := State.keys_hostWrite_keyWrite s ses hdata
    · exact absurd (by rw [h]) hne
    · exact State.keys_writeKey s ses data hkeys (h ▸ hne)

end Sys2Proof.Machine
end

section
/-! SUPPORT. SET_CMD and the commit of the configuration sets (R273, R274): the fields of a command's value, its checks in order, what each command
does; with them the settlement of the set commands. -/

namespace Sys2Proof.Machine

variable {s : State} {ses : Ses}

/-! ## A SET_CMD value -/

/-- The value of a COMMIT. -/
def commitWord (w m x : Nat) : Nat := 1 + w * 2 ^ 4 + m * 2 ^ 6 + x * 2 ^ 12

theorem commitWord_fields {w m x : Nat} (hw : w < 4) (hm : m < 64) (hx : x < 64) :
    field (commitWord w m x) 0 4 = 1 ∧ field (commitWord w m x) 4 2 = w ∧ field (commitWord w m x) 6 6 = m ∧ field (commitWord w m x) 12 6 = x := by
  unfold commitWord field
  omega

theorem commitWord_lt {w m x : Nat} (hw : w < 4) (hm : m < 64) (hx : x < 64) : commitWord w m x < 256 ^ 4 := by
  unfold commitWord
  omega

theorem commitWord_priv (s : State) {w m x : Nat} (hw : w < 4) (hm : m < 64) (hx : x < 64) : s.setCmdPriv (commitWord w m x) = 1 := by
  simp [State.setCmdPriv, (commitWord_fields hw hm hx).1]

/-- Past steps 1 to 4 of R275 a SET_CMD is checked by its own order. -/
theorem State.odWrite_setCmd {v : Nat} (hv : v < 256 ^ 4) (hp : s.setCmdPriv v ≤ (s.session ses).level) :
    s.odWrite ses 0x2100 1 (toLE 4 v) = s.setCommand ses v := by
  have hle : fromLE (toLE 4 v) = v := by rw [fromLE_toLE, Nat.mod_eq_of_lt hv]
  have hacc : (woObj 4 0).acc ≠ .ro := by decide
  have hlev : ¬ (s.session ses).level < s.needPriv 0x2100 1 v (woObj 4 0) := Nat.not_lt.mpr hp
  have hlen : (woObj 4 0).lengthOk 4 = true := by decide
  unfold State.odWrite
  rw [State.row_setCmd]
  simp [hle, hacc, hlev, hlen]

theorem State.odWrite_setCmd_low {v : Nat} (hv : v < 256 ^ 4) (hp : (s.session ses).level < s.setCmdPriv v) :
    s.odWrite ses 0x2100 1 (toLE 4 v) = (0x06010000, s) := by
  refine State.odWrite_unprivileged (State.row_setCmd s) (by decide) ?_
  rw [fromLE_toLE, Nat.mod_eq_of_lt hv]
  exact hp

/-- A SET_CMD that is refused. -/
theorem State.setCmd_refused {t : State} {v a : Nat} (hr : s.reachable ses = true) (hs : s.serves = true) (ha : a ≠ 0) (hv : v < 256 ^ 4)
    (hp : s.setCmdPriv v ≤ (s.session ses).level) (hlong : t.longObject 0x2100 1 = s.longObject 0x2100 1)
    (hc : s.setCommand ses v = (a, t)) : s.hostWrite ses 0x2100 1 (toLE 4 v) = t.refuse ses 0x2100 1 a :=
  State.hostWrite_refusedAs hr hs ha hlong ((State.odWrite_setCmd hv hp).trans hc)

theorem State.setCmd_done {t : State} {v : Nat} (hr : s.reachable ses = true) (hs : s.serves = true) (hv : v < 256 ^ 4)
    (hp : s.setCmdPriv v ≤ (s.session ses).level) (hc : s.setCommand ses v = (0, t)) :
    s.hostWrite ses 0x2100 1 (toLE 4 v) = t.giveReply ses ⟨0, []⟩ :=
  State.hostWrite_done hr hs ((State.odWrite_setCmd hv hp).trans hc)

/-! ## The order of R274 -/

section Order
variable {v : Nat}

theorem setCmdBad_eq_false (h1 : 1 ≤ field v 0 4) (h4 : field v 0 4 ≤ 4) (hw : field v 4 2 ≠ 3) : setCmdBad v = false := by
  simp [setCmdBad, h1, h4, hw]

theorem setCmdBad_of_when (hw : field v 4 2 = 3) : setCmdBad v = true := by simp [setCmdBad, hw]

theorem State.setCommand_bad (h : setCmdBad v = true) : s.setCommand ses v = (0x06090030, s) := by
  simp [State.setCommand, h]

theorem State.setCommand_claimed (hb : setCmdBad v = false) (hc : s.claimedByOther ses = true) :
    s.setCommand ses v = (0x08000022, s.setResult 6) := by
  simp [State.setCommand, hb, hc]

theorem State.setCommand_busy (hb : setCmdBad v = false) (hc : s.claimedByOther ses = false)
    (hst : s.sets.state = 2 ∨ (s.sets.state = 1 ∧ field v 0 4 = 1)) : s.setCommand ses v = (0x08000022, s.setResult 5) := by
  simp [State.setCommand, hb, hc, hst]

/-- A COMMIT on idle sets: its mark must be enabled, its context must run. -/
theorem State.setCommand_commit (hb : setCmdBad v = false) (hc : s.claimedByOther ses = false) (hst : s.sets.state = 0) (h1 : field v 0 4 = 1) :
    s.setCommand ses v =
      if field v 4 2 = 1 ∧ s.markOn (field v 6 6) = false then (0x08000022, s.setResult 2)
      else if field v 4 2 = 2 ∧ (s.ctx (field v 12 6)).state ≠ .running then (0x08000022, s.setResult 3)
      else (0, s.requestCommit ⟨masterSource (sesMaster ses), field v 4 2, field v 6 6, field v 12 6, false⟩) := by
  simp [State.setCommand, State.setDo, hb, hc, hst, h1]

/-- The other commands wait for nothing but a reload of the shadow. -/
theorem State.setCommand_other (hb : setCmdBad v = false) (hc : s.claimedByOther ses = false) (hst : s.sets.state ≠ 2) (h1 : field v 0 4 ≠ 1) :
    s.setCommand ses v = (0, s.setDo ses v) := by
  simp [State.setCommand, hb, hc, hst, h1]

end Order

/-- A claim that is not another session's is this one's, or none. -/
theorem owner_of_free (h : s.claimedByOther ses = false) : s.sets.owner = none ∨ s.sets.owner = some ses := by
  unfold State.claimedByOther at h
  cases ho : s.sets.owner with
  | none => exact .inl rfl
  | some n =>
    rw [ho] at h
    exact .inr (congrArg some (by simpa using h))

/-- YIELD. -/
theorem State.setDo_yield (h : s.claimedByOther ses = false) : s.setDo ses 4 = { s with sets := { s.sets with owner := none } } := by
  show (if s.sets.owner = some ses then { s with sets := { s.sets with owner := none } } else s) = _
  split
  · rfl
  · next hne => rw [← (owner_of_free h).resolve_right hne]

/-! ## A commit takes effect -/

/-- A commit is recorded, persisted and signalled. -/
def State.announced (s : State) (words : List Nat) : State := ((s.record 0 0x0005 words).persistSets).msix 0

theorem State.announced_frame (s : State) (words : List Nat) : s.announced words =
    { s with ash := (s.announced words).ash, keep := (s.announced words).keep, pcie := (s.announced words).pcie } := rfl

theorem State.announced_msix (s : State) (words : List Nat) : bit (s.announced words).pcie.msix 0 = true := bit_setBit_same ..

/-- The sets have changed places, the commit is counted and announced; nothing follows yet. -/
def State.swapped (s : State) (r : PendCommit) : State :=
  (s.swapSets.bump 0x2100 7).announced
    [(s.swapSets.bump 0x2100 7).count 0x2100 7, r.src + r.when_ * 2 ^ 16 + r.mark * 2 ^ 18 + r.ctx * 2 ^ 24]

theorem State.swapped_sets (s : State) (r : PendCommit) : (s.swapped r).sets = s.swapSets.sets := by
  unfold State.swapped
  rw [State.announced_frame]
  rfl

theorem State.swapped_rest (s : State) (r : PendCommit) :
    (s.swapped r).cores = s.cores ∧ (s.swapped r).engines = s.engines ∧ (s.swapped r).mem = s.mem := by
  unfold State.swapped
  rw [State.announced_frame]
  exact ⟨rfl, rfl, rfl⟩

theorem State.commitSets_eq (s : State) (r : PendCommit) : s.commitSets r =
    (((((((s.swapped r).gateInterfaces s).moveDividers s).moveTime s).moveMeasure s).moveOutputs s).moveCores s).markBudget := rfl

/-- Settles O44: the order of R274, then each command's effect; a commit is one swap, with what follows behind it. -/
theorem setCommandsAndCommits : Obligations.SetCommandsAndCommits := by
  unfold Obligations.SetCommandsAndCommits
  refine ⟨fun s ses w m x hw hm hx => ?_, fun s => ?_⟩
  · obtain ⟨hcode, hwhen, hmark, hctx⟩ := commitWord_fields hw hm hx
    have hlt := commitWord_lt hw hm hx
    have hpriv := commitWord_priv s hw hm hx
    have hgood (h : w < 3) : setCmdBad (commitWord w m x) = false := setCmdBad_eq_false (by omega) (by omega) (by omega)
    refine ⟨fun ⟨hr, hs, hl⟩ hw3 => congrArg Host.Outcome.next (State.setCmd_refused hr hs (by decide) hlt (hpriv.trans_le hl) (by rfl) ?_),
      fun ⟨hr, hs, hl⟩ hw3 hfree hst hmk hrun => congrArg Host.Outcome.next (State.setCmd_done hr hs hlt (hpriv.trans_le hl) ?_),
      fun ⟨hr, hs, hl⟩ hw3 hfree hst h2 => congrArg Host.Outcome.next (State.setCmd_refused hr hs (by decide) hlt (hpriv.trans_le hl) (by rfl) ?_),
      fun ⟨hr, hs, hl⟩ hfree hst hmk => ?_, fun ⟨hr, hs, hl⟩ hfree hst hrun => ?_, fun ⟨hr, hs, hl⟩ hc => ⟨fun hw3 => ?_, ?_, ?_⟩,
      fun ⟨hr, hs, hl⟩ hfree hst => ⟨?_, ?_⟩, fun ⟨hr, hs, hl⟩ hfree hst => ?_, fun ⟨hr, hs, hl⟩ hfree hst => ?_,
      fun ⟨hr, hs, hl⟩ hfree hst => ?_, fun hr hs hl => ?_⟩
    · exact State.setCommand_bad (setCmdBad_of_when (hwhen.trans hw3))
    · refine (State.setCommand_commit (hgood hw3) hfree hst hcode).trans ?_
      rw [hwhen, hmark, hctx, if_neg, if_neg]
      · rfl
      · exact fun ⟨h2, h⟩ => h (hrun h2)
      · exact fun ⟨h1, h⟩ => Bool.false_ne_true (h.symm.trans (hmk h1))
    · refine State.setCommand_busy (hgood hw3) hfree ?_
      obtain h | h : s.sets.state = 2 ∨ s.sets.state = 1 := by omega
      · exact .inl h
      · exact .inr ⟨h, hcode⟩
    · obtain ⟨hcode, hwhen, hmark, hctx⟩ := commitWord_fields (by omega : 1 < 4) hm hx
      refine congrArg Host.Outcome.next (State.setCmd_refused hr hs (by decide) (commitWord_lt (by omega : 1 < 4) hm hx)
        ((commitWord_priv s (by omega) hm hx).trans_le hl) (by rfl) ?_)
      refine (State.setCommand_commit (setCmdBad_eq_false (by omega) (by omega) (by omega)) hfree hst hcode).trans ?_
      rw [hwhen, hmark, if_pos ⟨rfl, hmk⟩]
    · obtain ⟨hcode, hwhen, hmark, hctx⟩ := commitWord_fields (by omega : 2 < 4) hm hx
      refine congrArg Host.Outcome.next (State.setCmd_refused hr hs (by decide) (commitWord_lt (by omega : 2 < 4) hm hx)
        ((commitWord_priv s (by omega) hm hx).trans_le hl) (by rfl) ?_)
      refine (State.setCommand_commit (setCmdBad_eq_false (by omega) (by omega) (by omega)) hfree hst hcode).trans ?_
      rw [hwhen, hctx, if_neg (by omega),
        if_pos ⟨rfl, hrun⟩]
    · exact congrArg Host.Outcome.next (State.setCmd_refused hr hs (by decide) hlt (hpriv.trans_le hl) (by rfl)
        (State.setCommand_claimed (hgood hw3) hc))
    · exact congrArg Host.Outcome.next (State.setCmd_refused hr hs (by decide) (by decide) hl (by rfl) (State.setCommand_claimed (by decide) hc))
    · exact congrArg Host.Outcome.next (State.setCmd_refused hr hs (by decide) (by decide) hl (by rfl) (State.setCommand_claimed (by decide) hc))
    · exact congrArg Host.Outcome.next (State.setCmd_refused hr hs (by decide) (by decide) hl (by rfl)
        (State.setCommand_busy (by decide) hfree (.inl hst)))
    · exact congrArg Host.Outcome.next (State.setCmd_refused hr hs (by decide) (by decide) hl (by rfl)
        (State.setCommand_busy (by decide) hfree (.inl hst)))
    · exact congrArg Host.Outcome.next (State.setCmd_done hr hs (by decide) hl (State.setCommand_other (by decide) hfree hst (by decide)))
    · exact congrArg Host.Outcome.next (State.setCmd_done hr hs (by decide) hl ((State.setCommand_other (by decide) hfree hst (by decide)).trans
        (by rw [State.setDo_yield hfree])))
    · exact congrArg Host.Outcome.next (State.setCmd_done hr hs (by decide) hl (State.setCommand_other (by decide) hfree hst (by decide)))
    · exact congrArg Host.Outcome.next (State.hostWrite_refused hr hs (by decide) (State.odWrite_setCmd_low (by decide) hl))
  · refine ⟨fun h => congrArg Host.Outcome.next (a₂ := s) ?_, fun r h hw hd => congrArg Host.Outcome.next (a₂ := s) ?_,
      fun r h hd => ⟨s.swapped r, congrArg Host.Outcome.next ?_, ?_⟩,
      fun h => congrArg Host.Outcome.next ?_, fun h => congrArg Host.Outcome.next (a₂ := s) ?_⟩
    · simp [State.commitEffect, h]
    · simp [State.commitEffect, h, hw, hd]
    · unfold State.commitEffect
      rw [h]
      exact (if_pos hd).trans (s.commitSets_eq r)
    · rw [s.swapped_sets]
      exact ⟨rfl, rfl, rfl, rfl, rfl, rfl, rfl, rfl, State.announced_msix .., s.swapped_rest r⟩
    · exact if_pos h
    · exact if_neg h

end Sys2Proof.Machine
end

section
/-! SUPPORT. The GTC against its reference (R213, R215-R217): what a reference event does in each state, when it is compared, and the loss of the
source; with them the settlement of the GTC's discipline. -/

namespace Sys2Proof.Machine

variable {s : State} {dc : Nat}

/-! ## The cycle -/

/-- Events missing in between leave the cycle as it was. -/
theorem nextCycle_mul {n m : Nat} (hn : 0 < n) (hm : 0 < m) : nextCycle n (m * n) = n := by
  have hparts : (2 * (m * n) + n) / (2 * n) = m := by
    rw [show 2 * (m * n) + n = n * (2 * m + 1) by ring, show 2 * n = n * 2 by ring, Nat.mul_div_mul_left _ _ hn]
    omega
  rw [nextCycle, if_neg (Nat.ne_of_gt hn), hparts, Nat.max_eq_right hm, Nat.mul_div_cancel_left _ hm]

/-! ## What is seen of an event -/

theorem State.seeRef_frame (s : State) (dc : Nat) : s.seeRef dc = { s with time := (s.seeRef dc).time } := by
  unfold State.seeRef
  dsimp only
  split <;> rfl

theorem State.seeRef_time (s : State) (dc : Nat) : (s.seeRef dc).time = { s.time with
    lastSeen := s.time.up, lastDc := (s.seeRef dc).time.lastDc, cycle := (s.seeRef dc).time.cycle } := by
  unfold State.seeRef
  dsimp only
  split <;> rfl

theorem State.seeRef_dc (h : s.cfg 0x2300 2 = 1) : s.seeRef dc = { s with time := { s.time with
    lastSeen := s.time.up, lastDc := dc, cycle := if s.time.lastDc = 0 then s.time.cycle else nextCycle s.time.cycle (dc - s.time.lastDc) } } :=
  if_pos h

theorem State.refAccepted_iff (h : s.cfg 0x2300 2 = 1) : s.refAccepted dc = true ↔
    31250 ≤ s.time.cycle ∧ s.time.cycle ≤ 100000000 ∧ (1000000 ≤ s.time.cycle ∨ 1000000 ≤ dc - s.time.cmpDc) := by
  unfold State.refAccepted
  simp [h, and_assoc]

theorem State.refAccepted_pps (h : s.cfg 0x2300 2 ≠ 1) : s.refAccepted dc = true := if_neg h

/-! ## A change of state -/

/-- A change of state is recorded; of the time it changes the mode and the two run counts. -/
theorem State.setGtcMode_frame (s : State) (m : GtcState) : s.setGtcMode m = { s with
    time := { s.time with mode := m, good := (s.setGtcMode m).time.good, outliers := (s.setGtcMode m).time.outliers }
    ash := (s.setGtcMode m).ash } := by
  unfold State.setGtcMode
  split
  · next h => rw [← h]
  · rfl

/-! ## An event in each state -/

/-- The time of the event is that of the last reference. -/
def State.atRef (s : State) (dc : Nat) : State := { s with time := { s.time with lastRef := s.time.up, cmpDc := dc } }

theorem State.referenceEvent_off (h : s.cfg 0x2300 2 = 0) : s.referenceEvent dc = s := if_pos h

theorem State.referenceEvent_holdover (h : s.cfg 0x2300 2 ≠ 0) (hm : (s.seeRef dc).time.mode = .holdover) :
    s.referenceEvent dc = ({ (s.seeRef dc).atRef dc with time := { ((s.seeRef dc).atRef dc).time with cycle := 0 } } : State).setGtcMode .acquire := by
  unfold State.referenceEvent
  rw [if_neg h]
  dsimp only
  split
  · rfl
  all_goals simp_all

theorem State.referenceEvent_follows (h : s.cfg 0x2300 2 ≠ 0) (hm : (s.seeRef dc).time.mode = .acquire ∨ (s.seeRef dc).time.mode = .locked) :
    s.referenceEvent dc = (s.seeRef dc).disciplineBy dc := by
  unfold State.referenceEvent
  rw [if_neg h]
  dsimp only
  obtain hm | hm := hm <;> rw [hm]

theorem State.disciplineBy_first (h : s.time.lastRef = 0) : s.disciplineBy dc = s.atRef dc := if_pos h

theorem State.disciplineBy_refused (h : s.time.lastRef ≠ 0) (ha : s.refAccepted dc = false) : s.disciplineBy dc = s := by
  simp [State.disciplineBy, h, ha]

theorem State.disciplineBy_compared (h : s.time.lastRef ≠ 0) (hd : s.time.up - s.time.lastRef ≠ 0) (ha : s.refAccepted dc = true) :
    s.disciplineBy dc = (s.atRef dc).compareRef (s.refTime dc - s.time.gtc) (s.time.up - s.time.lastRef) := by
  have hgo : ¬ (s.time.up - s.time.lastRef = 0 ∨ (!s.refAccepted dc) = true) := by simp [hd, ha]
  unfold State.disciplineBy
  exact (if_neg h).trans (if_neg hgo)

/-- An offset far out of the window in LOCKED: set aside, and the third in a row starts the acquisition anew. -/
theorem State.compareRef_outlier {off : Int} (d : Nat) (hm : s.time.mode = .locked) (ho : 10 * s.cfg 0x2300 6 < off.natAbs) :
    s.compareRef off d =
      if 3 ≤ s.time.outliers + 1 then
        ({ s with time := { s.time with offset := off, outliers := s.time.outliers + 1 } } : State).setGtcMode .acquire
      else { s with time := { s.time with offset := off, outliers := s.time.outliers + 1 } } := by
  unfold State.compareRef
  exact if_pos ⟨hm, ho⟩

/-- The time behind a comparison that counts. -/
def TimeBase.compared (t : TimeBase) (off : Int) (d win : Nat) : TimeBase :=
  { t with offset := off, outliers := 0, integral := t.integral + off, rate := rateOf off (t.integral + off) d,
           good := if off.natAbs ≤ win then t.good + 1 else 0,
           rates := (t.rates ++ [rateOf off (t.integral + off) d]).drop (t.rates.length + 1 - 64) }

theorem State.compareRef_counts {off : Int} (d : Nat) (h : ¬ (s.time.mode = .locked ∧ 10 * s.cfg 0x2300 6 < off.natAbs)) :
    s.compareRef off d =
      if s.time.mode = .acquire ∧ 16 ≤ (s.time.compared off d (s.cfg 0x2300 6)).good then
        ({ s with time := s.time.compared off d (s.cfg 0x2300 6) } : State).setGtcMode .locked
      else { s with time := s.time.compared off d (s.cfg 0x2300 6) } := by
  unfold State.compareRef
  rw [if_neg h]
  simp only [TimeBase.compared, List.length_append, List.length_singleton]
  rfl

theorem rateOf_bounds (o i : Int) (d : Nat) : -100000 ≤ rateOf o i d ∧ rateOf o i d ≤ 100000 := by
  unfold rateOf clampInt
  omega

/-! ## The loss of the source -/

theorem State.sourceLost_of (hl : s.sourceMissing = true ∨ s.dcInactive = true) (hm : s.time.mode = .acquire ∨ s.time.mode = .locked) :
    s.sourceLost = (({ s with time := { s.time with rate := s.time.meanRate, holdoverSince := s.time.gtc } } : State).bump 0x2300 8).setGtcMode
      .holdover := if_pos ⟨hl, hm⟩

theorem State.sourceLost_present (hl : s.sourceMissing = false) (hd : s.dcInactive = false) : s.sourceLost = s := by
  simp [State.sourceLost, hl, hd]

theorem State.sourceMissing_iff (h : s.cfg 0x2300 2 ≠ 0) : s.sourceMissing = true ↔
    (if s.cfg 0x2300 2 = 1 then 4 * (if s.time.cycle = 0 then 100000000 else s.time.cycle) else 1500000000) ≤ s.time.up - s.time.lastSeen := by
  simp [State.sourceMissing, h]

/-- Settles O36: what the event leaves to see, then each state's own rule; the loss of the source. -/
theorem gtcFollowsReference : Obligations.GtcFollowsReference := by
  unfold Obligations.GtcFollowsReference
  intro s dc
  have hframe := s.seeRef_frame dc
  have htime := s.seeRef_time dc
  have hcores : (s.seeRef dc).cores = s.cores := by rw [hframe]
  have hmem : (s.seeRef dc).mem = s.mem := by rw [hframe]
  have hcfg (i n : Nat) : (s.seeRef dc).cfg i n = s.cfg i n := by
    rw [hframe]
    rfl
  have hgtc : (s.seeRef dc).time.gtc = s.time.gtc := by rw [htime]
  generalize hz : s.seeRef dc = z at *
  have hev (hs : s.cfg 0x2300 2 ≠ 0) (hm : z.time.mode = .acquire ∨ z.time.mode = .locked) :
      s.referenceEvent dc = z.disciplineBy dc := hz ▸ State.referenceEvent_follows hs (hz.symm ▸ hm)
  have hcmp (hs : s.cfg 0x2300 2 ≠ 0) (hm : z.time.mode = .acquire ∨ z.time.mode = .locked) (h0 : z.time.lastRef ≠ 0)
      (hd : z.time.up - z.time.lastRef ≠ 0) (ha : z.refAccepted dc = true) :
      s.referenceEvent dc = (z.atRef dc).compareRef (z.refTime dc - z.time.gtc) (z.time.up - z.time.lastRef) :=
    (hev hs hm).trans (State.disciplineBy_compared h0 hd ha)
  have hout : (z.atRef dc).time.outliers = z.time.outliers := rfl
  have hwin : (z.atRef dc).cfg 0x2300 6 = s.cfg 0x2300 6 := hcfg 0x2300 6
  refine ⟨fun h => congrArg Host.Outcome.next (State.referenceEvent_off h), ⟨hgtc, by rw [htime], by rw [htime], fun h => ?_⟩,
    fun n m => ⟨rfl, nextCycle_mul⟩, fun h => ?_, fun h => ?_, fun hs hm => ⟨_, rfl, ?_⟩,
    fun hs hm h0 => congrArg Host.Outcome.next ?_, fun hs hm h0 ha => congrArg Host.Outcome.next ?_,
    fun ⟨hs, hm, h0, hd, ha⟩ hlock ho hn => congrArg Host.Outcome.next ?_, fun ⟨hs, hm, h0, hd, ha⟩ hlock ho hn => ⟨_, rfl, ?_⟩,
    fun ⟨hs, hm, h0, hd, ha⟩ hin hgood => congrArg Host.Outcome.next ?_, fun ⟨hs, hm, h0, hd, ha⟩ hacq hgood => ⟨_, rfl, ?_⟩,
    fun o i d => rateOf_bounds o i d, fun hl hm => ⟨_, rfl, ?_⟩, fun hl hd => congrArg Host.Outcome.next (congrArg State.draw (State.sourceLost_present hl hd)),
    fun h hc => ?_, fun h => ?_, fun h hc => ?_, fun h => ?_, fun h => ?_, rfl, rfl⟩
  · have hz' := hz ▸ State.seeRef_dc (dc := dc) h
    rw [hz']
    exact ⟨rfl, fun h0 => if_neg h0⟩
  · exact State.refAccepted_iff ((hcfg ..).trans h)
  · exact State.refAccepted_pps (by rwa [hcfg])
  · have hh := State.referenceEvent_holdover (dc := dc) hs (hz.symm ▸ hm)
    rw [hz] at hh
    rw [hh, State.setGtcMode_frame]
    exact ⟨rfl, rfl, rfl, rfl, hcores, hmem⟩
  · exact (hev hs hm).trans (State.disciplineBy_first h0)
  · exact (hev hs hm).trans (State.disciplineBy_refused h0 ha)
  · rw [hcmp hs hm h0 hd ha, State.compareRef_outlier (s := z.atRef dc) _ hlock (hwin ▸ ho), hout, if_neg (by omega)]
    rfl
  · rw [hcmp hs hm h0 hd ha, State.compareRef_outlier (s := z.atRef dc) _ hlock (hwin ▸ ho), hout, if_pos (by omega), State.setGtcMode_frame]
    exact ⟨rfl, rfl, rfl, hcores, hmem⟩
  · have hcounts : ¬ ((z.atRef dc).time.mode = .locked ∧ 10 * (z.atRef dc).cfg 0x2300 6 < (z.refTime dc - z.time.gtc).natAbs) := by
      rintro ⟨hlock, ho⟩
      have hne : z.time.mode ≠ .acquire := by rw [show z.time.mode = .locked from hlock]; decide
      exact Nat.not_lt.mpr (hin.resolve_left hne) (hwin ▸ ho)
    rw [hcmp hs hm h0 hd ha, State.compareRef_counts (s := z.atRef dc) _ hcounts, hwin, if_neg]
    · rfl
    · rintro ⟨hacq, hg⟩
      obtain hlock | hgood := hgood
      · exact absurd (hacq.symm.trans hlock) (by decide)
      · exact Nat.not_lt.mpr hg hgood
  · have hcounts : ¬ ((z.atRef dc).time.mode = .locked ∧ 10 * (z.atRef dc).cfg 0x2300 6 < (z.refTime dc - z.time.gtc).natAbs) := by
      rintro ⟨hlock, -⟩
      exact absurd (hacq.symm.trans hlock) (by decide)
    rw [hcmp hs hm h0 hd ha, State.compareRef_counts (s := z.atRef dc) _ hcounts, hwin, if_pos ⟨hacq, hgood⟩, State.setGtcMode_frame]
    exact ⟨rfl, rfl, rfl, hcores, hmem⟩
  · rw [State.sourceLost_of hl hm, State.setGtcMode_frame]
    exact ⟨rfl, rfl, hgtc.symm, rfl, rfl⟩
  · simp [State.dcInactive, h, hc]
  · simp [State.dcInactive, h]
  · rw [State.sourceMissing_iff (by rw [h]; decide), if_pos h, if_neg hc]
  · rw [State.sourceMissing_iff (by rw [h]; decide), if_neg (by rw [h]; decide)]
  · simp [State.sourceMissing, h]

end Sys2Proof.Machine
end

section
/-! SUPPORT. What the ops of a core leave alone: time, trackers, measurement, sets, sessions, contexts and the like are the same behind any op that goes on,
completes or halts its core. -/

namespace Sys2Proof.Machine

/-- The parts of the state that no op in flight touches. -/
structure Still where
  part : Part
  ctxs : Tab Ctx
  damper : Damper
  time : TimeBase
  trackers : Tab Tracker
  sets : Sets
  sessions : Tab Session
  masters : Tab Master
  keys : Tab KeySlot
  ecat : Ecat
  links : Tab Bool
  telem : Telem
  fw : Firmware
  clk : Clocks
  pwr : Power
  defects : List Defect
  trims : Tab Nat

def State.still (s : State) : Still :=
  ⟨s.part, s.ctxs, s.damper, s.time, s.trackers, s.sets, s.sessions, s.masters, s.keys, s.ecat, s.links, s.telem, s.fw, s.clk, s.pwr,
    s.defects, s.trims⟩

/-! ## Operations on one part of the state -/

@[simp] theorem still_modCore (s : State) (c : Nat) (f : Core → Core) : (s.modCore c f).still = s.still := rfl
@[simp] theorem still_modSeq (s : State) (c : Nat) (f : Seq → Seq) : (s.modSeq c f).still = s.still := rfl
@[simp] theorem still_modComm (s : State) (c : Nat) (f : Comm → Comm) : (s.modComm c f).still = s.still := rfl
@[simp] theorem still_modOp (s : State) (c q : Nat) (f : Op → Op) : (s.modOp c q f).still = s.still := rfl
@[simp] theorem still_setEng (s : State) (c e : Nat) (g : Engine) : (s.setEng c e g).still = s.still := rfl
@[simp] theorem still_modPort (s : State) (p : Nat) (f : Port → Port) : (s.modPort p f).still = s.still := rfl
@[simp] theorem still_modDac (s : State) (ch : Nat) (f : Dac → Dac) : (s.modDac ch f).still = s.still := rfl
@[simp] theorem still_modTrip (s : State) (n : Nat) (f : Trip → Trip) : (s.modTrip n f).still = s.still := rfl
@[simp] theorem still_setCount (s : State) (i n v : Nat) : (s.setCount i n v).still = s.still := rfl
@[simp] theorem still_bumpBy (s : State) (i n v : Nat) : (s.bumpBy i n v).still = s.still := rfl
@[simp] theorem still_bump (s : State) (i n : Nat) : (s.bump i n).still = s.still := rfl
@[simp] theorem still_record (s : State) (src code : Nat) (l : List Nat) : (s.record src code l).still = s.still := rfl
@[simp] theorem still_msix (s : State) (v : Nat) : (s.msix v).still = s.still := rfl
@[simp] theorem still_draw (s : State) : s.draw.still = s.still := rfl
@[simp] theorem still_poke (s : State) (a : Nat) (bs : List Byte) : (s.poke a bs).still = s.still := rfl
@[simp] theorem still_sendSync (s : State) (u : SyncUpd) : (s.sendSync u).still = s.still := rfl
@[simp] theorem still_toInbox (s : State) (l : List RecMsg) : (s.toInbox l).still = s.still := rfl
@[simp] theorem still_setFault (s : State) (c : Nat) (f : FaultInfo) : (s.setFault c f).still = s.still := rfl
@[simp] theorem still_checkLatch (s : State) (c : Nat) : (s.checkLatch c).still = s.still := rfl
@[simp] theorem still_halt (s : State) (c i b h : Nat) : (s.halt c i b h).still = s.still := rfl
@[simp] theorem still_takeSeq (s : State) (c k n : Nat) : (s.takeSeq c k n).2.still = s.still := rfl
@[simp] theorem still_dieDrop (s : State) (d : Nat) : (s.dieDrop d).still = s.still := rfl
@[simp] theorem still_crossed (s : State) (a b n : Nat) : (s.crossed a b n).still = s.still := rfl
@[simp] theorem still_holdDac (s : State) (ch : Nat) (l : DacOut) : (s.holdDac ch l).still = s.still := rfl
@[simp] theorem still_onLine (s : State) (p n : Nat) (f : FlueFrame) : (s.onLine p n f).still = s.still := rfl
@[simp] theorem still_sendFrame (s : State) (p : Nat) (f : FlueFrame) : (s.sendFrame p f).still = s.still := rfl
@[simp] theorem still_startFetch (s : State) (l : FetchSet) : (s.startFetch l).still = s.still := rfl

/-- A run of operations of which each leaves it alone. -/
theorem still_foldl {α : Type} {f : State → α → State} (hf : ∀ s a, (f s a).still = s.still) (l : List α) (s : State) :
    (l.foldl f s).still = s.still := by
  induction l generalizing s with
  | nil => rfl
  | cons a l ih => exact (ih _).trans (hf s a)

/-! ## The way between dies -/

theorem still_fate (s : State) (u : Bool) : (s.fate u).2.still = s.still := by
  unfold State.fate
  split <;> rfl

theorem still_way (s : State) (a b n : Nat) (u : Bool) : (s.way a b n u).2.still = s.still := by
  have hf := still_fate s u
  unfold State.way
  split
  · rfl
  · split
    · rfl
    · split <;> (next h => rw [h] at hf; exact hf)

theorem still_way_of {s t : State} {a b n : Nat} {u : Bool} {w : Way} (h : s.way a b n u = (w, t)) : t.still = s.still := by
  have hw := still_way s a b n u
  rwa [h] at hw

@[simp] theorem still_crossDrop (s : State) (c : Nat) : (s.crossDrop c).still = s.still := by
  unfold State.crossDrop
  dsimp only
  split <;> rfl

theorem still_linesOver (s : State) (u : Bool) (n : Nat) (d o : List Byte) : (s.linesOver u n d o).2.still = s.still := by
  unfold State.linesOver
  split <;> rfl

theorem still_hubWrite (s : State) (c : Nat) (d o : List Byte) {put : List Byte → State → State} (hput : ∀ bs s, (put bs s).still = s.still) :
    (s.hubWrite c d o put).still = s.still := by
  unfold State.hubWrite
  dsimp only
  split
  · exact still_dieDrop ..
  · split
    · exact still_crossDrop ..
    · exact (hput _ _).trans ((still_linesOver ..).trans (still_crossed ..))

/-! ## Outputs and ports -/

@[simp] theorem still_ringTrigger (s : State) (n : Nat) : (s.ringTrigger n).still = s.still := by
  unfold State.ringTrigger
  refine still_foldl (fun s r => ?_) _ s
  dsimp only
  split_ifs <;> rfl

@[simp] theorem still_assertTrip (s : State) (n src : Nat) : (s.assertTrip n src).still = s.still := by
  unfold State.assertTrip
  exact still_ringTrigger ..

@[simp] theorem still_mirrorTrip (s : State) (n : Nat) (ev : Option Nat) : (s.mirrorTrip n ev).still = s.still := by
  unfold State.mirrorTrip
  dsimp only
  split <;> split_ifs <;> simp

@[simp] theorem still_updateTrip (s : State) (n : Nat) : (s.updateTrip n).still = s.still := by
  unfold State.updateTrip
  dsimp only
  split_ifs <;> simp

@[simp] theorem still_showMirror (s : State) : s.showMirror.still = s.still := by
  unfold State.showMirror
  dsimp only
  split <;> simp

@[simp] theorem still_setMirror (s : State) (st cause : Nat) : (s.setMirror st cause).still = s.still := by
  unfold State.setMirror
  split
  · rfl
  · exact still_showMirror _

@[simp] theorem still_holdOutputs (s : State) : s.holdOutputs.still = s.still := by
  unfold State.holdOutputs
  refine (still_foldl (fun s n => ?_) _ _).trans (Eq.trans rfl (still_foldl (fun s ch => ?_) _ s))
  · split <;> simp
  · split <;> simp

@[simp] theorem still_toStandby (s : State) (cause : Nat) : (s.toStandby cause).still = s.still := by simp [State.toStandby]

@[simp] theorem still_portFlow (s : State) (p n : Nat) : (s.portFlow p n).still = s.still := by
  induction n generalizing s with
  | zero => rfl
  | succ n ih =>
    unfold State.portFlow
    dsimp only
    split
    · rfl
    · split
      · rfl
      · split
        · simp [ih]
        · refine (ih _).trans ?_
          have hframes (fs : List FlueFrame) : (List.foldl (fun s f => s.sendFrame p f) s fs).still = s.still := still_foldl (fun s f => still_sendFrame s p f) _ s
          split <;> simp [hframes]

@[simp] theorem still_sendItem (s : State) (p : Nat) (it : OutItem) : (s.sendItem p it).still = s.still := by simp [State.sendItem]

/-! ## Messages -/

@[simp] theorem still_nackLocal (s : State) (c : Nat) (m : Msg) : (s.nackLocal c m).still = s.still := rfl

@[simp] theorem still_toPort (s : State) (c pt : Nat) (m : Msg) (it : OutItem) : (s.toPort c pt m it).still = s.still := by
  unfold State.toPort
  split
  · next d t h =>
    show t.still = s.still
    exact still_way_of h
  · next h => exact still_way_of h
  · next h => simp [still_way_of h]
  · next h => simp [still_way_of h]

@[simp] theorem still_sendMsg (s : State) (c : Nat) (p : Peer) (m : Msg) : (s.sendMsg c p m).still = s.still := by
  unfold State.sendMsg
  split
  · rfl
  · split
    · split <;> simp
    · simp

@[simp] theorem still_transmit (s : State) (c : Nat) (o : Op) (slot chan n line : Nat) : (s.transmit c o slot chan n line).still = s.still := by
  unfold State.transmit
  dsimp only
  split <;> simp

@[simp] theorem still_postCredit (s : State) (c : Nat) (o : Op) (slot chan len line : Nat) (body : OpBody) :
    (s.postCredit c o slot chan len line body).still = s.still := by
  unfold State.postCredit
  dsimp only
  split <;> simp

/-! ## Memory, engines and channels -/

@[simp] theorem still_abWrite (s : State) (c line : Nat) (bs : List Byte) : (s.abWrite c line bs).still = s.still := by
  unfold State.abWrite
  dsimp only
  split <;> rfl

@[simp] theorem still_commitEng (s : State) (c e : Nat) : (s.commitEng c e).still = s.still := by
  unfold State.commitEng
  dsimp only
  split <;> rfl

@[simp] theorem still_commitIdle (s : State) (c e : Nat) : (s.commitIdle c e).still = s.still := by
  unfold State.commitIdle
  dsimp only
  split <;> simp

@[simp] theorem still_mvmFinish (s : State) (c q : Nat) : (s.mvmFinish c q).still = s.still := by
  unfold State.mvmFinish
  split
  · split <;> rfl
  · rfl

@[simp] theorem still_mvmFetch (s : State) (c : Nat) (o : Op) (m : MvmOp) : (s.mvmFetch c o m).still = s.still := by
  unfold State.mvmFetch
  dsimp only
  generalize mvmReads _ _ _ _ _ _ = todo
  split_ifs <;> simp

@[simp] theorem still_finishOp (s : State) (c : Nat) (o : Op) (status : Nat) : (s.finishOp c o status).still = s.still := by
  unfold State.finishOp
  dsimp only
  split_ifs <;> rfl

@[simp] theorem still_dacQueue (s : State) (ch : Nat) (l : List Nat) : (s.dacQueue ch l).still = s.still := by
  unfold State.dacQueue
  split_ifs <;> rfl

@[simp] theorem still_giveCodes (s : State) (c : Nat) (o : Op) (ch : Nat) (bs : List Byte) : (s.giveCodes c o ch bs).still = s.still := by
  unfold State.giveCodes
  dsimp only
  split <;> simp

/-! ## Plans -/

@[simp] theorem still_layPlan (s : State) (c bank : Nat) (ws : List Nat) : (s.layPlan c bank ws).still = s.still :=
  still_hubWrite _ _ _ _ fun _ _ => rfl

@[simp] theorem still_readPlans (s : State) (x bank : Nat) : (s.readPlans x bank).still = s.still := by
  unfold State.readPlans
  dsimp only
  split_ifs <;> rfl

@[simp] theorem still_rewriteBank (s : State) (c bank : Nat) : (s.rewriteBank c bank).still = s.still := by
  unfold State.rewriteBank
  split
  · rfl
  · split <;> simp

/-! ## Ops that go on -/

@[simp] theorem still_settleStop (s : State) (c : Nat) : (s.settleStop c).still = s.still := by
  unfold State.settleStop
  dsimp only
  split
  · rfl
  · split
    · split <;> simp
    · rfl

@[simp] theorem still_settleOp (s : State) (c q : Nat) : (s.settleOp c q).still = s.still := by
  unfold State.settleOp
  split
  · rfl
  · dsimp only
    split
    case h_1 => split_ifs <;> simp
    case h_2 => split_ifs <;> simp
    case h_3 => split_ifs <;> simp
    case h_4 => split_ifs <;> simp
    case h_5 => split_ifs <;> simp
    case h_6 => split_ifs <;> simp
    case h_7 => split_ifs <;> simp
    case h_8 => split_ifs <;> simp
    case h_9 => split_ifs <;> simp
    case h_10 =>
      split
      · simp
      · split
        · simp
        · split
          · rfl
          · split <;> (next h => simp [still_way_of h])
    case h_11 =>
      split
      · split <;> (next h => simp [still_way_of h])
      · rfl
    case h_12 => rfl

@[simp] theorem still_settle (s : State) (c : Nat) : (s.settle c).still = s.still := by
  unfold State.settle
  exact (still_settleStop ..).trans (still_foldl (fun s q => still_settleOp s c q) _ s)

@[simp] theorem still_completeOp (s : State) (c : Nat) (o : Op) (status : Nat) : (s.completeOp c o status).still = s.still := by
  unfold State.completeOp
  rw [still_settle, still_finishOp]

end Sys2Proof.Machine
end

section
/-! SUPPORT. Phase trackers (R219-R222): what a move of the phase, an input event and a change of state do to a tracker; with them the settlement of
the trackers. -/

namespace Sys2Proof.Machine

variable {s : State} {t : Nat}

/-! ## What a mark's occurrence leaves alone -/

/-- Time and trackers. -/
def State.timing (s : State) : TimeBase × Tab Tracker := (s.time, s.trackers)

theorem timing_of_still {s u : State} (h : u.still = s.still) : u.timing = s.timing :=
  congrArg (fun x : Still => (x.time, x.trackers)) h

theorem timing_foldl {α : Type} {f : State → α → State} (hf : ∀ s a, (f s a).timing = s.timing) (l : List α) (s : State) :
    (l.foldl f s).timing = s.timing := by
  induction l generalizing s with
  | nil => rfl
  | cons a l ih => exact (ih _).trans (hf s a)

@[simp] theorem timing_restartWindows (s : State) (on : Nat × Nat → Bool) : (s.restartWindows on).timing = s.timing := by
  unfold State.restartWindows
  refine timing_foldl (fun s c => ?_) _ s
  split <;> rfl

@[simp] theorem timing_restartGroup (s : State) (g : Nat) : (s.restartGroup g).timing = s.timing := by
  unfold State.restartGroup
  refine Eq.trans rfl ((timing_foldl (fun s a => ?_) _ _).trans ((timing_foldl (fun s c => ?_) _ _).trans ((timing_restartWindows ..).trans ?_)))
  · rfl
  · rfl
  · split <;> rfl

@[simp] theorem timing_startConvs (s : State) : s.startConvs.timing = s.timing := rfl

/-- An occurrence of mark i at the DAC channels, the frame groups, and the converters. -/
def State.markDacs (s : State) (i : Nat) : State :=
  (List.range 16).foldl (fun s ch =>
    let v := s.cfg (dacIdx ch) 3
    if bit v 0 && field v 1 6 == i then s.markInstant ch else s) s

def State.markGroups (s : State) (i : Nat) : State :=
  (List.range 16).foldl (fun s g =>
    let v := s.cfg (0x2480 + g) 7
    if bit v 0 && field v 1 6 == i && (s.fg g).state == 1 then s.restartGroup g else s) s

def State.markConvs (s : State) (i : Nat) : State :=
  let v := s.cfg 0x2470 0x0A
  if bit v 0 && field v 1 6 == i then
    (List.range 16).foldl (fun s a => if s.cfg (0x2460 + a) 1 = 1 then s.modAux a (fun k => { k with cycles := s.auxDepth a }) else s) s.startConvs
  else s

theorem markFires_timing (s : State) (i : Nat) : (s.markFires i).timing = (((s.markDacs i).markGroups i).markConvs i).timing := rfl

theorem timing_markDacs (s : State) (i : Nat) : (s.markDacs i).timing = s.timing := by
  refine timing_foldl (fun s ch => ?_) _ s
  dsimp only
  split <;> rfl

theorem timing_markGroups (s : State) (i : Nat) : (s.markGroups i).timing = s.timing := by
  refine timing_foldl (fun s g => ?_) _ s
  dsimp only
  split
  · exact timing_restartGroup s g
  · rfl

theorem timing_markConvs (s : State) (i : Nat) : (s.markConvs i).timing = s.timing := by
  unfold State.markConvs
  dsimp only
  split
  · refine (timing_foldl (fun s a => ?_) _ s.startConvs).trans (timing_startConvs s)
    split <;> rfl
  · rfl

@[simp] theorem timing_markFires (s : State) (i : Nat) : (s.markFires i).timing = s.timing := by
  rw [markFires_timing, timing_markConvs, timing_markGroups, timing_markDacs]

@[simp] theorem timing_fireMarks (s : State) (t p adv : Nat) : (s.fireMarks t p adv).timing = s.timing := by
  unfold State.fireMarks
  refine timing_foldl (fun s i => ?_) _ s
  dsimp only
  split
  · exact timing_foldl (fun s _ => timing_markFires s i) _ s
  · rfl

@[simp] theorem timing_waitphAdvance (s : State) (t : Nat) (adv : Int) : (s.waitphAdvance t adv).timing = s.timing := by
  unfold State.waitphAdvance
  exact (timing_foldl (fun s c => timing_of_still (still_completeOp ..)) _ _).trans rfl

/-- Of time and trackers a move of the phase changes that phase. -/
theorem timing_movePhase (s : State) (t : Nat) (adv : Int) :
    (s.movePhase t adv).timing = (s.modTrk t (fun k => { k with phase := ofSigned 32 ((k.phase : Int) + adv) })).timing := by
  unfold State.movePhase
  dsimp only
  rw [timing_waitphAdvance]
  split <;> simp

/-! ## What a change of state leaves alone -/

/-- Beside the trackers only counters and the recorder change. -/
def OnlyTracking (s u : State) : Prop := u = { s with trackers := u.trackers, counters := u.counters, ash := u.ash }

theorem OnlyTracking.refl (s : State) : OnlyTracking s s := rfl

theorem OnlyTracking.eq {s u : State} (h : OnlyTracking s u) : u = { s with trackers := u.trackers, counters := u.counters, ash := u.ash } := h

theorem OnlyTracking.trans {s u v : State} (h : OnlyTracking s u) (k : OnlyTracking u v) : OnlyTracking s v :=
  Eq.trans k.eq (congrArg (fun x : State => ({ x with trackers := v.trackers, counters := v.counters, ash := v.ash } : State)) h.eq :)

theorem OnlyTracking.rest {s u : State} (h : OnlyTracking s u) : u.cores = s.cores ∧ u.mem = s.mem := by
  rw [h.eq]
  exact ⟨rfl, rfl⟩

theorem OnlyTracking.draws {s u : State} (h : OnlyTracking s u) : u.draws = s.draws := by rw [h.eq]

theorem onlyTracking_modTrk (s : State) (t : Nat) (f : Tracker → Tracker) : OnlyTracking s (s.modTrk t f) := rfl

theorem onlyTracking_setTrk (s : State) (t : Nat) (m : TrkState) : OnlyTracking s (s.setTrk t m) := by
  unfold State.setTrk
  dsimp only
  split_ifs <;> exact rfl

theorem trackers_setTrk {m : TrkState} (h : (s.trk t).state ≠ m) :
    (s.setTrk t m).trackers = Tab.set s.trackers t { s.trk t with state := m, good := 0 } := by
  unfold State.setTrk
  dsimp only
  rw [if_neg h]
  split <;> rfl

theorem setTrk_same {m : TrkState} (h : (s.trk t).state = m) : s.setTrk t m = s := if_pos h

/-- A change of state sets the state, and starts the run of good events anew. -/
theorem trk_setTrk (s : State) (t : Nat) (m : TrkState) : ∃ g, (s.setTrk t m).trk t = { s.trk t with state := m, good := g } := by
  by_cases h : (s.trk t).state = m
  · exact ⟨(s.trk t).good, by rw [setTrk_same h, ← h]⟩
  · refine ⟨0, ?_⟩
    unfold State.trk
    rw [trackers_setTrk h, Tab.get_set_same]
    rfl

theorem trk_setTrk_ne (s : State) {t i : Nat} (m : TrkState) (h : i ≠ t) : (s.setTrk t m).trk i = s.trk i := by
  by_cases hm : (s.trk t).state = m
  · rw [setTrk_same hm]
  · unfold State.trk
    rw [trackers_setTrk hm, Tab.get_set_ne _ _ _ h]

theorem trkFault_off (h : (s.trk t).state = .off) : s.trkFault t = s := by simp [State.trkFault, h]

theorem onlyTracking_trkFault (s : State) (t : Nat) : OnlyTracking s (s.trkFault t) := by
  unfold State.trkFault
  split
  · exact .refl s
  · exact .refl s
  · exact .trans (onlyTracking_modTrk ..) (onlyTracking_setTrk ..)

/-- An input fault leaves a tracker that is on in HOLDOVER. -/
theorem trk_trkFault (h : (s.trk t).state ≠ .off) : ∃ b g, (s.trkFault t).trk t = { s.trk t with state := .holdover, below := b, good := g } := by
  unfold State.trkFault
  split
  · next ho => exact absurd ho h
  · next ho => exact ⟨(s.trk t).below, (s.trk t).good, by rw [← ho]⟩
  · obtain ⟨g, hg⟩ := trk_setTrk (s.modTrk t (fun k => { k with below := false })) t .holdover
    exact ⟨false, g, hg.trans (by rw [State.trk_modTrk_same])⟩

/-! ## An event with a frequency and a phase error -/

/-- The frequency is taken over. -/
def State.timed (s : State) (t : Nat) (f : Int) : State :=
  s.modTrk t (fun k => { k with freq := f, below := s.freqLow t f, holdFreq := if s.freqOk t f then f else k.holdFreq })

theorem trk_timed (s : State) (t : Nat) (f : Int) : (s.timed t f).trk t =
    { s.trk t with freq := f, below := s.freqLow t f, holdFreq := if s.freqOk t f then f else (s.trk t).holdFreq } :=
  State.trk_modTrk_same s t _

theorem state_timed (s : State) (t : Nat) (f : Int) : ((s.timed t f).trk t).state = (s.trk t).state := by rw [trk_timed]
theorem good_timed (s : State) (t : Nat) (f : Int) : ((s.timed t f).trk t).good = (s.trk t).good := by rw [trk_timed]

/-- An event in each state. -/
theorem trkLock_eq (s : State) (t : Nat) (f err : Int) : s.trkLock t f err =
    match ((s.timed t f).trk t).state with
    | .off => s.timed t f
    | .holdover => if s.freqOk t f && (s.timed t f).trkInputOk t then (s.timed t f).setTrk t .acquiring else s.timed t f
    | .acquiring =>
      if !s.freqOk t f || decide (2 ^ 28 < err.natAbs) then (s.timed t f).setTrk t .holdover
      else if err.natAbs ≤ 2 ^ 24 then
        if 16 ≤ ((s.timed t f).trk t).good + 1 then (s.timed t f).setTrk t .locked
        else (s.timed t f).modTrk t (fun k => { k with good := ((s.timed t f).trk t).good + 1 })
      else (s.timed t f).modTrk t (fun k => { k with good := 0 })
    | .locked => if !s.freqOk t f || decide (2 ^ 28 < err.natAbs) then (s.timed t f).setTrk t .holdover else s.timed t f := rfl

theorem onlyTracking_trkLock (s : State) (t : Nat) (f err : Int) : OnlyTracking s (s.trkLock t f err) := by
  rw [trkLock_eq]
  have hset (m : TrkState) : OnlyTracking s ((s.timed t f).setTrk t m) := .trans (onlyTracking_modTrk ..) (onlyTracking_setTrk ..)
  have hmod (g : Tracker → Tracker) : OnlyTracking s ((s.timed t f).modTrk t g) := .trans (onlyTracking_modTrk ..) (onlyTracking_modTrk ..)
  split
  · exact onlyTracking_modTrk ..
  · split
    · exact hset _
    · exact onlyTracking_modTrk ..
  · split_ifs
    · exact hset _
    · exact hset _
    · exact hmod _
    · exact hmod _
  · split
    · exact hset _
    · exact onlyTracking_modTrk ..

/-- Of a tracker an event with a frequency changes the frequency's fields, the state and the run of good events. -/
theorem trk_trkLock (s : State) (t : Nat) (f err : Int) : ∃ st g, (s.trkLock t f err).trk t = { (s.timed t f).trk t with state := st, good := g } := by
  have hself (k : Tracker) : k = { k with state := k.state, good := k.good } := rfl
  have hset (m : TrkState) : ∃ st g, ((s.timed t f).setTrk t m).trk t = { (s.timed t f).trk t with state := st, good := g } :=
    ⟨m, trk_setTrk (s.timed t f) t m⟩
  rw [trkLock_eq]
  split
  · exact ⟨_, _, hself _⟩
  · split
    · exact hset _
    · exact ⟨_, _, hself _⟩
  · split_ifs
    · exact hset _
    · exact hset _
    · exact ⟨_, _, State.trk_modTrk_same ..⟩
    · exact ⟨_, _, State.trk_modTrk_same ..⟩
  · split
    · exact hset _
    · exact ⟨_, _, hself _⟩

/-- The sixteenth good event in a row locks. -/
theorem state_trkLock_locked {f e : Int} (hs : (s.trk t).state = .acquiring) (hf : s.freqOk t f = true) (he : e.natAbs ≤ 2 ^ 24)
    (hg : 15 ≤ (s.trk t).good) : ((s.trkLock t f e).trk t).state = .locked := by
  have hfar : ¬ 2 ^ 28 < e.natAbs := by omega
  have hrun : 16 ≤ ((s.timed t f).trk t).good + 1 := by
    rw [good_timed]
    omega
  obtain ⟨g, hset⟩ := trk_setTrk (s.timed t f) t .locked
  rw [trkLock_eq]
  simp only [(state_timed s t f).trans hs, hf, decide_eq_false hfar, Bool.not_true, Bool.or_self, Bool.false_eq_true, if_false, he, hrun, if_true, hset]

/-- A frequency out of range, or an error too far off, ends in HOLDOVER. -/
theorem state_trkLock_holdover {f e : Int} (hs : (s.trk t).state = .locked ∨ (s.trk t).state = .acquiring)
    (h : s.freqOk t f = false ∨ 2 ^ 28 < e.natAbs) : ((s.trkLock t f e).trk t).state = .holdover := by
  have hbad : (!s.freqOk t f || decide (2 ^ 28 < e.natAbs)) = true := by
    obtain h | h := h
    · simp [h]
    · rw [decide_eq_true h, Bool.or_true]
  obtain ⟨g, hset⟩ := trk_setTrk (s.timed t f) t .holdover
  rw [trkLock_eq]
  obtain hs | hs := hs <;> simp only [(state_timed s t f).trans hs, hbad, if_true, hset]

/-! ## Updates -/

theorem trackerUpdate_early (h : ¬ (s.trk t).lastUpdate + 32 ≤ s.time.up) : s.trackerUpdate t = s := if_pos (.inr (Nat.lt_of_not_le h))

theorem trackerUpdate_off (h : (s.trk t).state = .off) : s.trackerUpdate t = s := if_pos (.inl h)

/-- The state an update works on: a tracker without its input is in HOLDOVER. -/
def State.fed (s : State) (t : Nat) : State := if (s.trk t).state != .holdover && !s.trkInputOk t then s.setTrk t .holdover else s

theorem fed_of_ok (h : (s.trk t).state = .holdover ∨ s.trkInputOk t = true) : s.fed t = s := by
  unfold State.fed
  refine if_neg ?_
  obtain h | h := h <;> simp [h]

theorem fed_of_missing (h : (s.trk t).state ≠ .holdover) (hi : s.trkInputOk t = false) : s.fed t = s.setTrk t .holdover := by
  simp [State.fed, h, hi]

/-- Time and trackers behind an update that is due. -/
theorem timing_trackerUpdate (hd : (s.trk t).lastUpdate + 32 ≤ s.time.up) (ho : (s.trk t).state ≠ .off) :
    let n := (s.trk t).rem + (s.fed t).trkSpeed t * 32 * 2 ^ 32
    let shift := if ((s.fed t).trk t).state = .holdover then 0 else (s.trk t).shift
    (s.trackerUpdate t).timing = (((s.fed t).modTrk t (fun k => { k with
      rem := (n % 1000000000000).toNat, shift := 0, lastUpdate := k.lastUpdate + 32 })).modTrk t (fun k => { k with
      phase := ofSigned 32 ((k.phase : Int) + (n / 1000000000000 + shift)) })).timing := by
  have hgo : ¬ ((s.trk t).state = .off ∨ s.time.up < (s.trk t).lastUpdate + 32) := not_or.mpr ⟨ho, Nat.not_lt.mpr hd⟩
  unfold State.trackerUpdate
  dsimp only
  rw [if_neg hgo]
  exact timing_movePhase ..

theorem trk_of_timing {u : State} (h : u.timing = s.timing) (i : Nat) : u.trk i = s.trk i :=
  congrArg (fun x : TimeBase × Tab Tracker => Tab.get Tracker.reset x.2 i) h

theorem time_of_timing {u : State} (h : u.timing = s.timing) : u.time = s.time := congrArg Prod.fst h

/-- The tracker behind an update that is due. -/
theorem trk_trackerUpdate (hd : (s.trk t).lastUpdate + 32 ≤ s.time.up) (ho : (s.trk t).state ≠ .off) :
    let n := (s.trk t).rem + (s.fed t).trkSpeed t * 32 * 2 ^ 32
    let shift := if ((s.fed t).trk t).state = .holdover then 0 else (s.trk t).shift
    (s.trackerUpdate t).trk t = { (s.fed t).trk t with
      rem := (n % 1000000000000).toNat, shift := 0, lastUpdate := ((s.fed t).trk t).lastUpdate + 32
      phase := ofSigned 32 ((((s.fed t).trk t).phase : Int) + (n / 1000000000000 + shift)) } := by
  dsimp only
  rw [trk_of_timing (timing_trackerUpdate hd ho), State.trk_modTrk_same, State.trk_modTrk_same]

theorem trk_trackerUpdate_ne (hd : (s.trk t).lastUpdate + 32 ≤ s.time.up) (ho : (s.trk t).state ≠ .off) {i : Nat} (hi : i ≠ t) :
    (s.trackerUpdate t).trk i = (s.fed t).trk i := by
  rw [trk_of_timing (timing_trackerUpdate hd ho), State.trk_modTrk_ne _ _ hi, State.trk_modTrk_ne _ _ hi]

theorem time_trackerUpdate (hd : (s.trk t).lastUpdate + 32 ≤ s.time.up) (ho : (s.trk t).state ≠ .off) :
    (s.trackerUpdate t).time = (s.fed t).time := (time_of_timing (timing_trackerUpdate hd ho)).trans rfl

/-! ## Input events -/

theorem trackerEvent_off (h : (s.trk t).state = .off) (ev : TrkInput) : s.trackerEvent t ev = s := if_pos (.inl h)

/-- What an event does that comes while the tracker is on and its input there. -/
def State.takeEvent (s : State) (t : Nat) (ev : TrkInput) : State :=
  match ev with
  | .sample => if s.cfg (trkIdx t) 1 = 1 ∨ s.cfg (trkIdx t) 1 = 2 then s.mainsSample t else s
  | .edge => if 3 ≤ s.cfg (trkIdx t) 1 ∧ s.cfg (trkIdx t) 1 ≤ 5 then s.phaseZero t else s
  | .count fwd => if s.cfg (trkIdx t) 1 = 6 then s.encoderCount t fwd else s
  | .index => if s.cfg (trkIdx t) 1 = 6 then s.encoderIndex t else s
  | .skip => if s.cfg (trkIdx t) 1 = 6 then s.trkFault t else s
  | .missing => if 3 ≤ s.cfg (trkIdx t) 1 ∧ s.cfg (trkIdx t) 1 ≤ 5 ∧ s.edgeMissing t then s.trkFault t else s

theorem trackerEvent_on {ev : TrkInput} (ho : (s.trk t).state ≠ .off) (hi : ev = .missing ∨ s.trkInputOk t = true) :
    s.trackerEvent t ev = s.takeEvent t ev := by
  refine if_neg ?_
  rintro (h | ⟨hne, hno⟩)
  · exact ho h
  · obtain h | h := hi
    · exact hne h
    · simp [h] at hno

/-- An event does nothing while the input is not there, or when the tracker's source takes no such event. -/
theorem trackerEvent_missing_input {ev : TrkInput} (hi : s.trkInputOk t = false) (hev : ev ≠ .missing) : s.trackerEvent t ev = s :=
  if_pos (.inr ⟨hev, by simp [hi]⟩)

theorem edgeMissing_iff (h : (s.trk t).lastEvent ≠ 0) :
    s.edgeMissing t = true ↔ 2000000000000 ≤ s.cfg (trkIdx t) 3 * (s.time.up - (s.trk t).lastEvent) := by
  simp [State.edgeMissing, h]

/-- The state behind an edge that stands for phase 0, before its frequency is looked at. -/
def State.zeroed (s : State) (t : Nat) : State :=
  s.modTrk t (fun k => { k with lastEvent := s.time.up, shift := toSigned 32 (2 ^ 32 - s.phaseNow t), rem := 0 })

theorem phaseZero_first (h : (s.trk t).lastEvent = 0) : s.phaseZero t = s.zeroed t := if_pos (.inl h)

theorem phaseZero_again (h : (s.trk t).lastEvent ≠ 0) (hlt : (s.trk t).lastEvent < s.time.up) : s.phaseZero t =
    (s.zeroed t).trkLock t (eventFreq 1 (s.time.up - (s.trk t).lastEvent)) (toSigned 32 (2 ^ 32 - s.phaseNow t)) :=
  if_neg (not_or.mpr ⟨h, Nat.not_le.mpr hlt⟩)

/-- An encoder's count: the state it works on. -/
def State.counted (s : State) (t : Nat) (fwd : Bool) : State :=
  let per := 4 * s.cfg (trkIdx t) 6
  let n := ((s.trk t).counts + if fwd then 1 else -1) % (per : Int)
  s.modTrk t (fun k => { k with counts := n, lastEvent := s.time.up, shift := toSigned 32 (ofSigned 32 (roundAway (n * 2 ^ 32) per - s.phaseNow t)) })

/-- What follows a count, or a sample: the tracker of the state `u`, with at most its frequency's fields changed. -/
theorem trkLock_leaves (u : State) (t : Nat) (f err : Int) :
    ((u.trkLock t f err).trk t).counts = (u.trk t).counts ∧ ((u.trkLock t f err).trk t).lastEvent = (u.trk t).lastEvent ∧
      ((u.trkLock t f err).trk t).phase = (u.trk t).phase ∧ ((u.trkLock t f err).trk t).shift = (u.trk t).shift ∧
      (u.trkLock t f err).cores = u.cores ∧ (u.trkLock t f err).mem = u.mem ∧ (u.trkLock t f err).draws = u.draws := by
  have hrest := onlyTracking_trkLock u t f err
  obtain ⟨st, g, h⟩ := trk_trkLock u t f err
  rw [h, trk_timed]
  exact ⟨rfl, rfl, rfl, rfl, hrest.rest.1, hrest.rest.2, hrest.draws⟩

theorem encoderCount_leaves (s : State) (t : Nat) (fwd : Bool) :
    ((s.encoderCount t fwd).trk t).counts = ((s.counted t fwd).trk t).counts ∧
      ((s.encoderCount t fwd).trk t).lastEvent = ((s.counted t fwd).trk t).lastEvent ∧
      ((s.encoderCount t fwd).trk t).phase = ((s.counted t fwd).trk t).phase ∧
      (s.encoderCount t fwd).cores = (s.counted t fwd).cores ∧ (s.encoderCount t fwd).mem = (s.counted t fwd).mem := by
  have h : ∃ f err, s.encoderCount t fwd = s.counted t fwd ∨ s.encoderCount t fwd = (s.counted t fwd).trkLock t f err := by
    refine ⟨if fwd then eventFreq (4 * s.cfg (trkIdx t) 6) (s.time.up - (s.trk t).lastEvent)
        else -(eventFreq (4 * s.cfg (trkIdx t) 6) (s.time.up - (s.trk t).lastEvent)),
      toSigned 32 (ofSigned 32 (roundAway ((((s.trk t).counts + if fwd then 1 else -1) % ((4 * s.cfg (trkIdx t) 6 : Nat) : Int)) * 2 ^ 32)
        (4 * s.cfg (trkIdx t) 6) - s.phaseNow t)), ?_⟩
    unfold State.encoderCount
    dsimp only
    split
    · exact .inl rfl
    · exact .inr rfl
  obtain ⟨f, err, h | h⟩ := h
  · rw [h]
    exact ⟨rfl, rfl, rfl, rfl, rfl⟩
  · obtain ⟨h1, h2, h3, -, h5, h6, -⟩ := trkLock_leaves (s.counted t fwd) t f err
    rw [h]
    exact ⟨h1, h2, h3, h5, h6⟩

/-- An index that comes where it may. -/
def State.indexAt (s : State) (t : Nat) : State :=
  s.modTrk t (fun k => { k with counts := 0, indexed := true, shift := toSigned 32 (2 ^ 32 - s.phaseNow t), rem := 0 })

/-- The index is more than 4 counts off. -/
def State.indexFar (s : State) (t : Nat) : Bool :=
  decide (4 < min ((s.trk t).counts % ((4 * s.cfg (trkIdx t) 6 : Nat) : Int)).natAbs
    (((4 * s.cfg (trkIdx t) 6 : Nat) : Int) - (s.trk t).counts % ((4 * s.cfg (trkIdx t) 6 : Nat) : Int)).natAbs)

theorem encoderIndex_eq (s : State) (t : Nat) :
    s.encoderIndex t = (if (s.trk t).indexed && s.indexFar t then s.trkFault t else s).indexAt t := rfl

/-- A mains sample: the state before its frequency is looked at. -/
def State.sampled (s : State) (t : Nat) : State :=
  let free := toSigned 32 (ofSigned 32 (Config.mainsError (s.draws + 1)))
  (s.drawN 2).modTrk t (fun k => { k with
    lastEvent := s.time.up, shift := if (s.trk t).state = .locked then clampInt (-mainsBound) mainsBound free else free })

theorem mainsSample_eq (s : State) (t : Nat) :
    s.mainsSample t = (s.sampled t).trkLock t (Config.mainsFreq s.draws) (toSigned 32 (ofSigned 32 (Config.mainsError s.draws))) := rfl

/-- A LOCKED mains tracker's phase is moved by no more than it may be off. -/
theorem shift_sampled (h : (s.trk t).state = .locked) : ((s.sampled t).trk t).shift.natAbs ≤ 8589934 := by
  unfold State.sampled
  rw [State.trk_modTrk_same]
  dsimp only
  rw [if_pos h]
  unfold clampInt mainsBound
  omega

/-- Settles O38: the update by what a move of the phase leaves, each event by its own rule, and the two ends of a lock. -/
theorem trackersFollowInputs : Obligations.TrackersFollowInputs := by
  unfold Obligations.TrackersFollowInputs
  intro s t
  refine ⟨fun h => ⟨congrArg Host.Outcome.next (trackerUpdate_off h), fun ev => congrArg Host.Outcome.next (trackerEvent_off h ev)⟩,
    fun h => congrArg Host.Outcome.next (trackerUpdate_early h), fun hd hs hi => ⟨_, rfl, ?_⟩, fun hd hs hi => ⟨_, rfl, ?_⟩,
    fun hd hs => ⟨_, rfl, ?_⟩, fun hi ev hev => congrArg Host.Outcome.next (trackerEvent_missing_input hi hev), fun ho => ?_,
    fun f e hs hf he hg => state_trkLock_locked hs hf he hg, fun f e hs h => state_trkLock_holdover hs h⟩
  · have ho : (s.trk t).state ≠ .off := by obtain h | h := hs <;> (rw [h]; decide)
    have hn : (s.trk t).state ≠ .holdover := by obtain h | h := hs <;> (rw [h]; decide)
    have hspeed : s.trkSpeed t = (s.trk t).freq := by obtain h | h := hs <;> simp [State.trkSpeed, h]
    have hk := trk_trackerUpdate hd ho
    rw [fed_of_ok (.inr hi), hspeed, if_neg hn] at hk
    rw [hk]
    refine ⟨rfl, rfl, rfl, rfl, rfl, fun i hne => ?_, ?_⟩
    · rw [trk_trackerUpdate_ne hd ho hne, fed_of_ok (.inr hi)]
    · rw [time_trackerUpdate hd ho, fed_of_ok (.inr hi)]
  · have ho : (s.trk t).state ≠ .off := by obtain h | h := hs <;> (rw [h]; decide)
    have hn : (s.trk t).state ≠ .holdover := by obtain h | h := hs <;> (rw [h]; decide)
    obtain ⟨g, hset⟩ := trk_setTrk s t .holdover
    rw [trk_trackerUpdate hd ho, fed_of_missing hn hi, hset]
  · have ho : (s.trk t).state ≠ .off := by rw [hs]; decide
    have hk := trk_trackerUpdate hd ho
    rw [fed_of_ok (.inl hs), if_pos hs] at hk
    rw [hk]
    refine ⟨hs, ?_, fun i hne => ?_, ?_⟩
    · rw [add_zero]
    · rw [trk_trackerUpdate_ne hd ho hne, fed_of_ok (.inl hs)]
    · rw [time_trackerUpdate hd ho, fed_of_ok (.inl hs)]
  · have hfault := onlyTracking_trkFault s t
    obtain ⟨b, g, hk⟩ := trk_trkFault ho
    have hmissing : s.trackerEvent t .missing = s.takeEvent t .missing := trackerEvent_on ho (.inl rfl)
    have hquiet {ev : TrkInput} (hev : ev ≠ .missing) (h : s.takeEvent t ev = s) : exec (.trackerInputEvent t ev) s = .next s := by
      by_cases hi : s.trkInputOk t = true
      · exact congrArg Host.Outcome.next ((trackerEvent_on ho (.inr hi)).trans h)
      · exact congrArg Host.Outcome.next (trackerEvent_missing_input (by simpa using hi) hev)
    refine ⟨fun h => ⟨hquiet (by decide) (if_neg (by omega)), congrArg Host.Outcome.next (hmissing.trans (if_neg (by omega)))⟩,
      fun h => ⟨hquiet (by decide) (if_neg h), hquiet (by decide) (if_neg h), fun f => hquiet (by simp) (if_neg h)⟩,
      fun h1 h2 => hquiet (by decide) (if_neg (by omega)), fun h3 h5 he => ⟨_, congrArg Host.Outcome.next (hmissing.trans (if_pos ⟨h3, h5, he⟩)), ?_⟩,
      fun he => congrArg Host.Outcome.next (hmissing.trans (if_neg (by simp [he]))), fun h => edgeMissing_iff h, fun hi => ?_⟩
    · rw [hk]
      exact ⟨rfl, rfl, hfault.rest⟩
    · have hev (ev : TrkInput) : s.trackerEvent t ev = s.takeEvent t ev := trackerEvent_on ho (.inr hi)
      refine ⟨fun h3 h5 h0 => congrArg Host.Outcome.next ((hev .edge).trans ((if_pos ⟨h3, h5⟩).trans (phaseZero_first h0))),
        fun h3 h5 h0 hlt => congrArg Host.Outcome.next ((hev .edge).trans ((if_pos ⟨h3, h5⟩).trans (phaseZero_again h0 hlt))),
        fun h6 => ⟨_, congrArg Host.Outcome.next ((hev .skip).trans (if_pos h6)), ?_⟩,
        fun h6 hnear => congrArg Host.Outcome.next ((hev .index).trans ((if_pos h6).trans ?_)),
        fun h6 hix hfar => ⟨_, congrArg Host.Outcome.next ((hev .index).trans (if_pos h6)), ?_⟩,
        fun f h6 => ⟨_, congrArg Host.Outcome.next ((hev (.count f)).trans (if_pos h6)), ?_⟩,
        fun hsrc => ⟨_, congrArg Host.Outcome.next ((hev .sample).trans (if_pos hsrc)), ?_⟩⟩
      · rw [hk]
        exact ⟨rfl, rfl, hfault.rest⟩
      · have hno : ((s.trk t).indexed && s.indexFar t) = false := by
          simpa [State.indexFar] using hnear
        rw [encoderIndex_eq, hno]
        rfl
      · have hyes : ((s.trk t).indexed && s.indexFar t) = true := by
          rw [hix, Bool.true_and]
          exact decide_eq_true hfar
        rw [encoderIndex_eq, if_pos hyes]
        unfold State.indexAt
        rw [State.trk_modTrk_same, hk]
        exact ⟨rfl, rfl, rfl, hfault.rest⟩
      · obtain ⟨hcounts, hlast, hphase, hcores, hmem⟩ := encoderCount_leaves s t f
        have hat : (s.counted t f).trk t = _ := State.trk_modTrk_same s t _
        rw [hcounts, hlast, hphase, hat]
        exact ⟨rfl, rfl, rfl, hcores, hmem⟩
      · obtain ⟨-, hlast, hphase, hshift, hcores, hmem, hdraws⟩ := trkLock_leaves (s.sampled t) t (Config.mainsFreq s.draws)
          (toSigned 32 (ofSigned 32 (Config.mainsError s.draws)))
        have hat : (s.sampled t).trk t = _ := State.trk_modTrk_same (s.drawN 2) t _
        rw [mainsSample_eq, hlast, hphase, hshift]
        refine ⟨hdraws, ?_, ?_, fun hlock => shift_sampled hlock, hcores, hmem⟩
        · rw [hat]
        · rw [hat]
          rfl

end Sys2Proof.Machine
end

section
/-! SUPPORT. Drift tracking and health (R70-R73, R80-R83, R91, R94): the move of T_e, a tracker update, test reads and rounds, the score; with them
the settlement of the drift trackers and of the health. -/

namespace Sys2Proof.Machine

variable {s : State} {c e : Nat}

/-! ## A new ENG_STATE -/

theorem engState_same {st : EngState} (h : (s.eng c e).state = st) : s.engState c e st = s := if_pos h

/-- ENG_STATE and REF_MASK as they were: no previous generation to keep. -/
theorem Engine.since_same {h g : Engine} (hs : h.state = g.state) (hm : h.refMask = g.refMask) : h.since g = h := if_pos ⟨hs, hm⟩

/-- An engine after another keeps of it the previous generation of what changed. -/
theorem Engine.since_frame (h g : Engine) : h.since g =
    { h with prevState := (h.since g).prevState, prevMask := (h.since g).prevMask, fallen := (h.since g).fallen } := by
  unfold Engine.since
  split <;> rfl

theorem eng_engState (s : State) (c e : Nat) (st : EngState) :
    (s.engState c e st).eng c e = ({ s.eng c e with state := st } : Engine).since (s.eng c e) := by
  by_cases h : (s.eng c e).state = st
  · rw [engState_same h, ← h]
    exact (Engine.since_same (h := s.eng c e) (g := s.eng c e) rfl rfl).symm
  · unfold State.engState
    dsimp only
    rw [if_neg h]
    exact State.eng_setEng_same s c e _

theorem engState_frame (s : State) (c e : Nat) (st : EngState) :
    s.engState c e st = { s with engines := (s.engState c e st).engines, ash := (s.engState c e st).ash } := by
  unfold State.engState
  dsimp only
  split <;> rfl

/-! ## The move of T_e -/

/-- T_e moves by at most 64, and stays a 16-bit number. -/
theorem trackedTe_bounds {te : Nat} (l : List Nat) (h : te ≤ 0xFFFF) :
    trackedTe te l ≤ 0xFFFF ∧ (trackedTe te l : Int) ≤ te + 64 ∧ (te : Int) ≤ trackedTe te l + 64 := by
  unfold trackedTe clampInt
  dsimp only
  omega

/-! ## A tracker update -/

theorem trackUpdate_early (h : s.periodOver (s.eng c e).trackAt (s.cfg 0x2800 5) = false) : s.trackUpdate c e = s := by
  simp [State.trackUpdate, h]

/-- The tracker has come to the engine. -/
def State.visited (s : State) (c e : Nat) : State := s.modEng c e (fun g => { g with trackAt := some s.time.up })

theorem eng_visited (s : State) (c e : Nat) : (s.visited c e).eng c e = { s.eng c e with trackAt := some s.time.up } :=
  (State.eng_modEng_same s c e _).trans (Engine.since_same rfl rfl)

/-- T_e has moved, its gains are staged and wait for the commit, the estimates are used up. -/
def State.retuned (s : State) (c e : Nat) : State :=
  let g := (s.visited c e).eng c e
  let te := trackedTe g.te g.test.estimates
  (s.visited c e).setEng c e
    { g with te := te, test := { g.test with estimates := [] }, regs := { g.regs with staged := trackedGains g.base te }, trackWait := true }

theorem eng_retuned (s : State) (c e : Nat) : (s.retuned c e).eng c e = { s.eng c e with
    trackAt := some s.time.up, te := trackedTe (s.eng c e).te (s.eng c e).test.estimates, test := { (s.eng c e).test with estimates := [] }
    regs := { (s.eng c e).regs with staged := trackedGains (s.eng c e).base (trackedTe (s.eng c e).te (s.eng c e).test.estimates) }
    trackWait := true } := by
  unfold State.retuned
  rw [State.eng_setEng_same, Engine.since_same, eng_visited]
  · rfl
  · rfl

section Update
variable (hon : s.cfg 0x2800 0x0D ≠ 0) (hp : s.paused = false) (hd : s.periodOver (s.eng c e).trackAt (s.cfg 0x2800 5) = true)
  (hw : (s.eng c e).trackWait = false)
include hon hp hd hw

/-- An update that is due, with no commit left waiting. -/
theorem trackUpdate_due : s.trackUpdate c e =
    if (s.eng c e).test.estimates.isEmpty then (s.visited c e).bump 0x2801 9 else ((s.retuned c e).commitIdle c e).renewCheck c e := by
  have hgo : ¬ (s.cfg 0x2800 0x0D = 0 ∨ s.paused = true ∨ (!s.periodOver (s.eng c e).trackAt (s.cfg 0x2800 5)) = true) := by simp [hon, hp, hd]
  have hwait : ((s.visited c e).eng c e).trackWait = false := by rw [eng_visited, hw]
  have htest : ((s.visited c e).eng c e).test = (s.eng c e).test := by rw [eng_visited]
  unfold State.trackUpdate
  rw [if_neg hgo, ← htest]
  unfold State.retuned
  unfold State.visited at hwait ⊢
  simp only [hwait, Bool.false_eq_true, if_false]

theorem trackUpdate_missed (he : (s.eng c e).test.estimates = []) :
    s.trackUpdate c e = (s.modEng c e (fun g => { g with trackAt := some s.time.up })).bump 0x2801 9 := by
  rw [trackUpdate_due hon hp hd hw, he]
  rfl

theorem trackUpdate_moves (he : (s.eng c e).test.estimates ≠ []) (hb : s.engBusy c e = true) :
    s.trackUpdate c e = (s.retuned c e).renewCheck c e := by
  have hne : ¬ (s.eng c e).test.estimates.isEmpty = true := by simpa using he
  have hidle : (s.retuned c e).commitIdle c e = s.retuned c e := by
    have hb' : (s.retuned c e).engBusy c e = true := hb
    simp [State.commitIdle, hb']
  rw [trackUpdate_due hon hp hd hw, if_neg hne, hidle]

end Update

theorem renewCheck_stays (h : isSentinel c = true ∨ s.cfg 0x2800 8 ≤ (s.eng c e).te) : s.renewCheck c e = s := by
  unfold State.renewCheck
  refine if_neg ?_
  obtain h | h := h
  · simp [h]
  · simp [Nat.not_lt.mpr h]

theorem renewCheck_due (hc : isSentinel c = false) (hs : (s.eng c e).state = .inService) (ho : (s.eng c e).owner ≠ none)
    (h : (s.eng c e).te < s.cfg 0x2800 8) : s.renewCheck c e = s.engState c e .renewSched := by
  unfold State.renewCheck
  refine if_pos ?_
  simp [hc, hs, h, Option.isSome_iff_ne_none.mpr ho]

/-- Settles O20: the bounds of the move, an update by what it stages, the hourly copy. -/
theorem trackersTrackDrift : Obligations.TrackersTrackDrift := by
  unfold Obligations.TrackersTrackDrift
  refine ⟨fun te l h => trackedTe_bounds l h, fun s c e hon hp => ⟨fun hd => congrArg Host.Outcome.next (trackUpdate_early hd), fun hd =>
    ⟨fun he hstay hb hw => ⟨_, rfl, ?_⟩, fun he hc hlow hs ho hb hw => ⟨_, rfl, ?_⟩,
      fun he hw => congrArg Host.Outcome.next (trackUpdate_missed hon hp hd hw he)⟩⟩,
    fun s => ⟨fun h => congrArg Host.Outcome.next (if_pos h), fun h => congrArg Host.Outcome.next (if_neg (Nat.not_lt.mpr h))⟩⟩
  · have hstay' : isSentinel c = true ∨ (s.retuned c e).cfg 0x2800 8 ≤ ((s.retuned c e).eng c e).te := by rwa [eng_retuned]
    rw [trackUpdate_moves hon hp hd hw he hb, renewCheck_stays hstay', eng_retuned]
    exact ⟨rfl, rfl, rfl, rfl, rfl, rfl, rfl, rfl, rfl⟩
  · have hdue : (s.retuned c e).renewCheck c e = (s.retuned c e).engState c e .renewSched := by
      apply renewCheck_due hc <;> rw [eng_retuned]
      · exact hs
      · exact ho
      · exact hlow
    rw [trackUpdate_moves hon hp hd hw he hb, hdue, eng_engState, eng_retuned, Engine.since_frame]
    exact ⟨rfl, rfl⟩

/-! ## Test reads and rounds -/

theorem TestState.finish_idle {t : TestState} (h : t.running = none) : t.finish = t := by simp [TestState.finish, h]

theorem TestState.finish_running {t : TestState} {r : Nat} {ys : List Int} (h : t.running = some (r, ys)) :
    t.finish = { t with reads := t.reads ++ [ys], running := none } := by simp [TestState.finish, h]

/-- A test read may begin. -/
structure MayTest (s : State) (c e : Nat) : Prop where
  serving : (s.eng c e).serving = true
  idle : s.engBusy c e = false
  core : (s.core c).state ≠ .off
  pilot : s.onPilot c = false
  room : (s.eng c e).test.reads.length < 4
  due : (s.eng c e).test.reads ≠ [] ∨ s.periodOver (s.eng c e).test.began (s.cfg 0x2800 4) = true

theorem testRead_begins (h : MayTest s c e) (hr : (s.eng c e).test.running = none) : s.testRead c e =
    (s.setEng c e { s.eng c e with test := { (s.eng c e).test with
      running := some (s.time.up, testValues (s.eng c e) (s.cond c e) (s.core c).ana.scale (s.eng c e).test.reads.length s.draws),
      began := if (s.eng c e).test.reads = [] then some s.time.up else (s.eng c e).test.began } }).drawN 136 := by
  obtain ⟨hs, hi, hc, hp, hl, hd⟩ := h
  have hdue : ((s.eng c e).test.reads.isEmpty && !s.periodOver (s.eng c e).test.began (s.cfg 0x2800 4)) = false := by
    obtain h | h := hd <;> simp [h]
  have hgo : (!(s.eng c e).serving || s.engBusy c e || (s.core c).state == .off || s.onPilot c || 4 ≤ (s.eng c e).test.reads.length ||
      ((s.eng c e).test.reads.isEmpty && !s.periodOver (s.eng c e).test.began (s.cfg 0x2800 4))) = false := by
    simp [hs, hi, hc, hp, hdue, Nat.not_le.mpr hl]
  unfold State.testRead
  simp only [TestState.finish_idle hr, hgo, Bool.false_eq_true, if_false, List.isEmpty_iff]

theorem testRead_waits (h : s.engBusy c e = true ∨ ((s.eng c e).test.reads = [] ∧ s.periodOver (s.eng c e).test.began (s.cfg 0x2800 4) = false))
    (hr : (s.eng c e).test.running = none) : s.testRead c e = s.setEng c e (s.eng c e) := by
  have hno : (!(s.eng c e).serving || s.engBusy c e || (s.core c).state == .off || s.onPilot c || 4 ≤ (s.eng c e).test.reads.length ||
      ((s.eng c e).test.reads.isEmpty && !s.periodOver (s.eng c e).test.began (s.cfg 0x2800 4))) = true := by
    obtain h | ⟨h, h'⟩ := h
    · simp [h]
    · simp [h, h']
  unfold State.testRead
  simp only [TestState.finish_idle hr, hno, if_true]

theorem testRound_judged (hr : (s.eng c e).test.running = none) (hl : 4 ≤ (s.eng c e).test.reads.length) :
    s.testRound c e = (s.setEng c e ((s.eng c e).judge (s.eng c e).test.reads (s.cfg 0x2800 0x0C))).maskRetire c e := by
  unfold State.testRound
  simp only [TestState.finish_idle hr, if_neg (Nat.not_lt.mpr hl)]

theorem testRound_joins {r : Nat} {ys : List Int} (hr : (s.eng c e).test.running = some (r, ys)) (hl : (s.eng c e).test.reads.length < 3) :
    s.testRound c e = s.setEng c e { s.eng c e with test := { (s.eng c e).test with reads := (s.eng c e).test.reads ++ [ys], running := none } } := by
  have hlen : ((s.eng c e).test.reads ++ [ys]).length < 4 := by
    rw [List.length_append, List.length_singleton]
    omega
  unfold State.testRound
  simp only [TestState.finish_running hr, if_pos hlen]

/-! ## The score -/

/-- The four penalties take at most 240 of the 255. -/
theorem sumNat_penalties (g : Engine) (now : Nat) : sumNat (g.penalties now) ≤ 240 := by
  have hsum (a b c d : Nat) : sumNat [min 64 a, min 48 b, min 64 c, min 64 d] ≤ 240 := by
    simp only [sumNat, List.foldl_cons, List.foldl_nil]
    omega
  exact hsum ..

/-- A state is left for a worse one only. -/
theorem scoreState_running {st : EngState} (h sched now : Nat) (hs : st = .inService ∨ st = .renewSched) :
    scoreState st h sched now = if h < now then .belowNow else if h < sched then .retireSched else st := by
  obtain rfl | rfl := hs <;> rfl

theorem scoreState_retiring (h sched now : Nat) : scoreState .retireSched h sched now = if h < now then .belowNow else .retireSched := rfl

/-- The engine with its new score. -/
def Engine.scored (g : Engine) (now : Nat) : Engine :=
  { g with health := ⟨255 - sumNat (g.penalties now), g.health.log.filter (fun x => decide (now - x.1 ≤ day)),
      fromLE ((g.penalties now).map (BitVec.ofNat 8)), some now⟩ }

/-- The state an engine's score leads it to. -/
def State.scoredState (s : State) (c e : Nat) : EngState :=
  if (s.eng c e).serving then
    scoreState (s.eng c e).state (255 - sumNat ((s.eng c e).penalties s.time.up)) (s.cfg 0x2800 9) (s.cfg 0x2800 0x0A)
  else (s.eng c e).state

theorem healthScore_eq (s : State) (c e : Nat) :
    s.healthScore c e = (s.setEng c e ((s.eng c e).scored s.time.up)).engState c e (s.scoredState c e) := rfl

theorem eng_scored (s : State) (c e : Nat) : (s.setEng c e ((s.eng c e).scored s.time.up)).eng c e = (s.eng c e).scored s.time.up :=
  (State.eng_setEng_same ..).trans (Engine.since_same rfl rfl)

/-- Settles O21: a test read by what it may and what it draws, the round by its fourth read, the score by the limits of its penalties. -/
theorem healthFollowsTestRounds : Obligations.HealthFollowsTestRounds := by
  unfold Obligations.HealthFollowsTestRounds
  refine ⟨fun s c e => ⟨fun hs hi hc hp hr hl hd => congrArg Host.Outcome.next (testRead_begins ⟨hs, hi, hc, hp, hl, hd⟩ hr),
    fun h hr => ⟨_, congrArg Host.Outcome.next (testRead_waits h hr), ?_⟩, fun hr hl => congrArg Host.Outcome.next (testRound_judged hr hl),
    fun r ys hr hl => congrArg Host.Outcome.next (testRound_joins hr hl)⟩,
    fun s c e => ⟨fun h => congrArg Host.Outcome.next (a₂ := s) (if_neg (by simp [h])), fun h => ⟨_, congrArg Host.Outcome.next (if_pos h), ?_⟩⟩,
    fun st h sched now => ?_⟩
  · rw [State.eng_setEng_same, Engine.since_same]
    · exact ⟨rfl, rfl, rfl, rfl⟩
    · rfl
    · rfl
  · have hg : (s.healthScore c e).eng c e = ({ (s.eng c e).scored s.time.up with state := s.scoredState c e } : Engine).since
        ((s.eng c e).scored s.time.up) := by rw [healthScore_eq, eng_engState, eng_scored]
    have hframe : s.healthScore c e = _ := engState_frame (s.setEng c e ((s.eng c e).scored s.time.up)) c e (s.scoredState c e)
    have hpen := sumNat_penalties (s.eng c e) s.time.up
    have hcores : (s.healthScore c e).cores = s.cores := by rw [hframe]; rfl
    have hmem : (s.healthScore c e).mem = s.mem := by rw [hframe]; rfl
    rw [hg, Engine.since_frame]
    refine ⟨rfl, ?_, rfl, rfl, rfl, hcores, hmem, fun hst => ?_⟩
    · show 15 ≤ 255 - sumNat ((s.eng c e).penalties s.time.up)
      omega
    · have hsame : ((s.setEng c e ((s.eng c e).scored s.time.up)).eng c e).state = s.scoredState c e := by
        rw [eng_scored]
        exact hst.symm
      rw [healthScore_eq, engState_same hsame]
      rfl
  · cases st with
    | inService | renewSched =>
      rw [scoreState_running _ _ _ (by simp)]
      split_ifs <;> simp <;> omega
    | retireSched =>
      rw [scoreState_retiring]
      split_ifs <;> simp
      omega
    | spare | dead | belowNow => simp [scoreState]

end Sys2Proof.Machine
end

section
/-! SUPPORT. The DAC channels: sample instants, the host's codes and the current-steering path; with them the settlement of O40. -/

namespace Sys2Proof.Machine

/-- Two changes of a channel are one. -/
theorem State.modDac_modDac (s : State) (ch : Nat) (f g : Dac → Dac) : (s.modDac ch f).modDac ch g = s.modDac ch (fun d => g (f d)) := by
  unfold State.modDac State.dac
  simp

theorem State.setLadder_modDac (s : State) (ch code : Nat) (f g : Dac → Dac) :
    ((s.modDac ch f).setLadder ch code).modDac ch g = (s.modDac ch f).modDac ch (fun d => g { d with ladder := code, ladderTrim := s.dacTrim ch 0 }) :=
  State.modDac_modDac (s.modDac ch f) ch (fun d => { d with ladder := code, ladderTrim := s.dacTrim ch 0 }) g

/-! ## Sample instants (R244, R247) -/

/-- The channel at an instant that has come: its place on the grid and in own time. -/
def State.atInstant (s : State) (ch : Nat) : State :=
  s.modDac ch (fun d => { d with
    due := false
    lastInstant := if bit (s.cfg (dacIdx ch) 3) 0 then (s.dac ch).lastInstant else s.gridInstant ch
    lastAt := if bit (s.cfg (dacIdx ch) 3) 0 then (s.dac ch).lastAt else some s.time.up })

theorem State.instantActs_atInstant (s : State) (ch : Nat) : (s.atInstant ch).instantActs ch = s.instantActs ch := by
  simp [State.instantActs, State.atInstant, State.onFast, State.cfg, State.dflt, State.row, State.clocked]

theorem State.sampleInstant_idle {s : State} {ch : Nat} (h : s.instantDue ch = false) : s.sampleInstant ch = s := by
  simp [State.sampleInstant, h]

theorem State.sampleInstant_due {s : State} {ch : Nat} (h : s.instantDue ch = true) : s.sampleInstant ch =
    if (s.atInstant ch).instantActs ch then ((s.atInstant ch).takeHead ch).settleEmits ch else s.atInstant ch := by
  unfold State.sampleInstant
  rw [if_neg (by simp [h])]
  rfl

theorem State.sampleInstant_inert {s : State} {ch : Nat} (h : s.instantDue ch = true) (ha : s.instantActs ch = false) :
    s.sampleInstant ch = s.atInstant ch := by
  simp [State.sampleInstant_due h, State.instantActs_atInstant, ha]

theorem State.sampleInstant_acts {s : State} {ch : Nat} (h : s.instantDue ch = true) (ha : s.instantActs ch = true) :
    s.sampleInstant ch = ((s.atInstant ch).takeHead ch).settleEmits ch := by
  simp [State.sampleInstant_due h, State.instantActs_atInstant, ha]

/-! What an instant does with the queue's head, or with no head, on a channel as changed just before. -/

section
variable {s : State} {ch : Nat} (f : Dac → Dac) {v : Nat} {l : List Nat}

theorem State.takeHead_toLadder (hq : (f (s.dac ch)).queue = v :: l) (hc : s.outs.dacClrLow = false) (hh : s.dacHeld ch = false) :
    (s.modDac ch f).takeHead ch = (s.modDac ch f).modDac ch (fun d =>
      { d with queue := l, underrunRun := 0, releaseClear := false, ladder := v, ladderTrim := s.dacTrim ch 0, holdLevel := none }) := by
  have hk : ((s.modDac ch f).outs.dacClrLow || (s.modDac ch f).dacHeld ch) = false := Bool.or_eq_false_iff.mpr ⟨hc, hh⟩
  unfold State.takeHead
  simp only [State.dac_modDac_same, hq, hk]
  exact State.setLadder_modDac s ch v f _

theorem State.takeHead_discarded (hq : (f (s.dac ch)).queue = v :: l) (hk : s.outs.dacClrLow = true ∨ s.dacHeld ch = true) :
    (s.modDac ch f).takeHead ch = (s.modDac ch f).modDac ch (fun d => { d with queue := l, underrunRun := 0 }) := by
  have hk : ((s.modDac ch f).outs.dacClrLow || (s.modDac ch f).dacHeld ch) = true := Bool.or_eq_true_iff.mpr hk
  unfold State.takeHead
  simp only [State.dac_modDac_same, hq, hk]
  rfl

theorem State.takeHead_released (hq : (f (s.dac ch)).queue = []) (hr : (f (s.dac ch)).releaseClear = true) :
    (s.modDac ch f).takeHead ch = (s.modDac ch f).modDac ch (fun d =>
      { d with ladder := s.cfg (dacIdx ch) 6, ladderTrim := s.dacTrim ch 0, releaseClear := false, holdLevel := none }) := by
  unfold State.takeHead
  simp only [State.dac_modDac_same, hq, hr, if_true]
  exact State.setLadder_modDac s ch _ f _

/-- With no limit on the underruns in a row an underrun is only counted and recorded. -/
def State.underrunCounted (s : State) (ch : Nat) : State :=
  ((s.bump (dacIdx ch) 0x13).record (dacSource ch) 0x0024 [(s.bump (dacIdx ch) 0x13).count (dacIdx ch) 0x13]).modDac ch
    (fun d => { d with underrunRun := d.underrunRun + 1 })

theorem State.underrun_counted (ha : (s.dac ch).awaitFirst = false) (hl : s.cfg (dacIdx ch) 8 = 0) :
    s.underrun ch = s.underrunCounted ch := by
  unfold State.underrun
  rw [if_neg (by simp [ha])]
  exact if_neg fun h => h.1 hl

/-- A channel that stays at its ladder's level and has an underrun counted. -/
theorem State.dac_underrunCounted (s : State) (ch : Nat) : ((s.modDac ch (fun d => { d with holdLevel := none })).underrunCounted ch).dac ch =
    { s.dac ch with holdLevel := none, underrunRun := (s.dac ch).underrunRun + 1 } := by
  have hd := State.dac_modDac_same s ch (fun d => { d with holdLevel := none })
  refine (State.dac_modDac_same _ ch _).trans ?_
  exact congrArg (fun d : Dac => { d with underrunRun := d.underrunRun + 1 }) hd

theorem State.mem_underrunCounted (s : State) (ch : Nat) : (s.underrunCounted ch).mem = s.mem := rfl

theorem State.count_underrunCounted {s t : State} {ch : Nat} (hpart : t.part = s.part) (hsets : t.sets.active = s.sets.active)
    (hcount : t.counters = s.counters) : (t.underrunCounted ch).count (dacIdx ch) 0x13 = (s.bump (dacIdx ch) 0x13).count (dacIdx ch) 0x13 :=
  State.count_bumpBy_congr (dacIdx ch) 0x13 1 hpart hsets hcount

theorem State.takeHead_underrun (hq : (s.dac ch).queue = []) (hr : (s.dac ch).releaseClear = false)
    (ha : (s.dac ch).awaitFirst = false) (hl : s.cfg (dacIdx ch) 8 = 0) :
    s.takeHead ch = (s.modDac ch (fun d => { d with holdLevel := none })).underrunCounted ch := by
  unfold State.takeHead
  simp only [hq, hr, ha, Bool.false_eq_true, if_false]
  exact State.underrun_counted (by rw [State.dac_modDac_same]; exact ha) hl

end

/-! ## Codes of the host (R246) -/

section
variable {s : State} {ses : Ses} {ch code : Nat}

theorem dacIdx_le (h : ch < 16) : dacIdx ch ≤ 0x250F := by unfold dacIdx; omega

theorem State.stateAllows_dacCode (hch : ch < 16) : s.stateAllows (dacIdx ch) 16 code = (s.cfg (dacIdx ch) 2 == 0xFF) := by
  interval_cases ch <;> rfl

theorem State.writeDirect_dac (hch : ch < 16) (sub v : Nat) : s.writeDirect ses (dacIdx ch) sub v = s.writeDac ch sub v := by
  interval_cases ch <;> rfl

/-- DAC_CODE and DAC_CMD are objects without further checks. -/
theorem State.dac_unchecked (hch : ch < 16) {sub : Nat} (hsub : sub = 16 ∨ sub = 18) (v : Nat) (r : OdRow) :
    s.needPriv (dacIdx ch) sub v r = r.priv ∧ ownWrite (dacIdx ch) sub = false ∧ s.mappingAbort (dacIdx ch) sub v = 0 ∧
      s.fieldsOk (dacIdx ch) sub v = true ∧ s.stepOk (dacIdx ch) sub v = true := by
  rcases hsub with rfl | rfl <;> interval_cases ch <;> exact ⟨rfl, rfl, rfl, rfl, rfl⟩

theorem State.hostWrite_dacCode (h : Served s ses 1) (hch : ch < 16) (hcode : code < 65536) (hfree : s.cfg (dacIdx ch) 2 = 0xFF) :
    s.hostWrite ses (dacIdx ch) 16 (toLE 2 code) = (s.dacWrite ch code).giveReply ses ⟨0, []⟩ := by
  have hv : fromLE (toLE 2 code) = code := by simp [Nat.mod_eq_of_lt hcode]
  have hmask : Nat.land code (woObj 2 1).mask = code := land_full (n := 16) hcode
  obtain ⟨hpriv, hown, hmap, hfields, hstep⟩ := State.dac_unchecked (s := s) hch (.inl rfl) code (woObj 2 1)
  have hrange : s.inRange (dacIdx ch) 16 code (woObj 2 1) = true := by
    have hhi : (code : Int) ≤ (2 : Int) ^ 16 := by omega
    unfold State.inRange
    dsimp only
    rw [hmask, hfields, show (woObj 2 1).number code = (code : Int) from rfl, hstep]
    simpa [woObj, roObj] using hhi
  have := State.hostWrite_direct (data := toLE 2 code) h (State.row_dacCode s hch) (by decide) (by rw [hv, hpriv]; exact le_refl 1) rfl hown rfl (by decide)
    (by rw [hv, State.stateAllows_dacCode hch, hfree]; rfl) (by rw [hv]; exact hrange) (by rw [hv]; exact hmap) rfl
  rw [this, hv, hmask, State.writeDirect_dac hch]
  rfl

/-- R275 step 6: DAC_CODE of a channel granted to a context. -/
theorem State.hostWrite_dacCode_granted (h : Served s ses 1) (hch : ch < 16) (hgranted : s.cfg (dacIdx ch) 2 ≠ 0xFF) :
    s.hostWrite ses (dacIdx ch) 16 (toLE 2 code) = s.refuse ses (dacIdx ch) 16 0x08000022 := by
  obtain ⟨hr, hs, hl⟩ := h
  obtain ⟨hpriv, hown, -, -, -⟩ := State.dac_unchecked (s := s) hch (.inl rfl) (fromLE (toLE 2 code)) (woObj 2 1)
  refine State.hostWrite_refused hr hs (by decide) ?_
  rw [State.odWrite_checked (State.row_dacCode s hch) (by decide) (by rw [hpriv]; exact hl) rfl hown]
  exact State.writeChecked_disallowed rfl (by decide) (by rw [State.stateAllows_dacCode hch]; simpa using hgranted)

theorem State.dacWrite_queued (hcode : code < 65536) (hp : s.pwr.powerGood = true) (hroom : (s.dac ch).room ≠ 0) (hf : (s.dac ch).fault = false) :
    s.dacWrite ch code = s.modDac ch (fun d =>
      { d with queue := d.queue ++ [code], powerClamp := d.powerClamp && d.rangeClamp, awaitFirst := false }) := by
  simp [State.dacWrite, State.dacQueue, hroom, hf, hp, Nat.mod_eq_of_lt hcode]

theorem State.dacWrite_discarded (h : (s.dac ch).room = 0 ∨ (s.dac ch).fault = true) : s.dacWrite ch code = s.bumpBy (dacIdx ch) 0x14 1 := by
  unfold State.dacWrite State.dacQueue
  split
  · rfl
  · next hroom => exact if_pos (h.resolve_left hroom)

theorem Served.powerGood {lvl : Nat} (h : Served s ses lvl) : s.pwr.powerGood = true := by
  obtain ⟨hr, -, -⟩ := h
  unfold State.reachable at hr
  simp only [Bool.and_eq_true] at hr
  exact hr.1.2

end

/-! ## The current-steering path (R245) -/

section
variable {s : State} {ch : Nat}

/-- The path's source runs and its update is due. -/
def State.fastActs (s : State) (ch : Nat) : Prop :=
  s.onFast ch = true ∧ (s.dac ch).fastRun = true ∧ (s.dac ch).fault = false ∧ (s.dac ch).handover = false ∧ s.clocked 12 = true ∧
    (s.dac ch).fastAt + 10 * s.cfg (dacIdx ch) 0x0B ≤ s.time.up

theorem State.fastUpdate_idle (h : s.onFast ch = false ∨ (s.dac ch).fastRun = false ∨ (s.dac ch).fault = true ∨ (s.dac ch).handover = true ∨
    s.clocked 12 = false ∨ s.time.up < (s.dac ch).fastAt + 10 * s.cfg (dacIdx ch) 0x0B) : s.fastUpdate ch = s :=
  if_pos (by simpa [or_assoc] using h)

theorem State.fastUpdate_pattern (h : s.fastActs ch) (hsrc : bit (s.cfg (dacIdx ch) 0x0A) 0 = true) :
    s.fastUpdate ch = s.modDac ch (fun d => { d with
      fastPos := ((s.dac ch).fastPos + 1) % s.cfg (dacIdx ch) 0x0D
      fast := s.num (patAddr ch (((s.dac ch).fastPos + 1) % s.cfg (dacIdx ch) 0x0D)) 2
      fastAt := (s.dac ch).fastAt + 10 * s.cfg (dacIdx ch) 0x0B
      fastTrim := s.dacTrim ch 1 }) := by
  obtain ⟨h1, h2, h3, h4, h5, h6⟩ := h
  unfold State.fastUpdate
  rw [if_neg (by simp [h1, h2, h3, h4, h5, h6])]
  exact if_pos hsrc

/-- The ramp's next value and its target. -/
def State.rampTarget (s : State) (ch : Nat) : Int := s.codeValue ch (field (s.cfg (dacIdx ch) 0x0C) 16 16)
def State.rampNext (s : State) (ch : Nat) : Int :=
  rampStep (s.codeValue ch (s.dac ch).fast) (s.rampTarget ch) (field (s.cfg (dacIdx ch) 0x0C) 32 16)

/-- `back` says that the ramp hands over to the ladder. -/
theorem State.fastUpdate_ramp {back : Bool} (h : s.fastActs ch) (hsrc : bit (s.cfg (dacIdx ch) 0x0A) 0 = false)
    (hb : (bit (s.cfg (dacIdx ch) 0x0A) 1 && s.rampNext ch == s.rampTarget ch) = back) :
    s.fastUpdate ch = s.modDac ch (fun d => { d with
      fast := ofSigned 16 (s.rampNext ch)
      fastAt := (s.dac ch).fastAt + 10 * s.cfg (dacIdx ch) 0x0B
      fastTrim := s.dacTrim ch 1
      fastRun := !back
      returned := d.returned || back
      handover := d.handover || back }) := by
  subst hb
  obtain ⟨h1, h2, h3, h4, h5, h6⟩ := h
  unfold State.fastUpdate
  rw [if_neg (by simp [h1, h2, h3, h4, h5, h6])]
  exact if_neg (by rw [hsrc]; exact Bool.false_ne_true)

theorem rampStep_reaches {cur tgt : Int} {step : Nat} (h : (tgt - cur).natAbs ≤ step) : rampStep cur tgt step = tgt := if_pos h

theorem rampStep_moves {cur tgt : Int} {step : Nat} (h : step < (tgt - cur).natAbs) : (rampStep cur tgt step - cur).natAbs = step := by
  unfold rampStep
  rw [if_neg (by omega)]
  split <;> omega

end

/-- A change of a channel may use what the channel is. -/
theorem State.modDac_congr {s : State} {ch : Nat} {f g : Dac → Dac} (h : f (s.dac ch) = g (s.dac ch)) : s.modDac ch f = s.modDac ch g := by
  unfold State.modDac
  rw [h]

/-- Settles O40: instants, host codes and the current-steering path case by case. -/
theorem dacChannelsRun : Obligations.DacChannelsRun := by
  intro s ses ch code hch
  refine ⟨fun h => congrArg Host.Outcome.next (State.sampleInstant_idle h), fun h ha => congrArg Host.Outcome.next (State.sampleInstant_inert h ha),
    fun v l h ha hq hc hh => congrArg Host.Outcome.next ?_, fun v l h ha hq hk => congrArg Host.Outcome.next ?_,
    fun h ha hq hr => congrArg Host.Outcome.next ?_, fun h ha hq hr haw hl => ?_,
    fun hsv _ hg => congrArg Host.Outcome.next (State.hostWrite_dacCode_granted hsv hch hg),
    fun hsv hcode hfree hroom hf => congrArg Host.Outcome.next ?_, fun hsv hcode hfree h => congrArg Host.Outcome.next ?_,
    fun h => congrArg Host.Outcome.next (State.fastUpdate_idle h),
    fun h1 h2 h3 h4 h5 h6 hsrc => congrArg Host.Outcome.next ((State.fastUpdate_pattern ⟨h1, h2, h3, h4, h5, h6⟩ hsrc).trans (State.modDac_congr rfl)),
    fun h1 h2 h3 h4 h5 h6 hsrc => ⟨fun h => congrArg Host.Outcome.next ((State.fastUpdate_ramp (back := false) ⟨h1, h2, h3, h4, h5, h6⟩ hsrc ?_).trans (State.modDac_congr ?_)),
      fun hret hr => congrArg Host.Outcome.next ((State.fastUpdate_ramp (back := true) ⟨h1, h2, h3, h4, h5, h6⟩ hsrc ?_).trans (State.modDac_congr ?_))⟩,
    fun _ _ _ => rampStep_reaches, fun _ _ _ => rampStep_moves⟩
  · rw [State.sampleInstant_acts h ha]
    exact congrArg (State.settleEmits · ch) (State.takeHead_toLadder _ hq hc hh)
  · rw [State.sampleInstant_acts h ha]
    exact congrArg (State.settleEmits · ch) (State.takeHead_discarded _ hq hk)
  · rw [State.sampleInstant_acts h ha]
    exact congrArg (State.settleEmits · ch) (State.takeHead_released _ hq hr)
  · have hd : (s.atInstant ch).dac ch = _ := State.dac_modDac_same ..
    have hlim : (s.atInstant ch).cfg (dacIdx ch) 8 = 0 := hl
    refine ⟨((s.atInstant ch).modDac ch (fun d => { d with holdLevel := none })).underrunCounted ch,
      congrArg Host.Outcome.next ((State.sampleInstant_acts h ha).trans (congrArg (State.settleEmits · ch) (State.takeHead_underrun ?_ ?_ ?_ hlim))), ?_, ?_, State.mem_underrunCounted ..⟩
    · rw [hd]; exact hq
    · rw [hd]; exact hr
    · rw [hd]; exact haw
    · exact State.count_underrunCounted rfl rfl rfl
    · rw [State.dac_underrunCounted, hd]
  · rw [State.hostWrite_dacCode hsv hch hcode hfree, State.dacWrite_queued hcode hsv.powerGood hroom hf]
  · rw [State.hostWrite_dacCode hsv hch hcode hfree, State.dacWrite_discarded h]
  · simp only [Bool.and_eq_false_iff, beq_eq_false_iff_ne]
    exact h
  · simp [h2, h4]
    rfl
  · simp only [Bool.and_eq_true, beq_iff_eq]
    exact ⟨hret, hr⟩
  · simp
    rfl

end Sys2Proof.Machine
end

section
/-! SUPPORT. Outputs, mirror and ports: which part of the state trips, FAULT_N, the mirror state and frames sent may change. -/

namespace Sys2Proof.Machine

/-- The parts of the state that trip outputs, the mirror state and the frames of the ports show themselves in. -/
structure Lines where
  dacs : Tab Dac
  trips : Tab Trip
  mirror : Mirror
  ports : Tab Port
  rings : Tab Ring
  counters : Tab Nat
  inbox : List RecMsg
  msix : Nat

def State.lines (s : State) : Lines :=
  ⟨s.outs.dacs, s.outs.trips, s.mirror, s.ports, s.meas.rings, s.counters, s.ash.inbox, s.pcie.msix⟩

def State.withLines (s : State) (l : Lines) : State :=
  { s with outs := { s.outs with dacs := l.dacs, trips := l.trips }, mirror := l.mirror, ports := l.ports,
           meas := { s.meas with rings := l.rings }, counters := l.counters, ash := { s.ash with inbox := l.inbox },
           pcie := { s.pcie with msix := l.msix } }

/-- A channel but for what holds it in standby. -/
def Dac.unheld (d : Dac) : Dac := { d with standby := none, releaseClear := false }

/-- Every other part of the state is as before, and of the DAC channels all but what standby holds (R182). -/
structure OnlyLines (s t : State) : Prop where
  eq : t = s.withLines t.lines
  unheld : ∀ k, (t.dac k).unheld = (s.dac k).unheld

theorem OnlyLines.refl (s : State) : OnlyLines s s := ⟨rfl, fun _ => rfl⟩

theorem OnlyLines.trans {s t u : State} (h : OnlyLines s t) (k : OnlyLines t u) : OnlyLines s u :=
  ⟨Eq.trans k.eq (congrArg (fun x : State => x.withLines u.lines) h.eq :), fun d => (k.unheld d).trans (h.unheld d)⟩

theorem OnlyLines.cores {s t : State} (h : OnlyLines s t) : t.cores = s.cores := (congrArg State.cores h.eq :)
theorem OnlyLines.engines {s t : State} (h : OnlyLines s t) : t.engines = s.engines := (congrArg State.engines h.eq :)
theorem OnlyLines.mem {s t : State} (h : OnlyLines s t) : t.mem = s.mem := (congrArg State.mem h.eq :)
theorem OnlyLines.part {s t : State} (h : OnlyLines s t) : t.part = s.part := (congrArg State.part h.eq :)
theorem OnlyLines.net {s t : State} (h : OnlyLines s t) : t.net = s.net := (congrArg State.net h.eq :)
theorem OnlyLines.ctxs {s t : State} (h : OnlyLines s t) : t.ctxs = s.ctxs := (congrArg State.ctxs h.eq :)
theorem OnlyLines.sets {s t : State} (h : OnlyLines s t) : t.sets = s.sets := (congrArg State.sets h.eq :)
theorem OnlyLines.time {s t : State} (h : OnlyLines s t) : t.time = s.time := (congrArg State.time h.eq :)
theorem OnlyLines.svc {s t : State} (h : OnlyLines s t) : t.svc = s.svc := (congrArg State.svc h.eq :)
theorem OnlyLines.pwr {s t : State} (h : OnlyLines s t) : t.pwr = s.pwr := (congrArg State.pwr h.eq :)
theorem OnlyLines.faultCause {s t : State} (h : OnlyLines s t) : t.outs.faultCause = s.outs.faultCause :=
  (congrArg (fun x : State => x.outs.faultCause) h.eq :)
theorem OnlyLines.driven {s t : State} (h : OnlyLines s t) : t.outs.driven = s.outs.driven := (congrArg (fun x : State => x.outs.driven) h.eq :)
theorem OnlyLines.pfail {s t : State} (h : OnlyLines s t) : t.meas.pfail = s.meas.pfail := (congrArg (fun x : State => x.meas.pfail) h.eq :)
theorem OnlyLines.clearing {s t : State} (h : OnlyLines s t) : t.ash.clearing = s.ash.clearing :=
  (congrArg (fun x : State => x.ash.clearing) h.eq :)

/-- What standby does not hold of a channel is as before. -/
theorem OnlyLines.dac {s t : State} (h : OnlyLines s t) (k : Nat) :
    t.dac k = { s.dac k with standby := (t.dac k).standby, releaseClear := (t.dac k).releaseClear } := by
  have := h.unheld k
  generalize t.dac k = d at *
  generalize s.dac k = e at *
  cases d
  cases e
  simpa [Dac.unheld] using this

theorem onlyLines_foldl {α : Type} (f : State → α → State) (hf : ∀ s a, OnlyLines s (f s a)) (l : List α) (s : State) :
    OnlyLines s (l.foldl f s) := by
  induction l generalizing s with
  | nil => exact .refl s
  | cons a l ih => exact .trans (hf s a) (ih _)

/-! ## Operations on one part of the state -/

theorem onlyLines_modTrip (s : State) (n : Nat) (f : Trip → Trip) : OnlyLines s (s.modTrip n f) := ⟨rfl, fun _ => rfl⟩
theorem onlyLines_modPort (s : State) (p : Nat) (f : Port → Port) : OnlyLines s (s.modPort p f) := ⟨rfl, fun _ => rfl⟩
theorem onlyLines_bump (s : State) (i n : Nat) : OnlyLines s (s.bump i n) := ⟨rfl, fun _ => rfl⟩
theorem onlyLines_bumpBy (s : State) (i n v : Nat) : OnlyLines s (s.bumpBy i n v) := ⟨rfl, fun _ => rfl⟩
theorem onlyLines_record (s : State) (src code : Nat) (l : List Nat) : OnlyLines s (s.record src code l) := ⟨rfl, fun _ => rfl⟩
theorem onlyLines_msix (s : State) (v : Nat) : OnlyLines s (s.msix v) := ⟨rfl, fun _ => rfl⟩
theorem onlyLines_mirror (s : State) (m : Mirror) : OnlyLines s { s with mirror := m } := ⟨rfl, fun _ => rfl⟩
theorem onlyLines_rings (s : State) (r : Tab Ring) : OnlyLines s { s with meas := { s.meas with rings := r } } := ⟨rfl, fun _ => rfl⟩
theorem onlyLines_onLine (s : State) (p n : Nat) (f : FlueFrame) : OnlyLines s (s.onLine p n f) := ⟨rfl, fun _ => rfl⟩
theorem onlyLines_sendFrame (s : State) (p : Nat) (f : FlueFrame) : OnlyLines s (s.sendFrame p f) := ⟨rfl, fun _ => rfl⟩

/-- A change of what standby holds of a channel. -/
theorem onlyLines_modDac (s : State) (ch : Nat) (f : Dac → Dac) (hf : ∀ d, (f d).unheld = d.unheld) : OnlyLines s (s.modDac ch f) :=
  ⟨rfl, fun k => by
    by_cases h : k = ch
    · subst h
      rw [State.dac_modDac_same]
      exact hf _
    · rw [State.dac_modDac_ne s f h]⟩

theorem onlyLines_holdDac (s : State) (ch : Nat) (l : DacOut) : OnlyLines s (s.holdDac ch l) := onlyLines_modDac s ch _ fun _ => rfl
theorem onlyLines_releaseDac (s : State) (ch : Nat) : OnlyLines s (s.releaseDac ch) := onlyLines_modDac s ch _ fun _ => rfl

/-! ## Trips (R249-R251) -/

theorem onlyLines_ringTrigger (s : State) (n : Nat) : OnlyLines s (s.ringTrigger n) := by
  refine onlyLines_foldl _ (fun s r => ?_) _ s
  dsimp only
  split
  · exact onlyLines_rings ..
  · exact .refl s

theorem onlyLines_assertTrip (s : State) (n cause : Nat) : OnlyLines s (s.assertTrip n cause) :=
  .trans (onlyLines_modTrip ..) (.trans (onlyLines_bump ..) (.trans (onlyLines_record ..) (onlyLines_ringTrigger ..)))

theorem onlyLines_mirrorTrip (s : State) (n : Nat) (ev : Option Nat) : OnlyLines s (s.mirrorTrip n ev) := by
  unfold State.mirrorTrip
  dsimp only
  split
  · split
    · exact .refl s
    · exact onlyLines_assertTrip ..
  · split
    · exact onlyLines_assertTrip ..
    · split
      · exact onlyLines_modTrip ..
      · exact .refl s

/-- LAST_CAUSE of an assertion: the backstop's event, else the decision's source. -/
def tripCause (ev : Option Nat) (emitSrc : Nat) : Nat := match ev with | some e => eventCause e | none => emitSrc

/-- What output n does once its backstop's event is known. -/
def State.judgeTrip (s : State) (n : Nat) (ev : Option Nat) : State :=
  let t := s.trip n
  if s.cfg (tripIdx n) 1 = 0 ∨ !s.outs.driven then s.modTrip n (fun t => { t with asserted := false })
  else if s.cfg 0x2D00 9 = n then s.mirrorTrip n ev
  else
    let src := t.backstop || (t.emit && !t.held)
    if src && !t.asserted then s.assertTrip n (tripCause ev t.emitSrc)
    else if !src && t.asserted && s.minOnPast n then s.modTrip n (fun t => { t with asserted := false })
    else s

theorem State.updateTrip_eq (s : State) (n : Nat) : s.updateTrip n =
    (s.modTrip n (fun t => { t with backstop := (s.backstopEvent n).isSome })).judgeTrip n (s.backstopEvent n) := rfl

theorem onlyLines_judgeTrip (s : State) (n : Nat) (ev : Option Nat) : OnlyLines s (s.judgeTrip n ev) := by
  unfold State.judgeTrip
  dsimp only
  split
  · exact onlyLines_modTrip ..
  · split
    · exact onlyLines_mirrorTrip ..
    · split
      · exact onlyLines_assertTrip ..
      · split
        · exact onlyLines_modTrip ..
        · exact .refl s

theorem onlyLines_updateTrip (s : State) (n : Nat) : OnlyLines s (s.updateTrip n) :=
  .trans (onlyLines_modTrip ..) (onlyLines_judgeTrip ..)

theorem onlyLines_updateTrips (s : State) : OnlyLines s s.updateTrips := onlyLines_foldl _ onlyLines_updateTrip _ s

/-! ## The mirror state (R181-R183) -/

theorem onlyLines_showMirror (s : State) : OnlyLines s s.showMirror := by
  unfold State.showMirror
  dsimp only
  split
  · exact onlyLines_updateTrip ..
  · exact .refl s

theorem onlyLines_setMirror (s : State) (st cause : Nat) : OnlyLines s (s.setMirror st cause) := by
  unfold State.setMirror
  split
  · exact .refl s
  · exact .trans (.trans (onlyLines_mirror s _) (onlyLines_record ..)) (onlyLines_showMirror _)

theorem onlyLines_holdOutputs (s : State) : OnlyLines s s.holdOutputs := by
  unfold State.holdOutputs
  refine .trans (onlyLines_foldl _ (fun s ch => ?_) (List.range 16) s)
    (.trans (onlyLines_mirror _ _) (onlyLines_foldl _ (fun s n => ?_) (List.range 32) _))
  · split
    · exact onlyLines_holdDac ..
    · exact .refl s
  · split
    · exact onlyLines_modTrip ..
    · exact .refl s

theorem onlyLines_toStandby (s : State) (cause : Nat) : OnlyLines s (s.toStandby cause) :=
  .trans (onlyLines_setMirror ..) (onlyLines_holdOutputs _)

theorem onlyLines_releaseOutputs (s : State) : OnlyLines s s.releaseOutputs := by
  unfold State.releaseOutputs
  exact .trans (onlyLines_mirror s _) (.trans (onlyLines_foldl _ (fun s n => onlyLines_modTrip ..) (List.range 32) _)
    (.trans (onlyLines_foldl _ onlyLines_releaseDac _ _) (onlyLines_updateTrips _)))

theorem onlyLines_takeover (s : State) (cause : Nat) : OnlyLines s (s.takeover cause) := by
  have h := OnlyLines.trans (onlyLines_setMirror s (if (s.port (mirrorPort s)).state = 2 then 1 else 3) cause) (onlyLines_bump _ 0x2D00 0x0D)
  unfold State.takeover
  dsimp only
  generalize (s.setMirror _ cause).bump 0x2D00 0x0D = u at h ⊢
  split
  · exact .trans h (onlyLines_mirror ..)
  · exact .trans h (onlyLines_releaseOutputs _)

/-! ## Frames out (R177) -/

theorem onlyLines_portFlow (s : State) (p n : Nat) : OnlyLines s (s.portFlow p n) := by
  induction n generalizing s with
  | zero => exact .refl s
  | succ n ih =>
    unfold State.portFlow
    dsimp only
    split
    · exact .refl s
    · next it t _ =>
      split
      · exact .refl s
      · split
        · exact .trans (.trans (onlyLines_sendFrame ..) (onlyLines_modPort ..)) (ih _)
        · have hsent (fs : List FlueFrame) (f : Port → Port) : OnlyLines s ((fs.foldl (fun s f => s.sendFrame p f) s).modPort p f) :=
            .trans (onlyLines_foldl _ (fun s f => onlyLines_sendFrame s p f) fs s) (onlyLines_modPort ..)
          split
          · exact .trans (hsent it.frames _) (.trans (onlyLines_toStandby ..) (ih _))
          · exact .trans (hsent it.frames _) (ih _)

theorem onlyLines_sendItem (s : State) (p : Nat) (it : OutItem) : OnlyLines s (s.sendItem p it) :=
  .trans (onlyLines_modPort ..) (onlyLines_portFlow ..)

theorem onlyLines_sendTakeover (s : State) (cause : Nat) : OnlyLines s (s.sendTakeover cause) := by
  unfold State.sendTakeover
  split
  · exact onlyLines_sendItem ..
  · exact .refl s

/-! ## FAULT_N (R252) -/

theorem onlyLines_faultEdge (s : State) (before : Bool) : OnlyLines s (s.faultEdge before) := by
  unfold State.faultEdge
  split
  · refine .trans (onlyLines_msix s 1) ?_
    dsimp only
    split
    · exact onlyLines_sendTakeover ..
    · exact .refl _
  · exact .refl s

/-- A cause latched: FAULT_CAUSE has its bit, and what follows shows on the lines only. -/
theorem onlyLines_setCause (s : State) (i : Nat) :
    OnlyLines { s with outs := { s.outs with faultCause := setBit s.outs.faultCause i true } } (s.setCause i) := onlyLines_faultEdge ..

theorem onlyLines_clearCauses (s : State) (v : Nat) :
    OnlyLines { s with outs := { s.outs with
      faultCause := Nat.lor (packBits ((List.range 6).map (fun i => bit s.outs.faultCause i && !(bit v i)))) s.presentCauses } } (s.clearCauses v) :=
  onlyLines_faultEdge ..

end Sys2Proof.Machine
end

section
/-! SUPPORT. Faults, clamps and rails of the DAC channels (R247, R248); with them the settlement of O41. -/

namespace Sys2Proof.Machine

/-! ## Runs over the channels -/

/-- Only DAC channels are changed. -/
def OnlyDacs (s t : State) : Prop := t = { s with outs := { s.outs with dacs := t.outs.dacs } }

theorem OnlyDacs.eq {s t : State} (h : OnlyDacs s t) : t = { s with outs := { s.outs with dacs := t.outs.dacs } } := h
theorem OnlyDacs.refl (s : State) : OnlyDacs s s := rfl
theorem OnlyDacs.trans {s t u : State} (h : OnlyDacs s t) (k : OnlyDacs t u) : OnlyDacs s u :=
  Eq.trans k.eq (congrArg (fun x : State => { x with outs := { x.outs with dacs := u.outs.dacs } }) h.eq :)

theorem onlyDacs_modDac (s : State) (ch : Nat) (f : Dac → Dac) : OnlyDacs s (s.modDac ch f) := rfl
theorem onlyDacs_setLadder (s : State) (ch code : Nat) : OnlyDacs s (s.setLadder ch code) := rfl

theorem onlyDacs_foldl {f : State → Nat → State} (hf : ∀ s c, OnlyDacs s (f s c)) (l : List Nat) (s : State) : OnlyDacs s (l.foldl f s) := by
  induction l generalizing s with
  | nil => exact .refl s
  | cons c l ih => exact .trans (hf s c) (ih _)

/-- In a run over channels in which each has its own change, a channel has the change it would have alone. -/
theorem State.dac_foldl {f : State → Nat → State} {ch : Nat} (hf : ∀ s c, OnlyDacs s (f s c))
    (hne : ∀ (s : State) c, ch ≠ c → (f s c).dac ch = s.dac ch)
    (hsame : ∀ s t : State, OnlyDacs s t → t.dac ch = s.dac ch → (f t ch).dac ch = (f s ch).dac ch) {l : List Nat} (hl : l.Nodup) (s : State) :
    (l.foldl f s).dac ch = if ch ∈ l then (f s ch).dac ch else s.dac ch := by
  induction l generalizing s with
  | nil => rfl
  | cons c l ih =>
    obtain ⟨hc, hl⟩ := List.nodup_cons.mp hl
    rw [List.foldl_cons, ih hl]
    by_cases h : ch = c
    · subst h
      simp [hc]
    · have hd := hne s c h
      simp [h, hd, hsame s (f s c) (hf s c) hd]

/-- What a run over channels keeps (Q), and what it reaches at one of them (P). -/
theorem foldl_reaches {P Q : State → Prop} {f : State → Nat → State} {ch : Nat} (hQ : ∀ s c, Q s → Q (f s c))
    (hP : ∀ s c, Q s → P s → P (f s c)) (hat : ∀ s, Q s → P (f s ch)) {l : List Nat} (hmem : ch ∈ l) (s : State) (hs : Q s) :
    P (l.foldl f s) := by
  have hkeep (l : List Nat) (s : State) (hs : Q s) (hp : P s) : P (l.foldl f s) := by
    induction l generalizing s with
    | nil => exact hp
    | cons c l ih => exact ih _ (hQ s c hs) (hP s c hs hp)
  induction l generalizing s with
  | nil => exact absurd hmem List.not_mem_nil
  | cons c l ih =>
    rcases List.mem_cons.mp hmem with rfl | h
    · exact hkeep l _ (hQ s _ hs) (hat s hs)
    · exact ih h _ (hQ s c hs)

theorem foldl_keeps {Q : State → Prop} {f : State → Nat → State} (hQ : ∀ s c, Q s → Q (f s c)) (l : List Nat) (s : State) (hs : Q s) :
    Q (l.foldl f s) := by
  induction l generalizing s with
  | nil => exact hs
  | cons c l ih => exact ih _ (hQ s c hs)

/-! ## DAC_CLR_N (R247) -/

/-- A channel whose ladder stands at CLEAR_CODE. -/
def State.clearedDac (s : State) (ch : Nat) : Dac := { s.dac ch with ladder := s.cfg (dacIdx ch) 6, ladderTrim := s.dacTrim ch 0 }

theorem onlyDacs_clearLadders (s : State) : OnlyDacs s s.clearLadders := onlyDacs_foldl (fun s c => onlyDacs_setLadder s c _) _ s

theorem OnlyDacs.cfg {s t : State} (h : OnlyDacs s t) (i n : Nat) : t.cfg i n = s.cfg i n := (congrArg (fun x : State => x.cfg i n) h.eq :)
theorem OnlyDacs.dacTrim {s t : State} (h : OnlyDacs s t) (ch p : Nat) : t.dacTrim ch p = s.dacTrim ch p :=
  (congrArg (fun x : State => x.dacTrim ch p) h.eq :)
theorem OnlyDacs.onFast {s t : State} (h : OnlyDacs s t) {ch : Nat} (hd : t.dac ch = s.dac ch) : t.onFast ch = s.onFast ch := by
  unfold State.onFast
  rw [h.cfg, hd]

theorem State.dac_setLadder_same (s : State) (ch code : Nat) :
    (s.setLadder ch code).dac ch = { s.dac ch with ladder := code, ladderTrim := s.dacTrim ch 0 } := State.dac_modDac_same ..
theorem State.dac_setLadder_ne (s : State) {ch c : Nat} (code : Nat) (h : ch ≠ c) : (s.setLadder c code).dac ch = s.dac ch :=
  State.dac_modDac_ne s _ h

theorem State.dac_clearLadders (s : State) {ch : Nat} (hch : ch < 16) : s.clearLadders.dac ch = s.clearedDac ch := by
  refine (State.dac_foldl (fun s c => onlyDacs_setLadder s c _) (fun s c h => State.dac_setLadder_ne s _ h) (fun s t h hd => ?_)
    List.nodup_range s).trans ?_
  · rw [State.dac_setLadder_same, State.dac_setLadder_same, hd, h.cfg, h.dacTrim]
  · rw [if_pos (List.mem_range.mpr hch)]
    exact State.dac_setLadder_same ..

/-- What the pin's return does with one channel. -/
def State.unclear (s : State) (ch : Nat) : State :=
  if (s.dac ch).fault then s
  else if s.onFast ch then s.modDac ch (fun d => { d with handover := true, fastRun := false })
  else s.modDac ch (fun d => { d with holdLevel := some (.code (s.cfg (dacIdx ch) 6)) })

theorem onlyDacs_unclear (s : State) (ch : Nat) : OnlyDacs s (s.unclear ch) := by
  unfold State.unclear
  split
  · exact .refl s
  · split <;> exact onlyDacs_modDac ..

theorem State.dac_unclear_ne (s : State) {ch c : Nat} (h : ch ≠ c) : (s.unclear c).dac ch = s.dac ch := by
  unfold State.unclear
  split
  · rfl
  · split <;> exact State.dac_modDac_ne s _ h

theorem State.dac_unclear_same (s : State) (ch : Nat) : (s.unclear ch).dac ch =
    (if (s.dac ch).fault then s.dac ch else if s.onFast ch then { s.dac ch with handover := true, fastRun := false }
      else { s.dac ch with holdLevel := some (.code (s.cfg (dacIdx ch) 6)) }) := by
  unfold State.unclear
  split
  · rfl
  · split <;> exact State.dac_modDac_same ..

/-- DAC_CLR_N high. -/
def State.pinHigh (s : State) : State := { s with outs := { s.outs with dacClrLow := false } }

section
variable (s : State)
theorem State.dac_pinHigh (ch : Nat) : s.pinHigh.dac ch = s.dac ch := rfl
theorem State.cfg_pinHigh (i n : Nat) : s.pinHigh.cfg i n = s.cfg i n := rfl
theorem State.onFast_pinHigh (ch : Nat) : s.pinHigh.onFast ch = s.onFast ch := rfl
theorem State.mem_pinHigh : s.pinHigh.mem = s.mem := rfl
theorem State.cores_pinHigh : s.pinHigh.cores = s.cores := rfl
theorem State.dacClrLow_pinHigh : s.pinHigh.outs.dacClrLow = false := rfl
end

theorem State.clrHigh_low {s : State} (h : s.outs.dacClrLow = true) : s.clrHigh = (List.range 16).foldl State.unclear s.clearLadders.pinHigh :=
  if_neg (by simp [h])

theorem State.onFast_clearLadders (s : State) {ch : Nat} (hch : ch < 16) : s.clearLadders.onFast ch = s.onFast ch := by
  unfold State.onFast
  rw [(onlyDacs_clearLadders s).cfg, State.dac_clearLadders s hch]
  rfl

theorem State.dac_clrHigh {s : State} (h : s.outs.dacClrLow = true) {ch : Nat} (hch : ch < 16) : s.clrHigh.dac ch =
    (if (s.dac ch).fault then s.clearedDac ch else if s.onFast ch then { s.clearedDac ch with handover := true, fastRun := false }
      else { s.clearedDac ch with holdLevel := some (.code (s.cfg (dacIdx ch) 6)) }) := by
  rw [State.clrHigh_low h, State.dac_foldl onlyDacs_unclear (fun s c h => State.dac_unclear_ne s h) (fun s t h hd => ?_) List.nodup_range,
    if_pos (List.mem_range.mpr hch), State.dac_unclear_same, State.dac_pinHigh, State.onFast_pinHigh, State.cfg_pinHigh,
    (onlyDacs_clearLadders s).cfg, State.onFast_clearLadders s hch, State.dac_clearLadders s hch]
  · rfl
  · rw [State.dac_unclear_same, State.dac_unclear_same, hd, h.onFast hd, h.cfg]

theorem State.clrHigh_rest {s : State} (h : s.outs.dacClrLow = true) :
    s.clrHigh.outs.dacClrLow = false ∧ s.clrHigh.mem = s.mem ∧ s.clrHigh.cores = s.cores := by
  rw [State.clrHigh_low h]
  have h1 := onlyDacs_clearLadders s
  generalize s.clearLadders = u at h1 ⊢
  have h2 := onlyDacs_foldl onlyDacs_unclear (List.range 16) u.pinHigh
  generalize (List.range 16).foldl State.unclear u.pinHigh = v at h2 ⊢
  exact ⟨(congrArg (fun x : State => x.outs.dacClrLow) h2.eq :), (congrArg State.mem h2.eq :).trans (congrArg State.mem h1.eq :),
    (congrArg State.cores h2.eq :).trans (congrArg State.cores h1.eq :)⟩

/-! ## The fault state (R248) -/

/-- A channel in its fault state: queue flushed, source stopped, its level of the moment kept. -/
def Dac.faulted (d : Dac) (last : DacOut) : Dac :=
  { d with queue := [], fault := true, fastRun := false, underrunRun := 0, holdLevel := some last }

/-- A channel's fault with its record, but for FAULT_N. -/
def State.dacFaulted (s : State) (ch cause : Nat) : State :=
  (((s.bumpBy (dacIdx ch) 0x14 (s.dac ch).queue.length).modDac ch (·.faulted (s.dacOut ch))).record (dacSource ch) 0x0026
    [Nat.lor (2 ^ cause) (s.dac ch).causes])

theorem State.dac_dacFaulted_same (s : State) (ch cause : Nat) : (s.dacFaulted ch cause).dac ch = (s.dac ch).faulted (s.dacOut ch) :=
  State.dac_modDac_same (s.bumpBy (dacIdx ch) 0x14 (s.dac ch).queue.length) ch (·.faulted (s.dacOut ch))

theorem State.dac_dacFaulted_ne (s : State) {ch k : Nat} (cause : Nat) (h : k ≠ ch) : (s.dacFaulted ch cause).dac k = s.dac k :=
  State.dac_modDac_ne (s.bumpBy (dacIdx ch) 0x14 (s.dac ch).queue.length) (·.faulted (s.dacOut ch)) h

theorem State.dacFault_old {s : State} {ch : Nat} (cause : Nat) (hf : (s.dac ch).fault = true) : s.dacFault ch cause = s := if_pos hf

theorem State.dacFault_new {s : State} {ch : Nat} (cause : Nat) (hf : (s.dac ch).fault = false) :
    s.dacFault ch cause = if bit (s.cfg 0x2560 4) ch then (s.dacFaulted ch cause).setCause 3 else s.dacFaulted ch cause := by
  have h : (s.dacFlush ch).modDac ch (fun d => { d with fault := true, fastRun := false, underrunRun := 0, holdLevel := some (s.dacOut ch) }) =
      (s.bumpBy (dacIdx ch) 0x14 (s.dac ch).queue.length).modDac ch (·.faulted (s.dacOut ch)) := by
    unfold State.dacFlush
    exact State.modDac_modDac ..
  unfold State.dacFault
  rw [if_neg (by simp [hf])]
  dsimp only
  rw [h, State.dac_modDac_same]
  rfl

/-- What a new fault leaves, with FAULT_N and what it moves told only by the lines. -/
structure Faulted (s : State) (ch : Nat) (z : State) : Prop where
  same : (z.dac ch).unheld = ((s.dac ch).faulted (s.dacOut ch)).unheld
  other : ∀ k, k ≠ ch → (z.dac k).unheld = (s.dac k).unheld
  line : bit (s.cfg 0x2560 4) ch = true → bit z.outs.faultCause 3 = true
  sets : z.sets = s.sets
  part : z.part = s.part
  mem : z.mem = s.mem
  cores : z.cores = s.cores
  pfail : z.meas.pfail = s.meas.pfail
  clearing : z.ash.clearing = s.ash.clearing

theorem Faulted.dac {s z : State} {ch : Nat} (h : Faulted s ch z) :
    (z.dac ch).fault = true ∧ (z.dac ch).queue = [] ∧ (z.dac ch).fastRun = false ∧ (z.dac ch).holdLevel = some (s.dacOut ch) ∧
      (z.dac ch).shortLatched = (s.dac ch).shortLatched ∧ (z.dac ch).causes = (s.dac ch).causes := by
  have h := h.same
  exact ⟨(congrArg Dac.fault h :), (congrArg Dac.queue h :), (congrArg Dac.fastRun h :), (congrArg Dac.holdLevel h :),
    (congrArg Dac.shortLatched h :), (congrArg Dac.causes h :)⟩

theorem Dac.eq_of_unheld {d e : Dac} (h : d.unheld = e.unheld) : d = { e with standby := d.standby, releaseClear := d.releaseClear } := by
  cases d
  cases e
  simpa [Dac.unheld] using h

theorem State.faulted_dacFaulted {s t z : State} {ch cause : Nat} (h : OnlyLines t z) (hline : bit (s.cfg 0x2560 4) ch = true → bit z.outs.faultCause 3 = true)
    (hdac : ∀ k, t.dac k = (s.dacFaulted ch cause).dac k) (hsets : t.sets = s.sets) (hpart : t.part = s.part) (hmem : t.mem = s.mem)
    (hcores : t.cores = s.cores) (hpfail : t.meas.pfail = s.meas.pfail) (hclear : t.ash.clearing = s.ash.clearing) : Faulted s ch z where
  same := by rw [h.unheld, hdac, State.dac_dacFaulted_same]
  other k hk := by rw [h.unheld, hdac, State.dac_dacFaulted_ne s cause hk]
  line := hline
  sets := h.sets.trans hsets
  part := h.part.trans hpart
  mem := h.mem.trans hmem
  cores := h.cores.trans hcores
  pfail := h.pfail.trans hpfail
  clearing := h.clearing.trans hclear

theorem State.faulted_dacFault {s : State} {ch : Nat} (cause : Nat) (hf : (s.dac ch).fault = false) : Faulted s ch (s.dacFault ch cause) := by
  rw [State.dacFault_new cause hf]
  split
  · have h := onlyLines_setCause (s.dacFaulted ch cause) 3
    exact State.faulted_dacFaulted (cause := cause) h (fun _ => by rw [h.faultCause]; exact bit_setBit_same ..) (fun _ => rfl) rfl rfl rfl rfl rfl rfl
  · next hn => exact State.faulted_dacFaulted (cause := cause) (.refl _) (fun hb => absurd hb hn) (fun _ => rfl) rfl rfl rfl rfl rfl rfl

/-- A channel's fault, old or new: what it was before standby may have held it, and whether it is in its fault state. -/
theorem State.dacFault_unheld (s : State) (ch cause k : Nat) : ((s.dacFault ch cause).dac k).causes = (s.dac k).causes ∧
    ((s.dac k).fault = true ∨ k = ch → ((s.dacFault ch cause).dac k).fault = true) := by
  by_cases hf : (s.dac ch).fault = true
  · rw [State.dacFault_old cause hf]
    exact ⟨rfl, fun h => h.elim id (fun e => e ▸ hf)⟩
  · have h := State.faulted_dacFault cause (Bool.not_eq_true _ ▸ hf : (s.dac ch).fault = false)
    by_cases hk : k = ch
    · subst hk
      obtain ⟨h1, -, -, -, -, h2⟩ := h.dac
      exact ⟨h2, fun _ => h1⟩
    · have h := h.other k hk
      exact ⟨(congrArg Dac.causes h :), fun hor => (congrArg Dac.fault h :).trans (hor.resolve_right hk)⟩

theorem State.dacFault_frame (s : State) (ch cause : Nat) : (s.dacFault ch cause).mem = s.mem ∧ (s.dacFault ch cause).cores = s.cores ∧
    (s.dacFault ch cause).sets = s.sets ∧ (s.dacFault ch cause).part = s.part ∧ (s.dacFault ch cause).meas.pfail = s.meas.pfail ∧
    (s.dacFault ch cause).ash.clearing = s.ash.clearing := by
  by_cases hf : (s.dac ch).fault = true
  · rw [State.dacFault_old cause hf]
    exact ⟨rfl, rfl, rfl, rfl, rfl, rfl⟩
  · have h := State.faulted_dacFault cause (Bool.not_eq_true _ ▸ hf : (s.dac ch).fault = false)
    exact ⟨h.mem, h.cores, h.sets, h.part, h.pfail, h.clearing⟩

/-! ## Channels no EMIT waits for -/

/-- No EMIT to a DAC channel is in flight. -/
def State.NoEmits (s : State) : Prop := ∀ e, e ∈ s.cores → ∀ o, o ∈ e.2.seq.ops → ∀ k n l f, o.body ≠ .emitDac k n l f

theorem State.settleEmits_none {s : State} (h : s.NoEmits) (ch : Nat) : s.settleEmits ch = s := by
  refine (congrArg (fun l : Tab Core => (l.map (·.1)).foldl (fun s c => s.settle c) s) (List.filter_eq_nil_iff.mpr fun e he => ?_)).trans rfl
  rw [Bool.not_eq_true, List.any_eq_false]
  intro o ho
  split
  · next k n l f hb => exact absurd hb (h e he o ho k n l f)
  · exact Bool.false_ne_true

theorem State.faultDac_noEmits {s : State} (h : s.NoEmits) (ch cause : Nat) : s.faultDac ch cause = s.dacFault ch cause :=
  State.settleEmits_none (fun e he => h e ((s.dacFault_frame ch cause).2.1 ▸ he)) ch

/-- A cause that acts on a channel with no EMIT in flight, as a rail or PFAIL_N does. -/
def State.causeDac (s : State) (ch bit_ cause : Nat) : State := (s.modDac ch (fun d => { d with causes := setBit d.causes bit_ true })).faultDac ch cause

theorem State.causeDac_noEmits {s : State} (h : s.NoEmits) (ch b cause : Nat) :
    s.causeDac ch b cause = (s.modDac ch (fun d => { d with causes := setBit d.causes b true })).dacFault ch cause :=
  State.faultDac_noEmits (s := s.modDac ch _) h ch cause

theorem State.causeDac_frame {s : State} (h : s.NoEmits) (ch b cause : Nat) : (s.causeDac ch b cause).mem = s.mem ∧
    (s.causeDac ch b cause).cores = s.cores ∧ (s.causeDac ch b cause).sets = s.sets ∧ (s.causeDac ch b cause).part = s.part ∧
    (s.causeDac ch b cause).meas.pfail = s.meas.pfail ∧ (s.causeDac ch b cause).ash.clearing = s.ash.clearing := by
  rw [State.causeDac_noEmits h]
  exact State.dacFault_frame ..

/-- The channel is in its fault state, with this cause present. -/
def State.FaultedBy (s : State) (ch b : Nat) : Prop := (s.dac ch).fault = true ∧ bit (s.dac ch).causes b = true

theorem State.causeDac_same {s : State} (h : s.NoEmits) (ch b cause : Nat) : (s.causeDac ch b cause).FaultedBy ch b := by
  rw [State.causeDac_noEmits h]
  obtain ⟨h1, h2⟩ := State.dacFault_unheld (s.modDac ch (fun d => { d with causes := setBit d.causes b true })) ch cause ch
  refine ⟨h2 (.inr rfl), ?_⟩
  rw [h1, State.dac_modDac_same]
  exact bit_setBit_same ..

theorem State.causeDac_keeps {s : State} (h : s.NoEmits) {ch b : Nat} (c cause : Nat) (hp : s.FaultedBy ch b) :
    (s.causeDac c b cause).FaultedBy ch b := by
  by_cases hc : ch = c
  · exact hc ▸ State.causeDac_same h ch b cause
  · rw [State.causeDac_noEmits h]
    obtain ⟨h1, h2⟩ := State.dacFault_unheld (s.modDac c (fun d => { d with causes := setBit d.causes b true })) c cause ch
    rw [State.dac_modDac_ne s _ hc] at h1 h2
    exact ⟨h2 (.inl hp.1), by rw [h1]; exact hp.2⟩

/-! ## Current limit (R248) -/

section
variable (s : State) (ch : Nat)

/-- A channel in current limit, its record on its way. -/
def State.limited : State := (s.modDac ch (fun d => { d with shortLatched := true })).record (dacSource ch) 0x0025 []

theorem State.dac_limited_same : (s.limited ch).dac ch = { s.dac ch with shortLatched := true } := State.dac_modDac_same s ch (fun d => { d with shortLatched := true })
theorem State.dac_limited_ne {k : Nat} (h : k ≠ ch) : (s.limited ch).dac k = s.dac k := State.dac_modDac_ne s (fun d => { d with shortLatched := true }) h

theorem State.dacOut_limited : (s.limited ch).dacOut ch = s.dacOut ch := by
  unfold State.dacOut State.pathLevel State.onFast
  rw [State.dac_limited_same]
  rfl

theorem State.shorted_eq : s.shorted ch = ((s.limited ch).dacFault ch 0).settleEmits ch := rfl

theorem State.limited_leaves : let z := (s.limited ch).dacFault ch 0
    (z.dac ch).shortLatched = true ∧ (z.dac ch).fault = true ∧ ((s.dac ch).fault = true → z.dac ch = { s.dac ch with shortLatched := true }) ∧
      ((s.dac ch).fault = false → (z.dac ch).queue = [] ∧ (z.dac ch).fastRun = false ∧ (z.dac ch).holdLevel = some (s.dacOut ch)) ∧
      (∀ k, k ≠ ch → z.dac k = { s.dac k with standby := (z.dac k).standby, releaseClear := (z.dac k).releaseClear }) := by
  intro z
  by_cases hf : (s.dac ch).fault = true
  · have hz : z = s.limited ch := State.dacFault_old 0 (by rw [State.dac_limited_same]; exact hf)
    rw [hz, State.dac_limited_same]
    exact ⟨rfl, hf, fun _ => rfl, fun h => absurd (hf.symm.trans h) (by decide), fun k hk => by rw [State.dac_limited_ne s ch hk]⟩
  · have hf : (s.dac ch).fault = false := by simpa using hf
    have hz : Faulted (s.limited ch) ch z := State.faulted_dacFault 0 (by rw [State.dac_limited_same]; exact hf)
    obtain ⟨h1, h2, h3, h4, h5, -⟩ := hz.dac
    rw [State.dac_limited_same] at h5
    exact ⟨h5, h1, fun h => absurd (hf.symm.trans h) (by decide), fun _ => ⟨h2, h3, h4.trans (congrArg some (State.dacOut_limited s ch))⟩,
      fun k hk => Dac.eq_of_unheld ((hz.other k hk).trans (by rw [State.dac_limited_ne s ch hk]))⟩

end

/-! ## DAC_CMD (R248) -/

section
variable {s : State} {ses : Ses} {ch : Nat}

theorem State.hostWrite_dacCmd (h : Served s ses 1) (hch : ch < 16) {v : Nat} (h1 : 1 ≤ v) (h2 : v ≤ 2) :
    s.hostWrite ses (dacIdx ch) 18 (toLE 1 v) = (if v = 1 then s.dacRelease ch else s.faultDac ch 4).giveReply ses ⟨0, []⟩ := by
  have hv : fromLE (toLE 1 v) = v := by simp; omega
  have hrow := State.row_dacCmd s hch
  obtain ⟨hpriv, hown, hmap, hfields, hstep⟩ := State.dac_unchecked (s := s) hch (.inr rfl) v { woObj 1 1 with lo := 1, hi := 2 }
  have hmask : Nat.land v (2 ^ 8 - 1) = v := land_full (n := 8) (by omega)
  have hrange : s.inRange (dacIdx ch) 18 v { woObj 1 1 with lo := 1, hi := 2 } = true := by
    have hlo : (1 : Int) ≤ v := by omega
    have hhi : (v : Int) ≤ 2 := by omega
    unfold State.inRange
    dsimp only
    rw [show Nat.land v ({ woObj 1 1 with lo := 1, hi := 2 } : OdRow).mask = v from hmask, hfields,
      show ({ woObj 1 1 with lo := 1, hi := 2 } : OdRow).number v = (v : Int) from rfl, hstep]
    simp only [hlo, hhi, decide_true, Bool.and_self]
  have hallow : s.stateAllows (dacIdx ch) 18 v = true := by interval_cases ch <;> rfl
  have := State.hostWrite_direct (data := toLE 1 v) h hrow (by decide) (by rw [hv, hpriv]; exact le_refl 1) rfl hown rfl (by decide)
    (by rw [hv]; exact hallow) (by rw [hv]; exact hrange) (by rw [hv]; exact hmap) rfl
  rw [this, hv, show Nat.land v ({ woObj 1 1 with lo := 1, hi := 2 } : OdRow).mask = v from hmask, State.writeDirect_dac hch]
  rfl

/-- The state a release reads what the land's load decides from. -/
def State.afterLoad (s : State) (ch : Nat) : State := if (s.dac ch).shortLatched = true then s.draw else s

theorem State.dac_afterLoad (k : Nat) : (s.afterLoad ch).dac k = s.dac k := by
  unfold State.afterLoad
  split <;> rfl

theorem State.dacRelease_idle (hf : (s.dac ch).fault = false) : s.dacRelease ch = s := if_pos (by simp [hf])

theorem State.dacRelease_stays (hf : (s.dac ch).fault = true) (hc : s.dacCause ch = true) : s.dacRelease ch = s.afterLoad ch := by
  unfold State.dacRelease
  rw [if_neg (by simp [hf])]
  exact if_pos hc

theorem State.dacRelease_released (hf : (s.dac ch).fault = true) (hc : s.dacCause ch = false) :
    s.dacRelease ch = (s.afterLoad ch).modDac ch (fun d => { d with
      fault := false, shortLatched := false, awaitFirst := true, underrunRun := 0,
      holdLevel := some (s.faultLevel ch ((s.dac ch).holdLevel.getD .zero)) }) := by
  unfold State.dacRelease
  rw [if_neg (by simp [hf])]
  exact if_neg (by rw [hc]; exact Bool.false_ne_true)

/-! ## Clamps (Table 9.1 rows 3 and 6) -/

theorem State.ladderTakes_low (f : Dac → Dac) (h : s.outs.dacClrLow = true) : (s.modDac ch f).ladderTakes ch =
    s.modDac ch (fun d => { f d with ladder := s.cfg (dacIdx ch) 6, ladderTrim := s.dacTrim ch 0 }) :=
  (if_pos h : (s.modDac ch f).ladderTakes ch = _).trans
    (State.modDac_modDac s ch f (fun d => { d with ladder := s.cfg (dacIdx ch) 6, ladderTrim := s.dacTrim ch 0 }))

theorem State.ladderTakes_high (f : Dac → Dac) (h : s.outs.dacClrLow = false) : (s.modDac ch f).ladderTakes ch =
    (s.modDac ch (fun d => { f d with ladder := (f (s.dac ch)).queue.headD (s.cfg (dacIdx ch) 6), ladderTrim := s.dacTrim ch 0,
                                      queue := (f d).queue.tail, holdLevel := none, releaseClear := false })).settleEmits ch := by
  unfold State.ladderTakes
  rw [if_neg (by rw [show (s.modDac ch f).outs.dacClrLow = false from h]; exact Bool.false_ne_true)]
  refine congrArg (State.settleEmits · ch) ?_
  rw [State.dac_modDac_same]
  exact (State.setLadder_modDac s ch _ f _).trans (State.modDac_modDac ..)

theorem State.rangeClampEnd_idle (h : (s.dac ch).rangeClamp = false) : s.rangeClampEnd ch = s := if_neg (by simp [h])

theorem State.rangeClampEnd_clamped (h : (s.dac ch).rangeClamp = true) : s.rangeClampEnd ch =
    if (s.dac ch).fault then s.modDac ch (fun d => { d with rangeClamp := false })
    else (s.modDac ch (fun d => { d with rangeClamp := false })).ladderTakes ch := by
  unfold State.rangeClampEnd
  rw [if_pos h]
  dsimp only
  rw [State.dac_modDac_same]

theorem State.handoverClampEnd_idle (h : (s.dac ch).handover = false) : s.handoverClampEnd ch = s := if_neg (by simp [h])

theorem State.handoverClampEnd_clamped (h : (s.dac ch).handover = true) : s.handoverClampEnd ch =
    let u := s.modDac ch (fun d => { d with handover := false })
    if (s.dac ch).fault then u
    else if s.onFast ch then (u.startFast ch).modDac ch (fun d => { d with holdLevel := none, releaseClear := false })
    else u.ladderTakes ch := by
  have honfast : (s.modDac ch (fun d => { d with handover := false })).onFast ch = s.onFast ch := by
    unfold State.onFast
    rw [State.dac_modDac_same]
    rfl
  unfold State.handoverClampEnd
  rw [if_pos h]
  dsimp only
  rw [State.dac_modDac_same, honfast]

theorem State.handoverClampEnd_fast (h : (s.dac ch).handover = true) (hf : (s.dac ch).fault = false) (hon : s.onFast ch = true) :
    s.handoverClampEnd ch = ((s.modDac ch (fun d => { d with handover := false })).startFast ch).modDac ch
      (fun d => { d with holdLevel := none, releaseClear := false }) := by
  rw [State.handoverClampEnd_clamped h, hf, hon]
  rfl

end

/-! ## Rails (R247, R343) -/

/-- AVPOS or AVNEG below its minimum, or back. -/
def State.withRail (s : State) (low : Bool) : State := { s with outs := { s.outs with railLow := low } }

section
variable (s : State)

theorem State.dac_withRail (low : Bool) (k : Nat) : (s.withRail low).dac k = s.dac k := rfl
theorem State.mem_withRail (low : Bool) : (s.withRail low).mem = s.mem := rfl
theorem State.cores_withRail (low : Bool) : (s.withRail low).cores = s.cores := rfl
theorem State.railLow_withRail (low : Bool) : (s.withRail low).outs.railLow = low := rfl
theorem State.dacOut_withRail (ch : Nat) : (s.withRail true).dacOut ch = .zero := by
  unfold State.dacOut
  exact if_pos rfl

theorem State.railFault_eq : s.railFault = ((List.range 16).foldl (fun s ch => s.causeDac ch 1 1) s).withRail true := by
  unfold State.railFault State.causeDac State.withRail
  dsimp only

theorem State.railReturn_eq : s.railReturn =
    ((List.range 16).foldl (fun s ch => s.modDac ch (fun d => { d with causes := setBit d.causes 1 false })) s).withRail false := by
  unfold State.railReturn State.withRail
  dsimp only

/-- No EMIT in flight, and memory and cores as in a state before. -/
def State.QuietSince (z s : State) : Prop := s.NoEmits ∧ s.mem = z.mem ∧ s.cores = z.cores

theorem State.QuietSince.causeDac {z s : State} (h : z.QuietSince s) (c b cause : Nat) : z.QuietSince (s.causeDac c b cause) := by
  obtain ⟨hn, hm, hc⟩ := h
  obtain ⟨h1, h2, -⟩ := State.causeDac_frame hn c b cause
  exact ⟨fun e he => hn e (h2 ▸ he), h1.trans hm, h2.trans hc⟩

theorem State.railFault_faults (h : s.NoEmits) {ch : Nat} (hch : ch < 16) :
    s.railFault.FaultedBy ch 1 ∧ s.railFault.mem = s.mem ∧ s.railFault.cores = s.cores := by
  have hq : s.QuietSince s := ⟨h, rfl, rfl⟩
  have hstep (u : State) (c : Nat) (hu : s.QuietSince u) : s.QuietSince (u.causeDac c 1 1) := hu.causeDac c 1 1
  have h1 := foldl_reaches (P := fun u => u.FaultedBy ch 1) (ch := ch) hstep (fun u c hu hp => State.causeDac_keeps hu.1 c 1 hp)
    (fun u hu => State.causeDac_same hu.1 ch 1 1) (List.mem_range.mpr hch) s hq
  obtain ⟨-, h2, h3⟩ := foldl_keeps hstep (List.range 16) s hq
  rw [State.railFault_eq]
  generalize (List.range 16).foldl (fun s ch => s.causeDac ch 1 1) s = u at h1 h2 h3 ⊢
  exact ⟨h1, h2, h3⟩

theorem State.railReturn_leaves {ch : Nat} (hch : ch < 16) : s.railReturn.outs.railLow = false ∧ bit (s.railReturn.dac ch).causes 1 = false ∧
    (s.railReturn.dac ch).fault = (s.dac ch).fault ∧ s.railReturn.mem = s.mem ∧ s.railReturn.cores = s.cores := by
  have hd := State.dac_foldl_modDac (fun d => { d with causes := setBit d.causes 1 false }) List.nodup_range s ch (l := List.range 16)
  have he := State.foldl_modDac_frame (fun d => { d with causes := setBit d.causes 1 false }) (List.range 16) s
  rw [if_pos (List.mem_range.mpr hch)] at hd
  rw [State.railReturn_eq, State.dac_withRail, hd]
  generalize (List.range 16).foldl (fun s ch => s.modDac ch (fun d => { d with causes := setBit d.causes 1 false })) s = u at he ⊢
  exact ⟨rfl, bit_setBit_same .., rfl, (congrArg State.mem he :), (congrArg State.cores he :)⟩

end

theorem State.clrLow_leaves (s : State) {ch : Nat} (hch : ch < 16) : ∃ t : State, exec .dacClrNLow s = .next t ∧
    t.outs = { s.outs with dacClrLow := true, dacs := t.outs.dacs } ∧ t.dac ch = s.clearedDac ch ∧ t.mem = s.mem ∧ t.cores = s.cores := by
  have h := onlyDacs_clearLadders s
  have hd := State.dac_clearLadders s hch
  show ∃ t : State, execDacClrNLow s = .next t ∧ _
  unfold execDacClrNLow
  generalize s.clearLadders = u at h hd ⊢
  exact ⟨_, rfl, (congrArg (fun x : State => ({ x.outs with dacClrLow := true } : Outputs)) h.eq :), hd, (congrArg State.mem h.eq :),
    (congrArg State.cores h.eq :)⟩

theorem State.exec_dacClrNHigh (s : State) : exec .dacClrNHigh s = .next s.clrHigh := rfl
theorem State.exec_railFault (s : State) : exec .railFault s = .next s.railFault := rfl
theorem State.exec_analogueRailReturn (s : State) : exec .analogueRailReturn s = .next s.railReturn := rfl

/-- Settles O41: DAC_CLR_N, faults, clamps and rails case by case. -/
theorem dacFaultsAndClamps : Obligations.DacFaultsAndClamps := by
  intro s ses ch hch
  refine ⟨State.clrLow_leaves s hch, fun h => congrArg Host.Outcome.next (if_pos (by simp [h])),
    fun h => ⟨s.clrHigh, State.exec_dacClrNHigh s, (State.clrHigh_rest h).1, (State.clrHigh_rest h).2.1, (State.clrHigh_rest h).2.2,
      State.dac_clrHigh h hch⟩,
    ⟨_, congrArg Host.Outcome.next (State.shorted_eq s ch), ?_⟩, fun hsv hf => ?_, fun hsv hf => congrArg Host.Outcome.next ?_,
    fun hsv hf hc => congrArg Host.Outcome.next ?_, fun hsv hf hc => congrArg Host.Outcome.next ?_, fun hsv hf => congrArg Host.Outcome.next ?_,
    fun h => congrArg Host.Outcome.next (State.rangeClampEnd_idle h), fun h hf => congrArg Host.Outcome.next ?_,
    fun h hf hl => congrArg Host.Outcome.next ?_, fun h hf hl => congrArg Host.Outcome.next ?_,
    fun h => congrArg Host.Outcome.next (State.handoverClampEnd_idle h), fun h hf => congrArg Host.Outcome.next ?_,
    fun h hf hon hl => congrArg Host.Outcome.next ?_, fun h hf hon => ?_,
    ⟨s.railFault, State.exec_railFault s, ?_, ?_⟩, fun h => ⟨s.railFault, State.exec_railFault s, ?_⟩,
    ⟨s.railReturn, State.exec_analogueRailReturn s, ?_⟩⟩
  · obtain ⟨h1, h2, h3, h4, h5⟩ := State.limited_leaves s ch
    obtain ⟨hm, hc, -⟩ := (s.limited ch).dacFault_frame ch 0
    exact ⟨h1, h2, h3, h4, h5, hm, hc⟩
  · have hz := State.faulted_dacFault 4 hf
    obtain ⟨h1, h2, h3, h4, -, -⟩ := hz.dac
    refine ⟨s.dacFault ch 4, congrArg Host.Outcome.next (State.hostWrite_dacCmd hsv hch (v := 2) (by decide) (le_refl 2)), h1, h2, h3, h4,
      hz.line, fun k hk => Dac.eq_of_unheld (hz.other k hk), hz.mem, hz.cores⟩
  · rw [State.hostWrite_dacCmd hsv hch (v := 2) (by decide) (le_refl 2), if_neg (by decide), State.faultDac, State.dacFault_old 4 hf]
  · rw [State.hostWrite_dacCmd hsv hch (v := 1) (le_refl 1) (by decide), if_pos rfl, State.dacRelease_released hf hc]
    exact congrArg (State.giveReply · ses ⟨0, []⟩) (State.modDac_congr (by rw [State.dac_afterLoad]))
  · rw [State.hostWrite_dacCmd hsv hch (v := 1) (le_refl 1) (by decide), if_pos rfl, State.dacRelease_stays hf hc]
    rfl
  · rw [State.hostWrite_dacCmd hsv hch (v := 1) (le_refl 1) (by decide), if_pos rfl, State.dacRelease_idle hf]
  · rw [State.rangeClampEnd_clamped h, if_pos hf]
  · rw [State.rangeClampEnd_clamped h, hf, if_neg Bool.false_ne_true, State.ladderTakes_high _ hl]
    exact congrArg (State.settleEmits · ch) (State.modDac_congr rfl)
  · rw [State.rangeClampEnd_clamped h, if_neg (by simp [hf]), State.ladderTakes_low _ hl]
    exact State.modDac_congr rfl
  · rw [State.handoverClampEnd_clamped h]
    exact if_pos hf
  · rw [State.handoverClampEnd_clamped h, hf, hon]
    exact (State.ladderTakes_high _ hl).trans (congrArg (State.settleEmits · ch) (State.modDac_congr rfl))
  · have hd (u : State) (f : Dac → Dac) (g : Dac → Dac) : ((u.modDac ch f).modDac ch g).dac ch = g (f (u.dac ch)) := by
      rw [State.dac_modDac_same, State.dac_modDac_same]
    refine ⟨_, congrArg Host.Outcome.next (State.handoverClampEnd_fast h hf hon), ?_⟩
    unfold State.startFast
    dsimp only
    rw [hd, State.dac_modDac_same]
    exact ⟨rfl, rfl, rfl, rfl, rfl⟩
  · rw [State.railFault_eq]; rfl
  · rw [State.railFault_eq]; exact State.dacOut_withRail ..
  · obtain ⟨⟨h1, h2⟩, h3, h4⟩ := State.railFault_faults s h hch
    exact ⟨h1, h2, h3, h4⟩
  · exact State.railReturn_leaves s hch

end Sys2Proof.Machine
end

section
/-! SUPPORT. Trip outputs, FAULT_N and PFAIL_N (R226, R237, R248-R252); with them the settlement of O42. -/

namespace Sys2Proof.Machine

/-- A run whose steps are of a kind is of that kind. -/
theorem foldl_rel {A : Type} {R : State → State → Prop} {f : State → A → State} (hrefl : ∀ s, R s s)
    (htrans : ∀ {s t u}, R s t → R t u → R s u) (hf : ∀ s c, R s (f s c)) (l : List A) (s : State) : R s (l.foldl f s) := by
  induction l generalizing s with
  | nil => exact hrefl s
  | cons a l ih => exact htrans (hf s a) (ih _)

/-- In a run over numbers whose steps are of a kind R, what one of them shows at the end is what its own step does to a state of that kind
that shows it as at the start. -/
theorem foldl_at {A : Type} {f : State → Nat → State} {n : Nat} (show_ : State → A) {R : State → State → Prop} (hrefl : ∀ s, R s s)
    (htrans : ∀ {s t u}, R s t → R t u → R s u) (hf : ∀ s c, R s (f s c)) (hne : ∀ s c, c ≠ n → show_ (f s c) = show_ s) {l : List Nat}
    (hl : l.Nodup) (hmem : n ∈ l) (s : State) : ∃ u, R s u ∧ show_ u = show_ s ∧ show_ (l.foldl f s) = show_ (f u n) := by
  have hrest (l : List Nat) (hn : n ∉ l) (s : State) : show_ (l.foldl f s) = show_ s := by
    induction l generalizing s with
    | nil => rfl
    | cons c l ih =>
      rw [List.mem_cons, not_or] at hn
      exact (ih hn.2 _).trans (hne s c (Ne.symm hn.1))
  induction l generalizing s with
  | nil => exact absurd hmem List.not_mem_nil
  | cons c l ih =>
    obtain ⟨hc, hl⟩ := List.nodup_cons.mp hl
    by_cases h : c = n
    · subst h
      exact ⟨s, hrefl s, rfl, hrest l hc _⟩
    · obtain ⟨u, hu, h1, h2⟩ := ih hl ((List.mem_cons.mp hmem).resolve_left (Ne.symm h)) (f s c)
      exact ⟨u, htrans (hf s c) hu, h1.trans (hne s c h), h2⟩

/-! ## What an output's judgement reads -/

section
variable {s t : State} (h : OnlyLines s t)
include h

theorem OnlyLines.cfg (i n : Nat) : t.cfg i n = s.cfg i n := (congrArg (fun x : State => x.cfg i n) h.eq :)
theorem OnlyLines.granted (d : Decision) : t.granted d = s.granted d := (congrArg (fun x : State => x.granted d) h.eq :)
theorem OnlyLines.backstopEvent (n : Nat) : t.backstopEvent n = s.backstopEvent n := (congrArg (fun x : State => x.backstopEvent n) h.eq :)

end

/-- Only the rings are told. -/
def OnlyRings (s t : State) : Prop := t = { s with meas := { s.meas with rings := t.meas.rings } }

theorem OnlyRings.eq {s t : State} (h : OnlyRings s t) : t = { s with meas := { s.meas with rings := t.meas.rings } } := h
theorem OnlyRings.refl (s : State) : OnlyRings s s := rfl
theorem OnlyRings.trans {s t u : State} (h : OnlyRings s t) (k : OnlyRings t u) : OnlyRings s u :=
  Eq.trans k.eq (congrArg (fun x : State => { x with meas := { x.meas with rings := u.meas.rings } }) h.eq :)

theorem onlyRings_ringTrigger (s : State) (n : Nat) : OnlyRings s (s.ringTrigger n) := by
  refine foldl_rel OnlyRings.refl OnlyRings.trans (fun s r => ?_) (List.range 16) s
  dsimp only
  split
  · exact rfl
  · exact .refl s

section
variable (s : State) {n k : Nat}

theorem OnlyRings.trip {s t : State} (h : OnlyRings s t) (k : Nat) : t.trip k = s.trip k := (congrArg (fun x : State => x.trip k) h.eq :)
theorem OnlyRings.counters {s t : State} (h : OnlyRings s t) : t.counters = s.counters := (congrArg State.counters h.eq :)

theorem State.trip_ringTrigger (n k : Nat) : (s.ringTrigger n).trip k = s.trip k := (onlyRings_ringTrigger s n).trip k
theorem State.counters_ringTrigger (n : Nat) : (s.ringTrigger n).counters = s.counters := (onlyRings_ringTrigger s n).counters

/-- What an assertion writes, but for the rings. -/
def State.asserted (s : State) (n cause : Nat) : State :=
  let s := s.modTrip n (fun t => { t with asserted := true, since := s.time.up, lastCause := cause })
  (s.bump (tripIdx n) 8).record (0x0220 + n) 0x002A [cause, boolNat (s.trip n).backstop + 2 * boolNat (s.trip n).emit]

theorem State.assertTrip_eq (n cause : Nat) : s.assertTrip n cause = (s.asserted n cause).ringTrigger n := rfl

theorem State.trip_assertTrip_same (cause : Nat) : (s.assertTrip n cause).trip n =
    { s.trip n with asserted := true, since := s.time.up, lastCause := cause } := by
  rw [State.assertTrip_eq, State.trip_ringTrigger]
  exact State.trip_modTrip_same s n (fun t => { t with asserted := true, since := s.time.up, lastCause := cause })

theorem State.trip_assertTrip_ne (cause : Nat) (h : n ≠ k) : (s.assertTrip k cause).trip n = s.trip n := by
  rw [State.assertTrip_eq, State.trip_ringTrigger]
  exact State.trip_modTrip_ne s (fun t => { t with asserted := true, since := s.time.up, lastCause := cause }) h

theorem State.counters_assertTrip (cause : Nat) : (s.assertTrip n cause).counters = (s.bump (tripIdx n) 8).counters := by
  rw [State.assertTrip_eq, State.counters_ringTrigger]
  rfl

theorem State.trip_judgeTrip_ne (ev : Option Nat) (h : n ≠ k) : (s.judgeTrip k ev).trip n = s.trip n := by
  unfold State.judgeTrip State.mirrorTrip
  dsimp only
  split
  · exact State.trip_modTrip_ne s _ h
  · split
    · split
      · split
        · rfl
        · exact State.trip_assertTrip_ne s _ h
      · split
        · exact State.trip_assertTrip_ne s _ h
        · split
          · exact State.trip_modTrip_ne s _ h
          · rfl
    · split
      · exact State.trip_assertTrip_ne s _ h
      · split
        · exact State.trip_modTrip_ne s _ h
        · rfl

theorem State.trip_updateTrip_ne (h : n ≠ k) : (s.updateTrip k).trip n = s.trip n := by
  rw [State.updateTrip_eq, State.trip_judgeTrip_ne _ _ h, State.trip_modTrip_ne _ _ h]

/-- A judgement leaves the decision that stands, and whether standby holds the output. -/
theorem State.emit_judgeTrip (ev : Option Nat) : ((s.judgeTrip n ev).trip n).emit = (s.trip n).emit := by
  have hoff (f : Trip → Trip) (hf : ∀ t, (f t).emit = t.emit) : ((s.modTrip n f).trip n).emit = (s.trip n).emit := by
    rw [State.trip_modTrip_same, hf]
  have hon (c : Nat) : ((s.assertTrip n c).trip n).emit = (s.trip n).emit := by rw [State.trip_assertTrip_same]
  unfold State.judgeTrip State.mirrorTrip
  dsimp only
  split
  · exact hoff _ fun _ => rfl
  · split
    · split
      · split
        · rfl
        · exact hon _
      · split
        · exact hon _
        · split
          · exact hoff _ fun _ => rfl
          · rfl
    · split
      · exact hon _
      · split
        · exact hoff _ fun _ => rfl
        · rfl

theorem State.emit_updateTrip : ((s.updateTrip n).trip n).emit = (s.trip n).emit := by
  rw [State.updateTrip_eq, State.emit_judgeTrip, State.trip_modTrip_same]

end

/-! ## Judgement of an output that decisions drive -/

/-- An output's source after its backstop has been told. -/
def State.source (s : State) (n : Nat) : Bool := (s.backstopEvent n).isSome || ((s.trip n).emit && !(s.trip n).held)

/-- The state in which output n is judged. -/
def State.told (s : State) (n : Nat) : State := s.modTrip n (fun t => { t with backstop := (s.backstopEvent n).isSome })

section
variable (s : State) (n : Nat)
theorem State.trip_told : (s.told n).trip n = { s.trip n with backstop := (s.backstopEvent n).isSome } :=
  State.trip_modTrip_same s n (fun t => { t with backstop := (s.backstopEvent n).isSome })
theorem State.minOnPast_told : (s.told n).minOnPast n = s.minOnPast n := by
  unfold State.minOnPast
  rw [State.trip_told]
  rfl
end

section
variable {s : State} {n : Nat} (h1 : s.cfg (tripIdx n) 1 = 1) (hd : s.outs.driven = true) (hm : s.cfg 0x2D00 9 ≠ n)
include h1 hd hm

theorem State.updateTrip_driven : s.updateTrip n =
    if s.source n then (if (s.trip n).asserted then s.told n else (s.told n).assertTrip n (tripCause (s.backstopEvent n) (s.trip n).emitSrc))
    else if (s.trip n).asserted && s.minOnPast n then (s.told n).modTrip n (fun t => { t with asserted := false }) else s.told n := by
  have hj : s.updateTrip n = (s.told n).judgeTrip n (s.backstopEvent n) := rfl
  rw [hj]
  unfold State.judgeTrip
  rw [if_neg (by rw [show (s.told n).cfg (tripIdx n) 1 = 1 from h1, show (s.told n).outs.driven = true from hd]; simp),
    if_neg (show (s.told n).cfg 0x2D00 9 ≠ n from hm), State.minOnPast_told, State.trip_told]
  dsimp only
  unfold State.source
  generalize ((s.backstopEvent n).isSome || ((s.trip n).emit && !(s.trip n).held)) = src
  generalize (s.trip n).asserted = on
  cases src <;> cases on <;> simp

theorem State.asserted_updateTrip (hs : s.source n = true) : ((s.updateTrip n).trip n).asserted = true := by
  rw [State.updateTrip_driven h1 hd hm, if_pos hs]
  split
  · next ha => rw [State.trip_told]; exact ha
  · rw [State.trip_assertTrip_same]

theorem State.lastCause_updateTrip (hs : s.source n = true) (ha : (s.trip n).asserted = false) :
    ((s.updateTrip n).trip n).lastCause = tripCause (s.backstopEvent n) (s.trip n).emitSrc := by
  rw [State.updateTrip_driven h1 hd hm, if_pos hs, if_neg (by simp [ha]), State.trip_assertTrip_same]

theorem State.dropped_updateTrip (hs : s.source n = false) (ha : (s.trip n).asserted = true) (hp : s.minOnPast n = true) :
    ((s.updateTrip n).trip n).asserted = false := by
  rw [State.updateTrip_driven h1 hd hm, if_neg (by simp [hs]), if_pos (by simp [ha, hp]), State.trip_modTrip_same]

theorem State.stays_updateTrip (ha : (s.trip n).asserted = true) (h : s.source n = true ∨ s.minOnPast n = false) :
    ((s.updateTrip n).trip n).asserted = true := by
  by_cases hs : s.source n = true
  · exact State.asserted_updateTrip h1 hd hm hs
  · rw [State.updateTrip_driven h1 hd hm, if_neg hs, if_neg (by simp [h.resolve_left hs]), State.trip_told]
    exact ha

end

/-! ## The output that MIRROR_IND names (R182) -/

section
variable {s : State} {n : Nat} (h1 : s.cfg (tripIdx n) 1 = 1) (hd : s.outs.driven = true) (hm : s.cfg 0x2D00 9 = n)
include h1 hd hm

theorem State.updateTrip_mirror : s.updateTrip n = (s.told n).mirrorTrip n (s.backstopEvent n) := by
  have hj : s.updateTrip n = (s.told n).judgeTrip n (s.backstopEvent n) := rfl
  rw [hj]
  unfold State.judgeTrip
  rw [if_neg (by rw [show (s.told n).cfg (tripIdx n) 1 = 1 from h1, show (s.told n).outs.driven = true from hd]; simp),
    if_pos (show (s.told n).cfg 0x2D00 9 = n from hm)]

/-- A backstop's event asserts it. -/
theorem State.updateTrip_mirror_event {e : Nat} (he : s.backstopEvent n = some e) (ha : (s.trip n).asserted = false) :
    s.updateTrip n = (s.told n).assertTrip n (eventCause e) := by
  rw [State.updateTrip_mirror h1 hd hm, he]
  exact if_neg (by rw [State.trip_told]; simp [ha])

/-- The mirror state asserts it. -/
theorem State.updateTrip_mirror_active (he : s.backstopEvent n = none) (hst : s.mirror.state = 1 ∨ s.mirror.state = 3)
    (ha : (s.trip n).asserted = false) : s.updateTrip n = (s.told n).assertTrip n (0x24 + mirrorPort s) := by
  rw [State.updateTrip_mirror h1 hd hm, he]
  refine if_pos ?_
  rw [State.trip_told, show (s.told n).mirror.state = s.mirror.state from rfl]
  rcases hst with h | h <;> simp [h, ha]

theorem State.updateTrip_mirror_quiet (he : s.backstopEvent n = none) (h : (s.trip n).asserted = true ∨ (s.mirror.state ≠ 1 ∧ s.mirror.state ≠ 3)) :
    s.updateTrip n = if !(s.mirror.state == 1 || s.mirror.state == 3) && (s.trip n).asserted && (!backstopCause (s.trip n).lastCause || s.minOnPast n) then
      (s.told n).modTrip n (fun t => { t with asserted := false }) else s.told n := by
  rw [State.updateTrip_mirror h1 hd hm, he]
  unfold State.mirrorTrip
  dsimp only
  rw [State.minOnPast_told, State.trip_told, show (s.told n).mirror.state = s.mirror.state from rfl]
  refine if_neg ?_
  rcases h with h | ⟨ha, hb⟩ <;> simp_all

theorem State.released_updateTrip_mirror (he : s.backstopEvent n = none) (h1' : s.mirror.state ≠ 1) (h3 : s.mirror.state ≠ 3)
    (hc : backstopCause (s.trip n).lastCause = false) : ((s.updateTrip n).trip n).asserted = false := by
  rw [State.updateTrip_mirror_quiet h1 hd hm he (.inr ⟨h1', h3⟩)]
  cases ha : (s.trip n).asserted
  · rw [if_neg (by simp), State.trip_told]
    exact ha
  · rw [if_pos (by simp [h1', h3, hc]), State.trip_modTrip_same]

theorem State.latched_updateTrip_mirror (he : s.backstopEvent n = none) (ha : (s.trip n).asserted = true)
    (hc : backstopCause (s.trip n).lastCause = true) (hmode : s.cfg (tripIdx n) 3 = 0) : ((s.updateTrip n).trip n).asserted = true := by
  rw [State.updateTrip_mirror_quiet h1 hd hm he (.inl ha), if_neg (by simp [hc, State.minOnPast, hmode]), State.trip_told]
  exact ha

end

/-- Each assertion is counted. -/
theorem State.count_told_assert (s : State) (n cause : Nat) :
    ((s.told n).assertTrip n cause).count (tripIdx n) 8 = (s.bump (tripIdx n) 8).count (tripIdx n) 8 := by
  have h := onlyLines_assertTrip (s.told n) n cause
  refine (State.count_congr (tripIdx n) 8 (s := (s.told n).bump (tripIdx n) 8) h.part (congrArg Sets.active h.sets) ?_).trans ?_
  · exact State.counters_assertTrip (s.told n) cause
  · exact State.count_bumpBy_congr (tripIdx n) 8 1 rfl rfl rfl

/-! ## FAULT_CAUSE (R252) -/

theorem bit_packBits (l : List Bool) (i : Nat) : bit (packBits l) i = l.getD i false := by
  induction l generalizing i with
  | nil => simp [packBits, bit]
  | cons b l ih =>
    cases i with
    | zero => cases b <;> simp [packBits, bit, boolNat, Nat.testBit_zero]
    | succ i =>
      have h : (boolNat b + 2 * packBits l) / 2 = packBits l := by
        unfold boolNat
        split <;> omega
      simpa [packBits, bit, Nat.testBit_succ, h] using ih i

theorem bit_lor (a b i : Nat) : bit (Nat.lor a b) i = (bit a i || bit b i) := Nat.testBit_lor ..

theorem State.bit_clearCauses (s : State) (v : Nat) {b : Nat} (hb : b < 6) :
    bit (s.clearCauses v).outs.faultCause b = ((bit s.outs.faultCause b && !bit v b) || bit s.presentCauses b) := by
  rw [(onlyLines_clearCauses s v).faultCause]
  refine (bit_lor ..).trans ?_
  rw [bit_packBits]
  interval_cases b <;> rfl

section
variable {s : State} {ses n v : Nat}

theorem State.hostWrite_faultCause (h : Served s ses 1) (hv : v < 64) :
    s.hostWrite ses 0x2560 1 (toLE 2 v) = (s.clearCauses v).giveReply ses ⟨0, []⟩ := by
  have hdata : fromLE (toLE 2 v) = v := by simp; omega
  have hmask : Nat.land v (2 ^ 6 - 1) = v := land_full (n := 6) (by omega)
  have hrange : s.inRange 0x2560 1 v ((bitObj 2 0x3F 1).direct.level 1) = true := by
    have hhi : (v : Int) ≤ 65536 := by omega
    unfold State.inRange
    dsimp only
    rw [show s.fieldsOk 0x2560 1 _ = true from rfl, show s.stepOk 0x2560 1 _ = true from rfl]
    simp only [Bool.and_true, Bool.and_eq_true, decide_eq_true_eq]
    exact ⟨Int.natCast_nonneg v, hhi⟩
  have := State.hostWrite_direct (data := toLE 2 v) h (State.row_faultCause s) (by decide) (le_refl 1) rfl rfl rfl (by decide) rfl
    (by rw [hdata]; exact hrange) rfl rfl
  rw [this, hdata]
  exact congrArg (State.giveReply · ses ⟨0, []⟩) (congrArg s.clearCauses hmask)

theorem State.stateAllows_tripCmd (hn : n < 32) : s.stateAllows (tripIdx n) 7 1 = (s.cfg (tripIdx n) 3 == 1 || !s.tripSource n) := by
  interval_cases n <;> rfl

/-- TRIP_CMD is an object without further checks. -/
theorem State.tripCmd_unchecked (hn : n < 32) (r : OdRow) : s.needPriv (tripIdx n) 7 1 r = r.priv ∧ ownWrite (tripIdx n) 7 = false ∧
    s.mappingAbort (tripIdx n) 7 1 = 0 ∧ s.fieldsOk (tripIdx n) 7 1 = true ∧ s.stepOk (tripIdx n) 7 1 = true := by
  interval_cases n <;> exact ⟨rfl, rfl, rfl, rfl, rfl⟩

theorem State.writeDirect_trip (hn : n < 32) (sub v : Nat) : s.writeDirect ses (tripIdx n) sub v = s.tripRelease n := by
  interval_cases n <;> rfl

theorem State.hostWrite_tripCmd (h : Served s ses 1) (hn : n < 32) (ha : s.cfg (tripIdx n) 3 = 1 ∨ s.tripSource n = false) :
    s.hostWrite ses (tripIdx n) 7 (toLE 1 1) = (s.tripRelease n).giveReply ses ⟨0, []⟩ := by
  obtain ⟨hpriv, hown, hmap, hfields, hstep⟩ := State.tripCmd_unchecked (s := s) hn { woObj 1 1 with lo := 1, hi := 1 }
  have hrange : s.inRange (tripIdx n) 7 1 { woObj 1 1 with lo := 1, hi := 1 } = true := by
    unfold State.inRange
    dsimp only
    rw [show Nat.land 1 (woObj 1 1).mask = 1 from rfl, hfields]
    exact hstep
  have := State.hostWrite_direct (data := toLE 1 1) h (State.row_tripCmd s hn) (by decide) (hpriv.trans_le (le_refl 1)) rfl hown rfl (by decide)
    ((State.stateAllows_tripCmd hn).trans (by rcases ha with h | h <;> simp [h])) hrange hmap rfl
  rw [this, State.writeDirect_trip hn]

theorem State.hostWrite_tripCmd_refused (h : Served s ses 1) (hn : n < 32) (hm : s.cfg (tripIdx n) 3 ≠ 1) (hsrc : s.tripSource n = true) :
    s.hostWrite ses (tripIdx n) 7 (toLE 1 1) = s.refuse ses (tripIdx n) 7 0x08000022 := by
  obtain ⟨hr, hs, hl⟩ := h
  obtain ⟨hpriv, hown, -, -, -⟩ := State.tripCmd_unchecked (s := s) hn { woObj 1 1 with lo := 1, hi := 1 }
  refine State.hostWrite_refused hr hs (by decide) ?_
  rw [State.odWrite_checked (data := toLE 1 1) (State.row_tripCmd s hn) (by decide) (hpriv.trans_le hl) rfl hown]
  exact State.writeChecked_disallowed rfl (by decide) ((State.stateAllows_tripCmd hn).trans (by simp [hm, hsrc]))

end

/-! ## The decisions of a tick (R155, R226) -/

section
variable (s : State) (d : Decision) (n : Nat)

theorem OnlyLines.decisions {s t : State} (h : OnlyLines s t) : t.net.decisions = s.net.decisions := congrArg Net.decisions h.net

/-- One decision that meets nothing on its way. -/
theorem State.decisionsIn_clear (hd : s.net.decisions = [d]) (h1 : s.pathStalls (dieOf d.core) 4 = false) (h2 : s.pathShut (dieOf d.core) 4 = none)
    (h3 : s.pathUnmet (dieOf d.core) 4 = false) :
    s.decisionsIn = ([d], ({ s with net := { s.net with decisions := [] } } : State).crossed (dieOf d.core) 4 1) := by
  unfold State.decisionsIn
  rw [hd, List.foldl_cons, List.foldl_nil]
  have hw : State.way { s with net := { s.net with decisions := [] } } (dieOf d.core) 4 1
      (State.pathUnmet { s with net := { s.net with decisions := [] } } (dieOf d.core) 4) =
      (.passed, ({ s with net := { s.net with decisions := [] } } : State).crossed (dieOf d.core) 4 1) := by
    unfold State.way
    rw [show State.pathStalls { s with net := { s.net with decisions := [] } } (dieOf d.core) 4 = false from h1,
      show State.pathShut { s with net := { s.net with decisions := [] } } (dieOf d.core) 4 = none from h2,
      show State.pathUnmet { s with net := { s.net with decisions := [] } } (dieOf d.core) 4 = false from h3]
    rfl
  unfold decisionWay
  rw [hw]
  rfl

/-- Of one decision, an output that is not its own, or not granted to its core's context, is judged as without it. -/
theorem State.settleTrip_other (h : d.trip ≠ n ∨ s.granted d = false) : s.settleTrip [d] n = s.updateTrip n := by
  have hm : [d].filter (fun d => d.trip == n && s.granted d) = [] := by
    rw [List.filter_eq_nil_iff]
    rintro x hx
    rw [List.mem_singleton.mp hx]
    rcases h with h | h <;> simp [h]
  unfold State.settleTrip
  rw [hm]
  rfl

/-- A decision that an output takes. -/
def State.decided (s : State) (d : Decision) : State :=
  (s.modTrip d.trip (fun t => { t with emit := d.value, emitSrc := coreSource d.core })).bumpBy (tripIdx d.trip) 9 0

theorem State.settleTrip_own (h : s.granted d = true) : s.settleTrip [d] d.trip = (s.decided d).updateTrip d.trip := by
  have hm : [d].filter (fun x => x.trip == d.trip && s.granted x) = [d] := by simp [h]
  unfold State.settleTrip
  rw [hm]
  rfl

theorem State.settleTrip_none : s.settleTrip [] n = s.updateTrip n := rfl

theorem onlyLines_settleTrip : OnlyLines s (s.settleTrip [d] n) := by
  by_cases h : d.trip = n ∧ s.granted d = true
  · obtain ⟨rfl, hg⟩ := h
    rw [State.settleTrip_own s d hg]
    exact .trans (.trans (onlyLines_modTrip ..) (onlyLines_bumpBy ..)) (onlyLines_updateTrip ..)
  · rw [State.settleTrip_other s d n (by rw [← Bool.not_eq_true]; tauto)]
    exact onlyLines_updateTrip ..

theorem State.trip_settleTrip_ne {k : Nat} (h : n ≠ k) : (s.settleTrip [d] k).trip n = s.trip n := by
  by_cases hk : d.trip = k ∧ s.granted d = true
  · obtain ⟨rfl, hg⟩ := hk
    rw [State.settleTrip_own s d hg, State.trip_updateTrip_ne _ h]
    exact State.trip_modTrip_ne s (fun t => { t with emit := d.value, emitSrc := coreSource d.core }) h
  · rw [State.settleTrip_other s d k (by rw [← Bool.not_eq_true]; tauto), State.trip_updateTrip_ne _ h]

theorem State.trip_decided : (s.decided d).trip d.trip = { s.trip d.trip with emit := d.value, emitSrc := coreSource d.core } :=
  State.trip_modTrip_same s d.trip (fun t => { t with emit := d.value, emitSrc := coreSource d.core })

/-- The outputs after a tick with one decision. -/
def State.settled (s : State) (d : Decision) : State := (List.range 32).foldl (fun s n => s.settleTrip [d] n) s

theorem onlyLines_settled : OnlyLines s (s.settled d) := onlyLines_foldl _ (fun s n => onlyLines_settleTrip s d n) _ s

theorem State.trip_settled (hn : n < 32) : ∃ u, OnlyLines s u ∧ u.trip n = s.trip n ∧ (s.settled d).trip n = (u.settleTrip [d] n).trip n :=
  foldl_at (fun s => s.trip n) OnlyLines.refl OnlyLines.trans (fun s n => onlyLines_settleTrip s d n)
    (fun s _ h => State.trip_settleTrip_ne s d n (Ne.symm h)) List.nodup_range (List.mem_range.mpr hn) s

/-- The decision that stands at its output after the tick. -/
theorem State.emit_settled (hn : d.trip < 32) : ((s.settled d).trip d.trip).emit = if s.granted d then d.value else (s.trip d.trip).emit := by
  obtain ⟨u, hu, ht, hs⟩ := State.trip_settled s d d.trip hn
  rw [hs]
  by_cases hg : s.granted d = true
  · rw [State.settleTrip_own u d ((hu.granted d).trans hg), State.emit_updateTrip, State.trip_decided, if_pos hg]
  · rw [State.settleTrip_other u d d.trip (.inr ((hu.granted d).trans (by simpa using hg))), State.emit_updateTrip, ht, if_neg hg]

/-- A granted decision to trip asserts its output, with the core as its cause where no backstop's event stands. -/
theorem State.asserted_settled (hn : d.trip < 32) (hg : s.granted d = true) (hv : d.value = true) (h1 : s.cfg (tripIdx d.trip) 1 = 1)
    (hd : s.outs.driven = true) (hm : s.cfg 0x2D00 9 ≠ d.trip) (hh : (s.trip d.trip).held = false) :
    ((s.settled d).trip d.trip).asserted = true ∧ ((s.trip d.trip).asserted = false → s.backstopEvent d.trip = none →
      ((s.settled d).trip d.trip).lastCause = coreSource d.core) := by
  obtain ⟨u, hu, ht, hs⟩ := State.trip_settled s d d.trip hn
  have htrip := State.trip_decided u d
  rw [ht] at htrip
  have hl : OnlyLines s (u.decided d) := hu.trans (.trans (onlyLines_modTrip ..) (onlyLines_bumpBy ..))
  have h1' := (hl.cfg (tripIdx d.trip) 1).trans h1
  have hd' := hl.driven.trans hd
  have hm' : (u.decided d).cfg 0x2D00 9 ≠ d.trip := by rw [hl.cfg]; exact hm
  have hsrc : (u.decided d).source d.trip = true := by simp [State.source, htrip, hv, hh]
  rw [hs, State.settleTrip_own u d ((hu.granted d).trans hg)]
  refine ⟨State.asserted_updateTrip h1' hd' hm' hsrc, fun ha he => ?_⟩
  rw [State.lastCause_updateTrip h1' hd' hm' hsrc (by rw [htrip]; exact ha), hl.backstopEvent, he, htrip]
  rfl

/-! ## Decisions completed (R155) -/

/-- The decision comes after its deadline. -/
def State.isLate (s : State) (d : Decision) : Bool := match d.deadline with | some t => decide (t < s.time.gtc) | none => false

/-- A late decision is counted and recorded. -/
def State.lateTold (s : State) (d : Decision) : State :=
  if s.isLate d then (s.record (coreSource d.core) 0x0021
    [2 * d.trip, match d.deadline with | some t => min (s.time.gtc - t) 0xFFFFFFFF | none => 0]).bump 0x2330 1 else s

/-- The core's watchdog starts its next interval where the decision arms it. -/
def State.rearmed (s : State) (d : Decision) : State :=
  if d.arms then s.modCore d.core (fun k => { k with watchdog := if s.cfg 0x2330 2 = 0 then none else some (s.time.up, s.cfg 0x2330 2) }) else s

/-- An op, where it is still in flight, completes. -/
def State.doneBy (s : State) (c : Nat) (o : Option Op) (status : Nat) : State :=
  match o with
  | some o => s.completeOp c o status
  | none => s

theorem State.decisionEmit_eq : s.decisionEmit d =
    ((s.lateTold d).rearmed d).doneBy d.core (((s.lateTold d).rearmed d).op d.core d.op) (if s.isLate d then 5 else 0) := rfl

theorem State.op_rearmed : (s.rearmed d).op d.core d.op = s.op d.core d.op := by
  unfold State.rearmed State.op
  split
  · rw [State.core_modCore_same]
  · rfl

theorem State.trip_lateTold : (s.lateTold d).trip n = s.trip n := by
  unfold State.lateTold
  split <;> rfl

theorem onlyLines_lateTold : OnlyLines s (s.lateTold d) := by
  unfold State.lateTold
  split
  · exact .trans (onlyLines_record ..) (onlyLines_bump ..)
  · exact .refl s

end

/-! ## Counters beside the outputs' own -/

theorem State.count_bumpBy_ne (s : State) {i n j m : Nat} (v : Nat) (h : odKey i n ≠ odKey j m) : (s.bumpBy j m v).count i n = s.count i n :=
  Tab.get_set_ne _ _ _ h

theorem OnlyRings.count {s t : State} (h : OnlyRings s t) (i n : Nat) : t.count i n = s.count i n :=
  (congrArg (fun x : State => x.count i n) h.eq :)

section
variable (s : State) {n : Nat} (hn : n < 32)
include hn

theorem State.count_assertTrip_watchdog (cause : Nat) : (s.assertTrip n cause).count 0x2330 1 = s.count 0x2330 1 := by
  rw [State.assertTrip_eq, (onlyRings_ringTrigger _ n).count]
  exact State.count_bumpBy_ne (i := 0x2330) (n := 1) (j := tripIdx n) (m := 8) (s.modTrip n (fun t => { t with asserted := true, since := s.time.up, lastCause := cause })) 1
    (by unfold odKey tripIdx; omega)

theorem State.count_updateTrip_watchdog : (s.updateTrip n).count 0x2330 1 = s.count 0x2330 1 := by
  have hoff (u : State) (f : Trip → Trip) : (u.modTrip n f).count 0x2330 1 = u.count 0x2330 1 := rfl
  have hon (u : State) (c : Nat) := State.count_assertTrip_watchdog u hn c
  rw [State.updateTrip_eq]
  refine Eq.trans ?_ (hoff s (fun t => { t with backstop := (s.backstopEvent n).isSome }))
  generalize s.modTrip n (fun t => { t with backstop := (s.backstopEvent n).isSome }) = u
  unfold State.judgeTrip State.mirrorTrip
  dsimp only
  split
  · exact hoff ..
  · split
    · split
      · split
        · rfl
        · exact hon ..
      · split
        · exact hon ..
        · split
          · exact hoff ..
          · rfl
    · split
      · exact hon ..
      · split
        · exact hoff ..
        · rfl

theorem State.count_settleTrip_watchdog (d : Decision) : (s.settleTrip [d] n).count 0x2330 1 = s.count 0x2330 1 := by
  by_cases h : d.trip = n ∧ s.granted d = true
  · obtain ⟨rfl, hg⟩ := h
    rw [State.settleTrip_own s d hg, State.count_updateTrip_watchdog _ hn]
    exact State.count_bumpBy_ne (i := 0x2330) (n := 1) (j := tripIdx d.trip) (m := 9) (s.modTrip d.trip (fun t => { t with emit := d.value, emitSrc := coreSource d.core })) 0
      (by unfold odKey tripIdx; omega)
  · rw [State.settleTrip_other s d n (by rw [← Bool.not_eq_true]; tauto), State.count_updateTrip_watchdog _ hn]

end

theorem State.count_settled (s : State) (d : Decision) : (s.settled d).count 0x2330 1 = s.count 0x2330 1 := by
  have h (l : List Nat) (hl : ∀ n ∈ l, n < 32) (s : State) : (l.foldl (fun s n => s.settleTrip [d] n) s).count 0x2330 1 = s.count 0x2330 1 := by
    induction l generalizing s with
    | nil => rfl
    | cons n l ih =>
      exact (ih (fun m hm => hl m (List.mem_cons_of_mem _ hm)) _).trans (State.count_settleTrip_watchdog s (hl n List.mem_cons_self) d)
  exact h (List.range 32) (fun n hn => List.mem_range.mp hn) s

theorem State.count_bump_of_count {s t : State} {i n : Nat} (hpart : t.part = s.part) (hsets : t.sets.active = s.sets.active)
    (hcount : t.count i n = s.count i n) : (t.bump i n).count i n = (s.bump i n).count i n := by
  have hrow : t.row i n = s.row i n := by simp only [State.row, hpart, hsets]
  unfold State.bump State.bumpBy
  rw [State.count_setCount_same, State.count_setCount_same, hrow, hcount]

/-! ## The tick with one decision that meets nothing on its way -/

section
variable (s : State) (d : Decision)

/-- The decision has arrived. -/
def State.arrived (s : State) (d : Decision) : State := ({ s with net := { s.net with decisions := [] } } : State).crossed (dieOf d.core) 4 1

/-- The state in which its EMIT completes. -/
def State.ticked (s : State) (d : Decision) : State := (((s.arrived d).settled d).lateTold d).rearmed d

theorem State.isLate_settled : ((s.arrived d).settled d).isLate d = s.isLate d := by
  have h := onlyLines_settled (s.arrived d) d
  unfold State.isLate
  rw [h.time]
  rfl

theorem onlyLines_told : OnlyLines (s.arrived d) (((s.arrived d).settled d).lateTold d) :=
  (onlyLines_settled (s.arrived d) d).trans (onlyLines_lateTold _ d)

theorem State.tripTick_clear (hd : s.net.decisions = [d]) (h1 : s.pathStalls (dieOf d.core) 4 = false) (h2 : s.pathShut (dieOf d.core) 4 = none)
    (h3 : s.pathUnmet (dieOf d.core) 4 = false) :
    s.tripTick = (s.ticked d).doneBy d.core (s.op d.core d.op) (if s.isLate d then 5 else 0) := by
  have hop : (s.ticked d).op d.core d.op = s.op d.core d.op := by
    unfold State.ticked
    rw [State.op_rearmed]
    unfold State.op State.core
    rw [(onlyLines_told s d).cores]
    rfl
  have ht : s.tripTick = ((s.arrived d).settled d).decisionEmit d := by
    unfold State.tripTick
    rw [State.decisionsIn_clear s d hd h1 h2 h3]
    rfl
  rw [ht, State.decisionEmit_eq, State.isLate_settled]
  unfold State.ticked at hop
  rw [hop]
  rfl

/-- What the tick changes of memory, of the cores and of what waits. -/
theorem State.ticked_leaves : (s.ticked d).net.decisions = [] ∧ (s.ticked d).mem = s.mem ∧ (∀ c, c ≠ d.core → (s.ticked d).core c = s.core c) ∧
    (s.ticked d).core d.core = { s.core d.core with
      watchdog := if d.arms = false then (s.core d.core).watchdog else if s.cfg 0x2330 2 = 0 then none else some (s.time.up, s.cfg 0x2330 2) } ∧
    (∀ n, (s.ticked d).trip n = ((s.arrived d).settled d).trip n) := by
  have h := onlyLines_told s d
  have htrip (n : Nat) := State.trip_lateTold ((s.arrived d).settled d) d n
  have hcore (c : Nat) : (((s.arrived d).settled d).lateTold d).core c = s.core c := by
    unfold State.core
    rw [h.cores]
    rfl
  have hcfg : (((s.arrived d).settled d).lateTold d).cfg 0x2330 2 = s.cfg 0x2330 2 := h.cfg ..
  have htime : (((s.arrived d).settled d).lateTold d).time = s.time := h.time
  have hnet : (((s.arrived d).settled d).lateTold d).net.decisions = [] := h.decisions
  have hmem : (((s.arrived d).settled d).lateTold d).mem = s.mem := h.mem
  unfold State.ticked State.rearmed
  generalize ((s.arrived d).settled d).lateTold d = u at *
  cases d.arms
  · exact ⟨hnet, hmem, fun c _ => hcore c, hcore _, htrip⟩
  · refine ⟨hnet, hmem, fun c hc => ?_, ?_, htrip⟩
    · rw [if_pos rfl]
      exact (State.core_modCore_ne u _ hc).trans (hcore c)
    · rw [if_pos rfl]
      refine (State.core_modCore_same u _ _).trans ?_
      rw [hcore, hcfg, htime]
      rfl

theorem State.count_ticked (late : Bool) (h : s.isLate d = late) :
    (s.ticked d).count 0x2330 1 = if late then (s.bump 0x2330 1).count 0x2330 1 else s.count 0x2330 1 := by
  have hr (u : State) : (u.rearmed d).count 0x2330 1 = u.count 0x2330 1 := by
    unfold State.rearmed
    split <;> rfl
  have hs := onlyLines_settled (s.arrived d) d
  have hc : ((s.arrived d).settled d).count 0x2330 1 = s.count 0x2330 1 := State.count_settled (s.arrived d) d
  unfold State.ticked
  rw [hr]
  unfold State.lateTold
  rw [State.isLate_settled, h]
  generalize (s.arrived d).settled d = u at *
  cases late
  · exact hc
  · exact State.count_bump_of_count (t := u.record (coreSource d.core) 0x0021 _) hs.part (congrArg Sets.active hs.sets) hc

theorem State.inbox_ticked {t : Nat} (hdl : d.deadline = some t) (h : t < s.time.gtc) : ∃ l, (s.ticked d).ash.inbox =
    l ++ [⟨⟨s.time.gtc, coreSource d.core, 0x0021, [2 * d.trip, min (s.time.gtc - t) 0xFFFFFFFF], false, false, false, false, 0, 0⟩, none⟩] := by
  have hr (u : State) : (u.rearmed d).ash.inbox = u.ash.inbox := by
    unfold State.rearmed
    split <;> rfl
  have hlate : s.isLate d = true := by simp [State.isLate, hdl, h]
  have hs : ((s.arrived d).settled d).time = s.time := (onlyLines_settled (s.arrived d) d).time
  unfold State.ticked
  rw [hr]
  unfold State.lateTold
  rw [State.isLate_settled, hlate, if_pos rfl, hdl, hs]
  generalize (s.arrived d).settled d = u at *
  refine ⟨u.ash.inbox, ?_⟩
  rw [← hs]
  rfl

end

/-! ## PFAIL_N (R237, R248, R327) -/

section
variable (s : State)

/-- PFAIL_N is low: counted and recorded. -/
def State.pfailNoticed (s : State) : State :=
  (({ s with meas := { s.meas with pfail := true } } : State).bump 0x2470 0x0C).record 0x0010 0x002B []

/-- What it does to one DAC channel. -/
def State.pfailDac (s : State) (ch : Nat) : State := if s.cfg (dacIdx ch) 0x0F = 1 then s.causeDac ch 3 3 else s

/-- What it leaves to be written, and the checkpoint. -/
def State.pfailEnds (s : State) : State :=
  let s := s.persistCounters.persistTe
  if s.ash.clearing then { s with ash := { s.ash with pfailWaits := true } } else s.checkpointStart

theorem State.pfail_eq (h : s.meas.pfail = false) : s.pfail = ((List.range 16).foldl State.pfailDac s.pfailNoticed).pfailEnds := by
  unfold State.pfail
  rw [if_neg (by simp [h])]
  unfold State.pfailEnds State.pfailDac State.causeDac State.pfailNoticed
  dsimp only

/-- What PFAIL_N leaves alone of a state while it takes the channels. -/
structure PfailSince (z s : State) : Prop where
  quiet : z.QuietSince s
  sets : s.sets = z.sets
  part : s.part = z.part
  pfail : s.meas.pfail = true
  clearing : s.ash.clearing = z.ash.clearing

theorem PfailSince.cfg {z s : State} (h : PfailSince z s) (i n : Nat) : s.cfg i n = z.cfg i n := by
  unfold State.cfg State.dflt State.row
  rw [h.sets, h.part]

theorem PfailSince.pfailDac {z s : State} (h : PfailSince z s) (ch : Nat) : PfailSince z (s.pfailDac ch) := by
  unfold State.pfailDac
  split
  · obtain ⟨-, -, h3, h4, h5, h6⟩ := State.causeDac_frame h.quiet.1 ch 3 3
    exact ⟨h.quiet.causeDac ch 3 3, h3.trans h.sets, h4.trans h.part, h5.trans h.pfail, h6.trans h.clearing⟩
  · exact h

theorem PfailSince.faulted {z s : State} (h : PfailSince z s) {ch : Nat} (c : Nat) (hp : s.FaultedBy ch 3) : (s.pfailDac c).FaultedBy ch 3 := by
  unfold State.pfailDac
  split
  · exact State.causeDac_keeps h.quiet.1 c 3 hp
  · exact hp

theorem State.pfailDacs_leave (h : s.NoEmits) : PfailSince s ((List.range 16).foldl State.pfailDac s.pfailNoticed) ∧
    ∀ ch, ch < 16 → s.cfg (dacIdx ch) 0x0F = 1 → ((List.range 16).foldl State.pfailDac s.pfailNoticed).FaultedBy ch 3 := by
  have h0 : PfailSince s s.pfailNoticed := ⟨⟨h, rfl, rfl⟩, rfl, rfl, rfl, rfl⟩
  refine ⟨foldl_keeps (fun u c hu => hu.pfailDac c) (List.range 16) _ h0, fun ch hch hc => ?_⟩
  refine foldl_reaches (ch := ch) (fun u c hu => hu.pfailDac c) (fun u c hu hp => hu.faulted c hp) (fun u hu => ?_)
    (List.mem_range.mpr hch) _ h0
  unfold State.pfailDac
  rw [if_pos ((hu.cfg _ _).trans hc)]
  exact State.causeDac_same hu.quiet.1 ch 3 3

theorem State.checkpointStart_leaves : s.checkpointStart.ash.checkpoint = true ∧ s.checkpointStart.meas = s.meas ∧
    s.checkpointStart.cores = s.cores ∧ s.checkpointStart.outs = s.outs := by
  unfold State.checkpointStart
  split
  · next h => exact ⟨h, rfl, rfl, rfl⟩
  · next h =>
    obtain ⟨hold, gap, hr⟩ := State.checkpointRecord_areas (s := s) 0 (by simpa using h)
    exact ⟨rfl, hr.meas, hr.cores, (congrArg State.outs hr.eq :)⟩

theorem State.pfailEnds_leaves : s.pfailEnds.meas = s.meas ∧ s.pfailEnds.cores = s.cores ∧ s.pfailEnds.outs = s.outs ∧
    (s.ash.clearing = true → s.pfailEnds.ash.pfailWaits = true) ∧ (s.ash.clearing = false → s.pfailEnds.ash.checkpoint = true) := by
  unfold State.pfailEnds
  dsimp only
  rw [show s.persistCounters.persistTe.ash.clearing = s.ash.clearing from rfl]
  obtain ⟨h1, h2, h3, h4⟩ := State.checkpointStart_leaves s.persistCounters.persistTe
  cases s.ash.clearing
  · exact ⟨h2, h3, h4, fun h => absurd h Bool.false_ne_true, fun _ => h1⟩
  · exact ⟨rfl, rfl, rfl, fun _ => rfl, fun h => absurd h.symm Bool.false_ne_true⟩

theorem State.pfail_leaves (hp : s.meas.pfail = false) (h : s.NoEmits) : s.pfail.meas.pfail = true ∧ s.pfail.cores = s.cores ∧
    (s.ash.clearing = true → s.pfail.ash.pfailWaits = true) ∧ (s.ash.clearing = false → s.pfail.ash.checkpoint = true) ∧
    ∀ ch, ch < 16 → s.cfg (dacIdx ch) 0x0F = 1 → s.pfail.FaultedBy ch 3 := by
  obtain ⟨hs, hf⟩ := State.pfailDacs_leave s h
  rw [State.pfail_eq s hp]
  generalize (List.range 16).foldl State.pfailDac s.pfailNoticed = u at hs hf ⊢
  obtain ⟨h1, h2, h3, h4, h5⟩ := State.pfailEnds_leaves u
  rw [hs.clearing] at h4 h5
  refine ⟨(congrArg Meas.pfail h1).trans hs.pfail, h2.trans hs.quiet.2.2, h4, h5, fun ch hch hc => ?_⟩
  unfold State.FaultedBy State.dac
  rw [h3]
  exact hf ch hch hc

/-- PFAIL_N is high again. -/
def State.withPfail (s : State) : State := { s with meas := { s.meas with pfail := false }, ash := { s.ash with checkpointed := false } }

theorem State.pfailEnd_eq : s.pfailEnd =
    ((List.range 16).foldl (fun s ch => s.modDac ch (fun d => { d with causes := setBit d.causes 3 false })) s).withPfail := by
  unfold State.pfailEnd State.withPfail
  dsimp only

theorem State.dac_withPfail (k : Nat) : s.withPfail.dac k = s.dac k := rfl

theorem State.pfailEnd_leaves : s.pfailEnd.meas.pfail = false ∧ s.pfailEnd.ash.checkpointed = false ∧
    (∀ ch, ch < 16 → bit (s.pfailEnd.dac ch).causes 3 = false ∧ (s.pfailEnd.dac ch).fault = (s.dac ch).fault) ∧
    s.pfailEnd.cores = s.cores ∧ s.pfailEnd.mem = s.mem := by
  have hd (ch : Nat) := State.dac_foldl_modDac (fun d => { d with causes := setBit d.causes 3 false }) List.nodup_range s ch (l := List.range 16)
  have he := State.foldl_modDac_frame (fun d => { d with causes := setBit d.causes 3 false }) (List.range 16) s
  rw [State.pfailEnd_eq]
  generalize (List.range 16).foldl (fun s ch => s.modDac ch (fun d => { d with causes := setBit d.causes 3 false })) s = u at *
  refine ⟨rfl, rfl, fun ch hch => ?_, (congrArg State.cores he :), (congrArg State.mem he :)⟩
  rw [State.dac_withPfail, hd ch, if_pos (List.mem_range.mpr hch)]
  exact ⟨bit_setBit_same .., rfl⟩

end

/-! ## Ticks with nothing that arrives -/

section
variable {s : State} {d : Decision}

theorem State.tripTick_of {r : State} (h : s.decisionsIn = ([], r)) : s.tripTick = (List.range 32).foldl (fun s n => s.updateTrip n) r := by
  unfold State.tripTick
  rw [h]
  simp only [State.settleTrip_none, List.foldl_nil]

theorem State.decisionsIn_nil (hd : s.net.decisions = []) : s.decisionsIn = ([], s) := by
  have hs : ({ s with net := { s.net with decisions := [] } } : State) = s := by rw [← hd]
  unfold State.decisionsIn
  rw [hd, hs]
  rfl

theorem State.decisionsIn_stalled (hd : s.net.decisions = [d]) (h : s.pathStalls (dieOf d.core) 4 = true) : s.decisionsIn = ([], s) := by
  have hs : ({ s with net := { s.net with decisions := [d] } } : State) = s := by rw [← hd]
  have hw (u : Bool) : State.way { s with net := { s.net with decisions := [] } } (dieOf d.core) 4 1 u =
      (.stalls, { s with net := { s.net with decisions := [] } }) := if_pos h
  unfold State.decisionsIn
  rw [hd, List.foldl_cons, List.foldl_nil]
  unfold decisionWay
  rw [hw]
  exact congrArg (Prod.mk []) hs

theorem State.decisionsIn_shut {x : Nat} (hd : s.net.decisions = [d]) (h : s.pathStalls (dieOf d.core) 4 = false)
    (hx : s.pathShut (dieOf d.core) 4 = some x) : s.decisionsIn =
    ([], (({ s with net := { s.net with decisions := [] } } : State).dieDrop x).decisionGone d 4) := by
  have hw (u : Bool) : State.way { s with net := { s.net with decisions := [] } } (dieOf d.core) 4 1 u =
      (.shut x, { s with net := { s.net with decisions := [] } }) := by
    unfold State.way
    rw [show State.pathStalls { s with net := { s.net with decisions := [] } } (dieOf d.core) 4 = false from h,
      show State.pathShut { s with net := { s.net with decisions := [] } } (dieOf d.core) 4 = some x from hx]
    rfl
  unfold State.decisionsIn
  rw [hd, List.foldl_cons, List.foldl_nil]
  unfold decisionWay
  rw [hw]

theorem State.source_of_tripSource (h : s.backstopEvent n = none) (he : (s.trip n).emit = false) : s.source n = false := by
  simp [State.source, h, he]

end

/-- Settles O42: a tick by the way of its one decision; judgement of an output by its source; FAULT_CAUSE and PFAIL_N by what they leave. -/
theorem tripsAndFaultLines : Obligations.TripsAndFaultLines := by
  intro s ses n v hn
  refine ⟨fun hd => congrArg Host.Outcome.next (State.tripTick_of (State.decisionsIn_nil hd)),
    fun d hd h => congrArg Host.Outcome.next (State.tripTick_of (State.decisionsIn_stalled hd h)),
    fun d x hd h hx => congrArg Host.Outcome.next (State.tripTick_of (State.decisionsIn_shut hd h hx)), ?_, ?_, ?_, fun h1 hd hm => ⟨?_, ?_, ?_, ?_⟩,
    rfl, ?_, ?_, fun hsv hm hsrc => congrArg Host.Outcome.next ?_, fun hsv hm hsrc => congrArg Host.Outcome.next (State.hostWrite_tripCmd_refused hsv hn hm hsrc),
    fun hsv hm => congrArg Host.Outcome.next ?_, fun hsv hv => ?_, fun h => congrArg Host.Outcome.next (if_pos h), rfl,
    fun hp hne => ?_, ⟨s.pfailEnd, rfl, State.pfailEnd_leaves s⟩⟩
  · rintro d hd ⟨hw1, hw2, hw3⟩ rfl hg h1 hdr hm hv hh ha hdl -
    obtain ⟨hnet, hmem, hne, hcore, htrip⟩ := State.ticked_leaves s d
    have hl : s.isLate d = false := by simp [State.isLate, hdl]
    have ht := State.tripTick_clear s d hd hw1 hw2 hw3
    rw [hl] at ht
    obtain ⟨hon, hcause⟩ := State.asserted_settled (s.arrived d) d hn hg hv h1 hdr hm hh
    have hemit := State.emit_settled (s.arrived d) d hn
    rw [show (s.arrived d).granted d = true from hg, if_pos rfl] at hemit
    refine ⟨s.ticked d, congrArg Host.Outcome.next ht, hnet, ?_, ?_, fun he => ?_, hmem, hne, hcore⟩
    · rw [htrip]; exact hon
    · rw [htrip]; exact hemit.trans hv
    · rw [htrip]; exact hcause ha he
  · rintro d hd ⟨hw1, hw2, hw3⟩ rfl hg hdl
    obtain ⟨hnet, hmem, hne, hcore, htrip⟩ := State.ticked_leaves s d
    have hl : s.isLate d = false := by simp [State.isLate, hdl]
    have ht := State.tripTick_clear s d hd hw1 hw2 hw3
    rw [hl] at ht
    have hemit := State.emit_settled (s.arrived d) d hn
    rw [show (s.arrived d).granted d = false from hg] at hemit
    exact ⟨s.ticked d, congrArg Host.Outcome.next ht, hnet, by rw [htrip]; exact hemit, hmem, hne, hcore⟩
  · rintro d at_ hd ⟨hw1, hw2, hw3⟩ rfl hdl
    obtain ⟨hnet, hmem, hne, hcore, htrip⟩ := State.ticked_leaves s d
    have hl : s.isLate d = decide (at_ < s.time.gtc) := by simp [State.isLate, hdl]
    have ht := State.tripTick_clear s d hd hw1 hw2 hw3
    have hc := State.count_ticked s d _ hl
    have hemit := State.emit_settled (s.arrived d) d hn
    refine ⟨s.ticked d, congrArg Host.Outcome.next (ht.trans ?_), hnet, by rw [htrip]; exact hemit, ⟨hmem, hne, hcore⟩,
      fun hg hv h1 hdr hm hh => ?_, fun hlt => ⟨?_, State.inbox_ticked s d hdl hlt⟩, fun hle => ?_⟩
    · rw [hl]
      simp only [decide_eq_true_eq]
      rfl
    · rw [htrip]
      exact (State.asserted_settled (s.arrived d) d hn hg hv h1 hdr hm hh).1
    · rw [hc, if_pos (by simpa using hlt)]
    · rw [hc, if_neg (by simpa using hle)]
  · intro e he ha
    rw [State.updateTrip_mirror_event h1 hd hm he ha, State.trip_assertTrip_same, State.trip_told, he]
    exact ⟨rfl, rfl, rfl, State.count_told_assert ..⟩
  · intro he hst ha
    rw [State.updateTrip_mirror_active h1 hd hm he hst ha, State.trip_assertTrip_same]
    exact ⟨rfl, rfl, State.count_told_assert ..⟩
  · exact fun he h1' h3 hc => State.released_updateTrip_mirror h1 hd hm he h1' h3 hc
  · exact fun he ha hc hmode => State.latched_updateTrip_mirror h1 hd hm he ha hc hmode
  · intro h1 hd hm he hem ha hmode ht
    exact ⟨s.updateTrip n, rfl, State.dropped_updateTrip h1 hd hm (State.source_of_tripSource he hem) ha (by simp [State.minOnPast, hmode, ht])⟩
  · intro h1 hd hm ha h
    refine ⟨s.updateTrip n, rfl, State.stays_updateTrip h1 hd hm ha ?_⟩
    rcases h with h | ⟨h, hh⟩ | h | h
    · exact .inl (by simp [State.source, Option.isSome_iff_ne_none, h])
    · exact .inl (by simp [State.source, h, hh])
    · exact .inr (by simp [State.minOnPast, h])
    · exact .inr (by simp [State.minOnPast, h])
  · rw [State.hostWrite_tripCmd hsv hn (.inr hsrc)]
    exact congrArg (State.giveReply · ses ⟨0, []⟩) (if_pos ⟨hm, by simp [hsrc]⟩)
  · rw [State.hostWrite_tripCmd hsv hn (.inl hm)]
    exact congrArg (State.giveReply · ses ⟨0, []⟩) (if_neg (by simp [hm]))
  · have h := onlyLines_clearCauses s v
    refine ⟨_, congrArg Host.Outcome.next (State.hostWrite_faultCause hsv hv), fun b hb => State.bit_clearCauses s v hb, h.cores, h.mem⟩
  · obtain ⟨h1, h2, h3, h4, h5⟩ := State.pfail_leaves s hp hne
    exact ⟨s.pfail, rfl, h1, h2, h3, h4, h5⟩

end Sys2Proof.Machine
end

section
/-! SUPPORT. Read slots and row commits (R52-R56, R101-R103); with them the settlement of O14. -/

namespace Sys2Proof.Machine

@[simp] theorem Tab.find_set_ne {α : Type} (t : Tab α) {k x : Nat} (v : α) (h : x ≠ k) : Tab.find (Tab.set t k v) x = Tab.find t x := by
  induction t with
  | nil => simp [Tab.set, Tab.find, h.symm]
  | cons e t ih =>
    obtain ⟨a, b⟩ := e
    unfold Tab.set
    split
    · simp [Tab.find, h.symm]
    · split
      · next ha => subst ha; simp [Tab.find, h.symm]
      · simp [Tab.find, ih]

/-! ## Ops in flight -/

theorem State.ops_modOp (s : State) (c q : Nat) (f : Op → Op) :
    ((s.modOp c q f).core c).seq.ops = (s.core c).seq.ops.map (fun o => if o.seq = q then f o else o) := by
  unfold State.modOp
  rw [State.core_modSeq_same]

/-- A change of the op that keeps its number is seen when the op is looked up. -/
theorem State.op_modOp (s : State) (c q : Nat) {f : Op → Op} (hf : ∀ o, (f o).seq = o.seq) : (s.modOp c q f).op c q = (s.op c q).map f := by
  unfold State.op
  rw [State.ops_modOp]
  induction (s.core c).seq.ops with
  | nil => rfl
  | cons o l ih =>
    by_cases h : o.seq = q
    · simp [h, hf]
    · have h' : ((if o.seq = q then f o else o).seq == q) = false := by simp [h]
      rw [List.map_cons, List.find?_cons_of_neg (by simp [h]), List.find?_cons_of_neg (by simp [h])]
      exact ih

theorem State.op_of_mem {s : State} {c : Nat} {o : Op} (h : o ∈ (s.core c).seq.ops) : ∃ x, s.op c o.seq = some x := by
  refine Option.isSome_iff_exists.mp ?_
  unfold State.op
  rw [List.find?_isSome]
  exact ⟨o, h, beq_self_eq_true o.seq⟩

/-! ## Engines -/

theorem State.eng_setEng_regs (s : State) (c e : Nat) (g : Engine) : ((s.setEng c e g).eng c e).regs = g.regs := by
  rw [State.eng_setEng_same, Engine.since_frame]

theorem State.find_setEng_ne (s : State) {c e k : Nat} (g : Engine) (h : k ≠ engKey c e) : Tab.find (s.setEng c e g).engines k = Tab.find s.engines k :=
  Tab.find_set_ne s.engines _ h

/-- A commit of an engine's registers leaves its read counter, and every other engine. -/
theorem State.commitIdle_leaves (s : State) (c e : Nat) : ((s.commitIdle c e).eng c e).regs.readCnt = (s.eng c e).regs.readCnt ∧
    (∀ k, k ≠ engKey c e → Tab.find (s.commitIdle c e).engines k = Tab.find s.engines k) ∧
    s.commitIdle c e = { s with engines := (s.commitIdle c e).engines, keep := (s.commitIdle c e).keep } := by
  unfold State.commitIdle
  dsimp only
  split
  · unfold State.commitEng
    dsimp only
    refine ⟨?_, fun k hk => ?_, ?_⟩
    · rw [State.eng_setEng_regs]; rfl
    · rw [State.find_setEng_ne _ _ hk]
      split <;> rfl
    · split <;> rfl
  · exact ⟨rfl, fun _ _ => rfl, rfl⟩

/-! ## One read slot (R44-R51, R74-R78) -/

/-- What a read leaves on its engine. -/
def Engine.afterRead (g : Engine) (now : Nat) (rg : ReadGroup) (rest : List ReadGroup) (x : ReadResult) : Engine :=
  ({ g with regs := { g.regs with
      readCnt := (g.regs.readCnt + x.made) % 2 ^ 64
      splitCnt := min 0xFFFFFFFF (g.regs.splitCnt + boolNat (rg.opens && rest.any (fun r => r.slice == rg.slice))) } } : Engine).note now 0 x.failed x.made

section
variable (s : State) (c e q : Nat) (m : MvmOp) (rg : ReadGroup) (rest : List ReadGroup) (x : ReadResult)

/-- The reads of one slot, made and counted. -/
def State.readCounted (s : State) (c e : Nat) (rg : ReadGroup) (rest : List ReadGroup) (x : ReadResult) : State :=
  let s := (s.setEng c e ((s.eng c e).afterRead s.time.up rg rest x)).drawN (136 * x.made)
  if x.failed = 0 then s else s.bumpBy 0x2801 5 x.failed

/-- The MVM keeps what is left to read. -/
def State.readMade (s : State) (c e q : Nat) (m : MvmOp) (rg : ReadGroup) (rest : List ReadGroup) (x : ReadResult) : State :=
  (s.readCounted c e rg rest x).modOp c q (fun y => { y with body := .mvm (m.afterRead rg rest x) })

theorem State.readCounted_leaves : let t := s.readCounted c e rg rest x
    t.eng c e = ((s.eng c e).afterRead s.time.up rg rest x).since (s.eng c e) ∧ t.draws = s.draws + 136 * x.made ∧ t.cores = s.cores ∧
      (∀ k, k ≠ engKey c e → Tab.find t.engines k = Tab.find s.engines k) ∧ t.mem = s.mem ∧ t.net = s.net ∧ (x.failed = 0 → t.counters = s.counters) := by
  have he := State.eng_setEng_same s c e ((s.eng c e).afterRead s.time.up rg rest x)
  have hk (k : Nat) (hk : k ≠ engKey c e) := State.find_setEng_ne s ((s.eng c e).afterRead s.time.up rg rest x) hk
  unfold State.readCounted
  dsimp only
  generalize (s.eng c e).afterRead s.time.up rg rest x = g at *
  split
  · exact ⟨he, rfl, rfl, hk, rfl, rfl, fun _ => rfl⟩
  · next h => exact ⟨he, rfl, rfl, hk, rfl, rfl, fun h' => absurd h' h⟩

theorem State.readSlot_eq {o : Op} (hfind : (s.core c).seq.ops.find? (fun o => o.busyOn e) = some o) (hbody : o.body = .mvm m)
    (htodo : m.todo = rg :: rest) (hramp : s.atbRamps c = false) (hcommit : (rg.opens && (s.eng c e).regs.corrCommit) = false) :
    s.readSlot c e =
      let u := s.readMade c e o.seq m rg rest (readWithCheck (s.eng c e) (s.cond c e) m rg s.draws)
      if rest.isEmpty then (u.mvmFinish c o.seq).commitIdle c e else u := by
  unfold State.readSlot
  simp only [hfind, hramp, hbody, htodo, hcommit, Bool.false_eq_true, if_false]
  rfl

/-- The row an MVM comes to after its last read. -/
theorem State.mvmFinish_eq {o : Op} (h : s.op c q = some o) (hbody : o.body = .mvm m) : s.mvmFinish c q =
    s.modOp c q (fun y => { y with body := .mvm (m.finish (s.eng c m.eng) (isSentinel c)),
                                   rows := mvmRows (m.finish (s.eng c m.eng) (isSentinel c)) (s.eng c m.eng).wfmt }) := by
  unfold State.mvmFinish
  rw [h]
  dsimp only
  rw [hbody]

/-- What the last slot's marks read of the engine is as before the reads. -/
theorem MvmOp.finish_afterRead (g : Engine) (now : Nat) (b : Bool) :
    m.finish ((g.afterRead now rg rest x).since g) b = m.finish g b := by
  unfold MvmOp.finish Engine.lowconfCause
  rw [Engine.since_frame]
  rfl

theorem Engine.wfmt_afterRead (g : Engine) (now : Nat) : ((g.afterRead now rg rest x).since g).wfmt = g.wfmt := by
  rw [Engine.since_frame]
  rfl

end

theorem Op.eng_of_busyOn {o : Op} {m : MvmOp} {e : Nat} (h : o.busyOn e = true) (hbody : o.body = .mvm m) : m.eng = e := by
  unfold Op.busyOn at h
  rw [hbody] at h
  simp only [Bool.and_eq_true, beq_iff_eq] at h
  exact h.1

/-- The last slot of an MVM leaves it with its row. -/
theorem State.ops_mvmFinish_readMade (s : State) {c e : Nat} {o : Op} {m : MvmOp} (rg : ReadGroup) (x : ReadResult) (hmem : o ∈ (s.core c).seq.ops)
    (heng : m.eng = e) : let fin := (m.afterRead rg [] x).finish (s.eng c e) (isSentinel c)
    let t := (s.readMade c e o.seq m rg [] x).mvmFinish c o.seq
    (t.core c).seq.ops = (s.core c).seq.ops.map (fun y =>
      if y.seq = o.seq then { y with body := .mvm fin, rows := mvmRows fin (s.eng c e).wfmt } else y) ∧
      t = { s.readMade c e o.seq m rg [] x with cores := t.cores } := by
  obtain ⟨hg, -, hcores, -, -, -, -⟩ := State.readCounted_leaves s c e rg [] x
  have hops : ((s.readCounted c e rg [] x).core c).seq.ops = (s.core c).seq.ops := by unfold State.core; rw [hcores]
  obtain ⟨y, hy⟩ := State.op_of_mem (s := s.readCounted c e rg [] x) (o := o) (hops ▸ hmem)
  have hop := State.op_modOp (s.readCounted c e rg [] x) c o.seq (f := fun y => { y with body := .mvm (m.afterRead rg [] x) }) (fun _ => rfl)
  rw [hy] at hop
  have heng' : (m.afterRead rg [] x).eng = e := heng
  have hge : (s.readMade c e o.seq m rg [] x).eng c e = ((s.eng c e).afterRead s.time.up rg [] x).since (s.eng c e) := hg
  intro fin t
  have ht : t = _ := State.mvmFinish_eq (s.readMade c e o.seq m rg [] x) c o.seq (m.afterRead rg [] x) hop rfl
  rw [heng', hge, MvmOp.finish_afterRead, Engine.wfmt_afterRead] at ht
  refine ⟨?_, by rw [ht]; rfl⟩
  rw [ht, State.ops_modOp]
  unfold State.readMade
  rw [State.ops_modOp, hops, List.map_map]
  refine List.map_congr_left fun y _ => ?_
  by_cases h : y.seq = o.seq <;> simp [h, fin]

/-! ## One row commits (R101-R103) -/

section
variable (s : State) (c q : Nat) (w : RowWrite)

theorem State.commitRow_frame : (s.commitRow c w).engines = s.engines ∧ (s.commitRow c w).net = s.net ∧ (s.commitRow c w).outs = s.outs := by
  unfold State.commitRow
  split <;> exact ⟨rfl, rfl, rfl⟩

/-- A row of a DMM saturates. -/
def State.dmmSaturates (s : State) (c : Nat) (o : Op) (w : RowWrite) : Bool :=
  match o.body with
  | .dmm _ => s.rowSaturates c w
  | _ => false

/-- The op and its core after the row, but for what goes on then. -/
def State.rowCommitted (s : State) (c q : Nat) (o : Op) (w : RowWrite) : State :=
  let rest := o.rows.erase w
  let bad := w.acc && s.poisoned (accAddr c w.tile w.row 0) 512
  let last := !rest.any (fun r => r.tile == w.tile)
  let u := (s.commitRow c w).modOp c q (fun y => { y with
    rows := rest
    sat := y.sat || s.dmmSaturates c o w
    status := if bad then 4 else y.status
    pend := if last then y.pend.erase w.tile else y.pend })
  if last then u.modCore c (fun k => k.dropPend [w.tile]) else u

theorem State.rowCommitted_leaves (o : Op) : let u := s.rowCommitted c q o w
    u.mem = (s.commitRow c w).mem ∧ (u.core c).tags = ((s.commitRow c w).core c).tags ∧ u.engines = s.engines ∧ u.net = s.net ∧ u.outs = s.outs := by
  have h := s.commitRow_frame c w
  have htags (v : State) (f : Seq → Seq) : ((v.modSeq c f).core c).tags = (v.core c).tags := by rw [State.core_modSeq_same]
  have hdrop (v : State) : ((v.modCore c (fun k => k.dropPend [w.tile])).core c).tags = (v.core c).tags := by rw [State.core_modCore_same]; rfl
  unfold State.rowCommitted State.modOp
  dsimp only
  generalize s.commitRow c w = v at *
  split
  · exact ⟨rfl, (hdrop _).trans (htags ..), h⟩
  · exact ⟨rfl, htags .., h⟩

theorem State.tileCommit_eq {o : Op} (hop : s.op c q = some o) (hformed : o.formed = true) (hrows : o.rows ≠ [])
    (hw : o.rows.find? (fun w => (s.core c).mayCommit q w.tile w.row) = some w) :
    s.tileCommit c q = if o.rows.erase w = [] then (s.rowCommitted c q o w).rowsDone c q else (s.rowCommitted c q o w).settle c := by
  have hne : o.rows.isEmpty = false := by simpa using hrows
  unfold State.tileCommit
  simp only [hop, hformed, hne, hw, Bool.not_true, Bool.false_eq_true, if_false, List.isEmpty_iff]
  rfl

theorem State.tileCommit_waits {o : Op} (hop : s.op c q = some o) (hformed : o.formed = true) (hrows : o.rows ≠ [])
    (hw : ∀ w, w ∈ o.rows → (s.core c).mayCommit q w.tile w.row = false) : s.tileCommit c q = s := by
  have hne : o.rows.isEmpty = false := by simpa using hrows
  have hnone : o.rows.find? (fun w => (s.core c).mayCommit q w.tile w.row) = none := by
    rw [List.find?_eq_none]
    exact fun w hmem => by rw [hw w hmem]; exact Bool.false_ne_true
  unfold State.tileCommit
  simp only [hop, hformed, hne, hnone, Bool.not_true, Bool.false_eq_true, if_false]

end

/-- Settles O14: a read slot by what the reads leave and what is left to read; a row's commit by what follows it. -/
theorem readsAndRowCommits : Obligations.ReadsAndRowCommits := by
  refine ⟨fun s c e o m rg rest hfind hbody htodo hramp hcommit => ?_, fun s c q o hop hformed hrows =>
    ⟨fun hw => congrArg Host.Outcome.next (State.tileCommit_waits s c q hop hformed hrows hw),
      fun w hw => ⟨_, congrArg Host.Outcome.next (State.tileCommit_eq s c q w hop hformed hrows hw), State.rowCommitted_leaves s c q w o⟩⟩⟩
  intro x
  obtain ⟨hg, hdraws, hcores, hother, hmem, hnet, hcount⟩ := State.readCounted_leaves s c e rg rest x
  have hregs : ((s.readCounted c e rg rest x).eng c e).regs.readCnt = ((s.eng c e).regs.readCnt + x.made) % 2 ^ 64 := by
    rw [hg, Engine.since_frame]
    rfl
  by_cases hrest : rest = []
  · subst hrest
    have heq : s.readSlot c e = ((s.readMade c e o.seq m rg [] x).mvmFinish c o.seq).commitIdle c e :=
      State.readSlot_eq s c e m rg [] hfind hbody htodo hramp hcommit
    obtain ⟨hops, hframe⟩ := State.ops_mvmFinish_readMade s rg x (List.mem_of_find?_eq_some hfind)
      (Op.eng_of_busyOn (List.find?_some hfind :) hbody)
    have hframe' : (s.readMade c e o.seq m rg [] x).mvmFinish c o.seq =
      { s.readCounted c e rg [] x with cores := ((s.readMade c e o.seq m rg [] x).mvmFinish c o.seq).cores } := hframe
    generalize (s.readMade c e o.seq m rg [] x).mvmFinish c o.seq = v at *
    obtain ⟨h1, h2, h3⟩ := State.commitIdle_leaves v c e
    generalize v.commitIdle c e = t at *
    have hveng : v.engines = (s.readCounted c e rg [] x).engines := (congrArg State.engines hframe' :)
    refine ⟨t, congrArg Host.Outcome.next heq, ?_, ?_, fun h => absurd rfl h, fun _ => ?_, fun k hk => ?_, ?_, ?_, fun hf => ?_⟩
    · rw [h1, ← hregs]
      unfold State.eng
      rw [hveng]
    · exact ((congrArg State.draws h3).trans (congrArg State.draws hframe' :)).trans hdraws
    · exact ((congrArg (fun u : State => (u.core c).seq.ops) h3 :)).trans hops
    · rw [h2 k hk, hveng, hother k hk]
    · exact ((congrArg State.mem h3).trans (congrArg State.mem hframe' :)).trans hmem
    · exact ((congrArg State.net h3).trans (congrArg State.net hframe' :)).trans hnet
    · exact ((congrArg State.counters h3).trans (congrArg State.counters hframe' :)).trans (hcount hf)
  · have hread : s.readSlot c e = s.readMade c e o.seq m rg rest x := (State.readSlot_eq s c e m rg rest hfind hbody htodo hramp hcommit).trans (if_neg (by simpa using hrest))
    have hops : ((s.readMade c e o.seq m rg rest x).core c).seq.ops = (s.core c).seq.ops.map (fun y =>
        if y.seq = o.seq then { y with body := .mvm (m.afterRead rg rest x) } else y) := by
      unfold State.readMade
      rw [State.ops_modOp]
      unfold State.core
      rw [hcores]
    exact ⟨_, congrArg Host.Outcome.next hread, hregs, hdraws, fun _ => hops, fun h => absurd h hrest, hother, hmem, hnet, hcount⟩

end Sys2Proof.Machine
end

section
/-! SUPPORT. DRAIN and the dynamic-operand unit (R104, R114); with them the settlement of O15. -/

namespace Sys2Proof.Machine

section
variable {s : State} {c q : Nat} {o : Op}

/-! ## DRAIN -/

theorem State.drainStart_waits {d : DrainOp} (hop : s.op c q = some o) (hbody : o.body = .drain d) (hfree : (s.core c).tileFree q d.tile = false) :
    s.drainStart c q = s := by
  unfold State.drainStart
  rw [hop]
  dsimp only
  rw [hbody]
  exact if_pos (by simp [hfree])

theorem State.drainStart_forms {d : DrainOp} (hop : s.op c q = some o) (hbody : o.body = .drain d) (hst : d.started = false)
    (hfree : (s.core c).tileFree q d.tile = true) (hopen : (s.core c).rowsOpen q d.tile d.row0 d.n d.clear = true)
    (hread : (s.core c).mayRead q o.reads = true) : s.drainStart c q =
      let outs := (List.range d.outRows).flatMap (fun j => (List.range 128).map (fun l => s.drainOut c d j l))
      let bad := s.poisoned (accAddr c d.tile d.row0 0) (512 * d.n) || o.readBytes.any (fun r => s.abPoisoned c r.1 0 r.2)
      let z := s.modOp c q (fun o =>
        { o with body := .drain { d with started := true },
                 out := [(d.dest, (outs.map (fun x => toLE (fmtBytes d.ofmt) x.1)).flatten)],
                 sat := (List.range d.n).any (fun i => ((s.core c).tag d.tile (d.row0 + i)).accSat) || outs.any (·.2),
                 status := if bad then 4 else o.status })
      (if d.clear then (List.range d.n).foldl (fun s i => s.clearRow c d.tile (d.row0 + i)) z else z).settle c := by
  unfold State.drainStart
  rw [hop]
  dsimp only
  rw [hbody]
  exact if_neg (by simp [hst, hfree, hopen, hread])

/-- Results whose lines are free are written, and the op completes. -/
theorem State.writeOut_done (hop : s.op c q = some o) (hw : (s.core c).mayWrite q o.writes = true) :
    s.writeOut c q = (o.out.foldl (fun s x => s.abWrite c x.1 x.2) s).completeOp c o 0 := by
  unfold State.writeOut
  rw [hop]
  exact if_pos hw

theorem State.drainComplete_started {d : DrainOp} (hop : s.op c q = some o) (hbody : o.body = .drain d) :
    s.drainComplete c q = if d.started then s.writeOut c q else s := by
  unfold State.drainComplete
  rw [hop]
  dsimp only
  rw [hbody]

/-! ## The DOU takes its ops in order (R114) -/

section
variable (hhead : (s.core c).douHead = some o)
include hhead

/-- The status of the head once its operands have been read. -/
def State.readStatus (s : State) (c : Nat) (o : Op) : Nat := if o.readBytes.any (fun r => s.abPoisoned c r.1 0 r.2) then 4 else o.status

theorem State.douStart_dmm {d : DmmOp} (hbody : o.body = .dmm d) (hst : d.started = false) (hread : (s.core c).mayRead o.seq o.reads = true) :
    s.douStart c = (s.modOp c o.seq (fun y =>
      { y with body := .dmm { d with started := true }, rows := s.dmmRows c d, status := s.readStatus c o })).settle c := by
  unfold State.douStart
  simp only [hhead, hread, hbody, hst, Bool.not_true, Bool.false_eq_true, if_false]
  rfl

theorem State.douStart_vop {v : VopOp} (hbody : o.body = .vop v) (hst : v.started = false) (hread : (s.core c).mayRead o.seq o.reads = true) :
    s.douStart c = (s.modOp c o.seq (fun y =>
      { y with body := .vop { v with started := true },
               out := [(v.dLine, ((s.vopResult c v).map (fun x => toLE (fmtBytes v.dfmt) x.1)).flatten)],
               sat := (s.vopResult c v).any (·.2), status := s.readStatus c o })).settle c := by
  unfold State.douStart
  simp only [hhead, hread, hbody, hst, Bool.not_true, Bool.false_eq_true, if_false]
  rfl

theorem State.douComplete_dmm {d : DmmOp} (hbody : o.body = .dmm d) (hst : d.started = true) (hrows : o.rows ≠ []) :
    s.douComplete c = s.modOp c o.seq (fun y => { y with body := .dmm { d with finished := true } }) := by
  have hne : o.rows.isEmpty = false := by simpa using hrows
  unfold State.douComplete
  simp only [hhead, hbody, hst, hne, Bool.not_true, Bool.false_eq_true, if_false]

theorem State.douComplete_vop {v : VopOp} (hbody : o.body = .vop v) (hst : v.started = true) : s.douComplete c = s.writeOut c o.seq := by
  unfold State.douComplete
  simp only [hhead, hbody, hst, if_true]

end

end

/-- Settles O15: DRAIN and the DOU's head, each by its branch. -/
theorem drainAndDouComplete : Obligations.DrainAndDouComplete := by
  refine ⟨fun s c q o d hop hbody => ⟨fun hst hfree hopen hread => congrArg Host.Outcome.next (State.drainStart_forms hop hbody hst hfree hopen hread),
    fun _ hfree => congrArg Host.Outcome.next (State.drainStart_waits hop hbody hfree),
    fun hst hw => congrArg Host.Outcome.next ?_, fun hst => congrArg Host.Outcome.next ?_⟩,
    fun s c o hhead => ⟨fun d hbody hst hread => congrArg Host.Outcome.next (State.douStart_dmm hhead hbody hst hread),
      fun v hbody hst hread => congrArg Host.Outcome.next (State.douStart_vop hhead hbody hst hread),
      fun d hbody hst hrows => congrArg Host.Outcome.next (State.douComplete_dmm hhead hbody hst hrows),
      fun v hbody hst hop hw => congrArg Host.Outcome.next ?_⟩⟩
  · rw [State.drainComplete_started hop hbody, if_pos hst, State.writeOut_done hop hw]
  · rw [State.drainComplete_started hop hbody, if_neg (by simp [hst])]
  · rw [State.douComplete_vop hhead hbody hst, State.writeOut_done hop hw]

end Sys2Proof.Machine
end

section
/-! SUPPORT. LOAD, STORE and frames (R105, R108, R146, R303, R313); with them the settlement of O16. -/

namespace Sys2Proof.Machine

/-! ## The way between dies -/

section
variable {s : State} {a b n : Nat} {unmet : Bool}

theorem State.way_stalls (h : s.pathStalls a b = true) : s.way a b n unmet = (.stalls, s) := if_pos h

theorem State.way_shut {d : Nat} (h : s.pathStalls a b = false) (hd : s.pathShut a b = some d) : s.way a b n unmet = (.shut d, s) := by
  unfold State.way
  rw [if_neg (by simp [h]), hd]

theorem State.way_passed (h : s.pathStalls a b = false) (hd : s.pathShut a b = none) (hu : unmet = false) :
    s.way a b n unmet = (.passed, s.crossed a b n) := by
  subst hu
  unfold State.way
  rw [if_neg (by simp [h]), hd]
  rfl

theorem State.linesOver_met (s : State) (n : Nat) (data old : List Byte) : s.linesOver false n data old = (data, s) := rfl

end

/-! ## LOAD and STORE -/

section
variable {s : State} {c q n hub line tile row : Nat} {o : Op} (hop : s.op c q = some o)
include hop

theorem State.moveComplete_load (hbody : o.body = .load n hub line) (hw : (s.core c).mayWrite q [(line, n)] = true) : s.moveComplete c q =
    if s.pathStalls 4 (dieOf c) then s
    else if (s.pathShut 4 (dieOf c)).isSome then (s.abWrite c line ((List.range (64 * n)).map poisonByte)).completeOp c o 4
    else
      let bad := s.poisoned (hub * 64) (n * 64)
      let r := (s.crossed 4 (dieOf c) (1 + n)).linesOver (s.pathUnmet 4 (dieOf c)) n (s.bytes (hub * 64) (n * 64)) (s.abBytes c line 0 (n * 64))
      let u := (r.2.abWrite c line r.1).poisonLines o.hurt (fun s i => s.poisonLine c (line + i))
      (if bad then u.setCause 5 else u).completeOp c o (poisonStatus bad) := by
  unfold State.moveComplete
  rw [hop]
  dsimp only
  rw [hbody]
  dsimp only
  rw [hw]
  rfl

theorem State.moveComplete_store (hbody : o.body = .store n hub line) (hr : (s.core c).mayRead q o.reads = true) : s.moveComplete c q =
    if s.pathStalls (dieOf c) 4 then s
    else
      match s.pathShut (dieOf c) 4 with
      | some d => (s.dieDrop d).completeOp c o 4
      | none =>
        let bad := s.abPoisoned c line 0 (n * 64)
        let r := (s.crossed (dieOf c) 4 (1 + n)).linesOver (s.pathUnmet (dieOf c) 4) n (s.abBytes c line 0 (n * 64)) (s.bytes (hub * 64) (n * 64))
        ((r.2.poke (hub * 64) r.1).poisonLines o.hurt (fun s i => s.poisonAt ((hub + i) * 64))).completeOp c o (poisonStatus bad) := by
  unfold State.moveComplete
  rw [hop]
  dsimp only
  rw [hbody]
  dsimp only
  rw [hr]
  rfl

theorem State.moveComplete_storeRows (hbody : o.body = .storeRows n tile row line) (hw : (s.core c).rowsWritten q tile row n = true)
    (hopen : (s.core c).rowsOpen q tile row n false = true) (hmay : (s.core c).mayWrite q o.writes = true) : s.moveComplete c q =
    (s.abWrite c line (s.bytes (accAddr c tile row 0) (512 * n))).completeOp c o (poisonStatus (s.poisoned (accAddr c tile row 0) (512 * n))) := by
  unfold State.moveComplete
  rw [hop]
  dsimp only
  rw [hbody]
  dsimp only
  rw [hw, hopen, hmay]
  rfl

end

/-! ## Frames (R108, R240) -/

theorem State.writeFrame_done {s : State} {c w : Nat} {m : FrameMsg} (hslots : field ((s.core c).wins.getD w ⟨0, 0, 0⟩).word 13 13 ≠ 0)
    (hctx : (s.core c).ctx ≠ none) (he0 : m.epoch ≠ 0) (he : m.epoch = (s.core c).comm.epoch) (hhurt : m.hurt = [])
    (hx : (s.core c).comm.crossing = true) (hroom : (syncCount (s.sync (winArrived c ((s.core c).wins.getD w ⟨0, 0, 0⟩))) + 2 ^ 24 -
      syncCount (s.sync (winConsumed c ((s.core c).wins.getD w ⟨0, 0, 0⟩)))) % 2 ^ 24 < field ((s.core c).wins.getD w ⟨0, 0, 0⟩).word 13 13)
    (hlen : m.bytes.length ≤ 64 * field ((s.core c).wins.getD w ⟨0, 0, 0⟩).word 26 6) :
    s.writeFrame c w m =
      let f := (s.core c).wins.getD w ⟨0, 0, 0⟩
      ((s.abWrite c (field f.word 0 13 + f.next % field f.word 13 13 * field f.word 26 6) m.bytes).modCore c (fun k =>
        { k with wins := k.wins.set w { f with next := f.next + 1, stamp := m.stamp } })).applySync
      ⟨winArrived c f, false, 1, 0, false, false, 0, none, false⟩ := by
  have hctx' : (s.core c).ctx.isNone = false := Bool.eq_false_iff.mpr (by rwa [ne_eq, Option.isNone_iff_eq_none])
  have hepoch : ¬ (m.epoch = 0 ∨ m.epoch ≠ (s.core c).comm.epoch) := not_or.mpr ⟨he0, not_not.mpr he⟩
  have hfull := Nat.not_le.mpr hroom
  have htake := List.take_of_length_le hlen
  unfold State.writeFrame
  simp only [hctx', hx, hepoch, hslots, hfull, htake, hhurt, Nat.not_lt.mpr hlen, Bool.not_true, Bool.false_eq_true, if_false, decide_false,
    List.foldl_nil]

theorem State.frameArrives_passed {s : State} {c w : Nat} {m : FrameMsg} {rest : List FrameMsg} (ht : takeFrame c w s.net.frames = some (m, rest))
    (h1 : s.pathStalls 4 (dieOf c) = false) (h2 : s.pathShut 4 (dieOf c) = none) (h3 : s.pathUnmet 4 (dieOf c) = false) :
    s.frameArrives c w = ({ (s.crossed 4 (dieOf c) m.flits) with net := { s.net with frames := rest } } : State).writeFrame c w m := by
  unfold State.frameArrives
  rw [ht]
  dsimp only
  rw [State.way_passed h1 h2 h3]
  rfl

/-- Settles O16: moves by what the bridge on their way lets through; a frame by the slot it goes to. -/
theorem movesAndFramesComplete : Obligations.MovesAndFramesComplete := by
  refine ⟨fun s c q o hop => ⟨fun n hub line hbody hw => ⟨fun h => congrArg Host.Outcome.next ?_, fun h hd => congrArg Host.Outcome.next ?_,
      fun h hd hu => ⟨fun hp => congrArg Host.Outcome.next ?_, fun hp => congrArg Host.Outcome.next ?_⟩⟩,
    fun n hub line hbody hr => ⟨fun h => congrArg Host.Outcome.next ?_, fun x h hd => congrArg Host.Outcome.next ?_,
      fun h hd hu => congrArg Host.Outcome.next ?_⟩,
    fun n tile row line hbody hw hopen hmay => congrArg Host.Outcome.next (State.moveComplete_storeRows hop hbody hw hopen hmay)⟩,
    fun s c w m rest => ?_⟩
  · rw [State.moveComplete_load hop hbody hw, if_pos h]
  · rw [State.moveComplete_load hop hbody hw, if_neg (by simp [h]), if_pos (Option.isSome_iff_ne_none.mpr hd)]
  · rw [State.moveComplete_load hop hbody hw, if_neg (by simp [h]), hd, hu, hp]
    rfl
  · rw [State.moveComplete_load hop hbody hw, if_neg (by simp [h]), hd, hu, hp]
    rfl
  · rw [State.moveComplete_store hop hbody hr, if_pos h]
  · rw [State.moveComplete_store hop hbody hr, if_neg (by simp [h]), hd]
  · rw [State.moveComplete_store hop hbody hr, if_neg (by simp [h]), hd, hu]
    rfl
  · intro k f a ht h1 h2 h3 hslots hctx he0 he hhurt hx hroom hlen
    refine congrArg Host.Outcome.next ((State.frameArrives_passed ht h1 h2 h3).trans ?_)
    exact State.writeFrame_done (s := { (s.crossed 4 (dieOf c) m.flits) with net := { s.net with frames := rest } }) hslots hctx he0 he hhurt hx
      hroom hlen

end Sys2Proof.Machine
end

section
/-! SUPPORT. Messages, credits and delivery results (R124-R127, R303); with them the settlement of O17. -/

namespace Sys2Proof.Machine

theorem takeMsg_holds {p : Msg → Bool} {l rest : List Msg} {m : Msg} (h : takeMsg p l = some (m, rest)) : p m = true := by
  induction l generalizing rest with
  | nil => exact absurd h (by simp [takeMsg])
  | cons x l ih =>
    unfold takeMsg at h
    split at h
    · next hp => obtain ⟨rfl, -⟩ := Prod.mk.inj (Option.some.inj h); exact hp
    · obtain ⟨⟨y, r⟩, hy, he⟩ := Option.map_eq_some_iff.mp h
      obtain ⟨rfl, -⟩ := Prod.mk.inj he
      exact ih hy

theorem nextMsg_ends {src dst : Nat} {l rest : List Msg} {m : Msg} (h : nextMsg src dst l = some (m, rest)) : m.src = src ∧ m.dst = dst := by
  simpa using takeMsg_holds h

section
variable {s : State} {m : Msg} {rest : List Msg}

/-! ## The router (R126, R127) -/

theorem State.routerStatus_noRole (h : (s.core m.dst).ctx = none) : s.routerStatus m = 3 := by
  unfold State.routerStatus
  simp only [h, Option.isNone_none, if_true]

theorem State.routerStatus_role (h : (s.core m.dst).ctx ≠ none) : s.routerStatus m =
    if !(s.core m.dst).comm.crossing then 4
    else if m.destEpoch == 0 || m.destEpoch != (s.core m.dst).comm.epoch then 3 else 0 :=
  if_neg (by rwa [Option.isNone_iff_eq_none])

theorem State.arrive_accepted (h : s.routerStatus m = 0) :
    s.arrive m = if m.kind = 1 then s.deliverCredit m else (s.deliverData m).answer m 0 := by
  unfold State.arrive
  rw [h]
  rfl

theorem State.arrive_refused (h : s.routerStatus m ≠ 0) :
    s.arrive m = (s.countRefusal m (s.routerStatus m)).answer m (s.routerStatus m) := by
  unfold State.arrive
  split
  · next h0 => exact absurd h0 h
  · rfl

/-! ## The next message of a pair -/

section
variable {kind src dst : Nat} (hnext : nextMsg src dst s.net.msgs = some (m, rest))
include hnext

theorem State.arriveFirst_otherKind (h : m.kind ≠ kind) : s.arriveFirst kind src dst = s := by
  unfold State.arriveFirst
  rw [hnext]
  exact if_pos h

theorem State.arriveFirst_stalls (h : s.pathStalls (dieOf src) (dieOf dst) = true) : s.arriveFirst kind src dst = s := by
  unfold State.arriveFirst
  rw [hnext]
  dsimp only
  rw [State.way_stalls h]
  exact ite_self s

theorem State.arriveFirst_shut {d : Nat} (hk : m.kind = kind) (h : s.pathStalls (dieOf src) (dieOf dst) = false)
    (hd : s.pathShut (dieOf src) (dieOf dst) = some d) : s.arriveFirst kind src dst = ((s.setMsgs rest).dieDrop d).answer m 4 := by
  unfold State.arriveFirst
  rw [hnext]
  dsimp only
  rw [if_neg (not_not.mpr hk), State.way_shut h hd]

theorem State.arriveFirst_passed (hk : m.kind = kind) (h : s.pathStalls (dieOf src) (dieOf dst) = false)
    (hd : s.pathShut (dieOf src) (dieOf dst) = none) (hu : s.pathUnmet (dieOf src) (dieOf dst) = false) :
    s.arriveFirst kind src dst = ((s.crossed (dieOf src) (dieOf dst) m.flits).setMsgs rest).arrive m := by
  unfold State.arriveFirst
  rw [hnext]
  dsimp only
  rw [if_neg (not_not.mpr hk), State.way_passed h hd hu]

/-- The delivery result that comes first of its pair. -/
theorem State.resultArrives_passed {q : Nat} {rest' : List Msg}
    (ht : takeMsg (fun m => m.kind == 2 && m.dst == dst && m.op == q) s.net.msgs = some (m, rest')) (hsrc : m.src = src)
    (h : s.pathStalls (dieOf src) (dieOf dst) = false) (hd : s.pathShut (dieOf src) (dieOf dst) = none)
    (hu : s.pathUnmet (dieOf src) (dieOf dst) = false) :
    s.resultArrives dst q = ((s.crossed (dieOf src) (dieOf dst) 1).setMsgs rest).deliverResult dst q m := by
  unfold State.resultArrives
  rw [ht]
  dsimp only
  rw [hsrc, hnext]
  dsimp only
  rw [if_neg (not_not.mpr rfl), State.way_passed h hd hu]

end

/-- A result for a SEND in flight completes it. -/
theorem State.deliverResult_send {c q a b n l : Nat} {o : Op} {st overs : Bool} (hep : m.srcEpoch = (s.core c).comm.epoch) (haux : m.aux ≠ 3)
    (hop : s.op c q = some o) (hbody : o.body = .send a b n l st overs) :
    s.deliverResult c q m = s.completeOp c o (if m.hurt ≠ [] then 4 else if overs then 2 else m.aux) := by
  unfold State.deliverResult
  rw [if_neg (not_not.mpr hep), if_neg haux]
  dsimp only
  rw [hop]
  dsimp only
  rw [hbody]
  cases m.hurt <;> rfl

end

/-- Settles O17: the router's status by its order of checks; the next message of a pair by what its way lets through. -/
theorem messagesReachTheirCore : Obligations.MessagesReachTheirCore := by
  refine ⟨fun s m => ⟨State.routerStatus_noRole, fun h hx => ?_, fun h hx he => ?_, fun h hx h0 he => ?_⟩, fun s src dst m rest hnext =>
    ⟨fun hk => congrArg Host.Outcome.next (State.arriveFirst_otherKind hnext hk),
      fun hk => congrArg Host.Outcome.next (State.arriveFirst_otherKind hnext hk),
      fun h => ⟨congrArg Host.Outcome.next (State.arriveFirst_stalls hnext h), congrArg Host.Outcome.next (State.arriveFirst_stalls hnext h)⟩,
      fun d hk h hd => congrArg Host.Outcome.next (State.arriveFirst_shut hnext hk h hd), fun h hd hu => ?_⟩⟩
  · rw [State.routerStatus_role h]
    simp [hx]
  · rw [State.routerStatus_role h]
    simp [hx, he]
  · rw [State.routerStatus_role h]
    have h0' : (s.core m.dst).comm.epoch ≠ 0 := he ▸ h0
    simp [hx, he, h0']
  · intro z
    have hstatus : z.routerStatus m = s.routerStatus m := rfl
    refine ⟨fun hk hr => congrArg Host.Outcome.next ?_, fun hk hr => congrArg Host.Outcome.next ?_, fun hk hr => congrArg Host.Outcome.next ?_,
      fun hk hr => congrArg Host.Outcome.next ?_, fun q o a b n l st overs ht hsrc hep haux hop hbody => congrArg Host.Outcome.next ?_⟩
    · rw [State.arriveFirst_passed hnext hk h hd hu, State.arrive_accepted (hstatus.trans hr), if_neg (by rw [hk]; decide)]
    · rw [State.arriveFirst_passed hnext hk h hd hu, State.arrive_refused (by rwa [hstatus])]
      rw [hstatus]
    · rw [State.arriveFirst_passed hnext hk h hd hu, State.arrive_accepted (hstatus.trans hr), if_pos hk]
      rfl
    · rw [State.arriveFirst_passed hnext hk h hd hu, State.arrive_refused (by rwa [hstatus])]
      rw [hstatus]
    · have hflits : m.flits = 1 := by
        have := takeMsg_holds ht
        simp only [Bool.and_eq_true, beq_iff_eq] at this
        simp [Msg.flits, this.1.1]
      rw [State.resultArrives_passed hnext ht hsrc h hd hu, ← hflits]
      exact State.deliverResult_send (s := z) hep haux hop hbody

end Sys2Proof.Machine
end

section
/-! SUPPORT. Sync objects, waits and the decision watchdog (R119-R122, R226); with them the settlement of O18. -/

namespace Sys2Proof.Machine

/-! ## Bytes as they were written -/

theorem State.bytes_eq {s : State} {a : Nat} {bs : List Byte} (h : ∀ i, i < bs.length → s.byte (a + i) = bs.getD i 0) :
    s.bytes a bs.length = bs := by
  induction bs generalizing a with
  | nil => rfl
  | cons b bs ih =>
    refine List.cons_eq_cons.mpr ⟨h 0 (Nat.zero_lt_succ _), ih fun i hi => ?_⟩
    have := h (i + 1) (Nat.succ_lt_succ hi)
    rwa [Nat.add_assoc, Nat.add_comm 1 i]

/-- What was written where no word is poisoned reads back. -/
theorem State.bytes_poke {s : State} {a : Nat} {bs : List Byte} (h : s.memOk = true) (hp : s.poisoned a bs.length = false) :
    (s.poke a bs).bytes a bs.length = bs := by
  have hclean (x : Nat) (h1 : a ≤ x) (h2 : x < a + bs.length) : (s.poke a bs).poisoned x 1 = false := by
    unfold State.poisoned at hp ⊢
    rw [List.any_eq_false] at hp ⊢
    intro w hw hin
    refine hp w (List.mem_of_mem_filter hw) ?_
    simp only [Bool.and_eq_true, decide_eq_true_eq] at hin ⊢
    omega
  refine State.bytes_eq fun i hi => ?_
  unfold State.byte
  rw [hclean (a + i) (by omega) (by omega), if_neg Bool.false_ne_true, State.read_poke a (a + i) bs h, if_pos (by omega), Nat.add_sub_cancel_left]

/-- A change of every entry of a table that leaves the default as it is. -/
theorem Tab.get_map {α : Type} (d : α) (f : α → α) (hd : f d = d) (t : Tab α) (k : Nat) :
    Tab.get d (t.map (fun e => (e.1, f e.2))) k = f (Tab.get d t k) := by
  induction t with
  | nil => exact hd.symm
  | cons e t ih =>
    by_cases h : e.1 = k
    · simp [Tab.get, h]
    · simpa [Tab.get, h] using ih

/-! ## An update at its store (R119-R121) -/

section
variable {s : State} {obj : Nat} {u : SyncUpd} {rest : List SyncUpd}

theorem takeSync_obj {l rest : List SyncUpd} (h : takeSync obj l = some (u, rest)) : u.obj = obj := by
  induction l generalizing rest with
  | nil => exact absurd h (by simp [takeSync])
  | cons x l ih =>
    unfold takeSync at h
    split at h
    · next hp => obtain ⟨rfl, -⟩ := Prod.mk.inj (Option.some.inj h); exact hp
    · obtain ⟨⟨y, r⟩, hy, he⟩ := Option.map_eq_some_iff.mp h
      obtain ⟨rfl, -⟩ := Prod.mk.inj he
      exact ih hy

/-- The update has come from its source's die. -/
def State.syncCame (s : State) (u : SyncUpd) (rest : List SyncUpd) : State :=
  { (s.crossed u.ends.1 u.ends.2 1) with net := { s.net with syncs := rest } }

theorem State.syncUpdate_passed (ht : takeSync obj s.net.syncs = some (u, rest)) (h : s.pathStalls u.ends.1 u.ends.2 = false)
    (hd : s.pathShut u.ends.1 u.ends.2 = none) (hu : s.storeUnmet u.ends.1 u.ends.2 = false) :
    s.syncUpdate obj = (s.syncCame u rest).applySync u := by
  unfold State.syncUpdate
  rw [ht]
  dsimp only
  rw [State.way_passed h hd hu]
  rfl

theorem State.applySync_alone (hs : u.sig = none) :
    s.applySync u = if u.hurt then s.poisonWord (syncAddr u.obj / 8 * 8) else s.putSync u := by
  unfold State.applySync
  rw [hs]

theorem State.sync_setSync (hok : s.memOk = true) (hp : s.poisoned (syncAddr obj) 4 = false) (v : Nat) : (s.setSync obj v).sync obj = v % 2 ^ 32 := by
  have := State.bytes_poke (bs := toLE 4 v) hok (by rwa [length_toLE])
  rw [length_toLE] at this
  unfold State.sync State.setSync State.num
  rw [this, fromLE_toLE]
  rfl

theorem State.mem_setSync (hok : s.memOk = true) {a : Nat} (ha : a < syncAddr obj ∨ syncAddr obj + 4 ≤ a) (v : Nat) :
    Mem.read (s.setSync obj v).mem a = Mem.read s.mem a := by
  unfold State.setSync
  rw [State.read_poke _ _ _ hok, length_toLE, if_neg (by omega)]

theorem State.core_putSync (c : Nat) : (s.putSync u).core c = (s.core c).seeSync u.obj (syncAfter (s.sync u.obj) u) :=
  Tab.get_map Core.reset (·.seeSync u.obj (syncAfter (s.sync u.obj) u)) rfl s.cores c

theorem State.sync_putSync (n : Nat) : (s.putSync u).sync n = (s.setSync u.obj (syncAfter (s.sync u.obj) u)).sync n := rfl

end

/-! ## WAIT checks and LDK reads (R119, R122, R303) -/

section
variable {s : State} {c obj : Nat} {o : Op}

section
variable (hfind : (s.core c).seq.ops.find? (fun o => o.asks.isSome) = some o) (hasks : o.asks = some obj)
include hfind hasks

theorem State.syncResponse_waits (ha : s.hasAnswer o = false) (hd : s.pathShut (obj / 65536) (dieOf c) = none) : s.syncResponse c = s := by
  unfold State.syncResponse
  rw [hfind]
  dsimp only
  rw [hasks]
  exact if_pos (by simp [ha, hd])

theorem State.syncResponse_passed (ha : s.hasAnswer o = true) (h : s.pathStalls (obj / 65536) (dieOf c) = false)
    (hu : s.storeUnmet (dieOf c) (obj / 65536) = false) (hd : s.pathShut (obj / 65536) (dieOf c) = none) :
    s.syncResponse c = (s.crossed (obj / 65536) (dieOf c) 1).syncAnswer c o := by
  unfold State.syncResponse
  rw [hfind]
  dsimp only
  rw [hasks, if_neg (by simp [ha])]
  dsimp only [Option.getD_some]
  rw [State.way_passed h hd hu]

theorem State.syncResponse_shut (h : s.pathStalls (obj / 65536) (dieOf c) = false) (hd : s.pathShut (obj / 65536) (dieOf c) ≠ none) :
    s.syncResponse c = s.syncShut c o := by
  obtain ⟨d, hd⟩ := Option.ne_none_iff_exists'.mp hd
  unfold State.syncResponse
  rw [hfind]
  dsimp only
  rw [hasks]
  dsimp only [Option.getD_some]
  rw [if_neg (by simp [hd]), State.way_shut h hd]

end

theorem State.hasAnswer_wait {t : Nat} {win : Option Nat} (hbody : o.body = .wait obj t win none) :
    s.hasAnswer o = (s.poisoned (syncAddr obj) 4 || reached (s.sync obj) t) := by
  unfold State.hasAnswer
  rw [hbody]

theorem State.hasAnswer_seen {t w : Nat} {win : Option Nat} (hbody : o.body = .wait obj t win (some w)) : s.hasAnswer o = true := by
  unfold State.hasAnswer
  rw [hbody]

theorem State.syncAnswer_wait {t : Nat} {win hit : Option Nat} (hbody : o.body = .wait obj t win hit) :
    s.syncAnswer c o = s.waitDone c o obj (hit.getD (s.sync obj)) win := by
  unfold State.syncAnswer
  rw [hbody]

end

theorem reached_iff (w t : Nat) : reached w t = true ↔ ((w % 2 ^ 24 : Int) - (t % 2 ^ 24 : Int)) % 2 ^ 24 < 2 ^ 23 := by
  unfold reached
  rw [decide_eq_true_eq]
  omega

/-! ## The decision watchdog (R226) -/

section
variable {s : State} {c since wd : Nat} (h : (s.core c).watchdog = some (since, wd))
include h

theorem State.watchdogExpiry_eq : s.watchdogExpiry c =
    if s.time.up - since < wd then s
    else
      let u := ((s.modCore c (fun k => { k with watchdog := none })).record (coreSource c) 0x0021 [1, wd]).bump 0x2330 1
      if s.cfg 0x2330 3 = 1 then u.setCause 1 else u := by
  unfold State.watchdogExpiry
  rw [h]
  rfl

end

/-- What follows when a due WAITT is looked for: the one found completes. -/
def State.endWaitt (s : State) (c : Nat) : Option Op → State
  | none => s
  | some o => s.completeOp c o 0

theorem State.waittDone_eq (s : State) (c : Nat) : s.waittDone c = s.endWaitt c
    ((s.core c).seq.ops.find? (fun o => match o.body with | .waitt t => decide (t ≤ s.time.gtc) | _ => false)) := by
  unfold State.waittDone State.endWaitt
  rfl

/-- Settles O18: an update at its store; the answer to the oldest check; targets modulo 2^24; the watchdog's expiry. -/
theorem syncObjectsAndWaits : Obligations.SyncObjectsAndWaits := by
  refine ⟨fun s obj u rest ht hsig hok h hd hu => ⟨fun hh => congrArg Host.Outcome.next ?_, fun hh hp => ?_⟩,
    fun s c o => ⟨fun hfind => ⟨fun obj t win hit hbody h hu => ?_, fun f d obj hbody h hu => ?_⟩, fun hf => congrArg Host.Outcome.next ?_⟩,
    reached_iff, fun s c since wd hwd => ⟨fun h => congrArg Host.Outcome.next ?_, fun h hc => congrArg Host.Outcome.next ?_,
      fun h hc => congrArg Host.Outcome.next ?_⟩⟩
  · rw [State.syncUpdate_passed ht h hd hu, State.applySync_alone hsig, if_pos hh, takeSync_obj ht]
    rfl
  · have hobj := takeSync_obj ht
    subst hobj
    have hup := (State.syncUpdate_passed ht h hd hu).trans ((State.applySync_alone hsig).trans (if_neg (by simp [hh])))
    refine ⟨_, congrArg Host.Outcome.next hup, ?_, rfl, fun a ha => ?_, fun c => ?_, rfl, rfl⟩
    · rw [State.sync_putSync]
      exact State.sync_setSync (s := s.syncCame u rest) hok hp _
    · exact State.mem_setSync (s := s.syncCame u rest) hok ha _
    · exact State.core_putSync (s := s.syncCame u rest) c
  · have hasks : o.asks = some obj := by unfold Op.asks; rw [hbody]
    refine ⟨fun w hd hhit => congrArg Host.Outcome.next ?_, fun hd hhit ha => congrArg Host.Outcome.next ?_,
      fun hd hhit hp hr => congrArg Host.Outcome.next ?_, fun hd => congrArg Host.Outcome.next ?_⟩
    · subst hhit
      rw [State.syncResponse_passed hfind hasks (State.hasAnswer_seen hbody) h hu hd, State.syncAnswer_wait hbody]
      rfl
    · subst hhit
      rw [State.syncResponse_passed hfind hasks ((State.hasAnswer_wait hbody).trans (by simpa using ha)) h hu hd, State.syncAnswer_wait hbody]
      rfl
    · subst hhit
      exact State.syncResponse_waits hfind hasks ((State.hasAnswer_wait hbody).trans (by simp [hp, hr])) hd
    · rw [State.syncResponse_shut hfind hasks h hd]
      unfold State.syncShut
      rw [hbody]
  · have hasks : o.asks = some obj := by unfold Op.asks; rw [hbody]
    have hans (u : State) : u.hasAnswer o = true := by unfold State.hasAnswer; rw [hbody]
    refine ⟨fun hd hp => congrArg Host.Outcome.next ?_, fun hd => congrArg Host.Outcome.next ?_⟩
    · rw [State.syncResponse_passed hfind hasks (hans s) h hu hd]
      unfold State.syncAnswer
      rw [hbody]
      dsimp only
      rw [show (s.crossed (obj / 65536) (dieOf c) 1).poisoned (syncAddr obj) 4 = false from hp]
      cases o.hurt <;> rfl
    · rw [State.syncResponse_shut hfind hasks h hd]
      unfold State.syncShut
      rw [hbody]
  · exact (s.waittDone_eq c).trans (congrArg (s.endWaitt c) hf)
  · rw [State.watchdogExpiry_eq hwd, if_pos h]
  · rw [State.watchdogExpiry_eq hwd, if_neg (Nat.not_lt.mpr h)]
    exact if_neg hc
  · rw [State.watchdogExpiry_eq hwd, if_neg (Nat.not_lt.mpr h)]
    exact if_pos hc

end Sys2Proof.Machine
end

section
/-! SUPPORT. The core's registers, buffers and accumulator as the host writes them (R60, R61, R98, R303); with them the settlement of O19. -/

namespace Sys2Proof.Machine

theorem State.modCore_congr {s : State} {c : Nat} {f g : Core → Core} (h : f (s.core c) = g (s.core c)) : s.modCore c f = s.modCore c g := by
  unfold State.modCore
  rw [h]

/-! ## A host's access to a core (R127, R290, R303) -/

section
variable {s : State} {c n : Nat} {act : State → State}

theorem State.hostCore_shut {d : Nat} (hd : s.pathShut 4 (dieOf c) = some d) : s.hostCore c n act = s.dieDrop d := by
  unfold State.hostCore
  rw [hd]

theorem State.hostCore_closed (hd : s.pathShut 4 (dieOf c) = none) (hx : (s.core c).comm.crossing = false) : s.hostCore c n act = s.crossDrop c := by
  unfold State.hostCore
  rw [hd]
  exact if_pos (by simp [hx])

theorem State.hostCore_open (hd : s.pathShut 4 (dieOf c) = none) (hx : (s.core c).comm.crossing = true) :
    s.hostCore c n act = (s.crossed 4 (dieOf c) n).overBridge (s.pathUnmet 4 (dieOf c)) act := by
  unfold State.hostCore
  rw [hd]
  exact if_neg (by simp [hx])

theorem State.hostCore_done (hd : s.pathShut 4 (dieOf c) = none) (hx : (s.core c).comm.crossing = true) (hu : s.pathUnmet 4 (dieOf c) = false) :
    s.hostCore c n act = act (s.crossed 4 (dieOf c) n) := by
  rw [State.hostCore_open hd hx, hu]
  rfl

/-- An access that an unmet ratio loses. -/
theorem State.hostCore_lost (hd : s.pathShut 4 (dieOf c) = none) (hx : (s.core c).comm.crossing = true) (hu : s.pathUnmet 4 (dieOf c) = true)
    (hf : Config.ratioFate s.draws % 3 = 1) : s.hostCore c n act = s.draw.crossed 4 (dieOf c) n := by
  have hfate : (s.crossed 4 (dieOf c) n).fate true = (1, s.draw.crossed 4 (dieOf c) n) := Prod.ext hf rfl
  rw [State.hostCore_open hd hx, hu]
  unfold State.overBridge
  rw [hfate]
  rfl

theorem State.crossDrop_eq (s : State) (c : Nat) : s.crossDrop c =
    (s.bump (0x3000 + c) 0x0C).bump (if isSentinel c then 0x2200 else 0x2210 + dieOf c) (if isSentinel c then 0x0D else 6) := by
  unfold State.crossDrop
  cases isSentinel c <;> rfl

end

/-! ## Commits of an engine's registers (R60, R71) -/

section
variable (s : State) (c e : Nat)

theorem State.commitIdle_busy (h : s.engBusy c e = true) : s.commitIdle c e = s := if_neg (by simp [h])

theorem State.commitIdle_commits (hc : (s.eng c e).regs.corrCommit = true) (hb : s.engBusy c e = false) : s.commitIdle c e = s.commitEng c e :=
  if_pos (by simp [hc, hb])

/-- What is staged becomes active as one change. -/
theorem State.commitEng_leaves : let t := s.commitEng c e
    (t.eng c e).regs = (s.eng c e).regs.commit ∧ t.cores = s.cores ∧ t.mem = s.mem ∧ t.counters = s.counters := by
  unfold State.commitEng
  dsimp only
  refine ⟨State.eng_setEng_regs .., ?_⟩
  split <;> exact ⟨rfl, rfl, rfl⟩

theorem State.eng_modEng_regs (f : Engine → Engine) : ((s.modEng c e f).eng c e).regs = (f (s.eng c e)).regs := State.eng_setEng_regs ..

theorem State.setCorrCommit_idle (hb : s.engBusy c e = false) : let t := s.setCorrCommit c e
    (t.eng c e).regs.active = (s.eng c e).regs.staged ∧ (t.eng c e).regs.repair = (s.eng c e).regs.repairStaged ∧
      (t.eng c e).regs.corrCommit = false ∧ t.cores = s.cores ∧ t.mem = s.mem ∧ t.counters = s.counters := by
  have hr := State.eng_modEng_regs s c e (fun g => { g with regs := { g.regs with corrCommit := true } })
  obtain ⟨h1, h2⟩ := State.commitEng_leaves (s.modEng c e (fun g => { g with regs := { g.regs with corrCommit := true } })) c e
  have ht : s.setCorrCommit c e = (s.modEng c e (fun g => { g with regs := { g.regs with corrCommit := true } })).commitEng c e :=
    State.commitIdle_commits _ c e (by rw [hr]) hb
  dsimp only at h1 ⊢
  rw [ht, h1, hr]
  exact ⟨rfl, rfl, rfl, h2⟩

theorem State.setCorrCommit_busy (hb : s.engBusy c e = true) :
    s.setCorrCommit c e = s.modEng c e (fun g => { g with regs := { g.regs with corrCommit := true } }) :=
  State.commitIdle_busy (s.modEng c e _) c e hb

theorem State.anaIdle_commits (hops : (s.core c).seq.ops = []) (hp : (s.core c).ana.pending = true) :
    s.anaIdle c = s.modCore c (fun k => { k with ana := { k.ana with
      scale := k.ana.scaleStaged, budget := k.ana.budgetStaged, pending := false, thresh := s.cfg 0x2800 6, repeats := s.cfg 0x2800 7 } }) := by
  have h : s.anaIdle c = s.anaEffect c := if_pos (by rw [hops]; rfl)
  rw [h]
  unfold State.anaEffect
  refine State.modCore_congr ?_
  dsimp only
  rw [if_pos hp]

theorem State.trackForced_waits (hs : isSentinel c = false) (hw : (s.eng c e).trackWait = true) (hb : s.engBusy c e = true)
    (ht : (s.eng c e).trackAt.getD 0 + 1000000 ≤ s.time.up) :
    s.trackForced c e = s.setEng c e { s.eng c e with trackWait := false, regs := { (s.eng c e).regs with corrCommit := true } } := by
  unfold State.trackForced
  dsimp only
  rw [if_neg (by simp [hs, hw, ht])]
  exact State.commitIdle_busy (s.setEng c e _) c e hb

end

/-! ## Writes of memory (R98) -/

section
variable {s : State} {c off : Nat} {data : List Byte}

theorem meetsRange_eq_false {off n : Nat} {r : Nat × Nat} (h : r.2 ≤ off ∨ off + n ≤ r.1) : meetsRange off n r = false := by
  unfold meetsRange
  rcases h with h | h <;> simp [h]

theorem meetsRange_eq_true {off n : Nat} {r : Nat × Nat} (h0 : 0 < n) (h1 : off < r.2) (h2 : r.1 < off + n) : meetsRange off n r = true := by
  simp [meetsRange, h0, h1, h2]

/-- Memory below the registers has no register's word. -/
theorem touchedWords_lt {off n a : Nat} (h : off + n ≤ 0xD0000) (ha : a ∈ touchedWords off n) : a < 0xD0000 := by
  unfold touchedWords at ha
  split at ha
  · exact absurd ha List.not_mem_nil
  · obtain ⟨i, hi, rfl⟩ := List.mem_map.mp ha
    have := List.mem_range.mp hi
    omega

theorem touchedWords_registers {off n : Nat} (h : off + n ≤ 0xD0000) :
    (touchedWords off n).filter (fun a => decide (0xD0000 ≤ a) && decide (a < 0x102000)) = [] := by
  rw [List.filter_eq_nil_iff]
  intro a ha
  have := touchedWords_lt h ha
  simp only [Bool.and_eq_true, decide_eq_true_eq, not_and]
  omega

theorem State.hitsLockedCtrl_memory {n : Nat} (h : off + n ≤ 0xD0000) : s.hitsLockedCtrl c off n = false := by
  unfold State.hitsLockedCtrl
  rw [List.any_eq_false]
  intro a ha
  have := touchedWords_lt h ha
  simp only [Bool.and_eq_true, decide_eq_true_eq, not_and]
  omega

/-- The part of a write of memory that each range takes, where the core does not lock it. -/
def State.memoryWrite (s : State) (c off : Nat) (data : List Byte) : State :=
  [(0, 0x80000), (0x80000, 0xC0000), (0xC0000, 0xC8000), (0xC8000, 0xD0000)].foldl (fun s' r =>
    if meetsRange off data.length r && !(s.lockedParts c).contains r then
      let p := writePart off data r.1 r.2
      s'.poke (coreBase c + p.1) p.2
    else s') s

/-- A write below the registers is one of memory. -/
theorem State.localWrite_memory (h : off + data.length ≤ 0xD0000) : s.localWrite c off data =
    if (s.lockedParts c).any (meetsRange off data.length) then (s.memoryWrite c off data).bump (0x3000 + c) 0x0F else s.memoryWrite c off data := by
  unfold State.localWrite
  dsimp only
  rw [touchedWords_registers h, State.hitsLockedCtrl_memory h, Bool.or_false, List.foldl_nil,
    meetsRange_eq_false (r := (0x110000, 0x11003C)) (.inr (by show _ ≤ 0x110000; omega))]
  rfl

/-- Ranges the core may lock begin behind the activation buffer. -/
theorem State.lockedParts_from {r : Nat × Nat} (h : r ∈ s.lockedParts c) : 0x80000 ≤ r.1 := by
  unfold State.lockedParts at h
  dsimp only at h
  split at h
  · rcases List.mem_cons.mp h with rfl | h
    · exact le_refl _
    · obtain rfl := List.mem_singleton.mp h
      show 0x80000 ≤ 0xC0000 + _
      omega
  · exact absurd h List.not_mem_nil

theorem State.localWrite_buffer (h0 : 0 < data.length) (h : off + data.length ≤ 0x80000) : s.localWrite c off data = s.poke (coreBase c + off) data := by
  have hfree : (s.lockedParts c).any (meetsRange off data.length) = false := by
    rw [List.any_eq_false]
    intro r hr
    rw [meetsRange_eq_false (.inr (h.trans (State.lockedParts_from hr)))]
    exact Bool.false_ne_true
  have hbuf : (s.lockedParts c).contains (0, 0x80000) = false := by
    rw [← Bool.not_eq_true, List.contains_iff_mem]
    exact fun hm => absurd (State.lockedParts_from hm) (by decide)
  have hlater (r : Nat × Nat) (hr : 0x80000 ≤ r.1) : meetsRange off data.length r = false := meetsRange_eq_false (.inr (h.trans hr))
  have hpart : writePart off data 0 0x80000 = (off, data) := by
    unfold writePart
    rw [Nat.max_eq_left (Nat.zero_le off)]
    dsimp only
    rw [Nat.sub_self, List.drop_zero, List.take_of_length_le (by omega)]
  rw [State.localWrite_memory (by omega), hfree, if_neg Bool.false_ne_true]
  unfold State.memoryWrite
  simp only [List.foldl_cons, List.foldl_nil]
  rw [hlater (0x80000, 0xC0000) (le_refl _), hlater (0xC0000, 0xC8000) (by decide), hlater (0xC8000, 0xD0000) (by decide),
    meetsRange_eq_true h0 (show off < 0x80000 by omega) (show 0 < off + data.length by omega), hbuf, hpart]
  rfl

theorem State.localWrite_accumulator (hrun : (s.core c).state = .running) (h0 : 0 < data.length) (h1 : 0x80000 ≤ off)
    (h2 : off + data.length ≤ 0xC0000) : s.localWrite c off data = s.bump (0x3000 + c) 0x0F := by
  have hlocked : s.lockedParts c = [(0x80000, 0xC0000), (0xC0000 + 0x8000 * (s.core c).seq.bank, 0xC8000 + 0x8000 * (s.core c).seq.bank)] := by
    simp [State.lockedParts, hrun]
  have hacc : meetsRange off data.length (0x80000, 0xC0000) = true :=
    meetsRange_eq_true h0 (show off < 0xC0000 by omega) (show 0x80000 < off + data.length by omega)
  rw [State.localWrite_memory (by omega), if_pos (by rw [hlocked, List.any_cons, hacc]; rfl)]
  unfold State.memoryWrite
  simp only [List.foldl_cons, List.foldl_nil]
  rw [meetsRange_eq_false (r := (0, 0x80000)) (.inl h1), meetsRange_eq_false (r := (0xC0000, 0xC8000)) (.inr h2),
    meetsRange_eq_false (r := (0xC8000, 0xD0000)) (.inr (h2.trans (by decide))), hlocked]
  simp

end

/-- Settles O19: an access by what the way to its core lets through; commits by when they take effect. -/
theorem coreMemoryIsWritten : Obligations.CoreMemoryIsWritten := by
  refine ⟨fun s c e off v data => ⟨fun d hd => ?_, fun hd hx => ?_, fun ⟨hd, hx⟩ hu hf => congrArg Host.Outcome.next (State.hostCore_lost hd hx hu hf),
      fun ⟨hd, hx⟩ hu hb => congrArg Host.Outcome.next ?_, fun ⟨hd, hx⟩ hu hb => ?_, fun ⟨hd, hx⟩ hu =>
      ⟨congrArg Host.Outcome.next (State.hostCore_done hd hx hu), congrArg Host.Outcome.next (State.hostCore_done hd hx hu)⟩⟩,
    fun s c off data hd hx hu h0 h => congrArg Host.Outcome.next ((State.hostCore_done hd hx hu).trans (State.localWrite_buffer h0 h)),
    fun s c off data hd hx hu hrun h0 h1 h2 => congrArg Host.Outcome.next ((State.hostCore_done hd hx hu).trans (State.localWrite_accumulator hrun h0 h1 h2)),
    fun s c e => ⟨fun hc hb => ?_, fun hb => congrArg Host.Outcome.next (State.commitIdle_busy s c e hb),
      fun hops hp => congrArg Host.Outcome.next (State.anaIdle_commits s c hops hp),
      fun hops => congrArg Host.Outcome.next (if_neg (by simpa using hops)),
      fun hs hw hb ht => congrArg Host.Outcome.next (State.trackForced_waits s c e hs hw hb ht),
      fun h => congrArg Host.Outcome.next (if_pos (by rcases h with h | h <;> simp [h]))⟩⟩
  · exact ⟨congrArg Host.Outcome.next (State.hostCore_shut hd), congrArg Host.Outcome.next (State.hostCore_shut hd),
      congrArg Host.Outcome.next (State.hostCore_shut hd), congrArg Host.Outcome.next (State.hostCore_shut hd)⟩
  · have h (n : Nat) (act : State → State) := (State.hostCore_closed (n := n) (act := act) hd hx).trans (State.crossDrop_eq s c)
    exact ⟨congrArg Host.Outcome.next (h ..), congrArg Host.Outcome.next (h ..), congrArg Host.Outcome.next (h ..), congrArg Host.Outcome.next (h ..)⟩
  · exact (State.hostCore_done hd hx hu).trans (State.setCorrCommit_busy (s.crossed 4 (dieOf c) 2) c e hb)
  · exact ⟨_, congrArg Host.Outcome.next (State.hostCore_done hd hx hu), State.setCorrCommit_idle (s.crossed 4 (dieOf c) 2) c e hb⟩
  · obtain ⟨h1, h2, h3, -⟩ := State.commitEng_leaves s c e
    refine ⟨s.commitEng c e, congrArg Host.Outcome.next (State.commitIdle_commits s c e hc hb), ?_, ?_, ?_, h2, h3⟩ <;> rw [h1] <;> rfl

end Sys2Proof.Machine
end

section
/-! Dividers, ramps and bridges: what a step of a domain's divider leaves, and the retrain of a bridge (R290-R293, R312, R313). Settles O52. -/

namespace Sys2Proof.Machine

/-! ## What the clocks' own work reaches -/

/-- Only the clocks, the counters and the records on their way may differ. -/
def OnlyClocks (s t : State) : Prop := t = { s with clk := t.clk, counters := t.counters, ash := { s.ash with inbox := t.ash.inbox } }

section
variable {s t u : State} (h : OnlyClocks s t)
include h

theorem OnlyClocks.eq : t = { s with clk := t.clk, counters := t.counters, ash := { s.ash with inbox := t.ash.inbox } } := h

theorem OnlyClocks.trans (h' : OnlyClocks t u) : OnlyClocks s u := by
  have e := h'.eq
  rw [h.eq] at e
  exact e

theorem OnlyClocks.part : t.part = s.part := (congrArg State.part h.eq :)
theorem OnlyClocks.time : t.time = s.time := (congrArg State.time h.eq :)
theorem OnlyClocks.mem : t.mem = s.mem := (congrArg State.mem h.eq :)
theorem OnlyClocks.cores : t.cores = s.cores := (congrArg State.cores h.eq :)
theorem OnlyClocks.engines : t.engines = s.engines := (congrArg State.engines h.eq :)
theorem OnlyClocks.sets : t.sets = s.sets := (congrArg State.sets h.eq :)
theorem OnlyClocks.divSet (dom : Nat) : t.divSet dom = s.divSet dom := (congrArg (fun x : State => x.divSet dom) h.eq :)

/-- A domain's divider is as before where the dividers are. -/
theorem OnlyClocks.divider (hd : t.clk.divs = s.clk.divs) (dom : Nat) : t.divider dom = s.divider dom := by
  rw [State.divider, State.divider, hd, h.divSet]

end

theorem OnlyClocks.refl (s : State) : OnlyClocks s s := rfl

theorem onlyClocks_setDivider (s : State) (dom : Nat) (v : Divider) : OnlyClocks s (s.setDivider dom v) := rfl
theorem onlyClocks_setGen (s : State) (g : Nat) (k : Gen) : OnlyClocks s (s.setGen g k) := rfl
theorem onlyClocks_bump (s : State) (i n : Nat) : OnlyClocks s (s.bump i n) := rfl

theorem onlyClocks_setGenState (s : State) (g st : Nat) (note : Bool) : OnlyClocks s (s.setGenState g st note) := by
  cases note <;> exact rfl

@[simp] theorem State.setGenState_divs (s : State) (g st : Nat) (note : Bool) : (s.setGenState g st note).clk.divs = s.clk.divs := by
  cases note <;> rfl

/-! ## Dividers -/

theorem State.divider_setDivider_same (s : State) (dom : Nat) (v : Divider) : (s.setDivider dom v).divider dom = v := Tab.get_set_same ..

theorem State.divider_setDivider_ne (s : State) {dom d : Nat} (v : Divider) (h : d ≠ dom) : (s.setDivider dom v).divider d = s.divider d :=
  Tab.get_set_ne _ _ _ h

/-! ## Followers (R290) -/

/-- What a domain's follower may be: TIME is followed by the hub, a core by its mesh, a mesh by its bridge. -/
theorem State.follower_some {s : State} {dom f r : Nat} (h : s.follower dom = some (f, r)) :
    (dom = 2 ∧ f = 0) ∨ (dom / 10 = 1 ∧ f = 20 + dom % 10) ∨ (dom / 10 = 2 ∧ f = 30 + dom % 10) := by
  unfold State.follower at h
  dsimp only at h
  split at h
  case isTrue h2 =>
    obtain ⟨rfl, -⟩ := Prod.mk.inj (Option.some.inj h)
    exact .inl ⟨h2.1, rfl⟩
  case isFalse =>
    split at h
    case isTrue h1 =>
      split at h
      · obtain ⟨rfl, -⟩ := Prod.mk.inj (Option.some.inj h)
        exact .inr (.inl ⟨h1.1, rfl⟩)
      · split at h
        · obtain ⟨rfl, -⟩ := Prod.mk.inj (Option.some.inj h)
          exact .inr (.inl ⟨h1.1, rfl⟩)
        · exact absurd h nofun
    case isFalse =>
      split at h
      case isTrue h3 =>
        obtain ⟨rfl, -⟩ := Prod.mk.inj (Option.some.inj h)
        exact .inr (.inr ⟨h3.1, rfl⟩)
      case isFalse => exact absurd h nofun

/-- No domain follows itself, and none follows twice. -/
theorem State.followers_nodup (s : State) (dom : Nat) : (dom :: (s.followers dom).map Prod.fst).Nodup := by
  unfold State.followers
  cases hf : s.follower dom with
  | none => simp
  | some p =>
    obtain ⟨f, r⟩ := p
    have h1 := State.follower_some hf
    cases hg : s.follower f with
    | none =>
      simp only [hg, List.map_cons, List.map_nil, List.nodup_cons, List.mem_singleton, List.not_mem_nil, not_false_eq_true, List.nodup_nil, and_true]
      omega
    | some q =>
      obtain ⟨g, r'⟩ := q
      have h2 := State.follower_some hg
      simp only [hg, List.map_cons, List.map_nil, List.nodup_cons, List.mem_cons, List.not_mem_nil, not_false_eq_true, List.nodup_nil, or_false,
        and_true]
      omega

/-! ## One step of a domain's divider -/

/-- A follower's divider at its ratio to n. -/
def State.followAt (n : Nat) (t : State) (f : Nat × Nat) : State := t.setDivider f.1 { t.divider f.1 with now := f.2 * n }

theorem State.divider_follow_ne (n : Nat) {l : List (Nat × Nat)} {d : Nat} (hd : d ∉ l.map Prod.fst) (s : State) :
    (l.foldl (State.followAt n) s).divider d = s.divider d := by
  induction l generalizing s with
  | nil => rfl
  | cons a l ih =>
    rw [List.map_cons, List.mem_cons, not_or] at hd
    exact (ih hd.2 _).trans (State.divider_setDivider_ne _ _ hd.1)

theorem State.divider_follow (n : Nat) {l : List (Nat × Nat)} (hl : (l.map Prod.fst).Nodup) {f r : Nat} (hmem : (f, r) ∈ l) (s : State) :
    (l.foldl (State.followAt n) s).divider f = { s.divider f with now := r * n } := by
  induction l generalizing s with
  | nil => exact absurd hmem List.not_mem_nil
  | cons a l ih =>
    rw [List.map_cons, List.nodup_cons] at hl
    rcases List.mem_cons.mp hmem with rfl | hmem
    · exact (State.divider_follow_ne n hl.1 _).trans (State.divider_setDivider_same ..)
    · have hne : f ≠ a.1 := fun e => hl.1 (e ▸ List.mem_map_of_mem hmem)
      exact (ih hl.2 hmem _).trans (by rw [State.followAt, State.divider_setDivider_ne _ _ hne])

theorem onlyClocks_stepDivider (s : State) (dom : Nat) : OnlyClocks s (s.stepDivider dom) :=
  (onlyClocks_setDivider s dom _).trans
    (foldl_rel OnlyClocks.refl OnlyClocks.trans (fun t f => onlyClocks_setDivider t f.1 _) (s.followers dom) _)

section
variable (s : State) (dom : Nat)

theorem State.stepDivider_same : (s.stepDivider dom).divider dom =
    { s.divider dom with now := stepToward (s.divider dom).now (s.divider dom).target } :=
  (State.divider_follow_ne _ (List.nodup_cons.mp (s.followers_nodup dom)).1 _).trans (State.divider_setDivider_same ..)

theorem State.stepDivider_follower {f r : Nat} (h : (f, r) ∈ s.followers dom) : (s.stepDivider dom).divider f =
    { s.divider f with now := r * stepToward (s.divider dom).now (s.divider dom).target } := by
  have hn := List.nodup_cons.mp (s.followers_nodup dom)
  have hne : f ≠ dom := fun e => hn.1 (e ▸ List.mem_map_of_mem (f := Prod.fst) h)
  exact (State.divider_follow _ hn.2 h _).trans (by rw [State.divider_setDivider_ne _ _ hne])

theorem State.stepDivider_other {d : Nat} (hd : d ≠ dom) (h : ∀ r, (d, r) ∉ s.followers dom) : (s.stepDivider dom).divider d = s.divider d := by
  have hmem : d ∉ (s.followers dom).map Prod.fst := fun hm => by
    obtain ⟨⟨f, r⟩, hf, rfl⟩ := List.mem_map.mp hm
    exact h r hf
  exact (State.divider_follow_ne _ hmem _).trans (State.divider_setDivider_ne _ _ hd)

theorem onlyClocks_switchDue : OnlyClocks s (s.switchDue dom) := by
  unfold State.switchDue
  dsimp only
  split
  · exact rfl
  · exact .refl s

theorem State.switchDue_ne {d : Nat} (hd : d ≠ dom) : (s.switchDue dom).divider d = s.divider d := by
  unfold State.switchDue
  dsimp only
  split
  · exact State.divider_setDivider_ne _ _ hd
  · rfl

theorem State.switchDue_idle (h : (s.divider dom).hold = none ∨ (s.divider dom).now ≠ (s.divider dom).target) : s.switchDue dom = s := by
  unfold State.switchDue
  dsimp only
  refine if_neg fun hc => ?_
  rw [Bool.and_eq_true, beq_iff_eq] at hc
  rcases h with h | h
  · rw [h] at hc
    exact absurd hc.1 nofun
  · exact h hc.2

/-- At its target on its old source a domain switches, and ramps back to what it is set to. -/
theorem State.switchDue_met (h : (s.divider dom).hold ≠ none) (hnow : (s.divider dom).now = (s.divider dom).target) :
    (s.switchDue dom).divider dom = ⟨(s.divider dom).now, s.divSet dom, none⟩ := by
  unfold State.switchDue
  dsimp only
  rw [if_pos (by rw [Bool.and_eq_true, beq_iff_eq]; exact ⟨Option.isSome_iff_ne_none.mpr h, hnow⟩)]
  exact State.divider_setDivider_same ..

end

/-- The end of ramps is a matter of the generators: the dividers stay. -/
theorem rampEnds_leaves (s : State) : OnlyClocks s s.rampEnds ∧ s.rampEnds.clk.divs = s.clk.divs := by
  unfold State.rampEnds
  refine foldl_rel (R := fun a b => OnlyClocks a b ∧ b.clk.divs = a.clk.divs) (fun a => ⟨.refl a, rfl⟩)
    (fun h h' => ⟨h.1.trans h'.1, h'.2.trans h.2⟩) (fun t g => ?_) _ s
  split
  · exact ⟨rfl, rfl⟩
  · exact ⟨.refl t, rfl⟩

/-! ## Bridges (R312, R313) -/

theorem State.bridge_setBridge_same (s : State) (b : Nat) (v : Bridge) : (s.setBridge b v).bridge b = v := Tab.get_set_same ..

theorem State.bridge_setBridge_ne (s : State) {b x : Nat} (v : Bridge) (h : x ≠ b) : (s.setBridge b v).bridge x = s.bridge x :=
  Tab.get_set_ne _ _ _ h

/-- The record of an uncorrectable flit of a bridge: the hub is its source, and one word goes with it. -/
theorem noteUe_flit (s : State) (b : Nat) : ∃ w, (s.noteUe (2 ^ 38 + b)).ash.inbox =
    s.ash.inbox ++ [⟨⟨s.time.gtc, 0, 0x0011, [w], false, false, false, false, 0, 0⟩, none⟩] := by
  have hsrc : eccSource (2 ^ 38 + b) = 0 := by
    have hat : coreAt (2 ^ 38 + b) = none := if_neg (by omega)
    rw [eccSource, hat]
  have hwords : eccWords (2 ^ 38 + b) = [Config.flitWord (2 ^ 38 + b) % 2 ^ 32] := by
    rw [eccWords, if_neg (by omega), if_neg (by omega), if_pos (by omega)]
  refine ⟨Config.flitWord (2 ^ 38 + b) % 2 ^ 32, ?_⟩
  have h : (s.noteUe (2 ^ 38 + b)).ash.inbox = s.ash.inbox ++
    [⟨⟨s.time.gtc, eccSource (2 ^ 38 + b), 0x0011, eccWords (2 ^ 38 + b), false, false, false, false, 0, 0⟩, none⟩] := rfl
  rw [h, hsrc, hwords]

/-- What noting an uncorrectable error does to the state but for what it says of itself. -/
theorem noteUe_counts (s : State) (a : Nat) : (s.noteUe a).counters = (s.bump 0x2C00 4).counters := rfl

theorem State.count_noteUe (s : State) (a i n : Nat) : (s.noteUe a).count i n = (s.bump 0x2C00 4).count i n :=
  State.count_congr i n rfl rfl (noteUe_counts s a)

/-- A bridge with one more flit replayed. -/
def State.replayed (s : State) (b : Nat) : State := s.setBridge b { s.bridge b with replays := (s.bridge b).replays + 1 }

theorem State.bridgeReplay_done {s : State} {b : Nat} (hb : s.hasBridge b = true) (htr : (s.bridge b).training = false) :
    s.bridgeReplay b = ((s.replayed b).bump 0x2C00 9).noteUe (2 ^ 38 + b) := by
  unfold State.bridgeReplay
  rw [if_neg (by rw [hb, htr]; exact Bool.false_ne_true)]
  rfl

/-- A replayed flit is counted once as a replay and once as an error. -/
theorem count_replayed {s u : State} (hpart : u.part = s.part) (hsets : u.sets.active = s.sets.active) (hcount : u.counters = s.counters)
    (a : Nat) : ((u.bump 0x2C00 9).noteUe a).count 0x2C00 9 = (s.bump 0x2C00 9).count 0x2C00 9 ∧
      ((u.bump 0x2C00 9).noteUe a).count 0x2C00 4 = (s.bump 0x2C00 4).count 0x2C00 4 := by
  rw [State.count_noteUe, State.count_noteUe]
  refine ⟨?_, State.count_bump_of_count hpart hsets ?_⟩
  · exact (State.count_bumpBy_ne _ 1 (by decide)).trans (State.count_bumpBy_congr 0x2C00 9 1 hpart hsets hcount)
  · exact (State.count_bumpBy_ne _ 1 (by decide)).trans (State.count_congr 0x2C00 4 hpart hsets hcount)

/-- An error counted, recorded and made the last one. -/
def State.errorNoted (s : State) (i n src code : Nat) (l : List Nat) (key last : Nat) : State :=
  let t := ((s.bump i n).record src code l).keepLast key s.svc.lastUe
  { t with svc := { t.svc with lastUe := last } }

theorem errorNoted_leaves (s : State) (i n src code : Nat) (l : List Nat) (key last : Nat) :
    (s.errorNoted i n src code l key last).svc.bridges = s.svc.bridges ∧ (s.errorNoted i n src code l key last).net = s.net ∧
      (s.errorNoted i n src code l key last).cores = s.cores ∧ (s.errorNoted i n src code l key last).mem = s.mem := by
  unfold State.errorNoted State.keepLast State.bump State.bumpBy State.setCount
  simp

theorem State.noteUe_eq (s : State) (a : Nat) : s.noteUe a =
    s.errorNoted 0x2C00 4 (eccSource a) 0x0011 (eccWords a) (odKey 0x2C00 8) ((eccWords a).headD 0 + eccSource a * 2 ^ 32) := rfl

/-- Noting an error leaves the rest of the module alone. -/
theorem noteUe_leaves (s : State) (a : Nat) : (s.noteUe a).svc.bridges = s.svc.bridges ∧ (s.noteUe a).net = s.net ∧
    (s.noteUe a).cores = s.cores ∧ (s.noteUe a).mem = s.mem := by
  rw [State.noteUe_eq]
  exact errorNoted_leaves ..

theorem State.bump_svc (s : State) (i n : Nat) : (s.bump i n).svc = s.svc := rfl
theorem State.bump_rest (s : State) (i n : Nat) : (s.bump i n).net = s.net ∧ (s.bump i n).cores = s.cores ∧ (s.bump i n).mem = s.mem :=
  ⟨rfl, rfl, rfl⟩

theorem State.bridge_noteUe (s : State) (a b : Nat) : (s.noteUe a).bridge b = s.bridge b :=
  congrArg (fun l => Tab.get Bridge.reset l b) (noteUe_leaves s a).1

theorem State.bridge_bump (s : State) (i n b : Nat) : (s.bump i n).bridge b = s.bridge b :=
  congrArg (fun l : Service => Tab.get Bridge.reset l.bridges b) (s.bump_svc i n)

/-- Settles O52: no follower of a domain is the domain itself or follows twice, so each divider is written once in a step; what ends the
ramp touches the generators alone. -/
theorem rampsAndRetrains : Obligations.RampsAndRetrains := by
  unfold Obligations.RampsAndRetrains
  intro s dom b v n
  have hn : n = stepToward v.now v.target := rfl
  refine ⟨fun h => congrArg Host.Outcome.next (if_pos ?_), fun hdom hgoes hled => ?_, fun hb htr => ?_,
    fun h => congrArg Host.Outcome.next (if_pos ?_), fun h => congrArg Host.Outcome.next (if_pos h),
    fun h => congrArg Host.Outcome.next (if_neg (Nat.not_le.mpr h)), fun h => congrArg Host.Outcome.next (if_pos h),
    fun h => congrArg Host.Outcome.next (if_neg (by rw [h]; exact Bool.false_ne_true))⟩
  · rcases h with h | h | h
    · rw [h]
      rfl
    · have hr : s.ramping dom = false := by rw [State.ramping, bne_eq_false_iff_eq]; exact h
      simp [hr]
    · simp [h]
  · have hr : s.ramping dom = true := by rw [State.ramping, bne_iff_ne]; exact hgoes
    have hsame := s.stepDivider_same dom
    have hstep := onlyClocks_stepDivider s dom
    have hdue := onlyClocks_switchDue (s.stepDivider dom) dom
    obtain ⟨hends, hdivs⟩ := rampEnds_leaves ((s.stepDivider dom).switchDue dom)
    have hall := (hstep.trans hdue).trans hends
    refine ⟨((s.stepDivider dom).switchDue dom).rampEnds, congrArg Host.Outcome.next (if_neg (by rw [hdom, hr, hled]; exact Bool.false_ne_true)),
      fun h => ?_, fun hhold hmet => ?_, fun f r hf => ?_, fun d hd hfol => ?_, hall.time, hall.cores, hall.mem⟩
    · have hidle : (s.stepDivider dom).switchDue dom = s.stepDivider dom := by
        refine State.switchDue_idle _ _ ?_
        rw [hsame]
        exact h
      rw [hends.divider hdivs, hidle]
      exact hsame
    · rw [hends.divider hdivs, State.switchDue_met _ _ (by rw [hsame]; exact hhold) (by rw [hsame]; exact hmet), hsame, hstep.divSet, hn]
    · have hne : f ≠ dom := fun e => (List.nodup_cons.mp (s.followers_nodup dom)).1 (e ▸ List.mem_map_of_mem (f := Prod.fst) hf)
      rw [hends.divider hdivs, State.switchDue_ne _ _ hne]
      exact s.stepDivider_follower dom hf
    · rw [hends.divider hdivs, State.switchDue_ne _ _ hd]
      exact s.stepDivider_other dom hd hfol
  · obtain ⟨hcount, hcount'⟩ := count_replayed (s := s) (u := s.replayed b) rfl rfl rfl (2 ^ 38 + b)
    obtain ⟨w, hw⟩ := noteUe_flit ((s.replayed b).bump 0x2C00 9) b
    obtain ⟨-, hnet, hcores, hmem⟩ := noteUe_leaves ((s.replayed b).bump 0x2C00 9) (2 ^ 38 + b)
    obtain ⟨hnet', hcores', hmem'⟩ := State.bump_rest (s.replayed b) 0x2C00 9
    have hbridge (x : Nat) := (State.bridge_noteUe ((s.replayed b).bump 0x2C00 9) (2 ^ 38 + b) x).trans (State.bridge_bump ..)
    exact ⟨_, congrArg Host.Outcome.next (State.bridgeReplay_done hb htr), (hbridge b).trans (State.bridge_setBridge_same ..), hcount, hcount',
      ⟨w, hw⟩, fun x hx => (hbridge x).trans (State.bridge_setBridge_ne _ _ hx), hnet.trans hnet', hcores.trans hcores', hmem.trans hmem'⟩
  · rcases h with h | h <;> simp [h]

end Sys2Proof.Machine

end

section
/-! A loss of lock and the engine numbers past 49 (R65, R294). Refutes O51. -/

namespace Sys2Proof.Machine

/-! ## A number that names no engine of its core

A core has engines 0 to 49, and `eng 143 50` reads the place of engine 0 of core 144, which sits on the next die. -/

/-- Engine 0 of core 144, on die 1, has a test read in flight. -/
def testingOnDieOne : State :=
  { State.reset with engines := [(7200, { Engine.reset false with test := { TestState.reset with running := some (0, []) } })] }

/-- The loss of CPLL_0 leaves the test read of die 1 in flight. -/
theorem lockLoss_testingOnDieOne : ((testingOnDieOne.lockLoss 3).eng 143 50).test.running = some (0, []) := by
  rfl

/-- Refutes O51: for e = 50 the statement's engine 50 of core 143, on die 0, is engine 0 of core 144, on die 1, whose test read a loss of
CPLL_0 rightly leaves alone. -/
theorem not_generatorsLoseAndRegainLock : ¬ Obligations.GeneratorsLoseAndRegainLock := by
  unfold Obligations.GeneratorsLoseAndRegainLock
  intro h
  obtain ⟨-, -, hloss, -⟩ := h testingOnDieOne 3
  obtain ⟨t, ht, -, -, -, -, -, -, -, -, heng, -⟩ := hloss (by decide) (by decide)
  have hlost : testingOnDieOne.lockLoss 3 = t := Host.Outcome.next.inj ht
  have hnone := (heng 143 50).2.2 (by decide)
  rw [← hlost, lockLoss_testingOnDieOne] at hnone
  exact absurd hnone nofun

end Sys2Proof.Machine

end

section
/-! The watch state and a core that is dead (R301, R318). Refutes O53. -/

namespace Sys2Proof.Machine

/-! ## A dead core with a message on a link -/

/-- A SEND whose message has gone out. -/
def sentSend : Op := ⟨0, 0, 0, 0, 0, none, false, false, false, false, 0, .send 0 0 0 0 true false, none, [], [], [], []⟩

/-- The message, over port 0 and not yet answered. -/
def sentMsg : Msg := ⟨0, 0, 0, 0, 0, 0, 0, 0, 0, 0, (0, 0, 0), 0, [], some 0, []⟩

/-- Core 0 is dead, with its SEND in flight over port 0 and a stop pending; the PCIe host holds Engineer. -/
def deadSender : State :=
  { State.reset with
    pwr := { Power.reset with powerGood := true }
    fw := { Firmware.reset with serving := true }
    sessions := [(0, { Session.reset with level := 2 })]
    cores := [(0, { Core.reset with state := .dead, seq := { Seq.reset with ops := [sentSend], stopReq := some .stop } })]
    ports := [(0, { Port.reset with state := 2, flight := [sentMsg] })] }

/-- The loss of the link completes the SEND, and the pending stop takes effect. -/
theorem watch_deadSender : ((deadSender.hostWrite 0 0x2200 4 (toLE 1 1)).core 0).state = .halted := by
  rfl

/-- Refutes O53: entering the watch state loses the Flue links, and a dead core whose SEND waits on one completes it; with a stop pending it
then halts, and is neither off nor dead. -/
theorem not_powerStatesFollowCommands : ¬ Obligations.PowerStatesFollowCommands := by
  unfold Obligations.PowerStatesFollowCommands
  intro h
  obtain ⟨-, hwatch, -⟩ := h deadSender 0 0 0
  obtain ⟨t, ht, -, -, -, -, -, -, -, hcores, -⟩ := hwatch ⟨by decide, by decide, by decide⟩ (by decide)
  have hlost : deadSender.hostWrite 0 0x2200 4 (toLE 1 1) = t := Host.Outcome.next.inj ht
  have hstate := hcores 0
  rw [← hlost, watch_deadSender] at hstate
  exact hstate.elim nofun nofun

end Sys2Proof.Machine

end

section
/-! The optical rail and a commit that waits for its engine (R61, R180, R343). Refutes O55. -/

namespace Sys2Proof.Machine

/-! ## An MVM that the loss of a link sets going -/

/-- An MVM with a zero bound that has not fetched its inputs: it will make no read. -/
def idleMvm : Op := ⟨1, 0, 0, 0, 0, none, false, false, false, false, 0,
  .mvm ⟨0, 0, 0, 0, false, 0, 0, 0, none, [], [], [], [], false, false, false, 0, false, 0, 1, 0, 1, 0⟩, none, [], [], [], []⟩

/-- Core 0 runs, with a SEND over port 0 and the MVM behind it in flight; engine 0 has a commit pending. -/
def commitBehindSend : State :=
  { State.reset with
    engines := [(0, { Engine.reset false with regs := { EngRegs.reset false with corrCommit := true } })]
    cores := [(0, { Core.reset with state := .running, seq := { Seq.reset with ops := [sentSend, idleMvm] } })]
    ports := [(0, { Port.reset with state := 2, flight := [sentMsg] })] }

/-- The loss of the link completes the SEND; the MVM fetches, has its row at once, and the commit takes effect. -/
theorem optLoss_commitBehindSend : (commitBehindSend.optLoss.eng 0 0).regs.corrCommit = false := by
  rfl

/-- Refutes O55: with the loss of VDD_OPT the ops across the Flue links complete and what waits in their core goes on, so that a pending
commit of an engine can take effect, and the engines are not as before. -/
theorem not_railsAndTemperature : ¬ Obligations.RailsAndTemperature := by
  unfold Obligations.RailsAndTemperature
  intro h
  obtain ⟨-, -, -, -, -, -, -, -, -, ⟨t, ht, -, -, heng⟩, -⟩ := h commitBehindSend 0 .cool
  have hlost : commitBehindSend.optLoss = t := Host.Outcome.next.inj ht
  have hcommit := congrArg (fun l => (Tab.get (Engine.reset false) l 0).regs.corrCommit) heng
  rw [← hlost] at hcommit
  exact absurd (optLoss_commitBehindSend.symm.trans hcommit) nofun

end Sys2Proof.Machine

end

section
/-! The EtherCAT slave: what a dictionary read leaves, mailbox requests, the state machine and process data (R258-R263). Settles O48. -/

namespace Sys2Proof.Machine

/-! ## What a read leaves (R275) -/

/-- What no read of the dictionary touches: cores, engines, memory, time, the EtherCAT slave, and of the PCIe endpoint all but its interrupts. -/
structure ReadLeaves (s t : State) : Prop where
  cores : t.cores = s.cores
  engines : t.engines = s.engines
  mem : t.mem = s.mem
  time : t.time = s.time
  ecat : t.ecat = s.ecat
  pcie : t.pcie = { s.pcie with msix := t.pcie.msix }

theorem ReadLeaves.refl (s : State) : ReadLeaves s s := ⟨rfl, rfl, rfl, rfl, rfl, rfl⟩

theorem ReadLeaves.trans {s t u : State} (h : ReadLeaves s t) (k : ReadLeaves t u) : ReadLeaves s u :=
  ⟨k.cores.trans h.cores, k.engines.trans h.engines, k.mem.trans h.mem, k.time.trans h.time, k.ecat.trans h.ecat,
    k.pcie.trans (by rw [h.pcie])⟩

theorem OnlyLines.readLeaves {s t : State} (h : OnlyLines s t) : ReadLeaves s t :=
  ⟨h.cores, h.engines, h.mem, h.time, (congrArg State.ecat h.eq :), (congrArg State.pcie h.eq :)⟩

theorem readLeaves_setCause (s : State) (i : Nat) : ReadLeaves s (s.setCause i) := by
  have h := (onlyLines_setCause s i).readLeaves
  exact ⟨h.cores, h.engines, h.mem, h.time, h.ecat, h.pcie⟩

theorem readLeaves_hubPoison (s : State) (a n : Nat) : ReadLeaves s (s.hubPoison a n) := by
  unfold State.hubPoison
  split
  · exact readLeaves_setCause s 5
  · exact .refl s

theorem readLeaves_txWord (s : State) (n : Nat) : ReadLeaves s (s.txWord n).2 := by
  unfold State.txWord
  dsimp only
  split
  · exact .refl s
  · split
    · exact readLeaves_hubPoison s _ 4
    · exact ⟨rfl, rfl, rfl, rfl, rfl, rfl⟩

theorem readLeaves_odRead (s : State) (ses : Ses) (idx sub : Nat) : ReadLeaves s (s.odRead ses idx sub).2 := by
  unfold State.odRead
  split
  · exact .refl s
  · split
    · exact .refl s
    · split
      · exact ⟨rfl, rfl, rfl, rfl, rfl, rfl⟩
      · split
        · exact readLeaves_txWord s (sub - 1)
        · split
          · exact ⟨rfl, rfl, rfl, rfl, rfl, rfl⟩
          · split
            · exact ⟨rfl, rfl, rfl, rfl, rfl, rfl⟩
            · exact .refl s

/-! ## Process data (R262) -/

/-- One mapped entry captured. -/
def State.capture (s : State) (e : Nat × Nat) : State :=
  { (s.odRead 1 e.1 e.2).2 with
    ecat := { (s.odRead 1 e.1 e.2).2.ecat with snapshot := (s.odRead 1 e.1 e.2).2.ecat.snapshot ++ [fromLE (s.odRead 1 e.1 e.2).1.value] } }

theorem pdoSnapshot_eq (s : State) (hlink : s.ecatLink = true) (hal : 4 ≤ s.ecat.al) : s.pdoSnapshot =
    (s.assigned false).foldl State.capture { s with ecat := { s.ecat with gtcSnap := s.time.gtc, snapshot := [] } } := by
  unfold State.pdoSnapshot
  rw [if_neg (by simp [hlink, hal])]
  rfl

/-- Each entry adds one value to the snapshot, and touches neither the state machine nor cores and memory. -/
theorem capture_leaves (l : List (Nat × Nat)) (s : State) : let t := l.foldl State.capture s
    t.ecat.gtcSnap = s.ecat.gtcSnap ∧ t.ecat.al = s.ecat.al ∧ t.ecat.snapshot.length = s.ecat.snapshot.length + l.length ∧
      t.cores = s.cores ∧ t.mem = s.mem := by
  induction l generalizing s with
  | nil => exact ⟨rfl, rfl, rfl, rfl, rfl⟩
  | cons e l ih =>
    have h := readLeaves_odRead s 1 e.1 e.2
    obtain ⟨hsnap, hal, hlen, hcores, hmem⟩ := ih (s.capture e)
    refine ⟨hsnap.trans (congrArg Ecat.gtcSnap h.ecat :), hal.trans (congrArg Ecat.al h.ecat :), hlen.trans ?_, hcores.trans h.cores,
      hmem.trans h.mem⟩
    have hsnapshot : (s.capture e).ecat.snapshot.length = s.ecat.snapshot.length + 1 := by
      rw [← h.ecat]
      exact List.length_append
    rw [hsnapshot, List.length_cons]
    omega

/-! ## Requests by mailbox (R258) -/

/-- The slave as a request that is not unsupported finds it. -/
def State.mailed (s : State) : State := { s with ecat := { s.ecat with mailError := 0 } }

section
variable {s : State} {idx sub : Nat} (hr : s.reachable 1 = true)
include hr

theorem mailbox_requests : s.mailbox .unsupported = { s with ecat := { s.ecat with mailError := 2 } } ∧
    s.mailbox (.upload idx sub) = s.mailed.hostRead 1 idx sub ∧
    ∀ data, s.mailbox (.download idx sub data) = s.mailed.hostWrite 1 idx sub data := by
  simp [State.mailbox, hr, State.mailed]

variable (hs : s.serves = true)
include hs

theorem mailbox_information : s.mailbox .odList = s.mailed.giveReply 1 ⟨0, s.odIndices.flatMap (toLE 2)⟩ ∧
    s.mailbox (.objectDescription idx) = s.mailed.giveReply 1 (s.objectInfo idx) ∧
    s.mailbox (.entryDescription idx sub) = s.mailed.giveReply 1 (s.entryInfo idx sub) := by
  have hs' : ({ s with ecat := { s.ecat with mailError := 0 } } : State).serves = true := hs
  simp only [State.mailbox, hr, Bool.not_true, Bool.false_eq_true, if_false, hs', if_true]
  exact ⟨rfl, rfl, rfl⟩

theorem mailbox_complete : s.mailbox (.completeUpload idx sub) = (s.mailed.readComplete idx sub).2.giveReply 1 (s.mailed.readComplete idx sub).1 ∧
    ∀ vs, s.mailbox (.completeDownload idx sub vs) =
      (s.mailed.writeComplete idx sub vs).2.giveReply 1 ⟨(s.mailed.writeComplete idx sub vs).1, []⟩ := by
  have hs' : ({ s with ecat := { s.ecat with mailError := 0 } } : State).serves = true := hs
  simp only [State.mailbox, hr, Bool.not_true, Bool.false_eq_true, if_false, hs', if_true]
  exact ⟨rfl, fun vs => rfl⟩

end

/-- While nothing serves, every CoE request is answered so. -/
theorem mailbox_busy {s : State} (hr : s.reachable 1 = true) (hs : s.serves = false) (idx sub : Nat) :
    s.mailbox (.upload idx sub) = s.mailed.giveReply 1 ⟨0x08000020, []⟩ ∧
      s.mailbox (.completeUpload idx sub) = s.mailed.giveReply 1 ⟨0x08000020, []⟩ ∧
      s.mailbox .odList = s.mailed.giveReply 1 ⟨0x08000020, []⟩ ∧
      s.mailbox (.objectDescription idx) = s.mailed.giveReply 1 ⟨0x08000020, []⟩ ∧
      s.mailbox (.entryDescription idx sub) = s.mailed.giveReply 1 ⟨0x08000020, []⟩ := by
  have hr' : ({ s with ecat := { s.ecat with mailError := 0 } } : State).reachable 1 = true := hr
  have hs' : ({ s with ecat := { s.ecat with mailError := 0 } } : State).serves = false := hs
  simp only [State.mailbox, hr, Bool.not_true, Bool.false_eq_true, if_false, hs', State.hostRead, hr', State.readObject]
  exact ⟨rfl, rfl, rfl, rfl, rfl⟩

theorem readComplete_absent {s : State} {idx sub : Nat} (h : odExists s.part idx = false ∨ odZero idx ≠ none ∨ 2 ≤ sub) :
    s.readComplete idx sub = (⟨s.absentAbort idx, []⟩, s) := by
  refine if_pos ?_
  rcases h with h | h | h
  · simp [h]
  · simp [completeOk, Option.isSome_iff_ne_none.mpr h]
  · simp [completeOk, Nat.not_lt.mpr h]

theorem writeComplete_absent {s : State} {idx sub : Nat} (h : odExists s.part idx = false ∨ odZero idx ≠ none ∨ 2 ≤ sub) (vs : List (List Byte)) :
    s.writeComplete idx sub vs = (s.absentAbort idx, s) := by
  refine if_pos ?_
  rcases h with h | h | h
  · simp [h]
  · simp [completeOk, Option.isSome_iff_ne_none.mpr h]
  · simp [completeOk, Nat.not_lt.mpr h]

/-! ## Received values -/

theorem rxpdoApply_one {s : State} (hl : s.ecatLink = true) (hal : s.ecat.al = 8) {e : Nat × Nat} (h : s.assigned true = [e]) (v : Nat) :
    s.rxpdoApply [v] = s.rxApply e.1 e.2 v := by
  unfold State.rxpdoApply
  rw [if_neg (by simp [hl, hal]), h]
  rfl

/-- Two codes are applied by channel, the lower first. -/
theorem rxpdoApply_two {s : State} (hl : s.ecatLink = true) (hal : s.ecat.al = 8) {i x y : Nat} (h : s.assigned true = [(i, y), (i, x)])
    (hxy : x < y) (w v : Nat) : s.rxpdoApply [w, v] = (s.rxApply i x v).rxApply i y w := by
  unfold State.rxpdoApply
  rw [if_neg (by simp [hl, hal]), h]
  simp [insertEntry, hxy]

/-- Settles O48: a read leaves the slave alone, so each captured entry adds one value; the rest are the cases of a request. -/
theorem ethercatServes : Obligations.EthercatServes := by
  unfold Obligations.EthercatServes
  intro s idx sub v w x y al data m
  have hpart : odExists s.mailed.part idx = odExists s.part idx := rfl
  have habsent : s.mailed.absentAbort idx = s.absentAbort idx := rfl
  refine ⟨fun hr r => congrArg Host.Outcome.next (if_pos (by simp [hr])), fun hr => ?_, fun hr hs => ?_, fun hr hs hno vs => ?_,
    fun hr hs hod => ⟨fun hz hsub hsubs => ?_, fun hz hsub vs => ?_, fun hz vs => ?_, fun r hrow => ?_⟩, fun hr hs r h => ?_, fun hl hal hne => ?_,
    fun hl => ?_, fun hl hal => ?_, fun hl => ?_, fun hl hal => ?_, fun hal => ?_, fun hal l => ?_, fun hl hal has => ?_, fun hl hal has => ?_,
    fun hl hal has hxy => ?_⟩
  · obtain ⟨hbad, hup, hdown⟩ := mailbox_requests (idx := idx) (sub := sub) hr
    exact ⟨congrArg Host.Outcome.next hbad, congrArg Host.Outcome.next hup, congrArg Host.Outcome.next (hdown data)⟩
  · exact congrArg Host.Outcome.next (mailbox_information (idx := idx) (sub := sub) hr hs).1
  · obtain ⟨-, hobj, hentry⟩ := mailbox_information (idx := idx) (sub := sub) hr hs
    obtain ⟨hup, hdown⟩ := mailbox_complete (idx := idx) (sub := sub) hr hs
    have ha : s.absentAbort idx = 0x06020000 := by simp [State.absentAbort, hno]
    rw [readComplete_absent (.inl (hpart.trans hno)), habsent, ha] at hup
    refine ⟨congrArg Host.Outcome.next hup, congrArg Host.Outcome.next ((hdown vs).trans ?_), congrArg Host.Outcome.next (hobj.trans ?_),
      fun hrow => congrArg Host.Outcome.next (hentry.trans ?_)⟩
    · rw [writeComplete_absent (.inl (hpart.trans hno)), habsent, ha]
      rfl
    · rw [State.objectInfo, hno]
      rfl
    · rw [State.entryInfo, hrow, ha]
      rfl
  · refine congrArg Host.Outcome.next ((mailbox_complete hr hs).1.trans ?_)
    have h : s.mailed.readComplete idx sub = s.mailed.readMany 1 idx (s.subsFrom idx sub) := by
      refine if_neg ?_
      have hsubs' : s.mailed.subsFrom idx sub ≠ [] := hsubs
      simp [completeOk, hz, hsub, hsubs', hpart, hod]
    rw [h]
    rfl
  · refine congrArg Host.Outcome.next (((mailbox_complete hr hs).2 vs).trans ?_)
    have h : s.mailed.writeComplete idx sub vs = s.mailed.writeMany 1 idx sub vs := by
      unfold State.writeComplete
      rw [if_neg (by simp [completeOk, hz, hsub, hpart, hod]), if_neg (by omega)]
    rw [h]
    rfl
  · obtain ⟨hup, hdown⟩ := mailbox_complete (idx := idx) (sub := sub) hr hs
    have ha : s.absentAbort idx = 0x06090011 := by simp [State.absentAbort, hod]
    rw [readComplete_absent (.inr hz), habsent, ha] at hup
    refine ⟨congrArg Host.Outcome.next hup, congrArg Host.Outcome.next ((hdown vs).trans ?_)⟩
    rw [writeComplete_absent (.inr hz), habsent, ha]
    rfl
  · refine congrArg Host.Outcome.next ((mailbox_information (idx := idx) hr hs).2.2.trans ?_)
    rw [State.entryInfo, hrow]
    rfl
  · obtain ⟨h1, h2, h3, h4, h5⟩ := mailbox_busy hr hs idx sub
    refine congrArg Host.Outcome.next ?_
    rcases h with rfl | rfl | rfl | rfl | rfl
    exacts [h1, h2, h3, h4, h5]
  · refine congrArg Host.Outcome.next ?_
    unfold State.alRequest
    simp [hl, Nat.not_lt.mpr hal, hne]
  · refine congrArg Host.Outcome.next ?_
    unfold State.alRequest
    simp [hl, alOrder]
  · refine ⟨_, congrArg Host.Outcome.next ((if_neg (by simp [hl])).trans (if_pos hal)), rfl, rfl, rfl, rfl⟩
  · exact ⟨congrArg Host.Outcome.next (if_pos (by simp [hl])), congrArg Host.Outcome.next (if_pos (by simp [hl])),
      fun l => congrArg Host.Outcome.next (if_pos (by simp [hl]))⟩
  · obtain ⟨hgtc, hal', hlen, hcores, hmem⟩ :=
      capture_leaves (s.assigned false) { s with ecat := { s.ecat with gtcSnap := s.time.gtc, snapshot := [] } }
    exact ⟨_, congrArg Host.Outcome.next (pdoSnapshot_eq s hl hal), hgtc, hal', hlen.trans (Nat.zero_add _), hcores, hmem⟩
  · exact congrArg Host.Outcome.next (if_pos (by simp [hal]))
  · exact congrArg Host.Outcome.next (if_pos (by simp [hal]))
  · exact congrArg Host.Outcome.next (rxpdoApply_one hl hal has v)
  · exact congrArg Host.Outcome.next (rxpdoApply_one hl hal has v)
  · exact congrArg Host.Outcome.next (rxpdoApply_two hl hal has hxy w v)

end Sys2Proof.Machine

end

section
/-! The PCIe endpoint: BAR0, BAR2, the long-object window and DMA (R264-R267, R303). Settles O47. -/

namespace Sys2Proof.Machine

/-! ## Slots of BAR0 -/

theorem slot_fields {idx sub byte : Nat} (hsub : sub < 256) (hbyte : byte < 16) : (idx * 0x1000 + sub * 16 + byte) / 0x1000 = idx ∧
    (idx * 0x1000 + sub * 16 + byte) % 0x1000 / 16 = sub ∧ (idx * 0x1000 + sub * 16 + byte) % 16 = byte := by
  refine ⟨by omega, by omega, by omega⟩

section
variable {s : State} {idx sub byte width : Nat} (hr : s.reachable 0 = true) (hsub : sub < 256) (hbyte : byte < 16)
include hr hsub hbyte

theorem bar0_write (v : Nat) : exec (.bar0Access true (idx * 0x1000 + sub * 16 + byte) width v) s = .next (s.bar0Write idx sub byte width v) := by
  obtain ⟨hi, hs, hb⟩ := slot_fields (idx := idx) hsub hbyte
  refine congrArg Host.Outcome.next ?_
  unfold State.bar0
  rw [hr, hi, hs, hb]
  rfl

theorem bar0_read (v : Nat) : exec (.bar0Access false (idx * 0x1000 + sub * 16 + byte) width v) s = .next (s.bar0Read idx sub byte width) := by
  obtain ⟨hi, hs, hb⟩ := slot_fields (idx := idx) hsub hbyte
  refine congrArg Host.Outcome.next ?_
  unfold State.bar0
  rw [hr, hi, hs, hb]
  rfl

end

/-- The length of a BAR0 read is not the object's. -/
def State.badLength (s : State) (idx sub byte width : Nat) : Bool :=
  match s.row idx sub with | some r => r.acc != Access.wo && (r.isLong || byte % width != 0) | none => false

/-- The object is write-only. -/
def State.writeOnly (s : State) (idx sub : Nat) : Bool := match s.row idx sub with | some r => r.acc == .wo | none => false

/-- A BAR0 read that returns zero. -/
def State.bar0Refused (s : State) (idx sub width abort : Nat) : State :=
  ((s.giveReply 0 ⟨abort, []⟩).badAccess idx sub abort).pcieData (some (List.replicate width 0))

/-- What a BAR0 read's answer leaves. -/
def State.bar0Answer (idx sub byte width : Nat) (r : Reply × State) : State :=
  if r.1.abort ≠ 0 then ((r.2.giveReply 0 r.1).badAccess idx sub r.1.abort).pcieData (some (List.replicate width 0))
  else (r.2.giveReply 0 r.1).pcieData (some (fit width 0 (r.1.value.drop byte)))

theorem bar0Read_eq (s : State) (idx sub byte width : Nat) : s.bar0Read idx sub byte width =
    if !s.serves then s.pcieData (some (s.deadRead byte width))
    else State.bar0Answer idx sub byte width (if s.badLength idx sub byte width then (⟨0x06070010, []⟩, s) else s.readObject 0 idx sub) := rfl

section
variable {s : State} {idx sub byte width : Nat} (hs : s.serves = true)
include hs

theorem bar0Read_value (hbad : s.badLength idx sub byte width = false) (h : (s.readObject 0 idx sub).1.abort = 0) : s.bar0Read idx sub byte width =
    ((s.readObject 0 idx sub).2.giveReply 0 (s.readObject 0 idx sub).1).pcieData (some (fit width 0 ((s.readObject 0 idx sub).1.value.drop byte))) := by
  rw [bar0Read_eq, hs, hbad]
  exact if_neg (not_not.mpr h)

theorem bar0Read_badLength (hbad : s.badLength idx sub byte width = true) : s.bar0Read idx sub byte width = s.bar0Refused idx sub width 0x06070010 := by
  rw [bar0Read_eq, hs, hbad]
  rfl

theorem bar0Read_refused (hbad : s.badLength idx sub byte width = false) {abort : Nat} (h : s.odRead 0 idx sub = (⟨abort, []⟩, s))
    (ha : abort ≠ 0) : s.bar0Read idx sub byte width = s.bar0Refused idx sub width abort := by
  have hr : s.readObject 0 idx sub = (⟨abort, []⟩, s) := by unfold State.readObject; rw [hs]; exact h
  rw [bar0Read_eq, hs, hbad, hr]
  exact if_pos ha

end

theorem bar0Read_dead {s : State} (hs : s.serves = false) (idx sub byte width : Nat) :
    s.bar0Read idx sub byte width = s.pcieData (some (s.deadRead byte width)) := by rw [bar0Read_eq, hs]; rfl

section
variable {s : State} {idx sub : Nat}

theorem odRead_absent (hrow : s.row idx sub = none) (hex : odExists s.part idx = false) (ses : Ses) : s.odRead ses idx sub = (⟨0x06020000, []⟩, s) := by
  unfold State.odRead
  rw [hrow, hex]
  rfl

theorem odRead_writeOnly {r : OdRow} (hrow : s.row idx sub = some r) (hwo : r.acc = .wo) (ses : Ses) : s.odRead ses idx sub = (⟨0x06010001, []⟩, s) := by
  unfold State.odRead
  simp only [hrow, hwo, if_true]

theorem badLength_absent (hrow : s.row idx sub = none) (byte width : Nat) : s.badLength idx sub byte width = false := by
  unfold State.badLength; rw [hrow]

theorem badLength_row {r : OdRow} (hrow : s.row idx sub = some r) (byte width : Nat) :
    s.badLength idx sub byte width = (r.acc != Access.wo && (r.isLong || byte % width != 0)) := by unfold State.badLength; rw [hrow]

theorem longObject_row {r : OdRow} (hrow : s.row idx sub = some r) : s.longObject idx sub = r.isLong := by unfold State.longObject; rw [hrow]

theorem badLength_aligned {byte width : Nat} (hlong : s.longObject idx sub = false) (hb : byte % width = 0) : s.badLength idx sub byte width = false := by
  cases hrow : s.row idx sub with
  | none => exact badLength_absent hrow byte width
  | some r =>
    rw [longObject_row hrow] at hlong
    rw [badLength_row hrow, hlong, hb]
    simp

theorem badLength_long {byte width : Nat} (hlong : s.longObject idx sub = true) (hwo : s.writeOnly idx sub = false) : s.badLength idx sub byte width = true := by
  unfold State.longObject at hlong
  unfold State.writeOnly at hwo
  cases hrow : s.row idx sub with
  | none => rw [hrow] at hlong; cases hlong
  | some r =>
    rw [hrow] at hlong hwo
    rw [badLength_row hrow, show r.isLong = true from hlong, show (r.acc != Access.wo) = true by simpa using hwo]
    rfl

theorem badLength_writeOnly {r : OdRow} (hrow : s.row idx sub = some r) (hwo : r.acc = .wo) (byte width : Nat) : s.badLength idx sub byte width = false := by
  rw [badLength_row hrow, hwo]
  rfl

theorem row_of_writeOnly (h : s.writeOnly idx sub = true) : ∃ r, s.row idx sub = some r ∧ r.acc = .wo := by
  unfold State.writeOnly at h
  cases hrow : s.row idx sub with
  | none => rw [hrow] at h; cases h
  | some r => rw [hrow] at h; exact ⟨r, rfl, by simpa using h⟩

end

/-! ## The long-object window (R266) -/

/-- LONG_SEL as a read or a write leaves it. -/
def State.selected (s : State) (idx sub : Nat) : State := { s with pcie := { s.pcie with longSel := idx % 65536 + sub * 65536 } }

theorem longSelect_eq {sub : Nat} (hsub : sub < 256) (s : State) (idx : Nat) : s.longSelect idx sub = s.selected idx sub := by
  unfold State.longSelect
  rw [Nat.mod_eq_of_lt hsub]
  rfl

/-- LONG_DATA as a write leaves it. -/
def State.longPut (s : State) (idx sub : Nat) (data : List Byte) : State :=
  { s.selected idx sub with pcie := { (s.selected idx sub).pcie with longData := data, longLen := data.length } }

/-- An object read into LONG_DATA. -/
def State.longTaken (s : State) (v : List Byte) : State := { s with pcie := { s.pcie with longData := v, longLen := v.length } }

/-- What the answer to a read of the window leaves. -/
def State.longAnswer (idx sub : Nat) (r : Reply × State) : State :=
  if r.1.abort ≠ 0 then (r.2.giveReply 0 r.1).latchAbort idx sub r.1.abort else (r.2.giveReply 0 r.1).longTaken r.1.value

/-- What the answer to a write of the window leaves. -/
def State.longWritten (idx sub : Nat) (w : Nat × State) : State :=
  if w.1 ≠ 0 then (w.2.giveReply 0 ⟨w.1, []⟩).latchAbort idx sub w.1 else w.2.giveReply 0 ⟨w.1, []⟩

theorem longReadNow_eq (s : State) (idx sub : Nat) : s.longReadNow idx sub =
    if !s.reachable 0 then s else if !s.serves then (s.longSelect idx sub).longDead
    else State.longAnswer idx sub ((s.longSelect idx sub).readObject 0 idx sub) := rfl

theorem longWriteNow_eq {sub : Nat} (hsub : sub < 256) (s : State) (idx : Nat) (data : List Byte) : s.longWriteNow idx sub data =
    if !s.reachable 0 then s else if !s.serves then (s.longPut idx sub data).crossingDrop
    else State.longWritten idx sub ((s.longPut idx sub data).writeObject 0 idx sub data) := by
  have h : s.longWriteNow idx sub data = if !s.reachable 0 then s
      else if !s.serves then ((s.longSelect idx sub).longTaken data).crossingDrop
      else State.longWritten idx sub (((s.longSelect idx sub).longTaken data).writeObject 0 idx sub data) := rfl
  rw [h, longSelect_eq hsub]
  rfl

section
variable {s : State} {idx sub : Nat} (hr : s.reachable 0 = true) (hsub : sub < 256)
include hr hsub

theorem longRead_value (hs : s.serves = true) (h : ((s.selected idx sub).readObject 0 idx sub).1.abort = 0) : s.longReadNow idx sub =
    (((s.selected idx sub).readObject 0 idx sub).2.giveReply 0 ((s.selected idx sub).readObject 0 idx sub).1).longTaken
      ((s.selected idx sub).readObject 0 idx sub).1.value := by
  rw [longReadNow_eq, hr, hs, longSelect_eq hsub]
  exact if_neg (not_not.mpr h)

theorem longRead_refused (hs : s.serves = true) (h : ((s.selected idx sub).readObject 0 idx sub).1.abort ≠ 0) : s.longReadNow idx sub =
    (((s.selected idx sub).readObject 0 idx sub).2.giveReply 0 ((s.selected idx sub).readObject 0 idx sub).1).latchAbort idx sub
      ((s.selected idx sub).readObject 0 idx sub).1.abort := by
  rw [longReadNow_eq, hr, hs, longSelect_eq hsub]
  exact if_pos h

theorem longRead_dead (hs : s.serves = false) : s.longReadNow idx sub = (s.selected idx sub).longDead := by
  rw [longReadNow_eq, hr, hs, longSelect_eq hsub]
  rfl

theorem longWrite_served (hs : s.serves = true) (data : List Byte) : s.longWriteNow idx sub data =
    State.longWritten idx sub ((s.longPut idx sub data).writeObject 0 idx sub data) := by rw [longWriteNow_eq hsub, hr, hs]; rfl

theorem longWrite_dead (hs : s.serves = false) (data : List Byte) : s.longWriteNow idx sub data = (s.longPut idx sub data).crossingDrop := by
  rw [longWriteNow_eq hsub, hr, hs]; rfl

end

/-- Reads do not touch LONG_SEL. -/
theorem longSel_readObject (s : State) (ses : Ses) (idx sub : Nat) : (s.readObject ses idx sub).2.pcie.longSel = s.pcie.longSel := by
  unfold State.readObject
  split
  · rw [(readLeaves_odRead s ses idx sub).pcie]
  · rfl

/-! ## DMA (R267) -/

/-- The endpoint with other DMA channels. -/
def State.withDma (s : State) (d : Tab DmaChan) : State := { s with pcie := { s.pcie with dma := d } }

/-- An arbitration changes the channels' counts of lost ones. -/
theorem dmaWon_withDma (s : State) (k : Nat) : ∃ d, s.dmaWon k = s.withDma d := by
  unfold State.dmaWon
  have h (l : List Nat) (s : State) : ∃ d, l.foldl (fun s j =>
      if j = k then s.setDma j { s.dma j with losses := 0 }
      else if s.dmaWaits j then s.setDma j { s.dma j with losses := (s.dma j).losses + 1 }
      else s) s = s.withDma d := by
    induction l generalizing s with
    | nil => exact ⟨s.pcie.dma, rfl⟩
    | cons j l ih =>
      rw [List.foldl_cons]
      split
      · obtain ⟨d, hd⟩ := ih (s.setDma j { s.dma j with losses := 0 })
        exact ⟨d, hd⟩
      · split
        · obtain ⟨d, hd⟩ := ih (s.setDma j { s.dma j with losses := (s.dma j).losses + 1 })
          exact ⟨d, hd⟩
        · exact ih s
  exact h _ s

section
variable {s : State} {k : Nat} {desc host : List Byte} {e : Bool} (hr : s.reachable 0 = true) (hwaits : (s.dma k).head ≠ (s.dma k).tail)
  (hheld : s.dmaHeld k = false)
include hr hwaits hheld

theorem dmaRun_frozen (hf : (s.master 0).frozen = true) : s.dmaRun k desc host e = if descToHost desc then s else
    s.dmaHold k ⟨descAddr desc, true, descLen desc, fit (descLen desc) 0 host, 0, none, none, some (k, descIrq desc, e)⟩ := by
  unfold State.dmaRun
  simp [hr, State.dmaWaits, hwaits, hheld, hf]

variable (hf : (s.master 0).frozen = false) (hturn : s.dmaTurn = some k)
include hf hturn

theorem dmaRun_denied (hmay : s.masterMay 0 (descAddr desc) (descLen desc) (!descToHost desc) = false) : s.dmaRun k desc host e =
    ((s.dmaWon k).freezeMaster 0 (descAddr desc) (!descToHost desc)).dmaDone k 2 (descIrq desc) := by
  obtain ⟨d, hd⟩ := dmaWon_withDma s k
  have hmay' : (s.dmaWon k).masterMay 0 (descAddr desc) (descLen desc) (!descToHost desc) = false := by rw [hd]; exact hmay
  unfold State.dmaRun
  simp [hr, State.dmaWaits, hwaits, hheld, hf, hturn, hmay']

variable (hmay : s.masterMay 0 (descAddr desc) (descLen desc) (!descToHost desc) = true)
include hmay

theorem dmaRun_granted : s.dmaRun k desc host e =
    if !descToHost desc then (s.dmaWon k).dmaIn k (descAddr desc) (fit (descLen desc) 0 host) e (descIrq desc)
    else if e then (s.dmaWon k).dmaDone k 4 (descIrq desc)
    else if s.poisoned (descAddr desc) (descLen desc) || s.closedPart (descAddr desc) (descLen desc) then
      ((s.dmaWon k).hubPoison (descAddr desc) (descLen desc)).dmaDone k 3 (descIrq desc)
    else ((s.dmaWon k).pcieData (some ((s.dmaWon k).sysBytes (descAddr desc) (descLen desc)))).dmaDone k 1 (descIrq desc) := by
  obtain ⟨d, hd⟩ := dmaWon_withDma s k
  have hmay' : (s.dmaWon k).masterMay 0 (descAddr desc) (descLen desc) (!descToHost desc) = true := by rw [hd]; exact hmay
  have hp : (s.dmaWon k).poisoned (descAddr desc) (descLen desc) = s.poisoned (descAddr desc) (descLen desc) := by rw [hd]; rfl
  have hc : (s.dmaWon k).closedPart (descAddr desc) (descLen desc) = s.closedPart (descAddr desc) (descLen desc) := by rw [hd]; rfl
  unfold State.dmaRun
  simp [hr, State.dmaWaits, hwaits, hheld, hf, hturn, hmay', hp, hc]

end

/-- A descriptor that moves nothing. -/
theorem dmaRun_idle {s : State} {k : Nat} (h : (s.dma k).head = (s.dma k).tail ∨ s.dmaHeld k = true ∨ ((s.master 0).frozen = false ∧ s.dmaTurn ≠ some k))
    (desc host : List Byte) (e : Bool) : s.dmaRun k desc host e = s := by
  unfold State.dmaRun
  dsimp only
  obtain h | h | ⟨hf, ht⟩ := h
  · rw [if_pos (by simp [State.dmaWaits, h])]
  · rw [if_pos (by simp [h])]
  · split
    · rfl
    · simp [hf]

/-- A descriptor's end, its interrupt apart. -/
theorem dmaDone_eq (s : State) (k st : Nat) (irq : Bool) : s.dmaDone k st irq =
    if irq then (s.setDma k { s.dma k with status := st, head := ((s.dma k).head + 1) % (s.dma k).size }).msix (3 + k)
    else s.setDma k { s.dma k with status := st, head := ((s.dma k).head + 1) % (s.dma k).size } := rfl

theorem masterWrite_granted {s : State} {m a : Nat} {data : List Byte} (hf : (s.master m).frozen = false)
    (hmay : s.masterMay m a data.length true = true) (ses : Ses) : s.masterWrite m ses a data = s.sysWriteAll (s.isEngineer ses) a data := by
  unfold State.masterWrite
  dsimp only
  rw [if_neg (by simp [hf]), if_pos hmay]

theorem dmaStart_ring {s : State} {size v : Nat} (hr : s.reachable 0 = true) (hsize : ringSizes.contains size = true) (hv : v < size) (k base : Nat) :
    s.dmaStart k base size v = s.setDma k { s.dma k with base := base / 32 * 32, size := size, tail := v } := by
  unfold State.dmaStart
  rw [hr, hsize]
  exact congrArg (fun x => s.setDma k { s.dma k with base := base / 32 * 32, size := size, tail := x }) (if_pos hv)

/-! ## BAR2 -/

section
variable {s : State} {a len : Nat} {data : List Byte} (hr : s.reachable 0 = true)
include hr

theorem bar2_write : s.bar2 true a len data = s.masterWrite 0 0 a data := by
  unfold State.bar2; rw [hr]; rfl

theorem bar2_frozen (hf : (s.master 0).frozen = true) : s.bar2 false a len data = s.pcieData none := by
  unfold State.bar2; rw [hr, hf]; rfl

theorem bar2_read (hf : (s.master 0).frozen = false) (hmay : s.masterMay 0 a len false = true) :
    s.bar2 false a len data = s.pcieData (some (s.sysBytes a len)) := by
  unfold State.bar2; rw [hr, hf, hmay]; rfl

theorem bar2_denied (hf : (s.master 0).frozen = false) (hmay : s.masterMay 0 a len false = false) :
    s.bar2 false a len data = (s.freezeMaster 0 a false).pcieData none := by
  unfold State.bar2; rw [hr, hf, hmay]; rfl

end

/-- A master is frozen by an access it may not make. -/
theorem freezeMaster_leaves (s : State) (m a : Nat) (w : Bool) : ((s.freezeMaster m a w).master m).frozen = true ∧
    bit (s.freezeMaster m a w).pcie.msix 2 = true ∧ (s.freezeMaster m a w).mem = s.mem ∧ (s.freezeMaster m a w).cores = s.cores := by
  refine ⟨?_, bit_setBit_same _ 2 true, rfl, rfl⟩
  unfold State.freezeMaster State.master
  dsimp only
  rw [State.msix_masters, State.record_masters]
  unfold State.modMaster
  rw [Tab.get_set_same]

/-- Settles O47: the cases of an access by BAR0, BAR2, the long-object window and a DMA channel. -/
theorem pcieAccesses : Obligations.PcieAccesses := by
  unfold Obligations.PcieAccesses
  intro s idx sub byte width v a len k data desc host hr hsub hbyte hwidth off long wo r sel put w d turn g no done
  have next {t u : State} (h : t = u) : (.next t : Out) = .next u := congrArg Host.Outcome.next h
  have bar0 (v : Nat) {t : State} (h : s.bar0Read idx sub byte width = t) : exec (.bar0Access false off width v) s = .next t :=
    (bar0_read hr hsub hbyte v).trans (next h)
  refine ⟨?_, ?_, ?_, ?_, ?_, ?_, ?_, ?_, ?_, ?_, ?_, ?_, ?_, ?_, ?_, ?_, ?_, ?_, ?_, ?_, ?_, ?_⟩
  · intro hb hlong
    refine (bar0_write hr hsub hbyte v).trans (next ?_)
    have hl : s.longObject idx sub = false := hlong
    unfold State.bar0Write State.hostWrite
    rw [hl, hb]
    rfl
  · intro hs
    refine (bar0_write hr hsub hbyte v).trans (next ?_)
    unfold State.bar0Write State.writeBy
    rw [hr, hs]
    rfl
  · exact fun hs hb hlong h => bar0 v (bar0Read_value hs (badLength_aligned hlong hb) h)
  · exact fun hs hwo hlong => bar0 v (bar0Read_badLength hs (badLength_long hlong hwo))
  · intro hs hwo
    obtain ⟨row, hrow, hacc⟩ := row_of_writeOnly (s := s) (idx := idx) (sub := sub) hwo
    exact bar0 v (bar0Read_refused hs (badLength_writeOnly hrow hacc byte width) (odRead_writeOnly hrow hacc 0) (by decide))
  · exact fun hs hrow hex => bar0 v (bar0Read_refused hs (badLength_absent hrow byte width) (odRead_absent hrow hex 0) (by decide))
  · intro hsw hs
    refine bar0 v ((bar0Read_dead hs idx sub byte width).trans (congrArg (fun x => s.pcieData (some x)) ?_))
    unfold State.deadRead
    rw [if_pos (by simp [Option.isSome_iff_ne_none.mpr hsw])]
  · intro hsw hc
    have hs : s.serves = false := by unfold State.serves; rw [hc]; simp
    refine bar0 v ((bar0Read_dead hs idx sub byte width).trans (congrArg (fun x => s.pcieData (some x)) ?_))
    unfold State.deadRead
    rw [if_neg (by simp [hsw, hc])]
  · exact next (bar2_write hr)
  · exact fun hf => next (bar2_frozen hr hf)
  · exact fun hf hmay => next (bar2_read hr hf hmay)
  · intro hf hmay
    obtain ⟨hfrozen, hmsix, hmem, hcores⟩ := freezeMaster_leaves s 0 a false
    exact ⟨_, next (bar2_denied hr hf hmay), hfrozen, rfl, hmsix, hmem, hcores⟩
  · refine next ?_
    unfold State.readAbort
    exact if_pos hr
  · intro hs h
    exact ⟨_, next (longRead_value hr hsub hs h), rfl, rfl, longSel_readObject sel 0 idx sub⟩
  · exact fun hs h => next (longRead_refused hr hsub hs h)
  · intro hs
    refine next ((longWrite_served hr hsub hs data).trans ?_)
    show State.longWritten idx sub w = _
    unfold State.longWritten
    by_cases h : w.1 = 0
    · rw [if_pos h, if_neg (not_not.mpr h), h]
    · rw [if_neg h, if_pos h]
  · intro hs
    refine ⟨next (longWrite_dead hr hsub hs data), fun h => next ((longRead_dead hr hsub hs).trans ?_), fun hsw hc => next ((longRead_dead hr hsub hs).trans ?_)⟩
    · unfold State.longDead
      exact if_pos (by simpa [State.selected, Option.isSome_iff_ne_none] using h)
    · unfold State.longDead
      exact if_neg (by simp [State.selected, hsw, hc])
  · exact fun base size hsize hv => next (dmaStart_ring hr hsize hv k base)
  · exact fun h e => next (dmaRun_idle h desc host e)
  · intro hwaits hheld hf e held
    have h := dmaRun_frozen (desc := desc) (host := host) (e := e) hr hwaits hheld hf
    refine ⟨fun hout => next (h.trans (if_pos hout)), fun hout hl => next (h.trans ?_), fun hout hl => next (h.trans ?_)⟩
    · rw [if_neg (by simp [hout])]
      exact if_pos hl
    · rw [if_neg (by simp [hout])]
      exact if_neg (Nat.not_lt.mpr hl)
  · rintro ⟨hwaits, hheld, hf, hturn⟩ hmay e
    exact next (dmaRun_denied hr hwaits hheld hf hturn hmay)
  · rintro ⟨hwaits, hheld, hf, hturn⟩ hmay
    have h (e : Bool) := dmaRun_granted (host := host) (e := e) hr hwaits hheld hf hturn hmay
    refine ⟨next ((h true).trans ?_), fun hout hp => next ((h false).trans ?_), fun hout hp hc => next ((h false).trans ?_), fun hout => next ((h false).trans ?_)⟩
    · cases hout : descToHost desc <;> rfl
    · rw [if_neg (by simp [hout]), if_neg Bool.false_ne_true]
      exact if_pos (by simpa using hp)
    · rw [if_neg (by simp [hout]), if_neg Bool.false_ne_true]
      exact if_neg (by simp [hp, hc])
    · rw [if_pos (by simp [hout])]
      obtain ⟨dma, hd⟩ := dmaWon_withDma s k
      have hfg : ((s.dmaWon k).master 0).frozen = false := by rw [hd]; exact hf
      have hmg : (s.dmaWon k).masterMay 0 (descAddr desc) (fit (descLen desc) 0 host).length true = true := by
        rw [hd, length_fit]
        rw [hout] at hmay
        exact hmay
      exact congrArg (fun x => State.dmaDone x k 1 (descIrq desc)) (masterWrite_granted hfg hmg 0).symm

end Sys2Proof.Machine

end

section
/-! The UDP protocol: how a request is answered, dropped, replayed or held (R268, R269, R278). Settles O46. -/

namespace Sys2Proof.Machine

/-- The session once a request of it has passed its checks (R269). -/
def State.taken (s : State) (n : Nat) (h : UdpHdr) : State :=
  s.modSession (2 + n) (fun k => { k with maxSeq := some h.seq, lastRequest := s.time.up })

/-- What the outcome of a request leaves: its answer goes out, or none does. -/
def State.outcome (n : Nat) (h : UdpHdr) (q : UdpReq) (r : Option Reply × State) : State :=
  match r.1 with | some x => r.2.udpAnswer h.port n h.seq q x | none => r.2

section
variable {s : State} {n : Nat} {h : UdpHdr} {q : UdpReq} {act : State → Option Reply × State}

theorem udpRequest_down (hport : s.portServes h.port = false) : s.udpRequest n h q act = s := by
  unfold State.udpRequest
  simp [hport]

/-- A request of no session, or whose tag is wrong, is dropped. -/
theorem udpRequest_dropped (hport : s.portServes h.port = true)
    (hbad : (s.session (2 + n)).open_ = false ∨ ¬ ((s.session (2 + n)).level = 0 ∨ h.tag = tagOf (s.session (2 + n)).key (q.bytes n h.seq))) :
    s.udpRequest n h q act = s.udpDrop h.port := by
  unfold State.udpRequest
  dsimp only
  rw [if_neg (by simp [hport])]
  obtain hopen | htag := hbad
  · rw [if_pos (by simp [hopen])]
  · obtain ⟨hlevel, htag⟩ := not_or.mp htag
    split
    · rfl
    · rw [if_pos ⟨Nat.pos_of_ne_zero hlevel, htag⟩]

variable (hport : s.portServes h.port = true) (hopen : (s.session (2 + n)).open_ = true) (hlen : q.payload.length ≤ 1024)
  (htag : (s.session (2 + n)).level = 0 ∨ h.tag = tagOf (s.session (2 + n)).key (q.bytes n h.seq))
include hport hopen hlen htag

/-- A repeated SEQ is answered from the store. -/
theorem udpRequest_replayed {e : Nat × List Byte} (hkept : (s.session (2 + n)).kept.find? (fun e => e.1 == h.seq) = some e) :
    s.udpRequest n h q act = (s.modSession (2 + n) (fun k => { k with lastRequest := s.time.up })).sendUdp h.port e.2 := by
  unfold State.udpRequest
  dsimp only
  rw [if_neg (by simp [hport]), if_neg (by simp [hopen, hlen]), if_neg (fun hb => htag.elim (fun h0 => hb.1.ne' h0) hb.2), hkept]

variable (hkept : (s.session (2 + n)).kept.find? (fun e => e.1 == h.seq) = none)
include hkept

/-- An older SEQ gets no answer. -/
theorem udpRequest_old {m : Nat} (hmax : (s.session (2 + n)).maxSeq = some m) (hm : h.seq ≤ m) : s.udpRequest n h q act = s := by
  unfold State.udpRequest
  dsimp only
  rw [if_neg (by simp [hport]), if_neg (by simp [hopen, hlen]), if_neg (fun hb => htag.elim (fun h0 => hb.1.ne' h0) hb.2), hkept, hmax]
  simp [hm]

variable (hnew : ∀ m, (s.session (2 + n)).maxSeq = some m → m < h.seq)
include hnew

theorem udpRequest_new : s.udpRequest n h q act =
    State.outcome n h q (if s.serves then act (s.taken n h) else (some ⟨0x08000020, []⟩, s.taken n h)) := by
  unfold State.udpRequest
  dsimp only
  rw [if_neg (by simp [hport]), if_neg (by simp [hopen, hlen]), if_neg (fun hb => htag.elim (fun h0 => hb.1.ne' h0) hb.2), hkept]
  cases hmax : (s.session (2 + n)).maxSeq with
  | none => rfl
  | some m => exact if_neg (by simpa using hnew m hmax)

variable (hs : s.serves = true)
include hs

/-- A request served at once. -/
theorem udpRequest_answered {r : Reply × State} (hact : act (s.taken n h) = (some r.1, r.2)) :
    s.udpRequest n h q act = r.2.udpAnswer h.port n h.seq q r.1 := by
  rw [udpRequest_new hport hopen hlen htag hkept hnew, hs, if_pos rfl, hact]
  rfl

/-- A request that is held. -/
theorem udpRequest_held {t : State} (hact : act (s.taken n h) = (none, t)) : s.udpRequest n h q act = t := by
  rw [udpRequest_new hport hopen hlen htag hkept hnew, hs, if_pos rfl, hact]
  rfl

omit hs

/-- While nothing serves a request is aborted (R282). -/
theorem udpRequest_aborted (hs : s.serves = false) : s.udpRequest n h q act = (s.taken n h).udpAnswer h.port n h.seq q ⟨0x08000020, []⟩ := by
  rw [udpRequest_new hport hopen hlen htag hkept hnew, hs, if_neg Bool.false_ne_true]
  rfl

end

/-! ## Memory requests (R278) -/

section
variable {s : State} {n : Nat} {h : UdpHdr} {q : UdpReq} {w : Bool} {a len : Nat} {data : List Byte}

theorem udpMem_frozen (hf : (s.master 2).frozen = true) : s.udpMem n h q w a len data =
    (none, s.hold 2 ⟨a, w, len, data, 2 + n, none, some (h.port, h.seq, q), none⟩) := if_pos hf

theorem udpMem_denied (hf : (s.master 2).frozen = false) (hmay : s.masterMay 2 a len w = false) : s.udpMem n h q w a len data =
    (none, (s.freezeMaster 2 a w).hold 2 ⟨a, w, len, data, 2 + n, none, some (h.port, h.seq, q), none⟩) := by
  unfold State.udpMem
  simp [hf, hmay]

theorem udpMem_read (hf : (s.master 2).frozen = false) (hmay : s.masterMay 2 a len false = true) : s.udpMem n h q false a len data =
    (some ⟨0, s.sysBytes a len⟩, s) := by
  unfold State.udpMem
  simp [hf, hmay]

theorem udpMem_write (hf : (s.master 2).frozen = false) (hmay : s.masterMay 2 a len true = true) : s.udpMem n h q true a len data =
    (some ⟨0, []⟩, s.sysWriteAll (s.isEngineer (2 + n)) a data) := by
  unfold State.udpMem
  simp [hf, hmay]

end

theorem udpMemory_eq {len : Nat} (hlen : len ≤ 1008) (s : State) (n : Nat) (h : UdpHdr) (w : Bool) (a : Nat) (data : List Byte) :
    s.udpMemory n h w a len data = s.udpRequest n h ⟨if w then 8 else 7, 0, 0, 0, toLE 4 a ++ toLE 4 len ++ data⟩
      (fun s => s.udpMem n h ⟨if w then 8 else 7, 0, 0, 0, toLE 4 a ++ toLE 4 len ++ data⟩ w a len data) := if_neg (Nat.not_lt.mpr hlen)

/-! ## Sessions (R270, R274) -/

/-- AUTH_BEGIN of a UDP session. -/
theorem udpBegin_eq {s : State} {slot : Nat} (hslot : slot < 8) (hlock : s.lockedOut 2 = false) (n : Nat) : s.udpBegin n slot =
    (⟨0, s.freshNonce⟩, (s.drawN 32).modSession (2 + n) (fun k => { k with nonce := some s.freshNonce, slot := slot, nonceAt := s.time.up })) := by
  have hm : sesMaster (2 + n) = 2 := by unfold sesMaster; rw [if_neg (show 2 + n ≠ 0 by omega), if_neg (show 2 + n ≠ 1 by omega)]
  have hb : s.beginAuth (2 + n) slot =
      (0, (s.drawN 32).modSession (2 + n) (fun k => { k with nonce := some s.freshNonce, slot := slot, nonceAt := s.time.up })) := by
    unfold State.beginAuth
    rw [hm, hlock, if_neg Bool.false_ne_true, if_neg (Nat.not_le.mpr hslot)]
  unfold State.udpBegin
  rw [hb]
  dsimp only
  rw [if_pos rfl, State.session_modSession_same]
  rfl

/-- A closed session is as at reset and has no claim. -/
theorem closeSession_leaves (s : State) (ses : Nat) : (s.closeSession ses).session ses = Session.reset ∧ (s.closeSession ses).sets.owner ≠ some ses := by
  have hs : (s.closeSession ses).sessions = Tab.erase s.sessions ses := by
    unfold State.closeSession State.endClaim
    split <;> rfl
  constructor
  · unfold State.session
    rw [hs, Tab.get_erase_same]
  · unfold State.closeSession State.endClaim
    split
    · exact nofun
    · next h => exact h

/-- The session's place in the sequence stays when its answer goes out. -/
theorem maxSeq_udpAnswer (s : State) (p n seq : Nat) (q : UdpReq) (r : Reply) : ((s.udpAnswer p n seq q r).session (2 + n)).maxSeq = (s.session (2 + n)).maxSeq := by
  unfold State.udpAnswer
  dsimp only
  split
  · show (Tab.get Session.reset (Tab.set s.sessions (2 + n) _) (2 + n)).maxSeq = _
    rw [Tab.get_set_same]
  · rfl

theorem maxSeq_taken (s : State) (n : Nat) (h : UdpHdr) : ((s.taken n h).session (2 + n)).maxSeq = some h.seq := by
  unfold State.taken
  rw [State.session_modSession_same]

/-- A closing session is answered and ends. -/
theorem udpClose_eq {s : State} {n : Nat} {h : UdpHdr} (hs : s.serves = true) (hnew : ∀ m, (s.session (2 + n)).maxSeq = some m → m < h.seq)
    (hreq : s.udpRequest n h ⟨2, 0, 0, 0, []⟩ (fun s => (some ⟨0, []⟩, s)) = (s.taken n h).udpAnswer h.port n h.seq ⟨2, 0, 0, 0, []⟩ ⟨0, []⟩) :
    s.udpClose n h = ((s.taken n h).udpAnswer h.port n h.seq ⟨2, 0, 0, 0, []⟩ ⟨0, []⟩).closeSession (2 + n) := by
  unfold State.udpClose
  dsimp only
  rw [hreq]
  exact if_pos ⟨hs, (maxSeq_udpAnswer ..).trans (maxSeq_taken s n h), fun hm => Nat.lt_irrefl _ (hnew _ hm)⟩

/-- Settles O46: the outcome of a request by its checks. -/
theorem udpSessionsServe : Obligations.UdpSessionsServe := by
  unfold Obligations.UdpSessionsServe
  intro s n p h k now u tagged good new fresh ans held alive op drop
  have next {t u : State} (h : t = u) : (.next t : Out) = .next u := congrArg Host.Outcome.next h
  have served {q : UdpReq} (hlen : q.payload.length ≤ 1024) (hq : fresh q) {act : State → Option Reply × State} {r : Reply × State}
      (hact : act u = (some r.1, r.2)) : s.udpRequest n h q act = ans q r := by
    obtain ⟨⟨⟨hport, hopen, htag⟩, hkept, hnew⟩, hs⟩ := hq
    exact udpRequest_answered hport hopen hlen htag hkept hnew hs hact
  have waits {q : UdpReq} (hlen : q.payload.length ≤ 1024) (hq : fresh q) {act : State → Option Reply × State} {t : State}
      (hact : act u = (none, t)) : s.udpRequest n h q act = t := by
    obtain ⟨⟨⟨hport, hopen, htag⟩, hkept, hnew⟩, hs⟩ := hq
    exact udpRequest_held hport hopen hlen htag hkept hnew hs hact
  have small {q : UdpReq} (hq : q.payload = []) : q.payload.length ≤ 1024 := by rw [hq]; exact Nat.zero_le _
  refine ⟨?_, ?_, ?_, ?_, ?_, ?_, ?_, ?_, ?_, ?_, ?_, ?_, ?_, ?_, ?_, ?_, ?_, ?_, ?_, ?_, ?_, ?_⟩
  · intro seq i hport hs hfree
    refine next ?_
    unfold State.udpOpen
    rw [hport, hs, hfree]
    rfl
  · intro seq hport hs
    refine next ?_
    unfold State.udpOpen
    rw [hport, hs]
    rfl
  · intro seq hfail
    refine next ?_
    dsimp only
    unfold State.udpOpen
    obtain hport | ⟨hs, hfree⟩ := hfail
    · rw [hport]; rfl
    · rw [hs, hfree]
      split
      · rfl
      · rfl
  · exact fun hport => next (if_pos hport)
  · exact fun hport => next (if_neg (by simp [hport]))
  · intro idx sub c h1 h64 hq
    exact next ((if_neg (by omega)).trans (served (small rfl) hq rfl))
  · intro idx sub vs hne h64 hlen hq
    exact next ((if_neg (by simp [hne, h64])).trans (served hlen hq rfl))
  · exact fun hq => next (served (small rfl) hq rfl)
  · rintro ⟨⟨hport, hopen, htag⟩, hkept, hnew⟩ hs
    exact next (udpRequest_aborted hport hopen (small rfl) htag hkept hnew hs)
  · intro a len hlen q hq
    have hsize : q.payload.length ≤ 1024 := by simp [q]
    exact ⟨fun hf hmay => next ((udpMemory_eq hlen s n h false a []).trans (served hsize hq (udpMem_read (s := u) hf hmay))),
      fun hf hmay => next ((udpMemory_eq hlen s n h false a []).trans (waits hsize hq (udpMem_denied (s := u) hf hmay))),
      fun hf => next ((udpMemory_eq hlen s n h false a []).trans (waits hsize hq (udpMem_frozen (s := u) hf)))⟩
  · intro a data hlen q hq
    have hsize : q.payload.length ≤ 1024 := by simp [q]; omega
    refine ⟨fun hf hmay => next ((udpMemory_eq hlen s n h true a data).trans ?_),
      fun hf hmay => next ((udpMemory_eq hlen s n h true a data).trans (waits hsize hq (udpMem_denied (s := u) hf hmay))),
      fun hf => next ((udpMemory_eq hlen s n h true a data).trans (waits hsize hq (udpMem_frozen (s := u) hf)))⟩
    have hlevel : u.isEngineer (2 + n) = decide (2 ≤ k.level) := by
      unfold State.isEngineer
      rw [State.session_modSession_same]
    rw [← hlevel]
    exact served hsize hq (r := (⟨0, []⟩, _)) (udpMem_write (s := u) hf hmay)
  · intro slot hslot hlock hq
    refine next (served ?_ hq (act := fun s => answered (s.udpBegin n slot)) ?_)
    · simp
    · exact congrArg answered (udpBegin_eq (s := u) hslot hlock n)
  · intro proof hlen hq
    exact next (served (by simp [hlen]) hq rfl)
  · intro hq
    exact next (udpClose_eq hq.2 hq.1.2.2 (served (r := (⟨0, []⟩, u)) (small rfl) hq rfl))
  · rintro e ⟨hport, hopen, htag⟩ hkept
    exact next (udpRequest_replayed hport hopen (small rfl) htag hkept)
  · rintro m ⟨hport, hopen, htag⟩ hkept hmax hm
    exact next (udpRequest_old hport hopen (small rfl) htag hkept hmax hm)
  · intro idx sub hport hbad
    exact next ((if_neg (by decide)).trans (udpRequest_dropped hport hbad))
  · exact fun hport hbad => next (udpRequest_dropped hport hbad)
  · intro idx sub c hport hc
    exact next ((if_pos hc).trans (if_pos hport))
  · exact fun hport => next (udpRequest_down hport)
  · intro hopen hlate
    refine ⟨next (if_pos ?_), closeSession_leaves s (2 + n)⟩
    simpa using ⟨hopen, hlate⟩
  · intro hearly
    refine next (if_neg ?_)
    obtain hopen | hearly := hearly
    · simpa using fun h => absurd h (Bool.eq_false_iff.mp hopen)
    · simpa using fun _ => hearly

end Sys2Proof.Machine

end

section
/-! SUPPORT. Objects that are written to give a command: what a write of one that passes, or fails, its checks does (R275). -/

namespace Sys2Proof.Machine

/-- An object that takes commands: write-only, a number of n bytes in a range. -/
def commandRow (n p : Nat) (lo hi : Int) : OdRow := { woObj n p with lo := lo, hi := hi }

theorem fromLE_toLE_of_lt {n v : Nat} (hv : v < 2 ^ (8 * n)) : fromLE (toLE n v) = v := by
  rw [fromLE_toLE]
  exact Nat.mod_eq_of_lt (by rwa [Nat.pow_mul] at hv)

section
variable {s : State} {ses : Ses} {idx sub n p v : Nat} {lo hi : Int}

theorem inRange_command (hv : v < 2 ^ (8 * n)) (hfields : s.fieldsOk idx sub v = true) (hstep : s.stepOk idx sub (v : Int) = true) :
    s.inRange idx sub v (commandRow n p lo hi) = (decide (lo ≤ v) && decide ((v : Int) ≤ hi)) := by
  have hmask : Nat.land v (commandRow n p lo hi).mask = v := land_full hv
  unfold State.inRange
  dsimp only
  rw [hmask, hfields, show (commandRow n p lo hi).number v = (v : Int) from rfl, hstep, Bool.and_true, Bool.and_true]
  rfl

theorem inRange_command_fields (hv : v < 2 ^ (8 * n)) (hfields : s.fieldsOk idx sub v = false) : s.inRange idx sub v (commandRow n p lo hi) = false := by
  have hmask : Nat.land v (commandRow n p lo hi).mask = v := land_full hv
  unfold State.inRange
  dsimp only
  rw [hmask, hfields, Bool.and_false, Bool.false_and]

section
variable (hrow : s.row idx sub = some (commandRow n p lo hi)) (hn : n ≠ 0) (hv : v < 2 ^ (8 * n)) (hpriv : s.needPriv idx sub v (commandRow n p lo hi) = p)
  (hown : ownWrite idx sub = false)
include hrow hn hv hpriv hown

theorem State.odWrite_command (h : p ≤ (s.session ses).level) : s.odWrite ses idx sub (toLE n v) = s.writeChecked ses idx sub (toLE n v) (commandRow n p lo hi) := by
  have hd := fromLE_toLE_of_lt hv
  refine State.odWrite_checked hrow (by exact Access.noConfusion) (by rw [hd, hpriv]; exact h) ?_ hown
  unfold OdRow.lengthOk
  rw [if_neg (show (commandRow n p lo hi).size ≠ 0 from hn), length_toLE]
  exact beq_self_eq_true _

/-- A command that passes every check acts. -/
theorem State.hostWrite_command (h : Served s ses p) (hallow : s.stateAllows idx sub v = true)
    (hrange : s.inRange idx sub v (commandRow n p lo hi) = true) (hmap : s.mappingAbort idx sub v = 0) :
    s.hostWrite ses idx sub (toLE n v) = (s.writeDirect ses idx sub v).giveReply ses ⟨0, []⟩ := by
  have hd := fromLE_toLE_of_lt hv
  have hlen : (commandRow n p lo hi).lengthOk (toLE n v).length = true := by
    unfold OdRow.lengthOk
    rw [if_neg (show (commandRow n p lo hi).size ≠ 0 from hn), length_toLE]
    exact beq_self_eq_true _
  have hmask : Nat.land v (commandRow n p lo hi).mask = v := land_full hv
  rw [State.hostWrite_direct h hrow (by exact Access.noConfusion) (by rw [hd, hpriv]) hlen hown rfl hn (by rw [hd]; exact hallow)
    (by rw [hd]; exact hrange) (by rw [hd]; exact hmap) rfl, hd, hmask]

/-- R275 step 6. -/
theorem State.hostWrite_command_disallowed (h : Served s ses p) (hallow : s.stateAllows idx sub v = false) :
    s.hostWrite ses idx sub (toLE n v) = s.refuse ses idx sub 0x08000022 := by
  obtain ⟨hreach, hserves, hlevel⟩ := h
  have hd := fromLE_toLE_of_lt hv
  refine State.hostWrite_refused hreach hserves (by decide) ?_
  rw [State.odWrite_command hrow hn hv hpriv hown hlevel]
  exact State.writeChecked_disallowed rfl hn (by rw [hd]; exact hallow)

/-- R275 step 7. -/
theorem State.hostWrite_command_outOfRange (h : Served s ses p) (hallow : s.stateAllows idx sub v = true)
    (hrange : s.inRange idx sub v (commandRow n p lo hi) = false) : s.hostWrite ses idx sub (toLE n v) = s.refuse ses idx sub 0x06090030 := by
  obtain ⟨hreach, hserves, hlevel⟩ := h
  have hd := fromLE_toLE_of_lt hv
  refine State.hostWrite_refused hreach hserves (by decide) ?_
  rw [State.odWrite_command hrow hn hv hpriv hown hlevel]
  exact State.writeChecked_outOfRange rfl hn (by rw [hd]; exact hallow) (by rw [hd]; exact hrange)

end

/-- R275 step 3. -/
theorem State.hostWrite_command_unprivileged (hrow : s.row idx sub = some (commandRow n p lo hi)) (hr : s.reachable ses = true) (hs : s.serves = true)
    (hpriv : ∀ v, s.needPriv idx sub v (commandRow n p lo hi) = p) (hl : (s.session ses).level < p) (data : List Byte) :
    s.hostWrite ses idx sub data = s.refuse ses idx sub 0x06010000 :=
  State.hostWrite_refused hr hs (by decide) (State.odWrite_unprivileged hrow (by exact Access.noConfusion) (by rw [hpriv]; exact hl))

end

end Sys2Proof.Machine

end

section
/-! Hub masters, the calibration tables, counters and telemetry (R278-R283). Settles O49. -/

namespace Sys2Proof.Machine

/-! ## MASTER_RELEASE (R279) -/

/-- The word that releases a master. -/
theorem releaseWord_fields {m act : Nat} (hm : m < 2 ^ 16) (hact : act < 4) :
    m + act * 2 ^ 16 < 2 ^ 32 ∧ field (m + act * 2 ^ 16) 0 16 = m ∧ field (m + act * 2 ^ 16) 16 2 = act := by
  unfold field
  refine ⟨by omega, by omega, by omega⟩

section
variable {s : State} {ses : Ses} {m act : Nat} (h : Served s ses 2) (hm : m < 2 ^ 16) (hact : act = 1 ∨ act = 2) (hname : s.namesMaster m = true)
include h hm hact hname

theorem hostWrite_release (hf : s.masterFrozen m = true) :
    s.hostWrite ses 0x2B00 7 (toLE 4 (m + act * 2 ^ 16)) = (s.releaseMaster ses (m + act * 2 ^ 16)).giveReply ses ⟨0, []⟩ := by
  obtain ⟨hv, hfm, hfa⟩ := releaseWord_fields hm (show act < 4 by omega)
  refine State.hostWrite_command (p := 2) (s.row_masterRelease) (by decide) hv rfl rfl h ?_ ?_ rfl
  · show (!s.namesMaster _ || _ || s.masterFrozen _) = true
    rw [hfm, hf, Bool.or_true]
  · rw [inRange_command hv ?_ rfl]
    · simp only [Bool.and_eq_true, decide_eq_true_eq]
      exact ⟨Int.natCast_nonneg _, show ((m + act * 2 ^ 16 : Nat) : Int) ≤ 2 ^ 32 by omega⟩
    · show (s.namesMaster _ && _) = true
      rw [hfm, hname, hfa]
      obtain rfl | rfl := hact <;> rfl

theorem hostWrite_release_refused (hf : s.masterFrozen m = false) :
    s.hostWrite ses 0x2B00 7 (toLE 4 (m + act * 2 ^ 16)) = s.refuse ses 0x2B00 7 0x08000022 := by
  obtain ⟨hv, hfm, hfa⟩ := releaseWord_fields hm (show act < 4 by omega)
  refine State.hostWrite_command_disallowed (p := 2) (s.row_masterRelease) (by decide) hv rfl rfl h ?_
  show (!s.namesMaster _ || !_ || s.masterFrozen _) = false
  rw [hfm, hname, hf, hfa]
  obtain rfl | rfl := hact <;> rfl

end


/-! ## Requests resumed or dropped -/

/-- The endpoint's DMA channels aside, a state is as before. -/
def OnlyDma (s t : State) : Prop := t = { s with pcie := { s.pcie with dma := t.pcie.dma } }

theorem onlyDma_dmaSkip (l : List Nat) (s : State) : OnlyDma s (l.foldl State.dmaSkip s) := by
  induction l generalizing s with
  | nil => exact rfl
  | cons k l ih =>
    have h : (l.foldl State.dmaSkip (s.dmaSkip k)) = _ := ih (s.dmaSkip k)
    exact h

/-- The Flue ports aside, a state is as before. -/
def OnlyPorts (s t : State) : Prop := t = { s with ports := t.ports }

theorem onlyPorts_giveCredits (p : Nat) (l : List (Msg × FlueMsg)) (s : State) : OnlyPorts s (l.foldl (fun s x => s.giveCredits p x.2) s) := by
  induction l generalizing s with
  | nil => exact rfl
  | cons x l ih =>
    have h : (l.foldl (fun s x => s.giveCredits p x.2) (s.giveCredits p x.2)) = _ := ih (s.giveCredits p x.2)
    exact h

/-- The masters and counters a drop leaves. -/
structure Dropped (s : State) (m : Nat) (t : State) : Prop where
  frozen : (t.master m).frozen = false
  held : (t.master m).held = []
  counted : t.count (0x2B10 + m) 0x15 = (s.bumpBy (0x2B10 + m) 0x15 (s.master m).held.length).count (0x2B10 + m) 0x15
  cores : t.cores = s.cores
  mem : t.mem = s.mem

/-- A master with nothing held that is not frozen. -/
def State.cleared (s : State) (m : Nat) : State := s.modMaster m (fun k => { k with frozen := false, held := [] })

theorem State.bumpBy_masters (s : State) (i n v : Nat) : (s.bumpBy i n v).masters = s.masters := rfl
theorem State.bumpBy_cores (s : State) (i n v : Nat) : (s.bumpBy i n v).cores = s.cores := rfl
theorem State.bumpBy_mem (s : State) (i n v : Nat) : (s.bumpBy i n v).mem = s.mem := rfl

/-- Counters and DMA channels aside, a state with a cleared master. -/
theorem Dropped.of {s u t : State} {m : Nat} (hports : OnlyPorts s u)
    (ht : OnlyDma ((u.cleared m).bumpBy (0x2B10 + m) 0x15 (s.master m).held.length) t) : Dropped s m t := by
  have hmasters : t.masters = (u.cleared m).masters := (congrArg State.masters ht :).trans (State.bumpBy_masters (u.cleared m) (0x2B10 + m) 0x15 (s.master m).held.length)
  have hm : t.master m = { u.master m with frozen := false, held := [] } := by
    unfold State.master
    rw [hmasters]
    exact State.master_modMaster_same u m _
  refine ⟨by rw [hm], by rw [hm], ?_, ?_, ?_⟩
  · have hcount : t.count (0x2B10 + m) 0x15 = ((u.cleared m).bumpBy (0x2B10 + m) 0x15 (s.master m).held.length).count (0x2B10 + m) 0x15 :=
      State.count_congr _ _ (congrArg State.part ht :) (congrArg (fun x : State => x.sets.active) ht :) (congrArg State.counters ht :)
    exact hcount.trans (State.count_bumpBy_congr (s := s) (t := u.cleared m) _ _ _ (congrArg State.part hports :)
      (congrArg (fun x : State => x.sets.active) hports :) (congrArg State.counters hports :))
  · exact ((congrArg State.cores ht :).trans (State.bumpBy_cores (u.cleared m) (0x2B10 + m) 0x15 (s.master m).held.length)).trans (congrArg State.cores hports :)
  · exact ((congrArg State.mem ht :).trans (State.bumpBy_mem (u.cleared m) (0x2B10 + m) 0x15 (s.master m).held.length)).trans (congrArg State.mem hports :)

theorem dropped_dropMaster (s : State) (m : Nat) : Dropped s m (s.dropMaster m) :=
  .of (onlyPorts_giveCredits (m - 4) ((s.master m).held.filterMap (·.msg)) s) (onlyDma_dmaSkip _ _)

/-- A record of a release leaves what a drop leaves. -/
theorem Dropped.noted {s t : State} {m : Nat} (h : Dropped s m t) (src code : Nat) (w : List Nat) (ses : Ses) (r : Reply) :
    Dropped s m ((t.record src code w).giveReply ses r) := ⟨h.frozen, h.held, h.counted, h.cores, h.mem⟩

theorem releaseMaster_drop {s : State} {ses : Ses} {m : Nat} (hm : m < 8) : ∃ w, s.releaseMaster ses (m + 2 * 2 ^ 16) =
    (s.dropMaster m).record (masterSource (sesMaster ses)) 0x002E w := by
  obtain ⟨-, hfm, hfa⟩ := releaseWord_fields (m := m) (act := 2) (by omega) (by decide)
  unfold State.releaseMaster
  dsimp only
  rw [hfm, hfa, if_pos hm]
  exact ⟨_, rfl⟩

theorem releaseMaster_resume {s : State} {ses : Ses} {m : Nat} (hm : m < 8) : ∃ w, s.releaseMaster ses (m + 1 * 2 ^ 16) =
    (s.resumeMaster m).record (masterSource (sesMaster ses)) 0x002E w := by
  obtain ⟨-, hfm, hfa⟩ := releaseWord_fields (m := m) (act := 1) (by omega) (by decide)
  unfold State.releaseMaster
  dsimp only
  rw [hfm, hfa, if_pos hm]
  exact ⟨_, rfl⟩

theorem masterFrozen_core {s : State} {c : Nat} (hf : (s.core c).state = .frozen) : s.masterFrozen (0x1000 + c) = true := by
  unfold State.masterFrozen
  rw [if_neg (by omega), show 0x1000 + c - 0x1000 = c by omega, hf]
  rfl

section
variable {s : State} {ses : Ses} {c : Nat} (hc : s.present c = true)
include hc

theorem present_lt : c < 584 := by
  unfold State.present isSentinel at hc
  simp only [Bool.or_eq_true, Bool.and_eq_true, decide_eq_true_eq] at hc
  omega

theorem namesMaster_core : s.namesMaster (0x1000 + c) = true := by
  unfold State.namesMaster
  rw [show 0x1000 + c - 0x1000 = c by omega, hc]
  simp

theorem releaseMaster_core (act : Nat) (hact : act < 4) : ∃ w, s.releaseMaster ses (0x1000 + c + act * 2 ^ 16) =
    (if act = 1 then s.modCore c (fun k => { k with state := .running }) else s.stopCore c).record (masterSource (sesMaster ses)) 0x002E w := by
  have hlt := present_lt hc
  obtain ⟨-, hfm, hfa⟩ := releaseWord_fields (m := 0x1000 + c) (act := act) (by omega) hact
  unfold State.releaseMaster
  dsimp only
  rw [hfm, hfa, if_neg (by omega), show 0x1000 + c - 0x1000 = c by omega]
  split
  · exact ⟨_, rfl⟩
  · exact ⟨_, rfl⟩

end

/-- A core with no op in flight that is to stop halts. -/
theorem stopCore_idle {s : State} {c : Nat} (hf : (s.core c).state = .frozen) (hops : (s.core c).seq.ops = []) :
    ((s.stopCore c).core c).state = .halted ∧ (s.stopCore c).mem = s.mem := by
  have hq : (s.modSeq c (fun q => { q with stopReq := some .stop })).core c = { s.core c with seq := { (s.core c).seq with stopReq := some .stop } } :=
    State.core_modCore_same s c _
  have h : s.stopCore c = (s.modSeq c (fun q => { q with stopReq := some .stop })).halt c (s.core c).seq.pc (s.core c).seq.bank 0 := by
    unfold State.stopCore
    dsimp only
    rw [hf, if_pos (by rfl)]
    unfold State.settle State.settleStop
    dsimp only
    rw [hq, hops]
    simp only [List.map_nil, List.foldl_nil, hq, hops]
    rfl
  rw [h]
  unfold State.halt
  refine ⟨?_, rfl⟩
  dsimp only
  unfold State.core
  rw [State.record_cores]
  exact congrArg Core.state (State.core_modCore_same _ c _)

/-! ## Calibration tables (R280) -/

/-- A word of the hub's own trims. -/
def hubTrim (a : Nat) : Prop := a % 4 = 0 ∧ 0x0A000000 ≤ a ∧ (a < 0x0A0001C0 ∨ (0x0A000200 ≤ a ∧ a < 0x0A000400))

theorem cutOut_apart {lo hi : Nat} {p : Nat × Nat} (h : p.1 + p.2 ≤ lo ∨ hi ≤ p.1) : cutOut lo hi p = [p] := if_pos h

/-- Four bytes replace the word. -/
theorem mergeWord_whole {a : Nat} {data : List Byte} (hl : data.length = 4) (old : Nat) : mergeWord old a a data = fromLE data := by
  obtain ⟨b0, b1, b2, b3, rfl⟩ : ∃ b0 b1 b2 b3, data = [b0, b1, b2, b3] := by
    match data, hl with
    | [b0, b1, b2, b3], _ => exact ⟨b0, b1, b2, b3, rfl⟩
  unfold mergeWord
  simp [List.range_succ]

/-- A range apart from every absent one stays whole. -/
theorem cutOut_foldl {l : List (Nat × Nat)} {p : Nat × Nat} (h : ∀ r ∈ l, p.1 + p.2 ≤ r.1 ∨ r.2 ≤ p.1) :
    l.foldl (fun l r => l.flatMap (cutOut r.1 r.2)) [p] = [p] := by
  induction l with
  | nil => rfl
  | cons r l ih =>
    have hr : [p].flatMap (cutOut r.1 r.2) = [p] := by
      rw [List.flatMap_singleton, cutOut_apart (h r List.mem_cons_self)]
    rw [List.foldl_cons, hr]
    exact ih (fun r hr => h r (List.mem_cons_of_mem _ hr))

section
variable {s : State} {a : Nat} (ha : hubTrim a)
include ha

theorem hubTrim_bounds : a % 4 = 0 ∧ 0x0A000000 ≤ a ∧ a < 0x0A000400 := by
  obtain ⟨h4, hlo, hhi⟩ := ha
  exact ⟨h4, hlo, by omega⟩

theorem presentParts_hubTrim : s.presentParts a 4 = [(a, 4)] := by
  obtain ⟨h4, hlo, hhi⟩ := hubTrim_bounds ha
  refine cutOut_foldl ?_
  unfold State.absentRanges coreBase
  simp only [List.mem_cons, List.not_mem_nil, or_false, forall_eq_or_imp, forall_eq]
  refine ⟨.inl ?_, .inr ?_, .inr ?_, .inl ?_⟩ <;> omega

theorem absentAddr_hubTrim : s.absentAddr a = false := by
  obtain ⟨h4, hlo, hhi⟩ := hubTrim_bounds ha
  unfold State.absentAddr
  rw [if_neg (by omega), if_neg (by omega), if_neg (by omega), if_neg (by omega)]

theorem shutDie_hubTrim : s.shutDie a = none := by
  obtain ⟨h4, hlo, hhi⟩ := hubTrim_bounds ha
  unfold State.shutDie
  dsimp only
  rw [if_neg (show ¬ 0x40000000 ≤ a by omega), if_neg (show ¬ (0x06200000 ≤ a ∧ a < 0x06300000) by omega)]
  rfl

theorem calRange_hubTrim : calRange a = true := by
  obtain ⟨h4, hlo, hhi⟩ := hubTrim_bounds ha
  unfold calRange
  rw [decide_eq_true (by omega : 0x08000000 ≤ a), decide_eq_true (by omega : a < 0x0A010920)]
  rfl

theorem calPut_hubTrim (v : Nat) : s.calPut a v = { s with trims := Tab.set s.trims a v } := by
  obtain ⟨h4, hlo, hhi⟩ := hubTrim_bounds ha
  unfold State.calPut
  rw [if_neg (by omega), if_pos (by omega), if_pos ha.2.2]

theorem touchedWords_hubTrim : touchedWords a 4 = [a] := by
  obtain ⟨h4, hlo, hhi⟩ := hubTrim_bounds ha
  unfold touchedWords
  rw [if_neg (by decide), show (a + 4 + 3) / 4 - a / 4 = 1 by omega]
  simp only [List.range_one, List.map_cons, List.map_nil]
  rw [show 4 * (a / 4 + 0) = a by omega]

theorem calBytes_hubTrim {data : List Byte} (hl : data.length = 4) : s.calBytes a data = ({ s with trims := Tab.set s.trims a (fromLE data) }).bump 0x2900 1 := by
  have hne : data.isEmpty = false := by cases data with | nil => cases hl | cons b l => rfl
  unfold State.calBytes
  rw [hne, hl, touchedWords_hubTrim ha]
  simp only [List.foldl_cons, List.foldl_nil, Bool.false_eq_true, if_false]
  rw [calPut_hubTrim ha, mergeWord_whole hl]

theorem sysWriteAll_hubTrim {data : List Byte} (hl : data.length = 4) (engineer : Bool) : s.sysWriteAll engineer a data =
    if engineer then ({ s with trims := Tab.set s.trims a (fromLE data) }).bump 0x2900 1 else s := by
  obtain ⟨h4, hlo, hhi⟩ := hubTrim_bounds ha
  have hpieces : s.sysPieces engineer a data 2 = s.sysWrite engineer a data := by
    unfold State.sysPieces
    exact if_pos (by omega)
  have hw : s.sysWrite engineer a data = if engineer then s.calBytes a data else s := by
    unfold State.sysWrite
    rw [absentAddr_hubTrim ha, shutDie_hubTrim ha, if_neg Bool.false_ne_true, if_neg (by omega), if_pos (calRange_hubTrim ha)]
  have htake : (data.drop (a - a)).take 4 = data := by rw [Nat.sub_self, List.drop_zero, ← hl, List.take_length]
  unfold State.sysWriteAll
  rw [hl, presentParts_hubTrim ha]
  simp only [List.foldl_cons, List.foldl_nil]
  rw [htake]
  exact hpieces.trans (hw.trans (by rw [calBytes_hubTrim ha hl]))

end

section
variable {s : State} {ses : Ses} {a : Nat} {data : List Byte} (hr : s.reachable ses = true)
include hr

theorem calWrite_frozen (ha : calRange a = true) (hf : (s.master (sesMaster ses)).frozen = true) : s.calWrite ses a data =
    s.hold (sesMaster ses) ⟨a, true, data.length, data, ses, none, none, none⟩ := by
  unfold State.calWrite State.masterWrite
  rw [hr, ha, hf]
  rfl

theorem calWrite_granted (ha : calRange a = true) (hf : (s.master (sesMaster ses)).frozen = false)
    (hmay : s.masterMay (sesMaster ses) a data.length true = true) : s.calWrite ses a data = s.sysWriteAll (s.isEngineer ses) a data := by
  unfold State.calWrite
  rw [hr, ha]
  exact masterWrite_granted hf hmay ses

end

/-! ## CAL_RESTORE -/

/-- The hub's trims as an ideal part has them. -/
def State.trimsRestored (s : State) : State :=
  { s with trims := s.trims.filter (fun t => !(decide (0x0A000000 ≤ t.1) && decide (t.1 < 0x0A010000))) }

theorem calRestore_hub {s : State} {v : Nat} (h : v % 4 = 2) : s.calRestore v = s.trimsRestored := by
  unfold State.calRestore
  rw [show field v 0 2 = 2 by unfold field; omega]
  rfl

theorem calRestore_core {s : State} {v : Nat} (h : v % 4 = 1) : s.calRestore v = s.restoreEngines (fun c => c == v / 4 % 65536) := by
  unfold State.calRestore
  rw [show field v 0 2 = 1 by unfold field; omega]
  rfl

section
variable {s : State} {ses : Ses} {v : Nat} (h : Served s ses 2) (hv : v < 2 ^ 32)
include h hv

theorem hostWrite_calRestore (hv3 : v % 4 ≠ 3) (hv1 : v % 4 = 1 → s.present (v / 4 % 65536) = true) :
    s.hostWrite ses 0x2900 2 (toLE 4 v) = (s.calRestore v).giveReply ses ⟨0, []⟩ := by
  refine State.hostWrite_command (p := 2) s.row_calRestore (by decide) hv rfl rfl h rfl ?_ rfl
  rw [inRange_command hv ?_ rfl]
  · simp only [Bool.and_eq_true, decide_eq_true_eq]
    exact ⟨Int.natCast_nonneg _, show (v : Int) ≤ 2 ^ 32 by omega⟩
  · show (field v 0 2 != 3 && (field v 0 2 != 1 || s.present (field v 2 16))) = true
    rw [show field v 0 2 = v % 4 by unfold field; omega, show field v 2 16 = v / 4 % 65536 by unfold field; omega]
    by_cases h1 : v % 4 = 1
    · simp [h1, hv1 h1]
    · simp [hv3, h1]

theorem hostWrite_calRestore_refused (hv3 : v % 4 = 3) : s.hostWrite ses 0x2900 2 (toLE 4 v) = s.refuse ses 0x2900 2 0x06090030 := by
  refine State.hostWrite_command_outOfRange (p := 2) s.row_calRestore (by decide) hv rfl rfl h rfl ?_
  refine inRange_command_fields hv ?_
  show (field v 0 2 != 3 && _) = false
  rw [show field v 0 2 = 3 by unfold field; omega]
  rfl

end

/-! ## Telemetry (R283) -/

/-- A word of process data touches neither telemetry nor time. -/
theorem txWord_telem (s : State) (n : Nat) : (s.txWord n).2.telem = s.telem ∧ (s.txWord n).2.time = s.time := by
  unfold State.txWord
  dsimp only
  split
  · exact ⟨rfl, rfl⟩
  · split
    · unfold State.hubPoison
      split
      · have h := onlyLines_setCause s 5
        exact ⟨(congrArg State.telem h.eq :), h.time⟩
      · exact ⟨rfl, rfl⟩
    · exact ⟨rfl, rfl⟩

theorem telemValues_leaves (s : State) : s.telemValues.2.telem = s.telem ∧ s.telemValues.2.time = s.time := by
  unfold State.telemValues
  refine List.foldlRecOn (List.range 32) _ (motive := fun a : List (List Byte) × State => a.2.telem = s.telem ∧ a.2.time = s.time) ⟨rfl, rfl⟩ ?_
  intro a ih i _
  dsimp only
  split
  · split
    · exact ih
    · split
      · obtain ⟨ht, hm⟩ := txWord_telem a.2 (field (s.cfg 0x2B31 (i + 1)) 16 8 - 1)
        exact ⟨ht.trans ih.1, hm.trans ih.2⟩
      · exact ih
  · exact ih

theorem exec_masterResume (ses : Ses) (m : Nat) (s : State) : exec (.masterResume ses m) s = .next (s.hostWrite ses 0x2B00 7 (toLE 4 (m + 1 * 2 ^ 16))) := by
  rw [Nat.one_mul]
  rfl

theorem exec_masterDrop (ses : Ses) (m : Nat) (s : State) : exec (.masterDrop ses m) s = .next (s.hostWrite ses 0x2B00 7 (toLE 4 (m + 2 * 2 ^ 16))) := rfl

/-- Settles O49: releases by the kind of master, the tables word by word, and the rest by their conditions. -/
theorem mastersAndTables : Obligations.MastersAndTables := by
  unfold Obligations.MastersAndTables
  intro s ses m c a v p up data hm hv
  have next {t u : State} (h : t = u) : (.next t : Out) = .next u := congrArg Host.Outcome.next h
  have hname : s.namesMaster m = true := by unfold State.namesMaster; rw [decide_eq_true hm]; rfl
  have hfrozen : s.masterFrozen m = (s.master m).frozen := by unfold State.masterFrozen; rw [if_pos hm]
  have hlt : m < 2 ^ 16 := by omega
  have hcal {a : Nat} (ha : 0x0A000000 ≤ a) (h4 : a % 4 = 0) (h : a < 0x0A0001C0 ∨ (0x0A000200 ≤ a ∧ a < 0x0A000400)) : hubTrim a := ⟨h4, ha, h⟩
  refine ⟨?_, ?_, ?_, ?_, ?_, ?_, ?_, ?_, ?_, ?_, ?_, ?_, ?_, ?_, ?_, ?_, ?_, ?_⟩
  · intro h hf
    rw [exec_masterResume, exec_masterDrop]
    exact ⟨next (hostWrite_release_refused h hlt (.inl rfl) hname (hfrozen.trans hf)), next (hostWrite_release_refused h hlt (.inr rfl) hname (hfrozen.trans hf))⟩
  · intro h hf
    obtain ⟨w, hw⟩ := releaseMaster_drop (s := s) (ses := ses) hm
    obtain ⟨h1, h2, h3, h4, h5⟩ := (dropped_dropMaster s m).noted (masterSource (sesMaster ses)) 0x002E w ses ⟨0, []⟩
    rw [exec_masterDrop, hostWrite_release h hlt (.inr rfl) hname (hfrozen.trans hf), hw]
    exact ⟨_, rfl, h1, h2, h3, h4, h5⟩
  · intro h hf hheld
    obtain ⟨w, hw⟩ := releaseMaster_resume (s := s) (ses := ses) hm
    have hres : s.resumeMaster m = s.cleared m := by unfold State.resumeMaster; dsimp only; rw [hheld]; rfl
    have hmaster : (s.cleared m).master m = { s.master m with frozen := false, held := [] } := State.master_modMaster_same s m _
    rw [exec_masterResume, hostWrite_release h hlt (.inl rfl) hname (hfrozen.trans hf), hw, hres]
    exact ⟨_, rfl, congrArg Master.frozen hmaster, congrArg Master.held hmaster, rfl, rfl⟩
  · intro h hc hf
    obtain ⟨w, hw⟩ := releaseMaster_core (s := s) (ses := ses) hc 1 (by decide)
    have hcore := State.core_modCore_same s c (fun k => { k with state := .running })
    rw [exec_masterResume, hostWrite_release h (by have := present_lt hc; omega) (.inl rfl) (namesMaster_core hc) (masterFrozen_core hf), hw, if_pos rfl]
    exact ⟨_, rfl, (congrArg Core.state hcore :), (congrArg Core.seq hcore :),
      fun x hx => State.core_modCore_ne s (fun k => { k with state := .running }) hx, rfl⟩
  · intro h hc hf hops
    obtain ⟨w, hw⟩ := releaseMaster_core (s := s) (ses := ses) hc 2 (by decide)
    obtain ⟨hstate, hmem⟩ := stopCore_idle hf hops
    rw [exec_masterDrop, hostWrite_release h (by have := present_lt hc; omega) (.inr rfl) (namesMaster_core hc) (masterFrozen_core hf), hw, if_neg (by decide)]
    exact ⟨_, rfl, hstate, hmem⟩
  · intro h
    refine next (if_neg ?_)
    obtain h | h := h <;> simp [h]
  · exact fun hr hf ha => next (calWrite_frozen hr ha hf)
  · intro hr hf hmay hl h4 hlo hhi hlevel
    have ht := hcal hlo h4 hhi
    refine next ((calWrite_granted hr (calRange_hubTrim ht) hf (by rw [hl]; exact hmay)).trans ((sysWriteAll_hubTrim ht hl _).trans ?_))
    exact if_pos (decide_eq_true hlevel)
  · intro hr hf hmay hl h4 hlo hhi hlevel
    have ht := hcal hlo h4 hhi
    refine next ((calWrite_granted hr (calRange_hubTrim ht) hf (by rw [hl]; exact hmay)).trans ((sysWriteAll_hubTrim ht hl _).trans ?_))
    exact if_neg (by simpa [State.isEngineer] using hlevel)
  · exact fun h hv3 => next (hostWrite_calRestore_refused h hv hv3)
  · intro h hv2
    exact next ((hostWrite_calRestore h hv (by omega) (by omega)).trans (by rw [calRestore_hub hv2]; rfl))
  · intro h hv1 hp
    exact next ((hostWrite_calRestore h hv (by omega) (fun _ => hp)).trans (by rw [calRestore_core hv1]))
  · exact fun h => next (if_neg (by omega))
  · exact fun h => next (if_pos h)
  · intro hon hw hport hlate
    obtain ⟨htelem, htime⟩ := telemValues_leaves s
    refine next ?_
    unfold State.telemetry
    rw [if_neg (by simp [hon, hw, hport, hlate])]
    show { s.telemValues.2 with telem := { s.telemValues.2.telem with lastAt := s.telemValues.2.time.up, values := s.telemValues.1, records := sortRecs s.telemValues.2.telem.unsent, unsent := [] } } = _
    rw [htime, htelem]
  · intro h
    refine next (if_pos ?_)
    obtain h | h := h <;> simp [h]
  · exact next rfl
  · exact next rfl

end Sys2Proof.Machine

end

section
/-! SUPPORT. The staging slots: which part of the state their passing on touches (R190, R306). -/

namespace Sys2Proof.Machine

/-- Only the staging slots, the association and what waits to be read again differ. -/
def OnlyStaging (s t : State) : Prop := t = { s with stage := t.stage, fetch := t.fetch, svc := { s.svc with rereads := t.svc.rereads } }

theorem OnlyStaging.refl (s : State) : OnlyStaging s s := rfl

theorem OnlyStaging.eq {s t : State} (h : OnlyStaging s t) : t = { s with stage := t.stage, fetch := t.fetch, svc := { s.svc with rereads := t.svc.rereads } } := h

theorem OnlyStaging.trans {s t u : State} (h : OnlyStaging s t) (k : OnlyStaging t u) : OnlyStaging s u :=
  k.eq.trans (congrArg (fun x : State => { x with stage := u.stage, fetch := u.fetch, svc := { x.svc with rereads := u.svc.rereads } }) h.eq :)

section
variable {s t : State} (h : OnlyStaging s t)
include h

theorem OnlyStaging.cores : t.cores = s.cores := (congrArg State.cores h.eq :)
theorem OnlyStaging.engines : t.engines = s.engines := (congrArg State.engines h.eq :)
theorem OnlyStaging.mem : t.mem = s.mem := (congrArg State.mem h.eq :)
theorem OnlyStaging.ctxs : t.ctxs = s.ctxs := (congrArg State.ctxs h.eq :)
theorem OnlyStaging.fw : t.fw = s.fw := (congrArg State.fw h.eq :)
theorem OnlyStaging.keep : t.keep = s.keep := (congrArg State.keep h.eq :)
theorem OnlyStaging.part : t.part = s.part := (congrArg State.part h.eq :)
theorem OnlyStaging.sets : t.sets = s.sets := (congrArg State.sets h.eq :)
theorem OnlyStaging.counters : t.counters = s.counters := (congrArg State.counters h.eq :)
theorem OnlyStaging.cmdStatus : t.cmdStatus = s.cmdStatus := (congrArg State.cmdStatus h.eq :)
theorem OnlyStaging.core (c : Nat) : t.core c = s.core c := (congrArg (fun x : State => x.core c) h.eq :)
theorem OnlyStaging.eng (c e : Nat) : t.eng c e = s.eng c e := (congrArg (fun x : State => x.eng c e) h.eq :)
theorem OnlyStaging.ctx (x : Nat) : t.ctx x = s.ctx x := (congrArg (fun u : State => u.ctx x) h.eq :)
theorem OnlyStaging.pcie : t.pcie = s.pcie := (congrArg State.pcie h.eq :)
theorem OnlyStaging.time : t.time = s.time := (congrArg State.time h.eq :)

end

theorem onlyStaging_startFetch (s : State) (l : FetchSet) : OnlyStaging s (s.startFetch l) := rfl

theorem onlyStaging_beginStage (s : State) (x : Nat) : OnlyStaging s (s.beginStage x) := by
  unfold State.beginStage
  dsimp only
  generalize (if (s.ctx x).cmd = 2 then 1 - (s.ctx x).imago else 0) = b
  split <;> exact rfl

theorem onlyStaging_readPlans (s : State) (x b : Nat) : OnlyStaging s (s.readPlans x b) := by
  unfold State.readPlans
  dsimp only
  split
  · exact rfl
  · split <;> exact rfl

/-- The slots emptied. -/
def State.emptySlots (s : State) : State :=
  { s with stage := { Stage.reset with waiting := s.stage.waiting, slots := s.cfg 0x2700 0x0E, tail := s.stage.tail, head := s.stage.head },
           fetch := { s.fetch with state := if s.fetch.state = 4 then 4 else 0, out := [], opening := none } }

/-- Freed slots are empty, or pass on. -/
theorem freeStage_cases (s : State) : (∃ x, s.freeStage = s.emptySlots.beginStage x) ∨ (∃ x b, s.freeStage = s.emptySlots.readPlans x b) ∨
    s.freeStage = s.emptySlots := by
  unfold State.freeStage
  dsimp only
  split
  · exact .inl ⟨_, rfl⟩
  · split
    · exact .inr (.inl ⟨_, _, rfl⟩)
    · exact .inr (.inr rfl)

theorem onlyStaging_freeStage (s : State) : OnlyStaging s s.freeStage := by
  obtain ⟨x, h⟩ | ⟨x, b, h⟩ | h := freeStage_cases s
  · rw [h]
    exact (show OnlyStaging s s.emptySlots from rfl).trans (onlyStaging_beginStage ..)
  · rw [h]
    exact (show OnlyStaging s s.emptySlots from rfl).trans (onlyStaging_readPlans ..)
  · rw [h]
    exact rfl

/-- No firmware load holds slots that have been freed. -/
theorem freeStage_firmware (s : State) : s.freeStage.stage.firmware = false := by
  obtain ⟨x, h⟩ | ⟨x, b, h⟩ | h := freeStage_cases s
  · rw [h]
    unfold State.beginStage
    dsimp only
    generalize (if (s.emptySlots.ctx x).cmd = 2 then 1 - (s.emptySlots.ctx x).imago else 0) = b
    split <;> rfl
  · rw [h]
    unfold State.readPlans
    dsimp only
    split
    · rfl
    · split <;> rfl
  · rw [h]
    rfl

end Sys2Proof.Machine

end

section
/-! Management firmware: loads, switches and the watchdog (R281, R282). Settles O50. -/

namespace Sys2Proof.Machine

section
variable {s : State} {ses : Ses} {v : Nat} (h : Served s ses 2) (h1 : 1 ≤ v) (h3 : v ≤ 3)
include h h1 h3

/-- FW_CMD. -/
theorem hostWrite_fwCmd (hallow : s.stateAllows 0x2B80 5 v = true) :
    s.hostWrite ses 0x2B80 5 (toLE 1 v) = (s.firmwareCommand v).giveReply ses ⟨0, []⟩ := by
  have hv : v < 2 ^ (8 * 1) := by omega
  refine State.hostWrite_command (p := 2) s.row_fwCmd (by decide) hv rfl rfl h hallow ?_ rfl
  rw [inRange_command hv rfl rfl]
  simp only [Bool.and_eq_true, decide_eq_true_eq]
  exact ⟨show (1 : Int) ≤ v by omega, show (v : Int) ≤ 3 by omega⟩

theorem hostWrite_fwCmd_disallowed (hallow : s.stateAllows 0x2B80 5 v = false) :
    s.hostWrite ses 0x2B80 5 (toLE 1 v) = s.refuse ses 0x2B80 5 0x08000022 :=
  State.hostWrite_command_disallowed (p := 2) s.row_fwCmd (by decide) (show v < 2 ^ (8 * 1) by omega) rfl rfl h hallow

end

/-- FW_CMD = 2 waits for the sets and for no context command. -/
theorem stateAllows_fwSwitch (s : State) : s.stateAllows 0x2B80 5 2 = (s.sets.state == 0 && s.ctxs.all (fun x => x.2.cmd == 0)) := rfl

theorem stateAllows_fwLoad (s : State) : s.stateAllows 0x2B80 5 1 = s.stageFree := rfl

/-- Every session is at Observer once they have been dropped. -/
theorem level_dropSessions (s : State) (x : Nat) : (s.dropSessions.session x).level = 0 := by
  unfold State.session State.dropSessions
  exact congrArg Session.level (Tab.get_map Session.reset (fun k => { k with level := 0, nonce := none, clearNonce := none }) rfl s.sessions x)

/-- A restart from a bank. -/
theorem restartMgmt_leaves (s : State) (b : Nat) (wd : Bool) : (s.restartMgmt b wd).fw = { s.fw with serving := false, switching := some (b, s.time.up, wd) } ∧
    (s.restartMgmt b wd).pwr.mgmtCrossing = false ∧ (∀ x, ((s.restartMgmt b wd).session x).level = 0) ∧
    (s.restartMgmt b wd).cores = s.cores ∧ (s.restartMgmt b wd).mem = s.mem :=
  ⟨rfl, rfl, level_dropSessions _, rfl, rfl⟩

theorem session_level_giveReply (s : State) (ses : Ses) (r : Reply) (x : Nat) : ((s.giveReply ses r).session x).level = (s.session x).level := by
  by_cases hx : x = ses
  · subst hx
    rw [State.session_giveReply]
  · exact congrArg Session.level (State.session_modSession_ne s _ hx)

/-! ## A load that ends -/

/-- The image kept, or refused, before staging is free again. -/
def State.fwKept (s : State) : State :=
  if Config.firmwareSigned (s.bytes 0 s.fw.len) then
    ({ s.keepLast (odKey 0x2B80 (2 + (1 - s.fw.active))) (s.fw.versions.getD (1 - s.fw.active) 0) with
      fw := { s.fw with status := 2, images := Tab.set s.fw.images (1 - s.fw.active) (s.bytes 0 s.fw.len),
                        versions := s.fw.versions.set (1 - s.fw.active) (Config.firmwareVersion (s.bytes 0 s.fw.len) % 2 ^ 32) } }).fwRecord 0 (1 - s.fw.active)
  else ({ s with fw := { s.fw with status := 4 } }).fwRecord 3 (1 - s.fw.active)

theorem fwWritten_eq {s : State} (hst : s.fw.status = 1) (hfw : s.stage.firmware = true) : s.fwWritten = s.fwKept.freeStage := by
  unfold State.fwWritten
  rw [if_neg (by simp [hst, hfw])]
  rfl

theorem fwKept_leaves (s : State) : s.fwKept.cores = s.cores ∧ s.fwKept.mem = s.mem ∧
    (Config.firmwareSigned (s.bytes 0 s.fw.len) = true → s.fwKept.fw.status = 2 ∧
      Tab.get [] s.fwKept.fw.images (1 - s.fw.active) = s.bytes 0 s.fw.len ∧ s.fwKept.fw.active = s.fw.active) ∧
    (Config.firmwareSigned (s.bytes 0 s.fw.len) = false → s.fwKept.fw = { s.fw with status := 4 }) := by
  unfold State.fwKept
  split
  · next h => exact ⟨rfl, rfl, fun _ => ⟨rfl, Tab.get_set_same .., rfl⟩, fun h' => absurd (h.symm.trans h') Bool.noConfusion⟩
  · next h => exact ⟨rfl, rfl, fun h' => absurd h' h, fun _ => rfl⟩

/-! ## A switch that ends -/

/-- The bank serves. -/
def State.bankServing (s : State) (b : Nat) (wd : Bool) : State :=
  let t := s.keepLast (odKey 0x2B80 1) s.fw.active
  let t : State := { t with fw := { t.fw with serving := true, active := b, switching := none },
                            outs := { t.outs with causeNow := setBit t.outs.causeNow 2 false } }
  if wd then t else t.fwRecord 1 b

theorem bankServing_leaves (s : State) (b : Nat) (wd : Bool) : (s.bankServing b wd).fw = { s.fw with serving := true, active := b, switching := none } ∧
    bit (s.bankServing b wd).outs.causeNow 2 = false ∧ (s.bankServing b wd).cores = s.cores ∧ (s.bankServing b wd).mem = s.mem := by
  cases wd
  · exact ⟨rfl, bit_setBit_same .., rfl, rfl⟩
  · exact ⟨rfl, bit_setBit_same .., rfl, rfl⟩

/-- The bank is abandoned for the one before it. -/
def State.bankAbandoned (s : State) (b : Nat) : State := (({ s.draw with fw := { s.fw with status := 3 } }).fwRecord 2 b).restartMgmt s.fw.active true

theorem bankAbandoned_leaves (s : State) (b : Nat) : (s.bankAbandoned b).fw.status = 3 ∧ (s.bankAbandoned b).fw.serving = false ∧
    (s.bankAbandoned b).fw.switching = some (s.fw.active, s.time.up, true) ∧ (s.bankAbandoned b).cores = s.cores ∧ (s.bankAbandoned b).mem = s.mem :=
  ⟨rfl, rfl, rfl, rfl, rfl⟩

/-! ## The watchdog -/

/-- The controller restarted by its watchdog, FAULT_N's cause apart. -/
def State.barked (s : State) : State :=
  let t := (s.restartMgmt s.fw.active true).fwRecord 4 s.fw.active
  { t with outs := { t.outs with causeNow := setBit t.outs.causeNow 2 true } }

theorem mgmtWatchdog_eq {s : State} (hw : s.pwr.watch = false) (hsw : s.fw.switching = none) : s.mgmtWatchdog = s.barked.setCause 2 := by
  unfold State.mgmtWatchdog
  rw [hw, hsw]
  rfl

/-- A write while the controller does not serve. -/
theorem hostWrite_dead {s : State} {ses : Ses} (hr : s.reachable ses = true) (hs : s.serves = false) (idx sub : Nat) (data : List Byte) :
    s.hostWrite ses idx sub data = if ses ≠ 0 then s.giveReply ses ⟨0x08000020, []⟩ else if s.pwr.mgmtCrossing = true then s else s.bump 0x2200 13 := by
  unfold State.hostWrite State.writeBy
  rw [if_neg (by simp [hr])]
  by_cases h0 : ses = 0
  · rw [if_pos ⟨h0, by rw [hs]; rfl⟩, if_neg (not_not.mpr h0)]
    rfl
  · have hw : s.writeObject ses idx sub data = (0x08000020, s) := by unfold State.writeObject; rw [hs]; rfl
    rw [if_neg (fun h => h0 h.1), if_pos h0, hw]
    exact if_neg (fun h => h0 h.1)

/-- Settles O50: the three commands, the end of a load and of a switch, and the watchdog. -/
theorem firmwareSwitches : Obligations.FirmwareSwitches := by
  unfold Obligations.FirmwareSwitches
  intro s ses img b
  have next {t u : State} (h : t = u) : (.next t : Out) = .next u := congrArg Host.Outcome.next h
  refine ⟨?_, ?_, ?_, ?_, ?_, ?_, ?_, ?_, ?_, ?_, ?_, ?_⟩
  · intro h hfree
    exact next (hostWrite_fwCmd h (le_refl 1) (by decide) ((stateAllows_fwLoad s).trans hfree))
  · intro h hfree
    exact next (hostWrite_fwCmd_disallowed h (le_refl 1) (by decide) ((stateAllows_fwLoad s).trans hfree))
  · intro h hsets hcmds
    obtain ⟨-, hcross, hlevel, hcores, hmem⟩ := restartMgmt_leaves s b false
    have hallow : s.stateAllows 0x2B80 5 2 = true := by rw [stateAllows_fwSwitch, hsets, hcmds]; rfl
    exact ⟨(s.restartMgmt b false).giveReply ses ⟨0, []⟩, next (hostWrite_fwCmd h (by decide) (by decide) hallow), rfl, rfl, hcross,
      fun x => (session_level_giveReply ..).trans (hlevel x), hcores, hmem⟩
  · intro h hbusy
    have hallow : s.stateAllows 0x2B80 5 2 = false := by
      rw [stateAllows_fwSwitch]
      obtain hsets | hcmds := hbusy
      · simp [hsets]
      · rw [hcmds, Bool.and_false]
    exact next (hostWrite_fwCmd_disallowed h (by decide) (by decide) hallow)
  · exact fun h => next (hostWrite_fwCmd h (by decide) (le_refl 3) rfl)
  · intro hst hfw
    obtain ⟨hcores, hmem, hgood, hbad⟩ := fwKept_leaves s
    have h := onlyStaging_freeStage s.fwKept
    refine ⟨s.fwKept.freeStage, next (fwWritten_eq hst hfw), ?_, ?_, freeStage_firmware _, h.cores.trans hcores, h.mem.trans hmem⟩
    · rw [h.fw]; exact hgood
    · rw [h.fw]; exact hbad
  · intro hno
    refine next (if_pos ?_)
    obtain hst | hfw := hno
    · exact .inl hst
    · exact .inr (by rw [hfw]; rfl)
  · intro hsw
    constructor
    · refine next ?_
      unfold State.fwServing
      rw [hsw]
    · refine next ?_
      unfold State.fwAbandon
      rw [hsw]
  · intro n since wd hsw
    have hserve : s.fwServing = if since + 2000000000 ≤ s.time.up then s else s.bankServing n wd := by
      unfold State.fwServing
      rw [hsw]
      rfl
    have habandon : s.fwAbandon = if s.time.up < since + 2000000000 ∧ Config.firmwareSelfCheck s.draws = true then s else s.bankAbandoned n := by
      unfold State.fwAbandon
      rw [hsw]
      rfl
    obtain ⟨hfw, hcause, hcores, hmem⟩ := bankServing_leaves s n wd
    obtain ⟨hstatus, hserving, hswitching, hcores', hmem'⟩ := bankAbandoned_leaves s n
    refine ⟨fun he => ⟨_, next (hserve.trans (if_neg (by omega))), hfw, hcause, hcores, hmem⟩, fun hl => next (hserve.trans (if_pos hl)),
      fun hl => ⟨_, next (habandon.trans (if_neg (by omega))), hstatus, hserving, hswitching, hcores', hmem'⟩, fun he => ?_⟩
    by_cases hcheck : Config.firmwareSelfCheck s.draws = true
    · exact ⟨s, next (habandon.trans (if_pos ⟨he, hcheck⟩)), fun _ => rfl, rfl, rfl⟩
    · exact ⟨_, next (habandon.trans (if_neg (fun h => hcheck h.2))), fun h => absurd h hcheck, hcores', hmem'⟩
  · intro hw hsw
    have h := onlyLines_setCause s.barked 2
    refine ⟨_, next (mgmtWatchdog_eq hw hsw), ?_, ?_, ?_, ?_, ?_, ?_, ?_⟩
    · exact (congrArg (fun x : State => x.fw.serving) h.eq :)
    · exact (congrArg (fun x : State => x.fw.switching) h.eq :)
    · exact (congrArg (fun x => bit x 2) h.faultCause :).trans (bit_setBit_same ..)
    · exact (congrArg (fun x : State => bit x.outs.causeNow 2) h.eq :).trans (bit_setBit_same ..)
    · exact fun x => (congrArg (fun y : State => (y.session x).level) h.eq :).trans (level_dropSessions _ x)
    · exact h.cores
    · exact h.mem
  · intro hno
    refine next (if_pos ?_)
    obtain hw | hsw := hno
    · rw [hw]; rfl
    · rw [Option.isSome_iff_ne_none.mpr hsw, Bool.or_true]
  · exact fun idx sub data hr hs => next (hostWrite_dead hr hs idx sub data)

end Sys2Proof.Machine

end

section
/-! SUPPORT. What frames sent leave of a port: its state, its remote, the order of frames received and the epochs reported; and, of a port that is
not UP, its credits (R177-R180). -/

namespace Sys2Proof.Machine

/-- A port but for what a frame sent changes: queues, replay buffer, the line, the credits owed, and while UP the credits held. -/
def Port.lasting (q : Port) : Port :=
  { q with out := [], flight := [], txSeq := 0, replay := [], onLine := none, owed := 0, nakDue := false, lastSent := 0,
           credits := if q.state = 2 then 0 else q.credits }

/-- What lasts of each port. -/
def State.lasting (s : State) (p : Nat) : Port := (s.port p).lasting

theorem lasting_state {s t : State} (h : t.lasting = s.lasting) (p : Nat) : (t.port p).state = (s.port p).state := (congrArg Port.state (congrFun h p) :)

theorem lasting_foldl {α : Type} {f : State → α → State} (hf : ∀ s a, (f s a).lasting = s.lasting) (l : List α) (s : State) :
    (l.foldl f s).lasting = s.lasting := by
  induction l generalizing s with
  | nil => rfl
  | cons a l ih => exact (ih _).trans (hf s a)

/-- A change of one port that leaves what lasts of it. -/
theorem lasting_modPort {s : State} {p : Nat} {f : Port → Port} (h : (f (s.port p)).lasting = (s.port p).lasting) : (s.modPort p f).lasting = s.lasting := by
  funext k
  unfold State.lasting
  by_cases hk : k = p
  · subst hk
    rw [State.port_modPort_same, h]
  · rw [State.port_modPort_ne s f hk]

/-! ## Operations on other parts of the state -/

theorem lasting_of_ports {s t : State} (h : t.ports = s.ports) : t.lasting = s.lasting := by
  unfold State.lasting State.port
  rw [h]

@[simp] theorem lasting_modCore (s : State) (c : Nat) (f : Core → Core) : (s.modCore c f).lasting = s.lasting := rfl
@[simp] theorem lasting_modSeq (s : State) (c : Nat) (f : Seq → Seq) : (s.modSeq c f).lasting = s.lasting := rfl
@[simp] theorem lasting_modComm (s : State) (c : Nat) (f : Comm → Comm) : (s.modComm c f).lasting = s.lasting := rfl
@[simp] theorem lasting_modOp (s : State) (c q : Nat) (f : Op → Op) : (s.modOp c q f).lasting = s.lasting := rfl
@[simp] theorem lasting_setEng (s : State) (c e : Nat) (g : Engine) : (s.setEng c e g).lasting = s.lasting := rfl
@[simp] theorem lasting_modDac (s : State) (ch : Nat) (f : Dac → Dac) : (s.modDac ch f).lasting = s.lasting := rfl
@[simp] theorem lasting_modTrip (s : State) (n : Nat) (f : Trip → Trip) : (s.modTrip n f).lasting = s.lasting := rfl
@[simp] theorem lasting_bumpBy (s : State) (i n v : Nat) : (s.bumpBy i n v).lasting = s.lasting := rfl
@[simp] theorem lasting_bump (s : State) (i n : Nat) : (s.bump i n).lasting = s.lasting := rfl
@[simp] theorem lasting_record (s : State) (src code : Nat) (l : List Nat) : (s.record src code l).lasting = s.lasting := rfl
@[simp] theorem lasting_msix (s : State) (v : Nat) : (s.msix v).lasting = s.lasting := rfl
@[simp] theorem lasting_draw (s : State) : s.draw.lasting = s.lasting := rfl
@[simp] theorem lasting_sendSync (s : State) (u : SyncUpd) : (s.sendSync u).lasting = s.lasting := rfl
@[simp] theorem lasting_toInbox (s : State) (l : List RecMsg) : (s.toInbox l).lasting = s.lasting := rfl
@[simp] theorem lasting_checkLatch (s : State) (c : Nat) : (s.checkLatch c).lasting = s.lasting := rfl
@[simp] theorem lasting_halt (s : State) (c i b h : Nat) : (s.halt c i b h).lasting = s.lasting := rfl
@[simp] theorem lasting_takeSeq (s : State) (c k n : Nat) : (s.takeSeq c k n).2.lasting = s.lasting := rfl
@[simp] theorem lasting_dieDrop (s : State) (d : Nat) : (s.dieDrop d).lasting = s.lasting := rfl
@[simp] theorem lasting_crossed (s : State) (a b n : Nat) : (s.crossed a b n).lasting = s.lasting := rfl
@[simp] theorem lasting_holdDac (s : State) (ch : Nat) (l : DacOut) : (s.holdDac ch l).lasting = s.lasting := rfl
@[simp] theorem lasting_releaseDac (s : State) (ch : Nat) : (s.releaseDac ch).lasting = s.lasting := rfl
@[simp] theorem lasting_nackLocal (s : State) (c : Nat) (m : Msg) : (s.nackLocal c m).lasting = s.lasting := rfl
@[simp] theorem lasting_refillBound (s : State) : s.refillBound.lasting = s.lasting := rfl

/-! ## Outputs and the mirror state -/

@[simp] theorem lasting_ringTrigger (s : State) (n : Nat) : (s.ringTrigger n).lasting = s.lasting := by
  unfold State.ringTrigger
  refine lasting_foldl (fun s r => ?_) _ s
  dsimp only
  split_ifs <;> rfl

@[simp] theorem lasting_assertTrip (s : State) (n src : Nat) : (s.assertTrip n src).lasting = s.lasting := by
  unfold State.assertTrip
  exact lasting_ringTrigger ..

@[simp] theorem lasting_mirrorTrip (s : State) (n : Nat) (ev : Option Nat) : (s.mirrorTrip n ev).lasting = s.lasting := by
  unfold State.mirrorTrip
  dsimp only
  split <;> split_ifs <;> simp

@[simp] theorem lasting_updateTrip (s : State) (n : Nat) : (s.updateTrip n).lasting = s.lasting := by
  unfold State.updateTrip
  dsimp only
  split_ifs <;> simp

@[simp] theorem lasting_updateTrips (s : State) : s.updateTrips.lasting = s.lasting := lasting_foldl lasting_updateTrip _ s

@[simp] theorem lasting_setMirror (s : State) (st cause : Nat) : (s.setMirror st cause).lasting = s.lasting := by
  unfold State.setMirror
  split
  · rfl
  · unfold State.showMirror
    dsimp only
    split
    · exact lasting_updateTrip ..
    · rfl

@[simp] theorem lasting_holdOutputs (s : State) : s.holdOutputs.lasting = s.lasting := by
  unfold State.holdOutputs
  refine (lasting_foldl (fun s n => ?_) _ _).trans (Eq.trans rfl (lasting_foldl (fun s ch => ?_) _ s))
  · split <;> simp
  · split <;> simp

@[simp] theorem lasting_toStandby (s : State) (cause : Nat) : (s.toStandby cause).lasting = s.lasting := by simp [State.toStandby]

@[simp] theorem lasting_releaseOutputs (s : State) : s.releaseOutputs.lasting = s.lasting := by
  unfold State.releaseOutputs
  refine (lasting_updateTrips _).trans ((lasting_foldl (fun s ch => lasting_releaseDac s ch) _ _).trans ?_)
  exact (lasting_foldl (fun s n => lasting_modTrip ..) (List.range 32) _).trans rfl

@[simp] theorem lasting_pairMirror (s : State) (p role : Nat) (act : Bool) : (s.pairMirror p role act).lasting = s.lasting := by
  unfold State.pairMirror
  dsimp only
  split_ifs <;> simp

/-! ## Frames out -/

@[simp] theorem lasting_onLine (s : State) (p n : Nat) (f : FlueFrame) : (s.onLine p n f).lasting = s.lasting := lasting_modPort rfl

@[simp] theorem lasting_sendIdle (s : State) (p : Nat) : (s.sendIdle p).lasting = s.lasting := lasting_onLine ..

@[simp] theorem lasting_sendHello (s : State) (p : Nat) : (s.sendHello p).lasting = s.lasting := lasting_onLine ..

/-- Credits are taken of a port that is UP. -/
theorem lasting_sendFrame {s : State} {p : Nat} (h : (s.port p).state = 2) (f : FlueFrame) : (s.sendFrame p f).lasting = s.lasting := by
  unfold State.sendFrame
  dsimp only
  rw [lasting_bump]
  refine Eq.trans (lasting_modPort ?_) (lasting_onLine s p _ f)
  have hs : ((s.onLine p (((s.port p).txSeq + 1) % 65536) f).port p).state = 2 := (lasting_state (lasting_onLine ..) p).trans h
  unfold Port.lasting
  simp only [hs, if_true]

theorem lasting_sendFrames {s : State} {p : Nat} (h : (s.port p).state = 2) (fs : List FlueFrame) :
    (fs.foldl (fun s f => s.sendFrame p f) s).lasting = s.lasting := by
  induction fs generalizing s with
  | nil => rfl
  | cons f fs ih => exact (ih ((lasting_state (lasting_sendFrame h f) p).trans h)).trans (lasting_sendFrame h f)

@[simp] theorem lasting_portFlow (s : State) (p n : Nat) : (s.portFlow p n).lasting = s.lasting := by
  induction n generalizing s with
  | zero => rfl
  | succ n ih =>
    unfold State.portFlow
    dsimp only
    split
    · rfl
    · split
      · rfl
      · next h =>
        have hup : (s.port p).state = 2 := not_not.mp (not_or.mp h).1
        split
        · exact (ih _).trans ((lasting_modPort rfl).trans (lasting_sendFrame hup _))
        · refine (ih _).trans ?_
          split
          · exact (lasting_toStandby ..).trans ((lasting_modPort rfl).trans (lasting_sendFrames hup _))
          · exact (lasting_modPort rfl).trans (lasting_sendFrames hup _)

@[simp] theorem lasting_sendItem (s : State) (p : Nat) (it : OutItem) : (s.sendItem p it).lasting = s.lasting :=
  (lasting_portFlow ..).trans (lasting_modPort rfl)

@[simp] theorem lasting_portTurn (s : State) (p : Nat) : (s.portTurn p).lasting = s.lasting := by
  unfold State.portTurn
  dsimp only
  split_ifs <;> simp

@[simp] theorem lasting_portAnswer (s : State) (p : Nat) (h : FlueHdr) : (s.portAnswer p h).lasting = s.lasting := by
  unfold State.portAnswer
  split_ifs <;> simp

@[simp] theorem lasting_resend (s : State) (p : Nat) : (s.resend p).lasting = s.lasting :=
  lasting_foldl (fun s f => by simp) _ s

end Sys2Proof.Machine

end

section
/-! Flue links: frames received and answered, and links that come up (R177, R183). Settles O33. -/

namespace Sys2Proof.Machine

/-- Only the ports and the counters differ. -/
def OnlyFrames (s t : State) : Prop := t = { s with ports := t.ports, counters := t.counters }

theorem OnlyFrames.eq {s t : State} (h : OnlyFrames s t) : t = { s with ports := t.ports, counters := t.counters } := h

theorem OnlyFrames.trans {s t u : State} (h : OnlyFrames s t) (k : OnlyFrames t u) : OnlyFrames s u :=
  k.eq.trans (congrArg (fun x : State => { x with ports := u.ports, counters := u.counters }) h.eq :)

theorem onlyFrames_sendHello (s : State) (p : Nat) : OnlyFrames s (s.sendHello p) := rfl

theorem onlyFrames_resend (s : State) (p : Nat) : OnlyFrames s (s.resend p) := by
  unfold State.resend
  generalize (s.port p).replay = l
  induction l generalizing s with
  | nil => exact rfl
  | cons f l ih => exact (show OnlyFrames s ((s.onLine p f.seq f.frame).bump (0x2D08 + p) 5) from rfl).trans (ih _)

/-! ## A frame's header -/

/-- A port with what a header acknowledges and returns taken up. -/
def Port.acknowledged (q : Port) (h : FlueHdr) (now : Nat) : Port :=
  { q with acked := h.ack, replay := q.replay.filter (fun f => !ackedBy f.seq h.ack), credits := q.credits + h.creditRet, lastFrame := now }

/-- A port but for what a frame that goes over the line changes. -/
def Port.offLine (q : Port) : Port := { q with onLine := none, owed := 0, nakDue := false, lastSent := 0 }

/-- A frame that goes over the line, and what it carries back. -/
theorem port_onLine (s : State) (p n : Nat) (f : FlueFrame) : (s.onLine p n f).port p =
    { s.port p with
      onLine := some ⟨f, n, (s.port p).rxSeq, (s.port p).nakDue, min 255 (s.port p).owed, mirrorRole s.mirror.state⟩
      owed := (s.port p).owed - min 255 (s.port p).owed, nakDue := false, lastSent := s.time.up } := State.port_modPort_same s p _

theorem offLine_resend (s : State) (p : Nat) : ((s.resend p).port p).offLine = (s.port p).offLine := by
  unfold State.resend
  generalize (s.port p).replay = l
  induction l generalizing s with
  | nil => rfl
  | cons f l ih =>
    have h : (((s.onLine p f.seq f.frame).bump (0x2D08 + p) 5).port p).offLine = (s.port p).offLine :=
      (congrArg Port.offLine (port_onLine s p f.seq f.frame) :)
    exact (ih _).trans h

/-- A header's acknowledgements and credits. -/
def State.acknowledge (s : State) (p : Nat) (h : FlueHdr) : State := s.modPort p (fun q => q.acknowledged h s.time.up)

theorem port_acknowledge (s : State) (p : Nat) (h : FlueHdr) : (s.acknowledge p h).port p = (s.port p).acknowledged h s.time.up :=
  State.port_modPort_same s p _

/-- A replay that NAK asks for. -/
def State.portReplayed (s : State) (p : Nat) : State := ((s.resend p).bump (flueIdx p) 7).modPort p (fun q => { q with replayRun := q.replayRun + 1 })

theorem frameHeader_eq (s : State) (p : Nat) (h : FlueHdr) : s.frameHeader p h =
    if h.nak then (if ((s.acknowledge p h).port p).replay.isEmpty then s.acknowledge p h else (s.acknowledge p h).portReplayed p)
    else (s.acknowledge p h).modPort p (fun q => { q with replayRun := 0 }) := rfl

theorem port_portReplayed (s : State) (p : Nat) : (s.portReplayed p).port p = { (s.resend p).port p with replayRun := ((s.resend p).port p).replayRun + 1 } :=
  State.port_modPort_same ((s.resend p).bump (flueIdx p) 7) p _

theorem offLine_replayRun {q r : Port} (h : q.offLine = r.offLine) (f : Nat → Nat) :
    ({ q with replayRun := f q.replayRun } : Port).offLine = ({ r with replayRun := f r.replayRun } : Port).offLine :=
  congrArg (fun q : Port => { q with replayRun := f q.replayRun }) h

/-- A port after a header but for what its replay puts on the line. -/
theorem offLine_frameHeader (s : State) (p : Nat) (h : FlueHdr) : ∃ run, ((s.frameHeader p h).port p).offLine =
    ({ (s.port p).acknowledged h s.time.up with replayRun := run } : Port).offLine := by
  rw [frameHeader_eq]
  have hp := port_acknowledge s p h
  split
  · split
    · exact ⟨(s.port p).replayRun, by rw [hp]; rfl⟩
    · refine ⟨(s.port p).replayRun + 1, ?_⟩
      rw [port_portReplayed, offLine_replayRun (offLine_resend _ p) (· + 1), hp]
      rfl
  · refine ⟨0, ?_⟩
    rw [State.port_modPort_same, hp]

/-- What a header leaves of its port. -/
structure HeaderLeaves (s : State) (p : Nat) (h : FlueHdr) (t : State) : Prop where
  only : OnlyFrames s t
  state : (t.port p).state = (s.port p).state
  trained : (t.port p).trained = (s.port p).trained
  rejoin : (t.port p).rejoin = (s.port p).rejoin
  conflict : (t.port p).conflict = (s.port p).conflict
  remoteId : (t.port p).remoteId = (s.port p).remoteId
  remoteRole : (t.port p).remoteRole = (s.port p).remoteRole
  out : (t.port p).out = (s.port p).out
  rxSeq : (t.port p).rxSeq = (s.port p).rxSeq
  replay : (t.port p).replay = (s.port p).replay.filter (fun f => !ackedBy f.seq h.ack)

theorem headerLeaves_frameHeader (s : State) (p : Nat) (h : FlueHdr) : HeaderLeaves s p h (s.frameHeader p h) := by
  obtain ⟨run, hoff⟩ := offLine_frameHeader s p h
  refine ⟨?_, (congrArg Port.state hoff :), (congrArg Port.trained hoff :), (congrArg Port.rejoin hoff :), (congrArg Port.conflict hoff :),
    (congrArg Port.remoteId hoff :), (congrArg Port.remoteRole hoff :), (congrArg Port.out hoff :), (congrArg Port.rxSeq hoff :), (congrArg Port.replay hoff :)⟩
  rw [frameHeader_eq]
  split
  · split
    · exact rfl
    · have hr : OnlyFrames (s.acknowledge p h) ((s.acknowledge p h).portReplayed p) := (onlyFrames_resend _ p).trans rfl
      exact (show OnlyFrames s (s.acknowledge p h) from rfl).trans hr
  · exact rfl

/-! ## What a port sends -/

/-- A port that is not UP, or has nothing waiting, sends nothing of its queue. -/
theorem portFlow_idle {s : State} {p : Nat} (h : (s.port p).state ≠ 2 ∨ (s.port p).out = []) (n : Nat) : s.portFlow p n = s := by
  cases n with
  | zero => rfl
  | succ n =>
    unfold State.portFlow
    dsimp only
    split
    · rfl
    · next it t htake =>
      obtain hs | ho := h
      · rw [if_pos (.inl hs)]
      · rw [ho] at htake
        cases htake

theorem portTurn_idle {s : State} {p : Nat} (h : (s.port p).state ≠ 2 ∨ (s.port p).out = []) : s.portTurn p =
    if (s.port p).state = 1 then s.sendHello p else if (s.port p).state = 2 then s.sendIdle p else s := by
  unfold State.portTurn
  dsimp only
  rw [portFlow_idle h]
  simp

theorem portAnswer_idle {s : State} {p : Nat} (h : (s.port p).state ≠ 2 ∨ (s.port p).out = []) (hdr : FlueHdr) : s.portAnswer p hdr =
    if hdr.nak && !(s.port p).replay.isEmpty then s
    else if (s.port p).state = 1 then s.sendHello p else if (s.port p).state = 2 then s.sendIdle p else s := by
  unfold State.portAnswer
  rw [portFlow_idle h, portTurn_idle h]

/-! ## A replay -/

/-- The last frame replayed stands on the line. -/
theorem onLine_resend {s : State} {p : Nat} (h : (s.port p).replay ≠ []) :
    ((s.resend p).port p).onLine.map (fun x => (x.seq, x.frame)) = (s.port p).replay.getLast?.map (fun x => (x.seq, x.frame)) := by
  unfold State.resend
  generalize (s.port p).replay = l at h
  obtain ⟨l, x, rfl⟩ := (List.eq_nil_or_concat l).resolve_left h
  rw [List.concat_eq_append, List.foldl_append, List.getLast?_concat]
  generalize l.foldl _ s = t
  exact (congrArg (fun q : Port => q.onLine.map (fun x => (x.seq, x.frame))) (port_onLine t p x.seq x.frame) :)

/-- The replays of a port are counted apart from its frames. -/
theorem count_resend (s : State) (p n : Nat) (hn : n < 256 ∧ n ≠ 5) : (s.resend p).count (flueIdx p) n = s.count (flueIdx p) n := by
  unfold State.resend
  generalize (s.port p).replay = l
  induction l generalizing s with
  | nil => rfl
  | cons f l ih =>
    refine (ih _).trans ((State.count_bumpBy_ne (s.onLine p f.seq f.frame) 1 ?_).trans (State.count_congr _ _ rfl rfl rfl))
    unfold flueIdx odKey
    omega

/-! ## What a received frame and its answer leave -/

theorem modPort_modPort (s : State) (p : Nat) (f g : Port → Port) : (s.modPort p f).modPort p g = s.modPort p (fun q => g (f q)) := by
  have h := State.port_modPort_same s p f
  unfold State.modPort at h ⊢
  rw [h]
  simp only [Tab.set_set]

theorem onlyLines_pairMirror (s : State) (p role : Nat) (act : Bool) : OnlyLines s (s.pairMirror p role act) := by
  unfold State.pairMirror
  dsimp only
  split
  · exact .refl s
  · split
    · split
      · exact .trans (onlyLines_setMirror ..) (onlyLines_releaseOutputs _)
      · exact onlyLines_setMirror ..
    · split
      · split
        · exact onlyLines_setMirror ..
        · exact onlyLines_toStandby ..
      · split
        · exact onlyLines_setMirror ..
        · split
          · exact .refl s
          · split
            · exact onlyLines_setMirror ..
            · exact onlyLines_toStandby ..

theorem onlyLines_sendHello (s : State) (p : Nat) : OnlyLines s (s.sendHello p) := .trans (onlyLines_onLine ..) (onlyLines_bump ..)

theorem onlyLines_portTurn (s : State) (p : Nat) : OnlyLines s (s.portTurn p) := by
  have h := onlyLines_portFlow s p (s.port p).credits
  unfold State.portTurn
  dsimp only
  split
  · exact h.trans (onlyLines_sendHello ..)
  · split
    · exact h.trans (onlyLines_onLine ..)
    · exact h

theorem onlyLines_portAnswer (s : State) (p : Nat) (h : FlueHdr) : OnlyLines s (s.portAnswer p h) := by
  unfold State.portAnswer
  split
  · exact onlyLines_portFlow ..
  · exact onlyLines_portTurn ..

/-! ## Frames in -/

section
variable {s : State} {p : Nat} {h : FlueHdr}

theorem rejoin_none (hq : (s.port p).rejoin = false ∨ (s.port p).state ≠ 2) : (s.frameHeader p h).rejoin p h = s.frameHeader p h := by
  have hl := headerLeaves_frameHeader s p h
  unfold State.rejoin
  dsimp only
  rw [hl.rejoin, hl.state]
  refine if_neg ?_
  obtain hq | hq := hq <;> simp [hq]

theorem rejoin_due (hj : (s.port p).rejoin = true) (hs : (s.port p).state = 2) : (s.frameHeader p h).rejoin p h =
    ((s.frameHeader p h).modPort p (fun q => { q with rejoin := false })).pairMirror p (s.port p).remoteRole (h.role == 1) := by
  have hl := headerLeaves_frameHeader s p h
  unfold State.rejoin
  dsimp only
  rw [hl.rejoin, hl.state, hl.remoteRole, hj, hs]
  rfl

variable {n : Nat} {act : State → State}

theorem flueReceive_untrained (ht : (s.port p).trained = false) : s.flueReceive p h n act = s := by
  unfold State.flueReceive
  dsimp only
  rw [ht]
  rfl

variable (ht : (s.port p).trained = true)
include ht

theorem flueReceive_badCrc (hc : h.crcOk = false) : s.flueReceive p h n act =
    if (s.port p).state = 1 then (s.modPort p (fun q => { q with nakDue := true })).sendHello p else s.modPort p (fun q => { q with nakDue := true }) := by
  unfold State.flueReceive
  dsimp only
  rw [ht, hc]
  rfl

variable (hc : h.crcOk = true)
include hc

theorem flueReceive_unnumbered : s.flueReceive p h 0 act = (act ((s.frameHeader p h).rejoin p h)).portAnswer p h := by
  unfold State.flueReceive
  dsimp only
  rw [ht, hc]
  rfl

variable (hn : 0 < n) (hs : (s.port p).state = 2)
include hn hs

theorem flueReceive_inTurn (hseq : h.seq = ((s.port p).rxSeq + n) % 65536) : s.flueReceive p h n act =
    (act ((((s.frameHeader p h).rejoin p h).modPort p (fun q => { q with rxSeq := h.seq, nakDue := false, owed := q.owed + n, heard := true })).bumpBy
      (flueIdx p) 6 n)).portAnswer p h := by
  unfold State.flueReceive
  dsimp only
  rw [ht, hc, if_neg (by decide), if_neg (by decide), if_neg hn.ne', if_neg (not_not.mpr hs), if_pos hseq]

theorem flueReceive_duplicate (hseq : h.seq ≠ ((s.port p).rxSeq + n) % 65536) (hack : ackedBy h.seq (s.port p).rxSeq = true) :
    s.flueReceive p h n act = ((s.frameHeader p h).rejoin p h).portAnswer p h := by
  unfold State.flueReceive
  dsimp only
  rw [ht, hc, if_neg (by decide), if_neg (by decide), if_neg hn.ne', if_neg (not_not.mpr hs), if_neg hseq, if_pos hack]

theorem flueReceive_ahead (hseq : h.seq ≠ ((s.port p).rxSeq + n) % 65536) (hack : ackedBy h.seq (s.port p).rxSeq = false) :
    s.flueReceive p h n act = (((s.frameHeader p h).rejoin p h).modPort p (fun q => { q with nakDue := true })).portAnswer p h := by
  unfold State.flueReceive
  dsimp only
  rw [ht, hc, if_neg (by decide), if_neg (by decide), if_neg hn.ne', if_neg (not_not.mpr hs), if_neg hseq, if_neg (by rw [hack]; decide)]

end

/-! ## HELLO -/

/-- What a HELLO tells of the remote. -/
def State.introduced (s : State) (p : Nat) (h : FlueHdr) (m rp role : Nat) : State :=
  (s.bump (flueIdx p) 6).modPort p (fun q => { q with remoteId := m, remoteSerial := h.aux, remotePort := rp, remoteRole := role })

theorem port_introduced (s : State) (p : Nat) (h : FlueHdr) (m rp role : Nat) : (s.introduced p h m rp role).port p =
    { s.port p with remoteId := m, remoteSerial := h.aux, remotePort := rp, remoteRole := role } := State.port_modPort_same (s.bump (flueIdx p) 6) p _

/-- A conflict of MODULE_IDs is recorded once. -/
def State.conflicted (s : State) (p : Nat) : State := (s.flueRecord p 3 0).modPort p (fun q => { q with conflict := true })

section
variable {s : State} {p : Nat} {h : FlueHdr} {m rp role : Nat} (ht : (s.port p).trained = true) (hc : h.crcOk = true) (hs : (s.port p).state = 1)
include ht hc hs

theorem hello_eq : s.hello p h m rp role =
    (if m = s.cfg 0x2D00 1 then
      (if (s.port p).conflict then (s.frameHeader p h).introduced p h m rp role else ((s.frameHeader p h).introduced p h m rp role).conflicted p)
    else (((s.frameHeader p h).introduced p h m rp role).sendHello p).linkUp p role (h.role == 1)).portAnswer p h := by
  have hl := headerLeaves_frameHeader s p h
  have hcfg : ((s.frameHeader p h).introduced p h m rp role).cfg 0x2D00 1 = s.cfg 0x2D00 1 := (congrArg (fun x : State => x.cfg 0x2D00 1) hl.only :)
  unfold State.hello
  rw [flueReceive_unnumbered ht hc, rejoin_none (.inr (by rw [hs]; decide))]
  show State.portAnswer (if m = ((s.frameHeader p h).introduced p h m rp role).cfg 0x2D00 1 then _ else _) p h = _
  rw [hcfg, hl.conflict, hl.state, if_pos hs]
  rfl

/-- A HELLO of the module's own number. -/
theorem hello_conflict (hm : m = s.cfg 0x2D00 1) : ∃ v : State, v.portAnswer p h = s.hello p h m rp role ∧ (v.port p).state = 1 ∧ (v.port p).remoteId = m ∧
    (v.port p).conflict = true ∧ v.ash = (if (s.port p).conflict = true then s else (s.modPort p (fun q => { q with remoteId := m })).flueRecord p 3 0).ash ∧
    v.mirror = s.mirror ∧ v.cores = s.cores ∧ v.mem = s.mem := by
  have hl := headerLeaves_frameHeader s p h
  have hp := port_introduced (s.frameHeader p h) p h m rp role
  have ho : OnlyFrames s ((s.frameHeader p h).introduced p h m rp role) := hl.only.trans rfl
  rw [hello_eq ht hc hs, if_pos hm]
  generalize (s.frameHeader p h).introduced p h m rp role = u at hp ho
  have hstate : (u.port p).state = 1 := by rw [hp]; exact hl.state.trans hs
  have hid : (u.port p).remoteId = m := by rw [hp]
  split
  · next hconf =>
    exact ⟨u, rfl, hstate, hid, by rw [hp]; exact hl.conflict.trans hconf, (congrArg State.ash ho.eq :), (congrArg State.mirror ho.eq :),
      (congrArg State.cores ho.eq :), (congrArg State.mem ho.eq :)⟩
  · have hport := State.port_modPort_same (u.flueRecord p 3 0) p (fun q => { q with conflict := true })
    refine ⟨u.conflicted p, rfl, (congrArg Port.state hport :).trans hstate, (congrArg Port.remoteId hport :).trans hid, (congrArg Port.conflict hport :), ?_,
      (congrArg State.mirror ho.eq :), (congrArg State.cores ho.eq :), (congrArg State.mem ho.eq :)⟩
    have hrec : (s.modPort p (fun q => { q with remoteId := m })).flueRecord p 3 0 =
        (s.modPort p (fun q => { q with remoteId := m })).record (flueSource p) 0x0030 [3, 0, m] := by
      unfold State.flueRecord
      rw [State.port_modPort_same]
    rw [hrec]
    show (u.record (flueSource p) 0x0030 [3, 0, (u.port p).remoteId]).ash = _
    rw [hid]
    exact (congrArg (fun x : State => (x.record (flueSource p) 0x0030 [3, 0, m]).ash) ho.eq :)

end

/-- The link is UP and this module's epochs have been reported. -/
def State.reported (s : State) (p : Nat) : State :=
  let u := (s.modPort p (fun q => { q with state := 2 })).flueRecord p 1 0
  if (u.report p).isEmpty then u else u.sendItem p ⟨epochFrames (u.report p), none, none⟩

theorem linkUp_eq (s : State) (p role : Nat) (act : Bool) : s.linkUp p role act = (s.reported p).refillBound.pairMirror p role act := rfl

theorem lasting_reported (s : State) (p : Nat) : (s.reported p).lasting = (s.modPort p (fun q => { q with state := 2 })).lasting := by
  unfold State.reported
  dsimp only
  split
  · rfl
  · exact lasting_sendItem ..

theorem onlyLines_reported (s : State) (p : Nat) : OnlyLines s (s.reported p) := by
  have h : OnlyLines s ((s.modPort p (fun q => { q with state := 2 })).flueRecord p 1 0) := .trans (onlyLines_modPort ..) (onlyLines_record ..)
  unfold State.reported
  dsimp only
  split
  · exact h
  · exact h.trans (onlyLines_sendItem ..)

/-- A link that has come UP, and the answer to the HELLO that brought it there. -/
theorem linkUp_leaves (s : State) (p role : Nat) (act : Bool) (h : FlueHdr) : let t := (s.linkUp p role act).portAnswer p h
    (t.port p).lasting = ({ s.port p with state := 2 } : Port).lasting ∧ t.ctxs = s.ctxs ∧ t.engines = s.engines ∧ t.mem = s.mem := by
  have hr := onlyLines_reported s p
  have hp := onlyLines_pairMirror (s.reported p).refillBound p role act
  have ha := onlyLines_portAnswer (s.linkUp p role act) p h
  refine ⟨?_, ha.ctxs.trans (hp.ctxs.trans hr.ctxs), ha.engines.trans (hp.engines.trans hr.engines), ha.mem.trans (hp.mem.trans hr.mem)⟩
  refine (congrFun (lasting_portAnswer ..) p).trans ?_
  rw [linkUp_eq, lasting_pairMirror, lasting_refillBound, lasting_reported]
  unfold State.lasting
  rw [State.port_modPort_same]

/-- Settles O33: a received frame by its checks, and a HELLO by the number it brings. -/
theorem flueLinksComeUp : Obligations.FlueLinksComeUp := by
  unfold Obligations.FlueLinksComeUp
  have next {t u : State} (h : t = u) : (.next t : Out) = .next u := congrArg Host.Outcome.next h
  constructor
  · intro s p h es q f u
    have hl := headerLeaves_frameHeader s p h
    refine ⟨rejoin_none, rejoin_due, fun ht => ⟨next (flueReceive_untrained ht), next (flueReceive_untrained ht)⟩, fun ht hc => next (flueReceive_badCrc ht hc),
      fun ht hc => next (flueReceive_unnumbered ht hc), ?_, (congrArg Port.onLine (port_onLine s p 0 ⟨0, false, false, 0, 0, []⟩) :), ?_, ?_, ?_⟩
    · intro ht hc hnak hout hj v
      have hf : f = (s.acknowledge p h).modPort p (fun q => { q with replayRun := 0 }) := (frameHeader_eq s p h).trans (if_neg (by rw [hnak]; decide))
      have hv : f.modPort p (fun q => { q with heard := true }) = v := by
        rw [hf]
        unfold State.acknowledge
        rw [modPort_modPort, modPort_modPort]
        rfl
      have hport : v.port p = { f.port p with heard := true } := by rw [← hv, State.port_modPort_same]
      refine next ((flueReceive_unnumbered ht hc).trans ?_)
      rw [rejoin_none (.inl hj), show (s.frameHeader p h).modPort p (fun q => { q with heard := true }) = v from hv,
        portAnswer_idle (.inr (by rw [hport]; exact hl.out.trans hout)), hnak, hport]
      show (if (f.port p).state = 1 then _ else if (f.port p).state = 2 then _ else _) = _
      rw [hl.state]
    · intro hnak hre
      have hack := port_acknowledge s p h
      have hne : ((s.acknowledge p h).port p).replay.isEmpty = false := by rw [hack]; simpa [Port.acknowledged] using hre
      have hf : f = (s.acknowledge p h).portReplayed p := by
        refine (frameHeader_eq s p h).trans ?_
        rw [hnak, hne]
        rfl
      have hport := port_portReplayed (s.acknowledge p h) p
      refine ⟨?_, ?_, ?_, ?_⟩
      · rw [hf, hport]
        show ((((s.acknowledge p h).resend p).port p).replayRun) + 1 = _
        have hrun : ((((s.acknowledge p h).resend p).port p).replayRun) = ((s.acknowledge p h).port p).replayRun :=
          (congrArg Port.replayRun (offLine_resend (s.acknowledge p h) p) :)
        rw [hrun, hack]
        rfl
      · rw [hf, hport]
        refine (onLine_resend (by simpa using hne)).trans ?_
        rw [hack]
        rfl
      · intro ht hc hout hj
        have hp : (f.modPort p (fun q => { q with heard := true })).port p = { f.port p with heard := true } := State.port_modPort_same f p _
        refine next ((flueReceive_unnumbered ht hc).trans ?_)
        rw [rejoin_none (.inl hj)]
        show State.portAnswer (f.modPort p (fun q => { q with heard := true })) p h = _
        rw [portAnswer_idle (.inr (by rw [hp]; exact hl.out.trans hout)), hnak, hp]
        have hrep : (f.port p).replay = q.replay.filter (fun f => !ackedBy f.seq h.ack) := hl.replay
        refine if_pos ?_
        rw [hrep]
        simpa using hre
      · rw [hf]
        have ho : OnlyFrames s ((s.acknowledge p h).resend p) := (show OnlyFrames s (s.acknowledge p h) from rfl).trans (onlyFrames_resend _ p)
        have hcount : ((s.acknowledge p h).resend p).count (flueIdx p) 7 = s.count (flueIdx p) 7 :=
          (count_resend _ p 7 (by decide)).trans (State.count_congr _ _ rfl rfl rfl)
        refine Eq.trans ?_ (State.count_bump_of_count (congrArg State.part ho.eq :) (congrArg (fun x : State => x.sets.active) ho.eq :) hcount)
        exact State.count_congr (s := ((s.acknowledge p h).resend p).bump (flueIdx p) 7) _ _ rfl rfl rfl
    · exact fun ht hc hs hseq hack => next (flueReceive_ahead ht hc one_pos hs hseq hack)
    · exact fun ht hc hs hseq hack => next (flueReceive_duplicate ht hc one_pos hs hseq hack)
  · intro s p h m rp role ht hc hs
    constructor
    · intro hm
      have hl := headerLeaves_frameHeader s p h
      have hi := port_introduced (s.frameHeader p h) p h m rp role
      have hintro : OnlyFrames s ((s.frameHeader p h).introduced p h m rp role) := hl.only.trans rfl
      have ho := hintro.trans (onlyFrames_sendHello _ p)
      have hlast := congrFun (lasting_sendHello ((s.frameHeader p h).introduced p h m rp role) p) p
      have ht := (hello_eq (h := h) (m := m) (rp := rp) (role := role) ht hc hs).trans (congrArg (fun x => State.portAnswer x p h) (if_neg hm))
      generalize ((s.frameHeader p h).introduced p h m rp role).sendHello p = w at ho hlast ht
      obtain ⟨hport, hctxs, hengines, hmem⟩ := linkUp_leaves w p role (h.role == 1) h
      have hid : (w.port p).remoteId = m := (congrArg Port.remoteId hlast :).trans (congrArg Port.remoteId hi :)
      have hrp : (w.port p).remotePort = rp := (congrArg Port.remotePort hlast :).trans (congrArg Port.remotePort hi :)
      have hserial : (w.port p).remoteSerial = h.aux := (congrArg Port.remoteSerial hlast :).trans (congrArg Port.remoteSerial hi :)
      have hc' : ((w.linkUp p role (h.role == 1)).portAnswer p h).ctxs = s.ctxs := hctxs.trans (congrArg State.ctxs ho.eq :)
      exact ⟨_, next ht, (congrArg Port.state hport :), (congrArg Port.remoteId hport :).trans hid, (congrArg Port.remotePort hport :).trans hrp,
        (congrArg Port.remoteSerial hport :).trans hserial, fun x => congrArg (fun t => Tab.get Ctx.reset t x) hc',
        hengines.trans (congrArg State.engines ho.eq :), hmem.trans (congrArg State.mem ho.eq :)⟩
    · intro hm
      obtain ⟨v, hv, hstate, hid, hconf, hash, hmirror, hcores, hmem⟩ := hello_conflict (rp := rp) (role := role) ht hc hs hm
      have hans := portAnswer_idle (.inl (by rw [hstate]; decide)) h
      have hlast := congrFun (lasting_portAnswer v p h) p
      have ho : OnlyFrames v (v.portAnswer p h) := by
        rw [hans, hstate]
        split
        · exact rfl
        · exact rfl
      exact ⟨_, next hv.symm, (congrArg Port.state hlast :).trans hstate, (congrArg Port.remoteId hlast :).trans hid, (congrArg State.ash ho.eq :).trans hash,
        (congrArg Port.conflict hlast :).trans hconf, (congrArg State.mirror ho.eq :).trans hmirror, (congrArg State.cores ho.eq :).trans hcores,
        (congrArg State.mem ho.eq :).trans hmem⟩

end Sys2Proof.Machine

end

section
/-! SUPPORT. What the ops of a core leave of the Flue ports: a SEND, a RECV and what follows them change only what frames sent change. -/

namespace Sys2Proof.Machine

@[simp] theorem lasting_drawN (s : State) (n : Nat) : (s.drawN n).lasting = s.lasting := rfl
@[simp] theorem lasting_poke (s : State) (a : Nat) (bs : List Byte) : (s.poke a bs).lasting = s.lasting := rfl

/-! ## The way between dies -/

theorem lasting_fate (s : State) (u : Bool) : (s.fate u).2.lasting = s.lasting := by
  unfold State.fate
  split <;> rfl

theorem lasting_way (s : State) (a b n : Nat) (u : Bool) : (s.way a b n u).2.lasting = s.lasting := by
  have hf := lasting_fate s u
  unfold State.way
  split
  · rfl
  · split
    · rfl
    · split <;> (next h => rw [h] at hf; exact hf)

theorem lasting_way_of {s t : State} {a b n : Nat} {u : Bool} {w : Way} (h : s.way a b n u = (w, t)) : t.lasting = s.lasting := by
  have hw := lasting_way s a b n u
  rwa [h] at hw

@[simp] theorem lasting_crossDrop (s : State) (c : Nat) : (s.crossDrop c).lasting = s.lasting := by
  unfold State.crossDrop
  dsimp only
  split <;> rfl

theorem lasting_linesOver (s : State) (u : Bool) (n : Nat) (d o : List Byte) : (s.linesOver u n d o).2.lasting = s.lasting := by
  unfold State.linesOver
  split <;> rfl

theorem lasting_hubWrite (s : State) (c : Nat) (d o : List Byte) {put : List Byte → State → State} (hput : ∀ bs s, (put bs s).lasting = s.lasting) :
    (s.hubWrite c d o put).lasting = s.lasting := by
  unfold State.hubWrite
  dsimp only
  split
  · exact lasting_dieDrop ..
  · split
    · exact lasting_crossDrop ..
    · exact (hput _ _).trans ((lasting_linesOver ..).trans (lasting_crossed ..))

/-! ## Messages -/

@[simp] theorem lasting_toPort (s : State) (c pt : Nat) (m : Msg) (it : OutItem) : (s.toPort c pt m it).lasting = s.lasting := by
  unfold State.toPort
  split
  · next d t h =>
    show t.lasting = s.lasting
    exact lasting_way_of h
  · next h => exact lasting_way_of h
  · next h => simp [lasting_way_of h]
  · next h => simp [lasting_way_of h]

@[simp] theorem lasting_sendMsg (s : State) (c : Nat) (p : Peer) (m : Msg) : (s.sendMsg c p m).lasting = s.lasting := by
  unfold State.sendMsg
  split
  · rfl
  · split
    · split <;> simp
    · simp

@[simp] theorem lasting_transmit (s : State) (c : Nat) (o : Op) (slot chan n line : Nat) : (s.transmit c o slot chan n line).lasting = s.lasting := by
  unfold State.transmit
  dsimp only
  split <;> simp

@[simp] theorem lasting_postCredit (s : State) (c : Nat) (o : Op) (slot chan len line : Nat) (body : OpBody) :
    (s.postCredit c o slot chan len line body).lasting = s.lasting := by
  unfold State.postCredit
  dsimp only
  split <;> simp

/-! ## Memory, engines and channels -/

@[simp] theorem lasting_abWrite (s : State) (c line : Nat) (bs : List Byte) : (s.abWrite c line bs).lasting = s.lasting := by
  unfold State.abWrite
  dsimp only
  split <;> rfl

@[simp] theorem lasting_commitEng (s : State) (c e : Nat) : (s.commitEng c e).lasting = s.lasting := by
  unfold State.commitEng
  dsimp only
  split <;> rfl

@[simp] theorem lasting_commitIdle (s : State) (c e : Nat) : (s.commitIdle c e).lasting = s.lasting := by
  unfold State.commitIdle
  dsimp only
  split <;> simp

@[simp] theorem lasting_mvmFinish (s : State) (c q : Nat) : (s.mvmFinish c q).lasting = s.lasting := by
  unfold State.mvmFinish
  split
  · split <;> rfl
  · rfl

@[simp] theorem lasting_mvmFetch (s : State) (c : Nat) (o : Op) (m : MvmOp) : (s.mvmFetch c o m).lasting = s.lasting := by
  unfold State.mvmFetch
  dsimp only
  generalize mvmReads _ _ _ _ _ _ = todo
  split_ifs <;> simp

@[simp] theorem lasting_finishOp (s : State) (c : Nat) (o : Op) (status : Nat) : (s.finishOp c o status).lasting = s.lasting := by
  unfold State.finishOp
  dsimp only
  split_ifs <;> rfl

@[simp] theorem lasting_dacQueue (s : State) (ch : Nat) (l : List Nat) : (s.dacQueue ch l).lasting = s.lasting := by
  unfold State.dacQueue
  split_ifs <;> rfl

@[simp] theorem lasting_giveCodes (s : State) (c : Nat) (o : Op) (ch : Nat) (bs : List Byte) : (s.giveCodes c o ch bs).lasting = s.lasting := by
  unfold State.giveCodes
  dsimp only
  split <;> simp

/-! ## Plans -/

@[simp] theorem lasting_layPlan (s : State) (c bank : Nat) (ws : List Nat) : (s.layPlan c bank ws).lasting = s.lasting :=
  lasting_hubWrite _ _ _ _ fun _ _ => rfl

@[simp] theorem lasting_readPlans (s : State) (x bank : Nat) : (s.readPlans x bank).lasting = s.lasting := by
  unfold State.readPlans
  dsimp only
  split_ifs <;> rfl

@[simp] theorem lasting_rewriteBank (s : State) (c bank : Nat) : (s.rewriteBank c bank).lasting = s.lasting := by
  unfold State.rewriteBank
  split
  · rfl
  · split <;> simp

/-! ## Ops that go on -/

@[simp] theorem lasting_settleStop (s : State) (c : Nat) : (s.settleStop c).lasting = s.lasting := by
  unfold State.settleStop
  dsimp only
  split
  · rfl
  · split
    · split <;> simp
    · rfl

@[simp] theorem lasting_settleOp (s : State) (c q : Nat) : (s.settleOp c q).lasting = s.lasting := by
  unfold State.settleOp
  split
  · rfl
  · dsimp only
    split
    case h_1 => split_ifs <;> simp
    case h_2 => split_ifs <;> simp
    case h_3 => split_ifs <;> simp
    case h_4 => split_ifs <;> simp
    case h_5 => split_ifs <;> simp
    case h_6 => split_ifs <;> simp
    case h_7 => split_ifs <;> simp
    case h_8 => split_ifs <;> simp
    case h_9 => split_ifs <;> simp
    case h_10 =>
      split
      · simp
      · split
        · simp
        · split
          · rfl
          · split <;> (next h => simp [lasting_way_of h])
    case h_11 =>
      split
      · split <;> (next h => simp [lasting_way_of h])
      · rfl
    case h_12 => rfl

@[simp] theorem lasting_settle (s : State) (c : Nat) : (s.settle c).lasting = s.lasting := by
  unfold State.settle
  exact (lasting_settleStop ..).trans (lasting_foldl (fun s q => lasting_settleOp s c q) _ s)

@[simp] theorem lasting_completeOp (s : State) (c : Nat) (o : Op) (status : Nat) : (s.completeOp c o status).lasting = s.lasting := by
  unfold State.completeOp
  rw [lasting_settle, lasting_finishOp]

end Sys2Proof.Machine
end

section
/-! Links that retrain, go down and come back, and the mirror pair (R177-R183). Settles O35. -/

namespace Sys2Proof.Machine

/-! ## Trip outputs -/

/-- The state with the outputs, their counters, their records and the rings of another. -/
def State.withTrips (s u : State) : State :=
  { s with outs := { s.outs with trips := u.outs.trips }, counters := u.counters, ash := { s.ash with inbox := u.ash.inbox },
           meas := { s.meas with rings := u.meas.rings } }

/-- Only the outputs, their counters, their records and the rings differ, and no output's standby hold. -/
structure OnlyTrips (s t : State) : Prop where
  eq : t = s.withTrips t
  held : ∀ n, (t.trip n).held = (s.trip n).held

theorem OnlyTrips.refl (s : State) : OnlyTrips s s := ⟨rfl, fun _ => rfl⟩

theorem OnlyTrips.trans {s t u : State} (h : OnlyTrips s t) (k : OnlyTrips t u) : OnlyTrips s u :=
  ⟨k.eq.trans (congrArg (fun x : State => x.withTrips u) h.eq :), fun n => (k.held n).trans (h.held n)⟩

theorem OnlyTrips.mirror {s t : State} (h : OnlyTrips s t) : t.mirror = s.mirror := (congrArg State.mirror h.eq :)

theorem onlyTrips_foldl {α : Type} {f : State → α → State} (hf : ∀ s a, OnlyTrips s (f s a)) (l : List α) (s : State) : OnlyTrips s (l.foldl f s) := by
  induction l generalizing s with
  | nil => exact .refl s
  | cons a l ih => exact (hf s a).trans (ih _)

theorem onlyTrips_modTrip (s : State) (n : Nat) {f : Trip → Trip} (hf : ∀ t, (f t).held = t.held) : OnlyTrips s (s.modTrip n f) := by
  refine ⟨rfl, fun k => ?_⟩
  by_cases h : k = n
  · subst h
    rw [State.trip_modTrip_same]
    exact hf _
  · rw [State.trip_modTrip_ne s f h]

theorem onlyTrips_ringTrigger (s : State) (n : Nat) : OnlyTrips s (s.ringTrigger n) := by
  refine onlyTrips_foldl (fun s r => ?_) _ s
  dsimp only
  split
  · exact ⟨rfl, fun _ => rfl⟩
  · exact .refl s

theorem onlyTrips_assertTrip (s : State) (n cause : Nat) : OnlyTrips s (s.assertTrip n cause) := by
  refine .trans (onlyTrips_modTrip s n (f := fun t => { t with asserted := true, since := s.time.up, lastCause := cause }) fun _ => rfl) ?_
  unfold State.assertTrip
  dsimp only
  generalize s.modTrip n _ = u
  exact .trans (t := (u.bump (tripIdx n) 8).record (0x0220 + n) 0x002A [cause, boolNat (u.trip n).backstop + 2 * boolNat (u.trip n).emit])
    ⟨rfl, fun _ => rfl⟩ (onlyTrips_ringTrigger ..)

theorem onlyTrips_mirrorTrip (s : State) (n : Nat) (ev : Option Nat) : OnlyTrips s (s.mirrorTrip n ev) := by
  unfold State.mirrorTrip
  dsimp only
  split
  · split
    · exact .refl s
    · exact onlyTrips_assertTrip ..
  · split
    · exact onlyTrips_assertTrip ..
    · split
      · exact onlyTrips_modTrip _ _ fun _ => rfl
      · exact .refl s

theorem onlyTrips_judgeTrip (s : State) (n : Nat) (ev : Option Nat) : OnlyTrips s (s.judgeTrip n ev) := by
  unfold State.judgeTrip
  dsimp only
  split
  · exact onlyTrips_modTrip _ _ fun _ => rfl
  · split
    · exact onlyTrips_mirrorTrip ..
    · split
      · exact onlyTrips_assertTrip ..
      · split
        · exact onlyTrips_modTrip _ _ fun _ => rfl
        · exact .refl s

theorem onlyTrips_updateTrip (s : State) (n : Nat) : OnlyTrips s (s.updateTrip n) :=
  .trans (onlyTrips_modTrip s n (f := fun t => { t with backstop := (s.backstopEvent n).isSome }) fun _ => rfl) (onlyTrips_judgeTrip ..)

theorem onlyTrips_updateTrips (s : State) : OnlyTrips s s.updateTrips := onlyTrips_foldl onlyTrips_updateTrip _ s

/-! ## The mirror state -/

theorem mirror_showMirror (s : State) : s.showMirror.mirror = s.mirror := by
  unfold State.showMirror
  dsimp only
  split
  · exact (onlyTrips_updateTrip ..).mirror
  · rfl

/-- MIRROR_STATE as set; what else the mirror holds is as before. -/
theorem mirror_setMirror (s : State) (st cause : Nat) : (s.setMirror st cause).mirror = { s.mirror with state := st } := by
  unfold State.setMirror
  split
  · next h => rw [← h]
  · exact mirror_showMirror _

theorem mirror_foldl {α : Type} {f : State → α → State} (hf : ∀ s a, (f s a).mirror = s.mirror) (l : List α) (s : State) : (l.foldl f s).mirror = s.mirror := by
  induction l generalizing s with
  | nil => rfl
  | cons a l ih => exact (ih _).trans (hf s a)

theorem mirror_holdOutputs (s : State) : s.holdOutputs.mirror.state = s.mirror.state := by
  have hhold (s : State) (ch : Nat) : (if bit (s.cfg 0x2D00 6) ch && !s.mirror.holding then s.holdDac ch (s.dacOut ch) else s).mirror = s.mirror := by
    split <;> rfl
  have htrip (s : State) (n : Nat) : (if bit (s.cfg 0x2D00 5) n then
      s.modTrip n (fun t => { t with held := true, asserted := t.asserted && (t.backstop || backstopCause t.lastCause) }) else s).mirror = s.mirror := by
    split <;> rfl
  have h1 := mirror_foldl hhold (List.range 16) s
  unfold State.holdOutputs
  dsimp only
  generalize (List.range 16).foldl _ s = u at h1 ⊢
  rw [mirror_foldl htrip (List.range 32)]
  exact (congrArg Mirror.state h1 :)

theorem mirror_toStandby (s : State) (cause : Nat) : (s.toStandby cause).mirror.state = 2 := by
  unfold State.toStandby
  rw [mirror_holdOutputs, mirror_setMirror]

/-- Held outputs let go, what each then does apart. -/
def State.unheld (s : State) : State :=
  ((List.range 16).filter (fun ch => s.dacHeld ch)).foldl State.releaseDac
    ((List.range 32).foldl (fun s n => s.modTrip n (fun t => { t with held := false }))
      { s with mirror := { s.mirror with holding := false, awaitMark := false } })

theorem releaseOutputs_eq (s : State) : s.releaseOutputs = s.unheld.updateTrips := rfl

theorem held_foldl (l : List Nat) (s : State) (n : Nat) (h : n ∈ l ∨ (s.trip n).held = false) :
    ((l.foldl (fun s n => s.modTrip n (fun t => { t with held := false })) s).trip n).held = false := by
  induction l generalizing s with
  | nil => exact h.resolve_left List.not_mem_nil
  | cons k l ih =>
    refine ih _ ?_
    by_cases hk : n = k
    · subst hk
      exact .inr (congrArg Trip.held (State.trip_modTrip_same ..))
    · obtain h | h := h
      · exact .inl ((List.mem_cons.mp h).resolve_left hk)
      · exact .inr (by rw [State.trip_modTrip_ne s _ hk]; exact h)

theorem unheld_leaves (s : State) : s.unheld.mirror = { s.mirror with holding := false, awaitMark := false } ∧ ∀ n, n < 32 → (s.unheld.trip n).held = false := by
  have hrelease (l : List Nat) (s : State) : (l.foldl State.releaseDac s).mirror = s.mirror ∧ (l.foldl State.releaseDac s).outs.trips = s.outs.trips := by
    induction l generalizing s with
    | nil => exact ⟨rfl, rfl⟩
    | cons ch l ih => exact ih (s.releaseDac ch)
  unfold State.unheld
  generalize (List.range 16).filter _ = l
  generalize hu : ({ s with mirror := { s.mirror with holding := false, awaitMark := false } } : State) = u
  obtain ⟨hmirror, htrips⟩ := hrelease l ((List.range 32).foldl (fun s n => s.modTrip n (fun t => { t with held := false })) u)
  constructor
  · rw [hmirror, mirror_foldl (f := fun s n => s.modTrip n (fun t => { t with held := false })) (fun s n => rfl), ← hu]
  · intro n hn
    have h := held_foldl (List.range 32) u n (.inl (List.mem_range.mpr hn))
    unfold State.trip at h ⊢
    rw [htrips]
    exact h

/-- Released outputs are held no more. -/
theorem releaseOutputs_leaves (s : State) : s.releaseOutputs.mirror = { s.mirror with holding := false, awaitMark := false } ∧
    ∀ n, n < 32 → (s.releaseOutputs.trip n).held = false := by
  obtain ⟨hmirror, hheld⟩ := unheld_leaves s
  have h := onlyTrips_updateTrips s.unheld
  exact ⟨h.mirror.trans hmirror, fun n hn => (h.held n).trans (hheld n hn)⟩

/-- The standby takes over: its state, and its outputs released where no mark is awaited. -/
theorem takeover_leaves (s : State) (cause : Nat) : (s.takeover cause).mirror.state = (if (s.port (mirrorPort s)).state = 2 then 1 else 3) ∧
    (bit (s.cfg 0x2D00 8) 0 = false → (s.takeover cause).mirror.holding = false ∧ ∀ n, n < 32 → ((s.takeover cause).trip n).held = false) := by
  have hset := mirror_setMirror s (if (s.port (mirrorPort s)).state = 2 then 1 else 3) cause
  have hcfg : ((s.setMirror (if (s.port (mirrorPort s)).state = 2 then 1 else 3) cause).bump 0x2D00 0x0D).cfg 0x2D00 8 = s.cfg 0x2D00 8 := by
    have h := onlyLines_setMirror s (if (s.port (mirrorPort s)).state = 2 then 1 else 3) cause
    exact (congrArg (fun x : State => x.cfg 0x2D00 8) h.eq :)
  unfold State.takeover
  dsimp only
  rw [hcfg]
  generalize ((s.setMirror (if (s.port (mirrorPort s)).state = 2 then 1 else 3) cause)) = u at hset
  have hstate : (u.bump 0x2D00 0x0D).mirror.state = if (s.port (mirrorPort s)).state = 2 then 1 else 3 := congrArg Mirror.state hset
  generalize u.bump 0x2D00 0x0D = v at hstate
  obtain ⟨hmirror, hheld⟩ := releaseOutputs_leaves v
  constructor
  · split
    · exact hstate
    · rw [hmirror]; exact hstate
  · intro hmark
    rw [if_neg (by simp [hmark])]
    exact ⟨by rw [hmirror], hheld⟩

/-! ## A link that is lost (R180) -/

theorem lasting_failOp (s : State) (q : Port) (p c : Nat) (o : Op) : (s.failOp q p c o).lasting = s.lasting := by
  unfold State.failOp
  dsimp only
  split
  · rfl
  · split
    · split_ifs <;> simp
    · split_ifs <;> simp
    · split_ifs <;> simp
    · rfl

theorem lasting_failCore (s : State) (q : Port) (p c : Nat) : (s.failCore q p c).lasting = s.lasting := by
  unfold State.failCore
  exact (lasting_foldl (fun s o => lasting_failOp s q p c o) _ _).trans rfl

/-- A port as a lost link leaves it. -/
def State.portLost (s : State) (p : Nat) : State :=
  s.modPort p (fun q => { q with state := 0, trained := false, retraining := false, txSeq := 0, rxSeq := 0, acked := 0, replay := [], onLine := none, credits := 0, owed := 0, nakDue := false, replayRun := 0, epochs := [], out := [], flight := [], conflict := false, heard := false, rejoin := false })

/-- What the cores have across a lost link has ended. -/
def State.severed (s : State) (p : Nat) : State :=
  let u := ((s.portLost p).flueRecord p 0 0).refillBound
  (u.cores.map (·.1)).foldl (fun u c => u.failCore (s.port p) p c) u

theorem linkLost_eq (s : State) (p : Nat) : s.linkLost p =
    if (s.port p).state = 0 ∨ ((s.port p).state = 1 ∧ !(s.port p).retraining) then s.portLost p
    else if p = mirrorPort (s.severed p) ∧ (s.severed p).mirror.state = 1 then (s.severed p).setMirror 3 1 else s.severed p := rfl

theorem lasting_severed (s : State) (p : Nat) : (s.severed p).lasting = (s.portLost p).lasting := by
  unfold State.severed
  dsimp only
  generalize hu : ((s.portLost p).flueRecord p 0 0).refillBound = u
  rw [lasting_foldl (fun u c => lasting_failCore u (s.port p) p c), ← hu, lasting_refillBound]
  rfl

theorem lasting_linkLost (s : State) (p : Nat) : (s.linkLost p).lasting = (s.portLost p).lasting := by
  rw [linkLost_eq]
  split
  · rfl
  · split
    · rw [lasting_setMirror, lasting_severed]
    · exact lasting_severed s p

/-- A port behind a lost link is down. -/
theorem linkLost_port (s : State) (p : Nat) : ((s.linkLost p).port p).state = 0 ∧ ((s.linkLost p).port p).trained = false ∧
    ((s.linkLost p).port p).epochs = [] ∧ ((s.linkLost p).port p).credits = 0 := by
  have h : ((s.linkLost p).port p).lasting = (((s.portLost p).port p).lasting) := congrFun (lasting_linkLost s p) p
  have hp : ((s.portLost p).port p) = _ := State.port_modPort_same s p _
  rw [hp] at h
  have hstate : ((s.linkLost p).port p).state = 0 := (congrArg Port.state h :)
  refine ⟨hstate, (congrArg Port.trained h :), (congrArg Port.epochs h :), ?_⟩
  have hcredits : (if ((s.linkLost p).port p).state = 2 then 0 else ((s.linkLost p).port p).credits) = 0 := (congrArg Port.credits h :)
  rw [hstate] at hcredits
  exact hcredits

/-- A core whose bound slots have been refilled. -/
def State.refilled (s : State) (k : Core) : Core :=
  match k.ctx with
  | none => k
  | some x => { k with comm := { k.comm with peers := k.comm.peers.map (fun p =>
      match p.2.binding with
      | some b => (p.1, { p.2 with epoch := s.boundEpoch x b })
      | none => p) } }

theorem refillBound_eq (s : State) : s.refillBound = { s with cores := s.cores.map (fun e => (e.1, s.refilled e.2)) } := rfl

theorem core_refillBound (s : State) (c : Nat) : s.refillBound.core c = s.refilled (s.core c) := by
  rw [refillBound_eq]
  exact Tab.get_map Core.reset s.refilled rfl s.cores c

/-- Refilled slots leave a core's place and ops. -/
theorem seq_refillBound (s : State) (c : Nat) : (s.refillBound.core c).seq = (s.core c).seq := by
  rw [core_refillBound]
  unfold State.refilled
  split <;> rfl

/-- A core without ops in flight loses credits only. -/
theorem failCore_idle {s : State} {c : Nat} (h : (s.core c).seq.ops = []) (q : Port) (p : Nat) :
    s.failCore q p c = s.modComm c (fun m => { m with credits := m.credits.filter (fun x => x.port != some p) }) := by
  have hops : ((s.modComm c (fun m => { m with credits := m.credits.filter (fun x => x.port != some p) })).core c).seq.ops = [] :=
    (congrArg (fun k : Core => k.seq.ops) (State.core_modCore_same s c _) :).trans h
  unfold State.failCore
  dsimp only
  rw [hops]
  rfl

/-- With no op in flight a lost link ends none. -/
theorem severed_idle {s : State} (h : ∀ c, (s.core c).seq.ops = []) (p : Nat) : (s.severed p).mirror = s.mirror ∧ (s.severed p).sets = s.sets ∧ (s.severed p).part = s.part := by
  have hfold (q : Port) (l : List Nat) (u : State) (hu : ∀ c, (u.core c).seq.ops = []) :
      (l.foldl (fun u c => u.failCore q p c) u).mirror = u.mirror ∧ (l.foldl (fun u c => u.failCore q p c) u).sets = u.sets ∧
        (l.foldl (fun u c => u.failCore q p c) u).part = u.part := by
    induction l generalizing u with
    | nil => exact ⟨rfl, rfl, rfl⟩
    | cons c l ih =>
      rw [List.foldl_cons, failCore_idle (hu c)]
      refine ih _ fun k => ?_
      by_cases hk : k = c
      · subst hk
        exact (congrArg (fun k : Core => k.seq.ops) (State.core_modCore_same u k _) :).trans (hu k)
      · exact (congrArg (fun k : Core => k.seq.ops) (State.core_modCore_ne u _ hk) :).trans (hu k)
  unfold State.severed
  dsimp only
  exact hfold _ _ _ fun c => (congrArg Seq.ops (seq_refillBound ((s.portLost p).flueRecord p 0 0) c) :).trans (h c)

theorem linkLost_mirror {s : State} {p : Nat} (hs : (s.port p).state = 2) (hp : p = mirrorPort s) (hm : s.mirror.state = 1)
    (hops : ∀ c, (s.core c).seq.ops = []) : (s.linkLost p).mirror.state = 3 := by
  obtain ⟨hmirror, hsets, hpart⟩ := severed_idle hops p
  have hport : mirrorPort (s.severed p) = mirrorPort s := by
    unfold mirrorPort State.cfg State.dflt State.row
    rw [hsets, hpart]
  rw [linkLost_eq, if_neg (by simp [hs]), if_pos ⟨hp.trans hport.symm, by rw [hmirror]; exact hm⟩, mirror_setMirror]

/-! ## A retrain (R178) -/

/-- The link in its retrain, its slots not yet refilled. -/
def State.retrained (s : State) (p : Nat) : State :=
  ((s.modPort p (fun q => { q with state := 1, trained := false, retraining := true, replayRun := 0 })).bump (flueIdx p) 8).flueRecord p 4 0

theorem flueRetrain_eq (s : State) (p : Nat) : s.flueRetrain p =
    if (s.port p).state ≠ 2 ∨ (s.port p).replayRun < 16 then s else (s.retrained p).refillBound := rfl

theorem retrained_port (s : State) (p : Nat) : (s.retrained p).port p = { s.port p with state := 1, trained := false, retraining := true, replayRun := 0 } :=
  State.port_modPort_same s p (fun q => { q with state := 1, trained := false, retraining := true, replayRun := 0 })

/-- Slots bound to a port that is not UP stand at epoch 0. -/
theorem boundEpoch_down {s : State} {x b : Nat} (h : (s.port (field (s.binding x b) 0 2)).state ≠ 2) : s.boundEpoch x b = 0 := by
  unfold State.boundEpoch
  dsimp only
  refine if_neg ?_
  simp [h]

/-! ## MIRROR_CMD -/

section
variable {s : State} {ses : Ses} {v : Nat} (h : Served s ses 1) (h1 : 1 ≤ v) (h2 : v ≤ 2)
include h h1 h2

theorem hostWrite_mirrorCmd (hallow : s.stateAllows 0x2D00 11 v = true) :
    s.hostWrite ses 0x2D00 11 (toLE 1 v) = (s.mirrorCommand v).giveReply ses ⟨0, []⟩ := by
  have hv : v < 2 ^ (8 * 1) := by omega
  refine State.hostWrite_command (p := 1) s.row_mirrorCmd (by decide) hv rfl rfl h hallow ?_ rfl
  rw [inRange_command hv rfl rfl]
  simp only [Bool.and_eq_true, decide_eq_true_eq]
  exact ⟨show (1 : Int) ≤ v by omega, show (v : Int) ≤ 2 by omega⟩

theorem hostWrite_mirrorCmd_disallowed (hallow : s.stateAllows 0x2D00 11 v = false) :
    s.hostWrite ses 0x2D00 11 (toLE 1 v) = s.refuse ses 0x2D00 11 0x08000022 :=
  State.hostWrite_command_disallowed (p := 1) s.row_mirrorCmd (by decide) (show v < 2 ^ (8 * 1) by omega) rfl rfl h hallow

end

theorem stateAllows_handover (s : State) : s.stateAllows 0x2D00 11 1 = (s.mirror.state == 1) := rfl
theorem stateAllows_takeover (s : State) : s.stateAllows 0x2D00 11 2 = (s.mirror.state == 2) := rfl

/-- Settles O35: the links port by port, then the mirror pair. -/
theorem linkStatesAndMirroring : Obligations.LinkStatesAndMirroring := by
  unfold Obligations.LinkStatesAndMirroring
  have next {t u : State} (h : t = u) : (.next t : Out) = .next u := congrArg Host.Outcome.next h
  constructor
  · intro s p q
    refine ⟨?_, ?_, ?_, ?_, ?_, ?_, ?_, ?_⟩
    · intro hs hrun
      have hp := retrained_port s p
      refine ⟨(s.retrained p).refillBound, next ((flueRetrain_eq s p).trans (if_neg (by simp [show (s.port p).state = 2 from hs]; exact hrun))), hp,
        fun k hk => State.port_modPort_ne s (fun q => { q with state := 1, trained := false, retraining := true, replayRun := 0 }) hk, fun x b hb => ?_, fun c => seq_refillBound (s.retrained p) c, rfl⟩
      refine boundEpoch_down (s := (s.retrained p).refillBound) ?_
      rw [show field ((s.retrained p).refillBound.binding x b) 0 2 = p from hb, show (s.retrained p).refillBound.port p = _ from hp]
      exact (by decide : (1 : Nat) ≠ 2)
    · exact fun h => next ((flueRetrain_eq s p).trans (if_pos h))
    · intro hs hlate
      obtain ⟨hstate, htrained, hepochs, hcredits⟩ := linkLost_port s p
      refine ⟨s.linkLost p, next (if_neg ?_), hstate, htrained, hepochs, hcredits, fun hs2 hp hm hops => linkLost_mirror hs2 hp hm hops⟩
      exact not_or.mpr ⟨hs, Nat.not_lt.mpr hlate⟩
    · exact fun h => next (if_pos h)
    · intro hp ht hr
      refine next ?_
      unfold State.lanesTrained
      dsimp only
      rw [hp, show (s.port p).trained = false from ht, show (s.port p).retraining = false from hr]
      rfl
    · intro hp ht hr hout
      have hport : ((s.modPort p (fun q => { q with state := 2, trained := true, retraining := false, rejoin := true })).refillBound).port p = _ :=
        State.port_modPort_same s p (fun q => { q with state := 2, trained := true, retraining := false, rejoin := true })
      have hl : s.lanesTrained p = ((s.modPort p (fun q => { q with state := 2, trained := true, retraining := false, rejoin := true })).refillBound).portTurn p := by
        unfold State.lanesTrained
        dsimp only
        rw [hp, show (s.port p).trained = false from ht, show (s.port p).retraining = true from hr]
        rfl
      refine next (hl.trans ((portTurn_idle (.inr ?_)).trans ?_))
      · rw [hport]; exact hout
      · rw [hport]; rfl
    · intro h hj hs hp hown hrole hne hm hact
      have hl := headerLeaves_frameHeader s p h
      rw [rejoin_due hj hs, hact]
      have hport := State.port_modPort_same (s.frameHeader p h) p (fun q => { q with rejoin := false })
      have ho : OnlyFrames s ((s.frameHeader p h).modPort p (fun q => { q with rejoin := false })) := hl.only.trans rfl
      have hid : (((s.frameHeader p h).modPort p (fun q => { q with rejoin := false })).port p).remoteId = q.remoteId := by rw [hport]; exact hl.remoteId
      generalize (s.frameHeader p h).modPort p (fun q => { q with rejoin := false }) = u at ho hid
      have hcfg (i : Nat) : u.cfg 0x2D00 i = s.cfg 0x2D00 i := (congrArg (fun x : State => x.cfg 0x2D00 i) ho.eq :)
      have hmp : mirrorPort u = mirrorPort s := (congrArg mirrorPort ho.eq :)
      have hms : u.mirror.state = 3 := (congrArg (fun x : State => x.mirror.state) ho.eq :).trans hm
      unfold State.pairMirror
      dsimp only
      rw [hcfg, hcfg, hmp, hms, hid, if_neg (by rintro (h | h | h); exacts [h hp.symm, hown h, hrole h]), if_neg hne, if_pos (by decide)]
      split
      · exact congrArg Mirror.state (mirror_setMirror ..)
      · exact mirror_toStandby ..
    · intro h
      refine next (if_pos ?_)
      obtain h | h := h
      · simp [h]
      · simp [show (s.port p).trained = true from h]
  · intro s ses p
    refine ⟨fun hm hs hl => next (if_pos ⟨hm, hs, hl⟩), fun hm => next (if_neg (fun h => hm h.1)), fun hm hl => next (if_pos ⟨hm, hl⟩), fun h => next (if_neg ?_),
      ?_, ?_, ?_, ?_, takeover_leaves s, ?_, ?_⟩
    · rintro ⟨hm, hl⟩
      obtain h | h := h
      · exact h hm
      · exact absurd hl (Nat.not_le.mpr h)
    · intro h hm
      exact next (hostWrite_mirrorCmd h (le_refl 1) (by decide) (by rw [stateAllows_handover, hm]; rfl))
    · intro h hm
      exact next (hostWrite_mirrorCmd_disallowed h (le_refl 1) (by decide) (by rw [stateAllows_handover]; simpa using hm))
    · intro h hm
      exact next (hostWrite_mirrorCmd h (by decide) (le_refl 2) (by rw [stateAllows_takeover, hm]; rfl))
    · intro h hm
      exact next (hostWrite_mirrorCmd_disallowed h (by decide) (le_refl 2) (by rw [stateAllows_takeover]; simpa using hm))
    · intro ha hk
      obtain ⟨hmirror, hheld⟩ := releaseOutputs_leaves s
      have ho := onlyLines_releaseOutputs s
      have hrel : s.mirrorRelease = { s.releaseOutputs with mirror := { s.releaseOutputs.mirror with markSeen := false } } := if_pos (by rw [ha, hk]; rfl)
      generalize s.releaseOutputs = u at hmirror hheld ho hrel
      exact ⟨{ u with mirror := { u.mirror with markSeen := false } }, next hrel, (congrArg Mirror.holding hmirror :), (congrArg Mirror.awaitMark hmirror :), rfl, hheld, ho.cores, ho.mem⟩
    · intro h
      refine next (if_neg ?_)
      obtain h | h := h <;> simp [h]

end Sys2Proof.Machine

end

section
/-! Numbered Flue frames in their turn, and messages in the order of R179 (R178, R179, R183). Settles O34. -/

namespace Sys2Proof.Machine

/-! ## A message that may enter its core -/

section
variable {s : State} {p : Nat} {m : FlueMsg} {x : Msg}

theorem flueEnter_stalls (h : s.pathStalls 4 (dieOf x.dst) = true) : s.flueEnter p m x =
    (s.keepCredits p m).modPort p (fun q => { q with stalled := q.stalled ++ [(x, m)] }) := by
  unfold State.flueEnter
  dsimp only
  rw [State.way_stalls h]

theorem flueEnter_shut {d : Nat} (h : s.pathStalls 4 (dieOf x.dst) = false) (hd : s.pathShut 4 (dieOf x.dst) = some d) : s.flueEnter p m x =
    (s.dieDrop d).flueAnswer p m 4 (s.core x.dst).comm.epoch := by
  unfold State.flueEnter
  dsimp only
  rw [State.way_shut h hd]

theorem flueEnter_passed (h : s.pathStalls 4 (dieOf x.dst) = false) (hd : s.pathShut 4 (dieOf x.dst) = none) (hu : s.pathUnmet 4 (dieOf x.dst) = false) :
    s.flueEnter p m x = (s.crossed 4 (dieOf x.dst) x.flits).flueDeliver p m x := by
  unfold State.flueEnter
  dsimp only
  rw [State.way_passed h hd hu]

theorem flueDeliver_closed (h : (s.core x.dst).comm.crossing = false) : s.flueDeliver p m x =
    (s.crossDrop x.dst).flueAnswer p m 4 (s.core x.dst).comm.epoch := by
  unfold State.flueDeliver
  simp [h]

theorem flueDeliver_credit (h : (s.core x.dst).comm.crossing = true) (hk : x.kind = 1) : s.flueDeliver p m x = s.deliverCredit x := by
  unfold State.flueDeliver
  simp [h, hk]

theorem flueDeliver_data (h : (s.core x.dst).comm.crossing = true) (hk : x.kind ≠ 1) : s.flueDeliver p m x =
    (s.deliverData x).flueAnswer p m 0 (s.core x.dst).comm.epoch := by
  unfold State.flueDeliver
  simp [h, hk]

end

/-! ## The checks of R179 -/

/-- A data message for core c from peer slot `key`, as it enters the module. -/
def dataMsg (p c key : Nat) (m : FlueMsg) (payload : List Byte) : Msg :=
  ⟨0, key, c, m.channel, m.destEpoch, m.srcEpoch, m.len, m.mseq, m.mseq, m.aux, (0, 0, 0), 0, payload, some p, []⟩

/-- A credit for core c from peer slot `key`. -/
def creditMsg (p c key line : Nat) (m : FlueMsg) : Msg :=
  ⟨1, key, c, m.channel, m.destEpoch, m.srcEpoch, 0, m.mseq, m.mseq, m.aux, (0, 0, 0), line, [], some p, []⟩

/-- A data message in the port's hold queue. -/
def heldMsg (p c key : Nat) (m : FlueMsg) (payload : List Byte) : HeldReq :=
  ⟨flueDest m c, true, 64 * m.len, payload, 0, some (dataMsg p c key m payload, m), none, none⟩

/-- A data message past the checks of its epoch and its sender. -/
def State.flueData (s : State) (p c key : Nat) (m : FlueMsg) (payload : List Byte) : State :=
  if (s.master (4 + p)).frozen then (s.keepCredits p m).modMaster (4 + p) (fun k => { k with held := k.held ++ [heldMsg p c key m payload] })
  else if s.flueMay p c (flueDest m c) (64 * m.len) then s.flueEnter p m (dataMsg p c key m payload)
  else ((s.freezeMaster (4 + p) (flueDest m c) true).keepCredits p m).modMaster (4 + p) (fun k => { k with held := k.held ++ [heldMsg p c key m payload] })

/-- A message whose epoch is right, by its sender and its kind. -/
def State.flueBound (s : State) (p c : Nat) (m : FlueMsg) (payload : List Byte) : State :=
  match s.senderBinding p m with
  | none => s.flueRefuse p 3 m (s.core c).comm.epoch
  | some b =>
    if m.mtype = 2 then s.flueResult p c (0x10000 + b) m
    else if m.mtype = 1 then s.draw.flueEnter p m (creditMsg p c (0x10000 + b) (Config.creditLine s.draws % 32768) m)
    else if 2 < m.mtype then s
    else s.flueData p c (0x10000 + b) m payload

section
variable {s : State} {p : Nat} {m : FlueMsg} {pl : List Byte}

theorem flueMessage_noCore (h : (s.ctx m.destCtx).state = .none ∨ (s.ctx m.destCtx).cores[m.destLcore]? = none) :
    s.flueMessage p m pl = s.flueRefuse p 1 m 0 := by
  have hnone : (if (s.ctx m.destCtx).state = .none then none else (s.ctx m.destCtx).cores[m.destLcore]?) = none := by
    split
    · rfl
    · next hs => exact h.resolve_left hs
  unfold State.flueMessage
  dsimp only
  rw [hnone]

variable {c : Nat} (hstate : (s.ctx m.destCtx).state ≠ .none) (hcore : (s.ctx m.destCtx).cores[m.destLcore]? = some c)
include hstate hcore

/-- A message for core c. -/
theorem flueMessage_core : s.flueMessage p m pl =
    if m.destEpoch = 0 ∨ m.destEpoch ≠ (s.core c).comm.epoch then s.flueRefuse p 2 m (s.core c).comm.epoch
    else s.flueBound p c m pl := by
  unfold State.flueMessage
  dsimp only
  rw [if_neg hstate, hcore]
  rfl

theorem flueMessage_wrongEpoch (he : m.destEpoch = 0 ∨ m.destEpoch ≠ (s.core c).comm.epoch) :
    s.flueMessage p m pl = s.flueRefuse p 2 m (s.core c).comm.epoch := by rw [flueMessage_core hstate hcore, if_pos he]

variable (h0 : m.destEpoch ≠ 0) (he : m.destEpoch = (s.core c).comm.epoch)
include h0 he

theorem flueMessage_bound : s.flueMessage p m pl = s.flueBound p c m pl := by
  rw [flueMessage_core hstate hcore, if_neg (not_or.mpr ⟨h0, not_not.mpr he⟩)]

theorem flueMessage_noSender (hb : s.senderBinding p m = none) : s.flueMessage p m pl = s.flueRefuse p 3 m (s.core c).comm.epoch := by
  rw [flueMessage_bound hstate hcore h0 he]
  unfold State.flueBound
  rw [hb]

variable {b : Nat} (hb : s.senderBinding p m = some b)
include hb

theorem flueMessage_result (ht : m.mtype = 2) : s.flueMessage p m pl = s.flueResult p c (0x10000 + b) m := by
  rw [flueMessage_bound hstate hcore h0 he]
  unfold State.flueBound
  rw [hb]
  exact if_pos ht

theorem flueMessage_credit (ht : m.mtype = 1) : s.flueMessage p m pl =
    s.draw.flueEnter p m (creditMsg p c (0x10000 + b) (Config.creditLine s.draws % 32768) m) := by
  rw [flueMessage_bound hstate hcore h0 he]
  unfold State.flueBound
  rw [hb]
  dsimp only
  rw [if_neg (by rw [ht]; decide), if_pos ht]

theorem flueMessage_data (ht : m.mtype = 0) : s.flueMessage p m pl = s.flueData p c (0x10000 + b) m pl := by
  rw [flueMessage_bound hstate hcore h0 he]
  unfold State.flueBound
  rw [hb]
  dsimp only
  rw [if_neg (by rw [ht]; decide), if_neg (by rw [ht]; decide), if_neg (by rw [ht]; decide)]

end

/-- An EPOCH report replaces what it names. -/
theorem epochs_epochReport (s : State) (p : Nat) (es : List EpochEntry) : ((s.epochReport p es).port p).epochs =
    (s.port p).epochs.filter (fun e => !es.any (fun n => n.ctx == e.ctx && n.lcore == e.lcore)) ++ es :=
  congrArg Port.epochs (State.port_modPort_same s p (fun q =>
    { q with epochs := q.epochs.filter (fun e => !es.any (fun n => n.ctx == e.ctx && n.lcore == e.lcore)) ++ es }))

/-- Settles O34: the frame in its turn, then the checks of a message in their order. -/
theorem flueMessagesInOrder : Obligations.FlueMessagesInOrder := by
  unfold Obligations.FlueMessagesInOrder
  intro s p n h f htrained hcrc hs hseq hn u fin
  have next {t u : State} (h : t = u) : (.next t : Out) = .next u := congrArg Host.Outcome.next h
  have turn (act : State → State) : s.flueReceive p h n act = fin (act u) := flueReceive_inTurn htrained hcrc hn hs hseq
  clear_value u fin
  have one (hn : n = 1) (act : State → State) : s.flueReceive p h 1 act = fin (act u) := by rw [← hn]; exact turn act
  refine ⟨turn f, fun es hn => next (one hn _), epochs_epochReport u p, fun hn => next (one hn _), ?_, fun m st e => rfl, ?_⟩
  · intro g st q fr hlen
    refine next (Eq.trans ?_ (turn (fun s => s.mirrorFrame p g st q fr)))
    rw [hlen]
  · intro m pl hlen
    have hframes : flueFrames m = n := hlen.symm
    have msg {t : State} (h' : u.flueMessage p m pl = t) : exec (.message p h m pl) s = .next (fin t) := by
      refine next (Eq.trans ?_ ((turn (fun s => s.flueMessage p m pl)).trans (congrArg fin h')))
      rw [← hframes]
    have kept (v : State) : v.keepCredits p m = v.modPort p (fun q => { q with owed := q.owed - n }) := by
      unfold State.keepCredits
      rw [hframes]
    refine ⟨fun hnone => msg (flueMessage_noCore hnone), ?_⟩
    intro c hstate hcore e a keeps way clear data held
    refine ⟨fun he => msg (flueMessage_wrongEpoch hstate hcore he), fun h0 he => ⟨fun hb => msg (flueMessage_noSender hstate hcore h0 he hb),
      fun b hb ht => msg (flueMessage_result hstate hcore h0 he hb ht), ?_, ?_, ?_, ?_, ?_⟩⟩
    · rintro b hb ht ⟨hst, hsh, hun⟩ hx
      refine msg ((flueMessage_credit hstate hcore h0 he hb ht).trans ((flueEnter_passed hst hsh hun).trans ((flueDeliver_credit hx rfl).trans ?_)))
      rfl
    · intro b hb ht hf
      refine msg ((flueMessage_data hstate hcore h0 he hb ht).trans ((if_pos hf).trans ?_))
      rw [kept]
      rfl
    · intro b hb ht hf hno
      have hmay : u.flueMay p c (flueDest m c) (64 * m.len) = false := by
        unfold State.flueMay
        obtain hno | hno := hno
        · rw [decide_eq_false (show ¬ flueDest m c + 64 * m.len ≤ coreBase (c + 1) from Nat.not_le.mpr hno), Bool.false_and]
        · rw [show u.masterMay (4 + p) (flueDest m c) (64 * m.len) true = false from hno, Bool.and_false]
      refine msg ((flueMessage_data hstate hcore h0 he hb ht).trans ((if_neg (by simp [hf])).trans ((if_neg (by simp [hmay])).trans ?_)))
      rw [kept]
      rfl
    · intro b hb ht hf hin hmay
      have hmay : u.flueMay p c (flueDest m c) (64 * m.len) = true := by
        unfold State.flueMay
        rw [show u.masterMay (4 + p) (flueDest m c) (64 * m.len) true = true from hmay, Bool.and_true]
        exact decide_eq_true hin
      have hdata : u.flueMessage p m pl = u.flueEnter p m (data b) :=
        (flueMessage_data hstate hcore h0 he hb ht).trans ((if_neg (by simp [hf])).trans (if_pos hmay))
      have hflits : (data b).flits = 1 + m.len := rfl
      refine ⟨fun ⟨hst, hsh, hun⟩ hx => ?_, fun hst => msg (hdata.trans ((flueEnter_stalls (x := data b) hst).trans (by rw [kept]))), fun hst d hd => msg (hdata.trans (flueEnter_shut (x := data b) hst hd))⟩
      have hin := flueEnter_passed (p := p) (m := m) (x := data b) hst hsh hun
      rw [hflits] at hin
      exact msg (hdata.trans (hin.trans (flueDeliver_data hx (by exact Nat.zero_ne_one))))
    · rintro b hb ht ⟨hst, hsh, hun⟩ hx
      have hin := flueEnter_passed (s := u.draw) (p := p) (m := m) (x := creditMsg p c (0x10000 + b) (Config.creditLine u.draws % 32768) m) hst hsh hun
      have hflits : (creditMsg p c (0x10000 + b) (Config.creditLine u.draws % 32768) m).flits = 1 := rfl
      rw [hflits] at hin
      exact msg ((flueMessage_credit hstate hcore h0 he hb ht).trans (hin.trans (flueDeliver_closed hx)))

end Sys2Proof.Machine

end

section
/-! Context commands: who may give them, what is busy, and what LOAD and INSTALL begin (R194, R196-R198, R210). Settles O23. -/

namespace Sys2Proof.Machine

/-- A context after another: only what remembers the previous generation differs. -/
theorem Ctx.since_frame (h k : Ctx) : h.since k = { h with prev := (h.since k).prev, fallen := (h.since k).fallen } := by
  unfold Ctx.since
  split <;> rfl

/-- A bank of a context after another. -/
theorem Ctx.bank_since (h k : Ctx) (i : Nat) : (h.since k).bank i = h.bank i := by
  rw [Ctx.since_frame]
  rfl

theorem Ctx.bank_setBank_same (k : Ctx) (i : Nat) (b : Bank) : (k.setBank i b).bank i = b := by
  unfold Ctx.setBank Ctx.bank
  split <;> rfl

theorem imago_lt (k : Ctx) : k.imago < 2 := Nat.mod_lt _ (by decide)

/-- The other bank of a context is left. -/
theorem Ctx.bank_setBank_other (k : Ctx) {i : Nat} (hi : i < 2) (b : Bank) : (k.setBank (1 - i) b).bank i = k.bank i := by
  interval_cases i <;> rfl

theorem onlyStaging_askStage (s : State) (x : Nat) : OnlyStaging s (s.askStage x) := by
  unfold State.askStage
  split
  · exact onlyStaging_beginStage s x
  · exact rfl

theorem askStage_free {s : State} {x : Nat} (hf : s.stageFree = true) (hw : s.stage.waiting = []) : s.askStage x = s.beginStage x := by
  unfold State.askStage
  rw [hf, hw]
  rfl

theorem askStage_taken {s : State} {x : Nat} (hf : s.stageFree = false) :
    s.askStage x = { s with stage := { s.stage with waiting := s.stage.waiting ++ [x] } } := by
  unfold State.askStage
  rw [hf]
  rfl

/-- The slots of an installation that has just taken them. -/
theorem beginStage_stage (s : State) (x : Nat) : let b := if (s.ctx x).cmd = 2 then 1 - (s.ctx x).imago else 0
    (s.beginStage x).stage.install = some x ∧ (s.beginStage x).stage.bank = b ∧ (s.beginStage x).stage.source = ((s.ctx x).bank b).source ∧
      (s.beginStage x).stage.bytes = 0 := by
  unfold State.beginStage
  dsimp only
  generalize (if (s.ctx x).cmd = 2 then 1 - (s.ctx x).imago else 0) = b
  split <;> exact ⟨rfl, rfl, rfl, rfl⟩

/-! ## LOAD -/

/-- A context whose LOAD has begun. -/
def loadingCtx (src : Nat) (l : FetchSet) : Ctx :=
  { Ctx.reset with state := .loading, cmd := 1, bank0 := { Bank.reset with state := .chrysalis, source := src, link := l } }

theorem cmdLoad_begins {s : State} {x src : Nat} (h : (s.ctx x).state = .none) : s.cmdLoad x src =
    ((s.setCtx x (loadingCtx src s.fetchSet)).setStatus resProgress x 1).askStage x := by
  unfold State.cmdLoad
  rw [if_neg (by simp [h])]
  rfl

theorem cmdLoad_refused {s : State} {x src : Nat} (h : (s.ctx x).state ≠ .none) : s.cmdLoad x src = s.setStatus resState x 1 :=
  if_pos (by simpa using h)

/-! ## INSTALL -/

/-- A bank whose installation has begun. -/
def chrysalisBank (src : Nat) (l : FetchSet) : Bank := { Bank.reset with state := .chrysalis, source := src, link := l }

/-- A context whose INSTALL has begun. -/
def installingCtx (k : Ctx) (src : Nat) (auto : Bool) (l : FetchSet) : Ctx :=
  { (k.setBank (1 - k.imago) (chrysalisBank src l)) with cmd := 2, auto := auto, progress := 0, loadStatus := 0 }

/-- What INSTALL asks of a context. -/
def Ctx.installable (k : Ctx) : Prop :=
  k.sentinel = false ∧ (k.state = .stopped ∨ k.state = .running) ∧ (k.bank k.imago).state = .imago ∧ (k.bank (1 - k.imago)).state = .empty

theorem cmdInstall_begins {s : State} {x : Nat} (h : (s.ctx x).installable) (src : Nat) (auto : Bool) : s.cmdInstall x src auto =
    ((s.setCtx x (installingCtx (s.ctx x) src auto s.fetchSet)).setStatus resProgress x 2).askStage x := by
  obtain ⟨hsent, hstate, himago, hempty⟩ := h
  unfold State.cmdInstall
  dsimp only
  rw [if_neg ?_]
  · rfl
  · simp only [hsent, himago, hempty, Bool.false_or, bne_self_eq_false, Bool.or_false]
    obtain hs | hs := hstate <;> simp [hs]

theorem cmdInstall_refused {s : State} {x : Nat} (h : ¬ (s.ctx x).installable) (src : Nat) (auto : Bool) :
    s.cmdInstall x src auto = s.setStatus resState x 2 := by
  unfold State.cmdInstall
  dsimp only
  refine if_pos ?_
  unfold Ctx.installable at h
  simp only [Bool.or_eq_true, bne_iff_ne, ne_eq, Bool.not_eq_true', Bool.or_eq_false_iff, beq_eq_false_iff_ne]
  by_contra hno
  simp only [not_or, not_and_or, not_not, Bool.not_eq_true] at hno
  obtain ⟨⟨⟨hsent, hstate⟩, himago⟩, hempty⟩ := hno
  exact h ⟨hsent, hstate, himago, hempty⟩

theorem imago_setBank (k : Ctx) (i : Nat) (b : Bank) : (k.setBank i b).imago = k.imago := by
  unfold Ctx.setBank
  split <;> rfl

/-! ## Levels -/

/-- The word of a command whose session does not hold its level. -/
theorem ctxWord_low {s : State} {ses x cmd up lvl : Nat} (hr : s.reachable ses = true) (hs : s.serves = true) (hc : cmd < 256) (hx : x < 64) (hu : up < 16)
    (hlvl : (if cmd = 1 ∨ cmd = 2 ∨ cmd = 4 ∨ cmd = 7 ∨ cmd = 8 then 2 else 1) = lvl) (hl : (s.session ses).level < lvl) :
    s.ctxWrite ses (ctxWord cmd x + up * 2 ^ 14) = s.refuse ses 0x2600 1 0x06010000 := by
  obtain ⟨hcmd, -, -⟩ := ctxWord_fields hc hx up
  refine State.ctxWrite_low hr hs (by unfold ctxWord; omega) ?_
  rw [ctxPriv_eq, hcmd, hlvl]
  exact hl

theorem ctxWord_low_plain {s : State} {ses x cmd lvl : Nat} (hr : s.reachable ses = true) (hs : s.serves = true) (hc : cmd < 256) (hx : x < 64)
    (hlvl : (if cmd = 1 ∨ cmd = 2 ∨ cmd = 4 ∨ cmd = 7 ∨ cmd = 8 then 2 else 1) = lvl) (hl : (s.session ses).level < lvl) :
    s.ctxWrite ses (ctxWord cmd x) = s.refuse ses 0x2600 1 0x06010000 := by
  have h := ctxWord_low (up := 0) hr hs hc hx (by decide) hlvl hl
  rwa [Nat.zero_mul, Nat.add_zero] at h

theorem unlessBusy_busy {s : State} {x cmd : Nat} (h : (s.ctx x).cmd ≠ 0) (t : State) : s.unlessBusy x cmd t = s.setStatus resBusy x cmd := if_pos h
theorem unlessBusy_free {s : State} {x cmd : Nat} (h : (s.ctx x).cmd = 0) (t : State) : s.unlessBusy x cmd t = t := if_neg (not_not.mpr h)

/-- What the beginning of an installation leaves, the staging slots and CTX_CMD's context apart. -/
theorem begun_leaves (s : State) (x res cmd : Nat) (k : Ctx) : let t := ((s.setCtx x k).setStatus res x cmd).askStage x
    t.ctx x = k.since (s.ctx x) ∧ t.cmdStatus = res + x * 256 + cmd * 65536 ∧ (∀ y, y ≠ x → t.ctx y = s.ctx y) ∧ t.cores = s.cores ∧
      t.engines = s.engines ∧ t.mem = s.mem := by
  have h := onlyStaging_askStage ((s.setCtx x k).setStatus res x cmd) x
  have hs : ((s.setCtx x k).setStatus res x cmd).ctxs = (s.setCtx x k).ctxs ∧ ((s.setCtx x k).setStatus res x cmd).cmdStatus = res + x * 256 + cmd * 65536 ∧
      ((s.setCtx x k).setStatus res x cmd).cores = s.cores ∧ ((s.setCtx x k).setStatus res x cmd).engines = s.engines ∧
      ((s.setCtx x k).setStatus res x cmd).mem = s.mem := by
    unfold State.setStatus
    dsimp only
    split <;> exact ⟨rfl, rfl, rfl, rfl, rfl⟩
  obtain ⟨hctxs, hstatus, hcores, hengines, hmem⟩ := hs
  have hctx (y : Nat) : (((s.setCtx x k).setStatus res x cmd).askStage x).ctx y = (s.setCtx x k).ctx y := by
    rw [h.ctx]
    unfold State.ctx
    rw [hctxs]
  refine ⟨(hctx x).trans (State.ctx_setCtx_same ..), h.cmdStatus.trans hstatus, fun y hy => (hctx y).trans (State.ctx_setCtx_ne s k hy), h.cores.trans hcores,
    h.engines.trans hengines, h.mem.trans hmem⟩

theorem begun_stage (s : State) (x cmd : Nat) (k : Ctx) : let t := ((s.setCtx x k).setStatus resProgress x cmd).askStage x
    let b := if k.cmd = 2 then 1 - k.imago else 0
    (s.stageFree = true → s.stage.waiting = [] → t.stage.install = some x ∧ t.stage.bank = b ∧ t.stage.source = (k.bank b).source ∧ t.stage.bytes = 0) ∧
    (s.stageFree = false → t.stage = { s.stage with waiting := s.stage.waiting ++ [x] }) := by
  have hk : ((s.setCtx x k).setStatus resProgress x cmd).ctx x = k.since (s.ctx x) := State.ctx_setCtx_same ..
  have hcmd : (k.since (s.ctx x)).cmd = k.cmd := by rw [Ctx.since_frame]
  have himago : (k.since (s.ctx x)).imago = k.imago := by rw [Ctx.since_frame]; rfl
  obtain ⟨hinstall, hbank, hsource, hbytes⟩ := beginStage_stage ((s.setCtx x k).setStatus resProgress x cmd) x
  rw [hk, hcmd, himago] at hbank hsource
  refine ⟨fun hf hw => ?_, fun hf => ?_⟩
  · rw [askStage_free (s := (s.setCtx x k).setStatus resProgress x cmd) hf hw]
    exact ⟨hinstall, hbank, hsource.trans (congrArg Bank.source (Ctx.bank_since ..)), hbytes⟩
  · rw [askStage_taken (s := (s.setCtx x k).setStatus resProgress x cmd) hf]
    rfl

/-- Settles O23: levels first, then what is busy, then LOAD and INSTALL. -/
theorem contextCommandsBegin : Obligations.ContextCommandsBegin := by
  unfold Obligations.ContextCommandsBegin
  have next {t u : State} (h : t = u) : (.next t : Out) = .next u := congrArg Host.Outcome.next h
  constructor
  · intro s ses x hx hr hs
    refine ⟨fun hl src auto hsrc => ?_, fun hl w hw => ?_, fun hl hbusy src w auto hsrc hw => ?_⟩
    · have hauto : ctxWord 2 x + src * 2 ^ 14 + boolNat auto * 2 ^ 17 = ctxWord 2 x + (src + boolNat auto * 8) * 2 ^ 14 := by ring
      have hb : boolNat auto < 2 := by cases auto <;> decide
      refine ⟨next (ctxWord_low hr hs (by decide) hx (by omega) rfl hl), next ?_, next (ctxWord_low_plain hr hs (by decide) hx rfl hl),
        next (ctxWord_low_plain hr hs (by decide) hx rfl hl), next (ctxWord_low_plain hr hs (by decide) hx rfl hl)⟩
      rw [hauto]
      exact ctxWord_low hr hs (by decide) hx (by omega) rfl hl
    · have hwhen : ctxWord 3 x + w * 2 ^ 15 = ctxWord 3 x + (2 * w) * 2 ^ 14 := by ring
      refine ⟨next ?_, next (ctxWord_low_plain hr hs (by decide) hx rfl hl), next (ctxWord_low_plain hr hs (by decide) hx rfl hl)⟩
      rw [hwhen]
      exact ctxWord_low hr hs (by decide) hx (by omega) rfl hl
    · have h2 : Served s ses 2 := ⟨hr, hs, hl⟩
      have h1 : Served s ses 1 := ⟨hr, hs, le_trans (by decide) hl⟩
      exact ⟨(State.execLoadCmd_done h2 hx hsrc).trans (next (by rw [unlessBusy_busy hbusy]; rfl)),
        (State.execInstall_done h2 hx hsrc auto).trans (next (by rw [unlessBusy_busy hbusy]; rfl)),
        (State.execEclose_done h1 hx hw).trans (next (by rw [unlessBusy_busy hbusy]; rfl)),
        (State.execStart_done h1 hx).trans (next (by rw [unlessBusy_busy hbusy]; rfl)),
        (State.execStop_done h1 hx).trans (next (by rw [unlessBusy_busy hbusy]; rfl)),
        (State.execUnload_done h2 hx).trans (next (by rw [unlessBusy_busy hbusy]; rfl)),
        (State.execForceStart_done h2 hx).trans (next (by rw [unlessBusy_busy hbusy]; rfl))⟩
  · intro s ses x src auto h hx hsrc hcmd k may
    have hload := State.execLoadCmd_done h hx hsrc
    have hinstall := State.execInstall_done h hx hsrc auto
    rw [unlessBusy_free hcmd] at hload hinstall
    refine ⟨fun hnone => ?_, fun hstate => hload.trans (next (by rw [cmdLoad_refused hstate]; rfl)), fun hmay => ?_,
      fun hno => hinstall.trans (next (by rw [cmdInstall_refused hno]; rfl))⟩
    · rw [cmdLoad_begins hnone] at hload
      obtain ⟨hctx, hstatus, hother, hcores, hengines, hmem⟩ := begun_leaves s x resProgress 1 (loadingCtx src s.fetchSet)
      obtain ⟨hfree, htaken⟩ := begun_stage s x 1 (loadingCtx src s.fetchSet)
      generalize ((s.setCtx x (loadingCtx src s.fetchSet)).setStatus resProgress x 1).askStage x = t at *
      rw [Ctx.since_frame] at hctx
      exact ⟨t.giveReply ses ⟨0, []⟩, hload, (congrArg Ctx.state hctx :), (congrArg Ctx.cmd hctx :), (congrArg (fun k : Ctx => k.bank0.state) hctx :),
        (congrArg (fun k : Ctx => k.bank0.source) hctx :), (congrArg (fun k : Ctx => k.bank0.link) hctx :), (congrArg (fun k : Ctx => k.bank1.state) hctx :),
        hstatus, hfree, htaken, hother, hcores, hengines, hmem⟩
    · have hk := cmdInstall_begins (s := s) (x := x) hmay src auto
      rw [hk] at hinstall
      obtain ⟨hctx, hstatus, hother, hcores, hengines, hmem⟩ := begun_leaves s x resProgress 2 (installingCtx (s.ctx x) src auto s.fetchSet)
      obtain ⟨hfree, -⟩ := begun_stage s x 2 (installingCtx (s.ctx x) src auto s.fetchSet)
      generalize ((s.setCtx x (installingCtx (s.ctx x) src auto s.fetchSet)).setStatus resProgress x 2).askStage x = t at *
      have himago : (installingCtx (s.ctx x) src auto s.fetchSet).imago = k.imago := imago_setBank ..
      have hnew : (t.ctx x).bank (1 - k.imago) = chrysalisBank src s.fetchSet := by
        rw [hctx, Ctx.bank_since]
        exact Ctx.bank_setBank_same ..
      have hold : (t.ctx x).bank k.imago = k.bank k.imago := by
        rw [hctx, Ctx.bank_since]
        exact Ctx.bank_setBank_other k (imago_lt k) _
      have hstate : (t.ctx x).state = k.state := by
        rw [hctx, Ctx.since_frame]
        show (k.setBank (1 - k.imago) _).state = k.state
        unfold Ctx.setBank
        split <;> rfl
      refine ⟨t.giveReply ses ⟨0, []⟩, hinstall, hstate, ?_, ?_, congrArg Bank.state hnew, congrArg Bank.source hnew, hold, hstatus, fun hf hw => ?_, hother,
        hcores, hengines, hmem⟩
      · exact (congrArg Ctx.cmd hctx).trans (by rw [Ctx.since_frame]; rfl)
      · exact (congrArg Ctx.auto hctx).trans (by rw [Ctx.since_frame]; rfl)
      · obtain ⟨h1, h2, h3, -⟩ := hfree hf hw
        rw [himago] at h2 h3
        refine ⟨h1, h2, h3.trans (congrArg Bank.source (Ctx.bank_setBank_same ..))⟩

end Sys2Proof.Machine

end

section
/-! SUPPORT. What freeing a bank, starting a core and restoring a context leave of contexts, cores and memory (R197, R203, R209, R306). -/

namespace Sys2Proof.Machine

/-- A run of operations of which each leaves a part of the state. -/
theorem foldl_leaves {A B : Type} (part : State → A) {f : State → B → State} (hf : ∀ s b, part (f s b) = part s) (l : List B) (s : State) :
    part (l.foldl f s) = part s :=
  foldl_rel (R := fun s t => part t = part s) (fun _ => rfl) (fun h k => k.trans h) hf l s

/-! ## Cores changed alike -/

/-- A run of changes of cores touches only cores. -/
theorem foldl_modCore_frame {A : Type} (c : A → Nat) (f : A → Core → Core) (l : List A) (s : State) :
    l.foldl (fun s a => s.modCore (c a) (f a)) s = { s with cores := (l.foldl (fun s a => s.modCore (c a) (f a)) s).cores } :=
  foldl_rel (R := fun s t => t = { s with cores := t.cores }) (fun _ => rfl)
    (fun {_ _ u} h k => k.trans (congrArg (fun x : State => { x with cores := u.cores }) h :)) (fun _ _ => rfl) l s

/-- The cores of a list changed alike, by a change that twice is the same as once. -/
theorem core_foldl_modCore {f : Core → Core} (hf : ∀ k, f (f k) = f k) (l : List Nat) (s : State) (c : Nat) :
    (l.foldl (fun s c => s.modCore c f) s).core c = if c ∈ l then f (s.core c) else s.core c := by
  induction l generalizing s with
  | nil => rfl
  | cons a l ih =>
    rw [List.foldl_cons, ih]
    by_cases ha : c = a
    · subst ha
      rw [State.core_modCore_same, hf, if_pos (List.mem_cons_self ..), ite_self]
    · rw [State.core_modCore_ne s f ha]
      simp [ha]

/-! ## Engines given up -/

/-- Contexts, cores, memory, CMD_STATUS. -/
def State.placed (s : State) : Tab Ctx × Tab Core × Mem × Nat := (s.ctxs, s.cores, s.mem, s.cmdStatus)

theorem placed_ctx {s t : State} (h : t.placed = s.placed) (x : Nat) : t.ctx x = s.ctx x :=
  (congrArg (fun p : Tab Ctx × Tab Core × Mem × Nat => Tab.get Ctx.reset p.1 x) h :)
theorem placed_ctxs {s t : State} (h : t.placed = s.placed) : t.ctxs = s.ctxs := (congrArg Prod.fst h :)
theorem placed_cores {s t : State} (h : t.placed = s.placed) : t.cores = s.cores := (congrArg (fun p : Tab Ctx × Tab Core × Mem × Nat => p.2.1) h :)
theorem placed_core {s t : State} (h : t.placed = s.placed) (c : Nat) : t.core c = s.core c :=
  (congrArg (fun p : Tab Ctx × Tab Core × Mem × Nat => Tab.get Core.reset p.2.1 c) h :)
theorem placed_mem {s t : State} (h : t.placed = s.placed) : t.mem = s.mem := (congrArg (fun p : Tab Ctx × Tab Core × Mem × Nat => p.2.2.1) h :)
theorem placed_cmdStatus {s t : State} (h : t.placed = s.placed) : t.cmdStatus = s.cmdStatus :=
  (congrArg (fun p : Tab Ctx × Tab Core × Mem × Nat => p.2.2.2) h :)

theorem OnlyStaging.placed {s t : State} (h : OnlyStaging s t) : t.placed = s.placed := (congrArg State.placed h.eq :)

@[simp] theorem placed_setEng (s : State) (c e : Nat) (g : Engine) : (s.setEng c e g).placed = s.placed := rfl
@[simp] theorem placed_modEng (s : State) (c e : Nat) (f : Engine → Engine) : (s.modEng c e f).placed = s.placed := rfl
@[simp] theorem placed_draw (s : State) : s.draw.placed = s.placed := rfl
@[simp] theorem placed_drawN (s : State) (n : Nat) : (s.drawN n).placed = s.placed := rfl
@[simp] theorem placed_record (s : State) (src code : Nat) (l : List Nat) : (s.record src code l).placed = s.placed := rfl
@[simp] theorem placed_bump (s : State) (i n : Nat) : (s.bump i n).placed = s.placed := rfl
@[simp] theorem placed_endWait (s : State) (c e k : Nat) : (s.endWait c e k).placed = s.placed := rfl
@[simp] theorem placed_endWaits (s : State) (c e : Nat) : (s.endWaits c e).placed = s.placed := rfl
@[simp] theorem placed_dropPlans (s : State) (x b : Nat) : (s.dropPlans x b).placed = s.placed := rfl
@[simp] theorem placed_useBlock (s : State) (c e : Nat) : (s.useBlock c e).placed = s.placed := rfl
@[simp] theorem placed_modReplace (s : State) (d : Nat) (f : Replace → Replace) : (s.modReplace d f).placed = s.placed := rfl
@[simp] theorem placed_startJob (s : State) (c e w : Nat) (code : Nat → Nat → Int) (use : JobUse) : (s.startJob c e w code use).placed = s.placed := rfl
@[simp] theorem placed_freeStage (s : State) : s.freeStage.placed = s.placed := (onlyStaging_freeStage s).placed

@[simp] theorem placed_markBudget (s : State) : s.markBudget.placed = s.placed := by
  unfold State.markBudget
  split <;> split <;> rfl

@[simp] theorem placed_damperFree (s : State) (key : Nat) : (s.damperFree key).placed = s.placed := (placed_markBudget _).trans rfl

@[simp] theorem placed_dropBlock (s : State) : s.dropBlock.placed = s.placed := by
  unfold State.dropBlock
  split
  · exact (placed_freeStage _).trans rfl
  · rfl

@[simp] theorem placed_dropRequest (s : State) (x b : Nat) : (s.dropRequest x b).placed = s.placed := by
  unfold State.dropRequest
  split
  · split
    · exact placed_dropBlock s
    · rfl
  · rfl

@[simp] theorem placed_endPulses (s : State) (c e : Nat) : (s.endPulses c e).placed = s.placed := by
  unfold State.endPulses
  split
  · split
    · exact placed_damperFree ..
    · rfl
  · rfl

@[simp] theorem placed_doneBlock (s : State) (c e : Nat) : (s.doneBlock c e).placed = s.placed := by
  unfold State.doneBlock
  split
  · split
    · exact placed_dropBlock s
    · rfl
  · rfl

@[simp] theorem placed_engState (s : State) (c e : Nat) (st : EngState) : (s.engState c e st).placed = s.placed := by
  rw [engState_frame]
  rfl

/-- An engine that leaves its bank. -/
def State.giveUp (s : State) (c e : Nat) : State :=
  ((((s.endPulses c e).doneBlock c e).endWaits c e).modEng c e Engine.freed).markBudget

@[simp] theorem placed_giveUp (s : State) (c e : Nat) : (s.giveUp c e).placed = s.placed := by simp [State.giveUp]

/-! ## A bank freed (R203) -/

/-- A core without the map and the plan of a bank. -/
def Core.withoutBank (b : Nat) (k : Core) : Core := (k.setMap b []).setHead b none

theorem Core.withoutBank_twice (b : Nat) (k : Core) : (k.withoutBank b).withoutBank b = k.withoutBank b := by
  unfold Core.withoutBank Core.setMap Core.setHead
  split <;> rfl

theorem Core.withoutBank_frame (b : Nat) (k : Core) : k.withoutBank b =
    { k with map0 := (k.withoutBank b).map0, map1 := (k.withoutBank b).map1, head0 := (k.withoutBank b).head0, head1 := (k.withoutBank b).head1 } := by
  unfold Core.withoutBank Core.setMap Core.setHead
  split <;> rfl

theorem Core.head_withoutBank (b : Nat) (k : Core) : (k.withoutBank b).head b = none := by
  unfold Core.withoutBank Core.setMap Core.setHead Core.head
  split <;> rfl

/-- The engines of a bank given up, but for those the other bank names. -/
def State.giveUpAll (s : State) (x b : Nat) : State :=
  ((s.ctx x).bank b).blocks.foldl (fun u n =>
    if n.core = 0xFFFF ∨ ((s.ctx x).bank (1 - b)).names n.core n.eng then u else u.giveUp n.core n.eng) s

@[simp] theorem placed_giveUpAll (s : State) (x b : Nat) : (s.giveUpAll x b).placed = s.placed := by
  refine foldl_leaves State.placed (fun u n => ?_) _ s
  split
  · rfl
  · exact placed_giveUp ..

theorem freeBank_eq (s : State) (x b : Nat) : s.freeBank x b = ((((s.dropRequest x b).ctx x).cores.foldl (fun s c => s.modCore c (Core.withoutBank b))
    ((s.dropRequest x b).giveUpAll x b)).dropPlans x b).modCtx x (fun k => k.setBank b Bank.reset) := rfl

theorem freeBank_leaves (s : State) (x b : Nat) : let t := s.freeBank x b
    t.ctx x = ((s.ctx x).setBank b Bank.reset).since (s.ctx x) ∧ (∀ y, y ≠ x → t.ctx y = s.ctx y) ∧
    (∀ c, t.core c = if c ∈ (s.ctx x).cores then (s.core c).withoutBank b else s.core c) ∧ t.mem = s.mem ∧ t.cmdStatus = s.cmdStatus := by
  have hp : ((s.dropRequest x b).giveUpAll x b).placed = s.placed := (placed_giveUpAll ..).trans (placed_dropRequest ..)
  have hdrop := placed_ctx (placed_dropRequest s x b) x
  rw [freeBank_eq, hdrop]
  generalize (s.dropRequest x b).giveUpAll x b = u at hp ⊢
  have hframe := foldl_modCore_frame (fun c : Nat => c) (fun _ => Core.withoutBank b) (s.ctx x).cores u
  have hcore (c : Nat) : ((s.ctx x).cores.foldl (fun s c => s.modCore c (Core.withoutBank b)) u).core c =
      if c ∈ (s.ctx x).cores then (s.core c).withoutBank b else s.core c := by
    rw [core_foldl_modCore (Core.withoutBank_twice b), placed_core hp]
  generalize hv : (s.ctx x).cores.foldl (fun s c => s.modCore c (Core.withoutBank b)) u = v at hframe hcore ⊢
  have hctx (y : Nat) : v.ctx y = s.ctx y := by
    rw [← placed_ctx hp y]
    exact (congrArg (fun q : State => q.ctx y) hframe :)
  have hmem : v.mem = u.mem := (congrArg State.mem hframe :)
  have hstatus : v.cmdStatus = u.cmdStatus := (congrArg State.cmdStatus hframe :)
  refine ⟨?_, fun y hy => ?_, hcore, hmem.trans (placed_mem hp), hstatus.trans (placed_cmdStatus hp)⟩
  · refine (State.ctx_setCtx_same ..).trans ?_
    rw [show (v.dropPlans x b).ctx x = s.ctx x from hctx x]
  · exact (State.ctx_setCtx_ne _ _ hy).trans (hctx y)

/-! ## CMD_STATUS -/

/-- CMD_STATUS written and its interrupt raised touch neither contexts nor cores nor engines nor memory. -/
theorem setStatus_leaves (s : State) (res x cmd : Nat) : let t := s.setStatus res x cmd
    t.cmdStatus = res + x * 256 + cmd * 65536 ∧ t.ctxs = s.ctxs ∧ t.cores = s.cores ∧ t.engines = s.engines ∧ t.mem = s.mem := by
  unfold State.setStatus
  dsimp only
  split <;> exact ⟨rfl, rfl, rfl, rfl, rfl⟩

theorem setStatus_ctx (s : State) (res x cmd y : Nat) : (s.setStatus res x cmd).ctx y = s.ctx y := by
  unfold State.ctx
  rw [(setStatus_leaves s res x cmd).2.1]

theorem setStatus_core (s : State) (res x cmd c : Nat) : (s.setStatus res x cmd).core c = s.core c := by
  unfold State.core
  rw [(setStatus_leaves s res x cmd).2.2.1]

/-- A context changed in what it does not keep, and then changed. -/
theorem setCtx_setCtx (s : State) (x : Nat) {k : Ctx} (hk : k.kept = (s.ctx x).kept) (l : Ctx) : (s.setCtx x k).setCtx x l = s.setCtx x l := by
  have h1 : k.since (s.ctx x) = k := if_pos (.inl hk)
  have h2 : l.since k = l.since (s.ctx x) := by
    unfold Ctx.since
    rw [hk]
  have hx : (s.setCtx x k).ctx x = k := (State.ctx_setCtx_same ..).trans h1
  unfold State.setCtx at hx ⊢
  rw [hx, h1, h2, Tab.set_set]

/-! ## Cores started (R197) -/

/-- The core as the start of its plan leaves it. -/
def Core.begun (k : Core) (b : Nat) (h : PlanHeader) : Core :=
  { k with state := .running, wins := h.frameWin.map (fun w => ⟨w, 0, 0⟩), watchdog := none,
           seq := { (Seq.reset.init h) with bank := b, mapBank := b, pc := h.entry, lastFault := k.seq.lastFault, nextSeq := k.seq.nextSeq } }

/-- A core's plan begins on a bank. -/
def State.startOn (s : State) (b c : Nat) : State :=
  match (s.core c).head b with
  | none => s
  | some h => (s.bankBudgets c b).modCore c (fun k => k.begun b h)

theorem startCore_eq (s : State) (x c : Nat) : s.startCore x c = s.startOn (s.ctx x).imago c := rfl

theorem startOn_none {s : State} {b c : Nat} (h : (s.core c).head b = none) : s.startOn b c = s := by
  unfold State.startOn
  rw [h]

theorem startOn_some {s : State} {b c : Nat} {h : PlanHeader} (hh : (s.core c).head b = some h) :
    s.startOn b c = (s.bankBudgets c b).modCore c (fun k => k.begun b h) := by
  unfold State.startOn
  rw [hh]

theorem bankBudgets_frame (s : State) (c b : Nat) : s.bankBudgets c b = { s with cores := (s.bankBudgets c b).cores } := by
  unfold State.bankBudgets
  split
  · rfl
  · dsimp only
    split
    · rfl
    · exact (congrArg (fun u : State => u.modCore c (fun k => { k with ana := { k.ana with bankDue := none } }))
        (foldl_modCore_frame (fun _ : Block => c) _ _ s) :)

theorem startOn_frame (s : State) (b c : Nat) : s.startOn b c = { s with cores := (s.startOn b c).cores } := by
  unfold State.startOn
  split
  · rfl
  · exact (congrArg (fun u : State => u.modCore c (fun k => k.begun b _)) (bankBudgets_frame s c b) :)

theorem startOn_core_ne (s : State) (b : Nat) {c d : Nat} (h : d ≠ c) : (s.startOn b c).core d = s.core d := by
  unfold State.startOn
  split
  · rfl
  · rw [State.core_modCore_ne _ _ h]
    exact (bankBudgets_only s c b).other d h

/-- A core with a plan for the bank runs it from its entry. -/
structure Core.Runs (k : Core) (b : Nat) (h : PlanHeader) : Prop where
  state : k.state = .running
  pc : k.seq.pc = h.entry
  bank : k.seq.bank = b
  mapBank : k.seq.mapBank = b
  ops : k.seq.ops = []
  head : k.head b = some h

theorem startOn_runs {s : State} {b c : Nat} {h : PlanHeader} (hh : (s.core c).head b = some h) : ((s.startOn b c).core c).Runs b h := by
  obtain ⟨a, ha, -⟩ := (bankBudgets_only s c b).own
  rw [startOn_some hh, State.core_modCore_same, ha]
  exact ⟨rfl, rfl, rfl, rfl, rfl, hh⟩

theorem startOn_head (s : State) (b c d : Nat) : ((s.startOn b c).core d).head b = (s.core d).head b := by
  by_cases hd : d = c
  · subst hd
    cases hh : (s.core d).head b with
    | none => rw [startOn_none hh, hh]
    | some h => exact (startOn_runs hh).head
  · rw [startOn_core_ne s b hd]

theorem startOn_foldl_frame (b : Nat) (l : List Nat) (s : State) :
    l.foldl (fun s c => s.startOn b c) s = { s with cores := (l.foldl (fun s c => s.startOn b c) s).cores } :=
  foldl_rel (R := fun s t => t = { s with cores := t.cores }) (fun _ => rfl)
    (fun {_ _ u} h k => k.trans (congrArg (fun x : State => { x with cores := u.cores }) h :)) (fun s c => startOn_frame s b c) l s

/-- Every core of a list that has a plan for the bank runs it. -/
theorem startOn_foldl_runs {b c : Nat} {h : PlanHeader} {l : List Nat} {s : State} (hc : c ∈ l) (hh : (s.core c).head b = some h) :
    ((l.foldl (fun s c => s.startOn b c) s).core c).Runs b h :=
  foldl_reaches (Q := fun s => (s.core c).head b = some h) (P := fun s => (s.core c).Runs b h) (fun s d hs => (startOn_head s b d c).trans hs)
    (fun s d hs hp => by
      by_cases hd : c = d
      · exact hd ▸ startOn_runs hs
      · rw [startOn_core_ne s b hd]
        exact hp)
    (fun _ hs => startOn_runs hs) hc s hh

theorem startOn_foldl_other {b c : Nat} {l : List Nat} (hc : c ∉ l) (s : State) : (l.foldl (fun s c => s.startOn b c) s).core c = s.core c := by
  induction l generalizing s with
  | nil => rfl
  | cons a l ih =>
    rw [List.mem_cons, not_or] at hc
    exact (ih hc.2 _).trans (startOn_core_ne s b hc.1)

/-- Cores of a context started: the bank is the same all along. -/
theorem startCores_on (x b : Nat) (l : List Nat) (s : State) :
    l.foldl (fun s c => s.startCore x c) s = l.foldl (fun s c => s.startOn b c) s ∨ (s.ctx x).imago ≠ b := by
  induction l generalizing s with
  | nil => exact .inl rfl
  | cons a l ih =>
    by_cases hb : (s.ctx x).imago = b
    · refine .inl ?_
      have hctx : ((s.startOn b a).ctx x).imago = b := (congrArg (fun u : State => (u.ctx x).imago) (startOn_frame s b a) :).trans hb
      rw [List.foldl_cons, List.foldl_cons, startCore_eq, hb]
      exact (ih _).resolve_right (not_not.mpr hctx)
    · exact .inr hb

/-! ## Contexts restored (R306, R209) -/

/-- Contexts and engines. -/
def State.served (s : State) : Tab Ctx × Tab Engine := (s.ctxs, s.engines)

theorem served_hubWrite (s : State) (c : Nat) (d o : List Byte) {put : List Byte → State → State} (hput : ∀ bs s, (put bs s).served = s.served) :
    (s.hubWrite c d o put).served = s.served := by
  unfold State.hubWrite
  dsimp only
  split
  · rfl
  · split
    · rw [State.crossDrop_eq]
      rfl
    · refine (hput _ _).trans ?_
      unfold State.linesOver
      split <;> rfl

theorem served_overBridge (s : State) (u : Bool) {act : State → State} (hact : ∀ s, (act s).served = s.served) : (s.overBridge u act).served = s.served := by
  have hfate : (s.fate u).2.served = s.served := by
    unfold State.fate
    split <;> rfl
  unfold State.overBridge
  split <;> rename_i h <;> rw [h] at hfate
  · exact (hact _).trans hfate
  · exact hfate
  · exact (hact _).trans ((hact _).trans hfate)

theorem served_hostCore (s : State) (c n : Nat) {act : State → State} (hact : ∀ s, (act s).served = s.served) : (s.hostCore c n act).served = s.served := by
  unfold State.hostCore
  split
  · rfl
  · split
    · rw [State.crossDrop_eq]
      rfl
    · exact (served_overBridge _ _ hact).trans rfl

theorem served_abWrite (s : State) (c line : Nat) (bs : List Byte) : (s.abWrite c line bs).served = s.served := by
  unfold State.abWrite
  dsimp only
  split <;> rfl

theorem served_layPlan (s : State) (c b : Nat) (ws : List Nat) : (s.layPlan c b ws).served = s.served :=
  served_hubWrite _ _ _ _ fun _ _ => rfl

theorem served_putPlan (s : State) (c b : Nat) (h : PlanHeader) (ws : List Nat) : (s.putPlan c b h ws).served = s.served :=
  (served_hostCore (s.layPlan c b ws) c _ (act := fun s => s.modCore c (fun k => k.setHead b (some h))) fun _ => rfl).trans (served_layPlan ..)

theorem served_putPreload (s : State) (c line : Nat) (bs : List Byte) : (s.putPreload c line bs).served = s.served :=
  served_hubWrite _ _ _ _ fun bs s => served_abWrite s c line bs

theorem served_restorePlan (s : State) (p : StoredPlan) : (s.restorePlan p).served = s.served := by
  unfold State.restorePlan
  split
  · split
    · rfl
    · exact (served_putPreload ..).trans (served_putPlan ..)
  · rfl

theorem served_restoreMaps (s : State) (x b : Nat) : (s.restoreMaps x b).served = s.served :=
  (congrArg State.served (foldl_modCore_frame (fun n : Block => n.core) _ _ s) :)

theorem served_commitBudgets (s : State) (b : Bank) : (s.commitBudgets b).served = s.served :=
  (congrArg State.served (foldl_modCore_frame (fun n : Block => n.core) _ _ s) :)

theorem served_restoreCtx (s : State) (x : Nat) (rest : List Nat) : (s.restoreCtx x rest).served = s.served := by
  unfold State.restoreCtx
  refine (foldl_leaves State.served served_restorePlan _ _).trans ?_
  exact (served_commitBudgets _ _).trans ((served_restoreMaps ..).trans (served_restoreMaps ..))

/-! ## Epochs risen (R126) -/

/-- Refilled slots are all that differs on a core. -/
theorem core_refillPeers (s : State) (c d : Nat) : (s.refillPeers c).core d = { s.core d with comm := { (s.core d).comm with
    peers := (s.core d).comm.peers.map (fun p => (p.1, p.2.refill c (s.core c).comm.epoch)) } } :=
  Tab.get_map Core.reset (fun k : Core => { k with comm := { k.comm with peers := k.comm.peers.map (fun p => (p.1, p.2.refill c (s.core c).comm.epoch)) } })
    rfl s.cores d

theorem core_modComm (s : State) (c d : Nat) (f : Comm → Comm) :
    (s.modComm c f).core d = { s.core d with comm := if d = c then f (s.core d).comm else (s.core d).comm } := by
  by_cases h : d = c
  · subst h
    rw [if_pos rfl]
    exact State.core_modCore_same ..
  · rw [if_neg h]
    exact State.core_modCore_ne _ _ h

/-- A risen epoch is no change of a core but for its communication. -/
theorem core_raiseEpoch (s : State) (c d : Nat) : (s.raiseEpoch c).core d = { s.core d with comm := ((s.raiseEpoch c).core d).comm } := by
  unfold State.raiseEpoch
  rw [core_refillPeers, core_modComm]

theorem epoch_raiseEpoch (s : State) (c d : Nat) :
    ((s.raiseEpoch c).core d).comm.epoch = if d = c then nextEpoch (s.core d).comm.epoch else (s.core d).comm.epoch := by
  unfold State.raiseEpoch
  rw [core_refillPeers, core_modComm]
  dsimp only
  split <;> rfl

/-! ## Peer tables filled (R147) -/

theorem fillPeers_frame (s : State) (x : Nat) : s.fillPeers x = { s with cores := (s.fillPeers x).cores } :=
  foldl_rel (R := fun s t => t = { s with cores := t.cores }) (fun _ => rfl)
    (fun {_ _ u} h k => k.trans (congrArg (fun x : State => { x with cores := u.cores }) h :)) (fun _ _ => rfl) _ s

/-- But for its communication a core is as before. -/
theorem fillPeers_core (s : State) (x c : Nat) : { (s.fillPeers x).core c with comm := Comm.reset } = { s.core c with comm := Comm.reset } := by
  refine foldl_leaves (fun u => ({ u.core c with comm := Comm.reset } : Core)) (fun u i => ?_) _ s
  by_cases hc : c = (s.ctx x).cores.getD i 0
  · subst hc
    exact (congrArg (fun k : Core => ({ k with comm := Comm.reset } : Core)) (State.core_modCore_same ..) :)
  · exact (congrArg (fun k : Core => ({ k with comm := Comm.reset } : Core)) (State.core_modCore_ne _ _ hc) :)

theorem fillPeers_head (s : State) (x c b : Nat) : ((s.fillPeers x).core c).head b = (s.core c).head b :=
  (congrArg (fun k : Core => k.head b) (fillPeers_core s x c) :)

end Sys2Proof.Machine

end

section
/-! The context commands that end something: ECLOSE, ABORT, START, STOP, UNLOAD, FORCE_START (R197, R202, R203, R209). Settles O24. -/

namespace Sys2Proof.Machine

/-! ## ECLOSE -/

/-- An eclosion onto a bank, as it is asked for. -/
def State.asked (s : State) (bank w : Nat) (ex : Option (Nat × Nat × Nat)) : Eclosion :=
  { bank := bank, e := 0, attempts := 0, when_ := w, time := s.ecloseTime, mark := s.ecloseMark, due := w == 0, begun := false, answered := [],
    refused := false, exchange := ex }

theorem cmdEclose_refused {s : State} {x : Nat} (h : ((s.ctx x).bank (s.ctx x).imago).state ≠ .imago ∨
    ((s.ctx x).bank (1 - (s.ctx x).imago)).state ≠ .ready ∨ (s.ctx x).eclosion ≠ none) (w : Nat) : s.cmdEclose x w = s.setStatus resState x 3 := by
  unfold State.cmdEclose
  refine if_pos ?_
  rw [Bool.or_eq_true, Bool.or_eq_true, bne_iff_ne, bne_iff_ne, Option.isSome_iff_ne_none]
  tauto

/-- The eclosion asked for, the command in progress. -/
theorem askEclosion_commanded (s : State) (x bank w cmd : Nat) (ex : Option (Nat × Nat × Nat)) :
    (s.askEclosion x bank w ex).modCtx x (fun k => { k with cmd := cmd }) =
      s.setCtx x { s.ctx x with cmd := cmd, eclosion := some (s.asked bank w ex) } := by
  have hk : ({ s.ctx x with eclosion := some (s.asked bank w ex) } : Ctx).since (s.ctx x) = { s.ctx x with eclosion := some (s.asked bank w ex) } :=
    if_pos (.inl rfl)
  have hctx : (s.askEclosion x bank w ex).ctx x = { s.ctx x with eclosion := some (s.asked bank w ex) } := (State.ctx_setCtx_same ..).trans hk
  unfold State.modCtx
  rw [hctx]
  exact setCtx_setCtx s x (k := { s.ctx x with eclosion := some (s.asked bank w ex) }) rfl _

theorem cmdEclose_asks {s : State} {x : Nat} (hi : ((s.ctx x).bank (s.ctx x).imago).state = .imago)
    (hr : ((s.ctx x).bank (1 - (s.ctx x).imago)).state = .ready) (he : (s.ctx x).eclosion = none) (w : Nat) : s.cmdEclose x w =
      (s.setCtx x { s.ctx x with cmd := 3, eclosion := some (s.asked (1 - (s.ctx x).imago) w none) }).setStatus resProgress x 3 := by
  unfold State.cmdEclose
  dsimp only
  rw [if_neg (by simp [hi, hr, he]), askEclosion_commanded]

/-! ## ABORT -/

/-- The bank that ABORT ends: the one in construction or READY. -/
def Ctx.pendingBank (k : Ctx) : Nat := if k.bank0.state = .chrysalis ∨ k.bank0.state = .ready then 0 else 1

/-- A context without its eclosion. -/
def Ctx.uneclosed (k : Ctx) : Ctx := { k with eclosion := none, cmd := 0, pointer := k.imago }

theorem cmdAbort_eq (s : State) (x : Nat) : s.cmdAbort x =
    if ¬ (((s.ctx x).bank (s.ctx x).pendingBank).state = .chrysalis ∨ ((s.ctx x).bank (s.ctx x).pendingBank).state = .ready) then s.setStatus resState x 4
    else if (s.ctx x).cmd = 1 ∨ (s.ctx x).cmd = 2 then s.failInstall x resAborted
    else if (s.ctx x).cmd = 0 then (((s.disarmAll x).modCtx x Ctx.uneclosed).freeBank x (s.ctx x).pendingBank).setStatus resDone x 4
    else (((s.disarmAll x).modCtx x Ctx.uneclosed).freeBank x (s.ctx x).pendingBank).setStatus resAborted x (s.ctx x).cmd := by
  have hi : (if ((s.ctx x).bank 0).state == .chrysalis || ((s.ctx x).bank 0).state == .ready then 0 else 1) = (s.ctx x).pendingBank := by
    simp only [Bool.or_eq_true, beq_iff_eq]
    rfl
  unfold State.cmdAbort
  dsimp only
  rw [hi]
  simp only [Bool.not_eq_true', Bool.or_eq_false_iff, beq_eq_false_iff_ne, not_or]
  rfl

section
variable {s : State} {x : Nat}

theorem cmdAbort_refused (h1 : ((s.ctx x).bank (s.ctx x).pendingBank).state ≠ .chrysalis) (h2 : ((s.ctx x).bank (s.ctx x).pendingBank).state ≠ .ready) :
    s.cmdAbort x = s.setStatus resState x 4 := by rw [cmdAbort_eq, if_pos (not_or.mpr ⟨h1, h2⟩)]

theorem cmdAbort_fails (hb : ((s.ctx x).bank (s.ctx x).pendingBank).state = .chrysalis ∨ ((s.ctx x).bank (s.ctx x).pendingBank).state = .ready)
    (hc : (s.ctx x).cmd = 1 ∨ (s.ctx x).cmd = 2) : s.cmdAbort x = s.failInstall x resAborted := by rw [cmdAbort_eq, if_neg (not_not.mpr hb), if_pos hc]

theorem cmdAbort_ends (hb : ((s.ctx x).bank (s.ctx x).pendingBank).state = .chrysalis ∨ ((s.ctx x).bank (s.ctx x).pendingBank).state = .ready)
    (hc : (s.ctx x).cmd = 0) : s.cmdAbort x = (((s.disarmAll x).modCtx x Ctx.uneclosed).freeBank x (s.ctx x).pendingBank).setStatus resDone x 4 := by
  rw [cmdAbort_eq, if_neg (not_not.mpr hb), if_neg (by omega), if_pos hc]

theorem cmdAbort_aborts (hb : ((s.ctx x).bank (s.ctx x).pendingBank).state = .chrysalis ∨ ((s.ctx x).bank (s.ctx x).pendingBank).state = .ready)
    (hc : (s.ctx x).cmd = 3) : s.cmdAbort x = (((s.disarmAll x).modCtx x Ctx.uneclosed).freeBank x (s.ctx x).pendingBank).setStatus resAborted x 3 := by
  rw [cmdAbort_eq, if_neg (not_not.mpr hb), if_neg (by omega), if_neg (by omega), hc]

end

/-- Cores without their ARM. -/
def Core.disarmed (k : Core) : Core := { k with seq := { k.seq with armed := none } }

theorem disarmAll_frame (s : State) (x : Nat) : s.disarmAll x = { s with cores := (s.disarmAll x).cores } :=
  foldl_modCore_frame (fun c : Nat => c) (fun _ => Core.disarmed) _ s

theorem disarmAll_core (s : State) (x c : Nat) : (s.disarmAll x).core c = if c ∈ (s.ctx x).cores then (s.core c).disarmed else s.core c :=
  core_foldl_modCore (f := Core.disarmed) (fun _ => rfl) _ s c

/-- A context whose eclosion has ended, and whose bank has been freed. -/
theorem abort_leaves (s : State) (x i : Nat) : let t := ((s.disarmAll x).modCtx x Ctx.uneclosed).freeBank x i
    (t.ctx x).bank i = Bank.reset ∧ (t.ctx x).cmd = 0 ∧ (t.ctx x).eclosion = none ∧ (t.ctx x).pointer = (s.ctx x).imago ∧
    (t.ctx x).state = (s.ctx x).state ∧ (∀ y, y ≠ x → t.ctx y = s.ctx y) ∧ t.mem = s.mem := by
  intro t
  obtain ⟨hctx, hother, -, hmem, -⟩ := freeBank_leaves ((s.disarmAll x).modCtx x Ctx.uneclosed) x i
  have hk : ((s.disarmAll x).modCtx x Ctx.uneclosed).ctx x = ((s.ctx x).uneclosed).since (s.ctx x) := by
    rw [State.ctx_modCtx_same, disarmAll_frame]
    rfl
  have hy (y : Nat) (h : y ≠ x) : ((s.disarmAll x).modCtx x Ctx.uneclosed).ctx y = s.ctx y := by
    rw [State.ctx_modCtx_ne _ _ h, disarmAll_frame]
    rfl
  have hm : ((s.disarmAll x).modCtx x Ctx.uneclosed).mem = s.mem := (congrArg State.mem (disarmAll_frame s x) :)
  have hfields : let q := ((s.ctx x).uneclosed.since (s.ctx x)).setBank i Bank.reset
      q.cmd = 0 ∧ q.eclosion = none ∧ q.pointer = (s.ctx x).imago ∧ q.state = (s.ctx x).state := by
    rw [Ctx.since_frame]
    unfold Ctx.setBank
    split <;> exact ⟨rfl, rfl, rfl, rfl⟩
  rw [hk] at hctx
  obtain ⟨hcmd, hecl, hptr, hst⟩ := hfields
  refine ⟨?_, ?_, ?_, ?_, ?_, fun y h => (hother y h).trans (hy y h), hmem.trans hm⟩
  · rw [hctx, Ctx.bank_since]
    exact Ctx.bank_setBank_same ..
  all_goals rw [hctx, Ctx.since_frame]; assumption

/-! ## START, UNLOAD, FORCE_START -/

theorem imago_enter (k : Ctx) (st : CtxState) : (k.enter st).imago = k.imago := by
  unfold Ctx.enter
  split <;> rfl

theorem cores_enter (k : Ctx) (st : CtxState) : (k.enter st).cores = k.cores := by
  unfold Ctx.enter
  split <;> rfl

theorem state_enter (k : Ctx) (st : CtxState) : (k.enter st).state = st := by
  unfold Ctx.enter
  split
  · assumption
  · rfl

theorem ctx_entered (s : State) (x : Nat) (st : CtxState) : let k := (s.modCtx x (fun k => k.enter st)).ctx x
    k.imago = (s.ctx x).imago ∧ k.cores = (s.ctx x).cores ∧ k.state = st := by
  dsimp only
  rw [State.ctx_modCtx_same, Ctx.since_frame]
  exact ⟨imago_enter .., cores_enter .., state_enter ..⟩

/-- A context whose cores have been started. -/
theorem startCtx_leaves (s : State) (x : Nat) : let t := s.startCtx x
    (t.ctx x).state = .running ∧ (∀ c h, c ∈ (s.ctx x).cores → (s.core c).head (s.ctx x).imago = some h → (t.core c).Runs (s.ctx x).imago h) ∧
    (∀ c, c ∉ (s.ctx x).cores → t.core c = s.core c) ∧ t.mem = s.mem ∧ t.engines = s.engines := by
  obtain ⟨himago, hcores, hstate⟩ := ctx_entered s x .running
  have ht : s.startCtx x = (s.ctx x).cores.foldl (fun s c => s.startOn (s.ctx x).imago c) (s.modCtx x (fun k => k.enter .running)) := rfl
  have hon := (startCores_on x (s.ctx x).imago (s.ctx x).cores (s.modCtx x (fun k => k.enter .running))).resolve_right (not_not.mpr himago)
  rw [ht.trans hon]
  have hframe := startOn_foldl_frame (s.ctx x).imago (s.ctx x).cores (s.modCtx x (fun k => k.enter .running))
  exact ⟨(congrArg (fun u : State => (u.ctx x).state) hframe :).trans hstate, fun c h hc hh => startOn_foldl_runs hc hh,
    fun c hc => startOn_foldl_other hc _, (congrArg State.mem hframe :), (congrArg State.engines hframe :)⟩

theorem cmdStart_starts {s : State} {x : Nat} (hs : (s.ctx x).state = .stopped) (hi : ((s.ctx x).bank (s.ctx x).imago).state = .imago)
    (hr : s.coresAtRest x = true) : s.cmdStart x = (s.startCtx x).setStatus resDone x 5 := if_neg (by simp [hs, hi, hr])

theorem cmdStart_refused {s : State} {x : Nat} (h : (s.ctx x).state ≠ .stopped ∨ ((s.ctx x).bank (s.ctx x).imago).state ≠ .imago ∨
    s.coresAtRest x = false) : s.cmdStart x = s.setStatus resState x 5 := by
  refine if_pos ?_
  rw [Bool.or_eq_true, Bool.or_eq_true, bne_iff_ne, bne_iff_ne, Bool.not_eq_true']
  tauto

theorem cmdStop_stops {s : State} {x : Nat} (h : (s.ctx x).state = .running) :
    s.cmdStop x = ((s.ctx x).cores.foldl State.stopCore (s.setCtx x ((s.ctx x).enter .stopped))).setStatus resDone x 6 := if_neg (by simp [h])

theorem cmdStop_refused {s : State} {x : Nat} (h : (s.ctx x).state ≠ .running) : s.cmdStop x = s.setStatus resState x 6 := if_pos (by simpa using h)

theorem cmdUnload_unloads {s : State} {x : Nat} (h : (s.ctx x).state ≠ .none) (hr : s.coresAtRest x = true) :
    s.cmdUnload x = (s.releaseCtx x).setStatus resDone x 7 := if_neg (by simp [h, hr])

theorem cmdUnload_refused {s : State} {x : Nat} (h : (s.ctx x).state = .none ∨ s.coresAtRest x = false) : s.cmdUnload x = s.setStatus resState x 7 := by
  refine if_pos ?_
  rw [Bool.or_eq_true, beq_iff_eq, Bool.not_eq_true']
  exact h

/-! ## A context released (R203) -/

/-- The core's domain off, its role changed. -/
theorem coreOff_core (s : State) (c d : Nat) : (((s.coreOff c).raiseEpoch c).core d).state = (if d = c then .off else (s.core d).state) ∧
    (((s.coreOff c).raiseEpoch c).core d).ctx = (if d = c then none else (s.core d).ctx) := by
  rw [core_raiseEpoch]
  by_cases h : d = c
  · subst h
    rw [if_pos rfl, if_pos rfl]
    have hk : (s.coreOff d).core d = { Core.reset with comm := { Comm.reset with epoch := (s.core d).comm.epoch } } := State.core_setCore_same ..
    exact ⟨(congrArg Core.state hk :), (congrArg Core.ctx hk :)⟩
  · rw [if_neg h, if_neg h]
    have hk : (s.coreOff c).core d = s.core d := State.core_setCore_ne _ _ h
    exact ⟨(congrArg Core.state hk :), (congrArg Core.ctx hk :)⟩

theorem ctxs_coreOff (s : State) (c : Nat) : ((s.coreOff c).raiseEpoch c).ctxs = s.ctxs := rfl

theorem ctxs_dropReplace (s : State) (d : Nat) : (s.dropReplace d).ctxs = s.ctxs := by
  unfold State.dropReplace
  dsimp only
  generalize hu : List.foldl _ s (s.replace d).map = u
  have hctxs : u.ctxs = s.ctxs := by
    rw [← hu]
    exact foldl_leaves State.ctxs (fun u m => placed_ctxs (by simp)) _ s
  split
  · exact hctxs
  · exact hctxs

theorem ctxs_dropReplaces (s : State) (cs : List Nat) : (s.dropReplaces cs).ctxs = s.ctxs := by
  unfold State.dropReplaces
  refine foldl_leaves State.ctxs (fun u d => ?_) _ s
  dsimp only
  split
  · exact ctxs_dropReplace u d
  · rfl

/-- Decisions forgotten touch neither contexts nor cores. -/
theorem forgetDecisions_leaves (s : State) (x : Nat) : (s.forgetDecisions x).ctxs = s.ctxs ∧ (s.forgetDecisions x).cores = s.cores := by
  unfold State.forgetDecisions
  refine foldl_rel (R := fun s t => t.ctxs = s.ctxs ∧ t.cores = s.cores) (fun _ => ⟨rfl, rfl⟩) (fun h k => ⟨k.1.trans h.1, k.2.trans h.2⟩) (fun u n => ?_) _ s
  split
  · have h := (onlyTrips_updateTrip (u.modTrip n (fun t => { t with emit := false })) n).eq
    exact ⟨(congrArg State.ctxs h :), (congrArg State.cores h :)⟩
  · exact ⟨rfl, rfl⟩

/-- A released context is as reset leaves it, and its cores are off. -/
theorem releaseCtx_leaves (s : State) (x : Nat) : let t := s.releaseCtx x
    t.ctx x = Ctx.reset ∧ (∀ c, c ∈ (s.ctx x).cores → (t.core c).state = .off ∧ (t.core c).ctx = none) ∧ (∀ y, y ≠ x → t.ctx y = s.ctx y) := by
  have hfree : ∀ y, y ≠ x → (((s.freeBank x 0).freeBank x 1).dropReplaces (s.ctx x).cores).ctx y = s.ctx y := fun y hy => by
    have h := congrArg (fun c : Tab Ctx => Tab.get Ctx.reset c y) (ctxs_dropReplaces ((s.freeBank x 0).freeBank x 1) (s.ctx x).cores)
    exact h.trans (((freeBank_leaves _ x 1).2.1 y hy).trans ((freeBank_leaves s x 0).2.1 y hy))
  unfold State.releaseCtx
  dsimp only
  generalize ((s.freeBank x 0).freeBank x 1).dropReplaces (s.ctx x).cores = u at hfree ⊢
  have hctxs : ((s.ctx x).cores.foldl (fun s c => (s.coreOff c).raiseEpoch c) u).ctxs = u.ctxs := foldl_leaves State.ctxs ctxs_coreOff _ u
  have hoff : ∀ c, c ∈ (s.ctx x).cores → (((s.ctx x).cores.foldl (fun s c => (s.coreOff c).raiseEpoch c) u).core c).state = .off ∧
      (((s.ctx x).cores.foldl (fun s c => (s.coreOff c).raiseEpoch c) u).core c).ctx = none := fun c hc =>
    foldl_reaches (Q := fun _ => True) (P := fun s => (s.core c).state = .off ∧ (s.core c).ctx = none) (fun _ _ _ => trivial)
      (fun s d _ hp => by
        obtain ⟨h1, h2⟩ := coreOff_core s d c
        rw [h1, h2]
        split
        · exact ⟨rfl, rfl⟩
        · exact hp)
      (fun s _ => by
        obtain ⟨h1, h2⟩ := coreOff_core s c c
        exact ⟨h1.trans (if_pos rfl), h2.trans (if_pos rfl)⟩) hc u trivial
  generalize (s.ctx x).cores.foldl (fun s c => (s.coreOff c).raiseEpoch c) u = v at hctxs hoff ⊢
  obtain ⟨hc, hk⟩ := forgetDecisions_leaves ((v.setCtx x Ctx.reset).setCount (0x2610 + x) 9 0) x
  have hctx (y : Nat) : (((v.setCtx x Ctx.reset).setCount (0x2610 + x) 9 0).forgetDecisions x).ctx y = (v.setCtx x Ctx.reset).ctx y :=
    congrArg (fun c : Tab Ctx => Tab.get Ctx.reset c y) hc
  have hcore (c : Nat) : (((v.setCtx x Ctx.reset).setCount (0x2610 + x) 9 0).forgetDecisions x).core c = v.core c :=
    congrArg (fun t : Tab Core => Tab.get Core.reset t c) hk
  refine ⟨(hctx x).trans ((State.ctx_setCtx_same ..).trans (if_pos (.inr rfl))), fun c hc => ?_, fun y hy => ?_⟩
  · rw [hcore]
    exact hoff c hc
  · rw [hctx, State.ctx_setCtx_ne _ _ hy]
    exact (congrArg (fun c : Tab Ctx => Tab.get Ctx.reset c y) hctxs).trans (hfree y hy)

/-! ## FORCE_START -/

/-- What FORCE_START asks of a context. -/
def State.forceable (s : State) (x : Nat) : Prop :=
  (s.ctx x).state = .verifyHold ∧ (s.ctx x).planMissing = false ∧ (s.ctx x).sentinel = false ∧ (s.ctx x).cores.all s.coreReady = true ∧
    s.missingPlan x = none

theorem cmdForce_refused {s : State} {x : Nat} (h : ¬ s.forceable x) : s.cmdForce x = s.setStatus resState x 8 := by
  unfold State.cmdForce
  dsimp only
  refine if_pos ?_
  by_contra hno
  simp only [Bool.or_eq_true, bne_iff_ne, ne_eq, Bool.not_eq_true', not_or, not_not, Bool.not_eq_true, Bool.not_eq_false, Option.isSome_eq_false_iff,
    Option.isNone_iff_eq_none] at hno
  obtain ⟨⟨⟨⟨h1, h2⟩, h3⟩, h4⟩, h5⟩ := hno
  exact h ⟨h1, h2, h3, h4, h5⟩

theorem cmdForce_forces {s : State} {x : Nat} (h : s.forceable x) : s.cmdForce x =
    (((s.restoreCtx x ((s.ctx x).cores.filter (fun c => (s.core c).atRest))).fillPeers x).startCtx x).setStatus resDone x 8 := by
  obtain ⟨h1, h2, h3, h4, h5⟩ := h
  exact if_neg (by simp [h1, h2, h3, h4, h5])

/-- Settles O24: each command as its own function says. -/
theorem contextCommandsEnd : Obligations.ContextCommandsEnd := by
  unfold Obligations.ContextCommandsEnd
  have next {t u : State} (h : t = u) : (.next t : Out) = .next u := congrArg Host.Outcome.next h
  constructor
  · intro s ses x w hx hw k i q
    have hi : i = k.pendingBank := rfl
    have haborts (h : Served s ses 2) : exec (.abort ses x) s = .next ((s.cmdAbort x).giveReply ses ⟨0, []⟩) := State.execAbort_done h hx
    have heclose (h : Served s ses 1) (hc : k.cmd = 0) : exec (.eclose ses x w) s = .next ((s.cmdEclose x w).giveReply ses ⟨0, []⟩) :=
      (State.execEclose_done h hx hw).trans (by rw [unlessBusy_free hc])
    refine ⟨fun h hc himago hready hecl => (heclose h hc).trans (next (by rw [cmdEclose_asks himago hready hecl]; rfl)),
      fun h hc hno => (heclose h hc).trans (next (by rw [cmdEclose_refused hno]; rfl)), fun h h1 h2 => (haborts h).trans (next ?_),
      fun h hb hc => (haborts h).trans (next ?_), fun h hb hc => ?_⟩
    · rw [cmdAbort_refused h1 h2]
      rfl
    · rw [cmdAbort_fails hb hc]
      rfl
    · obtain ⟨hbank, hcmd, hecl, hptr, hst, hother, hmem⟩ := abort_leaves s x i
      have ha := haborts h
      have hend (h0 : k.cmd = 0) : s.cmdAbort x = (((s.disarmAll x).modCtx x Ctx.uneclosed).freeBank x i).setStatus resDone x 4 := cmdAbort_ends hb h0
      have habort (h3 : k.cmd = 3) : s.cmdAbort x = (((s.disarmAll x).modCtx x Ctx.uneclosed).freeBank x i).setStatus resAborted x 3 :=
        cmdAbort_aborts hb h3
      generalize ((s.disarmAll x).modCtx x Ctx.uneclosed).freeBank x i = u at hbank hcmd hecl hptr hst hother hmem hend habort
      have leaves (res cmd : Nat) (hv : (if k.cmd = 0 then x * 256 + 4 * 65536 else 9 + x * 256 + 3 * 65536) = res + x * 256 + cmd * 65536)
          (he : exec (.abort ses x) s = .next ((u.setStatus res x cmd).giveReply ses ⟨0, []⟩)) : ∃ t : State, exec (.abort ses x) s = .next t ∧
          ((t.ctx x).bank i) = Bank.reset ∧ (t.ctx x).cmd = 0 ∧ (t.ctx x).eclosion = none ∧ (t.ctx x).pointer = k.imago ∧
          (t.ctx x).state = k.state ∧ t.cmdStatus = (if k.cmd = 0 then x * 256 + 4 * 65536 else 9 + x * 256 + 3 * 65536) ∧
          (∀ y, y ≠ x → t.ctx y = s.ctx y) ∧ t.mem = s.mem := by
        have hctx (y : Nat) := setStatus_ctx u res x cmd y
        obtain ⟨hs, -, -, -, hm⟩ := setStatus_leaves u res x cmd
        rw [← hctx x] at hbank hcmd hecl hptr hst
        exact ⟨_, he, hbank, hcmd, hecl, hptr, hst, hs.trans hv.symm, fun y hy => (hctx y).trans (hother y hy), hm.trans hmem⟩
      obtain h0 | h3 := hc
      · rw [hend h0] at ha
        exact leaves resDone 4 (by rw [if_pos h0]; simp [resDone]) ha
      · rw [habort h3] at ha
        exact leaves resAborted 3 (by rw [if_neg (by omega)]; simp [resAborted]) ha
  · intro s ses x hx hc k
    have hstart (h : Served s ses 1) : exec (.start ses x) s = .next ((s.cmdStart x).giveReply ses ⟨0, []⟩) :=
      (State.execStart_done h hx).trans (by rw [unlessBusy_free hc])
    have hstop (h : Served s ses 1) : exec (.stop ses x) s = .next ((s.cmdStop x).giveReply ses ⟨0, []⟩) :=
      (State.execStop_done h hx).trans (by rw [unlessBusy_free hc])
    have hunload (h : Served s ses 2) : exec (.unload ses x) s = .next ((s.cmdUnload x).giveReply ses ⟨0, []⟩) :=
      (State.execUnload_done h hx).trans (by rw [unlessBusy_free hc])
    have hforce (h : Served s ses 2) : exec (.forceStart ses x) s = .next ((s.cmdForce x).giveReply ses ⟨0, []⟩) :=
      (State.execForceStart_done h hx).trans (by rw [unlessBusy_free hc])
    refine ⟨fun h hst hi hr => ?_, fun h hno => (hstart h).trans (next (by rw [cmdStart_refused hno]; rfl)),
      fun h hst => (hstop h).trans (next (by rw [cmdStop_stops hst]; rfl)), fun h hst => (hstop h).trans (next (by rw [cmdStop_refused hst]; rfl)),
      fun h hst hr => ?_, fun h hno => (hunload h).trans (next (by rw [cmdUnload_refused hno]; rfl)), ?_⟩
    · obtain ⟨hstate, hruns, hother, hmem, heng⟩ := startCtx_leaves s x
      have ha := hstart h
      rw [cmdStart_starts hst hi hr] at ha
      generalize s.startCtx x = u at hstate hruns hother hmem heng ha
      obtain ⟨hs, -, -, he, hm⟩ := setStatus_leaves u resDone x 5
      have hcore (c : Nat) := setStatus_core u resDone x 5 c
      have hctx := setStatus_ctx u resDone x 5 x
      refine ⟨_, ha, (congrArg Ctx.state hctx :).trans hstate, hs.trans (by simp [resDone]), fun c h hc hh => ?_, fun c hc => (hcore c).trans (hother c hc),
        hm.trans hmem, he.trans heng⟩
      have hr := hruns c h hc hh
      rw [← hcore c] at hr
      exact ⟨hr.state, hr.pc, hr.bank, hr.mapBank, hr.ops⟩
    · obtain ⟨hctx, hoff, hother⟩ := releaseCtx_leaves s x
      have ha := hunload h
      rw [cmdUnload_unloads hst hr] at ha
      generalize s.releaseCtx x = u at hctx hoff hother ha
      obtain ⟨hs, -, -, -, -⟩ := setStatus_leaves u resDone x 7
      have hk (y : Nat) := setStatus_ctx u resDone x 7 y
      refine ⟨_, ha, (hk x).trans hctx, hs.trans (by simp [resDone]), fun c hc => ?_, fun y hy => (hk y).trans (hother y hy)⟩
      have h := hoff c hc
      rw [← setStatus_core u resDone x 7 c] at h
      exact h
    · intro may r
      refine ⟨fun h hmay => ?_, fun h hmay => (hforce h).trans (next (by rw [cmdForce_refused hmay]; rfl))⟩
      have ha := hforce h
      rw [cmdForce_forces hmay] at ha
      change exec (.forceStart ses x) s = .next ((((r.fillPeers x).startCtx x).setStatus resDone x 8).giveReply ses ⟨0, []⟩) at ha
      have hserved : r.served = s.served := served_restoreCtx ..
      have hframe := fillPeers_frame r x
      have hrctx : (r.fillPeers x).ctx x = s.ctx x := (congrArg (fun u : State => u.ctx x) hframe :).trans
        (congrArg (fun p : Tab Ctx × Tab Engine => Tab.get Ctx.reset p.1 x) hserved)
      obtain ⟨hstate, hruns, -, hmem, heng⟩ := startCtx_leaves (r.fillPeers x) x
      rw [hrctx] at hruns
      have hmem' : ((r.fillPeers x).startCtx x).mem = r.mem := hmem.trans (congrArg State.mem hframe :)
      have heng' : ((r.fillPeers x).startCtx x).engines = s.engines := heng.trans ((congrArg State.engines hframe :).trans (congrArg Prod.snd hserved))
      have hruns' : ∀ c h, c ∈ k.cores → (r.core c).head k.imago = some h → (((r.fillPeers x).startCtx x).core c).Runs k.imago h := fun c h hc hh =>
        hruns c h hc ((fillPeers_head r x c k.imago).trans hh)
      generalize (r.fillPeers x).startCtx x = u at hstate hruns' hmem' heng' ha
      obtain ⟨hs, -, -, he, hm⟩ := setStatus_leaves u resDone x 8
      refine ⟨_, ha, (congrArg Ctx.state (setStatus_ctx u resDone x 8 x) :).trans hstate, hs.trans (by simp [resDone]), fun c h hc hh => ?_, he.trans heng',
        hm.trans hmem'⟩
      have hr := hruns' c h hc hh
      rw [← setStatus_core u resDone x 8 c] at hr
      exact ⟨hr.state, hr.pc⟩

end Sys2Proof.Machine

end

section
/-! Eclosion: ARM, the attempts, COMMIT, and the retirement of the drained bank (R62, R200-R203). Settles O26. -/

namespace Sys2Proof.Machine

/-! ## ARM goes out (R200) -/

/-- An attempt, as it begins. -/
def Eclosion.armed (q : Eclosion) (e : Nat) : Eclosion := { q with e := e, begun := true, answered := [], refused := false }

theorem modEclosion_eq {s : State} {x : Nat} {q : Eclosion} (h : (s.ctx x).eclosion = some q) (f : Eclosion → Eclosion) :
    s.modEclosion x f = s.setCtx x { s.ctx x with eclosion := some (f q) } := by
  have hf : (s.ctx x).eclosion.map f = some (f q) := congrArg (Option.map f) h
  exact (congrArg (fun o : Option Eclosion => s.setCtx x { s.ctx x with eclosion := o }) hf :)

/-- A change of the eclosion is no change of what a context keeps. -/
theorem ctx_setEclosion (s : State) (x : Nat) (q : Option Eclosion) : (s.setCtx x { s.ctx x with eclosion := q }).ctx x = { s.ctx x with eclosion := q } :=
  (State.ctx_setCtx_same ..).trans (if_pos (.inl rfl))

theorem sendArm_eq {s : State} {x : Nat} {q : Eclosion} (h : (s.ctx x).eclosion = some q) : s.sendArm x =
    s.setCtx x { s.ctx x with pointer := (s.ctx x).imago + 2, eclosion := some (q.armed (s.eclosionE x)) } := by
  unfold State.sendArm
  dsimp only
  rw [modEclosion_eq h]
  unfold State.modCtx
  rw [ctx_setEclosion]
  exact setCtx_setCtx s x (k := { s.ctx x with eclosion := some (q.armed (s.eclosionE x)) }) rfl _

/-- E depends on the next batches of the context's cores. -/
theorem eclosionE_congr {s t : State} {x : Nat} (hc : (t.ctx x).cores = (s.ctx x).cores) (hb : ∀ c, (t.core c).seq.batchNo = (s.core c).seq.batchNo)
    (hv : t.cfg 0x2600 3 = s.cfg 0x2600 3) : t.eclosionE x = s.eclosionE x := by
  unfold State.eclosionE
  rw [hc, hv]
  simp only [hb]

theorem eclosionBegin_begins {s : State} {x : Nat} {q : Eclosion} (h : (s.ctx x).eclosion = some q) (hb : q.begun = false) (hd : s.eclosionDue q = true) :
    s.eclosionBegin x = s.sendArm x := by
  unfold State.eclosionBegin
  rw [h]
  exact if_neg (by simp [hb, hd])

theorem eclosionBegin_waits {s : State} {x : Nat} {q : Eclosion} (h : (s.ctx x).eclosion = some q) (hb : q.begun = true ∨ s.eclosionDue q = false) :
    s.eclosionBegin x = s := by
  unfold State.eclosionBegin
  rw [h]
  exact if_pos (by rw [Bool.or_eq_true, Bool.not_eq_true']; exact hb)

/-! ## A core answers (R200) -/

/-- The eclosion with one more answer. -/
def Eclosion.answeredBy (q : Eclosion) (c : Nat) (late : Bool) : Eclosion := { q with answered := q.answered ++ [c], refused := q.refused || late }

theorem armCore_answers {s : State} {x c : Nat} {q : Eclosion} (h : (s.ctx x).eclosion = some q) (hb : q.begun = true) (hc : c ∈ (s.ctx x).cores)
    (ha : c ∉ q.answered) {late : Bool} (hl : batchAtLeast ((s.core c).seq.batchNo + 2 ^ 32 - 1) q.e = late) : s.armCore x c =
      if late then s.setCtx x { s.ctx x with eclosion := some (q.answeredBy c late) }
      else (s.setCtx x { s.ctx x with eclosion := some (q.answeredBy c late) }).modSeq c (fun r => { r with armed := some (q.bank, q.e) }) := by
  unfold State.armCore
  rw [h]
  dsimp only
  rw [if_neg (by simp [hb, hc, ha]), hl, modEclosion_eq h]
  rfl

/-! ## Another attempt, or none (R202) -/

section
variable {s : State} {x : Nat} {q : Eclosion} (h : (s.ctx x).eclosion = some q)
include h

theorem disarm_idle (hr : q.refused = false) : s.disarm x = s := by
  unfold State.disarm
  rw [h]
  exact if_pos (by simp [hr])

theorem disarm_again (hr : q.refused = true) (ha : q.attempts < 3) :
    s.disarm x = ((s.disarmAll x).modEclosion x (fun q => { q with attempts := q.attempts + 1 })).sendArm x := by
  unfold State.disarm
  rw [h]
  dsimp only
  rw [if_neg (by simp [hr]), if_neg (by omega)]

theorem disarm_late (hr : q.refused = true) (ha : 3 ≤ q.attempts) : s.disarm x =
    if (s.ctx x).cmd = 3 then ((s.disarmAll x).modCtx x Ctx.uneclosed).setStatus resLate x 3 else (s.disarmAll x).modCtx x Ctx.uneclosed := by
  have hcmd : ((s.disarmAll x).ctx x).cmd = (s.ctx x).cmd := (congrArg (fun u : State => (u.ctx x).cmd) (disarmAll_frame s x) :)
  unfold State.disarm
  rw [h]
  dsimp only
  rw [if_neg (by simp [hr]), if_pos (by omega), hcmd]
  rfl

end

theorem ctx_disarmAll (s : State) (x y : Nat) : (s.disarmAll x).ctx y = s.ctx y := (congrArg (fun u : State => u.ctx y) (disarmAll_frame s x) :)

theorem disarmAll_batchNo (s : State) (x c : Nat) : ((s.disarmAll x).core c).seq.batchNo = (s.core c).seq.batchNo := by
  rw [disarmAll_core]
  split <;> rfl

theorem disarmAll_armed {s : State} {x c : Nat} (h : c ∈ (s.ctx x).cores) : ((s.disarmAll x).core c).seq.armed = none := by
  rw [disarmAll_core, if_pos h]
  rfl

/-- After DISARM the next attempt goes out, with a fresh E. -/
theorem disarm_again_leaves {s : State} {x : Nat} {q : Eclosion} (h : (s.ctx x).eclosion = some q) (hr : q.refused = true) (ha : q.attempts < 3) :
    ((s.disarm x).ctx x).eclosion = some { q with attempts := q.attempts + 1, e := s.eclosionE x, begun := true, answered := [], refused := false } ∧
    (∀ d, d ∈ (s.ctx x).cores → ((s.disarm x).core d).seq.armed = none) ∧ (s.disarm x).cmdStatus = s.cmdStatus ∧ (s.disarm x).mem = s.mem := by
  have hd : ((s.disarmAll x).ctx x).eclosion = some q := by rw [ctx_disarmAll, h]
  have hq := ctx_setEclosion (s.disarmAll x) x (some { q with attempts := q.attempts + 1 })
  rw [disarm_again h hr ha, modEclosion_eq hd]
  have hE : ((s.disarmAll x).setCtx x { (s.disarmAll x).ctx x with eclosion := some { q with attempts := q.attempts + 1 } }).eclosionE x = s.eclosionE x :=
    eclosionE_congr (by rw [hq, ctx_disarmAll]) (disarmAll_batchNo s x) (by rw [disarmAll_frame]; rfl)
  rw [sendArm_eq (congrArg Ctx.eclosion hq :), hE]
  refine ⟨?_, fun d hd => disarmAll_armed hd, (congrArg State.cmdStatus (disarmAll_frame s x) :), (congrArg State.mem (disarmAll_frame s x) :)⟩
  rw [State.ctx_setCtx_same, Ctx.since_frame]
  rfl

/-- After the fourth attempt the eclosion ends. -/
theorem uneclosed_leaves (s : State) (x : Nat) : let t := (s.disarmAll x).modCtx x Ctx.uneclosed
    (t.ctx x).eclosion = none ∧ (t.ctx x).cmd = 0 ∧ (t.ctx x).pointer = (s.ctx x).imago ∧ (∀ d, d ∈ (s.ctx x).cores → (t.core d).seq.armed = none) ∧
      t.cmdStatus = s.cmdStatus ∧ t.mem = s.mem := by
  have hk : ((s.disarmAll x).modCtx x Ctx.uneclosed).ctx x = (s.ctx x).uneclosed.since (s.ctx x) := by rw [State.ctx_modCtx_same, ctx_disarmAll]
  rw [Ctx.since_frame] at hk
  exact ⟨(congrArg Ctx.eclosion hk :), (congrArg Ctx.cmd hk :), (congrArg Ctx.pointer hk :), fun d hd => disarmAll_armed hd,
    (congrArg State.cmdStatus (disarmAll_frame s x) :), (congrArg State.mem (disarmAll_frame s x) :)⟩

/-! ## COMMIT (R201) -/

/-- A context whose eclosion commits. -/
def Ctx.eclosed (k : Ctx) (q : Eclosion) (gtc : Nat) : Ctx :=
  { ((k.modBank q.bank (fun b => { b with state := .imago })).modBank k.imago (fun b => { b with state := .draining })) with
    pointer := q.bank, switchAt := q.e, lastEclosion := gtc, eclosion := none, cmd := 0 }

/-- A core that receives COMMIT. -/
def Core.committed (q : Eclosion) (k : Core) : Core := { k with seq := { k.seq with armed := none, committed := some (q.bank, q.e) } }

/-- The bank whose row budgets wait on a core that has received COMMIT. -/
def budgetDue (q : Eclosion) (old : Nat) (b : Option Nat) : Option Nat := if q.exchange.isSome ∧ b ≠ some old then b else some q.bank

theorem budgetDue_twice (q : Eclosion) (old : Nat) (b : Option Nat) : budgetDue q old (budgetDue q old b) = budgetDue q old b := by
  unfold budgetDue
  split_ifs <;> rfl

def Core.budgeted (q : Eclosion) (old : Nat) (k : Core) : Core := { k with ana := { k.ana with bankDue := budgetDue q old k.ana.bankDue } }

theorem Core.budgeted_twice (q : Eclosion) (old : Nat) (k : Core) : Core.budgeted q old (Core.budgeted q old k) = Core.budgeted q old k := by
  unfold Core.budgeted
  rw [budgetDue_twice]

/-- The state behind COMMIT, but for CMD_STATUS. -/
def State.commits (s : State) (x : Nat) (q : Eclosion) : State :=
  let k := s.ctx x
  let u := (s.setCtx x (k.eclosed q s.time.gtc)).settleOwners x q.bank
  let v := k.cores.foldl (fun s c => s.modCore c (Core.committed q)) u
  (k.cores.foldl (fun s c => s.modCore c (Core.budgeted q k.imago)) v).bump (0x2610 + x) 9

theorem placed_settleOwners (s : State) (x b : Nat) : (s.settleOwners x b).placed = s.placed := by
  unfold State.settleOwners
  exact foldl_leaves State.placed (fun _ _ => placed_modEng ..) _ s

theorem eclosed_banks {k : Ctx} {q : Eclosion} (hq : q.bank = 1 - k.imago) (gtc : Nat) :
    ((k.eclosed q gtc).bank q.bank).state = .imago ∧ ((k.eclosed q gtc).bank k.imago).state = .draining := by
  unfold Ctx.eclosed
  rw [hq]
  generalize k.imago = i, imago_lt k = hi
  interval_cases i <;> exact ⟨rfl, rfl⟩

theorem commit_leaves (s : State) (x : Nat) {q : Eclosion} (hq : q.bank = 1 - (s.ctx x).imago) : let t := s.commits x q
    (t.ctx x).pointer = q.bank ∧ (t.ctx x).switchAt = q.e ∧ (t.ctx x).cmd = 0 ∧ (t.ctx x).eclosion = none ∧ (t.ctx x).lastEclosion = s.time.gtc ∧
    ((t.ctx x).bank q.bank).state = .imago ∧ ((t.ctx x).bank (s.ctx x).imago).state = .draining ∧
    (∀ d, d ∈ (s.ctx x).cores → (t.core d).seq.committed = some (q.bank, q.e) ∧ (t.core d).seq.armed = none ∧
      (q.exchange = none → (t.core d).ana.bankDue = some q.bank)) ∧ t.cmdStatus = s.cmdStatus ∧ t.mem = s.mem := by
  have howner := placed_settleOwners (s.setCtx x ((s.ctx x).eclosed q s.time.gtc)) x q.bank
  unfold State.commits
  dsimp only
  generalize (s.setCtx x ((s.ctx x).eclosed q s.time.gtc)).settleOwners x q.bank = u at howner ⊢
  have hframe := (foldl_modCore_frame (fun c : Nat => c) (fun _ => Core.budgeted q (s.ctx x).imago) (s.ctx x).cores
    ((s.ctx x).cores.foldl (fun s c => s.modCore c (Core.committed q)) u))
  have hframe' := foldl_modCore_frame (fun c : Nat => c) (fun _ => Core.committed q) (s.ctx x).cores u
  have hcore (c : Nat) (hc : c ∈ (s.ctx x).cores) := (core_foldl_modCore (Core.budgeted_twice q (s.ctx x).imago) (s.ctx x).cores
    ((s.ctx x).cores.foldl (fun s c => s.modCore c (Core.committed q)) u) c).trans (if_pos hc)
  have hcore' (c : Nat) (hc : c ∈ (s.ctx x).cores) := (core_foldl_modCore (f := Core.committed q) (fun _ => rfl) (s.ctx x).cores u c).trans (if_pos hc)
  generalize (s.ctx x).cores.foldl (fun s c => s.modCore c (Core.committed q)) u = v at hframe hframe' hcore hcore' ⊢
  generalize (s.ctx x).cores.foldl (fun u c => u.modCore c (Core.budgeted q (s.ctx x).imago)) v = w at hframe hcore ⊢
  have hplaced : (w.bump (0x2610 + x) 9).ctx x = ((s.ctx x).eclosed q s.time.gtc).since (s.ctx x) := by
    have h1 : w.ctx x = v.ctx x := (congrArg (fun u : State => u.ctx x) hframe :)
    have h2 : v.ctx x = u.ctx x := (congrArg (fun u : State => u.ctx x) hframe' :)
    exact h1.trans (h2.trans ((placed_ctx howner x).trans (State.ctx_setCtx_same ..)))
  have hstatus : w.cmdStatus = s.cmdStatus := by
    have h1 : w.cmdStatus = v.cmdStatus := (congrArg State.cmdStatus hframe :)
    have h2 : v.cmdStatus = u.cmdStatus := (congrArg State.cmdStatus hframe' :)
    exact h1.trans (h2.trans (placed_cmdStatus howner :))
  have hmem : w.mem = s.mem := by
    have h1 : w.mem = v.mem := (congrArg State.mem hframe :)
    have h2 : v.mem = u.mem := (congrArg State.mem hframe' :)
    exact h1.trans (h2.trans (placed_mem howner :))
  obtain ⟨hnew, hold⟩ := eclosed_banks hq s.time.gtc
  have hb (i : Nat) : ((w.bump (0x2610 + x) 9).ctx x).bank i = ((s.ctx x).eclosed q s.time.gtc).bank i := by rw [hplaced, Ctx.bank_since]
  rw [Ctx.since_frame] at hplaced
  refine ⟨(congrArg Ctx.pointer hplaced :), (congrArg Ctx.switchAt hplaced :), (congrArg Ctx.cmd hplaced :), (congrArg Ctx.eclosion hplaced :),
    (congrArg Ctx.lastEclosion hplaced :), (congrArg Bank.state (hb q.bank)).trans hnew, (congrArg Bank.state (hb _)).trans hold, fun d hd => ?_, hstatus, hmem⟩
  have hd' : w.core d = Core.budgeted q (s.ctx x).imago (Core.committed q (u.core d)) := by rw [hcore d hd, hcore' d hd]
  refine ⟨(congrArg (fun k : Core => k.seq.committed) hd' :), (congrArg (fun k : Core => k.seq.armed) hd' :), fun he => ?_⟩
  refine (congrArg (fun k : Core => k.ana.bankDue) hd' :).trans ?_
  exact if_neg (by simp [he])

theorem commitEclosion_waits {s : State} {x : Nat} {q : Eclosion} (h : (s.ctx x).eclosion = some q)
    (hw : q.begun = false ∨ q.refused = true ∨ (s.ctx x).cores.all (q.answered.contains ·) = false) : s.commitEclosion x = s := by
  unfold State.commitEclosion
  dsimp only
  rw [h]
  refine if_pos ?_
  rw [Bool.or_eq_true, Bool.or_eq_true, Bool.not_eq_true', Bool.not_eq_true']
  tauto

theorem commitEclosion_commits {s : State} {x : Nat} {q : Eclosion} (h : (s.ctx x).eclosion = some q) (hb : q.begun = true) (hr : q.refused = false)
    (ha : (s.ctx x).cores.all (q.answered.contains ·) = true) : s.commitEclosion x =
      if (s.ctx x).cmd = 3 then (s.commits x q).setStatus resDone x 3 else s.commits x q := by
  unfold State.commitEclosion
  dsimp only
  rw [h]
  exact if_neg (by rw [hb, hr, ha]; decide)

/-! ## The drained bank retired (R203) -/

theorem placed_requalify (s : State) (c e : Nat) (r : Bool) : (s.requalify c e r).placed = s.placed := by
  unfold State.requalify
  dsimp only
  split
  · exact placed_engState ..
  · rfl

/-- A core that holds no COMMIT. -/
def Core.uncommitted (k : Core) : Core := { k with seq := { k.seq with committed := none } }

theorem bankRetire_leaves {s : State} {x : Nat} (hd : ((s.ctx x).bank (1 - (s.ctx x).imago)).state = .draining)
    (ha : (s.ctx x).cores.all (fun c => s.coreDrained c (1 - (s.ctx x).imago) (s.ctx x).switchAt) = true) :
    (s.bankRetire x).placed = ((s.ctx x).cores.foldl (fun s c => s.modCore c Core.uncommitted) (s.freeBank x (1 - (s.ctx x).imago))).placed := by
  unfold State.bankRetire
  dsimp only
  rw [if_neg (by simp [hd, ha])]
  refine (foldl_leaves State.placed (fun u n => ?_) _ _).trans rfl
  split
  · exact (placed_endWait ..).trans (placed_requalify ..)
  · exact (placed_endWait ..).trans (placed_requalify ..)
  · exact (placed_endWait ..).trans (placed_requalify ..)
  · rfl

theorem bankRetire_waits {s : State} {x : Nat} (h : ((s.ctx x).bank (1 - (s.ctx x).imago)).state ≠ .draining ∨
    (s.ctx x).cores.all (fun c => s.coreDrained c (1 - (s.ctx x).imago) (s.ctx x).switchAt) = false) : s.bankRetire x = s := by
  unfold State.bankRetire
  refine if_pos ?_
  rw [Bool.or_eq_true, Bool.not_eq_true', bne_iff_ne]
  exact h

/-- Settles O26: the attempts of an eclosion, its COMMIT, and the drained bank. -/
theorem eclosionAndRetirement : Obligations.EclosionAndRetirement := by
  unfold Obligations.EclosionAndRetirement
  have next {t u : State} (h : t = u) : (.next t : Out) = .next u := congrArg Host.Outcome.next h
  constructor
  · intro s x c q hq k
    refine ⟨fun hb hd => next ((eclosionBegin_begins hq hb hd).trans (sendArm_eq hq)), fun h => next (eclosionBegin_waits hq h), fun hb hc ha hl => ?_,
      fun hb hc ha hl => next ?_, fun hr => next (disarm_idle hq hr), fun hr ha => ⟨_, rfl, disarm_again_leaves hq hr ha⟩, fun hr ha => ?_,
      fun h => next (commitEclosion_waits hq h), fun hb hr ha hbank => ?_⟩
    · have hk := ctx_setEclosion s x (some (q.answeredBy c false))
      rw [show q.answeredBy c false = { q with answered := q.answered ++ [c] } by simp [Eclosion.answeredBy]] at hk
      refine ⟨_, next ((armCore_answers hq hb hc ha hl).trans (if_neg Bool.false_ne_true)), ?_, ?_, fun d hd => ?_, fun y hy => ?_, rfl⟩
      · rw [show q.answeredBy c false = { q with answered := q.answered ++ [c] } by simp [Eclosion.answeredBy]]
        exact hk
      · exact (congrArg (fun k : Core => k.seq.armed) (State.core_modCore_same ..) :)
      · exact State.core_modCore_ne _ _ hd
      · exact State.ctx_setCtx_ne _ _ hy
    · rw [armCore_answers hq hb hc ha hl, if_pos rfl]
      exact (congrArg (fun b : Bool => s.setCtx x { k with eclosion := some { q with answered := q.answered ++ [c], refused := b } }) (Bool.or_true _) :)
    · obtain ⟨hecl, hcmd, hptr, harmed, hstatus, hmem⟩ := uneclosed_leaves s x
      refine ⟨_, rfl, ?_⟩
      rw [disarm_late hq hr ha]
      generalize (s.disarmAll x).modCtx x Ctx.uneclosed = u at *
      split
      · next h3 =>
        obtain ⟨hs, -, -, -, hm⟩ := setStatus_leaves u resLate x 3
        rw [setStatus_ctx]
        exact ⟨hecl, hcmd, hptr, fun d hd => by rw [setStatus_core]; exact harmed d hd, hs, hm.trans hmem⟩
      · next h3 => exact ⟨hecl, hcmd, hptr, harmed, hstatus, hmem⟩
    · obtain ⟨h1, h2, h3, h4, h5, h6, h7, h8, hstatus, hmem⟩ := commit_leaves s x hbank
      refine ⟨_, next (commitEclosion_commits hq hb hr ha), ?_⟩
      generalize s.commits x q = u at *
      split
      · next hc =>
        obtain ⟨hs, -, -, -, hm⟩ := setStatus_leaves u resDone x 3
        rw [setStatus_ctx]
        refine ⟨h1, h2, h3, h4, h5, h6, h7, fun d hd => by rw [setStatus_core]; exact h8 d hd, hs.trans (by simp [resDone]), hm.trans hmem⟩
      · next hc => exact ⟨h1, h2, h3, h4, h5, h6, h7, h8, hstatus, hmem⟩
  · intro s x k
    refine ⟨fun h => next (bankRetire_waits h), fun hd ha => ⟨_, rfl, ?_⟩⟩
    have hp := bankRetire_leaves hd ha
    have hframe := foldl_modCore_frame (fun c : Nat => c) (fun _ => Core.uncommitted) (s.ctx x).cores (s.freeBank x (1 - (s.ctx x).imago))
    have hcores (c : Nat) := core_foldl_modCore (f := Core.uncommitted) (fun _ => rfl) (s.ctx x).cores (s.freeBank x (1 - (s.ctx x).imago)) c
    obtain ⟨hctx, -, hcore, hmem, -⟩ := freeBank_leaves s x (1 - (s.ctx x).imago)
    generalize (s.ctx x).cores.foldl (fun s c => s.modCore c Core.uncommitted) (s.freeBank x (1 - (s.ctx x).imago)) = v at hp hframe hcores
    have hx : (s.bankRetire x).ctx x = (k.setBank (1 - k.imago) Bank.reset).since k :=
      (placed_ctx hp x).trans ((congrArg (fun u : State => u.ctx x) hframe :).trans hctx)
    have hb (i : Nat) : ((s.bankRetire x).ctx x).bank i = (k.setBank (1 - k.imago) Bank.reset).bank i := by rw [hx, Ctx.bank_since]
    refine ⟨(hb _).trans (Ctx.bank_setBank_same ..), (hb _).trans (Ctx.bank_setBank_other k (imago_lt k) _), ?_, fun c hc => ?_,
      (placed_mem hp).trans ((congrArg State.mem hframe :).trans hmem)⟩
    · rw [hx, Ctx.since_frame]
      show (k.setBank (1 - k.imago) Bank.reset).pointer = k.pointer
      unfold Ctx.setBank
      split <;> rfl
    · have hk : (s.bankRetire x).core c = ((s.core c).withoutBank (1 - k.imago)).uncommitted := by
        rw [placed_core hp, hcores, if_pos hc, hcore, if_pos hc]
      rw [hk]
      exact ⟨rfl, Core.head_withoutBank ..⟩

end Sys2Proof.Machine

end

section
/-! Loads placed, banks verified, blocks programmed once more (R171-R173, R194, R195, R197, R199). Settles O25. -/

namespace Sys2Proof.Machine

/-! ## A load placed (R171-R173) -/

/-- Contexts, staging slots and memory are the same, and each core's context. -/
structure KeepsPlaces (s t : State) : Prop where
  ctxs : t.ctxs = s.ctxs
  stage : t.stage = s.stage
  mem : t.mem = s.mem
  owner : ∀ c, (t.core c).ctx = (s.core c).ctx

theorem KeepsPlaces.refl (s : State) : KeepsPlaces s s := ⟨rfl, rfl, rfl, fun _ => rfl⟩

theorem KeepsPlaces.trans {s t u : State} (h : KeepsPlaces s t) (k : KeepsPlaces t u) : KeepsPlaces s u :=
  ⟨k.ctxs.trans h.ctxs, k.stage.trans h.stage, k.mem.trans h.mem, fun c => (k.owner c).trans (h.owner c)⟩

theorem keepsPlaces_raiseEpoch (s : State) (c : Nat) : KeepsPlaces s (s.raiseEpoch c) := by
  refine ⟨rfl, rfl, rfl, fun d => ?_⟩
  rw [core_raiseEpoch]

theorem onlyLines_announceEpoch (s : State) (c : Nat) : OnlyLines s (s.announceEpoch c) := by
  unfold State.announceEpoch
  split
  · exact .refl s
  · refine onlyLines_foldl _ (fun u p => ?_) _ s
    split
    · exact onlyLines_sendItem ..
    · exact .refl u

theorem OnlyLines.keepsPlaces {s t : State} (h : OnlyLines s t) : KeepsPlaces s t :=
  ⟨(congrArg State.ctxs h.eq :), (congrArg State.stage h.eq :), (congrArg State.mem h.eq :), fun c => (congrArg (fun u : State => (u.core c).ctx) h.eq :)⟩

theorem keepsPlaces_roleChange (s : State) (c : Nat) : KeepsPlaces s (s.roleChange c) :=
  (keepsPlaces_raiseEpoch s c).trans (onlyLines_announceEpoch ..).keepsPlaces

theorem keepsPlaces_takeUp (s : State) (c e : Nat) : KeepsPlaces s (s.takeUp c e) := by
  unfold State.takeUp
  split
  · rw [engState_frame]
    exact ⟨rfl, rfl, rfl, fun _ => rfl⟩
  · exact .refl s

theorem keepsPlaces_setMap (s : State) (c b : Nat) (m : Core → Tab Nat) : KeepsPlaces s (s.modCore c (fun k => k.setMap b (m k))) := by
  refine ⟨rfl, rfl, rfl, fun d => ?_⟩
  by_cases h : d = c
  · subst h
    rw [State.core_modCore_same]
    unfold Core.setMap
    split <;> rfl
  · rw [State.core_modCore_ne _ _ h]

theorem keepsPlaces_bindBlock (s : State) (x b : Nat) (n : Block) : KeepsPlaces s (s.bindBlock x b n) :=
  (keepsPlaces_takeUp s n.core n.eng).trans
    (KeepsPlaces.trans (t := (s.takeUp n.core n.eng).modEng n.core n.eng (fun g => { g with owner := some (x, b, n.leng), chrysalis := true }))
      ⟨rfl, rfl, rfl, fun _ => rfl⟩ (keepsPlaces_setMap _ n.core b (fun k => Tab.set (k.map b) n.leng n.eng)))

/-- A core is logical core i of a context. -/
def State.takeCore (s : State) (x c i : Nat) : State := (s.modCore c (fun q => { q with ctx := some x, lcore := i })).roleChange c

theorem takeCore_owner (s : State) (x c i d : Nat) : ((s.takeCore x c i).core d).ctx = if d = c then some x else (s.core d).ctx := by
  refine ((keepsPlaces_roleChange _ c).owner d).trans ?_
  by_cases h : d = c
  · subst h
    rw [State.core_modCore_same, if_pos rfl]
  · rw [State.core_modCore_ne _ _ h, if_neg h]

/-- The cores of a placement are the context's. -/
theorem takeCores_leaves (s : State) (x : Nat) (cs : List Nat) : let t := (List.range cs.length).foldl (fun u i => u.takeCore x (cs.getD i 0) i) s
    t.ctxs = s.ctxs ∧ t.stage = s.stage ∧ t.mem = s.mem ∧ ∀ c, c ∈ cs → (t.core c).ctx = some x := by
  obtain ⟨h1, h2, h3⟩ := foldl_rel (R := fun s t => t.ctxs = s.ctxs ∧ t.stage = s.stage ∧ t.mem = s.mem) (fun _ => ⟨rfl, rfl, rfl⟩)
    (fun ⟨a, b, c⟩ ⟨d, e, f⟩ => ⟨d.trans a, e.trans b, f.trans c⟩)
    (fun (u : State) (i : Nat) => by
      have h := keepsPlaces_roleChange (u.modCore (cs.getD i 0) (fun q => { q with ctx := some x, lcore := i })) (cs.getD i 0)
      exact (⟨h.ctxs, h.stage, h.mem⟩ : (u.takeCore x (cs.getD i 0) i).ctxs = u.ctxs ∧ (u.takeCore x (cs.getD i 0) i).stage = u.stage ∧
        (u.takeCore x (cs.getD i 0) i).mem = u.mem)) (List.range cs.length) s
  refine ⟨h1, h2, h3, fun c hc => ?_⟩
  obtain ⟨i, hi, rfl⟩ := List.mem_iff_getElem.mp hc
  have hget : cs.getD i 0 = cs[i] := by simp [hi]
  refine foldl_reaches (Q := fun _ => True) (P := fun u => (u.core cs[i]).ctx = some x) (fun _ _ _ => trivial) (fun u j _ hp => ?_)
    (fun u _ => ?_) (List.mem_range.mpr hi) s trivial
  · rw [takeCore_owner]
    split
    · rfl
    · exact hp
  · rw [takeCore_owner, hget, if_pos rfl]

/-- A context placed on its cores. -/
def placedCtx (k : Ctx) (blocks : List Block) (cs : List Nat) (d h : Nat × Nat) : Ctx :=
  { (k.setBank 0 { k.bank 0 with blocks := blocks }) with cores := cs, peerLists := List.replicate cs.length [], dieBase := d.1, dieLen := d.2,
                                                          hubBase := h.1, hubLen := h.2 }

/-- What a placed load leaves. -/
def State.placeLoad (s : State) (x : Nat) (cs : List Nat) (d h : Nat × Nat) : State :=
  let blocks := s.assign cs [] ((s.ctx x).bank 0).blocks
  let u := (List.range cs.length).foldl (fun u i => u.takeCore x (cs.getD i 0) i) (s.setCtx x (placedCtx (s.ctx x) blocks cs d h))
  let v := blocks.foldl (fun u n => u.bindBlock x 0 n) u
  { v with stage := { v.stage with evaluated := true } }

section
variable {s : State} {x : Nat}

theorem evaluate_unplaced (h : s.place (s.ctx x).sentinel (s.ctx x).groups ((s.ctx x).bank 0).lcores = none) : s.evaluate x = s.failPlan x resCapacity := by
  unfold State.evaluate
  dsimp only
  rw [h]

theorem evaluate_unfit {cs : List Nat} (h : s.place (s.ctx x).sentinel (s.ctx x).groups ((s.ctx x).bank 0).lcores = some cs)
    (hno : s.allocSync (s.ctx x).sentinel cs ((s.ctx x).bank 0).lcores = none ∨ s.enginesFit ((s.ctx x).bank 0).lcores cs = false) :
    s.evaluate x = s.failPlan x resCapacity := by
  unfold State.evaluate
  dsimp only
  rw [h]
  dsimp only
  cases ha : s.allocSync (s.ctx x).sentinel cs ((s.ctx x).bank 0).lcores with
  | none => rfl
  | some p =>
    have hf : s.enginesFit ((s.ctx x).bank 0).lcores cs = false := hno.resolve_left (by simp [ha])
    exact if_pos (by simp [hf])

theorem evaluate_fits {cs : List Nat} {d h : Nat × Nat} (hp : s.place (s.ctx x).sentinel (s.ctx x).groups ((s.ctx x).bank 0).lcores = some cs)
    (ha : s.allocSync (s.ctx x).sentinel cs ((s.ctx x).bank 0).lcores = some (d, h)) (hf : s.enginesFit ((s.ctx x).bank 0).lcores cs = true) :
    s.evaluate x = s.placeLoad x cs d h := by
  unfold State.evaluate
  dsimp only
  rw [hp]
  dsimp only
  rw [ha]
  exact if_neg (by simp [hf])

end

theorem placeLoad_leaves (s : State) (x : Nat) (cs : List Nat) (d h : Nat × Nat) : let t := s.placeLoad x cs d h
    (t.ctx x).cores = cs ∧ (t.ctx x).dieBase = d.1 ∧ (t.ctx x).dieLen = d.2 ∧ (t.ctx x).hubBase = h.1 ∧ (t.ctx x).hubLen = h.2 ∧
    (t.ctx x).state = (s.ctx x).state ∧ (∀ c, c ∈ cs → (t.core c).ctx = some x) ∧ (∀ y, y ≠ x → t.ctx y = s.ctx y) ∧
    t.stage = { s.stage with evaluated := true } ∧ t.mem = s.mem := by
  unfold State.placeLoad
  dsimp only
  generalize s.assign cs [] ((s.ctx x).bank 0).blocks = blocks
  obtain ⟨hctxs, hstage, hmem, hown⟩ := takeCores_leaves (s.setCtx x (placedCtx (s.ctx x) blocks cs d h)) x cs
  generalize (List.range cs.length).foldl (fun u i => u.takeCore x (cs.getD i 0) i) (s.setCtx x (placedCtx (s.ctx x) blocks cs d h)) = u at *
  have hk : KeepsPlaces u (blocks.foldl (fun u n => u.bindBlock x 0 n) u) :=
    foldl_rel KeepsPlaces.refl KeepsPlaces.trans (fun u n => keepsPlaces_bindBlock u x 0 n) blocks u
  generalize blocks.foldl (fun u n => u.bindBlock x 0 n) u = v at *
  have hctx (y : Nat) : v.ctx y = (s.setCtx x (placedCtx (s.ctx x) blocks cs d h)).ctx y :=
    congrArg (fun c : Tab Ctx => Tab.get Ctx.reset c y) (hk.ctxs.trans hctxs)
  have hx : v.ctx x = (placedCtx (s.ctx x) blocks cs d h).since (s.ctx x) := (hctx x).trans (State.ctx_setCtx_same ..)
  rw [Ctx.since_frame] at hx
  refine ⟨(congrArg Ctx.cores hx :), (congrArg Ctx.dieBase hx :), (congrArg Ctx.dieLen hx :), (congrArg Ctx.hubBase hx :), (congrArg Ctx.hubLen hx :),
    (congrArg Ctx.state hx :), fun c hc => (hk.owner c).trans (hown c hc), fun y hy => (hctx y).trans (State.ctx_setCtx_ne _ _ hy), ?_,
    hk.mem.trans (hmem.trans rfl)⟩
  show ({ v.stage with evaluated := true } : Stage) = { s.stage with evaluated := true }
  rw [hk.stage, hstage]
  rfl

/-! ## A bank whose blocks are all verified (R195, R197) -/

/-- A bank in construction that waits for nothing. -/
def State.whole (s : State) (x : Nat) (b : Bank) : Prop :=
  b.state = .chrysalis ∧ s.stage.install ≠ some x ∧ s.stage.waiting.contains x = false ∧ b.blocks.all (·.verified) = true

/-- The bank that is being installed. -/
def Ctx.building (k : Ctx) : Nat := if k.cmd = 1 then 0 else 1 - k.imago

section
variable {s : State} {x : Nat}

/-- No block is to be programmed once more now. -/
def State.noneAgain (s : State) (b : Bank) : Prop := b.state ≠ .chrysalis ∨ s.stage.install ≠ none ∨ b.firstAgain = none

theorem again_none {b : Bank} (h : s.noneAgain b) : (if b.state == .chrysalis && s.stage.install.isNone then b.firstAgain else none) = none := by
  split
  · next hc =>
    rw [Bool.and_eq_true, beq_iff_eq, Option.isNone_iff_eq_none] at hc
    obtain h | h | h := h
    · exact absurd hc.1 h
    · exact absurd hc.2 h
    · exact h
  · rfl

/-- The bank, once it is whole. -/
def State.bankDone (s : State) (x : Nat) (b : Bank) : State :=
  let k := s.ctx x
  if k.cmd = 1 then
    let s := (s.settleOwners x 0).commitBudgets b
    let s := if k.sentinel then s.storeTargets x else s
    (s.modCtx x (fun k => { (k.setBank 0 { b with state := .imago }).enter .stopped with pointer := 0, cmd := 0 })).setStatus resDone x 1
  else
    let s := (s.readyOwners x k.building).modCtx x (fun q => { (q.setBank k.building { b with state := .ready }) with cmd := 0, auto := false })
    let s := s.setStatus resDone x 2
    if k.auto then ((s.askEclosion x k.building 0 none).modCtx x (fun k => { k with cmd := 3 })).setStatus resProgress x 3 else s

theorem bankVerified_eq (h : s.noneAgain ((s.ctx x).bank (s.ctx x).building)) : s.bankVerified x =
    if !((s.ctx x).cmd == 1 || (s.ctx x).cmd == 2) || ((s.ctx x).bank (s.ctx x).building).state != .chrysalis || s.stage.install == some x ||
      s.stage.waiting.contains x || !((s.ctx x).bank (s.ctx x).building).blocks.all (·.verified) then s
    else s.bankDone x ((s.ctx x).bank (s.ctx x).building) := by
  unfold State.bankVerified
  have hm := again_none h
  unfold Ctx.building at hm
  dsimp only
  rw [hm]
  rfl

theorem bankVerified_idle (h : s.noneAgain ((s.ctx x).bank (s.ctx x).building)) (h1 : (s.ctx x).cmd ≠ 1) (h2 : (s.ctx x).cmd ≠ 2) : s.bankVerified x = s := by
  rw [bankVerified_eq h, if_pos (by simp [h1, h2])]

theorem bankVerified_waits (h : s.noneAgain ((s.ctx x).bank (s.ctx x).building)) (hw : ¬ s.whole x ((s.ctx x).bank (s.ctx x).building)) :
    s.bankVerified x = s := by
  rw [bankVerified_eq h]
  refine if_pos ?_
  by_contra hno
  simp only [Bool.or_eq_true, bne_iff_ne, ne_eq, Bool.not_eq_true', not_or, not_not, Bool.not_eq_false, beq_iff_eq, Bool.not_eq_true] at hno
  obtain ⟨⟨⟨⟨-, h1⟩, h2⟩, h3⟩, h4⟩ := hno
  exact hw ⟨h1, h2, h3, h4⟩

theorem bankVerified_done (h : s.noneAgain ((s.ctx x).bank (s.ctx x).building)) (hc : (s.ctx x).cmd = 1 ∨ (s.ctx x).cmd = 2)
    (hw : s.whole x ((s.ctx x).bank (s.ctx x).building)) : s.bankVerified x = s.bankDone x ((s.ctx x).bank (s.ctx x).building) := by
  obtain ⟨h1, h2, h3, h4⟩ := hw
  rw [bankVerified_eq h]
  refine if_neg ?_
  have hcmd : ((s.ctx x).cmd == 1 || (s.ctx x).cmd == 2) = true := by
    obtain h | h := hc <;> rw [h] <;> rfl
  have hin : (s.stage.install == some x) = false := by simpa using h2
  rw [hcmd, h1, hin, h3, h4]
  decide

end

/-- Contexts and engines, through what a load's end does to cores and the target store. -/
theorem placed_storeTargets (s : State) (x : Nat) : (s.storeTargets x).ctxs = s.ctxs ∧ (s.storeTargets x).engines = s.engines ∧
    (s.storeTargets x).mem = s.mem := by
  unfold State.storeTargets
  refine foldl_rel (R := fun s t => t.ctxs = s.ctxs ∧ t.engines = s.engines ∧ t.mem = s.mem) (fun _ => ⟨rfl, rfl, rfl⟩)
    (fun ⟨a, b, c⟩ ⟨d, e, f⟩ => ⟨d.trans a, e.trans b, f.trans c⟩) (fun _ _ => ?_) _ s
  exact ⟨rfl, rfl, rfl⟩

theorem State.eng_setEng_key (s : State) {c e d f : Nat} (h : engKey d f = engKey c e) (g : Engine) : (s.setEng c e g).eng d f = g.since (s.eng c e) := by
  unfold State.eng State.setEng
  rw [h]
  exact Tab.get_set_same ..

theorem State.eng_setEng_other (s : State) {c e d f : Nat} (h : engKey d f ≠ engKey c e) (g : Engine) : (s.setEng c e g).eng d f = s.eng d f :=
  Tab.get_set_ne _ _ _ h

/-- Engines of blocks are out of construction, each with an owner of its own. -/
theorem chrysalis_foldl (own : Block → Engine → Option (Nat × Nat × Nat)) (l : List Block) (s : State) (c e : Nat)
    (h : (∃ n ∈ l, engKey n.core n.eng = engKey c e) ∨ (s.eng c e).chrysalis = false) :
    ((l.foldl (fun s n => s.modEng n.core n.eng (fun g => { g with owner := own n g, chrysalis := false })) s).eng c e).chrysalis = false := by
  induction l generalizing s with
  | nil => simpa using h
  | cons a l ih =>
    refine ih _ ?_
    by_cases hk : engKey c e = engKey a.core a.eng
    · refine .inr ?_
      unfold State.modEng
      rw [State.eng_setEng_key s hk, Engine.since_frame]
    · obtain ⟨n, hn, hkey⟩ | h := h
      · obtain rfl | hn := List.mem_cons.mp hn
        · exact absurd hkey.symm hk
        · exact .inl ⟨n, hn, hkey⟩
      · refine .inr ?_
        unfold State.modEng
        rw [State.eng_setEng_other s hk]
        exact h

theorem settleOwners_chrysalis (s : State) (x b : Nat) {n : Block} (hn : n ∈ ((s.ctx x).bank b).blocks) :
    ((s.settleOwners x b).eng n.core n.eng).chrysalis = false :=
  chrysalis_foldl (fun n _ => some (x, b, n.leng)) _ s n.core n.eng (.inl ⟨n, hn, rfl⟩)

/-- A context whose load has ended. -/
def Ctx.loaded (k : Ctx) (b : Bank) : Ctx := { (k.setBank 0 { b with state := .imago }).enter .stopped with pointer := 0, cmd := 0 }

theorem bank_enter (k : Ctx) (st : CtxState) : (k.enter st).bank0 = k.bank0 ∧ (k.enter st).bank1 = k.bank1 := by
  unfold Ctx.enter
  split <;> exact ⟨rfl, rfl⟩

theorem bankDone_load {s : State} {x : Nat} (hc : (s.ctx x).cmd = 1) (b : Bank) : let t := s.bankDone x b
    (t.ctx x).state = .stopped ∧ (t.ctx x).pointer = 0 ∧ (t.ctx x).cmd = 0 ∧ (t.ctx x).bank0 = { b with state := .imago } ∧
    (t.ctx x).bank1 = (s.ctx x).bank1 ∧ t.cmdStatus = x * 256 + 65536 ∧
    (∀ n, n ∈ (s.ctx x).bank0.blocks → (t.eng n.core n.eng).chrysalis = false) ∧ (∀ y, y ≠ x → t.ctx y = s.ctx y) ∧ t.mem = s.mem := by
  have hk : ∃ u : State, s.bankDone x b = (u.modCtx x (fun k => k.loaded b)).setStatus resDone x 1 ∧ u.ctxs = s.ctxs ∧
      u.engines = (s.settleOwners x 0).engines ∧ u.mem = s.mem := by
    have howner := placed_settleOwners s x 0
    have hbudget : (s.settleOwners x 0).commitBudgets b = { s.settleOwners x 0 with cores := ((s.settleOwners x 0).commitBudgets b).cores } :=
      foldl_modCore_frame (fun n : Block => n.core) _ _ _
    refine ⟨if (s.ctx x).sentinel then ((s.settleOwners x 0).commitBudgets b).storeTargets x else (s.settleOwners x 0).commitBudgets b, if_pos hc, ?_⟩
    obtain ⟨h1, h2, h3⟩ := placed_storeTargets ((s.settleOwners x 0).commitBudgets b) x
    have hc : ((s.settleOwners x 0).commitBudgets b).ctxs = s.ctxs := (congrArg State.ctxs hbudget :).trans (placed_ctxs howner :)
    have he : ((s.settleOwners x 0).commitBudgets b).engines = (s.settleOwners x 0).engines := (congrArg State.engines hbudget :)
    have hm : ((s.settleOwners x 0).commitBudgets b).mem = s.mem := (congrArg State.mem hbudget :).trans (placed_mem howner :)
    split
    · exact ⟨h1.trans hc, h2.trans he, h3.trans hm⟩
    · exact ⟨hc, he, hm⟩
  obtain ⟨u, hu, hctxs, heng, hmem⟩ := hk
  dsimp only
  rw [hu]
  obtain ⟨hs, -, -, he, hm⟩ := setStatus_leaves (u.modCtx x (fun k => k.loaded b)) resDone x 1
  have hctx (y : Nat) : u.ctx y = s.ctx y := congrArg (fun c : Tab Ctx => Tab.get Ctx.reset c y) hctxs
  have hx : ((u.modCtx x (fun k => k.loaded b)).setStatus resDone x 1).ctx x = ((s.ctx x).loaded b).since (s.ctx x) := by
    rw [setStatus_ctx, State.ctx_modCtx_same, hctx]
  rw [Ctx.since_frame] at hx
  obtain ⟨hb0, hb1⟩ := bank_enter ((s.ctx x).setBank 0 { b with state := .imago }) .stopped
  refine ⟨(congrArg Ctx.state hx :).trans (state_enter ..), (congrArg Ctx.pointer hx :), (congrArg Ctx.cmd hx :), (congrArg Ctx.bank0 hx :).trans hb0,
    (congrArg Ctx.bank1 hx :).trans hb1, hs.trans (by simp [resDone]), fun n hn => ?_, fun y hy => ?_, hm.trans hmem⟩
  · have h : ((u.modCtx x (fun k => k.loaded b)).setStatus resDone x 1).engines = (s.settleOwners x 0).engines := he.trans heng
    refine (congrArg (fun t : Tab Engine => (Tab.get (Engine.reset (isSentinel n.core)) t (engKey n.core n.eng)).chrysalis) h :).trans ?_
    exact settleOwners_chrysalis s x 0 hn
  · rw [setStatus_ctx, State.ctx_modCtx_ne _ _ hy, hctx]

theorem placed_readyOwners (s : State) (x b : Nat) : (s.readyOwners x b).placed = s.placed := by
  unfold State.readyOwners
  exact foldl_leaves State.placed (fun _ _ => placed_modEng ..) _ s

/-- A context whose installation has ended. -/
def Ctx.installed (k : Ctx) (b : Bank) : Ctx := { (k.setBank k.building { b with state := .ready }) with cmd := 0, auto := false }

theorem installed_fields (k : Ctx) (b : Bank) : (k.installed b).state = k.state ∧ (k.installed b).eclosion = k.eclosion ∧ (k.installed b).imago = k.imago := by
  unfold Ctx.installed Ctx.setBank Ctx.imago
  split <;> exact ⟨rfl, rfl, rfl⟩

theorem installed_banks {k : Ctx} (b : Bank) (h : k.building = 1 - k.imago) :
    (k.installed b).bank (1 - k.imago) = { b with state := .ready } ∧ (k.installed b).bank k.imago = k.bank k.imago := by
  unfold Ctx.installed
  rw [h]
  generalize k.imago = i, imago_lt k = hi
  interval_cases i <;> exact ⟨rfl, rfl⟩

/-- The bank is READY, but for CMD_STATUS and an eclosion that follows. -/
theorem installed_leaves (s : State) (x : Nat) (b : Bank) : let t := ((s.readyOwners x (s.ctx x).building).modCtx x (fun k => k.installed b)).setStatus resDone x 2
    t.ctx x = ((s.ctx x).installed b).since (s.ctx x) ∧ t.cmdStatus = x * 256 + 2 * 65536 ∧ (∀ y, y ≠ x → t.ctx y = s.ctx y) ∧ t.cores = s.cores ∧
      t.mem = s.mem := by
  have hp := placed_readyOwners s x (s.ctx x).building
  generalize s.readyOwners x (s.ctx x).building = u at *
  obtain ⟨hs, -, hc, -, hm⟩ := setStatus_leaves (u.modCtx x (fun k => k.installed b)) resDone x 2
  refine ⟨?_, hs.trans (by simp [resDone]), fun y hy => ?_, hc.trans (placed_cores hp :), hm.trans (placed_mem hp :)⟩
  · rw [setStatus_ctx, State.ctx_modCtx_same, placed_ctx hp]
  · rw [setStatus_ctx, State.ctx_modCtx_ne _ _ hy, placed_ctx hp]

theorem bankDone_install {s : State} {x : Nat} (hc : (s.ctx x).cmd = 2) (b : Bank) : s.bankDone x b =
    if (s.ctx x).auto then ((((s.readyOwners x (s.ctx x).building).modCtx x (fun k => k.installed b)).setStatus resDone x 2).askEclosion x (s.ctx x).building
      0 none |>.modCtx x (fun k => { k with cmd := 3 })).setStatus resProgress x 3
    else ((s.readyOwners x (s.ctx x).building).modCtx x (fun k => k.installed b)).setStatus resDone x 2 := by
  have hk : (s.readyOwners x (s.ctx x).building).modCtx x (fun q => { (q.setBank (s.ctx x).building { b with state := .ready }) with cmd := 0, auto := false }) =
      (s.readyOwners x (s.ctx x).building).modCtx x (fun k => k.installed b) := by
    have hctx := placed_ctx (placed_readyOwners s x (s.ctx x).building) x
    unfold State.modCtx Ctx.installed
    rw [hctx]
  unfold State.bankDone
  dsimp only
  rw [if_neg (by omega), hk]

/-! ## A block once more (R194, R199) -/

theorem bankVerified_again {s : State} {x : Nat} {n : Block} {i : Nat} (hb : ((s.ctx x).bank (s.ctx x).building).state = .chrysalis)
    (hi : s.stage.install = none) (ha : ((s.ctx x).bank (s.ctx x).building).firstAgain = some (n, i)) :
    s.bankVerified x = s.programAgain x (s.ctx x).building i n := by
  have hm : (if ((s.ctx x).bank (s.ctx x).building).state == .chrysalis && s.stage.install.isNone then ((s.ctx x).bank (s.ctx x).building).firstAgain else none) =
      some (n, i) := by
    rw [hb, hi]
    exact ha
  unfold Ctx.building at hm
  unfold State.bankVerified
  dsimp only
  rw [hm]
  rfl

theorem programAgain_waits {s : State} {x b i : Nat} {n : Block} (h : s.blockHere x b i = false) : s.programAgain x b i n = s.wantBlock x b i :=
  if_neg (by simp [h])

/-- The job of a whole engine that begins. -/
def State.freshJob (s : State) (c e w : Nat) (code : Nat → Nat → Int) (use : JobUse) : ProgJob :=
  { key := s.draws, step := 1, wfmt := w, goal := ((s.eng c e).goalOf w code).pairs, goalStuck := ((s.eng c e).goalOf w code).stuck, pending := allDevices,
    later := [], overs := [], pulses := [], stuck := [], got := [], granted := false, use := use }

theorem startJob_eng (s : State) (c e w : Nat) (code : Nat → Nat → Int) (use : JobUse) :
    (s.startJob c e w code use).eng c e = { s.eng c e with job := some (s.freshJob c e w code use) } :=
  (State.eng_setEng_same s c e _).trans (Engine.since_same (h := { s.eng c e with job := some (s.freshJob c e w code use) }) rfl rfl)

theorem programAgain_begins {s : State} {x b i : Nat} {n : Block} (h : s.blockHere x b i = true) : let t := s.programAgain x b i n
    (∃ j : ProgJob, (t.eng n.core n.eng).job = some j ∧ j.use = .block x b i ∧ j.step = 1 ∧ j.wfmt = n.wfmt) ∧ t.mem = s.mem ∧ t.cores = s.cores := by
  have ht : s.programAgain x b i n = ((s.startJob n.core n.eng n.wfmt (fun r c => s.payloadCode 0 n.wfmt r c) (.block x b i)).useBlock n.core n.eng).modCtx x
      (fun k => k.modBank b (fun q => { q with blocks := q.blocks.set i { n with started := true, again := false } })) := if_pos h
  dsimp only
  rw [ht]
  have he := startJob_eng s n.core n.eng n.wfmt (fun r c => s.payloadCode 0 n.wfmt r c) (.block x b i)
  exact ⟨⟨_, (congrArg Engine.job he :), rfl, rfl, rfl⟩, rfl, rfl⟩

/-- Settles O25: placement first, then the end of verification, then blocks programmed once more. -/
theorem banksAreLoadedAndVerified : Obligations.BanksAreLoadedAndVerified := by
  unfold Obligations.BanksAreLoadedAndVerified
  have next {t u : State} (h : t = u) : (.next t : Out) = .next u := congrArg Host.Outcome.next h
  constructor
  · intro s x l hev u k b failed fails
    have hexec : exec .ctxLoadEvaluation s = .next (u.evaluate x) := by
      show (.next _ : Out) = _
      rw [hev]
    have hfails (h : u.evaluate x = u.failPlan x resCapacity) : fails := hexec.trans (next h)
    refine ⟨fun h => hfails (evaluate_unplaced h), fun cs hcs => ⟨fun h => hfails (evaluate_unfit hcs h), fun d h ha hf => ?_⟩⟩
    exact ⟨_, hexec.trans (next (evaluate_fits hcs ha hf)), placeLoad_leaves u x cs d h⟩
  · intro s x k b still whole
    have hb : b = k.bank k.building := rfl
    refine ⟨fun h h1 h2 => next (bankVerified_idle h h1 h2), fun h hw => next (bankVerified_waits h hw), fun h hc hw => ?_, fun h hc hw ha => ?_,
      fun h hc hw ha => ?_, fun n i hbs hi ha => ⟨fun hh => next ((bankVerified_again hbs hi ha).trans (programAgain_waits hh)), fun hh => ?_⟩⟩
    · have hbank : b = k.bank0 := by rw [hb]; unfold Ctx.building; rw [if_pos hc]; rfl
      have hleaves := bankDone_load hc b
      refine ⟨_, next (bankVerified_done h (.inl hc) hw), ?_⟩
      rw [← hbank] at hleaves
      exact hleaves
    · have hbuild : k.building = 1 - k.imago := if_neg (by omega)
      obtain ⟨hx, hs, hother, hcores, hmem⟩ := installed_leaves s x b
      refine ⟨_, next ((bankVerified_done h (.inr hc) hw).trans ((bankDone_install hc b).trans (if_neg (by simp [show (s.ctx x).auto = false from ha])))), ?_⟩
      obtain ⟨hst, hecl, -⟩ := installed_fields k b
      obtain ⟨hnew, hold⟩ := installed_banks b hbuild
      have hbanks (i : Nat) := (congrArg (fun q : Ctx => q.bank i) hx :).trans (Ctx.bank_since ..)
      rw [Ctx.since_frame] at hx
      exact ⟨(congrArg Ctx.cmd hx :), (hbanks _).trans hnew, (hbanks _).trans hold, (congrArg Ctx.state hx :).trans hst, (congrArg Ctx.eclosion hx :).trans hecl,
        hs, hother, hcores, hmem⟩
    · have hbuild : k.building = 1 - k.imago := if_neg (by omega)
      obtain ⟨hx, -, hother, hcores, hmem⟩ := installed_leaves s x b
      refine ⟨_, next ((bankVerified_done h (.inr hc) hw).trans ((bankDone_install hc b).trans (if_pos ha))), ?_⟩
      obtain ⟨hnew, -⟩ := installed_banks b hbuild
      have hbanks (i : Nat) := (congrArg (fun q : Ctx => q.bank i) hx :).trans (Ctx.bank_since ..)
      generalize ((s.readyOwners x (s.ctx x).building).modCtx x (fun k => k.installed b)).setStatus resDone x 2 = v at *
      rw [askEclosion_commanded]
      have hv := setStatus_ctx (v.setCtx x { v.ctx x with cmd := 3, eclosion := some (v.asked k.building 0 none) }) resProgress x 3
      obtain ⟨hs, -, hc', -, hm'⟩ := setStatus_leaves (v.setCtx x { v.ctx x with cmd := 3, eclosion := some (v.asked k.building 0 none) }) resProgress x 3
      have hxx : (v.setCtx x { v.ctx x with cmd := 3, eclosion := some (v.asked k.building 0 none) }).ctx x =
          { v.ctx x with cmd := 3, eclosion := some (v.asked k.building 0 none) } := (State.ctx_setCtx_same ..).trans (if_pos (.inl rfl))
      have hvx := (hv x).trans hxx
      refine ⟨(congrArg Ctx.cmd hvx :), (congrArg (fun q : Ctx => q.bank (1 - k.imago)) hvx :).trans ((hbanks _).trans hnew), hs.trans (by simp [resProgress]),
        ⟨_, (congrArg Ctx.eclosion hvx :), hbuild, rfl, rfl, rfl⟩, fun y hy => ?_, hc'.trans hcores, hm'.trans hmem⟩
      rw [hv, State.ctx_setCtx_ne _ _ hy]
      exact hother y hy
    · obtain ⟨⟨j, h1, h2, h3, h4⟩, hmem, hcores⟩ := programAgain_begins (n := n) hh
      exact ⟨_, j, next (bankVerified_again hbs hi ha), h1, h2, h3, h4, hmem, hcores⟩

end Sys2Proof.Machine

end

section
/-! The staged image checked: header, records, plan section (R186, R189, R196, R198, R306). Settles O27. -/

namespace Sys2Proof.Machine

/-! ## Slots given back -/

/-- No plan section is done in slots that have been freed. -/
theorem freeStage_plansDone (s : State) : s.freeStage.stage.plansDone = false := by
  obtain ⟨x, h⟩ | ⟨x, b, h⟩ | h := freeStage_cases s
  · rw [h]
    unfold State.beginStage
    dsimp only
    generalize (if (s.emptySlots.ctx x).cmd = 2 then 1 - (s.emptySlots.ctx x).imago else 0) = b
    split <;> rfl
  · rw [h]
    unfold State.readPlans
    dsimp only
    split
    · rfl
    · split <;> rfl
  · rw [h]
    rfl

/-- With nothing waiting the freed slots are empty. -/
theorem freeStage_alone {s : State} (hw : s.stage.waiting = []) (hr : s.svc.rereads = []) : s.freeStage = s.emptySlots := by
  unfold State.freeStage
  dsimp only
  rw [hw, hr]
  show ({ s with stage := _, fetch := _ } : State) = s.emptySlots
  unfold State.emptySlots
  rw [hw]

/-! ## STAGED (R186, R189) -/

section
variable {s : State} {x : Nat} (hi : s.stage.install = some x) (hst : s.stage.staged = false) (hb : 128 ≤ s.stage.bytes)

/-- The logical cores and the blocks of the staged image. -/
def State.imgLcores (s : State) : List Lcore := (List.range s.imgHeader.lcores).map (s.imgLcore s.imgHeader)
def State.imgBlocks (s : State) : List Block := (List.range s.imgHeader.blocks).map (s.imgBlock s.imgHeader)

include hi hst hb

theorem staged_eq : s.staged =
    if s.headerCheck ≠ 0 then s.failInstall x s.headerCheck
    else if s.stage.bytes < s.imgHeader.metaEnd then s.fetchMore
    else if recordsOk s.imgHeader s.imgBlocks s.imgLcores 0 0 then s.stagedWith x s.imgHeader s.imgLcores s.imgBlocks else s.failInstall x resFormat := by
  unfold State.staged
  rw [hi]
  dsimp only
  rw [if_neg (by simp [hst]; omega)]
  rfl

theorem staged_failed (h : s.headerCheck ≠ 0) : s.staged = s.failInstall x s.headerCheck := by rw [staged_eq hi hst hb, if_pos h]

theorem staged_short (h : s.headerCheck = 0) (hn : s.stage.bytes < s.imgHeader.metaEnd) : s.staged = s.fetchMore := by
  rw [staged_eq hi hst hb, if_neg (not_not.mpr h), if_pos hn]

theorem staged_malformed (h : s.headerCheck = 0) (hn : s.imgHeader.metaEnd ≤ s.stage.bytes)
    (hr : recordsOk s.imgHeader s.imgBlocks s.imgLcores 0 0 = false) : s.staged = s.failInstall x resFormat := by
  rw [staged_eq hi hst hb, if_neg (not_not.mpr h), if_neg (not_lt.mpr hn), if_neg (by simp [hr])]

theorem staged_passes (h : s.headerCheck = 0) (hn : s.imgHeader.metaEnd ≤ s.stage.bytes)
    (hr : recordsOk s.imgHeader s.imgBlocks s.imgLcores 0 0 = true) : s.staged = s.stagedWith x s.imgHeader s.imgLcores s.imgBlocks := by
  rw [staged_eq hi hst hb, if_neg (not_not.mpr h), if_neg (not_lt.mpr hn), if_pos hr]

end

/-! ## What a staged image goes on to -/

/-- The slots with the places of a checked image. -/
def State.withImage (s : State) (h : ImgHeader) : State :=
  { s with stage := { s.stage with staged := true, planOff := h.planOff, coreOff := h.coreOff, dirOff := h.dirOff,
                                   payloadOff := h.payloadOff, totalLen := h.totalLen, metaCrc := h.metaCrc, crcAt := h.coreOff } }

section
variable {s : State} {x : Nat} {h : ImgHeader} {ks : List Lcore} {bs : List Block}

theorem stagedWith_replan (hr : s.stage.replan = true) : s.stagedWith x h ks bs =
    if h.id = ((s.ctx x).bank s.stage.bank).image then
      ({ s.withImage h with stage := { (s.withImage h).stage with evaluated := true } } : State).stageFlow
    else (s.withImage h).freeStage := if_pos hr

/-- The blocks that an INSTALL binds, and what binding them leaves. -/
def State.boundBlocks (s : State) (x : Nat) (bs : List Block) : List Block :=
  s.assign (s.ctx x).cores ((s.ctx x).bank (s.ctx x).imago).blocks bs

def State.bindAll (s : State) (x : Nat) (h : ImgHeader) (ks : List Lcore) (bound : List Block) : State :=
  bound.foldl (fun u n =>
      if n.keep then u.modCore n.core (fun q => q.setMap s.stage.bank (Tab.set (q.map s.stage.bank) n.leng n.eng)) else u.bindBlock x s.stage.bank n)
    ((s.withImage h).modCtx x (fun k => k.modBank s.stage.bank (fun b => { b with image := h.id, blocks := bound, lcores := ks, payloadOff := h.payloadOff })))

theorem stagedWith_install (hr : s.stage.replan = false) (hn : s.stage.isInstall = true) : s.stagedWith x h ks bs =
    if h.sentinel then (s.withImage h).failInstall x resFormat
    else if !samePlacement (s.ctx x).groups h ((s.ctx x).bank (s.ctx x).imago).lcores ks then (s.withImage h).failInstall x resPlacement
    else if bs.any (fun n => n.keep && !((s.ctx x).bank (s.ctx x).imago).blocks.any (fun m => m.lcore == n.lcore && m.leng == n.leng)) then
      (s.withImage h).failInstall x resFormat
    else if !s.installFits (s.ctx x).cores bs then (s.withImage h).failPlan x resCapacity
    else ({ s.bindAll x h ks (s.boundBlocks x bs) with stage := { (s.bindAll x h ks (s.boundBlocks x bs)).stage with evaluated := true } } : State).stageFlow :=
  (if_neg (by simp [hr])).trans (if_pos hn)

/-- A LOAD that waits for evaluation. -/
def State.awaitEvaluation (s : State) (x : Nat) (h : ImgHeader) (ks : List Lcore) (bs : List Block) : State :=
  let u := (s.withImage h).modCtx x (fun k => { (k.modBank 0 (fun b => { b with image := h.id, blocks := bs, lcores := ks, payloadOff := h.payloadOff })) with
    sentinel := h.sentinel, groups := h.groups })
  { u with stage := { u.stage with evaluate := u.stage.evaluate ++ [x] } }

theorem stagedWith_load (hr : s.stage.replan = false) (hn : s.stage.isInstall = false) : s.stagedWith x h ks bs =
    if bs.any (·.keep) then (s.withImage h).failInstall x resFormat else s.awaitEvaluation x h ks bs :=
  (if_neg (by simp [hr])).trans (if_neg (by simp [hn]))

theorem awaitEvaluation_ctx : let k := (s.awaitEvaluation x h ks bs).ctx x
    k.bank0.image = h.id ∧ k.bank0.blocks = bs ∧ k.bank0.payloadOff = h.payloadOff ∧ k.bank0.lcores = ks ∧ k.sentinel = h.sentinel := by
  have hk : (s.awaitEvaluation x h ks bs).ctx x = _ := State.ctx_setCtx_same (s.withImage h) x { ((s.ctx x).modBank 0 (fun b =>
    { b with image := h.id, blocks := bs, lcores := ks, payloadOff := h.payloadOff })) with sentinel := h.sentinel, groups := h.groups }
  rw [Ctx.since_frame] at hk
  dsimp only
  rw [hk]
  exact ⟨rfl, rfl, rfl, rfl, rfl⟩

end

/-! ## The end of the plan section (R189, R306) -/

/-- The slots with the plan section done. -/
def State.plansTaken (u : State) : State := { u with stage := { u.stage with plansDone := true } }

/-- A plan section that was read again is done: no plan is missing, and the slots are given back. -/
def State.replanned (u : State) (x : Nat) : State := (u.plansTaken.modCtx x (fun k => { k with planMissing := false })).freeStage

theorem replanned_leaves (u : State) (x : Nat) : let v := u.replanned x
    (v.ctx x).planMissing = false ∧ v.stage.plansDone = false ∧ (u.stage.waiting = [] → u.svc.rereads = [] → v.stage.install = none) ∧ v.cores = u.cores ∧
      v.mem = u.mem := by
  have hs := onlyStaging_freeStage (u.plansTaken.modCtx x (fun k => { k with planMissing := false }))
  refine ⟨?_, freeStage_plansDone _, fun hw hr => ?_, hs.cores, hs.mem⟩
  · refine (congrArg Ctx.planMissing (hs.ctx x)).trans ?_
    rw [State.ctx_modCtx_same, Ctx.since_frame]
  · exact congrArg (fun v : State => v.stage.install) (freeStage_alone (s := u.plansTaken.modCtx x (fun k => { k with planMissing := false })) hw hr)

section
variable {s : State} {x : Nat}

theorem planEnd_eq (hi : s.stage.install = some x) (hx : s.stageFlow.stage.install = some x) (hd : s.stageFlow.stage.plansDone = false)
    (he : s.stageFlow.stage.evaluated = true) (hc : s.stageFlow.stage.payloadOff ≤ s.stageFlow.stage.crcAt)
    (hp : (s.stageFlow.ctx x).cores.length ≤ s.stageFlow.stage.plansIn.length) : s.planEnd =
      if (BitVec.ofNat 32 s.stageFlow.stage.crc ^^^ 0xFFFFFFFF#32).toNat ≠ s.stageFlow.stage.metaCrc then s.stageFlow.failInstall x resChecksum
      else if s.stageFlow.stage.replan then s.stageFlow.replanned x
      else (if s.stageFlow.stage.isInstall then s.stageFlow.plansTaken else s.stageFlow.plansTaken.fillPeers x).stageFlow.finishStage := by
  unfold State.planEnd
  rw [hi]
  dsimp only
  generalize s.stageFlow = u at *
  rw [if_neg (by simp [hx, hd, he]; omega), if_neg (by omega)]
  rfl

end

/-- Settles O27: each check in its order, and what the image that passes them goes on to. -/
theorem stagedImagesAreChecked : Obligations.StagedImagesAreChecked := by
  unfold Obligations.StagedImagesAreChecked
  have next {t u : State} (h : t = u) : (.next t : Out) = .next u := congrArg Host.Outcome.next h
  constructor
  · intro s x hi hst hb h ks bs
    refine ⟨fun hc => next (staged_failed hi hst hb hc), fun hc hn => next (staged_short hi hst hb hc hn),
      fun hc hn hr => next (staged_malformed hi hst hb hc hn hr), ?_⟩
    intro passes z k imago kept bound w
    have hpass (hp : passes) : exec .staged s = .next (s.stagedWith x h ks bs) := next (staged_passes hi hst hb hp.1 hp.2.1 hp.2.2)
    refine ⟨fun hp hr hid => (hpass hp).trans (next ((stagedWith_replan hr).trans (if_pos hid))),
      fun hp hr hid => (hpass hp).trans (next ((stagedWith_replan hr).trans (if_neg hid))),
      fun hp hr hn hk => (hpass hp).trans (next ((stagedWith_load hr hn).trans (if_pos hk))), fun hp hr hn => ?_, fun hp hr hn hk => ?_⟩
    · have hin := (hpass hp).trans (next (stagedWith_install hr hn))
      refine ⟨fun h1 => hin.trans (next (if_pos h1)), fun h1 h2 => hin.trans (next ?_), fun h1 h2 h3 => hin.trans (next ?_),
        fun h1 h2 h3 h4 => hin.trans (next ?_), fun h1 h2 h3 h4 => hin.trans (next ?_)⟩
      · rw [if_neg (by simp [h1]), if_pos (by rw [Bool.not_eq_true']; exact h2)]
        rfl
      · rw [if_neg (by simp [h1]), if_neg (by rw [Bool.not_eq_true']; exact Bool.not_eq_false _ ▸ h2), if_pos (Bool.not_eq_false _ ▸ h3)]
        rfl
      · rw [if_neg (by simp [h1]), if_neg (by rw [Bool.not_eq_true']; exact Bool.not_eq_false _ ▸ h2), if_neg (Bool.not_eq_true _ ▸ h3),
          if_pos (by rw [Bool.not_eq_true']; exact h4)]
        rfl
      · rw [if_neg (by simp [h1]), if_neg (by rw [Bool.not_eq_true']; exact Bool.not_eq_false _ ▸ h2), if_neg (Bool.not_eq_true _ ▸ h3),
          if_neg (by rw [Bool.not_eq_true']; exact Bool.not_eq_false _ ▸ h4)]
        rfl
    · have hex := (hpass hp).trans (next ((stagedWith_load hr hn).trans (if_neg (Bool.not_eq_true _ ▸ hk))))
      obtain ⟨h1, h2, h3, h4, h5⟩ := awaitEvaluation_ctx (s := s) (x := x) (h := h) (ks := ks) (bs := bs)
      exact ⟨_, hex, rfl, rfl, rfl, rfl, h1, h2, h3, h4, h5, rfl, rfl⟩
  · intro s x hi u t hx hd he hc hp
    have hend := planEnd_eq hi hx hd he hc hp
    refine ⟨fun hcrc => next (hend.trans (if_pos hcrc)), fun hcrc hr => ?_, fun hcrc hr =>
      next (hend.trans ((if_neg (not_not.mpr hcrc)).trans (if_neg (by rw [show s.stageFlow.stage.replan = false from hr]; decide))))⟩
    exact ⟨_, next (hend.trans ((if_neg (not_not.mpr hcrc)).trans (if_pos hr))), replanned_leaves u x⟩

end Sys2Proof.Machine

end

section
/-! Engines, columns and cores that a session asks for, and the exchange of an engine that is due (R90-R96, R190, R199, R318). Settles O30. -/

namespace Sys2Proof.Machine

/-! ## Words that name an engine -/

/-- A core, an engine and a column in one word. -/
def engineWord (c e col : Nat) : Nat := c + e * 2 ^ 16 + col * 2 ^ 24

theorem engineWord_lt {c e col : Nat} (hc : c < 65536) (he : e < 256) (hcol : col < 256) : engineWord c e col < 2 ^ (8 * 4) := by
  unfold engineWord
  omega

theorem engineWord_core {c : Nat} (hc : c < 65536) (e col : Nat) : field (engineWord c e col) 0 16 = c := by
  unfold field engineWord
  omega

theorem engineWord_engine {c e : Nat} (hc : c < 65536) (he : e < 256) (col : Nat) : field (engineWord c e col) 16 8 = e := by
  unfold field engineWord
  omega

theorem engineWord_column {c e col : Nat} (hc : c < 65536) (he : e < 256) (hcol : col < 256) : field (engineWord c e col) 24 8 = col := by
  unfold field engineWord
  omega

theorem engineWord_names {c e : Nat} (hc : c < 65536) (he : e < 256) (col : Nat) (s : State) :
    s.namesEngine (engineWord c e col) = (s.present c && decide (e < 50)) := by
  unfold State.namesEngine
  rw [engineWord_core hc, engineWord_engine hc he]

/-! ## Commands of a session (R96, R318) -/

theorem retireWord_written {s : State} {ses : Ses} {c e col sub : Nat} (h : Served s ses 2) (hc : c < 65536) (he : e < 256) (hcol : col < 256)
    (hsub : sub = 1 ∨ sub = 2 ∨ sub = 3) (hrow : s.row 0x2802 sub = some (woObj 4 2)) :
    s.hostWrite ses 0x2802 sub (toLE 4 (engineWord c e col)) =
      if s.present c && decide (e < 50) && (sub != 2 || decide (col < 128)) then (s.writeStoke sub (engineWord c e col)).giveReply ses ⟨0, []⟩
      else s.refuse ses 0x2802 sub 0x06090030 := by
  have hv := engineWord_lt hc he hcol
  have hfields : s.fieldsOk 0x2802 sub (engineWord c e col) = (s.present c && decide (e < 50) && (sub != 2 || decide (col < 128))) := by
    have hw : s.fieldsOk 0x2802 sub (engineWord c e col) =
        (s.namesEngine (engineWord c e col) && (sub != 2 || decide (field (engineWord c e col) 24 8 < 128))) := by
      obtain rfl | rfl | rfl := hsub <;> rfl
    rw [hw, engineWord_names hc he col s, engineWord_column hc he hcol]
  rw [← hfields]
  have hrow' : s.row 0x2802 sub = some (commandRow 4 2 0 (2 ^ 32)) := hrow
  have hown : ownWrite 0x2802 sub = false := by
    obtain rfl | rfl | rfl := hsub <;> rfl
  cases hf : s.fieldsOk 0x2802 sub (engineWord c e col)
  · rw [if_neg Bool.false_ne_true]
    exact State.hostWrite_command_outOfRange hrow' (by decide) hv rfl hown h rfl (inRange_command_fields hv hf)
  · rw [if_pos rfl]
    refine State.hostWrite_command hrow' (by decide) hv rfl hown h rfl ?_ rfl
    rw [inRange_command hv hf rfl]
    simp only [Bool.and_eq_true, decide_eq_true_eq]
    exact ⟨show (0 : Int) ≤ engineWord c e col by omega, show (engineWord c e col : Int) ≤ 2 ^ 32 by omega⟩

section
variable {s : State} {c e col : Nat} (hc : c < 65536) (he : e < 256) (hp : s.present c = true) (h50 : e < 50)
include hc he hp h50

theorem engineWord_named : s.namesEngine (engineWord c e col) = true := by
  rw [engineWord_names hc he, hp]
  simp [h50]

theorem retireEngine_of (hs : (s.eng c e).state = .inService ∨ (s.eng c e).state = .renewSched) :
    s.retireEngine (engineWord c e col) = s.engState c e .retireSched := by
  unfold State.retireEngine
  rw [engineWord_named hc he hp h50, engineWord_core hc, engineWord_engine hc he]
  refine if_pos ?_
  obtain h | h := hs <;> rw [h] <;> rfl

theorem retireEngine_idle (h1 : (s.eng c e).state ≠ .inService) (h2 : (s.eng c e).state ≠ .renewSched) :
    s.retireEngine (engineWord c e col) = s := by
  unfold State.retireEngine
  rw [engineWord_named hc he hp h50, engineWord_core hc, engineWord_engine hc he]
  exact if_neg (by simp [h1, h2])

theorem retireColumn_of (hcol : col < 256) (h128 : col < 128) (hs : isSentinel c = false) : s.retireColumn (engineWord c e col) = s.modEng c e (fun g => { g with
    repairSched := if g.repairSched.contains col then g.repairSched else g.repairSched ++ [col] }) := by
  unfold State.retireColumn
  rw [engineWord_named hc he hp h50, engineWord_core hc, engineWord_engine hc he, engineWord_column hc he hcol]
  exact if_pos (by simp [hs, h128])

theorem surveyNow_of (hs : isSentinel c = false) : s.surveyNow (engineWord c e col) = s.modEng c e (fun g => { g with
    stoke := { g.stoke with urgent := List.range 16 } }) := by
  unfold State.surveyNow
  rw [engineWord_named hc he hp h50, engineWord_core hc, engineWord_engine hc he]
  exact if_pos (by simp [hs])

end

theorem retireColumn_sentinel {s : State} {c : Nat} (hc : c < 65536) (e col : Nat) (hs : isSentinel c = true) : s.retireColumn (engineWord c e col) = s := by
  unfold State.retireColumn
  rw [engineWord_core hc]
  exact if_neg (by simp [hs])

theorem surveyNow_sentinel {s : State} {c : Nat} (hc : c < 65536) (e col : Nat) (hs : isSentinel c = true) : s.surveyNow (engineWord c e col) = s := by
  unfold State.surveyNow
  rw [engineWord_core hc]
  exact if_neg (by simp [hs])

theorem writeStoke_column (s : State) (v : Nat) : s.writeStoke 2 v = s.retireColumn v := rfl

/-- A new ENG_STATE with the one before behind it. -/
theorem eng_engState_new {s : State} {c e : Nat} {st : EngState} (h : st ≠ (s.eng c e).state) : (s.engState c e st).eng c e =
    { s.eng c e with state := st, prevState := (s.eng c e).state, fallen := (s.eng c e).fallen.filter (· != 4) } := by
  rw [eng_engState]
  unfold Engine.since
  rw [if_neg (fun hno => h hno.1)]
  dsimp only
  rw [if_neg h, if_pos rfl]
  have hfilter : (fun n : Nat => if n = 4 then st == (s.eng c e).state else (s.eng c e).refMask == (s.eng c e).refMask) = (· != 4) := by
    funext n
    by_cases hn : n = 4
    · rw [if_pos hn, hn]
      simpa using h
    · rw [if_neg hn]
      simp [hn]
  rw [hfilter]

theorem coreReplace_written {s : State} {ses : Ses} {c : Nat} (h : Served s ses 2) (hc : c < 65536) :
    s.hostWrite ses 0x2C10 1 (toLE 2 c) = if s.present c then (s.scheduleReplace c 3).giveReply ses ⟨0, []⟩ else s.refuse ses 0x2C10 1 0x06090030 := by
  have hv : c < 2 ^ (8 * 2) := by omega
  have hrow : s.row 0x2C10 1 = some (commandRow 2 2 0 (2 ^ 16)) := s.row_coreReplace
  have hfields : s.fieldsOk 0x2C10 1 c = s.present c := rfl
  have hfield : field c 0 16 = c := by unfold field; omega
  rw [← hfields]
  cases hf : s.fieldsOk 0x2C10 1 c
  · rw [if_neg Bool.false_ne_true]
    exact State.hostWrite_command_outOfRange hrow (by decide) hv rfl rfl h rfl (inRange_command_fields hv hf)
  · rw [if_pos rfl]
    refine (State.hostWrite_command hrow (by decide) hv rfl rfl h rfl ?_ rfl).trans ?_
    · rw [inRange_command hv hf rfl]
      simp only [Bool.and_eq_true, decide_eq_true_eq]
      exact ⟨show (0 : Int) ≤ c by omega, show (c : Int) ≤ 2 ^ 16 by omega⟩
    · show (s.scheduleReplace (field c 0 16) 3).giveReply ses ⟨0, []⟩ = _
      rw [hfield]

theorem defEntry_read {s : State} {ses : Ses} (hr : s.reachable ses = true) (hs : s.serves = true) : s.hostRead ses 0x2810 4 =
    (s.modSession ses (fun k => { k with cursor := (k.cursor + 1) % 2 ^ 32 })).giveReply ses
      ⟨0, toLE 8 (match s.defects[(s.session ses).cursor]? with | some d => d.word | none => 0)⟩ := by
  have hread : s.odRead ses 0x2810 4 = (⟨0, toLE 8 (match s.defects[(s.session ses).cursor]? with | some d => d.word | none => 0)⟩,
      s.modSession ses (fun k => { k with cursor := (k.cursor + 1) % 2 ^ 32 })) := by
    unfold State.odRead
    rw [State.row_defEntry]
    rfl
  simp [State.hostRead, State.readObject, hr, hs, hread]

/-! ## Replacement asked for (R318) -/

section
variable {s : State} {c cause : Nat}

theorem scheduleReplace_sentinel (h : isSentinel c = true) : s.scheduleReplace c cause =
    (s.modReplace 4 (fun r => { r with state := 3, old := c })).record (coreSource c) 0x001A [c + 0xFFFF * 65536, 4] := if_pos h

theorem scheduleReplace_queues (h : isSentinel c = false) (hx : (s.core c).ctx ≠ none) (hp : s.present c = true) (hr : s.replacing c = false) :
    s.scheduleReplace c cause = s.modReplace (dieOf c) (fun r => { r with queue := queueCore c cause r.queue }) := by
  unfold State.scheduleReplace
  rw [if_neg (by simp [h]), if_pos]
  rw [hp, hr, Option.isSome_iff_ne_none.mpr hx]
  rfl

theorem scheduleReplace_idle (h : isSentinel c = false) (hno : (s.core c).ctx = none ∨ s.replacing c = true) : s.scheduleReplace c cause = s := by
  unfold State.scheduleReplace
  rw [if_neg (by simp [h]), if_neg]
  obtain h | h := hno <;> simp [h]

end

/-! ## An engine that is due (R91, R93-R95, R190, R199) -/

section
variable {s : State} {c e x bank leng idx : Nat} (ho : (s.eng c e).owner = some (x, bank, leng)) (hi : ((s.ctx x).bank (s.ctx x).imago).indexOf c e = some idx)

/-- An engine that may leave its logical engine, as far as it and its bank go. -/
def State.leaving (s : State) (x bank c e : Nat) : Prop :=
  isSentinel c = false ∧ (s.eng c e).chrysalis = false ∧ (s.eng c e).state.due = true ∧ bank = (s.ctx x).imago ∧ ((s.ctx x).bank bank).state = .imago

include ho hi

theorem engineExchange_stays (h : (s.eng c e).state.due = false ∨ isSentinel c = true ∨ (s.eng c e).chrysalis = true) : s.engineExchange c e = s := by
  unfold State.engineExchange
  dsimp only
  rw [ho]
  dsimp only
  rw [hi]
  dsimp only
  refine if_pos ?_
  obtain h | h | h := h <;> simp [h]

variable (hl : s.leaving x bank c e)
include hl

/-- What is left once the engine is one that may leave. -/
theorem engineExchange_urgent (hu : s.urgentFirst c e = true) : s.engineExchange c e = s.endRequest x bank idx := by
  obtain ⟨h1, h2, h3, h4, h5⟩ := hl
  unfold State.engineExchange
  dsimp only
  rw [ho]
  dsimp only
  rw [hi]
  dsimp only
  rw [if_neg (by simp [h1, h2, h3, h4, h4 ▸ h5]), if_pos hu]

theorem engineExchange_draining (hu : s.urgentFirst c e = false) (hd : ((s.ctx x).bank (1 - bank)).state = .draining) :
    s.engineExchange c e = s.endRequest x bank idx := by
  obtain ⟨h1, h2, h3, h4, h5⟩ := hl
  unfold State.engineExchange
  dsimp only
  rw [ho]
  dsimp only
  rw [hi]
  dsimp only
  rw [if_neg (by simp [h1, h2, h3, h4, h4 ▸ h5]), if_neg (by simp [hu]), hd]

variable (hd : ((s.ctx x).bank (1 - bank)).state = .empty)

/-- Retirement or renewal. -/
def Engine.leavesBy (g : Engine) : Nat := if g.state = .renewSched then 2 else 1

include hd

theorem engineExchange_empty (hu : s.urgentFirst c e = false) : s.engineExchange c e =
    if s.exchanging x then s.endRequest x bank idx
    else
      match s.freeEngines c with
      | [] => ((s.endRequest x bank idx).waitExchange c e (s.eng c e).leavesBy 1).scheduleReplace c 2
      | sp :: _ =>
        if s.blockHere x bank idx then
          (s.programSpare c sp (s.eng c e).wfmt x (1 - bank) leng (.exchange x leng e ((s.eng c e).leavesBy == 2))).endExchange c e
        else (s.wantBlock x bank idx).waitExchange c e (s.eng c e).leavesBy 0 := by
  obtain ⟨h1, h2, h3, h4, h5⟩ := hl
  unfold State.engineExchange
  dsimp only
  rw [ho]
  dsimp only
  rw [hi]
  dsimp only
  rw [if_neg (by simp [h1, h2, h3, h4, h4 ▸ h5]), if_neg (by simp [hu]), hd]
  rfl

end

/-- A spare that is being programmed in the place of another engine. -/
theorem programSpare_leaves (s : State) (c sp w x bank leng : Nat) (use : JobUse) : let t := s.programSpare c sp w x bank leng use
    (∃ j, (t.eng c sp).job = some j ∧ j.step = 1 ∧ j.wfmt = w ∧ j.use = use) ∧ (t.eng c sp).owner = some (x, bank, leng) ∧ (t.eng c sp).chrysalis = true ∧
    t.stage.block = s.stage.block.map (fun b => { b with user := some (engKey c sp) }) ∧ t.cores = s.cores ∧ t.ctxs = s.ctxs ∧ t.mem = s.mem := by
  have hk := keepsPlaces_takeUp s c sp
  have hcores : (s.takeUp c sp).cores = s.cores := by
    unfold State.takeUp
    split
    · rw [engState_frame]
    · rfl
  unfold State.programSpare
  generalize s.takeUp c sp = u at *
  have hj := startJob_eng u c sp w (fun r col => s.payloadCode 0 w r col) use
  have he := State.eng_modEng_same (u.startJob c sp w (fun r col => s.payloadCode 0 w r col) use) c sp
    (fun g => { g with owner := some (x, bank, leng), chrysalis := true })
  rw [hj, Engine.since_frame] at he
  exact ⟨⟨_, (congrArg Engine.job he :), rfl, rfl, rfl⟩, (congrArg Engine.owner he :), (congrArg Engine.chrysalis he :),
    (congrArg (fun t : Stage => t.block.map (fun b => { b with user := some (engKey c sp) })) hk.stage :), hcores, hk.ctxs, hk.mem⟩

theorem endRequest_none {s : State} (h : s.stage.block = none) (x bank idx : Nat) : s.endRequest x bank idx = s := by
  unfold State.endRequest
  rw [h]

theorem endRequest_some {s : State} {b : BlockReq} (h : s.stage.block = some b) (x bank idx : Nat) : s.endRequest x bank idx =
    if b.ctx = x ∧ b.bank = bank ∧ b.idx = idx ∧ b.user.isNone = true then
      ({ s with stage := { s.stage with block := none, want := 0 } } : State).freeStage else s := by
  have hdrop : s.dropBlock = ({ s with stage := { s.stage with block := none, want := 0 } } : State).freeStage := if_pos (by rw [h]; rfl)
  unfold State.endRequest
  rw [h, ← hdrop]

/-- Settles O30: the commands of a session, then the engine that is due. -/
theorem engineExchanges : Obligations.EngineExchanges := by
  unfold Obligations.EngineExchanges
  have next {t u : State} (h : t = u) : (.next t : Out) = .next u := congrArg Host.Outcome.next h
  constructor
  · intro s ses c e col h hc he hcol
    have hplain : c + e * 2 ^ 16 = engineWord c e 0 := by unfold engineWord; omega
    have hretire := retireWord_written (sub := 1) h hc he (show 0 < 256 by decide) (.inl rfl) s.row_retireEngine
    have hcolumn := retireWord_written (sub := 2) h hc he hcol (.inr (.inl rfl)) s.row_retireColumn
    have hsurvey := retireWord_written (sub := 3) h hc he (show 0 < 256 by decide) (.inr (.inr rfl)) s.row_surveyNow
    have hword : c + e * 2 ^ 16 + col * 2 ^ 24 = engineWord c e col := rfl
    rw [← hplain] at hretire hsurvey
    rw [← hword] at hcolumn
    have hno (hn : s.present c = false ∨ 50 ≤ e) (b : Bool) {t u : State} :
        (if s.present c && decide (e < 50) && b then t else u) = u := if_neg (by
      obtain h | h := hn
      · simp [h]
      · simp [show ¬ e < 50 by omega])
    have hyes (hp : s.present c = true) (h50 : e < 50) {t u : State} (b : Bool) (hb : b = true) : (if s.present c && decide (e < 50) && b then t else u) = t :=
      if_pos (by simp [hp, h50, hb])
    refine ⟨fun hp h50 hs => ?_, fun hp h50 h1 h2 => next ?_, fun hp h50 h128 hs => next ?_, fun hp h50 hs => next ?_, fun hn => ⟨next ?_, next ?_, next ?_⟩,
      fun hp h50 h128 => next ?_, fun hp h50 hs => ⟨next ?_, fun h128 => next ?_, next ?_⟩, next (defEntry_read h.1 h.2.1), fun hp hs hx hr => next ?_,
      fun hp hs hno => next ?_, fun hp => next ?_⟩
    · have hst : EngState.retireSched ≠ (s.eng c e).state := by obtain h | h := hs <;> rw [h] <;> decide
      have hw : s.writeStoke 1 (engineWord c e 0) = s.engState c e .retireSched := retireEngine_of hc he hp h50 hs
      have hleft := hretire.trans (hyes hp h50 true rfl)
      rw [hplain, hw] at hleft
      rw [← hplain] at hleft
      refine ⟨_, next hleft, eng_engState_new hst, (congrArg State.cores (engState_frame s c e .retireSched) :),
        (congrArg State.mem (engState_frame s c e .retireSched) :)⟩
    · refine hretire.trans ((hyes hp h50 true rfl).trans ?_)
      rw [hplain]
      exact congrArg (fun t : State => t.giveReply ses ⟨0, []⟩) (retireEngine_idle hc he hp h50 h1 h2)
    · refine hcolumn.trans ((hyes hp h50 _ (by simp [h128])).trans ?_)
      have hw := (writeStoke_column s (engineWord c e col)).trans (retireColumn_of hc he hp h50 hcol h128 hs)
      rw [hword, hw]
      rfl
    · refine hsurvey.trans ((hyes hp h50 true rfl).trans ?_)
      rw [hplain]
      exact congrArg (fun t : State => t.giveReply ses ⟨0, []⟩) (surveyNow_of hc he hp h50 hs)
    · exact hretire.trans (hno hn _)
    · exact hcolumn.trans (hno hn _)
    · exact hsurvey.trans (hno hn _)
    · refine hcolumn.trans (if_neg ?_)
      rw [show decide (col < 128) = false by simpa using h128]
      simp
    · refine hsurvey.trans ((hyes hp h50 true rfl).trans ?_)
      rw [hplain]
      exact congrArg (fun t : State => t.giveReply ses ⟨0, []⟩) (surveyNow_sentinel hc e 0 hs)
    · refine hcolumn.trans ((hyes hp h50 _ (by simp [h128])).trans ?_)
      have hw := (writeStoke_column s (engineWord c e col)).trans (retireColumn_sentinel hc e col hs)
      rw [hword, hw]
    · refine (coreReplace_written h hc).trans ((if_pos hp).trans ?_)
      rw [scheduleReplace_sentinel hs]
    · refine (coreReplace_written h hc).trans ((if_pos hp).trans ?_)
      rw [scheduleReplace_queues hs hx hp hr]
    · refine (coreReplace_written h hc).trans ((if_pos hp).trans ?_)
      rw [scheduleReplace_idle hs hno]
    · exact (coreReplace_written h hc).trans (if_neg (by simp [hp]))
  · intro s c e x bank leng idx g k kind ho hi
    refine ⟨fun h => next (engineExchange_stays ho hi h), fun b hb => endRequest_some hb x bank idx, fun hb => endRequest_none hb x bank idx,
      fun h1 h2 h3 h4 h5 hw => ?_, fun hu h1 h2 h3 h4 h5 hd hex => ⟨fun hf => next ?_, fun sp l hf hh => next ?_, fun sp l hf hh => ?_⟩⟩
    · have hl : s.leaving x bank c e := ⟨h1, h2, h3, h4, h5⟩
      cases hu : s.urgentFirst c e
      · obtain hw | hw | ⟨hw, hex⟩ := hw
        · exact absurd (hu ▸ hw) Bool.false_ne_true
        · exact next (engineExchange_draining ho hi hl hu hw)
        · exact next ((engineExchange_empty ho hi hl hw hu).trans (if_pos hex))
      · exact next (engineExchange_urgent ho hi hl hu)
    · rw [engineExchange_empty ho hi ⟨h1, h2, h3, h4, h5⟩ hd hu, if_neg (by simp [hex]), hf]
      rfl
    · rw [engineExchange_empty ho hi ⟨h1, h2, h3, h4, h5⟩ hd hu, if_neg (by simp [hex]), hf]
      exact if_neg (by simp [hh])
    · have ht := engineExchange_empty ho hi ⟨h1, h2, h3, h4, h5⟩ hd hu
      rw [if_neg (by simp [hex]), hf] at ht
      obtain ⟨⟨j, hj, h1, h2, h3⟩, hown, hchr, hstage, hcores, hctxs, hmem⟩ := programSpare_leaves s c sp (s.eng c e).wfmt x (1 - bank) leng
        (.exchange x leng e ((s.eng c e).leavesBy == 2))
      exact ⟨_, next (ht.trans (if_pos hh)), ⟨j, hj, h1, h2, h3⟩, hown, hchr, hstage, hcores,
        fun y => (congrArg (fun t : Tab Ctx => Tab.get Ctx.reset t y) hctxs :), hmem⟩

end Sys2Proof.Machine

end

section
/-! The end of an engine's programming, and its verification at power-up (R24, R89-R93, R204, R208, R209). Settles O31. -/

namespace Sys2Proof.Machine

/-! ## What engine work leaves -/

/-- Only engines, what is noted and recorded of them, and the staging slots differ. -/
def OnlyEngines (s t : State) : Prop := t = { s with
  engines := t.engines, defects := t.defects, counters := t.counters, draws := t.draws, ash := t.ash, stage := t.stage, fetch := t.fetch, svc := t.svc,
  keep := t.keep }

theorem OnlyEngines.eq {s t : State} (h : OnlyEngines s t) : t = { s with
    engines := t.engines, defects := t.defects, counters := t.counters, draws := t.draws, ash := t.ash, stage := t.stage, fetch := t.fetch, svc := t.svc,
    keep := t.keep } := h

theorem OnlyEngines.trans {s t u : State} (h : OnlyEngines s t) (k : OnlyEngines t u) : OnlyEngines s u :=
  k.eq.trans (congrArg (fun x : State => { x with
    engines := u.engines, defects := u.defects, counters := u.counters, draws := u.draws, ash := u.ash, stage := u.stage, fetch := u.fetch, svc := u.svc,
    keep := u.keep }) h.eq :)

section
variable {s t : State} (h : OnlyEngines s t)
include h

theorem OnlyEngines.cores : t.cores = s.cores := (congrArg State.cores h.eq :)
theorem OnlyEngines.mem : t.mem = s.mem := (congrArg State.mem h.eq :)
theorem OnlyEngines.ctxs : t.ctxs = s.ctxs := (congrArg State.ctxs h.eq :)
theorem OnlyEngines.ctx (x : Nat) : t.ctx x = s.ctx x := (congrArg (fun u : State => u.ctx x) h.eq :)
theorem OnlyEngines.cfg (i n : Nat) : t.cfg i n = s.cfg i n := (congrArg (fun u : State => u.cfg i n) h.eq :)

end

theorem OnlyStaging.onlyEngines {s t : State} (h : OnlyStaging s t) : OnlyEngines s t :=
  (congrArg (OnlyEngines s) h.eq).mpr rfl

theorem onlyEngines_setEng (s : State) (c e : Nat) (g : Engine) : OnlyEngines s (s.setEng c e g) := rfl

theorem onlyEngines_engState (s : State) (c e : Nat) (st : EngState) : OnlyEngines s (s.engState c e st) := by
  rw [engState_frame]
  exact rfl

theorem onlyEngines_noteDefect (s : State) (d : Defect) : OnlyEngines s (s.noteDefect d) := by
  unfold State.noteDefect
  split_ifs <;> exact rfl

theorem onlyEngines_noteProgrammed (s : State) (c e : Nat) (ds : List (Nat × Nat × Int)) : OnlyEngines s (s.noteProgrammed c e ds) :=
  foldl_rel (R := OnlyEngines) (fun _ => rfl) OnlyEngines.trans (fun s _ => onlyEngines_noteDefect s _) ds s

theorem onlyEngines_maskRetire (s : State) (c e : Nat) : OnlyEngines s (s.maskRetire c e) := by
  unfold State.maskRetire
  dsimp only
  split
  · exact onlyEngines_engState ..
  · exact rfl

theorem onlyEngines_doneBlock (s : State) (c e : Nat) : OnlyEngines s (s.doneBlock c e) := by
  unfold State.doneBlock State.dropBlock
  split
  · split_ifs
    · exact OnlyEngines.trans (t := { s with stage := { s.stage with block := none, want := 0 } }) rfl (onlyStaging_freeStage _).onlyEngines
    · exact rfl
    · exact rfl
  · exact rfl

/-- Slots given back are no change of any engine. -/
theorem engines_doneBlock (s : State) (c e : Nat) : (s.doneBlock c e).engines = s.engines := by
  unfold State.doneBlock State.dropBlock
  split
  · split_ifs
    · exact (onlyStaging_freeStage _).engines
    · rfl
    · rfl
  · rfl

/-! ## What lasts of an engine through notes and records -/

/-- What an engine holds of its weights, and is at work on. -/
structure Weights where
  job : Option ProgJob
  te : Nat
  wfmt : Nat
  unverified : Bool
  pairs : Mem
  stuck : Tab (Nat × Int)
  repairStaged : List Nat

def Engine.weights (g : Engine) : Weights := ⟨g.job, g.te, g.wfmt, g.unverified, g.pairs, g.stuck, g.regs.repairStaged⟩

theorem weights_setEng (s : State) (c e : Nat) (g : Engine) : ((s.setEng c e g).eng c e).weights = g.weights := by
  rw [State.eng_setEng_same, Engine.since_frame]
  rfl

theorem weights_engState (s : State) (c e : Nat) (st : EngState) : ((s.engState c e st).eng c e).weights = (s.eng c e).weights := by
  rw [eng_engState, Engine.since_frame]
  rfl

theorem weights_noteDefect (s : State) (d : Defect) : ((s.noteDefect d).eng d.core d.eng).weights = (s.eng d.core d.eng).weights := by
  unfold State.noteDefect
  split_ifs
  · rfl
  · rfl
  · rfl
  · rfl
  · exact weights_setEng ..

theorem weights_noteDefect_of {s : State} {d : Defect} {c e : Nat} (hc : d.core = c) (he : d.eng = e) :
    ((s.noteDefect d).eng c e).weights = (s.eng c e).weights := by
  subst hc
  subst he
  exact weights_noteDefect s d

/-- Notes of devices of one engine. -/
theorem weights_notes {A : Type} (c e : Nat) (d : State → A → Defect) (hc : ∀ s a, (d s a).core = c) (he : ∀ s a, (d s a).eng = e) (l : List A) (s : State) :
    ((l.foldl (fun s a => s.noteDefect (d s a)) s).eng c e).weights = (s.eng c e).weights := by
  induction l generalizing s with
  | nil => rfl
  | cons a l ih => exact (ih _).trans (weights_noteDefect_of (hc s a) (he s a))

theorem weights_noteProgrammed (s : State) (c e : Nat) (ds : List (Nat × Nat × Int)) : ((s.noteProgrammed c e ds).eng c e).weights = (s.eng c e).weights := by
  unfold State.noteProgrammed
  exact weights_notes c e _ (fun _ _ => rfl) (fun _ _ => rfl) ds s

theorem weights_noteDevices (s : State) (c e : Nat) (ds : List (Nat × Nat × Int)) : ((s.noteDevices c e ds).eng c e).weights = (s.eng c e).weights := by
  unfold State.noteDevices
  exact weights_notes c e _ (fun _ _ => rfl) (fun _ _ => rfl) ds s

/-- Defects of one engine noted as repaired. -/
theorem weights_noted (c e : Nat) {l : List Defect} (hl : ∀ d ∈ l, d.core = c ∧ d.eng = e) (s : State) :
    ((l.foldl (fun s d => s.noteDefect { d with repaired := true }) s).eng c e).weights = (s.eng c e).weights := by
  induction l generalizing s with
  | nil => rfl
  | cons d l ih =>
    obtain ⟨h1, h2⟩ := hl d (List.mem_cons_self ..)
    exact (ih (fun d hd => hl d (List.mem_cons_of_mem _ hd)) _).trans (weights_noteDefect_of (d := { d with repaired := true }) h1 h2)

theorem weights_maskRetire (s : State) (c e : Nat) : ((s.maskRetire c e).eng c e).weights = (s.eng c e).weights := by
  unfold State.maskRetire
  dsimp only
  split
  · exact weights_engState ..
  · rfl

/-- An engine after a test round made at once (R204, R208). -/
def State.tested (s : State) (c e : Nat) : Engine :=
  let h := (s.eng c e).judge ((List.range 4).map (fun v => testValues (s.eng c e) (s.cond c e) (s.core c).ana.scale v (s.draws + 136 * v)))
    (s.cfg 0x2800 0x0C)
  { h with test := { h.test with began := some s.time.up } }

theorem testNow_eq (s : State) (c e : Nat) : s.testNow c e = ((s.setEng c e (s.tested c e)).drawN 544).maskRetire c e := rfl

theorem weights_tested (s : State) (c e : Nat) : (s.tested c e).weights = (s.eng c e).weights := rfl

theorem testNow_leaves (s : State) (c e : Nat) : OnlyEngines s (s.testNow c e) ∧ ((s.testNow c e).eng c e).weights = (s.eng c e).weights ∧
    (s.testNow c e).draws = s.draws + 544 := by
  rw [testNow_eq]
  refine ⟨OnlyEngines.trans (t := (s.setEng c e (s.tested c e)).drawN 544) rfl (onlyEngines_maskRetire ..), ?_, ?_⟩
  · exact (weights_maskRetire ..).trans ((weights_setEng s c e _).trans (weights_tested s c e))
  · unfold State.maskRetire
    dsimp only
    split
    · rw [engState_frame]
      rfl
    · rfl

theorem weights_commitIdle (s : State) (c e : Nat) : ((s.commitIdle c e).eng c e).weights = (s.eng c e).weights := by
  unfold State.commitIdle
  dsimp only
  split
  · unfold State.commitEng
    dsimp only
    rw [weights_setEng]
    rfl
  · rfl

/-! ## Programming closes (R204) -/

/-- The engine that holds what its job has programmed. -/
def Engine.closed (g : Engine) (j : ProgJob) (now : Nat) : Engine :=
  ({ g with
    wfmt := j.wfmt, pairs := j.goal, stuck := j.goalStuck, misses := j.missed, prog := (j.key, now), progs := [], te := 0x8000,
    sumsBad := [], unverified := false, job := none, test := TestState.reset, stoke := Stoke.reset, repairSched := [], noRepair := [] } : Engine).retrack.resum

theorem closeJob_eq (s : State) (c e : Nat) (j : ProgJob) : s.closeJob c e j =
    (((s.setEng c e ((s.eng c e).closed j s.time.up)).endRepairs c e).noteProgrammed c e j.goalStuck).testNow c e := rfl

/-- A closed job: its codes are the engine's, which is verified and at T_e 1.0. -/
theorem closeJob_weights (s : State) (c e : Nat) (j : ProgJob) : ((s.closeJob c e j).eng c e).weights =
    ⟨none, 0x8000, j.wfmt, false, j.goal, j.goalStuck, (s.eng c e).regs.repairStaged⟩ := by
  rw [closeJob_eq, (testNow_leaves _ c e).2.1, weights_noteProgrammed]
  exact weights_setEng ..

theorem onlyEngines_closeJob (s : State) (c e : Nat) (j : ProgJob) : OnlyEngines s (s.closeJob c e j) := by
  rw [closeJob_eq]
  exact OnlyEngines.trans (t := (s.setEng c e ((s.eng c e).closed j s.time.up)).endRepairs c e) rfl
    ((onlyEngines_noteProgrammed ..).trans (testNow_leaves _ c e).1)

theorem eng_doneBlock (s : State) (c e x y : Nat) : (s.doneBlock c e).eng x y = s.eng x y := by
  unfold State.eng
  rw [engines_doneBlock]

/-! ## A column taken over (R92) -/

theorem regs_takePairs (g : Engine) (j : ProgJob) : (g.takePairs j).regs = g.regs := by
  unfold Engine.takePairs
  dsimp only
  generalize (j.pulses.map (fun d => (devRow d.1, devCol d.1))).eraseDups = l
  generalize ({ g with pairs := j.goal } : Engine) = h
  induction l generalizing g with
  | nil => rfl
  | cons a l ih => exact ih (g.setPair a.1 a.2 (h.pair a.1 a.2))

theorem regs_pulsed (g : Engine) (key now : Nat) (got : Tab Nat) (ks : List Nat) : (g.pulsed key now got ks).regs = g.regs := by
  unfold Engine.pulsed
  induction ks generalizing g with
  | nil => rfl
  | cons a l ih => exact ih _

/-- The engine whose repair column takes a column over. -/
def Engine.columned (g : Engine) (j : ProgJob) (now k col : Nat) : Engine :=
  let g := (g.takePairs j).pulsed j.key now j.missed (j.pulses.map (·.1))
  { g with
    job := none
    stuck := j.goalStuck.foldl (fun t d => Tab.set t d.1 d.2) g.stuck
    regs := { g.regs with repairStaged := g.regs.repairStaged.set k col, corrCommit := true }
    repairSched := g.repairSched.erase col
    noRepair := g.noRepair.erase col
    test := { g.test with colFails := Tab.erase g.test.colFails col } }

/-- The new map committed where the engine is idle, and the defect list marked. -/
def State.columnCommitted (s : State) (c e k col : Nat) (j : ProgJob) : State :=
  (s.defects.filter (fun d => d.core == c && d.eng == e && d.col == col)).foldl (fun s d => s.noteDefect { d with repaired := true })
    ((s.setEng c e ((s.eng c e).columned j s.time.up k col)).commitIdle c e)

/-- Sums and digest behind a column taken over, and the stuck devices of the repair column noted. -/
def State.columnTaken (s : State) (c e k col : Nat) : State :=
  let h := { (s.eng c e) with regs := { (s.eng c e).regs with repair := (s.eng c e).regs.repairStaged } }
  let s := s.modEng c e (fun g => { g with sums := h.sumStore, sumsBad := g.sumsBad.erase col, digest := h.achievedDigest })
  s.noteDevices c e (h.stuck.filter (fun d => devCol d.1 == 132 + k))

theorem defects_commitIdle (s : State) (c e : Nat) (g : Engine) : ((s.setEng c e g).commitIdle c e).defects = s.defects :=
  (congrArg State.defects (State.commitIdle_leaves (s.setEng c e g) c e).2.2 :)

theorem closeColumn_eq (s : State) (c e k col : Nat) (j : ProgJob) : s.closeColumn c e k col j =
    ((s.columnCommitted c e k col j).columnTaken c e k col).record (coreSource c) 0x0018 [c + e * 65536 + col * 2 ^ 22 + k * 2 ^ 29] := by
  unfold State.closeColumn
  dsimp only
  rw [show ((s.setEng c e _).commitIdle c e).defects = s.defects from defects_commitIdle s c e _]
  rfl

theorem weights_columnTaken (s : State) (c e k col : Nat) : ((s.columnTaken c e k col).eng c e).weights = (s.eng c e).weights := by
  unfold State.columnTaken
  dsimp only
  refine (weights_noteDevices ..).trans ((weights_setEng ..).trans ?_)
  unfold Engine.weights
  rfl

theorem closeColumn_leaves (s : State) (c e k col : Nat) (j : ProgJob) : ((s.closeColumn c e k col j).eng c e).job = none ∧
    ((s.closeColumn c e k col j).eng c e).regs.repairStaged = (s.eng c e).regs.repairStaged.set k col := by
  suffices h : ((s.closeColumn c e k col j).eng c e).weights = ((s.eng c e).columned j s.time.up k col).weights by
    have hr : (((s.eng c e).takePairs j).pulsed j.key s.time.up j.missed (j.pulses.map (·.1))).regs = (s.eng c e).regs :=
      (regs_pulsed ..).trans (regs_takePairs ..)
    refine ⟨(congrArg Weights.job h :), (congrArg Weights.repairStaged h :).trans ?_⟩
    exact (congrArg (fun r : EngRegs => r.repairStaged.set k col) hr :)
  rw [closeColumn_eq]
  refine (weights_columnTaken _ c e k col).trans ?_
  unfold State.columnCommitted
  refine (weights_noted c e (fun d hd => ?_) _).trans ((weights_commitIdle ..).trans (weights_setEng ..))
  have hk := (List.mem_filter.mp hd).2
  rw [Bool.and_eq_true, Bool.and_eq_true] at hk
  obtain ⟨⟨hcore, heng⟩, -⟩ := hk
  exact ⟨eq_of_beq hcore, eq_of_beq heng⟩

/-! ## What the programming was for -/

section
variable {s : State} {c e : Nat} {j : ProgJob} (hj : (s.eng c e).job = some j)
include hj

theorem engineProgrammed_waits (h : j.step ≠ 4 ∨ j.granted = true ∨ s.engBusy c e = true) : s.engineProgrammed c e = s := by
  unfold State.engineProgrammed
  dsimp only
  rw [hj]
  exact if_pos h

theorem engineProgrammed_compensates (hs : j.step = 4) (hg : j.granted = false) (hb : s.engBusy c e = false) (hk : j.stuck ≠ []) :
    s.engineProgrammed c e = s.setEng c e { s.eng c e with job := some (j.compensate (s.eng c e)).1, refMask := (j.compensate (s.eng c e)).2 } := by
  unfold State.engineProgrammed
  dsimp only
  rw [hj]
  exact (if_neg (by simp [hs, hg, hb])).trans (if_pos (by simpa using hk))

variable (he : j.step = 4 ∧ j.granted = false ∧ j.stuck = [] ∧ s.engBusy c e = false)
include he

theorem engineProgrammed_column {k col : Nat} (hu : j.use = .column k col) : s.engineProgrammed c e = (s.closeColumn c e k col j).doneBlock c e := by
  obtain ⟨hs, hg, hk, hb⟩ := he
  unfold State.engineProgrammed
  dsimp only
  rw [hj]
  dsimp only
  rw [if_neg (by simp [hs, hg, hb]), if_neg (by simp [hk]), hu]

theorem engineProgrammed_whole (hu : ∀ k col, j.use ≠ .column k col) :
    s.engineProgrammed c e = if s.onPilot c then s else ((s.closeJob c e j).doneBlock c e).jobUsed c e j.use := by
  obtain ⟨hs, hg, hk, hb⟩ := he
  unfold State.engineProgrammed
  dsimp only
  rw [hj]
  dsimp only
  rw [if_neg (by simp [hs, hg, hb]), if_neg (by simp [hk])]
  split
  · next k col h => exact absurd h (hu k col)
  · rfl

end

theorem healthScore_leaves (s : State) (c e : Nat) : OnlyEngines s (s.healthScore c e) := by
  rw [healthScore_eq]
  exact OnlyEngines.trans (t := s.setEng c e ((s.eng c e).scored s.time.up)) rfl (onlyEngines_engState ..)

theorem jobUsed_requalify (s : State) (c e : Nat) : s.jobUsed c e .requalify = s.requalified c e := rfl

/-- An engine that has been reprogrammed is a spare, or dead. -/
theorem requalified_leaves (s : State) (c e : Nat) : ((s.requalified c e).eng c e).health.score = ((s.healthScore c e).eng c e).health.score ∧
    ((s.requalified c e).eng c e).state = if ((s.healthScore c e).eng c e).health.score < s.cfg 0x2800 9 then .dead else .spare := by
  unfold State.requalified
  dsimp only
  rw [eng_engState, Engine.since_frame, (healthScore_leaves s c e).cfg]
  exact ⟨rfl, rfl⟩

/-! ## Verification (R208, R209) -/

theorem engineVerify_none {s : State} {c e : Nat} (h : s.unverifiedBlock c e = none) : s.engineVerify c e = s := by
  unfold State.engineVerify
  rw [h]

/-- What keeps an engine from being verified now. -/
def State.verifyWaits (s : State) (c e : Nat) : Prop :=
  s.pwr.powerGood = false ∨ (s.eng c e).job ≠ none ∨ s.onPilot c = true ∨ s.lowerDieWaits c = true ∨ s.engBusy c e = true

theorem engineVerify_waits {s : State} {c e x b i : Nat} (h : s.unverifiedBlock c e = some (x, b, i)) (hw : s.verifyWaits c e) : s.engineVerify c e = s := by
  unfold State.engineVerify
  rw [h]
  refine if_pos ?_
  obtain h | h | h | h | h := hw
  · simp [h]
  · simp [Option.isSome_iff_ne_none.mpr h]
  · simp [h]
  · simp [h]
  · simp [h]

/-- The engine is one of those that verification has come to. -/
def State.tries (s : State) (c e : Nat) : State := { s with pwr := { s.pwr with tried := insertNew s.pwr.tried (engKey c e) } }

/-- An engine that has passed. -/
def State.verifyPasses (s : State) (c e x b i draw : Nat) : State :=
  ((((s.modEng c e (fun g => { g with unverified := false })).flagDevices c e draw).endRequest x b i).modCtx x (fun k => k.verified c e)).readiness

theorem engineVerify_eq {s : State} {c e x b i : Nat} (h : s.unverifiedBlock c e = some (x, b, i)) (hj : (s.eng c e).job = none)
    (hp : s.pwr.powerGood = true) (ho : s.onPilot c = false) (hl : s.lowerDieWaits c = false) (hb : s.engBusy c e = false)
    (hd : isSentinel c = true ∨ Tab.get 0 s.pwr.dies (dieOf c) = 1) : s.engineVerify c e =
      if ((s.tries c e).verifyTe c e).verifyPass c e ((s.tries c e).verifyTe c e).draws then
        (((s.tries c e).verifyTe c e).drawN (512 * 272)).verifyPasses c e x b i ((s.tries c e).verifyTe c e).draws
      else (((s.tries c e).verifyTe c e).drawN (512 * 272)).verifyFail c e x b i := by
  unfold State.engineVerify
  rw [h]
  refine (if_neg ?_).trans rfl
  obtain h | h := hd <;> simp [hj, hp, ho, hl, hb, h]

theorem engState_pwr (s : State) (p : Power) (c e : Nat) (st : EngState) : ({ s with pwr := p } : State).engState c e st = { s.engState c e st with pwr := p } := by
  unfold State.engState
  dsimp only
  rw [show ({ s with pwr := p } : State).eng c e = s.eng c e from rfl]
  split <;> rfl

theorem maskRetire_pwr (s : State) (p : Power) (c e : Nat) : ({ s with pwr := p } : State).maskRetire c e = { s.maskRetire c e with pwr := p } := by
  unfold State.maskRetire
  dsimp only
  rw [show ({ s with pwr := p } : State).eng c e = s.eng c e from rfl]
  split
  · exact engState_pwr ..
  · rfl

/-- A test round is the same whatever has been tried. -/
theorem verifyTe_pwr (s : State) (p : Power) (c e : Nat) : ({ s with pwr := p } : State).verifyTe c e = { s.verifyTe c e with pwr := p } := by
  have h : ({ s with pwr := p } : State).testNow c e = { s.testNow c e with pwr := p } := by
    rw [testNow_eq, testNow_eq, show ({ s with pwr := p } : State).tested c e = s.tested c e from rfl]
    exact maskRetire_pwr ((s.setEng c e (s.tested c e)).drawN 544) p c e
  unfold State.verifyTe
  rw [h]
  rfl

theorem verifyTe_tries (s : State) (c e : Nat) : (s.tries c e).verifyTe c e =
    { s.verifyTe c e with pwr := { s.pwr with tried := insertNew s.pwr.tried (engKey c e) } } := verifyTe_pwr s _ c e

/-- The test round of a verification. -/
theorem verifyTe_leaves (s : State) (c e : Nat) : OnlyEngines s (s.verifyTe c e) ∧ (s.verifyTe c e).draws = s.draws + 544 := by
  obtain ⟨h, -, hd⟩ := testNow_leaves s c e
  exact ⟨h.trans rfl, hd⟩

/-- The first of the two readiness points. -/
def State.sentinelPoint (s : State) : State :=
  if bit s.pwr.ready 1 || !s.allChecked true || !s.allRestored true then s
  else ({ s with pwr := { s.pwr with ready := setBit s.pwr.ready 1 true, tSent := (s.time.up - s.pwr.since) / 1000 },
                 outs := { s.outs with causeNow := setBit s.outs.causeNow 0 false } } : State).clearCauses 1

theorem readiness_eq (s : State) : s.readiness =
    if !s.pwr.powerGood || !s.outs.driven then s
    else if bit s.sentinelPoint.pwr.ready 2 || !((List.range s.sentinelPoint.part.dies).all (fun d => Tab.get 0 s.sentinelPoint.pwr.dies d == 1)) ||
        !s.sentinelPoint.allChecked false || !s.sentinelPoint.allRestored false then s.sentinelPoint
    else { s.sentinelPoint with pwr := { s.sentinelPoint.pwr with ready := setBit s.sentinelPoint.pwr.ready 2 true,
                                                                   tCompute := (s.time.up - s.pwr.since) / 1000 / 1000 } } := rfl

/-- Readiness reached touches neither engines nor contexts nor cores. -/
theorem readiness_leaves (s : State) : s.readiness.engines = s.engines ∧ s.readiness.ctxs = s.ctxs ∧ s.readiness.cores = s.cores ∧ s.readiness.mem = s.mem ∧
    s.readiness.draws = s.draws := by
  have h : s.sentinelPoint.engines = s.engines ∧ s.sentinelPoint.ctxs = s.ctxs ∧ s.sentinelPoint.cores = s.cores ∧ s.sentinelPoint.mem = s.mem ∧
      s.sentinelPoint.draws = s.draws := by
    unfold State.sentinelPoint
    split
    · exact ⟨rfl, rfl, rfl, rfl, rfl⟩
    · have hl := (onlyLines_clearCauses { s with
        pwr := { s.pwr with ready := setBit s.pwr.ready 1 true, tSent := (s.time.up - s.pwr.since) / 1000 },
        outs := { s.outs with causeNow := setBit s.outs.causeNow 0 false } } 1).eq
      exact ⟨(congrArg State.engines hl :), (congrArg State.ctxs hl :), (congrArg State.cores hl :), (congrArg State.mem hl :), (congrArg State.draws hl :)⟩
  rw [readiness_eq]
  split
  · exact ⟨rfl, rfl, rfl, rfl, rfl⟩
  · split <;> exact h

/-- A context passed on an engine keeps what it keeps. -/
theorem kept_verified (k : Ctx) (c e : Nat) : (k.verified c e).kept = k.kept := by
  unfold Ctx.verified Ctx.kept
  dsimp only
  split_ifs <;> rfl

theorem verifyPasses_leaves (s : State) (c e x b i draw : Nat) : let t := s.verifyPasses c e x b i draw
    t.ctx x = (s.ctx x).verified c e ∧ (t.eng c e).te = (s.eng c e).te ∧ (t.eng c e).unverified = false ∧ t.cores = s.cores ∧ t.mem = s.mem ∧
      t.draws = s.draws := by
  have hreq (u : State) : OnlyStaging u (u.endRequest x b i) := by
    unfold State.endRequest State.dropBlock
    split
    · split_ifs
      · exact OnlyStaging.trans (t := { u with stage := { u.stage with block := none, want := 0 } }) rfl (onlyStaging_freeStage _)
      · exact rfl
      · exact rfl
    · exact rfl
  have hw : let v := ((s.modEng c e (fun g => { g with unverified := false })).flagDevices c e draw)
      (v.eng c e).te = (s.eng c e).te ∧ (v.eng c e).unverified = false ∧ v.ctxs = s.ctxs ∧ v.cores = s.cores ∧ v.mem = s.mem ∧ v.draws = s.draws := by
    have h1 := weights_setEng s c e { s.eng c e with unverified := false }
    unfold State.flagDevices
    dsimp only
    generalize hv : s.modEng c e (fun g => { g with unverified := false }) = v
    generalize hf : List.filter _ allDevices = fl
    have h2 := weights_setEng v c e { v.eng c e with stoke := { (v.eng c e).stoke with flagged := fl } }
    have h3 : (v.eng c e).weights = (s.modEng c e (fun g => { g with unverified := false }) |>.eng c e).weights := by rw [← hv]
    have h4 := h2.trans (h3.trans h1)
    exact ⟨(congrArg Weights.te h4 :), (congrArg Weights.unverified h4 :), by rw [← hv]; rfl, by rw [← hv]; rfl, by rw [← hv]; rfl, by rw [← hv]; rfl⟩
  obtain ⟨hte, hun, hctxs, hcores, hmem, hdraws⟩ := hw
  unfold State.verifyPasses
  generalize ((s.modEng c e (fun g => { g with unverified := false })).flagDevices c e draw) = v at *
  obtain ⟨h1, h2, h3, h4, h5⟩ := readiness_leaves ((v.endRequest x b i).modCtx x (fun k => k.verified c e))
  have hr := hreq v
  have hengs : (((v.endRequest x b i).modCtx x (fun k => k.verified c e)).readiness).engines = v.engines := h1.trans hr.engines
  have heng : (((v.endRequest x b i).modCtx x (fun k => k.verified c e)).readiness).eng c e = v.eng c e := by
    unfold State.eng
    rw [hengs]
  have hctx : (((v.endRequest x b i).modCtx x (fun k => k.verified c e)).readiness).ctx x = (s.ctx x).verified c e := by
    have hvx : v.ctx x = s.ctx x := congrArg (fun t : Tab Ctx => Tab.get Ctx.reset t x) hctxs
    refine (congrArg (fun t : Tab Ctx => Tab.get Ctx.reset t x) h2 :).trans ?_
    refine (State.ctx_modCtx_same ..).trans ?_
    rw [hr.ctx, hvx]
    exact if_pos (.inl (kept_verified ..))
  refine ⟨hctx, (congrArg Engine.te heng).trans hte, (congrArg Engine.unverified heng).trans hun, h3.trans (hr.cores.trans hcores), h4.trans (hr.mem.trans hmem),
    h5.trans ((congrArg State.draws hr.eq :).trans hdraws)⟩

/-- A context held where it was being verified. -/
def State.holds (s : State) (x : Nat) : State := if (s.ctx x).state = .verifying then s.modCtx x (fun k => k.enter .verifyHold) else s

/-- An engine is programmed again, from the target store or the image. -/
def State.programBack (s : State) (c e x b i w : Nat) : State :=
  if isSentinel c then s.startJob c e w (s.storedCode c e w) (.block x b i)
  else if s.blockHere x b i then (s.startJob c e w (fun r col => s.payloadCode 0 w r col) (.block x b i)).useBlock c e
  else s.wantBlock x b i

theorem verifyFail_eq (s : State) (c e x b i : Nat) :
    s.verifyFail c e x b i = (((s.setEng c e { s.eng c e with unverified := true }).holds x).programBack c e x b i (s.eng c e).wfmt) := rfl

theorem programBack_leaves (s : State) (c e x b i w : Nat) : let t := s.programBack c e x b i w
    (t.eng c e).unverified = (s.eng c e).unverified ∧ t.ctxs = s.ctxs ∧ t.cores = s.cores ∧ t.mem = s.mem ∧ s.draws ≤ t.draws := by
  unfold State.programBack
  dsimp only
  split_ifs
  · exact ⟨(congrArg Engine.unverified (startJob_eng ..) :), rfl, rfl, rfl, Nat.le_succ _⟩
  · exact ⟨(congrArg Engine.unverified (startJob_eng s c e w (fun r col => s.payloadCode 0 w r col) (.block x b i)) :), rfl, rfl, rfl, Nat.le_succ _⟩
  · unfold State.wantBlock
    dsimp only
    split_ifs <;> exact ⟨rfl, rfl, rfl, rfl, le_refl _⟩

theorem verifyFail_leaves (s : State) (c e x b i : Nat) : let t := s.verifyFail c e x b i
    (t.eng c e).unverified = true ∧ t.ctxs = (s.holds x).ctxs ∧ t.cores = s.cores ∧ t.mem = s.mem ∧ s.draws ≤ t.draws := by
  rw [verifyFail_eq]
  obtain ⟨h1, h2, h3, h4, h5⟩ := programBack_leaves ((s.setEng c e { s.eng c e with unverified := true }).holds x) c e x b i (s.eng c e).wfmt
  have hu := (congrArg Weights.unverified (weights_setEng s c e { s.eng c e with unverified := true }) :)
  have hh : let v := (s.setEng c e { s.eng c e with unverified := true }).holds x
      (v.eng c e).unverified = true ∧ v.ctxs = (s.holds x).ctxs ∧ v.cores = s.cores ∧ v.mem = s.mem ∧ v.draws = s.draws := by
    unfold State.holds
    dsimp only
    rw [show (s.setEng c e { s.eng c e with unverified := true }).ctx x = s.ctx x from rfl]
    split <;> exact ⟨hu, rfl, rfl, rfl, rfl⟩
  obtain ⟨g1, g2, g3, g4, g5⟩ := hh
  exact ⟨h1.trans g1, h2.trans g2, h3.trans g3, h4.trans g4, le_of_eq_of_le g5.symm h5⟩

theorem kept_enter (k : Ctx) (st : CtxState) : (k.enter st).kept = k.kept := by
  unfold Ctx.enter
  split <;> rfl

theorem holds_waits {s : State} {x : Nat} (h : (s.ctx x).state = .verifying ∨ (s.ctx x).state = .verifyHold) :
    (s.holds x).ctx x = (s.ctx x).enter .verifyHold := by
  unfold State.holds
  split
  · exact (State.ctx_modCtx_same ..).trans (if_pos (.inl (kept_enter ..)))
  · next hn =>
    have hh := h.resolve_left hn
    unfold Ctx.enter
    rw [if_pos hh]

theorem holds_other {s : State} {x : Nat} (h : ¬ ((s.ctx x).state = .verifying ∨ (s.ctx x).state = .verifyHold)) : s.holds x = s :=
  if_neg (fun hv => h (.inl hv))

/-- What verification leaves, by its outcome. -/
theorem verified_leaves (v : State) (c e x b i d : Nat) (ok : Bool) :
    let t := if ok then (v.drawN (512 * 272)).verifyPasses c e x b i d else (v.drawN (512 * 272)).verifyFail c e x b i
    let waits := (v.ctx x).state = .verifying ∨ (v.ctx x).state = .verifyHold
    v.draws + 512 * 272 ≤ t.draws ∧ t.cores = v.cores ∧ t.mem = v.mem ∧
    (ok = true → t.ctx x = (v.ctx x).verified c e ∧ (t.eng c e).te = (v.eng c e).te ∧ (t.eng c e).unverified = false) ∧
    (ok = false → waits → t.ctx x = (v.ctx x).enter .verifyHold ∧ (t.eng c e).unverified = true) ∧
    (ok = false → ¬ waits → t.ctx x = v.ctx x ∧ (t.eng c e).unverified = true) := by
  have hdn : v.draws + 512 * 272 = (v.drawN (512 * 272)).draws := rfl
  have hx : (v.drawN (512 * 272)).ctx x = v.ctx x := rfl
  have hc : (v.drawN (512 * 272)).cores = v.cores := rfl
  have hm : (v.drawN (512 * 272)).mem = v.mem := rfl
  have he : (v.drawN (512 * 272)).eng c e = v.eng c e := rfl
  generalize v.drawN (512 * 272) = u at *
  rw [hdn, ← hx, ← hc, ← hm, ← he]
  cases ok
  · obtain ⟨hun, hctxs, hcores, hmem, hdr⟩ := verifyFail_leaves u c e x b i
    have hux : (u.verifyFail c e x b i).ctx x = (u.holds x).ctx x := congrArg (fun t : Tab Ctx => Tab.get Ctx.reset t x) hctxs
    refine ⟨hdr, hcores, hmem, fun h => absurd h Bool.false_ne_true, fun _ hw => ⟨hux.trans (holds_waits hw), hun⟩, fun _ hw => ⟨hux.trans ?_, hun⟩⟩
    rw [holds_other hw]
  · obtain ⟨hctx, hte, hun, hcores, hmem, hdr⟩ := verifyPasses_leaves u c e x b i d
    exact ⟨le_of_eq hdr.symm, hcores, hmem, fun _ => ⟨hctx, hte, hun⟩, fun h => absurd h.symm Bool.false_ne_true, fun h => absurd h.symm Bool.false_ne_true⟩

/-- Settles O31: the end of programming, then verification. -/
theorem enginesAreVerified : Obligations.EnginesAreVerified := by
  unfold Obligations.EnginesAreVerified
  have next {t u : State} (h : t = u) : (.next t : Out) = .next u := congrArg Host.Outcome.next h
  constructor
  · intro s c e j hj u ends
    have hw := (congrArg Engine.weights (eng_doneBlock (s.closeJob c e j) c e c e)).trans (closeJob_weights s c e j)
    have huse (he : ends) (hu : ∀ k col, j.use ≠ .column k col) (hp : s.onPilot c = false) : exec (.engineProgrammed c e) s = .next (u.jobUsed c e j.use) :=
      next ((engineProgrammed_whole hj he hu).trans (if_neg (by simp [hp])))
    refine ⟨fun h => next (engineProgrammed_waits hj h), fun hs hg hb hk => next (engineProgrammed_compensates hj hs hg hb hk), (congrArg Weights.job hw :),
      (congrArg Weights.te hw :), (congrArg Weights.wfmt hw :), (congrArg Weights.unverified hw :), (congrArg Weights.pairs hw :), (congrArg Weights.stuck hw :),
      fun he hu hp => next ((engineProgrammed_whole hj he hu).trans (if_pos hp)),
      fun k col he hu => ⟨next (engineProgrammed_column hj he hu), closeColumn_leaves s c e k col j⟩, fun he hp => ?_⟩
    refine ⟨fun x b i hu => ?_, fun x l o r hu => ?_, fun d o hu => ?_, fun hu => ⟨_, huse he (by simp [hu]) hp, ?_⟩⟩
    · rw [huse he (by simp [hu]) hp, hu]
      rfl
    · rw [huse he (by simp [hu]) hp, hu]
      rfl
    · rw [huse he (by simp [hu]) hp, hu]
      rfl
    · rw [hu, jobUsed_requalify]
      have hcfg : u.cfg 0x2800 9 = s.cfg 0x2800 9 := ((onlyEngines_closeJob s c e j).trans (onlyEngines_doneBlock ..)).cfg 0x2800 9
      obtain ⟨hscore, hstate⟩ := requalified_leaves u c e
      refine ⟨hscore, ?_⟩
      rw [hstate, hscore, hcfg]
  · intro s c e x b i u waits
    refine ⟨fun h => next (engineVerify_none h), fun h hw => next (engineVerify_waits h hw), fun h hj hp ho hl hb hd => ?_⟩
    have heq := engineVerify_eq h hj hp ho hl hb hd
    rw [verifyTe_tries] at heq
    obtain ⟨honly, hdraws⟩ := verifyTe_leaves s c e
    change OnlyEngines s u at honly
    change u.draws = _ at hdraws
    refine ⟨_, next heq, ?_⟩
    clear heq
    have hctx (y : Nat) : u.ctx y = s.ctx y := honly.ctx y
    generalize ({ s.pwr with tried := insertNew s.pwr.tried (engKey c e) } : Power) = p
    generalize hv : ({ s.verifyTe c e with pwr := p } : State) = v
    have hve (y : Nat) : v.ctx y = s.ctx y := by rw [← hv]; exact hctx y
    have hvd : v.draws = u.draws := by rw [← hv]
    have hvp : v.verifyPass c e u.draws = u.verifyPass c e u.draws := by rw [← hv]; rfl
    have hvt : (v.eng c e).te = (u.eng c e).te := by rw [← hv]; rfl
    have hvc : v.cores = s.cores := by rw [← hv]; exact honly.cores
    have hvm : v.mem = s.mem := by rw [← hv]; exact honly.mem
    rw [hvd, hvp]
    clear hv
    obtain ⟨hdr, hcores, hmem, hyes, hhold, hno⟩ := verified_leaves v c e x b i u.draws (u.verifyPass c e u.draws)
    rw [hve x] at hyes hhold hno
    refine ⟨by omega, hcores.trans hvc, hmem.trans hvm, fun h => ?_, hhold, hno⟩
    obtain ⟨h1, h2, h3⟩ := hyes h
    exact ⟨h1, h2.trans hvt, h3⟩

end Sys2Proof.Machine

end

section
/-! Scrubbing and the errors it finds: correctable ones, uncorrectable ones by their place, the end of a pass (R311-R318, Table 12.2). Settles O56. -/

namespace Sys2Proof.Machine

/-! ## A cause latched counts no error -/

section
variable (s : State)

theorem errors_ringTrigger (n : Nat) : (s.ringTrigger n).count 0x2C00 4 = s.count 0x2C00 4 := (onlyRings_ringTrigger s n).count ..

/-- A counter of another subindex. -/
theorem errors_bump (i : Nat) {n : Nat} (h : n % 256 ≠ 4) : (s.bump i n).count 0x2C00 4 = s.count 0x2C00 4 :=
  State.count_bumpBy_ne s 1 (by unfold odKey; omega)

theorem errors_assertTrip (n cause : Nat) : (s.assertTrip n cause).count 0x2C00 4 = s.count 0x2C00 4 := by
  rw [State.assertTrip_eq, errors_ringTrigger]
  exact errors_bump (s.modTrip n (fun t => { t with asserted := true, since := s.time.up, lastCause := cause })) (tripIdx n) (by decide)

theorem errors_mirrorTrip (n : Nat) (ev : Option Nat) : (s.mirrorTrip n ev).count 0x2C00 4 = s.count 0x2C00 4 := by
  unfold State.mirrorTrip
  dsimp only
  split
  · split
    · rfl
    · exact errors_assertTrip ..
  · split
    · exact errors_assertTrip ..
    · split <;> rfl

theorem errors_updateTrip (n : Nat) : (s.updateTrip n).count 0x2C00 4 = s.count 0x2C00 4 := by
  unfold State.updateTrip
  dsimp only
  refine Eq.trans (b := (s.modTrip n (fun t => { t with backstop := (s.backstopEvent n).isSome })).count 0x2C00 4) ?_ rfl
  generalize s.modTrip n (fun t => { t with backstop := (s.backstopEvent n).isSome }) = u
  split
  · rfl
  · split
    · exact errors_mirrorTrip ..
    · split
      · exact errors_assertTrip ..
      · split <;> rfl

theorem errors_setMirror (st cause : Nat) : (s.setMirror st cause).count 0x2C00 4 = s.count 0x2C00 4 := by
  unfold State.setMirror State.showMirror
  split
  · rfl
  · dsimp only
    split
    · exact (errors_updateTrip ..).trans rfl
    · rfl

theorem errors_holdOutputs : s.holdOutputs.count 0x2C00 4 = s.count 0x2C00 4 := by
  unfold State.holdOutputs
  refine (foldl_leaves (fun u => u.count 0x2C00 4) (fun u n => ?_) _ _).trans (Eq.trans rfl (foldl_leaves (fun u => u.count 0x2C00 4) (fun u ch => ?_) _ s))
  · split <;> rfl
  · split <;> rfl

theorem errors_toStandby (cause : Nat) : (s.toStandby cause).count 0x2C00 4 = s.count 0x2C00 4 :=
  (errors_holdOutputs _).trans (errors_setMirror s 2 cause)

theorem errors_sendFrame (p : Nat) (f : FlueFrame) : (s.sendFrame p f).count 0x2C00 4 = s.count 0x2C00 4 := by
  unfold State.sendFrame
  exact (errors_bump _ (0x2D08 + p) (by decide)).trans rfl

theorem errors_portFlow (p n : Nat) : (s.portFlow p n).count 0x2C00 4 = s.count 0x2C00 4 := by
  induction n generalizing s with
  | zero => rfl
  | succ n ih =>
    have hframes (fs : List FlueFrame) (s : State) : (fs.foldl (fun s f => s.sendFrame p f) s).count 0x2C00 4 = s.count 0x2C00 4 :=
      foldl_leaves (fun u => u.count 0x2C00 4) (fun u f => errors_sendFrame u p f) fs s
    have hout (u : State) (f : Port → Port) : (u.modPort p f).count 0x2C00 4 = u.count 0x2C00 4 := rfl
    unfold State.portFlow
    dsimp only
    split
    · rfl
    · split
      · rfl
      · split
        · exact (ih _).trans ((hout ..).trans (errors_sendFrame ..))
        · refine (ih _).trans ?_
          split
          · exact (errors_toStandby ..).trans ((hout ..).trans (hframes ..))
          · exact (hout ..).trans (hframes ..)

theorem errors_faultEdge (before : Bool) : (s.faultEdge before).count 0x2C00 4 = s.count 0x2C00 4 := by
  unfold State.faultEdge
  split
  · dsimp only
    split
    · unfold State.sendTakeover
      split
      · exact (errors_portFlow ..).trans rfl
      · rfl
    · rfl
  · rfl

theorem errors_setCause (i : Nat) : (s.setCause i).count 0x2C00 4 = s.count 0x2C00 4 := (errors_faultEdge _ _).trans rfl

end

/-! ## Replacement asked for -/

/-- Only replacements, the errors of cores and records differ. -/
def OnlyReplaces (s t : State) : Prop :=
  t = { s with svc := { s.svc with replace := t.svc.replace, ueTimes := t.svc.ueTimes, worn := t.svc.worn }, ash := t.ash }

theorem OnlyReplaces.eq {s t : State} (h : OnlyReplaces s t) :
    t = { s with svc := { s.svc with replace := t.svc.replace, ueTimes := t.svc.ueTimes, worn := t.svc.worn }, ash := t.ash } := h

theorem OnlyReplaces.trans {s t u : State} (h : OnlyReplaces s t) (k : OnlyReplaces t u) : OnlyReplaces s u :=
  k.eq.trans (congrArg (fun x : State =>
    { x with svc := { x.svc with replace := u.svc.replace, ueTimes := u.svc.ueTimes, worn := u.svc.worn }, ash := u.ash }) h.eq :)

theorem onlyReplaces_scheduleReplace (s : State) (c cause : Nat) : OnlyReplaces s (s.scheduleReplace c cause) := by
  unfold State.scheduleReplace
  split_ifs <;> exact rfl

theorem onlyReplaces_coreUe (s : State) (c : Nat) : OnlyReplaces s (s.coreUe c) := by
  unfold State.coreUe
  dsimp only
  split
  · exact rfl
  · exact OnlyReplaces.trans (t := { s with svc := { s.svc with
      ueTimes := Tab.set s.svc.ueTimes c ((Tab.get [] s.svc.ueTimes c).filter (fun t => decide (s.time.up < t + day)) ++ [s.time.up]) } }) rfl
      (onlyReplaces_scheduleReplace ..)

/-! ## One access (R311, R313, Table 12.2) -/

section
variable {s : State} {a : Nat}

/-- There is a word, an entry or a flit at the address. -/
def State.scrubs (s : State) (a : Nat) : Prop := ¬ ((a < 2 ^ 32 ∧ (!s.sramAt a) = true) ∨ (2 ^ 34 ≤ a ∧ (!s.flitAt a) = true))

theorem scrubs_sram (h : a < 2 ^ 32) (hs : s.sramAt a = true) : s.scrubs a := by
  unfold State.scrubs
  simp only [hs, Bool.not_true, Bool.false_eq_true, and_false, false_or]
  omega

theorem scrubs_keep (h : 2 ^ 32 ≤ a) (h' : a < 2 ^ 34) : s.scrubs a := by
  unfold State.scrubs
  omega

theorem scrubs_flit (h : 2 ^ 34 ≤ a) (hf : s.flitAt a = true) : s.scrubs a := by
  unfold State.scrubs
  simp only [hf, Bool.not_true, Bool.false_eq_true, and_false, or_false]
  omega

theorem scrub_nothing (h : (a < 2 ^ 32 ∧ s.sramAt a = false) ∨ (2 ^ 34 ≤ a ∧ s.flitAt a = false)) (f : EccFinding) : s.scrub a f = s := by
  refine if_pos ?_
  rw [Bool.not_eq_true', Bool.not_eq_true']
  exact h

theorem scrub_clean : s.scrub a .clean = s := by
  unfold State.scrub
  split <;> rfl

theorem scrub_uncorrectable (h : s.scrubs a) : s.scrub a .uncorrectable = s.eccUe a := if_neg h

/-- The word of a correctable error, as the passes remember it. -/
def scrubWord (a : Nat) : Nat := if a < 2 ^ 33 then a / 8 * 8 else a

/-- A correctable error is counted and recorded. -/
def State.noteCe (s : State) (a : Nat) : State := (s.bump 0x2C00 3).record (eccSource a) 0x0010 (eccWords a)

theorem scrub_correctable (h : s.scrubs a) : s.scrub a .correctable =
    if 2 ^ 34 ≤ a ∨ s.svc.ceNow.contains (scrubWord a) then s.noteCe a
    else { s.noteCe a with svc := { s.svc with ceNow := s.svc.ceNow ++ [scrubWord a] } } := if_neg h

/-- A correctable error of a memory. -/
theorem correctable_leaves (h : s.scrubs a) (ha : a < 2 ^ 34) : let t := s.scrub a .correctable
    t.count 0x2C00 3 = (s.bump 0x2C00 3).count 0x2C00 3 ∧ scrubWord a ∈ t.svc.ceNow ∧ t.svc.poison = s.svc.poison ∧ t.mem = s.mem ∧
      t.cores = s.cores ∧ t.engines = s.engines ∧ t.keep = s.keep := by
  dsimp only
  rw [scrub_correctable h]
  split
  · next hin =>
    have hmem := hin.resolve_left (by omega)
    exact ⟨rfl, List.contains_iff_mem.mp hmem, rfl, rfl, rfl, rfl, rfl⟩
  · exact ⟨rfl, List.mem_append_right _ (List.mem_singleton_self _), rfl, rfl, rfl, rfl, rfl⟩

theorem correctable_flit (h : s.scrubs a) (ha : 2 ^ 34 ≤ a) : s.scrub a .correctable = s.noteCe a := by
  rw [scrub_correctable h, if_pos (.inl ha)]

end

/-! ## Uncorrectable errors in SRAM (R311, R318) -/

section
variable {s : State} {a : Nat}

theorem eccUe_sram (h : a < 2 ^ 32) : s.eccUe a = (s.noteUe a).sramUe a := if_pos h

/-- The word poisoned, and FAULT_CAUSE [5] set where it is one of the hub. -/
def State.hubUe (s : State) (a : Nat) : State := if a < 0x06000000 then (s.poisonWord (a / 8 * 8)).setCause 5 else s.poisonWord (a / 8 * 8)

theorem sramUe_eq (s : State) (a : Nat) : s.sramUe a = match coreAt a with
    | some c => (s.hubUe a).coreUe c
    | none => s.hubUe a := rfl

theorem hubUe_leaves (s : State) (a : Nat) : let t := s.hubUe a
    t.svc = (s.poisonWord (a / 8 * 8)).svc ∧ t.count 0x2C00 4 = s.count 0x2C00 4 ∧ (a < 0x06000000 → bit t.outs.faultCause 5 = true) ∧ t.mem = s.mem ∧
      t.cores = s.cores ∧ t.engines = s.engines := by
  unfold State.hubUe
  dsimp only
  split
  · have h := onlyLines_setCause (s.poisonWord (a / 8 * 8)) 5
    refine ⟨(congrArg State.svc h.eq :), errors_setCause .., fun _ => ?_, (congrArg State.mem h.eq :), (congrArg State.cores h.eq :),
      (congrArg State.engines h.eq :)⟩
    rw [h.faultCause]
    exact bit_setBit_same ..
  · next hn => exact ⟨rfl, rfl, fun h => absurd h hn, rfl, rfl, rfl⟩

theorem sramUe_leaves (s : State) (a : Nat) : let t := s.sramUe a
    t.svc.poison = (s.poisonWord (a / 8 * 8)).svc.poison ∧ t.svc.lastUe = s.svc.lastUe ∧ t.count 0x2C00 4 = s.count 0x2C00 4 ∧
    (a < 0x06000000 → bit t.outs.faultCause 5 = true) ∧ t.mem = s.mem ∧ t.cores = s.cores ∧ t.engines = s.engines := by
  obtain ⟨hsvc, hcount, hcause, hmem, hcores, heng⟩ := hubUe_leaves s a
  dsimp only
  rw [sramUe_eq]
  generalize s.hubUe a = u at *
  split
  · next c _ =>
    have h := (onlyReplaces_coreUe u c).eq
    have hpoison : u.svc.poison = (s.poisonWord (a / 8 * 8)).svc.poison := by rw [hsvc]
    have hlast : u.svc.lastUe = s.svc.lastUe := by
      rw [hsvc]
      rfl
    exact ⟨(congrArg (fun t : State => t.svc.poison) h :).trans hpoison, (congrArg (fun t : State => t.svc.lastUe) h :).trans hlast,
      (congrArg (fun t : State => t.count 0x2C00 4) h :).trans hcount,
      fun ha => (congrArg (fun t : State => bit t.outs.faultCause 5) h :).trans (hcause ha), (congrArg State.mem h :).trans hmem,
      (congrArg State.cores h :).trans hcores, (congrArg State.engines h :).trans heng⟩
  · have hpoison : u.svc.poison = (s.poisonWord (a / 8 * 8)).svc.poison := by rw [hsvc]
    have hlast : u.svc.lastUe = s.svc.lastUe := by
      rw [hsvc]
      rfl
    exact ⟨hpoison, hlast, hcount, hcause, hmem, hcores, heng⟩

theorem poisoned_poisonWord (s : State) (w : Nat) : (s.poisonWord w).poisoned w 8 = true := by
  unfold State.poisoned
  refine List.any_eq_true.mpr ⟨w, ?_, ?_⟩
  · unfold State.poisonWord
    dsimp only
    split
    · next h => exact List.contains_iff_mem.mp h
    · exact List.mem_append_right _ (List.mem_singleton_self _)
  · simp

/-- An error recorded and made the last one. -/
def State.errorLast (s : State) (src code : Nat) (l : List Nat) (key old last : Nat) : State :=
  let t := (s.record src code l).keepLast key old
  { t with svc := { t.svc with lastUe := last } }

theorem bump_frame (s : State) (i n : Nat) : s.bump i n = { s with counters := (s.bump i n).counters } := rfl

theorem errorNoted_frame (s : State) (i n src code : Nat) (l : List Nat) (key last : Nat) : s.errorNoted i n src code l key last =
    { s with counters := (s.bump i n).counters, ash := (s.record src code l).ash, keep := (s.keepLast key s.svc.lastUe).keep,
             svc := { s.svc with lastUe := last } } := by
  show (s.bump i n).errorLast src code l key s.svc.lastUe last = _
  rw [bump_frame]
  generalize (s.bump i n).counters = cs
  rfl

/-- What noting an uncorrectable error changes. -/
theorem noteUe_frame (s : State) (a : Nat) : s.noteUe a =
    { s with counters := (s.bump 0x2C00 4).counters, ash := (s.record (eccSource a) 0x0011 (eccWords a)).ash,
             keep := (s.keepLast (odKey 0x2C00 8) s.svc.lastUe).keep,
             svc := { s.svc with lastUe := (eccWords a).headD 0 + eccSource a * 2 ^ 32 } } :=
  (State.noteUe_eq s a).trans (errorNoted_frame ..)

theorem noteUe_lastUe (s : State) (a : Nat) : (s.noteUe a).svc.lastUe = (eccWords a).headD 0 + eccSource a * 2 ^ 32 :=
  (congrArg (fun t : State => t.svc.lastUe) (noteUe_frame s a) :)
theorem poison_lastUe (v : Service) (l : Nat) : ({ v with lastUe := l } : Service).poison = v.poison := rfl
theorem noteUe_poison (s : State) (a : Nat) : (s.noteUe a).svc.poison = s.svc.poison :=
  (congrArg (fun t : State => t.svc.poison) (noteUe_frame s a)).trans (poison_lastUe s.svc _)
theorem noteUe_engines (s : State) (a : Nat) : (s.noteUe a).engines = s.engines := (congrArg State.engines (noteUe_frame s a) :)

/-- What an uncorrectable error of an SRAM word leaves. -/
theorem uncorrectable_sram (h : a < 2 ^ 32) (hs : s.sramAt a = true) : let t := s.scrub a .uncorrectable
    t.poisoned (a / 8 * 8) 8 = true ∧ t.svc.lastUe = a / 8 * 8 + eccSource a * 2 ^ 32 ∧ t.count 0x2C00 4 = (s.bump 0x2C00 4).count 0x2C00 4 ∧
    (a < 0x06000000 → bit t.outs.faultCause 5 = true) ∧ t.mem = s.mem ∧ t.cores = s.cores ∧ t.engines = s.engines := by
  obtain ⟨hp, hl, hc, hcause, hmem, hcores, heng⟩ := sramUe_leaves (s.noteUe a) a
  have hword : (eccWords a).headD 0 = a / 8 * 8 := by rw [eccWords, if_pos h]; rfl
  obtain ⟨-, -, hncores, hnmem⟩ := noteUe_leaves s a
  dsimp only
  rw [scrub_uncorrectable (scrubs_sram h hs), eccUe_sram h]
  have hpoison := poisoned_poisonWord (s.noteUe a) (a / 8 * 8)
  rw [noteUe_lastUe, hword] at hl
  rw [noteUe_engines] at heng
  rw [State.count_noteUe] at hc
  unfold State.poisoned at hpoison ⊢
  rw [← hp] at hpoison
  exact ⟨hpoison, hl, hc, hcause, hmem.trans hnmem, hcores.trans hncores, heng⟩

end

/-! ## Uncorrectable errors of the hub keep and of a sum store (R281, Table 12.2) -/

/-- What an error of the hub keep marks of contexts and engines. -/
def State.keepMarks (s : State) (key : Nat) : State :=
  if 0x2610 ≤ key / 256 ∧ key / 256 ≤ 0x264F then
    s.modCtx (key / 256 - 0x2610) (fun k => if key % 256 = 1 then { k with fellBack := true } else { k with fallen := insertNew k.fallen (key % 256) })
  else if 2 ^ 34 ≤ key then
    s.modEng (key % 2 ^ 34 / 50) (key % 2 ^ 34 % 50) (fun g => { g with fallen := insertNew g.fallen (if key < 2 ^ 35 then 4 else 6) })
  else s

/-- The hub keep and the key slots fallen back at a key. -/
def State.keepBack (s : State) (key : Nat) : State :=
  { s with keep := s.keep.fallBack key,
           keys := if key / 256 = 0x2B01 ∧ 2 ≤ key % 256 then Tab.back s.keys s.keep.prevKeys (key % 256 - 1) else s.keys }

theorem keepUe_eq (s : State) (a : Nat) : s.keepUe a = ((s.setCause 5).keepBack (Config.keepKey (a - 2 ^ 32))).keepMarks (Config.keepKey (a - 2 ^ 32)) := rfl

theorem keepMarks_leaves (s : State) (key : Nat) : let t := s.keepMarks key
    t.outs = s.outs ∧ t.keep = s.keep ∧ t.keys = s.keys ∧ t.svc = s.svc ∧ t.mem = s.mem ∧ t.cores = s.cores ∧ (key < 2 ^ 34 → t.engines = s.engines) := by
  unfold State.keepMarks
  dsimp only
  split
  · exact ⟨rfl, rfl, rfl, rfl, rfl, rfl, fun _ => rfl⟩
  · split
    · next h2 => exact ⟨rfl, rfl, rfl, rfl, rfl, rfl, fun h => absurd h (not_lt.mpr h2)⟩
    · exact ⟨rfl, rfl, rfl, rfl, rfl, rfl, fun _ => rfl⟩

theorem keepUe_leaves (s : State) (a : Nat) : let t := s.keepUe a
    let key := Config.keepKey (a - 2 ^ 32)
    bit t.outs.faultCause 5 = true ∧ t.keep = s.keep.fallBack key ∧ t.svc = s.svc ∧ t.mem = s.mem ∧ t.cores = s.cores ∧
    (∀ i v, 1 ≤ i → i ≤ 7 → key = odKey 0x2B01 (i + 1) → Tab.find s.keep.prevKeys i = some v → Tab.get KeySlot.reset t.keys i = v) ∧
    (key < 2 ^ 34 → t.engines = s.engines) := by
  have h := onlyLines_setCause s 5
  have hbit : bit (s.setCause 5).outs.faultCause 5 = true := by
    rw [h.faultCause]
    exact bit_setBit_same ..
  have hkeep : (s.setCause 5).keep = s.keep := (congrArg State.keep h.eq :)
  have hsvc : (s.setCause 5).svc = s.svc := (congrArg State.svc h.eq :)
  have hmem : (s.setCause 5).mem = s.mem := (congrArg State.mem h.eq :)
  have hcores : (s.setCause 5).cores = s.cores := (congrArg State.cores h.eq :)
  have heng : (s.setCause 5).engines = s.engines := (congrArg State.engines h.eq :)
  dsimp only
  rw [keepUe_eq]
  generalize s.setCause 5 = u at hbit hkeep hsvc hmem hcores heng ⊢
  generalize Config.keepKey (a - 2 ^ 32) = key
  obtain ⟨h1, h2, h3, h4, h5, h6, h7⟩ := keepMarks_leaves (u.keepBack key) key
  refine ⟨(congrArg (fun o : Outputs => bit o.faultCause 5) h1).trans hbit, h2.trans (congrArg (fun k : HubKeep => k.fallBack key) hkeep :), h4.trans hsvc,
    h5.trans hmem, h6.trans hcores, fun i v hi hi' hk hv => ?_, fun hk => (h7 hk).trans heng⟩
  have hdiv : key / 256 = 0x2B01 ∧ 2 ≤ key % 256 ∧ key % 256 - 1 = i := by
    unfold odKey at hk
    omega
  obtain ⟨hq, hr, hs⟩ := hdiv
  rw [h3]
  show Tab.get KeySlot.reset (if key / 256 = 0x2B01 ∧ 2 ≤ key % 256 then Tab.back u.keys u.keep.prevKeys (key % 256 - 1) else u.keys) i = v
  rw [if_pos ⟨hq, hr⟩, hs, hkeep]
  unfold Tab.back
  rw [hv]
  exact Tab.get_set_same ..

theorem sumUe_leaves (s : State) (a : Nat) :
    (a - 2 ^ 33) % 128 ∈ ((s.sumUe a).eng ((a - 2 ^ 33) / 512 / 50) ((a - 2 ^ 33) / 512 % 50)).sumsBad ∧ (s.sumUe a).mem = s.mem ∧
      (s.sumUe a).cores = s.cores := by
  refine ⟨?_, rfl, rfl⟩
  unfold State.sumUe
  dsimp only
  rw [State.eng_modEng_same, Engine.since_frame]
  dsimp only
  split
  · next h => exact List.contains_iff_mem.mp h
  · exact List.mem_append_right _ (List.mem_singleton_self _)

/-! ## Uncorrectable errors of a flit (R311, Table 12.2) -/

theorem flitUe_op {s : State} {a : Nat} {o : Op} (h : 2 ^ 37 ≤ a) (ho : (s.core ((a - 2 ^ 37) / 128 / 64)).seq.ops[(a - 2 ^ 37) / 128 % 64]? = some o) :
    s.flitUe a = s.opUe ((a - 2 ^ 37) / 128 / 64) (a % 128) o := by
  have hop : s.flitOp a = some ((a - 2 ^ 37) / 128 / 64, o) := by
    unfold State.flitOp
    dsimp only
    rw [ho]
    rfl
  unfold State.flitUe
  dsimp only
  rw [if_pos h, hop]

/-- The items on their way that a poisoned flit below 2^37 belongs to. -/
def Net.poisonFlit (n : Net) (a : Nat) : Net :=
  if a < 2 ^ 35 then { n with msgs := n.msgs.modify ((a - 2 ^ 34) / 128) (fun m => { m with hurt := insertNew m.hurt (a % 128) }) }
  else if a < 2 ^ 36 then { n with syncs := n.syncs.modify ((a - 2 ^ 35) / 128) (fun u => { u with hurt := true }) }
  else { n with frames := n.frames.modify ((a - 2 ^ 36) / 128) (fun m => { m with hurt := insertNew m.hurt (a % 128) }) }

theorem flitUe_item {s : State} {a : Nat} (h : a < 2 ^ 37) : s.flitUe a = { s with net := s.net.poisonFlit a } := if_neg (by omega)

theorem opUe_leaves (s : State) (c f : Nat) (o : Op) : let t := s.opUe c f o
    t.counters = s.counters ∧ t.mem = s.mem ∧ t.engines = s.engines ∧
    (t.core c).seq.ops = (s.core c).seq.ops.map (fun y => if y.seq = o.seq then y.poisonFlit f else y) ∧ (∀ x, x ≠ c → t.core x = s.core x) ∧
    t.net.decisions = s.net.decisions.map (fun d => if d.core = c ∧ d.op = o.seq then { d with value := Config.poisonedDecision s.draws } else d) ∧
    t.part = s.part ∧ t.sets = s.sets := by
  refine ⟨rfl, rfl, rfl, ?_, fun x hx => ?_, rfl, rfl, rfl⟩
  · exact (State.ops_modOp s.draw c o.seq (fun o => o.poisonFlit f) :)
  · exact (State.core_modCore_ne s.draw (fun k => { k with seq := { k.seq with ops := k.seq.ops.map (fun y => if y.seq = o.seq then y.poisonFlit f else y) } })
      hx :)

theorem poisonFlit_msgs {n : Net} {a : Nat} {m : Msg} (h : a < 2 ^ 35) (hm : n.msgs[(a - 2 ^ 34) / 128]? = some m) :
    (n.poisonFlit a).msgs[(a - 2 ^ 34) / 128]? = some { m with hurt := insertNew m.hurt (a % 128) } := by
  unfold Net.poisonFlit
  rw [if_pos h]
  exact (List.getElem?_modify_eq ..).trans (congrArg _ hm)

theorem poisonFlit_syncs {n : Net} {a : Nat} {u : SyncUpd} (h : 2 ^ 35 ≤ a) (h' : a < 2 ^ 36) (hu : n.syncs[(a - 2 ^ 35) / 128]? = some u) :
    (n.poisonFlit a).syncs[(a - 2 ^ 35) / 128]? = some { u with hurt := true } := by
  unfold Net.poisonFlit
  rw [if_neg (not_lt.mpr h), if_pos h']
  exact (List.getElem?_modify_eq ..).trans (congrArg _ hu)

theorem poisonFlit_frames {n : Net} {a : Nat} {m : FrameMsg} (h : 2 ^ 36 ≤ a) (hm : n.frames[(a - 2 ^ 36) / 128]? = some m) :
    (n.poisonFlit a).frames[(a - 2 ^ 36) / 128]? = some { m with hurt := insertNew m.hurt (a % 128) } := by
  unfold Net.poisonFlit
  rw [if_neg (show ¬ a < 2 ^ 35 by omega), if_neg (not_lt.mpr h)]
  exact (List.getElem?_modify_eq ..).trans (congrArg _ hm)

/-! ## The end of a pass (R314-R318) -/

/-- Only the persistent words, counters and records differ. -/
def OnlyPersistent (s t : State) : Prop :=
  t = { s with counters := t.counters, svc := { s.svc with ceWords := t.svc.ceWords }, ash := t.ash }

theorem OnlyPersistent.eq {s t : State} (h : OnlyPersistent s t) :
    t = { s with counters := t.counters, svc := { s.svc with ceWords := t.svc.ceWords }, ash := t.ash } := h

theorem OnlyPersistent.trans {s t u : State} (h : OnlyPersistent s t) (k : OnlyPersistent t u) : OnlyPersistent s u :=
  k.eq.trans (congrArg (fun x : State =>
    { x with counters := u.counters, svc := { x.svc with ceWords := u.svc.ceWords }, ash := u.ash }) h.eq :)

theorem onlyPersistent_persistentWord (s : State) (w : Nat) : OnlyPersistent s (s.persistentWord w) := by
  unfold State.persistentWord
  split <;> exact rfl

theorem ceWords_persistentWord_same (s : State) (w : Nat) : (Tab.find (s.persistentWord w).svc.ceWords w).isSome = true := by
  unfold State.persistentWord
  split
  · next h => exact h
  · exact congrArg Option.isSome (Tab.find_set_same ..)

theorem ceWords_persistentWord_ne (s : State) {w v : Nat} (h : v ≠ w) :
    Tab.find (s.persistentWord w).svc.ceWords v = Tab.find s.svc.ceWords v := by
  unfold State.persistentWord
  split
  · rfl
  · exact Tab.find_set_ne _ _ h

theorem ceWords_persistentWord_isSome (s : State) (w v : Nat) (h : (Tab.find s.svc.ceWords v).isSome = true) :
    (Tab.find (s.persistentWord w).svc.ceWords v).isSome = true := by
  by_cases hv : v = w
  · rw [hv]
    exact ceWords_persistentWord_same s w
  · rw [ceWords_persistentWord_ne s hv]
    exact h

/-- The words of a list made persistent. -/
def State.persist (s : State) (ws : List Nat) : State := ws.foldl State.persistentWord s

section
variable (s : State) (ws : List Nat)

theorem onlyPersistent_persist : OnlyPersistent s (s.persist ws) :=
  foldl_rel (R := OnlyPersistent) (fun _ => rfl) OnlyPersistent.trans onlyPersistent_persistentWord ws s

theorem ceWords_persist_mem {w : Nat} (h : w ∈ ws) : (Tab.find (s.persist ws).svc.ceWords w).isSome = true :=
  foldl_reaches (P := fun u => (Tab.find u.svc.ceWords w).isSome = true) (Q := fun _ => True) (fun _ _ _ => trivial)
    (fun u v _ hu => ceWords_persistentWord_isSome u v w hu) (fun u _ => ceWords_persistentWord_same u w) h s trivial

theorem ceWords_persist_notMem {w : Nat} (h : w ∉ ws) : Tab.find (s.persist ws).svc.ceWords w = Tab.find s.svc.ceWords w := by
  unfold State.persist
  induction ws generalizing s with
  | nil => rfl
  | cons v ws ih =>
    rw [List.mem_cons, not_or] at h
    exact (ih _ h.2).trans (ceWords_persistentWord_ne s h.1)

theorem passes_persist : (s.persist ws).count 0x2C00 5 = s.count 0x2C00 5 := by
  refine foldl_leaves (fun u => u.count 0x2C00 5) (fun u w => ?_) ws s
  unfold State.persistentWord
  split
  · rfl
  · exact State.count_bumpBy_ne (i := 0x2C00) (n := 5) (j := 0x2C00) (m := 7) u 1 (by decide)

end

theorem onlyReplaces_wornCore (s : State) (c : Nat) : OnlyReplaces s (s.wornCore c) := by
  unfold State.wornCore
  split
  · exact rfl
  · split
    · exact rfl
    · have h := onlyReplaces_scheduleReplace s c 1
      dsimp only
      split
      · exact h.trans rfl
      · exact h

theorem onlyReplaces_wornCores (s : State) : OnlyReplaces s s.wornCores := by
  unfold State.wornCores
  exact foldl_rel (R := OnlyReplaces) (fun _ => rfl) OnlyReplaces.trans onlyReplaces_wornCore _ s

/-- The words of the passes that end that the passes before them knew too. -/
def State.again (s : State) : List Nat := (s.svc.ceNow.filter s.passEnds).filter (fun w => s.svc.ceLast.contains w)

theorem mem_again (s : State) (w : Nat) : w ∈ s.again ↔ (w ∈ s.svc.ceNow ∧ s.passEnds w = true) ∧ w ∈ s.svc.ceLast := by
  unfold State.again
  rw [List.mem_filter, List.mem_filter, List.contains_iff_mem]

/-- The passes that end counted, their persistent words and worn cores noted. -/
def State.passNoted (s : State) : State := ((s.bumpBy 0x2C00 5 (1 + boolNat (s.passEnds (2 ^ 32)))).persist s.again).wornCores

/-- The next passes begin after a state of the pass that ends. -/
def State.nextPass (s u : State) : State :=
  { u with svc := { u.svc with
      ceLast := s.svc.ceNow.filter s.passEnds ++ u.svc.ceLast.filter (fun w => !s.passEnds w)
      ceNow := u.svc.ceNow.filter (fun w => !s.passEnds w)
      scrubAt := max u.time.up (u.svc.scrubAt + 1000000000 * u.cfg 0x2C00 1)
      keepAt := if s.passEnds (2 ^ 32) then u.time.up else u.svc.keepAt } }

theorem scrubEnd_eq (s : State) : s.scrubEnd = if s.time.up < s.svc.scrubAt then s else s.nextPass s.passNoted := rfl

theorem bumpBy_frame (s : State) (i n v : Nat) : s.bumpBy i n v = { s with counters := (s.bumpBy i n v).counters } := rfl

theorem passNoted_leaves (s : State) : let t := s.passNoted
    t.count 0x2C00 5 = (s.bumpBy 0x2C00 5 (1 + boolNat (s.passEnds (2 ^ 32)))).count 0x2C00 5 ∧ t.svc.ceLast = s.svc.ceLast ∧ t.svc.ceNow = s.svc.ceNow ∧
    (∀ w, w ∈ s.again → (Tab.find t.svc.ceWords w).isSome = true) ∧ (∀ w, w ∉ s.again → Tab.find t.svc.ceWords w = Tab.find s.svc.ceWords w) ∧
    t.svc.scrubAt = s.svc.scrubAt ∧ t.time = s.time ∧ t.cfg 0x2C00 1 = s.cfg 0x2C00 1 ∧ t.mem = s.mem ∧ t.engines = s.engines := by
  have hb := bumpBy_frame s 0x2C00 5 (1 + boolNat (s.passEnds (2 ^ 32)))
  unfold State.passNoted
  generalize s.bumpBy 0x2C00 5 (1 + boolNat (s.passEnds (2 ^ 32))) = b at hb ⊢
  have hp := (onlyPersistent_persist b s.again).eq
  have hc := passes_persist b s.again
  have hin (w : Nat) := ceWords_persist_mem b s.again (w := w)
  have hout (w : Nat) := ceWords_persist_notMem b s.again (w := w)
  have hwords : b.svc.ceWords = s.svc.ceWords := (congrArg (fun x : State => x.svc.ceWords) hb :)
  generalize b.persist s.again = p at hp hc hin hout ⊢
  have hw := (onlyReplaces_wornCores p).eq
  generalize p.wornCores = t at hw ⊢
  have hin' : t.svc.ceWords = p.svc.ceWords := (congrArg (fun x : State => x.svc.ceWords) hw :)
  refine ⟨(congrArg (fun x : State => x.count 0x2C00 5) hw :).trans hc, ?_, ?_, fun w h => ?_, fun w h => ?_, ?_, ?_, ?_, ?_, ?_⟩
  · exact (congrArg (fun x : State => x.svc.ceLast) hw :).trans ((congrArg (fun x : State => x.svc.ceLast) hp :).trans (congrArg (fun x : State => x.svc.ceLast) hb :))
  · exact (congrArg (fun x : State => x.svc.ceNow) hw :).trans ((congrArg (fun x : State => x.svc.ceNow) hp :).trans (congrArg (fun x : State => x.svc.ceNow) hb :))
  · rw [hin']
    exact hin w h
  · rw [hin', hout w h, hwords]
  · exact (congrArg (fun x : State => x.svc.scrubAt) hw :).trans ((congrArg (fun x : State => x.svc.scrubAt) hp :).trans (congrArg (fun x : State => x.svc.scrubAt) hb :))
  · exact (congrArg State.time hw :).trans ((congrArg State.time hp :).trans (congrArg State.time hb :))
  · exact (congrArg (fun x : State => x.cfg 0x2C00 1) hw :).trans ((congrArg (fun x : State => x.cfg 0x2C00 1) hp :).trans (congrArg (fun x : State => x.cfg 0x2C00 1) hb :))
  · exact (congrArg State.mem hw :).trans ((congrArg State.mem hp :).trans (congrArg State.mem hb :))
  · exact (congrArg State.engines hw :).trans ((congrArg State.engines hp :).trans (congrArg State.engines hb :))

theorem nextPass_leaves (s u : State) (hlast : u.svc.ceLast = s.svc.ceLast) (hnow : u.svc.ceNow = s.svc.ceNow) (hat : u.svc.scrubAt = s.svc.scrubAt)
    (htime : u.time = s.time) (hcfg : u.cfg 0x2C00 1 = s.cfg 0x2C00 1) : let t := s.nextPass u
    (∀ w, w ∈ t.svc.ceLast ↔ if s.passEnds w then w ∈ s.svc.ceNow else w ∈ s.svc.ceLast) ∧
    (∀ w, w ∈ t.svc.ceNow ↔ s.passEnds w = false ∧ w ∈ s.svc.ceNow) ∧ t.svc.scrubAt = max s.time.up (s.svc.scrubAt + 1000000000 * s.cfg 0x2C00 1) := by
  refine ⟨fun w => ?_, fun w => ?_, ?_⟩
  · unfold State.nextPass
    rw [hlast]
    simp only [List.mem_append, List.mem_filter]
    cases s.passEnds w <;> simp
  · unfold State.nextPass
    rw [hnow]
    simp only [List.mem_filter]
    cases s.passEnds w <;> simp
  · unfold State.nextPass
    rw [hat, htime, hcfg]

theorem passEnds_iff (s : State) (w : Nat) :
    s.passEnds w = true ↔ ¬ (2 ^ 32 ≤ w ∧ w < 2 ^ 33) ∨ s.svc.keepAt + 1000000000 * s.cfg 0x2C00 2 ≤ s.time.up := by
  unfold State.passEnds
  rw [Bool.or_eq_true, Bool.or_eq_true, decide_eq_true_iff, decide_eq_true_iff, decide_eq_true_iff]
  omega

/-- What the end of a pass leaves. -/
theorem scrubEnd_leaves {s : State} (h : s.svc.scrubAt ≤ s.time.up) : let t := s.scrubEnd
    t.count 0x2C00 5 = (s.bumpBy 0x2C00 5 (1 + boolNat (s.passEnds (2 ^ 32)))).count 0x2C00 5 ∧
      (∀ w, w ∈ t.svc.ceLast ↔ if s.passEnds w then w ∈ s.svc.ceNow else w ∈ s.svc.ceLast) ∧
      (∀ w, w ∈ t.svc.ceNow ↔ s.passEnds w = false ∧ w ∈ s.svc.ceNow) ∧
      (∀ w, s.passEnds w = true → w ∈ s.svc.ceNow → w ∈ s.svc.ceLast → (Tab.find t.svc.ceWords w).isSome = true) ∧
      (∀ w, s.passEnds w = false ∨ w ∉ s.svc.ceNow ∨ w ∉ s.svc.ceLast → Tab.find t.svc.ceWords w = Tab.find s.svc.ceWords w) ∧
      t.svc.scrubAt = max s.time.up (s.svc.scrubAt + 1000000000 * s.cfg 0x2C00 1) ∧ t.mem = s.mem ∧ t.engines = s.engines := by
  obtain ⟨hcount, hlast, hnow, hin, hout, hat, htime, hcfg, hmem, heng⟩ := passNoted_leaves s
  obtain ⟨hl, hn, ha⟩ := nextPass_leaves s _ hlast hnow hat htime hcfg
  dsimp only
  rw [scrubEnd_eq, if_neg (not_lt.mpr h)]
  refine ⟨hcount, hl, hn, fun w he hw hw' => hin w ((mem_again s w).mpr ⟨⟨hw, he⟩, hw'⟩), fun w hw => hout w (fun hm => ?_), ha, hmem, heng⟩
  obtain ⟨⟨h1, h2⟩, h3⟩ := (mem_again s w).mp hm
  rcases hw with he | hw | hw
  · rw [h2] at he
    exact Bool.noConfusion he
  · exact hw h1
  · exact hw h3

/-! ## Uncorrectable errors of each place -/

section
variable {s : State} {a : Nat}

theorem uncorrectable_keep (h : 2 ^ 32 ≤ a) (h' : a < 2 ^ 33) : let t := s.scrub a .uncorrectable
    bit t.outs.faultCause 5 = true ∧ t.keep = (s.keepLast (odKey 0x2C00 8) s.svc.lastUe).keep.fallBack (Config.keepKey (a - 2 ^ 32)) ∧
      (∀ i v, 1 ≤ i → i ≤ 7 → Config.keepKey (a - 2 ^ 32) = odKey 0x2B01 (i + 1) → Tab.find s.keep.prevKeys i = some v →
        Tab.get KeySlot.reset t.keys i = v) ∧ t.svc.poison = s.svc.poison ∧ t.mem = s.mem ∧ t.cores = s.cores ∧
      (Config.keepKey (a - 2 ^ 32) < 2 ^ 34 → t.engines = s.engines) := by
  have hue : s.eccUe a = (s.noteUe a).keepUe a := (if_neg (not_lt.mpr h)).trans (if_pos h')
  have hf := noteUe_frame s a
  have hleaves := keepUe_leaves (s.noteUe a) a
  dsimp only at hleaves ⊢
  generalize Config.keepKey (a - 2 ^ 32) = key at hleaves ⊢
  obtain ⟨hcause, hkeep, hsvc, hmem, hcores, hkeys, heng⟩ := hleaves
  rw [scrub_uncorrectable (scrubs_keep h (by omega)), hue]
  have hk : (s.noteUe a).keep = (s.keepLast (odKey 0x2C00 8) s.svc.lastUe).keep := (congrArg State.keep hf :)
  rw [hk] at hkeep hkeys
  have hpoison := congrArg Service.poison hsvc
  rw [noteUe_poison] at hpoison
  exact ⟨hcause, hkeep, hkeys, hpoison, hmem.trans (congrArg State.mem hf :),
    hcores.trans (congrArg State.cores hf :), fun hk => (heng hk).trans (congrArg State.engines hf :)⟩

theorem uncorrectable_sum (h : 2 ^ 33 ≤ a) (h' : a < 2 ^ 34) : let t := s.scrub a .uncorrectable
    (a - 2 ^ 33) % 128 ∈ (t.eng ((a - 2 ^ 33) / 512 / 50) ((a - 2 ^ 33) / 512 % 50)).sumsBad ∧ t.mem = s.mem ∧ t.cores = s.cores := by
  have hue : s.eccUe a = (s.noteUe a).sumUe a :=
    (if_neg (show ¬ a < 2 ^ 32 by omega)).trans ((if_neg (not_lt.mpr h)).trans (if_pos h'))
  have hf := noteUe_frame s a
  obtain ⟨hbad, hmem, hcores⟩ := sumUe_leaves (s.noteUe a) a
  dsimp only
  rw [scrub_uncorrectable (scrubs_keep (by omega) h'), hue]
  exact ⟨hbad, hmem.trans (congrArg State.mem hf :), hcores.trans (congrArg State.cores hf :)⟩

theorem uncorrectable_flit (h : 2 ^ 34 ≤ a) (hf : s.flitAt a = true) : s.scrub a .uncorrectable = (s.noteUe a).flitUe a :=
  (scrub_uncorrectable (scrubs_flit h hf)).trans
    ((if_neg (show ¬ a < 2 ^ 32 by omega)).trans ((if_neg (show ¬ a < 2 ^ 33 by omega)).trans (if_neg (not_lt.mpr h))))

/-- A flit of an item on its way. -/
theorem uncorrectable_item (h : 2 ^ 34 ≤ a) (h' : a < 2 ^ 37) (hf : s.flitAt a = true) :
    s.scrub a .uncorrectable = { s.noteUe a with net := s.net.poisonFlit a } :=
  (uncorrectable_flit h hf).trans ((flitUe_item h').trans
    (congrArg (fun n : Net => { s.noteUe a with net := n.poisonFlit a }) (noteUe_leaves s a).2.1))

theorem core_noteUe (s : State) (a c : Nat) : (s.noteUe a).core c = s.core c := congrArg (Tab.get Core.reset · c) (noteUe_leaves s a).2.2.1

/-- A flit of an op. -/
theorem uncorrectable_op {o : Op} (h : 2 ^ 37 ≤ a) (hf : s.flitAt a = true) (ho : (s.core ((a - 2 ^ 37) / 128 / 64)).seq.ops[(a - 2 ^ 37) / 128 % 64]? = some o) :
    s.scrub a .uncorrectable = (s.noteUe a).opUe ((a - 2 ^ 37) / 128 / 64) (a % 128) o := by
  rw [uncorrectable_flit (by omega) hf]
  refine flitUe_op h ?_
  rw [core_noteUe]
  exact ho

/-- The op of a flit from 2^37 on. -/
theorem exists_op_of_flitAt (h : 2 ^ 37 ≤ a) (hf : s.flitAt a = true) :
    ∃ o, (s.core ((a - 2 ^ 37) / 128 / 64)).seq.ops[(a - 2 ^ 37) / 128 % 64]? = some o := by
  unfold State.flitAt at hf
  dsimp only at hf
  rw [if_neg (show ¬ a < 2 ^ 35 by omega), if_neg (show ¬ a < 2 ^ 36 by omega), if_pos h] at hf
  unfold State.flitOp at hf
  cases ho : (s.core ((a - 2 ^ 37) / 128 / 64)).seq.ops[(a - 2 ^ 37) / 128 % 64]? with
  | some o => exact ⟨o, rfl⟩
  | none =>
    dsimp only at hf
    rw [ho] at hf
    exact absurd hf Bool.false_ne_true

theorem uncorrectable_op_leaves {o : Op} (h : 2 ^ 37 ≤ a) (hf : s.flitAt a = true)
    (ho : (s.core ((a - 2 ^ 37) / 128 / 64)).seq.ops[(a - 2 ^ 37) / 128 % 64]? = some o) : let t := s.scrub a .uncorrectable
    let c := (a - 2 ^ 37) / 128 / 64
    t.count 0x2C00 4 = (s.bump 0x2C00 4).count 0x2C00 4 ∧ t.mem = s.mem ∧ t.engines = s.engines ∧
    (t.core c).seq.ops = (s.core c).seq.ops.map (fun y => if y.seq = o.seq then y.poisonFlit (a % 128) else y) ∧ (∀ x, x ≠ c → t.core x = s.core x) ∧
    t.net.decisions = s.net.decisions.map (fun d => if d.core = c ∧ d.op = o.seq then { d with value := Config.poisonedDecision s.draws } else d) := by
  dsimp only
  rw [uncorrectable_op h hf ho]
  generalize (a - 2 ^ 37) / 128 / 64 = c
  obtain ⟨hcounters, hmem, heng, hops, hcore, hdec, hpart, hsets⟩ := opUe_leaves (s.noteUe a) c (a % 128) o
  have hn := noteUe_frame s a
  rw [core_noteUe] at hops
  have hdraws : (s.noteUe a).draws = s.draws := (congrArg State.draws hn :)
  rw [hdraws, (noteUe_leaves s a).2.1] at hdec
  refine ⟨?_, hmem.trans (noteUe_leaves s a).2.2.2, heng.trans (noteUe_engines s a), hops, fun x hx => (hcore x hx).trans (core_noteUe ..), hdec⟩
  exact (State.count_congr 0x2C00 4 hpart (congrArg (fun x => x.active) hsets) hcounters).trans (State.count_noteUe ..)

theorem uncorrectable_item_leaves (h : 2 ^ 34 ≤ a) (h' : a < 2 ^ 37) (hf : s.flitAt a = true) : let t := s.scrub a .uncorrectable
    t.count 0x2C00 4 = (s.bump 0x2C00 4).count 0x2C00 4 ∧ t.mem = s.mem ∧ t.cores = s.cores ∧ t.engines = s.engines ∧ t.net = s.net.poisonFlit a := by
  dsimp only
  rw [uncorrectable_item h h' hf]
  exact ⟨State.count_noteUe s a 0x2C00 4, (noteUe_leaves s a).2.2.2, (noteUe_leaves s a).2.2.1, noteUe_engines s a, rfl⟩

end

/-- Settles O56: each finding by the place of the word, then the pass. -/
theorem scrubbingFindsErrors : Obligations.ScrubbingFindsErrors := by
  unfold Obligations.ScrubbingFindsErrors
  intro s a period
  have next {t u : State} (h : t = u) : (.next t : Out) = .next u := congrArg Host.Outcome.next h
  refine ⟨next scrub_clean, fun h hs f => next (scrub_nothing (.inl ⟨h, hs⟩) f), fun h hs => ⟨_, next rfl, ?_⟩,
    fun h hs => ⟨_, next rfl, uncorrectable_sram h hs⟩, fun h h' => ⟨_, next rfl, uncorrectable_keep h h'⟩,
    fun h h' => ⟨_, next rfl, uncorrectable_sum h h'⟩, fun h hf f => next (scrub_nothing (.inr ⟨h, hf⟩) f),
    fun h hf => ⟨_, next (correctable_flit (scrubs_flit h hf) h), rfl, rfl, rfl, rfl, rfl, rfl⟩, fun h hf => ⟨_, next rfl, ?_⟩,
    fun h h' => ⟨_, next rfl, ?_⟩, next rfl, fun h => next (if_pos h), passEnds_iff s, fun h => ⟨_, next rfl, scrubEnd_leaves h⟩⟩
  case refine_1 =>
    obtain ⟨hc, hw, hp, hm, hcores, heng, -⟩ := correctable_leaves (scrubs_sram h hs) (show a < 2 ^ 34 by omega)
    have hword : scrubWord a = a / 8 * 8 := if_pos (by omega)
    rw [hword] at hw
    exact ⟨hc, hw, hp, hm, hcores, heng⟩
  case refine_2 =>
    by_cases ha : a < 2 ^ 37
    · obtain ⟨hc, hm, hcores, heng, hnet⟩ := uncorrectable_item_leaves h ha hf
      refine ⟨hc, hm, fun _ => hcores, heng, fun m hl hat => ?_, fun u hl hl' hat => ?_, fun m hl hl' hat => ?_,
        fun o hl => absurd ha (not_lt.mpr hl)⟩
      · rw [hnet]
        exact poisonFlit_msgs hl hat
      · rw [hnet]
        exact poisonFlit_syncs hl hl' hat
      · rw [hnet]
        exact poisonFlit_frames hl hat
    · have hge := not_lt.mp ha
      obtain ⟨o, ho⟩ := exists_op_of_flitAt hge hf
      obtain ⟨hc, hm, heng, -⟩ := uncorrectable_op_leaves hge hf ho
      refine ⟨hc, hm, fun hl => absurd hl ha, heng, fun m hl => ?_, fun u _ hl => ?_, fun m _ hl => absurd hl ha, fun p hl hp => ?_⟩
      · omega
      · omega
      · obtain ⟨-, -, -, hops, hcore, hdec⟩ := uncorrectable_op_leaves hge hf hp
        exact ⟨hops, fun y f => ⟨rfl, rfl⟩, hcore, hdec⟩
  case refine_3 =>
    obtain ⟨hc, hw, -, hm, -, heng, hk⟩ := correctable_leaves (scrubs_keep h h') h'
    exact ⟨hc, hw, hm, hk, heng⟩

end Sys2Proof.Machine

end

section
/-! The measurement front end: clock monitors, channel faults, decimation, comparators, auxiliary conversions, frames and rings
(R232-R242). Settles O39. -/

namespace Sys2Proof.Machine

/-! ## Records on their way are never taken back -/

/-- The recorder's inbox is not shorter. -/
def InboxGrows (s t : State) : Prop := s.ash.inbox.length ≤ t.ash.inbox.length

theorem InboxGrows.refl (s : State) : InboxGrows s s := Nat.le_refl _
theorem InboxGrows.trans {s t u : State} (h : InboxGrows s t) (k : InboxGrows t u) : InboxGrows s u := Nat.le_trans h k
theorem InboxGrows.of_eq {s t : State} (h : t.ash.inbox = s.ash.inbox) : InboxGrows s t := Nat.le_of_eq (congrArg List.length h.symm)

theorem length_inbox_record (s : State) (src code : Nat) (l : List Nat) : (s.record src code l).ash.inbox.length = s.ash.inbox.length + 1 :=
  List.length_append

section
variable (s : State)

theorem inboxGrows_assertTrip (n cause : Nat) : InboxGrows s (s.assertTrip n cause) := by
  unfold State.assertTrip
  dsimp only
  generalize hu : s.modTrip n _ = u
  have hs : u.ash = s.ash := by rw [← hu]; rfl
  have hrings (v : State) (m : Nat) : InboxGrows v (v.ringTrigger m) := .of_eq (congrArg (fun x : State => x.ash.inbox) (onlyRings_ringTrigger v m).eq :)
  refine InboxGrows.trans ?_ (hrings _ _)
  unfold InboxGrows
  rw [length_inbox_record]
  exact Nat.le_succ_of_le (Nat.le_of_eq (congrArg (fun a : Ashpit => a.inbox.length) hs.symm))

theorem inboxGrows_mirrorTrip (n : Nat) (ev : Option Nat) : InboxGrows s (s.mirrorTrip n ev) := by
  unfold State.mirrorTrip
  dsimp only
  split
  · split
    · exact .refl s
    · exact inboxGrows_assertTrip ..
  · split
    · exact inboxGrows_assertTrip ..
    · split <;> exact .refl s

theorem inboxGrows_updateTrip (n : Nat) : InboxGrows s (s.updateTrip n) := by
  unfold State.updateTrip
  dsimp only
  refine InboxGrows.trans (t := s.modTrip n (fun t => { t with backstop := (s.backstopEvent n).isSome })) (.of_eq rfl) ?_
  generalize s.modTrip n (fun t => { t with backstop := (s.backstopEvent n).isSome }) = u
  split
  · exact .of_eq rfl
  · split
    · exact inboxGrows_mirrorTrip ..
    · split
      · exact inboxGrows_assertTrip ..
      · split
        · exact .of_eq rfl
        · exact .refl u

theorem inboxGrows_updateTrips : InboxGrows s s.updateTrips :=
  foldl_rel InboxGrows.refl InboxGrows.trans inboxGrows_updateTrip _ s

/-! ## What the trips leave of the front end -/

theorem OnlyTrips.chan {s t : State} (h : OnlyTrips s t) (c : Nat) : t.chan c = s.chan c := (congrArg (fun x : State => x.chan c) h.eq :)
theorem OnlyTrips.mclk {s t : State} (h : OnlyTrips s t) (p : Nat) : t.mclk p = s.mclk p := (congrArg (fun x : State => x.mclk p) h.eq :)
theorem OnlyTrips.cores {s t : State} (h : OnlyTrips s t) : t.cores = s.cores := (congrArg State.cores h.eq :)
theorem OnlyTrips.sets {s t : State} (h : OnlyTrips s t) : t.sets = s.sets := (congrArg State.sets h.eq :)
theorem OnlyTrips.part {s t : State} (h : OnlyTrips s t) : t.part = s.part := (congrArg State.part h.eq :)
theorem OnlyTrips.pwr {s t : State} (h : OnlyTrips s t) : t.pwr = s.pwr := (congrArg State.pwr h.eq :)

end

/-! ## Faults of a channel (R232, R233) -/

/-- A channel with a cause of a fault: [0] CLK, [1] STUCK, [2] MANCH. -/
def Channel.caused (k : Channel) (cause : Nat) : Channel :=
  { k with clk := k.clk || cause == 0, stuck := k.stuck || cause == 1, manch := k.manch || cause == 2, validWindows := 0, spoiled := true }

/-- The comparator's events at the onset of a fault, by FAULT_EVT. -/
def Channel.faultEvents (k : Channel) (evt : Nat) : Channel :=
  match evt with
  | 1 => { k with evHi := true, evLo := true }
  | 2 => { k with evHi := false, evLo := false }
  | _ => k

section
variable (s : State) (c cause : Nat)

/-- The onset counted and recorded. -/
def State.faultTold (s : State) (c : Nat) : State := (s.bump (chIdx c) 0x0E).record (chSource c) 0x0028 [(s.chan c).causes]

/-- The events at the onset. -/
def State.faultShown (s : State) (c : Nat) : State :=
  if s.cfg (chIdx c) 6 = 0 then s
  else match s.cfg (chIdx c) 0x0B with
    | 1 => s.modChan c (fun k => { k with evHi := true, evLo := true })
    | 2 => s.modChan c (fun k => { k with evHi := false, evLo := false })
    | _ => s

/-- The onset of a fault, before the trips follow it. -/
def State.faultOnset (s : State) (c cause : Nat) : State := ((s.modChan c (fun k => k.caused cause)).faultTold c).faultShown c

theorem chFault_eq : s.chFault c cause = if !s.chEnabled c then s
    else if (s.chan c).faulted then s.modChan c (fun k => k.caused cause)
    else (s.faultOnset c cause).updateTrips := rfl

section
variable {s c cause}

theorem chFault_off (he : s.chEnabled c = false) : s.chFault c cause = s := if_pos (by rw [he]; rfl)

theorem chFault_again (he : s.chEnabled c = true) (hf : (s.chan c).faulted = true) : s.chFault c cause = s.modChan c (fun k => k.caused cause) := by
  rw [chFault_eq, if_neg (by rw [he]; exact Bool.false_ne_true), if_pos hf]

theorem chFault_onset (he : s.chEnabled c = true) (hf : (s.chan c).faulted = false) : s.chFault c cause = (s.faultOnset c cause).updateTrips := by
  rw [chFault_eq, if_neg (by rw [he]; exact Bool.false_ne_true), if_neg (by rw [hf]; exact Bool.false_ne_true)]

end

/-- Only the front end's channels, the trips and what they tell differ. -/
def OnlyChans (s t : State) : Prop :=
  t = { s with meas := { s.meas with chans := t.meas.chans, rings := t.meas.rings }, outs := { s.outs with trips := t.outs.trips },
               counters := t.counters, ash := { s.ash with inbox := t.ash.inbox } }

theorem OnlyChans.eq {s t : State} (h : OnlyChans s t) :
  t = { s with meas := { s.meas with chans := t.meas.chans, rings := t.meas.rings }, outs := { s.outs with trips := t.outs.trips },
               counters := t.counters, ash := { s.ash with inbox := t.ash.inbox } } := h

theorem OnlyChans.refl (s : State) : OnlyChans s s := rfl

theorem OnlyChans.trans {s t u : State} (h : OnlyChans s t) (k : OnlyChans t u) : OnlyChans s u :=
  k.eq.trans (congrArg (fun x : State =>
    { x with meas := { x.meas with chans := u.meas.chans, rings := u.meas.rings }, outs := { x.outs with trips := u.outs.trips },
             counters := u.counters, ash := { x.ash with inbox := u.ash.inbox } }) h.eq :)

theorem OnlyChans.cores {s t : State} (h : OnlyChans s t) : t.cores = s.cores := (congrArg State.cores h.eq :)
theorem OnlyChans.mclks {s t : State} (h : OnlyChans s t) : t.meas.mclks = s.meas.mclks := (congrArg (fun x : State => x.meas.mclks) h.eq :)
theorem OnlyChans.cfg {s t : State} (h : OnlyChans s t) (i n : Nat) : t.cfg i n = s.cfg i n := (congrArg (fun x : State => x.cfg i n) h.eq :)
theorem OnlyChans.chEnabled {s t : State} (h : OnlyChans s t) (d : Nat) : t.chEnabled d = s.chEnabled d :=
  (congrArg (fun x : State => x.chEnabled d) h.eq :)

theorem OnlyTrips.onlyChans {s t : State} (h : OnlyTrips s t) : OnlyChans s t := (congrArg (OnlyChans s) h.eq).mpr rfl

theorem onlyChans_modChan (f : Channel → Channel) : OnlyChans s (s.modChan c f) := rfl
theorem onlyChans_faultTold : OnlyChans s (s.faultTold c) := rfl

theorem onlyChans_faultShown : OnlyChans s (s.faultShown c) := by
  unfold State.faultShown
  split
  · exact .refl s
  · split
    · exact onlyChans_modChan ..
    · exact onlyChans_modChan ..
    · exact .refl s

theorem onlyChans_faultOnset : OnlyChans s (s.faultOnset c cause) :=
  (onlyChans_modChan ..).trans ((onlyChans_faultTold ..).trans (onlyChans_faultShown ..))

theorem chan_faultShown_ne {x : Nat} (h : x ≠ c) : (s.faultShown c).chan x = s.chan x := by
  unfold State.faultShown
  split
  · rfl
  · split
    · exact State.chan_modChan_ne s _ h
    · exact State.chan_modChan_ne s _ h
    · rfl

theorem chan_faultShown_same : (s.faultShown c).chan c = if s.cfg (chIdx c) 6 = 0 then s.chan c else (s.chan c).faultEvents (s.cfg (chIdx c) 0x0B) := by
  unfold State.faultShown Channel.faultEvents
  split
  · rfl
  · split
    · exact State.chan_modChan_same ..
    · exact State.chan_modChan_same ..
    · rfl

theorem chan_faultTold (x : Nat) : (s.faultTold c).chan x = s.chan x := rfl

theorem chan_faultOnset_ne {x : Nat} (h : x ≠ c) : (s.faultOnset c cause).chan x = s.chan x := by
  unfold State.faultOnset
  rw [chan_faultShown_ne _ c h, chan_faultTold, State.chan_modChan_ne s _ h]

theorem chan_faultOnset_same : (s.faultOnset c cause).chan c =
    if s.cfg (chIdx c) 6 = 0 then (s.chan c).caused cause else ((s.chan c).caused cause).faultEvents (s.cfg (chIdx c) 0x0B) := by
  unfold State.faultOnset
  rw [chan_faultShown_same, chan_faultTold, State.chan_modChan_same, (onlyChans_faultTold ..).cfg, (onlyChans_faultTold ..).cfg]
  rfl

theorem inbox_faultShown : (s.faultShown c).ash.inbox = s.ash.inbox := by
  unfold State.faultShown
  split
  · rfl
  · split <;> rfl

theorem onlyChans_chFault : OnlyChans s (s.chFault c cause) := by
  rw [chFault_eq]
  split
  · exact .refl s
  · split
    · exact onlyChans_modChan ..
    · exact (onlyChans_faultOnset ..).trans (onlyTrips_updateTrips _).onlyChans

theorem chan_chFault_ne {x : Nat} (h : x ≠ c) : (s.chFault c cause).chan x = s.chan x := by
  rw [chFault_eq]
  split
  · rfl
  · split
    · exact State.chan_modChan_ne s _ h
    · exact ((onlyTrips_updateTrips _).chan x).trans (chan_faultOnset_ne s c cause h)

variable {s c cause}

/-- The channel at the onset of its fault. -/
theorem chan_chFault_onset (he : s.chEnabled c = true) (hf : (s.chan c).faulted = false) : (s.chFault c cause).chan c =
    if s.cfg (chIdx c) 6 = 0 then (s.chan c).caused cause else ((s.chan c).caused cause).faultEvents (s.cfg (chIdx c) 0x0B) := by
  rw [chFault_onset he hf]
  exact ((onlyTrips_updateTrips _).chan c).trans (chan_faultOnset_same ..)

theorem inbox_faultTold (s : State) (c : Nat) : (s.faultTold c).ash.inbox.length = s.ash.inbox.length + 1 := length_inbox_record ..

theorem inbox_faultOnset (s : State) (c cause : Nat) : (s.faultOnset c cause).ash.inbox.length = s.ash.inbox.length + 1 := by
  unfold State.faultOnset
  rw [inbox_faultShown, inbox_faultTold]
  rfl

theorem inbox_chFault_onset (he : s.chEnabled c = true) (hf : (s.chan c).faulted = false) :
    s.ash.inbox.length + 1 ≤ (s.chFault c cause).ash.inbox.length := by
  rw [chFault_onset he hf, ← inbox_faultOnset s c cause]
  exact inboxGrows_updateTrips _

theorem Channel.clk_faultEvents (k : Channel) (evt : Nat) : (k.faultEvents evt).clk = k.clk := by
  unfold Channel.faultEvents
  split <;> rfl
theorem Channel.stuck_faultEvents (k : Channel) (evt : Nat) : (k.faultEvents evt).stuck = k.stuck := by
  unfold Channel.faultEvents
  split <;> rfl
theorem Channel.last_faultEvents (k : Channel) (evt : Nat) : (k.faultEvents evt).last = k.last := by
  unfold Channel.faultEvents
  split <;> rfl

theorem clk_chFault (he : s.chEnabled c = true) : ((s.chFault c 0).chan c).clk = true := by
  by_cases hf : (s.chan c).faulted = true
  · rw [chFault_again he hf]
    exact (congrArg Channel.clk (State.chan_modChan_same s c (fun k => k.caused 0))).trans (Bool.or_true _)
  · rw [chan_chFault_onset he (Bool.eq_false_iff.mpr hf)]
    have hclk : ((s.chan c).caused 0).clk = true := Bool.or_true _
    split
    · exact hclk
    · exact (Channel.clk_faultEvents ..).trans hclk

theorem clk_chFault_keeps (h : (s.chan c).clk = true) : ((s.chFault c 0).chan c).clk = true := by
  by_cases he : s.chEnabled c = true
  · exact clk_chFault he
  · rw [chFault_off (Bool.eq_false_iff.mpr he)]
    exact h

/-- The onset of STUCK. -/
theorem channelFault_stuck (he : s.chEnabled c = true) (hf : (s.chan c).faulted = false) : let t := s.channelFault c 1
    (t.chan c).stuck = true ∧ (t.chan c).last = (s.chan c).last ∧ t.ash.inbox.length ≥ s.ash.inbox.length + 1 ∧ t.cores = s.cores ∧
      (s.cfg (chIdx c) 6 ≠ 0 → s.cfg (chIdx c) 0x0B = 1 → (t.chan c).evHi = true ∧ (t.chan c).evLo = true) ∧
      (s.cfg (chIdx c) 6 = 0 → (t.chan c).evHi = (s.chan c).evHi ∧ (t.chan c).evLo = (s.chan c).evLo) := by
  have ht : s.channelFault c 1 = s.chFault c 1 := rfl
  have hchan := chan_chFault_onset (cause := 1) he hf
  have hstuck : ((s.chan c).caused 1).stuck = true := Bool.or_true _
  dsimp only
  rw [ht]
  refine ⟨?_, ?_, inbox_chFault_onset he hf, (onlyChans_chFault s c 1).cores, fun h6 hb => ?_, fun h6 => ?_⟩
  · rw [hchan]
    split
    · exact hstuck
    · exact (Channel.stuck_faultEvents ..).trans hstuck
  · rw [hchan]
    split
    · rfl
    · exact Channel.last_faultEvents ..
  · rw [hchan, if_neg h6, hb]
    exact ⟨rfl, rfl⟩
  · rw [hchan, if_pos h6]
    exact ⟨rfl, rfl⟩

end

/-! ## Clock monitors (R232) -/

section
variable (s : State) (p : Nat)

/-- The channels on a pin spoiled. -/
def State.spoil (s : State) (p c : Nat) : State := if s.cfg (chIdx c) 2 = p then s.modChan c (fun k => { k with spoiled := true }) else s

/-- The channels on a pin faulted. -/
def State.clockFault (s : State) (p c : Nat) : State := if s.cfg (chIdx c) 2 = p then s.chFault c 0 else s

/-- The monitor of a pin after a window. -/
def State.monitored (s : State) (p : Nat) (bad : Bool) : State := { s with meas := { s.meas with mclks := Tab.set s.meas.mclks p ⟨bad⟩ } }

/-- The channels of a pin spoiled where its fault stood. -/
def State.spoiledFor (s : State) (p : Nat) (was : Bool) : State := if was then (List.range 96).foldl (fun s c => s.spoil p c) s else s

theorem mclkWindow_eq (n : Nat) : s.mclkWindow p n = if 8 ≤ p ∨ bit (s.cfg 0x2470 (p + 1)) 0 then s
    else if decide (n < 4) || decide (26 < n) then
      (List.range 96).foldl (fun s c => s.clockFault p c) ((s.monitored p (decide (n < 4) || decide (26 < n))).spoiledFor p (s.mclk p).fault)
    else (s.monitored p (decide (n < 4) || decide (26 < n))).spoiledFor p (s.mclk p).fault := rfl

theorem onlyChans_spoil (c : Nat) : OnlyChans s (s.spoil p c) := by
  unfold State.spoil
  split
  · exact onlyChans_modChan ..
  · exact .refl s

theorem onlyChans_clockFault (c : Nat) : OnlyChans s (s.clockFault p c) := by
  unfold State.clockFault
  split
  · exact onlyChans_chFault ..
  · exact .refl s

theorem chan_spoil_ne {c x : Nat} (h : x ≠ c) : (s.spoil p c).chan x = s.chan x := by
  unfold State.spoil
  split
  · exact State.chan_modChan_ne s _ h
  · rfl

theorem onlyChans_spoiledFor (was : Bool) : OnlyChans s (s.spoiledFor p was) := by
  unfold State.spoiledFor
  split
  · exact foldl_rel OnlyChans.refl OnlyChans.trans (fun u c => onlyChans_spoil u p c) _ s
  · exact .refl s

theorem spoiledFor_true : s.spoiledFor p true = (List.range 96).foldl (fun s c => s.spoil p c) s := if_pos rfl

theorem chan_monitored (bad : Bool) (c : Nat) : (s.monitored p bad).chan c = s.chan c := rfl

theorem mclk_monitored (bad : Bool) : (s.monitored p bad).mclk p = ⟨bad⟩ := Tab.get_set_same ..

variable {s p}

/-- The channel of a pin in fault after the run over the channels. -/
theorem chan_spoil_foldl {c : Nat} (hc : c < 96) (hp : s.cfg (chIdx c) 2 = p) :
    ((List.range 96).foldl (fun s c => s.spoil p c) s).chan c = { s.chan c with spoiled := true } := by
  obtain ⟨u, hu, hshow, hend⟩ := foldl_at (n := c) (fun s : State => s.chan c) OnlyChans.refl OnlyChans.trans (fun s c => onlyChans_spoil s p c)
    (fun s x hx => chan_spoil_ne s p (Ne.symm hx)) List.nodup_range (List.mem_range.mpr hc) s
  refine hend.trans ?_
  unfold State.spoil
  rw [if_pos ((hu.cfg _ _).trans hp), State.chan_modChan_same, hshow]

theorem chan_spoil_other {c : Nat} (hp : s.cfg (chIdx c) 2 ≠ p) : ((List.range 96).foldl (fun s c => s.spoil p c) s).chan c = s.chan c := by
  refine (foldl_keeps (Q := fun u => u.cfg (chIdx c) 2 ≠ p ∧ u.chan c = s.chan c) (fun u x ⟨hq, hu⟩ => ⟨?_, ?_⟩) _ s ⟨hp, rfl⟩).2
  · rw [(onlyChans_spoil u p x).cfg]
    exact hq
  · by_cases hx : c = x
    · subst hx
      unfold State.spoil
      rw [if_neg hq]
      exact hu
    · exact (chan_spoil_ne u p hx).trans hu

theorem mclkWindow_good {n : Nat} (hp : p < 8) (hin : bit (s.cfg 0x2470 (p + 1)) 0 = false) (h : 4 ≤ n) (h' : n ≤ 26) :
    s.mclkWindow p n = (s.monitored p false).spoiledFor p (s.mclk p).fault := by
  have hbad : (decide (n < 4) || decide (26 < n)) = false := by simp; omega
  rw [mclkWindow_eq, if_neg (by rw [hin]; simp; omega), hbad]
  rfl

theorem mclkWindow_bad {n : Nat} (hp : p < 8) (hin : bit (s.cfg 0x2470 (p + 1)) 0 = false) (h : n < 4 ∨ 26 < n) :
    s.mclkWindow p n = (List.range 96).foldl (fun s c => s.clockFault p c) ((s.monitored p true).spoiledFor p (s.mclk p).fault) := by
  have hbad : (decide (n < 4) || decide (26 < n)) = true := by simpa using h
  rw [mclkWindow_eq, if_neg (by rw [hin]; simp; omega), hbad]
  rfl

theorem good_window_leaves {n : Nat} (hp : p < 8) (hin : bit (s.cfg 0x2470 (p + 1)) 0 = false) (h : 4 ≤ n) (h' : n ≤ 26) (c : Nat) :
    let t := s.mclkWindow p n
    t.mclk p = ⟨false⟩ ∧ ((s.mclk p).fault = true → c < 96 → s.cfg (chIdx c) 2 = p → t.chan c = { s.chan c with spoiled := true }) ∧
      (s.cfg (chIdx c) 2 ≠ p → t.chan c = s.chan c) ∧ t.cores = s.cores := by
  have hframe := onlyChans_spoiledFor (s.monitored p false) p (s.mclk p).fault
  dsimp only
  rw [mclkWindow_good hp hin h h']
  refine ⟨(congrArg (fun l => Tab.get Mclk.reset l p) hframe.mclks).trans (mclk_monitored ..), fun hw hc hpin => ?_, fun hpin => ?_, hframe.cores⟩
  · have hcfg : (s.monitored p false).cfg (chIdx c) 2 = p := hpin
    rw [hw, spoiledFor_true, chan_spoil_foldl hc hcfg, chan_monitored]
  · unfold State.spoiledFor
    split
    · have hcfg : (s.monitored p false).cfg (chIdx c) 2 ≠ p := hpin
      rw [chan_spoil_other hcfg, chan_monitored]
    · exact chan_monitored ..

theorem bad_window_leaves {n c : Nat} (hp : p < 8) (hin : bit (s.cfg 0x2470 (p + 1)) 0 = false) (h : n < 4 ∨ 26 < n) (hc : c < 96)
    (hpin : s.cfg (chIdx c) 2 = p) (he : s.chEnabled c = true) : let t := s.mclkWindow p n
    t.mclk p = ⟨true⟩ ∧ (t.chan c).clk = true ∧ t.cores = s.cores := by
  have hframe := onlyChans_spoiledFor (s.monitored p true) p (s.mclk p).fault
  dsimp only
  rw [mclkWindow_bad hp hin h]
  have hpin' : ((s.monitored p true).spoiledFor p (s.mclk p).fault).cfg (chIdx c) 2 = p := (hframe.cfg _ _).trans hpin
  have he' : ((s.monitored p true).spoiledFor p (s.mclk p).fault).chEnabled c = true := (hframe.chEnabled _).trans he
  have hrun (u : State) : OnlyChans u ((List.range 96).foldl (fun s c => s.clockFault p c) u) :=
    foldl_rel OnlyChans.refl OnlyChans.trans (fun u c => onlyChans_clockFault u p c) _ u
  have hmclks : ((s.monitored p true).spoiledFor p (s.mclk p).fault).meas.mclks = (s.monitored p true).meas.mclks := hframe.mclks
  have hcores : ((s.monitored p true).spoiledFor p (s.mclk p).fault).cores = s.cores := hframe.cores
  generalize (s.monitored p true).spoiledFor p (s.mclk p).fault = v at hpin' he' hmclks hcores ⊢
  refine ⟨(congrArg (fun l => Tab.get Mclk.reset l p) ((hrun v).mclks.trans hmclks)).trans (mclk_monitored s p true), ?_, (hrun v).cores.trans hcores⟩
  refine foldl_reaches (P := fun u => (u.chan c).clk = true) (Q := fun u => u.cfg (chIdx c) 2 = p ∧ u.chEnabled c = true)
    (fun u x ⟨hq, hq'⟩ => ⟨?_, ?_⟩) (fun u x _ hu => ?_) (fun u ⟨hq, hq'⟩ => ?_) (List.mem_range.mpr hc) _ ⟨hpin', he'⟩
  · rw [(onlyChans_clockFault u p x).cfg]
    exact hq
  · rw [(onlyChans_clockFault u p x).chEnabled]
    exact hq'
  · unfold State.clockFault
    split
    · by_cases hx : c = x
      · subst hx
        exact clk_chFault_keeps hu
      · rw [chan_chFault_ne u x 0 hx]
        exact hu
    · exact hu
  · unfold State.clockFault
    rw [if_pos hq]
    exact clk_chFault hq'

/-! ## Windows that restart (R235, R239) -/

/-- A channel whose window restarts. -/
def State.restartOne (s : State) (now : Nat) (on : Nat × Nat → Bool) (c : Nat) : State :=
  if s.cfg (0x2400 + c) 1 ≠ 0 ∧ on (s.chWindow c) then s.modChan c (fun k => k.restart now) else s

theorem restartWindows_eq (on : Nat × Nat → Bool) : s.restartWindows on = (List.range 96).foldl (fun u c => u.restartOne s.time.up on c) s := rfl

theorem onlyChans_restartOne (u : State) (now : Nat) (on : Nat × Nat → Bool) (c : Nat) : OnlyChans u (u.restartOne now on c) := by
  unfold State.restartOne
  split
  · exact onlyChans_modChan ..
  · exact .refl u

theorem chan_restartWindows {on : Nat × Nat → Bool} {c : Nat} (hc : c < 96) (h1 : s.cfg (chIdx c) 1 ≠ 0)
    (hon : on (s.cfg (chIdx c) 2, s.cfg (chIdx c) 4) = true) : (s.restartWindows on).chan c = (s.chan c).restart s.time.up := by
  rw [restartWindows_eq]
  obtain ⟨u, hu, hshow, hend⟩ := foldl_at (n := c) (fun s : State => s.chan c) OnlyChans.refl OnlyChans.trans
    (fun u c => onlyChans_restartOne u s.time.up on c)
    (fun u x hx => by
      unfold State.restartOne
      split
      · exact State.chan_modChan_ne u _ (Ne.symm hx)
      · rfl) List.nodup_range (List.mem_range.mpr hc) s
  refine hend.trans ?_
  have h1' : u.cfg (0x2400 + c) 1 ≠ 0 := (hu.cfg _ _).trans_ne h1
  have hon' : on (u.chWindow c) = true := by
    unfold State.chWindow
    rw [hu.cfg, hu.cfg]
    exact hon
  unfold State.restartOne
  rw [if_pos ⟨h1', hon'⟩, State.chan_modChan_same, hshow]

end

end Sys2Proof.Machine

end

section
/-! Decimation, comparators, auxiliary conversions, frames and rings (R234-R242). Settles O39. -/

namespace Sys2Proof.Machine

/-! ## Decimation (R234) -/

section
variable (s : State) (c : Nat) (bits : List Bool)

/-- The result of the window that ends. -/
def State.windowResult (s : State) (c : Nat) (bits : List Bool) : Int :=
  decimate (s.cfg (chIdx c) 4) (s.cfg (chIdx c) 5) (s.chTrim c) (windowBits (((s.chan c).windows + 1) * s.cfg (chIdx c) 4) bits)

/-- The valid windows since the fault's cause has gone. -/
def State.validAfter (s : State) (c : Nat) (bits : List Bool) : Nat :=
  if (s.chan c).faulted && s.windowValid c bits then (s.chan c).validWindows + 1 else 0

/-- The result is substituted in frames. -/
def State.substitutes (s : State) (c : Nat) (bits : List Bool) : Bool := (s.chan c).faulted && decide (s.validAfter c bits < 3)

/-- The result as frames take it. -/
def State.resultSample (s : State) (c : Nat) (bits : List Bool) : Sample :=
  ⟨if s.substitutes c bits then toSigned 16 (s.cfg (chIdx c) 0x0C) else s.windowResult c bits, s.time.gtc, s.substitutes c bits⟩

/-- A channel after the end of its window. -/
def State.resulted (s : State) (c : Nat) (bits : List Bool) (k : Channel) : Channel :=
  { k with last := s.windowResult c bits, validWindows := s.validAfter c bits, skip := k.skip - 1, winAt := s.nextWindow c, windows := k.windows + 1,
           winBits := 0, spoiled := false,
           lastBit := ((s.chan c).runOver (s.cfg (chIdx c) 4) bits).1, run := ((s.chan c).runOver (s.cfg (chIdx c) 4) bits).2.1,
           fresh := if k.skip = 0 ∧ (List.range 16).any (fun g => (s.fgChans g).contains c) then k.fresh ++ [s.resultSample c bits] else k.fresh }

theorem decimated_eq : s.decimated c bits =
    if !s.chEnabled c || decide (s.windowDone c < s.cfg (chIdx c) 4) then s else s.modChan c (s.resulted c bits) := rfl

variable {s c bits}

theorem decimated_early (h : ¬ (s.chEnabled c = true ∧ s.cfg (chIdx c) 4 ≤ s.windowDone c)) : s.decimated c bits = s := by
  rw [decimated_eq]
  refine if_pos ?_
  rw [not_and_or, Bool.not_eq_true, not_le] at h
  simpa using h

theorem decimated_ends (he : s.chEnabled c = true) (h : s.cfg (chIdx c) 4 ≤ s.windowDone c) : s.decimated c bits = s.modChan c (s.resulted c bits) := by
  rw [decimated_eq]
  refine if_neg ?_
  rw [he]
  simpa using h

theorem validAfter_eq : s.validAfter c bits = if (s.chan c).faulted = true ∧ s.windowValid c bits = true then (s.chan c).validWindows + 1 else 0 := by
  unfold State.validAfter
  simp only [Bool.and_eq_true]

theorem substitutes_iff : s.substitutes c bits = true ↔ (s.chan c).faulted = true ∧ s.validAfter c bits < 3 := by
  unfold State.substitutes
  rw [Bool.and_eq_true, decide_eq_true_iff]

theorem resulted_skipped (k : Channel) (h : 0 < k.skip) : (s.resulted c bits k).fresh = k.fresh := if_neg fun hk => h.ne' hk.1

theorem resulted_fresh (k : Channel) (h : k.skip = 0) (hu : (List.range 16).any (fun g => (s.fgChans g).contains c) = true) :
    (s.resulted c bits k).fresh = k.fresh ++ [s.resultSample c bits] := if_pos ⟨h, hu⟩

theorem resultSample_value : (s.resultSample c bits).value = if s.substitutes c bits then toSigned 16 (s.cfg (chIdx c) 0x0C) else s.windowResult c bits := rfl

theorem windowValid_of {h : s.windowValid c bits = true} :
    (s.mclk (s.cfg (chIdx c) 2)).fault = false ∧ (s.chan c).spoiled = false ∧ ((s.chan c).runOver (s.cfg (chIdx c) 4) bits).2.2 = false := by
  unfold State.windowValid at h
  simp only [Bool.and_eq_true, Bool.not_eq_true'] at h
  exact ⟨h.1.1, h.1.2, h.2⟩

theorem decimate_range (r shift trim : Nat) (bits : List Bool) : -32768 ≤ decimate r shift trim bits ∧ decimate r shift trim bits ≤ 32767 := by
  unfold decimate sat16 clampInt
  omega

/-! ## The comparator (R236) -/

/-- The events of a channel. -/
def Channel.withEvents (k : Channel) (ev : Bool × Bool) : Channel := { k with evHi := ev.1, evLo := ev.2 }

/-- An onset told, where the event has come up. -/
def State.onsetIf (s : State) (c e : Nat) (cmp : Int) (up : Bool) : State := if up then s.eventOnset c e cmp else s

/-- The events after a decision over some bits. -/
def State.comparedEvents (s : State) (c : Nat) (bits : List Bool) : Bool × Bool :=
  eventsAfter (s.chan c) (comparatorValue (s.cfg (chIdx c) 7) (s.chTrim c) bits) (toSigned 16 (s.cfg (chIdx c) 8)) (toSigned 16 (s.cfg (chIdx c) 9))
    (s.cfg (chIdx c) 0x0A)

/-- The module after a decision, before the trips follow it. -/
def State.decisionTold (s : State) (c : Nat) (cmp : Int) (ev : Bool × Bool) : State :=
  ((s.modChan c (fun k => k.withEvents ev)).onsetIf c (2 * c) cmp (ev.1 && !(s.chan c).evHi)).onsetIf c (2 * c + 1) cmp (ev.2 && !(s.chan c).evLo)

theorem comparator_eq : s.comparator c bits =
    if s.cfg (chIdx c) 6 = 0 then (s.modChan c (fun k => k.withEvents (false, false))).updateTrips
    else if !s.chEnabled c || (s.chan c).faulted || decide (bits.length < 2 * s.cfg (chIdx c) 7 - 1) || decide (s.historyDone c < 2 * s.cfg (chIdx c) 7 - 1)
    then s
    else (s.decisionTold c (comparatorValue (s.cfg (chIdx c) 7) (s.chTrim c) bits) (s.comparedEvents c bits)).updateTrips := rfl

theorem chan_onsetIf (s : State) (c e : Nat) (cmp : Int) (up : Bool) (x : Nat) : (s.onsetIf c e cmp up).chan x = s.chan x := by
  unfold State.onsetIf
  split <;> rfl
theorem cores_onsetIf (s : State) (c e : Nat) (cmp : Int) (up : Bool) : (s.onsetIf c e cmp up).cores = s.cores := by
  unfold State.onsetIf
  split <;> rfl

theorem comparator_off (h : s.cfg (chIdx c) 6 = 0) : ((s.comparator c bits).chan c).evHi = false ∧ ((s.comparator c bits).chan c).evLo = false := by
  rw [comparator_eq, if_pos h, (onlyTrips_updateTrips _).chan, State.chan_modChan_same]
  exact ⟨rfl, rfl⟩

theorem comparator_idle (h : s.cfg (chIdx c) 6 ≠ 0) (hi : s.chEnabled c = false ∨ (s.chan c).faulted = true ∨ bits.length < 2 * s.cfg (chIdx c) 7 - 1 ∨
    s.historyDone c < 2 * s.cfg (chIdx c) 7 - 1) : s.comparator c bits = s := by
  rw [comparator_eq, if_neg h]
  refine if_pos ?_
  simpa [or_assoc] using hi

theorem comparator_decides (h : s.cfg (chIdx c) 6 ≠ 0) (he : s.chEnabled c = true) (hf : (s.chan c).faulted = false)
    (hb : 2 * s.cfg (chIdx c) 7 - 1 ≤ bits.length) (hh : 2 * s.cfg (chIdx c) 7 - 1 ≤ s.historyDone c) : let t := s.comparator c bits
    (t.chan c).evHi = (s.comparedEvents c bits).1 ∧ (t.chan c).evLo = (s.comparedEvents c bits).2 ∧ (t.chan c).last = (s.chan c).last ∧ t.cores = s.cores := by
  have hgo : ¬ ((!s.chEnabled c || (s.chan c).faulted || decide (bits.length < 2 * s.cfg (chIdx c) 7 - 1) ||
      decide (s.historyDone c < 2 * s.cfg (chIdx c) 7 - 1)) = true) := by
    rw [he, hf]
    simp only [Bool.not_true, Bool.false_or, Bool.or_eq_true, decide_eq_true_iff, not_or, not_lt]
    exact ⟨hb, hh⟩
  dsimp only
  rw [comparator_eq, if_neg h, if_neg hgo, (onlyTrips_updateTrips _).chan, (onlyTrips_updateTrips _).cores]
  unfold State.decisionTold
  rw [chan_onsetIf, chan_onsetIf, cores_onsetIf, cores_onsetIf, State.chan_modChan_same]
  exact ⟨rfl, rfl, rfl, rfl⟩

end

/-! ## Auxiliary inputs (R237) -/

section
variable {s : State} {a code : Nat}

theorem auxConversion_idle (h : s.convNext (a / 4) ≠ some a ∨ s.convReady (a / 4) = false ∨ s.clocked 10 = false) : s.auxConversion a code = s := by
  refine if_pos ?_
  rw [Bool.not_eq_true', Bool.not_eq_true']
  exact h

/-- An input that takes a result of its own. -/
def Aux.converted (k : Aux) (code : Nat) (v : Sample) (used : Bool) : Aux :=
  { k with last := code, cycles := k.cycles - 1, fresh := if used then k.fresh ++ [v] else k.fresh }

theorem auxConversion_ends (hn : s.convNext (a / 4) = some a) (hr : s.convReady (a / 4) = true) (hc : s.clocked 10 = true) : s.auxConversion a code =
    ({ s with meas := { s.meas with convs := Tab.set s.meas.convs (a / 4) ⟨some a, some s.time.up⟩ } }).modAux a (fun k =>
      k.converted (s.auxInput a code) ⟨auxValue (s.auxTrim a) (s.auxInput a code), s.time.gtc, false⟩
        ((List.range 16).any (fun g => (s.fgAux g).contains a))) := by
  refine if_neg ?_
  rw [hn, hr, hc]
  simp

theorem convNext_on (h : s.convNext (a / 4) = some a) : s.cfg (0x2460 + a) 1 = 1 ∧ (bit (s.cfg 0x2470 0x0A) 0 = true → (s.aux a).cycles ≠ 0) := by
  have hmem : a ∈ ((List.range 4).map (· + 4 * (a / 4))).filter (fun a => s.cfg (0x2460 + a) 1 == 1 && (!bit (s.cfg 0x2470 0x0A) 0 || (s.aux a).cycles != 0)) := by
    unfold State.convNext at h
    dsimp only at h
    split at h
    · rcases Option.or_eq_some_iff.mp h with hf | ⟨-, hf⟩
      · exact List.mem_of_find?_eq_some hf
      · exact List.mem_of_mem_head? hf
    · exact List.mem_of_mem_head? h
  obtain ⟨-, hon⟩ := List.mem_filter.mp hmem
  rw [Bool.and_eq_true, beq_iff_eq, Bool.or_eq_true, Bool.not_eq_true', bne_iff_ne] at hon
  exact ⟨hon.1, fun hm => hon.2.resolve_left (by rw [hm]; exact Bool.noConfusion)⟩

theorem convReady_iff (k : Nat) : s.convReady k = true ↔ ∀ t, (s.conv k).since = some t → t + 500 ≤ s.time.up := by
  unfold State.convReady
  cases (s.conv k).since with
  | none => simp
  | some t => simp

theorem auxInput_land (h : ∀ ch, ch < 16 → s.clocked 12 = false ∨ s.cfg (dacIdx ch) 0x0E ≠ a) : s.auxInput a code = code % 65536 := by
  have hnone : s.injector a = none := by
    refine List.find?_eq_none.mpr fun ch hch => ?_
    rw [Bool.and_eq_true, beq_iff_eq, not_and_or, Bool.not_eq_true]
    exact h ch (List.mem_range.mp hch)
  unfold State.auxInput
  rw [hnone]

end

/-! ## Frames (R239-R242) -/

section
variable {s : State} {g : Nat}

theorem lt_of_mem_fgChans {c : Nat} (h : c ∈ s.fgChans g) : c < 96 := List.mem_range.mp (List.mem_filter.mp h).1
theorem lt_of_mem_fgAux {a : Nat} (h : a ∈ s.fgAux g) : a < 16 := List.mem_range.mp (List.mem_filter.mp h).1
theorem nodup_fgChans : (s.fgChans g).Nodup := List.nodup_range.filter _

theorem fgSource_range (s : State) (g : Nat) : 0x100 ≤ s.fgSource g ∧ s.fgSource g < 0x200 := by
  unfold State.fgSource
  split
  · next c l hl =>
    have hc := lt_of_mem_fgChans (hl ▸ List.mem_cons_self : c ∈ s.fgChans g)
    omega
  · split
    · next a l hl =>
      have ha := lt_of_mem_fgAux (hl ▸ List.mem_cons_self : a ∈ s.fgAux g)
      omega
    · omega

/-- What no frame on its way changes. -/
def State.front (s : State) : Tab Channel × Tab Group × Tab Core × Tab Engine := (s.meas.chans, s.meas.groups, s.cores, s.engines)

theorem front_bump (s : State) (i n : Nat) : (s.bump i n).front = s.front := rfl

theorem front_ringWrite (s : State) (r : Nat) (e : List Byte) : (s.ringWrite r e).front = s.front := by
  unfold State.ringWrite
  dsimp only
  split
  · rfl
  · split
    · rfl
    · split
      · split <;> rfl
      · rfl

theorem OnlyLines.front {s t : State} (h : OnlyLines s t) : t.front = s.front := (congrArg State.front h.eq :)

theorem front_frameTo (s : State) (cs : List Nat) (g w stamp : Nat) (bytes : List Byte) : (s.frameTo cs g w stamp bytes).front = s.front := rfl

theorem front_frameDie (s : State) (d : Nat) (cs : List Nat) (g w stamp seq : Nat) (bytes : List Byte) :
    (s.frameDie d cs g w stamp seq bytes).front = s.front := by
  unfold State.frameDie
  dsimp only
  split
  · rfl
  · split <;> rfl

theorem front_frameDest (s : State) (dest g stamp seq : Nat) (bytes : List Byte) : (s.frameDest dest g stamp seq bytes).front = s.front := by
  unfold State.frameDest
  dsimp only
  split
  · rfl
  · split
    · rfl
    · exact foldl_leaves State.front (fun u d => front_frameDie ..) _ s

theorem front_frameOut (s : State) (g stamp seq : Nat) (bytes : List Byte) (sentinel compute : Bool) :
    (s.frameOut g stamp seq bytes sentinel compute).front = s.front := by
  unfold State.frameOut
  refine foldl_leaves State.front (fun u i => ?_) _ s
  dsimp only
  split
  · split
    · exact front_frameDest ..
    · rfl
  · split
    · exact front_frameDest ..
    · rfl

/-- The results a frame takes used up. -/
def Channel.used (d : Nat) (k : Channel) : Channel := { k with fresh := k.fresh.drop d }
def Aux.used (d : Nat) (k : Aux) : Aux := { k with fresh := k.fresh.drop d }
/-- A group that has formed a frame. -/
def Group.formed (k : Group) : Group := { k with frames := (k.frames + 1) % 2 ^ 64, opened := false }

/-- The channels' results used up. -/
def State.chansUsed (s : State) (g d : Nat) : State := (s.fgChans g).foldl (fun u c => u.modChan c (Channel.used d)) s
/-- The auxiliary inputs' results used up. -/
def State.auxUsed (s : State) (g d : Nat) : State := (s.fgAux g).foldl (fun u a => u.modAux a (Aux.used d)) s
/-- The members' results used up. -/
def State.membersUsed (s : State) (g : Nat) : State := (s.chansUsed g (s.cfg (fgIdx g) 5)).auxUsed g (s.cfg (fgIdx g) 5)

/-- The frame's entry in the ring of its group. -/
def State.frameRung (s : State) (g : Nat) (e : List Byte) : State :=
  if s.cfg (fgIdx g) 0x0C < 16 then s.ringWrite (s.cfg (fgIdx g) 0x0C) e else s

/-- The frame to the standby module, where its group is mirrored. -/
def State.frameMirrored (s : State) (g stamp seq : Nat) (bytes : List Byte) : State :=
  if s.mirror.state = 1 ∧ s.mirrored g then s.sendItem (mirrorPort s) ⟨mirrorFrames g stamp seq bytes, none, none⟩ else s

/-- The frame to its destinations. -/
def State.frameSent (s : State) (g stamp seq : Nat) (bytes : List Byte) : State :=
  s.frameOut g stamp seq bytes true (!(s.mirror.state == 2 && s.mirrored g))

/-- The lines of a group's frame. -/
def State.frameLines (s : State) (g : Nat) : List Byte :=
  padLines ((List.range (s.cfg (fgIdx g) 5)).flatMap (fun j =>
    (s.fgSamples g).flatMap (fun m => frameElem (bit (s.cfg (fgIdx g) 6) 0) ((m.2.getD j ⟨0, 0, false⟩).value))))

/-- The stamp of a group's frame. -/
def State.frameStamp (s : State) (g : Nat) : Nat :=
  (s.fgSamples g).foldl (fun a m => max a ((m.2.getD (s.cfg (fgIdx g) 5 - 1) ⟨0, 0, false⟩).stamp)) 0

/-- A group's frame with its status line. -/
def State.frameBytes (s : State) (g : Nat) : List Byte :=
  if s.fgStatus g then s.frameLines g ++ statusLine (s.frameStamp g) ((s.fg g).frames % 2 ^ 32)
    ((s.fgSamples g).foldl (fun a m => setBit a m.1 (m.2.any (·.faulted))) 0)
  else s.frameLines g

/-- The frame as a ring keeps it. -/
def State.frameEntry (s : State) (g : Nat) : List Byte :=
  toLE 8 (s.frameStamp g) ++ toLE 4 ((s.fg g).frames % 2 ^ 32) ++ toLE 1 g ++ toLE 1 ((s.frameLines g).length / 64) ++ toLE 2 0 ++ s.frameLines g

theorem front_frameRung (s : State) (g : Nat) (e : List Byte) : (s.frameRung g e).front = s.front := by
  unfold State.frameRung
  split
  · exact front_ringWrite ..
  · rfl

theorem front_frameMirrored (s : State) (g stamp seq : Nat) (bytes : List Byte) : (s.frameMirrored g stamp seq bytes).front = s.front := by
  unfold State.frameMirrored
  split
  · exact (onlyLines_sendItem ..).front
  · rfl

/-- The group may not form a frame now. -/
def State.frameWaits (s : State) (g : Nat) : Prop :=
  (s.fg g).state ≠ 1 ∨ (s.fgSamples g).any (fun m => decide (m.2.length < s.cfg (fgIdx g) 5)) ∨ (bit (s.cfg (fgIdx g) 7) 0 ∧ !(s.fg g).opened)

theorem frameForm_waits (h : s.frameWaits g) : s.frameForm g = s := if_pos h

theorem frameForm_forms (h : ¬ s.frameWaits g) : s.frameForm g = ((((s.membersUsed g).modFg g Group.formed).frameRung g (s.frameEntry g)).frameMirrored g
    (s.frameStamp g) ((s.fg g).frames % 2 ^ 32) (s.frameBytes g)).frameSent g (s.frameStamp g) ((s.fg g).frames % 2 ^ 32) (s.frameBytes g) := by
  exact if_neg h

/-- Channels that use their results up. -/
theorem chan_foldl_used (l : List Nat) (hl : l.Nodup) (f : Channel → Channel) (s : State) (c : Nat) :
    (l.foldl (fun u c => u.modChan c f) s).chan c = if c ∈ l then f (s.chan c) else s.chan c := by
  induction l generalizing s with
  | nil => rfl
  | cons d l ih =>
    obtain ⟨hd, hl⟩ := List.nodup_cons.mp hl
    rw [List.foldl_cons, ih hl]
    by_cases hc : c = d
    · subst hc
      rw [if_neg hd, if_pos List.mem_cons_self, State.chan_modChan_same]
    · simp only [State.chan_modChan_ne s f hc, List.mem_cons, hc, false_or]

theorem auxUsed_leaves {A : Type} (part : State → A) (hpart : ∀ u a f, part (State.modAux u a f) = part u) (s : State) (g d : Nat) :
    part (s.auxUsed g d) = part s := foldl_leaves part (fun u a => hpart u a _) _ s

theorem chansUsed_leaves {A : Type} (part : State → A) (hpart : ∀ u c f, part (State.modChan u c f) = part u) (s : State) (g d : Nat) :
    part (s.chansUsed g d) = part s := foldl_leaves part (fun u c => hpart u c _) _ s

theorem membersUsed_leaves (s : State) (g : Nat) : (s.membersUsed g).meas.groups = s.meas.groups ∧ (s.membersUsed g).cores = s.cores ∧
    (s.membersUsed g).engines = s.engines ∧
    (∀ c, (s.membersUsed g).chan c = if c ∈ s.fgChans g then (s.chan c).used (s.cfg (fgIdx g) 5) else s.chan c) := by
  unfold State.membersUsed
  refine ⟨(auxUsed_leaves (fun u => u.meas.groups) (fun _ _ _ => rfl) ..).trans (chansUsed_leaves (fun u => u.meas.groups) (fun _ _ _ => rfl) ..),
    (auxUsed_leaves State.cores (fun _ _ _ => rfl) ..).trans (chansUsed_leaves State.cores (fun _ _ _ => rfl) ..),
    (auxUsed_leaves State.engines (fun _ _ _ => rfl) ..).trans (chansUsed_leaves State.engines (fun _ _ _ => rfl) ..), fun c => ?_⟩
  exact (auxUsed_leaves (fun u => u.chan c) (fun _ _ _ => rfl) ..).trans (chan_foldl_used _ nodup_fgChans ..)

theorem frameForm_leaves (h : ¬ s.frameWaits g) : let t := s.frameForm g
    t.fg g = (s.fg g).formed ∧ (∀ c, t.chan c = if c ∈ s.fgChans g then (s.chan c).used (s.cfg (fgIdx g) 5) else s.chan c) ∧ t.cores = s.cores ∧
      t.engines = s.engines := by
  obtain ⟨hgroups, hcores, heng, hchan⟩ := membersUsed_leaves s g
  have hfront : (s.frameForm g).front = ((s.membersUsed g).modFg g Group.formed).front := by
    rw [frameForm_forms h, State.frameSent, front_frameOut, front_frameMirrored, front_frameRung]
  have hfg : (s.membersUsed g).fg g = s.fg g := congrArg (Tab.get Group.reset · g) hgroups
  refine ⟨?_, fun c => ?_, ?_, ?_⟩
  · refine (congrArg (fun f => Tab.get Group.reset f.2.1 g) hfront).trans ((Tab.get_set_same ..).trans (congrArg Group.formed hfg))
  · exact Eq.trans (congrArg (fun f => Tab.get Channel.reset f.1 c) hfront :) (hchan c)
  · exact (congrArg (fun f => f.2.2.1) hfront).trans hcores
  · exact (congrArg (fun f => f.2.2.2) hfront).trans heng

/-! ## Capture rings (R242) -/

variable {r v : Nat} {ses : Ses}

theorem ringFreeze_idle (h : (Tab.get Ring.reset s.meas.rings r).armed = false ∨ (Tab.get Ring.reset s.meas.rings r).post ≠ some 0 ∨
    (Tab.get Ring.reset s.meas.rings r).frozen = true) : s.ringFreeze r = s := by
  refine if_neg ?_
  simp only [Bool.and_eq_true, beq_iff_eq, Bool.not_eq_true']
  rintro ⟨⟨ha, hp⟩, hf⟩
  rcases h with h | h | h
  · exact Bool.noConfusion (h.symm.trans ha)
  · exact h hp
  · exact Bool.noConfusion (h.symm.trans hf)

theorem ringFreeze_freezes (ha : (Tab.get Ring.reset s.meas.rings r).armed = true) (hp : (Tab.get Ring.reset s.meas.rings r).post = some 0)
    (hf : (Tab.get Ring.reset s.meas.rings r).frozen = false) : s.ringFreeze r =
      { s with meas := { s.meas with rings := Tab.set s.meas.rings r { Tab.get Ring.reset s.meas.rings r with frozen := true, post := none } } } := by
  refine if_pos ?_
  rw [ha, hp, hf]
  rfl

/-- The row of RING_CTRL. -/
def ringCtrlRow : OdRow := (bitObj 1 3 0).direct.level 1

theorem row_ringCtrl (hr : r < 16) : s.row (ringIdx r) 2 = some ringCtrlRow := by interval_cases r <;> rfl

/-- RING_CTRL is an object without further checks. -/
theorem ringCtrl_unchecked (hr : r < 16) (v : Nat) : s.needPriv (ringIdx r) 2 v ringCtrlRow = 1 ∧ ownWrite (ringIdx r) 2 = false ∧
    s.mappingAbort (ringIdx r) 2 v = 0 ∧ s.fieldsOk (ringIdx r) 2 v = true ∧ s.stepOk (ringIdx r) 2 v = true ∧ s.stateAllows (ringIdx r) 2 v = true := by
  interval_cases r <;> exact ⟨rfl, rfl, rfl, rfl, rfl, rfl⟩

theorem writeDirect_ringCtrl (hr : r < 16) (v : Nat) : s.writeDirect ses (ringIdx r) 2 v = s.ringCtrl r v := by
  interval_cases r <;> rfl

theorem hostWrite_ringCtrl (h : Served s ses 1) (hr : r < 16) (hv : v < 4) :
    s.hostWrite ses (ringIdx r) 2 (toLE 1 v) = (s.ringCtrl r v).giveReply ses ⟨0, []⟩ := by
  have hle : fromLE (toLE 1 v) = v := by simp; omega
  have hmask : Nat.land v ringCtrlRow.mask = v := land_full (n := 2) (by omega)
  obtain ⟨hpriv, hown, hmap, hfields, hstep, hallow⟩ := ringCtrl_unchecked (s := s) hr v
  have hrange : s.inRange (ringIdx r) 2 v ringCtrlRow = true := by
    have hhi : (v : Int) ≤ (2 : Int) ^ 8 := by omega
    unfold State.inRange
    dsimp only
    rw [hmask, hfields, show ringCtrlRow.number v = (v : Int) from rfl, hstep]
    simpa [ringCtrlRow, bitObj, anyObj, numObj, OdRow.direct, OdRow.level] using hhi
  have := State.hostWrite_direct (data := toLE 1 v) h (row_ringCtrl hr) (by exact Access.noConfusion) (by rw [hle, hpriv]) rfl hown rfl
    (by exact Nat.one_ne_zero) (by rw [hle]; exact hallow) (by rw [hle]; exact hrange) (by rw [hle]; exact hmap) rfl
  rw [this, hle, hmask, writeDirect_ringCtrl hr]

end

section
variable {s : State} {c : Nat} {bits : List Bool}

/-- What a result leaves. -/
theorem decimated_leaves (he : s.chEnabled c = true) (h : s.cfg (chIdx c) 4 ≤ s.windowDone c) : let t := s.decimated c bits
    t.chan c = s.resulted c bits (s.chan c) ∧ (∀ d, d ≠ c → t.chan d = s.chan d) ∧ t.cores = s.cores ∧ t.mem = s.mem := by
  dsimp only
  rw [decimated_ends he h]
  exact ⟨State.chan_modChan_same .., fun d hd => State.chan_modChan_ne s _ hd, rfl, rfl⟩

theorem channelFaultExit_exits (hf : (s.chan c).faulted = true) (hv : 3 ≤ (s.chan c).validWindows) : s.channelFaultExit c = s.modChan c (fun k =>
    { k with clk := false, stuck := false, manch := false, validWindows := 0, cmpStart := s.time.up, cmpBits := 0 }) :=
  if_pos (by rw [hf]; simpa using hv)

theorem channelFaultExit_stays (h : (s.chan c).faulted = false ∨ (s.chan c).validWindows < 3) : s.channelFaultExit c = s := by
  refine if_neg ?_
  rw [Bool.and_eq_true, decide_eq_true_iff]
  rintro ⟨hf, hv⟩
  rcases h with h | h
  · exact Bool.noConfusion (h.symm.trans hf)
  · omega

theorem channelFault_off (he : s.chEnabled c = false) (cause : Nat) : s.channelFault c cause = s := by
  unfold State.channelFault
  split
  · split
    · exact chFault_off he
    · rfl
  · split
    · exact chFault_off he
    · split
      · exact chFault_off he
      · rfl

end

/-- Settles O39: the channels' clocks, faults, results and decisions, then the auxiliary inputs, frames and rings. -/
theorem measurementsAndFrames : Obligations.MeasurementsAndFrames := by
  unfold Obligations.MeasurementsAndFrames
  have next {t u : State} (h : t = u) : (.next t : Out) = .next u := congrArg Host.Outcome.next h
  refine ⟨?_, ?_⟩
  · intro s c p n bits i k pin r q ends history valid subst
    refine ⟨fun hp hin h h' => ⟨_, next rfl, good_window_leaves hp hin h h' c⟩, fun hp hin h hc hpin he => ⟨_, next rfl, bad_window_leaves hp hin h hc hpin he⟩,
      fun hin => next (if_pos (.inr hin)), fun he hf => ⟨_, next rfl, channelFault_stuck he hf⟩, fun he cause => next (channelFault_off he cause),
      fun hm => next ?_, fun hf hv => next (channelFaultExit_exits hf hv), fun on hc h1 hon => chan_restartWindows hc h1 hon,
      fun h => next (channelFaultExit_stays h), fun h => next (decimated_early h), fun ⟨he, h⟩ => ⟨_, next rfl, ?_⟩, fun h => windowValid_of (h := h),
      decimate_range .., fun h6 hi => next (comparator_idle h6 hi), fun h6 he hf hb hh => ?_, fun h6 => ⟨_, next rfl, comparator_off h6⟩⟩
    case refine_1 =>
      exact (if_pos rfl).trans (if_neg (by rw [show (s.mclk (s.cfg (chIdx c) 2)).fault = false from hm]; exact Bool.false_ne_true))
    case refine_2 =>
      obtain ⟨hchan, hother, hcores, hmem⟩ := decimated_leaves (bits := bits) he h
      have hsubst : s.substitutes c bits = true ↔ subst := by
        rw [substitutes_iff, validAfter_eq]
      rw [hchan]
      refine ⟨rfl, validAfter_eq, rfl, rfl, rfl, rfl, rfl, fun hk hu => ⟨s.resultSample c bits, resulted_fresh _ hk hu, rfl, hsubst, fun hs => ?_, fun hs => ?_⟩,
        fun hk => resulted_skipped _ hk, hother, hcores, hmem⟩
      · rw [resultSample_value, if_pos (hsubst.mpr hs)]
      · rw [resultSample_value, if_neg (fun hb => hs (hsubst.mp hb))]
        rfl
    case refine_3 =>
      exact ⟨_, next rfl, comparator_decides h6 he hf hb hh⟩
  · intro s ses a g r v code mark ring ring'
    refine ⟨fun h => next (auxConversion_idle ?_), fun h => next (auxConversion_idle (h.imp_right .inl)), convNext_on, convReady_iff _,
      fun hn hr hc hu => next ?_, auxInput_land, fgSource_range s g, fun h => next (frameForm_waits ?_), fun hm ho => next (frameForm_waits ?_),
      fun hst hs hm => ⟨_, next rfl, ?_⟩, fun _ ha hp hf => next (ringFreeze_freezes ha hp hf), fun h => next (ringFreeze_idle h),
      fun hr hv h => next (hostWrite_ringCtrl h hr hv)⟩
    case refine_1 =>
      rcases h with h | h
      · exact .inl fun hn => Nat.zero_ne_one (h.symm.trans (convNext_on hn).1)
      · exact .inr (.inr h)
    case refine_2 =>
      rw [auxConversion_ends hn hr hc, hu]
      rfl
    case refine_3 => exact h.imp_right .inl
    case refine_4 => exact .inr (.inr ⟨hm, by rw [ho]; rfl⟩)
    case refine_5 =>
      have hforms : ¬ s.frameWaits g := by
        rintro (h | h | ⟨h, h'⟩)
        · exact h hst
        · exact Bool.noConfusion (hs.symm.trans h)
        · rcases hm with hm | hm
          · exact Bool.noConfusion (hm.symm.trans h)
          · rw [hm] at h'
            exact Bool.noConfusion h'
      obtain ⟨hfg, hchan, hcores, heng⟩ := frameForm_leaves hforms
      rw [hfg]
      refine ⟨rfl, rfl, hst, fun c hc => ?_, fun c hc => (hchan c).trans (if_neg hc), hcores, heng⟩
      rw [hchan, if_pos hc]
      exact ⟨rfl, rfl⟩

end Sys2Proof.Machine

end

section
/-! Resets of the module, of dies and of cores, and crossings that reopen (R302-R306). Settles O54. -/

namespace Sys2Proof.Machine

/-! ## What power-up leaves alone -/

/-- The parts of the state that no step of power-up changes. -/
structure Boot where
  cores : Tab Core
  engines : Tab Engine
  up : Nat
  gtc : Nat
  keys : Tab KeySlot
  defects : List Defect
  cmdStatus : Nat
  resetCause : Nat
  watch : Bool
  powerGood : Bool
  dies : Tab Nat

def State.boot (s : State) : Boot :=
  ⟨s.cores, s.engines, s.time.up, s.time.gtc, s.keys, s.defects, s.cmdStatus, s.pwr.resetCause, s.pwr.watch, s.pwr.powerGood, s.pwr.dies⟩

theorem OnlyLines.boot {s t : State} (h : OnlyLines s t) : t.boot = s.boot := (congrArg State.boot h.eq :)
theorem OnlyAreas.boot {s t : State} (h : OnlyAreas s t) : t.boot = s.boot := (congrArg State.boot h.eq :)

section
variable (s : State)

theorem boot_setGtcMode (m : GtcState) : (s.setGtcMode m).boot = s.boot := by
  unfold State.setGtcMode
  split <;> rfl

theorem boot_gtcCoarse : s.gtcCoarse.boot = s.boot := by
  unfold State.gtcCoarse
  dsimp only
  rw [boot_setGtcMode]
  split <;> rfl

theorem boot_onPilotAtBoot (g : Nat) : (s.onPilotAtBoot g).boot = s.boot := by
  unfold State.onPilotAtBoot State.setGenState
  split <;> rfl

theorem boot_bootClocks : s.bootClocks.boot = s.boot := by
  unfold State.bootClocks
  split
  · exact (boot_gtcCoarse _).trans (foldl_leaves State.boot boot_onPilotAtBoot _ s)
  · rfl

theorem boot_timeSourceSet : s.timeSourceSet.boot = s.boot := by
  unfold State.timeSourceSet
  dsimp only
  split
  · rfl
  · exact (boot_setGtcMode ..).trans rfl

theorem boot_setTrk (t : Nat) (m : TrkState) : (s.setTrk t m).boot = s.boot := by
  unfold State.setTrk
  dsimp only
  split
  · rfl
  · split <;> rfl

theorem boot_startTracker (t : Nat) : (s.startTracker t).boot = s.boot := by
  unfold State.startTracker
  split
  · exact boot_setTrk ..
  · exact (boot_setTrk ..).trans rfl

theorem boot_regroup (g : Nat) : (s.regroup g).boot = s.boot := by
  unfold State.regroup
  dsimp only
  generalize (if ((s.fgChans g).isEmpty && (s.fgAux g).isEmpty) = true then 0 else if s.fgCauses g ≠ 0 then 2 else 1) = st
  split <;> rfl

theorem onlyLines_mirrorCommit : OnlyLines s s.mirrorCommit := by
  have hfirst : OnlyLines s (if s.mirror.state = 0 ∨ (s.cfg 0x2D00 2 ≠ 0 ∧ s.mirror.state ≠ 4) then s
      else if s.mirror.holding then (s.setMirror 0 0).releaseOutputs else s.setMirror 0 0) := by
    split
    · exact .refl s
    · split
      · exact (onlyLines_setMirror ..).trans (onlyLines_releaseOutputs _)
      · exact onlyLines_setMirror ..
  unfold State.mirrorCommit
  dsimp only
  split
  · exact hfirst.trans (onlyLines_pairMirror ..)
  · exact hfirst

theorem boot_dacFault (ch cause : Nat) : (s.dacFault ch cause).boot = s.boot := by
  by_cases hf : (s.dac ch).fault = true
  · rw [State.dacFault_old cause hf]
  · rw [State.dacFault_new cause (Bool.eq_false_iff.mpr hf)]
    have hd : (s.dacFaulted ch cause).boot = s.boot := rfl
    split
    · exact (onlyLines_setCause _ 3).boot.trans hd
    · exact hd

theorem boot_faultDac {s : State} (h : s.NoEmits) (ch cause : Nat) : (s.faultDac ch cause).boot = s.boot := by
  rw [State.faultDac_noEmits h]
  exact boot_dacFault ..

theorem noEmits_of_boot {s t : State} (h : t.boot = s.boot) (hs : s.NoEmits) : t.NoEmits := by
  have hcores : t.cores = s.cores := congrArg Boot.cores h
  unfold State.NoEmits
  rw [hcores]
  exact hs

/-- A run of steps that leave these parts alone while no EMIT is in flight. -/
theorem boot_foldl {f : State → Nat → State} (hf : ∀ s c, s.NoEmits → (f s c).boot = s.boot) (l : List Nat) {s : State} (h : s.NoEmits) :
    (l.foldl f s).boot = s.boot := by
  induction l generalizing s with
  | nil => rfl
  | cons c l ih => exact (ih (noEmits_of_boot (hf s c h) h)).trans (hf s c h)

theorem boot_causeDac {s : State} (h : s.NoEmits) (ch b cause : Nat) : (s.causeDac ch b cause).boot = s.boot := by
  unfold State.causeDac
  have hmod : (s.modDac ch (fun d => { d with causes := setBit d.causes b true })).boot = s.boot := rfl
  exact (boot_faultDac (noEmits_of_boot hmod h) ch cause).trans hmod

theorem boot_withRail (low : Bool) : (s.withRail low).boot = s.boot := rfl

theorem boot_railFault {s : State} (h : s.NoEmits) : s.railFault.boot = s.boot := by
  rw [State.railFault_eq]
  exact (boot_withRail _ true).trans (boot_foldl (f := fun u ch => u.causeDac ch 1 1) (fun u ch hu => boot_causeDac hu ch 1 1) (List.range 16) h)

theorem boot_standingFault {s : State} (h : s.NoEmits) (ch : Nat) : (s.standingFault ch).boot = s.boot := by
  unfold State.standingFault
  split
  · exact boot_faultDac h ..
  · split
    · exact boot_causeDac h ch 3 3
    · rfl

/-- The settings of the clocks restored. -/
def State.bootTime (s : State) (wake : Bool) : State :=
  if wake then s
  else (List.range 8).foldl (fun s t => if s.cfg (trkIdx t) 1 = 0 then s else s.startTracker t) (if s.cfg 0x2300 2 = 0 then s else s.timeSourceSet)

/-- The settings of the groups, of the staging slots and of the mirror pair restored. -/
def State.bootGroups (s : State) : State :=
  let s := (List.range 16).foldl State.regroup s
  ({ s with stage := { s.stage with slots := s.cfg 0x2700 0x0E } } : State).mirrorCommit

/-- The causes that stand act on the DAC channels. -/
def State.bootDacs (s : State) : State := (List.range 16).foldl State.standingFault (if s.outs.railLow then s.railFault else s)

theorem bootSettings_eq (wake : Bool) : s.bootSettings wake = (s.bootTime wake).bootGroups.bootDacs := by
  unfold State.bootSettings State.bootTime State.bootGroups State.bootDacs
  dsimp only

theorem boot_bootTime (wake : Bool) : (s.bootTime wake).boot = s.boot := by
  unfold State.bootTime
  split
  · rfl
  · refine (foldl_leaves State.boot (fun u t => ?_) _ _).trans ?_
    · split
      · rfl
      · exact boot_startTracker ..
    · split
      · rfl
      · exact boot_timeSourceSet s

theorem boot_bootGroups : s.bootGroups.boot = s.boot := by
  have h := foldl_leaves State.boot boot_regroup (List.range 16) s
  unfold State.bootGroups
  dsimp only
  generalize (List.range 16).foldl State.regroup s = u at h ⊢
  rw [(onlyLines_mirrorCommit _).boot, ← h]
  rfl

theorem boot_bootDacs {s : State} (h : s.NoEmits) : s.bootDacs.boot = s.boot := by
  unfold State.bootDacs
  split
  · exact (boot_foldl (fun u ch hu => boot_standingFault hu ch) _ (noEmits_of_boot (boot_railFault h) h)).trans (boot_railFault h)
  · exact boot_foldl (fun u ch hu => boot_standingFault hu ch) _ h

theorem boot_bootSettings {s : State} (h : s.NoEmits) (wake : Bool) : (s.bootSettings wake).boot = s.boot := by
  rw [bootSettings_eq]
  have hb : ((s.bootTime wake).bootGroups).boot = s.boot := (boot_bootGroups _).trans (boot_bootTime s wake)
  exact (boot_bootDacs (noEmits_of_boot hb h)).trans hb

theorem boot_writeGap (gap : Option (Nat × Nat × Nat)) : (s.writeGap gap).boot = s.boot := by
  unfold State.writeGap
  split
  · rfl
  · exact (onlyAreas_putRecord ..).boot.trans rfl

theorem boot_powerUpRecord (cause : Nat) (ok : Bool) : (s.powerUpRecord cause ok).boot = s.boot :=
  (onlyAreas_writeRecord ..).boot.trans rfl

/-- The outputs driven, before the trips follow. -/
def State.armed (s : State) : State := { s with outs := { s.outs with driven := true }, pwr := { s.pwr with ready := setBit s.pwr.ready 0 true } }

theorem armBackstop_eq : s.armBackstop = s.armed.updateTrips := rfl

theorem boot_armBackstop : s.armBackstop.boot = s.boot := by
  rw [armBackstop_eq]
  exact (onlyLines_updateTrips _).boot

theorem driven_armBackstop : s.armBackstop.outs.driven = true := by
  rw [armBackstop_eq]
  exact (onlyLines_updateTrips _).driven

theorem sentinelPoint_boot : s.sentinelPoint.boot = s.boot ∧ s.sentinelPoint.outs.driven = s.outs.driven := by
  unfold State.sentinelPoint
  split
  · exact ⟨rfl, rfl⟩
  · have h := onlyLines_clearCauses { s with
      pwr := { s.pwr with ready := setBit s.pwr.ready 1 true, tSent := (s.time.up - s.pwr.since) / 1000 },
      outs := { s.outs with causeNow := setBit s.outs.causeNow 0 false } } 1
    exact ⟨h.boot, h.driven⟩

theorem readiness_boot : s.readiness.boot = s.boot ∧ s.readiness.outs.driven = s.outs.driven := by
  have h := sentinelPoint_boot s
  rw [readiness_eq]
  split
  · exact ⟨rfl, rfl⟩
  · generalize s.sentinelPoint = u at h ⊢
    split <;> exact h

/-- The recorder's areas come back, with what the retention buffer held, and POWER_UP is recorded. -/
def State.bootRecorder (s : State) (cause : Nat) (ok : Bool) : State :=
  let s := s.ashReload.bump 0x2200 0x0C
  let old := sortRecs s.ash.retention
  let gap := s.ash.retDropped
  let s := { s with ash := { s.ash with retention := [], retDropped := none, checkpointed := false } }
  ((old.foldl State.writeRecord s).writeGap gap).powerUpRecord cause ok

theorem powerUp_eq (cause : Nat) (wake : Bool) : s.powerUp cause wake =
    (((s.bootRecorder cause (wake || s.ash.checkpointed)).bootClocks.bootSettings wake).armBackstop).readiness := by
  unfold State.powerUp State.bootRecorder
  dsimp only

theorem boot_bootRecorder (cause : Nat) (ok : Bool) : (s.bootRecorder cause ok).boot = s.boot := by
  unfold State.bootRecorder
  dsimp only
  rw [boot_powerUpRecord, boot_writeGap]
  exact (foldl_leaves State.boot (fun u r => (onlyAreas_writeRecord u r).boot) _ _).trans rfl

/-- Power-up drives the trip outputs and leaves these parts alone. -/
theorem powerUp_leaves {s : State} (h : s.NoEmits) (cause : Nat) (wake : Bool) :
    (s.powerUp cause wake).boot = s.boot ∧ (s.powerUp cause wake).outs.driven = true := by
  have hclocks : ((s.bootRecorder cause (wake || s.ash.checkpointed)).bootClocks).boot = s.boot := (boot_bootClocks _).trans (boot_bootRecorder ..)
  rw [powerUp_eq]
  generalize (s.bootRecorder cause (wake || s.ash.checkpointed)).bootClocks = u at hclocks ⊢
  obtain ⟨hr, hd⟩ := readiness_boot (u.bootSettings wake).armBackstop
  refine ⟨hr.trans ((boot_armBackstop _).trans ((boot_bootSettings (noEmits_of_boot hclocks h) wake).trans hclocks)), hd.trans (driven_armBackstop _)⟩

end

end Sys2Proof.Machine

end

section
/-! Module, die and core resets and their commands (R302-R306). Settles O54. -/

namespace Sys2Proof.Machine

/-! ## Tables changed entry by entry -/

theorem Tab.find_mapKeyed {α : Type} (f : Nat → α → α) (t : Tab α) (k : Nat) :
    Tab.find (List.map (fun e => (e.1, f e.1 e.2)) t) k = (Tab.find t k).map (f k) := by
  induction t with
  | nil => rfl
  | cons e t ih =>
    by_cases h : e.1 = k
    · subst h
      simp [Tab.find]
    · simpa [Tab.find, h] using ih

theorem Tab.get_eq_getD {α : Type} (d : α) (t : Tab α) (k : Nat) : Tab.get d t k = (Tab.find t k).getD d := by
  induction t with
  | nil => rfl
  | cons e t ih =>
    by_cases h : e.1 = k
    · simp [Tab.get, Tab.find, h]
    · simpa [Tab.get, Tab.find, h] using ih

/-- What every entry keeps, a table keeps. -/
theorem Tab.get_mapKeyed_part {α β : Type} (part : α → β) {f : Nat → α → α} (hf : ∀ k a, part (f k a) = part a) (d : α) (t : Tab α) (k : Nat) :
    part (Tab.get d (List.map (fun e => (e.1, f e.1 e.2)) t) k) = part (Tab.get d t k) := by
  rw [Tab.get_eq_getD, Tab.get_eq_getD, Tab.find_mapKeyed]
  cases Tab.find t k with
  | none => rfl
  | some a => exact hf k a

/-! ## What a module reset leaves (R302, R304, R207) -/

/-- What is told of the state right after a module reset. -/
structure ResetPart where
  engines : Tab Engine
  up : Nat
  keys : Tab KeySlot
  defects : List Defect
  resetCause : Nat
  powerGood : Bool
  watch : Bool
  dies : Tab Nat
  driven : Bool
  mem : Mem
  cores : Tab Core

def State.resetPart (s : State) : ResetPart :=
  ⟨s.engines, s.time.up, s.keys, s.defects, s.pwr.resetCause, s.pwr.powerGood, s.pwr.watch, s.pwr.dies, s.outs.driven, s.mem, s.cores⟩

theorem resetPart_fields {u : State} {p : ResetPart} (h : u.resetPart = p) : u.engines = p.engines ∧ u.time.up = p.up ∧ u.keys = p.keys ∧
    u.defects = p.defects ∧ u.pwr.resetCause = p.resetCause ∧ u.pwr.powerGood = p.powerGood ∧ u.pwr.watch = p.watch ∧ u.pwr.dies = p.dies ∧
    u.outs.driven = p.driven ∧ u.mem = p.mem ∧ u.cores = p.cores := by
  subst h
  exact ⟨rfl, rfl, rfl, rfl, rfl, rfl, rfl, rfl, rfl, rfl, rfl⟩

theorem boot_fields {s t : State} (h : t.boot = s.boot) : t.engines = s.engines ∧ t.time.up = s.time.up ∧ t.time.gtc = s.time.gtc ∧ t.keys = s.keys ∧
    t.defects = s.defects ∧ t.cmdStatus = s.cmdStatus ∧ t.pwr.resetCause = s.pwr.resetCause ∧ t.pwr.watch = s.pwr.watch ∧
    t.pwr.powerGood = s.pwr.powerGood ∧ t.pwr.dies = s.pwr.dies :=
  ⟨(congrArg Boot.engines h :), (congrArg Boot.up h :), (congrArg Boot.gtc h :), (congrArg Boot.keys h :), (congrArg Boot.defects h :),
    (congrArg Boot.cmdStatus h :), (congrArg Boot.resetCause h :), (congrArg Boot.watch h :), (congrArg Boot.powerGood h :), (congrArg Boot.dies h :)⟩

theorem resetPart_setStatus (s : State) (res x cmd : Nat) : (s.setStatus res x cmd).resetPart = s.resetPart := by
  unfold State.setStatus
  dsimp only
  split <;> rfl

/-- The contexts a module reset leaves. -/
def State.ctxsLeft (s : State) : Tab Ctx := (s.ctxs.map (fun x => (x.1, x.2.settled))).filter (fun x => x.2.state != .none)

/-- An engine after a module reset. -/
def State.engineLeft (s : State) (k : Nat) (g : Engine) : Engine :=
  g.afterReset (isSentinel (k / 50)) (Tab.get g.te s.keep.defaults.te k) (Tab.get [0xFF, 0xFF, 0xFF, 0xFF] s.keep.defaults.repair k)
    (servesStill s.ctxsLeft (k / 50) (k % 50))

/-- The cores after a module reset. -/
def State.coresLeft (s : State) : Tab Core := s.coreList.filterMap (fun c =>
  let k := (s.core c).afterReset (roleOf s.ctxsLeft c)
  if k = Core.reset then none else some (c, k))

theorem afterReset_part (s : State) (cause : Nat) : (s.afterReset cause).resetPart =
    ⟨s.engines.map (fun x => (x.1, s.engineLeft x.1 x.2)), s.time.up, s.keys, s.defects, cause, s.pwr.powerGood, false, [], false, [], s.coresLeft⟩ := by
  unfold State.afterReset
  dsimp only
  exact (foldl_leaves State.resetPart (fun u x => resetPart_setStatus ..) _ _).trans rfl

theorem afterReset_ops (k : Core) (role : Option (Nat × Nat)) : (k.afterReset role).seq.ops = [] := by
  unfold Core.afterReset
  split
  · rfl
  · split <;> rfl

theorem noEmits_coresLeft {s t : State} (h : t.cores = s.coresLeft) : t.NoEmits := by
  intro e he o ho
  rw [h] at he
  obtain ⟨c, -, hc⟩ := List.mem_filterMap.mp he
  dsimp only at hc
  split at hc
  · cases hc
  · rw [← Option.some.inj hc, afterReset_ops] at ho
    exact absurd ho List.not_mem_nil

theorem te_defaults (k : HubKeep) : k.defaults.te = k.te := by
  unfold HubKeep.defaults
  split <;> rfl

/-- The engines after a module reset keep their arrays and sum stores, and take T_e from the hub keep. -/
theorem engines_left {s t : State} (h : t.engines = s.engines.map (fun x => (x.1, s.engineLeft x.1 x.2))) :
    (∀ x e, (t.eng x e).pairs = (s.eng x e).pairs ∧ (t.eng x e).sums = (s.eng x e).sums) ∧
    (∀ x e v, (Tab.find s.engines (engKey x e)).isSome = true → Tab.find s.keep.te (engKey x e) = some v → (t.eng x e).te = v) := by
  unfold State.eng
  rw [h]
  refine ⟨fun x e => ⟨Tab.get_mapKeyed_part Engine.pairs (f := s.engineLeft) (fun k g => rfl) ..,
    Tab.get_mapKeyed_part Engine.sums (f := s.engineLeft) (fun k g => rfl) ..⟩, fun x e v hs hv => ?_⟩
  rw [Tab.get_eq_getD, Tab.find_mapKeyed]
  obtain ⟨g, hg⟩ := Option.isSome_iff_exists.mp hs
  rw [hg]
  show Tab.get g.te s.keep.defaults.te (engKey x e) = v
  rw [te_defaults, Tab.get_eq_getD, hv]
  rfl

/-- What the resets of the whole module have in common. -/
def State.ModuleReset (s t : State) (cause : Nat) : Prop :=
  t.pwr.resetCause = cause ∧ t.time.up = s.time.up ∧ t.keys = s.keys ∧ t.defects = s.defects ∧
    t.outs.driven = true ∧ (∀ x e, (t.eng x e).pairs = (s.eng x e).pairs ∧ (t.eng x e).sums = (s.eng x e).sums) ∧
    (∀ x e v, (Tab.find s.engines (engKey x e)).isSome = true → Tab.find s.keep.te (engKey x e) = some v → (t.eng x e).te = v) ∧ (∀ n, n < 4 → t.dieOn n = false)

/-- Power-up from a state that is as a module reset left it. -/
theorem powerUp_reset {s u : State} {cause : Nat} {good : Bool} (h : u.resetPart =
      ⟨s.engines.map (fun x => (x.1, s.engineLeft x.1 x.2)), s.time.up, s.keys, s.defects, cause, good, false, [], false, [], s.coresLeft⟩)
    (n : Nat) (wake : Bool) : s.ModuleReset (u.powerUp n wake) cause ∧ (u.powerUp n wake).boot = u.boot := by
  obtain ⟨hengines, hup, hkeys, hdefects, hcause, -, -, hdies, -, -, hcores⟩ := resetPart_fields h
  obtain ⟨hb, hd⟩ := powerUp_leaves (noEmits_coresLeft hcores) n wake
  obtain ⟨bengines, bup, -, bkeys, bdefects, -, bcause, -, -, bdies⟩ := boot_fields hb
  obtain ⟨h1, h2⟩ := engines_left (bengines.trans hengines)
  refine ⟨⟨bcause.trans hcause, bup.trans hup, bkeys.trans hkeys, bdefects.trans hdefects, hd, h1, h2, fun k _ => ?_⟩, hb⟩
  unfold State.dieOn
  rw [bdies, hdies]
  rfl

theorem moduleReset_resets {s : State} (h : s.pwr.powerGood = true) (cause : Nat) : s.ModuleReset (s.moduleReset cause) cause := by
  unfold State.moduleReset
  rw [if_pos h]
  exact (powerUp_reset (afterReset_part s cause) cause false).1

/-! ## Power-good (R306) -/

/-- The module reset of power-good, with the status of an interrupted command as it was. -/
def State.restored (s : State) : State :=
  let u : State := { s.afterReset 0 with pwr := { (s.afterReset 0).pwr with powerGood := true } }
  if s.cmdStatus % 256 = resInterrupted then u.setStatus resInterrupted (field s.cmdStatus 8 6) (field s.cmdStatus 16 8) else u

theorem powerGoodUp_eq {s : State} (h : s.pwr.powerGood = false) : s.powerGoodUp = s.restored.powerUp 0 false :=
  if_neg (by rw [h]; exact Bool.false_ne_true)

theorem restored_part (s : State) : s.restored.resetPart = { (s.afterReset 0).resetPart with powerGood := true } := by
  unfold State.restored
  dsimp only
  split
  · exact resetPart_setStatus ..
  · rfl

theorem restored_status {s : State} (h : s.cmdStatus % 256 = resInterrupted) : s.restored.cmdStatus % 256 = resInterrupted := by
  unfold State.restored
  rw [if_pos h, (setStatus_leaves ..).1]
  unfold resInterrupted
  omega

theorem powerGoodUp_resets {s : State} (h : s.pwr.powerGood = false) : s.ModuleReset s.powerGoodUp 0 ∧ s.powerGoodUp.pwr.powerGood = true ∧
    s.powerGoodUp.cmdStatus = s.restored.cmdStatus := by
  have hp := restored_part s
  rw [afterReset_part] at hp
  rw [powerGoodUp_eq h]
  obtain ⟨hm, hb⟩ := powerUp_reset hp 0 false
  obtain ⟨-, -, -, -, -, hgood, -⟩ := resetPart_fields hp
  obtain ⟨-, -, -, -, -, bstatus, -, -, bgood, -⟩ := boot_fields hb
  exact ⟨hm, bgood.trans hgood, bstatus⟩

theorem powerGoodDown_leaves (s : State) : let t := s.powerGoodDown
    t.pwr.powerGood = false ∧ t.outs.driven = false ∧ t.mem = [] ∧ t.keys = s.keys ∧ ∀ x e, (t.eng x e).pairs = (s.eng x e).pairs := by
  obtain ⟨hengines, -, hkeys, -, -, -, -, -, hdriven, hmem, -⟩ := resetPart_fields (afterReset_part s 0)
  unfold State.powerGoodDown
  generalize s.afterReset 0 = u at hengines hkeys hdriven hmem ⊢
  exact ⟨rfl, hdriven, hmem, hkeys, fun x e => ((engines_left hengines).1 x e).1⟩

/-- The state a wake powers up from: the GTC, the trackers, the clocks and the retention buffer as they were. -/
def State.waking (s : State) : State :=
  { s.afterReset 3 with
    time := s.time, trackers := s.trackers, clk := { (s.afterReset 3).clk with gens := s.clk.gens, divs := s.clk.divs },
    ash := { (s.afterReset 3).ash with retention := s.ash.retention ++ s.ash.hold, retDropped := s.ash.retDropped, inbox := s.ash.inbox,
                                       tokens := s.ash.tokens, supp := s.ash.supp } }

theorem wake_eq {s : State} (hp : s.pwr.powerGood = true) (hw : s.pwr.watch = true) : s.wake = s.waking.powerUp 3 true :=
  if_neg (by rw [hp, hw]; exact Bool.false_ne_true)

theorem waking_leaves (s : State) : s.waking.cores = s.coresLeft ∧ s.waking.pwr.watch = false ∧ s.waking.pwr.resetCause = 3 ∧
    s.waking.time.gtc = s.time.gtc := by
  obtain ⟨-, -, -, -, hcause, -, hwatch, -, -, -, hcores⟩ := resetPart_fields (afterReset_part s 3)
  unfold State.waking
  generalize s.afterReset 3 = u at hcause hwatch hcores ⊢
  exact ⟨hcores, hwatch, hcause, rfl⟩

theorem wake_leaves {s : State} (hp : s.pwr.powerGood = true) (hw : s.pwr.watch = true) :
    s.wake.pwr.watch = false ∧ s.wake.pwr.resetCause = 3 ∧ s.wake.time.gtc = s.time.gtc := by
  obtain ⟨hcores, hwatch, hcause, hgtc⟩ := waking_leaves s
  rw [wake_eq hp hw]
  obtain ⟨hb, -⟩ := powerUp_leaves (noEmits_coresLeft hcores) 3 true
  obtain ⟨-, -, bgtc, -, -, -, bcause, bwatch, -, -⟩ := boot_fields hb
  exact ⟨bwatch.trans hwatch, bcause.trans hcause, bgtc.trans hgtc⟩

/-! ## Core and die resets (R302-R304) -/

theorem Mem.read_clear_below (m : Mem) {lo hi a : Nat} (h : a < lo) : Mem.read (Mem.clear m lo hi) a = Mem.read m a := by
  unfold Mem.clear
  induction m with
  | nil => rfl
  | cons e m ih =>
    by_cases hk : (decide (e.1 < lo) || decide (hi ≤ e.1)) = true
    · rw [List.filter_cons_of_pos (p := fun c : Host.Cell => decide (c.1 < lo) || decide (hi ≤ c.1)) hk]
      exact congrArg (fun r => if e.1 = a then e.2 else r) ih
    · rw [List.filter_cons_of_neg (p := fun c : Host.Cell => decide (c.1 < lo) || decide (hi ≤ c.1)) hk, ih]
      refine (if_neg fun he => hk ?_).symm
      rw [he]
      simp [h]

/-- What the calibration of a core restored leaves alone. -/
structure Seats where
  core : Nat → Seq × Bool × Option Nat × Nat
  pairs : Nat → Nat → Mem
  time : TimeBase
  pwr : Power
  mem : Mem

def State.seats (s : State) : Seats :=
  ⟨fun c => ((s.core c).seq, (s.core c).comm.crossing, (s.core c).ctx, (s.core c).lcore), fun x e => (s.eng x e).pairs, s.time, s.pwr, s.mem⟩

theorem pairs_eng_key (s : State) {c e d f : Nat} (h : engKey d f = engKey c e) : (s.eng d f).pairs = (s.eng c e).pairs := by
  unfold State.eng
  rw [h, Tab.get_eq_getD, Tab.get_eq_getD]
  cases Tab.find s.engines (engKey c e) <;> rfl

theorem Engine.pairs_since (h g : Engine) : (h.since g).pairs = h.pairs := by
  rw [Engine.since_frame]

theorem seats_setEng (s : State) (c e : Nat) {g : Engine} (hg : g.pairs = (s.eng c e).pairs) : (s.setEng c e g).seats = s.seats := by
  have hp : (fun x f => ((s.setEng c e g).eng x f).pairs) = fun x f => (s.eng x f).pairs := by
    funext x f
    by_cases h : engKey x f = engKey c e
    · rw [State.eng_setEng_key s h, Engine.pairs_since, hg, pairs_eng_key s h]
    · rw [State.eng_setEng_other s h]
  exact congrArg (fun p => Seats.mk s.seats.core p s.time s.pwr s.mem) hp

theorem seats_commitEng (s : State) (c e : Nat) : (s.commitEng c e).seats = s.seats := by
  unfold State.commitEng
  dsimp only
  split
  · exact seats_setEng s c e rfl
  · refine (seats_setEng _ c e ?_).trans ?_
    · rfl
    · rfl

theorem seats_commitIdle (s : State) (c e : Nat) : (s.commitIdle c e).seats = s.seats := by
  unfold State.commitIdle
  dsimp only
  split
  · exact seats_commitEng ..
  · rfl

theorem seats_modEng (s : State) (c e : Nat) {f : Engine → Engine} (hf : ∀ g, (f g).pairs = g.pairs) : (s.modEng c e f).seats = s.seats :=
  seats_setEng s c e (hf _)

theorem seats_baseWrite (s : State) (c e i v : Nat) : (s.baseWrite c e i v).seats = s.seats := by
  have hfirst := seats_modEng s c e (f := fun g => { g with base := g.base.set i (corrOf v) }) fun _ => rfl
  unfold State.baseWrite
  dsimp only
  split
  · refine (seats_commitIdle ..).trans ((seats_modEng _ c e ?_).trans hfirst)
    exact fun _ => rfl
  · exact hfirst

theorem seats_modAna (s : State) (c : Nat) (f : Ana → Ana) : (s.modCore c (fun k => { k with ana := f k.ana })).seats = s.seats := by
  have hc : (s.modCore c (fun k => { k with ana := f k.ana })).seats.core = s.seats.core := by
    funext x
    unfold State.seats
    by_cases h : x = c
    · subst h
      dsimp only
      rw [State.core_modCore_same]
    · dsimp only
      rw [State.core_modCore_ne _ _ h]
  exact congrArg (fun p => Seats.mk p s.seats.pairs s.time s.pwr s.mem) hc

theorem seats_calPut (s : State) (a v : Nat) : (s.calPut a v).seats = s.seats := by
  unfold State.calPut
  dsimp only
  split
  · split
    · exact seats_baseWrite ..
    · split <;> rfl
  · split
    · split <;> rfl
    · exact (seats_modAna _ _ (fun n => { n with scaleStaged := v % 65536, pending := true })).trans rfl

/-- The base gains of engines at the factory's. -/
def State.basesRestored (s : State) (keys : List Nat) : State :=
  keys.foldl (fun s k => (List.range 136).foldl (fun s i => s.baseWrite (k / 50) (k % 50) i 0x40000000) s) s

/-- The scales of cores at the factory's. -/
def State.scalesRestored (s : State) (cs : List Nat) : State := cs.foldl (fun s c => s.calPut (0x0A010000 + 4 * c) 0x4000) s

theorem restoreEngines_eq (s : State) (mine : Nat → Bool) : ∃ cs tr, s.restoreEngines mine =
    { (s.basesRestored ((s.engines.map (·.1)).filter (fun k => mine (k / 50)))).scalesRestored cs with trims := tr } := ⟨_, _, rfl⟩

theorem seats_trims (s : State) (tr : Tab Nat) : ({ s with trims := tr } : State).seats = s.seats := rfl

theorem seats_restoreEngines (s : State) (mine : Nat → Bool) : (s.restoreEngines mine).seats = s.seats := by
  obtain ⟨cs, tr, h⟩ := restoreEngines_eq s mine
  have hb (keys : List Nat) : (s.basesRestored keys).seats = s.seats :=
    foldl_leaves State.seats (fun u k => foldl_leaves State.seats (fun u i => seats_baseWrite ..) (List.range 136) u) keys s
  have hs (u : State) : (u.scalesRestored cs).seats = u.seats := foldl_leaves State.seats (fun v c => seats_calPut ..) cs u
  rw [h, seats_trims, hs, hb]

/-- An engine's registers reset where it is one of the core's. -/
def State.engineReset (s : State) (c k : Nat) (g : Engine) : Engine :=
  if k / 50 = c then g.registersReset (isSentinel c) (Tab.get [0xFF, 0xFF, 0xFF, 0xFF] s.keep.repair k) else g

theorem engines_resetEngines (s : State) (c : Nat) : (s.resetEngines c).engines = s.engines.map (fun e => (e.1, s.engineReset c e.1 e.2)) := by
  refine List.map_congr_left fun e _ => ?_
  unfold State.engineReset
  split <;> rfl

theorem seats_resetEngines (s : State) (c : Nat) : (s.resetEngines c).seats = s.seats := by
  have hpart (k : Nat) (g : Engine) : (s.engineReset c k g).pairs = g.pairs := by
    unfold State.engineReset
    split <;> rfl
  have hp : (fun x e => ((s.resetEngines c).eng x e).pairs) = fun x e => (s.eng x e).pairs := by
    funext x e
    unfold State.eng
    rw [engines_resetEngines]
    exact Tab.get_mapKeyed_part Engine.pairs hpart ..
  exact congrArg (fun p => Seats.mk s.seats.core p s.time s.pwr s.mem) hp

/-- A core's memory wiped, its calibration and its engines' registers as a reset leaves them. -/
def State.coreWiped (s : State) (c : Nat) : State :=
  ((s.wipe (accAddr c 0 0 0) (planAddr c 0 0)).restoreEngines (fun i => i == c)).resetEngines c

theorem seats_coreWiped (s : State) (c : Nat) : (s.coreWiped c).seats = { s.seats with mem := Mem.clear s.mem (accAddr c 0 0 0) (planAddr c 0 0) } :=
  (seats_resetEngines ..).trans ((seats_restoreEngines ..).trans rfl)

/-- A core in reset, its role as it was. -/
def Core.inReset (k : Core) (ana : Ana) : Core :=
  { k with state := if k.state == .running || k.state == .halted || k.state == .frozen then .idle else k.state, seq := Seq.reset,
           comm := { Comm.reset with epoch := k.comm.epoch, peers := k.comm.peers }, tags := [], wins := [], watchdog := none, pending := [], ana := ana }

theorem coreReset_eq (s : State) (c : Nat) : s.coreReset c = ((s.coreWiped c).setCore c ((s.core c).inReset
    { Ana.reset with thresh := (s.coreWiped c).cfg 0x2800 6, repeats := (s.coreWiped c).cfg 0x2800 7 })).roleChange c := rfl

theorem core_roleChange (s : State) (c d : Nat) : (s.roleChange c).core d = (s.raiseEpoch c).core d :=
  (congrArg (fun u : State => u.core d) (onlyLines_announceEpoch (s.raiseEpoch c) c).eq :)

theorem crossing_raiseEpoch (s : State) (c d : Nat) : ((s.raiseEpoch c).core d).comm.crossing = (s.core d).comm.crossing := by
  unfold State.raiseEpoch
  rw [core_refillPeers, core_modComm]
  dsimp only
  split <;> rfl

/-- A role change is one of epochs and peers. -/
theorem roleChange_leaves (s : State) (c : Nat) : let t := s.roleChange c
    (∀ d, t.core d = { s.core d with comm := (t.core d).comm }) ∧ (∀ d, (t.core d).comm.crossing = (s.core d).comm.crossing) ∧
    t.engines = s.engines ∧ t.time = s.time ∧ t.mem = s.mem := by
  have h := onlyLines_announceEpoch (s.raiseEpoch c) c
  refine ⟨fun d => ?_, fun d => ?_, h.engines, h.time, h.mem⟩
  · rw [core_roleChange]
    exact core_raiseEpoch s c d
  · rw [core_roleChange]
    exact crossing_raiseEpoch s c d

/-- A core in reset. -/
def State.InReset (s : State) (x : Nat) : Prop := (s.core x).seq = Seq.reset ∧ (s.core x).comm.crossing = false

theorem coreReset_leaves (s : State) (c : Nat) : let t := s.coreReset c
    t.InReset c ∧ (t.core c).tags = [] ∧ (t.core c).wins = [] ∧ (t.core c).ctx = (s.core c).ctx ∧ (t.core c).lcore = (s.core c).lcore ∧
    (∀ x, x ≠ c → (t.core x).seq = (s.core x).seq ∧ (t.core x).comm.crossing = (s.core x).comm.crossing) ∧
    (∀ x e, (t.eng x e).pairs = (s.eng x e).pairs) ∧ t.time = s.time ∧ t.mem = Mem.clear s.mem (accAddr c 0 0 0) (planAddr c 0 0) := by
  dsimp only
  rw [coreReset_eq]
  have hs := seats_coreWiped s c
  generalize ({ Ana.reset with thresh := (s.coreWiped c).cfg 0x2800 6, repeats := (s.coreWiped c).cfg 0x2800 7 } : Ana) = ana
  generalize s.coreWiped c = u at hs ⊢
  have hcore (x : Nat) := congrFun (congrArg Seats.core hs) x
  have hpairs (x e : Nat) : (u.eng x e).pairs = (s.eng x e).pairs := congrFun (congrFun (congrArg Seats.pairs hs) x) e
  obtain ⟨hrole, hcross, heng, htime, hmem⟩ := roleChange_leaves (u.setCore c ((s.core c).inReset ana)) c
  have hsame : (u.setCore c ((s.core c).inReset ana)).core c = (s.core c).inReset ana := State.core_setCore_same ..
  refine ⟨⟨?_, ?_⟩, ?_, ?_, ?_, ?_, fun x hx => ⟨?_, ?_⟩, fun x e => ?_, htime.trans (congrArg Seats.time hs), hmem.trans (congrArg Seats.mem hs)⟩
  · rw [hrole, hsame]
    rfl
  · rw [hcross, hsame]
    rfl
  · rw [hrole, hsame]
    rfl
  · rw [hrole, hsame]
    rfl
  · rw [hrole, hsame]
    rfl
  · rw [hrole, hsame]
    rfl
  · rw [hrole, State.core_setCore_ne _ _ hx]
    exact congrArg (fun p => p.1) (hcore x)
  · rw [hcross, State.core_setCore_ne _ _ hx]
    exact congrArg (fun p => p.2.1) (hcore x)
  · refine Eq.trans ?_ (hpairs x e)
    unfold State.eng
    rw [heng]
    rfl

/-- The cores of a die in reset, one after the other. -/
theorem coreReset_foldl (l : List Nat) (s : State) : let t := l.foldl State.coreReset s
    (∀ x, x ∈ l → t.InReset x) ∧ (∀ x e, (t.eng x e).pairs = (s.eng x e).pairs) ∧ t.time = s.time := by
  refine ⟨fun x hx => ?_, fun x e => ?_, ?_⟩
  · refine foldl_reaches (P := fun u => u.InReset x) (Q := fun _ => True) (fun _ _ _ => trivial) (fun u c _ hu => ?_)
      (fun u _ => (coreReset_leaves u x).1) hx s trivial
    by_cases hc : x = c
    · subst hc
      exact (coreReset_leaves u x).1
    · obtain ⟨-, -, -, -, -, hother, -⟩ := coreReset_leaves u c
      obtain ⟨h1, h2⟩ := hother x hc
      exact ⟨h1.trans hu.1, h2.trans hu.2⟩
  · refine foldl_leaves (fun u => (u.eng x e).pairs) (fun u c => ?_) l s
    obtain ⟨-, -, -, -, -, -, hpairs, -⟩ := coreReset_leaves u c
    exact hpairs x e
  · refine foldl_leaves State.time (fun u c => ?_) l s
    obtain ⟨-, -, -, -, -, -, -, htime, -⟩ := coreReset_leaves u c
    exact htime

theorem dieReset_leaves (s : State) (d : Nat) : let t := s.dieReset d
    Tab.get false t.pwr.crossings d = false ∧ (∀ x, x ∈ s.coresOn d → (t.core x).seq = Seq.reset ∧ (t.core x).comm.crossing = false) ∧
      (∀ x e, (t.eng x e).pairs = (s.eng x e).pairs) ∧ t.time = s.time := by
  obtain ⟨hreset, hpairs, htime⟩ := coreReset_foldl (s.coresOn d) s
  unfold State.dieReset
  generalize (s.coresOn d).foldl State.coreReset s = u at hreset hpairs htime ⊢
  exact ⟨Tab.get_set_same .., hreset, hpairs, htime⟩

end Sys2Proof.Machine

end

section
/-! RESET_CMD, RESET_N, power-good and crossings that reopen (R302-R306). Settles O54. -/

namespace Sys2Proof.Machine

/-! ## RESET_CMD (Table 11.8) -/

section
variable {s : State} {ses : Ses} {v : Nat}

theorem State.row_resetCommand (s : State) : s.row 0x2200 11 = some (commandRow 4 2 0 (2 ^ 32)) := s.row_resetCmd

theorem stateAllows_reset (s : State) (v : Nat) : s.stateAllows 0x2200 11 v =
    if field v 0 4 = 2 then !s.dieRuns (field v 4 16) else if field v 0 4 = 3 then !s.coreRuns (field v 4 16) else true := rfl

theorem fieldsOk_resetModule (h : field v 0 4 = 1) : s.fieldsOk 0x2200 11 v = true := by simp [State.fieldsOk, h]
theorem fieldsOk_resetDie (h : field v 0 4 = 2) : s.fieldsOk 0x2200 11 v = decide (field v 4 16 < s.part.dies) := by simp [State.fieldsOk, h]
theorem fieldsOk_resetCore (h : field v 0 4 = 3) : s.fieldsOk 0x2200 11 v = s.present (field v 4 16) := by simp [State.fieldsOk, h]

theorem resetCommand_module (h : field v 0 4 = 1) : s.resetCommand v = s.moduleReset 2 := by simp only [State.resetCommand, h]
theorem resetCommand_die (h : field v 0 4 = 2) : s.resetCommand v = s.dieReset (field v 4 16) := by simp only [State.resetCommand, h]
theorem resetCommand_core (h : field v 0 4 = 3) : s.resetCommand v =
    if (s.core (field v 4 16)).state == .off then s else s.coreReset (field v 4 16) := by simp only [State.resetCommand, h]

theorem writeDirect_reset (s : State) (ses : Ses) (v : Nat) : s.writeDirect ses 0x2200 11 v = s.resetCommand v := rfl

theorem hostWrite_reset (h : Served s ses 2) (hv : v < 2 ^ 32) (hallow : s.stateAllows 0x2200 11 v = true) (hfields : s.fieldsOk 0x2200 11 v = true) :
    s.hostWrite ses 0x2200 11 (toLE 4 v) = (s.resetCommand v).giveReply ses ⟨0, []⟩ := by
  have hrange : s.inRange 0x2200 11 v (commandRow 4 2 0 (2 ^ 32)) = true := by
    rw [inRange_command hv hfields rfl, decide_eq_true (show (0 : Int) ≤ v by omega), decide_eq_true (show (v : Int) ≤ 2 ^ 32 by omega)]
    rfl
  rw [State.hostWrite_command s.row_resetCommand (by decide) hv rfl rfl h hallow hrange rfl, writeDirect_reset]

theorem hostWrite_reset_refused (h : Served s ses 2) (hv : v < 2 ^ 32) (hallow : s.stateAllows 0x2200 11 v = false) :
    s.hostWrite ses 0x2200 11 (toLE 4 v) = s.refuse ses 0x2200 11 0x08000022 :=
  State.hostWrite_command_disallowed s.row_resetCommand (by decide) hv rfl rfl h hallow

theorem hostWrite_reset_outOfRange (h : Served s ses 2) (hv : v < 2 ^ 32) (hallow : s.stateAllows 0x2200 11 v = true)
    (hfields : s.fieldsOk 0x2200 11 v = false) : s.hostWrite ses 0x2200 11 (toLE 4 v) = s.refuse ses 0x2200 11 0x06090030 :=
  State.hostWrite_command_outOfRange s.row_resetCommand (by decide) hv rfl rfl h hallow (inRange_command_fields hv hfields)

end

/-- The number of a die or a core, with what is reset. -/
theorem fields_reset {k n : Nat} (hk : k < 16) (hn : n < 65536) : field (k + n * 2 ^ 4) 0 4 = k ∧ field (k + n * 2 ^ 4) 4 16 = n ∧ k + n * 2 ^ 4 < 2 ^ 32 := by
  unfold field
  omega

section
variable {s : State} {ses : Ses} {c d : Nat}

theorem resetCmdModule_resets (h : Served s ses 2) (hp : s.pwr.powerGood = true) : s.ModuleReset (s.hostWrite ses 0x2200 11 (toLE 4 1)) 2 := by
  rw [hostWrite_reset h (by decide) rfl (fieldsOk_resetModule rfl), resetCommand_module rfl]
  have hm := moduleReset_resets hp 2
  generalize s.moduleReset 2 = u at hm ⊢
  exact hm

theorem resetCmdDie_refused (h : Served s ses 2) (hd : d < 65536) (hr : s.dieRuns d = true) :
    s.hostWrite ses 0x2200 11 (toLE 4 (2 + d * 2 ^ 4)) = s.refuse ses 0x2200 11 0x08000022 := by
  obtain ⟨h0, h4, hv⟩ := fields_reset (k := 2) (by decide) hd
  exact hostWrite_reset_refused h hv (by rw [stateAllows_reset, if_pos h0, h4, hr]; rfl)

theorem resetCmdDie_outOfRange (h : Served s ses 2) (hd : d < 65536) (hr : s.dieRuns d = false) (hn : s.part.dies ≤ d) :
    s.hostWrite ses 0x2200 11 (toLE 4 (2 + d * 2 ^ 4)) = s.refuse ses 0x2200 11 0x06090030 := by
  obtain ⟨h0, h4, hv⟩ := fields_reset (k := 2) (by decide) hd
  exact hostWrite_reset_outOfRange h hv (by rw [stateAllows_reset, if_pos h0, h4, hr]; rfl)
    (by rw [fieldsOk_resetDie h0, h4]; exact decide_eq_false (not_lt.mpr hn))

theorem resetCmdDie_resets (h : Served s ses 2) (hd : d < 65536) (hr : s.dieRuns d = false) (hn : d < s.part.dies) :
    s.hostWrite ses 0x2200 11 (toLE 4 (2 + d * 2 ^ 4)) = (s.dieReset d).giveReply ses ⟨0, []⟩ := by
  obtain ⟨h0, h4, hv⟩ := fields_reset (k := 2) (by decide) hd
  rw [hostWrite_reset h hv (by rw [stateAllows_reset, if_pos h0, h4, hr]; rfl) (by rw [fieldsOk_resetDie h0, h4]; exact decide_eq_true hn),
    resetCommand_die h0, h4]

theorem resetCmdCore_refused (h : Served s ses 2) (hc : c < 65536) (hr : s.coreRuns c = true) :
    s.hostWrite ses 0x2200 11 (toLE 4 (3 + c * 2 ^ 4)) = s.refuse ses 0x2200 11 0x08000022 := by
  obtain ⟨h0, h4, hv⟩ := fields_reset (k := 3) (by decide) hc
  exact hostWrite_reset_refused h hv (by rw [stateAllows_reset, h0, h4, hr]; rfl)

theorem resetCmdCore_outOfRange (h : Served s ses 2) (hc : c < 65536) (hr : s.coreRuns c = false) (hn : s.present c = false) :
    s.hostWrite ses 0x2200 11 (toLE 4 (3 + c * 2 ^ 4)) = s.refuse ses 0x2200 11 0x06090030 := by
  obtain ⟨h0, h4, hv⟩ := fields_reset (k := 3) (by decide) hc
  exact hostWrite_reset_outOfRange h hv (by rw [stateAllows_reset, h0, h4, hr]; rfl) (by rw [fieldsOk_resetCore h0, h4, hn])

theorem resetCmdCore_acts (h : Served s ses 2) (hc : c < 65536) (hr : s.coreRuns c = false) (hn : s.present c = true) :
    s.hostWrite ses 0x2200 11 (toLE 4 (3 + c * 2 ^ 4)) = (if (s.core c).state == .off then s else s.coreReset c).giveReply ses ⟨0, []⟩ := by
  obtain ⟨h0, h4, hv⟩ := fields_reset (k := 3) (by decide) hc
  rw [hostWrite_reset h hv (by rw [stateAllows_reset, h0, h4, hr]; rfl) (by rw [fieldsOk_resetCore h0, h4, hn]), resetCommand_core h0, h4]

/-- What a core's reset leaves, its answer given. -/
theorem coreReset_answered (s : State) (ses : Ses) (c : Nat) : let t := (s.coreReset c).giveReply ses ⟨0, []⟩
    (t.core c).seq = Seq.reset ∧ (t.core c).tags = [] ∧ (t.core c).wins = [] ∧
      (t.core c).ctx = (s.core c).ctx ∧ (t.core c).lcore = (s.core c).lcore ∧ (t.core c).comm.crossing = false ∧
      (∀ a, abAddr c 0 ≤ a → a < accAddr c 0 0 0 → Mem.read t.mem a = Mem.read s.mem a) ∧
      (∀ x e, (t.eng x e).pairs = (s.eng x e).pairs) ∧ t.time = s.time := by
  obtain ⟨⟨hseq, hcross⟩, htags, hwins, hctx, hlcore, -, hpairs, htime, hmem⟩ := coreReset_leaves s c
  generalize s.coreReset c = u at hseq hcross htags hwins hctx hlcore hpairs htime hmem ⊢
  refine ⟨hseq, htags, hwins, hctx, hlcore, hcross, fun a _ ha => ?_, hpairs, htime⟩
  show Mem.read u.mem a = Mem.read s.mem a
  rw [hmem]
  exact Mem.read_clear_below _ ha

/-- What a die's reset leaves, its answer given. -/
theorem dieReset_answered (s : State) (ses : Ses) (d : Nat) : let t := (s.dieReset d).giveReply ses ⟨0, []⟩
    Tab.get false t.pwr.crossings d = false ∧ (∀ x, x ∈ s.coresOn d → (t.core x).seq = Seq.reset ∧ (t.core x).comm.crossing = false) ∧
      (∀ x e, (t.eng x e).pairs = (s.eng x e).pairs) ∧ t.time = s.time := by
  have h := dieReset_leaves s d
  dsimp only at h ⊢
  generalize s.dieReset d = u at h ⊢
  exact h

/-! ## Crossings that reopen (R303) -/

theorem reopen_core_off (h : (s.core c).state = .off) : s.reopen (.core c) = s := by
  refine if_pos ?_
  rw [h]
  rfl

theorem stageFlow_idle {s : State} (h : s.stage.install = none) : s.stageFlow = s := by
  unfold State.stageFlow
  rw [h]

theorem reopen_core (h : (s.core c).state = .idle ∨ (s.core c).state = .running) (hs : s.stage.install = none) :
    s.reopen (.core c) = s.modComm c (fun m => { m with crossing := true }) := by
  refine (if_neg ?_).trans (stageFlow_idle (s := s.modComm c (fun m => { m with crossing := true })) hs)
  rcases h with h | h <;> rw [h] <;> exact Bool.false_ne_true

end

/-- Settles O54: the resets of the module, of a die and of a core, then the crossings. -/
theorem resetsReachTheirScope : Obligations.ResetsReachTheirScope := by
  unfold Obligations.ResetsReachTheirScope
  intro s ses c d hc hd module
  have next {t u : State} (h : t = u) : (.next t : Out) = .next u := congrArg Host.Outcome.next h
  refine ⟨fun hp => next (if_pos hp), fun hp => ⟨_, next rfl, ?_⟩, fun hp hst => ⟨_, next rfl, ?_⟩, ⟨_, next rfl, powerGoodDown_leaves s⟩,
    fun hp hw => ⟨_, next (if_neg (by rw [hw]; exact Bool.false_ne_true)), moduleReset_resets hp 1⟩, fun hp => next ?_,
    fun hp hw => ⟨_, next (if_pos hw), wake_leaves hp hw⟩, fun h hp => ⟨_, next rfl, resetCmdModule_resets h hp⟩,
    fun h hr => next (resetCmdDie_refused h hd hr), fun h hr hn => next (resetCmdDie_outOfRange h hd hr hn),
    fun h hr hn => ⟨_, next (resetCmdDie_resets h hd hr hn), dieReset_answered s ses d⟩, fun h hr => next (resetCmdCore_refused h hc hr),
    fun h hr hn => next (resetCmdCore_outOfRange h hc hr hn), fun h hr hn ho => next ?_, fun h hr hn ho => ⟨_, next ?_, coreReset_answered s ses c⟩,
    fun hon => next (if_pos hon), fun hon => next (if_neg (by rw [hon]; exact Bool.false_ne_true)), fun hs => next (if_pos hs),
    fun ho => next (reopen_core_off ho), fun ho hs => next (reopen_core ho hs)⟩
  case refine_1 =>
    obtain ⟨hm, hg, -⟩ := powerGoodUp_resets hp
    exact ⟨hg, hm⟩
  case refine_2 =>
    obtain ⟨-, -, hstatus⟩ := powerGoodUp_resets hp
    rw [hstatus]
    exact restored_status hst
  case refine_3 =>
    have hmodule : s.moduleReset 1 = s := if_neg (by rw [hp]; exact Bool.false_ne_true)
    have hwake : s.wake = s := if_pos (by rw [hp]; simp)
    split
    · exact hwake
    · exact hmodule
  case refine_4 =>
    rw [resetCmdCore_acts h hc hr hn, ho]
    rfl
  case refine_5 =>
    rw [resetCmdCore_acts h hc hr hn, if_neg (by rw [beq_iff_eq]; exact ho)]

end Sys2Proof.Machine

end

section
/-! The NVMe/TCP association: its queues, its commands and its Reads (R191, R192). Settles O28. -/

namespace Sys2Proof.Machine

/-! ## The association set up, torn down, set up again (R192) -/

section
variable {s : State}

theorem Fetch.live_iff (f : Fetch) : f.live = true ↔ f.state = 1 ∨ f.state = 2 := by
  unfold Fetch.live
  rw [Bool.or_eq_true, beq_iff_eq, beq_iff_eq]

theorem Fetch.live_eq_false {f : Fetch} (h : ¬ (f.state = 1 ∨ f.state = 2)) : f.live = false := Bool.eq_false_iff.mpr fun hl => h ((f.live_iff).mp hl)

/-- The association waiting to be set up again. -/
def State.fetchWaits (s : State) : State :=
  { s with fetch := { s.fetch with state := 3, backoff := if s.fetch.backoff = 0 then 1 else min 32 (2 * s.fetch.backoff), since := s.time.up,
                                   out := [], opening := none } }

/-- A termination PDU out. -/
def State.terminated (s : State) : State := { s with fetch := { s.fetch with sent := s.fetch.sent ++ [NvmePdu.termReq] } }

theorem fetchDown_idle (h : s.fetch.live = false) : s.fetchDown = s := if_pos (by rw [h]; rfl)

theorem fetchDown_live (h : s.fetch.live = true) : s.fetchDown = if s.fetch.set.retries ≤ s.fetch.attempts then s.fetchFailed else s.fetchWaits :=
  if_neg (by rw [h]; exact Bool.false_ne_true)

theorem fetchDown_waits (h : s.fetch.live = true) (hr : s.fetch.attempts < s.fetch.set.retries) : s.fetchDown = s.fetchWaits := by
  rw [fetchDown_live h, if_neg (not_le.mpr hr)]

theorem fetchDown_fails (h : s.fetch.live = true) (hr : s.fetch.set.retries ≤ s.fetch.attempts) : s.fetchDown = s.fetchFailed := by
  rw [fetchDown_live h, if_pos hr]

theorem outOfSubset_idle (h : s.fetch.live = false) : s.outOfSubset = s := if_pos (by rw [h]; rfl)

theorem outOfSubset_live (h : s.fetch.live = true) : s.outOfSubset = s.terminated.fetchDown := if_neg (by rw [h]; exact Bool.false_ne_true)

theorem icResp_opening {q : Nat} (h : s.fetch.opening = some q) :
    s.icResp = { s with fetch := ({ s.fetch with opening := none } : Fetch).send s.time.up q 0 (.connect q) } := by
  unfold State.icResp
  rw [h]
  rfl

theorem icResp_none (h : s.fetch.opening = none) : s.icResp = s.outOfSubset := by
  unfold State.icResp
  rw [h]

theorem fetchFailed_install {x : Nat} (h : s.stage.install = some x) :
    s.fetchFailed = ({ s with fetch := { s.fetch with state := 4, out := [], opening := none } }).failInstall x 8 := by
  unfold State.fetchFailed
  dsimp only
  rw [h]
  rfl

theorem keepAlive_due (h : s.fetch.live = true) (hr : 0 < s.fetch.ready) (hk : 500000000 * s.fetch.set.kato ≤ s.time.up - s.fetch.lastKeep) :
    s.keepAlive = { s with fetch := ({ s.fetch with lastKeep := s.time.up } : Fetch).send s.time.up 0 0 .keepAlive } :=
  if_pos (by rw [h, decide_eq_true hr, decide_eq_true hk]; rfl)

theorem keepAlive_idle (h : ¬ (s.fetch.state = 1 ∨ s.fetch.state = 2) ∨ s.fetch.ready = 0 ∨ s.time.up - s.fetch.lastKeep < 500000000 * s.fetch.set.kato) :
    s.keepAlive = s := by
  refine if_neg ?_
  rw [Bool.and_eq_true, Bool.and_eq_true, Fetch.live_iff, decide_eq_true_iff, decide_eq_true_iff]
  rintro ⟨⟨hl, hr⟩, hk⟩
  rcases h with h | h | h
  · exact h hl
  · omega
  · omega

/-! ## Commands and their completions (R192) -/

/-- A command goes out again. -/
def State.fetchAgain (s : State) (o : NvmeOut) : State :=
  { s with fetch := { s.fetch with
    out := s.fetch.out.map (fun x => if x = o then ⟨o.queue, s.fetch.nextCid, o.cmd, s.time.up, o.tries + 1, [], false⟩ else x),
    nextCid := (s.fetch.nextCid + 1) % 65536, sent := s.fetch.sent ++ [.capsule o.queue s.fetch.nextCid (s.fetch.nsOf o.cmd) o.cmd] } }

theorem fetchRetry_again {o : NvmeOut} (h : o.tries < 3) : s.fetchRetry o = s.fetchAgain o := if_neg (not_le.mpr h)
theorem fetchRetry_down {o : NvmeOut} (h : 3 ≤ o.tries) : s.fetchRetry o = s.fetchDown := if_pos h

variable {r : NvmeResp} {o : NvmeOut}

/-- The status of a completion kept. -/
def State.statusKept (s : State) (st : Nat) : State := { s with fetch := { s.fetch with lastStatus := st % 65536 } }

/-- A command's place in the queue given up. -/
def State.commandDone (s : State) (o : NvmeOut) : State := { s with fetch := { s.fetch with out := s.fetch.out.erase o } }

/-- A Read marked as completed. -/
def State.readDone (s : State) (o : NvmeOut) : State :=
  { s with fetch := { s.fetch with out := s.fetch.out.map (fun x => if x = o then { x with done := true } else x) } }

theorem capsuleResp_none (h : s.fetch.command r.queue r.cid = none) : s.capsuleResp r = s.outOfSubset := by
  unfold State.capsuleResp
  rw [h]

theorem capsuleResp_some (h : s.fetch.command r.queue r.cid = some o) : s.capsuleResp r =
    if r.status ≠ 0 then (s.statusKept r.status).fetchRetry o
    else if o.got.length ≠ o.cmd.dataLen then s.fetchRetry o
    else if o.isRead then (((s.readDone o).landReads 124).stageFlow.finishStage).fetchMore
    else (s.commandDone o).fetchNext o r.value := by
  unfold State.capsuleResp
  rw [h]
  rfl

theorem capsuleResp_next (h : s.fetch.command r.queue r.cid = some o) (hs : r.status = 0) (hl : o.got.length = o.cmd.dataLen) (hr : o.isRead = false) :
    s.capsuleResp r = (s.commandDone o).fetchNext o r.value := by
  rw [capsuleResp_some h, if_neg (not_not_intro hs), if_neg (not_not_intro hl), if_neg (by rw [hr]; exact Bool.false_ne_true)]

theorem isRead_false {k : NvmeCmd} (hk : o.cmd = k) (h : ∀ a l n, k ≠ .read a l n) : o.isRead = false := by
  unfold NvmeOut.isRead
  rw [hk]
  cases k with
  | read a l n => exact absurd rfl (h a l n)
  | _ => rfl

/-! ## A Read that lands (R192) -/

theorem out_startFetch (s : State) (f : FetchSet) : (s.startFetch f).fetch.out = [] := rfl

theorem out_beginStage {s : State} (h : s.fetch.out = []) (x : Nat) : (s.beginStage x).fetch.out = [] := by
  unfold State.beginStage
  dsimp only
  generalize (if (s.ctx x).cmd = 2 then 1 - (s.ctx x).imago else 0) = b
  split
  · rfl
  · exact h

theorem out_readPlans {s : State} (h : s.fetch.out = []) (x b : Nat) : (s.readPlans x b).fetch.out = [] := by
  unfold State.readPlans
  dsimp only
  split
  · exact h
  · split
    · rfl
    · exact h

theorem out_freeStage (s : State) : s.freeStage.fetch.out = [] := by
  unfold State.freeStage
  dsimp only
  split
  · exact out_beginStage rfl _
  · split
    · exact out_readPlans rfl ..
    · rfl

theorem out_dropBlock {s : State} (h : s.fetch.out = []) : s.dropBlock.fetch.out = [] := by
  unfold State.dropBlock
  split
  · exact out_freeStage _
  · exact h

theorem out_checkBlock {s : State} (h : s.fetch.out = []) : s.checkBlock.fetch.out = [] := by
  unfold State.checkBlock
  split
  · exact h
  · split
    · exact out_dropBlock h
    · split
      · exact h
      · exact out_dropBlock h

theorem out_landBytes {s : State} (h : s.fetch.out = []) (bs : List Byte) : (s.landBytes bs).fetch.out = [] := by
  unfold State.landBytes
  split
  · split
    · exact h
    · unfold State.blockBytes
      dsimp only
      split
      · exact out_checkBlock rfl
      · exact h
  · split
    · exact h
    · exact h

theorem landReads_none {s : State} (h : s.fetch.out = []) (n : Nat) : s.landReads n = s := by
  cases n with
  | zero => rfl
  | succ n =>
    unfold State.landReads
    rw [h]
    rfl

/-- The only Read outstanding lands. -/
theorem landReads_readDone (hout : s.fetch.out = [o]) (hr : o.isRead = true) (n : Nat) :
    (s.readDone o).landReads (n + 1) = (({ s with fetch := { s.fetch with out := [] } } : State).landBytes o.got) := by
  have hdone : (s.readDone o).fetch.out = [{ o with done := true }] := by
    unfold State.readDone
    rw [hout]
    simp
  have hfind : (s.readDone o).fetch.out.find? NvmeOut.isRead = some { o with done := true } := by
    rw [hdone]
    exact List.find?_cons_of_pos (l := []) (show NvmeOut.isRead { o with done := true } = true from hr)
  have herase : (s.readDone o).fetch.out.erase { o with done := true } = [] := by
    rw [hdone]
    exact List.erase_cons_head ..
  unfold State.landReads
  rw [hfind]
  dsimp only
  rw [if_pos rfl, herase]
  exact landReads_none (out_landBytes rfl _) n

theorem capsuleResp_read (h : s.fetch.command r.queue r.cid = some o) (hs : r.status = 0) (hl : o.got.length = o.cmd.dataLen) (hout : s.fetch.out = [o])
    (hr : o.isRead = true) : s.capsuleResp r =
      ((((({ s with fetch := { s.fetch with out := [] } } : State).landBytes o.got).stageFlow).finishStage).fetchMore) := by
  rw [capsuleResp_some h, if_neg (not_not_intro hs), if_neg (not_not_intro hl), if_pos hr, landReads_readDone hout hr 123]

/-! ## Time-outs -/

theorem fetchTimeout_again (hl : s.fetch.live = true) (ho : s.fetch.opening = none) (hout : s.fetch.out = [o]) (hd : o.done = false)
    (hlate : 1000000 * s.fetch.set.timeout ≤ s.time.up - o.since) (ht : o.tries < 3) : s.fetchTimeout = s.fetchAgain o := by
  have hfind : s.fetch.out.find? (fun o => !o.done && s.fetchLate o.since) = some o := by
    rw [hout]
    refine List.find?_cons_of_pos ?_
    unfold State.fetchLate
    rw [hd, decide_eq_true hlate]
    rfl
  unfold State.fetchTimeout
  rw [if_neg (by rw [hl]; exact Bool.false_ne_true), if_neg (by rw [ho]; exact Bool.false_ne_true), hfind]
  exact fetchRetry_again ht

theorem fetchTimeout_idle (ho : s.fetch.opening = none)
    (h : ∀ o, o ∈ s.fetch.out → o.done = true ∨ s.time.up - o.since < 1000000 * s.fetch.set.timeout) : s.fetchTimeout = s := by
  have hfind : s.fetch.out.find? (fun o => !o.done && s.fetchLate o.since) = none := by
    refine List.find?_eq_none.mpr fun o hm => ?_
    unfold State.fetchLate
    rw [Bool.and_eq_true, Bool.not_eq_true', decide_eq_true_iff]
    rintro ⟨hd, hlate⟩
    rcases h o hm with h | h
    · exact Bool.noConfusion (h.symm.trans hd)
    · omega
  unfold State.fetchTimeout
  rw [ho, hfind]
  split
  · rfl
  · rfl

/-! ## Where a Read reads (R192) -/

theorem fetchLba_image (h : s.stage.block = none) (p : Nat) : s.fetchLba p = s.fetch.set.startLba + p / s.fetch.lbaSize := by
  unfold State.fetchLba
  rw [h]
  dsimp only
  rw [Nat.zero_add]

theorem fetchLba_block {b : BlockReq} {n : Block} (h : s.stage.block = some b) (hn : ((s.ctx b.ctx).bank b.bank).blocks[b.idx]? = some n) (p : Nat) :
    s.fetchLba p = s.fetch.set.startLba + (((s.ctx b.ctx).bank b.bank).payloadOff + n.payload * 65536 + p) / s.fetch.lbaSize := by
  unfold State.fetchLba
  rw [h]
  dsimp only
  rw [hn]
  rfl

theorem maxRead_identify (hc : o.cmd = .identify 1) (v : Nat) : (s.fetchNext o v).fetch.maxRead ≤ 131072 := by
  unfold State.fetchNext
  rw [hc]
  show (if mdts o.got = 0 then 131072 else min 131072 (s.fetch.maxRead * 2 ^ mdts o.got)) ≤ 131072
  split
  · exact le_refl _
  · exact min_le_left ..

end

/-- Settles O28: the association, its commands and completions, then where a Read reads. -/
theorem imagesAreFetched : Obligations.ImagesAreFetched := by
  unfold Obligations.ImagesAreFetched
  have next {t u : State} (h : t = u) : (.next t : Out) = .next u := congrArg Host.Outcome.next h
  refine ⟨?_, ?_, ?_⟩
  · intro s f up term down live
    have hlive (h : live) : s.fetch.live = true := (s.fetch.live_iff).mpr h
    refine ⟨fun q hq => next (icResp_opening hq), fun ho => next (icResp_none ho), fun h hr => ⟨?_, ?_, ?_⟩, fun h hr => ⟨?_, ?_, ?_⟩,
      fun h => ⟨?_, ?_, ?_⟩, fun x hx => fetchFailed_install hx, fun h3 hb => next (if_pos ⟨h3, hb⟩), fun h => next (if_neg ?_),
      fun h hr hk => next (keepAlive_due (hlive h) hr hk), fun h => next (keepAlive_idle h)⟩
    · exact next (fetchDown_waits (hlive h) hr)
    · exact next (fetchDown_waits (hlive h) hr)
    · exact next ((outOfSubset_live (hlive h)).trans (fetchDown_waits (s := s.terminated) (hlive h) hr))
    · exact next (fetchDown_fails (hlive h) hr)
    · exact next (fetchDown_fails (hlive h) hr)
    · exact next ((outOfSubset_live (hlive h)).trans (fetchDown_fails (s := s.terminated) (hlive h) hr))
    · exact next (fetchDown_idle (Fetch.live_eq_false h))
    · exact next (outOfSubset_idle (Fetch.live_eq_false h))
    · exact next (fetchDown_idle (Fetch.live_eq_false h))
    · rintro ⟨h3, hb⟩
      rcases h with h | h
      · exact h h3
      · exact absurd hb (not_le.mpr h)
  · intro s r f up again kept gone
    refine ⟨fun h => next (capsuleResp_none h), fun o ho => ⟨fun hs ht => next ?_, fun hs ht => next ?_, fun hs hl ht => next ?_,
      fun hs hl => ⟨fun hc => next ?_, fun q hc hq => next ?_, fun q hc hq => next ?_, fun hc => next ?_, fun hc hb => next ?_,
        fun hout hr _ => next (capsuleResp_read ho hs hl hout hr)⟩,
      fun hl hop hout hd hlate ht => next (fetchTimeout_again ((s.fetch.live_iff).mpr hl) hop hout hd hlate ht)⟩,
      fun hop h => next (fetchTimeout_idle hop h)⟩
    · rw [capsuleResp_some ho, if_pos hs, fetchRetry_again ht]
      rfl
    · rw [capsuleResp_some ho, if_pos hs, fetchRetry_down ht]
      rfl
    · rw [capsuleResp_some ho, if_neg (not_not_intro hs), if_pos hl, fetchRetry_again ht]
      rfl
    · rw [capsuleResp_next ho hs hl (isRead_false hc fun _ _ _ => NvmeCmd.noConfusion)]
      unfold State.fetchNext
      rw [hc]
      rfl
    · rw [capsuleResp_next ho hs hl (isRead_false hc fun _ _ _ => NvmeCmd.noConfusion)]
      unfold State.fetchNext
      rw [hc]
      dsimp only
      rw [if_neg (Nat.succ_ne_zero q), if_neg (Nat.succ_ne_zero q)]
      exact if_pos hq
    · rw [capsuleResp_next ho hs hl (isRead_false hc fun _ _ _ => NvmeCmd.noConfusion)]
      unfold State.fetchNext
      rw [hc]
      dsimp only
      rw [if_neg (Nat.succ_ne_zero q), if_neg (Nat.succ_ne_zero q)]
      exact if_neg (not_lt.mpr hq)
    · rw [capsuleResp_next ho hs hl (isRead_false hc fun _ _ _ => NvmeCmd.noConfusion)]
      unfold State.fetchNext
      rw [hc]
      rfl
    · rw [capsuleResp_next ho hs hl (isRead_false hc fun _ _ _ => NvmeCmd.noConfusion)]
      unfold State.fetchNext
      rw [hc]
      dsimp only
      rw [hb]
      rfl
  · intro s p
    refine ⟨fun h => fetchLba_image h p, fun b n hb hn => fetchLba_block hb hn p, min_le_left .., fun r o t ho hc hs hl ht => ?_⟩
    have hlen : o.got.length = o.cmd.dataLen := by
      rw [hc]
      exact hl
    have heq := Host.Outcome.next.inj ht
    rw [← heq, capsuleResp_next ho hs hlen (isRead_false hc fun _ _ _ => NvmeCmd.noConfusion)]
    exact maxRead_identify hc _

end Sys2Proof.Machine

end

section
/-! Image bytes into staging: C2HData, the PCIe push, single blocks (R191-R194). Settles O29. -/

namespace Sys2Proof.Machine

/-! ## The ring of the image (R189) -/

/-- Bytes written one by one at places given for each. -/
def Mem.writeAt (m : Mem) (place : Nat → Nat) (bs : List (Byte × Nat)) : Mem := bs.foldl (fun m b => Mem.write m (place b.2) b.1) m

theorem Mem.wf_writeAt {m : Mem} (place : Nat → Nat) (bs : List (Byte × Nat)) (h : Mem.wf m = true) : Mem.wf (Mem.writeAt m place bs) = true := by
  induction bs generalizing m with
  | nil => exact h
  | cons b bs ih => exact ih (Mem.wf_write _ _ h)

/-- A place that no byte goes to reads as before. -/
theorem Mem.read_writeAt_other {m : Mem} (place : Nat → Nat) (bs : List (Byte × Nat)) (h : Mem.wf m = true) {x : Nat} (hx : ∀ b ∈ bs, place b.2 ≠ x) :
    Mem.read (Mem.writeAt m place bs) x = Mem.read m x := by
  induction bs generalizing m with
  | nil => rfl
  | cons b bs ih =>
    refine (ih (Mem.wf_write _ _ h) fun c hc => hx c (List.mem_cons_of_mem _ hc)).trans ?_
    rw [Mem.read_write _ _ _ h, if_neg (Ne.symm (hx b List.mem_cons_self))]

/-- Of bytes that go to different places each reads as written. -/
theorem Mem.read_writeAt {m : Mem} (place : Nat → Nat) (bs : List Byte) (k : Nat) (h : Mem.wf m = true)
    (hinj : ∀ i j, i < j → j < bs.length → place (k + i) ≠ place (k + j)) {i : Nat} (hi : i < bs.length) :
    Mem.read (Mem.writeAt m place (bs.zipIdx k)) (place (k + i)) = bs.getD i 0 := by
  induction bs generalizing m k i with
  | nil => exact absurd hi (Nat.not_lt_zero i)
  | cons b bs ih =>
    rw [List.zipIdx_cons]
    cases i with
    | zero =>
      refine (Mem.read_writeAt_other place (bs.zipIdx (k + 1)) (Mem.wf_write _ _ h) fun c hc => ?_).trans ?_
      · obtain ⟨hle, hlt, -⟩ := List.mem_zipIdx hc
        have hne := hinj 0 (c.2 - k) (by omega) (by rw [List.length_cons]; omega)
        rw [show k + (c.2 - k) = c.2 by omega] at hne
        exact Ne.symm hne
      · rw [Nat.add_zero, Mem.read_write _ _ _ h, if_pos rfl]
        rfl
    | succ i =>
      have hlen : i < bs.length := Nat.lt_of_succ_lt_succ hi
      have hstep := ih (m := Mem.write m (place k) b) (k + 1) (Mem.wf_write _ _ h) (fun i j hij hj => by
        have := hinj (i + 1) (j + 1) (by omega) (by rw [List.length_cons]; omega)
        rwa [show k + (i + 1) = k + 1 + i by omega, show k + (j + 1) = k + 1 + j by omega] at this) hlen
      rw [show k + (i + 1) = k + 1 + i by omega, List.getD_cons_succ]
      exact hstep

theorem mem_stageBytes (s : State) (bs : List Byte) :
    (s.stageBytes bs).mem = Mem.writeAt s.mem (fun j => s.stage.addr (s.stage.bytes + j)) (bs.zipIdx 0) := rfl

/-- The bytes of the stream lie in the ring, one behind the other. -/
theorem read_stageBytes {s : State} {bs : List Byte} {i : Nat} (hi : i < bs.length) (hring : bs.length ≤ s.stage.slots * 65536) (hm : s.memOk = true) :
    Mem.read (s.stageBytes bs).mem ((s.stage.bytes + i) % (s.stage.slots * 65536)) = bs.getD i 0 := by
  rw [mem_stageBytes]
  have h := Mem.read_writeAt (m := s.mem) (fun j => s.stage.addr (s.stage.bytes + j)) bs 0 (State.mem_wf hm) (fun i j hij hj heq => ?_) hi
  · rw [Nat.zero_add] at h
    exact h
  · rw [Nat.zero_add, Nat.zero_add] at heq
    have hmod : (s.stage.bytes + i) ≡ (s.stage.bytes + j) [MOD s.stage.slots * 65536] := heq
    have hij' := (Nat.ModEq.add_left_cancel' _ hmod).eq_of_lt_of_lt (by omega) (by omega)
    omega

section
variable {s : State} {bs : List Byte}

theorem landBytes_image {x : Nat} (hb : s.stage.block = none) (hx : s.stage.install = some x) :
    s.landBytes bs = s.stageBytes (bs.take (min s.stage.room (if s.stage.staged = true then s.stage.totalLen - s.stage.bytes else bs.length))) := by
  unfold State.landBytes
  rw [hb]
  dsimp only
  rw [hx]
  rfl

theorem landBytes_block {b : BlockReq} (hb : s.stage.block = some b) (hr : b.ready = false) : s.landBytes bs = s.blockBytes b bs := by
  unfold State.landBytes
  rw [hb]
  exact if_neg (by rw [hr]; exact Bool.false_ne_true)

/-! ## C2HData (R191) -/

variable {d : NvmeData} {o : NvmeOut}

theorem c2hData_idle (h : s.fetch.live = false) (ok : Bool) : s.c2hData d ok = s := if_pos (by rw [h]; rfl)

theorem c2hData_digest (h : s.fetch.live = true) : s.c2hData d false = (s.bump 0x2701 5).fetchDown :=
  (if_neg (by rw [h]; exact Bool.false_ne_true)).trans (if_pos rfl)

theorem c2hData_none (h : s.fetch.live = true) (hc : s.fetch.command d.queue d.cid = none) : s.c2hData d true = s.outOfSubset := by
  unfold State.c2hData
  rw [if_neg (by rw [h]; exact Bool.false_ne_true), if_neg (by exact Bool.false_ne_true), hc]

theorem c2hData_some (h : s.fetch.live = true) (hc : s.fetch.command d.queue d.cid = some o) : s.c2hData d true =
    if o.cmd.dataLen < o.got.length + d.bytes.length then s.outOfSubset
    else { s with fetch := { s.fetch with out := s.fetch.out.map (fun x => if x = o then { x with got := x.got ++ d.bytes } else x) } } := by
  unfold State.c2hData
  rw [if_neg (by rw [h]; exact Bool.false_ne_true), if_neg (by exact Bool.false_ne_true), hc]

/-! ## The PCIe push (R193) -/

variable {x v : Nat}

theorem pushTail_unread (h : s.stage.install = none ∨ s.stage.source ≠ 1) : s.pushTail v = { s with stage := { s.stage with tail := v } } := by
  unfold State.pushTail
  split
  · rfl
  · next hx =>
    refine if_pos (h.resolve_left fun hn => ?_)
    rw [hn] at hx
    cases hx

theorem pushTail_push (hx : s.stage.install = some x) (hs : s.stage.source = 1) : s.pushTail v =
    if v < s.stage.tail then s.failInstall x resFormat
    else
      let u : State := { s with stage := { s.stage with tail := v, bytes := v } }
      if u.pastImage v then u.failInstall x resFormat else u.stageFlow.finishStage := by
  unfold State.pushTail
  rw [hx]
  exact if_neg (not_not_intro hs)

theorem pastImage_staged (h : s.stage.staged = true) : s.pastImage v = true ↔ s.stage.totalLen < v := by
  unfold State.pastImage
  dsimp only
  rw [if_pos h, decide_eq_true_iff]

/-! ## Single blocks (R194) -/

variable {b : BlockReq} {k : Block} {idx : Nat} {ses : Ses}

theorem blockReady_other (hb : s.stage.block = some b) (hi : b.idx ≠ idx) : s.blockReady idx = s := by
  unfold State.blockReady
  rw [hb]
  refine if_pos ?_
  rw [Bool.or_eq_true, Bool.or_eq_true, bne_iff_ne]
  exact .inl (.inr hi)

/-- The wanted block of the PCIe host is complete in slot 0. -/
def State.blockPlaced (s : State) (b : BlockReq) : State := { s with stage := { s.stage with block := some { b with bytes := payloadLen } } }

theorem blockReady_placed (hb : s.stage.block = some b) (hr : b.ready = false) (hs : ((s.ctx b.ctx).bank b.bank).source = 1) (hi : b.idx = idx) :
    s.blockReady idx = (s.blockPlaced b).checkBlock := by
  unfold State.blockReady
  rw [hb]
  refine if_neg ?_
  rw [hr, hs, hi]
  simp

theorem checkBlock_placed (hk : ((s.ctx b.ctx).bank b.bank).blocks[b.idx]? = some k) : (s.blockPlaced b).checkBlock =
    if s.payloadCrc 0 = k.crc && s.payloadOk 0 k.wfmt then
      { s with stage := { s.stage with block := some { b with bytes := payloadLen, ready := true }, want := 0 } }
    else ({ s with stage := { s.stage with block := none, want := 0 } } : State).freeStage := by
  have hk' : (((s.blockPlaced b).ctx b.ctx).bank b.bank).blocks[b.idx]? = some k := hk
  have hblock : (s.blockPlaced b).stage.block = some { b with bytes := payloadLen } := rfl
  unfold State.checkBlock
  rw [hblock]
  dsimp only
  rw [hk']
  rfl

theorem State.row_blockReadyCommand (s : State) : s.row 0x2720 2 = some (commandRow 4 2 0 (2 ^ 32)) := s.row_blockReady

theorem hostWrite_blockReady (h : Served s ses 2) (hi : idx < 2 ^ 32) :
    s.hostWrite ses 0x2720 2 (toLE 4 idx) = (s.blockReady idx).giveReply ses ⟨0, []⟩ := by
  have hrange : s.inRange 0x2720 2 idx (commandRow 4 2 0 (2 ^ 32)) = true := by
    rw [inRange_command hi rfl rfl, decide_eq_true (show (0 : Int) ≤ idx by omega), decide_eq_true (show (idx : Int) ≤ 2 ^ 32 by omega)]
    rfl
  rw [State.hostWrite_command s.row_blockReadyCommand (by decide) hi rfl rfl h rfl hrange rfl]
  rfl

end

/-- Settles O29: the image's bytes by C2HData and by the push, then a single block. -/
theorem imageBytesAreWritten : Obligations.ImageBytesAreWritten := by
  unfold Obligations.ImageBytesAreWritten
  have next {t u : State} (h : t = u) : (.next t : Out) = .next u := congrArg Host.Outcome.next h
  refine ⟨?_, ?_⟩
  · intro s x v d bs f live
    have hlive (h : live) : s.fetch.live = true := (s.fetch.live_iff).mpr h
    refine ⟨fun h => ⟨next (c2hData_idle (Fetch.live_eq_false h) _), next (c2hData_idle (Fetch.live_eq_false h) _)⟩, fun h => next (c2hData_digest (hlive h)),
      fun h hc => next (c2hData_none (hlive h) hc), fun o h hc => ⟨fun hl => next ?_, fun hl => next ?_⟩, landBytes_image, fun b => landBytes_block, rfl,
      fun i => read_stageBytes, fun h => next (pushTail_unread h), fun hx hs hv => next ?_, fun hx hs hv => ?_⟩
    · exact (c2hData_some (hlive h) hc).trans (if_neg (not_lt.mpr hl))
    · exact (c2hData_some (hlive h) hc).trans (if_pos hl)
    · exact (pushTail_push hx hs).trans (if_pos hv)
    · have hpush := (pushTail_push (v := v) hx hs).trans (if_neg (not_lt.mpr hv))
      refine ⟨fun hp => next (hpush.trans (if_pos hp)), fun hp => next (hpush.trans (if_neg (by rw [hp]; exact Bool.false_ne_true))),
        fun hst => pastImage_staged (s := { s with stage := { s.stage with tail := v, bytes := v } }) hst⟩
  · intro s ses idx b h hi hb hr hs
    have hwrite := hostWrite_blockReady h hi
    refine ⟨fun hne => next ?_, fun heq k hk => ?_⟩
    · rw [hwrite, blockReady_other hb hne]
    · subst heq
      rw [blockReady_placed hb hr hs rfl, checkBlock_placed hk] at hwrite
      refine ⟨fun hcrc hok => next ?_, fun hbad => next ?_⟩
      · refine hwrite.trans (congrArg (fun u : State => u.giveReply ses ⟨0, []⟩) (if_pos ?_))
        rw [hok, Bool.and_true]
        exact decide_eq_true hcrc
      · refine hwrite.trans (congrArg (fun u : State => u.giveReply ses ⟨0, []⟩) (if_neg ?_))
        rw [Bool.and_eq_true, decide_eq_true_iff]
        rintro ⟨hcrc, hok⟩
        rcases hbad with hn | hn
        · exact hn hcrc
        · exact Bool.noConfusion (hn.symm.trans hok)

end Sys2Proof.Machine

end

section
/-! Surveys and repair slices, the damper, column repair (R85-R92, R95, R128, R205). Settles O22. -/

namespace Sys2Proof.Machine

/-! ## The damper leaves the rest alone (R205) -/

/-- Only the damper and counters differ. -/
def OnlyDamper (s t : State) : Prop := t = { s with damper := t.damper, counters := t.counters }

theorem OnlyDamper.eq {s t : State} (h : OnlyDamper s t) : t = { s with damper := t.damper, counters := t.counters } := h

theorem OnlyDamper.trans {s t u : State} (h : OnlyDamper s t) (k : OnlyDamper t u) : OnlyDamper s u :=
  k.eq.trans (congrArg (fun x : State => { x with damper := u.damper, counters := u.counters }) h.eq :)

section
variable {s t : State} (h : OnlyDamper s t)
include h

theorem OnlyDamper.eng (c e : Nat) : t.eng c e = s.eng c e := (congrArg (fun x : State => x.eng c e) h.eq :)
theorem OnlyDamper.cores : t.cores = s.cores := (congrArg State.cores h.eq :)
theorem OnlyDamper.mem : t.mem = s.mem := (congrArg State.mem h.eq :)
theorem OnlyDamper.net : t.net = s.net := (congrArg State.net h.eq :)
theorem OnlyDamper.draws : t.draws = s.draws := (congrArg State.draws h.eq :)

end

section
variable (s : State)

theorem onlyDamper_markBudget : OnlyDamper s s.markBudget := by
  unfold State.markBudget
  split
  · split <;> exact rfl
  · split <;> exact rfl

theorem markBudget_leaves : let d := s.markBudget.damper
    d.now = s.damper.now ∧ d.stokes = s.damper.stokes ∧ d.granted = s.damper.granted ∧ s.markBudget.counters = s.counters := by
  unfold State.markBudget
  dsimp only
  split
  · split <;> exact ⟨rfl, rfl, rfl, rfl⟩
  · split <;> exact ⟨rfl, rfl, rfl, rfl⟩

theorem onlyDamper_damperWon (key : Nat) (ready : List Nat) : OnlyDamper s (s.damperWon key ready) := by
  unfold State.damperWon
  split <;> exact rfl

theorem damperWon_leaves (key : Nat) (ready : List Nat) : let d := (s.damperWon key ready).damper
    d.now = s.damper.now ∧ d.stokes = s.damper.stokes ∧ d.granted = s.damper.granted := by
  unfold State.damperWon
  dsimp only
  split <;> exact ⟨rfl, rfl, rfl⟩

/-- An arbitration won by a slice that was given pulses. -/
def State.sliceWon (s : State) (c e given : Nat) : State :=
  if given = 0 then s else s.damperWon (engKey c e) (engKey c e :: s.ready.filter (· != engKey c e))

theorem onlyDamper_sliceWon (c e given : Nat) : OnlyDamper s (s.sliceWon c e given) := by
  unfold State.sliceWon
  split
  · exact rfl
  · exact onlyDamper_damperWon ..

/-- The slices that wait, with this one or without. -/
def State.sliceWaits (s : State) (key : Nat) (stokes : List Nat) (lost : Bool) : State :=
  { s with damper := { s.damper with
      stokes := if lost then stokes.filter (· != key) ++ [key] else stokes.filter (· != key)
      losses := if lost then Tab.set s.damper.losses key (Tab.get 0 s.damper.losses key + 1) else s.damper.losses } }

theorem sliceAsked_eq (c e given : Nat) (done : Bool) : s.sliceAsked c e given done =
    ((s.sliceWon c e given).sliceWaits (engKey c e) s.damper.stokes (given == 0 && !done)).markBudget := rfl

theorem sliceWon_now (c e given : Nat) : (s.sliceWon c e given).damper.now = s.damper.now := by
  unfold State.sliceWon
  split
  · rfl
  · exact (damperWon_leaves ..).1

theorem mem_sliceWaits (key : Nat) (stokes : List Nat) (lost : Bool) : key ∈ (s.sliceWaits key stokes lost).damper.stokes ↔ lost = true := by
  unfold State.sliceWaits
  cases lost <;> simp

/-- What asking the damper for a slice leaves. -/
theorem sliceAsked_leaves (c e given : Nat) (done : Bool) : OnlyDamper s (s.sliceAsked c e given done) ∧
    (s.sliceAsked c e given done).damper.now = s.damper.now ∧
    (engKey c e ∈ (s.sliceAsked c e given done).damper.stokes ↔ given = 0 ∧ done = false) := by
  rw [sliceAsked_eq]
  have hw := onlyDamper_sliceWon s c e given
  have hnow := sliceWon_now s c e given
  generalize s.sliceWon c e given = u at hw hnow ⊢
  obtain ⟨h1, h2, -, -⟩ := markBudget_leaves (u.sliceWaits (engKey c e) s.damper.stokes (given == 0 && !done))
  refine ⟨hw.trans (OnlyDamper.trans (t := u.sliceWaits (engKey c e) s.damper.stokes (given == 0 && !done)) rfl (onlyDamper_markBudget _)),
    h1.trans hnow, ?_⟩
  rw [h2, mem_sliceWaits, Bool.and_eq_true, beq_iff_eq, Bool.not_eq_true']

end

/-! ## Surveys (R86, R88) -/

section
variable {s : State} {c e b : Nat}

theorem surveySlice_idle (h : s.stokable c e = false ∨ s.surveyTurn c e b = false) : s.surveySlice c e b = s := by
  refine if_pos ?_
  rcases h with h | h <;> rw [h] <;> simp

theorem surveySlice_surveys (h : s.stokable c e = true) (hb : b < 16) (ht : s.surveyTurn c e b = true) : s.surveySlice c e b =
    (s.setEng c e { s.eng c e with stoke := (s.eng c e).stoke.after b s.time.up s.time.gtc (s.surveyFinds c e b) }).drawN
      (64 * (s.eng c e).stokedCols.length) :=
  if_neg (by rw [h, ht]; simp; omega)

theorem mem_surveyFinds {k : Nat} (h : k ∈ s.surveyFinds c e b) : k ∉ (s.eng c e).stoke.flagged ∧ Tab.find (s.eng c e).stuck k = none ∧
    ∃ n, outOfTol (s.eng c e).te ((s.eng c e).level k) (deviceCode (s.eng c e) (s.cond c e) k (s.draws + n)) (s.cfg 0x2800 2) = true := by
  unfold State.surveyFinds at h
  dsimp only at h
  obtain ⟨hm, hk⟩ := List.mem_filter.mp h
  obtain ⟨d, hd, rfl⟩ := List.mem_map.mp hm
  obtain ⟨-, hout⟩ := List.mem_filter.mp hd
  rw [Bool.and_eq_true, Bool.not_eq_true', Bool.not_eq_true', Option.isSome_eq_false_iff, Option.isNone_iff_eq_none] at hk
  exact ⟨fun hf => Bool.noConfusion (hk.1.symm.trans (List.contains_iff_mem.mpr hf)), hk.2, d.2, hout⟩

theorem surveyOverdue_eq : s.surveyOverdue c e b =
    if !s.stoked c e || decide (16 ≤ b) || !s.periodOver (some (match Tab.find (s.eng c e).stoke.lastAt b with | some t => t | none => (s.eng c e).prog.2))
      (s.cfg 0x2800 3) then s
    else s.setEng c e { s.eng c e with stoke := { (s.eng c e).stoke with
      overdue := if (s.eng c e).stoke.overdue.contains b then (s.eng c e).stoke.overdue else (s.eng c e).stoke.overdue ++ [b] } } := rfl

/-! ## Repair slices (R86, R87) -/

theorem pulsed_frame (g : Engine) (key now : Nat) (got : Tab Nat) (ks : List Nat) : g.pulsed key now got ks =
    { g with progs := (g.pulsed key now got ks).progs, misses := (g.pulsed key now got ks).misses } := by
  unfold Engine.pulsed
  induction ks generalizing g with
  | nil => rfl
  | cons k ks ih => exact ih _

/-- The stoking record after a repair slice of a block. -/
def Stoke.sliced (t : Stoke) (b : Nat) (z : Slice) : Stoke :=
  let mine := fun (k : Nat) => devRow k / 64 == b
  { t with
    flagged := t.flagged.filter (fun k => !mine k) ++ z.left
    pulses := (t.flagged.filter mine).foldl (fun t k => if z.left.contains k then Tab.set t k (Tab.get 0 z.job.pulses k) else Tab.erase t k) t.pulses
    repaired := if z.left.isEmpty && !t.repaired.contains b then t.repaired ++ [b] else t.repaired }

/-- The flagged devices of a block that a slice gave pulses. -/
def Stoke.hit (t : Stoke) (b : Nat) (z : Slice) : List Nat :=
  (t.flagged.filter (fun k => devRow k / 64 == b)).filter (fun k => Tab.get 0 z.job.pulses k != Tab.get 0 t.pulses k)

/-- The engine after a repair slice of a block. -/
def Engine.sliced (g : Engine) (now b : Nat) (z : Slice) : Engine :=
  let h := { (g.pulsed z.job.key now z.job.got (g.stoke.hit b z)) with stoke := g.stoke.sliced b z }
  if (g.stoke.hit b z).isEmpty then h else h.resum

theorem Engine.resum_leaves (g : Engine) : g.resum.stoke = g.stoke ∧ g.resum.pairs = g.pairs ∧ g.resum.stuck = g.stuck := by
  unfold Engine.resum
  generalize g.sumStore = sums
  generalize g.achievedDigest = digest
  exact ⟨rfl, rfl, rfl⟩

theorem Engine.sliced_leaves (g : Engine) (now b : Nat) (z : Slice) :
    (g.sliced now b z).stoke = g.stoke.sliced b z ∧ (g.sliced now b z).pairs = g.pairs ∧ (g.sliced now b z).stuck = g.stuck := by
  obtain ⟨h, hh⟩ : ∃ h, h = { g.pulsed z.job.key now z.job.got (g.stoke.hit b z) with stoke := g.stoke.sliced b z } := ⟨_, rfl⟩
  have hp : h.stoke = g.stoke.sliced b z ∧ h.pairs = g.pairs ∧ h.stuck = g.stuck := by
    rw [hh, pulsed_frame]
    exact ⟨rfl, rfl, rfl⟩
  unfold Engine.sliced
  rw [← hh]
  dsimp only
  obtain ⟨hstoke, hpairs, hstuck⟩ := h.resum_leaves
  split
  · exact hp
  · exact ⟨hstoke.trans hp.1, hpairs.trans hp.2.1, hstuck.trans hp.2.2⟩

/-- The slice over a block of an engine. -/
def State.blockSlice (s : State) (c e b : Nat) : Slice :=
  s.sliceOf c e (s.sliceRoom c e) ((s.eng c e).stoke.flagged.filter (fun k => devRow k / 64 == b))

/-- Devices that a slice brought to their end. -/
def Stoke.fixed (t : Stoke) (b : Nat) (z : Slice) : Nat :=
  ((t.hit b z).filter (fun k => !z.left.contains k && !(Tab.find z.job.stuck k).isSome)).length

/-- A slice ended, before stuck devices are told. -/
def State.sliceEnded (s : State) (c e b : Nat) (z : Slice) : State :=
  ((((s.setEng c e ((s.eng c e).sliced s.time.up b z)).drawN (z.draws - s.draws)).sliceAsked c e z.given z.left.isEmpty).bumpBy 0x2710 5 z.given).bumpBy 0x2801 7
    ((s.eng c e).stoke.fixed b z)

theorem repairSlice_idle (h : s.stokable c e = false) : s.repairSlice c e b = s := if_pos (by rw [h]; rfl)

theorem repairSlice_eq (h : s.stokable c e = true) (hb : b < 8) : s.repairSlice c e b =
    (s.blockSlice c e b).job.stuck.foldl (fun s d => s.stuckDevice c e d.1 d.2) (s.sliceEnded c e b (s.blockSlice c e b)) := by
  unfold State.repairSlice State.blockSlice State.sliceEnded Stoke.fixed Engine.sliced Stoke.hit Stoke.sliced
  refine (if_neg (by rw [h]; simp; omega)).trans ?_
  dsimp only

theorem repairSlice_repairs (h : s.stokable c e = true) (hb : b < 8) (hs : (s.blockSlice c e b).job.stuck = []) :
    s.repairSlice c e b = s.sliceEnded c e b (s.blockSlice c e b) := by
  rw [repairSlice_eq h hb, hs, List.foldl_nil]

theorem sliceEnded_leaves (s : State) (c e b : Nat) (z : Slice) : let t := s.sliceEnded c e b z
    (t.eng c e).stoke = (s.eng c e).stoke.sliced b z ∧ (t.eng c e).pairs = (s.eng c e).pairs ∧ (t.eng c e).stuck = (s.eng c e).stuck ∧
    (engKey c e ∈ t.damper.stokes ↔ z.left ≠ [] ∧ z.given = 0) ∧ t.damper.now = s.damper.now ∧ t.draws = s.draws + (z.draws - s.draws) ∧
    t.cores = s.cores ∧ t.mem = s.mem ∧ t.net = s.net := by
  obtain ⟨hstoke, hpairs, hstuck⟩ := (s.eng c e).sliced_leaves s.time.up b z
  unfold State.sliceEnded
  generalize (s.eng c e).sliced s.time.up b z = g at hstoke hpairs hstuck ⊢
  obtain ⟨hd, hnow, hwait⟩ := sliceAsked_leaves ((s.setEng c e g).drawN (z.draws - s.draws)) c e z.given z.left.isEmpty
  have heng : (((s.setEng c e g).drawN (z.draws - s.draws)).sliceAsked c e z.given z.left.isEmpty).eng c e = g.since (s.eng c e) :=
    (hd.eng c e).trans (State.eng_setEng_same ..)
  have hcores := hd.cores
  have hmem := hd.mem
  have hnet := hd.net
  have hdraws := hd.draws
  generalize ((s.setEng c e g).drawN (z.draws - s.draws)).sliceAsked c e z.given z.left.isEmpty = u at hnow hwait heng hcores hmem hnet hdraws ⊢
  have heng' : ((u.bumpBy 0x2710 5 z.given).bumpBy 0x2801 7 ((s.eng c e).stoke.fixed b z)).eng c e = g.since (s.eng c e) := heng
  dsimp only
  rw [heng', Engine.since_frame]
  refine ⟨hstoke, hpairs, hstuck, hwait.trans ?_, hnow, hdraws, hcores, hmem, hnet⟩
  rw [List.isEmpty_eq_false_iff, and_comm]

theorem Stoke.sliced_done {t : Stoke} {z : Slice} (h : z.left = []) (b : Nat) : b ∈ (t.sliced b z).repaired := by
  unfold Stoke.sliced
  dsimp only
  rw [h]
  by_cases hb : b ∈ t.repaired
  · simp [hb]
  · simp [hb]

theorem Stoke.sliced_left {t : Stoke} {z : Slice} (h : z.left ≠ []) (b : Nat) : (t.sliced b z).repaired = t.repaired := by
  refine if_neg ?_
  rw [List.isEmpty_eq_false_iff.mpr h]
  exact Bool.false_ne_true

/-- With nothing flagged in the block a slice gives no pulse. -/
theorem blockSlice_none (h : ∀ k ∈ (s.eng c e).stoke.flagged, devRow k / 64 ≠ b) :
    (s.blockSlice c e b).left = [] ∧ (s.blockSlice c e b).job.stuck = [] ∧ (s.blockSlice c e b).draws = s.draws + 1 := by
  have hf : (s.eng c e).stoke.flagged.filter (fun k => devRow k / 64 == b) = [] :=
    List.filter_eq_nil_iff.mpr fun k hk => by rw [beq_iff_eq]; exact h k hk
  unfold State.blockSlice
  rw [hf]
  exact ⟨rfl, rfl, rfl⟩

theorem Stoke.sliced_none {t : Stoke} {z : Slice} (h : ∀ k ∈ t.flagged, devRow k / 64 ≠ b) (hz : z.left = []) : (t.sliced b z).flagged = t.flagged := by
  show t.flagged.filter (fun k => !(devRow k / 64 == b)) ++ z.left = t.flagged
  rw [hz, List.append_nil]
  exact List.filter_eq_self.mpr fun k hk => by simpa using h k hk

/-- What a survey of a block in its turn leaves. -/
theorem surveySlice_leaves (h : s.stokable c e = true) (hb : b < 16) (ht : s.surveyTurn c e b = true) : let t := s.surveySlice c e b
    (t.eng c e).stoke = (s.eng c e).stoke.after b s.time.up s.time.gtc (s.surveyFinds c e b) ∧ (t.eng c e).pairs = (s.eng c e).pairs ∧
    t.cores = s.cores ∧ t.mem = s.mem := by
  rw [surveySlice_surveys h hb ht]
  generalize 64 * (s.eng c e).stokedCols.length = n
  generalize (s.eng c e).stoke.after b s.time.up s.time.gtc (s.surveyFinds c e b) = st
  have he : ((s.setEng c e { s.eng c e with stoke := st }).drawN n).eng c e = ({ s.eng c e with stoke := st } : Engine).since (s.eng c e) :=
    State.eng_setEng_same ..
  dsimp only
  rw [he, Engine.since_frame]
  exact ⟨rfl, rfl, rfl, rfl⟩

/-- When a block was last surveyed, or its engine programmed. -/
def Engine.surveyedAt (g : Engine) (b : Nat) : Nat := match Tab.find g.stoke.lastAt b with | some t => t | none => g.prog.2

theorem surveyOverdue_late (h : s.stoked c e = true) (hb : b < 16) (hn : b ∉ (s.eng c e).stoke.overdue)
    (hl : 1000000000 * s.cfg 0x2800 3 ≤ s.time.up - (s.eng c e).surveyedAt b) : s.surveyOverdue c e b =
      s.modEng c e (fun g => { g with stoke := { g.stoke with overdue := g.stoke.overdue ++ [b] } }) := by
  have hp : s.periodOver (some ((s.eng c e).surveyedAt b)) (s.cfg 0x2800 3) = true := decide_eq_true hl
  have hi : (if (s.eng c e).stoke.overdue.contains b then (s.eng c e).stoke.overdue else (s.eng c e).stoke.overdue ++ [b]) =
      (s.eng c e).stoke.overdue ++ [b] := if_neg (by rw [List.contains_iff_mem]; exact hn)
  refine surveyOverdue_eq.trans ((if_neg ?_).trans (congrArg (fun l => s.setEng c e
    { s.eng c e with stoke := { (s.eng c e).stoke with overdue := l } }) hi))
  unfold Engine.surveyedAt at hp
  rw [h, hp]
  simp; omega

theorem surveyOverdue_early (hl : s.time.up - (s.eng c e).surveyedAt b < 1000000000 * s.cfg 0x2800 3) : s.surveyOverdue c e b = s := by
  have hp : s.periodOver (some ((s.eng c e).surveyedAt b)) (s.cfg 0x2800 3) = false := decide_eq_false (by omega)
  refine surveyOverdue_eq.trans (if_pos ?_)
  unfold Engine.surveyedAt at hp
  rw [hp]
  simp

end

end Sys2Proof.Machine

end

section
/-! The damper and column repair (R24, R92, R95, R128, R204, R205). Settles O22. -/

namespace Sys2Proof.Machine

/-! ## Whose turn it is (R128) -/

theorem lowest_eq_some {k : Nat} {l : List Nat} (h : lowest l = some k) : k ∈ l ∧ ∀ x ∈ l, k ≤ x := by
  induction l generalizing k with
  | nil => cases h
  | cons a l ih =>
    unfold lowest at h
    cases hl : lowest l with
    | none =>
      have hnil : l = [] := by
        cases l with
        | nil => rfl
        | cons b l =>
          unfold lowest at hl
          split at hl <;> cases hl
      rw [hl] at h
      cases h
      simp [hnil]
    | some m =>
      rw [hl] at h
      cases h
      obtain ⟨hm, hle⟩ := ih hl
      refine ⟨?_, ?_⟩
      · rcases Nat.le_total a m with ham | ham
        · rw [Nat.min_eq_left ham]
          exact List.mem_cons_self
        · rw [Nat.min_eq_right ham]
          exact List.mem_cons_of_mem _ hm
      · intro x hx
        rcases List.mem_cons.mp hx with rfl | hx
        · exact Nat.min_le_left ..
        · exact (Nat.min_le_right ..).trans (hle x hx)

theorem mem_of_turnAmong {losses : Tab Nat} {ready : List Nat} {k : Nat} (h : turnAmong losses ready = some k) : k ∈ ready := by
  unfold turnAmong at h
  split at h
  next l hl =>
    cases h
    exact (List.mem_filter.mp (lowest_eq_some hl).1).1
  · exact (lowest_eq_some h).1

/-- Where none has lost 16 arbitrations, the lowest key has its turn. -/
theorem turnAmong_lowest {losses : Tab Nat} {ready : List Nat} {k : Nat} (h : turnAmong losses ready = some k)
    (hl : ∀ x ∈ ready, Tab.get 0 losses x < 16) : ∀ x ∈ ready, k ≤ x := by
  have hnone : ready.filter (fun k => decide (16 ≤ Tab.get 0 losses k)) = [] :=
    List.filter_eq_nil_iff.mpr fun x hx => by
      have := hl x hx
      rw [decide_eq_true_iff]
      omega
  unfold turnAmong at h
  rw [hnone] at h
  exact (lowest_eq_some h).2

section
variable {s : State}

theorem mem_ready {k : Nat} : k ∈ s.ready ↔ (k ∈ s.damper.waiting.map (·.1) ∧ s.fits k = true) ∨ (k ∈ s.damper.stokes ∧ s.sliceFits k = true) := by
  unfold State.ready
  rw [List.mem_append, List.mem_filter, List.mem_filter]

/-- A group that has its turn fits the budget, and the programming rail is there (R205). -/
theorem fits_of_turn {key i : Nat} (ha : s.asks key = some i) (h : s.damperTurn = some key) :
    s.damper.railOk = true ∧ s.damper.now + i ≤ s.damperLimit := by
  have hf : s.fits key = true := by
    rcases mem_ready.mp (mem_of_turnAmong h) with ⟨-, hf⟩ | ⟨-, hf⟩
    · exact hf
    · unfold State.sliceFits at hf
      rw [ha] at hf
      simp at hf
  unfold State.fits at hf
  rw [ha] at hf
  simpa using hf

end

/-! ## Grants (R205) -/

/-- A group waits, from now on where it did not yet. -/
def State.groupWaits (s : State) (key : Nat) : State :=
  if (Tab.find s.damper.waiting key).isSome then s
  else { s with damper := { s.damper with waiting := Tab.set s.damper.waiting key s.time.up } }

/-- The waiting groups, as they are when one more has been asked for. -/
theorem groupWaits_frame (s : State) (key : Nat) :
    s.groupWaits key = { s with damper := { s.damper with waiting := (s.groupWaits key).damper.waiting } } := by
  unfold State.groupWaits
  split <;> rfl

theorem onlyDamper_groupWaits (s : State) (key : Nat) : OnlyDamper s (s.groupWaits key) := by
  rw [groupWaits_frame]
  exact rfl

theorem groupWaits_now (s : State) (key : Nat) : (s.groupWaits key).damper.now = s.damper.now := by
  rw [groupWaits_frame]

/-- A waiting group that has its turn fits the budget of the state it was asked in. -/
theorem groupWaits_fits {s : State} {key i : Nat} (ha : s.asks key = some i) (h : (s.groupWaits key).damperTurn = some key) :
    s.damper.railOk = true ∧ s.damper.now + i ≤ s.damperLimit := by
  have hz := groupWaits_frame s key
  generalize s.groupWaits key = z at hz h
  rw [hz] at h
  exact fits_of_turn (s := { s with damper := { s.damper with waiting := z.damper.waiting } }) ha h

section
variable {s : State} {c e : Nat} {j : ProgJob}

/-- The group of an engine is granted: it takes its current. -/
def State.groupGranted (s : State) (c e i : Nat) (g : Engine) (j : ProgJob) : State :=
  let s := (s.damperWon (engKey c e) s.ready).bumpBy 0x2710 5 (j.group g).length
  let s := s.setEng c e { g with job := some { j with granted := true } }
  ({ s with damper := { s.damper with now := s.damper.now + i, granted := Tab.set s.damper.granted (engKey c e) i,
                                      waiting := Tab.erase s.damper.waiting (engKey c e) } }).markBudget

theorem damperGrant_none (h : s.asks (engKey c e) = none) : s.damperGrant c e = s := by
  unfold State.damperGrant
  dsimp only
  rw [h]
  split
  next h' => cases h'
  · rfl

theorem damperGrant_waits {i : Nat} (hj : (s.eng c e).job = some j) (hp : s.paused = false) (ha : s.asks (engKey c e) = some i)
    (ht : (s.groupWaits (engKey c e)).damperTurn ≠ some (engKey c e)) : s.damperGrant c e = (s.groupWaits (engKey c e)).markBudget := by
  unfold State.damperGrant
  dsimp only
  rw [hj, ha]
  refine (if_neg (Bool.eq_false_iff.mp hp)).trans ?_
  exact if_pos ht

theorem damperGrant_grants {i : Nat} (hj : (s.eng c e).job = some j) (hp : s.paused = false) (ha : s.asks (engKey c e) = some i)
    (ht : (s.groupWaits (engKey c e)).damperTurn = some (engKey c e)) :
    s.damperGrant c e = (s.groupWaits (engKey c e)).groupGranted c e i (s.eng c e) j := by
  unfold State.damperGrant
  dsimp only
  rw [hj, ha]
  refine (if_neg (Bool.eq_false_iff.mp hp)).trans ?_
  refine (if_neg (not_not_intro ht)).trans ?_
  rfl

theorem groupGranted_leaves (s : State) (c e i : Nat) (g : Engine) (j : ProgJob) : let t := s.groupGranted c e i g j
    t.damper.now = s.damper.now + i ∧ Tab.find t.damper.granted (engKey c e) = some i ∧ (t.eng c e).job = some { j with granted := true } ∧
    t.cores = s.cores ∧ t.mem = s.mem := by
  obtain ⟨hnow, -, -⟩ := damperWon_leaves s (engKey c e) s.ready
  have hw := onlyDamper_damperWon s (engKey c e) s.ready
  have hcores := hw.cores
  have hmem := hw.mem
  unfold State.groupGranted
  generalize s.damperWon (engKey c e) s.ready = u at hnow hcores hmem ⊢
  generalize (j.group g).length = n
  dsimp only
  generalize hv : ({ ((u.bumpBy 0x2710 5 n).setEng c e { g with job := some { j with granted := true } }) with damper := _ } : State) = v
  have hd : v.damper.now = u.damper.now + i ∧ v.damper.granted = Tab.set u.damper.granted (engKey c e) i := by
    rw [← hv]
    exact ⟨rfl, rfl⟩
  have he : v.eng c e = ({ g with job := some { j with granted := true } } : Engine).since (u.eng c e) := by
    rw [← hv]
    exact State.eng_setEng_same ..
  have hvc : v.cores = u.cores ∧ v.mem = u.mem := by
    rw [← hv]
    exact ⟨rfl, rfl⟩
  obtain ⟨h1, -, h3, -⟩ := markBudget_leaves v
  have hb := onlyDamper_markBudget v
  rw [h1, h3, hb.eng, hb.cores, hb.mem, hd.1, hd.2, he, Engine.since_frame, hvc.1, hvc.2]
  exact ⟨congrArg (· + i) hnow, Tab.find_set_same .., rfl, hcores, hmem⟩

/-! ## Pulse groups (R24, R204) -/

theorem afterPulse_use (j : ProgJob) (g : Engine) (te tol k : Nat) (code : Int) :
    (j.afterPulse g te tol k code).goal = j.goal ∧ (j.afterPulse g te tol k code).use = j.use := by
  unfold ProgJob.afterPulse
  dsimp only
  repeat' split
  all_goals exact ⟨rfl, rfl⟩

theorem nextStep_use (j : ProgJob) (g : Engine) : (j.nextStep g).goal = j.goal ∧ (j.nextStep g).use = j.use := by
  unfold ProgJob.nextStep
  dsimp only
  repeat' split
  all_goals exact ⟨rfl, rfl⟩

/-- A pulse group changes neither what a job is to reach nor what it is for. -/
theorem pulse_use (j : ProgJob) (g : Engine) (eng te tol draw : Nat) (ks : List Nat) :
    (j.pulse g eng te tol draw ks).goal = j.goal ∧ (j.pulse g eng te tol draw ks).use = j.use := by
  unfold ProgJob.pulse
  generalize ks.zipIdx = l
  refine And.imp (nextStep_use _ g).1.trans (nextStep_use _ g).2.trans ?_
  induction l generalizing j with
  | nil => exact ⟨rfl, rfl⟩
  | cons k l ih =>
    obtain ⟨hg, hu⟩ := afterPulse_use j g te tol k.1 (verifyCode eng j.key k.1 (draw + k.2))
    exact And.imp (·.trans hg) (·.trans hu) (ih _)

theorem pulseGroup_idle (hj : (s.eng c e).job = some j) (h : j.granted = false ∨ s.engBusy c e = true) : s.pulseGroup c e = s := by
  unfold State.pulseGroup
  dsimp only
  rw [hj]
  refine if_pos ?_
  rcases h with h | h <;> rw [h] <;> simp

/-- The job after its granted group. -/
def State.pulsed (s : State) (c e : Nat) (j : ProgJob) : ProgJob :=
  { j.pulse (s.eng c e) (engKey c e) (j.te (s.eng c e)) (s.cfg 0x2710 3) s.draws (j.group (s.eng c e)) with granted := false }

theorem pulseGroup_pulses (hj : (s.eng c e).job = some j) (hg : j.granted = true) (hb : s.engBusy c e = false) : s.pulseGroup c e =
    ((s.setEng c e { s.eng c e with job := some (s.pulsed c e j) }).drawN (j.group (s.eng c e)).length).damperFree (engKey c e) := by
  unfold State.pulseGroup
  dsimp only
  rw [hj]
  refine (if_neg ?_).trans rfl
  rw [hg, hb]
  exact Bool.false_ne_true

theorem damperFree_leaves (s : State) (key : Nat) : OnlyDamper s (s.damperFree key) ∧
    (s.damperFree key).damper.now = s.damper.now - Tab.get 0 s.damper.granted key ∧ (s.damperFree key).counters = s.counters := by
  unfold State.damperFree
  generalize hu : ({ s with damper := _ } : State) = u
  obtain ⟨h1, -, -, h4⟩ := markBudget_leaves u
  refine ⟨OnlyDamper.trans (t := u) ?_ (onlyDamper_markBudget u), h1.trans ?_, h4.trans ?_⟩
  all_goals rw [← hu]
  exact rfl

theorem pulseGroup_leaves (hj : (s.eng c e).job = some j) (hg : j.granted = true) (hb : s.engBusy c e = false) : let t := s.pulseGroup c e
    t.damper.now = s.damper.now - Tab.get 0 s.damper.granted (engKey c e) ∧ t.draws = s.draws + (j.group (s.eng c e)).length ∧
    (t.eng c e).job = some (s.pulsed c e j) ∧ (t.eng c e).pairs = (s.eng c e).pairs ∧ t.cores = s.cores ∧ t.mem = s.mem ∧
    t.counters = s.counters := by
  rw [pulseGroup_pulses hj hg hb]
  generalize s.pulsed c e j = j'
  generalize (j.group (s.eng c e)).length = n
  obtain ⟨hd, hnow, hcount⟩ := damperFree_leaves ((s.setEng c e { s.eng c e with job := some j' }).drawN n) (engKey c e)
  have he : ((s.setEng c e { s.eng c e with job := some j' }).drawN n).eng c e = ({ s.eng c e with job := some j' } : Engine).since (s.eng c e) :=
    State.eng_setEng_same ..
  dsimp only
  rw [hnow, hcount, hd.eng, hd.cores, hd.mem, hd.draws, he, Engine.since_frame]
  exact ⟨rfl, rfl, rfl, rfl, rfl, rfl, rfl⟩

/-! ## Column repair (R92, R95) -/

/-- Column repair may look at the engine's column. -/
structure State.RepairsColumn (s : State) (c e col : Nat) : Prop where
  running : s.paused = false
  compute : isSentinel c = false
  serving : (s.eng c e).serving = true
  free : (s.eng c e).job = none
  logical : col < 128
  own : (s.eng c e).phys col = col

/-- A column is due, or waits since it was. -/
def State.columnAwaits (s : State) (c e col : Nat) : Prop := s.columnDue (s.eng c e) col = true ∨ (c, e, 4 * col) ∈ s.svc.retireWait

section
variable {col : Nat}

theorem columnRepair_idle (hd : s.columnDue (s.eng c e) col = false) (hw : (c, e, 4 * col) ∉ s.svc.retireWait) : s.columnRepair c e col = s := by
  refine if_pos ?_
  have hw' : s.svc.retireWait.contains (c, e, 4 * col) = false := by simpa using hw
  rw [hd, hw']
  simp

variable (h : s.RepairsColumn c e col) (hw : s.columnAwaits c e col)
include h hw

/-- None of the guards of a column repair holds. -/
theorem repairsColumn_guard : ¬ (s.paused || isSentinel c || !(s.eng c e).serving || (s.eng c e).job.isSome || decide (128 ≤ col) ||
    (s.eng c e).phys col != col || !(s.columnDue (s.eng c e) col || s.svc.retireWait.contains (c, e, 4 * col))) = true := by
  obtain ⟨h1, h2, h3, h4, h5, h6⟩ := h
  have hw' : (s.columnDue (s.eng c e) col || s.svc.retireWait.contains (c, e, 4 * col)) = true := by
    rcases hw with hw | hw
    · rw [hw, Bool.true_or]
    · rw [List.contains_iff_mem.mpr hw, Bool.or_true]
  rw [h1, h2, h3, h4, h6, hw', decide_eq_false (by omega : ¬ 128 ≤ col)]
  simp

theorem columnRepair_none (hf : (s.eng c e).regs.freeRepair = none) : s.columnRepair c e col =
    (s.setEng c e { s.eng c e with
      noRepair := if (s.eng c e).noRepair.contains col then (s.eng c e).noRepair else (s.eng c e).noRepair ++ [col],
      repairSched := (s.eng c e).repairSched.erase col }).endWait c e (4 * col) := by
  refine (if_neg (repairsColumn_guard h hw)).trans ?_
  rw [hf]

theorem columnRepair_asks {k x bank l idx : Nat} (hf : (s.eng c e).regs.freeRepair = some k) (ho : (s.eng c e).owner = some (x, bank, l))
    (hi : ((s.ctx x).bank bank).indexOf c e = some idx) (hb : s.blockHere x bank idx = false) :
    s.columnRepair c e col = (s.wantBlock x bank idx).waitAction c e (4 * col) 0 := by
  refine (if_neg (repairsColumn_guard h hw)).trans ?_
  rw [hf, ho]
  dsimp only
  rw [hi]
  exact if_neg (by rw [hb]; exact Bool.false_ne_true)

/-- The code that a repair column takes of a row. -/
def State.columnCode (s : State) (c e col r : Nat) : Int :=
  s.payloadCode 0 (s.eng c e).wfmt r (if (s.eng c e).wfmt = 0 then col else col / 2)

theorem columnRepair_starts {k x bank l idx : Nat} (hf : (s.eng c e).regs.freeRepair = some k) (ho : (s.eng c e).owner = some (x, bank, l))
    (hi : ((s.ctx x).bank bank).indexOf c e = some idx) (hb : s.blockHere x bank idx = true) :
    s.columnRepair c e col = ((s.startColumn c e k col (s.columnCode c e col)).useBlock c e).endWait c e (4 * col) := by
  refine (if_neg (repairsColumn_guard h hw)).trans ?_
  rw [hf, ho]
  dsimp only
  rw [hi]
  exact if_pos hb

end

/-- The lowest free repair column is the first whose fields name no column (R50). -/
theorem freeRepair_lowest {g : EngRegs} {k : Nat} (h : g.freeRepair = some k) :
    ∀ r, r < k → repairUsed g.repair r = true ∨ repairUsed g.repairStaged r = true := by
  intro r hr
  obtain ⟨-, -, hlt⟩ := List.find?_range_eq_some.mp h
  have := hlt r hr
  rw [Bool.not_eq_true', Bool.and_eq_false_iff, Bool.not_eq_false', Bool.not_eq_false'] at this
  exact this

/-- The job that programs a repair column from these codes. -/
def State.columnJob (s : State) (c e k col : Nat) (code : Nat → Int) : ProgJob :=
  let g := s.eng c e
  let put := (List.range 512).foldl (fun h r => h.putPair r (132 + k) (halfCode g.wfmt col (code r))) g
  { key := s.draws, step := 1, wfmt := g.wfmt, goal := put.pairs, goalStuck := put.stuck,
    pending := allDevices.filter (fun d => devCol d == 132 + k && !(Tab.find g.stuck d).isSome), later := [], overs := [], pulses := [],
    stuck := [], got := [], granted := false, use := .column k col }

theorem startColumn_eq (s : State) (c e k col : Nat) (code : Nat → Int) : s.startColumn c e k col code =
    (s.setEng c e { s.eng c e with job := some (s.columnJob c e k col code) }).draw := rfl

theorem mem_allDevices {d : Nat} : d ∈ allDevices ↔ d < 512 * 272 := List.mem_range

/-- The devices to be reset are those of the repair column that are not stuck. -/
theorem mem_columnJob_pending (s : State) (c e k col : Nat) (code : Nat → Int) (d : Nat) : d ∈ (s.columnJob c e k col code).pending ↔
    d < 512 * 272 ∧ devCol d = 132 + k ∧ Tab.find (s.eng c e).stuck d = none := by
  unfold State.columnJob
  rw [List.mem_filter, mem_allDevices, Bool.and_eq_true, beq_iff_eq, Bool.not_eq_true', Option.isSome_eq_false_iff, Option.isNone_iff_eq_none]

theorem startColumn_leaves (s : State) (c e k col kind : Nat) (code : Nat → Int) :
    let t := ((s.startColumn c e k col code).useBlock c e).endWait c e kind
    (t.eng c e).job = some (s.columnJob c e k col code) ∧ (t.eng c e).regs = (s.eng c e).regs ∧ t.mem = s.mem ∧ t.cores = s.cores := by
  rw [startColumn_eq]
  generalize s.columnJob c e k col code = j
  have he : ((((s.setEng c e { s.eng c e with job := some j }).draw).useBlock c e).endWait c e kind).eng c e =
      ({ s.eng c e with job := some j } : Engine).since (s.eng c e) := State.eng_setEng_same ..
  dsimp only
  rw [he, Engine.since_frame]
  exact ⟨rfl, rfl, rfl, rfl⟩

end

/-- Settles O22: surveys and repair slices by what they leave of the stoking record, the damper by whose turn it is, and column repair by
the job it begins. -/
theorem stokingDamperRepairs : Obligations.StokingDamperRepairs := by
  unfold Obligations.StokingDamperRepairs
  have next {t u : State} (h : t = u) : (.next t : Out) = .next u := congrArg Host.Outcome.next h
  refine ⟨fun s c e b => ?_, fun s c e i j hj => ?_, fun s c e col hp hs hv hj hc ho => ?_⟩
  · refine ⟨fun h => ⟨next (surveySlice_idle (.inl h)), next (repairSlice_idle h)⟩, fun h => next (surveySlice_idle (.inr h)),
      fun h hb ht => ?_, fun h hb hz => ?_, fun h hb hn => ?_, fun h hb hn => ⟨fun hl => ?_, fun hl => ?_⟩⟩
    · obtain ⟨hst, hpairs, hcores, hmem⟩ := surveySlice_leaves h hb ht
      refine ⟨_, rfl, congrArg Stoke.flagged hst, fun k hk => mem_surveyFinds hk, congrArg Stoke.urgent hst, congrArg Stoke.overdue hst,
        (congrArg (fun t : Stoke => Tab.find t.lastAt b) hst).trans (Tab.find_set_same ..), hpairs, hcores, hmem⟩
    · obtain ⟨hst, hpairs, hstuck, hwait, hnow, -, hcores, hmem, hnet⟩ := sliceEnded_leaves s c e b (s.blockSlice c e b)
      refine ⟨_, next (repairSlice_repairs h hb hz), congrArg Stoke.flagged hst, fun hl => ?_, fun hl => ?_, hwait, hnow, hpairs, hstuck,
        hcores, hmem, hnet⟩
      · rw [hst]
        exact Stoke.sliced_done hl b
      · rw [hst]
        exact Stoke.sliced_left hl b
    · obtain ⟨hl, hz, hdraws⟩ := blockSlice_none hn
      obtain ⟨hst, hpairs, -, -, hnow, hd, hcores, hmem, -⟩ := sliceEnded_leaves s c e b (s.blockSlice c e b)
      refine ⟨_, next (repairSlice_repairs h hb hz), ?_, ?_, hpairs, ?_, hnow, hcores, hmem⟩
      · rw [hst]
        exact Stoke.sliced_none hn hl
      · rw [hst]
        exact Stoke.sliced_done hl b
      · rw [hd, hdraws]
        omega
    · exact next (surveyOverdue_late h hb hn hl)
    · exact next (surveyOverdue_early hl)
  · refine ⟨fun hp ha ht => ?_, fun hp ha ht => next (damperGrant_waits hj hp ha ht), fun ha => next (damperGrant_none ha),
      fun ht hl => turnAmong_lowest ht hl, fun k => mem_ready, fun hg hb => ?_, fun h => next (pulseGroup_idle hj h)⟩
    · obtain ⟨hrail, hfit⟩ := groupWaits_fits ha ht
      obtain ⟨hnow, hgr, hjob, hcores, hmem⟩ := groupGranted_leaves (s.groupWaits (engKey c e)) c e i (s.eng c e) j
      have hz := onlyDamper_groupWaits s (engKey c e)
      have hnow' := hnow.trans (congrArg (· + i) (groupWaits_now s (engKey c e)))
      exact ⟨_, next (damperGrant_grants hj hp ha ht), hnow', hnow'.trans_le hfit, hrail, hgr, hjob, hcores.trans hz.cores, hmem.trans hz.mem⟩
    · obtain ⟨hnow, hdraws, hjob, hpairs, hcores, hmem, hcount⟩ := pulseGroup_leaves hj hg hb
      obtain ⟨hgoal, huse⟩ := pulse_use j (s.eng c e) (engKey c e) (j.te (s.eng c e)) (s.cfg 0x2710 3) s.draws (j.group (s.eng c e))
      exact ⟨_, rfl, hnow, hdraws, ⟨_, hjob, rfl, hgoal, huse⟩, hpairs, hcores, hmem, hcount⟩
  · have h : s.RepairsColumn c e col := ⟨hp, hs, hv, hj, hc, ho⟩
    refine ⟨fun hd hw => next (columnRepair_idle hd hw), fun hw => ⟨fun hf => next (columnRepair_none h hw hf), fun k x bank l idx hf how hi => ?_⟩⟩
    refine ⟨freeRepair_lowest hf, fun hb => next (columnRepair_asks h hw hf how hi hb), fun hb => ?_⟩
    obtain ⟨hjob, hregs, hmem, hcores⟩ := startColumn_leaves s c e k col (4 * col) (s.columnCode c e col)
    exact ⟨_, _, next (columnRepair_starts h hw hf how hi hb), hjob, rfl, rfl, rfl, fun d => mem_columnJob_pending .., hregs, hmem, hcores⟩

end Sys2Proof.Machine

end

section
/-! The switch of a core replacement and what it counts (R127, R303, R319). Refutes O32. -/

namespace Sys2Proof.Machine

/-! ## A new core whose crossing is closed and whose die has the number 0xA00 -/

/-- The first core of die 0xA00. -/
def farCore : Nat := 368640

/-- A plan without instructions and preload, kept for the first core of context 0. -/
def barePlan : StoredPlan := ⟨0, 0, 0, ⟨0, 0, 0, 0, 0, 0, 0, 0, 0, 0, [], [], [], []⟩, [], 0, [], false⟩

/-- Core 0 of context 0 is at rest, and its place on die 0 is to be taken by the far core. -/
def switchToFar : State :=
  { State.reset with
    cores := [(0, { Core.reset with state := .idle, ctx := some 0 })]
    keep := { State.reset.keep with plans := [barePlan] }
    svc := { State.reset.svc with replace := [(0, { Replace.reset with state := 2, old := 0, new := farCore })] } }

theorem switchToFar_bump : (switchToFar.bump 0x2C10 6).count 0x2C10 6 = 1 := by rfl

/-- The new core in the place of the old one, before the old one is reset. -/
def State.seated (s : State) (x o n : Nat) (map : Tab Nat) : State :=
  let s := s.copyCore o n map
  let s := s.modCtx x (fun k => { k with cores := k.cores.map (fun c => if c = o then n else c), bank0 := k.bank0.moved o n map, bank1 := k.bank1.moved o n map })
  let s := ((s.moveOwners o n map).rebuild x o n).modComm n (fun m => { m with epoch := nextEpoch m.epoch })
  let s := ((s.modComm o (fun m => { m with epoch := nextEpoch m.epoch })).movePeers o n).announceEpoch n
  { s with net := { s.net with frames := s.net.frames.map (fun (f : FrameMsg) => f.moved o n (s.core n).comm.epoch) } }

/-- The old core reset, and the replacement over. -/
def State.relieved (s : State) (d o n cause : Nat) : State :=
  let s := ((s.retireCore o).record (coreSource o) 0x001A [o + n * 65536, cause]).bump 0x2C10 6
  (s.modReplace d (fun q => { Replace.reset with queue := q.queue })).endWait o 0 3

theorem replaceSwitch_eq {s : State} {d x : Nat} (hr : (s.replace d).state = 2) (hx : (s.core (s.replace d).old).ctx = some x)
    (hh : s.heldAt (s.replace d).old (s.replace d).e = true) (hu : s.unmoved x (s.replace d) = []) :
    s.replaceSwitch d = (s.seated x (s.replace d).old (s.replace d).new (s.replace d).map).relieved d (s.replace d).old (s.replace d).new
      (s.replace d).cause := by
  unfold State.replaceSwitch
  dsimp only
  rw [hx]
  dsimp only
  rw [if_neg (by rw [hh, hr]; simp), hu]
  rfl

/-- What a switch has counted is one more than it had when the old core was to be reset. -/
theorem count_relieved (s : State) (d o n cause : Nat) : (s.relieved d o n cause).count 0x2C10 6 = (s.bump 0x2C10 6).count 0x2C10 6 := by
  have hframe : (s.retireCore o).part = s.part ∧ (s.retireCore o).sets = s.sets ∧ (s.retireCore o).counters = s.counters := by
    unfold State.retireCore
    dsimp only
    split <;> exact ⟨rfl, rfl, rfl⟩
  obtain ⟨hpart, hsets, hcounters⟩ := hframe
  unfold State.relieved
  generalize s.retireCore o = u at hpart hsets hcounters ⊢
  have hv : u = { u with part := s.part, sets := s.sets, counters := s.counters } := by
    rw [← hpart, ← hsets, ← hcounters]
  rw [hv]
  rfl

theorem count_seated_far : ((switchToFar.seated 0 0 farCore []).bump 0x2C10 6).count 0x2C10 6 = 4 := by
  rfl

/-- Refutes O32: where the new core's number is not bounded, a write of its plan that is dropped at its closed crossing is counted in the
counter of the die it lies on, and die 0xA00 has that of the replacements: the switch then counts more than one. -/
theorem not_contextsAndCoresGoOn : ¬ Obligations.ContextsAndCoresGoOn := by
  unfold Obligations.ContextsAndCoresGoOn
  intro h
  obtain ⟨-, hcores⟩ := h
  obtain ⟨-, -, -, -, -, -, -, hswitch⟩ := hcores switchToFar 0 (by decide)
  obtain ⟨t, ht, -, -, -, -, -, -, -, -, -, -, hcount⟩ := hswitch 0 rfl rfl rfl rfl (by decide) rfl (by decide) (by decide)
  have hs := Host.Outcome.next.inj (ht : (.next (switchToFar.replaceSwitch 0) : Out) = .next t)
  rw [replaceSwitch_eq (x := 0) rfl rfl rfl rfl] at hs
  rw [← hs, count_relieved] at hcount
  exact absurd (count_seated_far.symm.trans (hcount.trans switchToFar_bump)) (by decide)

end Sys2Proof.Machine

end
